-- ==== Sys2Proof/Word.lean ====
section
/-! DEFINITION. The machine's word types and their plainest arithmetic (R2 to R9, R14). -/
namespace Sys2Proof

/-- A sequencer register, a control register, an address: 64 bits (R14). -/
abbrev Word := BitVec 64

/-- The smallest addressable unit of memory (R3). -/
abbrev Byte := BitVec 8

/-- The payload of a token: 64 bytes, byte 0 least significant (R3, R20). -/
abbrev Payload := BitVec 512

/-- A register number, g0 to g31 (R226). -/
abbrev Reg := Fin 32

/-- A cause code: 10 bits (R1, R404). -/
abbrev Cause := BitVec 10

/-- `bits(v, h, l)` of R9 for a word, as a number. -/
def bitsOf (v : Word) (h l : Nat) : Nat := (v.toNat >>> l) % 2 ^ (h + 1 - l)

/-- One bit of a word. -/
def bitOf (v : Word) (i : Nat) : Bool := v.getLsbD i

/-- Every bit of `v` from `h` down to `l` is zero. -/
def zeroBits (v : Word) (h l : Nat) : Bool := bitsOf v h l == 0

/-- `v` with its bits `h:l` replaced by `x` (cut to the field). -/
def withBits (v : Word) (h l : Nat) (x : Nat) : Word :=
  let w := h + 1 - l
  BitVec.ofNat 64 (v.toNat - (bitsOf v h l) * 2 ^ l + (x % 2 ^ w) * 2 ^ l)

/-- `sext(v, n)` of R9: the low `n` bits of `v`, sign-extended to 64. -/
def sextN (v : Word) (n : Nat) : Word :=
  if n = 0 then 0 else if 64 ≤ n then v
  else if v.getLsbD (n - 1) then BitVec.ofNat 64 (v.toNat % 2 ^ n + (2 ^ 64 - 2 ^ n))
  else BitVec.ofNat 64 (v.toNat % 2 ^ n)

/-- `zext(v, n)` of R9: the low `n` bits of `v`, zero-extended to 64. -/
def zextN (v : Word) (n : Nat) : Word := BitVec.ofNat 64 (v.toNat % 2 ^ n)

end Sys2Proof
end

