-- ==== Sys2Proof/Machine/Causes.lean ====
section
/-! DEFINITION. The cause codes of the spec's cause tables (R27, R60, R93, R120, R161, R194, R224, R243, R274, R311, R346, R375,
R402, R435, R468). Code 0 is no cause. -/
namespace Sys2Proof.Cause

/-- ILLOP (R227). -/
abbrev illop : Cause := 0x001#10
/-- ILLFN (R228, R232, R233, R234). -/
abbrev illfn : Cause := 0x002#10
/-- ILLFLD (R226, R229, R232, R234). -/
abbrev illfld : Cause := 0x003#10
/-- ILLSIZE (R231, R232). -/
abbrev illsize : Cause := 0x004#10
/-- PCALIGN (R230). -/
abbrev pcalign : Cause := 0x005#10
/-- ALIGN (R263, R267, R270). -/
abbrev align : Cause := 0x006#10
/-- PRIV (R276, R307). -/
abbrev priv : Cause := 0x007#10
/-- CRNUM (R307). -/
abbrev crnum : Cause := 0x008#10
/-- OPALIGN (R277). -/
abbrev opalign : Cause := 0x009#10
/-- SCOPE (R233, R234). -/
abbrev scope : Cause := 0x041#10
/-- SBARMASK (R273). -/
abbrev sbarmask : Cause := 0x042#10
/-- NONCANON. -/
abbrev noncanon : Cause := 0x101#10
/-- NOMAP. -/
abbrev nomap : Cause := 0x102#10
/-- PERM (R32). -/
abbrev perm : Cause := 0x103#10
/-- WINDOW. -/
abbrev window : Cause := 0x104#10
/-- RANGECFG (R31). -/
abbrev rangecfg : Cause := 0x105#10
/-- PAGEFLT. -/
abbrev pageflt : Cause := 0x106#10
/-- PTEBAD. -/
abbrev ptebad : Cause := 0x107#10
/-- WALKERR. -/
abbrev walkerr : Cause := 0x108#10
/-- UNREACH. -/
abbrev unreach : Cause := 0x109#10
/-- TINVCFG. -/
abbrev tinvcfg : Cause := 0x10A#10
/-- REGIONCFG (R71). -/
abbrev regioncfg : Cause := 0x10B#10
/-- PATCFG (R79). -/
abbrev patcfg : Cause := 0x10C#10
/-- BOUND (R84). -/
abbrev bound : Cause := 0x10D#10
/-- OFFTILE (R80). -/
abbrev offtile : Cause := 0x10E#10
/-- REGION (R72, R76, R77). -/
abbrev region : Cause := 0x10F#10
/-- SPARSEBAD (R86). -/
abbrev sparsebad : Cause := 0x110#10
/-- TILEDECL (R90). -/
abbrev tiledecl : Cause := 0x111#10
/-- WPTCFG (R306). -/
abbrev wptcfg : Cause := 0x112#10
/-- BUFCFG (R109). -/
abbrev bufcfg : Cause := 0x113#10
/-- NOENTRY (R300). -/
abbrev noentry : Cause := 0x114#10
/-- WATCH (R420). -/
abbrev watch : Cause := 0x115#10
/-- BARCFG (R113). -/
abbrev barcfg : Cause := 0x120#10
/-- BAROVER (R114). -/
abbrev barover : Cause := 0x121#10
/-- BARBYTE (R115). -/
abbrev barbyte : Cause := 0x122#10
/-- BARSCOPE (R112, R115, R297). -/
abbrev barscope : Cause := 0x123#10
/-- TOKKIND (R21). -/
abbrev tokkind : Cause := 0x210#10
/-- NOPORT (R15). -/
abbrev noport : Cause := 0x211#10
/-- POISONW (R83). -/
abbrev poisonw : Cause := 0x212#10
/-- SHEAFHDR (R178). -/
abbrev sheafhdr : Cause := 0x213#10
/-- RMODE (R168). -/
abbrev rmode : Cause := 0x214#10
/-- LINKLOOP (R213). -/
abbrev linkloop : Cause := 0x215#10
/-- SECTCFG (R210). -/
abbrev sectcfg : Cause := 0x216#10
/-- OPKIND (R217). -/
abbrev opkind : Cause := 0x217#10
/-- MARKMIS (R215). -/
abbrev markmis : Cause := 0x218#10
/-- TARGET (R212). -/
abbrev target : Cause := 0x219#10
/-- ELEMOP (R236). -/
abbrev elemop : Cause := 0x21A#10
/-- ELEMMOD (R237). -/
abbrev elemmod : Cause := 0x21B#10
/-- SWCFG (R241). -/
abbrev swcfg : Cause := 0x21C#10
/-- CFGBLK (R285, R287, R291). -/
abbrev cfgblk : Cause := 0x21D#10
/-- SECSTATE (R287, R292). -/
abbrev secstate : Cause := 0x21E#10
/-- GENSTATE (R291). -/
abbrev genstate : Cause := 0x21F#10
/-- OPSTATE (R293). -/
abbrev opstate : Cause := 0x220#10
/-- ELEMCONST (R312, R320, R324, R326, R328, R333, R334, R336, R337, R344). -/
abbrev elemconst : Cause := 0x221#10
/-- FMTMIS (R316, R326). -/
abbrev fmtmis : Cause := 0x222#10
/-- EALIGN (R341, R342, R344). -/
abbrev ealign : Cause := 0x223#10
/-- OPREC (R348). -/
abbrev oprec : Cause := 0x224#10
/-- CTLSEQ (R358). -/
abbrev ctlseq : Cause := 0x225#10
/-- MSHAPE (R363). -/
abbrev mshape : Cause := 0x226#10
/-- HARROWARG (R370). -/
abbrev harrowarg : Cause := 0x227#10
/-- TRITBAD (R173). -/
abbrev tritbad : Cause := 0x288#10
/-- NUMCFG (R170, R192). -/
abbrev numcfg : Cause := 0x289#10
/-- BADOP (R128). -/
abbrev badop : Cause := 0x301#10
/-- AMHDR (R126). -/
abbrev amhdr : Cause := 0x302#10
/-- ENGOPND (R140, R151). -/
abbrev engopnd : Cause := 0x303#10
/-- ENGNODE (R126). -/
abbrev engnode : Cause := 0x304#10
/-- SHADOWCFG (R138). -/
abbrev shadowcfg : Cause := 0x305#10
/-- ENGPRIV (R154). -/
abbrev engpriv : Cause := 0x306#10
/-- POOLBAD (R152, R153). -/
abbrev poolbad : Cause := 0x307#10
/-- COLLCFG (R145). -/
abbrev collcfg : Cause := 0x308#10
/-- COLLMIS (R145). -/
abbrev collmis : Cause := 0x309#10
/-- CSRBAD (R142). -/
abbrev csrbad : Cause := 0x30A#10
/-- CKPTCFG (R154). -/
abbrev ckptcfg : Cause := 0x30B#10
/-- REPLYBAD (R131). -/
abbrev replybad : Cause := 0x30C#10
/-- RINGBAD (R299). -/
abbrev ringbad : Cause := 0x30D#10
/-- CKPTRSV (R159, R431). -/
abbrev ckptrsv : Cause := 0x30E#10
/-- CRBAD (R197, R205). -/
abbrev crbad : Cause := 0x340#10
/-- SIGUNDER (R202). -/
abbrev sigunder : Cause := 0x341#10
/-- SUCCBAD (R201). -/
abbrev succbad : Cause := 0x342#10
/-- SIGFULL (R203). -/
abbrev sigfull : Cause := 0x343#10
/-- SIGEBAD (R279). -/
abbrev sigebad : Cause := 0x344#10
/-- PARKARG (R280). -/
abbrev parkarg : Cause := 0x345#10
/-- TDECLBAD (R283). -/
abbrev tdeclbad : Cause := 0x346#10
/-- GINVARG (R301). -/
abbrev ginvarg : Cause := 0x347#10
/-- LNCHBAD (R376, R379, R383). -/
abbrev lnchbad : Cause := 0x348#10
/-- RSVCFG (R395). -/
abbrev rsvcfg : Cause := 0x349#10
/-- GRCFG (R392). -/
abbrev grcfg : Cause := 0x34A#10
/-- PURITY (R419). -/
abbrev purity : Cause := 0x34B#10
/-- SAVEFAULT (R430). -/
abbrev savefault : Cause := 0x34C#10
/-- DBLFAULT (R408, R412). -/
abbrev dblfault : Cause := 0x34D#10
/-- EVOVF (R413). -/
abbrev evovf : Cause := 0x34E#10
/-- RINGFULL (R417). -/
abbrev ringfull : Cause := 0x34F#10
/-- TRAPCFG (R405, R410, R411, R418). -/
abbrev trapcfg : Cause := 0x350#10
/-- CTXCFG (R428). -/
abbrev ctxcfg : Cause := 0x351#10
/-- HOSTCFG (R456, R466, R467, R69). -/
abbrev hostcfg : Cause := 0x352#10
/-- TILEUE (R67). -/
abbrev tileue : Cause := 0x381#10
/-- BANKFAIL (R66). -/
abbrev bankfail : Cause := 0x382#10
/-- MEMUE (R134). -/
abbrev memue : Cause := 0x383#10
/-- CTXLOST (R430). -/
abbrev ctxlost : Cause := 0x384#10
/-- NEINVAL, the first of the eight numeric event causes (R194). -/
abbrev neinval : Cause := 0x280#10
/-- TRAP0, the first of the 64 TRAP causes (R303). -/
abbrev trap0 : Cause := 0x3C0#10

end Sys2Proof.Cause
end

