-- ==== Sys2Proof/Syntax.lean ====
section
/-! DEFINITION. The one type of instructions and events: one constructor per row of spec/opcode_table.json.
Sequencer forms carry their operand fields (R225 to R234), element words their modifier and targets (R236 to R238),
the events that reach the module from outside (host writes, links, power) carry what they bring, and the events of the
module's own agents are named alone: the unit or record each concerns stands in State.ops. -/
namespace Sys2Proof

/-- A tile by number: array tile(x,y) is 64y + x; headland tile H(side,index) is 4096 + 64·side + index, side 0 N, 1 E,
2 S, 3 W (R5, R285). -/
abbrev Tid := Nat

/-- Size code of the M format (R231). Code 7 is illegal and has no constructor. -/
inductive MSize where
  | s8 | z8 | s16 | z16 | s32 | z32 | d64
  deriving DecidableEq, Repr

/-- Width of an atomic or reduction (R232 SZ). -/
inductive ASize where
  | w32 | w64 | w16
  deriving DecidableEq, Repr

/-- Scope words (R7). -/
inductive Scope where
  | lane | core | quad | die | pkg | pod
  deriving DecidableEq, Repr

/-- Position of a latch in a slot (R212). -/
inductive Pos where
  | l | r | p
  deriving DecidableEq, Repr

/-- A target field of an element word (R238). -/
inductive Target where
  | none
  | loc (slot : Fin 64) (pos : Pos)
  | eg (ch : Fin 8)
  deriving DecidableEq, Repr

/-- Integer modifier (R237). -/
inductive IMod where
  | s32 | z32 | s16 | z16 | s8 | z8
  deriving DecidableEq, Repr

/-- Float modifier (R237). -/
inductive FMod where
  | f32 | f16 | bf16 | f8
  deriving DecidableEq, Repr

/-- Lane-group modifier: integer or float (R237, R330). -/
inductive LMod where
  | i (m : IMod)
  | f (m : FMod)
  deriving DecidableEq, Repr

/-- Rounding mode (R168). -/
inductive RMode where
  | rn | rz | ru | rd | rs
  deriving DecidableEq, Repr

/-- Direction of a memory port (R237). -/
inductive Dir where
  | n | e | s | w
  deriving DecidableEq, Repr

/-- Instructions and events. -/
inductive Instr where
  /-- ADD: Writes the 64-bit sum of ga and gb to gd. (R257) -/
  | add (d : Reg) (a : Reg) (b : Reg)
  /-- SUB: Writes ga minus gb, modulo 2^64, to gd. (R257) -/
  | sub (d : Reg) (a : Reg) (b : Reg)
  /-- AND: Writes the bitwise AND of ga and gb to gd. (R257) -/
  | and (d : Reg) (a : Reg) (b : Reg)
  /-- OR: Writes the bitwise OR of ga and gb to gd. (R257) -/
  | or (d : Reg) (a : Reg) (b : Reg)
  /-- XOR: Writes the bitwise XOR of ga and gb to gd. (R257) -/
  | xor (d : Reg) (a : Reg) (b : Reg)
  /-- ANDN: Writes ga AND NOT gb to gd. (R257) -/
  | andn (d : Reg) (a : Reg) (b : Reg)
  /-- SHL: Shifts ga left by bits 5:0 of gb into gd. (R257) -/
  | shl (d : Reg) (a : Reg) (b : Reg)
  /-- SHR: Shifts ga right with zero fill by bits 5:0 of gb into gd. (R257) -/
  | shr (d : Reg) (a : Reg) (b : Reg)
  /-- SAR: Shifts ga right with sign fill by bits 5:0 of gb into gd. (R257) -/
  | sar (d : Reg) (a : Reg) (b : Reg)
  /-- ROT: Rotates ga right by bits 5:0 of gb into gd. (R257) -/
  | rot (d : Reg) (a : Reg) (b : Reg)
  /-- MUL: Writes the low 64 bits of ga times gb to gd. (R257) -/
  | mul (d : Reg) (a : Reg) (b : Reg)
  /-- MULH: Writes the high 64 bits of the signed 128-bit product to gd. (R257) -/
  | mulh (d : Reg) (a : Reg) (b : Reg)
  /-- MULHU: Writes the high 64 bits of the unsigned 128-bit product to gd. (R257) -/
  | mulhu (d : Reg) (a : Reg) (b : Reg)
  /-- DIV: Writes the signed quotient truncated toward zero, with defined results for every operand. (R258) -/
  | div (d : Reg) (a : Reg) (b : Reg)
  /-- DIVU: Writes the unsigned quotient, with defined results for a zero divisor. (R258) -/
  | divu (d : Reg) (a : Reg) (b : Reg)
  /-- REM: Writes the signed remainder with the sign of ga. (R258) -/
  | rem (d : Reg) (a : Reg) (b : Reg)
  /-- REMU: Writes the unsigned remainder. (R258) -/
  | remu (d : Reg) (a : Reg) (b : Reg)
  /-- MIN: Writes the signed minimum of ga and gb. (R257) -/
  | min (d : Reg) (a : Reg) (b : Reg)
  /-- MAX: Writes the signed maximum of ga and gb. (R257) -/
  | max (d : Reg) (a : Reg) (b : Reg)
  /-- MINU: Writes the unsigned minimum of ga and gb. (R257) -/
  | minu (d : Reg) (a : Reg) (b : Reg)
  /-- MAXU: Writes the unsigned maximum of ga and gb. (R257) -/
  | maxu (d : Reg) (a : Reg) (b : Reg)
  /-- CLZ: Writes the count of leading zero bits of ga. (R257) -/
  | clz (d : Reg) (a : Reg)
  /-- CTZ: Writes the count of trailing zero bits of ga. (R257) -/
  | ctz (d : Reg) (a : Reg)
  /-- CNT: Writes the count of set bits of ga. (R257) -/
  | cnt (d : Reg) (a : Reg)
  /-- SEXT: Sign-extends ga from bit sh of gb. (R257) -/
  | sext (d : Reg) (a : Reg) (b : Reg)
  /-- ZEXT: Zero-extends ga above bit sh of gb. (R257) -/
  | zext (d : Reg) (a : Reg) (b : Reg)
  /-- SEQ: Writes 1 when ga equals gb, else 0. (R257) -/
  | seq (d : Reg) (a : Reg) (b : Reg)
  /-- SLT: Writes 1 when ga is signed-less than gb. (R257) -/
  | slt (d : Reg) (a : Reg) (b : Reg)
  /-- SLTU: Writes 1 when ga is unsigned-less than gb. (R257) -/
  | sltu (d : Reg) (a : Reg) (b : Reg)
  /-- SEL: Writes ga if the old gd is nonzero, else gb. (R257) -/
  | sel (d : Reg) (a : Reg) (b : Reg)
  /-- CMOV: Writes ga to gd if gb is nonzero, else leaves gd. (R257) -/
  | cmov (d : Reg) (a : Reg) (b : Reg)
  /-- ADDI: Adds the sign-extended immediate to ga. (R259) -/
  | addi (d : Reg) (a : Reg) (i : BitVec 16)
  /-- ANDI: ANDs ga with the zero-extended immediate. (R259) -/
  | andi (d : Reg) (a : Reg) (i : BitVec 16)
  /-- ORI: ORs ga with the zero-extended immediate. (R259) -/
  | ori (d : Reg) (a : Reg) (i : BitVec 16)
  /-- XORI: XORs ga with the zero-extended immediate. (R259) -/
  | xori (d : Reg) (a : Reg) (i : BitVec 16)
  /-- SHLI: Shifts ga left by a 6-bit immediate. (R259) -/
  | shli (d : Reg) (a : Reg) (i : BitVec 6)
  /-- SHRI: Shifts ga right with zero fill by a 6-bit immediate. (R259) -/
  | shri (d : Reg) (a : Reg) (i : BitVec 6)
  /-- SARI: Shifts ga right with sign fill by a 6-bit immediate. (R259) -/
  | sari (d : Reg) (a : Reg) (i : BitVec 6)
  /-- LDI: Loads the sign-extended immediate into gd. (R259) -/
  | ldi (d : Reg) (i : BitVec 16)
  /-- LDSH: Shifts ga left 16 and ORs in the immediate. (R259) -/
  | ldsh (d : Reg) (a : Reg) (i : BitVec 16)
  /-- SLTI: Writes 1 when ga is signed-less than the immediate. (R259) -/
  | slti (d : Reg) (a : Reg) (i : BitVec 16)
  /-- SLTUI: Writes 1 when ga is unsigned-less than the sign-extended immediate. (R259) -/
  | sltui (d : Reg) (a : Reg) (i : BitVec 16)
  /-- MULI: Multiplies ga by the sign-extended immediate. (R259) -/
  | muli (d : Reg) (a : Reg) (i : BitVec 16)
  /-- BEQ: Branches when ga equals gb. (R260) -/
  | beq (a : Reg) (b : Reg) (o : BitVec 16)
  /-- BNE: Branches when ga differs from gb. (R260) -/
  | bne (a : Reg) (b : Reg) (o : BitVec 16)
  /-- BLT: Branches when ga is signed-less than gb. (R260) -/
  | blt (a : Reg) (b : Reg) (o : BitVec 16)
  /-- BGE: Branches when ga is signed-greater-or-equal to gb. (R260) -/
  | bge (a : Reg) (b : Reg) (o : BitVec 16)
  /-- BLTU: Branches when ga is unsigned-less than gb. (R260) -/
  | bltu (a : Reg) (b : Reg) (o : BitVec 16)
  /-- BGEU: Branches when ga is unsigned-greater-or-equal to gb. (R260) -/
  | bgeu (a : Reg) (b : Reg) (o : BitVec 16)
  /-- JMP: Jumps by a 26-bit word offset. (R261) -/
  | jmp (o : BitVec 26)
  /-- JAL: Writes pc+4 to g31 and jumps by a 26-bit word offset. (R261) -/
  | jal (o : BitVec 26)
  /-- JR: Jumps to ga plus a word offset, faulting PCALIGN on a misaligned target. (R261) -/
  | jr (a : Reg) (o : BitVec 16)
  /-- LD: Loads a sized value from ga plus offset into gd. (R263) -/
  | ld (d : Reg) (a : Reg) (s : MSize) (o : BitVec 13)
  /-- ST: Stores the low bytes of gd at ga plus offset. (R263) -/
  | st (d : Reg) (a : Reg) (s : MSize) (o : BitVec 13)
  /-- LD_ACQ: Naturally aligned load with pod-scope acquire. (R264) -/
  | ldAcq (d : Reg) (a : Reg) (s : MSize) (o : BitVec 13)
  /-- ST_REL: Naturally aligned store with pod-scope release, waiting at issue for earlier accesses. (R264) -/
  | stRel (d : Reg) (a : Reg) (s : MSize) (o : BitVec 13)
  /-- LD_INV: Invariant load, ordinary when the range lacks PI. (R264) -/
  | ldInv (d : Reg) (a : Reg) (s : MSize) (o : BitVec 13)
  /-- ATOM_ADD: Atomically adds gb at ga and returns the old value. (R267) -/
  | atomAdd (a : Reg) (b : Reg) (d : Reg) (s : ASize)
  /-- ATOM_AND: Atomically ANDs gb at ga and returns the old value. (R267) -/
  | atomAnd (a : Reg) (b : Reg) (d : Reg) (s : ASize)
  /-- ATOM_OR: Atomically ORs gb at ga and returns the old value. (R267) -/
  | atomOr (a : Reg) (b : Reg) (d : Reg) (s : ASize)
  /-- ATOM_XOR: Atomically XORs gb at ga and returns the old value. (R267) -/
  | atomXor (a : Reg) (b : Reg) (d : Reg) (s : ASize)
  /-- ATOM_MIN: Atomic signed minimum returning the old value. (R267) -/
  | atomMin (a : Reg) (b : Reg) (d : Reg) (s : ASize)
  /-- ATOM_MAX: Atomic signed maximum returning the old value. (R267) -/
  | atomMax (a : Reg) (b : Reg) (d : Reg) (s : ASize)
  /-- ATOM_MINU: Atomic unsigned minimum returning the old value. (R267) -/
  | atomMinu (a : Reg) (b : Reg) (d : Reg) (s : ASize)
  /-- ATOM_MAXU: Atomic unsigned maximum returning the old value. (R267) -/
  | atomMaxu (a : Reg) (b : Reg) (d : Reg) (s : ASize)
  /-- ATOM_SWAP: Atomically writes gb at ga and returns the old value. (R267) -/
  | atomSwap (a : Reg) (b : Reg) (d : Reg) (s : ASize)
  /-- ATOM_CAS: Atomic compare-and-swap with the comparand in gd, returning the old value. (R267) -/
  | atomCas (a : Reg) (b : Reg) (d : Reg) (s : ASize)
  /-- ATOM_FADD32: Atomic binary32 add rounded to nearest, returning the old value. (R267) -/
  | atomFadd32 (a : Reg) (b : Reg) (d : Reg)
  /-- ATOM_FADD16: Atomic binary16 add rounded to nearest, returning the old value. (R267) -/
  | atomFadd16 (a : Reg) (b : Reg) (d : Reg)
  /-- RED_ADD: Merges an integer add of gb into the line at ga. (R270) -/
  | redAdd (a : Reg) (b : Reg) (s : ASize)
  /-- RED_AND: Merges a bitwise AND of gb at ga. (R270) -/
  | redAnd (a : Reg) (b : Reg) (s : ASize)
  /-- RED_OR: Merges a bitwise OR of gb at ga. (R270) -/
  | redOr (a : Reg) (b : Reg) (s : ASize)
  /-- RED_XOR: Merges a bitwise XOR of gb at ga. (R270) -/
  | redXor (a : Reg) (b : Reg) (s : ASize)
  /-- RED_MIN: Merges a signed minimum of gb at ga. (R270) -/
  | redMin (a : Reg) (b : Reg) (s : ASize)
  /-- RED_MAX: Merges a signed maximum of gb at ga. (R270) -/
  | redMax (a : Reg) (b : Reg) (s : ASize)
  /-- RED_MINU: Merges an unsigned minimum of gb at ga. (R270) -/
  | redMinu (a : Reg) (b : Reg) (s : ASize)
  /-- RED_MAXU: Merges an unsigned maximum of gb at ga. (R270) -/
  | redMaxu (a : Reg) (b : Reg) (s : ASize)
  /-- RED_FADD32: Merges a binary32 add rounded per application at ga. (R270) -/
  | redFadd32 (a : Reg) (b : Reg)
  /-- RED_FADD16: Merges a binary16 add rounded per application at ga. (R270) -/
  | redFadd16 (a : Reg) (b : Reg)
  /-- RED_FMAX32: Merges a binary32 fmax at ga. (R271) -/
  | redFmax32 (a : Reg) (b : Reg)
  /-- RED_FMIN32: Merges a binary32 fmin at ga. (R271) -/
  | redFmin32 (a : Reg) (b : Reg)
  /-- FENCE: Holds later memory instructions until earlier core-stream accesses are performed at the scope's reach. (R102) -/
  | fence (s : Scope)
  /-- SBAR: Holds the named streams until their earlier accesses are performed and named engine commands drained. (R101) -/
  | sbar (a : Reg)
  /-- SPAWN: Releases, stamps a CR with launch and context, counts it live and enqueues it if JOIN is 0. (R278) -/
  | spawn (a : Reg)
  /-- SIG: Adds a CR address to the firing's held set, to be signalled at retirement. (R279) -/
  | sig (a : Reg)
  /-- SIGE_ADDRESS: Signals the CR at ga at once after a release and marks EARLY. (R279) -/
  | sigeAddress (a : Reg)
  /-- SIGE_ENTRY: Signals successor-list entry j at once and sets its SENT bit. (R279) -/
  | sigeEntry (j : BitVec 6)
  /-- PARK: Ends the firing after a release and writes a parked CR with its wait condition. (R280) -/
  | park (a : Reg) (b : Reg) (k : BitVec 6)
  /-- EXIT: Retires the firing once earlier instructions have finished. (R281) -/
  | exit
  /-- YIELD: Parks the firing with WKIND 0 so it is requeued at once. (R280) -/
  | yield (a : Reg)
  /-- PRIO: Sets the firing's priority class, raised to the launch's class. (R282) -/
  | prio (c : BitVec 6)
  /-- TDECL: Settles the firing's claims and installs a new tile-list pointer. (R283) -/
  | tdecl (a : Reg)
  /-- JCNT: Atomically adjusts a CR's JOIN without ever bringing it to zero. (R284) -/
  | jcnt (a : Reg) (b : Reg) (d : Reg)
  /-- CFGE: Loads slot and ingress entries of a configuration block into an element. (R287) -/
  | cfge (a : Reg) (b : Reg)
  /-- CFGS: Loads switch words of a configuration block into a router. (R287) -/
  | cfgs (a : Reg) (b : Reg)
  /-- CFGO: Loads operator records of a configuration block into router operator units. (R287) -/
  | cfgo (a : Reg) (b : Reg)
  /-- CFGK: Loads pattern records and region descriptors of a configuration block into a tile. (R287) -/
  | cfgk (a : Reg) (b : Reg)
  /-- ARM: Arms, restores or resumes a section after a release, starting its cores one every 4 cycles. (R288) -/
  | arm (a : Reg) (b : Reg) (s : BitVec 6)
  /-- DISARM: Takes a section to loaded, dropping its tokens and stopping its generators. (R289) -/
  | disarm (s : BitVec 6)
  /-- SECWAIT: Waits until a section is idle, stopped, loaded or free and reports which. (R290) -/
  | secwait (d : Reg) (s : BitVec 6)
  /-- STRM: Starts a generator's loaded stream pattern record after a release. (R291) -/
  | strm (a : Reg) (n : BitVec 6)
  /-- SSTOP: Stops a generator's stream, ending it with EOS where applicable. (R291) -/
  | sstop (a : Reg) (n : BitVec 6)
  /-- SMARK: Requests a non-stop round edge on an armed section. (R292) -/
  | smark (s : BitVec 6)
  /-- SEAL: Asks a SEAL operator unit to end its stream. (R293) -/
  | seal (a : Reg) (n : BitVec 6)
  /-- TAPSET: Replaces the barrier identifier of a TAP operator unit. (R293) -/
  | tapset (a : Reg) (b : Reg) (n : BitVec 6)
  /-- BINIT: Initialises a barrier object, joining a parent share for a pod barrier. (R294) -/
  | binit (a : Reg) (b : Reg)
  /-- BARR: Releases and makes one arrival of count n at a barrier, waiting for the node's answer. (R295) -/
  | barr (a : Reg) (b : Reg)
  /-- BWAIT: Lowers the barrier's PRIO and waits for completion of the target phase. (R296) -/
  | bwait (a : Reg) (b : Reg) (d : Reg)
  /-- BCHG_SET_EXPECT: Sets a barrier's EXPECT, moving excess arrivals to EARLY and testing completion. (R297) -/
  | bchgSetExpect (a : Reg) (b : Reg)
  /-- BCHG_RELEASE: Releases an idle barrier by clearing V. (R297) -/
  | bchgRelease (a : Reg) (b : Reg)
  /-- BTEST: Reads a barrier once against a target phase. (R296) -/
  | btest (a : Reg) (b : Reg) (d : Reg)
  /-- AMSG: Reads and sends an active message and waits for its acknowledgement. (R298) -/
  | amsg (a : Reg) (d : Reg)
  /-- AMSGW: Reads and sends an active message, completing once it is in the injection buffer. (R298) -/
  | amsgw (a : Reg)
  /-- RFILL: Completes a retry-ring entry with supplied read data, or frees a write entry. (R299) -/
  | rfill (a : Reg) (b : Reg)
  /-- PUBLISH: Swaps a buffer map entry's front and shadow after the core stream's accesses are performed. (R300) -/
  | publish (s : Scope) (e : BitVec 6)
  /-- GINV: Removes a tenant's granary entries, all or by code digest. (R301) -/
  | ginv (a : Reg) (b : Reg)
  /-- GPROBE: Forms a CR's granary key and reports whether a lookup would hit. (R302) -/
  | gprobe (a : Reg) (d : Reg)
  /-- TRAP: Raises cause 0x3C0 + n precisely. (R303) -/
  | trap (n : BitVec 6)
  /-- RETT: Restores registers from the trap frame, replays its queue and leaves system state. (R410) -/
  | rett
  /-- CRD: Reads a control register into gd. (R307) -/
  | crd (a : Reg) (d : Reg) (n : BitVec 6)
  /-- CWR: Writes gb to a control register in system state. (R307) -/
  | cwr (a : Reg) (b : Reg) (n : BitVec 6)
  /-- WPT: Sets a watchpoint of the context. (R306) -/
  | wpt (a : Reg) (b : Reg) (w : BitVec 6)
  /-- HALT: Stops the core with its state kept and raises a host event. (R304) -/
  | halt
  /-- NOP: Does nothing. (R304) -/
  | nop
  /-- TIME: Writes the device time in ns to gd. (R304) -/
  | time (d : Reg)
  /-- EVRD: Reads a numeric event counter, optionally clearing TOTAL. (R305) -/
  | evrd (d : Reg) (c : Bool) (k : BitVec 3)
  /-- IADD: Slot fires a lane-wise wrapping integer add. (R319) -/
  | iadd (m : IMod) (ta tb : Target)
  /-- ISUB: Slot fires a lane-wise wrapping integer subtract. (R319) -/
  | isub (m : IMod) (ta tb : Target)
  /-- IADDS: Slot fires a saturating integer add. (R319) -/
  | iadds (m : IMod) (ta tb : Target)
  /-- ISUBS: Slot fires a saturating integer subtract. (R319) -/
  | isubs (m : IMod) (ta tb : Target)
  /-- IMUL: Slot fires a low-half integer multiply. (R319) -/
  | imul (m : IMod) (ta tb : Target)
  /-- IMULH: Slot fires a high-half integer multiply. (R319) -/
  | imulh (m : IMod) (ta tb : Target)
  /-- IMIN: Slot fires a lane-wise integer minimum. (R319) -/
  | imin (m : IMod) (ta tb : Target)
  /-- IMAX: Slot fires a lane-wise integer maximum. (R319) -/
  | imax (m : IMod) (ta tb : Target)
  /-- IAND: Slot fires a bitwise AND. (R319) -/
  | iand (m : IMod) (ta tb : Target)
  /-- IOR: Slot fires a bitwise OR. (R319) -/
  | ior (m : IMod) (ta tb : Target)
  /-- IXOR: Slot fires a bitwise XOR. (R319) -/
  | ixor (m : IMod) (ta tb : Target)
  /-- IANDN: Slot fires a bitwise AND NOT. (R319) -/
  | iandn (m : IMod) (ta tb : Target)
  /-- ISHL: Slot fires a lane-wise shift left. (R319) -/
  | ishl (m : IMod) (ta tb : Target)
  /-- ISHR: Slot fires a lane-wise logical shift right. (R319) -/
  | ishr (m : IMod) (ta tb : Target)
  /-- ISAR: Slot fires a lane-wise arithmetic shift right. (R319) -/
  | isar (m : IMod) (ta tb : Target)
  /-- IABS: Slot fires a lane-wise absolute value. (R319) -/
  | iabs (m : IMod) (ta tb : Target)
  /-- INEG: Slot fires a lane-wise negation. (R319) -/
  | ineg (m : IMod) (ta tb : Target)
  /-- ICMP: Slot fires an integer comparison giving all-ones masks and a PRED. (R320) -/
  | icmp (m : IMod) (ta tb : Target)
  /-- ISEL: Slot selects L or R per position by P. (R321) -/
  | isel (m : IMod) (ta tb : Target)
  /-- FADD: Slot fires a rounded float add. (R322) -/
  | fadd (m : FMod) (ta tb : Target)
  /-- FSUB: Slot fires a rounded float subtract. (R322) -/
  | fsub (m : FMod) (ta tb : Target)
  /-- FMUL: Slot fires a rounded float multiply. (R322) -/
  | fmul (m : FMod) (ta tb : Target)
  /-- FMAC: Slot folds L times R into its accumulator, emitting at closing markers. (R337) -/
  | fmac (m : FMod) (ta tb : Target)
  /-- FMIN: Slot fires a float minimum where NaN loses. (R322) -/
  | fmin (m : FMod) (ta tb : Target)
  /-- FMAX: Slot fires a float maximum where NaN loses. (R322) -/
  | fmax (m : FMod) (ta tb : Target)
  /-- FCMP: Slot fires a float comparison. (R324) -/
  | fcmp (m : FMod) (ta tb : Target)
  /-- FABS: Slot fires a float absolute value. (R322) -/
  | fabs (m : FMod) (ta tb : Target)
  /-- FNEG: Slot fires a float negation. (R322) -/
  | fneg (m : FMod) (ta tb : Target)
  /-- FRCP: Slot fires an approximate reciprocal. (R186) -/
  | frcp (m : FMod) (ta tb : Target)
  /-- FRSQ: Slot fires an approximate reciprocal square root. (R186) -/
  | frsq (m : FMod) (ta tb : Target)
  /-- FSQRT: Slot fires a correctly rounded square root. (R186) -/
  | fsqrt (m : FMod) (ta tb : Target)
  /-- FEXP2: Slot fires 2^x. (R185) -/
  | fexp2 (m : FMod) (ta tb : Target)
  /-- FLOG2: Slot fires log2 x. (R186) -/
  | flog2 (m : FMod) (ta tb : Target)
  /-- FRESC: Slot rescales running sums by 2^d for softmax. (R323) -/
  | fresc (m : FMod) (ta tb : Target)
  /-- CVT: Slot converts elements between formats under a rounding mode. (R326) -/
  | cvt (sat : Bool) (rm : RMode) (ta tb : Target)
  /-- QUANT: Slot quantises by a power-of-two scale from R. (R327) -/
  | quant (sat : Bool) (rm : RMode) (ta tb : Target)
  /-- DEQ: Slot dequantises by a power-of-two scale from R. (R327) -/
  | deq (sat : Bool) (rm : RMode) (ta tb : Target)
  /-- PACK: Slot packs B bytes of L and R into one token. (R328) -/
  | pack (ta tb : Target)
  /-- UNPACK: Slot splits L's bytes into two tokens. (R328) -/
  | unpack (ta tb : Target)
  /-- TUNP: Slot decodes packed ternary into five s8 tokens. (R329) -/
  | tunp (ta tb : Target)
  /-- LSUM: Slot sums L's live positions into lane 0. (R331) -/
  | lsum (m : LMod) (ta tb : Target)
  /-- LMAX: Slot reduces L's live positions to their maximum. (R331) -/
  | lmax (m : LMod) (ta tb : Target)
  /-- LMIN: Slot reduces L's live positions to their minimum. (R331) -/
  | lmin (m : LMod) (ta tb : Target)
  /-- LSHUF: Slot permutes L's positions by indices in R. (R333) -/
  | lshuf (m : LMod) (ta tb : Target)
  /-- LBCAST: Slot broadcasts one position of L to all positions. (R333) -/
  | lbcast (m : LMod) (ta tb : Target)
  /-- LSCAN: Slot writes the inclusive prefix of L. (R332) -/
  | lscan (m : LMod) (ta tb : Target)
  /-- LCMPR: Slot compacts L's positions where R is non-zero and emits the count. (R334) -/
  | lcmpr (m : LMod) (ta tb : Target)
  /-- WINNOW: Slot emits indices and values of non-zero positions and advances its position counter. (R334) -/
  | winnow (m : LMod) (ta tb : Target)
  /-- SJOIN: Slot compares keys of two ordered streams and acts by its table. (R336) -/
  | sjoin (m : LMod) (ta tb : Target)
  /-- ACC: Slot folds L into its accumulator, emitting and resetting at closing markers. (R337) -/
  | acc (m : LMod) (ta tb : Target)
  /-- PASS: Slot copies L to its targets unchanged. (R338) -/
  | pass (ta tb : Target)
  /-- CONST: Slot emits a token of its constant for each data token on L. (R338) -/
  | const (ta tb : Target)
  /-- IOTA: Input-less slot emits the next token of 0 to N-1, then EOS. (R339) -/
  | iota (m : LMod) (ta tb : Target)
  /-- LDT: Slot issues a 64-byte token load through an element port. (R342) -/
  | ldt (d : Dir) (inv : Bool) (ta tb : Target)
  /-- STT: Slot issues a token store of R's live lanes through an element port. (R342) -/
  | stt (d : Dir)
  /-- LDO: Slot issues a token load that sends a done token. (R342) -/
  | ldo (d : Dir) (inv : Bool) (ta tb : Target)
  /-- STO: Slot issues a token store that sends done tokens. (R342) -/
  | sto (d : Dir) (ta tb : Target)
  /-- AMO: Slot issues one atomic at the bank and emits the old value. (R344) -/
  | amo (d : Dir) (ta tb : Target)
  /-- RDX: Slot applies R's live contributions as reductions at a bank row. (R344) -/
  | rdx (d : Dir) (ta tb : Target)
  /-- MWLD: Slot loads a weight tile into the back buffer. (R362) -/
  | mwld (ta tb : Target)
  /-- MFEED: Slot passes activation rows through the active buffer into C. (R363) -/
  | mfeed (ta tb : Target)
  /-- MDRAIN: Slot drains rows of C as a result sheaf. (R364) -/
  | mdrain (ta tb : Target)
  /-- MZERO: Slot clears C, poison marks, M and m. (R365) -/
  | mzero (ta tb : Target)
  /-- MWIN: Slot sets the fragment's zero-skipping window once after ARM. (R366) -/
  | mwin
  /-- MHARROW: Slot starts one harrow stage over a tile in the adjacent memory tile. (R370) -/
  | mharrow (d : Dir) (ta tb : Target)
  /-- MTWID: Slot starts filling the twiddle tables for size N. (R369) -/
  | mtwid (ta tb : Target)
  /-- LAUNCH_DOOR: A DOOR write submits a launch queue slot. (R377) -/
  | launchDoor (q : Nat) (v : Word)
  /-- THOLD_RETRY: THOLD with ACT 0 reissues a held access. (R418) -/
  | tholdRetry (ctx : Nat) (v : Word)
  /-- THOLD_POISON: THOLD with ACT 1 abandons a held access as poison. (R418) -/
  | tholdPoison (ctx : Nat) (v : Word)
  /-- THEND: A THEND write ends a firing as faulted. (R411) -/
  | thend (tid : Tid) (v : Word)
  /-- TEVP_WRITE: A write to TEVP sets the event ring's HEAD. (R406) -/
  | tevpWrite (port : Bool) (ctx : Nat) (v : Word)
  /-- TEVB_WRITE: A write to TEVB sets the event ring and resets its positions. (R406) -/
  | tevbWrite (port : Bool) (ctx : Nat) (v : Word)
  /-- TSERR_READ: A read of TSERR returns and clears the soft-refusal record. (R405) -/
  | tserrRead (port : Bool) (ctx : Nat)
  /-- RANGE_REGISTER_COMMIT: The IMAP write commits a range register, waking held accesses of the context. (R33) -/
  | rangeRegisterCommit (port : Bool) (ctx i : Nat) (v : Word)
  /-- BUFFER_MAP_COMMIT: The word 3 write commits a buffer map entry. (R109) -/
  | bufferMapCommit (port : Bool) (ctx e : Nat) (v : Word)
  /-- WATCHPOINT_COMMIT: The control-word write commits a watchpoint pair. (R310) -/
  | watchpointCommit (port : Bool) (ctx w : Nat) (v : Word)
  /-- TINV: A TINVN write with GO starts invalidation of a page range at every home port. (R41) -/
  | tinv (port : Bool) (v : Word)
  /-- FPPUSH: A write to FPPUSH appends a frame to a pool. (R152) -/
  | fppush (port : Bool) (pool : Nat) (v : Word)
  /-- MTSTAT_WRITE: A host write to MTSTAT clears counts or declares a bank failed. (R69) -/
  | mtstatWrite (port : Bool) (tid : Tid) (v : Word)
  /-- GRTAB_WRITE: A write to GRTAB configures the granary table or removes all entries. (R392) -/
  | grtabWrite (port : Bool) (v : Word)
  /-- RSVT_WRITE: A write to a reservation table installs it at the next frame boundary. (R395) -/
  | rsvtWrite (port : Bool) (kind off : Nat) (v : Word)
  /-- REGISTER_WRITE: A write to a register that has no row of its own, checked and applied. (R454) -/
  | registerWrite (port : Bool) (off : Nat) (v : Word)
  /-- CONTEXT_CREATE: A CTXTEN write makes a context active with reset registers. (R429) -/
  | contextCreate (port : Bool) (ctx : Nat) (v : Word)
  /-- CONTEXT_SAVE: CTXCMD save starts taking a context off the fabric. (R429) -/
  | contextSave (port : Bool) (v : Word)
  /-- CONTEXT_RESTORE: CTXCMD restore starts reloading a saved context. (R429) -/
  | contextRestore (port : Bool) (v : Word)
  /-- CONTEXT_KILL: CTXCMD kill starts a containment kill of a context. (R428) -/
  | contextKill (port : Bool) (v : Word)
  /-- CONTEXT_RELEASE: CTXCMD release returns a killed context to none. (R429) -/
  | contextRelease (port : Bool) (v : Word)
  /-- HOST_MEMORY_ACCESS: A host access through BAR 4 reaches device IA through the aperture. (R456) -/
  | hostMemoryAccess (port : Bool) (off len : Nat) (wr : Option (List Byte))
  /-- SEMAPHORE_READ: A read of a free semaphore claims it for the reading port. (R457) -/
  | semaphoreRead (i : Nat) (a b : Bool)
  /-- SEMAPHORE_WRITE: A write of 0 by the owning port frees a semaphore. (R457) -/
  | semaphoreWrite (port : Bool) (i : Nat) (v : Word)
  /-- HWSTAT_READ: A read of HWSTAT returns and clears the port's refusal record. (R455) -/
  | hwstatRead (port which : Bool)
  /-- LQSTAT_READ: A read of LQSTAT returns slot state and clears ERR. (R377) -/
  | lqstatRead (port : Bool) (q : Nat)
  /-- KEY_LOAD: KEYLD loads a tenant key into a key slot at every serving port. (R465) -/
  | keyLoad (port : Bool) (v : Word)
  /-- KEY_CLEAR: KEYLD with CLR empties a key slot. (R465) -/
  | keyClear (port : Bool) (v : Word)
  /-- ATTESTATION_REQUEST: FMBCMD with GO asks Forfin for an attestation report. (R466) -/
  | attestationRequest (port : Bool) (v : Word)
  /-- HALT_RESUME: A HALTCTL write resumes a halted core. (R467) -/
  | haltResume (port : Bool) (v : Word)
  /-- MODULE_RESET: Module reset boots Forfin, checks the blob and loads configuration. (R464) -/
  | moduleReset (image blob : Bool)
  /-- DIE_POWER_UP: A die powers up 1 ms after the previous, trains memory and clears tiles. (R464) -/
  | diePowerUp (die : Nat) (ok : Bool)
  /-- LINK_DOWN: A Psiba link loses its lanes, raising a host event and cutting messages. (R460) -/
  | linkDown (l : Nat)
  /-- BEACON_ARRIVAL: A module receives a beacon, slews its device time and forwards it. (R463) -/
  | beaconArrival (l t : Nat)
  /-- THERMAL_LIMIT: A block reaching its temperature limit inserts idle cycles and raises a host event. (R469) -/
  | thermalLimit (block : Nat)
  /-- THERMAL_CRITICAL: A die past its critical temperature is marked fallow and its contexts killed. (R469) -/
  | thermalCritical (die : Nat)
  /-- DECODE_FAULT: The sequencer decodes a word that is no legal instruction and takes a precise trap with ILLOP, ILLFN, ILLFLD, ILLSIZE or SCOPE. (R235) -/
  | decodeFault (w : BitVec 32)
  /-- FETCH_FAULT: An instruction fetch fails its canonical, range-map or PX check, and a precise trap is taken at that word. (R254) -/
  | fetchFault (c : Cause)
  /-- LINK_TRAINED: A Psiba link finishes training and comes up, setting its BOOTSTAT bit. (R461) -/
  | linkTrained (l : Nat)
  /-- HARROW_STAGE_COMPLETE: A stage's last write is performed and its done or exponent token is sent. (R374) -/
  | harrowStageComplete
  /-- TWIDDLE_FILL_DONE: The twiddle tables are filled and MTWID emits its done token. (R369) -/
  | twiddleFillDone
  /-- MEMORY_PORT_COMPLETE: A memory-port access is performed at the bank and its result or done tokens are sent. (R343) -/
  | memoryPortComplete
  /-- STEER: Operator unit sends a token to o0 or o1 by a decision. (R350) -/
  | steer
  /-- MERGE: Operator unit takes a token from the input a decision names. (R350) -/
  | merge
  /-- SELECT: Operator unit passes one of two inputs and discards the other. (R350) -/
  | select
  /-- CARRY: Operator unit feeds initial or back-edge values of a loop. (R351) -/
  | carry
  /-- INVAR: Operator unit repeats an invariant token per iteration. (R352) -/
  | invar
  /-- COUNT: Operator unit emits the indices and markers of a counted loop run. (R353) -/
  | count
  /-- FILTER: Operator unit drops data tokens whose predicate is false. (R350) -/
  | filter
  /-- DISTRIB: Operator unit sends a token to one pipeline and records the choice in the order ring. (R354) -/
  | distrib
  /-- COLLECT: Operator unit rejoins pipelines in recorded order. (R354) -/
  | collect
  /-- TAP: Operator unit passes a token and arrives at a barrier at markers and EOS. (R355) -/
  | tap
  /-- SEAL_OPERATOR: Operator unit passes tokens until sealed, then ends the stream with EOS. (R356) -/
  | sealOperator
  /-- CONTROL: Operator unit hands out permits to children and collects done tokens. (R357) -/
  | control
  /-- TOKEN_TRANSFER: A token advances over a link through a router port. (R19) -/
  | tokenTransfer
  /-- MESSAGE_INJECT: A whole message enters the message plane and is routed to its destination. (R23) -/
  | messageInject
  /-- STOP_EDGE_REQUEST: The E7 requests a stop edge on a section for a cut, pre-emption or swath change. (R221) -/
  | stopEdgeRequest
  /-- SECTION_CUT: Every unit is at the stop edge and the section's cut is taken. (R221) -/
  | sectionCut
  /-- SECTION_IDLE: Every sink has absorbed EOS and the section becomes idle. (R219) -/
  | sectionIdle
  /-- GENERATOR_ELEMENT: An address generator issues its next element access and emits markers or EOS. (R81) -/
  | generatorElement
  /-- COORDINATE_TOKEN: An indirect generator takes a coordinate token and applies bound and sentinel policies. (R84) -/
  | coordinateToken
  /-- WRITE_STREAM_TOKEN: A write stream takes an incoming token and writes its live slots. (R83) -/
  | writeStreamToken
  /-- WRITE_STREAM_END: A write stream's last write is performed and it emits EOS. (R83) -/
  | writeStreamEnd
  /-- GATHER_REPLY: A line reply reaches a headland generator's reorder buffer. (R88) -/
  | gatherReply
  /-- WINDOW_ACCESS: A message-plane access reaches a memory tile's window port. (R35) -/
  | windowAccess
  /-- BANK_ACCESS: A bank serves a requester's row access with decode and correction. (R62) -/
  | bankAccess
  /-- CORRECTION_WRITEBACK: A corrected symbol is written back in the bank's next free cycle. (R65) -/
  | correctionWriteback
  /-- SCRUB_ROW: The scrubber reads and decodes one row index every 4,096 cycles. (R68) -/
  | scrubRow
  /-- SCRUB_TAKEOVER: After 65,536 cycles ungranted, the scrubber takes the bank's next cycle. (R68) -/
  | scrubTakeover
  /-- FIFO_PUSH: A push writes the FIFO tail slot once space exists. (R75) -/
  | fifoPush
  /-- FIFO_POP: A pop reads the FIFO head slot once a token exists. (R75) -/
  | fifoPop
  /-- HOME_PORT_ACCESS: An access reaches its home port to be translated and serialised in the write queue. (R36) -/
  | homePortAccess
  /-- PAGE_WALK: A translation walk completes and its leaf is cached or it faults. (R40) -/
  | pageWalk
  /-- LINE_ENTRY_WRITEBACK: A write-queue line entry is written back when its queue drains. (R106) -/
  | lineEntryWriteback
  /-- FORWARDED_ACCESS: An access forwarded from another module reaches the home port at the owner or directory. (R45) -/
  | forwardedAccess
  /-- HEAT_WINDOW_END: At each heat window end a port computes heat, clears counts and nominates pages. (R52) -/
  | heatWindowEnd
  /-- TIER_MOVE: The migration engine takes a frame and copies a nominated page line by line. (R54) -/
  | tierMove
  /-- TIER_MOVE_COMMIT: After the write queue drains, the new frame is installed and held accesses released. (R54) -/
  | tierMoveCommit
  /-- PULL_REQUEST: HOME grants or drops a pull request for a pod-shared page. (R58) -/
  | pullRequest
  /-- OWNERSHIP_MOVE_COMPLETE: HOME records the new owner, counts the move and updates sharers. (R58) -/
  | ownershipMoveComplete
  /-- SHARER_REGISTER: A node registers with HOME as a sharer of a pod-shared page. (R57) -/
  | sharerRegister
  /-- SHARER_UPDATE: A sharer rewrites NODE on HOME's owner update. (R57) -/
  | sharerUpdate
  /-- WAKE: A wake reaches a held access and it is retried once. (R416) -/
  | wake
  /-- RETRY_RING_MOVE: A held access that waited 4,096 cycles or found no wait entry moves to the retry ring. (R417) -/
  | retryRingMove
  /-- AFTER_ISSUE_FAULT: A fault found after issue stops the firing at the next boundary and writes a trap frame. (R407) -/
  | afterIssueFault
  /-- NUMERIC_WINDOW_END: WCNT and FIRED clear when the cycle count reaches a multiple of 2^WIN. (R193) -/
  | numericWindowEnd
  /-- ENGINE_INBOX_MESSAGE: An engine inbox checks a message, charges its barrier and acknowledges it. (R129) -/
  | engineInboxMessage
  /-- ACKNOWLEDGEMENT: An inbox acknowledgement reaches the sending core and completes its AMSG or AMSGW. (R129) -/
  | acknowledgement
  /-- INJECTION_RESEND: After a busy acknowledgement, the injection unit resends the message 64 cycles later. (R129) -/
  | injectionResend
  /-- COPY: Engine copies LEN bytes in ascending destination lines. (R140) -/
  | copy
  /-- FILL: Engine fills a range with a repeating pattern. (R140) -/
  | fill
  /-- XPOSE: Engine transposes a matrix of elements. (R140) -/
  | xpose
  /-- GATHER: Engine gathers indexed table rows into a dense array. (R141) -/
  | gather
  /-- SCATTER: Engine scatters dense rows to indexed table rows. (R141) -/
  | scatter
  /-- CSRB: Engine builds a dense tile from compressed sparse rows. (R142) -/
  | csrb
  /-- PREFETCH: Engine walks page translations and nominates eligible pages for migration. (R150) -/
  | prefetch
  /-- MIGRATE: Engine unsettles, moves between tiers, or moves ownership of pages. (R151) -/
  | migrate
  /-- CHKPT: Engine saves or restores the whole device memory of the module. (R154) -/
  | chkpt
  /-- CHECKPOINT_CUT: Once work has left and sections stopped, dies write on-die state and the fabric resumes. (R155) -/
  | checkpointCut
  /-- CHECKPOINT_END: Every frame is copied, moves resume, and the reply record and host event follow. (R155) -/
  | checkpointEnd
  /-- HASH: Engine writes a SHAKE256 content digest of a range. (R143) -/
  | hash
  /-- REDUCE: Engine applies a source vector to a destination as reductions. (R144) -/
  | reduce
  /-- ALLRED: Collective member writes the tree reduction of all members' sources. (R146) -/
  | allred
  /-- ALLGATH: Collective member writes every member's source block. (R146) -/
  | allgath
  /-- RSCAT: Collective member writes the reduction of its rank's block. (R146) -/
  | rscat
  /-- BCAST: Collective member writes the root's source. (R146) -/
  | bcast
  /-- COLLECTIVE_BEGIN: All named members are accepted and the collective begins. (R145) -/
  | collectiveBegin
  /-- COLLECTIVE_ABORT: A member ends with ABORT because another member ended. (R148) -/
  | collectiveAbort
  /-- PUBLISH_COMMAND: Engine swaps a buffer map entry after earlier shadow writers drain. (R149) -/
  | publishCommand
  /-- ENGINE_COMMAND_DRAINED: A command drains, its reply record is written and it arrives at its barrier. (R137) -/
  | engineCommandDrained
  /-- BARRIER_ARRIVAL: A barrier node applies an arrival to ARRIVED or EARLY. (R114) -/
  | barrierArrival
  /-- BARRIER_DISCHARGE: Charged bytes performed at the barrier's reach are discharged from PENDING. (R115) -/
  | barrierDischarge
  /-- BARRIER_COMPLETE: A barrier with ARRIVED = EXPECT and PENDING = 0 completes a phase. (R116) -/
  | barrierComplete
  /-- BWAIT_OBSERVE: A waiting BWAIT observes completion and writes its result. (R296) -/
  | bwaitObserve
  /-- POD_BARRIER_JOIN: A parent share records or refuses a child's join. (R119) -/
  | podBarrierJoin
  /-- POD_BARRIER_COMPLETION: A child share applies a completion from its parent and passes it on. (R119) -/
  | podBarrierCompletion
  /-- BARRIER_PRIO_UPDATE: A lowered PRIO reaches a share, which applies the minimum. (R119) -/
  | barrierPrioUpdate
  /-- POD_BARRIER_POISON: A poisoned arrival reaches a share and the phase completes with POISON. (R119) -/
  | podBarrierPoison
  /-- INHERITANCE_FLOOR: A barrier's PRIO sets or raises the context's inheritance floor over its unit. (R398) -/
  | inheritanceFloor
  /-- SIGNAL: An atomic decrement of a CR's JOIN, enqueuing it at zero. (R202) -/
  | signal
  /-- DRILL_EXAMINE: The drill unit examines a record, tests readiness and looks up the granary. (R389) -/
  | drillExamine
  /-- DRILL_RETEST: A queued record is tested again on a region change or every 4,096 cycles. (R389) -/
  | drillRetest
  /-- CLAIM_REQUEST: A memory tile grants or refuses a readiness claim. (R91) -/
  | claimRequest
  /-- GRANARY_LOOKUP: A granary lookup completes, retiring the task on a hit or readying it on a miss. (R393) -/
  | granaryLookup
  /-- DRILL_POP: An idle sequencer pops a ready record and starts its firing. (R390) -/
  | drillPop
  /-- PARK_WAKE: A parked task's condition holds and it is enqueued. (R205) -/
  | parkWake
  /-- TASK_RETIRE: After engine commands drain, claims settle, granary inserts, successors are signalled and STATE is written. (R203) -/
  | taskRetire
  /-- PREEMPTION_REQUEST: A ready record waiting 256 cycles triggers the decision table on a victim. (R422) -/
  | preemptionRequest
  /-- PREEMPT_DRAIN_EXPIRY: A draining victim not ended after 4·2^DLOG cycles is decided again. (R423) -/
  | preemptDrainExpiry
  /-- LAUNCH_ARRIVAL: The port reads a launch record and accepts or refuses it. (R379) -/
  | launchArrival
  /-- LAUNCH_WAIT_SATISFIED: Every wait entry of a launch is satisfied and its count is read. (R381) -/
  | launchWaitSatisfied
  /-- SWATH_GRANT: The allocator grants a swath to an allocating launch. (R385) -/
  | swathGrant
  /-- CODE_FILL: A code object becomes resident in a die's code store. (R383) -/
  | codeFill
  /-- INSTANCE_ENTRY: One launch instance is entered into a drill bank per die per cycle. (R386) -/
  | instanceEntry
  /-- DIE_WITHDRAW: The allocator withdraws a die from a running die swath. (R387) -/
  | dieWithdraw
  /-- DIE_ADD: A freed die is added to a running die swath. (R387) -/
  | dieAdd
  /-- LAUNCH_COMPLETE: An ended launch writes its completion record and raises its signal. (R401) -/
  | launchComplete
  /-- TINV_COMPLETE: A home port finishes its pages of a TINV and sends wakes. (R41) -/
  | tinvComplete
  /-- CONTEXT_SAVED: A context's state is written to its save area and its tiles freed. (R429) -/
  | contextSaved
  /-- CONTEXT_RESTORED: Once recorded tiles are free, a context is reloaded and re-armed. (R429) -/
  | contextRestored
  /-- ATTESTATION_DONE: Forfin finishes the report and sets DONE. (R466) -/
  | attestationDone
  /-- TIME_BEACON: Every 1 µs the time root sends a device-time beacon on each link. (R463) -/
  | timeBeacon
  /-- SEQUENCER_ACCESS_REPLY: A load's data, an atomic's old value or a store's acceptance returns to the sequencer, writing gd and freeing one of its 16 outstanding slots. (R253) -/
  | sequencerAccessReply
  /-- FRAME_BOUNDARY: At the next frame boundary of a resource, a newly written reservation table takes effect. (R395) -/
  | frameBoundary
  deriving DecidableEq, Repr

end Sys2Proof
end

