-- ==== Sys2Proof/WellFormed.lean ====
section
/-! DEFINITION. Which instructions have a word: the field limits of R226 to R238. -/
namespace Sys2Proof

/-- Which encoding an instruction belongs to: a sequencer word (R225), an element operation word (R236), or neither (an
event of another agent). -/
inductive WordKind where
  | sequencer | element | event
  deriving DecidableEq, Repr

/-- The encoding an instruction belongs to. -/
def Instr.wordKind : Instr → WordKind
  | .add _ _ _ => .sequencer
  | .sub _ _ _ => .sequencer
  | .and _ _ _ => .sequencer
  | .or _ _ _ => .sequencer
  | .xor _ _ _ => .sequencer
  | .andn _ _ _ => .sequencer
  | .shl _ _ _ => .sequencer
  | .shr _ _ _ => .sequencer
  | .sar _ _ _ => .sequencer
  | .rot _ _ _ => .sequencer
  | .mul _ _ _ => .sequencer
  | .mulh _ _ _ => .sequencer
  | .mulhu _ _ _ => .sequencer
  | .div _ _ _ => .sequencer
  | .divu _ _ _ => .sequencer
  | .rem _ _ _ => .sequencer
  | .remu _ _ _ => .sequencer
  | .min _ _ _ => .sequencer
  | .max _ _ _ => .sequencer
  | .minu _ _ _ => .sequencer
  | .maxu _ _ _ => .sequencer
  | .clz _ _ => .sequencer
  | .ctz _ _ => .sequencer
  | .cnt _ _ => .sequencer
  | .sext _ _ _ => .sequencer
  | .zext _ _ _ => .sequencer
  | .seq _ _ _ => .sequencer
  | .slt _ _ _ => .sequencer
  | .sltu _ _ _ => .sequencer
  | .sel _ _ _ => .sequencer
  | .cmov _ _ _ => .sequencer
  | .addi _ _ _ => .sequencer
  | .andi _ _ _ => .sequencer
  | .ori _ _ _ => .sequencer
  | .xori _ _ _ => .sequencer
  | .shli _ _ _ => .sequencer
  | .shri _ _ _ => .sequencer
  | .sari _ _ _ => .sequencer
  | .ldi _ _ => .sequencer
  | .ldsh _ _ _ => .sequencer
  | .slti _ _ _ => .sequencer
  | .sltui _ _ _ => .sequencer
  | .muli _ _ _ => .sequencer
  | .beq _ _ _ => .sequencer
  | .bne _ _ _ => .sequencer
  | .blt _ _ _ => .sequencer
  | .bge _ _ _ => .sequencer
  | .bltu _ _ _ => .sequencer
  | .bgeu _ _ _ => .sequencer
  | .jmp _ => .sequencer
  | .jal _ => .sequencer
  | .jr _ _ => .sequencer
  | .ld _ _ _ _ => .sequencer
  | .st _ _ _ _ => .sequencer
  | .ldAcq _ _ _ _ => .sequencer
  | .stRel _ _ _ _ => .sequencer
  | .ldInv _ _ _ _ => .sequencer
  | .atomAdd _ _ _ _ => .sequencer
  | .atomAnd _ _ _ _ => .sequencer
  | .atomOr _ _ _ _ => .sequencer
  | .atomXor _ _ _ _ => .sequencer
  | .atomMin _ _ _ _ => .sequencer
  | .atomMax _ _ _ _ => .sequencer
  | .atomMinu _ _ _ _ => .sequencer
  | .atomMaxu _ _ _ _ => .sequencer
  | .atomSwap _ _ _ _ => .sequencer
  | .atomCas _ _ _ _ => .sequencer
  | .atomFadd32 _ _ _ => .sequencer
  | .atomFadd16 _ _ _ => .sequencer
  | .redAdd _ _ _ => .sequencer
  | .redAnd _ _ _ => .sequencer
  | .redOr _ _ _ => .sequencer
  | .redXor _ _ _ => .sequencer
  | .redMin _ _ _ => .sequencer
  | .redMax _ _ _ => .sequencer
  | .redMinu _ _ _ => .sequencer
  | .redMaxu _ _ _ => .sequencer
  | .redFadd32 _ _ => .sequencer
  | .redFadd16 _ _ => .sequencer
  | .redFmax32 _ _ => .sequencer
  | .redFmin32 _ _ => .sequencer
  | .fence _ => .sequencer
  | .sbar _ => .sequencer
  | .spawn _ => .sequencer
  | .sig _ => .sequencer
  | .sigeAddress _ => .sequencer
  | .sigeEntry _ => .sequencer
  | .park _ _ _ => .sequencer
  | .exit => .sequencer
  | .yield _ => .sequencer
  | .prio _ => .sequencer
  | .tdecl _ => .sequencer
  | .jcnt _ _ _ => .sequencer
  | .cfge _ _ => .sequencer
  | .cfgs _ _ => .sequencer
  | .cfgo _ _ => .sequencer
  | .cfgk _ _ => .sequencer
  | .arm _ _ _ => .sequencer
  | .disarm _ => .sequencer
  | .secwait _ _ => .sequencer
  | .strm _ _ => .sequencer
  | .sstop _ _ => .sequencer
  | .smark _ => .sequencer
  | .seal _ _ => .sequencer
  | .tapset _ _ _ => .sequencer
  | .binit _ _ => .sequencer
  | .barr _ _ => .sequencer
  | .bwait _ _ _ => .sequencer
  | .bchgSetExpect _ _ => .sequencer
  | .bchgRelease _ _ => .sequencer
  | .btest _ _ _ => .sequencer
  | .amsg _ _ => .sequencer
  | .amsgw _ => .sequencer
  | .rfill _ _ => .sequencer
  | .publish _ _ => .sequencer
  | .ginv _ _ => .sequencer
  | .gprobe _ _ => .sequencer
  | .trap _ => .sequencer
  | .rett => .sequencer
  | .crd _ _ _ => .sequencer
  | .cwr _ _ _ => .sequencer
  | .wpt _ _ _ => .sequencer
  | .halt => .sequencer
  | .nop => .sequencer
  | .time _ => .sequencer
  | .evrd _ _ _ => .sequencer
  | .iadd _ _ _ => .element
  | .isub _ _ _ => .element
  | .iadds _ _ _ => .element
  | .isubs _ _ _ => .element
  | .imul _ _ _ => .element
  | .imulh _ _ _ => .element
  | .imin _ _ _ => .element
  | .imax _ _ _ => .element
  | .iand _ _ _ => .element
  | .ior _ _ _ => .element
  | .ixor _ _ _ => .element
  | .iandn _ _ _ => .element
  | .ishl _ _ _ => .element
  | .ishr _ _ _ => .element
  | .isar _ _ _ => .element
  | .iabs _ _ _ => .element
  | .ineg _ _ _ => .element
  | .icmp _ _ _ => .element
  | .isel _ _ _ => .element
  | .fadd _ _ _ => .element
  | .fsub _ _ _ => .element
  | .fmul _ _ _ => .element
  | .fmac _ _ _ => .element
  | .fmin _ _ _ => .element
  | .fmax _ _ _ => .element
  | .fcmp _ _ _ => .element
  | .fabs _ _ _ => .element
  | .fneg _ _ _ => .element
  | .frcp _ _ _ => .element
  | .frsq _ _ _ => .element
  | .fsqrt _ _ _ => .element
  | .fexp2 _ _ _ => .element
  | .flog2 _ _ _ => .element
  | .fresc _ _ _ => .element
  | .cvt _ _ _ _ => .element
  | .quant _ _ _ _ => .element
  | .deq _ _ _ _ => .element
  | .pack _ _ => .element
  | .unpack _ _ => .element
  | .tunp _ _ => .element
  | .lsum _ _ _ => .element
  | .lmax _ _ _ => .element
  | .lmin _ _ _ => .element
  | .lshuf _ _ _ => .element
  | .lbcast _ _ _ => .element
  | .lscan _ _ _ => .element
  | .lcmpr _ _ _ => .element
  | .winnow _ _ _ => .element
  | .sjoin _ _ _ => .element
  | .acc _ _ _ => .element
  | .pass _ _ => .element
  | .const _ _ => .element
  | .iota _ _ _ => .element
  | .ldt _ _ _ _ => .element
  | .stt _ => .element
  | .ldo _ _ _ _ => .element
  | .sto _ _ _ => .element
  | .amo _ _ _ => .element
  | .rdx _ _ _ => .element
  | .mwld _ _ => .element
  | .mfeed _ _ => .element
  | .mdrain _ _ => .element
  | .mzero _ _ => .element
  | .mwin => .element
  | .mharrow _ _ _ => .element
  | .mtwid _ _ => .element
  | .harrowStageComplete => .event
  | .twiddleFillDone => .event
  | .memoryPortComplete => .event
  | .steer => .event
  | .merge => .event
  | .select => .event
  | .carry => .event
  | .invar => .event
  | .count => .event
  | .filter => .event
  | .distrib => .event
  | .collect => .event
  | .tap => .event
  | .sealOperator => .event
  | .control => .event
  | .tokenTransfer => .event
  | .messageInject => .event
  | .stopEdgeRequest => .event
  | .sectionCut => .event
  | .sectionIdle => .event
  | .generatorElement => .event
  | .coordinateToken => .event
  | .writeStreamToken => .event
  | .writeStreamEnd => .event
  | .gatherReply => .event
  | .windowAccess => .event
  | .bankAccess => .event
  | .correctionWriteback => .event
  | .scrubRow => .event
  | .scrubTakeover => .event
  | .fifoPush => .event
  | .fifoPop => .event
  | .homePortAccess => .event
  | .pageWalk => .event
  | .lineEntryWriteback => .event
  | .forwardedAccess => .event
  | .heatWindowEnd => .event
  | .tierMove => .event
  | .tierMoveCommit => .event
  | .pullRequest => .event
  | .ownershipMoveComplete => .event
  | .sharerRegister => .event
  | .sharerUpdate => .event
  | .wake => .event
  | .retryRingMove => .event
  | .afterIssueFault => .event
  | .numericWindowEnd => .event
  | .engineInboxMessage => .event
  | .acknowledgement => .event
  | .injectionResend => .event
  | .copy => .event
  | .fill => .event
  | .xpose => .event
  | .gather => .event
  | .scatter => .event
  | .csrb => .event
  | .prefetch => .event
  | .migrate => .event
  | .chkpt => .event
  | .checkpointCut => .event
  | .checkpointEnd => .event
  | .hash => .event
  | .reduce => .event
  | .allred => .event
  | .allgath => .event
  | .rscat => .event
  | .bcast => .event
  | .collectiveBegin => .event
  | .collectiveAbort => .event
  | .publishCommand => .event
  | .engineCommandDrained => .event
  | .barrierArrival => .event
  | .barrierDischarge => .event
  | .barrierComplete => .event
  | .bwaitObserve => .event
  | .podBarrierJoin => .event
  | .podBarrierCompletion => .event
  | .barrierPrioUpdate => .event
  | .podBarrierPoison => .event
  | .inheritanceFloor => .event
  | .signal => .event
  | .drillExamine => .event
  | .drillRetest => .event
  | .claimRequest => .event
  | .granaryLookup => .event
  | .drillPop => .event
  | .parkWake => .event
  | .taskRetire => .event
  | .preemptionRequest => .event
  | .preemptDrainExpiry => .event
  | .launchDoor _ _ => .event
  | .launchArrival => .event
  | .launchWaitSatisfied => .event
  | .swathGrant => .event
  | .codeFill => .event
  | .instanceEntry => .event
  | .dieWithdraw => .event
  | .dieAdd => .event
  | .launchComplete => .event
  | .tholdRetry _ _ => .event
  | .tholdPoison _ _ => .event
  | .thend _ _ => .event
  | .tevpWrite _ _ _ => .event
  | .tevbWrite _ _ _ => .event
  | .tserrRead _ _ => .event
  | .rangeRegisterCommit _ _ _ _ => .event
  | .bufferMapCommit _ _ _ _ => .event
  | .watchpointCommit _ _ _ _ => .event
  | .tinv _ _ => .event
  | .tinvComplete => .event
  | .fppush _ _ _ => .event
  | .mtstatWrite _ _ _ => .event
  | .grtabWrite _ _ => .event
  | .rsvtWrite _ _ _ _ => .event
  | .registerWrite _ _ _ => .event
  | .contextCreate _ _ _ => .event
  | .contextSave _ _ => .event
  | .contextSaved => .event
  | .contextRestore _ _ => .event
  | .contextRestored => .event
  | .contextKill _ _ => .event
  | .contextRelease _ _ => .event
  | .hostMemoryAccess _ _ _ _ => .event
  | .semaphoreRead _ _ _ => .event
  | .semaphoreWrite _ _ _ => .event
  | .hwstatRead _ _ => .event
  | .lqstatRead _ _ => .event
  | .keyLoad _ _ => .event
  | .keyClear _ _ => .event
  | .attestationRequest _ _ => .event
  | .attestationDone => .event
  | .haltResume _ _ => .event
  | .moduleReset _ _ => .event
  | .diePowerUp _ _ => .event
  | .linkDown _ => .event
  | .timeBeacon => .event
  | .beaconArrival _ _ => .event
  | .thermalLimit _ => .event
  | .thermalCritical _ => .event
  | .decodeFault _ => .event
  | .fetchFault _ => .event
  | .sequencerAccessReply => .event
  | .linkTrained _ => .event
  | .frameBoundary => .event

/-- The widths an integer atomic or reduction takes: 32 or 64 bits (R232). -/
def ASize.isInt : ASize → Bool
  | .w32 | .w64 => true
  | .w16 => false

/-- The field limits an instruction's word obeys (R229, R232 to R234, R237). -/
def Instr.wf : Instr → Bool
  | .atomAdd _ _ _ s => s.isInt
  | .atomAnd _ _ _ s => s.isInt
  | .atomOr _ _ _ s => s.isInt
  | .atomXor _ _ _ s => s.isInt
  | .atomMin _ _ _ s => s.isInt
  | .atomMax _ _ _ s => s.isInt
  | .atomMinu _ _ _ s => s.isInt
  | .atomMaxu _ _ _ s => s.isInt
  | .atomSwap _ _ _ s => s.isInt
  | .atomCas _ _ _ s => s.isInt
  | .redAdd _ _ s => s.isInt
  | .redAnd _ _ s => s.isInt
  | .redOr _ _ s => s.isInt
  | .redXor _ _ s => s.isInt
  | .redMin _ _ s => s.isInt
  | .redMax _ _ s => s.isInt
  | .redMinu _ _ s => s.isInt
  | .redMaxu _ _ s => s.isInt
  | .sigeAddress a => a != 0
  | .park _ _ k => 1 ≤ k.toNat && k.toNat ≤ 4
  | .prio c => c.toNat ≤ 7
  | .strm _ n => n.toNat ≤ 3
  | .sstop _ n => n.toNat ≤ 3
  | .seal _ n => n.toNat ≤ 3
  | .tapset _ _ n => n.toNat ≤ 3
  | .publish s _ => s != .lane
  | .wpt _ _ w => w.toNat ≤ 7
  | .iota m _ _ => m != .f .f8
  | .add _ _ _ => true
  | .sub _ _ _ => true
  | .and _ _ _ => true
  | .or _ _ _ => true
  | .xor _ _ _ => true
  | .andn _ _ _ => true
  | .shl _ _ _ => true
  | .shr _ _ _ => true
  | .sar _ _ _ => true
  | .rot _ _ _ => true
  | .mul _ _ _ => true
  | .mulh _ _ _ => true
  | .mulhu _ _ _ => true
  | .div _ _ _ => true
  | .divu _ _ _ => true
  | .rem _ _ _ => true
  | .remu _ _ _ => true
  | .min _ _ _ => true
  | .max _ _ _ => true
  | .minu _ _ _ => true
  | .maxu _ _ _ => true
  | .clz _ _ => true
  | .ctz _ _ => true
  | .cnt _ _ => true
  | .sext _ _ _ => true
  | .zext _ _ _ => true
  | .seq _ _ _ => true
  | .slt _ _ _ => true
  | .sltu _ _ _ => true
  | .sel _ _ _ => true
  | .cmov _ _ _ => true
  | .addi _ _ _ => true
  | .andi _ _ _ => true
  | .ori _ _ _ => true
  | .xori _ _ _ => true
  | .shli _ _ _ => true
  | .shri _ _ _ => true
  | .sari _ _ _ => true
  | .ldi _ _ => true
  | .ldsh _ _ _ => true
  | .slti _ _ _ => true
  | .sltui _ _ _ => true
  | .muli _ _ _ => true
  | .beq _ _ _ => true
  | .bne _ _ _ => true
  | .blt _ _ _ => true
  | .bge _ _ _ => true
  | .bltu _ _ _ => true
  | .bgeu _ _ _ => true
  | .jmp _ => true
  | .jal _ => true
  | .jr _ _ => true
  | .ld _ _ _ _ => true
  | .st _ _ _ _ => true
  | .ldAcq _ _ _ _ => true
  | .stRel _ _ _ _ => true
  | .ldInv _ _ _ _ => true
  | .atomFadd32 _ _ _ => true
  | .atomFadd16 _ _ _ => true
  | .redFadd32 _ _ => true
  | .redFadd16 _ _ => true
  | .redFmax32 _ _ => true
  | .redFmin32 _ _ => true
  | .fence _ => true
  | .sbar _ => true
  | .spawn _ => true
  | .sig _ => true
  | .sigeEntry _ => true
  | .exit => true
  | .yield _ => true
  | .tdecl _ => true
  | .jcnt _ _ _ => true
  | .cfge _ _ => true
  | .cfgs _ _ => true
  | .cfgo _ _ => true
  | .cfgk _ _ => true
  | .arm _ _ _ => true
  | .disarm _ => true
  | .secwait _ _ => true
  | .smark _ => true
  | .binit _ _ => true
  | .barr _ _ => true
  | .bwait _ _ _ => true
  | .bchgSetExpect _ _ => true
  | .bchgRelease _ _ => true
  | .btest _ _ _ => true
  | .amsg _ _ => true
  | .amsgw _ => true
  | .rfill _ _ => true
  | .ginv _ _ => true
  | .gprobe _ _ => true
  | .trap _ => true
  | .rett => true
  | .crd _ _ _ => true
  | .cwr _ _ _ => true
  | .halt => true
  | .nop => true
  | .time _ => true
  | .evrd _ _ _ => true
  | .iadd _ _ _ => true
  | .isub _ _ _ => true
  | .iadds _ _ _ => true
  | .isubs _ _ _ => true
  | .imul _ _ _ => true
  | .imulh _ _ _ => true
  | .imin _ _ _ => true
  | .imax _ _ _ => true
  | .iand _ _ _ => true
  | .ior _ _ _ => true
  | .ixor _ _ _ => true
  | .iandn _ _ _ => true
  | .ishl _ _ _ => true
  | .ishr _ _ _ => true
  | .isar _ _ _ => true
  | .iabs _ _ _ => true
  | .ineg _ _ _ => true
  | .icmp _ _ _ => true
  | .isel _ _ _ => true
  | .fadd _ _ _ => true
  | .fsub _ _ _ => true
  | .fmul _ _ _ => true
  | .fmac _ _ _ => true
  | .fmin _ _ _ => true
  | .fmax _ _ _ => true
  | .fcmp _ _ _ => true
  | .fabs _ _ _ => true
  | .fneg _ _ _ => true
  | .frcp _ _ _ => true
  | .frsq _ _ _ => true
  | .fsqrt _ _ _ => true
  | .fexp2 _ _ _ => true
  | .flog2 _ _ _ => true
  | .fresc _ _ _ => true
  | .cvt _ _ _ _ => true
  | .quant _ _ _ _ => true
  | .deq _ _ _ _ => true
  | .pack _ _ => true
  | .unpack _ _ => true
  | .tunp _ _ => true
  | .lsum _ _ _ => true
  | .lmax _ _ _ => true
  | .lmin _ _ _ => true
  | .lshuf _ _ _ => true
  | .lbcast _ _ _ => true
  | .lscan _ _ _ => true
  | .lcmpr _ _ _ => true
  | .winnow _ _ _ => true
  | .sjoin _ _ _ => true
  | .acc _ _ _ => true
  | .pass _ _ => true
  | .const _ _ => true
  | .ldt _ _ _ _ => true
  | .stt _ => true
  | .ldo _ _ _ _ => true
  | .sto _ _ _ => true
  | .amo _ _ _ => true
  | .rdx _ _ _ => true
  | .mwld _ _ => true
  | .mfeed _ _ => true
  | .mdrain _ _ => true
  | .mzero _ _ => true
  | .mwin => true
  | .mharrow _ _ _ => true
  | .mtwid _ _ => true
  | .harrowStageComplete => true
  | .twiddleFillDone => true
  | .memoryPortComplete => true
  | .steer => true
  | .merge => true
  | .select => true
  | .carry => true
  | .invar => true
  | .count => true
  | .filter => true
  | .distrib => true
  | .collect => true
  | .tap => true
  | .sealOperator => true
  | .control => true
  | .tokenTransfer => true
  | .messageInject => true
  | .stopEdgeRequest => true
  | .sectionCut => true
  | .sectionIdle => true
  | .generatorElement => true
  | .coordinateToken => true
  | .writeStreamToken => true
  | .writeStreamEnd => true
  | .gatherReply => true
  | .windowAccess => true
  | .bankAccess => true
  | .correctionWriteback => true
  | .scrubRow => true
  | .scrubTakeover => true
  | .fifoPush => true
  | .fifoPop => true
  | .homePortAccess => true
  | .pageWalk => true
  | .lineEntryWriteback => true
  | .forwardedAccess => true
  | .heatWindowEnd => true
  | .tierMove => true
  | .tierMoveCommit => true
  | .pullRequest => true
  | .ownershipMoveComplete => true
  | .sharerRegister => true
  | .sharerUpdate => true
  | .wake => true
  | .retryRingMove => true
  | .afterIssueFault => true
  | .numericWindowEnd => true
  | .engineInboxMessage => true
  | .acknowledgement => true
  | .injectionResend => true
  | .copy => true
  | .fill => true
  | .xpose => true
  | .gather => true
  | .scatter => true
  | .csrb => true
  | .prefetch => true
  | .migrate => true
  | .chkpt => true
  | .checkpointCut => true
  | .checkpointEnd => true
  | .hash => true
  | .reduce => true
  | .allred => true
  | .allgath => true
  | .rscat => true
  | .bcast => true
  | .collectiveBegin => true
  | .collectiveAbort => true
  | .publishCommand => true
  | .engineCommandDrained => true
  | .barrierArrival => true
  | .barrierDischarge => true
  | .barrierComplete => true
  | .bwaitObserve => true
  | .podBarrierJoin => true
  | .podBarrierCompletion => true
  | .barrierPrioUpdate => true
  | .podBarrierPoison => true
  | .inheritanceFloor => true
  | .signal => true
  | .drillExamine => true
  | .drillRetest => true
  | .claimRequest => true
  | .granaryLookup => true
  | .drillPop => true
  | .parkWake => true
  | .taskRetire => true
  | .preemptionRequest => true
  | .preemptDrainExpiry => true
  | .launchDoor _ _ => true
  | .launchArrival => true
  | .launchWaitSatisfied => true
  | .swathGrant => true
  | .codeFill => true
  | .instanceEntry => true
  | .dieWithdraw => true
  | .dieAdd => true
  | .launchComplete => true
  | .tholdRetry _ _ => true
  | .tholdPoison _ _ => true
  | .thend _ _ => true
  | .tevpWrite _ _ _ => true
  | .tevbWrite _ _ _ => true
  | .tserrRead _ _ => true
  | .rangeRegisterCommit _ _ _ _ => true
  | .bufferMapCommit _ _ _ _ => true
  | .watchpointCommit _ _ _ _ => true
  | .tinv _ _ => true
  | .tinvComplete => true
  | .fppush _ _ _ => true
  | .mtstatWrite _ _ _ => true
  | .grtabWrite _ _ => true
  | .rsvtWrite _ _ _ _ => true
  | .registerWrite _ _ _ => true
  | .contextCreate _ _ _ => true
  | .contextSave _ _ => true
  | .contextSaved => true
  | .contextRestore _ _ => true
  | .contextRestored => true
  | .contextKill _ _ => true
  | .contextRelease _ _ => true
  | .hostMemoryAccess _ _ _ _ => true
  | .semaphoreRead _ _ _ => true
  | .semaphoreWrite _ _ _ => true
  | .hwstatRead _ _ => true
  | .lqstatRead _ _ => true
  | .keyLoad _ _ => true
  | .keyClear _ _ => true
  | .attestationRequest _ _ => true
  | .attestationDone => true
  | .haltResume _ _ => true
  | .moduleReset _ _ => true
  | .diePowerUp _ _ => true
  | .linkDown _ => true
  | .timeBeacon => true
  | .beaconArrival _ _ => true
  | .thermalLimit _ => true
  | .thermalCritical _ => true
  | .decodeFault _ => true
  | .fetchFault _ => true
  | .sequencerAccessReply => true
  | .linkTrained _ => true
  | .frameBoundary => true

end Sys2Proof
end

