-- ==== Sys2Proof/Decode.lean ====
section
/-! DEFINITION. Decoding of sequencer words (R225 to R235) and element operation words (R236 to R238), and their encoder.
Words are read as numbers: field `h:l` of `w` is `w / 2^l % 2^(h+1-l)`. -/
namespace Sys2Proof

/-- Register field at bits 25:21. -/
def regHi (w : Nat) : Reg := Fin.ofNat 32 (w / 2097152)
/-- Register field at bits 20:16. -/
def regMid (w : Nat) : Reg := Fin.ofNat 32 (w / 65536)
/-- Register field at bits 15:11. -/
def regLo (w : Nat) : Reg := Fin.ofNat 32 (w / 2048)
/-- The gd field of the X format, bits 10:6 (R232, R234). -/
def regX (w : Nat) : Reg := Fin.ofNat 32 (w / 64)
/-- The 16-bit immediate of the I and B formats. -/
def immI (w : Nat) : BitVec 16 := BitVec.ofNat 16 w
/-- The 26-bit word offset of the J format. -/
def immJ (w : Nat) : BitVec 26 := BitVec.ofNat 26 w
/-- The 13-bit byte offset of the M format. -/
def immM (w : Nat) : BitVec 13 := BitVec.ofNat 13 w
/-- The imm6 of the X format. -/
def imm6 (w : Nat) : BitVec 6 := BitVec.ofNat 6 w

/-- Go on where the check holds, else answer the cause (the order of R235 is the order of the calls). -/
def chk (ok : Bool) (c : Cause) (k : Except Cause Instr) : Except Cause Instr := if ok then k else .error c

/-- Size codes of R231. -/
def msizeOf : Nat → Option MSize
  | 0 => some .s8 | 1 => some .z8 | 2 => some .s16 | 3 => some .z16 | 4 => some .s32 | 5 => some .z32 | 6 => some .d64
  | _ => none

/-- Size code of a size (R231). -/
def msizeCode : MSize → Nat
  | .s8 => 0 | .z8 => 1 | .s16 => 2 | .z16 => 3 | .s32 => 4 | .z32 => 5 | .d64 => 6

/-- SZ codes of R232. -/
def asizeOf : Nat → Option ASize
  | 0 => some .w32 | 1 => some .w64 | 2 => some .w16 | _ => none

/-- SZ code of a width (R232). -/
def asizeCode : ASize → Nat
  | .w32 => 0 | .w64 => 1 | .w16 => 2

/-- Scope codes of R7. -/
def scopeOf : Nat → Option Scope
  | 0 => some .lane | 1 => some .core | 2 => some .quad | 3 => some .die | 4 => some .pkg | 5 => some .pod | _ => none

/-- Code of a scope (R7). -/
def scopeCode : Scope → Nat
  | .lane => 0 | .core => 1 | .quad => 2 | .die => 3 | .pkg => 4 | .pod => 5

/-- Integer modifiers of R237. -/
def imodOf : Nat → Option IMod
  | 0 => some .s32 | 1 => some .z32 | 2 => some .s16 | 3 => some .z16 | 4 => some .s8 | 5 => some .z8 | _ => none

/-- Code of an integer modifier (R237). -/
def imodCode : IMod → Nat
  | .s32 => 0 | .z32 => 1 | .s16 => 2 | .z16 => 3 | .s8 => 4 | .z8 => 5

/-- Float modifiers of R237. -/
def fmodOf : Nat → Option FMod
  | 0 => some .f32 | 1 => some .f16 | 2 => some .bf16 | 3 => some .f8 | _ => none

/-- Code of a float modifier (R237). -/
def fmodCode : FMod → Nat
  | .f32 => 0 | .f16 => 1 | .bf16 => 2 | .f8 => 3

/-- Lane modifiers of R237: 0 to 5 integer, 8 to 11 float. -/
def lmodOf : Nat → Option LMod
  | 0 => some (.i .s32) | 1 => some (.i .z32) | 2 => some (.i .s16) | 3 => some (.i .z16) | 4 => some (.i .s8)
  | 5 => some (.i .z8) | 8 => some (.f .f32) | 9 => some (.f .f16) | 10 => some (.f .bf16) | 11 => some (.f .f8)
  | _ => none

/-- Code of a lane modifier (R237). -/
def lmodCode : LMod → Nat
  | .i m => imodCode m
  | .f m => 8 + fmodCode m

/-- Rounding modes of R168. -/
def rmodeOf : Nat → Option RMode
  | 0 => some .rn | 1 => some .rz | 2 => some .ru | 3 => some .rd | 4 => some .rs | _ => none

/-- Code of a rounding mode (R168). -/
def rmodeCode : RMode → Nat
  | .rn => 0 | .rz => 1 | .ru => 2 | .rd => 3 | .rs => 4

/-- Directions of R237. -/
def dirOf : Nat → Dir
  | 0 => .n | 1 => .e | 2 => .s | _ => .w

/-- Code of a direction (R237). -/
def dirCode : Dir → Nat
  | .n => 0 | .e => 1 | .s => 2 | .w => 3

/-- Latch positions of R238. -/
def posOf : Nat → Option Pos
  | 1 => some .l | 2 => some .r | 3 => some .p | _ => none

/-- Code of a latch position (R238). -/
def posCode : Pos → Nat
  | .l => 1 | .r => 2 | .p => 3

/-- A target field (R238), 10 bits. -/
def targetOf (t : Nat) : Option Target :=
  if t / 512 % 2 = 1 then
    if t % 16 = 0 && t / 16 % 32 < 8 then some (.eg (Fin.ofNat 8 (t / 16))) else none
  else if t % 2 = 1 then none
  else match posOf (t / 2 % 4) with
    | some q => some (.loc (Fin.ofNat 64 (t / 8)) q)
    | none => if t / 8 % 64 = 0 then some .none else none

/-- The field of a target (R238). -/
def targetCode : Target → Nat
  | .none => 0
  | .loc s q => s.val * 8 + posCode q * 2
  | .eg c => 512 + c.val * 16

/-- Major 0x00, the computation forms of R228. -/
def decodeA (w : Nat) : Except Cause Instr :=
  match w % 2048 with
  | 0 => .ok (.add (regHi w) (regMid w) (regLo w))
  | 1 => .ok (.sub (regHi w) (regMid w) (regLo w))
  | 2 => .ok (.and (regHi w) (regMid w) (regLo w))
  | 3 => .ok (.or (regHi w) (regMid w) (regLo w))
  | 4 => .ok (.xor (regHi w) (regMid w) (regLo w))
  | 5 => .ok (.andn (regHi w) (regMid w) (regLo w))
  | 6 => .ok (.shl (regHi w) (regMid w) (regLo w))
  | 7 => .ok (.shr (regHi w) (regMid w) (regLo w))
  | 8 => .ok (.sar (regHi w) (regMid w) (regLo w))
  | 9 => .ok (.rot (regHi w) (regMid w) (regLo w))
  | 10 => .ok (.mul (regHi w) (regMid w) (regLo w))
  | 11 => .ok (.mulh (regHi w) (regMid w) (regLo w))
  | 12 => .ok (.mulhu (regHi w) (regMid w) (regLo w))
  | 13 => .ok (.div (regHi w) (regMid w) (regLo w))
  | 14 => .ok (.divu (regHi w) (regMid w) (regLo w))
  | 15 => .ok (.rem (regHi w) (regMid w) (regLo w))
  | 16 => .ok (.remu (regHi w) (regMid w) (regLo w))
  | 17 => .ok (.min (regHi w) (regMid w) (regLo w))
  | 18 => .ok (.max (regHi w) (regMid w) (regLo w))
  | 19 => .ok (.minu (regHi w) (regMid w) (regLo w))
  | 20 => .ok (.maxu (regHi w) (regMid w) (regLo w))
  | 21 => chk (w / 2048 % 32 == 0) Cause.illfld (.ok (.clz (regHi w) (regMid w)))
  | 22 => chk (w / 2048 % 32 == 0) Cause.illfld (.ok (.ctz (regHi w) (regMid w)))
  | 23 => chk (w / 2048 % 32 == 0) Cause.illfld (.ok (.cnt (regHi w) (regMid w)))
  | 24 => .ok (.sext (regHi w) (regMid w) (regLo w))
  | 25 => .ok (.zext (regHi w) (regMid w) (regLo w))
  | 26 => .ok (.seq (regHi w) (regMid w) (regLo w))
  | 27 => .ok (.slt (regHi w) (regMid w) (regLo w))
  | 28 => .ok (.sltu (regHi w) (regMid w) (regLo w))
  | 29 => .ok (.sel (regHi w) (regMid w) (regLo w))
  | 30 => .ok (.cmov (regHi w) (regMid w) (regLo w))
  | _ => .error Cause.illfn

/-- An M-format word (R231). -/
def decodeM (k : Reg → Reg → MSize → BitVec 13 → Instr) (w : Nat) : Except Cause Instr :=
  match msizeOf (w / 8192 % 8) with
  | some s => .ok (k (regHi w) (regMid w) s (immM w))
  | none => .error Cause.illsize

/-- An integer atomic (R232). -/
def decodeAtomInt (k : Reg → Reg → Reg → ASize → Instr) (w : Nat) : Except Cause Instr :=
  chk (w % 16 == 0) Cause.illfld
    (match asizeOf (w / 16 % 4) with
    | some .w32 => .ok (k (regHi w) (regMid w) (regX w) .w32)
    | some .w64 => .ok (k (regHi w) (regMid w) (regX w) .w64)
    | _ => .error Cause.illsize)

/-- A floating-point atomic, with the one SZ it takes (R232). -/
def decodeAtomFloat (k : Reg → Reg → Reg → Instr) (sz : Nat) (w : Nat) : Except Cause Instr :=
  chk (w % 16 == 0) Cause.illfld
    (chk (w / 16 % 4 == sz) Cause.illsize (.ok (k (regHi w) (regMid w) (regX w))))

/-- An integer reduction (R232): GD must be 0. -/
def decodeRedInt (k : Reg → Reg → ASize → Instr) (w : Nat) : Except Cause Instr :=
  chk (w % 16 == 0 && w / 64 % 32 == 0) Cause.illfld
    (match asizeOf (w / 16 % 4) with
    | some .w32 => .ok (k (regHi w) (regMid w) .w32)
    | some .w64 => .ok (k (regHi w) (regMid w) .w64)
    | _ => .error Cause.illsize)

/-- A floating-point reduction (R232). -/
def decodeRedFloat (k : Reg → Reg → Instr) (sz : Nat) (w : Nat) : Except Cause Instr :=
  chk (w % 16 == 0 && w / 64 % 32 == 0) Cause.illfld
    (chk (w / 16 % 4 == sz) Cause.illsize (.ok (k (regHi w) (regMid w))))

/-- Major 0x25, the ATOM group (R232). -/
def decodeAtom (w : Nat) : Except Cause Instr :=
  match w / 2048 % 32 with
  | 0 => decodeAtomInt .atomAdd w
  | 1 => decodeAtomInt .atomAnd w
  | 2 => decodeAtomInt .atomOr w
  | 3 => decodeAtomInt .atomXor w
  | 4 => decodeAtomInt .atomMin w
  | 5 => decodeAtomInt .atomMax w
  | 6 => decodeAtomInt .atomMinu w
  | 7 => decodeAtomInt .atomMaxu w
  | 8 => decodeAtomInt .atomSwap w
  | 9 => decodeAtomInt .atomCas w
  | 10 => decodeAtomFloat .atomFadd32 0 w
  | 11 => decodeAtomFloat .atomFadd16 2 w
  | _ => .error Cause.illfn

/-- Major 0x26, the RED group (R232). -/
def decodeRed (w : Nat) : Except Cause Instr :=
  match w / 2048 % 32 with
  | 0 => decodeRedInt .redAdd w
  | 1 => decodeRedInt .redAnd w
  | 2 => decodeRedInt .redOr w
  | 3 => decodeRedInt .redXor w
  | 4 => decodeRedInt .redMin w
  | 5 => decodeRedInt .redMax w
  | 6 => decodeRedInt .redMinu w
  | 7 => decodeRedInt .redMaxu w
  | 8 => decodeRedFloat .redFadd32 0 w
  | 9 => decodeRedFloat .redFadd16 2 w
  | 10 => decodeRedFloat .redFmax32 0 w
  | 11 => decodeRedFloat .redFmin32 0 w
  | _ => .error Cause.illfn

/-- Major 0x30, tasks (R234). -/
def decodeX30 (w : Nat) : Except Cause Instr :=
  match w / 2048 % 32 with
  | 0 => chk (w / 65536 % 32 == 0 && w / 64 % 32 == 0 && w % 64 == 0) Cause.illfld (.ok (.spawn (regHi w)))
  | 1 => chk (w / 65536 % 32 == 0 && w / 64 % 32 == 0 && w % 64 == 0) Cause.illfld (.ok (.sig (regHi w)))
  | 2 => chk (w / 65536 % 32 == 0 && w / 64 % 32 == 0) Cause.illfld
      (if w / 2097152 % 32 = 0 then .ok (.sigeEntry (imm6 w))
       else chk (w % 64 == 0) Cause.illfld (.ok (.sigeAddress (regHi w))))
  | 3 => chk (w / 64 % 32 == 0 && (decide (1 ≤ w % 64) && decide (w % 64 ≤ 4))) Cause.illfld (.ok (.park (regHi w) (regMid w) (imm6 w)))
  | 4 => chk (w / 2097152 % 32 == 0 && w / 65536 % 32 == 0 && w / 64 % 32 == 0 && w % 64 == 0) Cause.illfld (.ok .exit)
  | 5 => chk (w / 65536 % 32 == 0 && w / 64 % 32 == 0 && w % 64 == 0) Cause.illfld (.ok (.yield (regHi w)))
  | 6 => chk (w / 2097152 % 32 == 0 && w / 65536 % 32 == 0 && w / 64 % 32 == 0 && decide (w % 64 ≤ 7)) Cause.illfld (.ok (.prio (imm6 w)))
  | 7 => chk (w / 65536 % 32 == 0 && w / 64 % 32 == 0 && w % 64 == 0) Cause.illfld (.ok (.tdecl (regHi w)))
  | 8 => chk (w % 64 == 0) Cause.illfld (.ok (.jcnt (regHi w) (regMid w) (regX w)))
  | _ => .error Cause.illfn

/-- Major 0x31, fabric (R234). -/
def decodeX31 (w : Nat) : Except Cause Instr :=
  match w / 2048 % 32 with
  | 0 => chk (w / 64 % 32 == 0 && w % 64 == 0) Cause.illfld (.ok (.cfge (regHi w) (regMid w)))
  | 1 => chk (w / 64 % 32 == 0 && w % 64 == 0) Cause.illfld (.ok (.cfgs (regHi w) (regMid w)))
  | 2 => chk (w / 64 % 32 == 0 && w % 64 == 0) Cause.illfld (.ok (.cfgo (regHi w) (regMid w)))
  | 3 => chk (w / 64 % 32 == 0 && w % 64 == 0) Cause.illfld (.ok (.cfgk (regHi w) (regMid w)))
  | 4 => chk (w / 64 % 32 == 0) Cause.illfld (.ok (.arm (regHi w) (regMid w) (imm6 w)))
  | 5 => chk (w / 2097152 % 32 == 0 && w / 65536 % 32 == 0 && w / 64 % 32 == 0) Cause.illfld (.ok (.disarm (imm6 w)))
  | 6 => chk (w / 2097152 % 32 == 0 && w / 65536 % 32 == 0) Cause.illfld (.ok (.secwait (regX w) (imm6 w)))
  | _ => .error Cause.illfn

/-- Major 0x32, streams (R234). -/
def decodeX32 (w : Nat) : Except Cause Instr :=
  match w / 2048 % 32 with
  | 0 => chk (w / 65536 % 32 == 0 && w / 64 % 32 == 0 && decide (w % 64 ≤ 3)) Cause.illfld (.ok (.strm (regHi w) (imm6 w)))
  | 1 => chk (w / 65536 % 32 == 0 && w / 64 % 32 == 0 && decide (w % 64 ≤ 3)) Cause.illfld (.ok (.sstop (regHi w) (imm6 w)))
  | 2 => chk (w / 2097152 % 32 == 0 && w / 65536 % 32 == 0 && w / 64 % 32 == 0) Cause.illfld (.ok (.smark (imm6 w)))
  | 3 => chk (w / 65536 % 32 == 0 && w / 64 % 32 == 0 && decide (w % 64 ≤ 3)) Cause.illfld (.ok (.seal (regHi w) (imm6 w)))
  | 4 => chk (w / 64 % 32 == 0 && decide (w % 64 ≤ 3)) Cause.illfld (.ok (.tapset (regHi w) (regMid w) (imm6 w)))
  | _ => .error Cause.illfn

/-- Major 0x33, barriers (R234). -/
def decodeX33 (w : Nat) : Except Cause Instr :=
  match w / 2048 % 32 with
  | 0 => chk (w / 64 % 32 == 0 && w % 64 == 0) Cause.illfld (.ok (.binit (regHi w) (regMid w)))
  | 1 => chk (w / 64 % 32 == 0 && w % 64 == 0) Cause.illfld (.ok (.barr (regHi w) (regMid w)))
  | 2 => chk (w % 64 == 0) Cause.illfld (.ok (.bwait (regHi w) (regMid w) (regX w)))
  | 3 => chk (w / 64 % 32 == 0 && w % 64 == 0) Cause.illfld (.ok (.bchgSetExpect (regHi w) (regMid w)))
  | 4 => chk (w % 64 == 0) Cause.illfld (.ok (.btest (regHi w) (regMid w) (regX w)))
  | _ => .error Cause.illfn

/-- Major 0x34, messages (R234). -/
def decodeX34 (w : Nat) : Except Cause Instr :=
  match w / 2048 % 32 with
  | 0 => chk (w / 65536 % 32 == 0 && w % 64 == 0) Cause.illfld (.ok (.amsg (regHi w) (regX w)))
  | 1 => chk (w / 65536 % 32 == 0 && w / 64 % 32 == 0 && w % 64 == 0) Cause.illfld (.ok (.amsgw (regHi w)))
  | 2 => chk (w / 64 % 32 == 0 && w % 64 == 0) Cause.illfld (.ok (.rfill (regHi w) (regMid w)))
  | _ => .error Cause.illfn

/-- Major 0x35, publish and granary (R234). -/
def decodeX35 (w : Nat) : Except Cause Instr :=
  match w / 2048 % 32 with
  | 0 => chk (w / 2097152 % 32 == 0 && w / 65536 % 32 == 0 && w / 64 % 4 == 0) Cause.illfld
      (match scopeOf (w / 256 % 8) with
      | some .lane | none => .error Cause.scope
      | some s => .ok (.publish s (imm6 w)))
  | 1 => chk (w / 64 % 32 == 0 && w % 64 == 0) Cause.illfld (.ok (.ginv (regHi w) (regMid w)))
  | 2 => chk (w / 65536 % 32 == 0 && w % 64 == 0) Cause.illfld (.ok (.gprobe (regHi w) (regX w)))
  | _ => .error Cause.illfn

/-- Major 0x38, system (R234). -/
def decodeX38 (w : Nat) : Except Cause Instr :=
  match w / 2048 % 32 with
  | 0 => chk (w / 2097152 % 32 == 0 && w / 65536 % 32 == 0 && w / 64 % 32 == 0) Cause.illfld (.ok (.trap (imm6 w)))
  | 1 => chk (w / 2097152 % 32 == 0 && w / 65536 % 32 == 0 && w / 64 % 32 == 0 && w % 64 == 0) Cause.illfld (.ok .rett)
  | 2 => chk (w / 65536 % 32 == 0) Cause.illfld (.ok (.crd (regHi w) (regX w) (imm6 w)))
  | 3 => chk (w / 64 % 32 == 0) Cause.illfld (.ok (.cwr (regHi w) (regMid w) (imm6 w)))
  | 4 => chk (w / 64 % 32 == 0 && decide (w % 64 ≤ 7)) Cause.illfld (.ok (.wpt (regHi w) (regMid w) (imm6 w)))
  | 5 => chk (w / 2097152 % 32 == 0 && w / 65536 % 32 == 0 && w / 64 % 32 == 0 && w % 64 == 0) Cause.illfld (.ok .halt)
  | 6 => chk (w / 2097152 % 32 == 0 && w / 65536 % 32 == 0 && w / 64 % 32 == 0 && w % 64 == 0) Cause.illfld (.ok .nop)
  | 7 => chk (w / 2097152 % 32 == 0 && w / 65536 % 32 == 0 && w % 64 == 0) Cause.illfld (.ok (.time (regX w)))
  | 8 => chk (w / 2097152 % 32 == 0 && w / 65536 % 32 == 0 && w / 16 % 4 == 0) Cause.illfld
      (.ok (.evrd (regX w) (w / 8 % 2 == 1) (BitVec.ofNat 3 w)))
  | _ => .error Cause.illfn

/-- A sequencer word as a number (R227, R235). -/
def decodeSeqNat (w : Nat) : Except Cause Instr :=
  match w / 67108864 % 64 with
  | 0x00 => decodeA w
  | 0x01 => .ok (.addi (regHi w) (regMid w) (immI w))
  | 0x02 => .ok (.andi (regHi w) (regMid w) (immI w))
  | 0x03 => .ok (.ori (regHi w) (regMid w) (immI w))
  | 0x04 => .ok (.xori (regHi w) (regMid w) (immI w))
  | 0x05 => chk (w / 64 % 1024 == 0) Cause.illfld (.ok (.shli (regHi w) (regMid w) (imm6 w)))
  | 0x06 => chk (w / 64 % 1024 == 0) Cause.illfld (.ok (.shri (regHi w) (regMid w) (imm6 w)))
  | 0x07 => chk (w / 64 % 1024 == 0) Cause.illfld (.ok (.sari (regHi w) (regMid w) (imm6 w)))
  | 0x08 => chk (w / 65536 % 32 == 0) Cause.illfld (.ok (.ldi (regHi w) (immI w)))
  | 0x09 => .ok (.ldsh (regHi w) (regMid w) (immI w))
  | 0x0A => .ok (.slti (regHi w) (regMid w) (immI w))
  | 0x0B => .ok (.sltui (regHi w) (regMid w) (immI w))
  | 0x0C => .ok (.muli (regHi w) (regMid w) (immI w))
  | 0x10 => .ok (.beq (regHi w) (regMid w) (immI w))
  | 0x11 => .ok (.bne (regHi w) (regMid w) (immI w))
  | 0x12 => .ok (.blt (regHi w) (regMid w) (immI w))
  | 0x13 => .ok (.bge (regHi w) (regMid w) (immI w))
  | 0x14 => .ok (.bltu (regHi w) (regMid w) (immI w))
  | 0x15 => .ok (.bgeu (regHi w) (regMid w) (immI w))
  | 0x16 => .ok (.jmp (immJ w))
  | 0x17 => .ok (.jal (immJ w))
  | 0x18 => chk (w / 65536 % 32 == 0) Cause.illfld (.ok (.jr (regHi w) (immI w)))
  | 0x20 => decodeM .ld w
  | 0x21 => decodeM .st w
  | 0x22 => decodeM .ldAcq w
  | 0x23 => decodeM .stRel w
  | 0x24 => decodeM .ldInv w
  | 0x25 => decodeAtom w
  | 0x26 => decodeRed w
  | 0x27 => chk (w / 2048 % 32 == 0) Cause.illfn
      (chk (w / 65536 % 1024 == 0 && w / 8 % 256 == 0) Cause.illfld
        (match scopeOf (w % 8) with
        | some s => .ok (.fence s)
        | none => .error Cause.scope))
  | 0x28 => chk (w / 2048 % 32 == 0) Cause.illfn
      (chk (w / 65536 % 32 == 0 && w % 2048 == 0) Cause.illfld (.ok (.sbar (regHi w))))
  | 0x30 => decodeX30 w
  | 0x31 => decodeX31 w
  | 0x32 => decodeX32 w
  | 0x33 => decodeX33 w
  | 0x34 => decodeX34 w
  | 0x35 => decodeX35 w
  | 0x38 => decodeX38 w
  | _ => .error Cause.illop

/-- The sequencer's decoder: total on any word, rejecting with the first cause of R235. -/
def decodeSeq (w : BitVec 32) : Except Cause Instr := decodeSeqNat w.toNat

/-! ### Element operation words -/

/-- The two targets of an element word, else TARGET (R238). -/
def withTargets (w : Nat) (k : Target → Target → Instr) : Except Cause Instr :=
  match targetOf (w / 1024 % 1024), targetOf (w % 1024) with
  | some ta, some tb => .ok (k ta tb)
  | _, _ => .error Cause.target

/-- An element word with an integer modifier. -/
def decodeEI (k : IMod → Target → Target → Instr) (w : Nat) : Except Cause Instr :=
  match imodOf (w / 1048576 % 16) with
  | some m => withTargets w (k m)
  | none => .error Cause.elemmod

/-- An element word with a float modifier. -/
def decodeEF (k : FMod → Target → Target → Instr) (w : Nat) : Except Cause Instr :=
  match fmodOf (w / 1048576 % 16) with
  | some m => withTargets w (k m)
  | none => .error Cause.elemmod

/-- An element word with a lane modifier. -/
def decodeEL (k : LMod → Target → Target → Instr) (w : Nat) : Except Cause Instr :=
  match lmodOf (w / 1048576 % 16) with
  | some m => withTargets w (k m)
  | none => .error Cause.elemmod

/-- A conversion word: SAT and rounding mode; codes 5 to 7 are sent to RMODE (R237). -/
def decodeEC (k : Bool → RMode → Target → Target → Instr) (w : Nat) : Except Cause Instr :=
  match rmodeOf (w / 1048576 % 8) with
  | some m => withTargets w (k (w / 8388608 % 2 == 1) m)
  | none => .error Cause.rmode

/-- An element word whose modifier must be 0. -/
def decodeE0 (k : Target → Target → Instr) (w : Nat) : Except Cause Instr :=
  chk (w / 1048576 % 16 == 0) Cause.elemmod (withTargets w k)

/-- A memory-port word that may set INV. -/
def decodeEPI (k : Dir → Bool → Target → Target → Instr) (w : Nat) : Except Cause Instr :=
  chk (w / 1048576 % 2 == 0) Cause.elemmod (withTargets w (k (dirOf (w / 4194304 % 4)) (w / 2097152 % 2 == 1)))

/-- A memory-port or MHARROW word with a direction only. -/
def decodeEP (k : Dir → Target → Target → Instr) (w : Nat) : Except Cause Instr :=
  chk (w / 1048576 % 4 == 0) Cause.elemmod (withTargets w (k (dirOf (w / 4194304 % 4))))

/-- An element word as a number (R236 to R238). -/
def decodeElemNat (w : Nat) : Except Cause Instr :=
  match w / 16777216 % 256 with
  | 0x01 => decodeEI .iadd w
  | 0x02 => decodeEI .isub w
  | 0x03 => decodeEI .iadds w
  | 0x04 => decodeEI .isubs w
  | 0x05 => decodeEI .imul w
  | 0x06 => decodeEI .imulh w
  | 0x07 => decodeEI .imin w
  | 0x08 => decodeEI .imax w
  | 0x09 => decodeEI .iand w
  | 0x0A => decodeEI .ior w
  | 0x0B => decodeEI .ixor w
  | 0x0C => decodeEI .iandn w
  | 0x0D => decodeEI .ishl w
  | 0x0E => decodeEI .ishr w
  | 0x0F => decodeEI .isar w
  | 0x10 => decodeEI .iabs w
  | 0x11 => decodeEI .ineg w
  | 0x12 => decodeEI .icmp w
  | 0x13 => decodeEI .isel w
  | 0x20 => decodeEF .fadd w
  | 0x21 => decodeEF .fsub w
  | 0x22 => decodeEF .fmul w
  | 0x23 => decodeEF .fmac w
  | 0x24 => decodeEF .fmin w
  | 0x25 => decodeEF .fmax w
  | 0x26 => decodeEF .fcmp w
  | 0x27 => decodeEF .fabs w
  | 0x28 => decodeEF .fneg w
  | 0x29 => decodeEF .frcp w
  | 0x2A => decodeEF .frsq w
  | 0x2B => decodeEF .fsqrt w
  | 0x2C => decodeEF .fexp2 w
  | 0x2D => decodeEF .flog2 w
  | 0x2E => decodeEF .fresc w
  | 0x30 => decodeEC .cvt w
  | 0x31 => decodeEC .quant w
  | 0x32 => decodeEC .deq w
  | 0x33 => decodeE0 .pack w
  | 0x34 => decodeE0 .unpack w
  | 0x35 => decodeE0 .tunp w
  | 0x40 => decodeEL .lsum w
  | 0x41 => decodeEL .lmax w
  | 0x42 => decodeEL .lmin w
  | 0x43 => decodeEL .lshuf w
  | 0x44 => decodeEL .lbcast w
  | 0x45 => decodeEL .lscan w
  | 0x46 => decodeEL .lcmpr w
  | 0x47 => decodeEL .winnow w
  | 0x50 => decodeEL .sjoin w
  | 0x51 => decodeEL .acc w
  | 0x52 => decodeE0 .pass w
  | 0x53 => decodeE0 .const w
  | 0x54 =>
    match lmodOf (w / 1048576 % 16) with
    | none | some (.f .f8) => .error Cause.elemmod
    | some m => withTargets w (.iota m)
  | 0x60 => decodeEPI .ldt w
  | 0x61 => chk (w / 1048576 % 4 == 0) Cause.elemmod
      (chk (w % 1048576 == 0) Cause.target (.ok (.stt (dirOf (w / 4194304 % 4)))))
  | 0x62 => decodeEPI .ldo w
  | 0x63 => decodeEP .sto w
  | 0x64 => decodeEP .amo w
  | 0x65 => decodeEP .rdx w
  | 0x70 => decodeE0 .mwld w
  | 0x71 => decodeE0 .mfeed w
  | 0x72 => decodeE0 .mdrain w
  | 0x73 => decodeE0 .mzero w
  | 0x74 => chk (w / 1048576 % 16 == 0) Cause.elemmod (chk (w % 1048576 == 0) Cause.target (.ok .mwin))
  | 0x75 => decodeEP .mharrow w
  | 0x76 => decodeE0 .mtwid w
  | _ => .error Cause.elemop

/-- The element's decoder. The all-zero word is an empty slot and decodes to nothing (R236). -/
def decodeElem (w : BitVec 32) : Except Cause Instr := decodeElemNat w.toNat

/-! ### The encoder -/

/-- An A-format word (R225). -/
def wordA (d a b : Reg) (fn : Nat) : Nat := d.val * 2097152 + a.val * 65536 + b.val * 2048 + fn
/-- An I-format word. -/
def wordI (mj : Nat) (d a : Reg) (i : Nat) : Nat := mj * 67108864 + d.val * 2097152 + a.val * 65536 + i
/-- An X-format word. -/
def wordX (mj : Nat) (a b : Reg) (fn fld : Nat) : Nat :=
  mj * 67108864 + a.val * 2097152 + b.val * 65536 + fn * 2048 + fld
/-- An element word. -/
def wordE (op md : Nat) (ta tb : Target) : Nat := op * 16777216 + md * 1048576 + targetCode ta * 1024 + targetCode tb

/-- The word of an instruction as a number; 0 for an event, which has none. -/
def encodeNat : Instr → Nat
  | .add d a b => wordA d a b 0
  | .sub d a b => wordA d a b 1
  | .and d a b => wordA d a b 2
  | .or d a b => wordA d a b 3
  | .xor d a b => wordA d a b 4
  | .andn d a b => wordA d a b 5
  | .shl d a b => wordA d a b 6
  | .shr d a b => wordA d a b 7
  | .sar d a b => wordA d a b 8
  | .rot d a b => wordA d a b 9
  | .mul d a b => wordA d a b 10
  | .mulh d a b => wordA d a b 11
  | .mulhu d a b => wordA d a b 12
  | .div d a b => wordA d a b 13
  | .divu d a b => wordA d a b 14
  | .rem d a b => wordA d a b 15
  | .remu d a b => wordA d a b 16
  | .min d a b => wordA d a b 17
  | .max d a b => wordA d a b 18
  | .minu d a b => wordA d a b 19
  | .maxu d a b => wordA d a b 20
  | .clz d a => wordA d a 0 21
  | .ctz d a => wordA d a 0 22
  | .cnt d a => wordA d a 0 23
  | .sext d a b => wordA d a b 24
  | .zext d a b => wordA d a b 25
  | .seq d a b => wordA d a b 26
  | .slt d a b => wordA d a b 27
  | .sltu d a b => wordA d a b 28
  | .sel d a b => wordA d a b 29
  | .cmov d a b => wordA d a b 30
  | .addi d a i => wordI 0x01 d a i.toNat
  | .andi d a i => wordI 0x02 d a i.toNat
  | .ori d a i => wordI 0x03 d a i.toNat
  | .xori d a i => wordI 0x04 d a i.toNat
  | .shli d a i => wordI 0x05 d a i.toNat
  | .shri d a i => wordI 0x06 d a i.toNat
  | .sari d a i => wordI 0x07 d a i.toNat
  | .ldi d i => wordI 0x08 d 0 i.toNat
  | .ldsh d a i => wordI 0x09 d a i.toNat
  | .slti d a i => wordI 0x0A d a i.toNat
  | .sltui d a i => wordI 0x0B d a i.toNat
  | .muli d a i => wordI 0x0C d a i.toNat
  | .beq a b o => wordI 0x10 a b o.toNat
  | .bne a b o => wordI 0x11 a b o.toNat
  | .blt a b o => wordI 0x12 a b o.toNat
  | .bge a b o => wordI 0x13 a b o.toNat
  | .bltu a b o => wordI 0x14 a b o.toNat
  | .bgeu a b o => wordI 0x15 a b o.toNat
  | .jmp o => 0x16 * 67108864 + o.toNat
  | .jal o => 0x17 * 67108864 + o.toNat
  | .jr a o => wordI 0x18 a 0 o.toNat
  | .ld d a s o => wordI 0x20 d a (msizeCode s * 8192 + o.toNat)
  | .st d a s o => wordI 0x21 d a (msizeCode s * 8192 + o.toNat)
  | .ldAcq d a s o => wordI 0x22 d a (msizeCode s * 8192 + o.toNat)
  | .stRel d a s o => wordI 0x23 d a (msizeCode s * 8192 + o.toNat)
  | .ldInv d a s o => wordI 0x24 d a (msizeCode s * 8192 + o.toNat)
  | .atomAdd a b d s => wordX 0x25 a b 0 (d.val * 64 + asizeCode s * 16)
  | .atomAnd a b d s => wordX 0x25 a b 1 (d.val * 64 + asizeCode s * 16)
  | .atomOr a b d s => wordX 0x25 a b 2 (d.val * 64 + asizeCode s * 16)
  | .atomXor a b d s => wordX 0x25 a b 3 (d.val * 64 + asizeCode s * 16)
  | .atomMin a b d s => wordX 0x25 a b 4 (d.val * 64 + asizeCode s * 16)
  | .atomMax a b d s => wordX 0x25 a b 5 (d.val * 64 + asizeCode s * 16)
  | .atomMinu a b d s => wordX 0x25 a b 6 (d.val * 64 + asizeCode s * 16)
  | .atomMaxu a b d s => wordX 0x25 a b 7 (d.val * 64 + asizeCode s * 16)
  | .atomSwap a b d s => wordX 0x25 a b 8 (d.val * 64 + asizeCode s * 16)
  | .atomCas a b d s => wordX 0x25 a b 9 (d.val * 64 + asizeCode s * 16)
  | .atomFadd32 a b d => wordX 0x25 a b 10 (d.val * 64)
  | .atomFadd16 a b d => wordX 0x25 a b 11 (d.val * 64 + 32)
  | .redAdd a b s => wordX 0x26 a b 0 (asizeCode s * 16)
  | .redAnd a b s => wordX 0x26 a b 1 (asizeCode s * 16)
  | .redOr a b s => wordX 0x26 a b 2 (asizeCode s * 16)
  | .redXor a b s => wordX 0x26 a b 3 (asizeCode s * 16)
  | .redMin a b s => wordX 0x26 a b 4 (asizeCode s * 16)
  | .redMax a b s => wordX 0x26 a b 5 (asizeCode s * 16)
  | .redMinu a b s => wordX 0x26 a b 6 (asizeCode s * 16)
  | .redMaxu a b s => wordX 0x26 a b 7 (asizeCode s * 16)
  | .redFadd32 a b => wordX 0x26 a b 8 0
  | .redFadd16 a b => wordX 0x26 a b 9 32
  | .redFmax32 a b => wordX 0x26 a b 10 0
  | .redFmin32 a b => wordX 0x26 a b 11 0
  | .fence s => wordX 0x27 0 0 0 (scopeCode s)
  | .sbar a => wordX 0x28 a 0 0 0
  | .spawn a => wordX 0x30 a 0 0 0
  | .sig a => wordX 0x30 a 0 1 0
  | .sigeAddress a => wordX 0x30 a 0 2 0
  | .sigeEntry j => wordX 0x30 0 0 2 j.toNat
  | .park a b k => wordX 0x30 a b 3 (k.toNat)
  | .exit => wordX 0x30 0 0 4 0
  | .yield a => wordX 0x30 a 0 5 0
  | .prio c => wordX 0x30 0 0 6 (c.toNat)
  | .tdecl a => wordX 0x30 a 0 7 0
  | .jcnt a b d => wordX 0x30 a b 8 (d.val * 64)
  | .cfge a b => wordX 0x31 a b 0 0
  | .cfgs a b => wordX 0x31 a b 1 0
  | .cfgo a b => wordX 0x31 a b 2 0
  | .cfgk a b => wordX 0x31 a b 3 0
  | .arm a b s => wordX 0x31 a b 4 (s.toNat)
  | .disarm s => wordX 0x31 0 0 5 (s.toNat)
  | .secwait d s => wordX 0x31 0 0 6 (d.val * 64 + s.toNat)
  | .strm a n => wordX 0x32 a 0 0 (n.toNat)
  | .sstop a n => wordX 0x32 a 0 1 (n.toNat)
  | .smark s => wordX 0x32 0 0 2 (s.toNat)
  | .seal a n => wordX 0x32 a 0 3 (n.toNat)
  | .tapset a b n => wordX 0x32 a b 4 (n.toNat)
  | .binit a b => wordX 0x33 a b 0 0
  | .barr a b => wordX 0x33 a b 1 0
  | .bwait a b d => wordX 0x33 a b 2 (d.val * 64)
  | .bchgSetExpect a b => wordX 0x33 a b 3 0
  | .bchgRelease a b => wordX 0x33 a b 3 0
  | .btest a b d => wordX 0x33 a b 4 (d.val * 64)
  | .amsg a d => wordX 0x34 a 0 0 (d.val * 64)
  | .amsgw a => wordX 0x34 a 0 1 0
  | .rfill a b => wordX 0x34 a b 2 0
  | .publish s e => wordX 0x35 0 0 0 (scopeCode s * 256 + e.toNat)
  | .ginv a b => wordX 0x35 a b 1 0
  | .gprobe a d => wordX 0x35 a 0 2 (d.val * 64)
  | .trap n => wordX 0x38 0 0 0 (n.toNat)
  | .rett => wordX 0x38 0 0 1 0
  | .crd a d n => wordX 0x38 a 0 2 (d.val * 64 + n.toNat)
  | .cwr a b n => wordX 0x38 a b 3 (n.toNat)
  | .wpt a b w => wordX 0x38 a b 4 (w.toNat)
  | .halt => wordX 0x38 0 0 5 0
  | .nop => wordX 0x38 0 0 6 0
  | .time d => wordX 0x38 0 0 7 (d.val * 64)
  | .evrd d c k => wordX 0x38 0 0 8 (d.val * 64 + c.toNat * 8 + k.toNat)
  | .iadd m ta tb => wordE 0x01 (imodCode m) ta tb
  | .isub m ta tb => wordE 0x02 (imodCode m) ta tb
  | .iadds m ta tb => wordE 0x03 (imodCode m) ta tb
  | .isubs m ta tb => wordE 0x04 (imodCode m) ta tb
  | .imul m ta tb => wordE 0x05 (imodCode m) ta tb
  | .imulh m ta tb => wordE 0x06 (imodCode m) ta tb
  | .imin m ta tb => wordE 0x07 (imodCode m) ta tb
  | .imax m ta tb => wordE 0x08 (imodCode m) ta tb
  | .iand m ta tb => wordE 0x09 (imodCode m) ta tb
  | .ior m ta tb => wordE 0x0A (imodCode m) ta tb
  | .ixor m ta tb => wordE 0x0B (imodCode m) ta tb
  | .iandn m ta tb => wordE 0x0C (imodCode m) ta tb
  | .ishl m ta tb => wordE 0x0D (imodCode m) ta tb
  | .ishr m ta tb => wordE 0x0E (imodCode m) ta tb
  | .isar m ta tb => wordE 0x0F (imodCode m) ta tb
  | .iabs m ta tb => wordE 0x10 (imodCode m) ta tb
  | .ineg m ta tb => wordE 0x11 (imodCode m) ta tb
  | .icmp m ta tb => wordE 0x12 (imodCode m) ta tb
  | .isel m ta tb => wordE 0x13 (imodCode m) ta tb
  | .fadd m ta tb => wordE 0x20 (fmodCode m) ta tb
  | .fsub m ta tb => wordE 0x21 (fmodCode m) ta tb
  | .fmul m ta tb => wordE 0x22 (fmodCode m) ta tb
  | .fmac m ta tb => wordE 0x23 (fmodCode m) ta tb
  | .fmin m ta tb => wordE 0x24 (fmodCode m) ta tb
  | .fmax m ta tb => wordE 0x25 (fmodCode m) ta tb
  | .fcmp m ta tb => wordE 0x26 (fmodCode m) ta tb
  | .fabs m ta tb => wordE 0x27 (fmodCode m) ta tb
  | .fneg m ta tb => wordE 0x28 (fmodCode m) ta tb
  | .frcp m ta tb => wordE 0x29 (fmodCode m) ta tb
  | .frsq m ta tb => wordE 0x2A (fmodCode m) ta tb
  | .fsqrt m ta tb => wordE 0x2B (fmodCode m) ta tb
  | .fexp2 m ta tb => wordE 0x2C (fmodCode m) ta tb
  | .flog2 m ta tb => wordE 0x2D (fmodCode m) ta tb
  | .fresc m ta tb => wordE 0x2E (fmodCode m) ta tb
  | .cvt sat rm ta tb => wordE 0x30 (sat.toNat * 8 + rmodeCode rm) ta tb
  | .quant sat rm ta tb => wordE 0x31 (sat.toNat * 8 + rmodeCode rm) ta tb
  | .deq sat rm ta tb => wordE 0x32 (sat.toNat * 8 + rmodeCode rm) ta tb
  | .pack ta tb => wordE 0x33 0 ta tb
  | .unpack ta tb => wordE 0x34 0 ta tb
  | .tunp ta tb => wordE 0x35 0 ta tb
  | .lsum m ta tb => wordE 0x40 (lmodCode m) ta tb
  | .lmax m ta tb => wordE 0x41 (lmodCode m) ta tb
  | .lmin m ta tb => wordE 0x42 (lmodCode m) ta tb
  | .lshuf m ta tb => wordE 0x43 (lmodCode m) ta tb
  | .lbcast m ta tb => wordE 0x44 (lmodCode m) ta tb
  | .lscan m ta tb => wordE 0x45 (lmodCode m) ta tb
  | .lcmpr m ta tb => wordE 0x46 (lmodCode m) ta tb
  | .winnow m ta tb => wordE 0x47 (lmodCode m) ta tb
  | .sjoin m ta tb => wordE 0x50 (lmodCode m) ta tb
  | .acc m ta tb => wordE 0x51 (lmodCode m) ta tb
  | .pass ta tb => wordE 0x52 0 ta tb
  | .const ta tb => wordE 0x53 0 ta tb
  | .iota m ta tb => wordE 0x54 (lmodCode m) ta tb
  | .ldt d inv ta tb => wordE 0x60 (dirCode d * 4 + inv.toNat * 2) ta tb
  | .stt d => wordE 0x61 (dirCode d * 4) .none .none
  | .ldo d inv ta tb => wordE 0x62 (dirCode d * 4 + inv.toNat * 2) ta tb
  | .sto d ta tb => wordE 0x63 (dirCode d * 4) ta tb
  | .amo d ta tb => wordE 0x64 (dirCode d * 4) ta tb
  | .rdx d ta tb => wordE 0x65 (dirCode d * 4) ta tb
  | .mwld ta tb => wordE 0x70 0 ta tb
  | .mfeed ta tb => wordE 0x71 0 ta tb
  | .mdrain ta tb => wordE 0x72 0 ta tb
  | .mzero ta tb => wordE 0x73 0 ta tb
  | .mwin => wordE 0x74 0 .none .none
  | .mharrow d ta tb => wordE 0x75 (dirCode d * 4) ta tb
  | .mtwid ta tb => wordE 0x76 0 ta tb
  | .harrowStageComplete => 0
  | .twiddleFillDone => 0
  | .memoryPortComplete => 0
  | .steer => 0
  | .merge => 0
  | .select => 0
  | .carry => 0
  | .invar => 0
  | .count => 0
  | .filter => 0
  | .distrib => 0
  | .collect => 0
  | .tap => 0
  | .sealOperator => 0
  | .control => 0
  | .tokenTransfer => 0
  | .messageInject => 0
  | .stopEdgeRequest => 0
  | .sectionCut => 0
  | .sectionIdle => 0
  | .generatorElement => 0
  | .coordinateToken => 0
  | .writeStreamToken => 0
  | .writeStreamEnd => 0
  | .gatherReply => 0
  | .windowAccess => 0
  | .bankAccess => 0
  | .correctionWriteback => 0
  | .scrubRow => 0
  | .scrubTakeover => 0
  | .fifoPush => 0
  | .fifoPop => 0
  | .homePortAccess => 0
  | .pageWalk => 0
  | .lineEntryWriteback => 0
  | .forwardedAccess => 0
  | .heatWindowEnd => 0
  | .tierMove => 0
  | .tierMoveCommit => 0
  | .pullRequest => 0
  | .ownershipMoveComplete => 0
  | .sharerRegister => 0
  | .sharerUpdate => 0
  | .wake => 0
  | .retryRingMove => 0
  | .afterIssueFault => 0
  | .numericWindowEnd => 0
  | .engineInboxMessage => 0
  | .acknowledgement => 0
  | .injectionResend => 0
  | .copy => 0
  | .fill => 0
  | .xpose => 0
  | .gather => 0
  | .scatter => 0
  | .csrb => 0
  | .prefetch => 0
  | .migrate => 0
  | .chkpt => 0
  | .checkpointCut => 0
  | .checkpointEnd => 0
  | .hash => 0
  | .reduce => 0
  | .allred => 0
  | .allgath => 0
  | .rscat => 0
  | .bcast => 0
  | .collectiveBegin => 0
  | .collectiveAbort => 0
  | .publishCommand => 0
  | .engineCommandDrained => 0
  | .barrierArrival => 0
  | .barrierDischarge => 0
  | .barrierComplete => 0
  | .bwaitObserve => 0
  | .podBarrierJoin => 0
  | .podBarrierCompletion => 0
  | .barrierPrioUpdate => 0
  | .podBarrierPoison => 0
  | .inheritanceFloor => 0
  | .signal => 0
  | .drillExamine => 0
  | .drillRetest => 0
  | .claimRequest => 0
  | .granaryLookup => 0
  | .drillPop => 0
  | .parkWake => 0
  | .taskRetire => 0
  | .preemptionRequest => 0
  | .preemptDrainExpiry => 0
  | .launchDoor _ _ => 0
  | .launchArrival => 0
  | .launchWaitSatisfied => 0
  | .swathGrant => 0
  | .codeFill => 0
  | .instanceEntry => 0
  | .dieWithdraw => 0
  | .dieAdd => 0
  | .launchComplete => 0
  | .tholdRetry _ _ => 0
  | .tholdPoison _ _ => 0
  | .thend _ _ => 0
  | .tevpWrite _ _ _ => 0
  | .tevbWrite _ _ _ => 0
  | .tserrRead _ _ => 0
  | .rangeRegisterCommit _ _ _ _ => 0
  | .bufferMapCommit _ _ _ _ => 0
  | .watchpointCommit _ _ _ _ => 0
  | .tinv _ _ => 0
  | .tinvComplete => 0
  | .fppush _ _ _ => 0
  | .mtstatWrite _ _ _ => 0
  | .grtabWrite _ _ => 0
  | .rsvtWrite _ _ _ _ => 0
  | .registerWrite _ _ _ => 0
  | .contextCreate _ _ _ => 0
  | .contextSave _ _ => 0
  | .contextSaved => 0
  | .contextRestore _ _ => 0
  | .contextRestored => 0
  | .contextKill _ _ => 0
  | .contextRelease _ _ => 0
  | .hostMemoryAccess _ _ _ _ => 0
  | .semaphoreRead _ _ _ => 0
  | .semaphoreWrite _ _ _ => 0
  | .hwstatRead _ _ => 0
  | .lqstatRead _ _ => 0
  | .keyLoad _ _ => 0
  | .keyClear _ _ => 0
  | .attestationRequest _ _ => 0
  | .attestationDone => 0
  | .haltResume _ _ => 0
  | .moduleReset _ _ => 0
  | .diePowerUp _ _ => 0
  | .linkDown _ => 0
  | .timeBeacon => 0
  | .beaconArrival _ _ => 0
  | .thermalLimit _ => 0
  | .thermalCritical _ => 0
  | .decodeFault _ => 0
  | .fetchFault _ => 0
  | .sequencerAccessReply => 0
  | .linkTrained _ => 0
  | .frameBoundary => 0

/-- The encoder: the 32-bit word of a well-formed instruction. -/
def encode (i : Instr) : BitVec 32 := BitVec.ofNat 32 (encodeNat i)

/-- The instruction a word of `i` decodes to: `i`, but for BCHG, whose two rows share one word and part at run time by
bits 63:62 of gb (R297). -/
def Instr.canon : Instr → Instr
  | .bchgRelease a b => .bchgSetExpect a b
  | i => i

/-! ### The table's words -/

/-- Words that the opcode table gives an element row whole, with every operand zero: these, and no other word, are read
as element words where a sequencer row's own word is not named (log 10). -/
def elemRowWords : List Nat :=
  [ 0x01000000, 0x02000000, 0x03000000, 0x04000000, 0x05000000, 0x06000000, 0x07000000, 0x08000000,
    0x09000000, 0x0A000000, 0x0B000000, 0x0C000000, 0x0D000000, 0x0E000000, 0x0F000000, 0x10000000,
    0x11000000, 0x12000000, 0x13000000, 0x20000000, 0x21000000, 0x22000000, 0x23000000, 0x24000000,
    0x25000000, 0x26000000, 0x27000000, 0x28000000, 0x29000000, 0x2A000000, 0x2B000000, 0x2C000000,
    0x2D000000, 0x2E000000, 0x30000000, 0x31000000, 0x32000000, 0x33000000, 0x34000000, 0x35000000,
    0x40000000, 0x41000000, 0x42000000, 0x43000000, 0x44000000, 0x45000000, 0x46000000, 0x47000000,
    0x50000000, 0x51000000, 0x52000000, 0x53000000, 0x54000000, 0x60000000, 0x61000000, 0x62000000,
    0x63000000, 0x64000000, 0x65000000, 0x70000000, 0x71000000, 0x72000000, 0x73000000, 0x74000000,
    0x75000000, 0x76000000 ]

/-- Words that the opcode table gives a sequencer row whole. -/
def seqRowWords : List Nat :=
  [ 0x00000000, 0x00000001, 0x00000002, 0x00000003, 0x00000004, 0x00000005, 0x00000006, 0x00000007,
    0x00000008, 0x00000009, 0x0000000A, 0x0000000B, 0x0000000C, 0x0000000D, 0x0000000E, 0x0000000F,
    0x00000010, 0x00000011, 0x00000012, 0x00000013, 0x00000014, 0x00000015, 0x00000016, 0x00000017,
    0x00000018, 0x00000019, 0x0000001A, 0x0000001B, 0x0000001C, 0x0000001D, 0x0000001E, 0x04000000,
    0x08000000, 0x0C000000, 0x10000000, 0x14000000, 0x18000000, 0x1C000000, 0x20000000, 0x24000000,
    0x28000000, 0x2C000000, 0x30000000, 0x40000000, 0x44000000, 0x48000000, 0x4C000000, 0x50000000,
    0x54000000, 0x58000000, 0x5C000000, 0x60000000, 0x80000000, 0x84000000, 0x88000000, 0x8C000000,
    0x90000000, 0x94000000, 0x94000800, 0x94001000, 0x94001800, 0x94002000, 0x94002800, 0x94003000,
    0x94003800, 0x94004000, 0x94004800, 0x94005000, 0x94005820, 0x98000000, 0x98000800, 0x98001000,
    0x98001800, 0x98002000, 0x98002800, 0x98003000, 0x98003800, 0x98004000, 0x98004820, 0x98005000,
    0x98005800, 0x9C000000, 0xA0000000, 0xC0000000, 0xC0000800, 0xC0001000, 0xC0001800, 0xC0002000,
    0xC0002800, 0xC0003000, 0xC0003800, 0xC0004000, 0xC4000000, 0xC4000800, 0xC4001000, 0xC4001800,
    0xC4002000, 0xC4002800, 0xC4003000, 0xC8000000, 0xC8000800, 0xC8001000, 0xC8001800, 0xC8002000,
    0xCC000000, 0xCC000800, 0xCC001000, 0xCC001800, 0xCC002000, 0xD0000000, 0xD0000800, 0xD0001000,
    0xD4000000, 0xD4000800, 0xD4001000, 0xE0000000, 0xE0000800, 0xE0001000, 0xE0001800, 0xE0002000,
    0xE0002800, 0xE0003000, 0xE0003800, 0xE0004000 ]

/-- The answer of a decoder as an option. -/
def toOption : Except Cause Instr → Option Instr
  | .ok i => some i
  | .error _ => none

/-- A word of the opcode table (R225, R236): a sequencer row's own word and any legal sequencer word is read by the
sequencer's decoder, an element row's own word and any other by the element's (log 10: the two encodings overlap, and on
the machine the unit that holds the word tells them apart). -/
def decodeTableWord (nbits w : Nat) : Option Instr :=
  if nbits = 0 ∨ 32 < nbits then none
  else if seqRowWords.contains w then toOption (decodeSeq (BitVec.ofNat 32 w))
  else if elemRowWords.contains w then toOption (decodeElem (BitVec.ofNat 32 w))
  else match decodeSeq (BitVec.ofNat 32 w) with
    | .ok i => some i
    | .error _ => toOption (decodeElem (BitVec.ofNat 32 w))

end Sys2Proof
end

