-- ==== Sys2Proof/Config.lean ====
section
/-! DEFINITION. What an implementation fixes and what the spec leaves open: constants without a body, so that no proof can
see their values (log 2, log 7). -/
namespace Sys2Proof.Config

/-- Places of a slot-to-egress path (R213; log 17). -/
opaque egressPlaces : Nat → Nat → Fin 9

/-- FEXP2's result where R185 gives an error bound only (log 7). -/
opaque fexp2 : BitVec 32 → BitVec 32

/-- FLOG2's result where R186 gives an error bound only (log 7). -/
opaque flog2 : BitVec 32 → BitVec 32

/-- FRCP's result where R186 gives an error bound only (log 7). -/
opaque frcp : BitVec 32 → BitVec 32

/-- FRSQ's result where R186 gives an error bound only (log 7). -/
opaque frsq : BitVec 32 → BitVec 32

/-- A free choice, a fresh one for each count of State.free (log 2): the banks of R390. -/
opaque freeChoice : Nat → Nat

/-- A free byte, a fresh one for each count: a near or far byte read under another key than it was written under (R44,
R160; log 8). -/
opaque freeByte : Nat → Byte

/-- A word of a trap frame or record that the spec gives no value for, a fresh one for each count (log 12): TVAL of the
causes that R409 does not list. -/
opaque openWord : Nat → BitVec 64

/-- The 32-byte tenant key of the granary, derived by Forfin from the identity key (R391, R465; log 8). -/
opaque tenantKey : Nat → BitVec 256

/-- The link a flow takes among the set links of its route entry: a hash of source tile and node (R462; log 8). -/
opaque linkHash : Nat → Nat → Nat

/-- The attestation report's digests, public key and signature over its first bytes (R466; log 8): report byte `i` for a
nonce and node. -/
opaque reportByte : List Word → Nat → Nat → Byte

/-- Whether a frame of a checkpoint image passes the XTS decryption check at a restore (R160; log 8). -/
opaque frameOk : Nat → Bool

/-- Byte `i` of the key stream under which line `n` of a checkpoint image leaves a node (R157; log 8). -/
opaque imageStream : Nat → Nat → Nat → Byte

/-- The frame of device memory in whose first line the fallow reserves name the state on the dies that a checkpoint's cut has put into
them (R155, R157; log 89). -/
opaque reserveFrame : Fin (28 * 2 ^ 20)

/-- Where the directory entry of a page lies in HOME's device memory: a frame, and the 64 bytes of it in which the 320 begin (R56; log
71). -/
opaque dirPlace : Nat → Fin (28 * 2 ^ 20) × Fin 1020

/-- Whether a die's fallow reserve cannot hold its on-die state at a cut (R159, R431; log 2). -/
opaque reserveFull : Nat → Bool

/-- Whether a codeword of the package's control registers or of the barrier network's storage reads as uncorrectable at a cut
(R431; log 89). -/
opaque packageBad : Nat → Bool

/-- Whether a context's links, spilled sums, records or inbox entries hold an uncorrectable codeword at a cut or save (R159, R430,
R431; log 89). -/
opaque contextBad : Nat → Bool

/-- Measured delay of a link in nanoseconds (R463; log 2). -/
opaque linkDelay : Nat → Nat

/-- What the signed configuration blob holds (R464; log 4): the node number, the time root, fallow tiles and dies, BFTH, PTBASE's
BASE and TIER, the pools' FPA and SIZE, the route entries. -/
opaque blobNode : BitVec 20

/-- The time root (R463). -/
opaque blobTimeRoot : BitVec 20

/-- A tile that the blob marks fallow. -/
opaque blobFallowTile : Nat → Bool

/-- A die that the blob marks fallow. -/
opaque blobFallowDie : Nat → Bool

/-- BFTH of every memory tile (R69). -/
opaque blobBfth : BitVec 8

/-- BASE and TIER of PTBASE (R37). -/
opaque blobPtbase : BitVec 27 × Bool

/-- BASE and TIER of FPA of a pool (R152). -/
opaque blobFpa : Nat → BitVec 28 × Bool

/-- SIZE of a pool less one (R152). -/
opaque blobPoolSize : Nat → BitVec 20

/-- Psiba route entries (R462). -/
opaque blobRoute : Nat → BitVec 16

end Sys2Proof.Config
end

