-- ==== Sys2Proof/Machine/Types.lean ====
section
/-! DEFINITION. The parts State is made of: tokens, decoded values, firings, records, streams, messages and the units'
own state. Plain data throughout. -/
namespace Sys2Proof.Machine

/-- Token kinds (R21); `bad n` stands for kind 10 + n. -/
inductive TokKind where
  | data | end1 | end2 | end3 | eos | round | permit | done | header | poison | bad (n : Fin 6)
  deriving DecidableEq, Repr

/-- A token: 64-byte payload and sideband (R20). -/
structure Token where
  kind : TokKind
  mask : BitVec 16
  pred : Bool
  data : Payload
  deriving DecidableEq, Repr

/-- A decoded floating-point value: exact, `fin neg m e` is (−1)^neg · m · 2^e (R162 to R166). -/
inductive Val where
  | nan (signalling : Bool)
  | inf (neg : Bool)
  | fin (neg : Bool) (m : Nat) (e : Int)
  deriving DecidableEq, Repr

/-- A sheaf header as a decoder holds it (R176, R316): format code, count, scales (empty without), whether it was refused,
and the elements and blocks passed since it. -/
structure Hdr where
  fmt : Nat
  count : Nat
  scales : List Byte
  scaled : Bool
  bad : Bool
  idx : Nat
  nanBlocks : List Nat
  deriving DecidableEq, Repr

/-- A held access (R415): its cause, VA and IA, its kind of issuer entry (wait entry of a port, ring entry), and the
cycle at which it was held. -/
structure Held where
  cause : Cause
  va : Word
  ia : Nat
  write : Bool
  mask : BitVec 16
  data : Payload
  waitPort : Option Nat
  ring : Option Nat
  since : Nat
  deriving DecidableEq, Repr

/-! ### Sequencer -/

/-- What an access of a core stream does (R262, R267, R270); a form of another kind stands in the replay queue only (R255, R410). -/
inductive AccKind where
  | load (signed : Bool) (inv : Bool)
  | store
  | atomic (fn : Nat)
  | red (fn : Nat)
  | jcnt
  | form
  deriving DecidableEq, Repr

/-- Where an access is on its way (R36, R35, R62, R40): `forwarded` is a write or reduction accepted for forwarding to another
module, performed at pkg scope and not yet at pod scope (R95). -/
inductive AccPhase where
  | sent
  | atBank
  | forwarded (v : Nat)
  | performed (v : Nat)
  | faulted (c : Cause)
  deriving DecidableEq, Repr

/-- An issued, unfinished access of a core stream (R253, R94): its word, captured VA, data and comparand (R410), and its
parts (IA, bytes, class) as translated at issue (R33): one where it is naturally aligned, else one for each byte (R96, R264).
`left` holds the places of the parts not performed yet, `got` the bytes read so far by place, `far` the places of parts whose
owner has not answered (R45, R95). -/
structure Access where
  id : Nat
  word : BitVec 32
  kind : AccKind
  size : Nat
  gd : Reg
  va : Word
  data : Word
  cmp : Word
  acq : Bool
  parts : List (Nat × Nat × Nat)
  phase : AccPhase
  left : List Nat
  got : SMap (List Byte)
  far : List Nat
  deriving DecidableEq, Repr

/-- A claim or reservation a task holds at a memory tile (R91). -/
structure Claim where
  tid : Tid
  region : Nat
  kind : Nat
  out : Bool
  rel : Bool
  buf : Nat
  count : Nat
  deriving DecidableEq, Repr

/-- The trap frame's contents (R409), as held in a checkpoint store (R424). -/
structure Frame where
  regs : List Word
  pc : Word
  noins : Bool
  replay : List Access
  deriving DecidableEq, Repr

/-- One tile descriptor: OUT, REL, KIND, D, VA, LEN, COUNT, and whether a reserved bit is set (R89). -/
structure TileDesc where
  d : Bool
  out : Bool
  rel : Bool
  kind : Nat
  va : Word
  len : Nat
  count : Nat
  reserved : Bool
  deriving DecidableEq, Repr

/-- A task between the drill queue and its firing: the record of R196 with what the E7 keeps beside it (R388 to R390,
R205, R424, R414): `tiles` is the list as examined, `tested`, `cpos` and `kept` say how far readiness and claims have come and
how many claims were held before (R91, R280), `keyLive` and `keyRegs` what its key was formed of (R391), `loaded`
that the record has been read from memory, `orig`, `origRegs`
and `origSigs` keep the record as it was popped (R425). -/
structure TaskRec where
  rid : Nat
  crva : Option Word
  hdr : List Word
  regs : List Word
  ctx : Nat
  launch : Nat
  quad : Nat
  bank : Nat
  die : Nat
  stamp : Nat
  examined : Bool
  ready : Bool
  readySince : Nat
  looked : Bool
  key : Option (List Byte)
  claims : List Claim
  sigs : List Word
  noins : Bool
  handler : Bool
  resumed : Bool
  ckpt : Option Frame
  engcmds : List Nat
  orig : List Word
  origRegs : List Word
  origSigs : List Word
  tiles : List TileDesc
  tested : Bool
  cpos : Nat
  kept : Nat
  loaded : Bool
  keyLive : Nat
  keyRegs : List Word
  deriving DecidableEq, Repr

/-- The firing a core runs (R195 to R206). -/
structure Firing where
  task : TaskRec
  prio : Nat
  sent : Word
  early : Bool
  tiles : Word
  started : Nat
  sat8 : Bool
  ttrap : Bool
  gens : List Nat
  secs : List Nat
  drainAt : Option Nat
  drained : Bool
  deriving DecidableEq, Repr

/-- What a waiting form waits for (R277, R206). -/
inductive Waiting where
  | none
  | bwait (id : Nat) (target : Nat) (gd : Reg)
  | secwait (key : Nat) (gd : Reg) (disarmed : Bool)
  | amsg (uid : Nat) (gd : Reg)
  | park (kind : Nat) (phase : Nat) (arg : Nat)
  | barr (uid : Nat)
  | binit (uid : Nat)
  | publish (waits : List Nat)
  | sbar
  deriving DecidableEq, Repr

/-- A sequencer core (R14, R253, R276). `replay` is what is left of a replay queue from its first form on: that form is issued again
before the next word (R410). -/
structure Core where
  regs : List Word
  pc : Word
  run : Option Firing
  sys : Bool
  halted : Bool
  frame : Word
  unfin : List Access
  replay : List Access
  staged : List (Nat × Word)
  amsgw : Option (Nat × Word)
  waiting : Waiting
  nextId : Nat
  held : BitVec 6
  deriving DecidableEq, Repr

/-! ### Element, fragment, operator units, generators -/

/-- A memory-port access issued and not yet performed (R341 to R345): VA, IA, class, whether the range had PI at its issue
(R33), and the cycle of its issue, by which the accesses of one port keep their order. -/
structure PortOp where
  va : Word
  ia : Nat
  cls : Nat
  pi : Bool
  since : Nat
  deriving DecidableEq, Repr

/-- An element slot (R212). -/
structure Slot where
  word : BitVec 32
  const : BitVec 32
  l : Option Token
  r : Option Token
  p : Option Token
  hl : Option Hdr
  hr : Option Hdr
  hp : Option Hdr
  hdrOut : Option Token
  acc : Payload
  accLive : BitVec 64
  accPoison : Bool
  rng : BitVec 32
  cnt : Nat
  sub : Nat
  tiles : Nat
  edge : Nat
  ended : Bool
  misRaised : Bool
  poisonRaised : Bool
  ops : List PortOp
  fills : List (Nat × Payload)
  held : Option Held
  deriving DecidableEq, Repr

/-- A weight tile (R362): format code, rows of 32 or 16 decoded values, poison. -/
structure WTile where
  fmt : Nat
  rows : List (List (Option Val))
  poisoned : Bool
  deriving DecidableEq, Repr

/-- The matrix fragment of a core (R360). -/
structure Frag where
  active : Option WTile
  back : WTile
  backReady : Bool
  c : SMap (BitVec 32)
  cPoison : List Nat
  m : Nat
  maxM : Nat
  la : Nat
  ls : Nat
  n : Nat
  conj : Bool
  hasN : Bool
  deriving DecidableEq, Repr

/-- A router operator unit (R347): its record and the state that is part of a cut; `edgeBack` counts the round markers that have
come back on each return input, `sentEnds` names the parent's end markers that have gone to a CONTROL's children (child·4 + level)
and are not back (R358, R359). -/
structure OpUnit where
  recd : Word
  loop : Bool
  rep : Nat
  run : Option (Nat × Int)
  started : Bool
  ring : List Nat
  toggle : Bool
  sealReq : Bool
  sealArmed : Bool
  isSealed : Bool
  eosOut : Bool
  eosA : Bool
  eosB : Bool
  eosD : Bool
  invDrain : Bool
  active : Bool
  toSend : List Nat
  outst : List Nat
  endDue : List Bool
  childEos : List Bool
  parentEos : Bool
  eosSent : Bool
  edge : Nat
  edgeBack : List Nat
  sentEnds : List Nat
  held : Bool
  deriving DecidableEq, Repr

/-- An element of a headland stream whose line has been asked for, or is to be written, and that is not done (R87, R88): its
IA and VA, the class it was translated with and whether its range had PI then (R33), the cycle of its issue, the starve flag judged then (R51), whether it is
poison, whether a fault holds its line (R415), whether it begins a line request, the level of the end marker that follows it,
and the bytes that a performed read has supplied or that a write carries. -/
structure LineElem where
  ia : Nat
  va : Word
  cls : Nat
  pi : Bool
  since : Nat
  starve : Bool
  poison : Bool
  held : Bool
  first : Bool
  mark : Nat
  bytes : Option (List Byte)
  deriving DecidableEq, Repr

/-- A stream a generator runs (R78 to R88). `inflight` holds the elements of line requests asked for and not delivered,
`merge` the elements of a write that is merged (R87). -/
structure Stream where
  words : List Word
  ctx : Nat
  launch : Nat
  sect : Option Nat
  owner : Option (Nat × Nat)
  e : Nat
  buf : Payload
  fill : Nat
  live : BitVec 16
  poisonTok : Bool
  dead : Bool
  coord : Option (Token × Nat)
  inTok : Option (Token × Nat)
  outQ : List Token
  srcDone : Bool
  stopping : Bool
  endSeen : Bool
  touched : List Nat
  bufs : List Nat
  rowTok : Nat
  unit : List Token
  zeros : Nat
  skips : Nat
  poisonRaised : Bool
  ueRaised : Bool
  sparseRaised : Bool
  edge : Nat
  held : Option Held
  inflight : List LineElem
  merge : List LineElem
  deriving DecidableEq, Repr

/-- A generator: loaded record and running stream (R78, R291). -/
structure Gen where
  words : List Word
  ctx : Nat
  run : Option Stream
  deriving DecidableEq, Repr

/-- States of a section (R211). -/
inductive SecState where
  | free | loaded | armed | stopping | stopped | idle
  deriving DecidableEq, Repr

/-- A section of a context (R210, R211, R220, R221). -/
structure Section where
  state : SecState
  tiles : List Tid
  tcount : Nat
  launch : Nat
  area : Word
  edges : Nat
  stopAt : Option Nat
  withdrawn : Bool
  cut : Option Nat
  sat8 : Bool
  ttrap : Bool
  owner : Option (Nat × Nat)
  deriving DecidableEq, Repr

/-! ### Translation, residency -/

/-- A cached translation of a home port (R40, R49, R51 to R54). `page` is the IA page (IA / 65,536) of the portion. -/
structure TEntry where
  page : Nat
  level : Nat
  w0 : Word
  w1 : Word
  entryAddr : Nat
  gen : BitVec 32
  deliv : Nat
  starve : Nat
  cls3 : Bool
  cold : Nat
  moving : Bool
  deriving DecidableEq, Repr

/-- A wait entry of a home port (R415): the unit that holds the access. -/
structure WaitEntry where
  port : Nat
  page : Nat
  ctx : Nat
  ukind : Nat
  unit : Nat
  tid : Tid
  since : Nat
  deriving DecidableEq, Repr

/-- A tier or ownership move in progress (R54, R58). -/
structure Move where
  page : Nat
  newFrame : Nat
  newTier : Nat
  oldFrame : Nat
  oldTier : Nat
  toNode : Option Nat
  copied : Nat
  deriving DecidableEq, Repr

/-- A nomination handed to a migration engine (R52, R150, R151). -/
structure Nomination where
  page : Nat
  tier : Nat
  pool : Nat
  deriving DecidableEq, Repr

/-- An access forwarded from another module (R45): where its answer goes, how often it has been forwarded, the class of its
range (R33), whether it is a starving read and when it came (R51), its writer's tile (R420), and what it does: 0 read, 1 write, 2 atomic, 3 reduction, these two with the function's code and operands. -/
structure Forward where
  node : Nat
  key : Nat
  ia : Nat
  hops : Nat
  cls : Nat
  starve : Bool
  since : Nat
  tile : Nat
  op : Nat
  len : Nat
  bytes : List (Option Byte)
  what : List Nat
  deriving DecidableEq, Repr

/-- An access that this module has forwarded and whose answer is due (R45): the number it was sent under, the agent's key, its
IA, the node it was sent to, whether it reads, and the link it took (R462). -/
structure FwdOut where
  uid : Nat
  key : Nat
  ia : Nat
  node : Nat
  reads : Bool
  link : Option Nat
  deriving DecidableEq, Repr

/-- A request to HOME about a page (R58, R59, R151): the node it is for, whether it unsettles and whether it pulls, and, for
another node's MIGRATE, that node and the key of its answer. -/
structure PullReq where
  page : Nat
  node : Nat
  uns : Bool
  pull : Bool
  asker : Option (Nat × Nat)
  deriving DecidableEq, Repr

/-- A directory entry at this HOME as the E7 holds it (R56). `pulling` and `asker` say for whom a move is under way and who waits for its end. -/
structure DirEntry where
  page : Nat
  owner : Nat
  settled : Bool
  moving : Bool
  moves : Nat
  stamp1 : Nat
  stamp2 : Nat
  sharers : List Nat
  pulling : Option Nat
  asker : Option (Nat × Nat)
  deriving DecidableEq, Repr

/-- A write-queue line entry (R106, R470): the line's bytes, the bad mark, whether a reduction was merged into it, the
bytes written since it was made, the IA page it serves, and the key it is written back under (R44). -/
structure LineEntry where
  bytes : List Byte
  bad : Bool
  reduced : Bool
  written : BitVec 128
  page : Nat
  tag : Nat
  deriving DecidableEq, Repr

/-! ### Barriers, messages, engines -/

/-- A barrier object (R113) with what its node keeps beside it (R119). -/
structure Barrier where
  scope : Nat
  expect : Nat
  arrived : Nat
  phase : Nat
  pending : Nat
  prio : Nat
  status : Nat
  v : Bool
  early : Nat
  ctx : Nat
  root : Nat
  children : List Nat
  sentUp : Bool
  deriving DecidableEq, Repr

/-- Who makes an arrival (R114), so that its answer or cause reaches it. -/
inductive Arriver where
  | core (tid : Tid) (uid : Nat)
  | tap (tid : Tid) (u : Nat)
  | engine (quad : Nat)
  | launch (lid : Nat)
  | child (node : Nat)
  deriving DecidableEq, Repr

/-- An arrival on its way to its barrier node (R114). -/
structure Arrival where
  id : Nat
  n : Nat
  ctx : Nat
  lid : Nat
  src : Arriver
  deriving DecidableEq, Repr

/-- A message between the shares of a pod barrier (R119). -/
structure PodMsg where
  id : Nat
  node : Nat
  phase : Nat
  status : Nat
  prio : Nat
  deriving DecidableEq, Repr

/-- State of an engine command (R129 to R137). -/
inductive EngState where
  | queued | running | met | ended
  deriving DecidableEq, Repr

/-- A message in an inbox, or a running command (R124, R129): `waits` are the members of a collective, `tmp` what the command
has read, `fva` the VA at which it stopped, `hold` the bytes read for a write that waits (R135). -/
structure EngCmd where
  uid : Nat
  words : List Word
  state : EngState
  sender : Option (Nat × Nat)
  lid : Nat
  done : Nat
  aux : Nat
  pos : Nat
  status : Nat
  cause : Cause
  stopped : Bool
  charged : Nat
  waits : List Nat
  tmp : List Nat
  fva : Word
  hold : List Byte
  deriving DecidableEq, Repr

/-- What one member of a collective tells another (R145, R148): kind 0 it has been accepted, with its operands in `info`;
1 its source bytes; 2 it has ended, with its cause in `info`. `src` is node·512 + quad. -/
structure CollMsg where
  tag : Nat
  src : Nat
  quad : Nat
  kind : Nat
  info : List Nat
  bytes : List Byte
  deriving DecidableEq, Repr

/-- A message on its way through the message plane (R23, R124); `link` is the Psiba link that it took when it was injected (R462). -/
structure Msg where
  uid : Nat
  src : Tid
  dst : Tid
  node : Nat
  cls : Nat
  words : List Word
  sender : Option (Nat × Nat)
  lid : Nat
  injected : Bool
  resendAt : Option Nat
  link : Option Nat
  deriving DecidableEq, Repr

/-- An inbox acknowledgement (R129). -/
structure Ack where
  uid : Nat
  kind : Nat
  status : Nat
  cause : Cause
  msg : Msg
  deriving DecidableEq, Repr

/-- Who pushes to or pops from a FIFO region, so that its completion reaches it (R76, R342). -/
inductive FifoWho where
  | core (tid : Tid) (id : Nat)
  | slot (tid : Tid) (n : Nat)
  | gen (tid : Tid) (g : Nat)
  deriving DecidableEq, Repr

/-- A request waiting at a FIFO region (R75, R76); `drawer` is the core whose firing's reservation it draws on. -/
structure FifoReq where
  push : Bool
  tok : Token
  drawer : Option Tid
  who : FifoWho
  deriving DecidableEq, Repr

/-! ### Tasks, launches, granary -/

/-- A signal on its way (R202); `owner` is the record whose retirement waits for it, or 0. -/
structure Signal where
  cr : Word
  ctx : Nat
  lid : Nat
  tid : Tid
  owner : Nat
  deriving DecidableEq, Repr

/-- A task that retires (R203): its record, SENT, tile-list pointer, whether it is a granary hit (R393), and whether its signals
have been sent. -/
structure Retiring where
  task : TaskRec
  sent : Word
  tiles : Word
  hit : Bool
  out : Bool
  deriving DecidableEq, Repr

/-- States of a launch (R380). -/
inductive LState where
  | accepted | allocating | running
  deriving DecidableEq, Repr

/-- A live launch (R378 to R401); `leaving` holds the dies being withdrawn from its swath (R222), `began` is the length of
the record of earlier values when it began (R108), `rr` the die whose turn it is (R388), `kept` dies withdrawn from other swaths for it
(R387). -/
structure Launch where
  lid : Nat
  queue : Nat
  ctx : Nat
  words : List Word
  state : LState
  waits : List Nat
  count : Nat
  entered : Nat
  live : Nat
  cls : Nat
  rsv : Nat
  quads : List Nat
  dies : List Nat
  leaving : List Nat
  filled : List Nat
  faults : Nat
  engcmds : Nat
  hits : Nat
  tasks : Nat
  tacc : Nat
  cause : Cause
  status : Nat
  order : Nat
  cmds : List Nat
  began : Nat
  rr : Nat
  kept : List Nat
  deriving DecidableEq, Repr

/-- A launch queue (R376, R377). -/
structure LQueue where
  cfg : Word
  slots : List (List Word)
  busy : List Nat
  err : Bool
  deriving DecidableEq, Repr

/-- A resident code object (R383). -/
structure CodeObj where
  die : Nat
  ctx : Nat
  va : Word
  size : Nat
  digest : List Byte
  used : Nat
  deriving DecidableEq, Repr

/-- A granary entry (R391 to R394). -/
structure GranEntry where
  key : List Byte
  tenant : Nat
  code : List Byte
  outs : List (List Byte)
  onDie : Option Nat
  hit : Nat
  deriving DecidableEq, Repr

/-- A binding (R110): the reader, the entry and the FRONT it holds. -/
structure Binding where
  reader : Nat
  entry : Nat
  front : Nat
  len : Nat
  deriving DecidableEq, Repr

/-- A pre-emption request (R422), under its victim's tile: the firing it is for, when it arose, whether it drains (R423, row 1),
whether it is a save's, and whether it waits under row 4. -/
structure Preempt where
  firing : Nat
  since : Nat
  draining : Bool
  forSave : Bool
  waits : Bool
  deriving DecidableEq, Repr

/-! ### Contexts -/

/-- States of a context (R428). -/
inductive CtxState where
  | active | saving | saved | restoring | killed | none
  deriving DecidableEq, Repr

/-- A context's registers (R30, R109, R170, R192, R306, R405, R428). -/
structure Ctx where
  state : CtxState
  lost : Bool
  div : Bool
  cause : Cause
  tenant : Nat
  pkgp : Bool
  ranges : List (Word × Word × Word)
  bufmap : SMap (Word × Word × Word × Word)
  nctl : Word
  necnt : List Word
  nectl : List Word
  nwin : Nat
  tvec : Word
  tfbase : Word
  tevb : Word
  tevp : Word
  thcr : Word
  tring : Word
  tpre : Word
  tserr : Word
  wpts : List (Word × Word)
  evovf : Bool
  ringfull : Bool
  handler : Option Nat
  bindings : List Binding
  ringUsed : List Nat
  area : Nat
  deriving DecidableEq, Repr

/-- What a saved context keeps off the fabric (R429), and what a checkpoint image keeps of a context (R155): `swaths` are its
launches' quads; `recs`, `parked`, `retiring` and `launches` are filled in an image alone, a saved context's stay where they
are. -/
structure SavedCtx where
  ctx : Nat
  secs : List (Nat × Section)
  slots : List (Nat × Slot)
  gens : List (Nat × Gen)
  opunits : List (Nat × OpUnit)
  bufs : List (Nat × List Token)
  frags : List (Nat × Frag)
  ingress : List (Nat × List (BitVec 10))
  switch : List (Nat × (BitVec 16))
  regions : List (Nat × (Word × Word))
  bytes : List (Nat × Byte)
  barriers : List (Nat × Barrier)
  cmds : List EngCmd
  swaths : List (Nat × List Nat)
  recs : List TaskRec
  parked : List TaskRec
  retiring : List Retiring
  launches : List Launch
  deriving DecidableEq, Repr

/-- What the fallow reserves of a checkpoint image hold, beside the name that their bytes give it (R155, R157; log 89): the contexts
as the cut found them, and the keys that the image's lines were stored under. -/
structure Image where
  id : Nat
  ctxs : List (Nat × Ctx × SavedCtx)
  keys : SMap Nat
  deriving DecidableEq, Repr

/-! ### Host -/

/-- A host event record (R459). -/
structure HostEvent where
  cause : Cause
  ctx : Nat
  launch : Nat
  tsel : Nat
  operand : Word
  dtime : Nat
  seq : Nat
  deriving DecidableEq, Repr

/-- A checkpoint in progress (R155 to R160): its mode, peers (64-bit entries) or host areas, frames copied in order and
ahead of order, bad lines, frames whose peer has not answered yet, and the name of what the cut put into the reserves. -/
structure Ckpt where
  quad : Nat
  uid : Nat
  mode : Nat
  places : List Word
  cutDone : Bool
  copied : Nat
  early : List Nat
  badLines : Nat
  pend : List Nat
  image : Nat
  deriving DecidableEq, Repr

/-- A die (R13, R464, R469). -/
structure Die where
  ready : Bool
  isFallow : Bool
  deriving DecidableEq, Repr

/-- Whose turn it is: a core's next word, a slot's word, an event with the numbers of the unit or record it concerns, or Forfin's, which
ends what KEYLD has started (R465). -/
inductive Turn where
  | core (tid : Tid)
  | slot (tid : Tid) (n : Nat)
  | forfin
  | event (i : Instr) (ops : List Nat)
  deriving DecidableEq, Repr

end Sys2Proof.Machine
end

