-- ==== Sys2Proof/Machine/State.lean ====
section
/-! DEFINITION. The machine's state: everything the spec gives the module, as plain data, and the state right after
reset. Where the spec gives no reset value the value is named in notes/assumptions (3 to 6). -/
namespace Sys2Proof.Machine

/-- Why the machine stops with a fault. -/
inductive Fault where
  /-- A sequencer form was run on a core that holds no firing, or that is halted: a firing has a program counter only
  while it runs (R195, R304), so no word is executed there. Raised by every sequencer meaning; safe. -/
  | noFiring
  deriving DecidableEq, Repr

/-- Why an instruction has no meaning here. -/
inductive Refusal where
  /-- The instruction has no meaning in the model yet. Raised by exec's arms alone; safe. -/
  | notModelled (mnemonic : String)
  /-- The word at the program counter is no instruction of the table. Never raised by step, which takes the decode trap
  of R235 instead; safe. -/
  | noInstruction
  deriving DecidableEq, Repr

/-- Clocks: package cycle count, device time with its remainder in twelfths of a nanosecond, and beacon correction still
to be slewed in (R2, R463). -/
structure Clock where
  cycle : Nat
  dtime : Nat
  rem : Nat
  slew : Int
  beacons : List Nat
  deriving DecidableEq, Repr

/-- What boot and the signed blob fix, the links and the keys (R13, R44, R461 to R466); `held` says that both image slots have failed
and the module stays in reset (R464). -/
structure Boot where
  node : Nat
  timeRoot : Nat
  blob : Bool
  dies : List Die
  fallow : List Tid
  links : BitVec 16
  route : SMap (BitVec 16)
  keys : SMap Nat
  keyld : Word
  fmbcmd : Word
  fmbnonce : List Word
  fmbrep : List Byte
  held : Bool
  deriving DecidableEq, Repr

/-- The storage: bytes of the near tier, the far tier and the tiles with their check symbols, host memory, and the home
ports' write-queue line entries (R43, R61, R64, R106, R470); `past` keeps what written bytes of IA held while launches are live,
write by write, oldest first (R108). -/
structure Storage where
  mem : List Host.Cell
  host : List Host.Cell
  lineBad : List Nat
  lineKey : SMap Nat
  lineQ : SMap LineEntry
  past : List (List (Nat × Byte))
  deriving DecidableEq, Repr

/-- What the memory tiles hold beside their bytes (R65 to R77, R46); `corrections` names the corrected symbols by tile, row, bank
and byte position. -/
structure TileState where
  mtstat : SMap Word
  bankCount : SMap Nat
  scrubRow : SMap Nat
  scrubWait : SMap Nat
  corrections : List (Tid × Nat × Nat × Nat)
  regions : SMap (Word × Word)
  staging : SMap Payload
  fifoSide : SMap (BitVec 16 × Bool)
  windowGen : SMap (BitVec 32)
  fifoReqs : SMap (List FifoReq)
  deriving DecidableEq, Repr

/-- Translation and residency (R37 to R59, R152). `tinvRun` holds TINVA and TINVN as they stood when the running invalidation
began (R41). `forwards` and `replies` are inputs from other modules, `fwdOut` the accesses forwarded to them whose answer is
due and `fwdNext` the number of the next one (R45), `faultVA` the VA that met the cause of the last read that met one (R409),
`wakes` the wakes on their way to issuers (R416), `heatWin` the heat windows each port has ended (R52). `tear` says of the next
accesses that R96 does not keep whole which byte is performed by itself, and `torn` holds the bytes that have been, by agent and
IA (log 149). -/
structure Xlat where
  ptbase : Word
  heatcfg : Word
  tinva : Word
  tinvn : Word
  tinvLeft : List Nat
  tinvRun : Word × Word
  tcache : SMap TEntry
  waits : List WaitEntry
  wakes : List (Tid × Nat × Nat)
  moves : List Move
  noms : List Nomination
  fpa : List Word
  fpb : List Word
  pulls : List PullReq
  dirs : SMap DirEntry
  forwards : List Forward
  replies : List (Nat × Cause × List Byte)
  fwdOut : List FwdOut
  fwdNext : Nat
  faultVA : Word
  tear : List Nat
  torn : List (Nat × Nat × Byte)
  heatWin : SMap Nat
  deriving DecidableEq, Repr

/-- Elements, fragments, routers, generators, sections and the message plane (07, 11, 12, 01). -/
structure Fabric where
  slots : SMap Slot
  ingress : SMap (List (BitVec 10))
  lastSlot : SMap Nat
  frags : SMap Frag
  switch : SMap (BitVec 16)
  bufs : SMap (List Token)
  opunits : SMap OpUnit
  portRR : SMap Nat
  stopped : List Nat
  gens : SMap Gen
  secs : SMap Section
  tileSec : SMap Nat
  msgs : List Msg
  acks : List Ack
  deriving DecidableEq, Repr

/-- The barrier network (R112 to R119, R398). -/
structure BarNet where
  objs : SMap Barrier
  arrivals : List Arrival
  discharges : List (Nat × Nat)
  joins : List PodMsg
  completions : List PodMsg
  prios : List PodMsg
  poisons : List PodMsg
  answers : SMap Cause
  floors : SMap Nat
  deriving DecidableEq, Repr

/-- Engines and the checkpoint (05). `arriving` holds messages from other nodes, `remote` the commands accepted at other
nodes that have not drained; `owed` names by quad, TAG and member the acceptances still to come that belong to collectives which a
member here has left (R145, log 85); `images` stands for what the fallow reserves and the stored lines of checkpoint images keep
beside their bytes (R157, log 89). -/
structure Engines where
  inbox : SMap (List EngCmd)
  arriving : SMap (List Msg)
  nextUid : Nat
  ckpt : Option Ckpt
  coll : List CollMsg
  owed : List (Nat × Nat × Nat)
  remote : List Nat
  images : List Image
  deriving DecidableEq, Repr

/-- Tasks: drill queues, park and checkpoint stores, signals, pre-emption (07, 13, 14). -/
structure Tasks where
  drill : List TaskRec
  parked : List TaskRec
  nextRid : Nat
  stamp : SMap Nat
  pops : SMap Nat
  starts : Nat
  signals : List Signal
  retiring : List Retiring
  preempt : SMap Preempt
  deriving DecidableEq, Repr

/-- Launches, code stores, granary, reservation tables (13). `door` holds the queue and slot of every DOOR write whose record has not
been read, with its cycle; `rsvtNew` the tables written and not in effect yet, with the cycle of the write (R395). -/
structure Launches where
  lq : SMap LQueue
  door : List (Nat × Nat × Nat)
  live : List Launch
  order : Nat
  code : List CodeObj
  gran : List GranEntry
  granClock : Nat
  grtab : Word
  grheap : Word
  rsvt : SMap (BitVec 8)
  rsvtNew : SMap (Nat × SMap (BitVec 8))
  deriving DecidableEq, Repr

/-- The host side (18, R428). `reply` and `replyBytes` hold what the last host read returned, `commands` the engine messages that
the host has written to a port and that are not sent yet (R125), `flights` the accesses through BAR 4 that have been accepted and are
not complete, by port, offset and length, with the aperture's base at their acceptance, `unsupported` that the last access through BAR 4
completed as an unsupported request (R456). -/
structure HostSide where
  sems : SMap Nat
  semTie : Bool
  hwstatA : Word
  hwstatB : Word
  hevbA : Word
  hevbB : Word
  apA : Word
  apB : Word
  seq : Nat
  events : List HostEvent
  irqs : List (Bool × Nat)
  ctxcmd : Word
  reply : Word
  replyBytes : List Byte
  netOut : List Msg
  staged : List (Nat × Nat × Word)
  commands : List (List Word)
  flights : List (Bool × Nat × Nat × Nat)
  unsupported : Bool
  deriving DecidableEq, Repr

/-- The whole module. `cuts` holds what the save areas of withdrawn sections keep, by context and area (R427); `agenda` says which unit
moves next, `focus` which tile and slot the running word belongs to, `ops` which unit or record the running event concerns, and `free` counts the free values drawn: these are the model's own. -/
structure State where
  clk : Clock
  boot : Boot
  st : Storage
  tl : TileState
  xl : Xlat
  ctxs : SMap Ctx
  cores : SMap Core
  fab : Fabric
  bar : BarNet
  eng : Engines
  tk : Tasks
  ln : Launches
  host : HostSide
  saved : List SavedCtx
  cuts : List (Nat × Word × SavedCtx)
  agenda : List Turn
  focus : Nat × Nat
  ops : List Nat
  free : Nat
  deriving DecidableEq, Repr

/-! ### Reset values of the parts -/

/-- A core at reset: every register zero (log 6), no firing. -/
def Core.reset : Core :=
  ⟨List.replicate 32 0, 0, none, false, false, 0, [], [], [], none, .none, 0, 0⟩

/-- An empty slot (R236: the all-zero word never fires). -/
def Slot.reset : Slot :=
  ⟨0, 0, none, none, none, none, none, none, none, 0, 0, false, 0, 0, 0, 0, 0, false, false, false, [], [], none⟩

/-- An empty weight tile. -/
def WTile.reset : WTile := ⟨0, [], false⟩

/-- A fragment at reset (R360). -/
def Frag.reset : Frag := ⟨none, WTile.reset, false, [], [], 0, 0, 0, 0, 0, false, false⟩

/-- An operator unit with record `w` and fresh state. -/
def OpUnit.fresh (w : Word) : OpUnit :=
  ⟨w, false, 0, none, false, [], false, false, false, false, false, false, false, false, false, false,
    [], [], [], [], false, false, 0, [], [], false⟩

/-- A generator without a record. -/
def Gen.reset : Gen := ⟨[], 0, none⟩

/-- A free section (R211). -/
def Section.reset : Section := ⟨.free, [], 0, 0, 0, 0, none, false, none, false, false, none⟩

/-- A barrier object at reset: every field 0 (R113). -/
def Barrier.reset : Barrier := ⟨0, 0, 0, 0, 0, 0, 0, false, 0, 0, 0, [], false⟩

/-- A launch queue at reset: LQCFG with PCAP 7, the rest 0 (R376). -/
def LQueue.reset : LQueue := ⟨0x0000038000000000, List.replicate 15 (List.replicate 8 0), [], false⟩

/-- NECTL_k at reset: THRESH all ones (R192). -/
def nectlReset : Word := 0xFFFFFFFF00000000

/-- A context's registers at reset (R428 to R430, R30, R109, R192, R405, R406). -/
def Ctx.reset : Ctx :=
  { state := .none, lost := false, div := false, cause := 0, tenant := 0, pkgp := false,
    ranges := List.replicate 16 (0, 0, 0), bufmap := [], nctl := 0,
    necnt := List.replicate 8 0, nectl := List.replicate 8 nectlReset, nwin := 0,
    tvec := 0, tfbase := 0, tevb := 0, tevp := 0, thcr := 0, tring := 0, tpre := 14, tserr := 0,
    wpts := List.replicate 8 (0, 0), evovf := false, ringfull := false, handler := none, bindings := [],
    ringUsed := [], area := 0 }

/-- HEATCFG at reset (R52): HSH 4, PULL 0x0100, PROMOTE 0x0040, DEMOTE 0x0001, DWIN 8. -/
def heatcfgReset : Word := 0x0401000040000180

/-- The machine right after reset: nothing powered up yet (R464), every register at the value its field map gives, and
memory with nothing listed. -/
def State.reset : State :=
  { clk := ⟨0, 0, 0, 0, []⟩
    boot := { node := 0, timeRoot := 0, blob := false,
              dies := List.replicate 4 ⟨false, false⟩, fallow := [], links := 0, route := [], keys := [],
              keyld := 0, fmbcmd := 0, fmbnonce := List.replicate 4 0, fmbrep := [], held := false }
    st := ⟨[], [], [], [], [], []⟩
    tl := ⟨[], [], [], [], [], [], [], [], [], []⟩
    xl := { ptbase := 0, heatcfg := heatcfgReset, tinva := 0, tinvn := 0, tinvLeft := [], tinvRun := (0, 0), tcache := [], waits := [], wakes := [],
            moves := [], noms := [], fpa := List.replicate 28 0, fpb := List.replicate 28 1, pulls := [],
            dirs := [], forwards := [], replies := [], fwdOut := [], fwdNext := 0, faultVA := 0, tear := [], torn := [], heatWin := [] }
    ctxs := []
    cores := []
    fab := ⟨[], [], [], [], [], [], [], [], [], [], [], [], [], []⟩
    bar := ⟨[], [], [], [], [], [], [], [], []⟩
    eng := ⟨[], [], 1, none, [], [], [], []⟩
    tk := ⟨[], [], 1, [], [], 0, [], [], []⟩
    ln := ⟨[], [], [], 0, [], [], 0, 0, 0, [], []⟩
    host := { sems := [], semTie := false, hwstatA := 0, hwstatB := 0, hevbA := 0, hevbB := 0, apA := 0, apB := 0,
              seq := 0, events := [], irqs := [], ctxcmd := 0, reply := 0, replyBytes := [], netOut := [], staged := [], commands := [], flights := [], unsupported := false }
    saved := []
    cuts := []
    agenda := []
    focus := (0, 0)
    ops := []
    free := 0 }

end Sys2Proof.Machine
end

