-- ==== Sys2Proof/Machine/Geometry.lean ====
section
/-! DEFINITION. Tiles, quads, dies and their numbers (R5, R6, R11, R15 to R17, R285). -/
namespace Sys2Proof.Machine

/-- Number of array tile(x,y). -/
def tidOf (x y : Nat) : Tid := 64 * y + x

/-- Number of headland tile H(side, i), side 0 N, 1 E, 2 S, 3 W. -/
def headTid (side i : Nat) : Tid := 4096 + 64 * side + i

/-- x of an array tile. -/
def tileX (t : Tid) : Nat := t % 64

/-- y of an array tile. -/
def tileY (t : Tid) : Nat := t / 64 % 64

/-- The tile is an array tile. -/
def isArray (t : Tid) : Bool := t < 4096

/-- The tile is a headland tile. -/
def isHead (t : Tid) : Bool := 4096 ≤ t && t < 4352

/-- The tile is a core tile: x + y even (R5). -/
def isCore (t : Tid) : Bool := isArray t && (tileX t + tileY t) % 2 == 0

/-- The tile is a memory tile: x + y odd (R5). -/
def isMem (t : Tid) : Bool := isArray t && (tileX t + tileY t) % 2 == 1

/-- Quad number qy·32 + qx of an array tile (R6). -/
def quadOf (t : Tid) : Nat := (tileY t / 4) * 32 + tileX t / 2

/-- The core tile(2qx, 4qy) of a quad, which stands for its drill unit (R420). -/
def quadCore (q : Nat) : Tid := tidOf (2 * (q % 32)) (4 * (q / 32))

/-- The cores of a quad in ascending tile number (R6). -/
def quadCores (q : Nat) : List Tid :=
  let x := 2 * (q % 32)
  let y := 4 * (q / 32)
  [tidOf x y, tidOf (x + 1) (y + 1), tidOf x (y + 2), tidOf (x + 1) (y + 3)]

/-- The memory tiles of a quad. -/
def quadMems (q : Nat) : List Tid :=
  let x := 2 * (q % 32)
  let y := 4 * (q / 32)
  [tidOf (x + 1) y, tidOf x (y + 1), tidOf (x + 1) (y + 2), tidOf x (y + 3)]

/-- Die of a quad: (x ≥ 32) + 2·(y ≥ 32) (R5). -/
def dieOfQuad (q : Nat) : Nat := (if 16 ≤ q % 32 then 1 else 0) + (if 8 ≤ q / 32 then 2 else 0)

/-- Die of an array tile. -/
def dieOf (t : Tid) : Nat := dieOfQuad (quadOf t)

/-- Quads of a die, in ascending quad number. -/
def dieQuads (d : Nat) : List Nat := (List.range 512).filter (fun q => dieOfQuad q == d)

/-- Die a headland tile adjoins (R11). -/
def headDie (t : Tid) : Nat :=
  let side := (t - 4096) / 64
  let i := t % 64
  match side with
  | 0 => 2 + (if 32 ≤ i then 1 else 0)
  | 1 => 1 + (if 32 ≤ i then 2 else 0)
  | 2 => (if 32 ≤ i then 1 else 0)
  | _ => (if 32 ≤ i then 2 else 0)

/-- Die of any tile. -/
def tileDie (t : Tid) : Nat := if isArray t then dieOf t else headDie t

/-- Tile selector bits 15:0 of a tile (R285). -/
def tselOf (t : Tid) : Nat :=
  if isArray t then tileY t * 256 + tileX t else 32768 + ((t - 4096) / 64) * 256 + t % 64

/-- The tile a selector names; reserved bits set name none (R285). -/
def tidOfSel (v : Nat) : Option Tid :=
  if 65536 ≤ v ∨ v / 16384 % 2 = 1 ∨ v / 64 % 4 ≠ 0 then none
  else if v / 32768 = 0 then some (tidOf (v % 64) (v / 256 % 64))
  else if v / 1024 % 16 ≠ 0 then none
  else some (headTid (v / 256 % 4) (v % 64))

/-- The neighbour of a tile in direction 0 N, 1 E, 2 S, 3 W (R11), array or headland. -/
def neighbour (t : Tid) (d : Nat) : Option Tid :=
  if isArray t then
    let x := tileX t
    let y := tileY t
    match d with
    | 0 => if y = 63 then some (headTid 0 x) else some (tidOf x (y + 1))
    | 1 => if x = 63 then some (headTid 1 y) else some (tidOf (x + 1) y)
    | 2 => if y = 0 then some (headTid 2 x) else some (tidOf x (y - 1))
    | 3 => if x = 0 then some (headTid 3 y) else some (tidOf (x - 1) y)
    | _ => none
  else if isHead t then
    let side := (t - 4096) / 64
    let i := t % 64
    match side, d with
    | 0, 2 => some (tidOf i 63)
    | 1, 3 => some (tidOf 63 i)
    | 2, 0 => some (tidOf i 0)
    | 3, 1 => some (tidOf 0 i)
    | _, _ => none
  else none

/-- The opposite direction. -/
def oppDir (d : Nat) : Nat := (d + 2) % 4

/-- Direction code of an element port (R237). -/
def dirNat : Dir → Nat
  | .n => 0 | .e => 1 | .s => 2 | .w => 3

/-- The headland tile a Psiba link attaches to (R17). -/
def linkTile (l : Nat) : Tid := if l < 8 then headTid 1 (8 * l + 4) else headTid 3 (8 * (l - 8) + 4)

/-- Stream port that a headland tile's group fronts: group k of side s is H(s,4k) to H(s,4k+3), port 16·s + k (R16). -/
def headPort (t : Tid) : Nat := 16 * ((t - 4096) / 64) + t % 64 / 4

/-- The headland tiles of a stream port's group (R16). -/
def portGroup (p : Nat) : List Tid := (List.range 4).map (fun i => headTid (p / 16) (4 * (p % 16) + i))

/-- What a stream port leads to (R16): a channel group of an HBM4 stack, or an LPDDR-6 channel. -/
inductive PortMem where
  | hbm (stack group : Nat)
  | lpddr (channel : Nat)
  deriving DecidableEq, Repr

/-- The memory of stream port p (R16). -/
def portMem (p : Nat) : PortMem := if p < 48 then .hbm (p / 4) (p % 4) else .lpddr (p - 48)

/-- The serving stream port of a local address (R43): the 256-byte blocks of a stack rotate over its four ports. -/
def servingPort (tier a : Nat) : Nat := if tier = 0 then 4 * (a / 2 ^ 36 % 16) + a / 256 % 4 else 48 + a / 2 ^ 36 % 16

/-- Tiles of a launch's swath: every tile of its quads (R6), as numbers. -/
def quadTiles (q : Nat) : List Tid := quadCores q ++ quadMems q

end Sys2Proof.Machine
end

