-- ==== Sys2Proof/Machine/Cells.lean ====
section
/-! DEFINITION. Byte storage: a list of address and byte pairs in one canonical form (addresses strictly rising, no entry
equal to 0, which an unlisted address reads as: log 5), the keys of the spaces stored in it, and the memory tiles' symbol
code (R61 to R67). -/
namespace Sys2Proof.Machine

/-- The byte at an address; an unlisted address reads 0 (R464 for tiles; log 5). -/
def cellGet : List Host.Cell → Nat → Byte
  | [], _ => 0
  | (a', b') :: m, a => if a' = a then b' else cellGet m a

/-- Write one byte, keeping the canonical form. -/
def cellSet : List Host.Cell → Nat → Byte → List Host.Cell
  | [], a, b => if b = 0 then [] else [(a, b)]
  | (a', b') :: m, a, b =>
    if a < a' then (if b = 0 then (a', b') :: m else (a, b) :: (a', b') :: m)
    else if a = a' then (if b = 0 then m else (a, b) :: m)
    else (a', b') :: cellSet m a b

/-- The canonical form above a bound: addresses strictly rising from `lo`, no zero byte. -/
def Memory.wfFrom : Nat → List Host.Cell → Bool
  | _, [] => true
  | lo, (a, b) :: m => decide (lo ≤ a) && b != 0 && Memory.wfFrom (a + 1) m

/-- The canonical form of a memory. -/
def Memory.wf (m : List Host.Cell) : Bool := Memory.wfFrom 0 m

/-- The bytes from an address up. -/
def cellsGet (m : List Host.Cell) (a : Nat) : Nat → List Byte
  | 0 => []
  | n + 1 => cellGet m a :: cellsGet m (a + 1) n

/-- Write bytes from an address up. -/
def cellsSet (m : List Host.Cell) (a : Nat) : List Byte → List Host.Cell
  | [] => m
  | b :: bs => cellsSet (cellSet m a b) (a + 1) bs

/-- Storage key of a near (0) or far (1) local address (R43). -/
def localKey (tier loc : Nat) : Nat := tier * 2 ^ 44 + loc

/-- Storage key of byte `off` of a memory tile. -/
def tileKey (t : Tid) (off : Nat) : Nat := 2 * 2 ^ 44 + t * 2 ^ 20 + off

/-- Storage key of a check symbol: bank 16 (P) or 17 (Q), row, byte position (R61). -/
def checkKey (t : Tid) (row pq pos : Nat) : Nat := 3 * 2 ^ 44 + ((t * 1024 + row) * 2 + pq) * 64 + pos

/-- Storage key of the symbol of bank `b` at a row and byte position (R61, R64). -/
def symKey (t : Tid) (row b pos : Nat) : Nat :=
  if b < 16 then tileKey t (row * 1024 + b * 64 + pos) else checkKey t row (b - 16) pos

/-! ### The field GF(2^8) (R64) -/

/-- Times g, polynomial 0x11D. -/
def gfDouble (a : Byte) : Byte := (a <<< 1) ^^^ (if a.getLsbD 7 then 0x1D else 0)

/-- Times g^j. -/
def gfPow (j : Nat) (a : Byte) : Byte :=
  match j with
  | 0 => a
  | j + 1 => gfPow j (gfDouble a)

/-- XOR of a list of symbols. -/
def xorAll : List Byte → Byte
  | [] => 0
  | b :: l => b ^^^ xorAll l

/-- Σ g^j · d_j from index j. -/
def gfSum : Nat → List Byte → Byte
  | _, [] => 0
  | j, b :: l => gfPow j b ^^^ gfSum (j + 1) l

/-- The j ≤ 15 with g^j · s0 = s1, if any (R65). -/
def errorBank (s0 s1 : Byte) : Option Nat := (List.range 16).find? (fun j => gfPow j s0 == s1)

/-- What decoding one codeword says (R65, R66). -/
inductive Decoded where
  | good
  | fix (bank : Nat) (sym : Byte)
  | bad
  deriving DecidableEq, Repr

/-- The data symbols as read: a failed data bank is reconstructed from P and the others (R66). -/
def erasure (d : List Byte) (p : Byte) (failed : Option Nat) : List Byte :=
  match failed with
  | some f => if f < 16 then setNth d f (p ^^^ xorAll (setNth d f 0)) else d
  | none => d

/-- Decode one codeword of 16 data symbols (after erasure) and P, Q (R65, R66). -/
def decodeWord (d : List Byte) (p q : Byte) (failed : Option Nat) : Decoded :=
  let s0 := xorAll d ^^^ p
  let s1 := gfSum 0 d ^^^ q
  match failed with
  | some f =>
    if f < 16 then (if s1 = 0 then .good else .bad)
    else if f = 16 then (if s1 = 0 then .good else .bad)
    else (if s0 = 0 then .good else .bad)
  | none =>
    if s0 = 0 ∧ s1 = 0 then .good
    else if s1 = 0 then .fix 16 (p ^^^ s0)
    else if s0 = 0 then .fix 17 (q ^^^ s1)
    else match errorBank s0 s1 with
      | some j => .fix j (nth 0 d j ^^^ s0)
      | none => .bad

/-- The cells of one row of a tile: data and check symbols. -/
def rowCells (m : List Host.Cell) (t : Tid) (row : Nat) : List Host.Cell :=
  let lo := tileKey t (row * 1024)
  let cl := checkKey t row 0 0
  m.filter (fun c => (lo ≤ c.1 && c.1 < lo + 1024) || (cl ≤ c.1 && c.1 < cl + 128))

/-- The codeword at a byte position of a row: data symbols after erasure, and what decoding says. -/
def readPos (rc : List Host.Cell) (t : Tid) (row pos : Nat) (failed : Option Nat) : List Byte × Decoded :=
  let raw := (List.range 16).map (fun b => cellGet rc (symKey t row b pos))
  let p := cellGet rc (symKey t row 16 pos)
  let q := cellGet rc (symKey t row 17 pos)
  let d := erasure raw p failed
  (d, decodeWord d p q failed)

/-- The value of bank `b` in a decoded codeword. -/
def posValue (r : List Byte × Decoded) (b : Nat) : Byte :=
  match r.2 with
  | .fix j v => if j = b then v else nth 0 r.1 b
  | _ => nth 0 r.1 b

/-- Whether a decoded codeword is uncorrectable. -/
def posBad (r : List Byte × Decoded) : Bool :=
  match r.2 with
  | .bad => true
  | _ => false

/-- Write one data byte of a tile, with P and Q recomputed for its position (R64, R66, R67: from what the banks hold, a
correctable symbol taken as corrected; a failed bank is not written). -/
def tileWriteByte (m : List Host.Cell) (t : Tid) (off : Nat) (v : Byte) (failed : Option Nat) : List Host.Cell :=
  let row := off / 1024
  let b := off / 64 % 16
  let pos := off % 64
  let r := readPos (rowCells m t row) t row pos failed
  let delta := posValue r b ^^^ v
  let m := if failed = some b then m else cellSet m (symKey t row b pos) v
  let m := if failed = some 16 then m
    else cellSet m (symKey t row 16 pos) (cellGet m (symKey t row 16 pos) ^^^ delta)
  if failed = some 17 then m
  else cellSet m (symKey t row 17 pos) (cellGet m (symKey t row 17 pos) ^^^ gfPow b delta)

/-- Write data bytes of a tile from an offset up. -/
def tileWriteBytes (m : List Host.Cell) (t : Tid) (off : Nat) (failed : Option Nat) : List Byte → List Host.Cell
  | [] => m
  | v :: vs => tileWriteBytes (tileWriteByte m t off v failed) t (off + 1) failed vs

end Sys2Proof.Machine
end

