-- ==== Sys2Proof/Machine/Access.lean ====
section
/-! DEFINITION. Addresses and accesses: canonical form and range map (R28 to R33), buffer map (R109, R110), window and
regions (R35, R61 to R77), home ports, page table, write queue, generations and heat (R36 to R52, R106, R470). Every agent
reads and writes memory through these operations. -/
namespace Sys2Proof.Machine

/-- What an access answers: a value, a cause, or that it has to wait. -/
inductive Res (α : Type) where
  | ok (v : α)
  | fault (c : Cause)
  | wait
  deriving DecidableEq, Repr

/-- Who makes an access: context, writer class and tile (R420), its stream's key, the reader that holds bindings (R110),
shadow writes, the core whose firing's FIFO reservations it draws on (R75), whether watchpoints pass it over (R420),
whether it is the E7's own bookkeeping, which finds room at once (log 11), the node it comes from, for an invariant load
how many earlier values were on record when its launch began (R108), and the starve flag of a read (R51). -/
structure Who where
  ctx : Nat
  cls : Nat
  tid : Tid
  key : Nat
  binder : Option Nat
  shadow : Bool
  drawer : Option Tid
  quiet : Bool
  force : Bool
  node : Option Nat
  inv : Option Nat
  starve : Bool
  deriving DecidableEq, Repr

/-- Kinds of access for the permission check (R32). -/
inductive AKind where
  | read | write | atomic | exec | inv
  deriving DecidableEq, Repr

/-- What is done to bytes that lie in one 128-byte line: read n bytes, write the bytes given (a masked byte is none), or
replace n bytes in one step by a function of the old ones, whose code and operands are named for a remote owner (R45, R95,
R96). -/
inductive MOp where
  | read (n : Nat)
  | write (bs : List (Option Byte))
  | rmw (n : Nat) (red : Bool) (what : List Nat) (f : List Byte → List Byte)

/-! ### Parts of State by number -/

/-- Operand `i` of the running event. -/
def State.op (s : State) (i : Nat) : Nat := nth 0 s.ops i

/-- Context `c`. -/
def getCtx (s : State) (c : Nat) : Ctx := s.ctxs.getD c Ctx.reset

/-- Replace context `c`. -/
def setCtx (s : State) (c : Nat) (x : Ctx) : State := { s with ctxs := s.ctxs.set c x }

/-- The core of a tile. -/
def getCore (s : State) (t : Tid) : Core := s.cores.getD t Core.reset

/-- Replace the core of a tile. -/
def setCore (s : State) (t : Tid) (c : Core) : State := { s with cores := s.cores.set t c }

/-! ### Host events (R458, R459) -/

/-- The four words of a host event record (R459). -/
def hostRecord (e : HostEvent) : List Byte :=
  bytesOf 8 (e.cause.toNat + e.ctx % 64 * 1024 + e.launch % 65536 * 65536 + e.tsel % 65536 * 2 ^ 32)
    ++ bytesOf 8 e.operand.toNat ++ bytesOf 8 e.dtime ++ bytesOf 8 e.seq

/-- Write a host event into the ring a port's HEVB names, if any: record (seq − 1) mod size (R459). -/
def hostRing (hostMem : List Host.Cell) (hevb : Word) (e : HostEvent) : List Host.Cell :=
  if bitsOf hevb 3 0 = 0 then hostMem
  else
    let n := 2 ^ (bitsOf hevb 3 0 + 4)
    cellsSet hostMem (bitsOf hevb 63 12 * 4096 + 32 * ((e.seq - 1) % n)) (hostRecord e)

/-- The MSI-X message after an append (R459). -/
def hostVec (hevb : Word) (port : Bool) : List (Bool × Nat) :=
  if bitsOf hevb 3 0 = 0 then [] else [(port, bitsOf hevb 11 4)]

/-- Raise a host event: it is appended to both ports' rings (R459). -/
def hostEvent (s : State) (cause : Cause) (ctx launch tsel : Nat) (operand : Word) : State :=
  let e : HostEvent := ⟨cause, ctx, launch, tsel, operand, s.clk.dtime, s.host.seq + 1⟩
  { s with
    host := { s.host with
      seq := s.host.seq + 1
      events := s.host.events ++ [e]
      irqs := s.host.irqs ++ hostVec s.host.hevbA false ++ hostVec s.host.hevbB true }
    st := { s.st with host := hostRing (hostRing s.st.host s.host.hevbA e) s.host.hevbB e } }

/-! ### Range map and buffer map -/

/-- Bits 63:57 equal bit 56 (R28). -/
def canonical (va : Word) : Bool := bitsOf va 63 57 == (if bitOf va 56 then 127 else 0)

/-- A range register that holds a VA (R29, R30). -/
def rangeHit (r : Word × Word × Word) (v : Nat) : Bool :=
  bitOf r.1 0 && bitsOf r.1 56 16 * 65536 ≤ v && v < (bitsOf r.1 56 16 + bitsOf r.2.1 40 0) * 65536

/-- The range register that holds a VA, if any (R29). -/
def findRange (c : Ctx) (va : Word) : Option (Word × Word × Word) := c.ranges.find? (fun r => rangeHit r (bitsOf va 56 0))

/-- Permission bits of R30 that each kind of access needs (R32). -/
def permitted (r : Word × Word × Word) : AKind → Bool
  | .read | .inv => bitOf r.2.2 3
  | .write => bitOf r.2.2 2
  | .atomic => bitOf r.2.2 3 && bitOf r.2.2 2
  | .exec => bitOf r.2.2 1

/-- The valid buffer map entry that holds a VA (R109), with its number. -/
def findBuf (c : Ctx) (v : Nat) : Option (Nat × (Word × Word × Word × Word)) :=
  c.bufmap.find? (fun e => bitOf e.2.1 0 && bitsOf e.2.1 56 6 * 64 ≤ v
    && v < (bitsOf e.2.1 56 6 + bitsOf e.2.2.1 63 32) * 64)

/-- The FRONT a reader uses: the one of its binding, else the entry's (R110). -/
def frontOf (c : Ctx) (binder : Option Nat) (e : Nat) (w2 : Word) : Nat :=
  match binder with
  | some b =>
    match c.bindings.find? (fun x => x.reader == b && x.entry == e) with
    | some x => x.front
    | none => bitsOf w2 47 6 * 64
  | none => bitsOf w2 47 6 * 64

/-- The IA of a VA inside its range, through the buffer map (R29, R110). -/
def iaOf (c : Ctx) (who : Who) (r : Word × Word × Word) (v : Nat) : Nat :=
  match findBuf c v with
  | some (e, w) =>
    let off := v - bitsOf w.1 56 6 * 64
    if who.shadow then bitsOf w.2.2.2 47 6 * 64 + off else frontOf c who.binder e w.2.2.1 + off
  | none => bitsOf r.2.2 47 16 * 65536 + (v - bitsOf r.1 56 16 * 65536)

/-- IA in the on-chip window (R34). -/
def inWindow (ia : Nat) : Bool := ia / 2 ^ 44 == 15

/-- The tile a window IA names (R35): y and x are adjacent fields, so this is the tile number. -/
def windowTid (ia : Nat) : Tid := ia / 2 ^ 20 % 4096

/-- A window IA that is well formed and names a memory tile in service (R35). -/
def windowOk (s : State) (ia : Nat) : Bool :=
  ia / 2 ^ 32 % 4096 == 0 && isMem (windowTid ia) && !(s.boot.fallow.contains (windowTid ia))

/-- A quad that work may be placed on: some core of it is in service; its fallow tiles are left out one by one (R13; log 125). -/
def quadUsable (s : State) (q : Nat) : Bool := (quadCores q).any (fun t => !s.boot.fallow.contains t)

/-- A fallow quad, whose engine is out of service (R13, R123). -/
def quadFallow (s : State) (q : Nat) : Bool := !quadUsable s q

/-- Translate one VA at the issuer: NONCANON, NOMAP, PERM, WINDOW in that order; the IA and the range's class (R28, R29,
R32, R35). -/
def translate (s : State) (who : Who) (va : Word) (k : AKind) : Except Cause (Nat × Nat) :=
  if !canonical va then .error Cause.noncanon
  else match findRange (getCtx s who.ctx) va with
    | none => .error Cause.nomap
    | some r =>
      if !permitted r k then .error Cause.perm
      else
        let ia := iaOf (getCtx s who.ctx) who r (bitsOf va 56 0)
        if inWindow ia && !windowOk s ia then .error Cause.window
        else .ok (ia, bitsOf r.2.2 15 12)

/-- The issue checks of an access of n bytes: at its first byte, and at its last where it crosses a 128-byte line (R29,
R263). -/
def checkIssue (s : State) (who : Who) (va : Word) (n : Nat) (k : AKind) : Except Cause (Nat × Nat) :=
  match translate s who va k with
  | .error c => .error c
  | .ok r =>
    if va.toNat / 128 = (va.toNat + (n - 1)) / 128 then .ok r
    else match translate s who (va + BitVec.ofNat 64 (n - 1)) k with
      | .error c => .error c
      | .ok _ => .ok r

/-- A reader's binding to an entry, taken at its first access to the buffer (R110). -/
def bindRead (s : State) (who : Who) (va : Word) : State :=
  match who.binder with
  | none => s
  | some b =>
    let c := getCtx s who.ctx
    match findBuf c (bitsOf va 56 0) with
    | none => s
    | some (e, w) =>
      if c.bindings.any (fun x => x.reader == b && x.entry == e) then s
      else setCtx s who.ctx { c with
        bindings := c.bindings ++ [⟨b, e, bitsOf w.2.2.1 47 6 * 64, bitsOf w.2.1 63 32 * 64⟩] }

/-- Bytes that an operation covers. -/
def MOp.len : MOp → Nat
  | .read n => n
  | .write bs => bs.length
  | .rmw n _ _ _ => n

/-- The operation is a read. -/
def MOp.isRead : MOp → Bool
  | .read _ => true
  | _ => false

/-- A write or reduction: nothing is returned to its stream (R107). -/
def MOp.isWrite : MOp → Bool
  | .write _ => true
  | .rmw _ red _ _ => red
  | .read _ => false

/-- A shadow write waits while a binding of any context holds some of its bytes of IA (R110). -/
def shadowHeld (s : State) (who : Who) (ia n : Nat) : Bool :=
  who.shadow && !who.force && s.ctxs.any (fun c => c.2.bindings.any (fun x => ia < x.front + x.len && x.front < ia + n))

/-- Release every binding of a reader (R110). -/
def unbind (s : State) (ctx b : Nat) : State :=
  let c := getCtx s ctx
  setCtx s ctx { c with bindings := c.bindings.filter (fun x => x.reader != b) }

/-! ### Values an invariant load may return (R108) -/

/-- IA of byte `off` of a memory tile in the window (R35). -/
def windowIA (t : Tid) (off : Nat) : Nat := 15 * 2 ^ 44 + t * 2 ^ 20 + off

/-- The bytes that a write changes, with what they held. -/
def changedBytes (ia : Nat) : List Byte → List (Option Byte) → List (Nat × Byte)
  | o :: old, some b :: bs => if o = b then changedBytes (ia + 1) old bs else (ia, o) :: changedBytes (ia + 1) old bs
  | _ :: old, none :: bs => changedBytes (ia + 1) old bs
  | _, _ => []

/-- Keep what the bytes of a performed write held while a launch is live: invariant loads of its launches may still return
it (R108). -/
def notePast (s : State) (ia : Nat) (old : List Byte) (bs : List (Option Byte)) : State :=
  { s with st := { s.st with past := if s.ln.live.isEmpty then [] else s.st.past ++ [changedBytes ia old bs] } }

/-- What a byte has held since `n` values were on record, its present value left out. -/
def pastOf (s : State) (n ia : Nat) : List Byte := ((s.st.past.drop n).flatten.filter (fun x => x.1 == ia)).map (·.2)

/-- Each byte of an invariant load: any value it has held since its launch began, a free choice (R108; log 13). -/
def invBytes (s : State) (n ia : Nat) : List Byte → List Byte × State
  | [] => ([], s)
  | b :: bs =>
    match pastOf s n ia with
    | [] => let r := invBytes s n (ia + 1) bs; (b :: r.1, r.2)
    | h => let r := invBytes { s with free := s.free + 1 } n (ia + 1) bs
           (nth b h (Sys2Proof.Config.freeChoice s.free % (h.length + 1)) :: r.1, r.2)

/-- The bytes from an IA up as they were before one write. -/
def unwrite (ia : Nat) (bs : List Byte) (w : List (Nat × Byte)) : List Byte :=
  w.foldl (fun bs x => if ia ≤ x.1 then setNth bs (x.1 - ia) x.2 else bs) bs

/-- What the bytes from an IA up have held together, one value after each write since `n` were on record, the latest first. -/
def heldBefore (ia : Nat) : List Byte → List (List (Nat × Byte)) → List (List Byte)
  | _, [] => []
  | bs, w :: l => let b := unwrite ia bs w
                  if b = bs then heldBefore ia bs l else b :: heldBefore ia b l

/-- A word fetched, whose bytes are written together or apart: any value that the word has held since its launch began, a free
choice (R254; log 13). -/
def invWord (s : State) (n ia : Nat) (bs : List Byte) : List Byte × State :=
  match heldBefore ia bs (s.st.past.drop n).reverse with
  | [] => (bs, s)
  | h => (nth bs h (Sys2Proof.Config.freeChoice s.free % (h.length + 1)), { s with free := s.free + 1 })

/-- The range of a VA has PI (R32). -/
def hasPI (s : State) (who : Who) (va : Word) : Bool :=
  match findRange (getCtx s who.ctx) va with
  | some r => bitOf r.2.2 0
  | none => false

/-- How many earlier values were on record when a launch began (R108). -/
def beganOf (s : State) (lid : Nat) : Option Nat := (s.ln.live.find? (fun l => l.lid == lid)).map (·.began)

/-- The agent of a load flagged invariant: the flag counts where the range had PI at its issue (R32, R33, R108). -/
def invWho (s : State) (who : Who) (lid : Nat) (flag pi : Bool) : Who :=
  if flag && pi then { who with inv := beganOf s lid } else who

/-! ### Memory tiles -/

/-- MTSTAT of a tile. -/
def mtstat (s : State) (t : Tid) : Word := s.tl.mtstat.getD t 0

/-- The failed bank of a tile, if one is declared (R66, R69). -/
def failedBank (w : Word) : Option Nat := if bitOf w 21 then some (bitsOf w 20 16) else none

/-- Declare a bank failed: the first sets FV and FAILED, a second other bank sets F2; the host is told (R66, R67, R69). -/
def declareFailed (s : State) (t : Tid) (b : Nat) : State :=
  let w := mtstat s t
  let w' := if bitOf w 21 then (if bitsOf w 20 16 = b then w else withBits w 22 22 1)
    else withBits (withBits w 21 21 1) 20 16 b
  hostEvent { s with tl := { s.tl with mtstat := s.tl.mtstat.set t w' } } Cause.bankfail 0 0 (tselOf t) (BitVec.ofNat 64 b)

/-- Add a corrected bank to the counts of a tile: CECNT, the bank's internal count, and the threshold BFTH (R65, R66). -/
def noteCorrection (s : State) (t : Tid) (b : Nat) : State :=
  let w := mtstat s t
  let w' := withBits w 63 32 (min (bitsOf w 63 32 + 1) (2 ^ 32 - 1))
  let n := s.tl.bankCount.getD (t * 32 + b) 0 + 1
  let s := { s with tl := { s.tl with
    mtstat := s.tl.mtstat.set t w', bankCount := s.tl.bankCount.set (t * 32 + b) n } }
  if bitsOf w 15 8 ≠ 0 ∧ bitsOf w 15 8 ≤ n ∧ failedBank w ≠ some b then declareFailed s t b else s

/-- The banks whose symbols a row's decoding corrects, with the byte position. -/
def rowFixes : Nat → List (List Byte × Decoded) → List (Nat × Nat)
  | _, [] => []
  | pos, r :: rs =>
    match r.2 with
    | .fix b _ => (b, pos) :: rowFixes (pos + 1) rs
    | _ => rowFixes (pos + 1) rs

/-- Decode a row as every read of it does: counts, pending write backs, UE (R65 to R68). -/
def decodeRow (s : State) (t : Tid) (row : Nat) : List (List Byte × Decoded) × State :=
  let rc := rowCells s.st.mem t row
  let rs := (List.range 64).map (fun p => readPos rc t row p (failedBank (mtstat s t)))
  let fixes := rowFixes 0 rs
  let banks := (fixes.map (·.1)).eraseDups
  let s := banks.foldl (fun s b => noteCorrection s t b) s
  let s := { s with tl := { s.tl with
    corrections := s.tl.corrections ++ fixes.map (fun f => (t, row, f.1, f.2)) } }
  let s := if rs.any posBad then
      { s with tl := { s.tl with mtstat := s.tl.mtstat.set t (withBits (mtstat s t) 23 23 1) } }
    else s
  (rs, s)

/-- The codewords of `n` bytes of one row from an offset, each with the bank of its byte (R61). -/
def rowPart (rs : List (List Byte × Decoded)) (off n : Nat) : List ((List Byte × Decoded) × Nat) :=
  (List.range n).map (fun i => (nth ([], .good) rs ((off + i) % 64), (off + i) / 64 % 16))

/-- Read bytes of one row of a tile (R65, R67). -/
def tileRead (s : State) (t : Tid) (off n : Nat) : Res (List Byte) × State :=
  if bitOf (mtstat s t) 22 then (.fault Cause.tileue, s)
  else
    let r := decodeRow s t (off / 1024)
    let sel := rowPart r.1 off n
    if sel.any (fun d => posBad d.1) then (.fault Cause.tileue, r.2)
    else (.ok (sel.map (fun d => posValue d.1 d.2)), r.2)

/-- The old bytes that a reduction, which is a write, merges into: as the banks hold them where the codeword is uncorrectable
(R67, R107). -/
def tileMerge (s : State) (t : Tid) (off n : Nat) : Res (List Byte) × State :=
  if bitOf (mtstat s t) 22 then (.fault Cause.tileue, s)
  else
    let r := decodeRow s t (off / 1024)
    (.ok ((rowPart r.1 off n).map (fun d => posValue d.1 d.2)), r.2)

/-- Write the given bytes of a tile; masked bytes stay. -/
def tileWriteMasked (m : List Host.Cell) (t : Tid) (off : Nat) (failed : Option Nat) : List (Option Byte) → List Host.Cell
  | [] => m
  | none :: bs => tileWriteMasked m t (off + 1) failed bs
  | some v :: bs => tileWriteMasked (tileWriteByte m t off v failed) t (off + 1) failed bs

/-- What the bytes of one row of a tile hold (R61, R65). -/
def tileBytes (s : State) (t : Tid) (off n : Nat) : List Byte :=
  let rc := rowCells s.st.mem t (off / 1024)
  (List.range n).map (fun i =>
    posValue (readPos rc t (off / 1024) ((off + i) % 64) (failedBank (mtstat s t))) ((off + i) / 64 % 16))

/-- One step of a write generation: no advance past all ones (R48). -/
def genNext (g : BitVec 32) : BitVec 32 := if g = BitVec.allOnes 32 then g else g + 1

/-- Advance the write generation of a window page (R46, R47). -/
def windowAdvance (s : State) (t : Tid) (off : Nat) : State :=
  let k := t * 16 + off / 65536
  { s with tl := { s.tl with windowGen := s.tl.windowGen.set k (genNext (s.tl.windowGen.getD k 0)) } }

/-- The bytes cover whole 64-byte rows of their banks (R63). -/
def coversRows (off : Nat) (bs : List (Option Byte)) : Bool :=
  off % 64 == 0 && bs.length % 64 == 0 && bs.all Option.isSome

/-- Put bytes into one row of a tile: data, check symbols and the page's generation (R46, R47, R64). -/
def tilePut (s : State) (t : Tid) (off : Nat) (bs : List (Option Byte)) : State :=
  let m := tileWriteMasked s.st.mem t off (failedBank (mtstat s t)) bs
  let s := notePast s (windowIA t off) (tileBytes s t off bs.length) bs
  windowAdvance { s with st := { s.st with mem := m } } t off

/-- Write bytes of one row of a tile: TILEUE where two banks have failed (R67); a partial write first reads the old row as
every read does (R63, R65); bytes all masked are no write (R46). -/
def tileWrite (s : State) (t : Tid) (off : Nat) (bs : List (Option Byte)) : Res (List Byte) × State :=
  if bitOf (mtstat s t) 22 then (.fault Cause.tileue, s)
  else if bs.all Option.isNone then (.ok [], s)
  else if coversRows off bs then (.ok [], tilePut s t off bs)
  else (.ok [], tilePut (decodeRow s t (off / 1024)).2 t off bs)

/-! ### Regions (R70 to R77) -/

/-- The two words of a region descriptor. -/
def region (s : State) (t : Tid) (r : Nat) : Word × Word := s.tl.regions.getD (t * 8 + r) (0, 0)

/-- Replace a region descriptor. -/
def setRegion (s : State) (t : Tid) (r : Nat) (w : Word × Word) : State :=
  { s with tl := { s.tl with regions := s.tl.regions.set (t * 8 + r) w } }

/-- MODE, CTX, first offset and bytes of a descriptor. -/
def regMode (w : Word × Word) : Nat := bitsOf w.1 63 60
def regCtx (w : Word × Word) : Nat := bitsOf w.1 59 54
def regBase (w : Word × Word) : Nat := bitsOf w.1 47 34 * 64
def regLen (w : Word × Word) : Nat := bitsOf w.1 33 19

/-- The region that holds an offset of a tile, if any. -/
def regionAt (s : State) (t : Tid) (off : Nat) : Option Nat :=
  (List.range 8).find? (fun r =>
    let w := region s t r
    regMode w != 0 && regBase w ≤ off && off < regBase w + regLen w * 64)

/-- HEAD, COUNT, RESV and PRES of a FIFO (R70). -/
def fifoHead (w : Word × Word) : Nat := bitsOf w.2 29 16
def fifoCount (w : Word × Word) : Nat := bitsOf w.2 14 0
def fifoResv (w : Word × Word) : Nat := bitsOf w.2 62 48
def fifoPres (w : Word × Word) : Nat := bitsOf w.2 47 33

/-- Key of a FIFO token's sideband (R342). -/
def sideKey (t : Tid) (r i : Nat) : Nat := (t * 8 + r) * 32768 + i

/-- The reservation a core's firing holds on a FIFO, for pops or pushes (R75, R91). -/
def drawOf (s : State) (drawer : Option Tid) (t : Tid) (r : Nat) (push : Bool) : Nat :=
  match drawer with
  | none => 0
  | some c =>
    match (getCore s c).run with
    | none => 0
    | some f => ((f.task.claims.filter (fun x => x.tid == t && x.region == r && x.kind == 1 && x.out == push)).map (·.count)).sum

/-- Use one unit of the first claim that matches. -/
def useClaim (t : Tid) (r : Nat) (push : Bool) : List Claim → List Claim
  | [] => []
  | x :: l =>
    if x.tid == t && x.region == r && x.kind == 1 && x.out == push && 0 < x.count then { x with count := x.count - 1 } :: l
    else x :: useClaim t r push l

/-- Draw one token or space from a core's reservation: claim and RESV or PRES together (R75). -/
def drawOne (s : State) (drawer : Option Tid) (t : Tid) (r : Nat) (push : Bool) : State :=
  if drawOf s drawer t r push = 0 then s
  else match drawer with
    | none => s
    | some c =>
      match (getCore s c).run with
      | none => s
      | some f =>
        let core := getCore s c
        let s := setCore s c { core with run := some { f with task := { f.task with claims := useClaim t r push f.task.claims } } }
        let w := region s t r
        setRegion s t r (w.1, if push then withBits w.2 47 33 (fifoPres w - 1) else withBits w.2 62 48 (fifoResv w - 1))

/-- A push can be performed now: an unreserved space, or one of the pusher's own (R75). -/
def pushReady (s : State) (drawer : Option Tid) (t : Tid) (r : Nat) : Bool :=
  let w := region s t r
  if 0 < drawOf s drawer t r true then fifoCount w < regLen w
  else fifoCount w + fifoPres w < regLen w

/-- A pop can be performed now (R75). -/
def popReady (s : State) (drawer : Option Tid) (t : Tid) (r : Nat) : Bool :=
  let w := region s t r
  if 0 < drawOf s drawer t r false then 0 < fifoCount w
  else fifoResv w < fifoCount w

/-- Push one token at the tail (R75). -/
def fifoPushNow (s : State) (drawer : Option Tid) (t : Tid) (r : Nat) (tok : Token) : Res (List Byte) × State :=
  let w := region s t r
  let i := if regLen w = 0 then 0 else (fifoHead w + fifoCount w) % regLen w
  match tileWrite s t (regBase w + i * 64) ((bytesOf 64 tok.data.toNat).map some) with
  | (.ok _, s) =>
    let s := drawOne s drawer t r true
    let w := region s t r
    let s := setRegion s t r (w.1, withBits w.2 14 0 (fifoCount w + 1))
    (.ok [], { s with tl := { s.tl with fifoSide := s.tl.fifoSide.set (sideKey t r i) (tok.mask, tok.pred) } })
  | (x, s) => (x, s)

/-- The head token's bytes and sideband. -/
def fifoHeadToken (s : State) (t : Tid) (r : Nat) : Res (List Byte) × State × (BitVec 16 × Bool) :=
  let w := region s t r
  let side := s.tl.fifoSide.getD (sideKey t r (fifoHead w)) (BitVec.allOnes 16, false)
  match tileRead s t (regBase w + fifoHead w * 64) 64 with
  | (x, s) => (x, s, side)

/-- Drop the head token: HEAD and COUNT (R75). -/
def fifoAdvance (s : State) (drawer : Option Tid) (t : Tid) (r : Nat) : State :=
  let s := drawOne s drawer t r false
  let w := region s t r
  setRegion s t r (w.1, withBits (withBits w.2 29 16 ((fifoHead w + 1) % max (regLen w) 1)) 14 0 (fifoCount w - 1))

/-- A window access to a FIFO region at an offset counted from the region start (R76); the pop word's load reads the head slot as
every pop does (R75), and its own bytes are the count. -/
def fifoAccess (s : State) (who : Who) (t : Tid) (r : Nat) (rel : Nat) (op : MOp) : Res (List Byte) × State :=
  let st := s.tl.staging.getD (t * 8 + r) 0
  match op with
  | .read n =>
    if rel + n ≤ 64 then
      if popReady s who.drawer t r then
        match fifoHeadToken s t r with
        | (.ok bs, s, _) => (.ok ((bs.drop rel).take n), s)
        | (x, s, _) => (x, s)
      else (.wait, s)
    else if rel = 64 ∧ n = 8 then
      if popReady s who.drawer t r then
        let s := fifoAdvance (fifoHeadToken s t r).2.1 who.drawer t r
        (.ok (bytesOf 8 (fifoCount (region s t r))), s)
      else (.wait, s)
    else (.fault Cause.region, s)
  | .write bs =>
    if rel + bs.length ≤ 64 then
      let old := bytesOf 64 st.toNat
      let new := (List.range 64).map (fun i =>
        if rel ≤ i ∧ i < rel + bs.length then (nth none bs (i - rel)).getD (nth 0 old i) else nth 0 old i)
      (.ok [], { s with tl := { s.tl with staging := s.tl.staging.set (t * 8 + r) (BitVec.ofNat 512 (ofBytes new)) } })
    else if rel = 64 ∧ bs.length = 8 then
      if pushReady s who.drawer t r then
        match fifoPushNow s who.drawer t r ⟨.data, BitVec.allOnes 16, false, st⟩ with
        | (.ok _, s) => (.ok [], { s with tl := { s.tl with staging := s.tl.staging.set (t * 8 + r) 0 } })
        | (x, s) => (x, s)
      else (.wait, s)
    else (.fault Cause.region, s)
  | .rmw _ _ _ _ => (.fault Cause.region, s)

/-- Write option bytes from plain ones. -/
def allSome (bs : List Byte) : List (Option Byte) := bs.map some

/-- An access to one line of a memory tile, regions checked (R61, R72, R76); what it replaces in one step it has read. -/
def windowAccess (s : State) (who : Who) (t : Tid) (off : Nat) (op : MOp) : Res (List Byte) × State :=
  let plain : Res (List Byte) × State :=
    match op with
    | .read n => tileRead s t off n
    | .write bs => tileWrite s t off bs
    | .rmw n red _ f =>
      match (if red then tileMerge s t off n else tileRead s t off n) with
      | (.ok old, s) =>
        if bitOf (mtstat s t) 22 then (.fault Cause.tileue, s) else (.ok old, tilePut s t off (allSome (f old)))
      | (x, s) => (x, s)
  if bitOf (mtstat s t) 22 then (.fault Cause.tileue, s)
  else match regionAt s t off with
    | none => plain
    | some r =>
      if regCtx (region s t r) ≠ who.ctx then (.fault Cause.region, s)
      else if regMode (region s t r) = 2 then fifoAccess s who t r (off - regBase (region s t r)) op
      else plain

/-! ### Near and far memory -/

/-- The byte at a storage key, through the line's write-queue entry where one exists (R106). -/
def physGet (s : State) (k : Nat) : Byte :=
  match s.st.lineQ.get? (k / 128) with
  | some e => nth 0 e.bytes (k % 128)
  | none => cellGet s.st.mem k

/-- Bytes from a storage key up. -/
def physGets (s : State) (k : Nat) : Nat → List Byte
  | 0 => []
  | n + 1 => physGet s k :: physGets s (k + 1) n

/-- Whether the line at a storage key is uncorrectable: its entry's mark, else the array's (R470). -/
def lineIsBad (s : State) (line : Nat) : Bool :=
  match s.st.lineQ.get? line with
  | some e => e.bad
  | none => s.st.lineBad.contains line

/-- The links that may carry traffic to a node: those its route entry sets (R462). -/
def setLinks (s : State) (node : Nat) : List Nat :=
  (List.range 16).filter (fun l => (s.boot.route.getD (node / 16) 0).getLsbD l)

/-- The link of a flow: one of the set links, by a hash of source tile and node; none where the entry is 0 (R462). -/
def linkFor (s : State) (src : Tid) (node : Nat) : Option Nat :=
  (setLinks s node)[Sys2Proof.Config.linkHash src node % max (setLinks s node).length 1]?

/-- A message from a tile to a node has a link that is up (R433, R462). -/
def linkUp (s : State) (src : Tid) (node : Nat) : Bool :=
  match linkFor s src node with
  | some l => s.boot.links.getLsbD l
  | none => false

/-- Hand a message of a tile for another node to the Psiba link that it chooses now (R462). -/
def sendFrom (s : State) (src : Tid) (node cls : Nat) (words : List Nat) : State :=
  { s with host := { s.host with
    netOut := s.host.netOut ++
      [⟨s.eng.nextUid, src, 0, node, cls, words.map (BitVec.ofNat 64), none, 0, true, none, linkFor s src node⟩] } }

/-- A message of the E7 or an engine: tile 0 stands for its source tile (log 147). -/
def sendNode (s : State) (node cls : Nat) (words : List Nat) : State := sendFrom s 0 node cls words

/-! ### Frames of a checkpoint image (R156, R157) -/

/-- Frames of an image. -/
def imageFrames : Nat := 28 * 2 ^ 20

/-- The frame that holds a storage key of the near or far tier. -/
def frameOfKey (k : Nat) : Nat := if k < 2 ^ 44 then k / 65536 else 12 * 2 ^ 20 + (k - 2 ^ 44) / 65536

/-- Storage key of the first byte of a frame. -/
def frameKey (f : Nat) : Nat := if f < 12 * 2 ^ 20 then localKey 0 (f * 65536) else localKey 1 ((f - 12 * 2 ^ 20) * 65536)

/-- A line of the image as it leaves the package: encrypted; zeros where the line is uncorrectable (R157, R159). -/
def imageLine (s : State) (f i : Nat) : List Byte :=
  let k := frameKey f + i * 128
  if lineIsBad s (k / 128) then List.replicate 128 0
  else (physGets s k 128).zipIdx.map (fun x => x.1 ^^^ Sys2Proof.Config.imageStream s.boot.node (f * 512 + i) x.2)

/-- A frame of the image. -/
def imageFrame (s : State) (f : Nat) : List Byte := (List.range 512).flatMap (imageLine s f)

/-- Uncorrectable lines of a frame. -/
def badLinesOf (s : State) (f : Nat) : Nat := ((List.range 512).filter (fun i => lineIsBad s (frameKey f / 128 + i))).length

/-- Keys under which a frame's lines are stored, kept with the image (log 8, log 89). -/
def keepKeys (s : State) (c : Ckpt) (f : Nat) : State :=
  let keys (m : SMap Nat) : SMap Nat := (List.range 512).foldl (fun m i =>
    match s.st.lineKey.get? (frameKey f / 128 + i) with
    | some t => m.set (frameKey f / 128 + i) t
    | none => m.erase (frameKey f / 128 + i)) m
  { s with eng := { s.eng with images := s.eng.images.map (fun m =>
      if m.id = c.image then { m with keys := keys m.keys } else m) } }

/-- Host bus address of a frame (R157, MODE 1 and 3). -/
def hostFrame (places : List Word) (f : Nat) : Nat :=
  let b := f / 32
  (nth 0 places (b % 2)).toNat + b / 2 * 2 ^ 21 + f % 32 * 65536

/-- Peer node and IA of a frame (R157, MODE 0 and 2). -/
def peerFrame (places : List Word) (f : Nat) : Nat × Nat :=
  let p := nth 0 places (f % max places.length 1)
  (bitsOf p 19 0, bitsOf p 51 20 * 65536 + f / max places.length 1 * 65536)

/-- Key under which a peer answers for a frame. -/
def frameReply (f : Nat) : Nat := 2 ^ 61 + f

/-- A frame has been copied. -/
def Ckpt.has (c : Ckpt) (f : Nat) : Bool := f < c.copied || c.early.contains f

/-- Copy one frame of the image to its place (R157); it is copied ahead of its turn where a write wants it (R155, step 7). -/
def copyFrame (s : State) (c : Ckpt) (f : Nat) : State :=
  let bs := imageFrame s f
  let c := { c with badLines := c.badLines + badLinesOf s f }
  let c := if f = c.copied then { c with copied := f + 1 } else { c with early := c.early ++ [f] }
  let s := keepKeys s c f
  if c.mode = 1 then
    { s with st := { s.st with host := cellsSet s.st.host (hostFrame c.places f) bs }, eng := { s.eng with ckpt := some c } }
  else
    let p := peerFrame c.places f
    sendNode { s with eng := { s.eng with ckpt := some { c with pend := c.pend ++ [f] } } } p.1 0
      ([18, frameReply f, p.2] ++ bs.map (·.toNat))

/-- Between the cut and the end of a save, a frame is copied before a write to it is accepted (R156). -/
def ckptTouch (s : State) (k : Nat) : State :=
  match s.eng.ckpt with
  | none => s
  | some c => if c.mode < 2 && c.cutDone && !c.has (frameOfKey k) then copyFrame s c (frameOfKey k) else s

/-- Write one byte at a storage key without a write of the model's agents (E7 bookkeeping: generations, moves). -/
def physSet (s : State) (k : Nat) (b : Byte) : State :=
  match s.st.lineQ.get? (k / 128) with
  | some e => { s with st := { s.st with lineQ := s.st.lineQ.set (k / 128) { e with bytes := setNth e.bytes (k % 128) b } } }
  | none => { s with st := { s.st with mem := cellSet s.st.mem k b } }

/-- Write bytes from a storage key up. -/
def physPut (s : State) (k : Nat) : List Byte → State
  | [] => s
  | b :: bs => physPut (physSet s k b) (k + 1) bs

/-- Write bytes of one frame from a storage key up; a frame of a checkpoint image is copied first (R156). -/
def physSets (s : State) (k : Nat) (bs : List Byte) : State := physPut (ckptTouch s k) k bs

/-! ### Page table (R37 to R40) -/

/-- The two words of the table entry at a storage key. -/
def entryAt (s : State) (k : Nat) : Word × Word :=
  (BitVec.ofNat 64 (ofBytes (physGets s k 8)), BitVec.ofNat 64 (ofBytes (physGets s (k + 8) 8)))

/-- Index of an IA at a level (R38). -/
def walkIndex (ia level : Nat) : Nat :=
  match level with
  | 0 => ia / 2 ^ 39 % 512
  | 1 => ia / 2 ^ 30 % 512
  | 2 => ia / 2 ^ 21 % 512
  | _ => ia / 2 ^ 16 % 32

/-- Fields of a leaf (R39). -/
def leafTier (w0 : Word) : Nat := bitsOf w0 3 2
def leafFrame (w0 : Word) : Nat := bitsOf w0 31 8
def leafNode (w1 : Word) : Nat := bitsOf w1 63 44
def leafHome (w1 : Word) : Nat := bitsOf w1 43 24
def leafKeyid (w1 : Word) : Nat := bitsOf w1 23 16
def leafDir (w0 : Word) : Bool := bitOf w0 4
def leafPin (w0 : Word) : Bool := bitOf w0 5

/-- A reserved bit or value of an entry (R39). -/
def entryReserved (w0 w1 : Word) : Bool :=
  if bitsOf w0 1 0 = 1 then w1 != 0 || !zeroBits w0 63 40 || !zeroBits w0 8 4 || 2 ≤ bitsOf w0 3 2
  else !zeroBits w0 7 6 || leafTier w0 == 3

/-- `leaf_ok` of R40. -/
def leafOk (s : State) (w0 w1 : Word) (level : Nat) : Bool :=
  !(leafTier w0 ≤ 1 && leafNode w1 != s.boot.node)
  && !(leafTier w0 == 2 && leafFrame w0 != 0)
  && !(leafTier w0 == 0 && 12 ≤ bitsOf w0 31 28)
  && !(level == 2 && !zeroBits w0 12 8)
  && !(level == 1 && !zeroBits w0 21 8)
  && !(!leafDir w0 && leafHome w1 != 0)

/-- The walk from the entry at a storage key at a level (R40): the leaf, its level and its place. -/
def walkFrom (s : State) (ia : Nat) : Nat → Nat → Nat → Except Cause (Word × Word × Nat × Nat)
  | 0, _, _ => .error Cause.ptebad
  | fuel + 1, level, k =>
    if lineIsBad s (k / 128) then .error Cause.walkerr
    else
      let e := entryAt s k
      let ty := bitsOf e.1 1 0
      if ty = 0 then .error Cause.pageflt
      else if ty = 3 ∨ entryReserved e.1 e.2 = true then .error Cause.ptebad
      else if ty = 1 then
        if level = 3 ∨ (level ≤ 1 ∧ !zeroBits e.1 12 9) then .error Cause.ptebad
        else walkFrom s ia fuel (level + 1) (localKey (bitsOf e.1 3 2) (bitsOf e.1 39 9 * 512) + 16 * walkIndex ia (level + 1))
      else if level = 0 ∨ leafOk s e.1 e.2 level = false then .error Cause.ptebad
      else .ok (e.1, e.2, level, k)

/-- The walk from PTBASE (R37, R40). -/
def walk (s : State) (ia : Nat) : Except Cause (Word × Word × Nat × Nat) :=
  walkFrom s ia 4 0 (localKey (bitsOf s.xl.ptbase 1 0) (bitsOf s.xl.ptbase 39 13 * 8192) + 16 * walkIndex ia 0)

/-- Home port of a device IA (R36). -/
def homePort (ia : Nat) : Nat := ia / 65536 % 64

/-- Where the generation of a page's portion lies: the leaf's GEN, or a word of the array it points to (R39, R49). -/
def genKey (w0 : Word) (level entryAddr page : Nat) : Nat :=
  match level with
  | 3 => entryAddr + 4
  | 2 => localKey 0 (bitsOf w0 63 32 * 256 + 4 * (page % 32))
  | _ => localKey 0 (bitsOf w0 63 32 * 256 + 4 * (page % 16384))

/-- Write a cached generation back to its place in memory (R41, R49); a remote page keeps none here (R50). -/
def genWriteBack (s : State) (page : Nat) (e : TEntry) : State :=
  if leafTier e.w0 = 2 then s
  else physSets s (genKey e.w0 e.level e.entryAddr page) (bytesOf 4 e.gen.toNat)

/-- Drop a cached translation, its generation written back first (R49). -/
def cacheDrop (s : State) (page : Nat) : State :=
  match s.xl.tcache.get? page with
  | none => s
  | some e =>
    let s := genWriteBack s page e
    { s with xl := { s.xl with tcache := s.xl.tcache.erase page } }

/-- Cache a leaf (R40): a port holds 4,096 translations, and the first listed leaves for a new one. -/
def cacheInsert (s : State) (page : Nat) (l : Word × Word × Nat × Nat) : State :=
  let mine := s.xl.tcache.filter (fun e => e.1 % 64 == page % 64)
  let s := if mine.length < 4096 then s else
    match mine with
    | [] => s
    | e :: _ => cacheDrop s e.1
  let g := BitVec.ofNat 32 (ofBytes (physGets s (genKey l.1 l.2.2.1 l.2.2.2 page) 4))
  let te : TEntry := ⟨page, l.2.2.1, l.1, l.2.1, l.2.2.2, g, 0, 0, false, 0, false⟩
  { s with xl := { s.xl with tcache := s.xl.tcache.set page te } }

/-! ### Directory entries (R56) -/

/-- Storage key of byte 0 of a page's directory entry (R56; log 71). -/
def dirKey (page : Nat) : Nat :=
  let p := Sys2Proof.Config.dirPlace page
  frameKey p.1.val + p.2.val * 64

/-- Header words 0 to 3 of a directory entry (R56). -/
def dirWords (d : DirEntry) : List Nat :=
  [d.owner + d.moving.toNat * 2 ^ 20 + d.settled.toNat * 2 ^ 21 + d.moves * 2 ^ 36 + d.sharers.length * 2 ^ 40,
    d.stamp1, d.stamp2, d.page * 65536]

/-- The 320 bytes of a directory entry: its header, and the sharer words, valid ones first (R56). -/
def dirBytes (d : DirEntry) : List Byte :=
  let sharers := ((d.sharers.take 64).map (fun n => 2 ^ 31 + n)) ++ List.replicate (64 - d.sharers.length) 0
  (dirWords d).flatMap (bytesOf 8) ++ List.replicate 32 0 ++ sharers.flatMap (bytesOf 4)

/-- Word `i` of the header of an entry, and sharer word `i` (R56). -/
def dirWord (bs : List Byte) (i : Nat) : Word := BitVec.ofNat 64 (ofBytes ((bs.drop (8 * i)).take 8))
def sharerWord (bs : List Byte) (i : Nat) : Word := BitVec.ofNat 64 (ofBytes ((bs.drop (64 + 4 * i)).take 4))

/-- The entry of a page in its 320 bytes: one that names the page (R56). -/
def dirRead (page : Nat) (bs : List Byte) : Option DirEntry :=
  let w := dirWord bs 0
  if (dirWord bs 3).toNat = page * 65536 then
    some ⟨page, bitsOf w 19 0, bitOf w 21, bitOf w 20, bitsOf w 39 36, (dirWord bs 1).toNat, (dirWord bs 2).toNat,
      (((List.range 64).map (sharerWord bs)).filter (fun v => bitOf v 31)).map (fun v => bitsOf v 19 0), none, none⟩
  else none

/-- The directory entry of a page at this HOME: as the E7 holds it, or as software has put it into memory (R56; log 71). -/
def dirOf (s : State) (page : Nat) : Option DirEntry :=
  match s.xl.dirs.get? page with
  | some d => some d
  | none => dirRead page (physGets s (dirKey page) 320)

/-- Replace a directory entry, here and in memory (R56). -/
def setDir (s : State) (d : DirEntry) : State :=
  physSets { s with xl := { s.xl with dirs := s.xl.dirs.set d.page d } } (dirKey d.page) (dirBytes d)

/-! ### Messages to other modules (R45, R460, R462) -/

/-- A node is reachable for the E7 and the engines: their link to it is up (R462; log 147). -/
def reachable (s : State) (node : Nat) : Bool := linkUp s 0 node

/-- The tile of the home port of an IA, the source of what it forwards: the first of its headland group (R462; log 135). -/
def portTile (ia : Nat) : Tid := nth 0 (portGroup (homePort ia)) 0

/-- The words of a forwarded access: operation, IA, number of the answer, class, starve flag, writer's tile, then length and
bytes or function (R33, R45, R51, R420). -/
def forwardWords (who : Who) (ia uid cls : Nat) (op : MOp) : List Nat :=
  let head (k : Nat) : List Nat := [k, ia, uid, cls, who.starve.toNat, if who.cls = 4 then 0 else tselOf who.tid]
  match op with
  | .read n => head 0 ++ [n]
  | .write bs => head 1 ++ [bs.length] ++ bs.map (fun b => match b with | some v => v.toNat | none => 256)
  | .rmw n red w _ => head (if red then 20 else 2) ++ [n] ++ w

/-- Keys of the agents whose accesses may be forwarded, by kind and number, so that no agent takes another's answer. -/
def agentKey (kind n : Nat) : Nat := 16 * n + kind

/-- The agent's writes leave its stream once they are accepted for forwarding, performed at pkg scope (R95): a core's, whose
answer its access waits for, and the E7's own, whose answer nobody takes. Every other agent goes on at the answer. -/
def Who.posts (who : Who) : Bool := who.force || who.cls == 0

/-- The access of an agent to an IA that has been forwarded and whose answer is due. -/
def findOut (s : State) (key ia : Nat) : Option FwdOut := s.xl.fwdOut.find? (fun f => f.key == key && f.ia == ia)

/-- The answer that has come under a number. -/
def findReply (s : State) (uid : Nat) : Option (Cause × List Byte) := (s.xl.replies.find? (fun r => r.1 == uid)).map (·.2)

/-- An answer is taken, or an access given up: its number is no longer waited for. -/
def dropOut (s : State) (uid : Nat) : State :=
  { s with xl := { s.xl with
    replies := s.xl.replies.filter (fun r => r.1 != uid), fwdOut := s.xl.fwdOut.filter (fun f => f.uid != uid) } }

/-- A starving read adds the cycles from its issue to its return to the page's count (R51, R88; log 68). -/
def pageStarve (s : State) (page cycles : Nat) : State :=
  match s.xl.tcache.get? page with
  | some x =>
    let y := { x with starve := min (x.starve + cycles) (2 ^ 32 - 1) }
    { s with xl := { s.xl with tcache := s.xl.tcache.set page y } }
  | none => s

/-- Send an access on to a node under a new number (R45). -/
def sendForward (s : State) (who : Who) (node ia cls : Nat) (op : MOp) : State :=
  let s := sendFrom s (portTile ia) node 0 (forwardWords who ia s.xl.fwdNext cls op)
  { s with xl := { s.xl with
    fwdNext := s.xl.fwdNext + 1
    fwdOut := if op.isWrite && who.force then s.xl.fwdOut
      else s.xl.fwdOut ++ [⟨s.xl.fwdNext, who.key, ia, node, op.isRead, linkFor s (portTile ia) node⟩] } }

/-- Count a line returned for a read of a page (R51). -/
def pageDeliver (s : State) (page : Nat) : State :=
  match s.xl.tcache.get? page with
  | some e => { s with xl := { s.xl with tcache := s.xl.tcache.set page { e with deliv := min (e.deliv + 1) (2 ^ 32 - 1) } } }
  | none => s

/-- Forward an access to the node that owns the page: a posted write is then performed at pkg scope, any other access waits for
its answer; UNREACH where no link leads there (R45, R51, R95, R462). -/
def forwardAccess (s : State) (who : Who) (node ia cls : Nat) (op : MOp) : Res (List Byte) × State :=
  if op.isWrite && who.posts then
    (if linkUp s (portTile ia) node then (.ok [], sendForward s who node ia cls op) else (.fault Cause.unreach, s))
  else match findOut s who.key ia with
    | none => if linkUp s (portTile ia) node then (.wait, sendForward s who node ia cls op) else (.fault Cause.unreach, s)
    | some o =>
      match findReply s o.uid with
      | none => (.wait, s)
      | some a =>
        let s := dropOut s o.uid
        if a.1 = 0 then (.ok a.2, if op.isRead then pageDeliver s (ia / 65536) else s) else (.fault a.1, s)

/-! ### The home port (R36, R44, R47, R51, R54, R106, R470) -/

/-- Number under which HOME answers a registration that it has not recorded (R57). -/
def registerKey (page : Nat) : Nat := 2 ^ 63 + page

/-- Register a node as a sharer of a page with a directory: at HOME, below 64 sharers (R57). -/
def recordSharer (s : State) (d : DirEntry) (node : Nat) : State :=
  if d.sharers.length < 64 ∧ !d.sharers.contains node then setDir s { d with sharers := d.sharers ++ [node] } else s

/-- Register this node as a sharer of a remote page with a directory (R57). -/
def registerSharer (s : State) (page home node : Nat) : State :=
  if home = s.boot.node then
    match dirOf s page with
    | none => s
    | some d => recordSharer s d node
  else sendNode s home 0 [3, page, node]

/-- Where the accesses to a remote page go (R45, R57): to the leaf's NODE; through HOME where this node's registration has not
been recorded, and at HOME itself then to the owner that the directory names. -/
def ownerNode (s : State) (e : TEntry) : Nat :=
  if !leafDir e.w0 then leafNode e.w1
  else if leafHome e.w1 = s.boot.node then
    match dirOf s e.page with
    | some d => if d.sharers.contains s.boot.node then leafNode e.w1 else d.owner
    | none => leafNode e.w1
  else if (findReply s (registerKey e.page)).isSome then leafHome e.w1
  else leafNode e.w1

/-- The cached translation of a page, walked for where it is not cached (R40); CLS3 follows the request's class (R52). -/
def lookupPage (s : State) (ia cls : Nat) : Except Cause TEntry × State :=
  let page := ia / 65536
  let mark (s : State) (e : TEntry) : Except Cause TEntry × State :=
    let e := { e with cls3 := e.cls3 || cls == 3 }
    (.ok e, { s with xl := { s.xl with tcache := s.xl.tcache.set page e } })
  match s.xl.tcache.get? page with
  | some e => mark s e
  | none =>
    match walk s ia with
    | .error c => (.error c, s)
    | .ok l =>
      let s := cacheInsert s page l
      let s := if leafTier l.1 = 2 ∧ leafDir l.1 = true then registerSharer s page (leafHome l.2.1) s.boot.node else s
      match s.xl.tcache.get? page with
      | some e => mark s e
      | none => (.error Cause.ptebad, s)

/-- Storage key of a device IA through its leaf (R39, R43). -/
def deviceKey (e : TEntry) (ia : Nat) : Nat :=
  let off := match e.level with
    | 3 => ia % 65536
    | 2 => ia % 2 ^ 21
    | _ => ia % 2 ^ 30
  localKey (leafTier e.w0) (leafFrame e.w0 * 65536 + off)

/-- The move in progress of a page, if any (R54). -/
def moveOf (s : State) (page : Nat) : Option Move := s.xl.moves.find? (fun m => m.page == page)

/-- A move that has copied every line holds the accesses to its page (R54, step 3). -/
def moveHolds (s : State) (page : Nat) : Bool :=
  match moveOf s page with
  | some m => m.copied == 512
  | none => false

/-- Write a line entry back (R106, R470): the line is good where it was, or where writes covered all of it and no reduction
was merged. -/
def writeBackLine (s : State) (line : Nat) (e : LineEntry) : State :=
  let bad := e.bad && (e.reduced || e.written != BitVec.allOnes 128)
  { s with st := { s.st with
    mem := cellsSet s.st.mem (line * 128) e.bytes
    lineBad := if bad then (if s.st.lineBad.contains line then s.st.lineBad else s.st.lineBad ++ [line])
      else s.st.lineBad.filter (· != line)
    lineKey := s.st.lineKey.set line e.tag
    lineQ := s.st.lineQ.erase line } }

/-- Line entries of a home port. -/
def portEntries (s : State) (port : Nat) : SMap LineEntry := s.st.lineQ.filter (fun e => e.2.page % 64 == port)

/-- Room for `n` more line entries at a page's home port (R36, R106). -/
def linesFree (s : State) (page n : Nat) : Bool := (portEntries s (page % 64)).length + n ≤ 256

/-- An own write of the E7 that finds every entry taken waits for one to be written back; the wait is inside its event (R106;
log 11). -/
def makeRoom (s : State) (page : Nat) : State :=
  if linesFree s page 1 then s
  else match portEntries s (page % 64) with
    | e :: _ => writeBackLine s e.1 e.2
    | [] => s

/-- The bytes of a line as an access under a key finds them in the array or in its entry: free values where the line was
written under another key (R44). -/
def lineValue (s : State) (line tag : Nat) : List Byte × State :=
  match s.st.lineQ.get? line with
  | some e => (e.bytes, s)
  | none =>
    if s.st.lineKey.getD line tag = tag then (cellsGet s.st.mem (line * 128) 128, s)
    else ((List.range 128).map (fun i => Sys2Proof.Config.freeByte (s.free + i)), { s with free := s.free + 128 })

/-- The line entry of a line, made from the array where there is none: 256 to a home port (R36, R106). -/
def lineEntry (s : State) (force : Bool) (line page tag : Nat) : Option (LineEntry × State) :=
  match s.st.lineQ.get? line with
  | some e => some (e, s)
  | none =>
    if !force && !linesFree s page 1 then none
    else
      let s := makeRoom s page
      let v := lineValue s line tag
      some (⟨v.1, s.st.lineBad.contains line, false, 0, page, tag⟩, v.2)

/-- Put bytes into a line at an offset; masked bytes stay. -/
def putBytes (l : List Byte) (off : Nat) : List (Option Byte) → List Byte
  | [] => l
  | none :: bs => putBytes l (off + 1) bs
  | some b :: bs => putBytes (setNth l off b) (off + 1) bs

/-- Mark the bytes written. -/
def markBytes (m : BitVec 128) (off : Nat) : List (Option Byte) → BitVec 128
  | [] => m
  | none :: bs => markBytes m (off + 1) bs
  | some _ :: bs => markBytes (m ||| BitVec.ofNat 128 (2 ^ off)) (off + 1) bs

/-- Advance the generation of a device page (R46, R47). -/
def pageAdvance (s : State) (page : Nat) : State :=
  match s.xl.tcache.get? page with
  | some e => { s with xl := { s.xl with tcache := s.xl.tcache.set page { e with gen := genNext e.gen } } }
  | none => s

/-- A write during step 2 of a move is applied to the new frame too, or sent to the node that pulls the page, where its line
is copied already (R54, R58). -/
def mirrorMove (s : State) (ia : Nat) (bs : List (Option Byte)) : State :=
  match moveOf s (ia / 65536) with
  | none => s
  | some m =>
    if m.copied ≤ ia % 65536 / 128 then s
    else match m.toNode with
      | none =>
        let k := localKey m.newTier (m.newFrame * 65536 + ia % 65536)
        physSets s k (putBytes (physGets s k bs.length) 0 bs)
      | some n =>
        sendNode s n 0 ([12, m.page, ia % 65536 / 128] ++
          (physGets s (localKey m.oldTier (m.oldFrame * 65536 + ia % 65536 / 128 * 128)) 128).map (·.toNat))

/-- The write, atomic or reduction of bytes of one line accepted into its line entry; the bytes as they were (R47, R106, R107,
R470). -/
def lineWrite (s : State) (force : Bool) (ia k tag : Nat) (n : Nat) (red : Bool) (needOld : Bool)
    (f : List Byte → List (Option Byte)) : Res (List Byte) × State :=
  match lineEntry s force (k / 128) (ia / 65536) tag with
  | none => (.wait, s)
  | some (e, s) =>
    let old := (e.bytes.drop (k % 128)).take n
    if needOld && e.bad then (.fault Cause.memue, s)
    else
      let bs := f old
      let e := { e with bytes := putBytes e.bytes (k % 128) bs, reduced := e.reduced || red,
                        written := if red then e.written else markBytes e.written (k % 128) bs }
      let s := { s with st := { s.st with lineQ := s.st.lineQ.set (k / 128) e } }
      (.ok old, mirrorMove (pageAdvance (notePast s ia old bs) (ia / 65536)) ia bs)

/-- An access to bytes of one line of device IA at its home port. -/
def deviceAccess (s : State) (who : Who) (ia cls : Nat) (op : MOp) : Res (List Byte) × State :=
  match lookupPage s ia cls with
  | (.error c, s) => (.fault c, s)
  | (.ok e, s) =>
    match s.boot.keys.get? (leafKeyid e.w1) with
    | none => (.fault Cause.ptebad, s)
    | some tag =>
      if leafTier e.w0 = 2 then
        (match op with
         | .write bs => if bs.all Option.isNone then (.ok [], s) else forwardAccess s who (ownerNode s e) ia cls op
         | _ => forwardAccess s who (ownerNode s e) ia cls op)
      else if moveHolds s (ia / 65536) && !who.force then (.wait, s)
      else
        let k := deviceKey e ia
        let s := if op.isRead then s else ckptTouch s k
        match op with
        | .read n =>
          if lineIsBad s (k / 128) then (.fault Cause.memue, s)
          else
            let v := lineValue s (k / 128) tag
            (.ok ((v.1.drop (k % 128)).take n), pageDeliver v.2 (ia / 65536))
        | .write bs =>
          if bs.all Option.isNone then (.ok [], s)
          else match lineWrite s who.force ia k tag bs.length false false (fun _ => bs) with
            | (.ok _, s) => (.ok [], s)
            | (x, s) => (x, s)
        | .rmw n red _ f => lineWrite s who.force ia k tag n red (!red) (fun old => allSome (f old))

/-- An access to bytes of one line of IA (R34), its bytes as they are. -/
def iaPresent (s : State) (who : Who) (ia cls : Nat) (op : MOp) : Res (List Byte) × State :=
  if shadowHeld s who ia op.len && !op.isRead then (.wait, s)
  else if inWindow ia then
    (if windowOk s ia then windowAccess s who (windowTid ia) (ia % 2 ^ 20) op else (.fault Cause.window, s))
  else deviceAccess s who ia cls op

/-- A window IA in a FIFO region (R75). -/
def atFifo (s : State) (ia : Nat) : Bool :=
  inWindow ia && (match regionAt s (windowTid ia) (ia % 2 ^ 20) with
    | some r => regMode (region s (windowTid ia) r) == 2
    | none => false)

/-- An access to bytes of one line of IA (R34); an invariant load's bytes are any they have held since
its launch began (R108). -/
def iaAccess (s : State) (who : Who) (ia cls : Nat) (op : MOp) : Res (List Byte) × State :=
  match who.inv, op, iaPresent s who ia cls op with
  | some n, .read _, (.ok bs, s) =>
    if atFifo s ia then (.ok bs, s) else (.ok (invBytes s n ia bs).1, (invBytes s n ia bs).2)
  | _, _, x => x

/-- The operation's kind for the permission check. -/
def MOp.kind : MOp → AKind
  | .read _ => .read
  | .write _ => .write
  | .rmw _ red _ _ => if red then .write else .atomic

/-- Translate and perform an access of one line, without watchpoints. -/
def vaAccessRaw (s : State) (who : Who) (va : Word) (op : MOp) : Res (List Byte) × State :=
  match translate s who va op.kind with
  | .error c => (.fault c, s)
  | .ok r => iaAccess (bindRead s who va) who r.1 r.2 op

/-! ### Accesses of several lines -/

/-- Cut n bytes from a VA at 64-byte blocks, the finest grain of translation: pieces of address and length (R29, R109). -/
def cutBlocks : Nat → Word → Nat → List (Word × Nat)
  | 0, _, _ => []
  | fuel + 1, va, n =>
    if n = 0 then []
    else
      let k := min n (64 - va.toNat % 64)
      (va, k) :: cutBlocks fuel (va + BitVec.ofNat 64 k) (n - k)

/-- The pieces of n bytes from a VA. -/
def blocksOf (va : Word) (n : Nat) : List (Word × Nat) := cutBlocks (n + 1) va n

/-- One access of a longer one: its VA, IA, bytes and class. -/
structure Part where
  va : Word
  ia : Nat
  len : Nat
  cls : Nat
  deriving DecidableEq, Repr

/-- Two neighbouring pieces are one access: they lie side by side in one line of IA, in a tile under one region and none of
them in a FIFO (R45, R72, R96). -/
def sideBySide (s : State) (p q : Part) : Bool :=
  q.ia == p.ia + p.len && p.ia / 128 == q.ia / 128 && p.cls == q.cls
    && (!inWindow p.ia || (!atFifo s p.ia && !atFifo s q.ia
      && regionAt s (windowTid p.ia) (p.ia % 2 ^ 20) == regionAt s (windowTid q.ia) (q.ia % 2 ^ 20)))

/-- Put a piece before the accesses that follow it. -/
def addPart (s : State) (p : Part) : List Part → List Part
  | [] => [p]
  | q :: l => if sideBySide s p q then { p with len := p.len + q.len } :: l else p :: q :: l

/-- Translate pieces in order into accesses of one line each, up to the first that meets a cause, with its VA (R28, R29). -/
def vaParts (s : State) (who : Who) (k : AKind) : List (Word × Nat) → List Part × Option (Cause × Word)
  | [] => ([], none)
  | (va, n) :: ps =>
    match translate s who va k with
    | .error c => ([], some (c, va))
    | .ok r =>
      match vaParts s who k ps with
      | (l, e) => (addPart s ⟨va, r.1, n, r.2⟩ l, e)

/-- Take the bindings of the pieces of an access (R110). -/
def bindAll (s : State) (who : Who) (ps : List (Word × Nat)) : State := ps.foldl (fun s p => bindRead s who p.1) s

/-- Ask another module for a part of a read, where that has not been done: whether its answer is here (R45). -/
def askPart (s : State) (who : Who) (p : Part) : Bool × State :=
  if inWindow p.ia then (true, s)
  else match lookupPage s p.ia p.cls with
    | (.error _, s) => (true, s)
    | (.ok e, s) =>
      if leafTier e.w0 ≠ 2 ∨ s.boot.keys.get? (leafKeyid e.w1) = none then (true, s)
      else match findOut s who.key p.ia with
        | some o => ((findReply s o.uid).isSome, s)
        | none => if linkUp s (portTile p.ia) (ownerNode s e) then (false, sendForward s who (ownerNode s e) p.ia p.cls (.read p.len))
          else (true, s)

/-- Ask for every part of a read: whether all answers are here. -/
def askParts (s : State) (who : Who) : List Part → Bool × State
  | [] => (true, s)
  | p :: ps =>
    match askPart s who p with
    | (here, s) =>
      match askParts s who ps with
      | (rest, s) => (here && rest, s)

/-- Read parts in order; a cause with the VA of its part. -/
def readEach (s : State) (who : Who) : List Part → Res (List Byte) × Word × State
  | [] => (.ok [], 0, s)
  | p :: ps =>
    match iaAccess s who p.ia p.cls (.read p.len) with
    | (.ok bs, s) =>
      match readEach s who ps with
      | (.ok rest, v, s) => (.ok (bs ++ rest), v, s)
      | x => x
    | (x, s) => (x, p.va, s)

/-- An agent gives up what it has asked other modules for at some IAs. -/
def dropAsks (s : State) (key : Nat) (ps : List Part) : State :=
  (s.xl.fwdOut.filter (fun o => o.key == key && ps.any (fun p => p.ia == o.ia))).foldl (fun s o => dropOut s o.uid) s

/-- Read parts once every answer from another module is here; a read that has to wait takes nothing, and one that faults leaves no
answer behind. -/
def readParts (s : State) (who : Who) (ps : List Part) : Res (List Byte) × Word × State :=
  match askParts s who ps with
  | (false, s) => (.wait, 0, s)
  | (true, s) =>
    match readEach s who ps with
    | (.wait, v, _) => (.wait, v, s)
    | (.fault c, v, s) => (.fault c, v, dropAsks s who.key ps)
    | r => r

/-- Read n bytes at a VA; a cause with the VA that met it. -/
def readAt (s : State) (who : Who) (va : Word) (n : Nat) : Res (List Byte) × Word × State :=
  let ps := blocksOf va n
  match vaParts s who .read ps with
  | (l, e) =>
    match readParts (bindAll s who ps) who l, e with
    | (.ok _, _, s), some e => (.fault e.1, e.2, s)
    | r, _ => r

/-- Note where a read has met a cause (R409). -/
def noteFault (s : State) (va : Word) : State := { s with xl := { s.xl with faultVA := va } }

/-- Read n bytes at a VA; where it meets a cause, the VA that met it is noted. -/
def readVA (s : State) (who : Who) (va : Word) (n : Nat) : Res (List Byte) × State :=
  match readAt s who va n with
  | (.fault c, v, s) => (.fault c, noteFault s v)
  | (x, _, s) => (x, s)

/-- Write parts in order, collecting what has been written, by IA. -/
def writeEach (s : State) (who : Who) (bs : List (Option Byte)) :
    List Part → Res (List Byte) × List (Nat × List (Option Byte)) × State
  | [] => (.ok [], [], s)
  | p :: ps =>
    match iaAccess s who p.ia p.cls (.write (bs.take p.len)) with
    | (.ok _, s) =>
      match writeEach s who (bs.drop p.len) ps with
      | (x, l, s) => (x, (p.ia, bs.take p.len) :: l, s)
    | (x, s) => (x, [], s)

/-- Write bytes at a VA, masked bytes left, with what has been written. -/
def writeAt (s : State) (who : Who) (va : Word) (bs : List (Option Byte)) :
    Res (List Byte) × List (Nat × List (Option Byte)) × State :=
  let ps := blocksOf va bs.length
  match vaParts s who .write ps with
  | (l, e) =>
    match writeEach (bindAll s who ps) who bs l, e with
    | (.ok _, w, s), some e => (.fault e.1, w, s)
    | r, _ => r

/-- Write bytes at a VA, without watchpoints: the E7's own event and retry-ring records (R420). -/
def writeVARaw (s : State) (who : Who) (va : Word) (bs : List Byte) : Res (List Byte) × State :=
  match writeAt s who va (allSome bs) with
  | (x, _, s) => (x, s)

/-- The E7 acting for a context itself. -/
def Who.self (ctx : Nat) (cls : Nat) (t : Tid) : Who := ⟨ctx, cls, t, agentKey 11 ctx, none, false, none, false, true, none, none, false⟩

/-- The write generation of a page as a read through a range of a class returns it: all ones for a remote page (R47, R50, R52). -/
def readGen (s : State) (ia cls : Nat) : Res (BitVec 32) × State :=
  if inWindow ia then
    (if windowOk s ia then (.ok (s.tl.windowGen.getD (windowTid ia * 16 + ia % 2 ^ 20 / 65536) 0), s)
     else (.fault Cause.window, s))
  else match lookupPage s ia cls with
    | (.error c, s) => (.fault c, s)
    | (.ok e, s) => (.ok (if leafTier e.w0 = 2 then BitVec.allOnes 32 else e.gen), s)

end Sys2Proof.Machine
end

