-- ==== Sys2Proof/Machine/Numbers.lean ====
section
/-! DEFINITION. Number formats and arithmetic (06): decoding and encoding of the floating-point formats, the one rounding
step of R167, exact arithmetic on decoded values, conversions, special functions. Events are returned as a list of
class numbers (R190). -/
namespace Sys2Proof.Machine

/-- A floating-point format (R162, R164): width, signedness, precision with the implicit bit, exponent bits, bias,
infinities, and whether it is of the binary8 family. -/
structure Fmt where
  width : Nat
  isSigned : Bool
  prec : Nat
  ebits : Nat
  bias : Int
  hasInf : Bool
  b8 : Bool
  deriving DecidableEq, Repr

def fmt16 : Fmt := ⟨16, true, 11, 5, 15, true, false⟩
def fmtBf16 : Fmt := ⟨16, true, 8, 8, 127, true, false⟩
def fmt32 : Fmt := ⟨32, true, 24, 8, 127, true, false⟩

/-- The binary8 variant of a format code 0x10 to 0x2D (R164). -/
def fmtB8 (code : Nat) : Fmt :=
  if code < 0x1E then
    let k := (code - 0x10) / 2 + 1
    ⟨8, true, k, 8 - k, (2 : Int) ^ (8 - k - 1), (code - 0x10) % 2 == 1, true⟩
  else
    let k := (code - 0x1E) / 2 + 1
    ⟨8, false, k, 9 - k, (2 : Int) ^ (9 - k - 1), (code - 0x1E) % 2 == 1, true⟩

/-- The float format of a code of R177, if it is one. -/
def fmtOfCode (c : Nat) : Option Fmt :=
  if c = 0x40 then some fmt16 else if c = 0x41 then some fmtBf16 else if c = 0x42 then some fmt32
  else if 0x10 ≤ c ∧ c ≤ 0x2D then some (fmtB8 c) else none

/-- Width and signedness of an integer format code 0x50 to 0x57 (R177). -/
def intOfCode (c : Nat) : Option (Nat × Bool) :=
  if 0x50 ≤ c ∧ c ≤ 0x57 then some (8 * 2 ^ ((c - 0x50) / 2), (c - 0x50) % 2 == 0) else none

/-- Trailing significand width. -/
def Fmt.t (f : Fmt) : Nat := f.prec - 1

/-- Exponent of the smallest normal. -/
def Fmt.emin (f : Fmt) : Int := 1 - f.bias

/-- Decode the bits of a format (R162, R163, R165, R166). -/
def Fmt.decode (f : Fmt) (c : Nat) : Val :=
  let t := f.t
  let frac := c % 2 ^ t
  let ex := (c / 2 ^ t) % 2 ^ f.ebits
  let neg := f.isSigned && (c / 2 ^ (f.width - 1)) % 2 == 1
  let finite : Val :=
    if ex = 0 then .fin neg frac (f.emin - t)
    else .fin neg (2 ^ t + frac) (Int.ofNat ex - f.bias - t)
  if f.b8 then
    if f.isSigned then
      if c = 0x80 then .nan false
      else if f.hasInf && c = 0x7F then .inf false
      else if f.hasInf && c = 0xFF then .inf true
      else finite
    else
      if c = 0xFF then .nan false
      else if f.hasInf && c = 0xFE then .inf false
      else finite
  else if ex = 2 ^ f.ebits - 1 then
    if frac = 0 then .inf neg else .nan (frac / 2 ^ (t - 1) == 0)
  else finite

/-- The largest finite magnitude as (m, e) (R165, R166, IEEE 754). -/
def Fmt.maxFin (f : Fmt) : Nat × Int :=
  if f.b8 then
    match f.decode (if f.isSigned then (if f.hasInf then 0x7E else 0x7F) else (if f.hasInf then 0xFD else 0xFE)) with
    | .fin _ m e => (m, e)
    | _ => (0, 0)
  else (2 ^ f.prec - 1, (2 : Int) ^ f.ebits - 2 - f.bias - f.t)

/-- m·2^e compared with m'·2^e', magnitudes only. -/
def cmpMag (m : Nat) (e : Int) (m' : Nat) (e' : Int) : Ordering :=
  let lo := min e e'
  compare (m * 2 ^ (e - lo).toNat) (m' * 2 ^ (e' - lo).toNat)

/-- ⌊log2⌋ of a nonzero magnitude. -/
def magExp (m : Nat) (e : Int) : Int := Int.ofNat (Nat.log2 m) + e

/-- The bits of a value that the format represents (R162 to R166). -/
def Fmt.encode (f : Fmt) (v : Val) : Nat :=
  let signBit := 2 ^ (f.width - 1)
  match v with
  | .nan _ =>
    if f.b8 then (if f.isSigned then 0x80 else 0xFF)
    else (2 ^ f.ebits - 1) * 2 ^ f.t + 2 ^ (f.t - 1)
  | .inf neg =>
    if f.b8 then (if f.isSigned then (if neg then 0xFF else 0x7F) else 0xFE)
    else (2 ^ f.ebits - 1) * 2 ^ f.t + (if neg then signBit else 0)
  | .fin neg m e =>
    let s := if neg && f.isSigned && !(f.b8 && m == 0) then signBit else 0
    if m = 0 then s
    else
      let x := magExp m e
      if x < f.emin then
        s + (m * 2 ^ (e - (f.emin - f.t)).toNat) / 2 ^ ((f.emin - f.t) - e).toNat
      else
        let q := x - f.t
        let k := (m * 2 ^ (e - q).toNat) / 2 ^ (q - e).toNat
        s + (x + f.bias).toNat * 2 ^ f.t + (k - 2 ^ f.t)

/-- One draw of a slot's generator (R169): the new state and the 16 bits drawn. -/
def drawRng (g : BitVec 32) : BitVec 32 × Nat :=
  let g1 := g ^^^ (g <<< 13)
  let g2 := g1 ^^^ (g1 >>> 17)
  let g3 := g2 ^^^ (g2 <<< 5)
  (g3, g3.toNat / 2 ^ 16)

/-- A value, the event classes it raised, and the generator's new state. -/
structure Rounded where
  val : Val
  events : List Nat
  rng : BitVec 32
  deriving DecidableEq, Repr

/-- Round m·2^e to a multiple of 2^q: the integer k, given how the discarded part is judged (R168, R169). Of a tie between two powers
of two of a format without fraction bits (K = 1), where neither significand is even, the greater is taken, as k judges evenness
(log 133). -/
def roundInt (m : Nat) (e q : Int) (neg : Bool) (rm : RMode) (draw : Nat) : Nat :=
  if q ≤ e then m * 2 ^ (e - q).toNat
  else
    let s := (q - e).toNat
    let k := m / 2 ^ s
    let rest := m % 2 ^ s
    match rm with
    | .rn => if 2 * rest > 2 ^ s ∨ (2 * rest = 2 ^ s ∧ k % 2 = 1) then k + 1 else k
    | .rz => k
    | .ru => if rest ≠ 0 ∧ !neg then k + 1 else k
    | .rd => if rest ≠ 0 ∧ neg then k + 1 else k
    | .rs => if rest * 2 ^ 16 / 2 ^ s + draw ≥ 2 ^ 16 then k + 1 else k

/-- round_to_format(v, fmt, rm, sat) of R167, with the draw of R169 under mode 4. -/
def roundTo (v : Val) (f : Fmt) (rm : RMode) (sat : Bool) (g : BitVec 32) : Rounded :=
  let sat := sat && f.b8
  match v with
  | .nan _ => ⟨.nan false, [], g⟩
  | .inf neg =>
    if f.hasInf && !(neg && !f.isSigned) then ⟨.inf neg, [], g⟩
    else if sat then
      ⟨if neg && !f.isSigned then .fin false 0 0 else .fin neg f.maxFin.1 f.maxFin.2, [4], g⟩
    else ⟨.nan false, [2], g⟩
  | .fin neg m e =>
    if neg && !f.isSigned then
      if m = 0 then ⟨.fin false 0 0, [], g⟩
      else if sat then ⟨.fin false 0 0, [4], g⟩
      else ⟨.nan false, [0], g⟩
    else
      let (g', d) := if rm = .rs then drawRng g else (g, 0)
      if m = 0 then ⟨.fin (neg && !f.b8) 0 0, [], g'⟩
      else
        let q := max (magExp m e - f.t) (f.emin - f.t)
        let k := roundInt m e q neg rm d
        let exact := cmpMag k q m e == .eq
        let tiny := cmpMag m e 1 f.emin == .lt
        let evs := if !exact && tiny then [3] else []
        let (mm, me) := f.maxFin
        if cmpMag k q mm me == .gt then
          if sat then ⟨.fin neg mm me, evs ++ [4], g'⟩
          else if rm = .rz ∨ (rm = .ru ∧ neg) ∨ (rm = .rd ∧ !neg) then ⟨.fin neg mm me, evs, g'⟩
          else if f.hasInf then ⟨.inf neg, evs ++ [2], g'⟩
          else ⟨.nan false, evs ++ [2], g'⟩
        else if k = 0 then ⟨.fin (neg && !f.b8) 0 0, evs, g'⟩
        else ⟨.fin neg k q, evs, g'⟩

/-- Rounding to nearest, ties to even, without saturation: value and events. -/
def roundNear (f : Fmt) (v : Val) : Val × List Nat :=
  let r := roundTo v f .rn false 0
  (r.val, r.events)

/-- The invalid events of signalling operands (R163): one for each. -/
def sigEvents : List Val → List Nat
  | [] => []
  | .nan true :: l => 0 :: sigEvents l
  | _ :: l => sigEvents l

/-- Whether a value is a NaN. -/
def Val.isNan : Val → Bool
  | .nan _ => true
  | _ => false

/-- Whether a value is ±0. -/
def Val.isZero : Val → Bool
  | .fin _ 0 _ => true
  | _ => false

/-- The sign of a value. -/
def Val.neg : Val → Bool
  | .nan _ => false
  | .inf n => n
  | .fin n _ _ => n

/-- The value with its sign turned. A NaN stays. -/
def Val.negate : Val → Val
  | .nan s => .nan s
  | .inf n => .inf !n
  | .fin n m e => .fin (!n) m e

/-- The magnitude. -/
def Val.abs : Val → Val
  | .nan s => .nan s
  | .inf _ => .inf false
  | .fin _ m e => .fin false m e

/-- A finite value as a signed integer times 2^lo, for lo at most its exponent. -/
def scaledInt (n : Bool) (m : Nat) (e lo : Int) : Int :=
  let x : Int := Int.ofNat (m * 2 ^ (e - lo).toNat)
  if n then -x else x

/-- A signed integer times 2^e as a value; zero is +0. -/
def ofScaled (x : Int) (e : Int) : Val := .fin (decide (x < 0)) x.natAbs e

/-- Exact sum (R163): ∞ − ∞ is invalid, an exact zero sum is +0 unless both addends are −0. -/
def addV (a b : Val) : Val × List Nat :=
  match a, b with
  | .nan _, _ => (.nan false, sigEvents [a, b])
  | _, .nan _ => (.nan false, sigEvents [a, b])
  | .inf x, .inf y => if x = y then (.inf x, []) else (.nan false, [0])
  | .inf x, _ => (.inf x, [])
  | _, .inf y => (.inf y, [])
  | .fin x m e, .fin y m' e' =>
    let lo := min e e'
    let s := scaledInt x m e lo + scaledInt y m' e' lo
    if s = 0 then (.fin (x && y && m == 0 && m' == 0) 0 0, []) else (ofScaled s lo, [])

/-- Exact product (R163): 0·∞ is invalid. -/
def mulV (a b : Val) : Val × List Nat :=
  match a, b with
  | .nan _, _ => (.nan false, sigEvents [a, b])
  | _, .nan _ => (.nan false, sigEvents [a, b])
  | .inf x, .inf y => (.inf (x != y), [])
  | .inf x, .fin y m _ => if m = 0 then (.nan false, [0]) else (.inf (x != y), [])
  | .fin x m _, .inf y => if m = 0 then (.nan false, [0]) else (.inf (x != y), [])
  | .fin x m e, .fin y m' e' => (.fin (x != y) (m * m') (e + e'), [])

/-- Exact scaling by a power of two (R174). -/
def scaleV (v : Val) (k : Int) : Val :=
  match v with
  | .fin n m e => .fin n m (if m = 0 then e else e + k)
  | x => x

/-- Order of two numbers, −0 below +0 (R271). NaN does not reach it. -/
def ltTotal (a b : Val) : Bool :=
  match a, b with
  | .inf x, .inf y => x && !y
  | .inf x, _ => x
  | _, .inf y => !y
  | .fin x m e, .fin y m' e' =>
    if m = 0 ∧ m' = 0 then x && !y
    else
      let lo := min e e'
      decide (scaledInt x m e lo < scaledInt y m' e' lo)
  | _, _ => false

/-- Numeric comparison, −0 equal to +0, for numbers (R324, R336). -/
def cmpV (a b : Val) : Ordering :=
  match a, b with
  | .inf x, .inf y => if x = y then .eq else if x then .lt else .gt
  | .inf x, _ => if x then .lt else .gt
  | _, .inf y => if y then .gt else .lt
  | .fin x m e, .fin y m' e' =>
    let lo := min e e'
    compare (scaledInt x m e lo) (scaledInt y m' e' lo)
  | _, _ => .eq

/-- fmax and fmin of R271. -/
def fmaxV (isMax : Bool) (a b : Val) : Val × List Nat :=
  let ev := sigEvents [a, b]
  if a.isNan && b.isNan then (.nan false, ev)
  else if a.isNan then (b, ev)
  else if b.isNan then (a, ev)
  else (if isMax then (if ltTotal a b then b else a) else (if ltTotal b a then b else a), ev)

/-- The combination of LMAX and LMIN (R331): NaN if either is NaN. -/
def lmaxV (isMax : Bool) (a b : Val) : Val × List Nat :=
  let ev := sigEvents [a, b]
  if a.isNan || b.isNan then (.nan false, ev)
  else (if isMax then (if ltTotal a b then b else a) else (if ltTotal b a then b else a), ev)

/-- The exact value of an integer. -/
def valOfInt (x : Int) : Val := ofScaled x 0

/-- Least and greatest value of an integer type. -/
def intMin (w : Nat) (isSigned : Bool) : Int := if isSigned then -((2 : Int) ^ (w - 1)) else 0
def intMax (w : Nat) (isSigned : Bool) : Int := if isSigned then (2 : Int) ^ (w - 1) - 1 else (2 : Int) ^ w - 1

/-- Clamp to an integer type; a clamp counts saturation (R171). -/
def clampInt (x : Int) (w : Nat) (isSigned : Bool) : Int × List Nat :=
  if x < intMin w isSigned then (intMin w isSigned, [4])
  else if x > intMax w isSigned then (intMax w isSigned, [4])
  else (x, [])

/-- Float to integer (R171), with the draw of R169 under mode 4. -/
def toIntV (v : Val) (w : Nat) (isSigned : Bool) (rm : RMode) (g : BitVec 32) : Int × List Nat × BitVec 32 :=
  match v with
  | .nan _ => (0, [0], g)
  | .inf n => (if n then intMin w isSigned else intMax w isSigned, [4], g)
  | .fin n m e =>
    let (g', d) := if rm = .rs then drawRng g else (g, 0)
    let k := roundInt m e 0 n rm d
    let (x, ev) := clampInt (if n then -(Int.ofNat k) else Int.ofNat k) w isSigned
    (x, ev, g')

/-- The integer a w-bit pattern stands for. -/
def intOfBits (w : Nat) (isSigned : Bool) (b : Nat) : Int :=
  if isSigned && b ≥ 2 ^ (w - 1) then Int.ofNat b - (2 : Int) ^ w else Int.ofNat b

/-- The w-bit pattern of an integer, modulo 2^w. -/
def bitsOfInt (w : Nat) (x : Int) : Nat := (x % (2 : Int) ^ w).toNat

/-! ### Special functions -/

/-- Integer square root, bit by bit from bit `n` down. -/
def isqrtAux (v : Nat) : Nat → Nat → Nat
  | 0, acc => if (acc + 1) * (acc + 1) ≤ v then acc + 1 else acc
  | n + 1, acc =>
    let c := acc + 2 ^ (n + 1)
    isqrtAux v n (if c * c ≤ v then c else acc)

/-- ⌊√v⌋ for v below 2^256. -/
def isqrt (v : Nat) : Nat := isqrtAux v 127 0

/-- √(m·2^e) for m ≠ 0, as a magnitude exact enough to round: the last bit is sticky. -/
def sqrtMag (m : Nat) (e : Int) : Nat × Int :=
  let (m, e) := if e % 2 = 0 then (m, e) else (2 * m, e - 1)
  let s := isqrt (m * 2 ^ 128)
  (2 * s + (if s * s = m * 2 ^ 128 then 0 else 1), e / 2 - 64 - 1)

/-- FSQRT (R186): correctly rounded, to nearest. -/
def fsqrtV (x : Val) : Val × List Nat :=
  match x with
  | .nan s => (.nan false, if s then [0] else [])
  | .inf n => if n then (.nan false, [0]) else (.inf false, [])
  | .fin n m e =>
    if m = 0 then (x, [])
    else if n then (.nan false, [0])
    else let (r, k) := sqrtMag m e; (.fin false r k, [])

/-- A binary32 operand flushed as R187 says: value and the flushed-subnormal event. -/
def flush32 (x : Val) : Val × List Nat :=
  match x with
  | .fin n m e => if m ≠ 0 ∧ cmpMag m e 1 (-126) == .lt then (.fin n 0 0, [7]) else (x, [])
  | v => (v, [])

/-- 1/(m·2^e) as a magnitude with 80 bits and a sticky bit. -/
def rcpMag (m : Nat) (e : Int) : Nat × Int :=
  let k := Nat.log2 m + 80
  (2 * (2 ^ k / m) + (if 2 ^ k % m = 0 then 0 else 1), -e - k - 1)

/-- FRCP on binary32 (R186, R187): the free value where it lies within 2^-23 of 1/x, and otherwise the correctly rounded
one, which does. -/
def frcpV (x0 : Val) : Val × List Nat :=
  let (x, ev) := flush32 x0
  match x with
  | .nan s => (.nan false, if s then [0] else [])
  | .inf n => (.fin n 0 0, ev)
  | .fin n m e =>
    if m = 0 then (.inf n, ev ++ [1])
    else
      let (rm, re) := rcpMag m e
      let near := (roundNear fmt32 (.fin n rm re)).1
      let cand := fmt32.decode (Config.frcp (BitVec.ofNat 32 (fmt32.encode x))).toNat
      let ok : Bool := match cand with
        | .fin n' m' e' =>
          n' == n && m' ≠ 0 &&
            (let lo := min (e + e') (-23)
             let d := Int.ofNat (m * m' * 2 ^ (e + e' - lo).toNat) - Int.ofNat (2 ^ (-lo).toNat)
             decide (Int.ofNat d.natAbs ≤ Int.ofNat (2 ^ (-23 - lo).toNat)))
        | _ => false
      let y := if ok then cand else near
      let (y', ev') := flush32 y
      (y', ev ++ ev')

/-- 1/√(m·2^e) as a magnitude with about 64 bits. -/
def rsqMag (m : Nat) (e : Int) : Nat × Int :=
  let (m, e) := if e % 2 = 0 then (m, e) else (2 * m, e - 1)
  let k := 2 * ((Nat.log2 m + 131) / 2)
  (2 * isqrt (2 ^ k / m) + 1, -(e / 2) - k / 2 - 1)

/-- FRSQ on binary32 (R186, R187). -/
def frsqV (x0 : Val) : Val × List Nat :=
  let (x, ev) := flush32 x0
  match x with
  | .nan s => (.nan false, if s then [0] else [])
  | .inf n => if n then (.nan false, [0]) else (.fin false 0 0, ev)
  | .fin n m e =>
    if m = 0 then (.inf n, ev ++ [1])
    else if n then (.nan false, ev ++ [0])
    else
      let (rm, re) := rsqMag m e
      let near := (roundNear fmt32 (.fin false rm re)).1
      let cand := fmt32.decode (Config.frsq (BitVec.ofNat 32 (fmt32.encode x))).toNat
      let ok : Bool := match cand with
        | .fin n' m' e' =>
          !n' && m' ≠ 0 &&
            -- (2^22 − 1)² ≤ y²·x·2^44 ≤ (2^22 + 1)²
            (let p := m' * m' * m
             let pe := 2 * e' + e + 44
             cmpMag p pe ((2 ^ 22 - 1) * (2 ^ 22 - 1)) 0 != .lt && cmpMag p pe ((2 ^ 22 + 1) * (2 ^ 22 + 1)) 0 != .gt)
        | _ => false
      (if ok then cand else near, ev)

/-- Fixed-point scale of the reference evaluations: 2^-96. -/
def fxBits : Nat := 96

/-- ln 2 in units of 2^-96. -/
def ln2Fx : Nat := 54916777467707473351141471128

/-- Σ x^k/k! in units of 2^-96, from term `k` with current term `t`. -/
def expFx (x : Nat) : Nat → Nat → Nat → Nat → Nat
  | 0, _, _, acc => acc
  | n + 1, k, t, acc =>
    let t' := t * x / 2 ^ fxBits / k
    expFx x n (k + 1) t' (acc + t')

/-- 2^f for f in [0, 1) in units of 2^-96: the result in the same units. -/
def exp2Fx (f : Nat) : Nat := expFx (f * ln2Fx / 2 ^ fxBits) 40 1 (2 ^ fxBits) (2 ^ fxBits)

/-- FEXP2 on binary32 (R185): exact where the table says so, and elsewhere, if `free`, the free value where it keeps the table's
bound, judged against 2^x to about 90 bits, and otherwise the rounded reference. -/
def fexp2At (free : Bool) (x : Val) : Val × List Nat :=
  match x with
  | .nan s => (.nan false, if s then [0] else [])
  | .inf n => if n then (.fin false 0 0, []) else (.inf false, [])
  | .fin n m e =>
    if m = 0 ∨ cmpMag m e 1 (-24) == .lt then (.fin false 1 0, [])
    else if n && cmpMag m e 150 0 != .lt then (.fin false 0 0, [3])
    else if !n && cmpMag m e 128 0 != .lt then (.inf false, [2])
    else
      -- x in units of 2^-96; finite x here has exponent at least −47
      let fx := scaledInt n m e (-(Int.ofNat fxBits))
      let fl := fx.fdiv ((2 : Int) ^ fxBits)
      let fr := (fx.fmod ((2 : Int) ^ fxBits)).toNat
      if fr = 0 then (.fin false 1 fl, [])
      else
        let a := exp2Fx fr
        let ref : Val := .fin false a (fl - fxBits)
        let near := (roundNear fmt32 ref).1
        let cand := fmt32.decode (Config.fexp2 (BitVec.ofNat 32 (fmt32.encode x))).toNat
        if n && cmpMag m e 126 0 == .gt then
          -- one of the two subnormals or zero adjacent to 2^x
          let k := (a * 2 ^ (fl + 149).toNat) / 2 ^ (fxBits + (-(fl + 149)).toNat)
          let ok := free && (cand == .fin false k (-149) || cand == .fin false (k + 1) (-149))
          (if ok then cand else .fin false k (-149), [3])
        else
          let ok : Bool := match cand with
            | .fin false m' e' =>
              let lo := min e' (fl - fxBits) - 22
              let d := Int.ofNat (m' * 2 ^ (e' - lo).toNat) - Int.ofNat (a * 2 ^ (fl - fxBits - lo).toNat)
              decide (d.natAbs ≤ a * 2 ^ (fl - fxBits - lo).toNat / 2 ^ 22)
            | _ => false
          let y := if free && ok then cand else near
          (y, if y = .inf false then [2] else [])

/-- A property of every number below n. -/
def allBelow (p : Nat → Bool) : Nat → Bool
  | 0 => true
  | n + 1 => p n && allBelow p n

/-- The binary32 value at place i of all of them in rising order, NaNs at both ends. -/
def binary32At (i : Nat) : Val := fmt32.decode (if i < 2 ^ 31 then 2 ^ 32 - 1 - i else i - 2 ^ 31)

/-- No value of a function on binary32, whose results are positive, is below the one before it. -/
def risingAt (f : Val → Val) (i : Nat) : Bool :=
  match binary32At i, binary32At (i + 1) with
  | .nan _, _ | _, .nan _ => true
  | a, b => fmt32.encode (f a) ≤ fmt32.encode (f b)

/-- The free values of FEXP2 are monotonic over all of binary32, as R185 asks; if they are not, none of them is taken (log 7). -/
def fexp2Rises (_ : Unit) : Bool := allBelow (risingAt (fun x => (fexp2At true x).1)) (2 ^ 32 - 1)

/-- FEXP2 on binary32 (R185): monotonic, and within the table's bounds; all of the free values are asked only where this one is not the
reference. -/
def fexp2V (x : Val) : Val × List Nat :=
  if fexp2At true x = fexp2At false x then fexp2At false x else fexp2At (fexp2Rises ()) x

/-- Digits of log2 of a mantissa z in [1, 2), in units of 2^-96: squaring, most significant first. -/
def log2Fx : Nat → Nat → Nat → Nat
  | 0, _, acc => acc
  | n + 1, z, acc =>
    let z2 := z * z / 2 ^ fxBits
    if z2 ≥ 2 * 2 ^ fxBits then log2Fx n (z2 / 2) (2 * acc + 1) else log2Fx n z2 (2 * acc)

/-- FLOG2 on binary32 (R186, R187). -/
def flog2V (x0 : Val) : Val × List Nat :=
  let (x, ev) := flush32 x0
  match x with
  | .nan s => (.nan false, if s then [0] else [])
  | .inf n => if n then (.nan false, [0]) else (.inf false, [])
  | .fin n m e =>
    if m = 0 then (.inf true, ev ++ [1])
    else if n then (.nan false, ev ++ [0])
    else
      let k := magExp m e
      if m = 2 ^ Nat.log2 m then (valOfInt k, ev)
      else
        let z := m * 2 ^ fxBits / 2 ^ Nat.log2 m
        let r : Int := k * (2 : Int) ^ 64 + Int.ofNat (log2Fx 64 z 0)
        let ref : Val := ofScaled (2 * r + 1) (-65)
        let near := (roundNear fmt32 ref).1
        let cand := fmt32.decode (Config.flog2 (BitVec.ofNat 32 (fmt32.encode x))).toNat
        let ok : Bool := match cand with
          | .fin n' m' e' =>
            let lo := min e' (-64)
            let d := scaledInt n' m' e' lo - r * (2 : Int) ^ (-64 - lo).toNat
            let one : Nat := 2 ^ (-lo).toNat
            -- absolute for x in [0.5, 2], relative elsewhere
            if cmpMag m e 1 (-1) != .lt && cmpMag m e 2 0 != .gt then decide (d.natAbs ≤ one / 2 ^ 22)
            else decide (d.natAbs ≤ (r * (2 : Int) ^ (-64 - lo).toNat).natAbs / 2 ^ 22)
          | _ => false
        (if ok then cand else near, ev)

/-! ### Twiddle factors (R189) -/

/-- π/2 in units of 2^-192. -/
def halfPiFx : Nat := 9860048348863269281198066682114134445731725432595044866280

/-- Σ of the alternating series with step x²/((2k+i−1)(2k+i)), in units of 2^-192. -/
def trigFx (x2 : Nat) : Nat → Nat → Nat → Int → Bool → Int
  | 0, _, _, acc, _ => acc
  | n + 1, k, t, acc, plus =>
    let t' := t * x2 / 2 ^ 192 / (k * (k + 1))
    trigFx x2 n (k + 2) t' (if plus then acc + t' else acc - t') (!plus)

/-- cos and sin of an angle below π/2, in units of 2^-192. -/
def cosFx (x : Nat) : Int := trigFx (x * x / 2 ^ 192) 40 1 (2 ^ 192) (2 ^ 192) false
def sinFx (x : Nat) : Int := trigFx (x * x / 2 ^ 192) 40 2 x x false

/-- The correctly rounded binary32 components of exp(−2πi·k/n) (R189). -/
def twidEntry (n k : Nat) : Val × Val :=
  if n = 0 then (.fin false 1 0, .fin false 0 0)
  else
    let t := k % n
    let q := 4 * t / n
    let r := 4 * t % n
    let one : Val := .fin false 1 0
    let zero : Val := .fin false 0 0
    let rnd (x : Int) : Val := (roundNear fmt32 (ofScaled (2 * x + 1) (-193))).1
    let x := halfPiFx * r / n
    let (c, s) := if r = 0 then (one, zero) else (rnd (cosFx x), rnd (sinFx x))
    -- angle −(q·π/2 + x)
    if q = 0 then (c, s.negate) else if q = 1 then (s.negate, c.negate)
    else if q = 2 then (c.negate, s) else (s, c)

/-- Zero without a sign. -/
def posZero (v : Val) : Val := if v.isZero then .fin false 0 0 else v

/-- The twiddle w(k) for size n, conjugated when asked (R189, R369): value and events. -/
def twiddle (n : Nat) (conj : Bool) (k : Nat) : (Val × Val) × List Nat :=
  let mm := (n + 1023) / 1024
  let (p, q) := twidEntry n (k / mm * mm)
  let (u, v) := twidEntry n (k % mm)
  let (re, e1) := if k % mm = 0 then (posZero p, []) else
    roundNear fmt32 (addV (mulV p u).1 (mulV q v).1.negate).1
  let (im, e2) := if k % mm = 0 then (posZero q, []) else
    roundNear fmt32 (addV (mulV p v).1 (mulV q u).1).1
  ((re, if conj then im.negate else im), e1 ++ e2)

end Sys2Proof.Machine
end

