-- ==== Sys2Proof/Machine/Events.lean ====
section
/-! DEFINITION. Event records and handler tasks (R413, R414), watchpoints (R420), the drill
queues' enqueue (R388), and the writes that every agent makes with watchpoints observed. -/
namespace Sys2Proof.Machine

/-- The little-endian words of bytes. -/
def wordsOf : Nat → List Byte → List Word
  | 0, _ => []
  | n + 1, bs => BitVec.ofNat 64 (ofBytes (bs.take 8)) :: wordsOf n (bs.drop 8)

/-- The little-endian bytes of words. -/
def bytesOfWords : List Word → List Byte
  | [] => []
  | w :: ws => bytesOf 8 w.toNat ++ bytesOfWords ws

/-- Set bits of a number below `n` bits. -/
def popCount : Nat → Nat → Nat
  | 0, _ => 0
  | n + 1, v => v % 2 + popCount n (v / 2)

/-- Sign-extension of a 57-bit VA (R28). -/
def vaSext (v : Nat) : Word := sextN (BitVec.ofNat 64 v) 57

/-! ### Launches by number -/

/-- The live launch of a context with an identifier. -/
def findLaunch (s : State) (lid : Nat) : Option Launch := s.ln.live.find? (fun l => l.lid == lid)

/-- Update a live launch. -/
def updLaunch (s : State) (lid : Nat) (f : Launch → Launch) : State :=
  { s with ln := { s.ln with live := s.ln.live.map (fun l => if l.lid == lid then f l else l) } }

/-- The first cause that names a launch is its CAUSE (R404). -/
def noteCause (s : State) (lid : Nat) (c : Cause) : State :=
  if lid = 0 then s else updLaunch s lid (fun l => if l.cause = 0 then { l with cause := c } else l)

/-- Dies a launch's swath lies on, without repeats. -/
def swathDies (l : Launch) : List Nat := (l.quads.map dieOfQuad).eraseDups

/-! ### Drill queues -/

/-- Records held by a bank: of a quad (0 to 7), or of a die (8 to 11) (R388). -/
def bankLoad (s : State) (quad die bank : Nat) : Nat :=
  (s.tk.drill.filter (fun t => t.bank == bank && (if bank < 8 then t.quad == quad else t.die == die))).length

/-- Candidate banks of an enqueue, in the order they are tried (R388). -/
def bankOrder (named : Bool) (stamp : Nat) : List Nat :=
  (if named then (List.range 8).map (fun i => (stamp + i) % 8) else []) ++ (List.range 4).map (fun i => 8 + (stamp + i) % 4)

/-- Put a record into a drill bank: the bank of its stamp, else the next with space; the dies of a swath in turn; none where every
bank is full, and the enqueuing agent waits (R388, R200). -/
def enqueueRec (s : State) (t : TaskRec) : Option State :=
  let quads := match findLaunch s t.launch with
    | some l => l.quads
    | none => []
  let dies := (quads.map dieOfQuad).eraseDups
  let named := quads.contains t.quad
  let turn := ((findLaunch s t.launch).map (·.rr)).getD 0
  let die := if named then dieOfQuad t.quad else nth 0 dies (turn % max dies.length 1)
  let stamp := s.tk.stamp.getD die 0
  match (bankOrder named stamp).find? (fun b => bankLoad s t.quad die b < 65536) with
  | none => none
  | some b =>
    let t' := { t with bank := b, die := die, stamp := stamp, examined := false, ready := false, looked := false, tested := false, cpos := 0 }
    let s := if named then s else updLaunch s t.launch (fun l => { l with rr := l.rr + 1 })
    some { s with tk := { s.tk with
      drill := s.tk.drill ++ [t']
      stamp := s.tk.stamp.set die ((stamp + 1) % 2 ^ 48) } }

/-- Fields of a CR header (R196). -/
def crLive (h : List Word) : Nat := bitsOf (nth 0 h 4) 63 48
def crPrio (h : List Word) : Nat := bitsOf (nth 0 h 4) 47 45
def crPure (h : List Word) : Bool := bitOf (nth 0 h 4) 44
def crCkpt (h : List Word) : Bool := bitOf (nth 0 h 4) 43
def crIdem (h : List Word) : Bool := bitOf (nth 0 h 4) 42
def crEst (h : List Word) : Nat := bitsOf (nth 0 h 4) 37 32
def crJoin (h : List Word) : Nat := bitsOf (nth 0 h 4) 23 0
def crLaunch (h : List Word) : Nat := bitsOf (nth 0 h 5) 63 48
def crCtx (h : List Word) : Nat := bitsOf (nth 0 h 5) 47 42
def crQuad (h : List Word) : Nat := bitsOf (nth 0 h 5) 39 30
def crCode (h : List Word) : Word := vaSext (bitsOf (nth 0 h 0) 56 2 * 4)
def crTiles (h : List Word) : Word := vaSext (bitsOf (nth 0 h 2) 56 4 * 16)
def crSucc (h : List Word) : Word := vaSext (bitsOf (nth 0 h 3) 56 3 * 8)

/-- Read a CR: header, then one word for each bit of LIVE (R195). -/
def readCR (s : State) (who : Who) (va : Word) : Res (List Word × List Word) × State :=
  match readVA s who va 64 with
  | (.ok bs, s) =>
    let h := wordsOf 8 bs
    let n := popCount 16 (crLive h)
    match readVA s who (va + 64) (8 * n) with
    | (.ok rs, s) => (.ok (h, wordsOf n rs), s)
    | (.fault c, s) => (.fault c, s)
    | (.wait, s) => (.wait, s)
  | (.fault c, s) => (.fault c, s)
  | (.wait, s) => (.wait, s)

/-- A task record with a header and registers, not yet queued. -/
def TaskRec.make (rid : Nat) (crva : Option Word) (hdr regs : List Word) (ctx lid quad : Nat) : TaskRec :=
  { rid := rid, crva := crva, hdr := hdr, regs := regs, ctx := ctx, launch := lid, quad := quad, bank := 0, die := 0,
    stamp := 0, examined := false, ready := false, readySince := 0, looked := false, key := none, claims := [],
    sigs := [], noins := false, handler := false, resumed := false, ckpt := none, engcmds := [], orig := hdr,
    origRegs := regs, origSigs := [], tiles := [], tested := false, cpos := 0, kept := 0, loaded := crva.isNone,
    keyLive := 0, keyRegs := [] }

/-! ### Event records -/

/-- What an event record says (R413). -/
structure Ev where
  cause : Cause
  ukind : Nat
  unit : Nat
  tid : Tid
  lid : Nat
  tval : Word
  tinfo : Word
  deriving DecidableEq, Repr

/-- The eight words of an event record (R413). -/
def evBytes (e : Ev) (dtime : Nat) : List Byte :=
  bytesOf 8 (2 ^ 63 + e.ukind % 4 * 2 ^ 56 + e.unit % 256 * 2 ^ 48 + tselOf e.tid * 2 ^ 32 + e.lid % 65536 * 65536
      + e.cause.toNat)
    ++ bytesOf 8 e.tval.toNat ++ bytesOf 8 e.tinfo.toNat ++ bytesOf 8 dtime ++ List.replicate 32 0

/-- The launch a handler task joins: the one named, or the context's oldest live launch (R414). -/
def handlerLaunch (s : State) (ctx lid : Nat) : Option Launch :=
  match s.ln.live.find? (fun l => l.ctx == ctx && l.lid == lid && lid != 0) with
  | some l => some l
  | none =>
    (s.ln.live.filter (fun l => l.ctx == ctx)).foldl
      (fun best l => match best with
        | none => some l
        | some b => if l.order < b.order then some l else some b) none

/-- Enter a handler task of the context, where THCR names a template and none is queued, ready, running or parked
(R414). -/
def enterHandler (s : State) (ctx lid : Nat) (t : Tid) : State :=
  let c := getCtx s ctx
  if c.thcr = 0 ∨ c.handler.isSome = true then s
  else match handlerLaunch s ctx lid with
    | none => s
    | some l =>
      match readCR s (Who.self ctx 6 t) c.thcr with
      | (.ok (h, rs), s) =>
        let h := setNth h 4 (withBits (nth 0 h 4) 47 45 0)
        let h := setNth h 5 (withBits (withBits (nth 0 h 5) 63 48 l.lid) 47 42 ctx)
        let q := if isArray t && l.quads.contains (quadOf t) then quadOf t else 0x3FF
        let rid := s.tk.nextRid
        let r := { TaskRec.make rid none h rs ctx l.lid q with handler := true }
        match enqueueRec { s with tk := { s.tk with nextRid := rid + 1 } } r with
        | some s => updLaunch (setCtx s ctx { getCtx s ctx with handler := some rid }) l.lid
            (fun l => { l with live := l.live + 1 })
        | none => s
      | (_, s) => s

/-- An event record that cannot be appended: DROPS, and EVOVF to the host once an episode (R413). -/
def dropEvent (s : State) (ctx : Nat) (lid : Nat) (t : Tid) : State :=
  let c := getCtx s ctx
  let s := setCtx s ctx { c with
    tevp := withBits c.tevp 63 48 (min (bitsOf c.tevp 63 48 + 1) 65535), evovf := true }
  if c.evovf then s else hostEvent s Cause.evovf ctx lid (tselOf t) 0

/-- Append an event record to a context's ring (R413), offer its cause to the launch (R404), enter the handler (R414). -/
def appendEvent (s : State) (ctx : Nat) (e : Ev) : State :=
  let s := noteCause s e.lid e.cause
  let c := getCtx s ctx
  let n := 2 ^ bitsOf c.tevb 4 0
  let head := bitsOf c.tevp 15 0
  let tail := bitsOf c.tevp 31 16
  if bitsOf c.tevb 4 0 = 0 ∨ (tail + 65536 - head) % 65536 = n then dropEvent s ctx e.lid e.tid
  else
    let va := vaSext (bitsOf c.tevb 56 12 * 4096 + 64 * (tail % n))
    match writeVARaw s { Who.self ctx 7 e.tid with quiet := true } va (evBytes e s.clk.dtime) with
    | (.ok _, s) =>
      let c := getCtx s ctx
      enterHandler (setCtx s ctx { c with tevp := withBits c.tevp 31 16 (tail + 1), evovf := false }) ctx e.lid e.tid
    | (_, s) => dropEvent s ctx e.lid e.tid

/-! ### Watchpoints (R306, R420) -/

/-- The first watched IA among written pieces (IA, bytes written), if any. -/
def watchedIn (w : Word × Word) : List (Nat × List (Option Byte)) → Option Nat
  | [] => none
  | (ia, bs) :: ps =>
    let lo := w.1.toNat
    let hi := lo + (bitsOf w.2 31 16 + 1) * 128
    match ((List.range bs.length).filter (fun i => (nth none bs i).isSome && lo ≤ ia + i && ia + i < hi)) with
    | i :: _ => some (ia + i)
    | [] => watchedIn w ps

/-- The lowest-numbered armed watchpoint of a context that written pieces meet: the first watched IA. -/
def watchHit (ps : List (Nat × List (Option Byte))) : List (Word × Word) → Option Nat
  | [] => none
  | w :: ws =>
    if bitOf w.2 0 then
      match watchedIn w ps with
      | some a => some a
      | none => watchHit ps ws
    else watchHit ps ws

/-- The tile that raises a WATCH record: the bank's for a window IA, else the first of the home port's headland group (R413, R435;
log 135). -/
def watchTile (ia : Nat) : Tid := if inWindow ia then windowTid ia else portTile ia

/-- Record the watchpoints that a write has met, context by context (R420). -/
def watchCheck (s : State) (who : Who) (ps : List (Nat × List (Option Byte))) : State :=
  if who.quiet then s
  else
    let tinfo : Word := BitVec.ofNat 64 (who.cls * 2 ^ 36 + (who.node.getD s.boot.node) % 2 ^ 20 * 65536 + (if who.cls = 4 then 0 else tselOf who.tid))
    s.ctxs.foldl (fun s c =>
      match watchHit ps c.2.wpts with
      | some a => appendEvent s c.1 ⟨Cause.watch, 3, 0, watchTile a, 0, BitVec.ofNat 64 a, tinfo⟩
      | none => s) s

/-- Write bytes at a VA, masked bytes left, watchpoints observed. -/
def writeVAMasked (s : State) (who : Who) (va : Word) (bs : List (Option Byte)) : Res (List Byte) × State :=
  match writeAt s who va bs with
  | (x, l, s) => (x, watchCheck s who l)

/-- Write bytes at a VA, watchpoints observed. -/
def writeVA (s : State) (who : Who) (va : Word) (bs : List Byte) : Res (List Byte) × State :=
  writeVAMasked s who va (allSome bs)

/-- One access to bytes of one line at an IA already translated, watchpoints observed. -/
def iaPerform (s : State) (who : Who) (ia cls : Nat) (op : MOp) : Res (List Byte) × State :=
  match iaAccess s who ia cls op with
  | (.ok old, s) =>
    match op with
    | .read _ => (.ok old, s)
    | .write bs => (.ok old, watchCheck s who [(ia, bs)])
    | .rmw n _ _ _ => (.ok old, watchCheck s who [(ia, List.replicate n (some 0))])
  | (x, s) => (x, s)

/-! ### Accesses performed as their separate bytes (R96; log 149) -/

/-- A byte of an agent's access that has been performed by itself: what it read. -/
def tornByte (s : State) (key ia : Nat) : Option Byte := (s.xl.torn.find? (fun x => x.1 == key && x.2.1 == ia)).map (fun x => x.2.2)

/-- Note bytes of an agent's access as performed. -/
def noteTorn (s : State) (key ia : Nat) (bs : List Byte) : State :=
  { s with xl := { s.xl with torn := s.xl.torn ++ bs.zipIdx.map (fun x => (key, ia + x.2, x.1)) } }

/-- An agent's access is over. -/
def dropTorn (s : State) (key : Nat) : State := { s with xl := { s.xl with torn := s.xl.torn.filter (fun x => x.1 != key) } }

/-- Byte i of a read or write. -/
def MOp.byte (op : MOp) (i : Nat) : MOp :=
  match op with
  | .read _ => .read 1
  | .write bs => .write [nth none bs i]
  | .rmw n r w f => .rmw n r w f

/-- Bytes of an access one after another, but for those performed before. -/
def byBytes (s : State) (who : Who) (ia cls : Nat) (op : MOp) : List Nat → Res (List Byte) × State
  | [] => (.ok [], s)
  | i :: l =>
    match tornByte s who.key (ia + i) with
    | some b => (match byBytes s who ia cls op l with
      | (.ok bs, s) => (.ok (b :: bs), s)
      | x => x)
    | none => (match iaPerform s who (ia + i) cls (op.byte i) with
      | (.ok bs, s) => (match byBytes (noteTorn s who.key (ia + i) [nth 0 bs 0]) who ia cls op l with
        | (.ok rest, s) => (.ok (nth 0 bs 0 :: rest), s)
        | x => x)
      | x => x)

/-- Bytes that may be performed apart: more than one, in no FIFO and not at another module. -/
def mayTear (s : State) (ia n : Nat) : Bool :=
  decide (1 < n) && !atFifo s ia && (inWindow ia || (match s.xl.tcache.get? (ia / 65536) with
    | some e => leafTier e.w0 != 2
    | none => false))

/-- A read or write of one line that R96 does not keep whole: a byte of it is performed by itself where the scheduler says so, and the
rest comes later; else all of it, or what is left of it, is performed now. -/
def apart (s : State) (who : Who) (ia cls : Nat) (op : MOp) : Res (List Byte) × State :=
  let left := (List.range op.len).filter (fun i => (tornByte s who.key (ia + i)).isNone)
  match mayTear s ia op.len, s.xl.tear, left with
  | true, i :: l, _ :: _ :: _ =>
    let j := nth 0 left (i % left.length)
    (match iaPerform { s with xl := { s.xl with tear := l } } who (ia + j) cls (op.byte j) with
    | (.ok bs, s) => (.wait, noteTorn s who.key (ia + j) [nth 0 bs 0])
    | x => x)
  | _, _, _ => if left.length = op.len then iaPerform s who ia cls op else byBytes s who ia cls op (List.range op.len)

/-- The pieces of a read, each apart; what has been read stays read while a later piece waits. -/
def partsApart (s : State) (who : Who) : List Part → Res (List Byte) × State
  | [] => (.ok [], s)
  | p :: l =>
    match apart s who p.ia p.cls (.read p.len) with
    | (.ok bs, s) => (match partsApart (noteTorn s who.key p.ia bs) who l with
      | (.ok rest, s) => (.ok (bs ++ rest), s)
      | x => x)
    | (.fault c, s) => (.fault c, noteFault s p.va)
    | (.wait, s) => (.wait, s)

/-- Read n bytes at a VA, as an access that R96 does not keep whole. -/
def readApart (s : State) (who : Who) (va : Word) (n : Nat) : Res (List Byte) × State :=
  if s.xl.tear.isEmpty && !s.xl.torn.any (fun x => x.1 == who.key) then readVA s who va n
  else match vaParts s who .read (blocksOf va n) with
    | (ps, none) => (match partsApart (bindAll s who (blocksOf va n)) who ps with
      | (.wait, s) => (.wait, s)
      | (x, s) => (x, dropTorn s who.key))
    | (_, some _) => readVA (dropTorn s who.key) who va n

/-- An atomic or reduction at a VA. -/
def rmwVA (s : State) (who : Who) (va : Word) (n : Nat) (red : Bool) (what : List Nat) (f : List Byte → List Byte) :
    Res (List Byte) × State :=
  match translate s who va (if red then .write else .atomic) with
  | .error c => (.fault c, s)
  | .ok r => iaPerform (bindRead s who va) who r.1 r.2 (.rmw n red what f)

end Sys2Proof.Machine
end

