-- ==== Sys2Proof/Machine/Flags.lean ====
section
/-! DEFINITION. The machine keeps no condition flags. What a computation leaves beside its result are numeric events,
counted per context and class (R190 to R193); the branch conditions compare registers (R260). -/
namespace Sys2Proof.Machine

/-! ### Numeric events (R190 to R193) -/

/-- Add `n` events of class `k` to a context's counter and take ACT where the threshold is passed (R193). The host event of ACT 2 names
the class in its cause field, 0x280 + k: the spec gives that field no value (log 16). -/
def countClass (s : State) (ctx k n : Nat) (t : Tid) : State :=
  if n = 0 then s
  else
    let c := getCtx s ctx
    let w := nth 0 c.necnt k
    let ctl := nth 0 c.nectl k
    let total := min (bitsOf w 63 32 + n) (2 ^ 32 - 1)
    let wcnt := min (bitsOf w 31 0 + n) (2 ^ 32 - 1)
    let w' : Word := BitVec.ofNat 64 (total * 2 ^ 32 + wcnt)
    let fire := bitsOf ctl 63 32 < wcnt && !bitOf ctl 2 && bitsOf ctl 1 0 != 0
    let ctl' := if fire then withBits ctl 2 2 1 else ctl
    let s := setCtx s ctx { c with necnt := setNth c.necnt k w', nectl := setNth c.nectl k ctl' }
    if !fire then s
    else if bitsOf ctl 1 0 = 1 then
      appendEvent s ctx ⟨Cause.neinval + BitVec.ofNat 10 k, 3, 0, t, 0, 0, BitVec.ofNat 64 (k * 65536 + tselOf t)⟩
    else hostEvent s (Cause.neinval + BitVec.ofNat 10 k) ctx 0 (tselOf t) (BitVec.ofNat 64 k)

/-- A class's window has ended between two cycles (R192, R193). -/
def windowEnded (ctl : Word) (p c : Nat) : Bool :=
  let w := bitsOf ctl 13 8
  w != 0 && p / 2 ^ w != c / 2 ^ w

/-- Clear WCNT and FIRED of the classes whose window has ended since the windows were last looked at (R193). -/
def windowsTo (s : State) (ctx : Nat) : State :=
  let c := getCtx s ctx
  let now := s.clk.cycle
  let ended (k : Nat) : Bool := windowEnded (nth 0 c.nectl k) c.nwin now
  setCtx s ctx { c with
    necnt := c.necnt.zipIdx.map (fun x => if ended x.2 then withBits x.1 31 0 0 else x.1)
    nectl := c.nectl.zipIdx.map (fun x => if ended x.2 then withBits x.1 2 2 0 else x.1)
    nwin := now }

/-- Count a list of events, each named by its class, for a context (R191): windows that have ended are cleared first. -/
def countEvents (s : State) (ctx : Nat) (t : Tid) (evs : List Nat) : State :=
  if evs.isEmpty then s
  else (List.range 8).foldl (fun s k => countClass s ctx k (evs.filter (· == k)).length t) (windowsTo s ctx)

/-! ### Conditions of branches and comparisons (R257, R260) -/

/-- Signed less-than. -/
def ltS (a b : Word) : Bool := decide (a.toInt < b.toInt)

/-- Unsigned less-than. -/
def ltU (a b : Word) : Bool := decide (a.toNat < b.toNat)

/-- A comparison's result: 1 or 0 (R257). -/
def flag (b : Bool) : Word := if b then 1 else 0

end Sys2Proof.Machine
end

