-- ==== Sys2Proof/Machine/Kill.lean ====
section
/-! DEFINITION. Barrier completion (R116, R119), taking a section and a tile's configuration off the fabric (R209, R211,
R289), and the containment kill of a context (R122, R139, R432, R433). -/
namespace Sys2Proof.Machine

/-! ### Barrier objects -/

/-- Fields of a barrier identifier (R112). -/
def barScope (id : Nat) : Nat := id / 2 ^ 29 % 8
def barUnit (id : Nat) : Nat := id / 2 ^ 20 % 512
def barIndex (id : Nat) : Nat := id % 1024

/-- A malformed identifier (R112). -/
def barMalformed (id : Nat) : Bool :=
  decide (2 ^ 32 ≤ id) || id / 1024 % 1024 != 0 ||
  !(match barScope id with
    | 2 => barIndex id < 64
    | 3 => barUnit id < 4 && barIndex id < 256
    | 4 => barUnit id == 0
    | 5 => barUnit id == 0 && barIndex id < 256
    | _ => false)

/-- A tile lies inside a barrier's scope unit (R113). -/
def barInside (id : Nat) (t : Tid) : Bool :=
  match barScope id with
  | 2 => isArray t && quadOf t == barUnit id
  | 3 => tileDie t == barUnit id
  | _ => true

/-- A barrier object. -/
def getBar (s : State) (id : Nat) : Barrier := s.bar.objs.getD id Barrier.reset

/-- Replace a barrier object. -/
def setBar (s : State) (id : Nat) (b : Barrier) : State := { s with bar := { s.bar with objs := s.bar.objs.set id b } }

/-- One completed phase: PHASE, ARRIVED, EARLY and PRIO (R116). -/
def Barrier.advance (b : Barrier) : Barrier :=
  { b with phase := (b.phase + 1) % 65536, arrived := b.early, early := 0, prio := 7, sentUp := false }

/-- A waiter holding target phase p observes completion (R116). -/
def phaseDone (phase p : Nat) : Bool :=
  let d := (phase + 65536 - p) % 65536
  decide (1 ≤ d) && decide (d ≤ 32767)

/-- Send a completion to every child share of a pod barrier (R119). -/
def sendCompletions (s : State) (id : Nat) (b : Barrier) : State :=
  b.children.foldl (fun s n => sendNode s n 1 [6, id, b.phase, b.status]) s

/-- Complete a phase of a barrier and pass it down (R116, R119). -/
def completeBar (s : State) (id : Nat) : State :=
  let b := (getBar s id).advance
  sendCompletions (setBar s id b) id b

/-- Complete a barrier with POISON and nothing pending (R122); a pod share below the top sends a poisoned arrival to its
parent, and completes with the top (R119). -/
def poisonBar (s : State) (id : Nat) : State :=
  if barScope id = 5 ∧ (getBar s id).root ≠ s.boot.node then sendNode s (getBar s id).root 0 [5, id]
  else completeBar (setBar s id { getBar s id with status := 1, pending := 0 }) id

/-! ### Sections -/

/-- Key of a section. -/
def secKey (ctx sect : Nat) : Nat := ctx * 64 + sect

/-- A section. -/
def getSec (s : State) (k : Nat) : Section := s.fab.secs.getD k Section.reset

/-- Replace a section. -/
def setSec (s : State) (k : Nat) (x : Section) : State := { s with fab := { s.fab with secs := s.fab.secs.set k x } }

/-- Drop the entries of a table whose key lies in a tile's block of `w` keys. -/
def dropTile {α : Type} (m : SMap α) (w : Nat) (t : Tid) : SMap α := m.filter (fun e => e.1 / w != t)

/-- A slot with its configuration kept and everything it held dropped (R211, R289). -/
def Slot.cleared (x : Slot) : Slot := { Slot.reset with word := x.word, const := x.const, rng := x.rng }

/-- Map the entries of a tile's block. -/
def mapTile {α : Type} (m : SMap α) (w : Nat) (t : Tid) (f : α → α) : SMap α :=
  m.map (fun e => if e.1 / w = t then (e.1, f e.2) else e)

/-- Take a tile's units to the loaded state: tokens in links, latches and operator units dropped, streams ended without
EOS, held accesses discarded, stopped links freed (R211, R289, R21). -/
def disarmTile (s : State) (t : Tid) : State :=
  { s with
    fab := { s.fab with
      slots := mapTile s.fab.slots 64 t Slot.cleared
      bufs := dropTile s.fab.bufs 128 t
      opunits := mapTile s.fab.opunits 4 t (fun u => OpUnit.fresh u.recd)
      gens := mapTile s.fab.gens 4 t (fun g => { g with run := none })
      stopped := s.fab.stopped.filter (fun k => k / 128 != t) }
    xl := { s.xl with waits := s.xl.waits.filter (fun w => w.tid != t) }
    tl := { s.tl with fifoReqs := s.tl.fifoReqs.map (fun e => (e.1, e.2.filter (fun r => match r.who with
      | .core _ _ => true
      | .slot t' _ => t' != t
      | .gen t' _ => t' != t))) } }

/-- Reader key of the binding that the element ports of a section share (R341). -/
def secBinder (k : Nat) : Nat := 2 ^ 40 + k

/-- Reader key of a generator's stream (R110). -/
def genBinder (t : Tid) (g : Nat) : Nat := 2 ^ 20 + t * 8 + g

/-- Release what a section's element ports and streams are bound to (R110, R341). -/
def unbindSec (s : State) (k : Nat) : State :=
  let s := unbind s (k / 64) (secBinder k)
  (getSec s k).tiles.foldl (fun s t => (List.range 4).foldl (fun s g => unbind s (k / 64) (genBinder t g)) s) s

/-- A waiting SECWAIT of a section learns that it has been disarmed (R290). -/
def Core.sawDisarm (c : Core) (k : Nat) : Core :=
  match c.waiting with
  | .secwait k' gd _ => if k' = k then { c with waiting := .secwait k' gd true } else c
  | _ => c

/-- The tile's section is armed, stopping, stopped or idle. -/
def SecState.isBusy : SecState → Bool
  | .armed | .stopping | .stopped | .idle => true
  | .free | .loaded => false

/-- Take a section to loaded (R211, R289). -/
def disarmSec (s : State) (k : Nat) : State :=
  let x := getSec s k
  let s : State := unbindSec (x.tiles.foldl disarmTile s) k
  let s : State := { s with cores := s.cores.map (fun e => (e.1, e.2.sawDisarm k)) }
  setSec s k { getSec s k with state := .loaded, edges := 0, stopAt := none, cut := none, tcount := 0 }

/-- The E7's own write of bytes of a tile, past any region; watchpoints see it (R420; log 134). -/
def ownTileWrite (s : State) (ctx : Nat) (t : Tid) (off : Nat) (bs : List Byte) : State :=
  watchCheck { s with st := { s.st with mem := tileWriteBytes s.st.mem t off (failedBank (mtstat s t)) bs } }
    (Who.self ctx 6 0) [(windowIA t off, allSome bs)]

/-- Write zero to every byte of a region. -/
def zeroRegion (s : State) (t : Tid) (r : Nat) : State :=
  let w := region s t r
  ownTileWrite s (regCtx w) t (regBase w) (List.replicate (regLen w * 64) 0)

/-- Remove a tile's regions of a context, bytes first (R209, R429, R432). -/
def dropRegions (s : State) (ctx : Nat) (t : Tid) : State :=
  (List.range 8).foldl (fun s r =>
    if regMode (region s t r) ≠ 0 ∧ regCtx (region s t r) = ctx then setRegion (zeroRegion s t r) t r (0, 0) else s) s

/-- Remove a tile's configuration: slots, ingress, switch words, operator and pattern records (R209). -/
def clearTile (s : State) (t : Tid) : State :=
  let s := disarmTile s t
  { s with fab := { s.fab with
      slots := dropTile s.fab.slots 64 t
      ingress := s.fab.ingress.erase t
      switch := dropTile s.fab.switch 64 t
      opunits := dropTile s.fab.opunits 4 t
      gens := dropTile s.fab.gens 4 t
      frags := s.fab.frags.erase t
      lastSlot := s.fab.lastSlot.erase t
      tileSec := s.fab.tileSec.erase t } }

/-- Take a tile out of the section it belongs to; a section without tiles is free (R209, R211). -/
def leaveSection (s : State) (t : Tid) : State :=
  match s.fab.tileSec.get? t with
  | none => s
  | some k =>
    let x := getSec s k
    let tiles := x.tiles.filter (· != t)
    let s := clearTile s t
    setSec s k (if tiles.isEmpty then Section.reset else { x with tiles := tiles })

/-- Take a whole section off the fabric: its tiles are cleared and it is free (R209, R429, R432). -/
def freeSec (s : State) (k : Nat) : State :=
  let s := (getSec s k).tiles.foldl clearTile s
  setSec s k Section.reset

/-- Tiles that hold a region of a context. -/
def regionTiles (s : State) (ctx : Nat) : List Tid :=
  ((s.tl.regions.filter (fun e => regMode e.2 != 0 && regCtx e.2 == ctx)).map (fun e => e.1 / 8)).eraseDups

/-! ### The end of a task in its record -/

/-- Write STATE (and word 7 where given) into a CR that has a VA, as the drill unit does (R196, R199, R421): the byte of word 5
that holds it; QUAD and the E7's other fields stay as they are in memory. -/
def writeState (s : State) (f : TaskRec) (st : Nat) (w7 : Option Word) (t : Tid) : State :=
  match f.crva with
  | none => s
  | some va =>
    let who := Who.self f.ctx 6 (quadCore (quadOf t))
    let s := match w7 with
      | none => s
      | some w => (writeVA s who (va + 56) (bytesOf 8 w.toNat)).2
    (writeVA s who (va + 40) (bytesOf 1 (withBits (nth 0 f.hdr 5) 2 0 st).toNat)).2

/-- The running tasks of a context, with a tile of their quads: those on cores, and those that retire but for hits, which run until
they are retired (R199, R203). -/
def runningTasks (s : State) (ctx : Nat) : List (TaskRec × Tid) :=
  s.cores.filterMap (fun e => match e.2.run with
    | some f => if f.task.ctx = ctx then some (f.task, e.1) else none
    | none => none)
  ++ (s.tk.retiring.filter (fun r => r.task.ctx == ctx && !r.hit)).map (fun r => (r.task, quadCore r.task.quad))

/-- The running tasks of a killed context get STATE 7 in their records (R199, R200). -/
def writeKilled (s : State) (ctx : Nat) : State := (runningTasks s ctx).foldl (fun s x => writeState s x.1 7 none x.2) s

/-- A core without its firing; the acknowledgement of its last AMSGW stays due (R298). -/
def Core.stop (c : Core) : Core :=
  { c with run := none, sys := false, halted := false, unfin := [], replay := [], staged := [],
           waiting := .none, held := 0 }

/-- The acknowledgement of an AMSGW among these messages is due no longer. -/
def Core.forget (c : Core) (uids : List Nat) : Core :=
  match c.amsgw with
  | some (uid, _) => if uids.contains uid then { c with amsgw := none } else c
  | none => c

/-- A core after the kill of a context. -/
def Core.killed (c : Core) (ctx : Nat) : Core :=
  match c.run with
  | some f => if f.task.ctx = ctx then c.stop else c
  | none => c

/-- A generator after the kill of a context. -/
def Gen.killed (g : Gen) (ctx : Nat) : Gen :=
  match g.run with
  | some r => if r.ctx = ctx then { g with run := none } else g
  | none => g

/-- The context an engine command runs for (R124). -/
def engCtx (c : EngCmd) : Nat := bitsOf (nth 0 c.words 0) 55 50

/-- The TAG of an engine command, which names a collective (R124, R145). -/
def engTag (c : EngCmd) : Nat := bitsOf (nth 0 c.words 3) 63 32

/-- Ask another node something on behalf of a stream: the message carries the number that its answer comes under (R135). -/
def askNode (s : State) (key tag node code : Nat) (words : List Nat) : State :=
  let s := sendNode s node 0 ([code, s.xl.fwdNext] ++ words)
  { s with xl := { s.xl with
    fwdNext := s.xl.fwdNext + 1, fwdOut := s.xl.fwdOut ++ [⟨s.xl.fwdNext, key, tag, node, false, linkFor s 0 node⟩] } }

/-- Key of an engine command among the agents that wait for answers. -/
def engKey (c : EngCmd) : Nat := agentKey 4 c.uid

/-- Mark, in place of an IA, of a message of a command to another engine, or to a page's HOME (R145, R151). -/
def engineTag : Nat := 2 ^ 64
def homeTag : Nat := 2 ^ 64 + 1

/-- Tell the other members of a collective something (R145, R148); another module's engine answers (R135; log 85). -/
def tellMembers (s : State) (q : Nat) (c : EngCmd) (kind : Nat) (info : List Nat) (bytes : List Byte) : State :=
  let own := s.boot.node * 512 + q
  (c.waits.filter (· != own)).foldl (fun s e =>
    if e / 512 = s.boot.node then
      { s with eng := { s.eng with coll := s.eng.coll ++ [⟨engTag c, own, e % 512, kind, info, bytes⟩] } }
    else askNode s (engKey c) engineTag (e / 512) 16 ([engTag c, own, e % 512, kind, info.length] ++ info ++ bytes.map (·.toNat))) s

/-- Acknowledge a message: to the sending core here, or to the sending node (R129). -/
def acknowledge (s : State) (m : Msg) (kind status : Nat) (cause : Cause) : State :=
  let from' := bitsOf (nth 0 m.words 3) 31 12
  if from' = s.boot.node then { s with fab := { s.fab with acks := s.fab.acks ++ [⟨m.uid, kind, status, cause, m⟩] } }
  else sendNode s from' 1 [17, m.uid, kind, status, cause.toNat]

/-- The sender of a command that a kill has removed without any effect is told that it was accepted and has drained (R129, R139;
log 82). -/
def ackRemoved (s : State) (m : Msg) : State :=
  let s := acknowledge s m 0 0 0
  if bitsOf (nth 0 m.words 3) 31 12 = s.boot.node then s else acknowledge s m 3 0 0

/-- The message that a refused command came in. -/
def msgOf (c : EngCmd) : Msg :=
  let w3 := nth 0 c.words 3
  let w1 := nth 0 c.words 1
  ⟨c.uid, tidOf (bitsOf w3 5 0) (bitsOf w3 11 6), quadCore (bitsOf w1 43 35), bitsOf w1 63 44, 2, c.words, c.sender, c.lid, true, none, none⟩

/-! ### Notices between the members of collectives (R145, R148)

From each member an engine hears, in order: that it has been accepted (kind 0), its source (kind 1), its end (kind 2). A kind 0
begins a collective of that TAG with that member; what precedes the first one belongs to a collective that is over. A member that leaves
before another has been accepted owes it that acceptance: it is dropped when it comes, so that the members' commands pair off in the
order in which each engine accepts them (log 85). -/

/-- A notice of a member for a collective's TAG at an engine. -/
def CollMsg.isFrom (n : CollMsg) (q tag src : Nat) : Bool := n.quad == q && n.tag == tag && n.src == src

/-- Drop a member's notices up to its next acceptance. -/
def dropStale (q tag src : Nat) : List CollMsg → List CollMsg
  | [] => []
  | n :: l =>
    if !n.isFrom q tag src then n :: dropStale q tag src l
    else if n.kind = 0 then n :: l
    else dropStale q tag src l

/-- Drop a member's first notice of its acceptance. -/
def dropAcceptance (q tag src : Nat) : List CollMsg → List CollMsg
  | [] => []
  | n :: l => if n.isFrom q tag src && n.kind == 0 then l else n :: dropAcceptance q tag src l

/-- Drop a member's last notice of its acceptance. -/
def dropLastAcceptance (q tag src : Nat) (l : List CollMsg) : List CollMsg := (dropAcceptance q tag src l.reverse).reverse

/-- A member's acceptance has come. -/
def acceptanceHere (s : State) (q tag src : Nat) : Bool := s.eng.coll.any (fun n => n.isFrom q tag src && n.kind == 0)

/-- Acceptances that belong to collectives which the member here has left are dropped as they come (R145; log 85). -/
def settleOwed (s : State) : State :=
  s.eng.owed.foldl (fun s o =>
    if acceptanceHere s o.1 o.2.1 o.2.2 then
      { s with eng := { s.eng with coll := dropAcceptance o.1 o.2.1 o.2.2 s.eng.coll, owed := s.eng.owed.erase o } }
    else s) s

/-- Change the notices of a collective, member by member. -/
def mapNotices (s : State) (c : EngCmd) (f : Nat → List CollMsg → List CollMsg) : State :=
  { s with eng := { s.eng with coll := c.waits.foldl (fun l e => f e l) s.eng.coll } }

/-- A collective's member leaves: what the others have said for it goes, up to their next acceptance; of a member that has not been
accepted yet the acceptance is owed (R145, R148; log 85). -/
def dropNotices (s : State) (q : Nat) (c : EngCmd) : State :=
  let s := settleOwed s
  if c.state = .met then mapNotices s c (dropStale q (engTag c))
  else
    let late := c.waits.filter (fun e => e != s.boot.node * 512 + q && !acceptanceHere s q (engTag c) e)
    let s := mapNotices s c (fun e l => dropStale q (engTag c) e (dropAcceptance q (engTag c) e l))
    { s with eng := { s.eng with owed := s.eng.owed ++ late.map (fun e => (q, engTag c, e)) } }

/-- A command that a checkpoint runs and whose cut is still to come: nothing ends it (R431). -/
def beforeCut (s : State) (c : EngCmd) : Bool :=
  match s.eng.ckpt with
  | some k => k.uid == c.uid && !k.cutDone
  | none => false

/-- A command leaves by the kill of its context: a collective learns of it, a refused one is acknowledged, and the node of its sender is
told that it is over (R129, R139, R148). -/
def killCommand (s : State) (q : Nat) (c : EngCmd) : State :=
  if c.state = .ended then ackRemoved s (msgOf c)
  else
    let s := tellMembers s q c 2 [0] []
    let s := if c.waits.isEmpty then s else dropNotices s q c
    if bitsOf (nth 0 c.words 3) 31 12 = s.boot.node then s else acknowledge s (msgOf c) 3 0 0

/-- The commands of a context end by its kill; a checkpoint that one of them runs ends with it once its cut is taken (R139, R148,
R431). -/
def killCommands (s : State) (ctx : Nat) : State :=
  let dies (c : EngCmd) : Bool := engCtx c == ctx && !beforeCut s c
  let mine : List (Nat × EngCmd) := s.eng.inbox.flatMap (fun e => (e.2.filter dies).map (fun c => (e.1, c)))
  let t : State := mine.foldl (fun s x => killCommand s x.1 x.2) s
  let runs (k : Ckpt) : Bool := mine.any (fun x => x.2.uid == k.uid)
  { t with eng := { t.eng with
      inbox := t.eng.inbox.map (fun e => (e.1, e.2.filter (fun c => !dies c)))
      ckpt := (match t.eng.ckpt with
        | some k => if runs k then none else some k
        | none => none) } }

/-- A die that the allocator withdraws holds a tile of the section (R222). -/
def onLeavingDie (s : State) (x : Section) : Bool :=
  match findLaunch s x.launch with
  | some l => x.tiles.any (fun t => l.leaving.contains (tileDie t))
  | none => false

/-- Sections that a stop edge has stopped and that nothing keeps stopped go on past it (R155, R431). -/
def resumeSections (s : State) : State :=
  { s with fab := { s.fab with secs := s.fab.secs.map (fun e =>
      let held := (getCtx s (e.1 / 64)).state == .saving || onLeavingDie s e.2
      match e.2.state with
      | .stopping | .stopped => if held then e else (e.1, { e.2 with state := .armed, stopAt := none, cut := none })
      | _ => e) } }

/-- A launch after the kill of a context: it has ended with STATUS KILLED (2) or LOST (3), its running tasks count in FAULTS, and the
kill's cause is its CAUSE where it had none (R401, R403, R404, R432). -/
def Launch.killed (l : Launch) (ctx st : Nat) (cause : Cause) (dead : List Nat) : Launch :=
  if l.ctx = ctx then
    { l with status := max l.status st, live := 0, state := .running, cmds := [], faults := l.faults + dead.count l.lid,
             cause := if l.cause = 0 then cause else l.cause }
  else l

/-- The containment kill of a context (R122, R139, R204, R209, R432, R433): STATE of its running tasks is written, its sections
leave the fabric, its records are dropped, the signals already sent stay under way, and CTXSTAT reads killed with the cause. Its
launches' records are written by LAUNCH_COMPLETE. -/
def killContext (s : State) (ctx : Nat) (cause : Cause) (lost : Bool) : State :=
  let secs : List Nat := (s.fab.secs.filter (fun e => e.1 / 64 == ctx)).map (·.1)
  let dead : List Nat := (runningTasks s ctx).map (fun x => x.1.launch)
  let s : State := writeKilled s ctx
  let s : State := secs.foldl (fun s k => freeSec (if (getSec s k).state.isBusy then disarmSec s k else s) k) s
  let lids : List Nat := (s.ln.live.filter (fun l => l.ctx == ctx)).map (·.lid)
  let unsent (m : Msg) : Bool := !m.injected && lids.contains m.lid
  let s : State := { s with
    fab := { s.fab with gens := s.fab.gens.map (fun e => (e.1, e.2.killed ctx)), msgs := s.fab.msgs.filter (fun m => !unsent m) }
    cores := s.cores.map (fun e => (e.1, (e.2.killed ctx).forget ((s.fab.msgs.filter unsent).map (·.uid))))
    tk := { s.tk with
      drill := s.tk.drill.filter (fun t => t.ctx != ctx)
      parked := s.tk.parked.filter (fun t => t.ctx != ctx)
      retiring := s.tk.retiring.filter (fun r => r.task.ctx != ctx) }
    bar := { s.bar with arrivals := s.bar.arrivals.filter (fun a => a.ctx != ctx) }
    xl := { s.xl with waits := s.xl.waits.filter (fun w => w.ctx != ctx) }
    ln := { s.ln with live := s.ln.live.map (fun l => l.killed ctx (if lost then 3 else 2) cause dead) } }
  let s : State := (let s' := killCommands s ctx
    if s.eng.ckpt.isSome && s'.eng.ckpt.isNone then resumeSections s' else s')
  let s : State := (s.bar.objs.filter (fun e => e.2.v && e.2.ctx == ctx)).foldl (fun s e => poisonBar s e.1) s
  let s : State := (regionTiles s ctx).foldl (fun s t => dropRegions s ctx t) s
  let c := getCtx s ctx
  let s : State := { s with saved := s.saved.filter (fun x => x.ctx != ctx) }
  setCtx s ctx { c with state := .killed, cause := cause, lost := lost, handler := none, bindings := [] }

/-- A context is killed with CTXLOST, of which the host is told (R403, R430, R431, R469). -/
def loseContext (s : State) (ctx : Nat) (lost : Bool) : State :=
  hostEvent (killContext s ctx Cause.ctxlost lost) Cause.ctxlost ctx 0 0 0

end Sys2Proof.Machine
end

