-- ==== Sys2Proof/Machine/Operands.lean ====
section
/-! DEFINITION. Operand forms of the sequencer's words: immediates as read (R229 to R231), access sizes (R231, R232),
branch targets (R230). -/
namespace Sys2Proof.Machine

end Sys2Proof.Machine

namespace Sys2Proof

/-- Bytes of an M-format access (R231). -/
def MSize.bytes : MSize → Nat
  | .s8 | .z8 => 1
  | .s16 | .z16 => 2
  | .s32 | .z32 => 4
  | .d64 => 8

/-- The load sign-extends (R231). -/
def MSize.isSigned : MSize → Bool
  | .s8 | .s16 | .s32 => true
  | .z8 | .z16 | .z32 | .d64 => false

/-- Bytes of an atomic or reduction (R232). -/
def ASize.bytes : ASize → Nat
  | .w32 => 4
  | .w64 => 8
  | .w16 => 2

end Sys2Proof

namespace Sys2Proof.Machine

/-- A signed 16-bit immediate. -/
def s16 (i : BitVec 16) : Word := i.signExtend 64

/-- An unsigned 16-bit immediate. -/
def z16 (i : BitVec 16) : Word := i.setWidth 64

/-- The VA of an M-format access: ga + sext(offset, 13) (R263). -/
def vaM (a : Word) (o : BitVec 13) : Word := a + o.signExtend 64

/-- Target of a B-format offset: base + 4·sext(offset, 16) (R230). -/
def targetB (base : Word) (o : BitVec 16) : Word := base + 4 * o.signExtend 64

/-- Target of a J-format offset: pc + 4·sext(offset, 26) (R230). -/
def targetJ (base : Word) (o : BitVec 26) : Word := base + 4 * o.signExtend 64

end Sys2Proof.Machine
end

