-- ==== Sys2Proof/Machine/Ops.lean ====
section
/-! DEFINITION. The sequencer's shared operations: registers, firings, claims, the trap of a firing (R407 to R409), its end
as faulted (R411), the return (R410), soft refusals (R412), and the issue and performance of core-stream accesses (R253,
R263, R97). -/
namespace Sys2Proof.Machine

/-- One step's answer. -/
abbrev Out := Host.Outcome State Fault Refusal

/-! ### Registers -/

/-- Read a register; g0 reads zero (R226). -/
def Core.gpr (c : Core) (r : Reg) : Word := if r.val = 0 then 0 else nth 0 c.regs r.val

/-- Write a register; a write to g0 is discarded (R226). -/
def Core.setGpr (c : Core) (r : Reg) (v : Word) : Core :=
  if r.val = 0 then c else { c with regs := setNth c.regs r.val v }

/-- Go on at the next word. -/
def Core.advance (c : Core) : Core := { c with pc := c.pc + 4 }

/-- Split a replay queue at its first form: the accesses before it, and the rest (R410). -/
def splitForm : List Access → List Access × List Access
  | [] => ([], [])
  | a :: l => if a.kind = .form then ([], a :: l) else (a :: (splitForm l).1, (splitForm l).2)

/-- Operands of a form that a trap may put into the replay queue: those captured where it is issued again, else the registers (R255,
R410). -/
def Core.opA (c : Core) (r : Reg) : Word := match c.replay with
  | a :: _ => a.va
  | [] => c.gpr r
def Core.opB (c : Core) (r : Reg) : Word := match c.replay with
  | a :: _ => a.data
  | [] => c.gpr r

/-- Such a form has ended: the next word follows, or where it was issued again the accesses of the replay queue up to its next form
(R410). -/
def Core.finish (c : Core) : Core :=
  match c.replay with
  | [] => c.advance
  | _ :: l => { c with unfin := c.unfin ++ (splitForm l).1, replay := (splitForm l).2 }

/-- The kind of access writes its gd when it finishes. -/
def AccKind.writesGd : AccKind → Bool
  | .load _ _ | .atomic _ | .jcnt => true
  | .store | .red _ | .form => false

/-- The register waits for an issued load or atomic (R253). -/
def Core.pending (c : Core) (r : Reg) : Bool :=
  r.val != 0 && c.unfin.any (fun a => a.kind.writesGd && a.gd == r)

/-- None of the registers waits for a value. -/
def Core.ready (c : Core) (rs : List Reg) : Bool := rs.all (fun r => !c.pending r)

/-- Run a sequencer form on the focused core's firing; without one, or halted, no word is executed there. -/
def onCore (s : State) (k : Tid → Core → Firing → State) : Out :=
  let c := getCore s s.focus.1
  match c.run with
  | none => .fault .noFiring
  | some f => if c.halted then .fault .noFiring else .next (k s.focus.1 c f)

/-- A computation form: gd takes a value of the registers, and the next word follows; it waits for operands and for an
earlier result due in gd (R253, R257). -/
def regOp (s : State) (srcs : List Reg) (d : Reg) (v : Core → Word) : Out :=
  onCore s (fun t c _ => if c.ready (d :: srcs) then setCore s t (c.setGpr d (v c)).advance else s)

/-! ### Who a core is -/

/-- Reader key of the binding that a core's firing and its element ports share (R110). -/
def coreBinder (t : Tid) : Nat := t * 8

/-- The core stream of a tile acting for its firing's context. -/
def coreWho (t : Tid) (f : Firing) (key : Nat) : Who :=
  ⟨f.task.ctx, 0, t, key, some (coreBinder t), false, some t, false, false, none, none, false⟩

/-- Key of an access of a core stream, by its number (R45). -/
def coreKey (t : Tid) (id : Nat) : Nat := agentKey 0 (t + 4096 * id)

/-- Key of the accesses that a core's forms make themselves. -/
def syncKey (t : Tid) : Nat := agentKey 1 t

/-- Change the running firing of a core. -/
def Core.withFiring (c : Core) (g : Firing → Firing) : Core := { c with run := c.run.map g }

/-! ### Claims (R91, R92) -/

/-- Settle one claim: at retirement outputs become FULL and inputs with REL are emptied, otherwise CLAIM alone clears;
what is left of a FIFO reservation returns. A region no longer there takes no effect (R92, R209). -/
def settleClaim (s : State) (ctx : Nat) (retire : Bool) (x : Claim) : State :=
  let w := region s x.tid x.region
  if regMode w = 0 ∨ regCtx w ≠ ctx then s
  else if x.kind = 0 ∧ regMode w = 1 then
    if x.out then
      let w2 := withBits w.2 (16 + x.buf) (16 + x.buf) 0
      setRegion s x.tid x.region (w.1, if retire then withBits w2 (24 + x.buf) (24 + x.buf) 1 else w2)
    else if retire && x.rel then setRegion s x.tid x.region (w.1, withBits w.2 (24 + x.buf) (24 + x.buf) 0)
    else s
  else if x.kind = 1 ∧ regMode w = 2 then
    if x.out then setRegion s x.tid x.region (w.1, withBits w.2 47 33 (fifoPres w - x.count))
    else setRegion s x.tid x.region (w.1, withBits w.2 62 48 (fifoResv w - x.count))
  else s

/-- The order of R92: outputs, inputs with REL, FIFO reservations. -/
def claimOrder (cs : List Claim) : List Claim :=
  cs.filter (fun c => c.kind == 0 && c.out) ++ cs.filter (fun c => c.kind == 0 && !c.out) ++ cs.filter (fun c => c.kind == 1)

/-- Settle a task's claims (R92). -/
def settleClaims (s : State) (ctx : Nat) (retire : Bool) (cs : List Claim) : State :=
  (claimOrder cs).foldl (fun s c => settleClaim s ctx retire c) s

/-! ### Successors (R201, R203) -/

/-- The successor list from a VA: its entries before the terminating zero, at most 64 (R201); a read cause ends it. -/
def readSucc (s : State) (who : Who) : Nat → Word → Res (List Word) × State
  | 0, _ => (.ok [], s)
  | n + 1, va =>
    match readVA s who va 8 with
    | (.ok bs, s) =>
      let w : Word := BitVec.ofNat 64 (ofBytes bs)
      if w = 0 then (.ok [], s)
      else match readSucc s who n (va + 8) with
        | (.ok l, s) => (.ok (w :: l), s)
        | (x, s) => (x, s)
    | (.fault c, s) => (.fault c, s)
    | (.wait, s) => (.wait, s)

/-- Mask of list entries not yet signalled (R421). -/
def withheldMask (sent : Word) (n : Nat) : Word := BitVec.ofNat 64 (2 ^ n - 1) &&& ~~~sent

/-! ### The end of a firing -/

/-- A task leaves its launch: live count, and FAULTS where it ended faulted or killed (R204, R401). -/
def leaveLaunch (s : State) (f : TaskRec) (faulted : Bool) : State :=
  let s := updLaunch s f.launch (fun l =>
    { l with live := l.live - 1, faults := l.faults + (if faulted then 1 else 0) })
  if f.handler then setCtx s f.ctx { getCtx s f.ctx with handler := none } else s

/-- Keys under which a core's accesses are forwarded: its stream's and its forms' own. -/
def coreKeys (t : Tid) (c : Core) : List Nat := syncKey t :: c.unfin.map (fun a => coreKey t a.id)

/-- Withdraw a core's own requests: those in FIFO regions, its wait for answers from other modules, and what a form has read so far. -/
def dropCoreAsks (s : State) (t : Tid) : State :=
  let ks := coreKeys t (getCore s t)
  { s with
    tl := { s.tl with fifoReqs := s.tl.fifoReqs.map (fun e => (e.1, e.2.filter (fun r => match r.who with
      | .core t' _ => t' != t
      | _ => true))) }
    xl := { s.xl with fwdOut := s.xl.fwdOut.filter (fun f => !ks.contains f.key), torn := s.xl.torn.filter (fun x => x.1 != syncKey t) } }

/-- A store, reduction or atomic of a core's stream has gone to another module, and its answer is due: it can no longer be
cancelled (R45, R407). -/
def awaitsOwner (s : State) (t : Tid) (c : Core) : Bool :=
  c.unfin.any (fun a => s.xl.fwdOut.any (fun f => f.key == coreKey t a.id && !f.reads))

/-- An unfinished access has met a cause: the firing issues nothing further, and stops once the accesses before it are finished
(R255). -/
def hasFaulted (c : Core) : Bool :=
  c.unfin.any (fun a => match a.phase with
    | .faulted _ => true
    | _ => false)

/-- A waiting form whose effect has already left the core, and that R277 does not have issued again, cannot be taken back: the firing
is stopped once it has ended (log 100). -/
def midway (c : Core) : Bool :=
  match c.waiting with
  | .barr _ | .binit _ => true
  | _ => false

/-- End a core's firing as faulted (R411): claims settled as at a kill, successors withheld, STATE := 6 with the withheld
mask where there was no frame (R421), FAULTS counted and the cause offered to the launch. -/
def endFaulted (s : State) (t : Tid) (cause : Cause) (framed : Bool) : State :=
  let c := getCore s t
  match c.run with
  | none => s
  | some f =>
    let s := noteCause s f.task.launch cause
    let s := settleClaims s f.task.ctx false f.task.claims
    let s := unbind s f.task.ctx (coreBinder t)
    let (w7, s) : Option Word × State :=
      if framed || f.task.crva.isNone then (none, s)
      else if crSucc f.task.hdr = 0 then (some 0, s)
      else match readSucc s (Who.self f.task.ctx 6 t) 64 (crSucc f.task.hdr) with
        | (.ok l, s) => (some (withheldMask f.sent l.length), s)
        | (_, s) => (some 0, s)
    let s := writeState s f.task 6 w7 t
    let s := leaveLaunch (dropCoreAsks s t) f.task true
    setCore s t (getCore s t).stop

/-! ### Traps (R407 to R409) -/

/-- The result of a finished access: a load's value extended, an atomic's old value zero-extended (R263, R267). -/
def Access.result (a : Access) (v : Nat) : Word :=
  match a.kind with
  | .load true _ => sextN (BitVec.ofNat 64 v) (8 * a.size)
  | _ => BitVec.ofNat 64 v

/-- Write the results of the accesses that have been performed (R407: they finish, with their results delivered). -/
def deliverAll (c : Core) : List Access → Core
  | [] => c
  | a :: l =>
    match a.phase with
    | .performed v => deliverAll (if a.kind.writesGd then c.setGpr a.gd (a.result v) else c) l
    | _ => deliverAll c l

/-- The accesses not performed, which a trap cancels and puts into the replay queue (R407). -/
def cancelled (l : List Access) : List Access :=
  l.filter (fun a => match a.phase with
    | .performed _ => false
    | _ => true)

/-- A replay entry of a frame (R410). -/
def replayBytes (a : Access) : List Byte :=
  bytesOf 8 (2 ^ 63 + a.word.toNat) ++ bytesOf 8 a.va.toNat ++ bytesOf 8 a.data.toNat ++ bytesOf 8 a.cmp.toNat

/-- Pad bytes with zeros to a length. -/
def padTo (n : Nat) (bs : List Byte) : List Byte := bs ++ List.replicate (n - bs.length) 0

/-- The 1,024 bytes of a trap frame (R409). -/
def frameBytes (noins precise : Bool) (cause : Cause) (pc tval tinfo crva sent : Word) (sigs : List Word) (dtime : Nat)
    (regs : List Word) (replay : List Access) : List Byte :=
  let w0 := 2 ^ 63 + noins.toNat * 2 ^ 62 + precise.toNat * 2 ^ 61 + replay.length * 65536 + cause.toNat
  let head := bytesOf 8 w0 ++ bytesOf 8 pc.toNat ++ bytesOf 8 tval.toNat ++ bytesOf 8 tinfo.toNat ++ bytesOf 8 crva.toNat
    ++ bytesOf 8 sent.toNat ++ bytesOf 8 sigs.length ++ bytesOf 8 dtime
  let g := bytesOfWords (0 :: regs.drop 1)
  let rep := padTo 512 ((replay.map replayBytes).flatten)
  padTo 1024 (head ++ g ++ rep ++ bytesOfWords sigs)

/-- VA of a core's trap frame (R408). -/
def frameVA (tfbase : Word) (t : Tid) : Word := tfbase + BitVec.ofNat 64 (1024 * (32 * tileY t + tileX t / 2))

/-- Take an exception: the one operation by which a cause of a firing stops it (R407 to R409, R412). `pc` is the PC the
frame holds. In system state it is a double fault. Without a handler the firing ends as faulted. Accesses that are already on
their way at another module, and a form whose effect has left the core, finish first (R407). What is issued again from a replay queue
traps after issue, and the new frame holds it and the entries after it (R410). -/
def takeTrap (s : State) (t : Tid) (cause : Cause) (precise : Bool) (pc tval tinfo : Word) : State :=
  let c := getCore s t
  match c.run with
  | none => s
  | some f =>
    if c.sys then killContext (noteCause s f.task.launch cause) f.task.ctx Cause.dblfault false
    else if awaitsOwner s t c || midway c then s
    else
      let x := getCtx s f.task.ctx
      if x.tvec = 0 ∨ x.tfbase = 0 then endFaulted s t cause false
      else
        let s := noteCause s f.task.launch cause
        let c := deliverAll c c.unfin
        let rep := cancelled c.unfin ++ c.replay
        let va := frameVA x.tfbase t
        let bs := frameBytes f.task.noins (precise && c.replay.isEmpty) cause pc tval tinfo (f.task.crva.getD 0) f.sent f.task.sigs s.clk.dtime
          c.regs rep
        match writeVA s { coreWho t f (syncKey t) with force := true } va bs with
        | (.ok _, s) =>
          let c := (c.setGpr 1 va).setGpr 2 (BitVec.ofNat 64 cause.toNat)
          setCore (dropCoreAsks s t) t
            { c with pc := x.tvec, sys := true, frame := va, unfin := [], replay := [], waiting := .none, held := 0 }
        | (_, s) => killContext s f.task.ctx Cause.dblfault false

/-- A precise trap at the current word (R255). -/
def trapHere (s : State) (t : Tid) (cause : Cause) (tval : Word) : State :=
  takeTrap s t cause true (getCore s t).pc tval 0

/-- A precise trap whose TVAL R409 leaves open: a free value (log 12). -/
def trapOpen (s : State) (t : Tid) (cause : Cause) : State :=
  trapHere { s with free := s.free + 1 } t cause (Sys2Proof.Config.openWord s.free)

/-- A soft refusal: no effect, TSERR set, and the handler continues (R412). -/
def softRefuse (s : State) (t : Tid) (cause : Cause) : State :=
  let c := getCore s t
  match c.run with
  | none => s
  | some f =>
    let x := getCtx s f.task.ctx
    setCore (setCtx s f.task.ctx { x with tserr := BitVec.ofNat 64 (2 ^ 63 + cause.toNat) }) t c.advance

/-- A form that needs system state: PRIV in user state (R276). -/
def needSys (s : State) (t : Tid) (c : Core) (k : State) : State := if c.sys then k else trapOpen s t Cause.priv

/-! ### Purity (R419) -/

/-- Take PURITY: NOINS is set for the firing's life (R419). -/
def trapPurity (s : State) (t : Tid) : State :=
  let c := getCore s t
  trapOpen (setCore s t (c.withFiring (fun f => { f with task := { f.task with noins := true } }))) t Cause.purity

/-- A form that a pure firing may not run (R419); its handler, in system state, may. -/
def notPure (s : State) (t : Tid) (c : Core) (f : Firing) (k : State) : State :=
  if crPure f.task.hdr && !c.sys then trapPurity s t else k

/-- A tile descriptor's two words (R89). -/
def tileDescOf (w0 w1 : Word) : TileDesc :=
  ⟨bitOf w0 63, bitOf w0 62, bitOf w0 61, bitsOf w0 60 59, vaSext (bitsOf w0 56 0), bitsOf w1 63 32, bitsOf w1 14 0,
    !zeroBits w0 58 57 || !zeroBits w1 31 15⟩

/-- The end of a list breaks R90: a reserved bit, LEN, COUNT or REL is set, or D on an output. -/
def endTileBad (d : TileDesc) : Bool := d.reserved || d.len != 0 || d.count != 0 || d.rel || (d.d && d.out)

/-- The tile list: descriptors before the first of KIND 3; none where a 17th is not KIND 3, or the end breaks R90 (R89, R90). -/
def readTiles (s : State) (who : Who) : Nat → Word → Res (Option (List TileDesc)) × State
  | 0, va =>
    match readVA s who va 16 with
    | (.ok bs, s) =>
      let w := wordsOf 2 bs
      let d := tileDescOf (nth 0 w 0) (nth 0 w 1)
      (.ok (if d.kind = 3 ∧ endTileBad d = false then some [] else none), s)
    | (.fault c, s) => (.fault c, s)
    | (.wait, s) => (.wait, s)
  | n + 1, va =>
    match readVA s who va 16 with
    | (.ok bs, s) =>
      let w := wordsOf 2 bs
      let d := tileDescOf (nth 0 w 0) (nth 0 w 1)
      if d.kind = 3 then (.ok (if endTileBad d then none else some []), s)
      else match readTiles s who n (va + 16) with
        | (.ok (some l), s) => (.ok (some (d :: l)), s)
        | (x, s) => (x, s)
    | (.fault c, s) => (.fault c, s)
    | (.wait, s) => (.wait, s)

/-- Bytes a descriptor covers: a buffer of an operand store, or a range (R89, R419); a FIFO covers its region's bytes. -/
def descBytes (s : State) (who : Who) (d : TileDesc) : Nat :=
  if d.kind = 2 then d.len
  else match translate s who d.va .read with
    | .error _ => 0
    | .ok r =>
      if !inWindow r.1 then 0
      else match regionAt s (windowTid r.1) (r.1 % 2 ^ 20) with
        | none => 0
        | some k =>
          let w := region s (windowTid r.1) k
          if regMode w = 1 then regLen w / (bitsOf w.2 2 0 + 1) * 64 else regLen w * 64

/-- Every byte of an access lies in one descriptor (R419): an output for a store. -/
def declared (s : State) (who : Who) (ds : List TileDesc) (va : Word) (n : Nat) (write : Bool) : Bool :=
  ds.any (fun d => (!write || d.out) && d.va.toNat ≤ va.toNat && va.toNat + n ≤ d.va.toNat + descBytes s who d)

/-- A pure firing's access is one that R419 allows, once its tile list is read; any other firing's is. -/
def pureAllows (s : State) (c : Core) (f : Firing) (who : Who) (va : Word) (n : Nat) (write : Bool) : Res Bool × State :=
  if !crPure f.task.hdr || c.sys then (.ok true, s)
  else if f.tiles = 0 then (.ok false, s)
  else match readTiles s who 16 f.tiles with
    | (.ok (some ds), s) => (.ok (declared s who ds va n write), s)
    | (.wait, s) => (.wait, s)
    | (_, s) => (.ok false, s)

/-! ### Core-stream accesses -/

/-- The access writes (R97): a store, an atomic, a reduction. -/
def Access.writes (a : Access) : Bool :=
  match a.kind with
  | .load _ _ | .form => false
  | _ => true

/-- Performed at pkg scope (R95). -/
def Access.donePkg (a : Access) : Bool :=
  match a.phase with
  | .performed _ | .forwarded _ => true
  | _ => false

/-- Performed at pod scope (R95). -/
def Access.donePod (a : Access) : Bool :=
  match a.phase with
  | .performed _ => true
  | _ => false

/-- Two parts share a byte. -/
def partsMeet (p q : List (Nat × Nat × Nat)) : Bool :=
  p.any (fun a => q.any (fun b => a.1 < b.1 + b.2.1 && b.1 < a.1 + a.2.1))

/-- An invariant load of a range with PI: no endpoint of R97's order (R108). -/
def Access.isInv (a : Access) : Bool :=
  match a.kind with
  | .load _ inv => inv
  | _ => false

/-- An earlier and a later access of one stream kept in order (R97, R103, R108). -/
def keptPair (b a : Access) : Bool :=
  b.acq || (!b.isInv && !a.isInv && ((b.writes && a.writes) || partsMeet b.parts a.parts))

/-- The access may be performed now: every earlier one it is kept behind has been (R97). -/
def mayPerform : List Access → Access → Bool
  | [], _ => true
  | b :: l, a => if b.id = a.id then true else (b.donePkg || !keptPair b a) && mayPerform l a

/-- Every earlier access of the core stream is performed at pkg scope. -/
def Core.allPkg (c : Core) : Bool := c.unfin.all Access.donePkg

/-- Every earlier access of the core stream is performed at pod scope. -/
def Core.allPod (c : Core) : Bool := c.unfin.all Access.donePod

/-- Every earlier acquiring load is performed: the stream may start and signal things (R103). -/
def Core.acqDone (c : Core) : Bool := c.unfin.all (fun a => !a.acq || a.donePkg)

/-- A form that reads n bytes for its core stream may do so now: the earlier accesses that it is kept behind are performed (R97,
R103). -/
def formReads (s : State) (c : Core) (who : Who) (va : Word) (n : Nat) : Bool :=
  let ps := (vaParts s who .read (blocksOf va n)).1.map (fun p => (p.ia, p.len, p.cls))
  c.unfin.all (fun b => b.donePkg || !(b.acq || (!b.isInv && partsMeet b.parts ps)))

/-- The pieces in which an access is performed: whole where it is naturally aligned, else byte by byte (R96, R264). -/
def accPieces (va : Word) (n : Nat) : List (Word × Nat) :=
  if va.toNat % n = 0 then [(va, n)] else (List.range n).map (fun i => (va + BitVec.ofNat 64 i, 1))

/-- The order in which parts are performed is open where there are several (R96): a free choice says which is next. -/
def chooseNext (s : State) (l : List Nat) : List Nat × State :=
  if l.length ≤ 1 then (l, s)
  else
    let i := nth 0 l (Sys2Proof.Config.freeChoice s.free % l.length)
    (i :: l.filter (· != i), { s with free := s.free + 1 })

/-- Translate the pieces of an access, in order (R29, R264). -/
def translateParts (s : State) (who : Who) (k : AKind) : List (Word × Nat) → Except Cause (List (Nat × Nat × Nat))
  | [] => .ok []
  | (va, n) :: ps =>
    match translate s who va k with
    | .error c => .error c
    | .ok r =>
      match translateParts s who k ps with
      | .error c => .error c
      | .ok l => .ok ((r.1, n, r.2) :: l)

/-- The permission an access of a core stream needs (R32). -/
def AccKind.perm : AccKind → AKind
  | .load _ true => .inv
  | .load _ false | .form => .read
  | .store | .red _ => .write
  | .atomic _ | .jcnt => .atomic

/-- The access with its invariant flag in effect only where the range has PI (R32, R108). -/
def AccKind.inRange (s : State) (who : Who) (va : Word) : AccKind → AccKind
  | .load sg inv => .load sg (inv && hasPI s who va)
  | k => k

/-- Put an access into the core stream (R253). -/
def Core.issue (c : Core) (a : Access) : Core := { c with unfin := c.unfin ++ [a], nextId := c.nextId + 1 }

/-- What the sequencer finds at the issue of an access that needs natural alignment or not: the cause of its range check, a
misaligned access's before a window's, then alignment (R255, R263, R264, R267). -/
def issueCause (s : State) (who : Who) (va : Word) (n : Nat) (k : AKind) (aligned : Bool) : Except Cause (Nat × Nat) :=
  match checkIssue s who va n k with
  | .error e => .error (if e = Cause.window ∧ aligned = true ∧ va.toNat % n ≠ 0 then Cause.align else e)
  | .ok r => if aligned && va.toNat % n != 0 then .error Cause.align else .ok r

/-- Issue an access whose checks have passed, or trap with what they say (R255, R263, R264, R267): range checks first,
then alignment where the form needs it, the tile of a window address (R35), then purity; the memory tile finds an atomic or reduction at a FIFO (R93, R255). -/
def issueAccess (s : State) (t : Tid) (c : Core) (f : Firing) (word : BitVec 32) (kind : AccKind) (n : Nat) (gd : Reg)
    (va data cmp : Word) (acq rel aligned : Bool) : State :=
  let who := coreWho t f (syncKey t)
  match issueCause s who va n kind.perm aligned with
  | .error e => trapHere s t e va
  | .ok r =>
    if 16 ≤ c.unfin.length then s
    else if rel && !c.allPod then s
    else match pureAllows s c f who va n (match kind with | .load _ _ => false | _ => true) with
      | (.wait, s) => s
      | (.ok true, s) =>
        let s := bindRead s who va
        let parts := match translateParts s who kind.perm (accPieces va n) with
          | .ok l => l
          | .error _ => [(r.1, n, r.2)]
        match chooseNext s (List.range parts.length) with
        | (left, s) =>
          setCore s t (c.issue ⟨c.nextId, word, kind.inRange s who va, n, gd, va, data, cmp, acq, parts, .sent, left, [], []⟩).advance
      | (_, s) => trapPurity s t

/-- Update an access of a core stream. -/
def Core.setPhase (c : Core) (id : Nat) (p : AccPhase) : Core :=
  { c with unfin := c.unfin.map (fun a => if a.id = id then { a with phase := p } else a) }

/-- Find an access of a core stream. -/
def Core.findAcc (c : Core) (id : Nat) : Option Access := c.unfin.find? (fun a => a.id == id)

/-- Replace an access of a core stream by its number. -/
def Core.putAcc (c : Core) (a : Access) : Core := { c with unfin := c.unfin.map (fun b => if b.id = a.id then a else b) }

/-- The part of an access that is performed next, or that has met a cause. -/
def Access.part (a : Access) : Nat × Nat × Nat := nth (0, 0, 0) a.parts (nth 0 a.left 0)

/-- IA of that part. -/
def Access.ia (a : Access) : Nat := a.part.1

/-! ### Atomics (R267, R270, R271) -/

/-- The new value of an atomic or reduction on n-byte values, with the event classes it raises. Functions 0 to 11 are those
of ATOM (R232); 16 to 19 are RED's FADD32, FADD16, FMAX32 and FMIN32. -/
def combine (fn n old b cmp : Nat) : Nat × List Nat :=
  let w := 8 * n
  let so := intOfBits w true old
  let sb := intOfBits w true b
  let fadd (f : Fmt) : Nat × List Nat :=
    let r := addV (f.decode old) (f.decode b)
    let q := roundTo r.1 f .rn false 0
    (f.encode q.val, r.2 ++ q.events)
  match fn with
  | 0 => ((old + b) % 2 ^ w, [])
  | 1 => (old &&& b, [])
  | 2 => (old ||| b, [])
  | 3 => (old ^^^ b, [])
  | 4 => (if sb < so then b else old, [])
  | 5 => (if so < sb then b else old, [])
  | 6 => (min old b, [])
  | 7 => (max old b, [])
  | 8 => (b, [])
  | 9 => (if old = cmp then b else old, [])
  | 10 | 16 => fadd fmt32
  | 11 | 17 => fadd fmt16
  | 18 => let r := fmaxV true (fmt32.decode old) (fmt32.decode b); (fmt32.encode r.1, r.2)
  | 19 => let r := fmaxV false (fmt32.decode old) (fmt32.decode b); (fmt32.encode r.1, r.2)
  | _ => (old, [])

/-- JCNT's change of a CR's word 4 (R284): the new word. -/
def jcntNew (old : Nat) (adj : Word) : Nat :=
  let j := old % 2 ^ 24
  let new : Int := Int.ofNat j + adj.toInt
  if 1 ≤ j ∧ 1 ≤ new ∧ new ≤ 2 ^ 24 - 1 then old - j + new.toNat else old

/-- JCNT's result (R284): the old JOIN, with bit 63 set where it was refused. -/
def jcntResult (old : Nat) (adj : Word) : Nat :=
  let j := old % 2 ^ 24
  let new : Int := Int.ofNat j + adj.toInt
  if 1 ≤ j ∧ 1 ≤ new ∧ new ≤ 2 ^ 24 - 1 then j else j + 2 ^ 63

/-- Function number, operand and comparand of an atomic or reduction. -/
def Access.what (a : Access) : List Nat :=
  let fn := match a.kind with | .red fn => (if 8 ≤ fn then fn + 8 else fn) | .atomic fn => fn | _ => 32
  [fn, a.data.toNat % 2 ^ (8 * a.size), a.cmp.toNat % 2 ^ (8 * a.size)]

/-- The agent that performs an access of a core stream; an invariant load in effect may return earlier values (R108). -/
def Access.who (s : State) (t : Tid) (f : Firing) (a : Access) : Who :=
  let who := coreWho t f (coreKey t a.id)
  if a.isInv then { who with inv := beganOf s f.task.launch } else who

/-- The bytes a store carries for part `i`, which covers n bytes. -/
def Access.bytesAt (a : Access) (i n : Nat) : List (Option Byte) := allSome (((bytesOf a.size a.data.toNat).drop i).take n)

/-- An access in parts reaches past the token of a FIFO region of a tile that answers: no part of it is performed (R76; log
119). -/
def pastToken (s : State) (a : Access) : Bool :=
  decide (1 < a.parts.length) && a.parts.any (fun p =>
    let t := windowTid p.1
    inWindow p.1 && !bitOf (mtstat s t) 22 && (match regionAt s t (p.1 % 2 ^ 20) with
      | some r => decide (regMode (region s t r) = 2 ∧ regBase (region s t r) + 64 ≤ p.1 % 2 ^ 20)
      | none => false))

/-- Perform the next part of an access at its point of coherence (R95): the bytes it read. -/
def performAcc (s : State) (t : Tid) (f : Firing) (a : Access) : Res (List Byte) × State :=
  match a.part with
  | (ia, n, cls) =>
    if pastToken s a then (.fault Cause.region, s)
    else match a.kind with
    | .load _ _ => iaAccess s (a.who s t f) ia cls (.read n)
    | .store => iaAccess s (a.who s t f) ia cls (.write (a.bytesAt (nth 0 a.left 0) n))
    | .jcnt => iaPerform s (a.who s t f) ia cls (.rmw n false a.what (fun old => bytesOf 8 (jcntNew (ofBytes old) a.data)))
    | .red _ => iaPerform s (a.who s t f) ia cls
        (.rmw n true a.what (fun old => bytesOf a.size (combine (nth 0 a.what 0) a.size (ofBytes old) (nth 0 a.what 1) 0).1))
    | .form => (.wait, s)
    | .atomic fn => iaPerform s (a.who s t f) ia cls
        (.rmw n false a.what (fun old => bytesOf a.size (combine fn a.size (ofBytes old) (nth 0 a.what 1) (nth 0 a.what 2)).1))

/-- The numeric events of an atomic or reduction on the old bytes are charged to the issuing context (R107, R268). -/
def chargeAcc (s : State) (t : Tid) (f : Firing) (a : Access) (old : List Byte) : State :=
  match a.kind with
  | .atomic _ | .red _ => countEvents s f.task.ctx t
      (combine (nth 0 a.what 0) a.size (ofBytes old) (nth 0 a.what 1) (nth 0 a.what 2)).2
  | _ => s

/-- The value of an access all of whose parts are performed: the bytes its parts read, little-endian (R263); JCNT's is R284's. -/
def Access.value (a : Access) : Nat :=
  let v := ofBytes ((List.range a.parts.length).flatMap (fun i => a.got.getD i []))
  match a.kind with
  | .jcnt => jcntResult v a.data
  | _ => v

/-- Watchpoints see a store once, with the parts of it that are written (R420). -/
def watchStore (s : State) (t : Tid) (f : Firing) (a : Access) : State :=
  match a.kind with
  | .store => watchCheck s (a.who s t f) (((List.range a.parts.length).filter (fun i => (a.got.get? i).isSome)).map (fun i =>
      let p := nth (0, 0, 0) a.parts i
      (p.1, a.bytesAt i p.2.1)))
  | _ => s

/-- Perform the next part of an access and record how it went (R95, R255, R264). A store or reduction that was handed to
another module is at pkg scope until its owner has answered. -/
def performStep (s : State) (t : Tid) (f : Firing) (a : Access) : State :=
  let i := nth 0 a.left 0
  match performAcc s t f a with
  | (.wait, s) => s
  | (.fault c, s) =>
    let s := watchStore s t f a
    setCore s t ((getCore s t).setPhase a.id (.faulted c))
  | (.ok bs, s) =>
    let far := a.writes && (findOut s (coreKey t a.id) a.ia).isSome
    match chooseNext (if far then s else chargeAcc s t f a bs) (a.left.drop 1) with
    | (left, s) =>
      let a := { a with left := left, got := a.got.set i bs, far := if far then a.far ++ [i] else a.far }
      if left.isEmpty then
        let a := { a with phase := if a.far.isEmpty then .performed a.value else .forwarded a.value }
        let s := watchStore s t f a
        setCore s t ((getCore s t).putAcc a)
      else setCore s t ((getCore s t).putAcc { a with phase := .sent })

/-! ### Returning (R410) -/

/-- The access that a replay entry stands for: kind, size, gd, acquire, natural alignment (R264, R267, R410). -/
def accShape (i : Instr) : Option (AccKind × Nat × Reg × Bool × Bool) :=
  match i with
  | .ld d _ s _ => some (.load s.isSigned false, s.bytes, d, false, false)
  | .ldInv d _ s _ => some (.load s.isSigned true, s.bytes, d, false, false)
  | .ldAcq d _ s _ => some (.load s.isSigned false, s.bytes, d, true, true)
  | .st _ _ s _ => some (.store, s.bytes, 0, false, false)
  | .stRel _ _ s _ => some (.store, s.bytes, 0, false, true)
  | .atomAdd _ _ d s => some (.atomic 0, s.bytes, d, false, true)
  | .atomAnd _ _ d s => some (.atomic 1, s.bytes, d, false, true)
  | .atomOr _ _ d s => some (.atomic 2, s.bytes, d, false, true)
  | .atomXor _ _ d s => some (.atomic 3, s.bytes, d, false, true)
  | .atomMin _ _ d s => some (.atomic 4, s.bytes, d, false, true)
  | .atomMax _ _ d s => some (.atomic 5, s.bytes, d, false, true)
  | .atomMinu _ _ d s => some (.atomic 6, s.bytes, d, false, true)
  | .atomMaxu _ _ d s => some (.atomic 7, s.bytes, d, false, true)
  | .atomSwap _ _ d s => some (.atomic 8, s.bytes, d, false, true)
  | .atomCas _ _ d s => some (.atomic 9, s.bytes, d, false, true)
  | .atomFadd32 _ _ d => some (.atomic 10, 4, d, false, true)
  | .atomFadd16 _ _ d => some (.atomic 11, 2, d, false, true)
  | .redAdd _ _ s => some (.red 0, s.bytes, 0, false, true)
  | .redAnd _ _ s => some (.red 1, s.bytes, 0, false, true)
  | .redOr _ _ s => some (.red 2, s.bytes, 0, false, true)
  | .redXor _ _ s => some (.red 3, s.bytes, 0, false, true)
  | .redMin _ _ s => some (.red 4, s.bytes, 0, false, true)
  | .redMax _ _ s => some (.red 5, s.bytes, 0, false, true)
  | .redMinu _ _ s => some (.red 6, s.bytes, 0, false, true)
  | .redMaxu _ _ s => some (.red 7, s.bytes, 0, false, true)
  | .redFadd32 _ _ => some (.red 8, 4, 0, false, true)
  | .redFadd16 _ _ => some (.red 9, 2, 0, false, true)
  | .redFmax32 _ _ => some (.red 10, 4, 0, false, true)
  | .redFmin32 _ _ => some (.red 11, 4, 0, false, true)
  | .jcnt _ _ d => some (.jcnt, 8, d, false, true)
  | _ => none

/-- The word is a form whose after-issue faults put it into the replay queue whole (R255, R410; log 14). -/
def isForm (i : Instr) : Bool :=
  match i with
  | .spawn _ | .sigeEntry _ | .amsg _ _ | .amsgw _ | .gprobe _ _ | .ginv _ _ | .cfge _ _ | .cfgs _ _ | .cfgo _ _ | .cfgk _ _
  | .arm _ _ _ => true
  | _ => false

/-- A form as an entry of the replay queue: its word and captured operands (R410). -/
def formEntry (id : Nat) (w : BitVec 32) (va data : Word) : Access :=
  ⟨id, w, .form, 0, 0, va, data, 0, false, [], .sent, [], [], []⟩

/-- Reissue one replay entry: checked and translated anew; a cause found now is an after-issue fault (R410). -/
def replayAccess (s : State) (t : Tid) (f : Firing) (id : Nat) (w0 va data cmp : Word) : Option Access :=
  if !bitOf w0 63 then none
  else match decodeSeq (BitVec.ofNat 32 w0.toNat) with
    | .error _ => none
    | .ok i =>
      match accShape i with
      | none => if isForm i then some (formEntry id (BitVec.ofNat 32 w0.toNat) va data) else none
      | some (k, n, d, acq, aligned) =>
        let who := coreWho t f (syncKey t)
        match issueCause s who va n k.perm aligned with
        | .error c => some ⟨id, BitVec.ofNat 32 w0.toNat, k, n, d, va, data, cmp, acq, [], .faulted c, [], [], []⟩
        | .ok r =>
          let parts := match translateParts s who k.perm (accPieces va n) with
            | .ok l => l
            | .error _ => [(r.1, n, r.2)]
          some ⟨id, BitVec.ofNat 32 w0.toNat, k.inRange s who va, n, d, va, data, cmp, acq, parts, .sent,
            List.range parts.length, [], []⟩

/-- The replay entries of a frame, in order (R410). -/
def replayList (s : State) (t : Tid) (f : Firing) (words : List Word) : Nat → Nat → List Access
  | 0, _ => []
  | n + 1, id =>
    let r := words.take 4
    match replayAccess s t f id (nth 0 r 0) (nth 0 r 1) (nth 0 r 2) (nth 0 r 3) with
    | some a => a :: replayList s t f (words.drop 4) n (id + 1)
    | none => replayList s t f (words.drop 4) n (id + 1)

/-- Purity of the accesses that are issued again (R410, R419): one that a pure firing may not make is faulted with PURITY. -/
def pureReplay (s : State) (c : Core) (f : Firing) (who : Who) : List Access → Res (List Access) × State
  | [] => (.ok [], s)
  | a :: l =>
    let ok : Res Bool × State := match a.kind, a.phase with
      | .form, _ | _, .faulted _ => (.ok true, s)
      | .load _ _, _ | .store, _ => pureAllows s { c with sys := false } f who a.va a.size a.writes
      | _, _ => (.ok (!crPure f.task.hdr), s)
    match ok with
    | (.wait, s) => (.wait, s)
    | (x, s) => match pureReplay s c f who l with
      | (.ok l, s) => (.ok ((if x = .ok true then a else { a with phase := .faulted Cause.purity }) :: l), s)
      | y => y

/-- An access has met PURITY. -/
def Access.impure (a : Access) : Bool :=
  match a.phase with
  | .faulted c => c == Cause.purity
  | _ => false

/-- Return from system state through the frame (R410); without a valid frame a soft refusal (R412). The handler's own
accesses finish first. -/
def returnFromTrap (s : State) (t : Tid) (c : Core) (f : Firing) : State :=
  if !c.unfin.isEmpty then s
  else if c.frame = 0 then softRefuse s t Cause.trapcfg
  else
    let who := { coreWho t f (syncKey t) with force := true }
    match readVA s who c.frame 1024 with
    | (.ok bs, s) =>
      let w := wordsOf 128 bs
      if !bitOf (nth 0 w 0) 63 then softRefuse s t Cause.trapcfg
      else
        let rep := replayList s t f (w.drop 40) (min 16 (bitsOf (nth 0 w 0) 20 16)) c.nextId
        match pureReplay s c f { who with force := false } rep with
        | (.wait, s) => s
        | (.fault _, s) => s
        | (.ok rep, s) =>
          match writeVA s who c.frame (bytesOf 8 ((nth 0 w 0).toNat % 2 ^ 63)) with
          | (.ok _, s) =>
            let regs := 0 :: (w.drop 9).take 31
            let f' (f : Firing) : Firing := { f with task := { f.task with noins := f.task.noins || rep.any Access.impure } }
            setCore s t { (getCore s t).withFiring f' with
              regs := regs, pc := nth 0 w 1, sys := false, unfin := (splitForm rep).1, replay := (splitForm rep).2,
              staged := [], nextId := c.nextId + 16 }
          | (_, s) => killContext s f.task.ctx Cause.dblfault false
    | (.fault e, s) => killContext (noteCause s f.task.launch e) f.task.ctx Cause.dblfault false
    | (.wait, s) => s

end Sys2Proof.Machine
end

