-- ==== Sys2Proof/Machine/SeqMemory.lean ====
section
/-! DEFINITION. Loads and stores (R262 to R265), atomics (R266 to R269), merged reductions (R270, R271), FENCE and SBAR
(R101, R102, R272, R273), the events that carry an access to its point of coherence and back (R35, R36, R40, R62, R253),
and the sequencer's own faults (R235, R254, R255, R407). -/
namespace Sys2Proof.Machine

/-! ### Loads and stores -/

/-- A load: issued once its address is known and no earlier result is due in gd (R253, R263). -/
def loadForm (s : State) (i : Instr) (d a : Reg) (z : MSize) (o : BitVec 13) (inv acq : Bool) : Out :=
  onCore s (fun t c f =>
    if c.ready [d, a] then
      issueAccess s t c f (encode i) (.load z.isSigned inv) z.bytes d (vaM (c.gpr a) o) 0 0 acq false acq
    else s)

/-- A store: issued once address and value are known (R253, R263, R264). -/
def storeForm (s : State) (i : Instr) (d a : Reg) (z : MSize) (o : BitVec 13) (rel : Bool) : Out :=
  onCore s (fun t c f =>
    if c.ready [d, a] then
      issueAccess s t c f (encode i) .store z.bytes 0 (vaM (c.gpr a) o) (c.gpr d) 0 false rel rel
    else s)

/-- LD (R263). -/
def execLd (d a : Reg) (z : MSize) (o : BitVec 13) (s : State) : Out := loadForm s (.ld d a z o) d a z o false false

/-- ST (R263). -/
def execSt (d a : Reg) (z : MSize) (o : BitVec 13) (s : State) : Out := storeForm s (.st d a z o) d a z o false

/-- LD.ACQ: naturally aligned, acquire at pod scope (R103, R264). -/
def execLdAcq (d a : Reg) (z : MSize) (o : BitVec 13) (s : State) : Out := loadForm s (.ldAcq d a z o) d a z o false true

/-- ST.REL: naturally aligned, waits at issue for the earlier accesses at pod scope (R103, R264). -/
def execStRel (d a : Reg) (z : MSize) (o : BitVec 13) (s : State) : Out := storeForm s (.stRel d a z o) d a z o true

/-- LD.INV: an ordinary load where the range lacks PI; else each byte is any it has held since the launch began (R32, R108;
log 13). -/
def execLdInv (d a : Reg) (z : MSize) (o : BitVec 13) (s : State) : Out := loadForm s (.ldInv d a z o) d a z o true false

/-! ### Atomics and reductions -/

/-- An atomic (R267): gd is read at issue as the comparand and receives the old value. -/
def atomForm (s : State) (i : Instr) (fn : Nat) (a b d : Reg) (n : Nat) : Out :=
  onCore s (fun t c f =>
    if c.ready [a, b, d] then
      notPure s t c f (issueAccess s t c f (encode i) (.atomic fn) n d (c.gpr a) (c.gpr b) (c.gpr d) false false true)
    else s)

/-- A merged reduction (R270). -/
def redForm (s : State) (i : Instr) (fn : Nat) (a b : Reg) (n : Nat) : Out :=
  onCore s (fun t c f =>
    if c.ready [a, b] then
      notPure s t c f (issueAccess s t c f (encode i) (.red fn) n 0 (c.gpr a) (c.gpr b) 0 false false true)
    else s)

/-- ATOM.ADD (R267). -/
def execAtomAdd (a b d : Reg) (z : ASize) (s : State) : Out := atomForm s (.atomAdd a b d z) 0 a b d z.bytes

/-- ATOM.AND (R267). -/
def execAtomAnd (a b d : Reg) (z : ASize) (s : State) : Out := atomForm s (.atomAnd a b d z) 1 a b d z.bytes

/-- ATOM.OR (R267). -/
def execAtomOr (a b d : Reg) (z : ASize) (s : State) : Out := atomForm s (.atomOr a b d z) 2 a b d z.bytes

/-- ATOM.XOR (R267). -/
def execAtomXor (a b d : Reg) (z : ASize) (s : State) : Out := atomForm s (.atomXor a b d z) 3 a b d z.bytes

/-- ATOM.MIN (R267). -/
def execAtomMin (a b d : Reg) (z : ASize) (s : State) : Out := atomForm s (.atomMin a b d z) 4 a b d z.bytes

/-- ATOM.MAX (R267). -/
def execAtomMax (a b d : Reg) (z : ASize) (s : State) : Out := atomForm s (.atomMax a b d z) 5 a b d z.bytes

/-- ATOM.MINU (R267). -/
def execAtomMinu (a b d : Reg) (z : ASize) (s : State) : Out := atomForm s (.atomMinu a b d z) 6 a b d z.bytes

/-- ATOM.MAXU (R267). -/
def execAtomMaxu (a b d : Reg) (z : ASize) (s : State) : Out := atomForm s (.atomMaxu a b d z) 7 a b d z.bytes

/-- ATOM.SWAP (R267). -/
def execAtomSwap (a b d : Reg) (z : ASize) (s : State) : Out := atomForm s (.atomSwap a b d z) 8 a b d z.bytes

/-- ATOM.CAS (R267). -/
def execAtomCas (a b d : Reg) (z : ASize) (s : State) : Out := atomForm s (.atomCas a b d z) 9 a b d z.bytes

/-- ATOM.FADD32 (R267, R268). -/
def execAtomFadd32 (a b d : Reg) (s : State) : Out := atomForm s (.atomFadd32 a b d) 10 a b d 4

/-- ATOM.FADD16 (R267, R268). -/
def execAtomFadd16 (a b d : Reg) (s : State) : Out := atomForm s (.atomFadd16 a b d) 11 a b d 2

/-- RED.ADD (R270). -/
def execRedAdd (a b : Reg) (z : ASize) (s : State) : Out := redForm s (.redAdd a b z) 0 a b z.bytes

/-- RED.AND (R270). -/
def execRedAnd (a b : Reg) (z : ASize) (s : State) : Out := redForm s (.redAnd a b z) 1 a b z.bytes

/-- RED.OR (R270). -/
def execRedOr (a b : Reg) (z : ASize) (s : State) : Out := redForm s (.redOr a b z) 2 a b z.bytes

/-- RED.XOR (R270). -/
def execRedXor (a b : Reg) (z : ASize) (s : State) : Out := redForm s (.redXor a b z) 3 a b z.bytes

/-- RED.MIN (R270). -/
def execRedMin (a b : Reg) (z : ASize) (s : State) : Out := redForm s (.redMin a b z) 4 a b z.bytes

/-- RED.MAX (R270). -/
def execRedMax (a b : Reg) (z : ASize) (s : State) : Out := redForm s (.redMax a b z) 5 a b z.bytes

/-- RED.MINU (R270). -/
def execRedMinu (a b : Reg) (z : ASize) (s : State) : Out := redForm s (.redMinu a b z) 6 a b z.bytes

/-- RED.MAXU (R270). -/
def execRedMaxu (a b : Reg) (z : ASize) (s : State) : Out := redForm s (.redMaxu a b z) 7 a b z.bytes

/-- RED.FADD32 (R270). -/
def execRedFadd32 (a b : Reg) (s : State) : Out := redForm s (.redFadd32 a b) 8 a b 4

/-- RED.FADD16 (R270). -/
def execRedFadd16 (a b : Reg) (s : State) : Out := redForm s (.redFadd16 a b) 9 a b 2

/-- RED.FMAX32 (R270, R271). -/
def execRedFmax32 (a b : Reg) (s : State) : Out := redForm s (.redFmax32 a b) 10 a b 4

/-- RED.FMIN32 (R270, R271). -/
def execRedFmin32 (a b : Reg) (s : State) : Out := redForm s (.redFmin32 a b) 11 a b 4

/-! ### FENCE and SBAR -/

/-- FENCE: lane scope completes at once; core to pkg wait until every earlier access of the core stream is performed at
pkg scope, pod until at pod scope (R102, R272). -/
def execFence (sc : Scope) (s : State) : Out :=
  onCore s (fun t c _ =>
    let done := match sc with
      | .lane => true
      | .core | .quad | .die | .pkg => c.allPkg
      | .pod => c.allPod
    if done then setCore s t c.advance else s)

/-- The word of an operation that goes through an element port (R340, R370). -/
def portWord (w : BitVec 32) : Bool :=
  (0x60 ≤ w.toNat / 16777216 && w.toNat / 16777216 ≤ 0x65) || w.toNat / 16777216 == 0x75

/-- Element port operations of a core in a direction that are fired and not complete, those that a fault holds among them (R94,
R101). -/
def portBusy (s : State) (t : Tid) (d : Nat) : Bool :=
  s.fab.slots.any (fun e => e.1 / 64 == t && (!e.2.ops.isEmpty || (e.2.held.isSome && portWord e.2.word))
    && e.2.word.toNat / 4194304 % 4 == d)

/-- Generators that a firing started, or that run in a section it armed (R101). -/
def firingGens (s : State) (f : Firing) : List (Nat × Gen) :=
  s.fab.gens.filter (fun e => match e.2.run with
    | some r => f.gens.contains e.1 || (match r.sect with | some k => f.secs.contains k | none => false)
    | none => false)

/-- Generator `k` (4 times its tile, and its number there) has accesses issued and not performed: lines asked for or merged, a
push or pop, or an access that a fault holds. -/
def genBusy (s : State) (k : Nat) (g : Gen) : Bool :=
  match g.run with
  | some r => !r.inflight.isEmpty || !r.merge.isEmpty || r.held.isSome
      || s.tl.fifoReqs.any (fun e => e.2.any (fun q => q.who == .gen (k / 4) (k % 4)))
  | none => false

/-- Every engine command that a task sent has drained (R101, R203). -/
def engDrained (s : State) (uids : List Nat) : Bool :=
  !(s.eng.inbox.any (fun e => e.2.any (fun c => uids.contains c.uid && c.state != .ended)))
    && !(s.fab.msgs.any (fun m => uids.contains m.uid))
    && !(uids.any (fun u => s.eng.remote.contains u))
    && !(s.saved.any (fun x => x.cmds.any (fun c => uids.contains c.uid)))

/-- Every access issued by the streams that an SBAR mask names is performed (R101). -/
def sbarDone (s : State) (t : Tid) (c : Core) (f : Firing) (m : Word) : Bool :=
  c.allPkg
    && (List.range 4).all (fun d => !bitOf m d || !portBusy s t d)
    && (!bitOf m 4 || engDrained s f.task.engcmds)
    && (!bitOf m 5 || (firingGens s f).all (fun e => !genBusy s e.1 e.2))

/-- SBAR: SBARMASK on a reserved mask bit; otherwise the named streams issue nothing further until their earlier accesses
are performed (R101, R273). -/
def execSbar (a : Reg) (s : State) : Out :=
  onCore s (fun t c f =>
    if !c.ready [a] then s
    else
      let m := c.gpr a
      if !zeroBits m 63 6 then trapOpen s t Cause.sbarmask
      else if sbarDone s t c f m then setCore s t { c.advance with held := 0, waiting := .none }
      else setCore s t { c with held := BitVec.ofNat 6 m.toNat, waiting := .sbar })

/-! ### The way of an access -/

/-- Run an event on an access, `ops` = [tile, access], of a core that runs a firing; where the event does not apply nothing happens. -/
def onAccess (s : State) (k : Tid → Nat → Core → Firing → Access → State) : Out :=
  let c := getCore s (s.op 0)
  match c.run, c.findAcc (s.op 1) with
  | some f, some a => .next (k (s.op 0) (s.op 1) c f a)
  | _, _ => .next s

/-- An access stands at a FIFO region and waits there: a read or pop with no token to take, or a push with no space (R75, R76). -/
def fifoWaits (s : State) (core : Tid) (ctx : Nat) (a : Access) : Bool :=
  match a.phase, a.part with
  | .atBank, (ia, n, _) =>
    let mt := windowTid ia
    match regionAt s mt (ia % 2 ^ 20) with
    | none => false
    | some r =>
      let w := region s mt r
      let rel := ia % 2 ^ 20 - regBase w
      let word := decide (rel = 64 ∧ n = 8)
      if regMode w = 2 ∧ regCtx w = ctx then
        match a.kind with
        | .load _ _ => (word || decide (rel + n ≤ 64)) && !popReady s (some core) mt r
        | .store => word && !pushReady s (some core) mt r
        | _ => false
      else false
  | _, _ => false

/-- An access earlier than this one waits at a FIFO region, and so holds the core stream (R76). -/
def fifoHolds (s : State) (core : Tid) (ctx : Nat) (a : Access) : List Access → Bool
  | [] => false
  | b :: l => if b.id = a.id then false else fifoWaits s core ctx b || fifoHolds s core ctx a l

/-- The access may be performed now: those it is kept behind have been, and none before it waits at a FIFO region (R76, R97); or its
next part is on its way at another module already. -/
def nowPerforms (s : State) (t : Tid) (c : Core) (f : Firing) (a : Access) : Bool :=
  (findOut s (coreKey t a.id) a.ia).isSome || (mayPerform c.unfin a && !fifoHolds s t f.task.ctx a c.unfin)

/-- WINDOW_ACCESS: an access to window IA reaches the tile's window port, once those it is kept behind are performed (R35,
R62, R97). -/
def execWindowAccess (s : State) : Out :=
  onAccess s (fun t id c f a =>
    if a.phase = .sent ∧ inWindow a.ia = true ∧ nowPerforms s t c f a = true then setCore s t (c.setPhase id .atBank)
    else s)

/-- The FIFO region an access addresses at its push or pop word, offset 64, size 8 (R76). -/
def fifoWordOf (s : State) (ctx : Nat) (a : Access) : Option (Tid × Nat) :=
  match a.parts with
  | [(ia, 8, _)] =>
    let t := windowTid ia
    match regionAt s t (ia % 2 ^ 20) with
    | some r =>
      let w := region s t r
      if regMode w = 2 ∧ regCtx w = ctx ∧ ia % 2 ^ 20 = regBase w + 64 then some (t, r) else none
    | none => none
  | _ => none

/-- Add a request to a FIFO region's queue: they are performed in the order the tile accepts them (R75). -/
def fifoAsk (s : State) (t : Tid) (r : Nat) (q : FifoReq) : State :=
  let k := t * 8 + r
  { s with tl := { s.tl with fifoReqs := s.tl.fifoReqs.set k (s.tl.fifoReqs.getD k [] ++ [q]) } }

/-- A core's request already waits at a FIFO region. -/
def fifoAsked (s : State) (who : FifoWho) : Bool := s.tl.fifoReqs.any (fun e => e.2.any (fun q => q.who == who))

/-- BANK_ACCESS: the bank serves the access, with decode and correction; a push or pop of a FIFO region takes its place in
the region's queue (R62, R65, R75, R76, R95). -/
def execBankAccess (s : State) : Out :=
  onAccess s (fun t id c f a =>
    if a.phase = .atBank ∧ nowPerforms s t c f a = true then
      match fifoWordOf s f.task.ctx a, a.kind with
      | some (mt, r), .load _ _ =>
        if fifoAsked s (.core t id) then s
        else fifoAsk s mt r ⟨false, ⟨.data, 0, false, 0⟩, some t, .core t id⟩
      | some (mt, r), .store =>
        if fifoAsked s (.core t id) then s
        else fifoAsk s mt r ⟨true, ⟨.data, BitVec.allOnes 16, false, 0⟩, some t, .core t id⟩
      | _, _ => performStep s t f a
    else s)

/-- The home port of an access's next part holds no translation of it. -/
def uncached (s : State) (a : Access) : Bool := a.kind != .form && !inWindow a.ia && (s.xl.tcache.get? (a.ia / 65536)).isNone

/-- HOME_PORT_ACCESS: a translated access is serialised in its home port's write queue (R36, R47, R95, R106). -/
def execHomePortAccess (s : State) : Out :=
  onAccess s (fun t _ c f a =>
    if a.phase = .sent ∧ inWindow a.ia = false ∧ nowPerforms s t c f a = true ∧ uncached s a = false then performStep s t f a
    else s)

/-- PAGE_WALK: a walk for an access ends in a cached leaf or in its cause (R40). -/
def execPageWalk (s : State) : Out :=
  onAccess s (fun t id c _ a =>
    if a.phase = .sent ∧ uncached s a = true then
      match lookupPage s a.ia a.part.2.2 with
      | (.ok _, s) => s
      | (.error e, s) => setCore s t (c.setPhase id (.faulted e))
    else s)

/-- An answer for one of an access's far parts, if one has come: the part, its cause and bytes. -/
def farAnswer (s : State) (t : Tid) (a : Access) : List Nat → Option (Nat × Nat × Cause × List Byte)
  | [] => none
  | i :: l =>
    match findOut s (coreKey t a.id) (nth (0, 0, 0) a.parts i).1 with
    | none => farAnswer s t a l
    | some o => match findReply s o.uid with
      | some r => some (i, o.uid, r)
      | none => farAnswer s t a l

/-- Take one owner's answer: the part is performed at pod scope, or it met a cause there; a reduction's events are those of the
bytes it found (R95, R107). -/
def takeFar (s : State) (t : Tid) (f : Firing) (c : Core) (a : Access) (i uid : Nat) (e : Cause) (old : List Byte) : State :=
  let s := dropOut s uid
  let a := { a with far := a.far.filter (· != i) }
  if e = 0 then
    setCore (chargeAcc s t f a old) t (c.putAcc (match a.phase, a.far with
      | .forwarded v, [] => { a with phase := .performed v }
      | _, _ => a))
  else setCore s t (c.putAcc (match a.phase with
    | .faulted _ => a
    | _ => { a with phase := .faulted e, left := i :: a.left }))

/-- SEQUENCER_ACCESS_REPLY: a performed access returns, a load or atomic writes its gd, and its place among the 16 is free;
a forwarded write returns when its owners have answered (R45, R253, R263, R267). -/
def execSequencerAccessReply (s : State) : Out :=
  onAccess s (fun t id c f a =>
    match a.phase with
    | .performed v =>
      let c := { c with unfin := c.unfin.filter (fun x => x.id != id) }
      setCore s t (if a.kind.writesGd then c.setGpr a.gd (a.result v) else c)
    | _ =>
      match farAnswer s t a a.far with
      | some (i, uid, e, old) => takeFar s t f c a i uid e old
      | none => s)

/-! ### The sequencer's faults -/

/-- AFTER_ISSUE_FAULT: a fault found after issue stops the firing at the next boundary, once the accesses issued before it
have finished; the frame's PC is the next instruction not yet issued (R255, R407, R409). -/
def execAfterIssueFault (s : State) : Out :=
  let t := s.op 0
  let c := getCore s t
  match c.run, c.unfin with
  | some _, a :: _ =>
    match a.phase with
    | .faulted e =>
      .next (takeTrap s t e false c.pc a.va (if inWindow a.ia then 0 else BitVec.ofNat 64 a.ia))
    | _ => .next s
  | _, _ => .next s

/-- DECODE_FAULT: a word that fails a check of R235 takes a precise trap with TVAL the word (R235, R409). -/
def execDecodeFault (w : BitVec 32) (s : State) : Out :=
  onCore s (fun t _ _ =>
    match decodeSeq w with
    | .error e => trapHere s t e (w.setWidth 64)
    | .ok _ => s)

/-- FETCH_FAULT: the word at pc could not be fetched; precise, TVAL its VA (R254). -/
def execFetchFault (e : Cause) (s : State) : Out := onCore s (fun t c _ => trapHere s t e c.pc)

end Sys2Proof.Machine
end

