-- ==== Sys2Proof/Machine/SeqTasks.lean ====
section
/-! DEFINITION. Task instructions: SPAWN, SIG, SIGE, PARK, YIELD, EXIT, PRIO, TDECL, JCNT (R278 to R284, R203 to R206). -/
namespace Sys2Proof.Machine

/-- The trap for a cause that an access of a form meets at a VA while the form runs: precise where R255 finds it at issue; else after
issue, with the form whole in the replay queue and the IA as TINFO, once the form is among the 16 (R253, R255, R298, R409; log 14). -/
def syncTrap (s : State) (t : Tid) (who : Who) (w : BitVec 32) (a b : Word) (va : Word) (e : Cause) : State :=
  let c := getCore s t
  if 0x101 ≤ e.toNat ∧ e.toNat ≤ 0x104 then trapHere s t e va
  else
    let ia : Word := match translate s who va .read with
      | .ok r => if inWindow r.1 then 0 else BitVec.ofNat 64 r.1
      | .error _ => 0
    match c.replay with
    | _ :: _ => takeTrap s t e false c.pc va ia
    | [] =>
      if 16 ≤ c.unfin.length ∨ awaitsOwner s t c = true then s
      else takeTrap (setCore s t { c.advance with replay := [formEntry c.nextId w a b], nextId := c.nextId + 1 }) t e false (c.pc + 4) va ia

/-- A record that has just become due at a VA: QUAD and LAUNCH as word 5 holds them now; the drill unit reads the rest
(R197, R200). -/
def dueRecord (rid : Nat) (va : Word) (ctx : Nat) (w5 : Word) : TaskRec :=
  let h : List Word := [0, 0, 0, 0, 0, w5, 0, 0]
  TaskRec.make rid (some va) h [] ctx (crLaunch h) (crQuad h)

/-- Enqueue the record at a VA, if a bank has room (R200, R388). -/
def enqueueDue (s : State) (va : Word) (ctx : Nat) (w5 : Word) : Option State :=
  enqueueRec { s with tk := { s.tk with nextRid := s.tk.nextRid + 1 } } (dueRecord s.tk.nextRid va ctx w5)

/-- Word 5 with LAUNCH and CTX filled (R278). -/
def placeWord (w5 : Nat) (lid ctx : Nat) : Nat :=
  (withBits (withBits (BitVec.ofNat 64 w5) 63 48 lid) 47 42 ctx).toNat

/-- SPAWN (R278): release, stamp, live count, and the record enqueued where its JOIN is 0. -/
def execSpawn (a : Reg) (s : State) : Out :=
  onCore s (fun t c f =>
    if !c.ready [a] then s
    else notPure s t c f (
      let va := c.opA a
      let who := coreWho t f (syncKey t)
      let trap (s : State) (at' : Word) (e : Cause) : State := syncTrap s t who (encode (.spawn a)) va 0 at' e
      if va.toNat % 64 ≠ 0 then trapOpen s t Cause.opalign
      else if !c.allPkg then s
      else match readVA s who (va + 32) 16 with
        | (.fault e, s) => trap s s.xl.faultVA e
        | (.wait, s) => s
        | (.ok w4, s0) =>
          match rmwVA s0 who (va + 40) 8 true [34, f.task.launch, f.task.ctx]
              (fun old => bytesOf 8 (placeWord (ofBytes old) f.task.launch f.task.ctx)) with
          | (.fault e, s) => trap s (va + 40) e
          | (.wait, s) => s
          | (.ok _, s1) =>
            let w5 : Word := BitVec.ofNat 64 (placeWord (ofBytes (w4.drop 8)) f.task.launch f.task.ctx)
            let s2 := updLaunch s1 f.task.launch (fun l => { l with live := l.live + 1 })
            let s2 := setCore s2 t (getCore s2 t).finish
            if ofBytes (w4.take 8) % 2 ^ 24 ≠ 0 then s2
            else match enqueueDue s2 va f.task.ctx w5 with
              | some s3 => s3
              | none => s))

/-- SIG (R279): the address joins the held set; OPALIGN and SIGFULL are precise. -/
def execSig (a : Reg) (s : State) : Out :=
  onCore s (fun t c f =>
    if !c.ready [a] then s
    else if (c.gpr a).toNat % 64 ≠ 0 then trapOpen s t Cause.opalign
    else if 16 ≤ f.task.sigs.length then trapOpen s t Cause.sigfull
    else setCore s t (c.withFiring (fun f => { f with task := { f.task with sigs := f.task.sigs ++ [c.gpr a] } })).advance)

/-- Remove the first element equal to `x`. -/
def dropFirst (x : Word) : List Word → List Word
  | [] => []
  | y :: l => if y = x then l else y :: dropFirst x l

/-- Send a task's signal on its way to a CR's JOIN (R202). -/
def sendSignal (s : State) (cr : Word) (r : TaskRec) (t : Tid) : State :=
  { s with tk := { s.tk with signals := s.tk.signals ++ [⟨cr, r.ctx, r.launch, t, r.rid⟩] } }

/-- SIGE of an address (R279): after the release of R104 the signal is sent, EARLY is set, and the first equal SIG goes. -/
def execSigeAddress (a : Reg) (s : State) : Out :=
  onCore s (fun t c f =>
    if !c.ready [a] then s
    else if (c.gpr a).toNat % 64 ≠ 0 then trapOpen s t Cause.opalign
    else if !c.allPkg then s
    else
      let s := sendSignal s (c.gpr a) f.task t
      setCore s t (c.withFiring (fun f => { f with
        early := true, task := { f.task with sigs := dropFirst (c.gpr a) f.task.sigs } })).advance)

/-- The CR that a successor entry names (R201). -/
def entryCR (w : Word) : Word := vaSext (bitsOf w 56 6 * 64)

/-- The successor list of a task: empty where SUCC is 0 (R196, R201). -/
def succList (s : State) (who : Who) (h : List Word) : Res (List Word) × State :=
  if crSucc h = 0 then (.ok [], s) else readSucc s who 64 (crSucc h)

/-- SIGE of a list entry (R279): SIGEBAD for a missing or sent entry. -/
def execSigeEntry (j : BitVec 6) (s : State) : Out :=
  onCore s (fun t c f =>
    let who := coreWho t f (syncKey t)
    if !c.allPkg then s
    else match succList s who f.task.hdr with
      | (.fault e, s) => syncTrap s t who (encode (.sigeEntry j)) 0 0 s.xl.faultVA e
      | (.wait, s) => s
      | (.ok l, s) =>
        if l.length ≤ j.toNat ∨ bitOf f.sent j.toNat = true then trapOpen s t Cause.sigebad
        else
          let s := sendSignal s (entryCR (nth 0 l j.toNat)) f.task t
          setCore s t ((getCore s t).withFiring (fun f => { f with
            early := true, sent := withBits f.sent j.toNat j.toNat 1 })).finish)

/-! ### Waiting and parking -/

/-- A message of this uid has not been acknowledged yet (R129, R205). -/
def unacknowledged (s : State) (uids : List Nat) : Bool :=
  s.fab.msgs.any (fun m => uids.contains m.uid) || s.fab.acks.any (fun a => uids.contains a.uid)

/-- The condition of a park (R205): kind, phase, argument, for a context and the commands a task has sent. -/
def parkHolds (s : State) (ctx : Nat) (cmds : List Nat) (kind phase arg : Nat) : Bool :=
  match kind with
  | 0 => true
  | 1 => phaseDone (getBar s arg).phase phase
  | 2 => engDrained s cmds
  | 3 => !unacknowledged s cmds
  | 4 => (match (getSec s (secKey ctx arg)).state with | .idle | .stopped => true | _ => false)
  | _ => false

/-- Lower a barrier's PRIO to a waiter's class (R118); a pod share passes it towards the top, and the top to its children
(R119). -/
def lowerPrio (s : State) (id c : Nat) : State :=
  let b := getBar s id
  if b.prio ≤ c then s
  else
    let s := setBar s id { b with prio := c }
    if barScope id ≠ 5 then s
    else if b.root = s.boot.node then b.children.foldl (fun s n => sendNode s n 0 [7, id, c]) s
    else sendNode s b.root 0 [7, id, c]

/-- The lowest PRIO of a context's barriers that cover a quad (R398). -/
def quadFloor (s : State) (ctx q : Nat) : Nat :=
  s.bar.objs.foldl (fun m e =>
    let covers := match barScope e.1 with
      | 2 => barUnit e.1 == q
      | 3 => barUnit e.1 == dieOfQuad q
      | _ => true
    if e.2.v && e.2.ctx == ctx && covers then min m e.2.prio else m) 7

/-- The inheritance floor of a context at a quad: a new one counts once it has reached the holders there, and a floor that a
completed phase lifts rises at once (R398). -/
def floorAt (s : State) (ctx q : Nat) : Nat := max (s.bar.floors.getD (ctx * 512 + q) 7) (quadFloor s ctx q)

/-- Effective class of a firing: its own, or the floor where that is lower (R282, R398). -/
def firingClass (s : State) (t : Tid) (f : Firing) : Nat := min f.prio (floorAt s f.task.ctx (quadOf t))

/-- An arrival, wait or change is refused with BARSCOPE: malformed, uninitialised, foreign or outside (R112, R114). -/
def barRefuses (s : State) (id ctx : Nat) (t : Tid) : Bool :=
  barMalformed id || !(getBar s id).v || (getBar s id).ctx != ctx || !barInside id t

/-- Registers g16 to g31 that a LIVE mask names, in ascending order (R196, R205). -/
def liveRegs (c : Core) (live : Nat) : List Word :=
  ((List.range 16).filter (fun j => live / 2 ^ j % 2 == 1)).map (fun j => nth 0 c.regs (16 + j))

/-- The parked record of a firing (R205, R280): CODE after the PARK, LIVE and register words, QUAD, PRIO, EARLY, SENT,
TILES, and the condition. -/
def parkedRecord (t : Tid) (c : Core) (f : Firing) (live kind : Nat) (w6 : Word) : TaskRec :=
  let h := f.task.hdr
  let w4 := withBits (withBits (withBits (nth 0 h 4) 63 48 live) 47 45 f.prio) 41 41 f.early.toNat
  let w5 := withBits (withBits (nth 0 h 5) 39 30 (quadOf t)) 2 0 0
  { f.task with
    hdr := [BitVec.ofNat 64 (bitsOf (c.pc + 4) 56 0), nth 0 h 1, BitVec.ofNat 64 (bitsOf f.tiles 56 0), nth 0 h 3, w4, w5,
            withBits w6 63 60 kind, f.sent]
    regs := liveRegs c live
    quad := quadOf t
    ckpt := none, resumed := true, examined := false, ready := false, looked := false
    orig := f.task.orig, origRegs := f.task.origRegs }

/-- Fields of the wait word of a parked record (R196). -/
def crWkind (h : List Word) : Nat := bitsOf (nth 0 h 6) 63 60
def crWphase (h : List Word) : Nat := bitsOf (nth 0 h 6) 47 32
def crWarg (h : List Word) : Nat := bitsOf (nth 0 h 6) 31 0

/-- End a firing by parking it, or wait in place where the quad's park store is full (R205, R206, R280). -/
def parkFiring (s : State) (t : Tid) (c : Core) (f : Firing) (mask w6 : Word) (kind : Nat) : State :=
  let phase := bitsOf w6 47 32
  let arg := bitsOf w6 31 0
  match c.waiting with
  | .park _ _ _ =>
    if parkHolds s f.task.ctx f.task.engcmds kind phase arg then setCore s t { c.advance with waiting := .none } else s
  | _ =>
    if !c.unfin.isEmpty then s
    else
      let s := if kind = 1 then lowerPrio s arg (firingClass s t f) else s
      if 1024 ≤ (s.tk.parked.filter (fun p => p.quad == quadOf t)).length then
        setCore s t { c with waiting := .park kind phase arg }
      else
        let s := unbind s f.task.ctx (coreBinder t)
        let s := { s with tk := { s.tk with parked := s.tk.parked ++ [parkedRecord t c f (bitsOf mask 15 0) kind w6] } }
        setCore s t c.stop

/-- PARK (R280): PARKARG and BARSCOPE are precise; a malformed identifier comes before any other check (R112). -/
def execPark (a b : Reg) (k : BitVec 6) (s : State) : Out :=
  onCore s (fun t c f =>
    if !c.ready [a, b] then s
    else
      let m := c.gpr a
      let g := c.gpr b
      let bad := !zeroBits m 63 16 ||
        (match k.toNat with
         | 1 => !zeroBits g 63 48
         | 4 => !zeroBits g 63 32 || 63 < bitsOf g 31 0
         | _ => g != 0)
      if k = 1 ∧ barMalformed (bitsOf g 31 0) = true then trapOpen s t Cause.barscope
      else if bad then trapOpen s t Cause.parkarg
      else if k = 1 ∧ barRefuses s (bitsOf g 31 0) f.task.ctx t = true then trapOpen s t Cause.barscope
      else parkFiring s t c f m g k.toNat)

/-- YIELD: PARK with WKIND 0 (R280). -/
def execYield (a : Reg) (s : State) : Out :=
  onCore s (fun t c f =>
    if !c.ready [a] then s
    else if !zeroBits (c.gpr a) 63 16 then trapOpen s t Cause.parkarg
    else parkFiring s t c f (c.gpr a) 0 0)

/-- EXIT (R281, R203): once every earlier instruction has finished and the port streams of the core are performed, the
task retires; in system state it is the interrupted firing, and its replay queue goes. -/
def execExit (s : State) : Out :=
  onCore s (fun t c f =>
    if !c.unfin.isEmpty || (List.range 4).any (fun d => portBusy s t d) then s
    else
      let s := unbind s f.task.ctx (coreBinder t)
      let r : Retiring := ⟨{ f.task with quad := quadOf t }, f.sent, f.tiles, false, false⟩
      setCore { s with tk := { s.tk with retiring := s.tk.retiring ++ [r] } } t c.stop)

/-- PRIO (R282): the class, raised to the launch's. -/
def execPrio (k : BitVec 6) (s : State) : Out :=
  onCore s (fun t c f =>
    let cls := match findLaunch s f.task.launch with
      | some l => l.cls
      | none => 0
    setCore s t (c.withFiring (fun f => { f with prio := max k.toNat cls })).advance)

/-- TDECL (R283): claims settle as at retirement, once the writes before it are performed, and the new list is installed. -/
def execTdecl (a : Reg) (s : State) : Out :=
  onCore s (fun t c f =>
    if !c.ready [a] then s
    else if crPure f.task.hdr then trapOpen s t Cause.tdeclbad
    else if !canonical (c.gpr a) then trapHere s t Cause.noncanon (c.gpr a)
    else if (c.gpr a).toNat % 16 ≠ 0 then trapOpen s t Cause.opalign
    else if !c.allPkg then s
    else
      let s := settleClaims s f.task.ctx true f.task.claims
      setCore s t ((getCore s t).withFiring (fun f => { f with
        tiles := c.gpr a, task := { f.task with claims := [] } })).advance)

/-- JCNT (R284): an atomic on word 4 of the CR. -/
def execJcnt (a b d : Reg) (s : State) : Out :=
  onCore s (fun t c f =>
    if !c.ready [a, b, d] then s
    else notPure s t c f (
      if (c.gpr a).toNat % 64 ≠ 0 then trapOpen s t Cause.opalign
      else issueAccess s t c f (encode (.jcnt a b d)) .jcnt 8 d (c.gpr a + 32) (c.gpr b) 0 false false false))

end Sys2Proof.Machine
end

