-- ==== Sys2Proof/Machine/Configure.lean ====
section
/-! DEFINITION. What the loaders check and load (R71, R79, R212, R213, R236 to R242, R312, R348), and how links are named:
a router's output links by key, its buffers by port and channel (R18, R240). -/
namespace Sys2Proof.Machine

/-! ### Element words -/

/-- Number `n` divided by 2, 3 and 5 as often as each divides it. -/
def smoothRest : Nat → Nat → Nat
  | 0, n => n
  | f + 1, n => if n % 2 = 0 then smoothRest f (n / 2) else if n % 3 = 0 then smoothRest f (n / 3)
      else if n % 5 = 0 then smoothRest f (n / 5) else n

/-- A size MTWID accepts: 2 to 2^20, of the form 2^a·3^b·5^c (R369). -/
def twiddleSize (n : Nat) : Bool := 2 ≤ n && n ≤ 2 ^ 20 && smoothRest 21 n == 1

/-- A format code of the binary8 family (R177). -/
def isB8 (c : Nat) : Bool := 0x10 ≤ c && c ≤ 0x2D

/-- A format that CVT names (R326): any but packed ternary. -/
def cvtFmt (c : Nat) : Bool := isB8 c || (0x40 ≤ c && c ≤ 0x42) || (0x50 ≤ c && c ≤ 0x57)

/-- One entry of SJOIN's action table (R336). -/
def sjoinEntryOk (e : Nat) : Bool := e % 4 != 3 && e / 4 % 4 != 3 && e % 16 != 0

/-- Function and size of AMO and RDX (R344, R232). -/
def amoConstOk (red : Bool) (c : Nat) : Bool :=
  let fn := c % 16
  let sz := c / 16 % 4
  c < 64 && sz != 3 && fn ≤ 11 &&
  (if red then (if fn < 8 then sz != 2 else if fn = 9 then sz == 2 else sz == 0)
   else if fn < 10 then sz != 2 else if fn = 10 then sz == 0 else sz == 2)

/-- The constant is allowed for the operation (R312 and the rules it names). -/
def constOk (i : Instr) (c : Nat) : Bool :=
  match i with
  | .icmp _ _ _ => c < 6
  | .fcmp _ _ _ => c < 8
  | .cvt _ _ _ _ => c < 65536 && cvtFmt (c / 256) && (c % 256 == 0 || cvtFmt (c % 256))
  | .quant _ _ _ _ => c < 65536 && (c % 256 == 0 || (0x40 ≤ c % 256 && c % 256 ≤ 0x42))
      && (isB8 (c / 256) || c / 256 == 0x50 || c / 256 == 0x51)
  | .deq _ _ _ _ => c < 65536 && (c % 256 == 0 || isB8 (c % 256) || (0x50 ≤ c % 256 && c % 256 ≤ 0x53))
      && (0x40 ≤ c / 256 && c / 256 ≤ 0x42)
  | .pack _ _ | .unpack _ _ => c == 4 || c == 8 || c == 16 || c == 32
  | .lbcast _ _ _ => c < 64
  | .winnow _ _ _ => c < 2 ^ 30
  | .sjoin _ _ _ => c < 2 ^ 24 && sjoinEntryOk (c % 256) && sjoinEntryOk (c / 256 % 256) && sjoinEntryOk (c / 65536)
  | .acc _ _ _ | .fmac _ _ _ => c < 8
  | .iota _ _ _ | .const _ _ | .ldt _ _ _ _ | .stt _ | .ldo _ _ _ _ | .sto _ _ _ => true
  | .amo _ _ _ => amoConstOk false c
  | .rdx _ _ _ => amoConstOk true c
  | .mdrain _ _ => c < 8 && c / 2 != 3
  | .mwin => c < 16 && c / 4 != 3
  | .mtwid _ _ => c < 2 ^ 22 && twiddleSize (c % 2 ^ 21)
  | .mharrow _ _ _ => c < 64 && c % 8 ≤ 4
  | _ => c == 0

/-- Direction of an element's memory port operation, if it is one (R340, R361). -/
def portDir : Instr → Option Dir
  | .ldt d _ _ _ | .ldo d _ _ _ => some d
  | .stt d => some d
  | .sto d _ _ | .amo d _ _ | .rdx d _ _ | .mharrow d _ _ => some d
  | _ => none

/-- Local latch that a target field names, as slot·4 + position; none for an egress channel and for none. -/
def latchOf (f : Nat) : Option Nat := if f / 512 % 2 = 1 ∨ f / 2 % 4 = 0 then none else some (f / 2 % 256)

/-- Latches of a tile that have a producer: ingress entries but `j`, slot targets but those of slot `n` (R212). -/
def boundLatches (s : State) (t : Tid) (n j : Option Nat) : List Nat :=
  let ing := (s.fab.ingress.getD t []).zipIdx.filterMap (fun p => if some p.2 = j then none else latchOf p.1.toNat)
  let sl := (s.fab.slots.filter (fun e => e.1 / 64 == t && some (e.1 % 64) != n)).flatMap (fun e =>
    (match latchOf (e.2.word.toNat / 1024 % 1024) with | some k => [k] | none => []) ++
    (match latchOf (e.2.word.toNat % 1024) with | some k => [k] | none => []))
  ing ++ sl

/-- The targets of a word break R212: one named twice, or a latch already bound. -/
def targetClash (s : State) (t : Tid) (n : Nat) (w : Nat) : Bool :=
  let fa := w / 1024 % 1024
  let fb := w % 1024
  let bound := boundLatches s t (some n) none
  (fa == fb && fa != 0) ||
  (match latchOf fa with | some k => bound.contains k | none => false) ||
  (match latchOf fb with | some k => bound.contains k | none => false)

/-- The checks of R239 on one slot entry. -/
def slotCheck (s : State) (t : Tid) (n w c : Nat) : Option Cause :=
  if w = 0 then none
  else
    -- opcode and modifier are judged with both target fields empty, so that TARGET comes after ELEMCONST
    match decodeElem (BitVec.ofNat 32 (w / 2 ^ 20 * 2 ^ 20)) with
    | .error e => some e
    | .ok i =>
      if !constOk i c then some Cause.elemconst
      else match decodeElem (BitVec.ofNat 32 w) with
        | .error e => some e
        | .ok i =>
          if targetClash s t n w then some Cause.target
          else match portDir i with
            | none => none
            | some d => (match neighbour t (dirNat d) with
              | some m => if isMem m then none else some Cause.noport
              | none => some Cause.noport)

/-- The generator state that CFGE sets (R169). -/
def slotSeed (seed : Nat) (t : Tid) (n : Nat) : BitVec 32 :=
  let g := BitVec.ofNat 32 seed ^^^ BitVec.ofNat 32 (tileY t * 2 ^ 26 + tileX t * 2 ^ 20 + n * 256)
  if g = 0 then 0x9E3779B9 else g

/-- Load one slot entry: constant in bits 63:32, word in 31:0 (R286). -/
def loadSlot (s : State) (ctx : Nat) (t : Tid) (n : Nat) (e : Word) : Except Cause State :=
  let w := bitsOf e 31 0
  let c := bitsOf e 63 32
  match slotCheck s t n w c with
  | some x => .error x
  | none =>
    let sl := { Slot.reset with
      word := BitVec.ofNat 32 w, const := BitVec.ofNat 32 c, rng := slotSeed (bitsOf (getCtx s ctx).nctl 63 32) t n }
    .ok { s with fab := { s.fab with slots := s.fab.slots.set (t * 64 + n) sl } }

/-- Load one ingress entry (R212, R238): bit 9, a reserved bit or a bound latch is TARGET. -/
def loadIngress (s : State) (t : Tid) (j f : Nat) : Except Cause State :=
  let bad := 512 ≤ f || (targetOf f).isNone ||
    (match latchOf f with | some k => (boundLatches s t none (some j)).contains k | none => false)
  if bad then .error Cause.target
  else
    let old := s.fab.ingress.getD t (List.replicate 8 0)
    .ok { s with fab := { s.fab with ingress := s.fab.ingress.set t (setNth old j (BitVec.ofNat 10 f)) } }

/-! ### Switch words (R240, R241, R213) -/

/-- Key of the output link that a switch word configures, inside its tile: port·8 + channel for ports N, E, S, W and C;
40 + unit·2 + input for operator inputs; 48 + unit for decision inputs. -/
def swOutKey (w : Nat) : Nat :=
  let p := w / 8192 % 8
  let c := w / 1024 % 8
  if p < 5 then p * 8 + c else if p = 5 then 40 + c else 48 + c / 2

/-- Input of a switch word, port·8 + channel (port 5: unit·2 + output). -/
def swInKey (w : Nat) : Nat := w / 16 % 64

/-- Buffer slots of a switch word. -/
def swSlots (w : Nat) : Nat := w % 16

/-- The switch words of a tile, by output key. -/
def tileSwitch (s : State) (t : Tid) : List (Nat × BitVec 16) :=
  (s.fab.switch.filter (fun e => e.1 / 64 == t)).map (fun e => (e.1 % 64, e.2))

/-- Inputs that an output link's receiving end feeds: the far tile and the inputs of its switch words. An operator unit's inputs feed
both its outputs whatever its record holds, and no other unit's (R213, R241; log 139). -/
def fedBy (t : Tid) (out : Nat) : Option (Tid × List Nat) :=
  if out < 32 then
    match neighbour t (out / 8) with
    | some m => some (m, [oppDir (out / 8) * 8 + out % 8])
    | none => none
  else if out < 40 then none
  else
    let u := if out < 48 then (out - 40) / 2 else out - 48
    some (t, [40 + u * 2, 40 + u * 2 + 1])

/-- The 0-slot links that a 0-slot link passes tokens to at once (R213). -/
def zeroNext (s : State) (k : Nat) : List Nat :=
  match fedBy (k / 64) (k % 64) with
  | none => []
  | some (m, ins) =>
    ((tileSwitch s m).filter (fun e => ins.contains (swInKey e.2.toNat) && swSlots e.2.toNat == 0)).map
      (fun e => m * 64 + e.1)

/-- Links reached in at most `fuel` steps. -/
def zeroReach (s : State) : Nat → List Nat → List Nat → List Nat
  | 0, _, seen => seen
  | fuel + 1, front, seen =>
    let new := ((front.flatMap (zeroNext s)).eraseDups).filter (fun k => !seen.contains k)
    if new.isEmpty then seen else zeroReach s fuel new (seen ++ new)

/-- A cycle made wholly of 0-slot links goes through link `k` (R213). -/
def zeroLoop (s : State) (k : Nat) : Bool := (zeroReach s (s.fab.switch.length + 1) [k] []).contains k

/-- Load one switch word (R241): SWCFG, then LINKLOOP. -/
def loadSwitch (s : State) (t : Tid) (w : Nat) : Except Cause State :=
  let p := w / 8192 % 8
  let ip := w / 128 % 8
  let key := swOutKey w
  let taken := (tileSwitch s t).any (fun e => e.1 != key && swInKey e.2.toNat == swInKey w)
  if p = 7 ∨ (p = 6 ∧ w / 1024 % 2 = 1) ∨ 6 ≤ ip ∨ 8 < swSlots w ∨ taken = true then .error Cause.swcfg
  else
    let s' := { s with fab := { s.fab with switch := s.fab.switch.set (t * 64 + key) (BitVec.ofNat 16 w) } }
    if swSlots w = 0 ∧ zeroLoop s' (t * 64 + key) = true then .error Cause.linkloop else .ok s'

/-! ### Operator records (R242, R348) -/

/-- KIND of a record. -/
def recKind (w : Word) : Nat := bitsOf w 3 0

/-- Units a CONTROL with NCH children occupies (R357). -/
def controlSpan (w : Word) : Nat := bitsOf w 10 8 / 2 + 1

/-- A record is refused: OPKIND, else OPREC. -/
def recCheck (s : State) (t : Tid) (u : Nat) (w : Word) : Option Cause :=
  let ok : Bool := match recKind w with
    | 1 | 2 | 3 | 4 | 7 => zeroBits w 63 5
    | 5 => zeroBits w 63 28
    | 6 => true
    | 8 => zeroBits w 63 6 && bitsOf w 5 4 != 3
    | 9 => zeroBits w 63 6 && recKind ((s.fab.opunits.getD (t * 4 + bitsOf w 5 4) (OpUnit.fresh 0)).recd) == 8
    | 10 => zeroBits w 5 4 && !barMalformed (bitsOf w 63 32)
    | 11 => zeroBits w 63 6
    | _ =>
      let nch := bitsOf w 10 8
      let win := bitsOf w 39 32
      let mode := bitsOf w 7 6
      zeroBits w 31 14 && zeroBits w 5 4 && mode != 3 && 1 ≤ nch && nch ≤ 4
        && (if mode = 1 then win != 0 else win == 0)
        && !(bitsOf w 63 40 == 0 && bitOf w 11) && u + controlSpan w ≤ 4
  if recKind w = 0 ∨ 13 ≤ recKind w then some Cause.opkind
  else if ok then none else some Cause.oprec

/-- Load one operator record. -/
def loadRec (s : State) (t : Tid) (u : Nat) (w : Word) : Except Cause State :=
  match recCheck s t u w with
  | some e => .error e
  | none => .ok { s with fab := { s.fab with opunits := s.fab.opunits.set (t * 4 + u) (OpUnit.fresh w) } }

/-! ### Stream pattern records (R78, R79) -/

/-- Fields of a pattern record. -/
def patBase (p : List Word) : Word := nth 0 p 0
def patLen (p : List Word) (i : Nat) : Nat := bitsOf (nth 0 p 1) (16 * i + 15) (16 * i)
def patStr (p : List Word) (i : Nat) : Int := intOfBits 32 true (bitsOf (nth 0 p (2 + i / 2)) (32 * (i % 2) + 31) (32 * (i % 2)))
def patBound (p : List Word) : Nat := (nth 0 p 4).toNat
def patCtl (p : List Word) : Word := nth 0 p 5
def patMode (p : List Word) : Nat := bitsOf (patCtl p) 63 60
def patWrite (p : List Word) : Bool := bitOf (patCtl p) 59
def patInv (p : List Word) : Bool := bitOf (patCtl p) 58
def patSp24 (p : List Word) : Bool := bitOf (patCtl p) 57
def patPol (p : List Word) : Nat := bitsOf (patCtl p) 55 54
def patSpol (p : List Word) : Nat := bitsOf (patCtl p) 53 52
def patIw (p : List Word) : Bool := bitOf (patCtl p) 51
def patEsz (p : List Word) : Nat := bitsOf (patCtl p) 50 48
def patEmk (p : List Word) : Nat := bitsOf (patCtl p) 47 45
def patNdig (p : List Word) : Nat := bitsOf (patCtl p) 44 40
def patDch (p : List Word) : Nat := bitsOf (patCtl p) 39 37
def patCch (p : List Word) : Nat := bitsOf (patCtl p) 36 34
def patRdx (p : List Word) (i : Nat) : Nat := bitsOf (nth 0 p 6) (3 * i + 2) (3 * i)

/-- Radix of a digit code (R78). -/
def radixOf (c : Nat) : Nat :=
  match c with
  | 0 => 2 | 1 => 3 | 2 => 4 | 3 => 5 | _ => 8

/-- Radices of the digits of a record, least significant first. -/
def patRadices (p : List Word) : List Nat := (List.range (patNdig p)).map (fun i => radixOf (patRdx p i))

/-- Product of a list. -/
def prodList : List Nat → Nat
  | [] => 1
  | x :: l => x * prodList l

/-- CFGK accepts a pattern record (R79). -/
def patOk (p : List Word) (head : Bool) : Bool :=
  let c := patCtl p
  let digits := (List.range 20).map (patRdx p)
  let modeOk : Bool := match patMode p with
    | 0 => patBound p == 0 && patPol p == 0 && patSpol p == 0 && !patIw p && patNdig p == 0 && nth 0 p 6 == 0 && patCch p == 0
    | 1 => patLen p 1 == 0 && patLen p 2 == 0 && patLen p 3 == 0 && nth 0 p 3 == 0 && patEmk p == 0 && patNdig p == 0
        && nth 0 p 6 == 0 && (patIw p || patBound p < 2 ^ 32) && patCch p != patDch p
    | _ => 1 ≤ patNdig p && patNdig p ≤ 20 && prodList (patRadices p) == patLen p 0 && prodList (patRadices p) ≤ 2 ^ 20
        && (digits.drop (patNdig p)).all (· == 0) && patBound p == 0 && patPol p == 0 && patSpol p == 0 && !patIw p
        && patCch p == 0
  zeroBits (nth 0 p 6) 63 60 && nth 0 p 7 == 0 && !bitOf c 56 && zeroBits c 33 0
    && patMode p ≤ 2 && patPol p != 3 && patSpol p != 3 && patEsz p != 7 && digits.all (· ≤ 4)
    && canonical (patBase p) && (patBase p).toNat % 2 ^ patEsz p == 0 && modeOk
    && !(patInv p && patWrite p)
    && !(patSp24 p && (!patWrite p || head || 2 ≤ patEsz p || patLen p 0 % 4 != 0 || patMode p != 0))

/-- Load one pattern record; the running stream, if any, keeps its own copy. -/
def loadPat (s : State) (ctx : Nat) (t : Tid) (g : Nat) (p : List Word) : Except Cause State :=
  if patOk p (isHead t) then
    let old := s.fab.gens.getD (t * 4 + g) Gen.reset
    .ok { s with fab := { s.fab with gens := s.fab.gens.set (t * 4 + g) { old with words := p, ctx := ctx } } }
  else .error Cause.patcfg

/-! ### Region descriptors (R70, R71) -/

/-- A descriptor's own fields are acceptable for a context. -/
def regionFieldsOk (ctx : Nat) (w : Word × Word) : Bool :=
  let len := regLen w
  let head := zeroBits w.1 53 48 && zeroBits w.1 18 0 && regCtx w == ctx && len != 0 && bitsOf w.1 47 34 + len ≤ 16384
  match regMode w with
  | 1 => head && zeroBits w.2 63 32 && zeroBits w.2 15 7 && !bitOf w.2 3 && bitsOf w.2 23 16 == 0
      && len % (bitsOf w.2 2 0 + 1) == 0
  | 2 => head && !bitOf w.2 63 && zeroBits w.2 32 30 && !bitOf w.2 15 && fifoHead w < len && fifoCount w ≤ len
      && fifoResv w == 0 && fifoPres w == 0
  | 3 =>
    let rowLen := bitsOf w.2 9 0 + 1
    let win := bitsOf w.2 25 20
    let st := bitsOf w.2 19 14
    head && zeroBits w.2 31 26 && zeroBits w.2 11 10 && len % rowLen == 0 && win + 1 ≤ len / rowLen && win != 0
      && st != 0 && st ≤ win && (bitsOf w.2 63 48 + 65536 - bitsOf w.2 47 32) % 65536 ≤ len / rowLen
  | _ => false

/-- The descriptor being replaced holds claims or reservations (R71). -/
def regionBusy (w : Word × Word) : Bool :=
  match regMode w with
  | 1 => bitsOf w.2 23 16 != 0
  | 2 => fifoResv w != 0 || fifoPres w != 0
  | _ => false

/-- A stream of the tile has touched a region and has not emitted EOS (R71). -/
def regionTouched (s : State) (t : Tid) (r : Nat) : Bool :=
  s.fab.gens.any (fun e => e.1 / 4 == t && (match e.2.run with | some x => x.touched.contains r | none => false))

/-- Two descriptors cover a common token. -/
def regionsMeet (a b : Word × Word) : Bool :=
  let x := bitsOf a.1 47 34
  let y := bitsOf b.1 47 34
  x < y + regLen b && y < x + regLen a

/-- Load one region descriptor (R71). -/
def loadRegion (s : State) (ctx : Nat) (t : Tid) (r : Nat) (w : Word × Word) : Except Cause State :=
  let old := region s t r
  let clash := (List.range 8).any (fun k => k != r && regMode (region s t k) != 0 && regionsMeet w (region s t k))
  if regionBusy old ∨ regionTouched s t r = true then .error Cause.regioncfg
  else
    let fresh := { s with tl := { s.tl with staging := s.tl.staging.set (t * 8 + r) 0 } }
    if regMode w = 0 then .ok (setRegion fresh t r (0, 0))
    else if !regionFieldsOk ctx w || clash then .error Cause.regioncfg
    else .ok (setRegion fresh t r w)

/-! ### Configuration blocks (R286) -/

/-- The header of a configuration block. -/
structure CfgHead where
  sect : Nat
  tsel : Nat
  slots : Word
  nsw : Nat
  regs : Nat
  gens : Nat
  ops : Nat
  ing : Nat
  ingw : List Nat
  reserved : Bool
  deriving DecidableEq, Repr

/-- Read the header's fields. -/
def cfgHead (h : List Word) : CfgHead :=
  let w2 := nth 0 h 2
  let ent (w : Word) (j : Nat) := bitsOf w (16 * j + 9) (16 * j)
  let rsv (w : Word) := (List.range 4).any (fun j => !zeroBits w (16 * j + 15) (16 * j + 10))
  { sect := bitsOf (nth 0 h 0) 21 16, tsel := bitsOf (nth 0 h 0) 15 0, slots := nth 0 h 1, nsw := bitsOf w2 29 24,
    regs := bitsOf w2 23 16, gens := bitsOf w2 15 12, ops := bitsOf w2 11 8, ing := bitsOf w2 7 0,
    ingw := (List.range 4).map (ent (nth 0 h 3)) ++ (List.range 4).map (ent (nth 0 h 4)),
    reserved := !zeroBits (nth 0 h 0) 63 22 || !zeroBits w2 63 30 || rsv (nth 0 h 3) || rsv (nth 0 h 4)
      || nth 0 h 5 != 0 || nth 0 h 6 != 0 || nth 0 h 7 != 0 }

/-- Set bits of a mask below `n`, ascending. -/
def maskBits (n m : Nat) : List Nat := (List.range n).filter (fun j => m / 2 ^ j % 2 == 1)

/-- One entry of a block's body. -/
inductive CfgItem where
  | slot (n : Nat) (e : Word)
  | sw (w : Nat)
  | op (u : Nat) (w : Word)
  | pat (g : Nat) (p : List Word)
  | reg (r : Nat) (w : Word × Word)
  | ing (j f : Nat)
  deriving DecidableEq, Repr

/-- Bytes of the body, padding included. -/
def cfgBodyBytes (h : CfgHead) : Nat :=
  let n := 8 * (maskBits 64 h.slots.toNat).length + 8 * ((h.nsw + 3) / 4) + 8 * (maskBits 4 h.ops).length
    + 64 * (maskBits 4 h.gens).length + 16 * (maskBits 8 h.regs).length
  (n + 63) / 64 * 64

/-- Cut the body into entries in order; what is left must be zero (R286). -/
def cfgItems (h : CfgHead) (b : List Byte) : List CfgItem × Bool :=
  let le (l : List Byte) (n : Nat) : Nat := ofBytes (l.take n)
  let ss := maskBits 64 h.slots.toNat
  let (i1, b) := ss.foldl (fun (acc, b) n => (acc ++ [CfgItem.slot n (BitVec.ofNat 64 (le b 8))], b.drop 8)) ([], b)
  let i2 := (List.range h.nsw).map (fun k => CfgItem.sw (le (b.drop (2 * k)) 2))
  let swBytes := 8 * ((h.nsw + 3) / 4)
  let pad1 := ((b.take swBytes).drop (2 * h.nsw)).all (· == 0)
  let b := b.drop swBytes
  let (i3, b) := (maskBits 4 h.ops).foldl
    (fun (acc, b) n => (acc ++ [CfgItem.op n (BitVec.ofNat 64 (le b 8))], b.drop 8)) ([], b)
  let (i4, b) := (maskBits 4 h.gens).foldl (fun (acc, b) n => (acc ++ [CfgItem.pat n (wordsOf 8 b)], b.drop 64)) ([], b)
  let (i5, b) := (maskBits 8 h.regs).foldl
    (fun (acc, b) n => (acc ++ [CfgItem.reg n (BitVec.ofNat 64 (le b 8), BitVec.ofNat 64 (le (b.drop 8) 8))], b.drop 16))
    ([], b)
  (i1 ++ i2 ++ i3 ++ i4 ++ i5, pad1 && b.all (· == 0))

/-- Load one entry of a block. -/
def loadItem (s : State) (ctx : Nat) (t : Tid) : CfgItem → Except Cause State
  | .slot n e => loadSlot s ctx t n e
  | .sw w => loadSwitch s t w
  | .op u w => loadRec s t u w
  | .pat g p => loadPat s ctx t g p
  | .reg r w => loadRegion s ctx t r w
  | .ing j f => loadIngress s t j f

/-- Load entries in order with their numbers; the first refused one stops with its cause and number (R287). -/
def loadItems (s : State) (ctx : Nat) (t : Tid) : List (CfgItem × Nat) → State × Option (Cause × Nat)
  | [] => (s, none)
  | (x, k) :: l =>
    match loadItem s ctx t x with
    | .ok s' => loadItems s' ctx t l
    | .error e => (s, some (e, k))

end Sys2Proof.Machine
end

