-- ==== Sys2Proof/Machine/SeqFabric.lean ====
section
/-! DEFINITION. Fabric instructions: the loaders, ARM, DISARM, SECWAIT, STRM, SSTOP, SMARK, SEAL, TAPSET (R285 to R293,
R209 to R211, R220, R427). -/
namespace Sys2Proof.Machine

/-- A tile lies in a launch's swath (R207). -/
def inSwath (s : State) (lid : Nat) (t : Tid) : Bool :=
  isArray t && (match findLaunch s lid with
    | some l => l.quads.contains (quadOf t)
    | none => false)

/-- A headland tile configured by another live launch (R285). -/
def headForeign (s : State) (lid : Nat) (t : Tid) : Bool :=
  match s.fab.tileSec.get? t with
  | some k => (getSec s k).launch != lid && (findLaunch s (getSec s k).launch).isSome
  | none => false

/-- The tile that a selector names for a launch, if R285 accepts it. -/
def selTile (s : State) (lid : Nat) (v : Nat) : Option Tid :=
  match tidOfSel v with
  | none => none
  | some t => if isArray t then (if inSwath s lid t then some t else none) else if headForeign s lid t then none else some t

/-- A tile lies in a section that may not be configured (R287). -/
def tileBusy (s : State) (t : Tid) : Bool :=
  match s.fab.tileSec.get? t with
  | some k => (getSec s k).state.isBusy
  | none => false

/-- Put a tile into a section: it leaves the one it was loaded for (R211, R287). -/
def joinSection (s : State) (k : Nat) (t : Tid) (lid : Nat) : State :=
  let s := if s.fab.tileSec.get? t = some k then s else leaveSection s t
  let x := getSec s k
  let x := { x with
    state := .loaded, launch := lid, withdrawn := false
    tiles := if x.tiles.contains t then x.tiles else x.tiles ++ [t] }
  setSec { s with fab := { s.fab with tileSec := s.fab.tileSec.set t k } } k x

/-- The header of a block refuses: reserved bits, NSW, a kind that does not belong to the tile (R286). -/
def headBad (h : CfgHead) (t : Tid) : Bool :=
  h.reserved || 52 < h.nsw ||
  (if isHead t then h.slots != 0 || h.ing != 0 || h.regs != 0
   else if isMem t then h.slots != 0 || h.ing != 0
   else h.gens != 0 || h.regs != 0)

/-- gb is refused, or names an entry that is absent (R287). -/
def selectBad (h : CfgHead) (which : Nat) (g : Nat) : Bool :=
  match which with
  | 0 => (maskBits 64 g).any (fun n => !bitOf h.slots n)
  | 1 => g != 0
  | 2 => 16 ≤ g || (maskBits 4 g).any (fun n => !(maskBits 4 h.ops).contains n)
  | _ => 4096 ≤ g || (maskBits 4 g).any (fun n => !(maskBits 4 h.gens).contains n)
      || (maskBits 8 (g / 16)).any (fun n => !(maskBits 8 h.regs).contains n)

/-- The loader loads an entry (R287). -/
def wants (which g : Nat) : CfgItem → Bool
  | .slot n _ => which == 0 && (g == 0 || (maskBits 64 g).contains n)
  | .ing _ _ => which == 0 && g == 0
  | .sw _ => which == 1
  | .op u _ => which == 2 && (g == 0 || (maskBits 4 g).contains u)
  | .pat k _ => which == 3 && (g == 0 || (maskBits 4 g).contains k)
  | .reg r _ => which == 3 && (g == 0 || (maskBits 8 (g / 16)).contains r)

/-- A refusal of a loader: TVAL the block VA, TINFO the entry's number, all ones for the header (R287, R409). -/
def cfgRefuse (s : State) (t : Tid) (e : Cause) (va idx : Word) : State :=
  takeTrap s t e true (getCore s t).pc va idx

/-- Load the selected entries of a block whose header has been accepted: the tile passes to the named section first, also where the
first entry is then refused, and ingress entries come after the body's (R211, R287; log 140). -/
def cfgLoad (s : State) (t : Tid) (f : Firing) (which g : Nat) (va : Word) (h : CfgHead) (target : Tid)
    (items : List CfgItem) : State :=
  let s := joinSection s (secKey f.task.ctx h.sect) target f.task.launch
  let numbered := items.zipIdx ++ (maskBits 8 h.ing).map (fun j => (CfgItem.ing j (nth 0 h.ingw j), 0x100 + j))
  match loadItems s f.task.ctx target (numbered.filter (fun x => wants which g x.1)) with
  | (s, none) => setCore s t (getCore s t).finish
  | (s, some (e, k)) => cfgRefuse s t e va (BitVec.ofNat 64 k)

/-- The word of a loader. -/
def cfgWord (a b : Reg) : Nat → BitVec 32
  | 0 => encode (.cfge a b)
  | 1 => encode (.cfgs a b)
  | 2 => encode (.cfgo a b)
  | _ => encode (.cfgk a b)

/-- A loader (R287): 0 CFGE, 1 CFGS, 2 CFGO, 3 CFGK. A fallow tile takes what its router runs, and refuses the rest (R13; log
125). -/
def cfgForm (s : State) (a b : Reg) (which : Nat) : Out :=
  onCore s (fun t c f =>
    if !c.ready [a, b] then s
    else notPure s t c f (
      let va := c.opA a
      let g := (c.opB b).toNat
      let who := coreWho t f (syncKey t)
      let trap (s : State) (e : Cause) : State := syncTrap s t who (cfgWord a b which) va (c.opB b) s.xl.faultVA e
      let bad (s : State) := cfgRefuse s t Cause.cfgblk va (BitVec.allOnes 64)
      if va.toNat % 64 ≠ 0 then trapHere s t Cause.opalign va
      else if !formReads s c who va 64 then s
      else match readVA s who va 64 with
        | (.fault e, s) => trap s e
        | (.wait, s) => s
        | (.ok hb, s) =>
          let h := cfgHead (wordsOf 8 hb)
          match selTile s f.task.launch h.tsel with
          | none => bad s
          | some target =>
            if headBad h target || (s.boot.fallow.contains target && (which == 0 || which == 3)) then bad s
            else if !formReads s c who (va + 64) (cfgBodyBytes h) then s
            else match readApart s who (va + 64) (cfgBodyBytes h) with
              | (.fault e, s) => trap s e
              | (.wait, s) => s
              | (.ok body, s) =>
                let its := cfgItems h body
                if !its.2 || selectBad h which g then bad s
                else if tileBusy s target || (getSec s (secKey f.task.ctx h.sect)).state.isBusy then
                  cfgRefuse s t Cause.secstate va (BitVec.allOnes 64)
                else cfgLoad s t f which g va h target its.1))

/-- CFGE (R287). -/
def execCfge (a b : Reg) (s : State) : Out := cfgForm s a b 0

/-- CFGS (R287). -/
def execCfgs (a b : Reg) (s : State) : Out := cfgForm s a b 1

/-- CFGO (R287). -/
def execCfgo (a b : Reg) (s : State) : Out := cfgForm s a b 2

/-- CFGK (R287). -/
def execCfgk (a b : Reg) (s : State) : Out := cfgForm s a b 3

/-! ### Arming -/

/-- A stream at its first element (R80, R291). -/
def Stream.start (words : List Word) (ctx lid : Nat) (sect : Option Nat) (owner : Option (Nat × Nat)) (edge : Nat) : Stream :=
  { words := words, ctx := ctx, launch := lid, sect := sect, owner := owner, e := 0, buf := 0, fill := 0, live := 0,
    poisonTok := false, dead := false, coord := none, inTok := none, outQ := [], srcDone := false, stopping := false,
    endSeen := false, touched := [], bufs := [], rowTok := 0, unit := [], zeros := 0, skips := 0, poisonRaised := false,
    ueRaised := false, sparseRaised := false, edge := edge, held := none, inflight := [], merge := [] }

/-- A slot at ARM: empty latches, counters at their start; WINNOW's counter at BASE (R334). -/
def Slot.armed (x : Slot) : Slot :=
  let y := x.cleared
  if x.word.toNat / 2 ^ 24 = 0x47 then { y with acc := BitVec.ofNat 512 (x.const.toNat % 2 ^ 28) } else y

/-- A fragment at ARM (R360). -/
def Frag.armed (f : Frag) : Frag := { f with m := 0, maxM := 0, backReady := false, la := 0, ls := 0, hasN := false }

/-- Key of a generator's accesses (R94). -/
def genAgent (t : Tid) (g : Nat) : Nat := agentKey 2 (t * 8 + g)

/-- Start the units of one tile afresh (R211, R288, R291). -/
def armTile (k lid : Nat) (s : State) (t : Tid) : State :=
  let s := (List.range 4).foldl (fun s g => dropTorn s (genAgent t g)) s
  { s with fab := { s.fab with
      slots := mapTile s.fab.slots 64 t Slot.armed
      opunits := mapTile s.fab.opunits 4 t (fun u => { OpUnit.fresh u.recd with active := true })
      gens := mapTile s.fab.gens 4 t (fun g => if g.words.isEmpty then g
        else { g with run := some (Stream.start g.words (k / 64) lid (some k) none 0) })
      frags := (match s.fab.frags.get? t with | some f => s.fab.frags.set t f.armed | none => s.fab.frags) } }

/-- Array tiles of a section. -/
def arrayTiles (x : Section) : List Tid := x.tiles.filter isArray

/-- Least and greatest x and y of a list of array tiles: the rectangle of R288. -/
def rectOf : List Tid → Option (Nat × Nat × Nat × Nat)
  | [] => none
  | t :: l =>
    match rectOf l with
    | none => some (tileX t, tileY t, tileX t, tileY t)
    | some (x0, y0, x1, y1) => some (min x0 (tileX t), min y0 (tileY t), max x1 (tileX t), max y1 (tileY t))

/-- Two rectangles share a tile. -/
def rectsMeet (a b : Option (Nat × Nat × Nat × Nat)) : Bool :=
  match a, b with
  | some (x0, y0, x1, y1), some (u0, v0, u1, v1) => x0 ≤ u1 && u0 ≤ x1 && y0 ≤ v1 && v0 ≤ y1
  | _, _ => false

/-- Every tile of a rectangle lies in a launch's swath. -/
def rectInSwath (s : State) (lid : Nat) (r : Option (Nat × Nat × Nat × Nat)) : Bool :=
  match r with
  | none => true
  | some (x0, y0, x1, y1) =>
    (rangeFrom y0 (y1 + 1 - y0)).all (fun y => (rangeFrom x0 (x1 + 1 - x0)).all (fun x => inSwath s lid (tidOf x y)))

/-- ARM is refused by R210: a tile outside the swath, a tile of another armed section, a generator that STRM started. -/
def armRefused (s : State) (k lid : Nat) : Bool :=
  let x := getSec s k
  let r := rectOf (arrayTiles x)
  !rectInSwath s lid r ||
  s.fab.secs.any (fun e => e.1 != k && (match e.2.state with | .armed | .stopping | .stopped => true | _ => false)
    && (rectsMeet r (rectOf (arrayTiles e.2)) || x.tiles.any (fun t => e.2.tiles.contains t))) ||
  s.fab.gens.any (fun e => x.tiles.contains (e.1 / 4) && (match e.2.run with | some st => st.sect == none | none => false))

/-- Origin of a section's rectangle, as a tile number. -/
def originOf (x : Section) : Tid :=
  match rectOf (arrayTiles x) with
  | some (x0, y0, _, _) => tidOf x0 y0
  | none => 0

/-- Move the entries of a cut's tables to the tiles of the section as it now lies: array tiles by the distance between the
two rectangles, headland tiles as they are (R222). -/
def moveKeys {α : Type} (w old new : Nat) (m : SMap α) : List (Nat × α) :=
  m.map (fun e => if isArray (e.1 / w) then ((e.1 / w + new - old) * w + e.1 % w, e.2) else e)

/-- Write entries over a table. -/
def overlay {α : Type} (m : SMap α) (l : List (Nat × α)) : SMap α := l.foldl (fun m e => m.set e.1 e.2) m

/-- Put a cut's units back, and the edges they have passed (R221, R288, R426). -/
def restoreCut (s : State) (k : Nat) (c : SavedCtx) : State :=
  let s := match c.secs with
    | e :: _ => setSec s k { getSec s k with edges := e.2.edges }
    | [] => s
  let new := originOf (getSec s k)
  let old := match c.secs with
    | e :: _ => originOf e.2
    | [] => new
  { s with fab := { s.fab with
      slots := overlay s.fab.slots (moveKeys 64 old new c.slots)
      gens := overlay s.fab.gens (moveKeys 4 old new c.gens)
      opunits := overlay s.fab.opunits (moveKeys 4 old new c.opunits)
      bufs := overlay s.fab.bufs (moveKeys 128 old new c.bufs)
      switch := overlay s.fab.switch (moveKeys 64 old new c.switch)
      ingress := overlay s.fab.ingress (moveKeys 1 old new c.ingress)
      frags := overlay s.fab.frags (moveKeys 1 old new c.frags) } }

/-- Count from a new T: every slot's tile counter starts again (R216, R288). -/
def recount (s : State) (k : Nat) : State :=
  (getSec s k).tiles.foldl (fun s t => { s with fab := { s.fab with
    slots := mapTile s.fab.slots 64 t (fun x => { x with tiles := 0 }) } }) s

/-- Mark a section armed by a firing: NCTL's fields are read now (R170), and the firing's SBAR covers its streams (R101). -/
def setArmed (s : State) (t : Tid) (f : Firing) (k : Nat) (area : Word) (tc : Nat) : State :=
  let x := getSec s k
  let n := (getCtx s f.task.ctx).nctl
  let s := setSec s k { x with
    state := .armed, launch := f.task.launch, area := area, tcount := tc, stopAt := none, withdrawn := false,
    sat8 := bitOf n 1, ttrap := bitOf n 0, owner := some (t, f.task.rid) }
  setCore s t ((getCore s t).withFiring (fun f => { f with secs := f.secs ++ [k] })).finish

/-- The stored cut of a context at a save area. -/
def findCut (s : State) (ctx : Nat) (area : Word) : Option SavedCtx :=
  match s.cuts.find? (fun c => c.1 == ctx && c.2.1 == area) with
  | some c => some c.2.2
  | none => none

/-- Arm a loaded section afresh, or restore a valid cut into it (R288). -/
def armLoaded (s : State) (t : Tid) (f : Firing) (k : Nat) (area : Word) (tc : Nat) (w0 w1 : Word)
    (trap : State → Word → Cause → State) : State :=
  let who := coreWho t f (syncKey t)
  let start (s : State) : State := (getSec s k).tiles.foldl (armTile k f.task.launch) s
  if !bitOf w0 63 then
    if tc = 0 then trapOpen s t Cause.sectcfg
    else
      let s := start s
      setArmed (setSec s k { getSec s k with edges := 0, cut := none }) t f k area tc
  else
    match writeVA s who area (bytesOf 8 (withBits w0 63 63 0).toNat) with
    | (.fault e, s) => trap s area e
    | (.wait, s) => s
    | (.ok _, s) =>
      let s := start s
      let s := match findCut s f.task.ctx area with
        | some c => { restoreCut s k c with cuts := s.cuts.filter (fun x => !(x.1 == f.task.ctx && x.2.1 == area)) }
        | none => s
      let s := if tc = 0 then s else recount s k
      setArmed s t f k area (if tc = 0 then bitsOf w1 31 0 else tc)

/-- ARM (R288). -/
def execArm (a b : Reg) (n : BitVec 6) (s : State) : Out :=
  onCore s (fun t c f =>
    if !c.ready [a, b] then s
    else notPure s t c f (
      let area := c.opA a
      let tc := (c.opB b).toNat
      let k := secKey f.task.ctx n.toNat
      let x := getSec s k
      let who := coreWho t f (syncKey t)
      let trap (s : State) (at' : Word) (e : Cause) : State := syncTrap s t who (encode (.arm a b n)) area (c.opB b) at' e
      let open' := match x.state with | .loaded | .stopped => true | _ => false
      if area = 0 ∨ canonical area = false ∨ area.toNat % 64 ≠ 0 ∨ 2 ^ 32 ≤ tc ∨ open' = false then
        trapOpen s t Cause.sectcfg
      else if armRefused s k f.task.launch then trapOpen s t Cause.sectcfg
      else if !c.allPkg then s
      else match readVA s who area 64 with
        | (.fault e, s) => trap s s.xl.faultVA e
        | (.wait, s) => s
        | (.ok hb, s) =>
          let h := wordsOf 8 hb
          if x.state = .stopped then
            let s := if tc = 0 then s else recount s k
            setArmed s t f k area (if tc = 0 then x.tcount else tc)
          else armLoaded s t f k area tc (nth 0 h 0) (nth 0 h 1) trap))

/-- DISARM (R289). -/
def execDisarm (n : BitVec 6) (s : State) : Out :=
  onCore s (fun t c f =>
    notPure s t c f (
      let k := secKey f.task.ctx n.toNat
      let s := if (getSec s k).state.isBusy then disarmSec s k else s
      setCore s t (getCore s t).advance))

/-- SECWAIT's answer where the section lets it end (R290). -/
def secwaitAnswer (x : Section) : Option Word :=
  match x.state with
  | .idle => some 0
  | .stopped => some 1
  | .loaded => some (if x.withdrawn then 2 else 3)
  | .free => some 4
  | .armed | .stopping => none

/-- SECWAIT (R290). -/
def execSecwait (d : Reg) (n : BitVec 6) (s : State) : Out :=
  onCore s (fun t c f =>
    if !c.ready [d] then s
    else
      let k := secKey f.task.ctx n.toNat
      let seen := match c.waiting with
        | .secwait k' _ b => k' == k && b
        | _ => false
      match (if seen then some 3 else secwaitAnswer (getSec s k)) with
      | some v => setCore s t { (c.setGpr d v).advance with waiting := .none }
      | none => setCore s t { c with waiting := .secwait k d false })

/-! ### Streams and operators -/

/-- A generator of a tile. -/
def getGen (s : State) (t : Tid) (g : Nat) : Gen := s.fab.gens.getD (t * 4 + g) Gen.reset

/-- Replace a generator. -/
def setGen (s : State) (t : Tid) (g : Nat) (x : Gen) : State :=
  { s with fab := { s.fab with gens := s.fab.gens.set (t * 4 + g) x } }

/-- Run a form on a tile with generators that a selector names, else CFGBLK (R285, R291). -/
def withGenTile (s : State) (t : Tid) (f : Firing) (sel : Word) (k : Tid → State) : State :=
  match selTile s f.task.launch sel.toNat with
  | some m => if isMem m || isHead m then k m else trapOpen s t Cause.cfgblk
  | none => trapOpen s t Cause.cfgblk

/-- The tile lies in an armed, stopping or stopped section. -/
def tileRunning (s : State) (t : Tid) : Bool :=
  match s.fab.tileSec.get? t with
  | some k => (match (getSec s k).state with | .armed | .stopping | .stopped => true | _ => false)
  | none => false

/-- STRM (R291). -/
def execStrm (a : Reg) (n : BitVec 6) (s : State) : Out :=
  onCore s (fun t c f =>
    if !c.ready [a] then s
    else notPure s t c f (withGenTile s t f (c.gpr a) (fun m =>
      let g := getGen s m n.toNat
      if g.words.isEmpty || g.run.isSome || tileRunning s m then trapOpen s t Cause.genstate
      else if !c.allPkg then s
      else
        let st := Stream.start g.words f.task.ctx f.task.launch none (some (t, f.task.rid)) 0
        let s := setGen (dropTorn s (genAgent m n.toNat)) m n.toNat { g with run := some st }
        setCore s t (c.withFiring (fun f => { f with gens := f.gens ++ [m * 4 + n.toNat] })).advance)))

/-- A stream told to stop: a coordinate token held at a bound fault goes with its fault (R291). -/
def Stream.stop (x : Stream) : Stream :=
  match x.held with
  | some h => if h.cause = Cause.bound then { x with stopping := true, held := none, coord := none } else { x with stopping := true }
  | none => { x with stopping := true }

/-- The coordinate token of a stream held at a bound fault leaves the channel's buffer with the fault (R291). -/
def dropHeldCoord (s : State) (m : Tid) (g : Gen) : State :=
  match g.run with
  | some r =>
    match r.held with
    | some h =>
      let k := m * 128 + 5 * 16 + patCch r.words
      if h.cause = Cause.bound then { s with fab := { s.fab with bufs := s.fab.bufs.put [] k ((s.fab.bufs.getD k []).drop 1) } }
      else s
    | none => s
  | none => s

/-- SSTOP (R291). -/
def execSstop (a : Reg) (n : BitVec 6) (s : State) : Out :=
  onCore s (fun t c f =>
    if !c.ready [a] then s
    else notPure s t c f (withGenTile s t f (c.gpr a) (fun m =>
      let g := getGen s m n.toNat
      setCore (setGen (dropHeldCoord s m g) m n.toNat { g with run := g.run.map Stream.stop }) t c.advance)))

/-- A source of a section has passed every edge requested so far (R220, R292). -/
def slotPassed (edges : Nat) (x : Slot) : Bool := x.word.toNat / 2 ^ 24 != 0x54 || x.ended || edges ≤ x.edge

/-- An operator unit that is a source: COUNT without a feed of A, a root CONTROL (R353, R357). -/
def unitIsSource (s : State) (t : Tid) (u : Nat) (x : OpUnit) : Bool :=
  match recKind x.recd with
  | 6 => !(tileSwitch s t).any (fun e => e.1 == 40 + u * 2)
  | 12 => bitOf x.recd 11
  | _ => false

/-- Every source of a section has passed the edges requested (R292). -/
def sourcesPassed (s : State) (k : Nat) : Bool :=
  let x := getSec s k
  s.fab.slots.all (fun e => !x.tiles.contains (e.1 / 64) || slotPassed x.edges e.2) &&
  s.fab.opunits.all (fun e => !x.tiles.contains (e.1 / 4) || !unitIsSource s (e.1 / 4) (e.1 % 4) e.2 || e.2.eosOut
    || x.edges ≤ e.2.edge) &&
  s.fab.gens.all (fun e => !x.tiles.contains (e.1 / 4) || (match e.2.run with
    | some r => patWrite r.words || patMode r.words == 1 || r.srcDone || x.edges ≤ r.edge
    | none => true))

/-- SMARK (R292). -/
def execSmark (n : BitVec 6) (s : State) : Out :=
  onCore s (fun t c f =>
    notPure s t c f (
      let k := secKey f.task.ctx n.toNat
      let x := getSec s k
      if x.state ≠ .armed then trapOpen s t Cause.secstate
      else if !sourcesPassed s k then s
      else setCore (setSec s k { x with edges := x.edges + 1 }) t c.advance))

/-- Run a form on an operator unit of a kind, else OPSTATE (R293). -/
def withUnit (s : State) (t : Tid) (f : Firing) (sel : Word) (u kind : Nat) (k : Tid → OpUnit → State) : State :=
  match selTile s f.task.launch sel.toNat with
  | none => trapOpen s t Cause.cfgblk
  | some m =>
    let x := s.fab.opunits.getD (m * 4 + u) (OpUnit.fresh 0)
    if recKind x.recd = kind then k m x else trapOpen s t Cause.opstate

/-- Replace an operator unit. -/
def setUnit (s : State) (t : Tid) (u : Nat) (x : OpUnit) : State :=
  { s with fab := { s.fab with opunits := s.fab.opunits.set (t * 4 + u) x } }

/-- SEAL (R293, R356). -/
def execSeal (a : Reg) (n : BitVec 6) (s : State) : Out :=
  onCore s (fun t c f =>
    if !c.ready [a] then s
    else notPure s t c f (withUnit s t f (c.gpr a) n.toNat 11 (fun m x =>
      setCore (setUnit s m n.toNat (if x.eosA then x else { x with sealReq := true })) t c.advance)))

/-- TAPSET (R293): BARSCOPE on a malformed identifier comes before any other check (R112). -/
def execTapset (a b : Reg) (n : BitVec 6) (s : State) : Out :=
  onCore s (fun t c f =>
    if !c.ready [a, b] then s
    else notPure s t c f (
      if barMalformed (c.gpr b).toNat then trapOpen s t Cause.barscope
      else withUnit s t f (c.gpr a) n.toNat 10 (fun m x =>
        setCore (setUnit s m n.toNat { x with recd := withBits x.recd 63 32 (c.gpr b).toNat }) t c.advance)))

end Sys2Proof.Machine
end

