-- ==== Sys2Proof/Machine/SeqBarrier.lean ====
section
/-! DEFINITION. Barrier instructions: BINIT, BARR, BWAIT, BTEST, BCHG (R112 to R119, R294 to R297). -/
namespace Sys2Proof.Machine

/-- Complete a phase where ARRIVED = EXPECT and nothing is pending; a pod share below the top sends one arrival to its
parent instead (R116, R119). -/
def barTest (s : State) (id : Nat) : State :=
  let b := getBar s id
  if !b.v || b.arrived != b.expect || b.pending != 0 then s
  else if barScope id = 5 ∧ b.root ≠ s.boot.node then
    if b.sentUp then s else sendNode (setBar s id { b with sentUp := true }) b.root 0 [8, id, s.boot.node]
  else completeBar s id

/-- A barrier object as BINIT leaves it (R113). -/
def Barrier.init (b : Barrier) (scope expect ctx root : Nat) : Barrier :=
  { b with scope := scope, expect := expect, arrived := 0, pending := 0, early := 0, ctx := ctx, root := root, prio := 7, status := 0,
           v := true, children := [], sentUp := false }

/-- BINIT's BARCFG cases that the node itself finds (R113, R294). -/
def binitRefused (s : State) (id ctx : Nat) (g : Word) : Bool :=
  let b := getBar s id
  let root := bitsOf g 51 32
  !zeroBits g 31 24 || !zeroBits g 63 52 || bitsOf g 23 0 == 0 || (b.v && b.ctx != ctx)
    || b.arrived != 0 || b.early != 0 || b.pending != 0
    || (if barScope id = 5 then root != s.boot.node && !reachable s root else root != 0)

/-- Key under which a parent share answers a join (R119). -/
def joinKey (uid : Nat) : Nat := 2 ^ 60 + uid

/-- BINIT (R294): BARSCOPE, BARCFG, and for a share below the top the parent's answer to its join; the zero checks hold for the
step that applies it. -/
def execBinit (a b : Reg) (s : State) : Out :=
  onCore s (fun t c f =>
    if !c.ready [a, b] then s
    else notPure s t c f (
      let id := (c.gpr a).toNat
      let g := c.gpr b
      let root := bitsOf g 51 32
      let apply (s : State) : State :=
        let s := setBar s id ((getBar s id).init (barScope id) (bitsOf g 23 0) f.task.ctx root)
        setCore s t { (getCore s t).advance with waiting := .none }
      match c.waiting with
      | .binit uid =>
        if awaitsOwner s t c then s
        else match findReply s (joinKey uid) with
        | none => s
        | some r =>
          let s := dropOut s (joinKey uid)
          if r.1 = 0 ∧ binitRefused s id f.task.ctx g = false then apply s
          else trapOpen (setCore s t { c with waiting := .none }) t Cause.barcfg
      | _ =>
        if barMalformed id || !barInside id t then trapOpen s t Cause.barscope
        else if binitRefused s id f.task.ctx g then trapOpen s t Cause.barcfg
        else if barScope id = 5 ∧ root ≠ s.boot.node then
          let uid := s.eng.nextUid
          let s := sendNode s root 0 [4, id, s.boot.node, joinKey uid]
          setCore { s with eng := { s.eng with nextUid := uid + 1 } } t { c with waiting := .binit uid }
        else apply s))

/-- BARR (R295): its release, then one arrival, and the node's answer. -/
def execBarr (a b : Reg) (s : State) : Out :=
  onCore s (fun t c f =>
    if !c.ready [a, b] then s
    else notPure s t c f (
      let id := (c.gpr a).toNat
      let n := if b.val = 0 then 1 else (c.gpr b).toNat
      match c.waiting with
      | .barr uid =>
        if awaitsOwner s t c then s
        else match s.bar.answers.get? uid with
        | none => s
        | some e =>
          let s := { s with bar := { s.bar with answers := s.bar.answers.erase uid } }
          if e = 0 then setCore s t { c.advance with waiting := .none } else trapOpen (setCore s t { c with waiting := .none }) t e
      | _ =>
        if barMalformed id then trapOpen s t Cause.barscope
        else if n = 0 ∨ 2 ^ 24 ≤ n then trapOpen s t Cause.barcfg
        else if (if barScope id = 5 then !c.allPod else !c.allPkg) || c.amsgw.isSome then s
        else
          let uid := s.eng.nextUid
          let s := { s with
            eng := { s.eng with nextUid := uid + 1 }
            bar := { s.bar with arrivals := s.bar.arrivals ++ [⟨id, n, f.task.ctx, f.task.launch, .core t uid⟩] } }
          setCore s t { c with waiting := .barr uid }))

/-- The result word of BWAIT and BTEST (R296). -/
def barResult (b : Barrier) (p : Nat) : Word :=
  BitVec.ofNat 64 ((if phaseDone b.phase p then 2 ^ 63 else 0) + b.phase * 65536 + b.status)

/-- BWAIT (R296, R118): it waits from here until BWAIT_OBSERVE. -/
def execBwait (a b d : Reg) (s : State) : Out :=
  onCore s (fun t c f =>
    if !c.ready [a, b, d] then s
    else match c.waiting with
      | .bwait _ _ _ => s
      | _ =>
        let id := (c.gpr a).toNat
        if barMalformed id then trapOpen s t Cause.barscope
        else if !zeroBits (c.gpr b) 63 16 then trapOpen s t Cause.barcfg
        else if barRefuses s id f.task.ctx t then trapOpen s t Cause.barscope
        else
          let s := lowerPrio s id (firingClass s t f)
          setCore s t { c with waiting := .bwait id (bitsOf (c.gpr b) 15 0) d })

/-- BTEST (R296): one read. -/
def execBtest (a b d : Reg) (s : State) : Out :=
  onCore s (fun t c f =>
    if !c.ready [a, b, d] then s
    else
      let id := (c.gpr a).toNat
      if barMalformed id then trapOpen s t Cause.barscope
      else if !zeroBits (c.gpr b) 63 16 then trapOpen s t Cause.barcfg
      else if barRefuses s id f.task.ctx t then trapOpen s t Cause.barscope
      else setCore s t (c.setGpr d (barResult (getBar s id) (bitsOf (c.gpr b) 15 0))).advance)

/-- BCHG (R297): the operation that gb bits 63:62 select. -/
def bchg (s : State) (a b : Reg) : Out :=
  onCore s (fun t c f =>
    if !c.ready [a, b] then s
    else notPure s t c f (
      let id := (c.gpr a).toNat
      let g := c.gpr b
      let x := getBar s id
      if barRefuses s id f.task.ctx t then trapOpen s t Cause.barscope
      else match bitsOf g 63 62 with
        | 0 =>
          let e := bitsOf g 23 0
          let early := x.early + (x.arrived - e)
          if e = 0 ∨ e < early ∨ zeroBits g 61 24 = false then trapOpen s t Cause.barcfg
          else
            let s := setBar s id { x with expect := e, early := early, arrived := min x.arrived e }
            setCore (barTest s id) t c.advance
        | 1 =>
          if x.arrived ≠ 0 ∨ x.early ≠ 0 ∨ x.pending ≠ 0 ∨ zeroBits g 61 0 = false then trapOpen s t Cause.barcfg
          else setCore (setBar s id { x with v := false }) t c.advance
        | _ => trapOpen s t Cause.barcfg))

/-- BCHG, listed as setting EXPECT: one word, gb selects at run time (R297). -/
def execBchgSetExpect (a b : Reg) (s : State) : Out := bchg s a b

/-- BCHG, listed as releasing: one word, gb selects at run time (R297). -/
def execBchgRelease (a b : Reg) (s : State) : Out := bchg s a b

end Sys2Proof.Machine
end

