-- ==== Sys2Proof/Machine/Granary.lean ====
section
/-! DEFINITION. SHAKE256 and the granary's keys, lookups and entries (R143, R252, R391 to R394), and PUBLISH's swap (R111). -/
namespace Sys2Proof.Machine

/-! ### SHAKE256 -/

/-- Rotation counts of the lanes in the order the permutation visits them. -/
def keccakRot : List Nat := [1, 3, 6, 10, 15, 21, 28, 36, 45, 55, 2, 14, 27, 41, 56, 8, 25, 43, 62, 18, 39, 61, 20, 44]

/-- Lanes in the order the permutation visits them. -/
def keccakLane : List Nat := [10, 7, 11, 17, 18, 3, 5, 16, 8, 21, 24, 4, 15, 23, 19, 13, 12, 2, 20, 14, 22, 9, 6, 1]

/-- Round constants. -/
def keccakConst : List (BitVec 64) :=
  [0x0000000000000001, 0x0000000000008082, 0x800000000000808A, 0x8000000080008000, 0x000000000000808B,
   0x0000000080000001, 0x8000000080008081, 0x8000000000008009, 0x000000000000008A, 0x0000000000000088,
   0x0000000080008009, 0x000000008000000A] ++
  [0x000000008000808B, 0x800000000000008B, 0x8000000000008089, 0x8000000000008003, 0x8000000000008002,
   0x8000000000000080, 0x000000000000800A, 0x800000008000000A, 0x8000000080008081, 0x8000000000008080,
   0x0000000080000001, 0x8000000080008008]

/-- The column step. -/
def keccakTheta (a : List (BitVec 64)) : List (BitVec 64) :=
  let c := (List.range 5).map (fun x => nth 0 a x ^^^ nth 0 a (x + 5) ^^^ nth 0 a (x + 10) ^^^ nth 0 a (x + 15) ^^^ nth 0 a (x + 20))
  (List.range 25).map (fun i => nth 0 a i ^^^ nth 0 c ((i + 4) % 5) ^^^ (nth 0 c ((i + 1) % 5)).rotateLeft 1)

/-- The rotation and placement step. -/
def keccakRhoPi (a : List (BitVec 64)) : List (BitVec 64) :=
  ((keccakLane.zip keccakRot).foldl (fun (x : List (BitVec 64) × BitVec 64) jr =>
    (setNth x.1 jr.1 (x.2.rotateLeft jr.2), nth 0 x.1 jr.1)) (a, nth 0 a 1)).1

/-- The row step. -/
def keccakChi (a : List (BitVec 64)) : List (BitVec 64) :=
  (List.range 25).map (fun i =>
    let y := i / 5 * 5
    nth 0 a i ^^^ (~~~ nth 0 a (y + (i + 1) % 5) &&& nth 0 a (y + (i + 2) % 5)))

/-- The permutation of 1,600 bits. -/
def keccakF (a : List (BitVec 64)) : List (BitVec 64) :=
  keccakConst.foldl (fun a k =>
    match keccakChi (keccakRhoPi (keccakTheta a)) with
    | x :: l => (x ^^^ k) :: l
    | [] => []) a

/-- XOR a block of 136 bytes into the state. -/
def keccakAbsorb (a : List (BitVec 64)) (b : List Byte) : List (BitVec 64) :=
  let w := wordsOf 17 b
  keccakF ((List.range 25).map (fun i => nth 0 a i ^^^ nth 0 w i))

/-- Absorb all blocks of a padded message. -/
def keccakBlocks : Nat → List (BitVec 64) → List Byte → List (BitVec 64)
  | 0, a, _ => a
  | n + 1, a, m => keccakBlocks n (keccakAbsorb a (m.take 136)) (m.drop 136)

/-- The padding of SHAKE256: 1111, then 10…01. -/
def shakePad (m : List Byte) : List Byte :=
  let k := 136 - m.length % 136
  if k = 1 then m ++ [0x9F] else m ++ [0x1F] ++ List.replicate (k - 2) 0 ++ [0x80]

/-- The first 32 bytes of SHAKE256 (R143, R252, R391). -/
def shake256 (m : List Byte) : List Byte :=
  let p := shakePad m
  (bytesOfWords (keccakBlocks (p.length / 136) (List.replicate 25 0) p)).take 32

/-! ### Keys (R391) -/

/-- VA of the code object of a launch (R378). -/
def launchCode (l : Launch) : Word := vaSext (bitsOf (nth 0 l.words 0) 56 6 * 64)

/-- The digest of a launch's object, as formed at its fill (R383). -/
def launchDigest (s : State) (lid : Nat) : List Byte :=
  match findLaunch s lid with
  | none => []
  | some l =>
    match s.ln.code.find? (fun c => c.ctx == l.ctx && c.va == launchCode l && l.dies.contains c.die) with
    | some c => c.digest
    | none => []

/-- Put a page with the class of its range into an ascending list without repeats; class 3 counts where any range of the page
has it (R52). -/
def insertPage (x : Nat × Nat) : List (Nat × Nat) → List (Nat × Nat)
  | [] => [x]
  | y :: l =>
    if x.1 < y.1 then x :: y :: l
    else if x.1 = y.1 then (if x.2 = 3 then x else y) :: l
    else y :: insertPage x l

/-- The 64 KiB IA pages that n bytes at a VA touch, with their ranges' classes, block by block, ascending. -/
def iaPages (s : State) (who : Who) : List (Word × Nat) → Except Cause (List (Nat × Nat))
  | [] => .ok []
  | (va, _) :: l =>
    match translate s who va .read with
    | .error c => .error c
    | .ok r =>
      match iaPages s who l with
      | .error c => .error c
      | .ok ps => .ok (insertPage (r.1 / 65536, r.2) ps)

/-- The generations of pages, each behind its page IA; none where one is volatile (R48, R50, R391). -/
def pageKeys (s : State) : List (Nat × Nat) → Res (Option (List Byte)) × State
  | [] => (.ok (some []), s)
  | p :: l =>
    match readGen s (p.1 * 65536) p.2 with
    | (.fault c, s) => (.fault c, s)
    | (.wait, s) => (.wait, s)
    | (.ok g, s) =>
      match pageKeys s l with
      | (.ok (some m), s) =>
        (.ok (if g = BitVec.allOnes 32 then none
          else some (0 :: bytesOf 8 (p.1 * 65536) ++ bytesOf 4 g.toNat ++ m)), s)
      | x => x

/-- The part of a key that the input descriptors make; `j` counts the digests at FRAME (R391). -/
def inputKeys (s : State) (who : Who) (frame : Word) : Nat → List TileDesc → Res (Option (List Byte)) × State
  | _, [] => (.ok (some []), s)
  | j, d :: l =>
    if d.out then inputKeys s who frame j l
    else if d.d then
      match readVA s who (frame + BitVec.ofNat 64 (32 * j)) 32 with
      | (.fault c, s) => (.fault c, s)
      | (.wait, s) => (.wait, s)
      | (.ok bs, s) =>
        match inputKeys s who frame (j + 1) l with
        | (.ok (some m), s) => (.ok (some (1 :: bs ++ m)), s)
        | x => x
    else
      let n := descBytes s who d
      match iaPages s who (cutBlocks (n + 1) d.va n) with
      | .error c => (.fault c, s)
      | .ok ps =>
        match pageKeys s ps with
        | (.fault c, s) => (.fault c, s)
        | (.wait, s) => (.wait, s)
        | (.ok a, s) =>
          match inputKeys s who frame j l, a with
          | (.ok (some m), s), some a => (.ok (some (a ++ m)), s)
          | (.ok _, s), _ => (.ok none, s)
          | x, _ => x

/-- The granary key of a task, or none where it is not keyable (R391). -/
def granaryKey (s : State) (who : Who) (lid : Nat) (frame : Word) (live : Nat) (regs : List Word) (ds : List TileDesc) :
    Res (Option (List Byte)) × State :=
  let badFrame := ds.any (fun d => !d.out && d.d) && (!canonical frame || frame.toNat % 32 != 0)
  if ds.any (fun d => d.kind == 1) || badFrame then (.ok none, s)
  else match inputKeys s who frame 0 ds with
    | (.ok (some m), s) =>
      let head := bytesOf 32 (Sys2Proof.Config.tenantKey (getCtx s who.ctx).tenant).toNat ++ launchDigest s lid
        ++ bytesOf 8 frame.toNat ++ bytesOf 2 live ++ bytesOfWords regs
      (.ok (some (shake256 (head ++ m))), s)
    | x => x

/-! ### Entries (R392 to R394) -/

/-- Byte counts of the output descriptors, in list order. -/
def outSizes (s : State) (who : Who) (ds : List TileDesc) : List Nat :=
  (ds.filter (fun d => d.out)).map (fun d => descBytes s who d)

/-- The entry that a lookup on a die matches, if the table is enabled (R392, R393). -/
def granMatch (s : State) (die : Nat) (key : List Byte) (sizes : List Nat) : Option GranEntry :=
  if !bitOf s.ln.grtab 63 then none
  else s.ln.gran.find? (fun e => e.key == key && e.outs.map List.length == sizes
    && (match e.onDie with | some d => d == die | none => true))

/-- Remove the entries of a tenant that a test selects (R301). -/
def granRemove (s : State) (p : GranEntry → Bool) : State :=
  { s with ln := { s.ln with gran := s.ln.gran.filter (fun e => !p e) } }

/-- The granary answers a probe: 0 would miss, 1 would hit, 2 not keyable (R302). -/
def granProbe (s : State) (who : Who) (die lid : Nat) (h : List Word) (regs : List Word) (ds : List TileDesc) :
    Res Nat × State :=
  if !crPure h then (.ok 2, s)
  else match granaryKey s who lid (nth 0 h 1) (crLive h) regs ds with
    | (.fault c, s) => (.fault c, s)
    | (.wait, s) => (.wait, s)
    | (.ok none, s) => (.ok 2, s)
    | (.ok (some k), s) => (.ok (if (granMatch s die k (outSizes s who ds)).isSome then 1 else 0), s)

/-! ### PUBLISH (R111) -/

/-- Advance the generation of one page that a shadow is published onto (R46, R47). -/
def publishPage (s : State) (page : Nat) : State :=
  let ia := page * 65536
  if inWindow ia then (if windowOk s ia then windowAdvance s (windowTid ia) (ia % 2 ^ 20) else s)
  else match lookupPage s ia 0 with
    | (.ok e, s) => if leafTier e.w0 = 2 then s else pageAdvance s page
    | (.error _, s) => s

/-- Advance the generation of every page that a buffer of n bytes at an IA lies on (R46; log 130). -/
def publishPages (s : State) (ia n : Nat) : State :=
  (rangeFrom (ia / 65536) ((ia + n + 65535) / 65536 - ia / 65536)).foldl publishPage s

/-- Swap FRONT and SHADOW of an entry and advance VER, in one step; the shadow's pages count a write (R46, R111). -/
def publishSwap (s : State) (ctx e : Nat) : State :=
  let w := (getCtx s ctx).bufmap.getD e (0, 0, 0, 0)
  let s := publishPages s (bitsOf w.2.2.2 47 6 * 64) (bitsOf w.2.1 63 32 * 64)
  let c := getCtx s ctx
  setCtx s ctx { c with bufmap := c.bufmap.set e (w.1, withBits w.2.1 31 16 (bitsOf w.2.1 31 16 + 1), w.2.2.2, w.2.2.1) }

/-- First byte of an engine command's destination (R140 to R146). -/
def engDst (c : EngCmd) : Word :=
  let w (i : Nat) : Word := nth 0 c.words (4 + i)
  match bitsOf (nth 0 c.words 0) 63 56 with
  | 1 | 3 => w 1
  | 2 => w 0
  | 4 | 10 => w 2
  | 5 => w 0
  | 6 | 12 | 13 | 14 | 15 => w 3
  | 11 => w 1
  | _ => 0

/-- A command that writes an entry's shadow: SHD set, and its destination starts in the entry (R138). -/
def writesShadow (w : Word × Word × Word × Word) (c : EngCmd) : Bool :=
  bitOf (nth 0 c.words 0) 32 && (let v := bitsOf (engDst c) 56 0
    bitsOf w.1 56 6 * 64 ≤ v && v < (bitsOf w.1 56 6 + bitsOf w.2.1 63 32) * 64)

/-- Commands of a context accepted into inboxes that write an entry's shadow and have not drained (R111). -/
def shadowWriters (s : State) (ctx e : Nat) : List Nat :=
  let w := (getCtx s ctx).bufmap.getD e (0, 0, 0, 0)
  s.eng.inbox.flatMap (fun q => (q.2.filter (fun c => engCtx c == ctx && c.state != .ended && writesShadow w c)).map (·.uid))

end Sys2Proof.Machine
end

