-- ==== Sys2Proof/Machine/SeqMessage.lean ====
section
/-! DEFINITION. Messages, publishing and the granary from a sequencer: AMSG, AMSGW, PUBLISH, GINV, GPROBE (R298, R300 to
R302), with MESSAGE_INJECT (R23, R125, R126). -/
namespace Sys2Proof.Machine

/-- The injection unit's fields of a core's message (R125): CTX, PRIO not above the firing's class, SYS, H clear, SNODE and
the tile. -/
def fillHeader (s : State) (t : Tid) (c : Core) (f : Firing) (w : List Word) : List Word :=
  let w0 := nth 0 w 0
  let w0 := withBits w0 55 50 f.task.ctx
  let w0 := withBits w0 49 47 (max (bitsOf w0 49 47) (firingClass s t f))
  let w0 := withBits (withBits w0 29 29 0) 28 28 c.sys.toNat
  let w3 := withBits (nth 0 w 3) 31 0 (s.boot.node % 2 ^ 20 * 4096 + tileY t * 64 + tileX t)
  setNth (setNth w 0 w0) 3 w3

/-- Read a message whole: a header flit, then NFLIT flits (R298). -/
def readMessage (s : State) (who : Who) (va : Word) : Res (List Word) × State :=
  match readVA s who va 32 with
  | (.ok hb, s) =>
    let h := wordsOf 4 hb
    let n := bitsOf (nth 0 h 0) 38 35
    match readApart s who (va + 32) (32 * n) with
    | (.ok bs, s) => (.ok (h ++ wordsOf (4 * n) bs), s)
    | (.fault c, s) => (.fault c, s)
    | (.wait, s) => (.wait, s)
  | (.fault c, s) => (.fault c, s)
  | (.wait, s) => (.wait, s)

/-- Put a message into the injection buffer of a core (R23). -/
def bufferMessage (s : State) (t : Tid) (c : Core) (f : Firing) (w : List Word) : State × Nat :=
  let w := fillHeader s t c f w
  let uid := s.eng.nextUid
  let m : Msg := ⟨uid, t, quadCore (bitsOf (nth 0 w 1) 43 35), bitsOf (nth 0 w 1) 63 44, 2, w, some (t, f.task.rid),
    f.task.launch, false, none, none⟩
  ({ s with fab := { s.fab with msgs := s.fab.msgs ++ [m] }, eng := { s.eng with nextUid := uid + 1 } }, uid)

/-- AMSG (R298): reads and sends the message, then waits for its acknowledgement. -/
def execAmsg (a d : Reg) (s : State) : Out :=
  onCore s (fun t c f =>
    match c.waiting with
    | .amsg _ _ => s
    | _ =>
      if !c.ready [a, d] then s
      else notPure s t c f (
        let va := c.opA a
        let who := coreWho t f (syncKey t)
        if va.toNat % 32 ≠ 0 then trapOpen s t Cause.opalign
        else if !c.acqDone || !formReads s c who va 512 then s
        else match readMessage s who va with
          | (.fault e, s) => syncTrap s t who (encode (.amsg a d)) va 0 s.xl.faultVA e
          | (.wait, s) => s
          | (.ok w, s) =>
            let r := bufferMessage s t (getCore s t) f w
            setCore r.1 t { (getCore r.1 t).withFiring (fun f => { f with
              task := { f.task with engcmds := f.task.engcmds ++ [r.2] } }) with waiting := .amsg r.2 d }))

/-- AMSGW (R298): done once the message is in the injection buffer; a second one waits for the first's acknowledgement. -/
def execAmsgw (a : Reg) (s : State) : Out :=
  onCore s (fun t c f =>
    if !c.ready [a] then s
    else notPure s t c f (
      let va := c.opA a
      let who := coreWho t f (syncKey t)
      if va.toNat % 32 ≠ 0 then trapOpen s t Cause.opalign
      else if c.amsgw.isSome || !c.acqDone || !formReads s c who va 512 then s
      else match readMessage s who va with
        | (.fault e, s) => syncTrap s t who (encode (.amsgw a)) va 0 s.xl.faultVA e
        | (.wait, s) => s
        | (.ok w, s) =>
          let r := bufferMessage s t (getCore s t) f w
          setCore r.1 t { ((getCore r.1 t).withFiring (fun f => { f with
            task := { f.task with engcmds := f.task.engcmds ++ [r.2] } })).finish with amsgw := some (r.2, va) }))

/-- A refusal reaches the sender of a message: AMSG's result word, or a cause raised to the context for AMSGW (R298). -/
def refuseToSender (s : State) (m : Msg) (status : Nat) (cause : Cause) : State :=
  let c := getCore s m.src
  match c.waiting with
  | .amsg uid d =>
    if uid = m.uid then
      let v : Word := BitVec.ofNat 64 (2 ^ 63 + status * 2 ^ 32 + cause.toNat)
      setCore s m.src { (c.setGpr d v).finish with waiting := .none }
    else s
  | _ => s

/-- The VA of an AMSGW whose acknowledgement is due to a core, cleared (R298). -/
def takeAmsgw (s : State) (m : Msg) : Option Word × State :=
  let c := getCore s m.src
  match c.amsgw with
  | some (uid, va) => if uid = m.uid then (some va, setCore s m.src { c with amsgw := none }) else (none, s)
  | none => (none, s)

/-- The injection unit refuses a message (R126): no link of its flow leads to its node, or its quad is fallow. -/
def injectRefused (s : State) (m : Msg) : Bool :=
  if m.node = s.boot.node then quadFallow s (bitsOf (nth 0 m.words 1) 43 35) else !linkUp s m.src m.node

/-- A port's fields of a message that the host sends (R125): SNODE this node, SX and SY 0, H set, SYS clear; CTX is the host's. -/
def hostHeader (s : State) (w : List Word) : List Word :=
  let w0 := withBits (withBits (nth 0 w 0) 29 29 1) 28 28 0
  setNth (setNth w 0 w0) 3 (withBits (nth 0 w 3) 31 0 (s.boot.node % 2 ^ 20 * 4096))

/-- The oldest message that the host has written is taken by the port's injection unit (R125; log 129). -/
def takeHostCommand (s : State) : State :=
  match s.host.commands with
  | [] => s
  | w :: rest =>
    let w := hostHeader s w
    let m : Msg := ⟨s.eng.nextUid, 0, quadCore (bitsOf (nth 0 w 1) 43 35), bitsOf (nth 0 w 1) 63 44, 2, w, none, 0, false, none, none⟩
    { s with host := { s.host with commands := rest }, fab := { s.fab with msgs := s.fab.msgs ++ [m] }
             eng := { s.eng with nextUid := s.eng.nextUid + 1 } }

/-- A message is injected: it is the last of those under way from here, and one for another node leaves on the link that it chooses now
(R24, R462). -/
def injectMessage (s : State) (m : Msg) : State :=
  let m := { m with injected := true, resendAt := none, link := if m.node = s.boot.node then none else linkFor s m.src m.node }
  let s := { s with fab := { s.fab with msgs := s.fab.msgs.filter (fun x => x.uid != m.uid) ++ [m] } }
  if m.node = s.boot.node then s else { s with host := { s.host with netOut := s.host.netOut ++ [m] } }

/-- An injection unit's refusal with ENGNODE reaches the sender: AMSG's result, or a cause raised to the context for AMSGW and for
a host's message (R126, R298; log 129). -/
def refuseNode (s : State) (m : Msg) : State :=
  let s := { s with fab := { s.fab with msgs := s.fab.msgs.filter (fun x => x.uid != m.uid) } }
  let ctx := bitsOf (nth 0 m.words 0) 55 50
  if m.sender.isNone then appendEvent s ctx ⟨Cause.engnode, 3, 0, m.src, 0, 0, 0⟩
  else match takeAmsgw s m with
    | (some va, s) => appendEvent s ctx ⟨Cause.engnode, 3, 0, m.src, 0, va, 0⟩
    | (none, s) => refuseToSender s m 2 Cause.engnode

/-- MESSAGE_INJECT of `ops` = [uid, host]: the whole message enters the plane, or is refused with ENGNODE (R23, R126, R298); `host`
not 0 takes the next one that the host has written (R125). -/
def execMessageInject (s : State) : Out :=
  if s.op 1 ≠ 0 then .next (takeHostCommand s)
  else match s.fab.msgs.find? (fun m => m.uid == s.op 0 && !m.injected) with
    | none => .next s
    | some m => .next (if injectRefused s m then refuseNode s m else injectMessage s m)

/-- PUBLISH (R300, R111): NOENTRY is precise; the core stream's accesses are performed first, then the commands that write
the shadow have drained, then one step swaps. -/
def execPublish (sc : Scope) (e : BitVec 6) (s : State) : Out :=
  onCore s (fun t c f =>
    notPure s t c f (
      let swap (s : State) : State :=
        setCore (publishSwap s f.task.ctx e.toNat) t { (getCore s t).advance with waiting := .none }
      match c.waiting with
      | .publish ws => if engDrained s ws then swap s else s
      | _ =>
        if !bitOf ((getCtx s f.task.ctx).bufmap.getD e.toNat (0, 0, 0, 0)).1 0 then trapOpen s t Cause.noentry
        else if (match sc with | .pod => !c.allPod | _ => !c.allPkg) then s
        else
          let ws := shadowWriters s f.task.ctx e.toNat
          if ws.isEmpty then swap s else setCore s t { c with waiting := .publish ws }))

/-- GINV (R301): OPALIGN, then GINVARG, then PRIV, all precise (log 150); the entries go from index and table at once. -/
def execGinv (a b : Reg) (s : State) : Out :=
  onCore s (fun t c f =>
    if !c.ready [a, b] then s
    else notPure s t c f (
      let g := c.opB b
      let va := c.opA a
      let ten := bitOf g 1
      let all := bitOf g 0
      let who := coreWho t f (syncKey t)
      let tenant := if ten then bitsOf g 63 48 else (getCtx s f.task.ctx).tenant
      if va.toNat % 32 ≠ 0 then trapOpen s t Cause.opalign
      else if !zeroBits g 47 2 || (!ten && !zeroBits g 63 48) || (all && va != 0) then trapOpen s t Cause.ginvarg
      else if ten && !c.sys then trapOpen s t Cause.priv
      else if all then setCore (granRemove s (fun e => e.tenant == tenant)) t c.finish
      else if !formReads s c who va 32 then s
      else match readVA s who va 32 with
        | (.fault e, s) => syncTrap s t who (encode (.ginv a b)) va g s.xl.faultVA e
        | (.wait, s) => s
        | (.ok bs, s) => setCore (granRemove s (fun e => e.tenant == tenant && e.code == bs)) t (getCore s t).finish))

/-- A loaded header breaks R197: reserved bits, EARLY, SENT and WKIND in a record that software wrote, addresses, QUAD. -/
def headerBad (s : State) (software : Bool) (lid : Nat) (h : List Word) : Bool :=
  let w (i : Nat) : Word := nth 0 h i
  let quadBad := crQuad h != 0x3FF && !(match findLaunch s lid with
    | some l => l.quads.contains (crQuad h)
    | none => false)
  !zeroBits (w 0) 63 57 || !zeroBits (w 0) 1 0 || !zeroBits (w 2) 63 57 || !zeroBits (w 2) 3 0
    || !zeroBits (w 3) 63 57 || !zeroBits (w 3) 2 0 || !zeroBits (w 4) 40 38 || !zeroBits (w 4) 31 24
    || !zeroBits (w 5) 41 40 || !zeroBits (w 5) 29 3 || !zeroBits (w 6) 59 48
    || (software && (bitOf (w 4) 41 || w 7 != 0 || !zeroBits (w 6) 63 60))
    || !canonical (crCode h) || !canonical (crTiles h) || !canonical (crSucc h) || quadBad

/-- A tile descriptor breaks R90, apart from what its address says. -/
def descFieldsBad (d : TileDesc) : Bool :=
  d.reserved || d.kind == 3
    || (if d.kind = 2 then d.len == 0 || d.count != 0
        else if d.kind = 1 then d.len != 0 || d.count == 0 || 16384 < d.count
        else d.len != 0 || d.count != 0)
    || (d.d && (d.out || d.kind == 1)) || (d.rel && (d.out || d.kind != 0))

/-- Where a descriptor of KIND 0 or 1 points: tile, region and buffer (R90). -/
def descPlace (s : State) (who : Who) (d : TileDesc) : Except Cause (Option (Tid × Nat × Nat)) :=
  match translate s who d.va .read with
  | .error c => .error c
  | .ok r =>
    if !inWindow r.1 then .ok none
    else
      let t := windowTid r.1
      let off := r.1 % 2 ^ 20
      match regionAt s t off with
      | none => .ok none
      | some k =>
        let w := region s t k
        if regCtx w ≠ who.ctx then .ok none
        else if d.kind = 0 ∧ regMode w = 1 then
          let bb := regLen w / (bitsOf w.2 2 0 + 1) * 64
          if bb ≠ 0 ∧ (off - regBase w) % bb = 0 then .ok (some (t, k, (off - regBase w) / bb)) else .ok none
        else if d.kind = 1 ∧ regMode w = 2 ∧ off = regBase w then .ok (some (t, k, 0)) else .ok none

/-- Every descriptor of a list passes R90: none, or the cause. -/
def descsCause (s : State) (who : Who) : List TileDesc → Option Cause
  | [] => none
  | d :: l =>
    if descFieldsBad d then some Cause.tiledecl
    else if d.kind = 2 then
      (match translate s who d.va .read with
       | .error c => some c
       | .ok _ => descsCause s who l)
    else match descPlace s who d with
      | .error c => some c
      | .ok none => some Cause.tiledecl
      | .ok (some _) => descsCause s who l

/-- The tile list of a header, examined (R89, R90). -/
def examineTiles (s : State) (who : Who) (tiles : Word) : Res (List TileDesc) × State :=
  if tiles = 0 then (.ok [], s)
  else match readTiles s who 16 tiles with
    | (.fault c, s) => (.fault c, s)
    | (.wait, s) => (.wait, s)
    | (.ok none, s) => (.fault Cause.tiledecl, s)
    | (.ok (some ds), s) =>
      match descsCause s who ds with
      | some c => (.fault c, s)
      | none => (.ok ds, s)

/-- GPROBE (R302): CRBAD and TILEDECL are after-issue faults. -/
def execGprobe (a d : Reg) (s : State) : Out :=
  onCore s (fun t c f =>
    if !c.ready [a, d] then s
    else
      let va := c.opA a
      let who := coreWho t f (syncKey t)
      let trap (s : State) (e : Cause) (x : Word) : State := syncTrap s t who (encode (.gprobe a d)) va 0 x e
      if va.toNat % 64 ≠ 0 then trapOpen s t Cause.opalign
      else if !formReads s c who va 192 then s
      else match readCR s who va with
        | (.fault e, s) => trap s e s.xl.faultVA
        | (.wait, s) => s
        | (.ok (h, rs), s) =>
          if headerBad s true f.task.launch h then trap s Cause.crbad va
          else if !formReads s c who (crTiles h) 272 then s
          else match examineTiles s who (crTiles h) with
            | (.fault e, s) => trap s e (if e = Cause.tiledecl then crTiles h else s.xl.faultVA)
            | (.wait, s) => s
            | (.ok ds, s) =>
              match granProbe s who (dieOf t) f.task.launch h rs ds with
              | (.fault e, s) => trap s e s.xl.faultVA
              | (.wait, s) => s
              | (.ok v, s) => setCore s t ((getCore s t).setGpr d (BitVec.ofNat 64 v)).finish)

end Sys2Proof.Machine
end

