-- ==== Sys2Proof/Machine/SeqSystem.lean ====
section
/-! DEFINITION. System instructions: TRAP, RETT, WPT, HALT, NOP, TIME, EVRD (R303 to R306, R410). CRD, CWR and RFILL stand
with the registers in ControlRegs. -/
namespace Sys2Proof.Machine

/-- TRAP (R303): precise cause 0x3C0 + n with TVAL n; the frame's PC is the next instruction, where RETT resumes (log 15). -/
def execTrap (n : BitVec 6) (s : State) : Out :=
  onCore s (fun t c _ =>
    takeTrap s t (Cause.trap0 + BitVec.ofNat 10 n.toNat) true (c.pc + 4) (n.setWidth 64) 0)

/-- RETT (R276, R303, R410). -/
def execRett (s : State) : Out := onCore s (fun t c f => needSys s t c (returnFromTrap s t c f))

/-- HALT (R304): the core stops with its state kept, and the host is told (log 16). -/
def execHalt (s : State) : Out :=
  onCore s (fun t c f =>
    needSys s t c (hostEvent (setCore s t { c with halted := true }) 0 f.task.ctx f.task.launch (tselOf t) 0))

/-- NOP (R304). -/
def execNop (s : State) : Out := onCore s (fun t c _ => setCore s t c.advance)

/-- TIME (R304): device time in ns. -/
def execTime (d : Reg) (s : State) : Out := regOp s [] d (fun _ => BitVec.ofNat 64 s.clk.dtime)

/-- EVRD (R305): NECNT_k, with TOTAL cleared in the same step where asked. -/
def execEvrd (d : Reg) (clear : Bool) (k : BitVec 3) (s : State) : Out :=
  onCore s (fun t c f =>
    if !c.ready [d] then s
    else
      let s := windowsTo s f.task.ctx
      let x := getCtx s f.task.ctx
      let w := nth 0 x.necnt k.toNat
      let s := if clear then setCtx s f.task.ctx { x with necnt := setNth x.necnt k.toNat (withBits w 63 32 0) } else s
      setCore s t (c.setGpr d w).advance)

/-- A watchpoint pair is refused (R306). -/
def wptBad (ia ctl : Word) : Bool :=
  let hi := ia.toNat + (bitsOf ctl 31 16 + 1) * 128
  let win := 15 * 2 ^ 44
  !zeroBits ia 6 0 || !zeroBits ctl 63 32 || !zeroBits ctl 15 1 || decide (2 ^ 48 < hi)
    || (decide (ia.toNat < win) && decide (win < hi))

/-- Set a watchpoint pair of a context, or refuse it (R306, R310). -/
def wptCommit (s : State) (ctx w : Nat) (ia ctl : Word) : Except Cause State :=
  if wptBad ia ctl then .error Cause.wptcfg
  else
    let x := getCtx s ctx
    .ok (setCtx s ctx { x with wpts := setNth x.wpts w (ia, ctl) })

/-- WPT (R276, R306). -/
def execWpt (a b : Reg) (w : BitVec 6) (s : State) : Out :=
  onCore s (fun t c f =>
    if !c.ready [a, b] then s
    else needSys s t c (
      match wptCommit s f.task.ctx w.toNat (c.gpr a) (c.gpr b) with
      | .ok s => setCore s t c.advance
      | .error e => trapOpen s t e))

end Sys2Proof.Machine
end

