-- ==== Sys2Proof/Machine/Latches.lean ====
section
/-! DEFINITION. Where a slot runs, and its latches (R211, R212, R312, R313). -/
namespace Sys2Proof.Machine

/-! ### Where a slot runs -/

/-- The armed or stopping section that a tile belongs to, with what its units need. -/
structure Env where
  t : Tid
  n : Nat
  k : Nat
  ctx : Nat
  lid : Nat
  sat8 : Bool
  ttrap : Bool
  edges : Nat
  stopAt : Option Nat
  tcount : Nat
  deriving DecidableEq, Repr

/-- The environment of unit `n` of a tile; none where its section is not armed or stopping (R211). -/
def envOf (s : State) (t : Tid) (n : Nat) : Option Env :=
  match s.fab.tileSec.get? t with
  | none => none
  | some k =>
    let x := getSec s k
    match x.state with
    | .armed | .stopping =>
      some ⟨t, n, k, k / 64, x.launch, x.sat8, x.ttrap, x.edges, x.stopAt, x.tcount⟩
    | _ => none

/-- A unit that has forwarded `edge` round markers holds at a stop edge (R221). -/
def Env.atStop (e : Env) (edge : Nat) : Bool :=
  match e.stopAt with
  | some n => n ≤ edge
  | none => false

/-- A slot. -/
def getSlot (s : State) (t : Tid) (n : Nat) : Slot := s.fab.slots.getD (t * 64 + n) Slot.reset

/-- Replace a slot. -/
def setSlot (s : State) (t : Tid) (n : Nat) (x : Slot) : State :=
  { s with fab := { s.fab with slots := s.fab.slots.set (t * 64 + n) x } }

/-- Raise a cause of a unit to its section's context (R403, R413). Where no access met it, R413 gives TVAL no value: a free
one (log 12). -/
def raiseUnit (s : State) (e : Env) (ukind : Nat) (c : Cause) : State :=
  appendEvent { s with free := s.free + 1 } e.ctx ⟨c, ukind, e.n, e.t, e.lid, Sys2Proof.Config.openWord s.free, 0⟩

/-! ### Latches, links and targets -/

/-- A latch of a slot. -/
def Slot.latch (x : Slot) : Pos → Option Token
  | .l => x.l
  | .r => x.r
  | .p => x.p

/-- Fill or empty a latch. -/
def Slot.setLatch (x : Slot) (q : Pos) (v : Option Token) : Slot :=
  match q with
  | .l => { x with l := v }
  | .r => { x with r := v }
  | .p => { x with p := v }

/-- Latches L and R that an operation reads (R312, R361). -/
def readsOf : Instr → Bool × Bool
  | .iota _ _ _ | .mwin => (false, false)
  | .iabs _ _ _ | .ineg _ _ _ | .fabs _ _ _ | .fneg _ _ _ | .frcp _ _ _ | .frsq _ _ _ | .fsqrt _ _ _ | .fexp2 _ _ _
  | .flog2 _ _ _ | .cvt _ _ _ _ | .unpack _ _ | .tunp _ _ | .pass _ _ | .lsum _ _ _ | .lmax _ _ _ | .lmin _ _ _
  | .lscan _ _ _ | .lbcast _ _ _ | .winnow _ _ _ | .acc _ _ _ | .const _ _ | .ldt _ _ _ _ | .ldo _ _ _ _
  | .mwld _ _ | .mfeed _ _ | .mdrain _ _ | .mzero _ _ | .mharrow _ _ _ | .mtwid _ _ => (true, false)
  | _ => (true, true)

/-- The slot's operation reads a latch; P is read where it is bound (R312, R313). -/
def slotReads (x : Slot) (q : Pos) : Bool :=
  match decodeElem x.word with
  | .error _ => false
  | .ok i => match q with
    | .l => (readsOf i).1
    | .r => (readsOf i).2
    | .p => true

/-- Key of the buffer of a tile's network input: 0 to 3 from N, E, S, W; 4 from the units to the router; 5 to the units;
6 operator inputs; 7 operator outputs. -/
def bufKey (t : Tid) (side ch : Nat) : Nat := t * 128 + side * 16 + ch

/-- Tokens in a buffer. -/
def getBuf (s : State) (k : Nat) : List Token := s.fab.bufs.getD k []

/-- Replace the tokens in a buffer. -/
def setBuf (s : State) (k : Nat) (l : List Token) : State :=
  { s with fab := { s.fab with bufs := s.fab.bufs.put [] k l } }

/-- Deliver a token into a latch; a latch that the operation there does not read discards it with TARGET (R312). -/
def deliverLatch (s : State) (e : Env) (m : Nat) (q : Pos) (tok : Token) : State :=
  let x := getSlot s e.t m
  if slotReads x q then setSlot s e.t m (x.setLatch q (some tok)) else raiseUnit s { e with n := m } 0 Cause.target

end Sys2Proof.Machine
end

