-- ==== Sys2Proof/Machine/Network.lean ====
section
/-! DEFINITION. The token network: links and their buffers, TOKEN_TRANSFER (R18, R19, R21, R22, R213). -/
namespace Sys2Proof.Machine

/-- Buffer at the receiving end of an output link of a tile; none where the link leaves the ring. -/
def linkDest (t : Tid) (out : Nat) : Option Nat :=
  if out < 32 then
    match neighbour t (out / 8) with
    | some m => some (bufKey m (oppDir (out / 8)) (out % 8))
    | none => none
  else if out < 40 then some (bufKey t 5 (out - 32))
  else if out < 48 then some (bufKey t 6 ((out - 40) / 2 * 3 + (out - 40) % 2))
  else some (bufKey t 6 ((out - 48) * 3 + 2))

/-- Output port of a link: 0 to 3 N to W, 4 C, 5 operator inputs, 6 decision inputs. -/
def linkPort (out : Nat) : Nat := if out < 40 then out / 8 else if out < 48 then 5 else 6

/-- Buffer that an input of a tile's router reads from: a network port's channel, a unit's, an operator's output. -/
def inputBuf (t : Tid) (inKey : Nat) : Option Nat :=
  if inKey < 32 then some (bufKey t (inKey / 8) (inKey % 8))
  else if inKey < 40 then some (bufKey t 4 (inKey - 32))
  else if inKey < 48 then some (bufKey t 7 (inKey - 40))
  else none

/-- The link of a tile that reads an input: its output key and its word. -/
def linkReading (s : State) (t : Tid) (inKey : Nat) : Option (Nat × BitVec 16) :=
  (tileSwitch s t).find? (fun e => swInKey e.2.toNat == inKey)

/-- Where an ingress channel is bound: a latch, or none (R212). -/
def ingressOf (s : State) (t : Tid) (ch : Nat) : Option (Nat × Pos) :=
  match targetOf (nth 0 (s.fab.ingress.getD t []) ch).toNat with
  | some (.loc m q) => some (m.val, q)
  | _ => none

/-- A latch takes a token from its channel: it is empty, and its slot does not stand at a stop edge (R212, R220, R221). -/
def latchTakes (s : State) (e : Env) (m : Nat) (q : Pos) : Bool :=
  let x := getSlot s e.t m
  !e.atStop x.edge && (!(x.latch q).isSome || !slotReads x q)

/-- Deliver the token at the head of an ingress channel: a bound latch takes it once it is empty, an unbound channel discards
it with TARGET (R212). -/
def ingressDeliver (s : State) (e : Env) (ch : Nat) : State :=
  let k := bufKey e.t 5 ch
  match getBuf s k with
  | [] => s
  | tok :: rest =>
    match ingressOf s e.t ch with
    | none => raiseUnit (setBuf s k rest) e 0 Cause.target
    | some (m, q) =>
      if !latchTakes s e m q then s
      else deliverLatch (setBuf s k rest) e m q tok

/-- The environment of a tile's links: those of a loaded or idle section carry the tokens of streams that STRM started
(R291); links of a stopped section stand still, as part of its cut (R221). -/
def linkEnv (s : State) (t : Tid) : Option Env :=
  match s.fab.tileSec.get? t with
  | none => none
  | some k =>
    let x := getSec s k
    match x.state with
    | .armed | .stopping | .loaded | .idle => some ⟨t, 0, k, k / 64, x.launch, x.sat8, x.ttrap, x.edges, x.stopAt, x.tcount⟩
    | _ => none

/-- An ingress channel's next stage takes a token at once (R212, R213). -/
def ingressTakes (s : State) (t : Tid) (ch : Nat) : Bool :=
  match envOf s t 0, ingressOf s t ch with
  | some e, some (m, q) => latchTakes s e m q
  | some _, none => true
  | none, _ => false

/-- Where a token sent over a link comes to lie, with the links it passes: a link of no slots passes it on only if the next stage
accepts it at once (R213). A generator or an operator behind one takes its token itself (inputFeed). -/
def landing (s : State) : Nat → Tid → Nat × BitVec 16 → Option (List (Tid × Nat) × Nat)
  | 0, _, _ => none
  | n + 1, t, l =>
    match linkDest t l.1 with
    | none => none
    | some b =>
      if s.fab.stopped.contains (t * 128 + l.1) || (linkEnv s t).isNone then none
      else if 0 < swSlots l.2.toNat then
        (if (getBuf s b).length < swSlots l.2.toNat then some ([(t, l.1)], b) else none)
      else if !(getBuf s b).isEmpty then none
      else if l.1 < 32 then
        match neighbour t (l.1 / 8) with
        | none => none
        | some m =>
          match linkReading s m (oppDir (l.1 / 8) * 8 + l.1 % 8) with
          | none => none
          | some l' =>
            match landing s n m l' with
            | none => none
            | some (hops, b) => some ((t, l.1) :: hops, b)
      else if l.1 < 40 && isCore t && ingressTakes s t (l.1 - 32) then some ([(t, l.1)], b)
      else none

/-- A link can carry a token now. -/
def linkFree (s : State) (t : Tid) (l : Nat × BitVec 16) : Bool := (landing s (4096 * 32) t l).isSome

/-- A port has served a link: its next turn starts from the one after (R19). -/
def served (s : State) (h : Tid × Nat) : State :=
  { s with fab := { s.fab with portRR := s.fab.portRR.set (h.1 * 8 + linkPort h.2) h.2 } }

/-- A token that has passed a link of no slots to an element is in its latch at once (R213). -/
def landed (s : State) (h : Tid × Nat) : State :=
  if 32 ≤ h.2 && h.2 < 40 && isCore h.1 && (tileSwitch s h.1).any (fun e => e.1 == h.2 && swSlots e.2.toNat == 0) then
    match envOf s h.1 0 with
    | some e => ingressDeliver s e (h.2 - 32)
    | none => s
  else s

/-- Send a token over a link that can carry it. -/
def linkPut (s : State) (t : Tid) (l : Nat × BitVec 16) (tok : Token) : State :=
  match landing s (4096 * 32) t l with
  | none => s
  | some (hops, b) => hops.foldl landed (setBuf (hops.foldl served s) b (getBuf s b ++ [tok]))

/-- Send a token over a link: TOKKIND discards it and stops the link (R21). -/
def linkSend (s : State) (e : Env) (l : Nat × BitVec 16) (tok : Token) : State :=
  match tok.kind with
  | .bad _ =>
    raiseUnit { s with fab := { s.fab with stopped := s.fab.stopped ++ [e.t * 128 + l.1] } } e 3 Cause.tokkind
  | _ => linkPut s e.t l tok

/-- The token kind is one that R21 defines. -/
def TokKind.known : TokKind → Bool
  | .bad _ => false
  | _ => true

/-! ### Inputs behind links of no slots (R213, R347) -/

/-- Links of no slots alone lead from a link to a generator's or an operator's input. -/
def pulled (s : State) : Nat → Tid → Nat × BitVec 16 → Bool
  | 0, _, _ => false
  | n + 1, t, l =>
    swSlots l.2.toNat == 0 && (
      if l.1 < 32 then
        match neighbour t (l.1 / 8) with
        | none => false
        | some m =>
          match linkReading s m (oppDir (l.1 / 8) * 8 + l.1 % 8) with
          | none => false
          | some l' => pulled s n m l'
      else 40 ≤ l.1 || !isCore t)

/-- The buffer whose first token a link of no slots brings now, with the links on the way. -/
def linkSource (s : State) : Nat → Tid → Nat × BitVec 16 → Option (List (Tid × Nat) × Nat)
  | 0, _, _ => none
  | n + 1, t, l =>
    if swSlots l.2.toNat ≠ 0 || s.fab.stopped.contains (t * 128 + l.1) || (linkEnv s t).isNone then none
    else
      let inp := swInKey l.2.toNat
      match inputBuf t inp with
      | none => none
      | some b =>
        if (getBuf s b).any (fun tok => tok.kind.known) then some ([(t, l.1)], b)
        else if inp < 32 then
          match neighbour t (inp / 8) with
          | none => none
          | some m =>
            match (tileSwitch s m).find? (fun e => e.1 == oppDir (inp / 8) * 8 + inp % 8) with
            | none => none
            | some l' =>
              match linkSource s n m l' with
              | none => none
              | some (hops, b) => some ((t, l.1) :: hops, b)
        else none

/-- Where the next token lies of the generator or operator input that a link feeds: in the input's own slots, or, behind a link
of no slots, where the token waits (R213, R347). -/
def inputFeed (s : State) (t : Tid) (out : Nat) : Option (List (Tid × Nat) × Nat) :=
  match linkDest t out with
  | none => none
  | some b =>
    if !(getBuf s b).isEmpty then some ([], b)
    else match (tileSwitch s t).find? (fun e => e.1 == out) with
      | some l => linkSource s (4096 * 32) t l
      | none => none

/-- The next token of an input. -/
def inHead (s : State) (t : Tid) (out : Nat) : Option Token :=
  match inputFeed s t out with
  | some (_, b) => (getBuf s b).head?
  | none => none

/-- Consume the next token of an input. -/
def inPop (s : State) (t : Tid) (out : Nat) : State :=
  match inputFeed s t out with
  | some (hops, b) => hops.foldl served (setBuf s b ((getBuf s b).drop 1))
  | none => s

/-! ### Egress paths (R213) -/

/-- Places of a slot-to-egress path; one at least where links of no slots alone follow it to a generator or an operator
(log 17). -/
def egressPlaces (s : State) (t : Tid) (ch : Nat) : Nat :=
  let n := (Sys2Proof.Config.egressPlaces t ch).val
  match linkReading s t (32 + ch) with
  | some l => if n = 0 ∧ pulled s (4096 * 32) t l = true then 1 else n
  | none => n

/-- The egress channel of a tile has room: some switch word reads it, and one of its places is empty, or it has none and the link
passes a token on at once (R213; log 17). -/
def egressFree (s : State) (t : Tid) (ch : Nat) : Bool :=
  match linkReading s t (32 + ch) with
  | none => false
  | some l =>
    if egressPlaces s t ch = 0 then (getBuf s (bufKey t 4 ch)).isEmpty && linkFree s t l
    else decide ((getBuf s (bufKey t 4 ch)).length < egressPlaces s t ch)

/-- A token goes out on an egress channel: it waits there for its port's turn, or where the path has no place passes on at once
(R213). -/
def egressPush (s : State) (t : Tid) (ch : Nat) (tok : Token) : State :=
  let wait := setBuf s (bufKey t 4 ch) (getBuf s (bufKey t 4 ch) ++ [tok])
  match linkReading s t (32 + ch) with
  | some l => if egressPlaces s t ch = 0 ∧ tok.kind.known = true then linkPut s t l tok else wait
  | none => wait

/-! ### Turns of the ports (R19) -/

/-- A link that can move a token now, with the token and the buffer it leaves; one of no known kind is discarded (R21). -/
def linkReady (s : State) (t : Tid) (l : Nat × BitVec 16) : Option (Nat × Token) :=
  match inputBuf t (swInKey l.2.toNat) with
  | none => none
  | some b =>
    match getBuf s b with
    | tok :: _ => if tok.kind.known && !linkFree s t l then none else some (b, tok)
    | [] => none

/-- The links of a port that can move a token, from the one after the port's last served on (R19). -/
def portLinks (s : State) (t : Tid) (port : Nat) : List (Nat × BitVec 16) :=
  let last := s.fab.portRR.getD (t * 8 + port) 0
  let ls := (tileSwitch s t).filter (fun e => linkPort e.1 == port && (linkReady s t e).isSome)
  ls.filter (fun e => last < e.1) ++ ls.filter (fun e => e.1 ≤ last)

/-- Move the next token of a router port (R19). -/
def portTransfer (s : State) (e : Env) (port : Nat) : State :=
  match portLinks s e.t port with
  | [] => s
  | l :: _ =>
    match linkReady s e.t l with
    | none => s
    | some (b, tok) =>
      linkSend (served (setBuf s b ((getBuf s b).drop 1)) (e.t, l.1)) e l tok

/-- TOKEN_TRANSFER of `ops` = [tile, port]: ports 0 to 6 move one token over a link, port 7 moves the tokens that have reached
an element into its latches (R19, R212). -/
def execTokenTransfer (s : State) : Out :=
  if s.op 1 = 7 then
    match envOf s (s.op 0) 0 with
    | none => .next s
    | some e => .next (if isCore e.t then (List.range 8).foldl (fun s ch => ingressDeliver s e ch) s else s)
  else match linkEnv s (s.op 0) with
    | none => .next s
    | some e => .next (portTransfer s e (s.op 1))

end Sys2Proof.Machine
end

