-- ==== Sys2Proof/Machine/Element.lean ====
section
/-! DEFINITION. The slots of an element: targets, readiness and what each kind of token does (R212 to R215, R220,
R312 to R318), sheaf headers (R176 to R180), positions and their values (R314, R316). -/
namespace Sys2Proof.Machine

/-! ### Targets -/

/-- A word has an egress channel among its targets (R212). -/
def hasEgress (w : BitVec 32) (c : Nat) : Bool :=
  [w.toNat / 1024 % 1024, w.toNat % 1024].any (fun f => match targetOf f with
    | some (.eg d) => d.val == c
    | _ => false)

/-- Another slot of the element fired earlier towards an egress channel, and its result is still to come: results are delivered
in firing order (R315). -/
def firedAhead (s : State) (t : Tid) (n c : Nat) : Bool :=
  s.fab.slots.any (fun e => e.1 / 64 == t && e.1 % 64 != n && hasEgress e.2.word c
    && e.2.ops.any (fun p => (getSlot s t n).ops.all (fun q => p.since < q.since)))

/-- A target has a free place for a token of slot `n` (R213 to R215, R315). -/
def targetFree (s : State) (t : Tid) (n : Nat) : Target → Bool
  | .none => true
  | .loc m q => ((getSlot s t m.val).latch q).isNone
  | .eg c => egressFree s t c.val && !firedAhead s t n c.val

/-- Deliver a token to a target. -/
def deliver (s : State) (e : Env) (tok : Token) : Target → State
  | .none => s
  | .loc m q => deliverLatch s e m.val q tok
  | .eg c => egressPush s e.t c.val tok

/-- The P latch of a slot has a producer (R313). -/
def pBound (s : State) (t : Tid) (n : Nat) : Bool := (boundLatches s t none none).contains (n * 4 + 3)

/-- Room at both targets of slot `n`. -/
def bothFree (s : State) (t : Tid) (n : Nat) (ta tb : Target) : Bool := targetFree s t n ta && targetFree s t n tb

/-- Put a slot back and send a token to each target where there is one. -/
def emit (s : State) (e : Env) (x : Slot) (ta tb : Target) (a b : Option Token) : State :=
  let s := setSlot s e.t e.n x
  let s := match a with
    | some tok => deliver s e tok ta
    | none => s
  match b with
  | some tok => deliver s e tok tb
  | none => s

/-! ### Tokens -/

/-- A token without payload (R21). -/
def bare (k : TokKind) : Token := ⟨k, BitVec.allOnes 16, false, 0⟩

/-- Markers: end markers, EOS, round markers. -/
def TokKind.isMark : TokKind → Bool
  | .end1 | .end2 | .end3 | .eos | .round => true
  | _ => false

/-- Permits and done tokens. -/
def TokKind.isPermit : TokKind → Bool
  | .permit | .done => true
  | _ => false

/-- Data, or poison in its place. -/
def TokKind.isData : TokKind → Bool
  | .data | .poison => true
  | _ => false

/-- Level of an end marker; EOS closes every level (R318). -/
def TokKind.level : TokKind → Nat
  | .end1 => 1
  | .end2 => 2
  | .end3 => 3
  | .eos => 4
  | _ => 0

/-- A marker closes a level field: 0 means EOS only (R334, R337). -/
def closes (lvl : Nat) (k : TokKind) : Bool := if lvl = 0 then k == .eos else lvl ≤ k.level

/-! ### Sheaf headers (R176 to R180) -/

/-- Element width of a format code in bits; a packed ternary byte counts 8. -/
def fmtWidth (c : Nat) : Nat :=
  if isB8 c || c == 0x58 then 8
  else if c = 0x40 ∨ c = 0x41 then 16
  else if c = 0x42 then 32
  else 8 * 2 ^ ((c - 0x50) / 2)

/-- Elements of a data token in a format (R172, R179). -/
def tokenElems (c : Nat) : Nat := if c = 0x58 then 320 else 512 / fmtWidth c

/-- Format codes that a header may carry (R177). -/
def fmtLegal (c : Nat) : Bool := isB8 c || (0x40 ≤ c && c ≤ 0x42) || (0x50 ≤ c && c ≤ 0x58)

/-- A header's fields as a number: SCALES, COUNT, SLOC, SFMT, BSZ, FMT. -/
def hdrRefused (d : Payload) : Bool :=
  let v := d.toNat
  let fmt := v % 256
  let bsz := v / 2 ^ 18 % 4
  let sfmt := v / 2 ^ 20 % 4
  let sloc := v / 2 ^ 22 % 4
  let count := v / 2 ^ 32 % 2 ^ 32
  let scales := v / 2 ^ 64 % 2 ^ 64
  v / 2 ^ 128 != 0 || v / 256 % 1024 != 0 || v / 2 ^ 24 % 256 != 0 || !fmtLegal fmt || 2 ≤ sloc || 2 ≤ sfmt || 2 ≤ bsz
    || sfmt != bsz || (sfmt == 0 && (sloc != 0 || scales != 0)) || (sfmt != 0 && 0x50 ≤ fmt && fmt ≤ 0x57)
    || (sfmt != 0 && sloc == 0 && (256 < count || scales / 256 ^ ((count + 31) / 32) != 0))
    || (sloc == 1 && !canonical (BitVec.ofNat 64 scales))

/-- A header as a decoder takes it, its scale bytes given. -/
def hdrOf (d : Payload) (scales : List Byte) : Hdr :=
  { fmt := d.toNat % 256, count := d.toNat / 2 ^ 32 % 2 ^ 32, scales := scales, scaled := d.toNat / 2 ^ 20 % 4 == 1,
    bad := false, idx := 0, nanBlocks := [] }

/-- What a decoder holds after a refused or unaccepted header (R178, R316). -/
def hdrBad : Hdr := ⟨0x50, 0, [], false, true, 0, []⟩

/-- Read scale bytes one by one, from the bytes that RFILL has brought where it has (R417); an uncorrectable one counts as a
NaN scale (R180). The VA of a byte that is not read comes with its cause. -/
def readScales (s : State) (who : Who) (fills : List (Nat × Payload)) : Nat → Word → Res (List Byte) × State × Word
  | 0, va => (.ok [], s, va)
  | n + 1, va =>
    let got : Res (List Byte) × State := match fills.find? (fun f => f.1 == va.toNat / 64) with
      | some f => (.ok [nth 0 (bytesOf 64 f.2.toNat) (va.toNat % 64)], s)
      | none => readVA s who va 1
    match got with
    | (.wait, s) => (.wait, s, va)
    | (.fault c, s) =>
      if c = Cause.tileue ∨ c = Cause.memue then
        (match readScales s who fills n (va + 1) with
         | (.ok l, s, va) => (.ok (0xFF :: l), s, va)
         | x => x)
      else (.fault c, s, va)
    | (.ok b, s) =>
      match readScales s who fills n (va + 1) with
      | (.ok l, s, va) => (.ok (b ++ l), s, va)
      | x => x

/-- The agent that an element's ports and decoders act as: the section's context and binding (R341). -/
def elemWho (e : Env) : Who := ⟨e.ctx, 1, e.t, agentKey 3 (e.t * 64 + e.n), some (secBinder e.k), false, none, false, false, none, none, false⟩

/-- The header's scale bytes: inline, or read through its pointer (R176, R180). -/
def hdrScales (s : State) (e : Env) (fills : List (Nat × Payload)) (d : Payload) : Res (List Byte) × State × Word :=
  let v := d.toNat
  let scales := v / 2 ^ 64 % 2 ^ 64
  if v / 2 ^ 20 % 4 = 0 then (.ok [], s, 0)
  else if v / 2 ^ 22 % 4 = 0 then (.ok (bytesOf 8 scales), s, 0)
  else readScales s (elemWho e) fills ((v / 2 ^ 32 % 2 ^ 32 + 31) / 32) (BitVec.ofNat 64 scales)

/-- Lanes of a 64-byte block that bytes from `a`, `n` of them, lie in. -/
def lanesOf (a n : Nat) : BitVec 16 :=
  BitVec.ofNat 16 ((List.range 16).foldl (fun m i => if a < 4 * i + 4 ∧ 4 * i < a + n then m + 2 ^ i else m) 0)

/-- Lanes that a decoder's read covers in the block of a VA: its scale bytes from there on (R176, R417). -/
def scaleLanes (d : Payload) (va : Word) : BitVec 16 :=
  let v := d.toNat
  lanesOf (va.toNat % 64) ((v / 2 ^ 32 % 2 ^ 32 + 31) / 32 + v / 2 ^ 64 % 2 ^ 64 - va.toNat)

/-- A rewritten header (R317). -/
def rewritten (fmt count : Nat) : Token := { bare .header with data := BitVec.ofNat 512 (count * 2 ^ 32 + fmt) }

/-! ### Held accesses (R415, R417) -/

/-- Hold an access of a unit: the record marks it held, and a fault at a home port takes one of its 64 wait entries. -/
def holdAccess (s : State) (ctx lid : Nat) (t : Tid) (ukind unit : Nat) (c : Cause) (va : Word) (ia : Nat) (write : Bool)
    (mask : BitVec 16) (data : Payload) : Held × State :=
  let s := appendEvent s ctx ⟨c, ukind, unit, t, lid, va, 1⟩
  let port := homePort ia
  let atPort := 0x106 ≤ c.toNat && c.toNat ≤ 0x109
  let room := (s.xl.waits.filter (fun w => w.port == port)).length < 64
  let h : Held := ⟨c, va, ia, write, mask, data, if atPort && room then some port else none, none, s.clk.cycle⟩
  if atPort && room then
    (h, { s with xl := { s.xl with waits := s.xl.waits ++ [⟨port, ia / 65536, ctx, ukind, unit, t, s.clk.cycle⟩] } })
  else (h, s)

/-- The IA of a VA for a unit, 0 where it does not translate. -/
def iaFor (s : State) (who : Who) (va : Word) (k : AKind) : Nat :=
  match translate s who va k with
  | .ok r => r.1
  | .error _ => 0

/-- A port operation that a fault holds keeps its place in firing order; IA 0 says that it is translated again (R315, R345, R415). -/
def heldOps (s : State) (x : Slot) (va : Word) : List PortOp :=
  match x.ops with
  | p :: _ => [{ p with ia := 0 }]
  | [] => if portWord x.word then [⟨va, 0, 0, false, s.clk.cycle⟩] else []

/-- Hold an access of a slot, which covers some lanes of its 64-byte block (R417). -/
def holdSlot (s : State) (e : Env) (x : Slot) (c : Cause) (va : Word) (mask : BitVec 16) (write : Bool) : State :=
  let r := holdAccess s e.ctx e.lid e.t 0 e.n c va (iaFor s (elemWho e) va (if write then .write else .read)) write
    mask 0
  setSlot r.2 e.t e.n { x with held := some r.1, ops := heldOps s x va }

/-! ### Positions and values (R314, R316) -/

/-- Types of positions: integers by width and signedness, floats of one format, binary8 of the header's variant. -/
inductive ETy where
  | int (w : Nat) (sg : Bool)
  | flt (f : Fmt) (code : Nat)
  | f8
  deriving DecidableEq, Repr

/-- Type of an integer modifier. -/
def imodTy : IMod → ETy
  | .s32 => .int 32 true
  | .z32 => .int 32 false
  | .s16 => .int 16 true
  | .z16 => .int 16 false
  | .s8 => .int 8 true
  | .z8 => .int 8 false

/-- Type of a float modifier. -/
def fmodTy : FMod → ETy
  | .f32 => .flt fmt32 0x42
  | .f16 => .flt fmt16 0x40
  | .bf16 => .flt fmtBf16 0x41
  | .f8 => .f8

/-- Type of a lane modifier. -/
def lmodTy : LMod → ETy
  | .i m => imodTy m
  | .f m => fmodTy m

/-- Width in bits. -/
def ETy.width : ETy → Nat
  | .int w _ => w
  | .flt f _ => f.width
  | .f8 => 8

/-- Positions of a token. -/
def ETy.count (y : ETy) : Nat := 512 / y.width

/-- The header FMT that a type accepts (R316). -/
def ETy.accepts : ETy → Hdr → Bool
  | .int w sg, h => !h.scaled && intOfCode h.fmt == some (w, sg)
  | .flt _ c, h => h.fmt == c
  | .f8, h => isB8 h.fmt

/-- Format code of a type's results, for L's header (R317). -/
def ETy.code : ETy → Hdr → Nat
  | .int w sg, _ => 0x50 + (if w = 8 then 0 else if w = 16 then 2 else 4) + (if sg then 0 else 1)
  | .flt _ c, _ => c
  | .f8, h => h.fmt

/-- Bits of position p, of width w. -/
def posBits (d : Payload) (w p : Nat) : Nat := d.toNat / 2 ^ (p * w) % 2 ^ w

/-- Liveness of position p by the lane mask; 64-bit positions follow their first lane (R179, R314). -/
def laneLive (m : BitVec 16) (w p : Nat) : Bool := m.getLsbD (p * w / 32)

/-- Positions of a token as bits, masked by lane and by the header's COUNT (R179, R314). -/
def posList (w : Nat) (h : Option Hdr) (tok : Token) : List (Option Nat) :=
  (List.range (512 / w)).map (fun p =>
    let inside := match h with
      | some h => decide (h.idx + p < h.count)
      | none => true
    if laneLive tok.mask w p && inside then some (posBits tok.data w p) else none)

/-- Value of position p in a format, with its block's scale (R174, R175). -/
def scaledVal (f : Fmt) (h : Option Hdr) (p b : Nat) : Val :=
  match h with
  | none => f.decode b
  | some h =>
    if !h.scaled then f.decode b
    else
      let sc := (nth 127 h.scales ((h.idx + p) / 32)).toNat
      if sc = 255 then .nan false else scaleV (f.decode b) (Int.ofNat sc - 127)

/-- Blocks with a NaN scale that have a live element among positions and are not yet counted (R175). -/
def nanBlocksOf (h : Option Hdr) (ps : List (Option Nat)) : List Nat :=
  match h with
  | none => []
  | some h =>
    if !h.scaled then []
    else ((ps.zipIdx.filterMap (fun x => match x.1 with
      | some _ =>
        let b := (h.idx + x.2) / 32
        if (nth 127 h.scales b).toNat = 255 && !h.nanBlocks.contains b then some b else none
      | none => none))).eraseDups

/-- Values of a token's positions, and the NaN-scale events of its blocks. -/
def valList (f : Fmt) (h : Option Hdr) (tok : Token) : List (Option Val) × List Nat :=
  let ps := posList f.width h tok
  (ps.zipIdx.map (fun x => x.1.map (scaledVal f h x.2)), (nanBlocksOf h ps).map (fun _ => 5))

/-- The float format of a type under a header; none for f8 without one, and for integers. -/
def ETy.fmt (y : ETy) (h : Option Hdr) : Option Fmt :=
  match y with
  | .flt f _ => some f
  | .f8 => h.map (fun h => fmtB8 h.fmt)
  | .int _ _ => none

/-- Elements of a token under a header, live or masked: five to a byte of packed ternary (R172, R179). -/
def elemList (h : Hdr) (tok : Token) : List (Option Nat) :=
  if h.fmt = 0x58 then
    (List.range 320).map (fun n => if tok.mask.getLsbD (n / 20) && decide (h.idx + n < h.count) then some n else none)
  else posList (fmtWidth h.fmt) (some h) tok

/-- The header after one data token of its sheaf; where the token has been decoded, the NaN-scale events of its blocks have been
counted (R175). -/
def Hdr.pass (h : Hdr) (decoded : Bool) (tok : Token) : Hdr :=
  { h with
    idx := h.idx + tokenElems h.fmt
    nanBlocks := if decoded then h.nanBlocks ++ nanBlocksOf (some h) (elemList h tok) else h.nanBlocks }

/-- A decoder after a token has been consumed from its latch: data moves on, EOS ends the sheaf (R179, R316). -/
def hdrAfter (h : Option Hdr) (decoded : Bool) (tok : Option Token) : Option Hdr :=
  match tok, h with
  | some tok, some h => if tok.kind == .eos then none else if tok.kind.isData then some (h.pass decoded tok) else some h
  | _, h => h

/-- A token of positions: masked positions hold zero, and a lane is live where one of its positions is (R314; log 18). -/
def tokOf (w : Nat) (pred : Bool) (ps : List (Option Nat)) : Token :=
  let v := ps.foldr (fun x a => a * 2 ^ w + x.getD 0) 0
  let m := (List.range 16).foldl (fun m i =>
    let live := if w = 64 then (nth none ps (i / 2)).isSome
      else (List.range (32 / w)).any (fun j => (nth none ps (i * (32 / w) + j)).isSome)
    if live then m + 2 ^ i else m) 0
  ⟨.data, BitVec.ofNat 16 m, pred, BitVec.ofNat 512 v⟩

/-! ### One turn of a slot -/

/-- What an operation is, as its slot's turn needs it. -/
structure SlotOp where
  instr : Instr
  ta : Target
  tb : Target
  accepts : Option (Pos → Hdr → Bool)
  rewrite : Option (Hdr → Nat × Nat)
  onPermit : Bool
  mixed : Env → State → Slot → TokKind → TokKind → State
  fire : Env → State → Slot → State
  off : Env → State → Slot → State
  poison : Env → State → Slot → State
  mark : Env → State → Slot → TokKind → State

/-- The slot with its read latches and P taken, its decoders moved on; `decoded` where the firing has decoded the tokens. -/
def Slot.take (x : Slot) (i : Instr) (decoded : Bool) : Slot :=
  let r := readsOf i
  let tl := if r.1 then x.l else none
  let tr := if r.2 then x.r else none
  { x with
    l := if r.1 then none else x.l
    r := if r.2 then none else x.r
    p := none
    hl := hdrAfter x.hl decoded tl, hr := hdrAfter x.hr decoded tr, hp := hdrAfter x.hp decoded x.p
    sub := 0, misRaised := false }

/-- The slot after a firing that has computed. -/
def Slot.consume (x : Slot) (i : Instr) : Slot := x.take i true

/-- The slot after a firing that computes nothing and counts no event: predicated off, or poison (R313, R318). -/
def Slot.skip (x : Slot) (i : Instr) : Slot := x.take i false

/-- The slot with matching markers taken: P goes only where it holds the same marker (R215). -/
def Slot.consumeMark (x : Slot) (i : Instr) (k : TokKind) : Slot :=
  let y := x.consume i
  let same := match x.p with
    | some tok => tok.kind == k
    | none => false
  { (if same then y else { y with p := x.p, hp := x.hp }) with
    edge := if k = .round then x.edge + 1 else x.edge, ended := x.ended || k == .eos }

/-- Forward one copy of a marker to each target (R215). -/
def forwardMark (i : Instr) (ta tb : Target) (e : Env) (s : State) (x : Slot) (k : TokKind) : State :=
  emit s e (x.consumeMark i k) ta tb (some (bare k)) (some (bare k))

/-- Consume without effect: a firing predicated off (R313). -/
def consumeOff (i : Instr) (e : Env) (s : State) (x : Slot) : State := setSlot s e.t e.n (x.skip i)

/-- Emit one poison token to each target (R318). -/
def emitPoison (i : Instr) (ta tb : Target) (e : Env) (s : State) (x : Slot) : State :=
  emit s e (x.skip i) ta tb (some (bare .poison)) (some (bare .poison))

/-- The decoder state of a latch. -/
def Slot.hdr (x : Slot) : Pos → Option Hdr
  | .l => x.hl
  | .r => x.hr
  | .p => x.hp

/-- Replace the decoder state of a latch. -/
def Slot.setHdr (x : Slot) (q : Pos) (h : Option Hdr) : Slot :=
  match q with
  | .l => { x with hl := h }
  | .r => { x with hr := h }
  | .p => { x with hp := h }

/-- A decoder takes the header in its latch (R178, R180, R316, R317). -/
def takeHeader (op : SlotOp) (e : Env) (s : State) (x : Slot) (q : Pos) (tok : Token) : State :=
  match op.accepts with
  | none =>
    match op.instr with
    | .pass _ _ =>
      if bothFree s e.t e.n op.ta op.tb then emit s e (x.setLatch q none) op.ta op.tb (some tok) (some tok) else s
    | _ => setSlot s e.t e.n (x.setLatch q none)
  | some ok =>
    if hdrRefused tok.data then
      raiseUnit (setSlot s e.t e.n ((x.setLatch q none).setHdr q (some hdrBad))) e 0 Cause.sheafhdr
    else match hdrScales s e x.fills tok.data with
      | (.wait, s, _) => s
      | (.fault c, s, va) => holdSlot s e x c va (scaleLanes tok.data va) false
      | (.ok sc, s, _) =>
        let h := hdrOf tok.data sc
        let x := { x with fills := [] }
        if !ok q h then raiseUnit (setSlot s e.t e.n ((x.setLatch q none).setHdr q (some hdrBad))) e 0 Cause.fmtmis
        else
          let y := (x.setLatch q none).setHdr q (some h)
          let y := match op.rewrite, q with
            | some r, .l => { y with hdrOut := some (rewritten (r h).1 (r h).2) }
            | _, _ => y
          setSlot s e.t e.n y

/-- The latch whose header is due, if any: L, then R, then P. -/
def headerDue (op : SlotOp) (x : Slot) : Option (Pos × Token) :=
  let isH (t : Option Token) : Option Token := match t with
    | some tok => if tok.kind == .header then some tok else none
    | none => none
  match (if (readsOf op.instr).1 then isH x.l else none), (if (readsOf op.instr).2 then isH x.r else none), isH x.p with
  | some tok, _, _ => some (.l, tok)
  | _, some tok, _ => some (.r, tok)
  | _, _, some tok => some (.p, tok)
  | _, _, _ => none

/-- P of an operation that takes no selector drops a header (R313). -/
def takesP (i : Instr) : Bool :=
  match i with
  | .isel _ _ _ => true
  | _ => false

/-- Kinds in the latches read. -/
def kindsRead (op : SlotOp) (x : Slot) : List TokKind :=
  (if (readsOf op.instr).1 then (match x.l with | some t => [t.kind] | none => []) else [])
    ++ (if (readsOf op.instr).2 then (match x.r with | some t => [t.kind] | none => []) else [])

/-- Every latch that a firing needs holds a token (R214). -/
def latchesFull (s : State) (op : SlotOp) (e : Env) (x : Slot) : Bool :=
  (!(readsOf op.instr).1 || x.l.isSome) && (!(readsOf op.instr).2 || x.r.isSome)
    && ((!takesP op.instr && !pBound s e.t e.n) || x.p.isSome)

/-- What P lets a firing do (R313, R215). -/
inductive Gate where
  | go | off | poison | wait
  deriving DecidableEq, Repr

/-- The gate of a firing: a selector of ISEL has to be data or poison. -/
def gateOf (i : Instr) (x : Slot) : Gate :=
  match x.p with
  | none => .go
  | some tok =>
    match tok.kind with
    | .data => if takesP i then .go else if tok.pred then .go else .off
    | .permit | .done => .go
    | .poison => .poison
    | _ => .wait

/-- MARKMIS, once for the tokens that hold the slot (R215). -/
def markMis (s : State) (e : Env) (x : Slot) : State :=
  if x.misRaised then s else raiseUnit (setSlot s e.t e.n { x with misRaised := true }) e 0 Cause.markmis

/-- A marker beside a token of another kind at LDT, STT, LDO and STO is dropped (R342): of two markers the lesser one. -/
def dropMark (s : State) (e : Env) (x : Slot) (a b : TokKind) : State :=
  if a.isMark && (!b.isMark || a.level < b.level) then setSlot s e.t e.n { x with l := none }
  else if b.isMark then setSlot s e.t e.n { x with r := none }
  else markMis s e x

/-- A poison-like latch: a poison token, or data behind a bad header (R178, R316, R318). -/
def latchPoison (h : Option Hdr) (tok : Option Token) : Bool :=
  match tok with
  | some t => t.kind == .poison || (t.kind == .data && (match h with | some h => h.bad | none => false))
  | none => false

/-- A data firing, its gate judged first (R313, R318). -/
def dataFire (op : SlotOp) (e : Env) (s : State) (x : Slot) : State :=
  match gateOf op.instr x with
  | .wait => s
  | .off => op.off e s x
  | .poison => op.poison e s x
  | .go =>
    if ((readsOf op.instr).1 && latchPoison x.hl x.l) || ((readsOf op.instr).2 && latchPoison x.hr x.r)
        || (takesP op.instr && latchPoison x.hp x.p) then op.poison e s x
    else if takesP op.instr && (match x.p with | some t => t.kind.isPermit | none => false) then markMis s e x
    else op.fire e s x

/-- What the tokens in the read latches make the slot do (R215). -/
def classify (op : SlotOp) (e : Env) (s : State) (x : Slot) : State :=
  match kindsRead op x with
  | [] => s
  | a :: rest =>
    if rest.all (· == a) then
      if a.isMark then op.mark e s x a
      else if a.isPermit then
        (if op.onPermit then dataFire op e s x
         else emit s e (x.consumeMark op.instr a) op.ta op.tb (some (bare a)) (some (bare a)))
      else dataFire op e s x
    else if (a :: rest).all TokKind.isData then dataFire op e s x
    else match rest with
      | b :: _ => op.mixed e s x a b
      | [] => s

/-- One turn of a slot: a rewritten header due goes first, then headers in latches, then the firing (R214, R215, R317). -/
def slotRun (op : SlotOp) (e : Env) (s : State) (x : Slot) : State :=
  if x.held.isSome || e.atStop x.edge then s
  else match x.hdrOut with
    | some tok => if bothFree s e.t e.n op.ta op.tb then emit s e { x with hdrOut := none } op.ta op.tb (some tok) (some tok) else s
    | none =>
      match headerDue op x with
      | some (.p, tok) =>
        if takesP op.instr then takeHeader op e s x .p tok else setSlot s e.t e.n { x with p := none }
      | some (q, tok) => takeHeader op e s x q tok
      | none => if latchesFull s op e x && bothFree s e.t e.n op.ta op.tb then classify op e s x else s

/-- Run an operation word on the focused slot; where its section does not run, nothing happens (R211). -/
def onSlot (s : State) (op : SlotOp) : Out :=
  match envOf s s.focus.1 s.focus.2 with
  | none => .next s
  | some e => .next (slotRun op e s (getSlot s e.t e.n))

/-- An operation that computes: it reads headers by a type, sends a rewritten header, forwards markers (R313 to R318). -/
def SlotOp.plain (i : Instr) (ta tb : Target) (accepts : Pos → Hdr → Bool) (rewrite : Option (Hdr → Nat × Nat))
    (fire : Env → State → Slot → State) : SlotOp :=
  { instr := i, ta := ta, tb := tb, accepts := some accepts, rewrite := rewrite, onPermit := false,
    mixed := fun e s x _ _ => markMis s e x,
       fire := fire, off := consumeOff i, poison := emitPoison i ta tb, mark := forwardMark i ta tb }

/-- Charge events and send one token to both targets, the latches consumed. -/
def fireOne (i : Instr) (ta tb : Target) (e : Env) (s : State) (x : Slot) (evs : List Nat) (tok : Token) : State :=
  countEvents (emit s e (x.consume i) ta tb (some tok) (some tok)) e.ctx e.t evs

/-- The token in a latch, or an empty one. -/
def tokIn (t : Option Token) : Token := t.getD (bare .data)

/-- NaN-scale events of the blocks that a token brings live elements of (R175). -/
def blockEvents (h : Option Hdr) (tok : Token) : List Nat :=
  match h with
  | some h => (nanBlocksOf (some h) (elemList h tok)).map (fun _ => 5)
  | none => []

end Sys2Proof.Machine
end

