-- ==== Sys2Proof/Machine/ElemInt.lean ====
section
/-! DEFINITION. Integer operations of the element: IADD to ISEL (R319 to R321). -/
namespace Sys2Proof.Machine

/-- A two-operand integer operation on w-bit patterns: the result and its events. -/
abbrev IntFn := Nat → Bool → Nat → Nat → Nat × List Nat

/-- Result without events. -/
def quiet (f : Nat → Bool → Nat → Nat → Nat) : IntFn := fun w sg a b => (f w sg a b, [])

/-- Exact integer result, wrapped. -/
def wrapped (f : Int → Int → Int) : IntFn :=
  fun w sg a b => (bitsOfInt w (f (intOfBits w sg a) (intOfBits w sg b)), [])

/-- Exact integer result, clamped; a clamp counts saturation (R171). -/
def clamped (f : Int → Int → Int) : IntFn := fun w sg a b =>
  let r := clampInt (f (intOfBits w sg a) (intOfBits w sg b)) w sg
  (bitsOfInt w r.1, r.2)

/-- Apply an operation position by position; masked where either operand is. -/
def zipInt (f : Nat → Nat → Nat × List Nat) (a b : List (Option Nat)) : List (Option Nat) × List Nat :=
  let rs := (a.zip b).map (fun ab => match ab with
    | (some x, some y) => some (f x y)
    | _ => none)
  (rs.map (fun r => r.map (·.1)), rs.flatMap (fun r => match r with | some v => v.2 | none => []))

/-- A two-operand integer form (R319). -/
def intForm (s : State) (i : Instr) (m : IMod) (ta tb : Target) (f : IntFn) : Out :=
  let y := imodTy m
  let sg := match y with | .int _ sg => sg | _ => false
  onSlot s (SlotOp.plain i ta tb (fun _ h => y.accepts h) (some (fun h => (y.code h, h.count))) (fun e s x =>
    let r := zipInt (f y.width sg) (posList y.width x.hl (tokIn x.l)) (posList y.width x.hr (tokIn x.r))
    fireOne i ta tb e s x r.2 (tokOf y.width (tokIn x.l).pred r.1)))

/-- A one-operand integer form (R319). -/
def intForm1 (s : State) (i : Instr) (m : IMod) (ta tb : Target) (f : Int → Int) : Out :=
  let y := imodTy m
  let sg := match y with | .int _ sg => sg | _ => false
  onSlot s (SlotOp.plain i ta tb (fun _ h => y.accepts h) (some (fun h => (y.code h, h.count))) (fun e s x =>
    let r := (posList y.width x.hl (tokIn x.l)).map (fun a => a.map (fun a => bitsOfInt y.width (f (intOfBits y.width sg a))))
    fireOne i ta tb e s x [] (tokOf y.width (tokIn x.l).pred r)))

/-- IADD (R319). -/
def execIadd (m : IMod) (ta tb : Target) (s : State) : Out := intForm s (.iadd m ta tb) m ta tb (wrapped (· + ·))

/-- ISUB (R319). -/
def execIsub (m : IMod) (ta tb : Target) (s : State) : Out := intForm s (.isub m ta tb) m ta tb (wrapped (· - ·))

/-- IADDS (R319). -/
def execIadds (m : IMod) (ta tb : Target) (s : State) : Out := intForm s (.iadds m ta tb) m ta tb (clamped (· + ·))

/-- ISUBS (R319). -/
def execIsubs (m : IMod) (ta tb : Target) (s : State) : Out := intForm s (.isubs m ta tb) m ta tb (clamped (· - ·))

/-- IMUL (R319). -/
def execImul (m : IMod) (ta tb : Target) (s : State) : Out := intForm s (.imul m ta tb) m ta tb (wrapped (· * ·))

/-- IMULH (R319). -/
def execImulh (m : IMod) (ta tb : Target) (s : State) : Out :=
  intForm s (.imulh m ta tb) m ta tb (fun w sg a b =>
    (bitsOfInt w ((intOfBits w sg a * intOfBits w sg b).fdiv ((2 : Int) ^ w)), []))

/-- IMIN (R319). -/
def execImin (m : IMod) (ta tb : Target) (s : State) : Out := intForm s (.imin m ta tb) m ta tb (wrapped min)

/-- IMAX (R319). -/
def execImax (m : IMod) (ta tb : Target) (s : State) : Out := intForm s (.imax m ta tb) m ta tb (wrapped max)

/-- IAND (R319). -/
def execIand (m : IMod) (ta tb : Target) (s : State) : Out :=
  intForm s (.iand m ta tb) m ta tb (quiet (fun _ _ a b => a &&& b))

/-- IOR (R319). -/
def execIor (m : IMod) (ta tb : Target) (s : State) : Out :=
  intForm s (.ior m ta tb) m ta tb (quiet (fun _ _ a b => a ||| b))

/-- IXOR (R319). -/
def execIxor (m : IMod) (ta tb : Target) (s : State) : Out :=
  intForm s (.ixor m ta tb) m ta tb (quiet (fun _ _ a b => a ^^^ b))

/-- IANDN: a and not b (R319). -/
def execIandn (m : IMod) (ta tb : Target) (s : State) : Out :=
  intForm s (.iandn m ta tb) m ta tb (quiet (fun w _ a b => a &&& (2 ^ w - 1 - b)))

/-- ISHL: by b mod w (R319). -/
def execIshl (m : IMod) (ta tb : Target) (s : State) : Out :=
  intForm s (.ishl m ta tb) m ta tb (quiet (fun w _ a b => a * 2 ^ (b % w) % 2 ^ w))

/-- ISHR: zero fill (R319). -/
def execIshr (m : IMod) (ta tb : Target) (s : State) : Out :=
  intForm s (.ishr m ta tb) m ta tb (quiet (fun w _ a b => a / 2 ^ (b % w)))

/-- ISAR: fill from bit w−1 (R319). -/
def execIsar (m : IMod) (ta tb : Target) (s : State) : Out :=
  intForm s (.isar m ta tb) m ta tb (quiet (fun w _ a b => bitsOfInt w ((intOfBits w true a).fdiv ((2 : Int) ^ (b % w)))))

/-- IABS (R319). -/
def execIabs (m : IMod) (ta tb : Target) (s : State) : Out :=
  intForm1 s (.iabs m ta tb) m ta tb (fun a => Int.ofNat a.natAbs)

/-- INEG (R319). -/
def execIneg (m : IMod) (ta tb : Target) (s : State) : Out := intForm1 s (.ineg m ta tb) m ta tb (fun a => -a)

/-- A comparison's outcome by its condition code (R320). -/
def icmpHolds (c : Nat) (a b : Int) : Bool :=
  match c with
  | 0 => a == b
  | 1 => a != b
  | 2 => decide (a < b)
  | 3 => decide (a ≤ b)
  | 4 => decide (b < a)
  | _ => decide (b ≤ a)

/-- ICMP: all ones or zero by position, PRED where any live position is true (R320). -/
def execIcmp (m : IMod) (ta tb : Target) (s : State) : Out :=
  let y := imodTy m
  let sg := match y with | .int _ sg => sg | _ => false
  let i : Instr := .icmp m ta tb
  onSlot s (SlotOp.plain i ta tb (fun _ h => y.accepts h) (some (fun h => (y.code h, h.count))) (fun e s x =>
    let w := y.width
    let r := (zipInt (fun a b =>
      (if icmpHolds (x.const.toNat % 8) (intOfBits w sg a) (intOfBits w sg b) then 2 ^ w - 1 else 0, []))
      (posList w x.hl (tokIn x.l)) (posList w x.hr (tokIn x.r))).1
    fireOne i ta tb e s x [] (tokOf w (r.any (fun v => match v with | some v => v != 0 | none => false)) r)))

/-- ISEL: L where P's position is not zero, else R; live where P's and the chosen position are (R321). -/
def execIsel (m : IMod) (ta tb : Target) (s : State) : Out :=
  let y := imodTy m
  let i : Instr := .isel m ta tb
  onSlot s (SlotOp.plain i ta tb (fun _ h => y.accepts h) (some (fun h => (y.code h, h.count))) (fun e s x =>
    let w := y.width
    let l := posList w x.hl (tokIn x.l)
    let r := posList w x.hr (tokIn x.r)
    let p := posList w x.hp (tokIn x.p)
    let z := p.zipIdx.map (fun q => match q.1 with
      | some v => if v ≠ 0 then nth none l q.2 else nth none r q.2
      | none => none)
    fireOne i ta tb e s x [] (tokOf w (tokIn x.l).pred z)))

end Sys2Proof.Machine
end

