-- ==== Sys2Proof/Machine/ElemFloat.lean ====
section
/-! DEFINITION. Floating-point operations of the element: FADD to FRESC (R322 to R324), with the accumulating operations
FMAC and ACC (R337). -/
namespace Sys2Proof.Machine

/-- f8×4 data without a header: FMTMIS, and the token counts as poison (R316). -/
def noHeader (i : Instr) (ta tb : Target) (e : Env) (s : State) (x : Slot) : State :=
  raiseUnit (emitPoison i ta tb e s x) e 0 Cause.fmtmis

/-- Round positions to a format, to nearest; the bits and the events, those of a step in binary32 before it among them: its result is a
value of its own, so a lane whose step and rounding both underflow counts twice (R184, R191; log 27). -/
def roundAll (f : Fmt) (sat : Bool) (vs : List (Option (Val × List Nat))) : List (Option Nat) × List Nat :=
  let rs := vs.map (fun v => v.map (fun v => let r := roundTo v.1 f .rn sat 0; (f.encode r.val, v.2 ++ r.events)))
  (rs.map (fun r => r.map (·.1)), rs.flatMap (fun r => match r with | some v => v.2 | none => []))

/-- Apply an exact operation position by position. -/
def zipVal (f : Val → Val → Val × List Nat) (a b : List (Option Val)) : List (Option (Val × List Nat)) :=
  (a.zip b).map (fun ab => match ab with
    | (some x, some y) => some (f x y)
    | _ => none)

/-- The header that a float form rewrites (R317). -/
def fltRewrite (y : ETy) : Option (Hdr → Nat × Nat) := some (fun h => (y.code h, h.count))

/-- A two-operand float form: exact, then rounded once (R184, R322). -/
def fltForm (s : State) (i : Instr) (m : FMod) (ta tb : Target) (f : Val → Val → Val × List Nat) : Out :=
  let y := fmodTy m
  onSlot s (SlotOp.plain i ta tb (fun _ h => y.accepts h) (fltRewrite y) (fun e s x =>
    match y.fmt x.hl, y.fmt x.hr with
    | some fl, some fr =>
      let a := valList fl x.hl (tokIn x.l)
      let b := valList fr x.hr (tokIn x.r)
      let r := roundAll fl e.sat8 (zipVal f a.1 b.1)
      fireOne i ta tb e s x (a.2 ++ b.2 ++ r.2) (tokOf fl.width (tokIn x.l).pred r.1)
    | _, _ => noHeader i ta tb e s x))

/-- A one-operand float form (R322). -/
def fltForm1 (s : State) (i : Instr) (m : FMod) (ta tb : Target) (f : Val → Val × List Nat) : Out :=
  let y := fmodTy m
  onSlot s (SlotOp.plain i ta tb (fun _ h => y.accepts h) (fltRewrite y) (fun e s x =>
    match y.fmt x.hl with
    | some fl =>
      let a := valList fl x.hl (tokIn x.l)
      let r := roundAll fl e.sat8 (a.1.map (fun v => v.map f))
      fireOne i ta tb e s x (a.2 ++ r.2) (tokOf fl.width (tokIn x.l).pred r.1)
    | none => noHeader i ta tb e s x))

/-- FADD (R322). -/
def execFadd (m : FMod) (ta tb : Target) (s : State) : Out := fltForm s (.fadd m ta tb) m ta tb addV

/-- FSUB (R322). -/
def execFsub (m : FMod) (ta tb : Target) (s : State) : Out :=
  fltForm s (.fsub m ta tb) m ta tb (fun a b => addV a b.negate)

/-- FMUL (R322). -/
def execFmul (m : FMod) (ta tb : Target) (s : State) : Out := fltForm s (.fmul m ta tb) m ta tb mulV

/-- FMIN (R271, R322). -/
def execFmin (m : FMod) (ta tb : Target) (s : State) : Out := fltForm s (.fmin m ta tb) m ta tb (fmaxV false)

/-- FMAX (R271, R322). -/
def execFmax (m : FMod) (ta tb : Target) (s : State) : Out := fltForm s (.fmax m ta tb) m ta tb (fmaxV true)

/-- FABS: no event even for a signalling NaN (R322). -/
def execFabs (m : FMod) (ta tb : Target) (s : State) : Out := fltForm1 s (.fabs m ta tb) m ta tb (fun a => (a.abs, []))

/-- FNEG (R322). -/
def execFneg (m : FMod) (ta tb : Target) (s : State) : Out := fltForm1 s (.fneg m ta tb) m ta tb (fun a => (a.negate, []))

/-- FRCP: the binary32 result, rounded to the lane format (R186 to R188). -/
def execFrcp (m : FMod) (ta tb : Target) (s : State) : Out := fltForm1 s (.frcp m ta tb) m ta tb frcpV

/-- FRSQ (R186 to R188). -/
def execFrsq (m : FMod) (ta tb : Target) (s : State) : Out := fltForm1 s (.frsq m ta tb) m ta tb frsqV

/-- FSQRT: correctly rounded binary32, then the lane format (R186, R188). -/
def execFsqrt (m : FMod) (ta tb : Target) (s : State) : Out :=
  fltForm1 s (.fsqrt m ta tb) m ta tb (fun a =>
    let r := fsqrtV a
    let q := roundNear fmt32 r.1
    (q.1, r.2 ++ q.2))

/-- FEXP2 (R185, R188). -/
def execFexp2 (m : FMod) (ta tb : Target) (s : State) : Out := fltForm1 s (.fexp2 m ta tb) m ta tb fexp2V

/-- FLOG2 (R186 to R188). -/
def execFlog2 (m : FMod) (ta tb : Target) (s : State) : Out := fltForm1 s (.flog2 m ta tb) m ta tb flog2V

/-- The binary32 steps of FRESC (R323). -/
def frescV (a d : Val) : Val × List Nat :=
  let sig := sigEvents [a, d]
  if a.isNan || (d.isNan && !a.isZero) then (.nan false, sig)
  else if a.isZero then (a, sig)
  else match d with
    | .inf true => (.fin a.neg 0 0, sig)
    | _ =>
      let y := fexp2V d
      let p := mulV a y.1
      let q := roundNear fmt32 p.1
      (q.1, sig ++ y.2 ++ p.2 ++ q.2)

/-- FRESC (R323): L holds sums, R differences. -/
def execFresc (m : FMod) (ta tb : Target) (s : State) : Out := fltForm s (.fresc m ta tb) m ta tb frescV

/-- A float comparison's outcome by its condition code (R324). -/
def fcmpHolds (c : Nat) (a b : Val) : Bool :=
  if a.isNan || b.isNan then c == 1 || c == 6
  else match c, cmpV a b with
    | 0, .eq | 1, .lt | 1, .gt | 2, .lt | 3, .lt | 3, .eq | 4, .gt | 5, .gt | 5, .eq | 7, _ => true
    | _, _ => false

/-- FCMP: all ones or zero by position, PRED where any live position is true (R320, R324). -/
def execFcmp (m : FMod) (ta tb : Target) (s : State) : Out :=
  let y := fmodTy m
  let i : Instr := .fcmp m ta tb
  onSlot s (SlotOp.plain i ta tb (fun _ h => y.accepts h) (fltRewrite y) (fun e s x =>
    match y.fmt x.hl, y.fmt x.hr with
    | some fl, some fr =>
      let a := valList fl x.hl (tokIn x.l)
      let b := valList fr x.hr (tokIn x.r)
      let r := (a.1.zip b.1).map (fun ab => match ab with
        | (some u, some v) => some (if fcmpHolds (x.const.toNat % 8) u v then 2 ^ fl.width - 1 else 0)
        | _ => none)
      let evs := ((a.1.zip b.1).flatMap (fun ab => match ab with
        | (some u, some v) => sigEvents [u, v]
        | _ => []))
      fireOne i ta tb e s x (a.2 ++ b.2 ++ evs)
        (tokOf fl.width (r.any (fun v => match v with | some v => v != 0 | none => false)) r)
    | _, _ => noHeader i ta tb e s x))

/-! ### Accumulating operations (R337) -/

/-- The accumulator as a token: positions live where they have received a contribution; poison where it is poisoned. -/
def accToken (w : Nat) (pred : Bool) (x : Slot) : Token :=
  if x.accPoison then bare .poison
  else tokOf w pred ((List.range (512 / w)).map (fun p => if x.accLive.getLsbD p then some (posBits x.acc w p) else none))

/-- Fold contributions into the accumulator; a position without one keeps its value. -/
def foldAcc (w : Nat) (x : Slot) (new : List (Option Nat)) : Slot :=
  let bits := (List.range (512 / w)).map (fun p => (nth none new p).getD (posBits x.acc w p))
  let v := bits.foldr (fun b a => a * 2 ^ w + b) 0
  let m := (List.range (512 / w)).foldl (fun m p => if (nth none new p).isSome then m ||| BitVec.ofNat 64 (2 ^ p) else m) x.accLive
  { x with acc := BitVec.ofNat 512 v, accLive := m }

/-- RUN (R337). -/
def accRun (x : Slot) : Bool := x.const.getLsbD 2

/-- After a data firing: the folded slot, and the accumulator emitted where RUN is set. -/
def accAfter (i : Instr) (ta tb : Target) (w : Nat) (e : Env) (s : State) (x y : Slot) (evs : List Nat) : State :=
  let y' := { y.consume i with acc := y.acc, accLive := y.accLive, accPoison := y.accPoison }
  let tok := if accRun x then some (accToken w (tokIn x.l).pred y') else none
  countEvents (emit s e y' ta tb tok tok) e.ctx e.t evs

/-- Poison at an accumulating operation (R318, R337). -/
def accPoisoned (i : Instr) (ta tb : Target) (e : Env) (s : State) (x : Slot) : State :=
  let tok := if accRun x then some (bare .poison) else none
  emit s e { x.skip i with accPoison := true } ta tb tok tok

/-- A marker at an accumulating operation: a closing one emits the accumulator, is forwarded, and resets (R337). -/
def accMark (i : Instr) (ta tb : Target) (w : Nat) (e : Env) (s : State) (x : Slot) (k : TokKind) : State :=
  if closes (x.const.toNat % 4) k then
    if x.sub = 0 then
      let tok := accToken w false x
      emit s e { x with sub := 1 } ta tb (some tok) (some tok)
    else forwardMark i ta tb e s { x with acc := 0, accLive := 0, accPoison := false } k
  else forwardMark i ta tb e s x k

/-- An accumulating form, its data firing given. -/
def accForm (s : State) (i : Instr) (y : ETy) (ta tb : Target) (fire : Env → State → Slot → State) : Out :=
  onSlot s { SlotOp.plain i ta tb (fun _ h => y.accepts h) (fltRewrite y) fire with
    poison := accPoisoned i ta tb, mark := accMark i ta tb y.width }

/-- Accumulator positions as values. -/
def accVals (f : Fmt) (x : Slot) : List Val := (List.range (512 / f.width)).map (fun p => f.decode (posBits x.acc f.width p))

/-- FMAC: acc + a·b, rounded once (R322, R337). -/
def execFmac (m : FMod) (ta tb : Target) (s : State) : Out :=
  let y := fmodTy m
  let i : Instr := .fmac m ta tb
  accForm s i y ta tb (fun e s x =>
    match y.fmt x.hl, y.fmt x.hr with
    | some fl, some fr =>
      let a := valList fl x.hl (tokIn x.l)
      let b := valList fr x.hr (tokIn x.r)
      let prod := zipVal mulV a.1 b.1
      let sums := (prod.zip (accVals fl x)).map (fun pc => pc.1.map (fun p =>
        let r := addV pc.2 p.1
        (r.1, p.2 ++ r.2)))
      let r := roundAll fl e.sat8 sums
      accAfter i ta tb fl.width e s x (foldAcc fl.width x r.1) (a.2 ++ b.2 ++ r.2)
    | _, _ => raiseUnit (accPoisoned i ta tb e s x) e 0 Cause.fmtmis)

/-- ACC: acc + L; integers wrap, floats round once (R337). -/
def execAcc (m : LMod) (ta tb : Target) (s : State) : Out :=
  let y := lmodTy m
  let i : Instr := .acc m ta tb
  accForm s i y ta tb (fun e s x =>
    match y with
    | .int w _ =>
      let r := (posList w x.hl (tokIn x.l)).zipIdx.map (fun v => v.1.map (fun v' => (posBits x.acc w v.2 + v') % 2 ^ w))
      accAfter i ta tb w e s x (foldAcc w x r) []
    | _ =>
      match y.fmt x.hl with
      | some fl =>
        let a := valList fl x.hl (tokIn x.l)
        let r := roundAll fl e.sat8 (((a.1.zip (accVals fl x))).map (fun vc => vc.1.map (fun v => addV vc.2 v)))
        accAfter i ta tb fl.width e s x (foldAcc fl.width x r.1) (a.2 ++ r.2)
      | none => raiseUnit (accPoisoned i ta tb e s x) e 0 Cause.fmtmis)

end Sys2Proof.Machine
end

