-- ==== Sys2Proof/Machine/ElemConv.lean ====
section
/-! DEFINITION. Conversions of the element: CVT, QUANT, DEQ, PACK, UNPACK, TUNP (R325 to R329, R171 to R173). -/
namespace Sys2Proof.Machine

/-- A source element: an exact integer or a float value. -/
inductive Num where
  | int (v : Int)
  | flt (v : Val)
  deriving DecidableEq, Repr

/-- A converted pattern, its events, and the slot's generator after it (R171). -/
def convertTo (dst : Nat) (rm : RMode) (sat : Bool) (g : BitVec 32) (v : Num) : Nat × List Nat × BitVec 32 :=
  match intOfCode dst, fmtOfCode dst with
  | some (w, sg), _ =>
    match v with
    | .int z => let r := clampInt z w sg; (bitsOfInt w r.1, r.2, g)
    | .flt x => let r := toIntV x w sg rm g; (bitsOfInt w r.1, r.2.1, r.2.2)
  | none, some f =>
    match v with
    | .int z => let r := roundTo (valOfInt z) f rm sat g; (f.encode r.val, r.events, r.rng)
    | .flt x => let r := roundTo x f rm sat g; (f.encode r.val, sigEvents [x] ++ r.events, r.rng)
  | none, none => (0, [], g)

/-- Convert positions in order, the generator drawn from live ones (R169). -/
def convertAll (dst : Nat) (rm : RMode) (sat : Bool) : BitVec 32 → List (Option Num) → List (Option Nat) × List Nat × BitVec 32
  | g, [] => ([], [], g)
  | g, none :: l =>
    match convertAll dst rm sat g l with
    | (a, b, g) => (none :: a, b, g)
  | g, some v :: l =>
    let r := convertTo dst rm sat g v
    match convertAll dst rm sat r.2.2 l with
    | (a, b, g) => (some r.1 :: a, r.2.1 ++ b, g)

/-- Source positions of a token in a format code, with the NaN-scale events of its blocks. -/
def sourceNums (src : Nat) (h : Option Hdr) (tok : Token) : List (Option Num) × List Nat :=
  match intOfCode src, fmtOfCode src with
  | some (w, sg), _ => ((posList w h tok).map (fun p => p.map (fun b => Num.int (intOfBits w sg b))), [])
  | none, some f =>
    let r := valList f h tok
    (r.1.map (fun p => p.map Num.flt), r.2)
  | none, none => ([], [])

/-- The positions of output token `k` when every input position maps to one output position (R326). -/
def outPart (wd k : Nat) (l : List (Option Num)) : List (Option Num) :=
  let n := 512 / wd
  let part := (l.drop (k * n)).take n
  part ++ List.replicate (n - part.length) none

/-- Output tokens for one input token (R326). -/
def outTokens (ws wd : Nat) : Nat := if ws < wd then wd / ws else 1

/-- Source format of a conversion: the constant's, or that of L's header (R326). -/
def cvtSource (c : Nat) (h : Option Hdr) : Option Nat :=
  if c % 256 ≠ 0 then some (c % 256) else h.map (fun h => h.fmt)

/-- COUNT of a conversion's rewritten header (R317). -/
def cvtCount (c : Nat) (h : Hdr) : Nat :=
  if fmtWidth h.fmt = fmtWidth (c / 256 % 256) then h.count else 0xFFFFFFFF

/-- A conversion form (R325 to R327): which source formats a header may carry, and what is done to source values and
results before the token leaves. -/
def cvtForm (s : State) (i : Instr) (sat : Bool) (rm : RMode) (ta tb : Target) (srcOk : Nat → Bool)
    (f : Env → State → Slot → Nat → Nat → List (Option Num) → List (Option Nat) × List Nat × BitVec 32) : Out :=
  let accepts (c : Nat) (q : Pos) (h : Hdr) : Bool :=
    q == .p || (if c % 256 = 0 then srcOk h.fmt else h.fmt == c % 256)
  let c := (getSlot s s.focus.1 s.focus.2).const.toNat
  let _ := sat
  let _ := rm
  onSlot s (SlotOp.plain i ta tb (accepts c) (some (fun h => (c / 256 % 256, cvtCount c h))) (fun e s x =>
    match cvtSource c x.hl with
    | none => noHeader i ta tb e s x
    | some src =>
      let dst := c / 256 % 256
      let ws := fmtWidth src
      let wd := fmtWidth dst
      let a := sourceNums src x.hl (tokIn x.l)
      let r := f e s x dst wd (outPart wd x.sub a.1)
      let tok := tokOf wd (tokIn x.l).pred r.1
      let evs := (if x.sub = 0 then a.2 ++ scaleEvents i x else []) ++ r.2.1
      let y := if x.sub + 1 < outTokens ws wd then { x with sub := x.sub + 1 } else x.consume i
      countEvents (emit s e { y with rng := r.2.2 } ta tb (some tok) (some tok)) e.ctx e.t evs))
where
  /-- NaN-scale events of R's blocks, where the operation reads R (R175). -/
  scaleEvents (i : Instr) (x : Slot) : List Nat := if (readsOf i).2 then blockEvents x.hr (tokIn x.r) else []

/-- CVT (R326). -/
def execCvt (sat : Bool) (rm : RMode) (ta tb : Target) (s : State) : Out :=
  cvtForm s (.cvt sat rm ta tb) sat rm ta tb cvtFmt (fun e _ x dst _ l => convertAll dst rm (sat || e.sat8) x.rng l)

/-- Scale every value by a power of two, exactly. -/
def scaleNum (k : Int) : Num → Num
  | .int v => .flt (scaleV (valOfInt v) k)
  | .flt v => .flt (scaleV v k)

/-- R's lane 0 is live: by its mask, and by the COUNT of a header on R (R179, R327). -/
def scaleLive (x : Slot) : Bool :=
  (tokIn x.r).mask.getLsbD 0 && (match x.hr with
    | some h => decide (h.idx < h.count)
    | none => true)

/-- The scaled conversions of R327; a NaN scale counts once for each firing, that is for each token, with a live position (R175,
R315); `inv` is QUANT's division. -/
def scaledConv (sat : Bool) (rm : RMode) (inv : Bool) (e : Env) (x : Slot) (dst : Nat) (l : List (Option Num)) :
    List (Option Nat) × List Nat × BitVec 32 :=
  let r := tokIn x.r
  let sc := r.data.toNat % 256
  if !scaleLive x then (l.map (fun _ => none), [], x.rng)
  else if sc = 255 then
    let n := (l.filter Option.isSome).length
    let v : Nat × List Nat := match fmtOfCode dst with
      | some f => (f.encode (.nan false), [])
      | none => (0, List.replicate n 0)
    (l.map (fun p => p.map (fun _ => v.1)), v.2 ++ (if n = 0 then [] else [5]), x.rng)
  else
    let k : Int := if inv then 127 - Int.ofNat sc else Int.ofNat sc - 127
    convertAll dst rm (sat || e.sat8) x.rng (l.map (fun p => p.map (scaleNum k)))

/-- QUANT (R327). -/
def execQuant (sat : Bool) (rm : RMode) (ta tb : Target) (s : State) : Out :=
  cvtForm s (.quant sat rm ta tb) sat rm ta tb (fun c => 0x40 ≤ c && c ≤ 0x42)
    (fun e _ x dst _ l => scaledConv sat rm true e x dst l)

/-- DEQ (R327). -/
def execDeq (sat : Bool) (rm : RMode) (ta tb : Target) (s : State) : Out :=
  cvtForm s (.deq sat rm ta tb) sat rm ta tb (fun c => isB8 c || (0x50 ≤ c && c ≤ 0x53))
    (fun e _ x dst _ l => scaledConv sat rm false e x dst l)

/-! ### Bytes -/

/-- Lanes i to i+n−1 of a token as options. -/
def laneList (tok : Token) (i n : Nat) : List (Option Nat) :=
  (rangeFrom i n).map (fun p => if tok.mask.getLsbD p then some (posBits tok.data 32 p) else none)

/-- Pad lanes with masked ones to 16. -/
def padLanes (l : List (Option Nat)) : List (Option Nat) := l ++ List.replicate (16 - l.length) none

/-- Header of PACK and UNPACK: L's format (R317). -/
def byteRewrite : Option (Hdr → Nat × Nat) := some (fun h => (h.fmt, 0xFFFFFFFF))

/-- PACK (R328). -/
def execPack (ta tb : Target) (s : State) : Out :=
  let i : Instr := .pack ta tb
  onSlot s (SlotOp.plain i ta tb (fun _ h => !h.scaled) byteRewrite (fun e s x =>
    let n := x.const.toNat / 4
    let tok := tokOf 32 (tokIn x.l).pred (padLanes (laneList (tokIn x.l) 0 n ++ laneList (tokIn x.r) 0 n))
    fireOne i ta tb e s x [] tok))

/-- UNPACK: each of its two tokens is one firing (R315, R328). -/
def execUnpack (ta tb : Target) (s : State) : Out :=
  let i : Instr := .unpack ta tb
  onSlot s (SlotOp.plain i ta tb (fun _ h => !h.scaled) byteRewrite (fun e s x =>
    let n := x.const.toNat / 4
    let l := tokIn x.l
    if x.sub = 0 then emit s e { x with sub := 1 } ta tb (some (tokOf 32 l.pred (padLanes (laneList l 0 n)))) none
    else emit s e (x.consume i) ta tb none (some (tokOf 32 l.pred (padLanes (laneList l n n))))))

/-- The trits of a byte, by multiply and shift (R173); an illegal code gives zeros. -/
def tritsOf (b : Nat) : List Int :=
  if 243 ≤ b then [0, 0, 0, 0, 0]
  else
    let step (v : Nat) : Nat := v * 171 / 512
    let trit (v : Nat) : Int := match v - 3 * step v with
      | 0 => 0
      | 1 => 1
      | _ => -1
    let v1 := step b
    let v2 := step v1
    let v3 := step v2
    [trit b, trit v1, trit v2, trit v3, trit (step v3)]

/-- A byte of a packed token counts: its lane is live and its first element lies in the sheaf (R173). -/
def tritByteLive (h : Option Hdr) (tok : Token) (j : Nat) : Bool :=
  tok.mask.getLsbD (j / 4) && (match h with
    | some h => decide (h.idx + 5 * j < h.count)
    | none => true)

/-- Illegal bytes of a packed token. -/
def illegalTrits (h : Option Hdr) (tok : Token) : Nat :=
  ((List.range 64).filter (fun j => tritByteLive h tok j && 243 ≤ posBits tok.data 8 j)).length

/-- TUNP: five tokens of s8 (R173, R329); block scales have no part in them, but a NaN scale is counted (R175; log 126). -/
def execTunp (ta tb : Target) (s : State) : Out :=
  let i : Instr := .tunp ta tb
  onSlot s (SlotOp.plain i ta tb (fun _ h => h.fmt == 0x58) (some (fun _ => (0x50, 0xFFFFFFFF))) (fun e s x =>
    let l := tokIn x.l
    let bad := illegalTrits x.hl l
    if e.ttrap && bad != 0 then holdSlot s e x Cause.tritbad 0 (BitVec.allOnes 16) false
    else
      let ps := (rangeFrom (64 * x.sub) 64).map (fun n =>
        let inside := match x.hl with
          | some h => decide (h.idx + n < h.count)
          | none => true
        if l.mask.getLsbD (n / 20) && inside then some (bitsOfInt 8 (nth 0 (tritsOf (posBits l.data 8 (n / 5))) (n % 5))) else none)
      let tok := tokOf 8 l.pred ps
      let y := if x.sub < 4 then { x with sub := x.sub + 1 } else x.consume i
      let evs := List.replicate bad 6 ++ blockEvents x.hl l
      countEvents (emit s e y ta tb (some tok) (some tok)) e.ctx e.t (if x.sub = 0 then evs else [])))

end Sys2Proof.Machine
end

