-- ==== Sys2Proof/Machine/ElemLane.lean ====
section
/-! DEFINITION. Lane operations of the element: LSUM to WINNOW (R330 to R334, R183). -/
namespace Sys2Proof.Machine

/-- One level of the pairwise tree: absent partners leave a value as it is (R183). -/
def treeLevel {α : Type} (f : α → α → α × List Nat) : List (Option α) → List (Option α) × List Nat
  | some a :: some b :: l =>
    let r := f a b
    let q := treeLevel f l
    (some r.1 :: q.1, r.2 ++ q.2)
  | some a :: none :: l => let q := treeLevel f l; (some a :: q.1, q.2)
  | none :: x :: l => let q := treeLevel f l; (x :: q.1, q.2)
  | [x] => ([x], [])
  | [] => ([], [])

/-- The tree of R183, at most `n` levels. -/
def treeFold {α : Type} (f : α → α → α × List Nat) : Nat → List (Option α) → Option α × List Nat
  | 0, l => (match l with | x :: _ => x | [] => none, [])
  | n + 1, l =>
    let r := treeLevel f l
    let q := treeFold f n r.1
    (q.1, r.2 ++ q.2)

/-- A value rounded to the lane format, kept as a value. -/
def roundVal (f : Fmt) (sat : Bool) (v : Val × List Nat) : Val × List Nat :=
  let r := roundTo v.1 f .rn sat 0
  (r.val, v.2 ++ r.events)

/-- Result of a reduction: position 0, lane 0 alone live (R331). -/
def laneZero (w : Nat) (pred : Bool) (b : Nat) : Token := tokOf w pred (some b :: List.replicate (512 / w - 1) none)

/-- Header of a lane operation (R317): L's COUNT where `own`, which R317 gives the operations whose positions map one to one and
the model gives LSHUF and LBCAST too, of which R317 says nothing (DESIGN CHOICE, log 136). -/
def laneRewrite (y : ETy) (own : Bool) : Option (Hdr → Nat × Nat) :=
  some (fun h => (y.code h, if own then h.count else 0xFFFFFFFF))

/-- Integer reductions. -/
inductive LRed where
  | sum | max | min
  deriving DecidableEq, Repr

/-- An integer reduction (R331): LSUM leaves the low 32 bits of the exact sum. -/
def intReduce (k : LRed) (w : Nat) (sg : Bool) (ps : List (Option Nat)) : Nat × Nat :=
  let vs := ps.filterMap (fun p => p.map (intOfBits w sg))
  match k with
  | .sum => (32, bitsOfInt 32 vs.sum)
  | .max => (w, bitsOfInt w (vs.foldl max (intMin w sg)))
  | .min => (w, bitsOfInt w (vs.foldl min (intMax w sg)))

/-- What a float reduction without a live position gives (R331). -/
def emptyRed (k : LRed) (f : Fmt) : Val :=
  match k with
  | .sum => .fin false 0 0
  | .max => if !f.isSigned then .fin false 0 0 else if f.hasInf then .inf true else .fin true f.maxFin.1 f.maxFin.2
  | .min => if f.hasInf then .inf false else .fin false f.maxFin.1 f.maxFin.2

/-- A float reduction over the tree (R183, R331); a lone signalling NaN, which nothing combines, counts here (R163). -/
def fltReduce (k : LRed) (f : Fmt) (sat : Bool) (vs : List (Option Val)) : Val × List Nat :=
  let comb (a b : Val) : Val × List Nat := match k with
    | .sum => roundVal f sat (addV a b)
    | .max => lmaxV true a b
    | .min => lmaxV false a b
  match treeFold comb 6 vs with
  | (some v, ev) => (v, ev ++ sigEvents [v])
  | (none, ev) => (emptyRed k f, ev)

/-- A reduction form (R331). -/
def redLane (s : State) (i : Instr) (m : LMod) (ta tb : Target) (k : LRed) : Out :=
  let y := lmodTy m
  onSlot s (SlotOp.plain i ta tb (fun _ h => y.accepts h) (laneRewrite y false) (fun e s x =>
    let l := tokIn x.l
    match y with
    | .int w sg =>
      let r := intReduce k w sg (posList w x.hl l)
      fireOne i ta tb e s x [] (laneZero r.1 l.pred r.2)
    | _ =>
      match y.fmt x.hl with
      | some f =>
        let a := valList f x.hl l
        let r := fltReduce k f e.sat8 a.1
        let q := roundVal f e.sat8 r
        fireOne i ta tb e s x (a.2 ++ q.2) (laneZero f.width l.pred (f.encode q.1))
      | none => noHeader i ta tb e s x))

/-- LSUM (R183, R331). -/
def execLsum (m : LMod) (ta tb : Target) (s : State) : Out := redLane s (.lsum m ta tb) m ta tb .sum

/-- LMAX (R331). -/
def execLmax (m : LMod) (ta tb : Target) (s : State) : Out := redLane s (.lmax m ta tb) m ta tb .max

/-- LMIN (R331). -/
def execLmin (m : LMod) (ta tb : Target) (s : State) : Out := redLane s (.lmin m ta tb) m ta tb .min

/-- Inclusive prefix of integers. -/
def scanInt (w : Nat) : Nat → List (Option Nat) → List (Option Nat)
  | _, [] => []
  | a, none :: l => none :: scanInt w a l
  | a, some v :: l => some ((a + v) % 2 ^ w) :: scanInt w ((a + v) % 2 ^ w) l

/-- Inclusive prefix of floats, rounded at each step; the first live position starts it. -/
def scanFlt (f : Fmt) (sat : Bool) : Option Val → List (Option Val) → List (Option Nat) × List Nat
  | _, [] => ([], [])
  | a, none :: l => let q := scanFlt f sat a l; (none :: q.1, q.2)
  | a, some v :: l =>
    let r := roundVal f sat (match a with | some a => addV a v | none => (v, sigEvents [v]))
    let q := scanFlt f sat (some r.1) l
    (some (f.encode r.1) :: q.1, r.2 ++ q.2)

/-- LSCAN (R332). -/
def execLscan (m : LMod) (ta tb : Target) (s : State) : Out :=
  let y := lmodTy m
  let i : Instr := .lscan m ta tb
  onSlot s (SlotOp.plain i ta tb (fun _ h => y.accepts h) (laneRewrite y true) (fun e s x =>
    let l := tokIn x.l
    match y with
    | .int w _ => fireOne i ta tb e s x [] (tokOf w l.pred (scanInt w 0 (posList w x.hl l)))
    | _ =>
      match y.fmt x.hl with
      | some f =>
        let a := valList f x.hl l
        let r := scanFlt f e.sat8 none a.1
        fireOne i ta tb e s x (a.2 ++ r.2) (tokOf f.width l.pred r.1)
      | none => noHeader i ta tb e s x))

/-- The positions of L as they are carried on: bits unchanged, or where the sheaf has scales the scaled value rounded
once (R316, R334). -/
def carried (y : ETy) (sat : Bool) (h : Option Hdr) (tok : Token) : List (Option Nat) × List Nat :=
  let scaled := match h with
    | some h => h.scaled
    | none => false
  match y.fmt h with
  | some f =>
    if scaled then
      let a := valList f h tok
      let r := roundAll f sat (a.1.map (fun v => v.map (fun v => (v, sigEvents [v]))))
      (r.1, a.2 ++ r.2)
    else (posList f.width h tok, [])
  | none => (posList y.width h tok, [])

/-- f8 data without a header in a latch. -/
def lacksHeader (y : ETy) (h : Option Hdr) : Bool := y == .f8 && h.isNone

/-- LSHUF (R333). -/
def execLshuf (m : LMod) (ta tb : Target) (s : State) : Out :=
  let y := lmodTy m
  let i : Instr := .lshuf m ta tb
  onSlot s (SlotOp.plain i ta tb (fun _ h => y.accepts h) (laneRewrite y true) (fun e s x =>
    if lacksHeader y x.hl || lacksHeader y x.hr then noHeader i ta tb e s x
    else
      let l := carried y e.sat8 x.hl (tokIn x.l)
      let r := (posList y.width x.hr (tokIn x.r)).map (fun q => match q with
        | some v => nth none l.1 (v % y.count)
        | none => none)
      fireOne i ta tb e s x (l.2 ++ blockEvents x.hr (tokIn x.r)) (tokOf y.width (tokIn x.l).pred r)))

/-- LBCAST (R333). -/
def execLbcast (m : LMod) (ta tb : Target) (s : State) : Out :=
  let y := lmodTy m
  let i : Instr := .lbcast m ta tb
  onSlot s (SlotOp.plain i ta tb (fun _ h => y.accepts h) (laneRewrite y true) (fun e s x =>
    if lacksHeader y x.hl then noHeader i ta tb e s x
    else
      let l := carried y e.sat8 x.hl (tokIn x.l)
      let v := nth none l.1 (x.const.toNat % 64 % y.count)
      fireOne i ta tb e s x l.2 (tokOf y.width (tokIn x.l).pred (List.replicate y.count v))))

/-- Positions that are live and not zero, by value for floats: ±0 is zero, NaN is not (R334). -/
def nonZero (y : ETy) (h : Option Hdr) (tok : Token) : List Bool :=
  match y.fmt h with
  | some f => (valList f h tok).1.map (fun v => match v with | some v => !v.isZero | none => false)
  | none => (posList y.width h tok).map (fun v => match v with | some v => v != 0 | none => false)

/-- LCMPR (R334). -/
def execLcmpr (m : LMod) (ta tb : Target) (s : State) : Out :=
  let y := lmodTy m
  let i : Instr := .lcmpr m ta tb
  onSlot s (SlotOp.plain i ta tb (fun _ h => y.accepts h) (laneRewrite y false) (fun e s x =>
    if lacksHeader y x.hl || lacksHeader y x.hr then noHeader i ta tb e s x
    else
      let l := carried y e.sat8 x.hl (tokIn x.l)
      let picked := (l.1.zip (nonZero y x.hr (tokIn x.r))).filterMap (fun p => if p.2 then p.1 else none)
      let pred := (tokIn x.l).pred
      let a := tokOf y.width pred (picked.map some ++ List.replicate (y.count - picked.length) none)
      let evs := l.2 ++ nanEvents y x.hr (tokIn x.r)
      countEvents (emit s e (x.consume i) ta tb (some a) (some (laneZero 32 pred picked.length))) e.ctx e.t evs))
where
  /-- NaN-scale events of a second operand's blocks. -/
  nanEvents (y : ETy) (h : Option Hdr) (tok : Token) : List Nat :=
    match y.fmt h with
    | some f => (valList f h tok).2
    | none => []

/-- WINNOW's marker: forwarded to both targets, then the counter is reset where the level asks for it (R334). -/
def winnowMark (i : Instr) (ta tb : Target) (e : Env) (s : State) (x : Slot) (k : TokKind) : State :=
  let base := x.const.toNat % 2 ^ 28
  let x := if closes (x.const.toNat / 2 ^ 28 % 4) k then { x with acc := BitVec.ofNat 512 base } else x
  forwardMark i ta tb e s x k

/-- WINNOW (R334): one group of up to 16 non-zero positions at each firing. A poison token leaves the counter as it is
(DESIGN CHOICE, log 138). -/
def execWinnow (m : LMod) (ta tb : Target) (s : State) : Out :=
  let y := lmodTy m
  let i : Instr := .winnow m ta tb
  onSlot s { SlotOp.plain i ta tb (fun _ h => y.accepts h) (laneRewrite y false) (fun e s x =>
    if lacksHeader y x.hl then noHeader i ta tb e s x
    else
      let l := tokIn x.l
      let vals := carried y e.sat8 x.hl l
      let ps := (nonZero y x.hl l).zipIdx.filterMap (fun p => if p.1 then some p.2 else none)
      let c := x.acc.toNat % 2 ^ 32
      let grp := (ps.drop (16 * x.sub)).take 16
      let last := ps.length ≤ 16 * (x.sub + 1)
      let z := if last then { x.consume i with acc := BitVec.ofNat 512 ((c + y.count) % 2 ^ 32) } else { x with sub := x.sub + 1 }
      let evs := if x.sub = 0 then vals.2 else []
      if grp.isEmpty then countEvents (setSlot s e.t e.n z) e.ctx e.t evs
      else
        let idx := grp.map (fun p => some ((c + p) % 2 ^ 32))
        let dat := grp.map (fun p => nth none vals.1 p)
        let a := tokOf 32 l.pred (idx ++ List.replicate (16 - idx.length) none)
        let b := tokOf y.width l.pred (dat ++ List.replicate (y.count - dat.length) none)
        countEvents (emit s e z ta tb (some a) (some b)) e.ctx e.t evs) with
    mark := winnowMark i ta tb }

end Sys2Proof.Machine
end

