-- ==== Sys2Proof/Machine/ElemStream.lean ====
section
/-! DEFINITION. Stream operations of the element: SJOIN, PASS, CONST, IOTA (R335, R336, R338, R339). -/
namespace Sys2Proof.Machine

/-! ### SJOIN -/

/-- A key: position 0 in the modifier's type and order; a marker lies above every data key. -/
inductive Key where
  | num (v : Val)
  | mark
  deriving DecidableEq, Repr

/-- Order of keys: NaN above +∞, −0 equal to +0 (R336). -/
def keyCmp : Key → Key → Ordering
  | .mark, .mark => .eq
  | .mark, _ => .gt
  | _, .mark => .lt
  | .num a, .num b =>
    if a.isNan && b.isNan then .eq else if a.isNan then .gt else if b.isNan then .lt else cmpV a b

/-- Key of a token; none where position 0 is masked. -/
def keyOf (y : ETy) (h : Option Hdr) (tok : Token) : Option Key :=
  if tok.kind.isMark then some .mark
  else match y with
    | .int w sg => (nth none (posList w h tok) 0).map (fun b => .num (valOfInt (intOfBits w sg b)))
    | _ =>
      match y.fmt h with
      | some f => (nth none (valList f h tok).1 0).map Key.num
      | none => none

/-- Events of taking a token: the NaN scales of its blocks, and a signalling key (R163, R175). -/
def keyEvents (y : ETy) (h : Option Hdr) (tok : Token) : List Nat :=
  match y.fmt h with
  | some f =>
    if tok.kind.isMark then []
    else match valList f h tok with
      | (vs, evs) => evs ++ sigEvents ((nth none vs 0).toList)
  | none => []

/-- What an entry sends to a target: nothing, L's token, R's token, or the count token. -/
def joinSend (code : Nat) (l r : Token) (cnt : Nat) : Option Token :=
  match code with
  | 0 => none
  | 1 => some l
  | 2 => some r
  | _ => some (laneZero 32 l.pred cnt)

/-- Take one latch of SJOIN. -/
def joinTake (x : Slot) (q : Pos) : Slot := (x.setLatch q none).setHdr q (hdrAfter (x.hdr q) true (x.latch q))

/-- SJOIN with poison among its tokens: data and poison go, with P; a marker stays for the tokens before it (R318; log 19). -/
def joinPoison (ta tb : Target) (e : Env) (s : State) (x : Slot) : State :=
  let drop (x : Slot) (q : Pos) : Slot :=
    if (tokIn (x.latch q)).kind.isMark then x else (x.setLatch q none).setHdr q (hdrAfter (x.hdr q) false (x.latch q))
  emit s e { drop (drop x .l) .r with p := none, misRaised := false } ta tb (some (bare .poison)) (some (bare .poison))

/-- SJOIN's comparison of two tokens (R336). -/
def joinFire (y : ETy) (ta tb : Target) (e : Env) (s : State) (x : Slot) : State :=
  let l := tokIn x.l
  let r := tokIn x.r
  let el := keyEvents y x.hl l
  let er := keyEvents y x.hr r
  if (l.kind == .data && lacksHeader y x.hl) || (r.kind == .data && lacksHeader y x.hr) then
    raiseUnit (joinPoison ta tb e s x) e 0 Cause.fmtmis
  else match keyOf y x.hl l, keyOf y x.hr r with
    | none, none => countEvents (setSlot s e.t e.n (joinTake (joinTake x .l) .r)) e.ctx e.t (el ++ er)
    | none, _ => countEvents (setSlot s e.t e.n (joinTake x .l)) e.ctx e.t el
    | _, none => countEvents (setSlot s e.t e.n (joinTake x .r)) e.ctx e.t er
    | some a, some b =>
      let ord := keyCmp a b
      let c := x.const.toNat
      let ent := match ord with
        | .lt => c % 256
        | .eq => c / 256 % 256
        | .gt => c / 65536 % 256
      let cnt := if ord = .eq then (x.cnt + 1) % 2 ^ 32 else x.cnt
      let la := ent % 4
      let ra := ent / 4 % 4
      let z : Slot := { x with p := none, hp := hdrAfter x.hp true x.p, misRaised := false }
      let z := if la = 0 then z else joinTake z .l
      let z := if ra = 0 then z else joinTake z .r
      let z := { z with cnt := if la = 2 ∨ ra = 2 then 0 else cnt }
      countEvents (emit s e z ta tb (joinSend (ent / 16 % 4) l r cnt) (joinSend (ent / 64 % 4) l r cnt)) e.ctx e.t
        ((if la = 0 then [] else el) ++ (if ra = 0 then [] else er))

/-- SJOIN with a marker beside data: the marker's key is above it; different markers are MARKMIS; data that is poison, or that
follows a refused header, is poison beside the marker too (R178, R313, R318, R336; log 19). -/
def joinMixed (op : SlotOp) (y : ETy) (e : Env) (s : State) (x : Slot) (a b : TokKind) : State :=
  if (a.isMark && b.isMark) || a.isPermit || b.isPermit then markMis s e x
  else
    let q : Pos := if a.isMark then .r else .l
    match gateOf op.instr x with
    | .wait => s
    | .off => setSlot s e.t e.n { (x.setLatch q none).setHdr q (hdrAfter (x.hdr q) false (x.latch q)) with p := none }
    | .poison => joinPoison op.ta op.tb e s x
    | .go =>
      if latchPoison (x.hdr q) (x.latch q) then joinPoison op.ta op.tb e s x else joinFire y op.ta op.tb e s x

/-- SJOIN (R336). -/
def execSjoin (m : LMod) (ta tb : Target) (s : State) : Out :=
  let y := lmodTy m
  let i : Instr := .sjoin m ta tb
  let op := SlotOp.plain i ta tb (fun _ h => y.accepts h) none (joinFire y ta tb)
  onSlot s { op with mixed := joinMixed op y }

/-! ### PASS and CONST -/

/-- PASS: L unchanged, headers included (R338). -/
def execPass (ta tb : Target) (s : State) : Out :=
  let i : Instr := .pass ta tb
  onSlot s { SlotOp.plain i ta tb (fun _ _ => true) none (fun e s x => fireOne i ta tb e s x [] (tokIn x.l)) with
    accepts := none }

/-- CONST: the constant in every live lane, with L's mask and PRED (R314, R338). -/
def execConst (ta tb : Target) (s : State) : Out :=
  let i : Instr := .const ta tb
  onSlot s { SlotOp.plain i ta tb (fun _ _ => true) none (fun e s x =>
      let l := tokIn x.l
      fireOne i ta tb e s x [] (tokOf 32 l.pred ((List.range 16).map (fun p =>
        if l.mask.getLsbD p then some x.const.toNat else none)))) with
    accepts := none }

/-! ### IOTA -/

/-- The data token of IOTA from value `a` on: positions past N − 1 masked, PRED 0 (R314, R339; log 151). -/
def iotaToken (y : ETy) (n a : Nat) : Token × List Nat :=
  let r := (List.range y.count).map (fun p =>
    if a + p < n then
      match y with
      | .flt f _ =>
        let q := roundNear f (valOfInt (Int.ofNat (a + p)))
        some (f.encode q.1, q.2)
      | _ => some ((a + p) % 2 ^ y.width, [])
    else none)
  (tokOf y.width false (r.map (fun v => v.map (·.1))), r.flatMap (fun v => match v with | some v => v.2 | none => []))

/-- One turn of IOTA (R220, R339). -/
def iotaRun (y : ETy) (ta tb : Target) (e : Env) (s : State) (x : Slot) : State :=
  let n := x.const.toNat
  let eos := emit s e { x with ended := true } ta tb (some (bare .eos)) (some (bare .eos))
  let data (x : Slot) : State :=
    let r := iotaToken y n x.cnt
    countEvents (emit s e { x with cnt := x.cnt + y.count } ta tb (some r.1) (some r.1)) e.ctx e.t r.2
  if x.ended || e.atStop x.edge || !bothFree s e.t e.n ta tb then s
  else if x.edge < e.edges then
    emit s e { x with edge := x.edge + 1 } ta tb (some (bare .round)) (some (bare .round))
  else if n ≤ x.cnt then eos
  else if !pBound s e.t e.n then data x
  else match x.p with
    | none => s
    | some tok =>
      let y0 := { x with p := none }
      match tok.kind with
      | .eos => emit s e { y0 with ended := true } ta tb (some (bare .eos)) (some (bare .eos))
      | .poison => emit s e { y0 with cnt := x.cnt + y.count } ta tb (some (bare .poison)) (some (bare .poison))
      | .permit | .done => data y0
      | .data => if tok.pred then data y0 else setSlot s e.t e.n y0
      | _ => setSlot s e.t e.n y0

/-- IOTA (R339). -/
def execIota (m : LMod) (ta tb : Target) (s : State) : Out :=
  match envOf s s.focus.1 s.focus.2 with
  | none => .next s
  | some e => .next (iotaRun (lmodTy m) ta tb e s (getSlot s e.t e.n))

end Sys2Proof.Machine
end

