-- ==== Sys2Proof/Machine/ElemPort.lean ====
section
/-! DEFINITION. Memory-port operations of the element: LDT, STT, LDO, STO, AMO, RDX (R340 to R345), and
MEMORY_PORT_COMPLETE. -/
namespace Sys2Proof.Machine

/-- The VA of a port operation: lanes 0 and 1 of L, a masked one as 0, and a displacement (R20, R341; log 152). -/
def portVA (l : Token) (disp : Word) : Word :=
  let lane (i : Nat) : Nat := if l.mask.getLsbD i then posBits l.data 32 i else 0
  BitVec.ofNat 64 (lane 0 + lane 1 * 2 ^ 32) + disp

/-- Kinds of port operations. -/
inductive PortKind where
  | ldt | stt | ldo | sto
  | amo | rdx
  deriving DecidableEq, Repr

/-- The kind of a port operation. -/
def portKind : Instr → Option PortKind
  | .ldt _ _ _ _ => some .ldt
  | .stt _ => some .stt
  | .ldo _ _ _ _ => some .ldo
  | .sto _ _ _ => some .sto
  | .amo _ _ _ => some .amo
  | .rdx _ _ _ => some .rdx
  | _ => none

/-- Targets of a port operation. -/
def portTargets : Instr → Target × Target
  | .ldt _ _ a b | .ldo _ _ a b | .sto _ a b | .amo _ a b | .rdx _ a b => (a, b)
  | _ => (.none, .none)

/-- An invariant load (R340). -/
def portInv : Instr → Bool
  | .ldt _ v _ _ | .ldo _ v _ _ => v
  | _ => false

/-- The access kind that a port operation is checked for (R32, R341). -/
def portPerm (i : Instr) (k : PortKind) : AKind :=
  match k with
  | .ldt | .ldo => if portInv i then .inv else .read
  | .stt | .sto | .rdx => .write
  | .amo => .atomic

/-- What a port operation sends when its access is done or is not made: the value goes to the targets that take one, the
done token to the others (R340, R343). -/
def portSend (k : PortKind) (v : Option Token) : Option Token × Option Token :=
  let d := some (bare .done)
  match k with
  | .ldt | .amo => (v, v)
  | .stt => (none, none)
  | .ldo => (v, d)
  | .sto | .rdx => (d, d)

/-- Finish a firing: latches consumed, tokens sent. -/
def portFinish (s : State) (e : Env) (x : Slot) (i : Instr) (k : PortKind) (v : Option Token) : State :=
  let r := portSend k v
  emit s e { x.consume i with ops := [] } (portTargets i).1 (portTargets i).2 r.1 r.2

/-- Poison at a port operation (R318): done tokens are sent, loads and AMO emit poison; poison in R of a store, AMO or
reduction raises POISONW once per ARM. -/
def portPoison (i : Instr) (k : PortKind) (e : Env) (s : State) (x : Slot) : State :=
  let storing := match k with | .ldt | .ldo => false | _ => true
  let bad := storing && !x.poisonRaised && (match x.r with | some t => t.kind == .poison | none => false)
  let x := if bad then { x with poisonRaised := true } else x
  let s := portFinish s e x i k (some (bare .poison))
  if bad then raiseUnit s e 0 Cause.poisonw else s

/-- Predicated off (R313, R343): done tokens only. -/
def portOff (i : Instr) (k : PortKind) (e : Env) (s : State) (x : Slot) : State := portFinish s e x i k none

/-- Function and size of AMO and RDX (R344). -/
def amoFn (x : Slot) : Nat := x.const.toNat % 16
def amoSize (x : Slot) : Nat :=
  match x.const.toNat / 16 % 4 with
  | 0 => 4
  | 1 => 8
  | _ => 2

/-- RDX's contributions by position: live where the lane is, the first lane for 64 bits (R344). -/
def rdxParts (sz : Nat) (r : Token) : List (Option Nat) :=
  (List.range (64 / sz)).map (fun p => if r.mask.getLsbD (p * sz / 4) then some (posBits r.data (8 * sz) p) else none)

/-- The operation writes or reads no byte: no live lane in R of a store, no live contribution of a reduction (R46). -/
def portEmpty (k : PortKind) (x : Slot) : Bool :=
  let r := tokIn x.r
  match k with
  | .stt | .sto => r.mask == 0
  | .rdx => (rdxParts (amoSize x) r).all Option.isNone
  | _ => false

/-- Alignment of a port operation's VA. -/
def portAlign (k : PortKind) (x : Slot) : Nat :=
  match k with
  | .amo => amoSize x
  | _ => 64

/-- The core's SBAR holds the port's stream (R101). -/
def portHeld (s : State) (t : Tid) (d : Nat) : Bool := (getCore s t).held.getLsbD d

/-- The cycle at which a port operation fired: one that a fault has held keeps its own (R345). -/
def portSince (s : State) (x : Slot) : Nat :=
  match x.ops with
  | p :: _ => p.since
  | [] => s.clk.cycle

/-- Lanes of its 64-byte block that a port operation covers (R342, R344, R417). -/
def portLanes (k : PortKind) (x : Slot) (va : Word) : BitVec 16 :=
  match k with
  | .ldt | .ldo => BitVec.allOnes 16
  | .stt | .sto | .rdx => (tokIn x.r).mask
  | .amo => lanesOf (va.toNat % 64) (amoSize x)

/-- A data firing of a port operation: the address is formed and checked, and the access issued (R341, R345). -/
def portFire (i : Instr) (k : PortKind) (d : Dir) (e : Env) (s : State) (x : Slot) : State :=
  let l := tokIn x.l
  if x.ops.any (fun p => p.ia != 0) then s
  else if !l.mask.getLsbD 0 then portOff i k e s x
  else if portEmpty k x then portFinish s e x i k none
  else if portHeld s e.t (dirNat d) then s
  else
    let disp : Word := match k with
      | .amo | .rdx => 0
      | _ => x.const.signExtend 64
    let va := portVA l disp
    let wr := match k with | .ldt | .ldo => false | _ => true
    match translate s (elemWho e) va (portPerm i k) with
    | .error c => holdSlot s e x c va (portLanes k x va) wr
    | .ok r =>
      if !(inWindow r.1 && neighbour e.t (dirNat d) == some (windowTid r.1)) then holdSlot s e x Cause.offtile va (portLanes k x va) wr
      else if va.toNat % portAlign k x ≠ 0 then holdSlot s e x Cause.ealign va (portLanes k x va) wr
      else setSlot (bindRead s (elemWho e) va) e.t e.n { x with ops := [⟨va, r.1, r.2, hasPI s (elemWho e) va, portSince s x⟩] }

/-- A port operation as a slot's turn needs it. -/
def portOp (i : Instr) (k : PortKind) (d : Dir) : SlotOp :=
  { instr := i, ta := (portTargets i).1, tb := (portTargets i).2, accepts := none, rewrite := none, onPermit := false,
    mixed := fun e s x a b => match k with
      | .ldt | .stt | .ldo | .sto => if a.isMark || b.isMark then dropMark s e x a b else markMis s e x
      | _ => markMis s e x
    fire := portFire i k d, off := portOff i k, poison := portPoison i k
    mark := forwardMark i (portTargets i).1 (portTargets i).2 }

/-- LDT (R340 to R342). -/
def execLdt (d : Dir) (inv : Bool) (ta tb : Target) (s : State) : Out := onSlot s (portOp (.ldt d inv ta tb) .ldt d)

/-- STT (R340 to R342). -/
def execStt (d : Dir) (s : State) : Out := onSlot s (portOp (.stt d) .stt d)

/-- LDO (R340 to R343). -/
def execLdo (d : Dir) (inv : Bool) (ta tb : Target) (s : State) : Out := onSlot s (portOp (.ldo d inv ta tb) .ldo d)

/-- STO (R340 to R343). -/
def execSto (d : Dir) (ta tb : Target) (s : State) : Out := onSlot s (portOp (.sto d ta tb) .sto d)

/-- AMO (R341, R344). -/
def execAmo (d : Dir) (ta tb : Target) (s : State) : Out := onSlot s (portOp (.amo d ta tb) .amo d)

/-- RDX (R341, R344). -/
def execRdx (d : Dir) (ta tb : Target) (s : State) : Out := onSlot s (portOp (.rdx d ta tb) .rdx d)

/-! ### Performance at the bank -/

/-- Another access of the port was issued before (R97, R341: firing order). -/
def portEarlier (s : State) (t : Tid) (d : Nat) (since : Nat) : Bool :=
  s.fab.slots.any (fun e => e.1 / 64 == t && e.2.word.toNat / 4194304 % 4 == d && e.2.ops.any (fun p => p.since < since))

/-- The FIFO that a token access pushes to or pops from: the region's first byte (R342). -/
def portFifo (s : State) (ctx : Nat) (k : PortKind) (ia : Nat) : Except Cause (Option (Tid × Nat)) :=
  let t := windowTid ia
  match regionAt s t (ia % 2 ^ 20) with
  | none => .ok none
  | some r =>
    let w := region s t r
    if regCtx w ≠ ctx then .error Cause.region
    else if regMode w ≠ 2 then .ok none
    else match k with
      | .amo | .rdx => .error Cause.region
      | _ => if ia % 2 ^ 20 = regBase w then .ok (some (t, r)) else .error Cause.region

/-- Some of the 64 bytes lie in a FIFO region (R344). -/
def rowMeetsFifo (s : State) (ia n : Nat) : Bool :=
  (List.range 8).any (fun r =>
    let w := region s (windowTid ia) r
    regMode w == 2 && ia % 2 ^ 20 < regBase w + regLen w * 64 && regBase w < ia % 2 ^ 20 + n)

/-- Bytes of R's live lanes, masked bytes left (R342). -/
def laneBytes (r : Token) : List (Option Byte) :=
  (bytesOf 64 r.data.toNat).zipIdx.map (fun b => if r.mask.getLsbD (b.2 / 4) then some b.1 else none)

/-- A 64-byte token of the bytes read, every lane live, PRED 0 (R342). -/
def tokenOfBytes (bs : List Byte) : Token := ⟨.data, BitVec.allOnes 16, false, BitVec.ofNat 512 (ofBytes bs)⟩

/-- AMO's combination of an old value: code of `combine`, operand, comparand, R's bits as they stand under its mask (R344; log 152). -/
def amoNew (x : Slot) (old : Nat) : Nat × List Nat :=
  let r := tokIn x.r
  let n := amoSize x
  let b := r.data.toNat % 2 ^ (8 * n)
  let cmp := r.data.toNat / 2 ^ 64 % 2 ^ (8 * n)
  combine (amoFn x) n old b cmp

/-- RDX's new row and events: contributions in ascending address (R107, R344). -/
def rdxNew (x : Slot) (old : List Byte) : List Byte × List Nat :=
  let n := amoSize x
  let fn := if 8 ≤ amoFn x then amoFn x + 8 else amoFn x
  let rs := (rdxParts n (tokIn x.r)).zipIdx.map (fun p =>
    let o := ofBytes ((old.drop (p.2 * n)).take n)
    match p.1 with
    | some v => let r := combine fn n o v 0; (bytesOf n r.1, r.2)
    | none => (bytesOf n o, []))
  (rs.flatMap (·.1), rs.flatMap (·.2))

/-- A port's load as an agent: an invariant one where its word says so (R108, R342). -/
def portWho (s : State) (e : Env) (x : Slot) (p : PortOp) : Who :=
  invWho s (elemWho e) e.lid (match decodeElem x.word with | .ok i => portInv i | .error _ => false) p.pi

/-- Perform a slot's access at the bank: the token it answers with, and its events (R342 to R344). -/
def portPerform (s : State) (e : Env) (x : Slot) (k : PortKind) (p : PortOp) : Res (Option Token × List Nat) × State :=
  let who := elemWho e
  let lift (r : Res (List Byte) × State) (f : List Byte → Option Token × List Nat) : Res (Option Token × List Nat) × State :=
    match r with
    | (.ok bs, s) => (.ok (f bs), s)
    | (.fault c, s) => (.fault c, s)
    | (.wait, s) => (.wait, s)
  match k with
  | .ldt | .ldo => lift (iaAccess s (portWho s e x p) p.ia p.cls (.read 64)) (fun bs => (some (tokenOfBytes bs), []))
  | .stt | .sto => lift (iaPerform s who p.ia p.cls (.write (laneBytes (tokIn x.r)))) (fun _ => (none, []))
  | .amo =>
    lift (iaPerform s who p.ia p.cls (.rmw (amoSize x) false [] (fun old => bytesOf (amoSize x) (amoNew x (ofBytes old)).1)))
      (fun old => (some (tokOf (if amoSize x = 8 then 64 else 32) (tokIn x.l).pred
        (some (ofBytes old) :: List.replicate (if amoSize x = 8 then 7 else 15) none)), (amoNew x (ofBytes old)).2))
  | .rdx =>
    if rowMeetsFifo s p.ia 64 then (.fault Cause.region, s)
    else lift (iaPerform s who p.ia p.cls (.rmw 64 true [] (fun old => (rdxNew x old).1))) (fun old => (none, (rdxNew x old).2))

/-- MEMORY_PORT_COMPLETE of slot `ops` = [tile, slot]: the access is performed at the bank in the port's order and its
tokens are sent; a token access to a FIFO takes its place in the FIFO's queue (R75, R95, R342 to R345). -/
def execMemoryPortComplete (s : State) : Out :=
  let t := s.op 0
  let n := s.op 1
  let x := getSlot s t n
  match envOf s t n, x.ops, decodeElem x.word with
  | some e, p :: _, .ok i =>
    match portKind i, portDir i with
    | some k, some d =>
      let tg := portTargets i
      if x.held.isSome || p.ia == 0 || portEarlier s t (dirNat d) p.since || !bothFree s t n tg.1 tg.2 then .next s
      else
        let wr := match k with | .ldt | .ldo => false | _ => true
        match portFifo s e.ctx k p.ia with
        | .error c => .next (holdSlot s e x c p.va (portLanes k x p.va) wr)
        | .ok (some (m, r)) =>
          if fifoAsked s (.slot t n) then .next s
          else .next (fifoAsk s m r ⟨wr, tokIn x.r, none, .slot t n⟩)
        | .ok none =>
          match portPerform s e x k p with
          | (.ok (v, evs), s) => .next (countEvents (portFinish s e x i k v) e.ctx e.t evs)
          | (.fault c, s) => .next (holdSlot s e x c p.va (portLanes k x p.va) wr)
          | (.wait, s) => .next s
    | _, _ => .next s
  | _, _, _ => .next s

end Sys2Proof.Machine
end

