-- ==== Sys2Proof/Machine/Operators.lean ====
section
/-! DEFINITION. Router operators: STEER, MERGE, SELECT, CARRY, INVAR, COUNT, FILTER, DISTRIB, COLLECT, TAP, SEAL, CONTROL
(R217 to R219, R347 to R359). -/
namespace Sys2Proof.Machine

/-! ### Inputs and outputs of a unit -/

/-- An operator unit. -/
def getUnit (s : State) (t : Tid) (u : Nat) : OpUnit := s.fab.opunits.getD (t * 4 + u) (OpUnit.fresh 0)

/-- Output link that feeds an input of a unit: 0 A, 1 B, 2 D. -/
def unitIn (u inp : Nat) : Nat := if inp < 2 then 40 + u * 2 + inp else 48 + u

/-- Head of an input. -/
def headOf (s : State) (e : Env) (u inp : Nat) : Option Token := inHead s e.t (unitIn u inp)

/-- Consume the head of an input. -/
def popIn (s : State) (e : Env) (u inp : Nat) : State := inPop s e.t (unitIn u inp)

/-- Buffer in which a token that a unit emits waits for the router's port (R19). -/
def outBuf (e : Env) (u o : Nat) : Nat := bufKey e.t 7 (u * 2 + o)

/-- An output has a free slot downstream, and no token waits there for the port; an output that no word reads always has (R19,
R347). -/
def outFree (s : State) (e : Env) (u o : Nat) : Bool :=
  match linkReading s e.t (40 + u * 2 + o) with
  | none => true
  | some l => (linkFree s e.t l || pulled s (4096 * 32) e.t l) && (getBuf s (outBuf e u o)).isEmpty

/-- Emit a token on an output: it moves on in its port's turn; discarded where no word reads it (R19, R347). -/
def outPush (s : State) (e : Env) (u o : Nat) (tok : Token) : State :=
  if (linkReading s e.t (40 + u * 2 + o)).isSome then setBuf s (outBuf e u o) (getBuf s (outBuf e u o) ++ [tok]) else s

/-- Emit a token on several outputs. -/
def outAll (s : State) (e : Env) (u : Nat) (os : List Nat) (tok : Token) : State := os.foldl (fun s o => outPush s e u o tok) s

/-- Every output of a list has room. -/
def outsFree (s : State) (e : Env) (u : Nat) (os : List Nat) : Bool := os.all (fun o => outFree s e u o)

/-- Run an event on a unit of a kind, `ops` = [tile, unit]. -/
def onUnit (s : State) (kind : Nat) (k : Env → State → OpUnit → State) : Out :=
  let u := s.op 1
  let x := getUnit s (s.op 0) u
  match envOf s (s.op 0) u with
  | some e => .next (if recKind x.recd = kind then k e s x else s)
  | none => .next s

/-- Raise a cause of a unit. -/
def raiseOp (s : State) (e : Env) (c : Cause) : State := raiseUnit s e 2 c

/-- MARKMIS, and the unit holds (R349). -/
def opMis (s : State) (e : Env) (x : OpUnit) : State :=
  if x.held then s else raiseOp (setUnit s e.t e.n { x with held := true }) e Cause.markmis

/-- The unit's state after it has forwarded a marker. -/
def OpUnit.passed (x : OpUnit) (k : TokKind) : OpUnit :=
  { x with edge := if k = .round then x.edge + 1 else x.edge, eosOut := x.eosOut || k == .eos, held := false }

/-- Markers in lockstep (R349): every input headed by one marker consumes one each and emits a copy on each output. -/
def lockstep (s : State) (e : Env) (x : OpUnit) (ins outs : List Nat) (hs : List Token) : State :=
  match hs with
  | [] => s
  | h :: rest =>
    if (h :: rest).all (fun t => t.kind.isMark) then
      if rest.all (fun t => t.kind == h.kind) then
        if outsFree s e e.n outs then
          let s := ins.foldl (fun s i => popIn s e e.n i) s
          outAll (setUnit s e.t e.n (x.passed h.kind)) e e.n outs (bare h.kind)
        else s
      else opMis s e x
    else s

/-- A decision: data's PRED, inverted where INV is set; poison counts as 0 and spoils the token (R349). -/
def decisionOf (inv : Bool) (d : Token) : Option (Bool × Bool) :=
  match d.kind with
  | .data => some (d.pred != inv, false)
  | .poison => some (false, true)
  | _ => none

/-- The token that a decision lets through. -/
def spoiled (bad : Bool) (tok : Token) : Token := if bad then bare .poison else tok

/-- A header at the head of an input is forwarded on the outputs the input feeds (R349). -/
def passHeader (s : State) (e : Env) (inp : Nat) (outs : List Nat) (tok : Token) : State :=
  if outsFree s e e.n outs then outAll (popIn s e e.n inp) e e.n outs tok else s

/-- A switch word feeds an input of a unit. -/
def unitFed (s : State) (t : Tid) (u inp : Nat) : Bool := (tileSwitch s t).any (fun e => e.1 == unitIn u inp)

/-- Every return input of a unit that is fed has brought back `n` round markers, or EOS (R220, R359). -/
def returned (s : State) (t : Tid) (u : Nat) (x : OpUnit) (n : Nat) : Bool :=
  let back (i : Nat) (eos : Bool) : Bool := eos || n ≤ nth 0 x.edgeBack i
  match recKind x.recd with
  | 4 => (!unitFed s t u 1 || back 0 x.eosB) && (!unitFed s t u 2 || back 1 x.eosD)
  | 12 => (List.range (bitsOf x.recd 10 8)).all (fun j =>
      !unitFed s t (u + j / 2) (j % 2) || back j (nth false x.childEos j))
  | _ => true

/-- A unit has ended: it has forwarded EOS, and a CARRY has had EOS back on B and D (R219, R351, R359). -/
def unitEnded (s : State) (t : Tid) (u : Nat) (x : OpUnit) : Bool :=
  x.eosOut && (recKind x.recd != 4 || ((!unitFed s t u 1 || x.eosB) && (!unitFed s t u 2 || x.eosD)))

/-- The unit holds at a stop edge. -/
def opStopped (e : Env) (x : OpUnit) : Bool := e.atStop x.edge

/-! ### STEER, MERGE, SELECT, FILTER (R350) -/

/-- STEER (R350). -/
def execSteer (s : State) : Out :=
  onUnit s 1 (fun e s x =>
    if opStopped e x then s
    else match headOf s e e.n 0, headOf s e e.n 2 with
      | some a, d? =>
        if a.kind == .header then passHeader s e 0 [0, 1] a
        else match d? with
          | none => s
          | some d =>
            if d.kind == .header then popIn s e e.n 2
            else if a.kind.isMark || d.kind.isMark then lockstep s e x [0, 2] [0, 1] [a, d]
            else match decisionOf (bitOf x.recd 4) d with
              | none => opMis s e x
              | some (b, bad) =>
                if outFree s e e.n b.toNat then outPush (popIn (popIn s e e.n 0) e e.n 2) e e.n b.toNat (spoiled bad a) else s
      | none, some d => if d.kind == .header then popIn s e e.n 2 else s
      | none, none => s)

/-- MERGE (R350). -/
def execMerge (s : State) : Out :=
  onUnit s 2 (fun e s x =>
    let a? := headOf s e e.n 0
    let b? := headOf s e e.n 1
    let isH (t : Option Token) : Bool := match t with | some t => t.kind == .header | none => false
    if opStopped e x then s
    else if isH a? then passHeader s e 0 [0] (tokIn a?)
    else if isH b? then passHeader s e 1 [0] (tokIn b?)
    else match headOf s e e.n 2 with
      | none => s
      | some d =>
        if d.kind == .header then popIn s e e.n 2
        else if d.kind.isMark then
          match a?, b? with
          | some a, some b => lockstep s e x [0, 1, 2] [0] [d, a, b]
          | _, _ => s
        else match decisionOf (bitOf x.recd 4) d with
          | none => opMis s e x
          | some (b, bad) =>
            match (if b then b? else a?) with
            | none => s
            | some tok =>
              if tok.kind.isMark then opMis s e x
              else if outFree s e e.n 0 then
                outPush (popIn (popIn s e e.n 2) e e.n b.toNat) e e.n 0 (spoiled bad tok)
              else s)

/-- SELECT (R350). -/
def execSelect (s : State) : Out :=
  onUnit s 3 (fun e s x =>
    let a? := headOf s e e.n 0
    let b? := headOf s e e.n 1
    let d? := headOf s e e.n 2
    let isH (t : Option Token) : Bool := match t with | some t => t.kind == .header | none => false
    if opStopped e x then s
    else if isH a? then passHeader s e 0 [0] (tokIn a?)
    else if isH b? then passHeader s e 1 [0] (tokIn b?)
    else if isH d? then popIn s e e.n 2
    else match a?, b?, d? with
      | some a, some b, some d =>
        if a.kind.isMark || b.kind.isMark || d.kind.isMark then lockstep s e x [0, 1, 2] [0] [a, b, d]
        else match decisionOf (bitOf x.recd 4) d with
          | none => opMis s e x
          | some (c, bad) =>
            if outFree s e e.n 0 then
              outPush (popIn (popIn (popIn s e e.n 0) e e.n 1) e e.n 2) e e.n 0 (spoiled bad (if c then b else a))
            else s
      | _, _, _ => s)

/-- FILTER (R350). -/
def execFilter (s : State) : Out :=
  onUnit s 7 (fun e s x =>
    if opStopped e x then s
    else match headOf s e e.n 0 with
      | none => s
      | some a =>
        if a.kind == .data && a.pred == bitOf x.recd 4 then popIn s e e.n 0
        else if outFree s e e.n 0 then
          outPush (setUnit (popIn s e e.n 0) e.t e.n (x.passed a.kind)) e e.n 0 a
        else s)

/-! ### CARRY and INVAR (R351, R352) -/

/-- A marker or EOS on a return input is absorbed (R359); `b` is 0 for B, 1 for D. -/
def absorb (s : State) (e : Env) (x : OpUnit) (inp b : Nat) (k : TokKind) : State :=
  let s := popIn s e e.n inp
  let back := if x.edgeBack.length = 2 then x.edgeBack else [0, 0]
  setUnit s e.t e.n { x with
    edgeBack := if k = .round then setNth back b (nth 0 back b + 1) else back
    eosB := x.eosB || (k == .eos && b == 0), eosD := x.eosD || (k == .eos && b == 1) }

/-- CARRY (R351, R359). -/
def execCarry (s : State) : Out :=
  onUnit s 4 (fun e s x =>
    let a? := headOf s e e.n 0
    let b? := headOf s e e.n 1
    let d? := headOf s e e.n 2
    let keep := bitOf x.recd 4
    let absorbed (t : Option Token) : Bool := match t with | some t => t.kind == .round || t.kind == .eos | none => false
    let isH (t : Option Token) : Bool := match t with | some t => t.kind == .header | none => false
    let isEnd (t : Option Token) : Bool := match t with
      | some t => t.kind == .end1 || t.kind == .end2 || t.kind == .end3
      | none => false
    if isEnd d? then opMis s e x
    else if absorbed b? then absorb s e x 1 0 (tokIn b?).kind
    else if absorbed d? then absorb s e x 2 1 (tokIn d?).kind
    else if isH b? then passHeader s e 1 (if keep then [0, 1] else [0]) (tokIn b?)
    else if isH d? then popIn s e e.n 2
    else if isH a? && !opStopped e x then passHeader s e 0 [0] (tokIn a?)
    else if x.loop then
      match b?, d? with
      | some b, some d =>
        match decisionOf false d with
        | none => opMis s e x
        | some (true, _) => if outFree s e e.n 0 then outPush (popIn (popIn s e e.n 1) e e.n 2) e e.n 0 b else s
        | some (false, bad) =>
          if keep && !outFree s e e.n 1 then s
          else
            let s := setUnit (popIn (popIn s e e.n 1) e e.n 2) e.t e.n { x with loop := false }
            if keep then outPush s e e.n 1 (spoiled bad b) else s
      | none, some d => (match decisionOf false d with | none => opMis s e x | some _ => s)
      | _, _ => s
    else if opStopped e x then s
    else match a? with
      | none => s
      | some a =>
        if a.kind.isMark then
          if outsFree s e e.n [0, 1] then
            outAll (setUnit (popIn s e e.n 0) e.t e.n { x.passed a.kind with eosA := x.eosA || a.kind == .eos }) e e.n [0, 1] (bare a.kind)
          else s
        else if outFree s e e.n 0 then outPush (setUnit (popIn s e e.n 0) e.t e.n { x with loop := true }) e e.n 0 a
        else s)

/-- INVAR with a repeat count (R352). -/
def invarCounted (rpt : Nat) (e : Env) (s : State) (x : OpUnit) : State :=
  match headOf s e e.n 0 with
  | none => s
  | some a =>
    if !outFree s e e.n 0 then s
    else if a.kind.isMark then outPush (setUnit (popIn s e e.n 0) e.t e.n (x.passed a.kind)) e e.n 0 (bare a.kind)
    else if a.kind == .header then outPush (popIn s e e.n 0) e e.n 0 a
    else if x.rep + 1 < rpt then outPush (setUnit s e.t e.n { x with rep := x.rep + 1 }) e e.n 0 a
    else outPush (setUnit (popIn s e e.n 0) e.t e.n { x with rep := 0 }) e e.n 0 a

/-- INVAR driven by decisions (R352). -/
def invarDriven (e : Env) (s : State) (x : OpUnit) : State :=
  let a? := headOf s e e.n 0
  if x.invDrain then
    match a? with
    | none => s
    | some a =>
      if a.kind == .eos then
        if outFree s e e.n 0 then
          outPush (setUnit (popIn s e e.n 0) e.t e.n { x with invDrain := false, eosOut := true, eosA := true }) e e.n 0 (bare .eos)
        else s
      else if a.kind == .header then passHeader s e 0 [0] a
      else popIn s e e.n 0
  else match a?, headOf s e e.n 2 with
    | some a, d? =>
      if a.kind == .header then passHeader s e 0 [0] a
      else if a.kind.isMark && a.kind != .eos then popIn s e e.n 0
      else match d? with
        | none => s
        | some d =>
          if d.kind == .header then popIn s e e.n 2
          else if d.kind == .eos then setUnit (popIn s e e.n 2) e.t e.n { x with invDrain := true, eosD := true }
          else if d.kind.isMark then
            (if outFree s e e.n 0 then outPush (setUnit (popIn s e e.n 2) e.t e.n (x.passed d.kind)) e e.n 0 (bare d.kind) else s)
          else match decisionOf false d with
            | none => opMis s e x
            | some (b, _) =>
              if a.kind == .eos then opMis s e x
              else if b then (if outFree s e e.n 0 then outPush (popIn s e e.n 2) e e.n 0 a else s)
              else popIn (popIn s e e.n 2) e e.n 0
    | none, some d =>
      if d.kind == .header then popIn s e e.n 2
      else if d.kind == .eos then setUnit (popIn s e e.n 2) e.t e.n { x with invDrain := true, eosD := true }
      else if d.kind.isMark then
        (if outFree s e e.n 0 then outPush (setUnit (popIn s e e.n 2) e.t e.n (x.passed d.kind)) e e.n 0 (bare d.kind) else s)
      else s
    | none, none => s

/-- INVAR (R352). -/
def execInvar (s : State) : Out :=
  onUnit s 5 (fun e s x =>
    if opStopped e x then s
    else if bitsOf x.recd 27 4 ≠ 0 then invarCounted (bitsOf x.recd 27 4) e s x else invarDriven e s x)

/-! ### COUNT (R353) -/

/-- Index i of a run: s32, wrapping. -/
def countIndex (w : Word) (base : Int) (i : Nat) : Nat :=
  bitsOfInt 32 (intOfBits 16 true (bitsOf w 23 8) + Int.ofNat i * intOfBits 16 true (bitsOf w 39 24) + base)

/-- Level of an end marker. -/
def endOf (l : Nat) : TokKind :=
  match l with
  | 1 => .end1
  | 2 => .end2
  | _ => .end3

/-- Start a run from the token that triggers it, or from ARM. With FROMA a token whose lane 0 is masked, a permit or a done token
adds 0, as R357 says of CONTROL's masked lane 0 and R353 does not of COUNT's (DESIGN CHOICE, log 141). -/
def countStart (w : Word) (a : Option Token) : Option (Nat × Int) :=
  let base : Int := match a with
    | some t => if bitOf w 4 && t.kind == .data && t.mask.getLsbD 0 then intOfBits 32 true (posBits t.data 32 0) else 0
    | none => 0
  if bitsOf w 63 40 = 0 then none else some (0, base)

/-- One firing of a run: indices, then the end marker and the done token. -/
def countRun (e : Env) (s : State) (x : OpUnit) (i : Nat) (base : Int) : State :=
  let n := bitsOf x.recd 63 40
  let lvl := bitsOf x.recd 7 6
  if i < n then
    if !outFree s e e.n 0 then s
    else
      let k := if bitOf x.recd 5 then 16 else 1
      let tok := tokOf 32 false ((List.range 16).map (fun p => if p < k && i + p < n then some (countIndex x.recd base (i + p)) else none))
      outPush (setUnit s e.t e.n { x with run := some (i + k, base) }) e e.n 0 tok
  else if outFree s e e.n 1 && (lvl == 0 || outFree s e e.n 0) then
    let s := setUnit s e.t e.n { x with run := none }
    let s := if lvl = 0 then s else outPush s e e.n 0 (bare (endOf lvl))
    outPush s e e.n 1 (bare .done)
  else s

/-- COUNT (R220, R353). -/
def execCount (s : State) : Out :=
  onUnit s 6 (fun e s x =>
    let source := unitIsSource s e.t e.n x
    if opStopped e x then s
    else if source && !x.eosOut && x.edge < e.edges then
      (if outsFree s e e.n [0, 1] then outAll (setUnit s e.t e.n (x.passed .round)) e e.n [0, 1] (bare .round) else s)
    else if !source && (tokIn (headOf s e e.n 0)).kind == .header then passHeader s e 0 [0] (tokIn (headOf s e e.n 0))
    else match x.run with
      | some (i, base) => countRun e s x i base
      | none =>
        if source then
          if x.eosOut then s
          else if !x.started then setUnit s e.t e.n { x with started := true, run := countStart x.recd none }
          else if outsFree s e e.n [0, 1] then outAll (setUnit s e.t e.n (x.passed .eos)) e e.n [0, 1] (bare .eos)
          else s
        else match headOf s e e.n 0 with
          | none => s
          | some a =>
            match a.kind with
            | .data | .permit | .done => setUnit (popIn s e e.n 0) e.t e.n { x with run := countStart x.recd (some a) }
            | .eos | .round =>
              if outsFree s e e.n [0, 1] then
                outAll (setUnit (popIn s e e.n 0) e.t e.n (x.passed a.kind)) e e.n [0, 1] (bare a.kind)
              else s
            | _ => if outFree s e e.n 0 then outPush (popIn s e e.n 0) e e.n 0 a else s)

/-! ### DISTRIB and COLLECT (R354) -/

/-- DISTRIB (R354). -/
def execDistrib (s : State) : Out :=
  onUnit s 8 (fun e s x =>
    let mode := bitsOf x.recd 5 4
    if opStopped e x || 256 ≤ x.ring.length then s
    else match headOf s e e.n 0 with
      | none => s
      | some a =>
        let put (s : State) (x : OpUnit) (o : Nat) (tok : Token) : State :=
          if outFree s e e.n o then
            outPush (setUnit (popIn s e e.n 0) e.t e.n { x with ring := x.ring ++ [o] }) e e.n o tok
          else s
        let both (s : State) (x : OpUnit) : State :=
          outAll (setUnit (popIn s e e.n 0) e.t e.n { x.passed a.kind with ring := x.ring ++ [2] }) e e.n [0, 1] a
        if a.kind == .header then (if outsFree s e e.n [0, 1] then both s x else s)
        else if mode = 0 then
          match headOf s e e.n 2 with
          | none => s
          | some d =>
            if d.kind == .header then popIn s e e.n 2
            else if a.kind.isMark || d.kind.isMark then
              if a.kind == d.kind then (if outsFree s e e.n [0, 1] then popIn (both s x) e e.n 2 else s)
              else if a.kind.isMark && d.kind.isMark then opMis s e x
              else s
            else match decisionOf false d with
              | none => opMis s e x
              | some (b, bad) => if outFree s e e.n b.toNat then popIn (put s x b.toNat (spoiled bad a)) e e.n 2 else s
        else if a.kind.isMark then (if outsFree s e e.n [0, 1] then both s x else s)
        else if mode = 1 then put s { x with toggle := if outFree s e e.n x.toggle.toNat then !x.toggle else x.toggle } x.toggle.toNat a
        else if outFree s e e.n 0 then put s x 0 a
        else put s x 1 a)

/-- COLLECT (R354): the order ring is its DISTRIB's. -/
def execCollect (s : State) : Out :=
  onUnit s 9 (fun e s x =>
    let p := bitsOf x.recd 5 4
    let d := getUnit s e.t p
    if opStopped e x then s
    else match d.ring with
      | [] => s
      | o :: rest =>
        let retire (s : State) : State := setUnit s e.t p { getUnit s e.t p with ring := rest }
        if !outFree s e e.n 0 then s
        else if o < 2 then
          match headOf s e e.n o with
          | none => s
          | some tok => outPush (retire (popIn s e e.n o)) e e.n 0 tok
        else match headOf s e e.n 0, headOf s e e.n 1 with
          | some a, some b =>
            if (a.kind == .header && b.kind == .header) || (a.kind.isMark && a.kind == b.kind) then
              let s := popIn (popIn s e e.n 0) e e.n 1
              outPush (retire (setUnit s e.t e.n (x.passed a.kind))) e e.n 0 a
            else opMis s e x
          | _, _ => s)

/-! ### TAP and SEAL (R355, R356) -/

/-- TAP (R355): the token passes, and an arrival is sent at end markers of its level and at EOS. -/
def execTap (s : State) : Out :=
  onUnit s 10 (fun e s x =>
    if opStopped e x then s
    else match headOf s e e.n 0 with
      | none => s
      | some a =>
        if !outFree s e e.n 0 then s
        else
          let lvl := bitsOf x.recd 7 6
          let n := if bitsOf x.recd 31 8 = 0 then 1 else bitsOf x.recd 31 8
          let s := outPush (setUnit (popIn s e e.n 0) e.t e.n (x.passed a.kind)) e e.n 0 a
          if a.kind.isMark && closes lvl a.kind then
            { s with bar := { s.bar with
              arrivals := s.bar.arrivals ++ [⟨bitsOf x.recd 63 32, n, e.ctx, e.lid, .tap e.t e.n⟩] } }
          else s)

/-- SEAL (R356): D's tokens are consumed, one at each turn, before A's. -/
def execSealOperator (s : State) : Out :=
  onUnit s 11 (fun e s x =>
    let lvl := bitsOf x.recd 5 4
    match headOf s e e.n 2 with
    | some d =>
      let hit := d.kind == .data && d.pred && !x.eosA
      setUnit (popIn s e e.n 2) e.t e.n { x with sealReq := x.sealReq || hit }
    | none =>
      if opStopped e x then s
      else if x.isSealed then
        match headOf s e e.n 0 with
        | some a => if x.eosA then s else setUnit (popIn s e e.n 0) e.t e.n { x with eosA := a.kind == .eos }
        | none => s
      else if x.sealReq && lvl == 0 && !x.eosA then
        (if outFree s e e.n 0 then
          outPush (setUnit s e.t e.n { x with isSealed := true, eosOut := true }) e e.n 0 (bare .eos)
         else s)
      else match headOf s e e.n 0 with
        | none => s
        | some a =>
          if !outFree s e e.n 0 then s
          else if x.sealReq && lvl ≤ a.kind.level && a.kind != .eos && a.kind.isMark && a.kind != .round then
            outPush (setUnit (popIn s e e.n 0) e.t e.n { x with isSealed := true, eosOut := true }) e e.n 0 (bare .eos)
          else
            outPush (setUnit (popIn s e e.n 0) e.t e.n { x.passed a.kind with eosA := a.kind == .eos }) e e.n 0 a)

/-! ### CONTROL (R218, R357, R358) -/

/-- Room on output k of a CONTROL's units. -/
def ctlFree (s : State) (e : Env) (k : Nat) : Bool := outFree s e (e.n + k / 2) (k % 2)

/-- Emit on output k of a CONTROL's units. -/
def ctlPush (s : State) (e : Env) (k : Nat) (tok : Token) : State := outPush s e (e.n + k / 2) (k % 2) tok

/-- Head of child input j. -/
def childHead (s : State) (e : Env) (j : Nat) : Option Token := headOf s e (e.n + j / 2) (j % 2)

/-- Consume the head of child input j. -/
def childPop (s : State) (e : Env) (j : Nat) : State := popIn s e (e.n + j / 2) (j % 2)

/-- Permits a child may have outstanding. -/
def ctlLimit (w : Word) (out : Nat) : Bool :=
  match bitsOf w 7 6 with
  | 0 => out < 1
  | 1 => out < bitsOf w 39 32
  | _ => true

/-- A marker waits to be forwarded: at the parent input, or a root's own request (R359). -/
def ctlMark (s : State) (e : Env) (x : OpUnit) : Option TokKind :=
  if bitOf x.recd 11 then (if x.edge < e.edges && !x.parentEos then some .round else none)
  else match headOf s e e.n 2 with
    | some t => if t.kind.isMark && t.kind != .eos then some t.kind else none
    | none => none

/-- Take one token from a child (R357, R358; which end markers match: log 146). -/
def ctlChild (e : Env) (s : State) (x : OpUnit) (j : Nat) (tok : Token) : State :=
  let s := childPop s e j
  let back := if x.edgeBack.length = 4 then x.edgeBack else [0, 0, 0, 0]
  match tok.kind with
  | .done =>
    if nth 0 x.outst j = 0 then raiseOp s e Cause.ctlseq
    else setUnit s e.t e.n { x with outst := setNth x.outst j (nth 0 x.outst j - 1) }
  | .eos => setUnit s e.t e.n { x with childEos := setNth x.childEos j true }
  | .round => setUnit s e.t e.n { x with edgeBack := setNth back j (nth 0 back j + 1) }
  | k =>
    if k.isMark && x.sentEnds.contains (j * 4 + k.level) then setUnit s e.t e.n { x with sentEnds := x.sentEnds.erase (j * 4 + k.level) }
    else if k.isMark && bitsOf x.recd 13 12 != 0 && k == endOf (bitsOf x.recd 13 12) then s
    else raiseOp s e Cause.ctlseq

/-- The tallies of a fresh CONTROL. -/
def OpUnit.tallies (x : OpUnit) : OpUnit :=
  if x.outst.length = 4 then x
  else { x with toSend := [0, 0, 0, 0], outst := [0, 0, 0, 0], endDue := [false, false, false, false],
                childEos := [false, false, false, false], edgeBack := [0, 0, 0, 0], active := false }

/-- Begin a run of c permits to each child; a count of 0 is done at once. -/
def ctlBegin (x : OpUnit) (c : Nat) : OpUnit :=
  { x with toSend := List.replicate 4 c, active := true, started := true }

/-- Send a permit or an end marker to the first child that can take one. -/
def ctlSend (e : Env) (s : State) (x : OpUnit) : List Nat → Option State
  | [] => none
  | j :: js =>
    if nth false x.endDue j && ctlFree s e j then
      some (ctlPush (setUnit s e.t e.n { x with endDue := setNth x.endDue j false }) e j (bare (endOf (bitsOf x.recd 13 12))))
    else if 0 < nth 0 x.toSend j && (ctlMark s e x).isNone && ctlLimit x.recd (nth 0 x.outst j) && ctlFree s e j then
      let left := nth 0 x.toSend j - 1
      let y := { x with toSend := setNth x.toSend j left, outst := setNth x.outst j (nth 0 x.outst j + 1),
                        endDue := if left = 0 ∧ bitsOf x.recd 13 12 ≠ 0 then setNth x.endDue j true else x.endDue }
      some (ctlPush (setUnit s e.t e.n y) e j (bare .permit))
    else ctlSend e s x js

/-- A run is over: nothing left to send, nothing outstanding. -/
def ctlOver (x : OpUnit) (n : Nat) : Bool :=
  (List.range n).all (fun j => nth 0 x.toSend j == 0 && nth 0 x.outst j == 0 && !nth false x.endDue j)

/-- Forward a marker on every child output and the parent's, once no permit is outstanding (R359). -/
def ctlForward (e : Env) (s : State) (x : OpUnit) (n : Nat) (k : TokKind) : State :=
  if (List.range n).all (fun j => nth 0 x.outst j == 0 && !nth false x.endDue j) && (List.range (n + 1)).all (fun j => ctlFree s e j) then
    let s := if bitOf x.recd 11 then s else popIn s e e.n 2
    let sent := if k = .round then [] else (List.range n).map (fun j => j * 4 + k.level)
    (List.range (n + 1)).foldl (fun s j => ctlPush s e j (bare k))
      (setUnit s e.t e.n { x.passed k with sentEnds := x.sentEnds ++ sent })
  else s

/-- The parent's token starts a run (R357, R358). -/
def ctlParent (e : Env) (s : State) (x : OpUnit) (tok : Token) : State :=
  let iter := bitsOf x.recd 63 40
  let s := popIn s e e.n 2
  match tok.kind with
  | .poison => setUnit s e.t e.n (ctlBegin x 0)
  | .data =>
    let c := if iter = 0 then (if tok.mask.getLsbD 0 then posBits tok.data 32 0 else 0) else iter
    setUnit s e.t e.n (ctlBegin x c)
  | .permit | .done =>
    if iter = 0 then raiseOp (setUnit s e.t e.n (ctlBegin x 0)) e Cause.ctlseq else setUnit s e.t e.n (ctlBegin x iter)
  | _ => s

/-- One firing of a CONTROL (R357 to R359). -/
def controlRun (e : Env) (s : State) (x : OpUnit) : State :=
  let n := bitsOf x.recd 10 8
  let root := bitOf x.recd 11
  match (List.range n).find? (fun j => (childHead s e j).isSome) with
  | some j => ctlChild e s x j (tokIn (childHead s e j))
  | none =>
    if opStopped e x then s
    else match ctlSend e s x (List.range n) with
      | some s => s
      | none =>
        match ctlMark s e x with
        | some k => ctlForward e s x n k
        | none =>
          if x.active then
            if ctlOver x n && ctlFree s e n then
              ctlPush (setUnit s e.t e.n { x with active := false, parentEos := x.parentEos || root }) e n (bare .done)
            else s
          else if x.parentEos && !x.eosSent then
            (if (List.range n).all (fun j => ctlFree s e j) then
              (List.range n).foldl (fun s j => ctlPush s e j (bare .eos)) (setUnit s e.t e.n { x with eosSent := true })
             else s)
          else if x.eosSent then
            (if !x.eosOut && (List.range n).all (fun j => nth false x.childEos j) && ctlFree s e n then
              ctlPush (setUnit s e.t e.n { x with eosOut := true }) e n (bare .eos)
             else s)
          else if root then
            (if x.started then s else setUnit s e.t e.n (ctlBegin x (bitsOf x.recd 63 40)))
          else match headOf s e e.n 2 with
            | none => s
            | some tok =>
              if tok.kind == .eos then setUnit (popIn s e e.n 2) e.t e.n { x with parentEos := true }
              else ctlParent e s x tok

/-- CONTROL (R218, R357 to R359). -/
def execControl (s : State) : Out := onUnit s 12 (fun e s x => controlRun e s x.tallies)

end Sys2Proof.Machine
end

