-- ==== Sys2Proof/Machine/Matrix.lean ====
section
/-! DEFINITION. The matrix fragment and harrow mode: MWLD, MFEED, MDRAIN, MZERO, MWIN, MHARROW, MTWID (R360 to R374, R181,
R182, R189), with HARROW_STAGE_COMPLETE and TWIDDLE_FILL_DONE. -/
namespace Sys2Proof.Machine

/-- The fragment of a core tile. -/
def getFrag (s : State) (t : Tid) : Frag := s.fab.frags.getD t Frag.reset

/-- Replace the fragment of a core tile. -/
def setFrag (s : State) (t : Tid) (f : Frag) : State := { s with fab := { s.fab with frags := s.fab.frags.set t f } }

/-- Opcode byte of a slot. -/
def Slot.opcode (x : Slot) : Nat := x.word.toNat / 2 ^ 24

/-- A request of another slot is not complete: the fragment takes the next one only after it (R360). -/
def fragBusy (s : State) (t : Tid) (n : Nat) : Bool :=
  s.fab.slots.any (fun e => e.1 / 64 == t && e.1 % 64 != n &&
    (((e.2.opcode == 0x72 || e.2.opcode == 0x76) && e.2.sub != 0) || (e.2.opcode == 0x75 && !e.2.ops.isEmpty)))

/-- MWIN of the element has not fired since ARM (R366). -/
def winDue (s : State) (t : Tid) : Bool := s.fab.slots.any (fun e => e.1 / 64 == t && e.2.opcode == 0x74 && !e.2.ended)

/-- A request starts only while the fragment is free. -/
def fragFree (s : State) (e : Env) : Bool := !fragBusy s e.t e.n && !winDue s e.t

/-- A matrix slot takes data only below the tile count of ARM (R216). -/
def tileLeft (e : Env) (x : Slot) : Bool := x.tiles < e.tcount

/-- A matrix operation: its requests wait for the fragment, and its data for the tile count. -/
def matrixOp (i : Instr) (ta tb : Target) (accepts : Option (Pos → Hdr → Bool)) (onPermit : Bool)
    (fire off poison : Env → State → Slot → State) (mark : Env → State → Slot → TokKind → State) : SlotOp :=
  let open' (k : Env → State → Slot → State) : Env → State → Slot → State := fun e s x =>
    if fragFree s e && tileLeft e x then k e s x else s
  { instr := i, ta := ta, tb := tb, accepts := accepts, rewrite := none, onPermit := onPermit,
    mixed := fun e s x _ _ => markMis s e x, fire := open' fire, off := open' off, poison := open' poison,
    mark := fun e s x k => if fragFree s e then mark e s x k else s }

/-- A weight or activation format: binary8, binary16 or bfloat16 (R362). -/
def matrixFmt (c : Nat) : Bool := isB8 c || c == 0x40 || c == 0x41

/-- The two rows of 32 bytes that a data token holds (R362, R363). -/
def tokenRows (h : Hdr) (tok : Token) : List (List (Option Val)) :=
  match fmtOfCode h.fmt with
  | none => [[], []]
  | some f =>
    let vs := (valList f (some h) tok).1
    [vs.take (256 / f.width), vs.drop (256 / f.width)]

/-- NaN-scale events of a data token (R175). -/
def tokenEvents (h : Hdr) (tok : Token) : List Nat :=
  match fmtOfCode h.fmt with
  | some f => (valList f (some h) tok).2
  | none => []

/-! ### MWLD -/

/-- Data tokens of a weight tile (R362). -/
def tileTokens (fmt : Nat) : Nat := if isB8 fmt then 16 else 8

/-- The tile in the back buffer is complete: back-ready is set and a done token sent (R362, R367). -/
def mwldDone (e : Env) (s : State) (x : Slot) (ta tb : Target) : State :=
  let f := getFrag s e.t
  let s := setFrag s e.t { f with backReady := true }
  emit s e { x with cnt := 0, tiles := x.tiles + 1 } ta tb (some (bare .done)) (some (bare .done))

/-- One token's place of a weight tile, its rows given (R362). -/
def mwldToken (i : Instr) (ta tb : Target) (e : Env) (s : State) (x : Slot) (fmt : Nat) (rows : List (List (Option Val)))
    (poisoned : Bool) : State :=
  let f := getFrag s e.t
  if f.backReady then s
  else
    let w := if x.cnt = 0 then { WTile.reset with fmt := fmt } else f.back
    let w := { w with rows := w.rows ++ rows, poisoned := w.poisoned || poisoned }
    let s := setFrag s e.t { f with back := w }
    let y := { x.take i (!poisoned) with cnt := x.cnt + 1 }
    if y.cnt = tileTokens w.fmt then mwldDone e s y ta tb else setSlot s e.t e.n y

/-- Poison in a weight stream takes a token's place and poisons the tile (R362). R362 gives a tile no size where no accepted header
says its format: behind a refused header it is of 8 tokens, without a header of 16 (DESIGN CHOICE, log 142). -/
def mwldPoison (i : Instr) (ta tb : Target) (e : Env) (s : State) (x : Slot) : State :=
  let fmt := match x.hl with | some h => h.fmt | none => 0x10
  mwldToken i ta tb e s x fmt [[], []] true

/-- MWLD (R362). -/
def execMwld (ta tb : Target) (s : State) : Out :=
  let i : Instr := .mwld ta tb
  onSlot s (matrixOp i ta tb (some (fun _ h => matrixFmt h.fmt)) false
    (fun e s x =>
      match x.hl with
      | none =>
        if (getFrag s e.t).backReady then s else raiseUnit (mwldPoison i ta tb e s x) e 0 Cause.fmtmis
      | some h =>
        if (getFrag s e.t).backReady then s
        else countEvents (mwldToken i ta tb e s x h.fmt (tokenRows h (tokIn x.l)) false) e.ctx e.t (tokenEvents h (tokIn x.l)))
    (consumeOff i) (mwldPoison i ta tb)
    (fun e s x k => if x.cnt ≠ 0 ∧ k ≠ .round then mwldDone e s x ta tb else forwardMark i ta tb e s x k))

/-! ### MFEED -/

/-- Sum of the products of one pass, exactly, with its special cases (R181, R182); a signalling operand counts once in each cell
whose pass it enters (R163, R191; log 127). -/
def passSum (ps : List (Val × Val)) : Val × List Nat :=
  let isInf (v : Val) : Bool := match v with | .inf _ => true | _ => false
  let nan := ps.any (fun p => p.1.isNan || p.2.isNan)
  let zi := ps.any (fun p => (p.1.isZero && isInf p.2) || (isInf p.1 && p.2.isZero))
  let prods := (ps.filter (fun p => !p.1.isNan && !p.2.isNan && !((p.1.isZero && isInf p.2) || (isInf p.1 && p.2.isZero)))).map
    (fun p => (mulV p.1 p.2).1)
  let pos := prods.any (fun v => isInf v && !v.neg)
  let neg := prods.any (fun v => isInf v && v.neg)
  let evs := sigEvents (ps.flatMap (fun p => [p.1, p.2])) ++ (if zi then [0] else []) ++ (if pos && neg then [0] else [])
  if nan || zi || (pos && neg) then (.nan false, evs)
  else match prods with
    | [] => (.fin false 0 0, [])
    | p :: l => (l.foldl (fun a b => (addV a b).1) p, [])

/-- One cell of C after a pass: two roundings (R181). -/
def passCell (a col : List (Option Val)) (acc : BitVec 32) : BitVec 32 × List Nat :=
  let ps := (a.zip col).filterMap (fun p => match p.1, p.2 with
    | some x, some y => some (x, y)
    | _, _ => none)
  let s := passSum ps
  let s32 := roundNear fmt32 s.1
  let t := addV (fmt32.decode acc.toNat) s32.1
  let r := roundNear fmt32 t.1
  (BitVec.ofNat 32 (fmt32.encode r.1), s.2 ++ s32.2 ++ t.2 ++ r.2)

/-- Column n of a weight tile. -/
def WTile.col (w : WTile) (n : Nat) : List (Option Val) := w.rows.map (fun r => nth none r n)

/-- Pass one row through the active buffer into row m of C (R363). -/
def passRow (f : Frag) (w : WTile) (row : List (Option Val)) : Frag × List Nat :=
  let cols := if isB8 w.fmt then 32 else 16
  let cells := (List.range cols).map (fun n => (n, passCell row (w.col n) (f.c.getD (f.m * 32 + n) 0)))
  let c := cells.foldl (fun c x => c.set (f.m * 32 + x.1) x.2.1) f.c
  let f := { f with c := c, m := f.m + 1 }
  ({ f with cPoison := if w.poisoned then f.cPoison ++ [f.m - 1] else f.cPoison }, cells.flatMap (fun x => x.2.2))

/-- MFEED's progress in `cnt`: 1 a tile is open, 2 its buffers have been chosen, 4 the token's first row is done, 8 the events of
its NaN scales have been counted, or its FMTMIS raised. -/
def mfeedOpen (x : Slot) : Bool := x.cnt % 2 == 1

/-- The rows of a token from the first one not yet done; MSHAPE holds at a row beyond the 32nd (R363, R415). -/
def mfeedRows (i : Instr) (e : Env) (decoded : Bool) (f : Nat → Frag → Frag × List Nat) (skip : Nat → Bool) :
    List Nat → State → Slot → State
  | [], s, x => setSlot s e.t e.n { x.take i decoded with cnt := x.cnt % 4 }
  | r :: rs, s, x =>
    if skip r then mfeedRows i e decoded f skip rs s x
    else
      let fr := getFrag s e.t
      let fr := if x.cnt / 2 % 2 = 0 ∧ fr.backReady then
          { fr with active := some fr.back, back := fr.active.getD WTile.reset, backReady := false } else fr
      let x := { x with cnt := 3 + x.cnt / 4 * 4 }
      if fr.m = 32 then
        holdSlot (setFrag s e.t fr) e { x with cnt := 3 + 4 * r + x.cnt / 8 * 8 } Cause.mshape 0 (BitVec.allOnes 16) false
      else
        let g := f r fr
        mfeedRows i e decoded f skip rs (countEvents (setFrag s e.t g.1) e.ctx e.t g.2) x

/-- Rows still due of a token. -/
def mfeedDue (x : Slot) : List Nat := if x.cnt / 4 % 2 = 1 then [1] else [0, 1]

/-- A row of a token that is taken as poison is skipped all the same where its positions are all masked (R363). -/
def rowMasked (x : Slot) (r : Nat) : Bool :=
  let tok := tokIn x.l
  tok.kind == .data && ((List.range 8).all (fun j => !tok.mask.getLsbD (8 * r + j)) || (match x.hl with
    | some h => matrixFmt h.fmt && (nth [] (tokenRows h tok) r).all Option.isNone
    | none => false))

/-- Poison rows: each poisons its row of C (R363). -/
def mfeedPoison (i : Instr) (e : Env) (s : State) (x : Slot) : State :=
  let fr := getFrag s e.t
  if fr.active.isNone && !fr.backReady then s
  else mfeedRows i e false (fun _ f => ({ f with cPoison := f.cPoison ++ [f.m], m := f.m + 1 }, [])) (rowMasked x) (mfeedDue x) s x

/-- Weights and activations are of one width class (R363). -/
def sameClass (w : WTile) (h : Hdr) : Bool := isB8 w.fmt == isB8 h.fmt

/-- A data token of activations (R363). -/
def mfeedFire (i : Instr) (e : Env) (s : State) (x : Slot) : State :=
  let fr := getFrag s e.t
  let next := if x.cnt / 2 % 2 = 0 ∧ fr.backReady then some fr.back else fr.active
  match next, x.hl with
  | none, _ => s
  | some _, none =>
    if x.cnt / 8 % 2 = 1 then mfeedPoison i e s x
    else mfeedPoison i e (raiseUnit s e 0 Cause.fmtmis) { x with cnt := x.cnt + 8 }
  | some w, some h =>
    if !sameClass w h then
      mfeedPoison i e (raiseUnit s e 0 Cause.fmtmis) { x with hl := some { h with bad := true } }
    else
      let rows := tokenRows h (tokIn x.l)
      let s := if x.cnt / 8 % 2 = 0 then countEvents s e.ctx e.t (tokenEvents h (tokIn x.l)) else s
      mfeedRows i e true (fun r f => passRow f (f.active.getD WTile.reset) (nth [] rows r))
        (fun r => (nth [] rows r).all Option.isNone) (mfeedDue x) s { x with cnt := x.cnt % 8 / 2 * 2 + 9 }

/-- MFEED (R363): an end marker or EOS closes an open tile, and is then forwarded. -/
def execMfeed (ta tb : Target) (s : State) : Out :=
  let i : Instr := .mfeed ta tb
  onSlot s (matrixOp i ta tb (some (fun _ h => matrixFmt h.fmt)) false (mfeedFire i) (consumeOff i) (mfeedPoison i)
    (fun e s x k =>
      if mfeedOpen x ∧ k ≠ .round then
        let f := getFrag s e.t
        let s := setFrag s e.t { f with maxM := max f.maxM f.m, m := 0 }
        emit s e { x with cnt := 0, tiles := x.tiles + 1 } ta tb (some (bare .done)) (some (bare .done))
      else forwardMark i ta tb e s x k))

/-! ### MDRAIN, MZERO, MWIN -/

/-- A fragment with C, the poison marks and M cleared. -/
def Frag.clear (f : Frag) : Frag := { f with c := [], cPoison := [], maxM := 0 }

/-- Format and header code of a drain (R364). -/
def drainFmt (c : Nat) : Fmt × Nat :=
  match c / 2 % 4 with
  | 0 => (fmt32, 0x42)
  | 1 => (fmt16, 0x40)
  | _ => (fmtBf16, 0x41)

/-- Token `j` of row `m` of C, rounded, with its events (R364). -/
def drainToken (f : Frag) (y : Fmt) (m j : Nat) : Token × List Nat :=
  let n := 512 / y.width
  if f.cPoison.contains m then (bare .poison, [])
  else
    let rs := (List.range n).map (fun k => roundNear y (fmt32.decode (f.c.getD (m * 32 + j * n + k) 0).toNat))
    (tokOf y.width false (rs.map (fun r => some (y.encode r.1))), rs.flatMap (·.2))

/-- Step `sub` of a drain: the header, then the rows' tokens (R364). -/
def drainStep (i : Instr) (ta tb : Target) (e : Env) (s : State) (x : Slot) : State :=
  let f := getFrag s e.t
  let (y, code) := drainFmt x.const.toNat
  let per := 32 * y.width / 512
  let r : Token × List Nat := if x.sub = 0 then (rewritten code (32 * f.maxM), [])
    else drainToken f y ((x.sub - 1) / per) ((x.sub - 1) % per)
  if x.sub = per * f.maxM then
    let s := if x.const.getLsbD 0 then setFrag s e.t f.clear else s
    countEvents (emit s e { x.consume i with tiles := x.tiles + 1 } ta tb (some r.1) (some r.1)) e.ctx e.t r.2
  else countEvents (emit s e { x with sub := x.sub + 1 } ta tb (some r.1) (some r.1)) e.ctx e.t r.2

/-- MDRAIN (R364). -/
def execMdrain (ta tb : Target) (s : State) : Out :=
  let i : Instr := .mdrain ta tb
  onSlot s (matrixOp i ta tb none true (drainStep i ta tb) (consumeOff i) (emitPoison i ta tb) (forwardMark i ta tb))

/-- MZERO (R365). -/
def execMzero (ta tb : Target) (s : State) : Out :=
  let i : Instr := .mzero ta tb
  onSlot s (matrixOp i ta tb none true
    (fun e s x =>
      let s := setFrag s e.t { (getFrag s e.t).clear with m := 0 }
      emit s e { x.consume i with tiles := x.tiles + 1 } ta tb (some (bare .done)) (some (bare .done)))
    (consumeOff i) (emitPoison i ta tb) (forwardMark i ta tb))

/-- MWIN: once after each ARM, LA and LS; it changes timing only (R366). -/
def execMwin (s : State) : Out :=
  match envOf s s.focus.1 s.focus.2 with
  | none => .next s
  | some e =>
    let x := getSlot s e.t e.n
    if x.ended || e.atStop x.edge || (pBound s e.t e.n && x.p.isNone) then .next s
    else match gateOf .mwin x with
      | .wait => .next s
      | .off | .poison => .next (setSlot s e.t e.n { x.consume .mwin with ended := true })
      | .go =>
        let s := setFrag s e.t { getFrag s e.t with la := x.const.toNat % 4, ls := x.const.toNat / 4 % 4 }
        .next (setSlot s e.t e.n { x.consume .mwin with ended := true })

/-! ### MTWID -/

/-- MTWID configures the twiddle generator; its done token follows the fill (R369). -/
def execMtwid (ta tb : Target) (s : State) : Out :=
  let i : Instr := .mtwid ta tb
  onSlot s (matrixOp i ta tb none true
    (fun e s x =>
      if x.sub ≠ 0 then s
      else
        let f := { getFrag s e.t with n := x.const.toNat % 2 ^ 21, conj := x.const.getLsbD 21, hasN := true }
        setSlot (setFrag s e.t f) e.t e.n { x with sub := 1 })
    (consumeOff i) (emitPoison i ta tb) (forwardMark i ta tb))

/-- TWIDDLE_FILL_DONE of `ops` = [tile, slot] (R369). -/
def execTwiddleFillDone (s : State) : Out :=
  let t := s.op 0
  let n := s.op 1
  let x := getSlot s t n
  match envOf s t n, decodeElem x.word with
  | some e, .ok (.mtwid ta tb) =>
    if x.sub = 0 || !bothFree s t n ta tb then .next s
    else .next (emit s e { x.consume (.mtwid ta tb) with tiles := x.tiles + 1 } ta tb (some (bare .done)) (some (bare .done)))
  | _, _ => .next s

/-! ### MHARROW -/

/-- A complex value. -/
abbrev Cx := Val × Val

/-- One rounding of an exact sum of terms, with the events of its terms and of the rounding (R371). -/
def linR : List (Val × List Nat) → Val × List Nat
  | [] => (.fin false 0 0, [])
  | v :: vs =>
    let s := vs.foldl (fun a b => let r := addV a.1 b.1; (r.1, a.2 ++ b.2 ++ r.2)) v
    let r := roundNear fmt32 s.1
    (r.1, s.2 ++ r.2)

/-- A term without events. -/
def term (v : Val) : Val × List Nat := (v, [])

/-- An exact product, negated where asked. -/
def prodT (neg : Bool) (a b : Val) : Val × List Nat :=
  let r := mulV a b
  (if neg then r.1.negate else r.1, r.2)

/-- A complex value of two rounded sums. -/
def cxLin (re im : List (Val × List Nat)) : Cx × List Nat :=
  let r := linR re
  let i := linR im
  ((r.1, i.1), r.2 ++ i.2)

/-- round(a + b), by component. -/
def cxAdd (a b : Cx) : Cx × List Nat := cxLin [term a.1, term b.1] [term a.2, term b.2]

/-- round(a − b), by component. -/
def cxSub (a b : Cx) : Cx × List Nat := cxLin [term a.1, term b.1.negate] [term a.2, term b.2.negate]

/-- −i·a, exactly (R372). -/
def cxMulNegI (a : Cx) : Cx := (a.2, a.1.negate)

/-- rotate(x, w) (R371). -/
def cxRotate (x w : Cx) : Cx × List Nat :=
  cxLin [prodT false x.1 w.1, prodT true x.2 w.2] [prodT false x.1 w.2, prodT false x.2 w.1]

/-- The constants of R372 and R373 as binary32 codes: s3, c1, c2, s1, s2, h, 1/3, 1/5. -/
def cS3 : Val := fmt32.decode 0x3F5DB3D7
def cC1 : Val := fmt32.decode 0x3E9E377A
def cC2 : Val := fmt32.decode 0xBF4F1BBD
def cS1 : Val := fmt32.decode 0x3F737871
def cS2 : Val := fmt32.decode 0x3F167918
def cH : Val := fmt32.decode 0x3F3504F3
def cThird : Val := fmt32.decode 0x3EAAAAAB
def cFifth : Val := fmt32.decode 0x3E4CCCCD

/-- Point `i` of a list. -/
def pt (l : List Cx) (i : Nat) : Cx := nth (.fin false 0 0, .fin false 0 0) l i

/-- Radix 2 (R372). -/
def fly2 (a : List Cx) : List Cx × List Nat :=
  let y0 := cxAdd (pt a 0) (pt a 1)
  let y1 := cxSub (pt a 0) (pt a 1)
  ([y0.1, y1.1], y0.2 ++ y1.2)

/-- Radix 3 (R372). -/
def fly3 (a : List Cx) : List Cx × List Nat :=
  let t1 := cxAdd (pt a 1) (pt a 2)
  let t2 := cxSub (pt a 1) (pt a 2)
  let y0 := cxAdd (pt a 0) t1.1
  let half (v : Val) : Val := (scaleV v (-1)).negate
  let m1 := cxLin [term (pt a 0).1, term (half t1.1.1)] [term (pt a 0).2, term (half t1.1.2)]
  let m2 := cxLin [prodT false cS3 t2.1.2] [prodT true cS3 t2.1.1]
  let y1 := cxAdd m1.1 m2.1
  let y2 := cxSub m1.1 m2.1
  ([y0.1, y1.1, y2.1], t1.2 ++ t2.2 ++ y0.2 ++ m1.2 ++ m2.2 ++ y1.2 ++ y2.2)

/-- Radix 4 (R372). -/
def fly4 (a : List Cx) : List Cx × List Nat :=
  let t0 := cxAdd (pt a 0) (pt a 2)
  let t1 := cxSub (pt a 0) (pt a 2)
  let t2 := cxAdd (pt a 1) (pt a 3)
  let t3 := cxSub (pt a 1) (pt a 3)
  let u := cxMulNegI t3.1
  let y0 := cxAdd t0.1 t2.1
  let y1 := cxAdd t1.1 u
  let y2 := cxSub t0.1 t2.1
  let y3 := cxSub t1.1 u
  ([y0.1, y1.1, y2.1, y3.1], t0.2 ++ t1.2 ++ t2.2 ++ t3.2 ++ y0.2 ++ y1.2 ++ y2.2 ++ y3.2)

/-- Radix 5 (R372). -/
def fly5 (a : List Cx) : List Cx × List Nat :=
  let t1 := cxAdd (pt a 1) (pt a 4)
  let t2 := cxAdd (pt a 2) (pt a 3)
  let t3 := cxSub (pt a 1) (pt a 4)
  let t4 := cxSub (pt a 2) (pt a 3)
  let t12 := cxAdd t1.1 t2.1
  let y0 := cxAdd (pt a 0) t12.1
  let m (c d : Val) : Cx × List Nat :=
    cxLin [term (pt a 0).1, prodT false c t1.1.1, prodT false d t2.1.1]
      [term (pt a 0).2, prodT false c t1.1.2, prodT false d t2.1.2]
  let m1 := m cC1 cC2
  let m2 := m cC2 cC1
  let n1 := cxLin [prodT false cS1 t3.1.1, prodT false cS2 t4.1.1] [prodT false cS1 t3.1.2, prodT false cS2 t4.1.2]
  let n2 := cxLin [prodT false cS2 t3.1.1, prodT true cS1 t4.1.1] [prodT false cS2 t3.1.2, prodT true cS1 t4.1.2]
  let y1 := cxAdd m1.1 (cxMulNegI n1.1)
  let y4 := cxSub m1.1 (cxMulNegI n1.1)
  let y2 := cxAdd m2.1 (cxMulNegI n2.1)
  let y3 := cxSub m2.1 (cxMulNegI n2.1)
  ([y0.1, y1.1, y2.1, y3.1, y4.1], t1.2 ++ t2.2 ++ t3.2 ++ t4.2 ++ t12.2 ++ y0.2 ++ m1.2 ++ m2.2 ++ n1.2 ++ n2.2
    ++ y1.2 ++ y4.2 ++ y2.2 ++ y3.2)

/-- Radix 8 (R372). -/
def fly8 (a : List Cx) : List Cx × List Nat :=
  let e := fly4 [pt a 0, pt a 2, pt a 4, pt a 6]
  let o := fly4 [pt a 1, pt a 3, pt a 5, pt a 7]
  let o1 := pt o.1 1
  let o3 := pt o.1 3
  let v1 := cxLin [prodT false cH o1.1, prodT false cH o1.2] [prodT false cH o1.2, prodT true cH o1.1]
  let v3 := cxLin [prodT false cH o3.2, prodT true cH o3.1] [prodT true cH o3.1, prodT true cH o3.2]
  let v := [pt o.1 0, v1.1, cxMulNegI (pt o.1 2), v3.1]
  let up := (List.range 4).map (fun k => cxAdd (pt e.1 k) (pt v k))
  let dn := (List.range 4).map (fun k => cxSub (pt e.1 k) (pt v k))
  (up.map (·.1) ++ dn.map (·.1), e.2 ++ o.2 ++ v1.2 ++ v3.2 ++ up.flatMap (·.2) ++ dn.flatMap (·.2))

/-- butterfly(r, a) (R372). -/
def butterfly (r : Nat) (a : List Cx) : List Cx × List Nat :=
  match r with
  | 2 => fly2 a
  | 3 => fly3 a
  | 4 => fly4 a
  | 5 => fly5 a
  | _ => fly8 a

/-- One butterfly of a stage: the points written, by position, and the events (R371). -/
def stageFly (f : Frag) (r sp tmul koff : Nat) (pts : List Cx) (b k : Nat) : List (Nat × Cx) × List Nat :=
  let base := b * sp * r + k
  let legs := (List.range r).map (fun m =>
    let x := pt pts (base + m * sp)
    if m = 0 then (x, [])
    else
      let w := twiddle f.n f.conj ((m * (k + koff) * tmul) % max f.n 1)
      let y := cxRotate x w.1
      (y.1, w.2 ++ y.2))
  let y := butterfly r (legs.map (·.1))
  (y.1.zipIdx.map (fun q => (base + q.2 * sp, q.1)), legs.flatMap (·.2) ++ y.2)

/-- Every out value of a stage, by position, before scaling (R371). -/
def stageOut (f : Frag) (r p sp tmul koff : Nat) (pts : List Cx) : List Cx × List Nat :=
  let flies := (List.range (p / max (sp * r) 1)).flatMap (fun b =>
    (List.range sp).map (fun k => stageFly f r sp tmul koff pts b k))
  let out := (flies.flatMap (·.1)).foldl (fun l q => setNth l q.1 q.2) pts
  (out, flies.flatMap (·.2))

/-- The exponent of SCALE 3 (R373): every finite component times 2^−e lies below 1. -/
def blockExp (out : List Cx) : Nat :=
  out.foldl (fun e c => max e (max (compExp c.1) (compExp c.2))) 0
where
  /-- Least e ≥ 0 that brings one component below 1. -/
  compExp : Val → Nat
    | .fin _ m x => if m = 0 then 0 else (Int.ofNat (Nat.log2 m) + 1 + x).toNat
    | _ => 0

/-- A component scaled and rounded once to the point format (R373). -/
def stageScale (sc r fmt e : Nat) (v : Val) : Val × List Nat :=
  let y : Fmt := if fmt = 1 then fmt16 else fmt32
  let fin (v : Val) (evs : List Nat) : Val × List Nat :=
    let q := roundNear y v
    (q.1, evs ++ q.2)
  match sc with
  | 0 => if fmt = 1 then fin v [] else (v, [])
  | 1 => fin (scaleV v (-1)) []
  | 2 =>
    match r with
    | 2 => fin (scaleV v (-1)) []
    | 4 => fin (scaleV v (-2)) []
    | 8 => fin (scaleV v (-3)) []
    | 3 => let p := mulV v cThird; fin p.1 p.2
    | _ => let p := mulV v cFifth; fin p.1 p.2
  | _ => fin (scaleV v (-(Int.ofNat e))) []

/-- Bytes of one point. -/
def pointBytes (fmt : Nat) : Nat := if fmt = 1 then 4 else 8

/-- The points of a harrow tile from its bytes (R370). -/
def pointsOf (fmt : Nat) : Nat → List Byte → List Cx
  | 0, _ => []
  | p + 1, bs =>
    let y : Fmt := if fmt = 1 then fmt16 else fmt32
    let h := pointBytes fmt / 2
    (y.decode (ofBytes (bs.take h)), y.decode (ofBytes ((bs.drop h).take h))) :: pointsOf fmt p (bs.drop (2 * h))

/-- Operands of a stage: P, L, TMUL, KOFF (R370). -/
structure StageArgs where
  fmt : Nat
  scale : Nat
  radix : Nat
  p : Nat
  span : Nat
  tmul : Nat
  koff : Nat
  deriving DecidableEq, Repr

/-- The operands in a slot's L and constant (R370). -/
def stageArgs (x : Slot) : StageArgs :=
  let c := x.const.toNat
  let lane (i : Nat) : Nat := posBits (tokIn x.l).data 32 i
  ⟨c / 32 % 2, c / 8 % 4, radixOf (c % 8), lane 2, lane 3, lane 4, lane 5⟩

/-- HARROWARG (R370). -/
def stageBad (f : Frag) (x : Slot) : Bool :=
  let a := stageArgs x
  let m := (tokIn x.l).mask
  !((List.range 6).all (fun i => m.getLsbD i)) || !f.hasN || a.p == 0 || (if a.fmt = 1 then 2048 else 1024) < a.p
    || a.span == 0 || a.p % (a.span * a.radix) != 0

/-- The checks of one byte of a harrow tile: R341's, for a read and a write (R370). -/
def harrowByte (s : State) (e : Env) (d : Dir) (va : Word) : Except Cause (Nat × Nat) :=
  match translate s (elemWho e) va .read with
  | .error c => .error c
  | .ok r =>
    match translate s (elemWho e) va .write with
    | .error c => .error c
    | .ok _ =>
      if inWindow r.1 && neighbour e.t (dirNat d) == some (windowTid r.1) then .ok r else .error Cause.offtile

/-- Lanes that a stage's access of n bytes from `va` covers in the block of `at'` (R417). -/
def stageLanes (va at' : Word) (n : Nat) : BitVec 16 :=
  let lo := max va.toNat (at'.toNat / 64 * 64)
  lanesOf (lo % 64) (va.toNat + n - lo)

/-- A stage's start: its checks, then the access stream through the port (R370, R371, R374). -/
def mharrowFire (i : Instr) (d : Dir) (ta tb : Target) (e : Env) (s : State) (x : Slot) : State :=
  if x.ops.any (fun p => p.ia != 0) then s
  else if stageBad (getFrag s e.t) x then
    raiseUnit (emitPoison i ta tb e s { x with tiles := x.tiles + 1 }) e 0 Cause.harrowarg
  else if portHeld s e.t (dirNat d) then s
  else
    let a := stageArgs x
    let va := portVA (tokIn x.l) 0
    let size := a.p * pointBytes a.fmt
    let last := va + BitVec.ofNat 64 (size - 1)
    match harrowByte s e d va with
    | .error c => holdSlot s e x c va (stageLanes va va size) true
    | .ok r =>
      if va.toNat % 64 ≠ 0 then holdSlot s e x Cause.ealign va (stageLanes va va size) true
      else if 2 ^ 20 < r.1 % 2 ^ 20 + size then holdSlot s e x Cause.offtile last (stageLanes va last size) true
      else match harrowByte s e d last with
        | .error c => holdSlot s e x c last (stageLanes va last size) true
        | .ok _ =>
          if rowMeetsFifo s r.1 size then holdSlot s e x Cause.region va (stageLanes va va size) true
          else setSlot (bindRead s (elemWho e) va) e.t e.n { x with ops := [⟨va, r.1, r.2, hasPI s (elemWho e) va, portSince s x⟩] }

/-- MHARROW (R370 to R374). -/
def execMharrow (d : Dir) (ta tb : Target) (s : State) : Out :=
  let i : Instr := .mharrow d ta tb
  onSlot s (matrixOp i ta tb none false (mharrowFire i d ta tb) (consumeOff i) (emitPoison i ta tb) (forwardMark i ta tb))

/-- Read, compute and write a stage's tile (R371, R373): the exponent and the events. -/
def stagePerform (s : State) (e : Env) (x : Slot) (va : Word) : Res (Nat × List Nat) × State :=
  let a := stageArgs x
  let who := elemWho e
  let size := a.p * pointBytes a.fmt
  match readVA s who va size with
  | (.fault c, s') => (.fault c, s')
  | (.wait, s') => (.wait, s')
  | (.ok bs, s1) =>
    let out := stageOut (getFrag s e.t) a.radix a.p a.span a.tmul a.koff (pointsOf a.fmt a.p bs)
    let ex := blockExp out.1
    let y : Fmt := if a.fmt = 1 then fmt16 else fmt32
    let sc := out.1.flatMap (fun c => [stageScale a.scale a.radix a.fmt ex c.1, stageScale a.scale a.radix a.fmt ex c.2])
    let bytes := sc.flatMap (fun v => bytesOf (pointBytes a.fmt / 2) (y.encode v.1))
    match writeVA s1 who va bytes with
    | (.ok _, s2) => (.ok (ex, out.2 ++ sc.flatMap (·.2)), s2)
    | (.fault c, s2) => (.fault c, s2)
    | (.wait, _) => (.wait, s)

/-- The token of a finished stage: its exponent with SCALE 3, else done (R373, R374). -/
def stageToken (x : Slot) (ex : Nat) : Token :=
  if (stageArgs x).scale = 3 then ⟨.data, 1, false, BitVec.ofNat 512 ex⟩ else bare .done

/-- HARROW_STAGE_COMPLETE of `ops` = [tile, slot] (R374). -/
def execHarrowStageComplete (s : State) : Out :=
  let t := s.op 0
  let n := s.op 1
  let x := getSlot s t n
  match envOf s t n, x.ops, decodeElem x.word with
  | some e, p :: _, .ok (.mharrow d ta tb) =>
    if x.held.isSome || p.ia == 0 || portEarlier s t (dirNat d) p.since || !bothFree s t n ta tb then .next s
    else match stagePerform s e x p.va with
      | (.ok (ex, evs), s) =>
        let y := { x.consume (.mharrow d ta tb) with ops := [], tiles := x.tiles + 1 }
        .next (countEvents (emit s e y ta tb (some (stageToken x ex)) (some (stageToken x ex))) e.ctx e.t evs)
      | (.fault c, s) => .next (holdSlot s e x c p.va (stageLanes p.va p.va ((stageArgs x).p * pointBytes (stageArgs x).fmt)) true)
      | (.wait, s) => .next s
  | _, _, _ => .next s

end Sys2Proof.Machine
end

