-- ==== Sys2Proof/Machine/Streams.lean ====
section
/-! DEFINITION. Address generators and their streams (R78 to R88, R67, R73 to R77): GENERATOR_ELEMENT, COORDINATE_TOKEN,
WRITE_STREAM_TOKEN, WRITE_STREAM_END, GATHER_REPLY, and the FIFO services FIFO_PUSH and FIFO_POP. -/
namespace Sys2Proof.Machine

/-! ### Where a stream runs -/

/-- A running stream of generator `g` of tile `t`, with the edges requested of its section. -/
structure GEnv where
  t : Tid
  g : Nat
  edges : Nat
  atStop : Bool
  deriving DecidableEq, Repr

/-- The firing that a stream counts for, by core and record (R101). -/
def streamOwner (s : State) (r : Stream) : Option (Nat × Nat) :=
  match r.owner, r.sect with
  | some o, _ => some o
  | none, some k => (getSec s k).owner
  | none, none => none

/-- An SBAR of the owner holds the stream (R101). -/
def streamHeld (s : State) (r : Stream) : Bool :=
  match streamOwner s r with
  | some (t, rid) =>
    let c := getCore s t
    c.held.getLsbD 5 && (match c.run with | some f => f.task.rid == rid | none => false)
  | none => false

/-- The environment of a stream; none where its section does not run (R211). -/
def gEnv (s : State) (t : Tid) (g : Nat) (r : Stream) : Option GEnv :=
  match r.sect with
  | none => some ⟨t, g, 0, false⟩
  | some k =>
    let x := getSec s k
    match x.state with
    | .armed | .stopping =>
      some ⟨t, g, x.edges, match x.stopAt with | some n => decide (n ≤ r.edge) | none => false⟩
    | _ => none

/-- Replace a running stream. -/
def setStream (s : State) (e : GEnv) (r : Stream) : State :=
  setGen s e.t e.g { getGen s e.t e.g with run := some r }

/-- The stream is over: its generator is free and its binding released (R110). -/
def endStream (s : State) (e : GEnv) (r : Stream) : State :=
  unbind (setGen s e.t e.g { getGen s e.t e.g with run := none }) r.ctx (genBinder e.t e.g)

/-- The agent that a stream acts as (R80, R420). -/
def genWho (e : GEnv) (r : Stream) : Who :=
  ⟨r.ctx, 2, e.t, genAgent e.t e.g, some (genBinder e.t e.g), false, none, false, false, none, none, false⟩

/-- A stream as it reads through a range with PI or without: an invariant reader where INV is set and PI was there at issue (R33,
R78, R108). -/
def genReader (s : State) (e : GEnv) (r : Stream) (pi : Bool) : Who := invWho s (genWho e r) r.launch (patInv r.words) pi

/-- UKIND of a generator's event records (R413). -/
def genKind (t : Tid) : Nat := if isHead t then 1 else 0

/-- Raise a cause of a stream. -/
def raiseGen (s : State) (e : GEnv) (r : Stream) (c : Cause) : State :=
  appendEvent { s with free := s.free + 1 } r.ctx
    ⟨c, genKind e.t, e.g, e.t, r.launch, Sys2Proof.Config.openWord s.free, 0⟩

/-- Hold a stream's access (R84, R415). -/
def holdGen (s : State) (e : GEnv) (r : Stream) (c : Cause) (va : Word) (ia : Nat) (wr : Bool) (mask : BitVec 16)
    (data : Payload) : State :=
  let h := holdAccess s r.ctx r.launch e.t (genKind e.t) e.g c va ia wr mask data
  setStream h.2 e { r with held := some h.1 }

/-! ### Pattern order (R81, R82, R84) -/

/-- Bytes of an element. -/
def elemBytes (r : Stream) : Nat := 2 ^ patEsz r.words

/-- A signed stride. -/
def strideI (p : List Word) (i : Nat) : Int := patStr p i

/-- digit_rev (R82). -/
def digitRev : List Nat → Nat → Nat → Nat
  | [], _, acc => acc
  | x :: l, i, acc => digitRev l (i / max x 1) (acc * x + i % max x 1)

/-- Positions of an affine or digit-reversed pattern. -/
def patCount (p : List Word) : Nat := patLen p 0 * patLen p 1 * patLen p 2 * patLen p 3

/-- Indices of element e. -/
def patIdx (p : List Word) (e : Nat) : Nat × Nat × Nat × Nat :=
  let l0 := max (patLen p 0) 1
  let l1 := max (patLen p 1) 1
  let l2 := max (patLen p 2) 1
  (e % l0, e / l0 % l1, e / l0 / l1 % l2, e / l0 / l1 / l2)

/-- VA of element e (R81). -/
def elemVA (p : List Word) (e : Nat) : Word :=
  let (i0, i1, i2, i3) := patIdx p e
  let k := if patMode p = 2 then digitRev (patRadices p) i0 0 else i0
  let off : Int := Int.ofNat (2 ^ patEsz p) *
    (Int.ofNat k * strideI p 0 + Int.ofNat i1 * strideI p 1 + Int.ofNat i2 * strideI p 2 + Int.ofNat i3 * strideI p 3)
  patBase p + BitVec.ofInt 64 off

/-- VA of element j of index x in MODE 1 (R84). -/
def indexVA (p : List Word) (x j : Nat) : Word :=
  patBase p + BitVec.ofInt 64 (Int.ofNat (2 ^ patEsz p) * (Int.ofNat x * strideI p 1 + Int.ofNat j * strideI p 0))

/-- Level of the end marker after element e; 0 for none (R81). -/
def markAfter (p : List Word) (e : Nat) : Nat :=
  let (i0, i1, i2, _) := patIdx p e
  let d0 := i0 + 1 == patLen p 0
  let d1 := d0 && i1 + 1 == patLen p 1
  let d2 := d1 && i2 + 1 == patLen p 2
  let emk := patEmk p
  if e + 1 = patCount p then 0
  else if d2 && emk / 4 % 2 == 1 then 3
  else if d1 && emk / 2 % 2 == 1 then 2
  else if d0 && emk % 2 == 1 then 1
  else 0

/-- Index in a lane of a coordinate token, where it is live (R84). -/
def coordIndex (p : List Word) (tok : Token) (i : Nat) : Option Nat :=
  if patIw p then (if tok.mask.getLsbD (2 * i) then some (posBits tok.data 64 i) else none)
  else (if tok.mask.getLsbD i then some (posBits tok.data 32 i) else none)

/-- Indices of a coordinate token. -/
def coordLanes (p : List Word) : Nat := if patIw p then 8 else 16

/-- Policy for an index: none for an access, else 0 fault, 1 zero, 2 skip (R84). -/
def coordPolicy (p : List Word) (x : Nat) : Option Nat :=
  let sentinel := 2 ^ (if patIw p then 64 else 32) - 1
  if x = sentinel ∧ patSpol p ≠ 0 then some (patSpol p)
  else if patBound p ≤ x then some (patPol p)
  else none

/-! ### Regions (R73 to R77) -/

/-- The stream addresses a FIFO region by tokens: 64-byte elements from the region's start (R76). -/
def genFifo (s : State) (e : GEnv) (r : Stream) : Option Nat :=
  if isHead e.t || patEsz r.words != 6 then none
  else match translate s (genWho e r) (patBase r.words) (if patWrite r.words then .write else .read) with
    | .error _ => none
    | .ok x =>
      if !(inWindow x.1) || windowTid x.1 != e.t then none
      else match regionAt s e.t (x.1 % 2 ^ 20) with
        | none => none
        | some k =>
          let w := region s e.t k
          if regMode w = 2 ∧ regCtx w = r.ctx ∧ x.1 % 2 ^ 20 = regBase w then some k else none

/-- Buffer of an operand store that an offset lies in. -/
def storeBuf (w : Word × Word) (off : Nat) : Nat :=
  (off - regBase w) / max (regLen w / (bitsOf w.2 2 0 + 1) * 64) 1

/-- Fields of a line buffer (R70). -/
def lineRow (w : Word × Word) : Nat := bitsOf w.2 9 0 + 1
def lineRows (w : Word × Word) : Nat := regLen w / lineRow w
def lineAhead (w : Word × Word) : Nat := (bitsOf w.2 63 48 + 65536 - bitsOf w.2 47 32) % 65536

/-- Where an element of a memory-tile stream goes: an IA, a wait, or REGION (R72, R73, R76, R77). A write stream fills the rows
of a line buffer in order: row PROW of the count lies in region row PROW mod NROWS, whatever row its own address names (log
128). -/
def regionGate (s : State) (e : GEnv) (r : Stream) (ia : Nat) (wr : Bool) : Res Nat × Stream :=
  let off := ia % 2 ^ 20
  match regionAt s e.t off with
  | none => (.ok ia, r)
  | some k =>
    let w := region s e.t k
    let r' := { r with touched := if r.touched.contains k then r.touched else r.touched ++ [k] }
    if regCtx w ≠ r.ctx then (.fault Cause.region, r)
    else match regMode w with
      | 2 => (.fault Cause.region, r')
      | 1 =>
        let b := storeBuf w off
        if r.bufs.contains (k * 8 + b) then (.ok ia, r')
        else if bitOf w.2 (24 + b) = wr then (.wait, r)
        else (.ok ia, { r' with bufs := r'.bufs ++ [k * 8 + b] })
      | _ =>
        let rowB := 64 * lineRow w
        if wr then
          (if r.rowTok = 0 ∧ lineRows w ≤ lineAhead w then (.wait, r)
           else (.ok (ia - off + regBase w + bitsOf w.2 63 48 % max (lineRows w) 1 * rowB + r.rowTok), r'))
        else
          let o := off - regBase w
          if rowB * bitsOf w.2 25 20 ≤ o then (.fault Cause.region, r')
          else if lineAhead w < bitsOf w.2 25 20 then (.wait, r)
          else
            let row := (bitsOf w.2 47 32 + o / rowB) % max (lineRows w) 1
            (.ok (ia - off + regBase w + row * rowB + o % rowB), r')

/-- Translate an element and find where it goes (R29, R80). -/
def elemPlace (s : State) (e : GEnv) (r : Stream) (va : Word) (wr : Bool) : Res (Nat × Nat) × Stream × Nat :=
  let kind : AKind := if wr then .write else if patInv r.words then .inv else .read
  match translate s (genWho e r) va kind with
  | .error c => (.fault c, r, 0)
  | .ok x =>
    if isHead e.t then (if inWindow x.1 then (.fault Cause.offtile, r, x.1) else (.ok x, r, x.1))
    else if !(inWindow x.1) || windowTid x.1 != e.t then (.fault Cause.offtile, r, x.1)
    else match regionGate s e r x.1 wr with
      | (.ok ia, r) => (.ok (ia, x.2), r, x.1)
      | (.fault c, r) => (.fault c, r, x.1)
      | (.wait, r) => (.wait, r, x.1)

/-- The region's fill level is met by a marker of a level; EOS is level 4 (R70). -/
def fillMet (w : Word × Word) (level : Nat) : Bool :=
  let flvl := if regMode w = 3 then bitsOf w.2 13 12 else bitsOf w.2 5 4
  level == 4 || (flvl != 0 && flvl ≤ level)

/-- A fill point on the buffers of operand stores (R73): a write stream sets FULL, a read stream with RCLR clears it. The stream
forgets the buffer, so that going on in it counts as a first write or read again and FULL is tested anew (log 68). -/
def fillBufs (t : Tid) (wr : Bool) (level : Nat) (s : State) (r : Stream) : List Nat → State × Stream
  | [] => (s, r)
  | b :: bs =>
    let w := region s t (b / 8)
    if regMode w = 1 ∧ fillMet w level = true then
      let i := 24 + b % 8
      let s := if wr then setRegion s t (b / 8) (w.1, withBits w.2 i i 1)
        else if bitOf w.2 6 then setRegion s t (b / 8) (w.1, withBits w.2 i i 0) else s
      fillBufs t wr level s { r with bufs := r.bufs.filter (· != b) } bs
    else fillBufs t wr level s r bs

/-- A fill point: operand stores by buffer, and for a read stream the windows of its line buffers (R73, R77). -/
def fillPoint (s : State) (e : GEnv) (r : Stream) (level : Nat) : State × Stream :=
  let wr := patWrite r.words
  let x := fillBufs e.t wr level s r r.bufs
  if wr then x
  else (r.touched.foldl (fun s k =>
    let w := region s e.t k
    if regMode w = 3 ∧ regCtx w = r.ctx ∧ fillMet w level = true then
      setRegion s e.t k (w.1, withBits w.2 47 32 (bitsOf w.2 47 32 + bitsOf w.2 19 14)) else s) x.1, x.2)

/-- A write into a line buffer: completed rows count in PROW (R77). -/
def rowWritten (s : State) (e : GEnv) (r : Stream) (ia n : Nat) : State × Stream :=
  match regionAt s e.t (ia % 2 ^ 20) with
  | none => (s, r)
  | some k =>
    let w := region s e.t k
    if regMode w ≠ 3 then (s, r)
    else if r.rowTok + n = 64 * lineRow w then
      (setRegion s e.t k (w.1, withBits w.2 63 48 (bitsOf w.2 63 48 + 1)), { r with rowTok := 0 })
    else (s, { r with rowTok := r.rowTok + n })

/-! ### Packing (R83) -/

/-- Emit what has been packed: a token, poison where an uncorrectable element would have gone into it (R67). -/
def Stream.flush (r : Stream) : Stream :=
  if r.fill = 0 then r
  else
    let tok : Token := if r.poisonTok then bare .poison else ⟨.data, r.live, false, r.buf⟩
    { r with outQ := r.outQ ++ [tok], buf := 0, fill := 0, live := 0, poisonTok := false }

/-- Pack one element. -/
def Stream.pack (r : Stream) (bs : List Byte) (poison : Bool) : Stream :=
  let r := { r with
    buf := r.buf ||| BitVec.ofNat 512 (ofBytes bs * 256 ^ r.fill)
    live := r.live ||| lanesOf r.fill (elemBytes r)
    fill := r.fill + elemBytes r
    poisonTok := r.poisonTok || poison }
  if 64 ≤ r.fill then r.flush else r

/-- An uncorrectable element: poison, and its cause once per stream (R67, R470). -/
def packPoison (s : State) (e : GEnv) (r : Stream) (c : Cause) : State :=
  let r' := r.pack (List.replicate (elemBytes r) 0) true
  if r.ueRaised then setStream s e r' else raiseGen (setStream s e { r' with ueRaised := true }) e r c

/-- Emit what has been packed ahead of a marker; a round marker that is due comes between the two (R220). -/
def Stream.flushEdge (r : Stream) (edges : Nat) : Stream :=
  if r.fill ≠ 0 ∧ patMode r.words ≠ 1 ∧ r.edge < edges then
    { r.flush with outQ := r.flush.outQ ++ [bare .round], edge := r.edge + 1 }
  else r.flush

/-! ### Read streams -/

/-- End a read stream's elements: what is packed, its last fill point, then EOS (R81). -/
def readEnd (s : State) (e : GEnv) (r : Stream) : State :=
  let r := r.flushEdge e.edges
  let x := fillPoint s e r 4
  setStream x.1 e { x.2 with outQ := x.2.outQ ++ [bare .eos], srcDone := true }

/-- A line request has been performed, or is poison. -/
def LineElem.ready (x : LineElem) : Bool := x.bytes.isSome || x.poison

/-- The cycles at which the line requests of a stream were issued, each with whether it has returned; a merged write is one. -/
def lineReqs (r : Stream) : List (Nat × Bool) :=
  (r.inflight.filter (·.first)).map (fun x => (x.since, x.ready))
    ++ (match r.merge with
      | [] => []
      | x :: _ => [(x.since, false)])

/-- Line requests of a headland tile, those of all its generators together, from its oldest that has not returned on: a 257th waits
for that one (R88; log 68). -/
def headReqs (s : State) (t : Tid) : Nat :=
  let l := (List.range 4).flatMap (fun g => match (getGen s t g).run with
    | some r => lineReqs r
    | none => [])
  let out := (l.filter (fun x => !x.2)).map (·.1)
  (l.filter (fun x => out.any (fun c => c ≤ x.1))).length

/-- Elements of the last line request. -/
def lastRun (l : List LineElem) : Nat := (l.reverse.takeWhile (fun x => !x.first)).length + 1

/-- The next element is merged into the last line request: the line, and the class, are the same, the request has not been
performed and holds fewer than 64 elements (R33, R87). -/
def joinsLast (l : List LineElem) (ia cls : Nat) : Bool :=
  match l.getLast? with
  | some x => x.ia / 128 == ia / 128 && x.cls == cls && x.bytes.isNone && !x.poison && decide (lastRun l < 64)
  | none => false

/-- An element of a headland read stream, merged into the last line request or beginning one (R87, R88); `k` gives the
stream's next position, and the end marker due there follows the element. -/
def headRead (s : State) (e : GEnv) (r : Stream) (va : Word) (ia cls : Nat) (k : Stream → Stream) : State :=
  let j := joinsLast r.inflight ia cls
  if !j && 256 ≤ headReqs s e.t then s
  else
    let r := k r
    let starve := (getBuf s (bufKey e.t 4 (patDch r.words))).isEmpty
    setStream s e { r with
      skips := 0
      inflight := r.inflight ++ [⟨ia, va, cls, hasPI s (genWho e r) va, s.clk.cycle, starve, false, false, !j, r.skips, none⟩] }

/-- One element read at a VA: performed at the bank, or asked for at its home port (R80, R83, R88). `k` gives the stream's
next position. -/
def readElem (s : State) (e : GEnv) (r : Stream) (va : Word) (k : Stream → Stream) : State :=
  match elemPlace s e r va false with
  | (.fault c, r, ia) => holdGen s e r c va ia false (BitVec.allOnes 16) 0
  | (.wait, _, _) => s
  | (.ok (ia, cls), r, _) =>
    let s := bindRead s (genWho e r) va
    if isHead e.t then headRead s e r va ia cls k
    else match apart s (genReader s e r (hasPI s (genWho e r) va)) ia cls (.read (elemBytes r)) with
      | (.ok bs, s) => setStream (dropTorn s (genAgent e.t e.g)) e ((k r).pack bs false)
      | (.fault c, s) =>
        let s := dropTorn s (genAgent e.t e.g)
        if c = Cause.tileue then packPoison s e (k r) c else holdGen s e r c va ia false (BitVec.allOnes 16) 0
      | (.wait, s) => s

/-- Push a token of the stream out where its channel has room; EOS ends the stream (R18, R81, R83). -/
def sendOut (s : State) (e : GEnv) (r : Stream) (tok : Token) (rest : List Token) : State :=
  let ch := patDch r.words
  if !egressFree s e.t ch then s
  else
    let s := egressPush s e.t ch tok
    if tok.kind = .eos then endStream s e r else setStream s e { r with outQ := rest }

/-- The marker of a level. -/
def endMark (l : Nat) : TokKind := if l = 1 then .end1 else if l = 2 then .end2 else .end3

/-- Ask a FIFO region for a stream's push or pop (R75, R76). -/
def genAsk (s : State) (e : GEnv) (r : Stream) (k : Nat) (push : Bool) (tok : Token) : State :=
  if fifoAsked s (.gen e.t e.g) then s
  else fifoAsk (setStream s e { r with touched := if r.touched.contains k then r.touched else r.touched ++ [k] }) e.t k
    ⟨push, tok, none, .gen e.t e.g⟩

/-- The next element of a read stream in MODE 0 or 2, or of the current index in MODE 1. -/
def readNext (s : State) (e : GEnv) (r : Stream) : State :=
  let p := r.words
  if patMode p = 1 then
    match r.coord with
    | some (tok, i) =>
      if i % 2 = 0 then s
      else if patLen p 0 ≤ r.e then setStream s e { r with coord := some (tok, i + 1), e := 0 }
      else (match genFifo s e r with
        | some k => genAsk s e r k false (bare .data)
        | none => readElem s e r (indexVA p ((coordIndex p tok (i / 2)).getD 0) r.e) (fun r => { r with e := r.e + 1 }))
    | none => s
  else if patCount p ≤ r.e then (if r.inflight.isEmpty then readEnd s e r else s)
  else
    let step (r : Stream) : Stream := { r with e := r.e + 1, skips := markAfter p r.e }
    match genFifo s e r with
    | some k => genAsk s e r k false (bare .data)
    | none => readElem s e r (elemVA p r.e) step

/-- GENERATOR_ELEMENT of `ops` = [tile, generator]: the next token out, round marker, end marker, EOS, zero element or
element access of a stream (R81, R83, R84, R220). -/
def execGeneratorElement (s : State) : Out :=
  let t := s.op 0
  let g := s.op 1
  match (getGen s t g).run with
  | none => .next s
  | some r =>
    match gEnv s t g r with
    | none => .next s
    | some e =>
      match r.outQ with
      | tok :: rest => .next (sendOut s e r tok rest)
      | [] =>
        if r.held.isSome || e.atStop || streamHeld s r || patWrite r.words || r.srcDone then .next s
        else if patMode r.words ≠ 1 ∧ r.edge < e.edges ∧ r.fill = 0 ∧ r.inflight = [] then
          .next (setStream s e { r with outQ := [bare .round], edge := r.edge + 1 })
        else if patMode r.words ≠ 1 ∧ r.edge < e.edges ∧ r.inflight ≠ [] then .next s
        else if r.stopping then
          (if r.inflight.isEmpty && !fifoAsked s (.gen t g) then .next (readEnd s e { r with skips := 0, zeros := 0 }) else .next s)
        else if r.skips ≠ 0 then
          (if r.inflight.isEmpty then
            let x := fillPoint s e (r.flushEdge e.edges) r.skips
            .next (setStream x.1 e { x.2 with outQ := x.2.outQ ++ [bare (endMark r.skips)], skips := 0 })
           else .next s)
        else if r.zeros ≠ 0 then
          (if r.inflight.isEmpty then
            .next (setStream s e ({ r with zeros := r.zeros - 1, dead := r.dead && r.zeros != 1 }.pack
              (List.replicate (elemBytes r) 0) r.dead))
           else .next s)
        else .next (readNext s e r)

/-- The line request that begins at place `i`. -/
def runAt (l : List LineElem) (i : Nat) : List LineElem :=
  match l.drop i with
  | [] => []
  | x :: l => x :: l.takeWhile (fun y => !y.first)

/-- Change the elements of the line request that begins at place `i`. -/
def mapRun (l : List LineElem) (i : Nat) (f : LineElem → LineElem) : List LineElem :=
  let n := (runAt l i).length
  l.take i ++ (runAt l i).map f ++ l.drop (i + n)

/-- The link that feeds the coordinate channel. -/
def cchLink (r : Stream) : Nat := 32 + patCch r.words

/-- An index of a coordinate token from lane `i` on is to be accessed next: no policy comes before it (R84). -/
def lanesAhead (p : List Word) (tok : Token) : Nat → Nat → Bool
  | 0, _ => false
  | n + 1, i =>
    match coordIndex p tok i with
    | none => lanesAhead p tok n (i + 1)
    | some x => (coordPolicy p x).isNone || (coordPolicy p x == some 2 && lanesAhead p tok n (i + 1))

/-- The stream may still add an element to its last line request without waiting (R87). -/
def lineOpen (s : State) (e : GEnv) (r : Stream) : Bool :=
  let p := r.words
  let fits (va : Word) : Bool :=
    match elemPlace s e r va false with
    | (.ok x, _, _) => joinsLast r.inflight x.1 x.2
    | _ => false
  let busy := r.held.isSome || e.atStop || streamHeld s r || r.srcDone || r.stopping || !r.outQ.isEmpty || r.zeros != 0
  !busy && (
    if patMode p = 1 then
      match r.coord with
      | some (tok, i) =>
        if i % 2 = 1 ∧ r.e < patLen p 0 then fits (indexVA p ((coordIndex p tok (i / 2)).getD 0) r.e)
        else lanesAhead p tok (coordLanes p - (i + 1) / 2) ((i + 1) / 2)
      | none => match inHead s e.t (cchLink r) with
        | some tok => tok.kind == .data && lanesAhead p tok (coordLanes p) 0
        | none => false
    else e.edges ≤ r.edge && r.e < patCount p && fits (elemVA p r.e))

/-- Places of the line requests that may be performed now: requests to one home port keep their order, and the last waits
while elements may join it (R24, R87, R88). -/
def runsDue (s : State) (e : GEnv) (r : Stream) : List Nat :=
  let firsts := (r.inflight.zipIdx.filter (fun x => x.1.first && !x.1.ready)).map (·.2)
  let port (i : Nat) : Nat := match r.inflight.drop i with
    | x :: _ => homePort x.ia
    | [] => 0
  firsts.filter (fun i =>
    (firsts.takeWhile (· != i)).all (fun j => port j != port i)
      && !((runAt r.inflight i).any (·.held))
      && (decide (i + (runAt r.inflight i).length < r.inflight.length) || !lineOpen s e r))

/-- An element leaves in pattern order, and the end marker after it (R81, R88). -/
def Stream.deliver (edges : Nat) (r : Stream) (x : LineElem) : Stream :=
  let r := match x.bytes with
    | some bs => r.pack bs x.poison
    | none => r.pack (List.replicate (elemBytes r) 0) true
  if x.mark = 0 then r
  else
    let r := r.flushEdge edges
    { r with outQ := r.outQ ++ [bare (endMark x.mark)] }

/-- The oldest line request leaves. -/
def deliverFront (r : Stream) (edges : Nat) : Stream :=
  let run := runAt r.inflight 0
  run.foldl (Stream.deliver edges) { r with inflight := r.inflight.drop run.length }

/-- The elements of the oldest line request in the 64-byte block of a VA, as one retry entry describes them (R417). -/
def runBlock (r : Stream) (va : Word) : List LineElem :=
  (runAt r.inflight 0).filter (fun y => y.va.toNat / 64 == va.toNat / 64)

/-- Lanes that elements cover in their block (R417). -/
def blockLanes (r : Stream) (l : List LineElem) : BitVec 16 :=
  (l.map (fun y => lanesOf (y.va.toNat % 64) (elemBytes r))).foldl (· ||| ·) 0

/-- Perform the line request at place `i`: each element takes its bytes from one performance of the line (R87). An
uncorrectable line gives poison (R470); another fault is met by the oldest request only (log 68). -/
def performRun (s : State) (e : GEnv) (r : Stream) (i : Nat) : State :=
  match runAt r.inflight i with
  | [] => s
  | x :: _ =>
    match iaAccess s { genReader s e r x.pi with starve := x.starve } (x.ia / 128 * 128) x.cls (.read 128) with
    | (.ok bs, s) =>
      let s := if x.starve then pageStarve s (x.ia / 65536) (s.clk.cycle - x.since) else s
      setStream s e { r with inflight := mapRun r.inflight i (fun y =>
        { y with bytes := some ((bs.drop (y.ia % 128)).take (elemBytes r)) }) }
    | (.fault c, s') =>
      if c = Cause.memue then
        let r' := { r with inflight := mapRun r.inflight i (fun y => { y with poison := true }) }
        if r.ueRaised then setStream s' e r'
        else raiseGen (setStream s' e { r' with ueRaised := true }) e r c
      else if i = 0 ∧ r.held.isNone then
        holdGen s' e { r with inflight := mapRun r.inflight 0 (fun y => { y with held := true }) } c x.va x.ia false
          (blockLanes r (runBlock r x.va)) 0
      else s
    | (.wait, s) => s

/-- GATHER_REPLY of `ops` = [tile, generator]: the oldest line request leaves if it has been performed, else one of those in
flight, a free choice, is performed (R87, R88). -/
def execGatherReply (s : State) : Out :=
  let t := s.op 0
  let g := s.op 1
  match (getGen s t g).run with
  | none => .next s
  | some r =>
    match gEnv s t g r, r.inflight with
    | some e, x :: _ =>
      if x.ready then .next (if r.outQ.isEmpty then setStream s e (deliverFront r e.edges) else s)
      else match chooseNext s (runsDue s e r) with
        | (i :: _, s) => .next (performRun s e r i)
        | ([], s) => .next s
    | _, _ => .next s

/-! ### Coordinates (R84, R85) -/

/-- Drop the head of the coordinate channel. -/
def popCoord (s : State) (e : GEnv) (r : Stream) : State := inPop s e.t (cchLink r)

/-- The link that feeds the data channel. -/
def dchLink (r : Stream) : Nat := 32 + patDch r.words

/-- Put bytes over a masked row. -/
def overlayRow (row : List (Option Byte)) (off : Nat) (bs : List Byte) : List (Option Byte) :=
  row.take off ++ bs.map some ++ row.drop (off + bs.length)

/-- The bytes that elements write, of `n` from a place on; the later element's where two cover one byte (R87). -/
def mergeRow (n : Nat) (l : List LineElem) : List (Option Byte) :=
  l.foldl (fun row x => overlayRow row (x.ia % n) (x.bytes.getD [])) (List.replicate n none)

/-- The elements of a merge that are in the line of its first (R87). -/
def mergeRun (l : List LineElem) : List LineElem :=
  match l with
  | [] => []
  | x :: _ => l.takeWhile (fun y => y.ia / 128 == x.ia / 128 && y.cls == x.cls)

/-- The elements of a merge in the 64-byte block of its first, as one retry entry describes them (R417). -/
def mergeBlock (l : List LineElem) : List LineElem :=
  match l with
  | [] => []
  | x :: _ => (mergeRun l).takeWhile (fun y => y.va.toNat / 64 == x.va.toNat / 64)

/-- Perform the merged write as one line write with a byte mask (R87). -/
def flushMerge (s : State) (e : GEnv) (r : Stream) : State :=
  match r.merge with
  | [] => s
  | x :: _ =>
    match iaPerform s (genWho e r) (x.ia / 128 * 128) x.cls (.write (mergeRow 128 (mergeRun r.merge))) with
    | (.ok _, s) => setStream s e { r with merge := r.merge.drop (mergeRun r.merge).length }
    | (.fault c, s) =>
      let l := mergeBlock r.merge
      holdGen s e r c x.va x.ia true (blockLanes r l)
        (BitVec.ofNat 512 (ofBytes ((mergeRow 64 l).map (fun b => b.getD 0))))
    | (.wait, s) => s

/-- Judge the next index of the coordinate token in hand (R84). Under POL 0 everything of earlier indices has been emitted or
written first. -/
def coordNext (s : State) (e : GEnv) (r : Stream) (tok : Token) (i : Nat) : State :=
  let p := r.words
  let wr := patWrite p
  if coordLanes p ≤ i then setStream (popCoord s e r) e { r with coord := none }
  else
    let past := some (tok, 2 * (i + 1))
    match coordIndex p tok i with
    | none => setStream s e { r with coord := past }
    | some x =>
      match coordPolicy p x with
      | none => setStream s e { r with coord := some (tok, 2 * i + 1), e := 0 }
      | some 0 =>
        if !r.inflight.isEmpty then s
        else if !r.merge.isEmpty then flushMerge s e r
        else if !wr && r.fill != 0 then setStream s e r.flush
        else
          let s := { s with free := s.free + 1 }
          holdGen s e r Cause.bound (Sys2Proof.Config.openWord (s.free - 1)) 0 wr (BitVec.allOnes 16) 0
      | some pol =>
        if wr then setStream s e { r with coord := past, skips := patLen p 0 }
        else if pol = 1 then (if r.inflight.isEmpty then setStream s e { r with coord := past, zeros := patLen p 0 } else s)
        else setStream s e { r with coord := past }

/-- A coordinate token that is not data: EOS, poison, or one that passes to DCH in its place (R85, R220). -/
def coordOther (s : State) (e : GEnv) (r : Stream) (tok : Token) : State :=
  let wr := patWrite r.words
  match tok.kind with
  | .eos => if wr then setStream (popCoord s e r) e { r with srcDone := true } else readEnd (popCoord s e r) e r
  | .round =>
    if wr then s
    else setStream (popCoord s e r) e { r.flush with outQ := r.flush.outQ ++ [tok], edge := r.edge + 1 }
  | .end1 | .end2 | .end3 =>
    let r := r.flush
    let x := if wr then (s, r) else fillPoint s e r tok.kind.level
    setStream (popCoord x.1 e r) e { x.2 with outQ := x.2.outQ ++ [tok] }
  | .poison => setStream (popCoord s e r) e { r.flush with outQ := r.flush.outQ ++ [bare .poison] }
  | _ => setStream (popCoord s e r) e { r.flush with outQ := r.flush.outQ ++ [tok] }

/-- COORDINATE_TOKEN of `ops` = [tile, generator] (R84, R85). -/
def execCoordinateToken (s : State) : Out :=
  let t := s.op 0
  let g := s.op 1
  match (getGen s t g).run with
  | none => .next s
  | some r =>
    match gEnv s t g r with
    | none => .next s
    | some e =>
      if patMode r.words ≠ 1 || r.held.isSome || e.atStop || streamHeld s r || r.srcDone || !r.outQ.isEmpty
          || r.zeros != 0 || r.skips != 0 then .next s
      else if r.endSeen || (patWrite r.words && r.stopping && (r.coord.isNone || r.inTok.isNone)) then
        -- the data has ended: what is left of the coordinates is taken up to their EOS
        match inHead s e.t (cchLink r) with
        | some tok => .next (setStream (popCoord s e r) e { r with coord := none, srcDone := tok.kind == .eos })
        | none => .next s
      else if r.stopping && !patWrite r.words then .next s
      else match r.coord with
        | some (tok, i) => if i % 2 = 1 then .next s else .next (coordNext s e r tok (i / 2))
        | none =>
          match inHead s e.t (cchLink r) with
          | none => .next s
          | some tok =>
            if tok.kind = .data then .next (setStream s e { r with coord := some (tok, 0) })
            else if r.inflight.isEmpty then .next (coordOther s e r tok) else .next s

/-! ### Write streams (R83, R84, R86) -/

/-- Drop the head of the data channel. -/
def popData (s : State) (e : GEnv) (r : Stream) : State := inPop s e.t (dchLink r)

/-- An element written is merged with those before it: the line and class are the same, fewer than 64 are merged, and the merged
write has not been forwarded (R87). -/
def joinsMerge (s : State) (e : GEnv) (r : Stream) (ia cls : Nat) : Bool :=
  match r.merge with
  | [] => decide (headReqs s e.t < 256)
  | x :: _ => x.ia / 128 == ia / 128 && x.cls == cls && decide (r.merge.length < 64)
      && (findOut s (genWho e r).key (x.ia / 128 * 128)).isNone

/-- Write one element: performed at the bank, or merged into a line write (R87); `k` gives the stream's next position. -/
def writeElem (s : State) (e : GEnv) (r : Stream) (va : Word) (bs : List Byte) (k : Stream → Stream) : State :=
  let row : Payload := BitVec.ofNat 512 (ofBytes bs * 256 ^ (va.toNat % 64))
  let lanes := lanesOf (va.toNat % 64) bs.length
  match elemPlace s e r va true with
  | (.fault c, r, ia) => if r.merge.isEmpty then holdGen s e r c va ia true lanes row else flushMerge s e r
  | (.wait, _, _) => s
  | (.ok (ia, cls), r, _) =>
    if isHead e.t then
      if joinsMerge s e r ia cls then
        setStream (bindRead s (genWho e r) va) e (k { r with merge :=
          r.merge ++ [⟨ia, va, cls, false, s.clk.cycle, false, false, false, r.merge.isEmpty, 0, some bs⟩] })
      else flushMerge s e r
    else match apart (bindRead s (genWho e r) va) (genWho e r) ia cls (.write (allSome bs)) with
    | (.ok _, s) =>
      let x := rowWritten (dropTorn s (genAgent e.t e.g)) e r ia bs.length
      setStream x.1 e (k x.2)
    | (.fault c, s) => holdGen (dropTorn s (genAgent e.t e.g)) e r c va ia true lanes row
    | (.wait, s) => s

/-- Slot j of a data token (R83). -/
def slotBytes (r : Stream) (tok : Token) (j : Nat) : List Byte :=
  ((bytesOf 64 tok.data.toNat).drop (j * elemBytes r)).take (elemBytes r)

/-- Slot j is live: the lane of its first byte is (R83). -/
def slotLive (r : Stream) (tok : Token) (j : Nat) : Bool := tok.mask.getLsbD (j * elemBytes r / 4)

/-- One slot of the token in hand. A stream that stops still writes the slots of a token taken before (R291). -/
def writeSlot (s : State) (e : GEnv) (r : Stream) (tok : Token) (j : Nat) : State :=
  let p := r.words
  let past (r : Stream) : Stream := { r with inTok := some (tok, j + 1) }
  if 64 / elemBytes r ≤ j then setStream s e { r with inTok := none }
  else if !slotLive r tok j then setStream s e (past r)
  else if patMode p = 1 then
    if r.skips ≠ 0 then setStream s e (past { r with skips := r.skips - 1 })
    else match r.coord with
      | some (ct, i) =>
        if i % 2 = 0 then s
        else if patLen p 0 ≤ r.e then setStream s e { r with coord := some (ct, i + 1), e := 0 }
        else (match genFifo s e r with
          | some k => genAsk s e r k true tok
          | none => writeElem s e r (indexVA p ((coordIndex p ct (i / 2)).getD 0) r.e) (slotBytes r tok j)
              (fun r => past { r with e := r.e + 1 }))
      | none => if r.srcDone || r.stopping then setStream s e (past r) else s
  else if patCount p ≤ r.e then setStream s e (past r)
  else match genFifo s e r with
    | some k => genAsk s e r k true tok
    | none => writeElem s e r (elemVA p r.e) (slotBytes r tok j) (fun r => past { r with e := r.e + 1 })

/-- Value slot v of a 2:4 unit, a masked one as zero; none where its token has not come (R86). -/
def unitValue (r : Stream) (v : Nat) : Option (List Byte) :=
  let per := 64 / elemBytes r
  match r.unit.drop (1 + v / per) with
  | tok :: _ => some (if slotLive r tok (v % per) then slotBytes r tok (v % per) else List.replicate (elemBytes r) 0)
  | [] => none

/-- One dense position of a 2:4 unit (R86): position q of the unit, written at the stream's next place. -/
def sparseSlot (s : State) (e : GEnv) (r : Stream) (meta' : Token) : State :=
  let q := r.zeros
  let full := if elemBytes r = 1 then 5 else 9
  if q = 512 ∨ patCount r.words ≤ r.e then
    (if r.unit.length = full ∨ patCount r.words ≤ r.e then setStream s e { r with unit := [], zeros := 0 } else s)
  else
    let g := q / 4
    let nib := meta'.data.toNat / 16 ^ g % 16
    let a := nib % 4
    let b := nib / 4
    match unitValue r (2 * g), unitValue r (2 * g + 1) with
    | some x, some y =>
      let zero := List.replicate (elemBytes r) (0 : Byte)
      let bs := if b ≤ a then zero else if q % 4 = a then x else if q % 4 = b then y else zero
      if b ≤ a && !r.sparseRaised then
        raiseGen (setStream s e { r with sparseRaised := true }) e r Cause.sparsebad
      else writeElem s e r (elemVA r.words r.e) bs (fun r => { r with e := r.e + 1, zeros := r.zeros + 1 })
    | _, _ => s

/-- A 2:4 stream can write a position without another token. -/
def sparseReady (r : Stream) : Bool :=
  match r.unit with
  | [] => false
  | _ :: _ => r.zeros == 512 || decide (patCount r.words ≤ r.e) || (unitValue r (2 * (r.zeros / 4) + 1)).isSome

/-- A token that reaches a write stream (R83, R220). -/
def writeToken (s : State) (e : GEnv) (r : Stream) (tok : Token) : State :=
  let s' := popData s e r
  match tok.kind with
  | .data =>
    if r.stopping then setStream s' e r
    else if patSp24 r.words then setStream s' e { r with unit := r.unit ++ [tok] }
    else setStream s' e { r with inTok := some (tok, 0) }
  | .end1 | .end2 | .end3 =>
    let x := fillPoint s' e r tok.kind.level
    setStream x.1 e x.2
  | .eos =>
    let x := fillPoint s' e r 4
    setStream x.1 e { x.2 with endSeen := true, unit := [], skips := 0 }
  | .poison =>
    if r.poisonRaised then setStream s' e r
    else raiseGen (setStream s' e { r with poisonRaised := true }) e r Cause.poisonw
  | .round =>
    if patMode r.words = 1 && !r.srcDone then
      match r.coord, inHead s e.t (cchLink r) with
      | none, some c =>
        if c.kind = .round then
          setStream (popCoord s' e r) e { r with outQ := r.outQ ++ [bare .round], edge := r.edge + 1 }
        else s
      | _, _ => s
    else setStream s' e { r with outQ := r.outQ ++ [bare .round], edge := r.edge + 1 }
  | _ => setStream s' e r

/-- No element joins the merged write now: the stream stops or is held, or what comes next is no data or not here (R87). -/
def mergeClosed (s : State) (e : GEnv) (r : Stream) : Bool :=
  let isData (l : Option Token) : Bool := match l with
    | some tok => tok.kind == .data
    | none => false
  r.stopping || e.atStop || streamHeld s r || (match r.inTok with
    | some _ => patMode r.words == 1 && r.coord.isNone && !isData (inHead s e.t (cchLink r))
    | none => !isData (inHead s e.t (dchLink r)))

/-- WRITE_STREAM_TOKEN of `ops` = [tile, generator]: a token is taken, or one of its slots written (R83, R84, R86), or the merged
write performed (R87). -/
def execWriteStreamToken (s : State) : Out :=
  let t := s.op 0
  let g := s.op 1
  match (getGen s t g).run with
  | none => .next s
  | some r =>
    match gEnv s t g r with
    | none => .next s
    | some e =>
      if !patWrite r.words || r.held.isSome then .next s
      else if !r.merge.isEmpty && mergeClosed s e r then .next (flushMerge s e r)
      else if e.atStop || streamHeld s r || r.endSeen || !r.outQ.isEmpty then .next s
      else match r.inTok with
        | some (tok, j) => .next (writeSlot s e r tok j)
        | none =>
          if patSp24 r.words && sparseReady r then
            (match r.unit with
             | m :: _ => .next (sparseSlot s e r m)
             | [] => .next s)
          else match inHead s e.t (dchLink r) with
            | some tok => .next (writeToken s e r tok)
            | none => .next s

/-- WRITE_STREAM_END of `ops` = [tile, generator]: after its last write and the EOS of each input, a write stream emits its
own EOS (R83, R85, R219). -/
def execWriteStreamEnd (s : State) : Out :=
  let t := s.op 0
  let g := s.op 1
  match (getGen s t g).run with
  | none => .next s
  | some r =>
    match gEnv s t g r with
    | none => .next s
    | some e =>
      if patWrite r.words && r.endSeen && r.held.isNone && r.outQ.isEmpty && (patMode r.words != 1 || r.srcDone) then
        .next (sendOut s e r (bare .eos) [])
      else .next s

/-! ### FIFO services (R75, R76, R342) -/

/-- Put what is left of a region's requests back. -/
def fifoDone (s : State) (k : Nat) (q : FifoReq) : State :=
  { s with tl := { s.tl with fifoReqs := s.tl.fifoReqs.set k ((s.tl.fifoReqs.getD k []).filter (fun x => x.who != q.who)) } }

/-- Finish a slot's push or pop. -/
def fifoSlotDone (s : State) (t : Tid) (n : Nat) (tok : Option Token) : State :=
  let x := getSlot s t n
  match envOf s t n, decodeElem x.word with
  | some e, .ok i =>
    match portKind i with
    | some k => portFinish s e x i k tok
    | none => s
  | _, _ => s

/-- Hold a slot's push or pop that met a cause. -/
def fifoSlotHeld (s : State) (t : Tid) (n : Nat) (c : Cause) (wr : Bool) : State :=
  let x := getSlot s t n
  match envOf s t n, x.ops with
  | some e, p :: _ => holdSlot s e x c p.va (if wr then (tokIn x.r).mask else BitVec.allOnes 16) wr
  | _, _ => s

/-- The end marker due after a popped token; none in MODE 1 (R79). -/
def fifoMark (r : Stream) : Nat := if patMode r.words = 1 then 0 else markAfter r.words r.e

/-- Finish a stream's push or pop. -/
def fifoGenDone (s : State) (t : Tid) (g : Nat) (tok : Option Token) : State :=
  match (getGen s t g).run with
  | none => s
  | some r =>
    let e : GEnv := ⟨t, g, 0, false⟩
    match tok, r.inTok with
    | some tok, _ => setStream s e { r with outQ := r.outQ ++ [tok], e := r.e + 1, skips := fifoMark r }
    | none, some (x, j) => setStream s e { r with inTok := some (x, j + 1), e := r.e + 1 }
    | none, none => s

/-- A stream's push or pop that met TILEUE: poison for a read stream, a held access for a write stream (R67). -/
def fifoGenFault (s : State) (t : Tid) (g : Nat) (c : Cause) : State :=
  match (getGen s t g).run with
  | none => s
  | some r =>
    let e : GEnv := ⟨t, g, 0, false⟩
    if patWrite r.words then holdGen s e r c (patBase r.words) 0 true (BitVec.allOnes 16) 0
    else packPoison s e { r with e := r.e + 1, skips := fifoMark r } c

/-- Perform a core's push or pop: the access at the bank (R76). -/
def fifoCore (s : State) (t : Tid) (id : Nat) : State :=
  let c := getCore s t
  match c.run, c.findAcc id with
  | some f, some a => performStep s t f a
  | _, _ => s

/-- Two banks of the tile have failed: a request is answered at once, with TILEUE (R67). -/
def tileDead (s : State) (t : Tid) : Bool := bitOf (mtstat s t) 22

/-- A slot's or stream's push: watchpoints see the tail slot's bytes (R75, R420; log 134). -/
def fifoPushWatched (s : State) (who : Who) (t : Tid) (r : Nat) (q : FifoReq) : Res (List Byte) × State :=
  let w := region s t r
  let ia := windowIA t (regBase w + (fifoHead w + fifoCount w) % max (regLen w) 1 * 64)
  match fifoPushNow s q.drawer t r q.tok with
  | (.ok x, s) => (.ok x, watchCheck s who [(ia, allSome (bytesOf 64 q.tok.data.toNat))])
  | x => x

/-- A slot as an agent. -/
def slotWho (s : State) (t : Tid) (n : Nat) : Who :=
  match envOf s t n with
  | some e => elemWho e
  | none => Who.self 0 1 t

/-- A running stream as an agent. -/
def streamWho (s : State) (t : Tid) (g : Nat) : Who :=
  match (getGen s t g).run with
  | some r => genWho ⟨t, g, 0, false⟩ r
  | none => Who.self 0 2 t

/-- FIFO_PUSH of `ops` = [tile, region]: the oldest push that has space writes the tail slot (R75). -/
def execFifoPush (s : State) : Out :=
  let t := s.op 0
  let r := s.op 1
  match (s.tl.fifoReqs.getD (t * 8 + r) []).find? (fun q => q.push && (tileDead s t || pushReady s q.drawer t r)) with
  | none => .next s
  | some q =>
    let s := fifoDone s (t * 8 + r) q
    match q.who with
    | .core c id => .next (fifoCore s c id)
    | .slot c n =>
      match fifoPushWatched s (slotWho s c n) t r q with
      | (.ok _, s) => .next (fifoSlotDone s c n none)
      | (.fault e, s) => .next (fifoSlotHeld s c n e true)
      | (.wait, s) => .next s
    | .gen c g =>
      match fifoPushWatched s (streamWho s c g) t r q with
      | (.ok _, s) => .next (fifoGenDone s c g none)
      | (.fault e, s) => .next (fifoGenFault s c g e)
      | (.wait, s) => .next s

/-- The head token with its stored mask and PRED (R342). -/
def poppedToken (bs : List Byte) (side : BitVec 16 × Bool) : Token := ⟨.data, side.1, side.2, BitVec.ofNat 512 (ofBytes bs)⟩

/-- FIFO_POP of `ops` = [tile, region]: the oldest pop that has a token reads the head slot (R75). -/
def execFifoPop (s : State) : Out :=
  let t := s.op 0
  let r := s.op 1
  match (s.tl.fifoReqs.getD (t * 8 + r) []).find? (fun q => !q.push && (tileDead s t || popReady s q.drawer t r)) with
  | none => .next s
  | some q =>
    let s := fifoDone s (t * 8 + r) q
    match q.who with
    | .core c id => .next (fifoCore s c id)
    | .slot c n =>
      match fifoHeadToken s t r with
      | (.ok bs, s, side) => .next (fifoSlotDone (fifoAdvance s q.drawer t r) c n (some (poppedToken bs side)))
      | (.fault e, s, _) => .next (fifoSlotHeld s c n e false)
      | (.wait, s, _) => .next s
    | .gen c g =>
      match fifoHeadToken s t r with
      | (.ok bs, s, side) => .next (fifoGenDone (fifoAdvance s q.drawer t r) c g (some (poppedToken bs side)))
      | (.fault e, s, _) => .next (fifoGenFault (if tileDead s t then s else fifoAdvance s q.drawer t r) c g e)
      | (.wait, s, _) => .next s

end Sys2Proof.Machine
end

