-- ==== Sys2Proof/Machine/Sections.lean ====
section
/-! DEFINITION. The course of a section (R211, R219 to R222, R426, R427): STOP_EDGE_REQUEST, SECTION_CUT, SECTION_IDLE. -/
namespace Sys2Proof.Machine

/-- The E7 wants a stop edge of a section: for a context save, a checkpoint cut, or a swath change (R221, R155, R429). -/
def stopWanted (s : State) (k : Nat) : Bool :=
  let x := getSec s k
  x.state == .armed && ((getCtx s (k / 64)).state == .saving
    || (match s.eng.ckpt with | some c => !c.cutDone | none => false) || onLeavingDie s x)

/-- STOP_EDGE_REQUEST of section `ops`[0] (R220, R221). -/
def execStopEdgeRequest (s : State) : Out :=
  let k := s.op 0
  let x := getSec s k
  if stopWanted s k && sourcesPassed s k then
    .next (setSec s k { x with state := .stopping, edges := x.edges + 1, stopAt := some (x.edges + 1) })
  else .next s

/-! ### Units at the edge, units that are done -/

/-- Every latch that a slot's operation reads has a producer. -/
def slotFed (s : State) (t : Tid) (n : Nat) (i : Instr) : Bool :=
  let b := boundLatches s t none none
  (!(readsOf i).1 || b.contains (n * 4 + 1)) && (!(readsOf i).2 || b.contains (n * 4 + 2))

/-- A slot that markers reach. -/
def slotCounts (s : State) (t : Tid) (n : Nat) (x : Slot) : Bool :=
  match decodeElem x.word with
  | .error _ => false
  | .ok .mwin => false
  | .ok i => slotFed s t n i

/-- A slot has passed a number of edges, or EOS. -/
def slotAt (n : Nat) (x : Slot) : Bool := x.ended || n ≤ x.edge

/-- An operator unit with a record of its own. -/
def unitCounts (x : OpUnit) : Bool := recKind x.recd != 0

/-- A stream has passed a number of edges, or its end. -/
def genAt (n : Nat) (g : Gen) : Bool :=
  match g.run with
  | none => true
  | some r => n ≤ r.edge || r.endSeen || (r.srcDone && !patWrite r.words)

/-- Every unit of a section is at an edge (R220, R221). -/
def allAt (s : State) (k n : Nat) : Bool :=
  let x := getSec s k
  s.fab.slots.all (fun e => !x.tiles.contains (e.1 / 64) || !slotCounts s (e.1 / 64) (e.1 % 64) e.2 || slotAt n e.2) &&
  s.fab.opunits.all (fun e => !x.tiles.contains (e.1 / 4) || !unitCounts e.2
    || ((e.2.eosOut || n ≤ e.2.edge) && returned s (e.1 / 4) (e.1 % 4) e.2 n)) &&
  s.fab.gens.all (fun e => !x.tiles.contains (e.1 / 4) || genAt n e.2)

/-- A sink slot: it takes tokens and sends none (R214). -/
def sinkSlot (s : State) (t : Tid) (n : Nat) (x : Slot) : Bool :=
  slotCounts s t n x && x.word.toNat % 2 ^ 20 == 0 && x.opcode != 0x54

/-- Every sink has absorbed EOS, and every CARRY, whose return inputs absorb it, has ended; a section without sink slots and write
streams is done when every unit has passed EOS (R219, R351, R359). -/
def sinksDone (s : State) (k : Nat) : Bool :=
  let x := getSec s k
  let sl := s.fab.slots.filter (fun e => x.tiles.contains (e.1 / 64) && sinkSlot s (e.1 / 64) (e.1 % 64) e.2)
  let gs := s.fab.gens.filter (fun e => x.tiles.contains (e.1 / 4) && !e.2.words.isEmpty && patWrite e.2.words)
  if sl.isEmpty && gs.isEmpty then
    s.fab.slots.all (fun e => !x.tiles.contains (e.1 / 64) || !slotCounts s (e.1 / 64) (e.1 % 64) e.2 || e.2.ended) &&
    s.fab.opunits.all (fun e => !x.tiles.contains (e.1 / 4) || !unitCounts e.2 || unitEnded s (e.1 / 4) (e.1 % 4) e.2) &&
    s.fab.gens.all (fun e => !x.tiles.contains (e.1 / 4) || e.2.run.isNone)
  else
    s.fab.opunits.all (fun e => !x.tiles.contains (e.1 / 4) || recKind e.2.recd != 4 || unitEnded s (e.1 / 4) (e.1 % 4) e.2) &&
    sl.all (fun e => e.2.ended) && gs.all (fun e => match e.2.run with | some r => r.endSeen | none => true)

/-- SECTION_IDLE of section `ops`[0]: armed, and EOS absorbed at every sink (R211, R219); the element ports' binding ends
(R341). -/
def execSectionIdle (s : State) : Out :=
  let k := s.op 0
  let x := getSec s k
  if x.state = .armed ∧ x.tiles ≠ [] ∧ sinksDone s k = true then
    .next (unbind (setSec s k { x with state := .idle }) (k / 64) (secBinder k))
  else .next s

/-! ### The cut (R221, R426, R427) -/

/-- Tiles that a section's matrix slots have performed, at least (R216). -/
def leastTiles (s : State) (x : Section) : Nat :=
  let ts := (s.fab.slots.filter (fun e => x.tiles.contains (e.1 / 64) && 0x70 ≤ e.2.opcode && e.2.opcode ≤ 0x76
    && e.2.opcode != 0x74)).map (fun e => e.2.tiles)
  match ts with
  | [] => 0
  | a :: l => l.foldl min a

/-- The entries of a table that belong to a section's tiles. -/
def secPart {α : Type} (x : Section) (w : Nat) (m : SMap α) : SMap α := m.filter (fun e => x.tiles.contains (e.1 / w))

/-- What a section's cut keeps (R221, R426): the tile counters count from the remaining count. -/
def cutOf (s : State) (k : Nat) : SavedCtx :=
  let x := getSec s k
  let done := leastTiles s x
  { ctx := k / 64, secs := [(k, x)]
    slots := (secPart x 64 s.fab.slots).map (fun e => (e.1, { e.2 with tiles := e.2.tiles - done }))
    gens := secPart x 4 s.fab.gens, opunits := secPart x 4 s.fab.opunits, bufs := secPart x 128 s.fab.bufs,
    frags := secPart x 1 s.fab.frags, ingress := secPart x 1 s.fab.ingress, switch := secPart x 64 s.fab.switch,
    regions := [], bytes := [], barriers := [], cmds := [], swaths := [], recs := [], parked := [], retiring := [], launches := [] }

/-- Bytes of a section's save area, and those of them that its cut uses: how many the spec leaves open (R427; log 35). -/
def saveAreaSize (x : Section) : Nat := 64 + 65536 * (arrayTiles x).length + 32768 * (x.tiles.length - (arrayTiles x).length)
def areaUsed (s : State) (x : Section) : Nat := 64 + (Sys2Proof.Config.openWord s.free).toNat % (saveAreaSize x - 63)

/-- The header of a cut (R427): SIZE is the E7's own, a free value. -/
def cutHeader (s : State) (k : Nat) : List Byte :=
  let x := getSec s k
  bytesOf 8 (2 ^ 63 + k % 64) ++ bytesOf 8 (x.tcount - leastTiles s x) ++ bytesOf 8 (areaUsed s x)
    ++ bytesOf 8 (x.cut.getD s.clk.dtime) ++ List.replicate 32 0

/-- Write `n` blocks of 64 bytes that the spec gives no values for, up to the first cause (R427, R430). -/
def areaWrite (put : State → Nat → List Byte → Res (List Byte) × State) (s : State) (at_ : Nat) : Nat → Res Unit × State
  | 0 => (.ok (), s)
  | n + 1 =>
    match put s at_ ((List.range 64).map (fun i => Sys2Proof.Config.freeByte (s.free + i))) with
    | (.fault e, s) => (.fault e, s)
    | (.wait, s) => (.wait, s)
    | (.ok _, s) => areaWrite put { s with free := s.free + 64 } (at_ + 64) n

/-- Write a section's cut to its save area: what the area keeps of the rest, then the header that makes it valid (R426, R427). -/
def storeCut (s : State) (k : Nat) : Res Unit × State :=
  let x := getSec s k
  let who := { Who.self (k / 64) 6 (originOf x) with force := true }
  let hd := cutHeader s k
  match areaWrite (fun s a bs => writeVA s who (BitVec.ofNat 64 a) bs) { s with free := s.free + 1 } (x.area.toNat + 64)
      ((areaUsed s x + 63) / 64 - 1) with
  | (.ok _, s) =>
    (match writeVA s who x.area hd with
     | (.ok _, s) => (.ok (), s)
     | (.fault e, s) => (.fault e, s)
     | (.wait, s) => (.wait, s))
  | r => r

/-- The cut is on record under its context and save area (log 35). -/
def keepCut (s : State) (k : Nat) : State :=
  let x := getSec s k
  { s with cuts := s.cuts.filter (fun c => !(c.1 == k / 64 && c.2.1 == x.area)) ++ [(k / 64, x.area, cutOf s k)] }

/-- A save that a fault diverts to the fallow reserve, of which the host is told; a full reserve loses the context (R427, R430;
log 107). -/
def divertSave (s : State) (ctx launch : Nat) : State :=
  let full := Sys2Proof.Config.reserveFull s.free
  let s := { s with free := s.free + 1 }
  if full then loseContext s ctx true
  else hostEvent (setCtx s ctx { getCtx s ctx with div := true }) Cause.savefault ctx launch 0 0

/-- Disarm a section whose cut has been taken for a swath change: SECWAIT answers WITHDRAWN (R222, R290). -/
def withdrawSec (s : State) (k : Nat) : State :=
  let cores := s.cores
  let s := disarmSec s k
  setSec { s with cores := cores } k { getSec s k with withdrawn := true }

/-- A section whose cut has been taken is stopped; one on a die that leaves its swath is disarmed (R211, R222). -/
def sectionStopped (s : State) (k : Nat) : State :=
  let x := getSec s k
  let s := unbind (setSec s k { x with state := .stopped }) (k / 64) (secBinder k)
  if onLeavingDie s x then withdrawSec s k else s

/-- SECTION_CUT of section `ops`[0]: every unit is at the stop edge, and the cut is written to the save area (R211, R221, R222,
R426, R427); a section that was stopped before its die began to leave is disarmed (R222). -/
def execSectionCut (s : State) : Out :=
  let k := s.op 0
  let x := getSec s k
  match x.state, x.stopAt with
  | .stopping, some n =>
    if !allAt s k n then .next s
    else
      let s := setSec s k { x with cut := some (x.cut.getD s.clk.dtime) }
      match storeCut s k with
      | (.wait, s) => .next s
      | (.ok _, s) => .next (sectionStopped (keepCut s k) k)
      | (.fault _, s) =>
        let s := divertSave (keepCut s k) (k / 64) x.launch
        .next (if (getCtx s (k / 64)).state = .killed then s else sectionStopped s k)
  | .stopped, _ => .next (if onLeavingDie s x then withdrawSec s k else s)
  | _, _ => .next s

end Sys2Proof.Machine
end

