-- ==== Sys2Proof/Machine/Residency.lean ====
section
/-! DEFINITION. Residency (R44 to R59, R106, R150 to R153): LINE_ENTRY_WRITEBACK, FORWARDED_ACCESS, HEAT_WINDOW_END, TIER_MOVE,
TIER_MOVE_COMMIT, PULL_REQUEST, OWNERSHIP_MOVE_COMPLETE, SHARER_REGISTER, SHARER_UPDATE. -/
namespace Sys2Proof.Machine

/-! ### Write queue -/

/-- LINE_ENTRY_WRITEBACK of line `ops`[0] (R106). -/
def execLineEntryWriteback (s : State) : Out :=
  match s.st.lineQ.get? (s.op 0) with
  | none => .next s
  | some e => .next (writeBackLine s (s.op 0) e)

/-! ### Accesses from other modules (R45) -/

/-- JOIN after a signal (R202). -/
def joinLess (old : List Byte) : List Byte :=
  let w := ofBytes old
  bytesOf 8 (if w % 2 ^ 24 = 0 then w else w - 1)

/-- What a forwarded atomic or reduction does with the old bytes: its function's code and operands; 32 for JCNT, 33 for a
signal, 34 for SPAWN's word 5. -/
def remoteFn (n : Nat) (what : List Nat) (old : List Byte) : List Byte :=
  let b := nth 0 what 1
  match nth 0 what 0 with
  | 32 => bytesOf 8 (jcntNew (ofBytes old) (BitVec.ofNat 64 b))
  | 33 => joinLess old
  | 34 => bytesOf 8 (placeWord (ofBytes old) b (nth 0 what 2))
  | fn => bytesOf n (combine fn n (ofBytes old) b (nth 0 what 2)).1

/-- The access of a forward. -/
def Forward.mop (f : Forward) : MOp :=
  match f.op with
  | 0 => .read f.len
  | 1 => .write f.bytes
  | _ => .rmw f.len (f.op == 3) f.what (remoteFn f.len f.what)

/-- Answer a forwarded access: cause, then bytes. -/
def answerForward (s : State) (f : Forward) (c : Cause) (bs : List Byte) : State :=
  sendFrom s (portTile f.ia) f.node 1 ([10, f.key, c.toNat] ++ bs.map (·.toNat))

/-- Send a forwarded access on to another node, whole. -/
def passForward (s : State) (f : Forward) (node : Nat) : State :=
  if linkUp s (portTile f.ia) node then
    sendFrom s (portTile f.ia) node 0 ([11, f.hops + 1, f.op, f.ia, f.key, f.node, f.cls, f.starve.toNat, tselOf f.tile, f.len]
      ++ f.bytes.map (fun b => match b with | some v => v.toNat | none => 256) ++ f.what)
  else answerForward s f Cause.unreach []

/-- Where a forward goes whose page is remote here too (R45): none where the directory holds it, or where the page is about to
become this node's own (R58). -/
def nextNode (s : State) (f : Forward) (e : TEntry) : Option (Except Cause Nat) :=
  if moveHolds s e.page then none
  else if f.hops < 2 then some (.ok (leafNode e.w1))
  else if !leafDir e.w0 then some (.error Cause.unreach)
  else if leafHome e.w1 ≠ s.boot.node then some (.ok (leafHome e.w1))
  else match dirOf s (f.ia / 65536) with
    | none => some (.error Cause.unreach)
    | some d => if d.moving then none else some (.ok d.owner)

/-- FORWARDED_ACCESS: the oldest access from another module reaches its home port here: it is performed, forwarded once more,
or ends in a cause (R45). -/
def execForwardedAccess (s : State) : Out :=
  match s.xl.forwards with
  | [] => .next s
  | f :: rest =>
    let take (s : State) : State := { s with xl := { s.xl with forwards := rest } }
    match lookupPage s f.ia f.cls with
    | (.error c, s) => .next (answerForward (take s) f c [])
    | (.ok e, s) =>
      if leafTier e.w0 = 2 then
        match nextNode s f e with
        | none => .next s
        | some (.ok n) => .next (passForward (take s) f n)
        | some (.error c) => .next (answerForward (take s) f c [])
      else
        let who : Who := ⟨0, 5, f.tile, agentKey 6 0, none, false, none, false, false, some f.node, none, f.starve⟩
        match iaPerform s who f.ia f.cls f.mop with
        | (.ok bs, s) => .next (answerForward (take (if f.starve then pageStarve s e.page (s.clk.cycle - f.since) else s)) f 0 bs)
        | (.fault c, s) => .next (answerForward (take s) f c [])
        | (.wait, s) => .next s

/-! ### Frame pools (R152, R153) -/

/-- COUNT, HEAD and SIZE of a pool. -/
def poolCount (s : State) (p : Nat) : Nat := bitsOf (nth 0 s.xl.fpb p) 62 42
def poolHead (s : State) (p : Nat) : Nat := bitsOf (nth 0 s.xl.fpb p) 41 22
def poolSize (s : State) (p : Nat) : Nat := bitsOf (nth 0 s.xl.fpb p) 20 0

/-- Storage key of ring entry i of a pool. -/
def poolKey (s : State) (p i : Nat) : Nat :=
  let a := nth 0 s.xl.fpa p
  localKey (bitsOf a 1 0) (bitsOf a 39 12 * 4096 + 4 * i)

/-- Replace FPB of a pool. -/
def setFpb (s : State) (p : Nat) (w : Word) : State := { s with xl := { s.xl with fpb := setNth s.xl.fpb p w } }

/-- Take the frame at HEAD, if the pool has one (R153). -/
def poolTake (s : State) (p : Nat) : Option (Nat × State) :=
  if poolCount s p = 0 then none
  else
    let f := ofBytes (physGets s (poolKey s p (poolHead s p)) 4) % 2 ^ 24
    let w := nth 0 s.xl.fpb p
    let w := withBits (withBits w 41 22 ((poolHead s p + 1) % max (poolSize s p) 1)) 62 42 (poolCount s p - 1)
    some (f, setFpb s p w)

/-- Append a frame, or none where the pool is full (R152). -/
def poolAppend (s : State) (p f : Nat) : Option State :=
  if poolCount s p = poolSize s p then none
  else
    let i := (poolHead s p + poolCount s p) % max (poolSize s p) 1
    let s := physSets s (poolKey s p i) (bytesOf 4 f)
    some (setFpb s p (withBits (nth 0 s.xl.fpb p) 62 42 (poolCount s p + 1)))

/-- Pool of a frame: its stack, or 12 and its channel (R152). -/
def poolOfFrame (tier f : Nat) : Nat := (if tier = 0 then 0 else 12) + f / 2 ^ 20

/-- Give a frame back; a full pool loses it, and the host is told (R153). -/
def poolReturn (s : State) (tier f : Nat) : State :=
  match poolAppend s (poolOfFrame tier f) f with
  | some s => s
  | none => hostEvent s Cause.poolbad 0 0 0 0

/-- Pool of a page's home port: its HBM4 stack, or its LPDDR-6 channel (R16, R53, R152). -/
def portPool (page : Nat) : Nat :=
  match portMem (page % 64) with
  | .hbm stack _ => stack
  | .lpddr c => 12 + c

/-- Pools tried for a frame, in order (R53): the named one, or for a promotion the port's own stack, if it has one, then the others rising. -/
def poolOrder (tier pool page : Nat) : List Nat :=
  if pool ≠ 255 then [pool]
  else if tier = 0 then
    (List.range 12).filter (· == portPool page) ++ (List.range 12).filter (· != portPool page)
  else rangeFrom 12 16

/-- The first frame of a list of pools. -/
def takeFrame (s : State) : List Nat → Option (Nat × State)
  | [] => none
  | p :: ps => match poolTake s p with
    | some x => some x
    | none => takeFrame s ps

/-! ### Heat and nominations (R51, R52) -/

/-- Heat of a page in the window (R51). -/
def heatOf (s : State) (e : TEntry) : Nat := e.starve + e.deliv * 2 ^ bitsOf s.xl.heatcfg 59 56

/-- A leaf that may be nominated (R52). -/
def nominable (e : TEntry) : Bool :=
  !leafPin e.w0 && !e.cls3 && e.level == 3 && (leafTier e.w0 == 1 || (leafTier e.w0 == 2 && leafDir e.w0))

/-- Put an entry into a list sorted by falling heat. -/
def insertHot (x : Nat × TEntry) : List (Nat × TEntry) → List (Nat × TEntry)
  | [] => [x]
  | y :: l => if y.1 < x.1 then x :: y :: l else y :: insertHot x l

/-- Ask HOME for a page (R58). -/
def requestPull (s : State) (page : Nat) (home : Nat) (node : Nat) : State :=
  if home = s.boot.node then { s with xl := { s.xl with pulls := s.xl.pulls ++ [⟨page, node, false, true, none⟩] } }
  else sendNode s home 0 [9, page, node]

/-- Nominate a page: a far one for a promotion, a remote one by a pull request; a checkpoint drops nominations (R52, R58,
R155). -/
def nominate (s : State) (e : TEntry) : State :=
  if s.eng.ckpt.isSome then s
  else if leafTier e.w0 = 2 then requestPull s e.page (leafHome e.w1) s.boot.node
  else { s with xl := { s.xl with noms := s.xl.noms ++ [⟨e.page, 0, 255⟩] } }

/-- A cached entry at the end of a window: colder or not, counters cleared (R52). -/
def windowed (s : State) (e : TEntry) : TEntry :=
  let cold := leafTier e.w0 == 0 && decide (heatOf s e < bitsOf s.xl.heatcfg 23 8 * 256)
  { e with deliv := 0, starve := 0, cold := if cold then e.cold + 1 else 0 }

/-- HEAT_WINDOW_END of port `ops`[0], every 2^20 cycles (R52). -/
def execHeatWindowEnd (s : State) : Out :=
  let p := s.op 0
  let w := s.clk.cycle / 2 ^ 20
  if 64 ≤ p || w ≤ s.xl.heatWin.getD p 0 then .next s
  else
    let s := { s with xl := { s.xl with heatWin := s.xl.heatWin.set p w } }
    if !bitOf s.xl.heatcfg 63 then .next s
    else
      let mine := (s.xl.tcache.filter (fun e => e.1 % 64 == p)).map (·.2)
      let hot := (mine.filter (fun e => nominable e &&
        decide ((if leafTier e.w0 = 2 then bitsOf s.xl.heatcfg 55 40 else bitsOf s.xl.heatcfg 39 24) * 256 ≤ heatOf s e))).foldl
          (fun l e => insertHot (heatOf s e, e) l) []
      let s := ((hot.take 16).map (·.2)).foldl nominate s
      .next { s with xl := { s.xl with tcache := s.xl.tcache.map (fun e => if e.1 % 64 = p then (e.1, windowed s e.2) else e) } }

/-! ### Tier moves (R53 to R55) -/

/-- R55 allows a move now: fewer than two in the last 2^24 cycles, as the stamps say. -/
def stampsAllow (s : State) (w1 : Word) : Bool :=
  17 ≤ (s.clk.cycle / 2 ^ 20 % 256 + 256 - bitsOf w1 7 0) % 256

/-- Set the moving mark of a cached page. -/
def setMoving (s : State) (page : Nat) (b : Bool) : State :=
  match s.xl.tcache.get? page with
  | some e => { s with xl := { s.xl with tcache := s.xl.tcache.set page { e with moving := b } } }
  | none => s

/-- Start a move of a page into a frame (R54, step 1). -/
def startMove (s : State) (e : TEntry) (tier frame : Nat) (dst : Option Nat) : State :=
  setMoving { s with xl := { s.xl with
    moves := s.xl.moves ++ [⟨e.page, frame, tier, leafFrame e.w0, leafTier e.w0, dst, 0⟩] } } e.page true

/-- Drop the nominations of a page. -/
def dropNoms (s : State) (page : Nat) : State :=
  { s with xl := { s.xl with noms := s.xl.noms.filter (fun n => n.page != page) } }

/-- The cached near page that has been cold longest, for at least DWIN windows (R53). -/
def coldest (s : State) : Option TEntry :=
  ((s.xl.tcache.map (·.2)).filter (fun e => leafTier e.w0 == 0 && nominableCold e && !e.moving
    && decide (bitsOf s.xl.heatcfg 7 4 ≤ e.cold) && 0 < e.cold)).foldl (fun best e => match best with
      | none => some e
      | some b => if b.cold < e.cold then some e else some b) none
where
  /-- A page that may be moved at all. -/
  nominableCold (e : TEntry) : Bool := !leafPin e.w0 && !e.cls3 && e.level == 3

/-- A near page can be demoted now: R55 allows it and a far frame is free (R53). -/
def demotable (s : State) (e : TEntry) : Bool := stampsAllow s e.w1 && (takeFrame s (poolOrder 1 255 e.page)).isSome

/-- A promotion that finds no near frame: a cold page's frame is freed for it first, else its nomination is dropped (R53). -/
def freeNear (s : State) (page : Nat) : Option State :=
  if s.xl.moves.any (fun m => m.oldTier == 0 && m.newTier == 1) then some s
  else match coldest s with
    | none => none
    | some c =>
      if s.xl.noms.any (fun m => m.page == c.page) then some s
      else if demotable s c && c.page != page then
        some { s with xl := { s.xl with noms := ⟨c.page, 1, 255⟩ :: s.xl.noms } }
      else none

/-- The end of an ownership move is told to HOME, where that is another node: 1 for a move that was abandoned (R58). -/
def tellHome (s : State) (e : TEntry) (abandoned : Nat) : State :=
  if leafHome e.w1 = s.boot.node then s else sendNode s (leafHome e.w1) 0 [22, e.page, abandoned]

/-- HOME gives an ownership move up: MOVING is cleared and a MIGRATE that asked is answered (R58, R151). -/
def giveUpPull (s : State) (page : Nat) : State :=
  match s.xl.dirs.get? page with
  | none => s
  | some d =>
    let s := setDir s { d with moving := false, pulling := none, asker := none }
    match d.asker with
    | some a => sendNode s a.1 1 [10, a.2, 1]
    | none => s

/-- An ownership move that cannot go on is given up at HOME, here or there (R58). -/
def pullFails (s : State) (e : TEntry) : State :=
  if leafHome e.w1 = s.boot.node then giveUpPull s e.page else tellHome s e 1

/-- Number under which the old owner's messages about a page that this node pulls arrive: a line below 512, the generation at
512, word that the other side has given up at 513 (R58; log 73). -/
def pullKey (page i : Nat) : Nat := 3 * 2 ^ 62 + page * 1024 + i

/-- The first answer under a key, taken. -/
def takeReply (k : Nat) : List (Nat × Cause × List Byte) → Option (Cause × List Byte) × List (Nat × Cause × List Byte)
  | [] => (none, [])
  | r :: l =>
    if r.1 = k then (some r.2, l)
    else match takeReply k l with
      | (x, l) => (x, r :: l)

/-- Drop what has come about a page's pull. -/
def dropPullWords (s : State) (page : Nat) : State :=
  { s with xl := { s.xl with replies := s.xl.replies.filter (fun r =>
      decide (r.1 < pullKey page 0) || decide (pullKey page 1024 ≤ r.1)) } }

/-- The old owner's part of an ownership move begins: the page is copied to the requester (R58). -/
def beginSend (s : State) (e : TEntry) (node : Nat) : State :=
  if 2 ≤ leafTier e.w0 || e.level != 3 then pullFails (dropNoms s e.page) e
  else startMove (dropNoms s e.page) e 2 0 (some node)

/-- The requester's part of an ownership move begins: it takes a near frame, and asks the owner for the page (R53, R58). -/
def beginPull (s : State) (e : TEntry) (owner : Nat) : State :=
  match takeFrame s (poolOrder 0 255 e.page) with
  | some (f, s) => sendNode (startMove (dropNoms s e.page) e 0 f none) owner 0 [15, e.page, s.boot.node]
  | none => match freeNear s e.page with
    | some s => s
    | none => pullFails (dropNoms s e.page) e

/-- Begin the move of a nomination: R55, a frame, else a cold page's frame, else the nomination is dropped (R53). A granted
ownership move stands as a nomination at the requester (`tier` 3, `pool` the owner) and then at the owner (`tier` 2, `pool` the
requester), and waits for a move or a checkpoint under way (log 73). -/
def beginMove (s : State) (n : Nomination) : State :=
  match lookupPage s (n.page * 65536) 0 with
  | (.error _, s) => dropNoms s n.page
  | (.ok e, s) =>
    let busy := s.eng.ckpt.isSome || (moveOf s n.page).isSome
    if n.tier = 2 then (if busy then s else beginSend (dropPullWords s n.page) e n.pool)
    else if n.tier = 3 then
      (if busy then s else if leafTier e.w0 = 2 then beginPull (dropPullWords s n.page) e n.pool
       else pullFails (dropNoms s n.page) e)
    else if busy || leafTier e.w0 = n.tier || 2 ≤ leafTier e.w0 || leafPin e.w0 || e.level != 3 || !stampsAllow s e.w1 then
      dropNoms s n.page
    else match takeFrame s (poolOrder n.tier n.pool n.page) with
      | some (f, s) => startMove (dropNoms s n.page) e n.tier f none
      | none =>
        if n.tier ≠ 0 ∨ n.pool ≠ 255 then dropNoms s n.page
        else match freeNear s n.page with
          | some s => s
          | none => dropNoms s n.page

/-- Replace a move. -/
def setMove (s : State) (m : Move) : State :=
  { s with xl := { s.xl with moves := s.xl.moves.map (fun x => if x.page = m.page then m else x) } }

/-- End a move without effect (R54): its new frame returns to its pool. -/
def stopMove (s : State) (m : Move) : State :=
  let s := { s with xl := { s.xl with moves := s.xl.moves.filter (fun x => x.page != m.page) } }
  setMoving (dropPullWords (if m.toNode.isSome then s else poolReturn s m.newTier m.newFrame) m.page) m.page false

/-- Abandon a move: the host is told the cause (log 72), and of an ownership move HOME and the other side are (R58). -/
def abandonMove (s : State) (m : Move) (c : Cause) : State :=
  let s := hostEvent (stopMove s m) c 0 0 0 (BitVec.ofNat 64 (m.page * 65536))
  match s.xl.tcache.get? m.page, m.toNode with
  | some e, some n => pullFails (sendNode s n 0 [22, m.page, 1]) e
  | some e, none => if m.oldTier = 2 then pullFails (sendNode s (leafNode e.w1) 0 [22, m.page, 1]) e else s
  | none, _ => s

/-- Key tag of a page's leaf, or 0 where its slot is empty (R44). -/
def pageTag (s : State) (page : Nat) : Nat :=
  match s.xl.tcache.get? page with
  | some e => (s.boot.keys.get? (leafKeyid e.w1)).getD 0
  | none => 0

/-- A moved line is stored whole under its page's key, good (R44, R54). -/
def putLine (s : State) (k tag : Nat) (bs : List Byte) : State :=
  physSets { s with st := { s.st with lineBad := s.st.lineBad.filter (· != k / 128), lineKey := s.st.lineKey.set (k / 128) tag } }
    k bs

/-- The oldest line of a pulled page that has come and may be stored: the next one, or an update of one stored before (R58). -/
def nextLine (s : State) (m : Move) : Option (Nat × List Byte) :=
  (s.xl.replies.find? (fun r => decide (pullKey m.page 0 ≤ r.1) && decide (r.1 ≤ pullKey m.page (min m.copied 511)))).map
    (fun r => (r.1 - pullKey m.page 0, r.2.2))

/-- No link leads to the owner of a page that this node pulls any more (R433, R462). -/
def pullerCut (s : State) (m : Move) : Bool :=
  match s.xl.tcache.get? m.page with
  | some e => !reachable s (leafNode e.w1)
  | none => true

/-- Store the next line of a page that this node pulls; an end that the old owner has given up ends the move here (R58). -/
def pullLine (s : State) (m : Move) : State :=
  if (findReply s (pullKey m.page 513)).isSome then stopMove s m
  else match nextLine s m with
    | none => if pullerCut s m then abandonMove s m Cause.unreach else s
    | some (i, bs) =>
      let s := { s with xl := { s.xl with replies := (takeReply (pullKey m.page i) s.xl.replies).2 } }
      let s := putLine s (localKey m.newTier (m.newFrame * 65536 + i * 128)) (pageTag s m.page) bs
      setMove s { m with copied := max m.copied (i + 1) }

/-- Copy one line of a move (R54, step 2; R58): read under the page's key, and stored or sent as it reads. -/
def copyLine (s : State) (m : Move) : State :=
  if m.oldTier = 2 then pullLine s m
  else
    let k := localKey m.oldTier (m.oldFrame * 65536 + m.copied * 128)
    if lineIsBad s (k / 128) then abandonMove s m Cause.memue
    else if m.toNode.isSome && (findReply s (pullKey m.page 513)).isSome then stopMove s m
    else
      let v := lineValue s (k / 128) (pageTag s m.page)
      let m' := { m with copied := m.copied + 1 }
      match m.toNode with
      | some n => if !reachable s n then abandonMove s m Cause.unreach else setMove (sendNode v.2 n 0 ([12, m.page, m.copied] ++ v.1.map (·.toNat))) m'
      | none => setMove (putLine v.2 (localKey m.newTier (m.newFrame * 65536 + m.copied * 128)) (pageTag s m.page) v.1) m'

/-- TIER_MOVE of page `ops`[0]: a nominated page takes a frame, or a move in progress copies its next line (R53 to R55). -/
def execTierMove (s : State) : Out :=
  match moveOf s (s.op 0) with
  | some m => if m.copied < 512 then .next (copyLine s m) else .next s
  | none =>
    match s.xl.noms.find? (fun n => n.page == s.op 0) with
    | some n => .next (beginMove s n)
    | none => .next s

/-- The words of a leaf after a move: FRAME, TIER, and the stamps of the cached entry moved on, or NODE (R54, step 4; R58). -/
def movedLeaf (s : State) (e : TEntry) (m : Move) (w : Word × Word) : Word × Word :=
  let now := s.clk.cycle / 2 ^ 20 % 256
  match m.toNode with
  | some n => (withBits (withBits w.1 31 8 0) 3 2 2, withBits w.2 63 44 n)
  | none => (withBits (withBits w.1 31 8 m.newFrame) 3 2 m.newTier,
      if m.oldTier = 2 then withBits w.2 63 44 s.boot.node
      else withBits (withBits w.2 7 0 (bitsOf e.w1 15 8)) 15 8 now)

/-- Change fields of a leaf in the cached entry and in memory, each word's other bits as they stand there; a 64 KiB leaf's GEN lies
in word 0's upper half (R42, R54). -/
def putLeaf (s : State) (e : TEntry) (f : Word × Word → Word × Word) (g : BitVec 32) : State :=
  let f (w : Word × Word) : Word × Word := if e.level = 3 then (withBits (f w).1 63 32 g.toNat, (f w).2) else f w
  let m := f (entryAt s e.entryAddr)
  let c := f (e.w0, e.w1)
  let s := physSets s e.entryAddr (bytesOf 8 m.1.toNat ++ bytesOf 8 m.2.toNat)
  { s with xl := { s.xl with tcache := s.xl.tcache.set e.page { e with w0 := c.1, w1 := c.2, gen := g, moving := false } } }

/-- A move takes effect: the leaf, the generation and the stamps move on, the old frame returns (R54, steps 4 and 5). -/
def commitMove (s : State) (e : TEntry) (m : Move) (g : BitVec 32) : State :=
  let s := putLeaf s e (movedLeaf s e m) g
  let s := { s with xl := { s.xl with moves := s.xl.moves.filter (fun x => x.page != m.page) } }
  if m.oldTier = 2 then s else poolReturn s m.oldTier m.oldFrame

/-- The commit of a page that this node pulls: its generation is the one that came with the page (R50, R58). -/
def commitPull (s : State) (e : TEntry) (m : Move) : State :=
  if (findReply s (pullKey m.page 513)).isSome || (nextLine s m).isSome then pullLine s m
  else match findReply s (pullKey m.page 512) with
    | none => s
    | some g => commitMove (dropPullWords s m.page) e m (BitVec.ofNat 32 (ofBytes (g.2.take 4)))

/-- The commit of a page that this node gives up: the requester is told the generation, old plus one, HOME the end, and this node,
whose entry is a remote one from here, becomes a sharer (R50, R57, R58). -/
def commitSend (s : State) (e : TEntry) (m : Move) (node : Nat) : State :=
  if (findReply s (pullKey m.page 513)).isSome then stopMove s m
  else if !reachable s node then abandonMove s m Cause.unreach
  else
    let g := genNext e.gen
    let s := commitMove (dropPullWords s m.page) e m g
    registerSharer (tellHome (sendNode s node 0 [23, m.page, g.toNat]) e 0) m.page (leafHome e.w1) s.boot.node

/-- TIER_MOVE_COMMIT of page `ops`[0], with every line copied and no line entry left for the page: the new frame or owner
holds from here (R54, R58). -/
def execTierMoveCommit (s : State) : Out :=
  let page := s.op 0
  match moveOf s page, s.xl.tcache.get? page with
  | some m, some e =>
    if m.copied ≠ 512 ∨ s.st.lineQ.any (fun x => x.2.page == page) = true then .next s
    else match m.toNode with
      | some n => .next (commitSend s e m n)
      | none => .next (if m.oldTier = 2 then commitPull s e m else commitMove s e m (genNext e.gen))
  | _, _ => .next s

/-! ### Pod-shared pages (R56 to R59) -/

/-- HOME's conditions for a pull (R58). -/
def pullGranted (s : State) (d : DirEntry) (node : Nat) : Bool :=
  !d.settled && !d.moving && node != d.owner && d.moves ≤ 7 && (d.moves < 2 || d.stamp2 + 2 ^ 24 ≤ s.clk.cycle)

/-- Start a granted ownership move (R58): the requester is told, or begins where it is this node, and asks the owner once it has
a frame; `asker` is the MIGRATE of another node that waits for its end. -/
def startPull (s : State) (d : DirEntry) (node : Nat) (asker : Option (Nat × Nat)) : State :=
  let s := setDir s { d with moving := true, pulling := some node, asker := asker }
  if node = s.boot.node then { s with xl := { s.xl with noms := s.xl.noms ++ [⟨d.page, 3, d.owner⟩] } }
  else sendNode s node 0 [21, d.page, d.owner]

/-- What a request to HOME does (R58, R59, R151): a MIGRATE's first clears SETTLED and MOVES where it asks to, and a pull is
granted or dropped; a MIGRATE is answered. -/
def servePull (s : State) (p : PullReq) : State :=
  let answer (s : State) (c : Nat) : State := match p.asker with
    | some a => sendNode s a.1 1 [10, a.2, c]
    | none => s
  match dirOf s p.page with
  | none => answer s 1
  | some d0 =>
    let d := if p.uns then { d0 with settled := false, moves := 0 } else d0
    let s := if p.uns then setDir s d else s
    if !p.pull then answer s 0
    else if pullGranted s d p.node then startPull s d p.node p.asker
    else answer s 1

/-- PULL_REQUEST `ops` = [page, node] at HOME: the oldest one of a node for a page; a checkpoint drops a port's and holds a
MIGRATE's (R58, R151, R155). -/
def execPullRequest (s : State) : Out :=
  match s.xl.pulls.find? (fun p => p.page == s.op 0 && p.node == s.op 1) with
  | none => .next s
  | some p =>
    if s.eng.ckpt.isSome && p.asker.isSome then .next s
    else
      let s := { s with xl := { s.xl with pulls := s.xl.pulls.erase p } }
      .next (if s.eng.ckpt.isSome then s else servePull s p)

/-- The node's own entry of a page names another owner (R57). -/
def renameOwner (s : State) (page node : Nat) : State :=
  match lookupPage s (page * 65536) 0 with
  | (.error _, s) => s
  | (.ok e, s) => if leafTier e.w0 = 2 then putLeaf s e (fun w => (w.1, withBits w.2 63 44 node)) e.gen else s

/-- The directory entry after an ownership move (R58, step 4). -/
def movedDir (d : DirEntry) (node now : Nat) : DirEntry :=
  { d with
    owner := node, stamp2 := d.stamp1, stamp1 := now, moves := d.moves + 1
    settled := d.settled || d.moves + 1 == 8, moving := false, pulling := none, asker := none }

/-- HOME, where it is the old owner, has given the page up: its own entry names the requester (R58, step 3). -/
def gaveUp (s : State) (d : DirEntry) (node : Nat) : Bool :=
  d.owner != s.boot.node || (match s.xl.tcache.get? d.page with
    | some e => leafTier e.w0 == 2 && leafNode e.w1 == node
    | none => false)

/-- OWNERSHIP_MOVE_COMPLETE of page `ops`[0] at HOME; `ops`[1] is not 0 for a move that was given up (R57, R58). -/
def execOwnershipMoveComplete (s : State) : Out :=
  let page := s.op 0
  match s.xl.dirs.get? page with
  | none => .next s
  | some d =>
    match d.pulling with
    | none => .next s
    | some n =>
      if !d.moving || (moveOf s page).isSome then .next s
      else if s.op 1 ≠ 0 then .next (giveUpPull s page)
      else if !gaveUp s d n then .next s
      else
        let s := setDir s (movedDir d n s.clk.cycle)
        let s := match d.asker with
          | some a => sendNode s a.1 1 [10, a.2, 0]
          | none => s
        .next (d.sharers.foldl (fun s x => if x = s.boot.node then renameOwner s page n else sendNode s x 0 [14, page, n]) s)

/-- SHARER_REGISTER `ops` = [page, node] at HOME: recorded below 64 sharers, else the node is told that it is not (R57). -/
def execSharerRegister (s : State) : Out :=
  let page := s.op 0
  let node := s.op 1
  match dirOf s page with
  | none => .next s
  | some d =>
    if 64 ≤ d.sharers.length ∧ !d.sharers.contains node then .next (sendNode (setDir s d) node 1 [10, registerKey page, 1])
    else .next (recordSharer (setDir s d) d node)

/-- SHARER_UPDATE `ops` = [page, owner]: the sharer rewrites NODE in its cached entry and in memory (R57). -/
def execSharerUpdate (s : State) : Out := .next (renameOwner s (s.op 0) (s.op 1))

end Sys2Proof.Machine
end

