-- ==== Sys2Proof/Machine/Held.lean ====
section
/-! DEFINITION. Held accesses (R415 to R418): WAKE, RETRY_RING_MOVE, THOLD_RETRY, THOLD_POISON and RFILL (R299). -/
namespace Sys2Proof.Machine

/-! ### Units that hold -/

/-- A unit that may hold an access (R413, R415). -/
inductive HUnit where
  | slot (t : Tid) (n : Nat)
  | gen (t : Tid) (g : Nat)
  deriving DecidableEq, Repr

/-- The unit that a tile, a UKIND and a UNIT name (R413). -/
def unitNamed (t : Tid) (ukind unit : Nat) : Option HUnit :=
  match ukind with
  | 0 => if isCore t && decide (unit < 64) then some (.slot t unit)
      else if isMem t && decide (unit < 4) then some (.gen t unit) else none
  | 1 => if isHead t && decide (unit < 4) then some (.gen t unit) else none
  | _ => none

/-- Tile of a unit. -/
def HUnit.tid : HUnit → Tid
  | .slot t _ => t
  | .gen t _ => t

/-- UKIND of a unit. -/
def HUnit.kind : HUnit → Nat
  | .slot _ _ => 0
  | .gen t _ => genKind t

/-- Number of a unit in its tile. -/
def HUnit.num : HUnit → Nat
  | .slot _ n => n
  | .gen _ g => g

/-- The access that a unit holds, with its context. -/
def heldOf (s : State) : HUnit → Option (Nat × Held)
  | .slot t n =>
    match s.fab.tileSec.get? t, (getSlot s t n).held with
    | some k, some h => some (k / 64, h)
    | _, _ => none
  | .gen t g =>
    match (getGen s t g).run with
    | some r => r.held.map (fun h => (r.ctx, h))
    | none => none

/-- Replace what a unit holds. -/
def setHeld (s : State) (u : HUnit) (h : Option Held) : State :=
  match u with
  | .slot t n => setSlot s t n { getSlot s t n with held := h }
  | .gen t g => setGen s t g { getGen s t g with run := (getGen s t g).run.map (fun r => { r with held := h }) }

/-! ### The retry ring (R417) -/

/-- The E7 as it keeps its own records of a context. -/
def ringWho (ctx : Nat) (t : Tid) : Who := { Who.self ctx 7 t with quiet := true }

/-- VA of entry `i` of a context's ring. -/
def ringVA (s : State) (ctx i : Nat) : Word := (getCtx s ctx).tring + BitVec.ofNat 64 (64 * i)

/-- Entry `i` is in use; ringUsed lists 2·i + WR. -/
def ringBusy (c : Ctx) (i : Nat) : Bool := c.ringUsed.any (fun x => x / 2 == i)

/-- The first free entry of a ring of 1,024. -/
def ringFree (c : Ctx) : Option Nat := (List.range 1024).find? (fun i => !ringBusy c i)

/-- Free an entry: V in its word 1 is cleared (R417). -/
def freeRing (s : State) (ctx i : Nat) (t : Tid) : State :=
  let c := getCtx s ctx
  let s := setCtx s ctx { c with ringUsed := c.ringUsed.filter (fun x => x / 2 != i), ringfull := false }
  match readVA s (ringWho ctx t) (ringVA s ctx i + 8) 8 with
  | (.ok bs, s) => (writeVARaw s (ringWho ctx t) (ringVA s ctx i + 8) (bytesOf 8 (ofBytes bs % 2 ^ 63))).2
  | (_, s) => s

/-- Free the wait entry and the ring entry of a held access (R416 to R418). -/
def freeEntries (s : State) (ctx : Nat) (u : HUnit) (h : Held) : State :=
  let s := { s with xl := { s.xl with
    waits := s.xl.waits.filter (fun w => !(w.tid == u.tid && w.ukind == u.kind && w.unit == u.num)) } }
  match h.ring with
  | some i => freeRing s ctx i u.tid
  | none => s

/-- Words 0 to 7 of a ring entry (R417). -/
def ringBytes (u : HUnit) (h : Held) (dtime : Nat) : List Byte :=
  bytesOf 8 (h.va.toNat / 64 * 64)
    ++ bytesOf 8 (2 ^ 63 + h.write.toNat * 2 ^ 62 + u.kind * 2 ^ 56 + u.num * 2 ^ 48 + tselOf u.tid * 2 ^ 32 + h.cause.toNat)
    ++ bytesOf 8 (h.mask.toNat * 2 ^ 48) ++ bytesOf 8 dtime ++ List.replicate 32 0

/-- RINGFULL goes to the host once for each full episode (R417). -/
def ringIsFull (s : State) (ctx : Nat) (t : Tid) : State :=
  let c := getCtx s ctx
  if c.ringfull then s
  else hostEvent (setCtx s ctx { c with ringfull := true }) Cause.ringfull ctx 0 (tselOf t) 0

/-- Move a held access to the ring: the entry, for a write its data, and the wait entry is freed (R417). Where the ring cannot be written
the access stays as it is (log 78). -/
def moveToRing (s : State) (ctx : Nat) (u : HUnit) (h : Held) : State :=
  let c := getCtx s ctx
  if c.tring = 0 then ringIsFull s ctx u.tid
  else match ringFree c with
    | none => ringIsFull s ctx u.tid
    | some i =>
      let who := ringWho ctx u.tid
      let data : Res (List Byte) × State :=
        if h.write then writeVARaw s who (ringVA s ctx i + 65536) (bytesOf 64 h.data.toNat) else (.ok [], s)
      match data with
      | (.ok _, s) =>
        match writeVARaw s who (ringVA s ctx i) (ringBytes u h s.clk.dtime) with
        | (.ok _, s) =>
          let s := freeEntries s ctx u { h with ring := none }
          let c := getCtx s ctx
          setHeld (setCtx s ctx { c with ringUsed := c.ringUsed ++ [2 * i + h.write.toNat], ringfull := false }) u
            (some { h with waitPort := none, ring := some i })
        | (_, s) => s
      | (_, s) => s

/-- An access held at a home port (R415, R416). -/
def atHomePort (h : Held) : Bool := 0x106 ≤ h.cause.toNat && h.cause.toNat ≤ 0x109

/-- RETRY_RING_MOVE of `ops` = [tile, UKIND, UNIT]: it has waited 4,096 cycles, or found no wait entry (R417). -/
def execRetryRingMove (s : State) : Out :=
  match unitNamed (s.op 0) (s.op 1) (s.op 2) with
  | none => .next s
  | some u =>
    match heldOf s u with
    | none => .next s
    | some (ctx, h) =>
      if atHomePort h && h.ring.isNone && (h.waitPort.isNone || decide (h.since + 4096 ≤ s.clk.cycle)) then
        .next (moveToRing s ctx u h)
      else .next s

/-! ### Retry -/

/-- The held access is the oldest line request of a read stream (R88). -/
def frontHeld (r : Stream) : Bool :=
  !patWrite r.words && (match r.inflight with
    | x :: _ => x.held
    | [] => false)

/-- The held access is the merged line write of a write stream (R87). -/
def mergeHeld (r : Stream) : Bool := patWrite r.words && !r.merge.isEmpty

/-- Elements of the oldest line request (R87). -/
def frontRun (r : Stream) : Nat := (runAt r.inflight 0).length

/-- Elements of a line access that is made again are translated anew, up to the first that meets a cause (R416). -/
def retranslate (s : State) (e : GEnv) (r : Stream) (k : AKind) :
    List LineElem → List LineElem × Option (Cause × LineElem × Nat)
  | [] => ([], none)
  | x :: l =>
    match translate s (genWho e r) x.va k with
    | .error c => ([], some (c, x, x.ia))
    | .ok y =>
      if inWindow y.1 then ([], some (Cause.offtile, x, y.1))
      else match retranslate s e r k l with
        | (m, o) => ({ x with ia := y.1, cls := y.2, pi := hasPI s (genWho e r) x.va, since := s.clk.cycle, held := false } :: m, o)

/-- Elements translated anew fall into line requests as before, and into more where they no longer share a line (R87). -/
def splitRuns : List LineElem → List LineElem
  | [] => []
  | [x] => [x]
  | x :: y :: l => x :: (match splitRuns (y :: l) with
    | z :: m => { z with first := z.first || z.ia / 128 != x.ia / 128 || z.cls != x.cls } :: m
    | [] => [])

/-- The oldest line request of a stream takes its path again, translation first; one that meets a cause is held whole, at the
element that met it (R416). -/
def reissueFront (s : State) (t : Tid) (g : Nat) (r : Stream) : State :=
  let e : GEnv := ⟨t, g, 0, false⟩
  match retranslate s e r (if patInv r.words then .inv else .read) (runAt r.inflight 0) with
  | (l, some (c, x, ia)) =>
    let r := { r with inflight := mapRun (l ++ r.inflight.drop l.length) 0 (fun y => { y with held := true }) }
    holdGen s e r c x.va ia false (blockLanes r (runBlock r x.va)) 0
  | (l, none) => setStream s e { r with inflight := splitRuns l ++ r.inflight.drop (frontRun r) }

/-- The merged write of a stream takes its path again, translation first; where an element meets a cause, its block goes to the
front and is held (R416, R417). -/
def reissueMerge (s : State) (t : Tid) (g : Nat) (r : Stream) : State :=
  let e : GEnv := ⟨t, g, 0, false⟩
  match retranslate s e r .write r.merge with
  | (l, some (c, x, ia)) =>
    let m := l ++ r.merge.drop l.length
    let mine (y : LineElem) : Bool := y.va.toNat / 64 == x.va.toNat / 64
    let r := { r with merge := m.filter mine ++ m.filter (fun y => !mine y) }
    let b := mergeBlock r.merge
    holdGen s e r c x.va ia true (blockLanes r b) (BitVec.ofNat 512 (ofBytes ((mergeRow 64 b).map (fun b => b.getD 0))))
  | (l, none) => setStream s e { r with merge := l }

/-- Retry what a unit holds: its entries are freed, and the access is made again (R416, R418). -/
def retryUnit (s : State) (u : HUnit) : State :=
  match heldOf s u with
  | none => s
  | some (ctx, h) =>
    let s := setHeld (freeEntries s ctx u h) u none
    match u with
    | .slot _ _ => s
    | .gen t g =>
      match (getGen s t g).run with
      | some r => if frontHeld r then reissueFront s t g r else if mergeHeld r then reissueMerge s t g r else s
      | none => s

/-- WAKE of `ops` = [tile, UKIND, UNIT]: a wake on its way reaches its issuer (R416). One for an access that has moved to the
ring is ignored (R417). -/
def execWake (s : State) : Out :=
  let w := (s.op 0, s.op 1, s.op 2)
  if !s.xl.wakes.contains w then .next s
  else
    let s := { s with xl := { s.xl with wakes := s.xl.wakes.erase w } }
    match unitNamed (s.op 0) (s.op 1) (s.op 2) with
    | none => .next s
    | some u =>
      match heldOf s u with
      | some (_, h) => .next (if h.ring.isSome then s else retryUnit s u)
      | none => .next s

/-! ### Poison (R418) -/

/-- A read stream past one element. -/
def Stream.passRead (r : Stream) : Stream :=
  if patMode r.words = 1 then { r with e := r.e + 1 } else { r with e := r.e + 1, skips := markAfter r.words r.e }

/-- A write stream past one slot, nothing written for it. -/
def Stream.passWrite (r : Stream) : Stream :=
  if patSp24 r.words then { r with e := r.e + 1, zeros := r.zeros + 1 }
  else match r.inTok with
    | some (tok, j) => { r with inTok := some (tok, j + 1), e := r.e + 1 }
    | none => r

/-- A stream past an index that it is held at: poison elements for a read, slots discarded for a write. -/
def Stream.passIndex (r : Stream) : Stream :=
  match r.coord with
  | none => r
  | some (tok, i) =>
    let n := patLen r.words 0
    let r := { r with coord := some (tok, 2 * (i / 2 + 1)) }
    if patWrite r.words then { r with skips := n } else { r with zeros := n, dead := decide (0 < n) }

/-- Pack `n` poison elements. -/
def Stream.packPoisons (r : Stream) : Nat → Stream
  | 0 => r
  | n + 1 => (r.pack (List.replicate (elemBytes r) 0) true).packPoisons n

/-- A generator's held access is abandoned (R418). -/
def poisonGen (s : State) (t : Tid) (g : Nat) (h : Held) : State :=
  match (getGen s t g).run with
  | none => s
  | some r =>
    let e : GEnv := ⟨t, g, 0, false⟩
    if h.cause = Cause.bound then setStream s e r.passIndex
    else if mergeHeld r then setStream s e { r with merge := r.merge.drop (mergeRun r.merge).length }
    else if patWrite r.words then setStream s e r.passWrite
    else if frontHeld r then
      setStream s e { r with inflight := mapRun r.inflight 0 (fun x => { x with poison := true, held := false }) }
    else if isHead t then
      let r := r.passRead
      setStream s e { r with
        skips := 0, inflight := r.inflight ++ [⟨0, h.va, 0, false, s.clk.cycle, false, true, false, true, r.skips, none⟩] }
    else setStream s e (r.passRead.packPoisons 1)

/-- The latch whose header a decoder holds an access for. -/
def heldHeader (i : Instr) (x : Slot) : Option Pos :=
  let isH (t : Option Token) : Bool := match t with
    | some tok => tok.kind == .header
    | none => false
  if (readsOf i).1 && isH x.l then some .l
  else if (readsOf i).2 && isH x.r then some .r
  else if takesP i && isH x.p then some .p
  else none

/-- A slot's held access is abandoned: a decoder takes its header as refused, MFEED discards the held row, any other slot
takes poison for its operand (R318, R418). -/
def poisonSlot (s : State) (t : Tid) (n : Nat) (h : Held) : State :=
  let x := { getSlot s t n with fills := [] }
  match decodeElem x.word with
  | .error _ => s
  | .ok i =>
    match heldHeader i x with
    | some q => setSlot s t n ((x.setLatch q none).setHdr q (some hdrBad))
    | none =>
      if h.cause = Cause.mshape then
        (if x.cnt / 4 % 2 = 0 then setSlot s t n { x with cnt := x.cnt + 4 }
         else setSlot s t n { x.consume i with cnt := x.cnt % 4 })
      else setSlot s t n { x with l := some (bare .poison) }

/-- Abandon what a unit holds (R418). -/
def poisonUnit (s : State) (u : HUnit) : State :=
  match heldOf s u with
  | none => s
  | some (ctx, h) =>
    let s := setHeld (freeEntries s ctx u h) u none
    match u with
    | .slot t n => poisonSlot s t n h
    | .gen t g => poisonGen s t g h

/-! ### THOLD (R418) -/

/-- The unit of a context that a THOLD value names, if it holds an access and the value is well formed. -/
def tholdUnit (s : State) (ctx : Nat) (v : Word) : Option HUnit :=
  if !zeroBits v 61 48 || !zeroBits v 31 26 || !zeroBits v 15 0 || bitOf v 63 then none
  else match tidOfSel (bitsOf v 47 32) with
    | none => none
    | some t =>
      match unitNamed t (bitsOf v 25 24) (bitsOf v 23 16) with
      | none => none
      | some u =>
        match heldOf s u with
        | some (c, _) => if c = ctx then some u else none
        | none => none

/-- A write of THOLD: retry, poison, or TRAPCFG (R418). -/
def tholdWrite (s : State) (ctx : Nat) (v : Word) : Except Cause State :=
  match tholdUnit s ctx v with
  | none => .error Cause.trapcfg
  | some u => .ok (if bitOf v 62 then poisonUnit s u else retryUnit s u)

/-- THOLD_RETRY: a THOLD write of a context with ACT 0. -/
def execTholdRetry (ctx : Nat) (v : Word) (s : State) : Out :=
  match tholdUnit s ctx v with
  | some u => if bitOf v 62 then .next s else .next (retryUnit s u)
  | none => .next s

/-- THOLD_POISON: a THOLD write of a context with ACT 1. -/
def execTholdPoison (ctx : Nat) (v : Word) (s : State) : Out :=
  match tholdUnit s ctx v with
  | some u => if bitOf v 62 then .next (poisonUnit s u) else .next s
  | none => .next s

/-! ### RFILL (R299, R417) -/

/-- The unit of a context whose access lies in ring entry `i`. -/
def ringUnit (s : State) (ctx i : Nat) : Option HUnit :=
  let slots := (s.fab.slots.filter (fun e => match e.2.held with | some h => h.ring == some i | none => false)).map
    (fun e => HUnit.slot (e.1 / 64) (e.1 % 64))
  let gens := (s.fab.gens.filter (fun e => match e.2.run with
    | some r => (match r.held with | some h => h.ring == some i | none => false)
    | none => false)).map (fun e => HUnit.gen (e.1 / 4) (e.1 % 4))
  (slots ++ gens).find? (fun u => match heldOf s u with | some (c, _) => c == ctx | none => false)

/-- The first element of a list begins a line request. -/
def startRun : List LineElem → List LineElem
  | [] => []
  | x :: l => { x with first := true } :: l

/-- The elements of the oldest line request in the 64-byte block of a VA take their bytes from those given (R417); the others,
before and after them, are requests of their own. -/
def fillFront (r : Stream) (va : Word) (bs : List Byte) : Stream :=
  let run := (runAt r.inflight 0).map (fun y => { y with held := false })
  let mine (y : LineElem) : Bool := y.va.toNat / 64 == va.toNat / 64
  let before := run.takeWhile (fun y => !mine y)
  let rest := run.drop before.length
  let filled := (rest.takeWhile mine).map (fun y =>
    { y with bytes := some ((bs.drop (y.va.toNat % 64)).take (elemBytes r)) })
  { r with inflight := before ++ startRun filled ++ startRun (rest.drop filled.length) ++ r.inflight.drop run.length }

/-- Complete a unit's held access: a read takes its bytes from the 64 given, a write counts as performed (R417). -/
def completeHeld (s : State) (u : HUnit) (bs : List Byte) : State :=
  match heldOf s u with
  | none => s
  | some (ctx, h) =>
    let s := setHeld (freeEntries s ctx u h) u none
    match u with
    | .slot t n =>
      let x := getSlot s t n
      setSlot s t n { x with fills := x.fills ++ [(h.va.toNat / 64, BitVec.ofNat 512 (ofBytes bs))] }
    | .gen t g =>
      match (getGen s t g).run with
      | none => s
      | some r =>
        let e : GEnv := ⟨t, g, 0, false⟩
        if mergeHeld r then setStream s e { r with merge := r.merge.drop (mergeBlock r.merge).length }
        else if h.write then setStream s e r.passWrite else setStream s e (fillFront r h.va bs)

/-- Complete ring entry `i`; where its destination has been disarmed, the entry alone is freed (R299). -/
def completeEntry (s : State) (ctx i : Nat) (t : Tid) (bs : List Byte) : State :=
  match ringUnit s ctx i with
  | some u => completeHeld s u bs
  | none => freeRing s ctx i t

/-- RFILL (R276, R299). -/
def execRfill (a b : Reg) (s : State) : Out :=
  onCore s (fun t c f =>
    if !c.ready [a, b] then s
    else needSys s t c (
      let ctx := f.task.ctx
      let x := getCtx s ctx
      let va := c.gpr a
      let g := c.gpr b
      let off := (va - x.tring).toNat
      let i := off / 64
      if va.toNat % 64 ≠ 0 then trapOpen s t Cause.opalign
      else if x.tring = 0 ∨ 65536 ≤ off ∨ ringBusy x i = false then trapOpen s t Cause.ringbad
      else if x.ringUsed.contains (2 * i + 1) then
        (if g ≠ 0 then trapOpen s t Cause.ringbad
         else
          let s := completeEntry s ctx i t []
          setCore s t (getCore s t).advance)
      else if g.toNat % 64 ≠ 0 then trapOpen s t Cause.ringbad
      else
        let who := coreWho t f (syncKey t)
        if !formReads s c who g 64 then s
        else match readVA s who g 64 with
        | (.fault e, s) => syncTrap s t who (encode (.rfill a b)) va g s.xl.faultVA e
        | (.wait, s) => s
        | (.ok bs, s) =>
          let s := completeEntry s ctx i t bs
          setCore s t (getCore s t).advance))

end Sys2Proof.Machine
end

