-- ==== Sys2Proof/Machine/ControlRegs.lean ====
section
/-! DEFINITION. The control registers (R307 to R310) with their checks (R31, R41, R69, R109, R152, R170, R192, R405, R406, R411,
R418): CRD, CWR, the host's writes of them, TINV_COMPLETE and NUMERIC_WINDOW_END. -/
namespace Sys2Proof.Machine

/-! ### The map (R308) -/

/-- A control register by name. -/
inductive CrName where
  | self | cycle | dtime | nctl
  | necnt (k : Nat) | nectl (k : Nat)
  | tvec | tfbase | tevb | tevp | thcr | tring | trcnt | thold | thend | tpre | tserr
  | wptIa (w : Nat) | wptCtl (w : Nat)
  | range (i j : Nat)
  | bufmap (e j : Nat)
  | region (t : Tid) (w : Nat)
  | mtstat (t : Tid)
  | ptbase | heatcfg | tinva | tinvn
  | fpa (p : Nat) | fpb (p : Nat) | fppush (p : Nat)
  deriving DecidableEq, Repr

/-- A trap register by its place (R405). -/
def trapName (i : Nat) : Option CrName :=
  match i with
  | 0 => some .tvec | 1 => some .tfbase | 2 => some .tevb | 3 => some .tevp | 4 => some .thcr | 5 => some .tring
  | 6 => some .trcnt | 7 => some .thold | 8 => some .thend | 9 => some .tpre | 10 => some .tserr
  | _ => none

/-- A pool register by its place (R152). -/
def poolName (i : Nat) : Option CrName :=
  if 112 ≤ i then none
  else match i % 4 with
    | 0 => some (.fpa (i / 4))
    | 1 => some (.fpb (i / 4))
    | 2 => some (.fppush (i / 4))
    | _ => none

/-- The register of a number; none where the map has none (R307, R308). -/
def crName (n : Nat) : Option CrName :=
  if n = 0 then some .self
  else if n = 1 then some .cycle
  else if n = 2 then some .dtime
  else if n = 8 then some .nctl
  else if 0x10 ≤ n ∧ n < 0x18 then some (.necnt (n - 0x10))
  else if 0x18 ≤ n ∧ n < 0x20 then some (.nectl (n - 0x18))
  else if 0x20 ≤ n ∧ n < 0x40 then trapName (n - 0x20)
  else if 0x40 ≤ n ∧ n < 0x50 then some (if n % 2 = 0 then .wptIa ((n - 0x40) / 2) else .wptCtl ((n - 0x40) / 2))
  else if 0x100 ≤ n ∧ n < 0x130 then some (.range ((n - 0x100) / 3) ((n - 0x100) % 3))
  else if 0x200 ≤ n ∧ n < 0x300 then some (.bufmap ((n - 0x200) / 4) (n % 4))
  else if 0x10000 ≤ n ∧ n < 0x20000 then
    (if isMem ((n - 0x10000) / 16) then some (.region ((n - 0x10000) / 16) (n % 16)) else none)
  else if 0x20000 ≤ n ∧ n < 0x21000 then (if isMem (n - 0x20000) then some (.mtstat (n - 0x20000)) else none)
  else if n = 0x40000 then some .ptbase
  else if n = 0x40001 then some .heatcfg
  else if n = 0x40002 then some .tinva
  else if n = 0x40003 then some .tinvn
  else if 0x40010 ≤ n then poolName (n - 0x40010)
  else none

/-- Readable in user state (R308). -/
def CrName.userReads : CrName → Bool
  | .self | .cycle | .dtime | .nctl | .necnt _ | .nectl _ | .bufmap _ _ | .region _ _ | .mtstat _ => true
  | _ => false

/-- Written by CWR in system state: always, only with PKGP, or never (R307, R308). TRCNT and TSERR are read only (R405). -/
inductive CrWrite where
  | sys | pkg | never
  deriving DecidableEq, Repr

/-- Who may write a register (R308). -/
def CrName.writeBy : CrName → CrWrite
  | .nctl | .necnt _ | .nectl _ | .tvec | .tfbase | .tevb | .tevp | .thcr | .tring | .thold | .thend | .tpre
  | .wptIa _ | .wptCtl _ | .range _ _ | .bufmap _ _ => .sys
  | .tinva | .tinvn | .fppush _ => .pkg
  | _ => .never

/-- The host may write a register that no context writes (R308, R454). -/
def CrName.hostWrites : CrName → Bool
  | .mtstat _ | .ptbase | .heatcfg | .fpa _ | .fpb _ => true
  | n => n.writeBy != .never

/-! ### Reading -/

/-- Word `j` of three. -/
def word3 (r : Word × Word × Word) (j : Nat) : Word := if j = 0 then r.1 else if j = 1 then r.2.1 else r.2.2

/-- Word `j` of four. -/
def word4 (r : Word × Word × Word × Word) (j : Nat) : Word :=
  if j = 0 then r.1 else if j = 1 then r.2.1 else if j = 2 then r.2.2.1 else r.2.2.2

/-- TINVN as it reads: GO is 1 while ports are left (R41). -/
def tinvnRead (s : State) : Word := withBits s.xl.tinvn 63 63 (if s.xl.tinvLeft.isEmpty then 0 else 1)

/-- Word `w` of a tile's descriptors for a context; one of another context is refused (R308). -/
def regionRead (s : State) (ctx : Nat) (t : Tid) (w : Nat) : Except Cause Word :=
  let d := region s t (w / 2)
  if regMode d = 0 then .ok 0
  else if regCtx d ≠ ctx then .error Cause.region
  else .ok (if w % 2 = 0 then d.1 else d.2)

/-- The value of a register of a context; `self` is what SELF reads for the reader. -/
def crGet (s : State) (ctx : Nat) (self : Word) (n : CrName) : Except Cause Word :=
  let c := getCtx s ctx
  match n with
  | .self => .ok self
  | .cycle => .ok (BitVec.ofNat 64 s.clk.cycle)
  | .dtime => .ok (BitVec.ofNat 64 s.clk.dtime)
  | .nctl => .ok c.nctl
  | .necnt k => .ok (nth 0 c.necnt k)
  | .nectl k => .ok (nth 0 c.nectl k)
  | .tvec => .ok c.tvec
  | .tfbase => .ok c.tfbase
  | .tevb => .ok c.tevb
  | .tevp => .ok c.tevp
  | .thcr => .ok c.thcr
  | .tring => .ok c.tring
  | .trcnt => .ok (BitVec.ofNat 64 c.ringUsed.length)
  | .thold | .thend => .ok 0
  | .tpre => .ok c.tpre
  | .tserr => .ok c.tserr
  | .wptIa w => .ok (nth (0, 0) c.wpts w).1
  | .wptCtl w => .ok (nth (0, 0) c.wpts w).2
  | .range i j => .ok (word3 (nth (0, 0, 0) c.ranges i) j)
  | .bufmap e j => .ok (word4 (c.bufmap.getD e (0, 0, 0, 0)) j)
  | .region t w => regionRead s ctx t w
  | .mtstat t => .ok (mtstat s t)
  | .ptbase => .ok s.xl.ptbase
  | .heatcfg => .ok s.xl.heatcfg
  | .tinva => .ok (BitVec.ofNat 64 (bitsOf s.xl.tinva 31 0))
  | .tinvn => .ok (tinvnRead s)
  | .fpa p => .ok (nth 0 s.xl.fpa p)
  | .fpb p => .ok (nth 0 s.xl.fpb p)
  | .fppush _ => .ok 0

/-- What a read of a register leaves behind: TSERR is cleared (R405). -/
def crAfterRead (s : State) (ctx : Nat) (n : CrName) : State :=
  match n with
  | .tserr => setCtx s ctx { getCtx s ctx with tserr := 0 }
  | _ => s

/-- SELF of a firing (R309). -/
def selfWord (s : State) (t : Tid) (c : Core) (f : Firing) : Word :=
  let x := getCtx s f.task.ctx
  BitVec.ofNat 64 (x.tenant % 65536 * 2 ^ 48 + f.task.ctx % 64 * 2 ^ 42 + c.sys.toNat * 2 ^ 41 + x.pkgp.toNat * 2 ^ 40
    + firingClass s t f % 8 * 2 ^ 37 + f.task.launch % 65536 * 65536 + tileY t * 256 + tileX t)

/-- CRD (R307 to R309, R405). -/
def execCrd (a d : Reg) (n : BitVec 6) (s : State) : Out :=
  onCore s (fun t c f =>
    if !c.ready [a, d] then s
    else match crName (c.gpr a + n.setWidth 64).toNat with
      | none => trapOpen s t Cause.crnum
      | some r =>
        if !r.userReads && !c.sys then trapOpen s t Cause.priv
        else
          let s := windowsTo s f.task.ctx
          match crGet s f.task.ctx (selfWord s t c f) r with
          | .error e => trapOpen s t e
          | .ok v => setCore (crAfterRead s f.task.ctx r) t (c.setGpr d v).advance)

/-! ### Checks and effects of writes -/

/-- Two spans of addresses meet. -/
def spansMeet (a n b m : Nat) : Bool := a < b + m && b < a + n

/-- A range register's words are refused (R31); the others are the context's. -/
def rangeBad (others : List (Word × Word × Word)) (r : Word × Word × Word) : Bool :=
  let vb := bitsOf r.1 56 16
  let vl := bitsOf r.2.1 40 0
  let ib := bitsOf r.2.2 47 16
  let win := 15 * 2 ^ 28
  bitOf r.1 0 && (!zeroBits r.1 63 57 || !zeroBits r.1 15 1 || !zeroBits r.2.1 63 41 || !zeroBits r.2.2 63 48
    || !zeroBits r.2.2 11 4 || decide (4 ≤ bitsOf r.2.2 15 12) || vl == 0 || decide (2 ^ 41 < vb + vl) || decide (2 ^ 32 < ib + vl)
    || others.any (fun o => bitOf o.1 0 && spansMeet vb vl (bitsOf o.1 56 16) (bitsOf o.2.1 40 0))
    || (decide (ib < win) && decide (win < ib + vl)) || (decide (win ≤ ib) && bitsOf r.2.2 15 12 != 3)
    || (decide (win ≤ ib) && bitOf r.2.2 1))

/-- Units of a context that hold an access under one of two causes. -/
def heldUnder (s : State) (ctx : Nat) (c1 c2 : Cause) : List (Tid × Nat × Nat) :=
  let is (h : Option Held) : Bool := match h with
    | some h => h.cause == c1 || h.cause == c2
    | none => false
  (s.fab.slots.filter (fun e => is e.2.held && (match s.fab.tileSec.get? (e.1 / 64) with
    | some k => k / 64 == ctx
    | none => false))).map (fun e => (e.1 / 64, 0, e.1 % 64)) ++
  (s.fab.gens.filter (fun e => match e.2.run with
    | some r => r.ctx == ctx && is r.held
    | none => false)).map (fun e => (e.1 / 4, genKind (e.1 / 4), e.1 % 4))

/-- Commit a range register (R30, R31, R33): V = 0 clears it; the accesses held under NOMAP and PERM are woken (R416). -/
def rangeCommit (s : State) (ctx i : Nat) (r : Word × Word × Word) : Except Cause State :=
  let c := getCtx s ctx
  if rangeBad (setNth c.ranges i (0, 0, 0)) r then .error Cause.rangecfg
  else
    let r : Word × Word × Word := if bitOf r.1 0 then r else (0, 0, 0)
    let s := setCtx s ctx { c with ranges := setNth c.ranges i r }
    .ok { s with xl := { s.xl with wakes := s.xl.wakes ++ heldUnder s ctx Cause.nomap Cause.perm } }

/-- A buffer map entry's words are refused (R109). -/
def bufBad (c : Ctx) (e : Nat) (w : Word × Word × Word × Word) : Bool :=
  let va := bitsOf w.1 56 6 * 64
  let n := bitsOf w.2.1 63 32 * 64
  let fr := bitsOf w.2.2.1 47 6 * 64
  let sh := bitsOf w.2.2.2 47 6 * 64
  let win := 15 * 2 ^ 44
  let straddles (a : Nat) : Bool := decide (a < win) && decide (win < a + n)
  bitOf w.1 0 && (!zeroBits w.1 63 57 || !zeroBits w.1 5 1 || !zeroBits w.2.1 15 0 || !zeroBits w.2.2.1 63 48
    || !zeroBits w.2.2.1 5 0 || !zeroBits w.2.2.2 63 48 || !zeroBits w.2.2.2 5 0 || n == 0 || decide (2 ^ 57 < va + n)
    || c.bufmap.any (fun o => o.1 != e && bitOf o.2.1 0
        && spansMeet va n (bitsOf o.2.1 56 6 * 64) (bitsOf o.2.2.1 63 32 * 64))
    || spansMeet fr n sh n || straddles fr || straddles sh || c.bindings.any (fun b => b.entry == e))

/-- Commit a buffer map entry (R109): VER is the E7's own count and stays; reserved bits of an entry that is taken out read as
zero. -/
def bufCommit (s : State) (ctx e : Nat) (w : Word × Word × Word × Word) : Except Cause State :=
  let c := getCtx s ctx
  if bufBad c e w then .error Cause.bufcfg
  else
    let old := c.bufmap.getD e (0, 0, 0, 0)
    let w0 := withBits (withBits w.1 63 57 0) 5 1 0
    let w1 := withBits (withBits w.2.1 31 16 (bitsOf old.2.1 31 16)) 15 0 0
    let ia (x : Word) : Word := BitVec.ofNat 64 (bitsOf x 47 6 * 64)
    .ok (setCtx s ctx { c with bufmap := c.bufmap.set e (w0, w1, ia w.2.2.1, ia w.2.2.2) })

/-- NCTL (R170). -/
def nctlWrite (s : State) (ctx : Nat) (v : Word) : Except Cause State :=
  if !zeroBits v 31 2 then .error Cause.numcfg else .ok (setCtx s ctx { getCtx s ctx with nctl := v })

/-- NECNT_k (R192). -/
def necntWrite (s : State) (ctx k : Nat) (v : Word) : State :=
  let s := windowsTo s ctx
  let c := getCtx s ctx
  setCtx s ctx { c with necnt := setNth c.necnt k v }

/-- NECTL_k (R192). -/
def nectlWrite (s : State) (ctx k : Nat) (v : Word) : Except Cause State :=
  let w := bitsOf v 13 8
  if !zeroBits v 31 14 || !zeroBits v 7 3 || (decide (1 ≤ w) && decide (w ≤ 9)) || decide (40 < w) || bitsOf v 1 0 == 3 then
    .error Cause.numcfg
  else
    let s := windowsTo s ctx
    let c := getCtx s ctx
    .ok (setCtx s ctx { c with nectl := setNth c.nectl k v })

/-- A VA register of R405: zero, or canonical and aligned. -/
def trapVAOk (v : Word) (align : Nat) : Bool := v == 0 || (canonical v && v.toNat % align == 0)

/-- TEVB (R406): HEAD, TAIL and DROPS start again at 0. -/
def tevbPut (s : State) (ctx : Nat) (v : Word) : Except Cause State :=
  let n := bitsOf v 4 0
  if !zeroBits v 63 57 || !zeroBits v 11 5 || (decide (1 ≤ n) && decide (n ≤ 5)) || decide (15 < n) then .error Cause.trapcfg
  else .ok (setCtx s ctx { getCtx s ctx with tevb := v, tevp := 0 })

/-- TEVP (R406): HEAD alone changes. -/
def tevpPut (s : State) (ctx : Nat) (v : Word) : Except Cause State :=
  if !zeroBits v 47 32 then .error Cause.trapcfg
  else
    let c := getCtx s ctx
    .ok (setCtx s ctx { c with tevp := withBits c.tevp 15 0 (bitsOf v 15 0) })

/-- TPRE (R405). -/
def tprePut (s : State) (ctx : Nat) (v : Word) : Except Cause State :=
  if !zeroBits v 63 6 || decide (32 < bitsOf v 5 0) then .error Cause.trapcfg
  else .ok (setCtx s ctx { getCtx s ctx with tpre := v })

/-- THEND of a core's firing (R411): waits for the accesses it has issued, clears the frame's V and ends the firing. -/
def thendPut (s : State) (t : Tid) (v : Word) : Except Cause State :=
  let c := getCore s t
  match c.run with
  | none => .error Cause.trapcfg
  | some f =>
    if !zeroBits v 63 10 || bitsOf v 9 0 == 0 then .error Cause.trapcfg
    else
      let who := { coreWho t f (syncKey t) with force := true }
      let finish (s : State) : State := endFaulted s t (BitVec.ofNat 10 v.toNat) (!f.task.handler)
      if c.frame = 0 then .ok (finish s)
      else match readVA s who c.frame 8 with
        | (.ok bs, s) =>
          match writeVA s who c.frame (bytesOf 8 (ofBytes bs % 2 ^ 63)) with
          | (.ok _, s) => .ok (finish s)
          | (_, s) => .ok (killContext s f.task.ctx Cause.dblfault false)
        | (.wait, s) => .ok s
        | (.fault _, s) => .ok (killContext s f.task.ctx Cause.dblfault false)

/-- MTSTAT as the host writes it (R69): any write clears CECNT; UE by 1; FV and FAILED declare a bank; BFTH is taken. -/
def mtstatPut (s : State) (t : Tid) (v : Word) : Except Cause State :=
  if !zeroBits v 31 24 || !zeroBits v 7 0 || (bitOf v 21 && decide (18 ≤ bitsOf v 20 16)) then .error Cause.hostcfg
  else
    let w := withBits (withBits (mtstat s t) 63 32 0) 15 8 (bitsOf v 15 8)
    let w := if bitOf v 23 then withBits w 23 23 0 else w
    let s := { s with tl := { s.tl with mtstat := s.tl.mtstat.set t w } }
    .ok (if bitOf v 21 && failedBank w != some (bitsOf v 20 16) then declareFailed s t (bitsOf v 20 16) else s)

/-- PTBASE (R37). -/
def ptbasePut (s : State) (v : Word) : Except Cause State :=
  if !zeroBits v 63 40 || !zeroBits v 12 2 || decide (2 ≤ bitsOf v 1 0) then .error Cause.ptebad
  else .ok { s with xl := { s.xl with ptbase := v } }

/-- HEATCFG (R52); a reserved bit set is refused with the cause of PTBASE and KEYLD. -/
def heatcfgPut (s : State) (v : Word) : Except Cause State :=
  if !zeroBits v 62 60 || !zeroBits v 3 0 then .error Cause.ptebad else .ok { s with xl := { s.xl with heatcfg := v } }

/-- TINVN (R41): with GO every home port has the pages of the range as it is now to invalidate; reserved bits that TINVA was
written with are refused here, and read as zero (R4). -/
def tinvnPut (s : State) (v : Word) : Except Cause State :=
  let page := s.xl.tinva.toNat
  let n := bitsOf v 32 0
  if !zeroBits v 62 33 then .error Cause.tinvcfg
  else if !bitOf v 63 then .ok { s with xl := { s.xl with tinvn := v } }
  else if n = 0 ∨ 2 ^ 32 ≤ page ∨ 2 ^ 32 < page + n ∨ 15 * 2 ^ 28 < page + n ∨ s.xl.tinvLeft ≠ [] then .error Cause.tinvcfg
  else .ok { s with xl := { s.xl with tinvn := v, tinvLeft := List.range 64, tinvRun := (s.xl.tinva, v) } }

/-- FPA (R152). -/
def fpaPut (s : State) (p : Nat) (v : Word) : Except Cause State :=
  if !zeroBits v 63 40 || !zeroBits v 11 2 || decide (2 ≤ bitsOf v 1 0) || poolCount s p != 0 then .error Cause.poolbad
  else .ok { s with xl := { s.xl with fpa := setNth s.xl.fpa p v } }

/-- FPB (R152): SIZE is taken; COUNT and HEAD are state, and an empty ring starts at index 0. -/
def fpbPut (s : State) (p : Nat) (v : Word) : Except Cause State :=
  if bitOf v 63 || bitOf v 21 || poolCount s p != 0 || bitsOf v 20 0 == 0 || decide (2 ^ 20 < bitsOf v 20 0) then
    .error Cause.poolbad
  else .ok (setFpb s p (BitVec.ofNat 64 (bitsOf v 20 0)))

/-- FPPUSH (R152). -/
def fppushPut (s : State) (p : Nat) (v : Word) : Except Cause State :=
  let own := if p < 12 then p else p - 12
  if !zeroBits v 63 24 || bitsOf v 23 20 != own then .error Cause.poolbad
  else match poolAppend s p (bitsOf v 23 0) with
    | some s => .ok s
    | none => .error Cause.poolbad

/-- Number of a register's word in its group, from the staging (R310). -/
def stagedWord (l : List (Nat × Word)) (n : Nat) : Word :=
  match l.find? (fun x => x.1 == n) with
  | some x => x.2
  | none => 0

/-- Stage a word. -/
def stageWord (l : List (Nat × Word)) (n : Nat) (v : Word) : List (Nat × Word) := l.filter (fun x => x.1 != n) ++ [(n, v)]

/-- What a write of a register leaves staged: the first words of a group are kept until the last one commits them (R310). -/
def crStage (l : List (Nat × Word)) (n : Nat) (v : Word) : CrName → List (Nat × Word)
  | .wptIa _ => stageWord l n v
  | .wptCtl _ => l.filter (fun x => x.1 != n - 1)
  | .range _ j => if j < 2 then stageWord l n v else l.filter (fun x => x.1 != n - 1 && x.1 != n - 2)
  | .bufmap _ j => if j < 3 then stageWord l n v else l.filter (fun x => x.1 != n - 1 && x.1 != n - 2 && x.1 != n - 3)
  | _ => l

/-- The checked effect of a write of register number `n` of a context, with the writer's staging (R307, R310). -/
def crPut (s : State) (ctx : Nat) (l : List (Nat × Word)) (n : Nat) (v : Word) : CrName → Except Cause State
  | .nctl => nctlWrite s ctx v
  | .necnt k => .ok (necntWrite s ctx k v)
  | .nectl k => nectlWrite s ctx k v
  | .tvec => if trapVAOk v 4 then .ok (setCtx s ctx { getCtx s ctx with tvec := v }) else .error Cause.trapcfg
  | .tfbase => if trapVAOk v 65536 then .ok (setCtx s ctx { getCtx s ctx with tfbase := v }) else .error Cause.trapcfg
  | .tevb => tevbPut s ctx v
  | .tevp => tevpPut s ctx v
  | .thcr => if trapVAOk v 64 then .ok (setCtx s ctx { getCtx s ctx with thcr := v }) else .error Cause.trapcfg
  | .tring => if trapVAOk v 65536 then .ok (setCtx s ctx { getCtx s ctx with tring := v, ringfull := false }) else .error Cause.trapcfg
  | .thold => tholdWrite s ctx v
  | .thend => .error Cause.trapcfg
  | .tpre => tprePut s ctx v
  | .wptIa _ => .ok s
  | .wptCtl w => wptCommit s ctx w (stagedWord l (n - 1)) v
  | .range i j => if j < 2 then .ok s else rangeCommit s ctx i (stagedWord l (n - 2), stagedWord l (n - 1), v)
  | .bufmap e j => if j < 3 then .ok s
      else bufCommit s ctx e (stagedWord l (n - 3), stagedWord l (n - 2), stagedWord l (n - 1), v)
  | .mtstat t => mtstatPut s t v
  | .ptbase => ptbasePut s v
  | .heatcfg => heatcfgPut s v
  | .tinva => .ok { s with xl := { s.xl with tinva := v } }
  | .tinvn => tinvnPut s v
  | .fpa p => fpaPut s p v
  | .fpb p => fpbPut s p v
  | .fppush p => fppushPut s p v
  | .self | .cycle | .dtime | .trcnt | .tserr | .region _ _ => .error Cause.priv

/-- A refused CWR: the register's own refusal is soft, since CWR runs in system state (R307, R412). -/
def cwrApply (s : State) (t : Tid) (c : Core) (ctx n : Nat) (v : Word) (r : CrName) : State :=
  match crPut s ctx c.staged n v r with
  | .error e => softRefuse s t e
  | .ok s => setCore s t { getCore s t with staged := crStage c.staged n v r }.advance

/-- CWR of THEND (R411). -/
def cwrThend (s : State) (t : Tid) (c : Core) (v : Word) : State :=
  if !c.unfin.isEmpty then s
  else match thendPut s t v with
    | .error e => softRefuse s t e
    | .ok s => s

/-- CWR (R276, R307, R308): CRNUM, then PRIV, with the register's number as TVAL (R409). -/
def execCwr (a b : Reg) (n : BitVec 6) (s : State) : Out :=
  onCore s (fun t c f =>
    if !c.ready [a, b] then s
    else
      let k := c.gpr a + n.setWidth 64
      let v := c.gpr b
      match crName k.toNat with
      | none => trapHere s t Cause.crnum k
      | some r =>
        if !c.sys then trapHere s t Cause.priv k
        else match r.writeBy with
          | .never => trapHere s t Cause.priv k
          | .pkg => if (getCtx s f.task.ctx).pkgp then cwrApply s t c f.task.ctx k.toNat v r else trapHere s t Cause.priv k
          | .sys => if r = .thend then cwrThend s t c v else cwrApply s t c f.task.ctx k.toNat v r)

/-! ### The host's writes (R454, R455) -/

/-- A refused host write sets the port's HWSTAT (R455). -/
def hwRefuse (s : State) (port : Bool) (off : Nat) (c : Cause) : State :=
  let w := if port then s.host.hwstatB else s.host.hwstatA
  let w' : Word := if bitOf w 63 then withBits w 62 62 1 else BitVec.ofNat 64 (2 ^ 63 + off % 2 ^ 32 * 1024 + c.toNat)
  { s with host := if port then { s.host with hwstatB := w' } else { s.host with hwstatA := w' } }

/-- What the host does reaches the module unless it stays in reset (R464). -/
def whileUp (s t : State) : Out := .next (if s.boot.held then s else t)

/-- Control-window offset of control register `n` of a context (R454). -/
def crOffset (ctx n : Nat) : Nat := 0x1000000 + 0x400000 * ctx + 8 * n

/-- The words that a port has staged for a context. -/
def hostStaged (s : State) (port : Bool) (ctx : Nat) : List (Nat × Word) :=
  (s.host.staged.filter (fun x => x.1 == 2 * ctx + port.toNat)).map (·.2)

/-- Replace the words that a port has staged for a context. -/
def setStaged (s : State) (port : Bool) (ctx : Nat) (l : List (Nat × Word)) : State :=
  { s with host := { s.host with
    staged := s.host.staged.filter (fun x => x.1 != 2 * ctx + port.toNat) ++ l.map (fun x => (2 * ctx + port.toNat, x)) } }

/-- A host write of a control register of a context: as CWR in system state, and of the registers that the host alone writes
(R454); one of a number that R308 does not assign is discarded; THEND names no firing there (R411). -/
def hostCr (s : State) (port : Bool) (ctx n : Nat) (v : Word) : State :=
  match crName n with
  | none => s
  | some r =>
    if !r.hostWrites then hwRefuse s port (crOffset ctx n) Cause.priv
    else match crPut s ctx (hostStaged s port ctx) n v r with
      | .error e => hwRefuse s port (crOffset ctx n) e
      | .ok s' => setStaged s' port ctx (crStage (hostStaged s port ctx) n v r)

/-- TEVP_WRITE by the host (R406). -/
def execTevpWrite (port : Bool) (ctx : Nat) (v : Word) (s : State) : Out :=
  whileUp s (if ctx < 64 then hostCr s port ctx 0x23 v else s)

/-- TEVB_WRITE by the host (R406). -/
def execTevbWrite (port : Bool) (ctx : Nat) (v : Word) (s : State) : Out :=
  whileUp s (if ctx < 64 then hostCr s port ctx 0x22 v else s)

/-- TSERR_READ by the host (R405): returned, then cleared. -/
def execTserrRead (_port : Bool) (ctx : Nat) (s : State) : Out :=
  if ctx < 64 then
    .next (crAfterRead { s with host := { s.host with reply := (getCtx s ctx).tserr } } ctx .tserr)
  else .next s

/-- RANGE_REGISTER_COMMIT: the host writes IMAP of register `i` (R31, R33, R310). -/
def execRangeRegisterCommit (port : Bool) (ctx i : Nat) (v : Word) (s : State) : Out :=
  whileUp s (if ctx < 64 ∧ i < 16 then hostCr s port ctx (0x102 + 3 * i) v else s)

/-- BUFFER_MAP_COMMIT: the host writes word 3 of entry `e` (R109, R310). -/
def execBufferMapCommit (port : Bool) (ctx e : Nat) (v : Word) (s : State) : Out :=
  whileUp s (if ctx < 64 ∧ e < 64 then hostCr s port ctx (0x203 + 4 * e) v else s)

/-- WATCHPOINT_COMMIT: the host writes the control word of watchpoint `w` (R306, R310). -/
def execWatchpointCommit (port : Bool) (ctx w : Nat) (v : Word) (s : State) : Out :=
  whileUp s (if ctx < 64 ∧ w < 8 then hostCr s port ctx (0x41 + 2 * w) v else s)

/-- TINV: the host writes TINVN (R41). -/
def execTinv (port : Bool) (v : Word) (s : State) : Out := whileUp s (hostCr s port 0 0x40003 v)

/-- FPPUSH by the host (R152). -/
def execFppush (port : Bool) (pool : Nat) (v : Word) (s : State) : Out :=
  whileUp s (if pool < 28 then hostCr s port 0 (0x40012 + 4 * pool) v else s)

/-- MTSTAT_WRITE (R69). -/
def execMtstatWrite (port : Bool) (tid : Tid) (v : Word) (s : State) : Out :=
  whileUp s (if isMem tid then hostCr s port 0 (0x20000 + tid) v else s)

/-- THEND: the firing of a core, in system state, writes THEND (R411). -/
def execThend (tid : Tid) (v : Word) (s : State) : Out :=
  let c := getCore s tid
  if c.run.isSome && c.sys && !c.halted && c.unfin.isEmpty then
    (match thendPut s tid v with
     | .ok s => .next s
     | .error _ => .next s)
  else .next s

/-! ### TINV_COMPLETE (R41) -/

/-- A page lies in the range of the invalidation in progress. -/
def inTinv (s : State) (page : Nat) : Bool :=
  s.xl.tinvRun.1.toNat ≤ page && page < s.xl.tinvRun.1.toNat + bitsOf s.xl.tinvRun.2 32 0

/-- A page's directory entry is read anew after an invalidation, but one whose page moves (R41, R56; log 71). -/
def dropDir (s : State) (page : Nat) : State :=
  match s.xl.dirs.get? page with
  | some d => if d.moving then s else { s with xl := { s.xl with dirs := s.xl.dirs.erase page } }
  | none => s

/-- Steps 2 to 4 for a cached page: its advanced generation is written back and the translation dropped. -/
def tinvCached (s : State) (page : Nat) : State := cacheDrop (pageAdvance s page) page

/-- Step 3 for a page that is not cached: its generation in memory advances, where its leaf gives it one. -/
def tinvUncached (s : State) (page : Nat) : State :=
  match walk s (page * 65536) with
  | .error _ => s
  | .ok l =>
    if leafTier l.1 = 2 then s
    else
      let k := genKey l.1 l.2.2.1 l.2.2.2 page
      physSets s k (bytesOf 4 (genNext (BitVec.ofNat 32 (ofBytes (physGets s k 4)))).toNat)

/-- Invalidate the pages of a port from a page up, 64 pages apart. -/
def tinvPages (s : State) (page : Nat) : Nat → State
  | 0 => s
  | n + 1 =>
    let s := dropDir s page
    tinvPages (if (s.xl.tcache.get? page).isSome then tinvCached s page else tinvUncached s page) (page + 64) n

/-- First page of a port at or above a page. -/
def portFirst (port page : Nat) : Nat := page + (port + 64 - page % 64) % 64

/-- TINV_COMPLETE of port `ops`[0]: once its queue holds no entry for its pages of the range (and no move of one is under
way), it invalidates them and wakes the issuers in its wait entries (R41, R416). -/
def execTinvComplete (s : State) : Out :=
  let p := s.op 0
  if !s.xl.tinvLeft.contains p then .next s
  else
    let mine (page : Nat) : Bool := page % 64 == p && inTinv s page
    if s.st.lineQ.any (fun e => mine e.2.page) || s.xl.moves.any (fun m => mine m.page) then .next s
    else
      let first := portFirst p s.xl.tinvRun.1.toNat
      let last := s.xl.tinvRun.1.toNat + bitsOf s.xl.tinvRun.2 32 0
      let woken := (s.xl.waits.filter (fun w => w.port == p && mine w.page)).map (fun w => (w.tid, w.ukind, w.unit))
      let s := tinvPages s first ((last - first + 63) / 64)
      .next { s with xl := { s.xl with
        tinvLeft := s.xl.tinvLeft.filter (· != p), wakes := s.xl.wakes ++ woken } }

/-- NUMERIC_WINDOW_END of context `ops`[0] (R193). -/
def execNumericWindowEnd (s : State) : Out := .next (if s.op 0 < 64 then windowsTo s (s.op 0) else s)

end Sys2Proof.Machine
end

