-- ==== Sys2Proof/Machine/Engines.lean ====
section
/-! DEFINITION. Engine inboxes (R123 to R138): the checks of a message, its acceptance with the barrier charge, and
ENGINE_INBOX_MESSAGE, ACKNOWLEDGEMENT, INJECTION_RESEND, ENGINE_COMMAND_DRAINED. -/
namespace Sys2Proof.Machine

/-! ### Commands -/

/-- The memory tile whose router holds the engine of a quad (R123). -/
def engTile (q : Nat) : Tid := tidOf (2 * (q % 32)) (4 * (q / 32) + 1)

/-- Fields of a command (R124). -/
def engOp (c : EngCmd) : Nat := bitsOf (nth 0 c.words 0) 63 56
def engShd (c : EngCmd) : Bool := bitOf (nth 0 c.words 0) 32
def engArr (c : EngCmd) : Bool := bitOf (nth 0 c.words 0) 31
def engChg (c : EngCmd) : Bool := bitOf (nth 0 c.words 0) 30
def engBar (c : EngCmd) : Nat := bitsOf (nth 0 c.words 1) 31 0
def engReply (c : EngCmd) : Word := nth 0 c.words 2

/-- Operand word `i`. -/
def engW (c : EngCmd) (i : Nat) : Word := nth 0 c.words (4 + i)

/-- Reader key of the binding a command holds (R110). -/
def engBinder (c : EngCmd) : Nat := 2 ^ 41 + c.uid

/-- A command as a reader (R133). -/
def engWho (q : Nat) (c : EngCmd) : Who :=
  ⟨engCtx c, 3, engTile q, engKey c, some (engBinder c), false, none, false, false, none, none, false⟩

/-- A command as a writer of its destination: its writes are shadow writes where SHD is set, else they go where its binding leads
(R110, R138). -/
def engDstWho (q : Nat) (c : EngCmd) : Who :=
  { engWho q c with shadow := engShd c, binder := if engShd c then none else some (engBinder c) }

/-- Operand words of an opcode (R127); none for a refused opcode (R128). -/
def engWords (op : Nat) : Option Nat :=
  match op with
  | 1 => some 3 | 2 => some 4 | 3 => some 5 | 4 => some 8 | 5 => some 8 | 6 => some 6 | 7 => some 2 | 8 => some 3
  | 9 => some 4 | 10 => some 3 | 11 => some 4 | 12 => some 8 | 13 => some 8 | 14 => some 8 | 15 => some 8 | 16 => some 1
  | _ => none

/-- Opcodes that allow SHD and CHG (R127). -/
def engMayCharge (op : Nat) : Bool := (1 ≤ op && op ≤ 6) || (10 ≤ op && op ≤ 15)

/-- A reserved bit of operand word `i` of an opcode is set (R140 to R154). -/
def operandReserved (op i : Nat) (w : Word) : Bool :=
  match op, i with
  | 1, 2 | 2, 1 | 10, 1 => !zeroBits w 63 41
  | 2, 3 | 3, 4 => !zeroBits w 63 2
  | 4, 3 | 5, 3 => !zeroBits w 63 32
  | 4, 6 | 5, 6 => !zeroBits w 63 29 || !zeroBits w 15 3
  | 4, 7 | 5, 7 => w != 0
  | 6, 5 => !zeroBits w 63 34
  | 7, 1 | 8, 1 => !zeroBits w 63 17
  | 8, 2 => !zeroBits w 63 40 || !zeroBits w 31 28 || !zeroBits w 7 3
  | 9, 0 => !zeroBits w 63 8 || !zeroBits w 3 2
  | 11, 2 => !zeroBits w 63 37
  | 11, 3 => !zeroBits w 63 5
  | 16, 0 => !zeroBits w 63 11 || !zeroBits w 7 6
  | _, _ =>
    if 12 ≤ op && op ≤ 15 then
      match i with
      | 1 => !zeroBits w 63 53 || !zeroBits w 31 21
      | 4 => !zeroBits w 63 32
      | 5 => !zeroBits w 63 10 || !zeroBits w 7 5
      | 6 => !zeroBits w 63 20
      | 7 => w != 0
      | _ => false
    else false

/-- The header or a reserved operand bit breaks R126. -/
def headerRefused (c : EngCmd) (n : Nat) : Bool :=
  let w0 := nth 0 c.words 0
  let op := engOp c
  let flits := (n + 3) / 4
  !zeroBits w0 27 0 || !zeroBits (nth 0 c.words 1) 34 32 || bitsOf w0 34 33 != 2
    || bitsOf w0 38 35 != flits || c.words.length != 4 + 4 * flits
    || (c.words.drop (4 + n)).any (· != 0)
    || (engReply c != 0 && (!canonical (engReply c) || (engReply c).toNat % 32 != 0))
    || ((engShd c || engChg c) && !engMayCharge op) || (engArr c && op == 9)
    || (engBar c != 0 && !engArr c && !engChg c)
    || (List.range n).any (fun i => operandReserved op i (engW c i))

/-! ### Operands -/

/-- Element size of a reduction's operation and width (R144, R145). -/
def redSize (op w : Nat) : Nat := if op = 9 then 2 else if 8 ≤ op then 4 else if w = 1 then 8 else 4

/-- W and OP name a reduction (R144). -/
def redOk (op w : Nat) : Bool := op < 12 && (op < 8 || w == 0)

/-- XPOSE and CSRB: rows and columns, stored minus one (R140, R142). -/
def engRows (w : Word) : Nat := bitsOf w 31 0 + 1
def engCols (w : Word) : Nat := bitsOf w 63 32 + 1

/-- Two byte ranges of an address space of 2^64 share a byte. -/
def rangesMeet (a : Word) (la : Nat) (b : Word) (lb : Nat) : Bool :=
  decide ((a - b).toNat < lb) || decide ((b - a).toNat < la)

/-- XPOSE reads and writes a common byte: some source row meets some destination row (R140). -/
def xposeOverlap (c : EngCmd) : Bool :=
  let esz := 2 ^ bitsOf (engW c 4) 1 0
  let rows := engRows (engW c 2)
  let cols := engCols (engW c 2)
  (List.range rows).any (fun i => (List.range cols).any (fun j =>
    rangesMeet (engW c 0 + BitVec.ofNat 64 (i * bitsOf (engW c 3) 31 0)) (cols * esz)
      (engW c 1 + BitVec.ofNat 64 (j * bitsOf (engW c 3) 63 32)) (rows * esz)))

/-- Element size of a collective (R145, R146). -/
def collSize (c : EngCmd) : Nat :=
  if engOp c = 12 ∨ engOp c = 14 then redSize (bitsOf (engW c 5) 3 0) (bitsOf (engW c 5) 4 4) else 2 ^ bitsOf (engW c 5) 9 8

/-- NMEM, RANK and COUNT of a collective. -/
def collN (c : EngCmd) : Nat := bitsOf (engW c 1) 20 0
def collRank (c : EngCmd) : Nat := bitsOf (engW c 1) 52 32
def collCount (c : EngCmd) : Nat := bitsOf (engW c 4) 31 0

/-- An operand lies outside its limits (R140 to R154). -/
def operandsRefused (s : State) (c : EngCmd) : Bool :=
  let w := engW c
  let len := (w 2).toNat
  match engOp c with
  | 1 => len == 0 || decide (2 ^ 40 < len) || rangesMeet (w 0) len (w 1) len
  | 2 =>
    let p := 2 ^ bitsOf (w 3) 1 0
    (w 1).toNat == 0 || decide (2 ^ 40 < (w 1).toNat) || (w 1).toNat % p != 0 || (w 0).toNat % p != 0
  | 3 =>
    let esz := 2 ^ bitsOf (w 4) 1 0
    let sp := bitsOf (w 3) 31 0
    let dp := bitsOf (w 3) 63 32
    decide (65536 < engRows (w 2)) || decide (65536 < engCols (w 2)) || (w 0).toNat % esz != 0 || (w 1).toNat % esz != 0
      || decide (sp < engCols (w 2) * esz) || decide (dp < engRows (w 2) * esz) || sp % esz != 0 || dp % esz != 0
      || xposeOverlap c
  | 4 | 5 =>
    let iw := 4 * 2 ^ bitsOf (w 6) 0 0
    (w 3).toNat == 0 || (w 1).toNat % iw != 0 || (iw == 4 && decide (2 ^ 32 ≤ (w 5).toNat))
      || bitsOf (w 6) 28 16 == 0 || decide (4096 < bitsOf (w 6) 28 16) || bitsOf (w 6) 2 1 == 3
  | 6 =>
    let esz := 2 ^ bitsOf (w 5) 33 32
    let dp := bitsOf (w 5) 31 0
    (w 0).toNat % 4 != 0 || (w 1).toNat % 4 != 0 || (w 2).toNat % esz != 0 || (w 3).toNat % esz != 0
      || decide (65536 < engRows (w 4)) || decide (65536 < engCols (w 4)) || decide (dp < engCols (w 4) * esz) || dp % esz != 0
  | 7 => (w 0).toNat % 65536 != 0 || (w 1).toNat == 0 || decide (65536 < (w 1).toNat)
  | 8 =>
    let pool := bitsOf (w 2) 39 32
    let tgt := bitsOf (w 2) 1 0
    (w 0).toNat % 65536 != 0 || (w 1).toNat == 0 || decide (65536 < (w 1).toNat)
      || (28 ≤ pool && pool ≤ 254) || (tgt == 0 && 12 ≤ pool && pool != 255) || (tgt == 1 && decide (pool < 12))
      || (tgt == 3 && !bitOf (w 2) 2)
  | 9 => bitOf (w 0) 0 && ((w 2).toNat % 2 ^ 21 != 0 || (w 3).toNat % 2 ^ 21 != 0)
  | 10 => decide (2 ^ 40 < (w 1).toNat) || (w 2).toNat % 32 != 0
  | 11 =>
    let op := bitsOf (w 3) 3 0
    let wd := bitsOf (w 3) 4 4
    (w 2).toNat == 0 || !redOk op wd || (w 0).toNat % redSize op wd != 0 || (w 1).toNat % redSize op wd != 0
  | 16 =>
    let sc := bitsOf (w 0) 10 8
    sc == 0 || 6 ≤ sc || !bitOf ((getCtx s (engCtx c)).bufmap.getD (bitsOf (w 0) 5 0) (0, 0, 0, 0)).1 0
  | op =>
    let red := op == 12 || op == 14
    (w 0).toNat % 4 != 0 || decide (collN c < 2) || decide (2 ^ 20 < collN c) || decide (collN c ≤ collRank c)
      || collCount c == 0
      || (if red then !zeroBits (w 5) 9 8 || !redOk (bitsOf (w 5) 3 0) (bitsOf (w 5) 4 4) else !zeroBits (w 5) 4 0)
      || (if op = 15 then decide (collN c ≤ bitsOf (w 6) 19 0) else w 6 != 0)

/-- The byte ranges of a command that are wholly given at acceptance, with the kind of access (R133). -/
def givenRanges (c : EngCmd) : List (Word × Nat × AKind) :=
  let w := engW c
  match engOp c with
  | 1 => [(w 0, (w 2).toNat, .read), (w 1, (w 2).toNat, .write)]
  | 2 => [(w 0, (w 1).toNat, .write)]
  | 3 =>
    let esz := 2 ^ bitsOf (w 4) 1 0
    let rows := engRows (w 2)
    let cols := engCols (w 2)
    [(w 0, (rows - 1) * bitsOf (w 3) 31 0 + cols * esz, .read), (w 1, (cols - 1) * bitsOf (w 3) 63 32 + rows * esz, .write)]
  | 4 | 5 =>
    [(w 1, (w 3).toNat * (4 * 2 ^ bitsOf (w 6) 0 0), .read),
     (w 2, (w 3).toNat * bitsOf (w 6) 28 16, if engOp c = 4 then .write else .read)]
  | 6 =>
    let esz := 2 ^ bitsOf (w 5) 33 32
    [(w 0, 4 * (engRows (w 4) + 1), .read),
     (w 3, (engRows (w 4) - 1) * bitsOf (w 5) 31 0 + engCols (w 4) * esz, .write)]
  | 8 => [(w 0, (w 1).toNat * 65536, .write)]
  | 10 => [(w 0, (w 1).toNat, .read), (w 2, 32, .write)]
  | 11 =>
    let n := (w 2).toNat * redSize (bitsOf (w 3) 3 0) (bitsOf (w 3) 4 4)
    [(w 0, n, .read), (w 1, n, .write)]
  | 12 | 13 | 14 | 15 =>
    let n := collCount c * collSize c
    let src := if engOp c = 14 then collN c * n else n
    let dst := if engOp c = 13 then collN c * n else n
    [(w 0, 4 * collN c, .read)]
      ++ (if engOp c = 15 ∧ collRank c ≠ bitsOf (w 6) 19 0 then [] else [(w 2, src, .read)]) ++ [(w 3, dst, .write)]
  | _ => []

/-- The first cause that a given range's first or last byte meets (R133). -/
def rangesCause (s : State) (who : Who) : List (Word × Nat × AKind) → Option (Cause × Word)
  | [] => none
  | (va, n, k) :: l =>
    if n = 0 then rangesCause s who l
    else match translate s who va k with
      | .error e => some (e, va)
      | .ok _ =>
        let last := va + BitVec.ofNat 64 (n - 1)
        match translate s who last k with
        | .error e => some (e, last)
        | .ok _ => rangesCause s who l

/-- Bytes that a command charges (R137, R140 to R146). -/
def engCharge (c : EngCmd) : Nat :=
  let w := engW c
  match engOp c with
  | 1 => (w 2).toNat
  | 2 => (w 1).toNat
  | 3 => engRows (w 2) * engCols (w 2) * 2 ^ bitsOf (w 4) 1 0
  | 4 | 5 => (w 3).toNat * bitsOf (w 6) 28 16
  | 6 => engRows (w 4) * engCols (w 4) * 2 ^ bitsOf (w 5) 33 32
  | 10 => 32
  | 11 => (w 2).toNat * redSize (bitsOf (w 3) 3 0) (bitsOf (w 3) 4 4)
  | 12 | 14 | 15 => collCount c * collSize c
  | 13 => collN c * collCount c * collSize c
  | _ => 0

/-- The buffer map entry that a command's first destination byte lies in (R138). -/
def shadowEntry (s : State) (c : EngCmd) : Option (Nat × (Word × Word × Word × Word)) :=
  findBuf (getCtx s (engCtx c)) (bitsOf (engDst c) 56 0)

/-- A command that uses a malformed barrier identifier (R112). -/
def engBarMalformed (c : EngCmd) : Bool := (engArr c || engChg c) && barMalformed (engBar c)

/-- The engine as an agent of the barrier that it charges: BARSCOPE for an unfit one (R114, R115). -/
def engBarRefused (s : State) (q : Nat) (c : EngCmd) : Bool := engChg c && barRefuses s (engBar c) (engCtx c) (engTile q)

/-! ### What the checks read -/

/-- The 32-bit words at a VA. -/
def readWords32 (s : State) (who : Who) (va : Word) (n : Nat) : Res (List Nat) × State :=
  match readVA s who va (4 * n) with
  | (.ok bs, s) => (.ok ((List.range n).map (fun i => ofBytes ((bs.drop (4 * i)).take 4))), s)
  | (.fault e, s) => (.fault e, s)
  | (.wait, s) => (.wait, s)

/-- A collective is refused with COLLCFG (R145). -/
def collRefused (s : State) (q : Nat) (c : EngCmd) (ms : List Nat) : Bool :=
  nth 0 ms (collRank c) != s.boot.node * 512 + q
    || ms.any (fun e => decide (2 ^ 29 ≤ e) || (e / 512 != s.boot.node && !reachable s (e / 512)))
    || (s.eng.inbox.getD q []).any (fun x => x.state != .ended && engCtx x == engCtx c && engTag x == engTag c
      && 12 ≤ engOp x && engOp x ≤ 15)

/-- A CHKPT is refused with CKPTCFG (R154). -/
def ckptRefused (s : State) (c : EngCmd) (peers : List Word) : Bool :=
  let restore := bitOf (engW c 0) 1
  s.eng.ckpt.isSome || s.eng.inbox.any (fun e => e.2.any (fun x => x.state != .ended && engOp x == 9))
    || peers.any (fun p => !zeroBits p 63 52 || bitsOf p 19 0 == s.boot.node || !reachable s (bitsOf p 19 0))
    || (restore && s.ctxs.any (fun x => x.2.state != .none))

/-- The peers of a CHKPT in MODE 0 and 2 (R154). -/
def ckptPeers (s : State) (who : Who) (c : EngCmd) : Res (List Word) × State :=
  if bitOf (engW c 0) 0 then (.ok [], s)
  else
    let n := bitsOf (engW c 0) 7 4 + 1
    match readVA s who (engW c 1) (8 * n) with
    | (.ok bs, s) => (.ok (wordsOf n bs), s)
    | (.fault e, s) => (.fault e, s)
    | (.wait, s) => (.wait, s)

/-- What a message's checks say: accepted with the lists it has read, refused with STATUS, cause and VA, or still reading. -/
inductive Check where
  | good (members : List Nat) (peers : List Word)
  | bad (status : Nat) (cause : Cause) (va : Word)
  | later
  deriving DecidableEq, Repr

/-- The lists in memory that collectives and CHKPT are checked by (R145, R154). An uncorrectable line of a list refuses the
command with its cause, as any other fault of that read does: STATUS is REFUSED and not POISON, since nothing has run (log 84). -/
def checkLists (s : State) (q : Nat) (c : EngCmd) : Check × State :=
  if 12 ≤ engOp c && engOp c ≤ 15 then
    match readWords32 s (engWho q c) (engW c 0) (collN c) with
    | (.wait, s) => (.later, s)
    | (.fault e, s) => (.bad 2 e (engW c 0), s)
    | (.ok ms, s) => (if collRefused s q c ms then .bad 2 Cause.collcfg 0 else .good ms [], s)
  else if engOp c = 9 then
    match ckptPeers s (engWho q c) c with
    | (.wait, s) => (.later, s)
    | (.fault e, s) => (.bad 2 e (engW c 1), s)
    | (.ok ps, s) => (if ckptRefused s c ps then .bad 2 Cause.ckptcfg 0 else .good [] ps, s)
  else (.good [] [], s)

/-- The checks of the inbox (R126, R128, R133, R138, R115, R137, R154). A malformed barrier identifier comes first (R112), then an
opcode that is refused (R128); the spec gives the others no order, and the model takes AMHDR, ENGPRIV, ENGOPND, the given ranges,
the lists, SHADOWCFG, BARSCOPE, BARBYTE; a refusal comes before busy (log 84). -/
def checkMessage (s : State) (q : Nat) (c : EngCmd) : Check × State :=
  if engBarMalformed c then (.bad 2 Cause.barscope 0, s)
  else match engWords (engOp c) with
  | none => (.bad 1 Cause.badop 0, s)
  | some n =>
    let w0 := nth 0 c.words 0
    if headerRefused c n then (.bad 2 Cause.amhdr 0, s)
    else if engOp c = 9 ∧ bitsOf w0 29 28 = 0 then (.bad 2 Cause.engpriv 0, s)
    else if operandsRefused s c then (.bad 2 Cause.engopnd 0, s)
    else match rangesCause s (engWho q c) (givenRanges c) with
      | some e => (.bad 2 e.1 e.2, s)
      | none =>
        match checkLists s q c with
        | (.good ms ps, s) =>
          if engShd c && (shadowEntry s c).isNone then (.bad 2 Cause.shadowcfg 0, s)
          else if engBarRefused s q c then (.bad 2 Cause.barscope 0, s)
          else if engChg c && decide (2 ^ 48 ≤ (getBar s (engBar c)).pending + engCharge c) then (.bad 2 Cause.barbyte 0, s)
          else (.good ms ps, s)
        | r => r

/-! ### Replies and acknowledgements -/

/-- The reply record (R131). -/
def replyBytes (c : EngCmd) (dtime : Nat) : List Byte :=
  bytesOf 8 (engOp c * 2 ^ 56 + c.status * 2 ^ 48 + c.cause.toNat * 2 ^ 32 + engTag c) ++ bytesOf 8 c.done ++ bytesOf 8 c.aux
    ++ bytesOf 8 dtime

/-- Raise an engine cause to a context: it names no launch (R404, R413). -/
def engEvent (s : State) (q ctx : Nat) (cause : Cause) (va : Word) : State :=
  appendEvent s ctx ⟨cause, 3, 0, engTile q, 0, va, 0⟩

/-- Write the reply record, where one is asked for: whether that is done; its own fault, here or at a page's owner, raises REPLYBAD
(R131). A BADOP message's REPLY is not checked by R126: one that is no multiple of 32 takes no record, and raises REPLYBAD
(log 84). -/
def writeReply (s : State) (q : Nat) (c : EngCmd) : Bool × State :=
  if engReply c = 0 then (true, s)
  else if (engReply c).toNat % 32 ≠ 0 then (true, engEvent s q (engCtx c) Cause.replybad (engReply c))
  else match writeVA s (engWho q c) (engReply c) (replyBytes c s.clk.dtime) with
    | (.ok _, s) => (true, s)
    | (.wait, s) => (false, s)
    | (.fault _, s) => (true, engEvent s q (engCtx c) Cause.replybad (engReply c))

/-- Commands of an inbox, accepted and not drained. -/
def inboxOf (s : State) (q : Nat) : List EngCmd := s.eng.inbox.getD q []

/-- Replace an inbox. -/
def setInbox (s : State) (q : Nat) (l : List EngCmd) : State := { s with eng := { s.eng with inbox := s.eng.inbox.set q l } }

/-- Entries that hold accepted commands: a refused one, in state `ended` until its record is written, holds none (R129). -/
def heldEntries (s : State) (q : Nat) : List EngCmd := (inboxOf s q).filter (fun c => c.state != .ended)

/-- No free entry, or CTX holds 16 already (R129). -/
def inboxBusy (s : State) (q ctx : Nat) : Bool :=
  32 ≤ (heldEntries s q).length || 16 ≤ ((heldEntries s q).filter (fun c => engCtx c == ctx)).length

/-- The command that a message makes. -/
def cmdOf (m : Msg) : EngCmd :=
  { uid := m.uid, words := m.words, state := .queued, sender := m.sender, lid := m.lid, done := 0, aux := 0, pos := 0,
    status := 0, cause := 0, stopped := false, charged := 0, waits := [], tmp := [], fva := 0, hold := [] }

/-- What a command has read as it is accepted: a CHKPT its peers, a PUBLISH the commands accepted before it that write the shadow
(R111, R149, R154). -/
def acceptedTmp (s : State) (c : EngCmd) (ps : List Word) : List Nat :=
  if engOp c = 16 then shadowWriters s (engCtx c) (bitsOf (engW c 0) 5 0) else ps.map (·.toNat)

/-- Accept a command: the charge, the binding of a shadow destination, the entry, ENGCMDS, and word to the other members of a
collective (R115, R129, R137, R138, R145, R401). -/
def acceptCommand (s : State) (q : Nat) (c : EngCmd) (ms : List Nat) (ps : List Word) : State :=
  let n := if engChg c then engCharge c else 0
  let c := { c with charged := n, waits := ms, tmp := acceptedTmp s c ps }
  let b := getBar s (engBar c)
  let s := if engChg c then setBar s (engBar c) { b with pending := b.pending + n } else s
  let s := if engShd c then bindRead s (engWho q c) (engDst c) else s
  let s := setInbox s q (inboxOf s q ++ [c])
  let s := updLaunch s c.lid (fun l => { l with engcmds := l.engcmds + 1, cmds := l.cmds ++ [c.uid] })
  if ms.isEmpty then s
  else
    let s := mapNotices (settleOwed s) c (dropStale q (engTag c))
    tellMembers s q c 0 [engOp c, collN c, collCount c, (engW c 5).toNat, (engW c 6).toNat] []

/-- A message that checks have refused, until its record is written. -/
def refusedCmd (c : EngCmd) (status : Nat) (cause : Cause) (va : Word) : EngCmd :=
  { c with state := .ended, stopped := true, status := status, cause := cause, fva := va }

/-- The record of a refused message is written: its cause is raised and its sender told (R129). -/
def endRefused (s : State) (q : Nat) (c : EngCmd) (m : Msg) : State :=
  let s := unbind s (engCtx c) (engBinder c)
  let s := if m.sender.isNone then engEvent s q (engCtx c) c.cause c.fva else s
  acknowledge s m 2 c.status c.cause

/-- Refuse a message: its record is written first, and the message stays with the engine while that waits (R129, R131). -/
def refuseMessage (s : State) (q : Nat) (c : EngCmd) (m : Msg) : State :=
  match writeReply s q c with
  | (true, s) => endRefused s q c m
  | (false, s) => setInbox s q (inboxOf s q ++ [c])

/-- An inbox takes a message (R129): refused, busy or accepted; one of a killed context is removed without any effect (R139). The engine of a fallow quad takes none: a message from another
module is refused with ENGNODE, as this one's injection units refuse theirs (R123, R126; log 84). -/
def takeMessage (s0 s : State) (q : Nat) (m : Msg) : State :=
  let c := cmdOf m
  if (getCtx s (engCtx c)).state = .killed then ackRemoved s m
  else if quadFallow s q then acknowledge s m 2 2 Cause.engnode
  else match checkMessage s q c with
    | (.later, s) => { s0 with xl := s.xl, host := s.host }
    | (.bad st e va, s) => refuseMessage s q (refusedCmd c st e va) m
    | (.good ms ps, s) =>
      if inboxBusy s q (engCtx c) then acknowledge (unbind s (engCtx c) (engBinder c)) m 1 0 0
      else acknowledge (acceptCommand s q c ms ps) m 0 0 0

/-- Messages of one sender reach an engine in the order of their injection (R24). -/
def firstOfPair (s : State) (m : Msg) : Bool :=
  match s.fab.msgs.find? (fun x => x.injected && x.resendAt.isNone && x.node == m.node && x.src == m.src && x.dst == m.dst) with
  | some x => x.uid == m.uid
  | none => false

/-- ENGINE_INBOX_MESSAGE (R126 to R129): `ops` = [0, uid] takes a message of this module, [1, quad] the next one that another
module sent to a quad. -/
def execEngineInboxMessage (s : State) : Out :=
  if s.op 0 = 0 then
    match s.fab.msgs.find? (fun m => m.uid == s.op 1 && m.injected && m.resendAt.isNone && m.node == s.boot.node) with
    | none => .next s
    | some m =>
      if !firstOfPair s m then .next s
      else
        let s1 := { s with fab := { s.fab with msgs := s.fab.msgs.filter (fun x => x.uid != m.uid) } }
        .next (takeMessage s s1 (bitsOf (nth 0 m.words 1) 43 35) m)
  else
    match s.eng.arriving.getD (s.op 1) [] with
    | [] => .next s
    | m :: rest =>
      let s1 := { s with eng := { s.eng with arriving := s.eng.arriving.set (s.op 1) rest } }
      .next (takeMessage s s1 (s.op 1) m)

/-- The sender of an accepted message goes on: AMSG returns 0, AMSGW is acknowledged (R298). -/
def acceptedToSender (s : State) (m : Msg) : State :=
  let s := (takeAmsgw s m).2
  let c := getCore s m.src
  match c.waiting with
  | .amsg uid d => if uid = m.uid then setCore s m.src { (c.setGpr d 0).finish with waiting := .none } else s
  | _ => s

/-- The message an acknowledgement is for: one of this module's, still held by its injection unit where it left the module. -/
def ackMsg (s : State) (a : Ack) : Msg :=
  match s.fab.msgs.find? (fun m => m.uid == a.uid) with
  | some m => m
  | none => a.msg

/-- Drop a message from the injection units. -/
def dropMsg (s : State) (uid : Nat) : State :=
  { s with fab := { s.fab with msgs := s.fab.msgs.filter (fun x => x.uid != uid) } }

/-- Apply an acknowledgement: 0 accepted, 1 busy, 2 refused; 3 tells that a command at another node has drained (R129, R135). -/
def applyAck (s : State) (a : Ack) : State :=
  let m := ackMsg s a
  match a.kind with
  | 0 =>
    let s := if m.node = s.boot.node then s
      else updLaunch { s with eng := { s.eng with remote := s.eng.remote ++ [m.uid] } } m.lid
        (fun l => { l with engcmds := l.engcmds + 1, cmds := l.cmds ++ [m.uid] })
    acceptedToSender (dropMsg s m.uid) m
  | 1 =>
    let s := dropMsg s m.uid
    { s with fab := { s.fab with msgs := s.fab.msgs ++ [{ m with injected := true, resendAt := some (s.clk.cycle + 64) }] } }
  | 2 =>
    let s := dropMsg s m.uid
    match takeAmsgw s m with
    | (some va, s) => appendEvent s (bitsOf (nth 0 m.words 0) 55 50) ⟨a.cause, 3, 0, m.src, 0, va, 0⟩
    | (none, s) => refuseToSender s m a.status a.cause
  | _ => { s with eng := { s.eng with remote := s.eng.remote.filter (· != a.uid) } }

/-- Acknowledgements of one engine to one sender arrive in the order of their injection (R24). -/
def firstAck (s : State) (a : Ack) : Bool :=
  let m := ackMsg s a
  match s.fab.acks.find? (fun x => (ackMsg s x).node == m.node && (ackMsg s x).src == m.src && (ackMsg s x).dst == m.dst) with
  | some x => x.uid == a.uid
  | none => false

/-- ACKNOWLEDGEMENT for the message of uid `ops`[0] reaches its sender (R24, R129, R298). -/
def execAcknowledgement (s : State) : Out :=
  match s.fab.acks.find? (fun a => a.uid == s.op 0) with
  | none => .next s
  | some a =>
    if !firstAck s a then .next s
    else .next (applyAck { s with fab := { s.fab with acks := s.fab.acks.erase a } } a)

/-- INJECTION_RESEND of the message of uid `ops`[0]: 64 cycles after a busy acknowledgement it is sent again whole, behind those
injected before (R24, R129). -/
def execInjectionResend (s : State) : Out :=
  match s.fab.msgs.find? (fun m => m.uid == s.op 0) with
  | none => .next s
  | some m =>
    match m.resendAt with
    | none => .next s
    | some t => .next (if s.clk.cycle < t then s else injectMessage s m)

/-! ### The end of a command -/

/-- Discharge bytes of a command from its barrier (R115, R137). -/
def dischargeBytes (s : State) (c : EngCmd) (n : Nat) : State :=
  if engChg c && n != 0 then { s with bar := { s.bar with discharges := s.bar.discharges ++ [(engBar c, n)] } } else s

/-- Replace a command in its inbox. -/
def putCmd (s : State) (q : Nat) (c : EngCmd) : State :=
  setInbox s q ((inboxOf s q).map (fun x => if x.uid = c.uid then c else x))

/-- A command in an inbox. -/
def findCmd (s : State) (q uid : Nat) : Option EngCmd := (inboxOf s q).find? (fun c => c.uid == uid)

/-- Stop a command, or end it: the bytes it will never write are discharged (R133, R137). -/
def endCmd (s : State) (q : Nat) (c : EngCmd) (status : Nat) (cause : Cause) (va : Word) : State :=
  let s := dischargeBytes s c c.charged
  let s := if c.waits.isEmpty || status = 0 then s else tellMembers s q c 2 [cause.toNat] []
  putCmd s q { c with stopped := true, charged := 0, status := status, cause := cause, fva := va }

/-- Stop a command at a cause: POISON for uncorrectable data that it read, else FAULT (R133, R134; log 84). -/
def stopCmd (s : State) (q : Nat) (c : EngCmd) (read : Bool) (cause : Cause) (va : Word) : State :=
  endCmd s q c (if read && (cause == Cause.tileue || cause == Cause.memue) then 4 else 3) cause va

/-- Every message of a command to another engine has been answered (R135). -/
def messagesAnswered (s : State) (c : EngCmd) : Bool :=
  s.xl.fwdOut.all (fun o => o.key != engKey c || o.ia != engineTag || (findReply s o.uid).isSome)

/-- The answers to a command's messages are taken. -/
def dropAnswers (s : State) (c : EngCmd) : State :=
  let mine := (s.xl.fwdOut.filter (fun o => o.key == engKey c)).map (·.uid)
  mine.foldl dropOut s

/-- A command whose record is written leaves its inbox: cause, arrival, binding, entry (R129, R133, R137, R138). -/
def leaveInbox (s : State) (q : Nat) (c : EngCmd) : State :=
  let s := if c.status = 0 ∨ c.cause = 0 then s else engEvent s q (engCtx c) c.cause c.fva
  let s := if engArr c then { s with bar := { s.bar with arrivals := s.bar.arrivals ++
      [⟨engBar c, 1, engCtx c, 0, .engine q⟩] } } else s
  let s := unbind s (engCtx c) (engBinder c)
  let s := dropNotices (dropAnswers s c) q c
  let node := bitsOf (nth 0 c.words 3) 31 12
  let s := if node = s.boot.node then s else sendNode s node 1 [17, c.uid, 3, 0, 0]
  setInbox s q ((inboxOf s q).filter (fun x => x.uid != c.uid))

/-- A command that has ended drains: whether its reply record is written, and with it the command leaves its inbox (R131, R135). -/
def drainCmd (s : State) (q : Nat) (c : EngCmd) : Bool × State :=
  match writeReply s q c with
  | (true, s) => (true, leaveInbox s q c)
  | (false, s) => (false, s)

/-- ENGINE_COMMAND_DRAINED of command `ops` = [quad, uid] (R129, R135, R137): it has ended, its messages are answered, its charged
bytes discharged; or a refused one's record is written. -/
def execEngineCommandDrained (s : State) : Out :=
  let q := s.op 0
  match findCmd s q (s.op 1) with
  | none => .next s
  | some c =>
    if c.state = .ended then
      match writeReply s q c with
      | (true, s) => .next (endRefused (setInbox s q ((inboxOf s q).filter (fun x => x.uid != c.uid))) q c (msgOf c))
      | (false, s) => .next s
    else if !c.stopped || engOp c == 9 || !messagesAnswered s c || (engChg c && s.bar.discharges.any (fun d => d.1 == engBar c)) then
      .next s
    else .next (drainCmd s q c).2

end Sys2Proof.Machine
end

