-- ==== Sys2Proof/Machine/EngineCommands.lean ====
section
/-! DEFINITION. What engine commands do (R135, R140 to R151): COPY, FILL, XPOSE, GATHER, SCATTER, CSRB, HASH, REDUCE, the collectives, PUBLISH_COMMAND,
PREFETCH, MIGRATE. Each event moves its command by one destination line, element or page. -/
namespace Sys2Proof.Machine

/-! ### The turn of a command -/

/-- A checkpoint that has not taken its cut yet stops launches, pops and engine starts (R155, step 1). -/
def ckptStops (s : State) : Bool :=
  match s.eng.ckpt with
  | some k => !k.cutDone
  | none => false

/-- A command may start: the oldest unstarted of its inbox whose context is neither saved nor killed, with fewer than 8 running, in
a quad that is in service (R123, R130, R139, R155). -/
def mayStart (s : State) (q : Nat) (c : EngCmd) : Bool :=
  let live (x : EngCmd) : Bool := match (getCtx s (engCtx x)).state with
    | .active | .none => true
    | _ => false
  !ckptStops s && !quadFallow s q && live c
    && ((heldEntries s q).filter (fun x => x.state != .queued)).length < 8
    && (match (inboxOf s q).find? (fun x => x.state == .queued && live x) with
      | some x => x.uid == c.uid
      | none => false)

/-- The turn of command `ops` = [quad, uid], if it has the given opcode: it starts, or takes its next step (R130). -/
def engTurn (s : State) (op : Nat) (body : State → Nat → EngCmd → State) : Out :=
  let q := s.op 0
  match findCmd s q (s.op 1) with
  | none => .next s
  | some c =>
    if engOp c ≠ op ∨ c.stopped = true then .next s
    else if c.state = .queued then .next (if mayStart s q c then putCmd s q { c with state := .running } else s)
    else .next (body s q c)

/-! ### Reading and writing -/

/-- What a command's access answers: bytes, a cause with the VA at fault, or that it has to wait. -/
inductive ERes where
  | ok (bs : List Byte)
  | stop (c : Cause) (va : Word)
  | wait
  deriving DecidableEq, Repr

/-- Read bytes at a VA, each line once; a read of another module's lines waits for its answers (R133, R143). -/
def engRead (s : State) (who : Who) (va : Word) (n : Nat) : ERes × State :=
  match readAt s who va n with
  | (.ok bs, _, s) => (.ok bs, s)
  | (.fault e, v, s) => (.stop e v, s)
  | (.wait, _, s) => (.wait, s)

/-- A byte of the destination lies outside the buffer map entry of a shadow command (R138). -/
def outsideShadow (s : State) (c : EngCmd) (va : Word) (n : Nat) : Bool :=
  engShd c && (match shadowEntry s c with
    | none => true
    | some e =>
      let lo := bitsOf e.2.1 56 6 * 64
      let hi := lo + bitsOf e.2.2.1 63 32 * 64
      let v := bitsOf va 56 0
      v < lo || hi < v + n)

/-- Bytes of the destination line at a VA that are one write, at most `rem`: the rest of a line that waits to be written; a shadow
destination is cut at the end of its entry, a line at the end of its line of IA (R96, R138, R140). -/
def chunkLen (s : State) (q : Nat) (c : EngCmd) (va : Word) (rem : Nat) : Nat :=
  if c.hold ≠ [] then c.hold.length
  else
    let n := min rem (128 - va.toNat % 128)
    let n := if outsideShadow s c va n && !outsideShadow s c va (64 - va.toNat % 64) then min n (64 - va.toNat % 64) else n
    match vaParts s (engDstWho q c) .write (blocksOf va n) with
    | (p :: _, _) => p.len
    | ([], _) => n

/-- The bytes that a command writes next: those of a write that waits, else what a read answers (R135). -/
def orRead (s : State) (c : EngCmd) (read : State → ERes × State) : ERes × State :=
  if c.hold ≠ [] then (.ok c.hold, s) else read s

/-- Charged bytes that have been performed are discharged; a write to another module's page is, at both reaches, once its owner has
answered (R115, R137). -/
def performed (s : State) (c : EngCmd) (n : Nat) : State × EngCmd :=
  (dischargeBytes s c (min n c.charged), { c with charged := c.charged - n, hold := [] })

/-- Write bytes of a destination line (R133, R138, R140): the canonical check comes before any other (R28); a write that waits, for
its home port or for the page's owner, keeps its bytes. -/
def engWrite (s : State) (q : Nat) (c : EngCmd) (va : Word) (bs : List Byte) : ERes × EngCmd × State :=
  let who := engDstWho q c
  if !canonical va then (.stop Cause.noncanon va, c, s)
  else if outsideShadow s c va bs.length then (.stop Cause.shadowcfg va, c, s)
  else match writeAt s who va (allSome bs) with
    | (.wait, _, s) => (.wait, { c with hold := bs }, s)
    | (.fault e, _, s) => (.stop e va, c, s)
    | (.ok _, l, s) =>
      match performed (watchCheck s who l) c bs.length with
      | (s, c) => (.ok [], c, s)

/-- A command stops at a VA that AUX names (R140). -/
def stopAt (s : State) (q : Nat) (c : EngCmd) (read : Bool) (e : Cause) (va : Word) : State :=
  stopCmd s q { c with aux := va.toNat } read e va

/-- Write a line, then go on with what `k` makes of the command (R140): DONE counts the bytes. -/
def writeCounted (s : State) (q : Nat) (c : EngCmd) (va : Word) (bs : List Byte) : State :=
  match engWrite s q c va bs with
  | (.wait, c, s) => putCmd s q c
  | (.stop e v, c, s) => stopAt s q c false e v
  | (.ok _, c, s) => putCmd s q { c with done := c.done + bs.length }

/-! ### COPY, FILL, XPOSE (R140) -/

/-- The next line of a COPY. -/
def copyStep (s : State) (q : Nat) (c : EngCmd) : State :=
  let len := (engW c 2).toNat
  if len ≤ c.done then endCmd s q c 0 0 0
  else
    let off := BitVec.ofNat 64 c.done
    let n := chunkLen s q c (engW c 1 + off) (len - c.done)
    match orRead s c (fun s => engRead s (engWho q c) (engW c 0 + off) n) with
    | (.wait, s) => s
    | (.stop e va, s) => stopAt s q c true e va
    | (.ok bs, s) => writeCounted s q c (engW c 1 + off) bs

/-- COPY (R140). -/
def execCopy (s : State) : Out := engTurn s 1 copyStep

/-- The next line of a FILL. -/
def fillStep (s : State) (q : Nat) (c : EngCmd) : State :=
  let len := (engW c 1).toNat
  if len ≤ c.done then endCmd s q c 0 0 0
  else
    let p := 2 ^ bitsOf (engW c 3) 1 0
    let va := engW c 0 + BitVec.ofNat 64 c.done
    let n := chunkLen s q c va (len - c.done)
    let pat := bytesOf 8 (engW c 2).toNat
    writeCounted s q c va ((List.range n).map (fun i => nth 0 pat ((c.done + i) % p)))

/-- FILL (R140). -/
def execFill (s : State) : Out := engTurn s 2 fillStep

/-- A command as the reader of one of several elements that it needs at once. -/
def engElemWho (who : Who) (i : Nat) : Who := { who with key := agentKey 13 (who.key * 256 + i) }

/-- Ask for n elements from another module, as far as they lie there: whether all answers are here. -/
def engAskElems (s : State) (who : Who) (esz pitch : Nat) : Nat → Word → Bool × State
  | 0, _ => (true, s)
  | n + 1, va =>
    match askParts s (engElemWho who n) (vaParts s who .read (blocksOf va esz)).1 with
    | (here, s) =>
      match engAskElems s who esz pitch n (va + BitVec.ofNat 64 pitch) with
      | (rest, s) => (here && rest, s)

/-- Read n elements that are here, in order. -/
def engTakeElems (s : State) (who : Who) (esz pitch : Nat) : Nat → Word → ERes × State
  | 0, _ => (.ok [], s)
  | n + 1, va =>
    match engRead s (engElemWho who n) va esz with
    | (.ok bs, s) =>
      match engTakeElems s who esz pitch n (va + BitVec.ofNat 64 pitch) with
      | (.ok l, s) => (.ok (bs ++ l), s)
      | r => r
    | r => r

/-- Read elements in order: n elements of `esz` bytes from a VA, `pitch` bytes apart; a read that has to wait takes nothing. -/
def engReadElems (s : State) (who : Who) (esz pitch n : Nat) (va : Word) : ERes × State :=
  match engAskElems s who esz pitch n va with
  | (false, s) => (.wait, s)
  | (true, s) =>
    match engTakeElems s who esz pitch n va with
    | (.wait, _) => (.wait, s)
    | r => r

/-- The next line of an XPOSE: elements of one destination row. -/
def xposeStep (s : State) (q : Nat) (c : EngCmd) : State :=
  let esz := 2 ^ bitsOf (engW c 4) 1 0
  let rowB := engRows (engW c 2) * esz
  if rowB * engCols (engW c 2) ≤ c.done then endCmd s q c 0 0 0
  else
    let j := c.done / rowB
    let o := c.done % rowB
    let sp := bitsOf (engW c 3) 31 0
    let va := engW c 1 + BitVec.ofNat 64 (j * bitsOf (engW c 3) 63 32 + o)
    let n := chunkLen s q c va (rowB - o)
    match orRead s c (fun s =>
      engReadElems s (engWho q c) esz sp (n / esz) (engW c 0 + BitVec.ofNat 64 (o / esz * sp + j * esz))) with
    | (.wait, s) => s
    | (.stop e v, s) => stopAt s q c true e v
    | (.ok bs, s) => writeCounted s q c va bs

/-- XPOSE (R140). -/
def execXpose (s : State) : Out := engTurn s 3 xposeStep

/-! ### GATHER, SCATTER (R141) -/

/-- An index or a row of a gather or scatter is done. -/
def gsNext (s : State) (q : Nat) (c : EngCmd) : State :=
  putCmd s q { c with pos := c.pos + 1, done := c.done + 1, tmp := [] }

/-- A gather or scatter stops: AUX is the index position (R141). -/
def gsStop (s : State) (q : Nat) (c : EngCmd) (read : Bool) (e : Cause) (va : Word) : State :=
  stopCmd s q { c with aux := c.pos } read e va

/-- The next step of a GATHER or SCATTER: it reads an index, or moves the next line of the row; `tmp` holds the bytes of the row
moved and the index, or only the bytes for a row of zeros (R141). -/
def gsStep (s : State) (q : Nat) (c : EngCmd) : State :=
  let w := engW c
  let elen := bitsOf (w 6) 28 16
  let gather := engOp c == 4
  let dense := w 2 + BitVec.ofNat 64 (c.pos * elen)
  if (w 3).toNat ≤ c.pos then endCmd s q c 0 0 0
  else match c.tmp with
    | [] =>
      let iw := 4 * 2 ^ bitsOf (w 6) 0 0
      let ia := w 1 + BitVec.ofNat 64 (c.pos * iw)
      match engRead s (engWho q c) ia iw with
      | (.wait, s) => s
      | (.stop e va, s) => gsStop s q c true e va
      | (.ok bs, s) =>
        let x := ofBytes bs
        if x < (w 5).toNat then putCmd s q { c with tmp := [0, x] }
        else match bitsOf (w 6) 2 1 with
          | 0 => gsStop s q c true Cause.bound ia
          | 1 =>
            if gather then putCmd s q { c with tmp := [0] }
            else
              let s := dischargeBytes s c (min elen c.charged)
              gsNext s q { c with charged := c.charged - elen }
          | _ =>
            let s := dischargeBytes s c (min elen c.charged)
            gsNext s q { c with charged := c.charged - elen }
    | sub :: x =>
      if elen ≤ sub then gsNext s q c
      else
        let o := BitVec.ofNat 64 sub
        let table := w 0 + BitVec.ofNat 64 (nth 0 x 0) * w 4 + o
        let dst := if gather then dense + o else table
        let src := if gather then table else dense + o
        let n := chunkLen s q c dst (elen - sub)
        match orRead s c (fun s => if x.isEmpty then (.ok (List.replicate n 0), s) else engRead s (engWho q c) src n) with
        | (.wait, s) => s
        | (.stop e va, s) => gsStop s q c true e va
        | (.ok bs, s) =>
          match engWrite s q c dst bs with
          | (.wait, c, s) => putCmd s q c
          | (.stop e va, c, s) => gsStop s q c false e va
          | (.ok _, c, s) => putCmd s q { c with tmp := (sub + n) :: x }

/-- GATHER (R141). -/
def execGather (s : State) : Out := engTurn s 4 gsStep

/-- SCATTER (R141). -/
def execScatter (s : State) : Out := engTurn s 5 gsStep

/-! ### CSRB (R142) -/

/-- CSRB stops: AUX is the faulting row, DONE the rows written. -/
def csrbStop (s : State) (q : Nat) (c : EngCmd) (read : Bool) (e : Cause) (va : Word) : State :=
  stopCmd s q { c with aux := c.pos } read e va

/-- Write an element into a row of bytes. -/
def putElem (row : List Nat) (at_ : Nat) : List Byte → List Nat
  | [] => row
  | b :: l => putElem (setNth row at_ b.toNat) (at_ + 1) l

/-- A cause that some byte of a destination row meets here, found before the first of them is written (R142). -/
def rowFault (s : State) (q : Nat) (c : EngCmd) (va : Word) (n : Nat) : Option (Cause × Word) :=
  let who := engDstWho q c
  if !canonical va then some (Cause.noncanon, va)
  else if outsideShadow s c va n then some (Cause.shadowcfg, va)
  else match vaParts s who .write (blocksOf va n) with
    | (_, some e) => some e
    | (ps, none) => ps.findSome? (fun p => match iaAccess s who p.ia p.cls (.write (List.replicate p.len (some 0))) with
        | (.fault e, _) => some (e, p.va)
        | _ => none)

/-- The parts of a row that lie on other modules' pages, with the nodes that own them (R45). -/
def remoteParts (s : State) (q : Nat) (c : EngCmd) (va : Word) (n : Nat) : List (Nat × Part) :=
  (vaParts s (engDstWho q c) .write (blocksOf va n)).1.filterMap (fun p =>
    if inWindow p.ia then none
    else match (lookupPage s p.ia p.cls).1 with
      | .ok e => if leafTier e.w0 = 2 then some (ownerNode s e, p) else none
      | .error _ => none)

/-- Ask the owners of the parts whether they take a write there, by one that writes no byte: whether all have answered (R142; log 88). -/
def rowAsk (s : State) (who : Who) : List (Nat × Part) → Bool × State
  | [] => (true, s)
  | (node, p) :: l =>
    let r : Bool × State := match findOut s who.key p.ia with
      | some o => ((findReply s o.uid).isSome, s)
      | none => if linkUp s (portTile p.ia) node then (false, sendForward s who node p.ia p.cls (.write (List.replicate p.len none))) else (true, s)
    match rowAsk r.2 who l with
    | (rest, s) => (r.1 && rest, s)

/-- The first cause with which an owner refuses a part of a row. -/
def rowRefused (s : State) (who : Who) (l : List (Nat × Part)) : Option (Cause × Word) :=
  l.findSome? (fun x => match findOut s who.key x.2.ia with
    | none => some (Cause.unreach, x.2.va)
    | some o => match findReply s o.uid with
      | some a => if a.1 = 0 then none else some (a.1, x.2.va)
      | none => none)

/-- A row is checked whole before its first byte is written, here and at the owners of its pages (R142; log 88). -/
def rowCheck (s : State) (q : Nat) (c : EngCmd) (va : Word) (n : Nat) : ERes × State :=
  match rowFault s q c va n with
  | some e => (.stop e.1 e.2, s)
  | none =>
    let who := engElemWho (engDstWho q c) 0
    let l := remoteParts s q c va n
    match rowAsk s who l with
    | (false, s) => (.wait, s)
    | (true, s) =>
      let r := rowRefused s who l
      let s := dropAsks s who.key (l.map (·.2))
      match r with
      | some e => (.stop e.1 e.2, s)
      | none => (.ok [], s)

/-- The next step of a CSRB: it reads a row's pointers, takes one value into the row, or writes the row's next line. `tmp` holds
the next and the last position (one beyond it once the row has been checked), the bytes written, then the row (R142); a row that
faults is not written. -/
def csrbStep (s : State) (q : Nat) (c : EngCmd) : State :=
  let w := engW c
  let esz := 2 ^ bitsOf (w 5) 33 32
  let cols := engCols (w 4)
  let who := engWho q c
  if engRows (w 4) ≤ c.pos then endCmd s q c 0 0 0
  else match c.tmp with
    | k :: b :: sub :: row =>
      if k < b then
        let ca := w 1 + BitVec.ofNat 64 (4 * k)
        match engRead s who ca 4 with
        | (.wait, s) => s
        | (.stop e va, s) => csrbStop s q c true e va
        | (.ok cb, s) =>
          let x := ofBytes cb
          if cols ≤ x then csrbStop s q c true Cause.csrbad ca
          else match engRead s who (w 2 + BitVec.ofNat 64 (k * esz)) esz with
            | (.wait, s) => s
            | (.stop e va, s) => csrbStop s q c true e va
            | (.ok vb, s) => putCmd s q { c with tmp := (k + 1) :: b :: sub :: putElem row (x * esz) vb }
      else if cols * esz ≤ sub then putCmd s q { c with pos := c.pos + 1, done := c.done + 1, tmp := [] }
      else if k = b then
        match rowCheck s q c (w 3 + BitVec.ofNat 64 (c.pos * bitsOf (w 5) 31 0)) (cols * esz) with
        | (.wait, s) => s
        | (.stop e v, s) => csrbStop s q c false e v
        | (.ok _, s) => putCmd s q { c with tmp := (b + 1) :: b :: sub :: row }
      else
        let va := w 3 + BitVec.ofNat 64 (c.pos * bitsOf (w 5) 31 0 + sub)
        let n := chunkLen s q c va (cols * esz - sub)
        match engWrite s q c va (((row.drop sub).take n).map (BitVec.ofNat 8)) with
        | (.wait, c, s) => putCmd s q c
        | (.stop e v, c, s) => csrbStop s q c false e v
        | (.ok _, c, s) => putCmd s q { c with tmp := k :: b :: (sub + n) :: row }
    | _ =>
      let pa := w 0 + BitVec.ofNat 64 (4 * c.pos)
      match engRead s who pa 8 with
      | (.wait, s) => s
      | (.stop e va, s) => csrbStop s q c true e va
      | (.ok bs, s) =>
        let a := ofBytes (bs.take 4)
        let b := ofBytes (bs.drop 4)
        if b < a then csrbStop s q c true Cause.csrbad pa
        else putCmd s q { c with tmp := a :: b :: 0 :: List.replicate (cols * esz) 0 }

/-- CSRB (R142). -/
def execCsrb (s : State) : Out := engTurn s 6 csrbStep

/-! ### HASH (R143) -/

/-- The next step of a HASH: it reads one line, then writes the digest. -/
def hashStep (s : State) (q : Nat) (c : EngCmd) : State :=
  let len := (engW c 1).toNat
  if c.done < len then
    let va := engW c 0 + BitVec.ofNat 64 c.done
    let n := min (len - c.done) (128 - va.toNat % 128)
    match engRead s (engWho q c) va n with
    | (.wait, s) => s
    | (.stop e v, s) => stopCmd s q c true e v
    | (.ok bs, s) => putCmd s q { c with done := c.done + n, tmp := c.tmp ++ bs.map (·.toNat) }
  else if c.pos = 1 then endCmd s q c 0 0 0
  else
    match engWrite s q c (engW c 2) (shake256 (bytesOf 8 len ++ c.tmp.map (BitVec.ofNat 8))) with
    | (.wait, c, s) => putCmd s q c
    | (.stop e v, c, s) => stopCmd s q c false e v
    | (.ok _, c, s) => putCmd s q { c with pos := 1 }

/-- HASH (R143). -/
def execHash (s : State) : Out := engTurn s 10 hashStep

/-! ### REDUCE (R144) -/

/-- The function code of RED's operation (R107, R144). -/
def redFn (op : Nat) : Nat := if 8 ≤ op then op + 8 else op

/-- The next element of a REDUCE, merged as the matching RED is. A cause at the destination stops it with FAULT, but for
uncorrectable data of the destination, which the merge reads: POISON (R134; log 84). -/
def reduceStep (s : State) (q : Nat) (c : EngCmd) : State :=
  let op := bitsOf (engW c 3) 3 0
  let esz := redSize op (bitsOf (engW c 3) 4 4)
  if (engW c 2).toNat ≤ c.done then endCmd s q c 0 0 0
  else
    let off := BitVec.ofNat 64 (c.done * esz)
    match orRead s c (fun s => engRead s (engWho q c) (engW c 0 + off) esz) with
    | (.wait, s) => s
    | (.stop e v, s) => stopCmd s q c true e v
    | (.ok bs, s) =>
      let va := engW c 1 + off
      let b := ofBytes bs
      let f (old : List Byte) : List Byte := bytesOf esz (combine (redFn op) esz (ofBytes old) b 0).1
      if !canonical va then stopCmd s q c false Cause.noncanon va
      else if outsideShadow s c va esz then stopCmd s q c false Cause.shadowcfg va
      else match rmwVA s (engDstWho q c) va esz true [redFn op, b, 0] f with
        | (.wait, s) => putCmd s q { c with hold := bs }
        | (.fault e, s) => stopCmd s q c true e va
        | (.ok old, s) =>
          let s := countEvents s (engCtx c) (engTile q) (combine (redFn op) esz (ofBytes old) b 0).2
          match performed s c esz with
          | (s, c) => putCmd s q { c with done := c.done + 1 }

/-- REDUCE (R144). -/
def execReduce (s : State) : Out := engTurn s 11 reduceStep

/-! ### Collectives (R145 to R148) -/

/-- What another member has told this command. -/
def noticeFrom (s : State) (q : Nat) (c : EngCmd) (kind src : Nat) : Option CollMsg :=
  s.eng.coll.find? (fun n => n.quad == q && n.tag == engTag c && n.kind == kind && n.src == src)

/-- The other members of a collective. -/
def others (s : State) (q : Nat) (c : EngCmd) : List Nat := c.waits.filter (· != s.boot.node * 512 + q)

/-- Every other member has been accepted (R145). -/
def allMet (s : State) (q : Nat) (c : EngCmd) : Bool := (others s q c).all (fun e => (noticeFrom s q c 0 e).isSome)

/-- A member met has other operands (R145); another opcode under the same TAG, which R145's list does not name, counts as a mismatch
(log 85). -/
def someMismatch (s : State) (q : Nat) (c : EngCmd) : Bool :=
  (others s q c).any (fun e => match noticeFrom s q c 0 e with
    | some n => n.info != [engOp c, collN c, collCount c, (engW c 5).toNat, (engW c 6).toNat]
    | none => false)

/-- COLLECTIVE_BEGIN of command `ops` = [quad, uid] (R145): COLLMIS where a member met differs, else the collective begins once
every member has been accepted. -/
def execCollectiveBegin (s : State) : Out :=
  let q := s.op 0
  let s := settleOwed s
  match findCmd s q (s.op 1) with
  | none => .next s
  | some c =>
    if c.state ≠ .running ∨ c.stopped = true ∨ c.waits = [] then .next s
    else if someMismatch s q c then .next (endCmd s q c 3 Cause.collmis 0)
    else if !allMet s q c then .next s
    else
      .next (putCmd (mapNotices s c (fun e l => dropAcceptance q (engTag c) e (dropStale q (engTag c) e l))) q { c with state := .met })

/-- What a member has told of the collective that a command takes part in: up to its next acceptance, and from its first where
the collective has not begun. -/
def noticesOf (s : State) (q : Nat) (c : EngCmd) (src : Nat) : List CollMsg :=
  let l := s.eng.coll.filter (fun n => n.isFrom q (engTag c) src)
  let l := if c.state = .met then l else (l.dropWhile (fun n => n.kind != 0)).drop 1
  l.takeWhile (fun n => n.kind != 0)

/-- The cause with which a member has ended, if one has: 0 for an end that names none (R148). -/
def someEnded (s : State) (q : Nat) (c : EngCmd) : Option Nat :=
  ((others s q c).flatMap (fun e => (noticesOf s q c e).filter (fun n => n.kind == 2))).head?.map (fun n => nth 0 n.info 0)

/-- COLLECTIVE_ABORT of command `ops` = [quad, uid]: another member has ended, and so does this one, with STATUS ABORT, or with
COLLMIS where that was found (R145, R148). -/
def execCollectiveAbort (s : State) : Out :=
  let q := s.op 0
  let s := settleOwed s
  match findCmd s q (s.op 1) with
  | none => .next s
  | some c =>
    if c.stopped = true ∨ c.waits = [] then .next s
    else match someEnded s q c with
      | none => .next s
      | some e => .next (if e = Cause.collmis.toNat then endCmd s q c 3 Cause.collmis 0 else endCmd s q c 5 0 0)

/-- A value of the tree, with the events of the combinations that made it. -/
abbrev TreeVal := Nat × List Nat

/-- Two neighbours of the tree combined, as RED combines (R107, R147). -/
def collPair (op esz : Nat) (a b : TreeVal) : TreeVal :=
  match combine (redFn op) esz a.1 b.1 0 with
  | (v, ev) => (v, a.2 ++ b.2 ++ ev)

/-- One level of the tree: neighbours combined, an unpaired last value moves up (R147). -/
def collLevel (op esz : Nat) : List TreeVal → List TreeVal
  | a :: b :: l => collPair op esz a b :: collLevel op esz l
  | l => l

/-- The value of the tree (R147). -/
def collTree (op esz : Nat) : Nat → List TreeVal → TreeVal
  | _, [] => (0, [])
  | _, [a] => a
  | 0, a :: _ => a
  | n + 1, l => collTree op esz n (collLevel op esz l)

/-- Source bytes of a collective: none where only the root's source is read (R146). -/
def collSrcLen (c : EngCmd) : Nat :=
  let n := collCount c * collSize c
  if engOp c = 14 then collN c * n else if engOp c = 15 ∧ collRank c ≠ bitsOf (engW c 6) 19 0 then 0 else n

/-- A member's source bytes as this command has them: its own, or what the member has sent (R148). -/
def contribution (s : State) (q : Nat) (c : EngCmd) (rank : Nat) : Option (List Byte) :=
  if rank = collRank c then some (c.tmp.map (BitVec.ofNat 8))
  else ((noticesOf s q c (nth 0 c.waits rank)).find? (fun n => n.kind == 1)).map (·.bytes)

/-- Element `i` of a list of bytes. -/
def elemOf (esz i : Nat) (bs : List Byte) : Nat := ofBytes ((bs.drop (i * esz)).take esz)

/-- Element i of a member's destination in ALLRED or RSCAT, from the contributions of all in rank order (R146, R147). -/
def collElem (c : EngCmd) (srcs : List (List Byte)) (i : Nat) : TreeVal :=
  let esz := collSize c
  let i := if engOp c = 14 then collRank c * collCount c + i else i
  collTree (bitsOf (engW c 5) 3 0) esz 21 (srcs.map (fun bs => (elemOf esz i bs, [])))

/-- Bytes of a member's destination from the contributions of all, in rank order (R146, R147). -/
def collResult (c : EngCmd) (srcs : List (List Byte)) (off n : Nat) : List Byte :=
  let esz := collSize c
  let byte (i : Nat) : Byte :=
    let o := off + i
    match engOp c with
    | 13 => nth 0 (nth [] srcs (o / (collCount c * esz))) (o % (collCount c * esz))
    | 15 => nth 0 (nth [] srcs (bitsOf (engW c 6) 19 0)) o
    | _ => nth 0 (bytesOf esz (collElem c srcs (o / esz)).1) (o % esz)
  (List.range n).map byte

/-- The numeric events of the elements whose first byte lies among these bytes of a destination (R190, R191). -/
def collEvents (c : EngCmd) (srcs : List (List Byte)) (off n : Nat) : List Nat :=
  if engOp c = 13 ∨ engOp c = 15 then []
  else ((List.range n).filter (fun i => (off + i) % collSize c == 0)).flatMap (fun i => (collElem c srcs ((off + i) / collSize c)).2)

/-- The ranks whose sources contribute (R146). -/
def contributors (c : EngCmd) : List Nat := if engOp c = 15 then [bitsOf (engW c 6) 19 0] else List.range (collN c)

/-- All contributions, if they have arrived; a rank that contributes nothing counts as empty. -/
def allContributions (s : State) (q : Nat) (c : EngCmd) : Option (List (List Byte)) :=
  let l := (List.range (collN c)).map (fun r =>
    if (contributors c).contains r then contribution s q c r else some [])
  if l.all Option.isSome then some (l.map (·.getD [])) else none

/-- The next step of a collective that has begun: it reads its source line by line, sends it to the others, waits for theirs,
and writes its destination in ascending order (R146 to R148). `pos` is 1 once the source has been sent. The events of a member's
combinations count for its own context (R191; log 85). -/
def collStep (s : State) (q : Nat) (c : EngCmd) : State :=
  let dst := collCount c * collSize c * (if engOp c = 13 then collN c else 1)
  if c.state ≠ .met then s
  else if c.tmp.length < collSrcLen c then
    let va := engW c 2 + BitVec.ofNat 64 c.tmp.length
    let n := min (collSrcLen c - c.tmp.length) (128 - va.toNat % 128)
    match engRead s (engWho q c) va n with
    | (.wait, s) => s
    | (.stop e v, s) => stopCmd s q c true e v
    | (.ok bs, s) => putCmd s q { c with tmp := c.tmp ++ bs.map (·.toNat) }
  else if c.pos = 0 then
    let s := if (contributors c).contains (collRank c) then tellMembers s q c 1 [] (c.tmp.map (BitVec.ofNat 8)) else s
    putCmd s q { c with pos := 1 }
  else match allContributions s q c with
    | none => s
    | some srcs =>
      if dst ≤ c.done then endCmd s q c 0 0 0
      else
        let va := engW c 3 + BitVec.ofNat 64 c.done
        let n := chunkLen s q c va (dst - c.done)
        match engWrite s q c va (collResult c srcs c.done n) with
        | (.wait, c, s) => putCmd s q c
        | (.stop e v, c, s) => stopCmd s q c false e v
        | (.ok _, c, s) =>
          putCmd (countEvents s (engCtx c) (engTile q) (collEvents c srcs c.done n)) q { c with done := c.done + n }

/-- ALLRED (R146). -/
def execAllred (s : State) : Out := engTurn s 12 collStep

/-- ALLGATH (R146). -/
def execAllgath (s : State) : Out := engTurn s 13 collStep

/-- RSCAT (R146). -/
def execRscat (s : State) : Out := engTurn s 14 collStep

/-- BCAST (R146). -/
def execBcast (s : State) : Out := engTurn s 15 collStep

/-! ### PUBLISH (R149) -/

/-- PUBLISH of an entry (R149): it waits for the commands that write the shadow and were accepted before it, which `tmp` has named
since its acceptance, and swaps in one step; DONE is the new VER. -/
def publishStep (s : State) (q : Nat) (c : EngCmd) : State :=
  let e := bitsOf (engW c 0) 5 0
  if !engDrained s c.tmp then s
  else
    let s := publishSwap s (engCtx c) e
    let ver := bitsOf ((getCtx s (engCtx c)).bufmap.getD e (0, 0, 0, 0)).2.1 31 16
    endCmd s q { c with done := ver } 0 0 0

/-- PUBLISH_COMMAND (R149). -/
def execPublishCommand (s : State) : Out := engTurn s 16 publishStep

/-! ### PREFETCH, MIGRATE (R150, R151) -/

/-- The next page of a PREFETCH: walked and cached, and nominated where R150 lets it. DONE counts a page that is walked; one whose
VA fails its checks is not, and counts in AUX; a page of the window is neither (log 87). -/
def prefetchStep (s : State) (q : Nat) (c : EngCmd) : State :=
  if (engW c 1).toNat ≤ c.pos then endCmd s q c 0 0 0
  else
    let va := engW c 0 + BitVec.ofNat 64 (c.pos * 65536)
    let passed := { c with pos := c.pos + 1 }
    let walked := { passed with done := c.done + 1 }
    match translate s (engWho q c) va .read with
    | .error _ => putCmd s q { passed with aux := c.aux + 1 }
    | .ok r =>
      if inWindow r.1 then putCmd s q passed
      else match lookupPage s r.1 r.2 with
        | (.error _, s) => putCmd s q { walked with aux := c.aux + 1 }
        | (.ok e, s) => putCmd (if nominable e && r.2 != 3 then nominate s e else s) q walked

/-- PREFETCH (R150). -/
def execPrefetch (s : State) : Out := engTurn s 7 prefetchStep

/-- A page of a MIGRATE is done: moved (or unsettled), or skipped. -/
def migrateNext (s : State) (q : Nat) (c : EngCmd) (moved : Bool) : State :=
  putCmd s q { c with pos := c.pos + 1, tmp := [], done := c.done + moved.toNat, aux := c.aux + (!moved).toNat }

/-- A page is where MIGRATE wants it: in the tier, or in the pool that is named (R151). -/
def alreadyThere (e : TEntry) (tgt pool : Nat) : Bool :=
  leafTier e.w0 == tgt && (pool == 255 || poolOfFrame (leafTier e.w0) (leafFrame e.w0) == pool)

/-- TGT 0 and 1: a page is skipped, or its move starts (R151); a page whose move is under way is skipped too (log 87). -/
def migrateTier (s : State) (q : Nat) (c : EngCmd) (e : TEntry) (cls : Nat) : State :=
  let tgt := bitsOf (engW c 2) 1 0
  let pool := bitsOf (engW c 2) 39 32
  if alreadyThere e tgt pool || leafPin e.w0 || 2 ≤ cls || e.cls3 || e.level != 3 || leafTier e.w0 == 2
      || !stampsAllow s e.w1 || (moveOf s e.page).isSome then migrateNext s q c false
  else match takeFrame s (poolOrder tgt pool e.page) with
    | none => migrateNext s q c false
    | some (f, s) => putCmd (startMove s e tgt f none) q { c with tmp := [1, e.page, f] }

/-- TGT 2 at HOME: a pull on behalf of NODE (R151, R58). -/
def migrateOwner (s : State) (q : Nat) (c : EngCmd) (e : TEntry) : State :=
  let node := bitsOf (engW c 2) 27 8
  if !leafDir e.w0 then migrateNext s q c false
  else match dirOf s e.page with
    | none => migrateNext s q c false
    | some d => if pullGranted s d node then putCmd (startPull s d node none) q { c with tmp := [2, e.page] }
        else migrateNext s q c false

/-- UNS at HOME: it clears SETTLED and MOVES of a page with a directory (R59, R151). -/
def unsettle (s : State) (e : TEntry) : State :=
  match dirOf s e.page with
  | none => s
  | some d => setDir s { d with settled := false, moves := 0 }

/-- HOME is another node: it is asked to unsettle the page and to pull it for NODE, in one message, whose answer is waited for; a
page whose HOME no link reaches is skipped (R58, R59, R135, R151; log 87). -/
def askHome (s : State) (q : Nat) (c : EngCmd) (e : TEntry) : State :=
  let pull := bitsOf (engW c 2) 1 0 == 2
  if !reachable s (leafHome e.w1) then migrateNext s q c false
  else putCmd (askNode s (engKey c) homeTag (leafHome e.w1) 13
      [(bitOf (engW c 2) 2).toNat, pull.toNat, e.page, bitsOf (engW c 2) 27 8]) q { c with tmp := [3] }

/-- The page of a MIGRATE is unsettled, where it asks to: the target comes next. -/
def migrateTarget (s : State) (q : Nat) (c : EngCmd) (e : TEntry) (cls : Nat) : State :=
  match bitsOf (engW c 2) 1 0 with
  | 3 => migrateNext s q c true
  | 2 => migrateOwner s q c e
  | _ => migrateTier s q c e cls

/-- A page of a MIGRATE: what HOME does first, then the target. `tmp` is [4] once another HOME has unsettled the page. -/
def migratePage (s : State) (q : Nat) (c : EngCmd) (e : TEntry) (cls : Nat) : State :=
  let uns := bitOf (engW c 2) 2 && c.tmp.isEmpty
  let pull := bitsOf (engW c 2) 1 0 == 2
  if uns && !leafDir e.w0 then migrateNext s q c false
  else if (uns || (pull && leafDir e.w0)) && leafHome e.w1 != s.boot.node then askHome s q c e
  else migrateTarget (if uns then unsettle s e else s) q c e cls

/-- HOME's answer to a MIGRATE, if it has come. -/
def homeAnswer (s : State) (c : EngCmd) : Option ((Cause × List Byte) × State) :=
  match s.xl.fwdOut.find? (fun o => o.key == engKey c && o.ia == homeTag) with
  | none => some ((1, []), s)
  | some o => (findReply s o.uid).map (fun a => (a, dropOut s o.uid))

/-- What a MIGRATE waits for: the move that it has started, or another HOME's answer; it counts what came of it. -/
def migrateWait (s : State) (q : Nat) (c : EngCmd) : State :=
  let page := nth 0 c.tmp 1
  match nth 0 c.tmp 0 with
  | 1 =>
    if (moveOf s page).isSome then s
    else migrateNext s q c (match s.xl.tcache.get? page with
      | some e => leafTier e.w0 == bitsOf (engW c 2) 1 0 && leafFrame e.w0 == nth 0 c.tmp 2
      | none => false)
  | 2 =>
    match s.xl.dirs.get? page with
    | some d => if d.moving then s else migrateNext s q c (d.owner == bitsOf (engW c 2) 27 8)
    | none => migrateNext s q c false
  | _ =>
    match homeAnswer s c with
    | none => s
    | some (a, s) =>
      if a.1 ≠ 0 ∨ 2 ≤ bitsOf (engW c 2) 1 0 then migrateNext s q c (a.1 == 0)
      else putCmd s q { c with tmp := [4] }

/-- The next page of a MIGRATE (R151); during a checkpoint it waits before a page. -/
def migrateStep (s : State) (q : Nat) (c : EngCmd) : State :=
  if c.tmp ≠ [] ∧ c.tmp ≠ [4] then migrateWait s q c
  else if s.eng.ckpt.isSome ∧ c.tmp = [] then s
  else if (engW c 1).toNat ≤ c.pos then endCmd s q c 0 0 0
  else
    let va := engW c 0 + BitVec.ofNat 64 (c.pos * 65536)
    match translate s (engWho q c) va .write with
    | .error e => stopCmd s q c false e va
    | .ok r =>
      if inWindow r.1 then migrateNext s q c false
      else match lookupPage s r.1 r.2 with
        | (.error e, s) => stopCmd s q c false e va
        | (.ok e, s) => migratePage s q c e r.2

/-- MIGRATE (R151). -/
def execMigrate (s : State) : Out := engTurn s 8 migrateStep

end Sys2Proof.Machine
end

