-- ==== Sys2Proof/Machine/BarrierEvents.lean ====
section
/-! DEFINITION. Barrier events (R112 to R119, R398): BARRIER_ARRIVAL, BARRIER_DISCHARGE, BARRIER_COMPLETE, BWAIT_OBSERVE,
POD_BARRIER_JOIN, POD_BARRIER_COMPLETION, BARRIER_PRIO_UPDATE, POD_BARRIER_POISON, INHERITANCE_FLOOR. -/
namespace Sys2Proof.Machine

/-! ### Arrivals (R114) -/

/-- The tile that makes an arrival, where one does. -/
def Arriver.tile : Arriver → Option Tid
  | .core t _ => some t
  | .tap t _ => some t
  | .engine q => some (engTile q)
  | .launch _ => none
  | .child _ => none

/-- The arrival is a child share's (R119). -/
def Arriver.isChild : Arriver → Bool
  | .child _ => true
  | _ => false

/-- The cause that refuses an arrival: BARSCOPE, then BAROVER (R112, R114); a child share is in no context. -/
def arrivalCause (b : Barrier) (a : Arrival) : Option Cause :=
  let outside := match a.src.tile with
    | some t => !barInside a.id t
    | none => false
  if barMalformed a.id || !b.v || outside || (!a.src.isChild && b.ctx != a.ctx) then some Cause.barscope
  else if b.arrived + a.n ≤ b.expect then none
  else if b.early + (b.arrived + a.n - b.expect) ≤ b.expect then none
  else some Cause.barover

/-- A barrier after an arrival that it takes (R114). -/
def Barrier.arrive (b : Barrier) (n : Nat) : Barrier :=
  if b.arrived + n ≤ b.expect then { b with arrived := b.arrived + n }
  else { b with early := b.early + (b.arrived + n - b.expect), arrived := b.expect }

/-- Tell the agent of an arrival what the node says: a core gets an answer, a
launch's signal tells the host, any other context gets an event (R114, R119, R295, R401). -/
def answerArrival (s : State) (b : Barrier) (a : Arrival) (e : Option Cause) : State :=
  match a.src, e with
  | .core _ uid, _ => { s with bar := { s.bar with answers := s.bar.answers.set uid (e.getD 0) } }
  | _, none => s
  | .tap t u, some c => appendEvent s a.ctx ⟨c, 2, u, t, a.lid, 0, 0⟩
  | .engine q, some c => engEvent s q a.ctx c 0
  | .launch lid, some c => hostEvent s c a.ctx lid 0 0
  | .child _, some c => appendEvent s b.ctx ⟨c, 3, 0, 0, 0, 0, 0⟩

/-- BARRIER_ARRIVAL: arrival number `ops`[0] of those under way is applied, or refused (R114). -/
def execBarrierArrival (s : State) : Out :=
  match s.bar.arrivals[s.op 0]? with
  | none => .next s
  | some a =>
    let s := { s with bar := { s.bar with arrivals := dropNth s.bar.arrivals (s.op 0) } }
    let b := getBar s a.id
    match arrivalCause b a with
    | some c => .next (answerArrival s b a (some c))
    | none => .next (answerArrival (setBar s a.id (b.arrive a.n)) b a none)

/-- BARRIER_DISCHARGE: discharge number `ops`[0] of those under way lowers PENDING (R115). -/
def execBarrierDischarge (s : State) : Out :=
  match s.bar.discharges[s.op 0]? with
  | none => .next s
  | some d =>
    let s := { s with bar := { s.bar with discharges := dropNth s.bar.discharges (s.op 0) } }
    let b := getBar s d.1
    .next (setBar s d.1 { b with pending := b.pending - d.2 })

/-- BARRIER_COMPLETE of barrier `ops`[0]: ARRIVED = EXPECT and PENDING = 0 (R116, R119). -/
def execBarrierComplete (s : State) : Out := .next (barTest s (s.op 0))

/-- BWAIT_OBSERVE: the BWAIT of core `ops`[0] sees its phase complete (R116, R117, R296). -/
def execBwaitObserve (s : State) : Out :=
  let t := s.op 0
  let c := getCore s t
  match c.run, c.waiting with
  | some _, .bwait id p d =>
    let b := getBar s id
    .next (if phaseDone b.phase p then setCore s t { (c.setGpr d (barResult b p)).advance with waiting := .none } else s)
  | _, _ => .next s

/-! ### Pod barriers (R119) -/

/-- POD_BARRIER_JOIN: the oldest join from a child share; its PHASE field holds the key of the answer. Refused where the share
is not initialised or has 64 children (R119). -/
def execPodBarrierJoin (s : State) : Out :=
  match s.bar.joins with
  | [] => .next s
  | m :: rest =>
    let s := { s with bar := { s.bar with joins := rest } }
    let b := getBar s m.id
    if barMalformed m.id || !b.v || 64 ≤ b.children.length then
      .next (sendNode s m.node 1 [10, m.phase, Cause.barcfg.toNat])
    else
      let kids := if b.children.contains m.node then b.children else b.children ++ [m.node]
      .next (sendNode (setBar s m.id { b with children := kids }) m.node 1 [10, m.phase, 0])

/-- POD_BARRIER_COMPLETION: the oldest completion from the parent share is applied with its STATUS and passed on (R116, R119). -/
def execPodBarrierCompletion (s : State) : Out :=
  match s.bar.completions with
  | [] => .next s
  | m :: rest =>
    let s := { s with bar := { s.bar with completions := rest } }
    let b := getBar s m.id
    .next (completeBar (setBar s m.id { b with
      status := m.status, pending := if m.status = 1 then 0 else b.pending }) m.id)

/-- BARRIER_PRIO_UPDATE: the oldest PRIO message. From the parent it goes down to every child share, from a child up to the
top (R118, R119). -/
def execBarrierPrioUpdate (s : State) : Out :=
  match s.bar.prios with
  | [] => .next s
  | m :: rest =>
    let s := { s with bar := { s.bar with prios := rest } }
    let b := getBar s m.id
    if b.root ≠ s.boot.node ∧ m.node = b.root then
      .next (b.children.foldl (fun s n => sendNode s n 0 [7, m.id, m.prio]) (setBar s m.id { b with prio := min b.prio m.prio }))
    else .next (lowerPrio s m.id m.prio)

/-- POD_BARRIER_POISON: the oldest poisoned arrival: it goes up to the top, which completes the phase with POISON (R119). -/
def execPodBarrierPoison (s : State) : Out :=
  match s.bar.poisons with
  | [] => .next s
  | m :: rest => .next (poisonBar { s with bar := { s.bar with poisons := rest } } m.id)

/-! ### Inheritance (R398) -/

/-- INHERITANCE_FLOOR `ops` = [context, quad]: the floor that the context's barriers set reaches its holders in the quad (R398). -/
def execInheritanceFloor (s : State) : Out :=
  let k := s.op 0 * 512 + s.op 1
  let f := quadFloor s (s.op 0) (s.op 1)
  .next { s with bar := { s.bar with floors := if f = 7 then s.bar.floors.erase k else s.bar.floors.set k f } }

end Sys2Proof.Machine
end

