-- ==== Sys2Proof/Machine/Arbiter.lean ====
section
/-! DEFINITION. Shared resources (R395 to R399): slots, reservation tables, effective classes, and whose request a slot grants. -/
namespace Sys2Proof.Machine

/-! ### Slots and tables (R395, R397) -/

/-- Cycles of a slot of a resource kind; kinds are numbered in the order of R397's table, from 0. -/
def slotCycles : Nat → Nat
  | 2 | 3 => 16
  | 7 | 14 => 8
  | 8 => 6
  | 9 | 10 => 4
  | 12 => 2
  | _ => 1

/-- Cycles of a frame. -/
def frameCycles (kind : Nat) : Nat := 256 * slotCycles kind

/-- The slot, 0 to 255, that the package cycle count names now. -/
def slotNow (s : State) (kind : Nat) : Nat := s.clk.cycle / slotCycles kind % 256

/-- A frame boundary has come since a cycle. -/
def framePassed (s : State) (kind since : Nat) : Bool := since / frameCycles kind != s.clk.cycle / frameCycles kind

/-- Byte k of the reservation table in effect: a table written takes effect at the next frame boundary. -/
def rsvtByte (s : State) (kind k : Nat) : Nat :=
  match s.ln.rsvtNew.get? kind with
  | some (since, t) => if framePassed s kind since then (t.getD k 0).toNat else (s.ln.rsvt.getD (kind * 256 + k) 0).toNat
  | none => (s.ln.rsvt.getD (kind * 256 + k) 0).toNat

/-- A reservation table that has taken effect stands as the one in effect. -/
def foldTable (s : State) (kind : Nat) : State :=
  match s.ln.rsvtNew.get? kind with
  | some (since, t) =>
    if framePassed s kind since then
      { s with ln := { s.ln with
        rsvt := (List.range 256).foldl (fun m i => SMap.put 0 m (kind * 256 + i) (t.getD i 0)) s.ln.rsvt
        rsvtNew := s.ln.rsvtNew.erase kind } }
    else s
  | none => s

/-! ### Who is granted (R396, R398) -/

/-- Place of a request in a slot, the least first: the slot's owner, one that has waited a whole frame, then by effective class
(R396). Among equals the oldest is granted. -/
def grantRank (s : State) (kind rsv cls : Nat) (aged : Bool) : Nat :=
  let owner := rsvtByte s kind (slotNow s kind)
  if owner ≠ 0 ∧ rsv = owner then 0 else if aged then 1 else 2 + cls

/-- A request has waited at least one whole frame. -/
def waitedFrame (s : State) (kind since : Nat) : Bool := since + frameCycles kind ≤ s.clk.cycle

/-- Reservation identifier of a launch's requests; 0 where the launch is gone (R396). -/
def launchRsv (s : State) (lid : Nat) : Nat := ((findLaunch s lid).map (·.rsv)).getD 0

/-- Effective class of an armed section at a tile: its launch's, or the floor of its context there where that is lower (R398;
log 144). -/
def sectionClass (s : State) (k : Nat) (t : Tid) : Nat :=
  let own := ((findLaunch s (getSec s k).launch).map (·.cls)).getD 7
  min own (floorAt s (k / 64) (quadOf t))

/-- Effective class of an engine command by its header: PRIO, or the PRIO of the barrier that it is charged to where that is lower
(R124, R398). -/
def commandClass (s : State) (w : List Word) : Nat :=
  let own := bitsOf (nth 0 w 0) 49 47
  let b := getBar s (bitsOf (nth 0 w 1) 31 0)
  if bitOf (nth 0 w 0) 30 && b.v then min own b.prio else own

/-- The first of least rank. -/
def bestRank {α : Type} : List (Nat × α) → Option (Nat × α)
  | [] => none
  | x :: l => match bestRank l with
    | some y => if y.1 < x.1 then some y else some x
    | none => some x

end Sys2Proof.Machine
end

