-- ==== Sys2Proof/Machine/TaskEvents.lean ====
section
/-! DEFINITION. The course of a task (R195 to R206, R388 to R394, R422 to R425): SIGNAL, DRILL_EXAMINE, DRILL_RETEST, CLAIM_REQUEST,
GRANARY_LOOKUP, DRILL_POP, PARK_WAKE, TASK_RETIRE, PREEMPTION_REQUEST, PREEMPT_DRAIN_EXPIRY. -/
namespace Sys2Proof.Machine

/-! ### Records -/

/-- A record in the drill queues. -/
def findRec (s : State) (rid : Nat) : Option TaskRec := s.tk.drill.find? (fun r => r.rid == rid)

/-- Replace a record in the drill queues. -/
def putRec (s : State) (r : TaskRec) : State :=
  { s with tk := { s.tk with drill := s.tk.drill.map (fun x => if x.rid = r.rid then r else x) } }

/-- Take a record out of the drill queues. -/
def dropRec (s : State) (rid : Nat) : State :=
  { s with tk := { s.tk with drill := s.tk.drill.filter (fun x => x.rid != rid) } }

/-- The quad whose drill unit examines a record: its own, or the first of its launch. -/
def drillQuad (s : State) (r : TaskRec) : Nat :=
  if r.bank < 8 then r.quad
  else match findLaunch s r.launch with
    | some l => ((l.quads.filter (fun q => dieOfQuad q == r.die)).head?).getD (nth 0 l.quads 0)
    | none => 0

/-- The drill unit acting for a record's context (R420). -/
def drillWho (s : State) (r : TaskRec) : Who :=
  { Who.self r.ctx 6 (quadCore (drillQuad s r)) with key := agentKey 9 r.rid }

/-- A context whose records may be moved on (R429). -/
def ctxRuns (s : State) (ctx : Nat) : Bool := (getCtx s ctx).state == .active

/-! ### Signals (R202) -/

/-- A cause of a signal goes to the signalling context (R202). -/
def signalEvent (s : State) (g : Signal) (e : Cause) : State := appendEvent s g.ctx ⟨e, 3, 0, g.tid, g.lid, g.cr, 0⟩

/-- The record that a signal has brought due: it belongs to the launch that word 5 names. A record that no SPAWN has placed names
none that is live, and joins its signaller's (DESIGN CHOICE, log 21); with that gone too, or its context killed, nothing is
enqueued. -/
def enqueueSignalled (s0 s : State) (g : Signal) (w5 : Word) : State :=
  if (getCtx s g.ctx).state = .killed then s
  else
  let own (lid : Nat) : Bool := (findLaunch s lid).any (fun l => l.ctx == g.ctx)
  if own (bitsOf w5 63 48) then (enqueueDue s g.cr g.ctx w5).getD s0
  else if own g.lid then
    (enqueueDue (updLaunch s g.lid (fun l => { l with live := l.live + 1 })) g.cr g.ctx (withBits w5 63 48 g.lid)).getD s0
  else s

/-- Perform a signal: JOIN is decremented at its PoC; the signal that brings it to 0 enqueues the record with word 5 as it is then
(R200, R202). A signal whose record finds every bank full is not begun. -/
def performSignal (s0 s : State) (g : Signal) : State :=
  let who := { Who.self g.ctx 6 g.tid with key := agentKey 12 g.tid }
  match readVA s who (g.cr + 40) 8 with
  | (.wait, s) => { s0 with xl := s.xl, host := s.host }
  | (w5, s) =>
    match rmwVA s who (g.cr + 32) 8 false [33, 0, 0] joinLess with
    | (.wait, s) => { s0 with xl := s.xl, host := s.host }
    | (.fault e, s) => signalEvent s g e
    | (.ok old, s) =>
      let j := ofBytes old % 2 ^ 24
      if j = 0 then signalEvent s g Cause.sigunder
      else if j ≠ 1 then s
      else match w5 with
        | .ok bs => enqueueSignalled s0 s g (BitVec.ofNat 64 (ofBytes bs))
        | .fault e => signalEvent s g e
        | .wait => s

/-- SIGNAL: number `ops`[0] of those under way, the oldest of its tile (R202, R203). -/
def execSignal (s : State) : Out :=
  match s.tk.signals[s.op 0]? with
  | none => .next s
  | some g =>
    if (s.tk.signals.take (s.op 0)).any (fun x => x.tid == g.tid) then .next s
    else .next (performSignal s { s with tk := { s.tk with signals := dropNth s.tk.signals (s.op 0) } } g)

/-! ### Examination (R90, R197, R199, R201) -/

/-- The mask of withheld entries of a record that ends without a frame (R196, R421). -/
def recMask (s : State) (who : Who) (r : TaskRec) : Word :=
  if crSucc r.hdr = 0 then 0
  else match readSucc s who 64 (crSucc r.hdr) with
    | (.ok l, _) => withheldMask (nth 0 r.hdr 7) l.length
    | _ => 0

/-- A record fails at the drill unit: its cause goes to its context, its claims are settled as at a kill, and it is faulted
(R199, R204, R421). -/
def failRecord (s : State) (r : TaskRec) (e : Cause) : State :=
  let t := quadCore (drillQuad s r)
  let mask := recMask s (drillWho s r) r
  let s := appendEvent (dropRec s r.rid) r.ctx ⟨e, 3, 0, t, r.launch, r.crva.getD 0, 0⟩
  let s := settleClaims s r.ctx false r.claims
  leaveLaunch (writeState s r 6 (some mask) t) r true

/-- A successor list breaks R201: a 65th entry, or a reserved bit. -/
def succBad (l : List Word) : Bool := 64 < l.length || l.any (fun w => !zeroBits w 63 57 || !zeroBits w 5 0)

/-- PRIO raised to the launch's class, without a fault (R197). -/
def raisePrio (s : State) (r : TaskRec) : TaskRec :=
  let cls := match findLaunch s r.launch with
    | some l => l.cls
    | none => 0
  { r with hdr := setNth r.hdr 4 (withBits (nth 0 r.hdr 4) 47 45 (max (crPrio r.hdr) (if r.handler then 0 else cls))) }

/-- The record as its CR holds it, with word 5 as it was enqueued (R200). -/
def loadRecord (s : State) (r : TaskRec) : Res TaskRec × State :=
  match r.crva with
  | some va =>
    if r.loaded then (.ok r, s)
    else match readCR s (drillWho s r) va with
      | (.ok (h, rs), s) =>
        let h := setNth h 5 (nth 0 r.hdr 5)
        (.ok { r with hdr := h, regs := rs, orig := h, origRegs := rs, loaded := true }, s)
      | (.fault e, s) => (.fault e, s)
      | (.wait, s) => (.wait, s)
  | none => (.ok r, s)

/-- Examine a record that has been read: header, tile list, and at the first examination the successor list; a handler task's template
has JOIN 0 and QUAD 0x3FF, as an instance's (R386, R414). -/
def examineRecord (s : State) (r : TaskRec) : State :=
  let who := drillWho s r
  let fresh := !r.resumed
  if headerBad s fresh r.launch r.hdr || (fresh && r.handler && (crJoin r.hdr != 0 || crQuad r.hdr != 0x3FF)) then
    failRecord s r Cause.crbad
  else match examineTiles s who (crTiles r.hdr) with
    | (.wait, s) => putRec s r
    | (.fault e, s) => failRecord s r e
    | (.ok ds, s) =>
      let good (s : State) : State := putRec s (raisePrio s { r with examined := true, tiles := ds })
      if !fresh || crSucc r.hdr = 0 then good s
      else match readSucc s who 65 (crSucc r.hdr) with
        | (.wait, s) => putRec s r
        | (.fault e, s) => failRecord s r e
        | (.ok l, s) => if succBad l then failRecord s r Cause.succbad else good s

/-- DRILL_EXAMINE of record `ops`[0] (R389, step 1). -/
def execDrillExamine (s : State) : Out :=
  match findRec s (s.op 0) with
  | none => .next s
  | some r =>
    if r.examined || !ctxRuns s r.ctx then .next s
    else match loadRecord s r with
      | (.wait, s) => .next s
      | (.fault e, s) => .next (failRecord s r e)
      | (.ok r, s) => .next (examineRecord s r)

/-! ### Readiness and claims (R91) -/

/-- The region and buffer that a descriptor names now. -/
def placeOf (s : State) (r : TaskRec) (d : TileDesc) : Option (Tid × Nat × Nat) :=
  match descPlace s (drillWho s r) d with
  | .ok p => p
  | .error _ => none

/-- Claims that the task held before this attempt (R280). -/
def heldClaims (r : TaskRec) : List Claim := if r.tested then r.claims.take r.kept else r.claims

/-- A claim is one that a descriptor of this kind and direction takes at a place. -/
def claimFits (d : TileDesc) (p : Tid × Nat × Nat) (c : Claim) : Bool :=
  c.tid == p.1 && c.region == p.2.1 && c.kind == d.kind && c.out == d.out && c.buf == p.2.2

/-- The task already holds the claim of descriptor number i: of the claims that it held for the place, each serves one of the
list's descriptors, in order (R91, R280). -/
def holdsClaim (s : State) (r : TaskRec) (i : Nat) (d : TileDesc) (p : Tid × Nat × Nat) : Bool :=
  (d.out || d.kind == 1) && decide (((r.tiles.take i).filter (fun x =>
      x.kind == d.kind && x.out == d.out && placeOf s r x == some p)).length < ((heldClaims r).filter (claimFits d p)).length)

/-- The condition of descriptor number i (R91). -/
def descHolds (s : State) (r : TaskRec) (i : Nat) (d : TileDesc) : Bool :=
  if d.kind = 2 then true
  else match placeOf s r d with
    | none => false
    | some p =>
      let w := region s p.1 p.2.1
      holdsClaim s r i d p ||
      (match d.kind, d.out with
       | 0, false => bitOf w.2 (24 + p.2.2)
       | 0, true => !bitOf w.2 (24 + p.2.2) && !bitOf w.2 (16 + p.2.2)
       | _, false => d.count ≤ fifoCount w - fifoResv w
       | _, true => d.count ≤ regLen w - fifoCount w - fifoPres w)

/-- Grant the claim of descriptor number i, whose condition holds: the tile's bits and counts, and the task's list (R91). -/
def grantClaim (s : State) (r : TaskRec) (i : Nat) (d : TileDesc) : TaskRec × State :=
  if d.kind = 2 then (r, s)
  else match placeOf s r d with
    | none => (r, s)
    | some p =>
      if holdsClaim s r i d p then (r, s)
      else
        let w := region s p.1 p.2.1
        let w2 := match d.kind, d.out with
          | 0, false => w.2
          | 0, true => withBits w.2 (16 + p.2.2) (16 + p.2.2) 1
          | _, false => withBits w.2 62 48 (fifoResv w + d.count)
          | _, true => withBits w.2 47 33 (fifoPres w + d.count)
        ({ r with claims := r.claims ++ [⟨p.1, p.2.1, d.kind, d.out, d.rel, p.2.2, d.count⟩] }, setRegion s p.1 p.2.1 (w.1, w2))

/-- A record becomes ready now (R199). -/
def makeReady (s : State) (r : TaskRec) : State := putRec s { r with ready := true, readySince := s.clk.cycle }

/-- A task whose lookup is still due: PURE, and not resumed (R389, step 3). -/
def needsLookup (r : TaskRec) : Bool := crPure r.hdr && !r.resumed && !r.looked

/-- DRILL_RETEST of record `ops`[0]: the readiness test (R389, step 2). -/
def execDrillRetest (s : State) : Out :=
  match findRec s (s.op 0) with
  | none => .next s
  | some r =>
    if !r.examined || r.tested || r.ready || !ctxRuns s r.ctx then .next s
    else if r.tiles.zipIdx.all (fun x => descHolds s r x.2 x.1) then .next (putRec s { r with tested := true, cpos := 0, kept := r.claims.length })
    else .next s

/-- CLAIM_REQUEST of record `ops`[0]: the next claim is granted where its condition still holds; a refusal returns the claims
already granted, but for those a parked task held, and the task is tested again later (R91). -/
def execClaimRequest (s : State) : Out :=
  match findRec s (s.op 0) with
  | none => .next s
  | some r =>
    if !r.tested || r.ready || !ctxRuns s r.ctx then .next s
    else match r.tiles[r.cpos]? with
      | none => .next (if needsLookup r then s else makeReady s r)
      | some d =>
        if descHolds s r r.cpos d then
          match grantClaim s r r.cpos d with
          | (r, s) => .next (putRec s { r with cpos := r.cpos + 1 })
        else
          .next (putRec (settleClaims s r.ctx false (r.claims.drop r.kept))
            { r with claims := r.claims.take r.kept, tested := false, cpos := 0 })

/-! ### Granary (R391 to R394) -/

/-- The buffer map entry that an output lies in, if any. -/
def outputEntry (s : State) (ctx : Nat) (d : TileDesc) : Option Nat := (findBuf (getCtx s ctx) (bitsOf d.va 56 0)).map (·.1)

/-- Write stored results to a hitting task's outputs, in list order: shadow writes into buffer map entries (R393, step 1). -/
def writeResults (s : State) (who : Who) : List TileDesc → List (List Byte) → Res Unit × State
  | d :: ds, bs :: rest =>
    match writeVA s { who with shadow := (outputEntry s who.ctx d).isSome } d.va bs with
    | (.ok _, s) => writeResults s who ds rest
    | (.fault e, s) => (.fault e, s)
    | (.wait, s) => (.wait, s)
  | _, _ => (.ok (), s)

/-- Move a task into retirement. -/
def beginRetire (s : State) (r : TaskRec) (hit : Bool) : State :=
  { s with tk := { s.tk with retiring := s.tk.retiring ++ [⟨r, nth 0 r.hdr 7, crTiles r.hdr, hit, false⟩] } }

/-- A hit: results written, their entries published at pkg scope, and the task retires without running (R393). -/
def granaryHit (s0 s : State) (r : TaskRec) (e : GranEntry) : State :=
  let outs := r.tiles.filter (fun d => d.out)
  let who := { drillWho s r with force := false }
  let entries := (outs.filterMap (outputEntry s r.ctx)).eraseDups
  if entries.any (fun b => !(shadowWriters s r.ctx b).isEmpty) then s0
  else match writeResults s who outs e.outs with
    | (.wait, _) => s0
    | (.fault c, s) => failRecord s r c
    | (.ok _, s) =>
      let s := entries.foldl (fun s b => publishSwap s r.ctx b) s
      let s := { s with ln := { s.ln with
        granClock := s.ln.granClock + 1
        gran := s.ln.gran.map (fun x => if x = e then { x with hit := s.ln.granClock + 1 } else x) } }
      beginRetire (dropRec s r.rid) r true

/-- GRANARY_LOOKUP of record `ops`[0], once its claims are held: a hit retires it, a miss makes it ready (R391 to R393). -/
def execGranaryLookup (s : State) : Out :=
  match findRec s (s.op 0) with
  | none => .next s
  | some r =>
    if !r.tested || r.ready || r.cpos < r.tiles.length || !needsLookup r || !ctxRuns s r.ctx then .next s
    else
      let who := drillWho s r
      match granaryKey s who r.launch (nth 0 r.hdr 1) (crLive r.hdr) r.regs r.tiles with
      | (.wait, s) => .next s
      | (.fault e, s) => .next (failRecord s r e)
      | (.ok none, s) => .next (makeReady s { r with looked := true, key := none })
      | (.ok (some k), s') =>
        match granMatch s' (dieOfQuad (drillQuad s' r)) k (outSizes s' who r.tiles) with
        | some e => .next (granaryHit s s' r e)
        | none => .next (makeReady s' { r with looked := true, key := some k, keyLive := crLive r.hdr, keyRegs := r.regs })

/-- Bytes of heap that entries take. -/
def heapUsed (l : List GranEntry) : Nat := (l.map (fun e => (e.outs.map List.length).sum)).sum

/-- The entry hit least recently, if any. -/
def leastHit (l : List GranEntry) : Option GranEntry :=
  l.foldl (fun b e => match b with
    | none => some e
    | some x => if e.hit < x.hit then some e else some x) none

/-- Drop entries, least recently hit first, until a number of bytes fits into the heap (R394). -/
def heapRoom (size need : Nat) : Nat → List GranEntry → List GranEntry
  | 0, l => l
  | n + 1, l =>
    if heapUsed l + need ≤ size then l
    else match leastHit l with
      | none => l
      | some e => heapRoom size need n (l.filter (· != e))

/-- Set of the table that an entry belongs to: its own of 2^LOG2 / 8 sets. -/
def granSet (s : State) (e : GranEntry) : Nat := ofBytes e.key % 2 ^ (bitsOf s.ln.grtab 44 40 - 3)

/-- An index entry of a die that 16,384 others displace moves to the table, whose full set drops its least recently hit entry
(R392, R394). -/
def displace (s : State) (die : Nat) (l : List GranEntry) : List GranEntry :=
  let mine := l.filter (fun e => e.onDie == some die)
  if mine.length ≤ 16384 then l
  else match leastHit mine with
    | none => l
    | some e =>
      let peers := l.filter (fun x => x.onDie.isNone && granSet s x == granSet s e)
      let l := if peers.length < 8 then l else match leastHit peers with
        | some p => l.filter (· != p)
        | none => l
      l.map (fun x => if x = e then { x with onDie := none } else x)

/-- Insert an entry into a die's index; the later of two with one key stays (R394). -/
def insertEntry (s : State) (die : Nat) (e : GranEntry) : State :=
  let need := (e.outs.map List.length).sum
  let size := bitsOf s.ln.grheap 63 40 * 65536
  if !bitOf s.ln.grtab 63 || size < 4 * need then s
  else
    let l := s.ln.gran.filter (fun x => x.key != e.key)
    let l := heapRoom size need l.length l
    { s with ln := { s.ln with gran := displace s die (l ++ [e]), granClock := s.ln.granClock + 1 } }

/-- Read every output, in list order (R394). -/
def readOutputs (s : State) (who : Who) : List TileDesc → Res (List (List Byte)) × State
  | [] => (.ok [], s)
  | d :: ds =>
    match readVA s who d.va (descBytes s who d) with
    | (.ok bs, s) =>
      match readOutputs s who ds with
      | (.ok l, s) => (.ok (bs :: l), s)
      | x => x
    | (.fault e, s) => (.fault e, s)
    | (.wait, s) => (.wait, s)

/-- The insertion at the retirement of a keyable miss: the key is formed again, and only an equal one is inserted; none where
the step has to wait (R394, R419). -/
def insertResult (s : State) (g : Retiring) : Option State :=
  let r := g.task
  let who := { Who.self r.ctx 6 (quadCore r.quad) with key := agentKey 9 r.rid }
  match r.key with
  | none => some s
  | some k =>
    if g.hit || r.noins || !crPure r.hdr then some s
    else match granaryKey s who r.launch (nth 0 r.hdr 1) r.keyLive r.keyRegs r.tiles with
      | (.wait, _) => none
      | (.fault _, s) => some s
      | (.ok k', s) =>
        if k' ≠ some k then some s
        else match readOutputs s who (r.tiles.filter (fun d => d.out)) with
          | (.wait, _) => none
          | (.fault _, s) => some s
          | (.ok outs, s) =>
            let die := dieOfQuad r.quad
            some (insertEntry s die ⟨k, (getCtx s r.ctx).tenant, launchDigest s r.launch, outs, some die, s.ln.granClock + 1⟩)

/-! ### Retirement (R203) -/

/-- Signals of the held set: unsent list entries in order, then SIG's (R203, step 4). -/
def heldSet (g : Retiring) (l : List Word) : List Word :=
  ((l.zipIdx.filter (fun x => !bitOf g.sent x.2)).map (fun x => entryCR x.1)) ++ g.task.sigs

/-- Steps 1 to 4 of a retirement: engine commands drained, claims settled, the insertion, the signals sent (R203). The list is read
again here, and at a SIGE: the spec does not say when the held set's addresses are read. A fault of that read raises its cause and
signals none of the list (log 96). -/
def retireFirst (s : State) (i : Nat) (g : Retiring) : State :=
  if !engDrained s g.task.engcmds then s
  else
    let t := quadCore g.task.quad
    let who := { Who.self g.task.ctx 6 t with key := agentKey 9 g.task.rid }
    match insertResult (settleClaims s g.task.ctx true g.task.claims) g with
    | none => s
    | some s1 =>
      match succList s1 who g.task.hdr with
      | (.wait, _) => s
      | (x, s1) =>
        let l : List Word := match x with
          | .ok l => l
          | _ => []
        let s1 := match x with
          | .fault e => appendEvent s1 g.task.ctx ⟨e, 3, 0, t, g.task.launch, crSucc g.task.hdr, 0⟩
          | _ => s1
        let sigs := (heldSet g l).map (fun cr => ({ cr := cr, ctx := g.task.ctx, lid := g.task.launch, tid := t, owner := g.task.rid } : Signal))
        { s1 with tk := { s1.tk with
          retiring := setNth s1.tk.retiring i { g with out := true }, signals := s1.tk.signals ++ sigs } }

/-- The next handler task of a context whose ring still holds records: of the launch that the record at HEAD names (R414). -/
def nextHandler (s : State) (ctx : Nat) : State :=
  let c := getCtx s ctx
  let head := bitsOf c.tevp 15 0
  if head = bitsOf c.tevp 31 16 ∨ bitsOf c.tevb 4 0 = 0 then s
  else
    let va := vaSext (bitsOf c.tevb 56 12 * 4096 + 64 * (head % 2 ^ bitsOf c.tevb 4 0))
    match readVA s (Who.self ctx 7 0) va 8 with
    | (.ok bs, s) =>
      let w : Word := BitVec.ofNat 64 (ofBytes bs)
      enterHandler s ctx (bitsOf w 31 16) ((tidOfSel (bitsOf w 47 32)).getD 0)
    | (_, s) => s

/-- Step 5: the live count, TASKS and HITS, and STATE := 5 as the last write (R200, R203, R393). -/
def retireLast (s : State) (i : Nat) (g : Retiring) : State :=
  let s := { s with tk := { s.tk with retiring := dropNth s.tk.retiring i } }
  let s := leaveLaunch s g.task false
  let s := updLaunch s g.task.launch (fun l => { l with tasks := l.tasks + 1, hits := l.hits + g.hit.toNat })
  let s := writeState s g.task 5 none (quadCore g.task.quad)
  if g.task.handler then nextHandler s g.task.ctx else s

/-- TASK_RETIRE: number `ops`[0] of the tasks that retire takes its next steps (R203). -/
def execTaskRetire (s : State) : Out :=
  match s.tk.retiring[s.op 0]? with
  | none => .next s
  | some g =>
    if !g.out then .next (retireFirst s (s.op 0) g)
    else if s.tk.signals.any (fun x => x.owner == g.task.rid) then .next s
    else .next (retireLast s (s.op 0) g)

/-! ### Pops (R390, R198) -/

/-- A quad sees a record: in its own banks, or in its die's for its launches (R390). -/
def quadSees (s : State) (q : Nat) (r : TaskRec) : Bool :=
  if r.bank < 8 then r.quad == q
  else r.die == dieOfQuad q && (match findLaunch s r.launch with
    | some l => l.quads.contains q
    | none => false)

/-- Effective class of a record at a quad (R398). -/
def recClass (s : State) (q : Nat) (r : TaskRec) : Nat := min (crPrio r.hdr) (floorAt s r.ctx q)

/-- The die of a quad holds the code of a record's launch (R383). -/
def codeHere (s : State) (q : Nat) (r : TaskRec) : Bool :=
  match findLaunch s r.launch with
  | some l => l.filled.contains (dieOfQuad q)
  | none => true

/-- Ready records that a quad may pop (R383, R390, R429). -/
def readyRecs (s : State) (q : Nat) : List TaskRec :=
  s.tk.drill.filter (fun r => r.ready && quadSees s q r && ctxRuns s r.ctx && codeHere s q r)

/-- The record of least stamp. -/
def oldestRec (l : List TaskRec) : Option TaskRec :=
  l.foldl (fun b r => match b with
    | none => some r
    | some x => if r.stamp < x.stamp then some r else some x) none

/-- The record that a pop takes: every 4,096th pop of a class the oldest, else the older head of two banks taken at random
(R390); with one bank alone, its head. -/
def pickRecord (s : State) (q : Nat) : Option (Nat × TaskRec) × State :=
  let l := readyRecs s q
  if l.isEmpty then (none, s)
  else
    let cls := l.foldl (fun m r => min m (recClass s q r)) 7
    let of := l.filter (fun r => recClass s q r == cls)
    if s.tk.pops.getD (q * 8 + cls) 0 % 4096 = 4095 then ((oldestRec of).map (fun r => (cls, r)), s)
    else
      let banks := (of.map (fun r => r.bank)).eraseDups
      let n := banks.length
      let i := Sys2Proof.Config.freeChoice s.free % max n 1
      let j := Sys2Proof.Config.freeChoice (s.free + 1) % max (n - 1) 1
      let j := if j < i then j else j + 1
      let two := of.filter (fun r => r.bank == nth 0 banks i || (1 < n && r.bank == nth 0 banks j))
      ((oldestRec two).map (fun r => (cls, r)), { s with free := s.free + 2 })

/-- Registers at the start of a firing: g1 is FRAME, LIVE's registers hold their words, the others zero (R198). -/
def startRegs (r : TaskRec) : List Word :=
  let live := crLive r.hdr
  (List.range 32).map (fun i =>
    if i = 1 then nth 0 r.hdr 1
    else if 16 ≤ i ∧ live / 2 ^ (i - 16) % 2 = 1 then nth 0 r.regs (popCount (i - 16) live)
    else 0)

/-- The firing of a popped record; it reads NCTL's fields now (R170). -/
def firingOf (s : State) (r : TaskRec) : Firing :=
  let n := (getCtx s r.ctx).nctl
  { task := { r with orig := r.hdr, origRegs := r.regs, origSigs := r.sigs }
    prio := crPrio r.hdr, sent := nth 0 r.hdr 7, early := bitOf (nth 0 r.hdr 4) 41, tiles := crTiles r.hdr,
    started := s.tk.starts + 1, sat8 := bitOf n 1, ttrap := bitOf n 0, gens := [], secs := [], drainAt := none, drained := false }

/-- A sequencer as a popped record starts on it (R198), or resumes from its checkpoint (R424, R410); a handler task starts in
system state (R414). -/
def startCore (s : State) (t : Tid) (r : TaskRec) : Core :=
  let f := firingOf s r
  let x := getCtx s r.ctx
  let c := { getCore s t with run := some f, sys := r.handler, halted := false, replay := [], staged := [],
                              waiting := .none, held := 0,
                              frame := if r.handler && x.tfbase != 0 then frameVA x.tfbase t else 0 }
  match r.ckpt with
  | none => { c with regs := startRegs r, pc := crCode r.hdr, unfin := [] }
  | some k =>
    let words := k.replay.flatMap (fun a => [BitVec.ofNat 64 (2 ^ 63 + a.word.toNat), a.va, a.data, a.cmp])
    let rep := replayList s t f words k.replay.length c.nextId
    { c with regs := k.regs, pc := k.pc, unfin := (splitForm rep).1, replay := (splitForm rep).2, nextId := c.nextId + 16 }

/-- An idle sequencer in service. -/
def idleCore (s : State) (t : Tid) : Bool :=
  isCore t && (getCore s t).run.isNone && !s.boot.fallow.contains t

/-- DRILL_POP by the sequencer of tile `ops`[0] (R390, R198). -/
def execDrillPop (s : State) : Out :=
  let t := s.op 0
  let q := quadOf t
  if !idleCore s t || ckptStops s then .next s
  else match pickRecord s q with
    | (none, s) => .next s
    | (some (cls, r), s) =>
      let k := q * 8 + cls
      let c := startCore s t r
      let s := dropTorn (dropRec s r.rid) (syncKey t)
      .next (setCore { s with tk := { s.tk with
        starts := s.tk.starts + 1, pops := s.tk.pops.set k (s.tk.pops.getD k 0 + 1) } } t c)

/-! ### Parked records (R205) -/

/-- PARK_WAKE of record `ops`[0]: its condition holds, and it enters its quad's drill queue (R205, R206). -/
def execParkWake (s : State) : Out :=
  match s.tk.parked.find? (fun r => r.rid == s.op 0) with
  | none => .next s
  | some r =>
    if !ctxRuns s r.ctx || !parkHolds s r.ctx r.engcmds (crWkind r.hdr) (crWphase r.hdr) (crWarg r.hdr) then .next s
    else match enqueueRec s r with
      | none => .next s
      | some s => .next { s with tk := { s.tk with parked := s.tk.parked.filter (fun x => x.rid != r.rid) } }

/-! ### Pre-emption (R422 to R425) -/

/-- Running firings of a quad. -/
def quadFirings (s : State) (q : Nat) : List (Tid × Firing) :=
  (quadCores q).filterMap (fun t => (getCore s t).run.map (fun f => (t, f)))

/-- A save, a checkpoint's cut, or the withdrawal of a die wants the firing off its core (R155, R222, R422). -/
def saveWants (s : State) (t : Tid) (f : Firing) : Bool :=
  (getCtx s f.task.ctx).state == .saving || ckptStops s
    || (match findLaunch s f.task.launch with
      | some l => l.leaving.contains (dieOf t)
      | none => false)

/-- The victim of a quad: the greatest effective class, among equals the one started last (R422). -/
def victimOf (s : State) (q : Nat) : Option (Tid × Firing) :=
  (quadFirings s q).foldl (fun b x => match b with
    | none => some x
    | some y =>
      let cx := firingClass s x.1 x.2
      let cy := firingClass s y.1 y.2
      if cy < cx || (cx == cy && y.2.started < x.2.started) then some x else some y) none

/-- A newcomer wants a sequencer of the quad: ready for 256 cycles, none idle, and a running firing of a greater class (R422). -/
def newcomerWants (s : State) (q : Nat) : Bool :=
  match victimOf s q with
  | none => false
  | some v =>
    (quadCores q).all (fun t => !idleCore s t) &&
      (readyRecs s q).any (fun r => r.readySince + 256 ≤ s.clk.cycle && recClass s q r < firingClass s v.1 v.2)

/-- Records checkpointed in a quad's store of 256 frames (R424). -/
def ckptLoad (s : State) (q : Nat) : Nat :=
  (s.tk.drill.filter (fun r => r.ckpt.isSome && r.quad == q)).length

/-- The record of a checkpointed firing: its frame, PRIO, EARLY, SENT and tile list as they are now (R424). -/
def checkpointed (t : Tid) (c : Core) (f : Firing) : TaskRec :=
  let h := f.task.hdr
  let w4 := withBits (withBits (nth 0 h 4) 47 45 f.prio) 41 41 f.early.toNat
  let w5 := withBits (nth 0 h 5) 39 30 (quadOf t)
  let c := deliverAll c c.unfin
  { f.task with
    hdr := [nth 0 h 0, nth 0 h 1, BitVec.ofNat 64 (bitsOf f.tiles 56 0), nth 0 h 3, w4, w5, nth 0 h 6, f.sent]
    quad := quadOf t, resumed := true
    ckpt := some ⟨c.regs, c.pc, f.task.noins, cancelled c.unfin ++ c.replay⟩ }

/-- Row 2: checkpoint in place (R424). -/
def checkpointFiring (s : State) (t : Tid) (f : Firing) : State :=
  let c := getCore s t
  match enqueueRec (unbind s f.task.ctx (coreBinder t)) (checkpointed t c f) with
  | none => s
  | some s => setCore (dropCoreAsks s t) t (getCore s t).stop

/-- What a BARR or BINIT that waits has under way is cancelled: an arrival not yet taken, an answer (R425). -/
def cancelBarrier (s : State) (t : Tid) (c : Core) : State :=
  match c.waiting with
  | .barr uid => { s with bar := { s.bar with
      arrivals := s.bar.arrivals.filter (fun a => a.src != .core t uid), answers := s.bar.answers.erase uid } }
  | .binit uid => dropOut s (joinKey uid)
  | _ => s

/-- Row 3: kill and rerun at once (R425). -/
def rerunFiring (s : State) (t : Tid) (f : Firing) : State :=
  let r := { f.task with hdr := f.task.orig, regs := f.task.origRegs, sigs := f.task.origSigs, claims := [], noins := false }
  let s1 := settleClaims (cancelBarrier s t (getCore s t)) f.task.ctx false f.task.claims
  match enqueueRec (unbind s1 f.task.ctx (coreBinder t)) r with
  | none => s
  | some s => setCore (dropCoreAsks s t) t (getCore s t).stop

/-- DRAIN_LIMIT's exponent of a context (R406). -/
def dlog (s : State) (ctx : Nat) : Nat := bitsOf (getCtx s ctx).tpre 5 0

/-- EST of a firing; a halted one counts as 63 (R196, R304). -/
def estOf (c : Core) (f : Firing) : Nat := if c.halted then 63 else crEst f.task.hdr

/-- Row 4: the newcomer waits for an idle sequencer, a save until the firing ends or parks (R423). -/
def rowFour (s : State) (t : Tid) : State :=
  match s.tk.preempt.get? t with
  | some p => { s with tk := { s.tk with preempt := s.tk.preempt.set t { p with draining := false, waits := true } } }
  | none => s

/-- The decision table from row 2 on (R423): in system state row 4 (R434); a checkpoint is taken once a form whose effect has left the
core, and a write that its owner has not answered, have ended (log 100). -/
def decide2 (s : State) (t : Tid) (c : Core) (f : Firing) : State :=
  if c.sys then rowFour s t
  else if crCkpt f.task.hdr && ckptLoad s (quadOf t) < 256 then
    if midway c || awaitsOwner s t c then s else checkpointFiring s t f
  else if crIdem f.task.hdr && !f.early then rerunFiring s t f
  else rowFour s t

/-- The request under a tile that is for the firing it runs. -/
def requestAt (s : State) (t : Tid) (f : Firing) : Option Preempt :=
  match s.tk.preempt.get? t with
  | some p => if p.firing = f.started then some p else none
  | none => none

/-- A quad has a request in progress that a newcomer made (R422). -/
def quadRequested (s : State) (q : Nat) : Bool :=
  (quadFirings s q).any (fun x => match requestAt s x.1 x.2 with
    | some p => !p.forSave
    | none => false)

/-- A request that waits under row 4 is over: its save is, or no newcomer wants a sequencer any more (R422, R423). -/
def requestOver (s : State) (t : Tid) (f : Firing) (p : Preempt) : Bool :=
  p.waits && (if p.forSave then !saveWants s t f else !newcomerWants s (quadOf t))

/-- PREEMPTION_REQUEST for the firing on tile `ops`[0]: it arises, and the table is taken; in system state that is row 4. A
request without a drain is carried out once it can be. A save asks for every firing, whatever a newcomer has asked. A trap that is due
is taken first (R422, R423, R434). -/
def execPreemptionRequest (s : State) : Out :=
  let t := s.op 0
  let c := getCore s t
  match c.run with
  | none => .next s
  | some f =>
    let save := saveWants s t f
    match (requestAt s t f).filter (fun p => p.forSave || !save) with
    | some p =>
      .next (if requestOver s t f p then { s with tk := { s.tk with preempt := s.tk.preempt.erase t } }
        else if p.draining || p.waits || (hasFaulted c && !c.halted) then s
        else decide2 s t c f)
    | none =>
      let victim := (victimOf s (quadOf t)).map (·.1) == some t && newcomerWants s (quadOf t) && !quadRequested s (quadOf t)
      if !save && !victim then .next s
      else if hasFaulted c && !c.halted then .next s
      else
        let drain := !c.sys && decide (estOf c f ≤ dlog s f.task.ctx)
        let s := { s with tk := { s.tk with preempt := s.tk.preempt.set t ⟨f.started, s.clk.cycle, drain, save, false⟩ } }
        .next (if drain then s else decide2 s t c f)

/-- PREEMPT_DRAIN_EXPIRY for the firing on tile `ops`[0]: 4·2^DLOG cycles have passed, and the table is taken again without row 1
(R423). -/
def execPreemptDrainExpiry (s : State) : Out :=
  let t := s.op 0
  let c := getCore s t
  match c.run with
  | none => .next s
  | some f =>
    match requestAt s t f with
    | none => .next s
    | some p =>
      if !p.draining || s.clk.cycle < p.since + 4 * 2 ^ dlog s f.task.ctx || (hasFaulted c && !c.halted) then .next s
      else
        let s := { s with tk := { s.tk with preempt := s.tk.preempt.set t { p with draining := false } } }
        .next (decide2 s t c f)

end Sys2Proof.Machine
end

