-- ==== Sys2Proof/Machine/LaunchEvents.lean ====
section
/-! DEFINITION. Launches (R207 to R209, R222, R376 to R387, R401): LAUNCH_DOOR, LAUNCH_ARRIVAL, LAUNCH_WAIT_SATISFIED, SWATH_GRANT, CODE_FILL,
INSTANCE_ENTRY, DIE_WITHDRAW, DIE_ADD, LAUNCH_COMPLETE. -/
namespace Sys2Proof.Machine

/-! ### Queues (R376, R377) -/

/-- A launch queue. -/
def getLQ (s : State) (q : Nat) : LQueue := s.ln.lq.getD q LQueue.reset

/-- Replace a launch queue. -/
def setLQ (s : State) (q : Nat) (x : LQueue) : State := { s with ln := { s.ln with lq := s.ln.lq.set q x } }

/-- Fields of LQCFG (R376). -/
def lqEn (x : LQueue) : Bool := bitOf x.cfg 63
def lqRsv (x : LQueue) : Nat := bitsOf x.cfg 55 48
def lqCtx (x : LQueue) : Nat := bitsOf x.cfg 47 42
def lqPcap (x : LQueue) : Nat := bitsOf x.cfg 41 39

/-- A write of DOOR of a queue (R377). -/
def doorWrite (s : State) (q : Nat) (v : Word) : State :=
  let x := getLQ s q
  let j := bitsOf v 3 0
  if !zeroBits v 63 4 || j == 15 || !lqEn x || x.busy.contains j then setLQ s q { x with err := true }
  else
    let s := setLQ s q { x with busy := x.busy ++ [j] }
    { s with ln := { s.ln with door := s.ln.door ++ [(q, j, s.clk.cycle)] } }

/-- LAUNCH_DOOR (R377). -/
def execLaunchDoor (q : Nat) (v : Word) (s : State) : Out :=
  whileUp s (if q < 256 then doorWrite s q v else s)

/-! ### The record (R378) -/

/-- VA of a record word's bits 56:6. -/
def recVA (w : Word) : Word := vaSext (bitsOf w 56 6 * 64)

/-- A word of a record that holds a VA of bits 56:6 has a reserved bit set. -/
def vaReserved (w : Word) : Bool := !zeroBits w 63 57 || !zeroBits w 5 0

/-- The low bits of word 7 as SKIND takes them (R378). -/
def signalReserved (w : Word) : Bool :=
  !zeroBits w 61 33 || (match bitsOf w 63 62 with
    | 0 => !zeroBits w 32 0
    | 1 => !zeroBits w 31 11
    | 2 => bitOf w 32
    | _ => true)

/-- A reserved bit of a record is set, or SKIND is 3 (R378, R379). -/
def recordReserved (w : List Word) : Bool :=
  vaReserved (nth 0 w 0) || vaReserved (nth 0 w 1) || !zeroBits (nth 0 w 2) 63 56 || !zeroBits (nth 0 w 2) 43 41
    || !zeroBits (nth 0 w 2) 28 16 || !zeroBits (nth 0 w 4) 63 57 || !zeroBits (nth 0 w 4) 1 0 || vaReserved (nth 0 w 6)
    || signalReserved (nth 0 w 7)

/-- Swath fields of a record. -/
def recMind (w : List Word) : Nat := bitsOf (nth 0 w 2) 31 29
def recMaxd (w : List Word) : Nat := bitsOf (nth 0 w 2) 34 32
def recNquad (w : List Word) : Nat := bitsOf (nth 0 w 2) 40 35
def recLid (w : List Word) : Nat := bitsOf (nth 0 w 2) 15 0
def recInd (w : List Word) : Bool := bitOf (nth 0 w 2) 44

/-- Swath fields in neither of their forms (R379). -/
def swathBad (w : List Word) : Bool :=
  !((recMind w == 0 && recMaxd w == 0 && 1 ≤ recNquad w && recNquad w ≤ 32)
    || (1 ≤ recMind w && recMind w ≤ recMaxd w && recMaxd w ≤ 4 && recNquad w == 0))

/-- A die that work may be placed on (R13, R464). -/
def dieUsable (s : State) (d : Nat) : Bool :=
  let x := nth (⟨false, true⟩ : Die) s.boot.dies d
  x.ready && !x.isFallow

/-- The E7 reading for a launch queue's context. -/
def launchWho (ctx lid : Nat) : Who := { Who.self ctx 6 0 with key := agentKey 8 lid }

/-- Start VAs of the 64 KiB pages that n bytes at a VA touch. -/
def pagesOf (va : Word) (n : Nat) : List Word :=
  (List.range ((va.toNat % 65536 + n + 65535) / 65536)).map (fun i =>
    if i = 0 then va else BitVec.ofNat 64 (va.toNat / 65536 * 65536 + i * 65536))

/-- The first cause that an access kind meets over pages. -/
def pagesCause (s : State) (who : Who) (k : AKind) : List Word → Option Cause
  | [] => none
  | va :: l =>
    match translate s who va k with
    | .error e => some e
    | .ok _ => pagesCause s who k l

/-- Sizes of a code object: its three segments, and all of it (R250). -/
def objSegs (h : List Word) : Nat := (nth 0 h 1).toNat + (nth 0 h 2).toNat + (nth 0 h 3).toNat
def objSize (h : List Word) : Nat := 64 + objSegs h + 16 * bitsOf (nth 0 h 4) 31 0 + 32 * bitsOf (nth 0 h 4) 63 32

/-- A code object header breaks R250: MAGIC, VERSION, a reserved bit (R4), or a size that is no multiple of its unit. R379 names MAGIC
and VERSION; that the others are refused with LNCHBAD too is the model's choice (log 131). -/
def codeHeaderBad (h : List Word) : Bool :=
  bitsOf (nth 0 h 0) 31 0 != 0x524F4D53 || bitsOf (nth 0 h 0) 47 32 != 1 || !zeroBits (nth 0 h 0) 63 48
    || nth 0 h 6 != 0 || nth 0 h 7 != 0 || !zeroBits (nth 0 h 1) 1 0 || !zeroBits (nth 0 h 2) 5 0 || !zeroBits (nth 0 h 3) 5 0

/-- What is wrong with a launch's code object: its header, a byte without PR or PX, or its size (R250, R379, R383). -/
def codeCause (s : State) (who : Who) (va : Word) : Res (Option Cause) × State :=
  match readVA s who va 64 with
  | (.wait, s) => (.wait, s)
  | (.fault e, s) => (.ok (some e), s)
  | (.ok bs, s) =>
    let h := wordsOf 8 bs
    if codeHeaderBad h then (.ok (some Cause.lnchbad), s)
    else if 2 ^ 22 < objSize h then (.ok (some Cause.lnchbad), s)
    else
      let ps := pagesOf va (objSize h)
      (.ok (match pagesCause s who .read ps with
        | some e => some e
        | none => pagesCause s who .exec ps), s)

/-- The checks of R379 before the code object's. -/
def recordCause (s : State) (x : LQueue) (w : List Word) : Option Cause :=
  let st := (getCtx s (lqCtx x)).state
  let lid := recLid w
  let rsv := bitsOf (nth 0 w 2) 55 48
  if st = .killed ∨ st = .none then some Cause.lnchbad
  else if recordReserved w then some Cause.lnchbad
  else if lid = 0 ∨ (findLaunch s lid).isSome = true then some Cause.lnchbad
  else if swathBad w then some Cause.lnchbad
  else if ((List.range 4).filter (fun d => !(nth (⟨false, true⟩ : Die) s.boot.dies d).isFallow)).length < recMind w then some Cause.lnchbad
  else if rsv ≠ 0 ∧ rsv ≠ lqRsv x then some Cause.lnchbad
  else if recInd w != (nth 0 w 4 != 0) then some Cause.lnchbad
  else none

/-! ### Completion (R401) -/

/-- The completion record. -/
def compBytes (lid status : Nat) (cause : Cause) (faults engcmds hits inst tasks tacc tend : Nat) : List Byte :=
  bytesOf 8 (lid * 2 ^ 48 + status * 2 ^ 40 + cause.toNat) ++ bytesOf 8 (faults * 2 ^ 32 + engcmds)
    ++ bytesOf 8 (hits * 2 ^ 32 + inst) ++ bytesOf 8 tasks ++ bytesOf 8 tacc ++ bytesOf 8 tend ++ List.replicate 16 0

/-- A launch's signal: a host interrupt, or one arrival at a barrier (R401). -/
def launchSignal (s : State) (ctx lid : Nat) (w7 : Word) : State :=
  match bitsOf w7 63 62 with
  | 1 => { s with host := { s.host with irqs := s.host.irqs ++ [(bitOf w7 32, bitsOf w7 10 0)] } }
  | 2 => { s with bar := { s.bar with arrivals := s.bar.arrivals ++ [⟨bitsOf w7 31 0, 1, ctx, lid, .launch lid⟩] } }
  | _ => s

/-- Refuse a launch at arrival: a completion record and the signal where word 6 lets one be written, else a host event; a write that
faults leaves a host event in the record's place (R379, R401; log 148). A write that has to wait leaves the record where it is. -/
def refuseLaunch (s : State) (free : State → State) (ctx : Nat) (w : List Word) (e : Cause) : State :=
  let who := launchWho ctx (recLid w)
  let va := recVA (nth 0 w 6)
  let ok := !vaReserved (nth 0 w 6) && (match translate s who va .write with
    | .ok _ => true
    | .error _ => false)
  let signal (s : State) : State := if signalReserved (nth 0 w 7) then s else launchSignal s ctx (recLid w) (nth 0 w 7)
  if !ok then hostEvent (free s) e ctx (recLid w) 0 0
  else match writeVA s who va (compBytes (recLid w) 4 e 0 0 0 0 0 s.clk.dtime s.clk.dtime) with
    | (.ok _, s) => signal (free s)
    | (.fault e, s) => signal (hostEvent (free s) e ctx (recLid w) 0 0)
    | (.wait, s) => s

/-- Accept a launch: it waits on those of its list that are live now (R379, R381). -/
def acceptLaunch (s : State) (q : Nat) (x : LQueue) (w : List Word) : State :=
  let ids := (List.range 4).map (fun i => bitsOf (nth 0 w 5) (16 * i + 15) (16 * i))
  let waits := (s.ln.live.filter (fun l => ids.contains l.lid)).map (fun l => l.order)
  let rsv := bitsOf (nth 0 w 2) 55 48
  let l : Launch := {
    lid := recLid w, queue := q, ctx := lqCtx x, words := w, state := .accepted, waits := waits, count := 0, entered := 0,
    live := 0, cls := max (bitsOf (nth 0 w 2) 47 45) (lqPcap x), rsv := if rsv = 0 then lqRsv x else rsv, quads := [],
    dies := [], leaving := [], filled := [], faults := 0, engcmds := 0, hits := 0, tasks := 0, tacc := s.clk.dtime,
    cause := 0, status := 0, order := s.ln.order + 1, cmds := [], began := 0, rr := 0, kept := [] }
  { s with ln := { s.ln with live := s.ln.live ++ [l], order := s.ln.order + 1 } }

/-- DOOR write number i names a record that the port may read now: the oldest of its queue, its context neither saved nor on its way
(R377, R379). -/
def doorReady (s : State) (i : Nat) (d : Nat × Nat × Nat) : Bool :=
  let st := (getCtx s (lqCtx (getLQ s d.1))).state
  !(s.ln.door.take i).any (fun x => x.1 == d.1) && !(st == .saving || st == .saved || st == .restoring)

/-- Class and reservation identifier with which a record waits for acceptance (R378, R396). -/
def recordCls (x : LQueue) (w : List Word) : Nat := max (bitsOf (nth 0 w 2) 47 45) (lqPcap x)
def recordRsv (x : LQueue) (w : List Word) : Nat :=
  let rsv := bitsOf (nth 0 w 2) 55 48
  if rsv = 0 then lqRsv x else rsv

/-- The DOOR write whose record launch acceptance grants now (R377, R396). -/
def launchGrant (s : State) : Option Nat :=
  (bestRank ((s.ln.door.zipIdx.filter (fun x => doorReady s x.2 x.1)).map (fun x =>
    let q := getLQ s x.1.1
    let w := nth [] q.slots x.1.2.1
    (grantRank s 14 (recordRsv q w) (recordCls q w) (waitedFrame s 14 x.1.2.2), x.2)))).map (·.2)

/-- LAUNCH_ARRIVAL: the port reads the slot of DOOR write number `ops`[0], which acceptance grants, and takes or refuses the launch
(R377, R379, R396); none before the blob is loaded (R464). -/
def execLaunchArrival (s : State) : Out :=
  match s.ln.door[s.op 0]? with
  | none => .next s
  | some (q, j, _) =>
    let x := getLQ s q
    if !s.boot.blob || ckptStops s || launchGrant s != some (s.op 0) then .next s
    else
      let w := nth [] x.slots j
      let free (s : State) : State :=
        setLQ { s with ln := { s.ln with door := dropNth s.ln.door (s.op 0) } } q { getLQ s q with busy := x.busy.filter (· != j) }
      let ctx := lqCtx x
      match recordCause s x w with
      | some e => .next (refuseLaunch s free ctx w e)
      | none =>
        let who := launchWho ctx (recLid w)
        match codeCause s who (recVA (nth 0 w 0)) with
        | (.wait, s) => .next s
        | (.fault e, s) => .next (refuseLaunch s free ctx w e)
        | (.ok (some e), s) => .next (refuseLaunch s free ctx w e)
        | (.ok none, s) =>
          match translate s who (recVA (nth 0 w 6)) .write with
          | .error e => .next (hostEvent (free s) e ctx (recLid w) 0 0)
          | .ok _ => .next (acceptLaunch (free s) q x w)

/-! ### Waits and the count (R381, R382) -/

/-- Every wait entry is satisfied (R381). -/
def waitsDone (s : State) (l : Launch) : Bool := l.waits.all (fun o => !s.ln.live.any (fun x => x.order == o))

/-- LAUNCH_WAIT_SATISFIED of launch `ops`[0]: its waits are satisfied, and its count becomes known; a read that faults ends it as
refused (R380 to R382). -/
def execLaunchWaitSatisfied (s : State) : Out :=
  match findLaunch s (s.op 0) with
  | none => .next s
  | some l =>
    if l.state ≠ .accepted ∨ waitsDone s l = false ∨ ctxRuns s l.ctx = false then .next s
    else
      let max' := bitsOf (nth 0 l.words 3) 31 0
      let go (s : State) (n : Nat) : State := updLaunch s l.lid (fun l => { l with state := .allocating, count := n, began := s.st.past.length })
      if !recInd l.words then .next (go s max')
      else match readVA s (launchWho l.ctx l.lid) (vaSext (bitsOf (nth 0 l.words 4) 56 2 * 4)) 4 with
        | (.wait, s) => .next s
        | (.fault e, s) => .next (updLaunch s l.lid (fun l => { l with
          state := .running, status := 4, cause := if l.cause = 0 then e else l.cause }))
        | (.ok bs, s) => .next (go s (min (ofBytes bs) max'))

/-! ### Swaths (R385, R387) -/

/-- No swath holds a quad. -/
def quadFree (s : State) (q : Nat) : Bool := !s.ln.live.any (fun l => l.quads.contains q)

/-- A die is kept for a waiting launch other than this one (R387). -/
def keptFor (s : State) (l : Launch) (d : Nat) : Bool := s.ln.live.any (fun m => m.lid != l.lid && m.state == .allocating && m.kept.contains d)

/-- Dies that no swath holds any quad of and that this launch may take, rising. -/
def freeDies (s : State) (l : Launch) : List Nat :=
  (List.range 4).filter (fun d => dieUsable s d && !keptFor s l d && !s.ln.live.any (fun l => l.quads.any (fun q => dieOfQuad q == d)))

/-- Usable quads of a die. -/
def usableQuads (s : State) (d : Nat) : List Nat := (dieQuads d).filter (quadUsable s)

/-- The quads that the allocator would give a launch now (R385). -/
def swathFor (s : State) (l : Launch) : Option (List Nat) :=
  if recNquad l.words = 0 then
    let ds := (freeDies s l).take (recMaxd l.words)
    if ds.length < recMind l.words then none else some (ds.flatMap (usableQuads s))
  else
    let n := recNquad l.words
    let free (d : Nat) : List Nat := (usableQuads s d).filter (quadFree s)
    match (List.range 4).find? (fun d => dieUsable s d && !keptFor s l d && n ≤ (free d).length) with
    | some d => some ((free d).take n)
    | none => none

/-- A launch ahead of another in the allocator's order holds it up: one of higher class that waits, or an earlier one of its class
that can be served (R385). -/
def heldUp (s : State) (l : Launch) : Bool :=
  s.ln.live.any (fun m => m.state == .allocating && ctxRuns s m.ctx && m.lid != l.lid &&
    (m.cls < l.cls || (m.cls == l.cls && m.order < l.order && (swathFor s m).isSome)))

/-- What another context has left on a tile is taken off it before a swath's first firing (R209). -/
def clearForeign (s : State) (ctx : Nat) (t : Tid) : State :=
  let s := match s.fab.tileSec.get? t with
    | some k => if k / 64 ≠ ctx then leaveSection s t else s
    | none => s
  let s := { s with fab := { s.fab with gens := s.fab.gens.filter (fun e => e.1 / 4 != t || e.2.ctx == ctx) } }
  (List.range 8).foldl (fun s r =>
    let w := region s t r
    if regMode w ≠ 0 ∧ regCtx w ≠ ctx then setRegion (zeroRegion s t r) t r (0, 0) else s) s

/-- A record of a launch that was queued before it had a swath, a handler task's, goes to a die of the swath (R414). -/
def placeRec (lid : Nat) (dies : List Nat) (r : TaskRec) : TaskRec :=
  if r.launch = lid ∧ 8 ≤ r.bank ∧ dies.contains r.die = false then { r with die := nth 0 dies 0 } else r

/-- Give quads to a launch. -/
def takeQuads (s : State) (l : Launch) (qs : List Nat) : State :=
  let s := (qs.flatMap quadTiles).foldl (fun s t => clearForeign s l.ctx t) s
  let all := (List.range 512).filter (fun q => l.quads.contains q || qs.contains q)
  let dies := (all.map dieOfQuad).eraseDups
  updLaunch { s with tk := { s.tk with drill := s.tk.drill.map (placeRec l.lid dies) } } l.lid (fun l =>
    { l with state := .running, quads := all, dies := dies, kept := [] })

/-- SWATH_GRANT to launch `ops`[0] (R385, R209). -/
def execSwathGrant (s : State) : Out :=
  match findLaunch s (s.op 0) with
  | none => .next s
  | some l =>
    if l.state ≠ .allocating ∨ ctxRuns s l.ctx = false ∨ heldUp s l = true then .next s
    else match swathFor s l with
      | none => .next s
      | some qs => .next (takeQuads s l qs)

/-- A running die swath that may take a further die: below MAXD, its count of dies not being reduced (R387). -/
def mayGrow (l : Launch) : Bool :=
  l.state == .running && recNquad l.words == 0 && l.status == 0 && l.leaving.isEmpty && decide (l.dies.length < recMaxd l.words)

/-- A waiting launch has a claim on the free dies before a running one: it can be served now, or it is of higher class (R385,
R387). -/
def waitsAhead (s : State) (l m : Launch) : Bool :=
  m.state == .allocating && ctxRuns s m.ctx && (decide (m.cls < l.cls) || (!heldUp s m && (swathFor s m).isSome))

/-- DIE_ADD to launch `ops`[0]: a free die that no waiting launch is due goes to the first running die swath below MAXD (R222,
R387; log 103). -/
def execDieAdd (s : State) : Out :=
  match findLaunch s (s.op 0) with
  | none => .next s
  | some l =>
    let ahead := s.ln.live.any (fun m => mayGrow m && ctxRuns s m.ctx && (m.cls < l.cls || (m.cls == l.cls && m.order < l.order)))
    if !mayGrow l || s.ln.live.any (waitsAhead s l) || ahead || !ctxRuns s l.ctx then .next s
    else match freeDies s l with
      | [] => .next s
      | d :: _ => .next (takeQuads s l (usableQuads s d))

/-- Work that is still on a die of a launch: its firings and its armed or stopping sections (R222). -/
def dieBusy (s : State) (l : Launch) (d : Nat) : Bool :=
  s.cores.any (fun e => tileDie e.1 == d && (match e.2.run with | some f => f.task.launch == l.lid | none => false)) ||
  s.fab.secs.any (fun e => e.2.launch == l.lid && e.1 / 64 == l.ctx && e.2.tiles.any (fun t => tileDie t == d)
    && (match e.2.state with | .armed | .stopping | .stopped => true | _ => false))

/-- A record of a quad of a die moves to a quad of the remaining swath, and its QUAD is rewritten (R222); a handler task's template keeps
the one that it was written with (R414). -/
def rehomeQuad (l : Launch) (d : Nat) (qs : List Nat) (r : TaskRec) : TaskRec :=
  if r.launch ≠ l.lid ∨ dieOfQuad r.quad ≠ d then r
  else
    let q := nth 0 qs (r.quad % max qs.length 1)
    { r with quad := q, die := dieOfQuad q, hdr := if r.handler && !r.resumed then r.hdr else setNth r.hdr 5 (withBits (nth 0 r.hdr 5) 39 30 q) }

/-- Move a queued record off a die: one that names no quad of the swath goes to a remaining die (R222, R388). -/
def rehome (l : Launch) (d : Nat) (qs : List Nat) (r : TaskRec) : TaskRec :=
  if r.bank < 8 ∨ l.quads.contains r.quad = true then rehomeQuad l d qs r
  else if r.launch ≠ l.lid ∨ r.die ≠ d then r
  else { r with die := dieOfQuad (nth 0 qs (r.quad % max qs.length 1)) }

/-- Dies that are leaving their swaths or kept for a launch: they count as its own when it is asked whether it will fit (R387). -/
def comingDies (s : State) : List Nat := s.ln.live.flatMap (fun m => m.leaving)

/-- A waiting launch will not fit even when the dies that are leaving have left (R387). -/
def lacksDies (s : State) (m : Launch) : Bool :=
  (swathFor s m).isNone && (if recNquad m.words = 0 then decide ((freeDies s m).length + (comingDies s).length < recMind m.words)
    else (comingDies s).all (fun d => decide ((usableQuads s d).length < recNquad m.words)))

/-- The launch that a die of this one's is withdrawn for: the first in the allocator's order of lesser class that waits and does not
fit (R385, R387). -/
def neediest (s : State) (l : Launch) : Option Launch :=
  (s.ln.live.filter (fun m => m.state == .allocating && ctxRuns s m.ctx && decide (m.cls < l.cls) && (swathFor s m).isNone)).foldl
    (fun b m => match b with
      | none => some m
      | some x => if m.cls < x.cls ∨ (m.cls = x.cls ∧ m.order < x.order) then some m else some x) none

/-- Take a die out of a swath once nothing of the launch runs on it: it is kept for the waiting launch (R222, R387). -/
def finishWithdraw (s : State) (l : Launch) (d : Nat) : State :=
  let qs := l.quads.filter (fun q => dieOfQuad q != d)
  let s := match neediest s l with
    | some m => updLaunch s m.lid (fun m => { m with kept := m.kept ++ [d] })
    | none => s
  let s := { s with tk := { s.tk with
    drill := s.tk.drill.map (rehome l d qs), parked := s.tk.parked.map (rehomeQuad l d qs) } }
  updLaunch s l.lid (fun l => { l with
    quads := qs, dies := l.dies.filter (· != d), leaving := l.leaving.filter (· != d), filled := l.filled.filter (· != d) })

/-- The die that would go next: the highest-numbered one that is not leaving. -/
def nextLeaving (l : Launch) : Nat := (l.dies.filter (fun d => !l.leaving.contains d)).foldl max 0

/-- DIE_WITHDRAW from launch `ops`[0]: a die that is leaving goes once its sections have been cut and its firings have gone; else where a
waiting launch of a lesser class lacks dies, the highest-numbered one begins to leave, as long as MIND stay (R222, R387). -/
def execDieWithdraw (s : State) : Out :=
  match findLaunch s (s.op 0) with
  | none => .next s
  | some l =>
    match l.leaving.find? (fun d => !dieBusy s l d) with
    | some d => .next (finishWithdraw s l d)
    | none =>
      let needed := s.ln.live.any (fun m => m.state == .allocating && ctxRuns s m.ctx && m.cls < l.cls && lacksDies s m)
      if l.state ≠ .running ∨ recNquad l.words ≠ 0 ∨ needed = false ∨ l.dies.length ≤ recMind l.words + l.leaving.length then .next s
      else .next (updLaunch s l.lid (fun l => { l with leaving := l.leaving ++ [nextLeaving l] }))

/-! ### The code store (R383) -/

/-- An object that no live launch runs. -/
def evictable (s : State) (c : CodeObj) : Bool := !s.ln.live.any (fun l => l.ctx == c.ctx && launchCode l == c.va)

/-- Evict objects of a die, least recently launched first, until a number of bytes fits. -/
def evictFor (s : State) (d need : Nat) : Nat → List CodeObj → List CodeObj
  | 0, l => l
  | n + 1, l =>
    if ((l.filter (fun c => c.die == d)).map (fun c => c.size)).sum + need ≤ 2 ^ 22 then l
    else match (l.filter (fun c => c.die == d && evictable s c)).foldl (fun b c => match b with
        | none => some c
        | some x => if c.used < x.used then some c else some x) (none : Option CodeObj) with
      | none => l
      | some c => evictFor s d need n (l.filter (· != c))

/-- The bytes that a digest is formed over: each segment behind its size (R252). -/
def digestBytes (h : List Word) (body : List Byte) : List Byte :=
  let a := (nth 0 h 1).toNat
  let b := (nth 0 h 2).toNat
  bytesOf 8 a ++ body.take a ++ bytesOf 8 b ++ (body.drop a).take b ++ bytesOf 8 (nth 0 h 3).toNat ++ body.drop (a + b)

/-- CODE_FILL `ops` = [launch, die]: the object is resident on the die, or is copied there and its digest formed (R252, R383). The
copy needs PX as a fetch does: without it PERM goes to the context and the launch ends as refused (R32). -/
def execCodeFill (s : State) : Out :=
  match findLaunch s (s.op 0) with
  | none => .next s
  | some l =>
    let d := s.op 1
    let va := launchCode l
    let done (s : State) : State := updLaunch s l.lid (fun l => { l with filled := l.filled ++ [d] })
    if l.state ≠ .running ∨ l.dies.contains d = false ∨ l.filled.contains d = true ∨ l.status ≠ 0 ∨ ctxRuns s l.ctx = false then .next s
    else if s.ln.code.any (fun c => c.die == d && c.ctx == l.ctx && c.va == va) then
      .next (done { s with ln := { s.ln with code := s.ln.code.map (fun c =>
        if c.die = d ∧ c.ctx = l.ctx ∧ c.va = va then { c with used := l.order } else c) } })
    else
      let who := launchWho l.ctx l.lid
      let bad (s : State) (e : Cause) : State := updLaunch s l.lid (fun l => { l with status := 4, cause := if l.cause = 0 then e else l.cause })
      match readVA s who va 64 with
      | (.wait, s) => .next s
      | (.fault e, s) => .next (bad s e)
      | (.ok hb, s) =>
        let h := wordsOf 8 hb
        match readVA s who (va + 64) (objSegs h) with
        | (.wait, s) => .next s
        | (.fault e, s) => .next (bad s e)
        | (.ok body, s) =>
          match pagesCause s who .exec (pagesOf va (64 + objSegs h)) with
          | some e => .next (appendEvent (bad s e) l.ctx ⟨e, 3, 0, quadCore (nth 0 (dieQuads d) 0), l.lid, va, 0⟩)
          | none =>
          let code := evictFor s d (objSegs h) s.ln.code.length s.ln.code
          if 2 ^ 22 < ((code.filter (fun c => c.die == d)).map (fun c => c.size)).sum + objSegs h then .next s
          else
            let c : CodeObj := ⟨d, l.ctx, va, objSegs h, shake256 (digestBytes h body), l.order⟩
            .next (done { s with ln := { s.ln with code := code ++ [c] } })

/-! ### Instances (R386) -/

/-- The header of instance i: FRAME, LAUNCH, CTX and its quad (R386). -/
def instanceHdr (l : Launch) (i : Nat) (q : Nat) (h : List Word) : List Word :=
  let stride := bitsOf (nth 0 l.words 3) 63 32
  let h := setNth h 1 (nth 0 h 1 + BitVec.ofNat 64 (i * stride))
  setNth h 5 (withBits (withBits (withBits (nth 0 h 5) 63 48 l.lid) 47 42 l.ctx) 39 30 q)

/-- INSTANCE_ENTRY of launch `ops`[0]: the next instance enters its quad's drill queue; a template with JOIN or QUAD set otherwise, or
that cannot be read, is one fault for each instance (R386). -/
def execInstanceEntry (s : State) : Out :=
  match findLaunch s (s.op 0) with
  | none => .next s
  | some l =>
    if l.state ≠ .running ∨ l.status ≠ 0 ∨ l.count ≤ l.entered ∨ ctxRuns s l.ctx = false ∨ (l.dies.all (l.filled.contains ·)) = false
    then .next s
    else
      let va := recVA (nth 0 l.words 1)
      let i := l.entered
      let q := nth 0 l.quads (i % max l.quads.length 1)
      let fail (s : State) (e : Cause) : State :=
        let s := updLaunch s l.lid (fun l => { l with entered := l.entered + 1, faults := l.faults + 1 })
        appendEvent s l.ctx ⟨e, 3, 0, quadCore q, l.lid, va, 0⟩
      match readCR s (launchWho l.ctx l.lid) va with
      | (.wait, s) => .next s
      | (.fault e, s) => .next (fail s e)
      | (.ok (h, rs), s) =>
        if crJoin h ≠ 0 ∨ crQuad h ≠ 0x3FF then .next (fail s Cause.crbad)
        else
          let rid := s.tk.nextRid
          let r := TaskRec.make rid none (instanceHdr l i q h) rs l.ctx l.lid q
          match enqueueRec { s with tk := { s.tk with nextRid := rid + 1 } } r with
          | none => .next s
          | some s => .next (updLaunch s l.lid (fun l => { l with entered := l.entered + 1, live := l.live + 1 }))

/-! ### The end (R208, R209, R401) -/

/-- A stream that STRM started for a launch, which no section holds, has accesses issued and not performed: the completion record
follows every access of the launch (R104, R208; log 132). -/
def strmBusy (s : State) (l : Launch) : Bool :=
  s.fab.gens.any (fun e => genBusy s e.1 e.2 && (match e.2.run with
    | some r => r.ctx == l.ctx && r.launch == l.lid
    | none => false))

/-- A launch has ended (R208), or was killed or refused; one of a saved context does not end (R429). -/
def launchEnded (s : State) (l : Launch) : Bool :=
  2 ≤ l.status ||
  (l.state == .running && ctxRuns s l.ctx && decide (l.count ≤ l.entered) && l.live == 0
    && !s.fab.secs.any (fun e => e.2.launch == l.lid && e.1 / 64 == l.ctx
      && (match e.2.state with | .armed | .stopping | .stopped => true | _ => false))
    && engDrained s l.cmds && !strmBusy s l && !s.fab.msgs.any (fun m => m.lid == l.lid) && !s.fab.acks.any (fun a => a.msg.lid == l.lid))

/-- STATUS of a completion record (R401). -/
def launchStatus (l : Launch) : Nat := if l.status ≠ 0 then l.status else if 0 < l.faults then 1 else 0

/-- Idle sections of a launch become loaded (R209). -/
def unloadIdle (s : State) (l : Launch) : State :=
  ((s.fab.secs.filter (fun e => e.2.launch == l.lid && e.1 / 64 == l.ctx && e.2.state == .idle)).map (·.1)).foldl disarmSec s

/-- A launch leaves: its swath is free, and its signal follows its record (R208, R209, R401). -/
def leaveLive (s : State) (l : Launch) : State :=
  launchSignal { s with ln := { s.ln with live := s.ln.live.filter (fun x => x.lid != l.lid) } } l.ctx l.lid (nth 0 l.words 7)

/-- Complete a launch: the record in one access, a host event where its write faults, then the signal; the swath is free (R208, R209,
R401). A write that has to wait is made again. -/
def completeLaunch (s : State) (l : Launch) : State :=
  let s := unloadIdle s l
  let bs := compBytes l.lid (launchStatus l) l.cause l.faults l.engcmds l.hits l.entered l.tasks l.tacc s.clk.dtime
  match writeVA s (launchWho l.ctx l.lid) (recVA (nth 0 l.words 6)) bs with
  | (.ok _, s) => leaveLive s l
  | (.fault e, s) => leaveLive (hostEvent s e l.ctx l.lid 0 0) l
  | (.wait, s) => s

/-- LAUNCH_COMPLETE of launch `ops`[0] (R208, R209, R401). -/
def execLaunchComplete (s : State) : Out :=
  match findLaunch s (s.op 0) with
  | none => .next s
  | some l => .next (if launchEnded s l then completeLaunch s l else s)

end Sys2Proof.Machine
end

