-- ==== Sys2Proof/Machine/ContextEvents.lean ====
section
/-! DEFINITION. Contexts and checkpoints (R154 to R160, R426 to R433): CONTEXT_CREATE, CONTEXT_SAVE, CONTEXT_SAVED, CONTEXT_RESTORE,
CONTEXT_RESTORED, CONTEXT_KILL, CONTEXT_RELEASE, CHKPT, CHECKPOINT_CUT, CHECKPOINT_END. -/
namespace Sys2Proof.Machine

/-! ### CTXCMD and CTXSTAT (R428) -/

/-- Code of a context's state (R428). -/
def CtxState.code : CtxState → Nat
  | .active => 0
  | .saving => 1
  | .saved => 2
  | .restoring => 3
  | .killed => 4
  | .none => 5

/-- CTXSTAT of a context (R428). -/
def ctxstat (s : State) (ctx : Nat) : Word :=
  let c := getCtx s ctx
  BitVec.ofNat 64 (c.state.code * 2 ^ 61 + c.lost.toNat * 2 ^ 60 + c.div.toNat * 2 ^ 59 + c.cause.toNat)

/-- A save or a restore is under way: GO of CTXCMD reads 1 (R428). -/
def ctxBusy (s : State) : Bool :=
  bitOf s.host.ctxcmd 63 && (match (getCtx s (bitsOf s.host.ctxcmd 53 48)).state with
    | .saving | .restoring => true
    | _ => false)

/-- CTXCMD as it reads (R428). -/
def ctxcmdRead (s : State) : Word := withBits s.host.ctxcmd 63 63 (ctxBusy s).toNat

/-- The state of a context lets an operation start (R428). -/
def ctxOpAllowed (st : CtxState) (op : Nat) : Bool :=
  match op with
  | 0 => st == .active
  | 1 => st == .saved
  | 2 => st == .active || st == .saving || st == .saved
  | _ => st == .killed

/-- A write of CTXCMD is refused (R428). -/
def ctxcmdRefused (s : State) (v : Word) : Bool :=
  let op := bitsOf v 62 61
  let area := bitsOf v 47 16
  !zeroBits v 60 54 || !zeroBits v 15 0 || ctxBusy s || (op < 2 && (area == 0 || inWindow (area * 65536)))
    || (2 ≤ op && area != 0) || !ctxOpAllowed (getCtx s (bitsOf v 53 48)).state op

/-- Control-window offset of CTXCMD (R454). -/
def ctxcmdOff : Nat := 0x600

/-! ### Save (R429, R139) -/

/-- Take back what a collective's member has told the others: it is no longer accepted (R139). -/
def retractMember (s : State) (q : Nat) (c : EngCmd) : State :=
  let own := s.boot.node * 512 + q
  (others s q c).foldl (fun s e => if e / 512 = s.boot.node then
      { s with eng := { s.eng with coll := dropLastAcceptance (e % 512) (engTag c) own s.eng.coll } }
    else sendNode s (e / 512) 0 [16, engTag c, own, e % 512, 3, 0]) s

/-- A collective's member at the start of a save: one whose collective has begun ends with ABORT and drains, be it started or not, one
that waits is unstarted again (R139). -/
def saveMember (s : State) (q : Nat) (c : EngCmd) : State :=
  let s := settleOwed s
  if c.waits = [] ∨ c.stopped = true then s
  else if c.state = .met then endCmd s q c 5 0 0
  else if allMet s q c then endCmd s q { c with state := .running } 5 0 0
  else retractMember (putCmd s q { c with state := .queued }) q c

/-- A save of a context starts (R429). -/
def startSave (s : State) (ctx : Nat) (area : Nat) : State :=
  let s := setCtx s ctx { getCtx s ctx with state := .saving, area := area, div := false }
  let mine : List (Nat × EngCmd) := s.eng.inbox.flatMap (fun e => (e.2.filter (fun c => engCtx c == ctx)).map (fun c => (e.1, c)))
  mine.foldl (fun s x => saveMember s x.1 x.2) s

/-- Complete the launches of a killed context (R432). -/
def completeKilled (s : State) (ctx : Nat) : State :=
  (s.ln.live.filter (fun l => l.ctx == ctx)).foldl (fun s l => completeLaunch s l) s

/-- What an accepted CTXCMD does (R428, R429, R432). -/
def ctxcmdStart (s : State) (v : Word) : State :=
  let ctx := bitsOf v 53 48
  let s := { s with host := { s.host with ctxcmd := v } }
  if !bitOf v 63 then s
  else match bitsOf v 62 61 with
    | 0 => startSave s ctx (bitsOf v 47 16)
    | 1 => setCtx s ctx { getCtx s ctx with state := .restoring, area := bitsOf v 47 16 }
    | 2 => killContext s ctx 0 false
    | _ =>
      let s := completeKilled s ctx
      setCtx { s with cuts := s.cuts.filter (fun c => c.1 != ctx) } ctx Ctx.reset

/-- A host write of CTXCMD (R428, R455). -/
def ctxcmdWrite (s : State) (port : Bool) (v : Word) : State :=
  if ctxcmdRefused s v then hwRefuse s port ctxcmdOff Cause.ctxcfg else ctxcmdStart s v

/-- A host write of CTXCMD whose OP is the one of the event. -/
def ctxcmdOf (op : Nat) (port : Bool) (v : Word) (s : State) : Out :=
  whileUp s (if bitsOf v 62 61 = op then ctxcmdWrite s port v else s)

/-- CONTEXT_SAVE (R428, R429). -/
def execContextSave (port : Bool) (v : Word) (s : State) : Out := ctxcmdOf 0 port v s

/-- CONTEXT_RESTORE (R428, R429). -/
def execContextRestore (port : Bool) (v : Word) (s : State) : Out := ctxcmdOf 1 port v s

/-- CONTEXT_KILL (R428, R432). -/
def execContextKill (port : Bool) (v : Word) (s : State) : Out := ctxcmdOf 2 port v s

/-- CONTEXT_RELEASE (R428, R429). -/
def execContextRelease (port : Bool) (v : Word) (s : State) : Out := ctxcmdOf 3 port v s

/-- Control-window offset of CTXTEN (R454). -/
def ctxtenOff (ctx : Nat) : Nat := 0x800 + 8 * ctx

/-- A host write of CTXTEN of a context (R429, R454). -/
def ctxtenWrite (s : State) (port : Bool) (ctx : Nat) (v : Word) : State :=
  if !zeroBits v 63 17 || (getCtx s ctx).state != .none then hwRefuse s port (ctxtenOff ctx) Cause.ctxcfg
  else setCtx s ctx { Ctx.reset with state := .active, tenant := bitsOf v 15 0, pkgp := bitOf v 16 }

/-- CONTEXT_CREATE (R429, R454). -/
def execContextCreate (port : Bool) (ctx : Nat) (v : Word) (s : State) : Out :=
  whileUp s (if ctx < 64 then ctxtenWrite s port ctx v else s)

/-! ### What a save writes (R427, R429, R430) -/

/-- Write every cached generation back (R49). -/
def flushGens (s : State) : State := s.xl.tcache.foldl (fun s e => genWriteBack s e.1 e.2) s

/-- Read a region's bytes, 64 at a time; none where one is uncorrectable (R430). -/
def readRegion (s : State) (t : Tid) (off : Nat) : Nat → Option (List Byte) × State
  | 0 => (some [], s)
  | n + 1 =>
    match tileRead s t off 64 with
    | (.ok bs, s) =>
      (match readRegion s t (off + 64) n with
       | (some l, s) => (some (bs ++ l), s)
       | r => r)
    | (_, s) => (none, s)

/-- The regions of a context: tile·8 + region and the descriptor. -/
def ctxRegions (s : State) (ctx : Nat) : List (Nat × (Word × Word)) :=
  s.tl.regions.filter (fun e => regMode e.2 != 0 && regCtx e.2 == ctx)

/-- Read the bytes of regions: each byte with its tile·2^20 + offset; none where a byte is uncorrectable. -/
def readRegions (s : State) : List (Nat × (Word × Word)) → Option (List (Nat × Byte)) × State
  | [] => (some [], s)
  | r :: l =>
    match readRegion s (r.1 / 8) (regBase r.2) (regLen r.2) with
    | (none, s) => (none, s)
    | (some bs, s) =>
      match readRegions s l with
      | (none, s) => (none, s)
      | (some rest, s) => (some (bs.zipIdx.map (fun x => (r.1 / 8 * 2 ^ 20 + regBase r.2 + x.2, x.1)) ++ rest), s)

/-- Bytes of a context save area (R429). -/
def areaSize (rs : List (Nat × (Word × Word))) : Nat :=
  65536 + (rs.map (fun r => regLen r.2 * 64)).sum + 4096 * (rs.map (fun r => r.1 / 8)).eraseDups.length

/-- The entries of a table that belong to a context's sections. -/
def ctxPart {α : Type} (s : State) (ctx : Nat) (w : Nat) (m : SMap α) : SMap α :=
  m.filter (fun e => match s.fab.tileSec.get? (e.1 / w) with
    | some k => k / 64 == ctx
    | none => false)

/-- Unstarted engine commands of a context. -/
def keptCmds (s : State) (ctx : Nat) : List EngCmd :=
  s.eng.inbox.flatMap (fun e => e.2.filter (fun c => engCtx c == ctx && c.state == .queued))

/-- What is kept of a context off the fabric (R155, R429). -/
def snapshot (s : State) (ctx : Nat) (bytes : List (Nat × Byte)) : SavedCtx :=
  { ctx := ctx
    secs := s.fab.secs.filter (fun e => e.1 / 64 == ctx)
    slots := ctxPart s ctx 64 s.fab.slots
    gens := ctxPart s ctx 4 s.fab.gens
    opunits := ctxPart s ctx 4 s.fab.opunits
    bufs := ctxPart s ctx 128 s.fab.bufs
    frags := ctxPart s ctx 1 s.fab.frags
    ingress := ctxPart s ctx 1 s.fab.ingress
    switch := ctxPart s ctx 64 s.fab.switch
    regions := ctxRegions s ctx
    bytes := bytes
    barriers := s.bar.objs.filter (fun e => e.2.v && e.2.ctx == ctx)
    cmds := keptCmds s ctx
    swaths := (s.ln.live.filter (fun l => l.ctx == ctx)).map (fun l => (l.lid, l.quads))
    recs := [], parked := [], retiring := [], launches := [] }

/-- Take a context's state off the fabric (R429): sections, regions, barriers, unstarted commands and swaths. -/
def takeOff (s : State) (ctx : Nat) : State :=
  let s : State := (regionTiles s ctx).foldl (fun s t => dropRegions s ctx t) s
  let s : State := ((s.fab.secs.filter (fun e => e.1 / 64 == ctx)).map (·.1)).foldl freeSec s
  { s with
    bar := { s.bar with objs := s.bar.objs.filter (fun e => !(e.2.v && e.2.ctx == ctx)) }
    eng := { s.eng with inbox := s.eng.inbox.map (fun e => (e.1, e.2.filter (fun c => !(engCtx c == ctx && c.state == .queued)))) }
    ln := { s.ln with live := s.ln.live.map (fun l => if l.ctx = ctx then { l with quads := [], dies := [], filled := [], leaving := [] } else l) } }

/-- The context's work has left the fabric: no firing, no running command, no section before its stop edge, no task whose retirement
can go on (R429). -/
def saveReady (s : State) (ctx : Nat) : Bool :=
  !s.cores.any (fun e => match e.2.run with | some f => f.task.ctx == ctx | none => false)
  && !s.eng.inbox.any (fun e => e.2.any (fun c => engCtx c == ctx && c.state != .queued))
  && !s.fab.secs.any (fun e => e.1 / 64 == ctx && (e.2.state == .armed || e.2.state == .stopping))
  && !s.tk.retiring.any (fun r => r.task.ctx == ctx && (r.out || engDrained s r.task.engcmds))

/-- Write a context's save area (R429). -/
def writeArea (s : State) (ctx : Nat) : Res Unit × State :=
  areaWrite (fun s a bs => iaPerform s (Who.self ctx 6 0) a 0 (.write (allSome bs))) s ((getCtx s ctx).area * 65536)
    ((areaSize (ctxRegions s ctx) + 63) / 64)

/-- A cause that writing AREA meets: a page fault diverts the rest of the save; of another cause R430 says nothing, and the save loses
the context, as for what cannot be read (R430; log 107). -/
def areaFault (s : State) (ctx : Nat) (e : Cause) : State :=
  if 0x106 ≤ e.toNat && e.toNat ≤ 0x109 then divertSave s ctx 0 else loseContext s ctx true

/-- Everything of a context is written: it leaves the fabric (R429). -/
def saveDone (s : State) (ctx : Nat) (bytes : List (Nat × Byte)) : State :=
  let kept := snapshot s ctx bytes
  let s := takeOff s ctx
  setCtx { s with saved := s.saved ++ [kept] } ctx { getCtx s ctx with state := .saved }

/-- CONTEXT_SAVED of context `ops`[0] (R429, R430): its state is written, diverted where a page faults, and it leaves the fabric;
uncorrectable data loses it, in its regions or in the rest of its state on the dies (log 89), and so does a full reserve. -/
def execContextSaved (s : State) : Out :=
  let ctx := s.op 0
  if (getCtx s ctx).state ≠ .saving ∨ saveReady s ctx = false then .next s
  else match writeArea (flushGens s) ctx with
    | (.wait, s) => .next s
    | (r, s) =>
      if Sys2Proof.Config.contextBad s.free then .next (loseContext { s with free := s.free + 1 } ctx true)
      else match readRegions { s with free := s.free + 1 } (ctxRegions s ctx) with
        | (none, s) => .next (loseContext s ctx true)
        | (some bytes, s) =>
          let s := match r with
            | .fault e => areaFault s ctx e
            | _ => s
          .next (if (getCtx s ctx).state = .killed then s else saveDone s ctx bytes)

/-! ### Restore (R429) -/

/-- A quad that a restore may take back. -/
def quadRestorable (s : State) (q : Nat) : Bool := quadFree s q && quadUsable s q && dieUsable s (dieOfQuad q)

/-- Every recorded tile is free (R429). -/
def restorable (s : State) (k : SavedCtx) : Bool :=
  k.swaths.all (fun x => x.2.all (quadRestorable s))
  && k.secs.all (fun x => x.2.tiles.all (fun t => (s.fab.tileSec.get? t).isNone))
  && k.regions.all (fun x => regMode (region s (x.1 / 8) (x.1 % 8)) == 0
      && (List.range 8).all (fun r => let w := region s (x.1 / 8) r
        regMode w == 0 || !spansMeet (regBase w) (regLen w * 64) (regBase x.2) (regLen x.2 * 64)))

/-- A section as it comes back: one that was armed is armed again, and reads NCTL's fields as it is (R170, R429). -/
def Section.rearmed (nctl : Word) (x : Section) : Section :=
  match x.state with
  | .stopped | .stopping => { x with state := .armed, stopAt := none, cut := none, sat8 := bitOf nctl 1, ttrap := bitOf nctl 0 }
  | _ => x

/-- Clear VALID of the header that a restored cut leaves in its save area (R427). -/
def clearCut (s : State) (ctx : Nat) (x : Section) : State :=
  if x.state ≠ .stopped then s
  else
    let s := { s with cuts := s.cuts.filter (fun c => !(c.1 == ctx && c.2.1 == x.area)) }
    let who := Who.self ctx 6 0
    match readVA s who x.area 8 with
    | (.ok bs, s) => (writeVA s who x.area (bytesOf 8 (ofBytes bs % 2 ^ 63))).2
    | (_, s) => s

/-- Put the bytes of a context's regions back, region by region, in the order in which they were read (R429); watchpoints see the
writes (R420; log 134). -/
def putRegions (s : State) (ctx : Nat) : List (Nat × (Word × Word)) → List (Nat × Byte) → State
  | [], _ => s
  | r :: l, bs =>
    let n := regLen r.2 * 64
    putRegions (ownTileWrite s ctx (r.1 / 8) (regBase r.2) ((bs.take n).map (·.2))) ctx l (bs.drop n)

/-- A fragment as a restore brings it back: one of a section that was armed from its cut, another with C and the weight buffers
clear, as its context's first ARM after the save finds it (R360; log 137). -/
def savedFrag (k : SavedCtx) (e : Nat × Frag) : Nat × Frag :=
  let cut := k.secs.any (fun x => x.2.tiles.contains e.1 && (match x.2.state with | .armed | .stopping | .stopped => true | _ => false))
  if cut then e else (e.1, { e.2 with active := none, back := WTile.reset, c := [], cPoison := [] })

/-- Put a context's sections, regions and barriers back on the fabric (R429). -/
def putOn (s : State) (k : SavedCtx) : State :=
  let s := putRegions s k.ctx k.regions k.bytes
  { s with
    tl := { s.tl with regions := overlay s.tl.regions k.regions }
    bar := { s.bar with objs := overlay s.bar.objs k.barriers }
    fab := { s.fab with
      secs := overlay s.fab.secs (k.secs.map (fun e => (e.1, e.2.rearmed (getCtx s k.ctx).nctl)))
      tileSec := overlay s.fab.tileSec (k.secs.flatMap (fun e => e.2.tiles.map (fun t => (t, e.1))))
      slots := overlay s.fab.slots k.slots
      gens := overlay s.fab.gens k.gens
      opunits := overlay s.fab.opunits k.opunits
      bufs := overlay s.fab.bufs k.bufs
      frags := overlay s.fab.frags (k.frags.map (savedFrag k))
      ingress := overlay s.fab.ingress k.ingress
      switch := overlay s.fab.switch k.switch } }

/-- Quad of the engine a command was sent to (R124). -/
def engQuad (c : EngCmd) : Nat := bitsOf (nth 0 c.words 1) 43 35

/-- An unstarted command is back in its inbox; a collective's member is accepted again (R139). -/
def reacceptCmd (s : State) (c : EngCmd) : State :=
  let q := engQuad c
  let s := setInbox s q (inboxOf s q ++ [c])
  if c.waits.isEmpty then s
  else tellMembers s q c 0 [engOp c, collN c, collCount c, (engW c 5).toNat, (engW c 6).toNat] []

/-- Give a launch its swath back. -/
def regrant (s : State) (x : Nat × List Nat) : State :=
  updLaunch s x.1 (fun l => { l with quads := x.2, dies := (x.2.map dieOfQuad).eraseDups })

/-- Bring a saved context back (R429). -/
def bringBack (s : State) (k : SavedCtx) : State :=
  let s := k.secs.foldl (fun s e => clearCut s k.ctx e.2) s
  let s := putOn s k
  let s := k.cmds.foldl reacceptCmd s
  let s := k.swaths.foldl regrant s
  setCtx { s with saved := s.saved.filter (fun x => x.ctx != k.ctx) } k.ctx { getCtx s k.ctx with state := .active }

/-- CONTEXT_RESTORED of context `ops`[0]: once every recorded tile is free it is reloaded and its sections are armed again (R429). -/
def execContextRestored (s : State) : Out :=
  let ctx := s.op 0
  if (getCtx s ctx).state ≠ .restoring then .next s
  else match s.saved.find? (fun x => x.ctx == ctx) with
    | none => .next s
    | some k => .next (if restorable s k then bringBack s k else s)

/-! ### CHKPT (R154 to R160) -/

/-- The places an image goes to or comes from: the peers, or the two host areas (R154). -/
def ckptPlaces (c : EngCmd) : List Word :=
  if bitOf (engW c 0) 0 then [engW c 2, engW c 3] else c.tmp.map (BitVec.ofNat 64)

/-- A checkpoint begins: a save drops the nominations and waits for its cut; a restore needs none (R155, R160). -/
def beginCkpt (s : State) (q : Nat) (c : EngCmd) : State :=
  let mode := bitsOf (engW c 0) 1 0
  { s with
    xl := { s.xl with noms := if mode < 2 then [] else s.xl.noms }
    eng := { s.eng with ckpt := some ⟨q, c.uid, mode, ckptPlaces c, 2 ≤ mode, 0, [], 0, [], 0⟩ } }

/-- End a CHKPT; moves and nominations resume; DONE leaves out frames whose peer has not answered, or has refused (R155, R159). -/
def endCkpt (s : State) (q : Nat) (c : EngCmd) (k : Ckpt) (status : Nat) (cause : Cause) : State :=
  let n := (min (k.copied + k.early.length) imageFrames - k.pend.length) * 65536
  let s := endCmd s q { c with done := n, aux := k.badLines } status cause 0
  { s with eng := { s.eng with ckpt := none } }

/-- A frame whose answer is due goes to a peer that no link reaches (R159). -/
def peerLost (s : State) (k : Ckpt) : Bool := k.pend.any (fun f => !reachable s (peerFrame k.places f).1)

/-- Take the answers of peers for frames: the first cause, and the frames unanswered or refused. -/
def peerAnswers (s : State) : List Nat → Cause × List Nat × State
  | [] => (0, [], s)
  | f :: l =>
    match takeReply (frameReply f) s.xl.replies with
    | (none, _) => (match peerAnswers s l with | (e, p, s) => (e, f :: p, s))
    | (some a, r) =>
      match peerAnswers { s with xl := { s.xl with replies := r } } l with
      | (e, p, s) => if a.1 = 0 then (e, p, s) else (a.1, f :: p, s)

/-- The next frame of a save: copied, or passed where a write has had it copied (R155, step 6). -/
def saveFrame (s : State) (k : Ckpt) : State :=
  if k.early.contains k.copied then
    { s with eng := { s.eng with ckpt := some { k with copied := k.copied + 1, early := k.early.filter (· != k.copied) } } }
  else copyFrame s k k.copied

/-- A save after its cut: frame by frame, until every peer has answered (R155, R159). -/
def saveStep (s : State) (q : Nat) (c : EngCmd) (k : Ckpt) : State :=
  match peerAnswers s k.pend with
  | (e, p, s) =>
    let k := { k with pend := p }
    let s := { s with eng := { s.eng with ckpt := some k } }
    if e ≠ 0 then endCkpt s q c k 3 e
    else if peerLost s k then endCkpt s q c k 3 Cause.unreach
    else if k.copied < imageFrames then saveFrame s k
    else if p.isEmpty then endCkpt s q c k (if k.badLines = 0 then 0 else 4) 0
    else s

/-- Bytes of a frame of the image as they are found at its place; a peer's are asked for (R160). -/
def placedFrame (s : State) (k : Ckpt) (f : Nat) : Res (List Byte) × State :=
  if k.mode = 3 then (.ok (cellsGet s.st.host (hostFrame k.places f) 65536), s)
  else
    let p := peerFrame k.places f
    match takeReply (frameReply f) s.xl.replies with
    | (some a, r) =>
      let s := { s with xl := { s.xl with replies := r } }
      (if a.1 = 0 then .ok a.2 else .fault a.1, s)
    | (none, _) =>
      if !reachable s p.1 then (.fault Cause.unreach, s)
      else if k.pend.contains f then (.wait, s)
      else (.wait, sendNode { s with eng := { s.eng with ckpt := some { k with pend := k.pend ++ [f] } } } p.1 0
        [0, p.2, frameReply f, 65536])

/-- Lines of a frame with the checkpoint encryption removed (R157, R160). -/
def openFrame (s : State) (f : Nat) (bs : List Byte) : List Byte :=
  bs.zipIdx.map (fun x => x.1 ^^^ Sys2Proof.Config.imageStream s.boot.node (f * 512 + x.2 / 128) (x.2 % 128))

/-- Write a frame to its own local address (R160). -/
def writeFrame (s : State) (f : Nat) (bs : List Byte) : State :=
  let l0 := frameKey f / 128
  let mine (n : Nat) : Bool := l0 ≤ n && n < l0 + 512
  { s with st := { s.st with
      mem := cellsSet s.st.mem (frameKey f) bs
      lineQ := s.st.lineQ.filter (fun e => !mine e.1)
      lineBad := s.st.lineBad.filter (fun n => !mine n)
      lineKey := s.st.lineKey.filter (fun e => !mine e.1) } }

/-- The next frame of a restore: zeros where its check fails, which AUX counts (R160). R160 gives such a command no STATUS: the model
ends it with POISON, as R159 does a save with bad lines (log 89). -/
def restoreStep (s : State) (q : Nat) (c : EngCmd) (k : Ckpt) : State :=
  if imageFrames ≤ k.copied then
    endCkpt { s with xl := { s.xl with dirs := [] } } q c k (if k.badLines = 0 then 0 else 4) 0
  else
    let f := k.copied
    match placedFrame s k f with
    | (.wait, s) => s
    | (.fault e, s) => endCkpt s q c k 3 e
    | (.ok bs, s) =>
      let good := Sys2Proof.Config.frameOk s.free
      let k := { k with copied := f + 1, pend := [], badLines := if good then k.badLines else k.badLines + 1 }
      let s := writeFrame { s with free := s.free + 1 } f (if good then openFrame s f bs else List.replicate 65536 0)
      { s with eng := { s.eng with ckpt := some k } }

/-- The next step of a CHKPT. -/
def chkptStep (s : State) (q : Nat) (c : EngCmd) : State :=
  match s.eng.ckpt with
  | none => beginCkpt s q c
  | some k =>
    if k.uid ≠ c.uid ∨ k.cutDone = false then s
    else if k.mode < 2 then saveStep s q c k
    else restoreStep s q c k

/-- CHKPT of command `ops` = [quad, uid] (R154 to R160). -/
def execChkpt (s : State) : Out := engTurn s 9 chkptStep

/-! ### The cut (R155, R431) -/

/-- A command that does not hold the cut: unstarted, the checkpoint itself, a MIGRATE before a page, a collective that waits for
members (R155, steps 1 and 2). -/
def cutAllows (s : State) (q : Nat) (k : Ckpt) (c : EngCmd) : Bool :=
  c.state == .queued || c.uid == k.uid
    || (!c.stopped && ((engOp c == 8 && c.tmp.isEmpty)
        || (!c.waits.isEmpty && c.state == .running && !allMet s q c)))

/-- Work has left and sections have stopped (R155, steps 1 to 3): no task whose retirement can go on, no signal under way. -/
def cutReady (s : State) (k : Ckpt) : Bool :=
  !s.cores.any (fun e => e.2.run.isSome)
  && !s.tk.retiring.any (fun r => r.out || engDrained s r.task.engcmds) && s.tk.signals.isEmpty
  && s.eng.inbox.all (fun e => e.2.all (cutAllows s e.1 k))
  && s.xl.moves.isEmpty
  && !s.fab.secs.any (fun e => e.2.state == .armed || e.2.state == .stopping)

/-- A collective that waits for members is unstarted again (R155, step 2). -/
def unstart (k : Ckpt) (c : EngCmd) : EngCmd :=
  if !c.waits.isEmpty && c.state == .running && !c.stopped && c.uid != k.uid then { c with state := .queued } else c

/-- Each context's state goes into the reserve; one with uncorrectable state, in its regions or elsewhere on the dies, is lost and
killed first (R155, R431; log 89). -/
def cutContext (s : State) (ctx : Nat) : State :=
  if Sys2Proof.Config.contextBad s.free then loseContext { s with free := s.free + 1 } ctx true
  else match readRegions { s with free := s.free + 1 } (ctxRegions s ctx) with
    | (none, s) => loseContext s ctx true
    | (some _, s) => s

/-- What the reserve keeps of a context (R155, step 4): a saved context's own record, or what is on the fabric now. -/
def imageOf (s : State) (ctx : Nat) : Nat × Ctx × SavedCtx :=
  let k := match s.saved.find? (fun x => x.ctx == ctx) with
    | some x => x
    | none => match readRegions s (ctxRegions s ctx) with
      | (some bytes, _) => snapshot s ctx bytes
      | (none, _) => snapshot s ctx []
  (ctx, getCtx s ctx, { k with
    recs := s.tk.drill.filter (fun r => r.ctx == ctx)
    parked := s.tk.parked.filter (fun r => r.ctx == ctx)
    retiring := s.tk.retiring.filter (fun r => r.task.ctx == ctx)
    launches := s.ln.live.filter (fun l => l.ctx == ctx) })

/-- What the dies write into their fallow reserves (R155, step 4), of which the spec gives no layout: here a name for it, in the first
bytes of the reserve's line, by which a restore finds it again (log 89). -/
def fillReserve (s : State) (id : Nat) : State :=
  let k := frameKey (Sys2Proof.Config.reserveFrame).val
  { s with st := { s.st with
      mem := cellsSet s.st.mem k (bytesOf 8 id ++ List.replicate 120 0)
      lineQ := s.st.lineQ.erase (k / 128)
      lineBad := s.st.lineBad.filter (· != k / 128)
      lineKey := s.st.lineKey.erase (k / 128) } }

/-- What a restored image's reserves hold: what the cut that they name put there (R157, R160; log 89). -/
def reserveImage (s : State) : Option Image :=
  let id := ofBytes (cellsGet s.st.mem (frameKey (Sys2Proof.Config.reserveFrame).val) 8)
  s.eng.images.find? (fun m => m.id == id)

/-- CHECKPOINT_CUT (R155, R159, R431): once the work has left and the sections have stopped, the dies write their state; a full
reserve abandons the cut, and so does an uncorrectable codeword of the package's registers or barriers. -/
def execCheckpointCut (s : State) : Out :=
  match s.eng.ckpt with
  | none => .next s
  | some k =>
    if k.cutDone || !cutReady s k then .next s
    else if Sys2Proof.Config.reserveFull s.free || Sys2Proof.Config.packageBad s.free then
      let full := Sys2Proof.Config.reserveFull s.free
      let s := { s with free := s.free + 1 }
      match findCmd s k.quad k.uid with
      | none => .next s
      | some c =>
        let s := if full then hostEvent (endCkpt s k.quad c k 3 Cause.ckptrsv) Cause.ckptrsv (engCtx c) 0 0 0
          else endCkpt s k.quad c k 4 Cause.tileue
        .next (resumeSections s)
    else
      let s : State := flushGens { s with free := s.free + 1 }
      let s : State := { s with eng := { s.eng with inbox := s.eng.inbox.map (fun e => (e.1, e.2.map (unstart k))) } }
      let live : List Nat := (s.ctxs.filter (fun e => e.2.state != .none)).map (·.1)
      let s : State := live.foldl cutContext s
      match s.eng.ckpt with
      | none => .next s
      | some k =>
        let m : Image := ⟨s.free, live.map (imageOf s), []⟩
        let s := fillReserve { s with free := s.free + 1 } m.id
        let s := { s with eng := { s.eng with images := s.eng.images ++ [m], ckpt := some { k with cutDone := true, image := m.id } } }
        .next (resumeSections s)

/-! ### The end (R155, step 8; R160) -/

/-- A context of the image as a restore leaves it: saved in the reserves, unless it was killed (R160, R430, R431). -/
def imageCtx (x : Ctx) : Ctx :=
  match x.state with
  | .killed => x
  | _ => { x with state := .saved, div := true, handler := none, bindings := [] }

/-- A context of an image comes back as a saved one (R160). -/
def restoreCtx (s : State) (e : Nat × Ctx × SavedCtx) : State :=
  let s := setCtx s e.1 (imageCtx e.2.1)
  if e.2.1.state = .killed then s
  else { s with
    saved := s.saved.filter (fun x => x.ctx != e.1) ++ [{ e.2.2 with recs := [], parked := [], retiring := [], launches := [] }]
    tk := { s.tk with
      drill := s.tk.drill ++ e.2.2.recs, parked := s.tk.parked ++ e.2.2.parked, retiring := s.tk.retiring ++ e.2.2.retiring }
    ln := { s.ln with live := s.ln.live ++ e.2.2.launches.map (fun l =>
      { l with quads := [], dies := [], filled := [], began := s.st.past.length }) } }

/-- The contexts of the image that has been restored come back as saved ones, and its lines under the keys they were stored under
(R44, R160). -/
def restoreImage (s : State) : State :=
  match reserveImage s with
  | some m => m.ctxs.foldl restoreCtx { s with st := { s.st with lineKey := overlay s.st.lineKey m.keys } }
  | none => s

/-- CHECKPOINT_END of command `ops` = [quad, uid]: the reply record is written and a host event raised; a restore gives the host
its contexts back (R155, step 8; R160, R458). -/
def execCheckpointEnd (s : State) : Out :=
  match findCmd s (s.op 0) (s.op 1) with
  | none => .next s
  | some c =>
    if engOp c ≠ 9 ∨ c.stopped = false then .next s
    else
      let whole := c.status = 0 ∨ (c.status = 4 ∧ c.cause = 0)
      match drainCmd s (s.op 0) c with
      | (false, s) => .next s
      | (true, s) =>
        if ¬ whole then .next s
        else if bitOf (engW c 0) 1 then .next (restoreImage s)
        else .next (hostEvent s 0 (engCtx c) 0 0 0)

end Sys2Proof.Machine
end

