-- ==== Sys2Proof/Machine/HostEvents.lean ====
section
/-! DEFINITION. The host's side (R376, R377, R392, R395, R453 to R469): REGISTER_WRITE, GRTAB_WRITE, RSVT_WRITE, FRAME_BOUNDARY,
HOST_MEMORY_ACCESS, SEMAPHORE_READ, SEMAPHORE_WRITE, HWSTAT_READ, LQSTAT_READ, KEY_LOAD, KEY_CLEAR, ATTESTATION_REQUEST,
ATTESTATION_DONE, HALT_RESUME, MODULE_RESET, DIE_POWER_UP, LINK_DOWN, LINK_TRAINED, TIME_BEACON, BEACON_ARRIVAL, THERMAL_LIMIT,
THERMAL_CRITICAL. -/
namespace Sys2Proof.Machine

/-! ### Granary and reservation registers (R392, R395) -/

/-- A write of GRTAB or GRHEAP other than of EN is refused while EN is 1 (R392). -/
def grtabPut (s : State) (v : Word) : Except Cause State :=
  let old := s.ln.grtab
  let log2 := bitsOf v 44 40
  if !zeroBits v 62 45 || !zeroBits v 11 0 || (bitOf v 63 && (decide (log2 < 10) || decide (22 < log2)))
      || (bitOf old 63 && bitsOf old 62 0 != bitsOf v 62 0) then .error Cause.grcfg
  else .ok { s with ln := { s.ln with grtab := v, gran := if bitOf v 63 then s.ln.gran else [] } }

/-- GRHEAP (R392). -/
def grheapPut (s : State) (v : Word) : Except Cause State :=
  if !zeroBits v 15 0 || (bitOf s.ln.grtab 63 && v != s.ln.grheap) then .error Cause.grcfg
  else .ok { s with ln := { s.ln with grheap := v } }

/-- The table of a resource kind as it was last written (R395). -/
def rsvtLatest (s : State) (kind : Nat) : SMap (BitVec 8) :=
  match s.ln.rsvtNew.get? kind with
  | some (_, t) => t
  | none => (List.range 256).foldl (fun m i => SMap.put 0 m i (s.ln.rsvt.getD (kind * 256 + i) 0)) []

/-- A write of the eight bytes at an offset of a table: refused where more than 192 bytes would be nonzero (R395). -/
def rsvtPut (s : State) (kind off : Nat) (v : Word) : Except Cause State :=
  let t := ((bytesOf 8 v.toNat).zipIdx).foldl (fun m x => SMap.put 0 m (off / 8 * 8 + x.2) x.1) (rsvtLatest s kind)
  if 192 < t.length then .error Cause.rsvcfg
  else
    let s := foldTable s kind
    .ok { s with ln := { s.ln with rsvtNew := s.ln.rsvtNew.set kind (s.clk.cycle, t) } }

/-- FRAME_BOUNDARY of resource kind `ops`[0]: a table written before the last boundary has taken effect (R395). -/
def execFrameBoundary (s : State) : Out := .next (foldTable s (s.op 0))

/-- A host write that its register takes or refuses (R455). -/
def hostPut (s : State) (port : Bool) (off : Nat) (r : Except Cause State) : State :=
  match r with
  | .ok s' => s'
  | .error e => hwRefuse s port off e

/-- Control-window offsets of the reservation tables (R397, R454). -/
def rsvtOff (kind off : Nat) : Nat := 0x10000 + 256 * kind + off / 8 * 8

/-- Resource kinds of R397. -/
def rsvtKinds : Nat := 15

/-- GRTAB_WRITE (R392). -/
def execGrtabWrite (port : Bool) (v : Word) (s : State) : Out := whileUp s (hostPut s port 0x2000 (grtabPut s v))

/-- RSVT_WRITE (R395). -/
def execRsvtWrite (port : Bool) (kind off : Nat) (v : Word) (s : State) : Out :=
  whileUp s (if kind < rsvtKinds ∧ off < 256 then hostPut s port (rsvtOff kind off) (rsvtPut s kind off v) else s)

/-! ### Keys and the mailbox (R465, R466) -/

/-- A write of KEYLD: with GO Forfin begins; refused while it is busy (R465). -/
def keyldPut (s : State) (v : Word) : Except Cause State :=
  if !zeroBits v 61 24 || bitOf s.boot.keyld 63 then .error Cause.ptebad
  else .ok { s with boot := { s.boot with keyld := v } }

/-- Forfin ends what KEYLD has started: the slot is filled or emptied at every serving port, and GO reads 0 (R465; log 110). -/
def keyldDone (s : State) : State :=
  let v := s.boot.keyld
  let slot := bitsOf v 7 0
  if !bitOf v 63 then s
  else { s with boot := { s.boot with
    keyld := withBits v 63 63 0
    keys := if bitOf v 62 then s.boot.keys.erase slot else s.boot.keys.set slot (bitsOf v 23 8) } }

/-- KEY_LOAD (R465). -/
def execKeyLoad (port : Bool) (v : Word) (s : State) : Out :=
  whileUp s (if bitOf v 62 then s else hostPut s port 0x110 (keyldPut s v))

/-- KEY_CLEAR (R465). -/
def execKeyClear (port : Bool) (v : Word) (s : State) : Out :=
  whileUp s (if bitOf v 62 then hostPut s port 0x110 (keyldPut s v) else s)

/-- A write of FMBCMD: GO clears DONE, which no write sets (R466). -/
def fmbcmdPut (s : State) (v : Word) : Except Cause State :=
  if !zeroBits v 61 0 || (bitOf v 63 && bitOf s.boot.fmbcmd 63) then .error Cause.hostcfg
  else if bitOf v 63 then .ok { s with boot := { s.boot with fmbcmd := withBits v 62 62 0 } }
  else .ok s

/-- A write of a word of FMBNONCE (R466). -/
def fmbnoncePut (s : State) (i : Nat) (v : Word) : Except Cause State :=
  if bitOf s.boot.fmbcmd 63 then .error Cause.hostcfg
  else .ok { s with boot := { s.boot with fmbnonce := setNth s.boot.fmbnonce i v } }

/-- ATTESTATION_REQUEST (R466). -/
def execAttestationRequest (port : Bool) (v : Word) (s : State) : Out := whileUp s (hostPut s port 0x400 (fmbcmdPut s v))

/-- The report (R466): the nonce alone reaches the nonce and the signature. -/
def attestReport (nonce : List Word) (node : Nat) : List Byte :=
  bytesOfWords nonce ++ bytesOf 8 node
    ++ (List.range 121).map (fun i => Sys2Proof.Config.reportByte [] node (40 + i))
    ++ List.replicate 7 0
    ++ (List.range 114).map (fun i => Sys2Proof.Config.reportByte nonce node (168 + i))
    ++ List.replicate 38 0

/-- ATTESTATION_DONE: Forfin has built the report (R466). -/
def execAttestationDone (s : State) : Out :=
  if bitOf s.boot.fmbcmd 63 then
    .next { s with boot := { s.boot with
      fmbcmd := withBits (withBits s.boot.fmbcmd 63 63 0) 62 62 1, fmbrep := attestReport s.boot.fmbnonce s.boot.node } }
  else .next s

/-! ### Other registers of the control window (R454) -/

/-- A write of HALTCTL (R467). -/
def haltctlPut (s : State) (v : Word) : Except Cause State :=
  match tidOfSel (bitsOf v 15 0) with
  | none => .error Cause.hostcfg
  | some t =>
    if !bitOf v 63 || !zeroBits v 62 16 || !isCore t || !(getCore s t).halted then .error Cause.hostcfg
    else .ok (setCore s t { (getCore s t).advance with halted := false })

/-- HALT_RESUME (R467). -/
def execHaltResume (port : Bool) (v : Word) (s : State) : Out := whileUp s (hostPut s port 0x140 (haltctlPut s v))

/-- A write of APBASE (R456). -/
def apbasePut (s : State) (which : Bool) (v : Word) : Except Cause State :=
  if !zeroBits v 63 48 || !zeroBits v 35 0 then .error Cause.hostcfg
  else .ok { s with host := if which then { s.host with apB := v } else { s.host with apA := v } }

/-- A write of HEVB (R459). -/
def hevbPut (s : State) (which : Bool) (v : Word) : State :=
  { s with host := if which then { s.host with hevbB := v } else { s.host with hevbA := v } }

/-- A write of LQCFG (R376). -/
def lqcfgPut (s : State) (q : Nat) (v : Word) : Except Cause State :=
  if !zeroBits v 62 56 || !zeroBits v 38 0 then .error Cause.lnchbad
  else .ok (setLQ s q { getLQ s q with cfg := v })

/-- A write of 0 by the owning port frees a semaphore (R457). -/
def semFree (s : State) (port : Bool) (i : Nat) (v : Word) : State :=
  let own := if port then 2 else 1
  if v = 0 ∧ s.host.sems.getD i 0 = own then { s with host := { s.host with sems := s.host.sems.erase i } } else s

/-- The eight bytes of the route table at an offset: four entries (R454, R462). -/
def routePut (s : State) (e : Nat) (v : Word) : State :=
  { s with boot := { s.boot with route := (List.range 4).foldl (fun m i =>
      m.set (e + i) (BitVec.ofNat 16 (bitsOf v (16 * i + 15) (16 * i)))) s.boot.route } }

/-- A write of eight bytes of the control window (R454); one of an unlisted or read-only offset is discarded. -/
def controlWrite (s : State) (port : Bool) (off : Nat) (v : Word) : State :=
  if off % 8 ≠ 0 then s
  else if off < 0x80 then semFree s port (off / 8) v
  else if off = 0x110 then hostPut s port off (keyldPut s v)
  else if off = 0x120 then hevbPut s false v
  else if off = 0x128 then hevbPut s true v
  else if off = 0x130 then hostPut s port off (apbasePut s false v)
  else if off = 0x138 then hostPut s port off (apbasePut s true v)
  else if off = 0x140 then hostPut s port off (haltctlPut s v)
  else if off = 0x400 then hostPut s port off (fmbcmdPut s v)
  else if 0x420 ≤ off ∧ off < 0x440 then hostPut s port off (fmbnoncePut s ((off - 0x420) / 8) v)
  else if off = ctxcmdOff then ctxcmdWrite s port v
  else if 0x800 ≤ off ∧ off < 0xA00 then ctxtenWrite s port ((off - 0x800) / 8) v
  else if 0x1000 ≤ off ∧ off < 0x1800 then hostPut s port off (lqcfgPut s ((off - 0x1000) / 8) v)
  else if off = 0x2000 then hostPut s port off (grtabPut s v)
  else if off = 0x2008 then hostPut s port off (grheapPut s v)
  else if 0x10000 ≤ off ∧ off < 0x10000 + 256 * rsvtKinds then
    hostPut s port off (rsvtPut s ((off - 0x10000) / 256) (off % 256) v)
  else if 0x800000 ≤ off ∧ off < 0x820000 then routePut s ((off - 0x800000) / 2) v
  else if 0x1000000 ≤ off ∧ off < 0x11000000 then
    hostCr s port ((off - 0x1000000) / 0x400000) ((off - 0x1000000) % 0x400000 / 8) v
  else s

/-- First offset by which REGISTER_WRITE names the launch queue window: the control window's bytes come first (log 20). -/
def queueWindow : Nat := 0x20000000

/-- A write of a word of a launch record's slot; a busy slot may or may not take it (R377). -/
def slotWrite (s : State) (q j i : Nat) (v : Word) : State :=
  let x := getLQ s q
  let s' : State := setLQ s q { x with slots := setNth x.slots j (setNth (nth [] x.slots j) i v) }
  if !x.busy.contains j then s'
  else
    let s' : State := { s' with free := s.free + 1 }
    let s : State := { s with free := s.free + 1 }
    if Sys2Proof.Config.freeChoice (s.free - 1) % 2 = 0 then s else s'

/-- A write of eight bytes of the launch queue window (R377). -/
def queueWrite (s : State) (off : Nat) (v : Word) : State :=
  let q := off / 1024
  let o := off % 1024
  if off % 8 ≠ 0 ∨ 256 ≤ q then s
  else if o < 960 then slotWrite s q (o / 64) (o % 64 / 8) v
  else if o = 960 then doorWrite s q v
  else s

/-- REGISTER_WRITE (R454, R455, R377). -/
def execRegisterWrite (port : Bool) (off : Nat) (v : Word) (s : State) : Out :=
  whileUp s (if off < queueWindow then controlWrite s port off v else queueWrite s (off - queueWindow) v)

/-! ### Reads -/

/-- BOOTSTAT (R461). -/
def bootstat (s : State) : Word :=
  BitVec.ofNat 64 (s.boot.links.toNat + ((s.boot.dies.zipIdx.filter (fun x => x.1.ready)).map (fun x => 2 ^ (16 + x.2))).sum
    + s.boot.blob.toNat * 2 ^ 20)

/-- What a read of eight bytes of the control window returns, but for the effects that reads of SEM, HWSTAT and TSERR have; an
unlisted offset reads as zero (R454), and numeric windows that have ended are cleared first (R193). -/
def controlRead (s : State) (off : Nat) : Word :=
  if off % 8 ≠ 0 then 0
  else if off < 0x80 then BitVec.ofNat 64 (s.host.sems.getD (off / 8) 0)
  else if off = 0x80 then s.host.hwstatA
  else if off = 0x88 then s.host.hwstatB
  else if off = 0x100 then bootstat s
  else if off = 0x108 then BitVec.ofNat 64 (s.boot.node % 2 ^ 20)
  else if off = 0x110 then s.boot.keyld
  else if off = 0x120 then s.host.hevbA
  else if off = 0x128 then s.host.hevbB
  else if off = 0x130 then s.host.apA
  else if off = 0x138 then s.host.apB
  else if 0x200 ≤ off ∧ off < 0x400 then ctxstat s ((off - 0x200) / 8)
  else if off = 0x400 then s.boot.fmbcmd
  else if 0x420 ≤ off ∧ off < 0x440 then nth 0 s.boot.fmbnonce ((off - 0x420) / 8)
  else if off = ctxcmdOff then ctxcmdRead s
  else if 0x800 ≤ off ∧ off < 0xA00 then
    let c := getCtx s ((off - 0x800) / 8)
    BitVec.ofNat 64 (c.tenant % 65536 + c.pkgp.toNat * 65536)
  else if 0xC00 ≤ off ∧ off < 0xD40 then
    (if bitOf s.boot.fmbcmd 62 then BitVec.ofNat 64 (ofBytes ((s.boot.fmbrep.drop (off - 0xC00)).take 8)) else 0)
  else if 0x1000 ≤ off ∧ off < 0x1800 then (getLQ s ((off - 0x1000) / 8)).cfg
  else if off = 0x2000 then s.ln.grtab
  else if off = 0x2008 then s.ln.grheap
  else if 0x10000 ≤ off ∧ off < 0x10000 + 256 * rsvtKinds then
    BitVec.ofNat 64 (ofBytes ((List.range 8).map (fun i => (rsvtLatest s ((off - 0x10000) / 256)).getD (off % 256 + i) 0)))
  else if 0x800000 ≤ off ∧ off < 0x820000 then
    BitVec.ofNat 64 (ofBytes ((List.range 4).flatMap (fun i =>
      bytesOf 2 (s.boot.route.getD ((off - 0x800000) / 2 + i) 0).toNat)))
  else if 0x1000000 ≤ off ∧ off < 0x11000000 then
    match crName ((off - 0x1000000) % 0x400000 / 8) with
    | none => 0
    | some r => (match crGet (windowsTo s ((off - 0x1000000) / 0x400000)) ((off - 0x1000000) / 0x400000) 0 r with
      | .ok v => v
      | .error _ => 0)
  else 0

/-- HWSTAT_READ: a port reads the HWSTAT of Lowyn A or B, which is then cleared (R455). -/
def execHwstatRead (_port which : Bool) (s : State) : Out :=
  .next (if which then { s with host := { s.host with reply := s.host.hwstatB, hwstatB := 0 } }
    else { s with host := { s.host with reply := s.host.hwstatA, hwstatA := 0 } })

/-- LQSTAT of a queue (R377). -/
def lqstat (x : LQueue) : Word :=
  BitVec.ofNat 64 (((List.range 15).map (fun j => if x.busy.contains j then 2 ^ j else 0)).sum + x.err.toNat * 2 ^ 15)

/-- LQSTAT_READ: ERR is cleared by the read (R377). -/
def execLqstatRead (_port : Bool) (q : Nat) (s : State) : Out :=
  let x := getLQ s q
  .next (if q < 256 then { setLQ s q { x with err := false } with host := { s.host with reply := lqstat x } } else s)

/-- SEMAPHORE_READ of semaphore i by Lowyn A, by Lowyn B, or by both in one cycle: a free one is claimed, and of a tie the loser of
the last one wins (R457). -/
def execSemaphoreRead (i : Nat) (a b : Bool) (s : State) : Out :=
  let own := s.host.sems.getD i 0
  if 16 ≤ i ∨ (a = false ∧ b = false) ∨ s.boot.held = true then .next s
  else if own ≠ 0 then .next { s with host := { s.host with reply := BitVec.ofNat 64 own } }
  else
    let new := if a && b then (if s.host.semTie then 2 else 1) else if b then 2 else 1
    .next { s with host := { s.host with
      sems := s.host.sems.set i new, reply := BitVec.ofNat 64 new
      semTie := if a && b then !s.host.semTie else s.host.semTie } }

/-- SEMAPHORE_WRITE (R457). -/
def execSemaphoreWrite (port : Bool) (i : Nat) (v : Word) (s : State) : Out := whileUp s (if i < 16 then semFree s port i v else s)

/-! ### Host memory accesses (R456) -/

/-- A port as an agent: the host stream of the port. -/
def hostWho (s : State) (port : Bool) (ia : Nat) : Who :=
  let ctx := if inWindow ia then (match regionAt s (windowTid ia) (ia % 2 ^ 20) with
      | some r => regCtx (region s (windowTid ia) r)
      | none => 0) else 0
  ⟨ctx, 4, 0, agentKey 5 port.toNat, none, false, none, false, false, none, none, false⟩

/-- Cut n bytes from an IA at 64-byte blocks. -/
def cutIA : Nat → Nat → Nat → List (Nat × Nat)
  | 0, _, _ => []
  | fuel + 1, ia, n =>
    if n = 0 then []
    else
      let k := min n (64 - ia % 64)
      (ia, k) :: cutIA fuel (ia + k) (n - k)

/-- The accesses of n bytes from an IA, one for each line. -/
def hostParts (s : State) (ia n : Nat) : List Part :=
  (cutIA (n + 1) ia n).foldr (fun p l => addPart s ⟨0, p.1, p.2, 0⟩ l) []

/-- The causes with which a host access faults: an invalid or malformed entry, an unreachable owner (R456). -/
def hostFaults (e : Cause) : Bool := e == Cause.pageflt || e == Cause.ptebad || e == Cause.unreach

/-- The pieces of an access of a port, from the piece at an offset of it on; what has been performed stays so while a later piece
waits. A piece that meets another cause does not fault: the write is not made, a read's bytes are free values (R456; log 109). -/
def hostEach (s : State) (port : Bool) (wr : Option (List Byte)) : List Part → Nat → Res (List Byte) × State
  | [], _ => (.ok [], s)
  | p :: l, off =>
    let who := hostWho s port p.ia
    let rest (s : State) (bs : List Byte) : Res (List Byte) × State :=
      match hostEach (noteTorn s who.key p.ia (bs ++ List.replicate (p.len - bs.length) 0)) port wr l (off + p.len) with
      | (.ok more, s) => (.ok (bs ++ more), s)
      | x => x
    match apart s who p.ia 0 (match wr with
        | some bs => .write (allSome ((bs.drop off).take p.len))
        | none => .read p.len) with
    | (.ok bs, s) => rest s bs
    | (.wait, s) => (.wait, s)
    | (.fault e, s) =>
      if hostFaults e then (.fault e, s)
      else if wr.isSome then rest s []
      else rest { s with free := s.free + p.len } ((List.range p.len).map (fun i => Sys2Proof.Config.freeByte (s.free + i)))

/-- An access of a port. -/
def hostAccess (s : State) (port : Bool) (ps : List Part) (wr : Option (List Byte)) : Res (List Byte) × State :=
  match hostEach s port wr ps 0 with
  | (.wait, s) => (.wait, s)
  | (x, s) => (x, dropTorn (dropAsks s (agentKey 5 port.toNat) ps) (agentKey 5 port.toNat))

/-- The accesses of a port through BAR 4 that have been accepted and are not complete: this one, and others (R456). -/
def flightOf (s : State) (port : Bool) (off n : Nat) : Option (Bool × Nat × Nat × Nat) :=
  s.host.flights.find? (fun f => f.1 == port && f.2.1 == off && f.2.2.1 == n)
def otherFlight (s : State) (port : Bool) (off n : Nat) : Bool :=
  s.host.flights.any (fun f => f.1 == port && !(f.2.1 == off && f.2.2.1 == n))

/-- IA of a byte of BAR 4: by the port's aperture base, or the one that it had when the access was accepted (R456). -/
def apertureIA (s : State) (port : Bool) (off n : Nat) : Nat :=
  (match flightOf s port off n with
    | some f => f.2.2.2
    | none => bitsOf (if port then s.host.apB else s.host.apA) 47 36) * 2 ^ 36 + off

/-- An access of a port is complete. -/
def endFlight (s : State) (port : Bool) (unsupported : Bool) : State :=
  { s with host := { s.host with flights := s.host.flights.filter (fun f => f.1 != port), unsupported := unsupported } }

/-- An access of a port waits: it goes where the base leads at its acceptance. -/
def keepFlight (s : State) (port : Bool) (off n base : Nat) : State :=
  if (flightOf s port off n).isSome then s
  else { s with host := { s.host with flights := s.host.flights ++ [(port, off, n, base)] } }

/-- HOST_MEMORY_ACCESS: a read of `len` bytes, or a write of bytes, at an offset of BAR 4; one that has to wait comes again, before any
other of its port. One that faults completes as an unsupported request, with its cause in HWSTAT (R94, R456; log 109). -/
def execHostMemoryAccess (port : Bool) (off len : Nat) (wr : Option (List Byte)) (s : State) : Out :=
  let n := match wr with
    | some bs => bs.length
    | none => len
  if 2 ^ 36 < off + n ∨ s.boot.held = true ∨ otherFlight s port off n = true then .next s
  else
    let ia := apertureIA s port off n
    match hostAccess s port (hostParts s ia n) wr with
    | (.wait, s) => .next (keepFlight s port off n (ia / 2 ^ 36))
    | (.fault e, s) => .next (hwRefuse (endFlight s port true) port (off % 2 ^ 32) e)
    | (.ok bs, s) => .next (let s := endFlight s port false; { s with host := { s.host with replyBytes := bs } })

/-! ### Boot (R461, R464) -/

/-- Core and memory tiles of a die. -/
def dieTiles (d : Nat) : List Tid := (List.range 4096).filter (fun t => dieOf t == d)

/-- What the blob loads (R464, step 3). -/
def bootOf : Boot :=
  let dies : List Die := (List.range 4).map (fun d => ⟨false, Sys2Proof.Config.blobFallowDie d⟩)
  { State.reset.boot with
    node := Sys2Proof.Config.blobNode.toNat
    timeRoot := Sys2Proof.Config.blobTimeRoot.toNat
    blob := true
    dies := dies
    fallow := (List.range 4096).filter (fun t => Sys2Proof.Config.blobFallowTile t || Sys2Proof.Config.blobFallowDie (dieOf t))
    route := (List.range 65536).map (fun e => (e, Sys2Proof.Config.blobRoute e)) }

/-- PTBASE, FPA and FPB as the blob gives them (R37, R152, R464). -/
def xlatOf : Xlat :=
  let p := Sys2Proof.Config.blobPtbase
  { State.reset.xl with
    ptbase := BitVec.ofNat 64 (p.1.toNat * 2 ^ 13 + p.2.toNat)
    fpa := (List.range 28).map (fun i => let f := Sys2Proof.Config.blobFpa i
      BitVec.ofNat 64 (f.1.toNat * 2 ^ 12 + f.2.toNat))
    fpb := (List.range 28).map (fun i => BitVec.ofNat 64 ((Sys2Proof.Config.blobPoolSize i).toNat + 1)) }

/-- MODULE_RESET, with whether one of Forfin's image slots passes its check and whether the blob does (R464): the module is as after
reset, host memory and the near and far tiers apart, and the blob's values are loaded; with both slots failed it stays in reset (log 4). -/
def execModuleReset (image blob : Bool) (s : State) : Out :=
  let z := State.reset
  let s' : State := { z with
    st := { z.st with mem := s.st.mem.filter (fun c => c.1 < 2 * 2 ^ 44), host := s.st.host, lineKey := s.st.lineKey,
                      lineBad := s.st.lineBad }
    eng := { z.eng with nextUid := s.eng.nextUid, images := s.eng.images }
    tk := { z.tk with nextRid := s.tk.nextRid }
    ln := { z.ln with order := s.ln.order }
    free := s.free }
  .next (if image && blob then { s' with boot := bootOf, xl := xlatOf } else { s' with boot := { s'.boot with held := !image } })

/-- Mark a die fallow (R13, R464, R469). -/
def markFallow (s : State) (d : Nat) : State :=
  { s with boot := { s.boot with
    dies := setNth s.boot.dies d ⟨false, true⟩
    fallow := s.boot.fallow ++ (dieTiles d).filter (fun t => !s.boot.fallow.contains t) } }

/-- DIE_POWER_UP of the next die in turn, with whether its memory trains (R464, step 4): its tiles are cleared, BFTH is the blob's;
a die that fails is fallow and the host is told. -/
def execDiePowerUp (die : Nat) (ok : Bool) (s : State) : Out :=
  let at' (d : Nat) : Die := nth (⟨false, true⟩ : Die) s.boot.dies d
  let done (d : Nat) : Bool := (at' d).ready || (at' d).isFallow
  if !s.boot.blob || 4 ≤ die || done die || !((List.range die).all done) then .next s
  else if !ok then .next (hostEvent (markFallow s die) 0 0 0 0 (BitVec.ofNat 64 die))
  else
    let ts := dieTiles die
    let mine (k : Nat) : Bool :=
      (2 * 2 ^ 44 ≤ k && k < 3 * 2 ^ 44 && ts.contains ((k - 2 * 2 ^ 44) / 2 ^ 20))
        || (3 * 2 ^ 44 ≤ k && ts.contains ((k - 3 * 2 ^ 44) / 131072))
    .next { s with
      boot := { s.boot with dies := setNth s.boot.dies die ⟨true, false⟩ }
      st := { s.st with mem := s.st.mem.filter (fun c => !mine c.1) }
      tl := { s.tl with mtstat := (ts.filter isMem).foldl (fun m t =>
        m.set t (BitVec.ofNat 64 (Sys2Proof.Config.blobBfth.toNat * 256))) s.tl.mtstat } }

/-! ### Links and time (R433, R460 to R463) -/

/-- Messages and accesses under way on a link that has failed end as R433 says: the sender sees the target as unreachable. One whose
answer has not come is taken as under way (log 147). -/
def cutOff (s : State) (l : Nat) : State :=
  let lost := s.fab.msgs.filter (fun m => m.injected && m.resendAt.isNone && m.link == some l)
  let s := lost.foldl (fun s m => applyAck s ⟨m.uid, 2, 2, Cause.engnode, m⟩) s
  let gone := s.xl.fwdOut.filter (fun o => o.link == some l && (findReply s o.uid).isNone)
  { s with xl := { s.xl with replies := s.xl.replies ++ gone.map (fun o => (o.uid, Cause.unreach, [])) } }

/-- LINK_DOWN of link l (R433, R460). -/
def execLinkDown (l : Nat) (s : State) : Out :=
  if 16 ≤ l ∨ s.boot.links.getLsbD l = false then .next s
  else
    let s := { s with boot := { s.boot with links := s.boot.links &&& ~~~(BitVec.ofNat 16 (2 ^ l)) } }
    .next (cutOff (hostEvent s Cause.unreach 0 0 (tselOf (linkTile l)) (BitVec.ofNat 64 l)) l)

/-- LINK_TRAINED of link l (R461). -/
def execLinkTrained (l : Nat) (s : State) : Out :=
  whileUp s (if l < 16 then { s with boot := { s.boot with links := s.boot.links ||| BitVec.ofNat 16 (2 ^ l) } } else s)

/-- Send a beacon down every trained link but one: words [19, link, device time], to no node (R463). -/
def sendBeacon (s : State) (but t : Nat) : State :=
  ((List.range 16).filter (fun l => s.boot.links.getLsbD l && l != but)).foldl (fun s l => sendNode s (2 ^ 20 + l) 0 [19, l, t]) s

/-- TIME_BEACON: the time root sends its device time down each link, 1 µs after the last (R463). -/
def execTimeBeacon (s : State) : Out :=
  let due := match s.clk.beacons with
    | [] => true
    | t :: _ => t + 1000 ≤ s.clk.dtime
  if !s.boot.blob || s.boot.node ≠ s.boot.timeRoot || !due then .next s
  else .next (sendBeacon { s with clk := { s.clk with beacons := [s.clk.dtime] } } 16 s.clk.dtime)

/-- BEACON_ARRIVAL on link l of device time t: the module slews towards it and passes it on with the link's delay added (R463). -/
def execBeaconArrival (l t : Nat) (s : State) : Out :=
  if 16 ≤ l ∨ s.boot.links.getLsbD l = false ∨ s.boot.node = s.boot.timeRoot then .next s
  else
    let t := t + Sys2Proof.Config.linkDelay l
    let s := { s with clk := { s.clk with slew := Int.ofNat t - Int.ofNat s.clk.dtime } }
    .next (sendBeacon s l t)

/-! ### Temperature (R469) -/

/-- THERMAL_LIMIT of a block: the host is told; the idle cycles it inserts are timing. -/
def execThermalLimit (block : Nat) (s : State) : Out := .next (hostEvent s 0 0 0 0 (BitVec.ofNat 64 block))

/-- A context has work on a die: a launch's swath, a firing, a section, a region, an engine command, a record or a stream. -/
def worksOn (s : State) (ctx d : Nat) : Bool :=
  s.ln.live.any (fun l => l.ctx == ctx && l.quads.any (fun q => dieOfQuad q == d))
  || s.cores.any (fun e => dieOf e.1 == d && (match e.2.run with | some f => f.task.ctx == ctx | none => false))
  || s.fab.secs.any (fun e => e.1 / 64 == ctx && e.2.tiles.any (fun t => tileDie t == d))
  || (regionTiles s ctx).any (fun t => dieOf t == d)
  || s.eng.inbox.any (fun e => dieOfQuad e.1 == d && e.2.any (fun c => engCtx c == ctx && c.state != .ended))
  || s.tk.drill.any (fun r => r.ctx == ctx && r.die == d) || s.tk.parked.any (fun r => r.ctx == ctx && dieOfQuad r.quad == d)
  || s.fab.gens.any (fun e => dieOf (e.1 / 4) == d && (match e.2.run with | some r => r.ctx == ctx | none => false))

/-- THERMAL_CRITICAL of a die: it is fallow at once, and every context with work on it is killed (R469). -/
def execThermalCritical (die : Nat) (s : State) : Out :=
  if 4 ≤ die then .next s
  else
    let cs := (s.ctxs.filter (fun e => (e.2.state == .active || e.2.state == .saving) && worksOn s e.1 die)).map (·.1)
    .next (markFallow (cs.foldl (fun s c => loseContext s c false) s) die)

end Sys2Proof.Machine
end

