-- ==== Sys2Proof/Machine/SeqCompute.lean ====
section
/-! DEFINITION. Register computation (R256 to R258), immediate forms (R259), branches and jumps (R260, R261). -/
namespace Sys2Proof.Machine

/-- The shift amount: bits 5:0 (R257). -/
def shAmt (b : Word) : Nat := b.toNat % 64

/-- Bits 127:64 of the signed product (R257). -/
def mulHigh (a b : Word) : Word := BitVec.ofInt 64 (a.toInt * b.toInt / 2 ^ 64)

/-- Bits 127:64 of the unsigned product (R257). -/
def mulHighU (a b : Word) : Word := BitVec.ofNat 64 (a.toNat * b.toNat / 2 ^ 64)

/-- Signed quotient, with the results of R258 for every operand. -/
def divS (a b : Word) : Word := if b = 0 then BitVec.allOnes 64 else BitVec.ofInt 64 (Int.tdiv a.toInt b.toInt)

/-- Signed remainder (R258). -/
def remS (a b : Word) : Word := if b = 0 then a else BitVec.ofInt 64 (Int.tmod a.toInt b.toInt)

/-- Unsigned quotient (R258). -/
def divU (a b : Word) : Word := if b = 0 then BitVec.allOnes 64 else BitVec.ofNat 64 (a.toNat / b.toNat)

/-- Unsigned remainder (R258). -/
def remU (a b : Word) : Word := if b = 0 then a else BitVec.ofNat 64 (a.toNat % b.toNat)

/-- Leading zero bits, 0 to 64 (R257). -/
def countLeading (a : Word) : Word := if a = 0 then 64 else BitVec.ofNat 64 (63 - Nat.log2 a.toNat)

/-- Trailing zero bits below a limit. -/
def trailing : Nat → Nat → Nat
  | 0, _ => 0
  | n + 1, v => if v % 2 = 1 then 0 else trailing n (v / 2) + 1

/-- Trailing zero bits, 0 to 64 (R257). -/
def countTrailing (a : Word) : Word := BitVec.ofNat 64 (trailing 64 a.toNat)

/-! ### Register computation -/

/-- ADD (R257). -/
def execAdd (d a b : Reg) (s : State) : Out := regOp s [a, b] d (fun c => c.gpr a + c.gpr b)

/-- SUB (R257). -/
def execSub (d a b : Reg) (s : State) : Out := regOp s [a, b] d (fun c => c.gpr a - c.gpr b)

/-- AND (R257). -/
def execAnd (d a b : Reg) (s : State) : Out := regOp s [a, b] d (fun c => c.gpr a &&& c.gpr b)

/-- OR (R257). -/
def execOr (d a b : Reg) (s : State) : Out := regOp s [a, b] d (fun c => c.gpr a ||| c.gpr b)

/-- XOR (R257). -/
def execXor (d a b : Reg) (s : State) : Out := regOp s [a, b] d (fun c => c.gpr a ^^^ c.gpr b)

/-- ANDN (R257). -/
def execAndn (d a b : Reg) (s : State) : Out := regOp s [a, b] d (fun c => c.gpr a &&& ~~~(c.gpr b))

/-- SHL (R257). -/
def execShl (d a b : Reg) (s : State) : Out := regOp s [a, b] d (fun c => c.gpr a <<< shAmt (c.gpr b))

/-- SHR (R257). -/
def execShr (d a b : Reg) (s : State) : Out := regOp s [a, b] d (fun c => c.gpr a >>> shAmt (c.gpr b))

/-- SAR (R257). -/
def execSar (d a b : Reg) (s : State) : Out := regOp s [a, b] d (fun c => (c.gpr a).sshiftRight (shAmt (c.gpr b)))

/-- ROT (R257). -/
def execRot (d a b : Reg) (s : State) : Out := regOp s [a, b] d (fun c => (c.gpr a).rotateRight (shAmt (c.gpr b)))

/-- MUL (R257). -/
def execMul (d a b : Reg) (s : State) : Out := regOp s [a, b] d (fun c => c.gpr a * c.gpr b)

/-- MULH (R257). -/
def execMulh (d a b : Reg) (s : State) : Out := regOp s [a, b] d (fun c => mulHigh (c.gpr a) (c.gpr b))

/-- MULHU (R257). -/
def execMulhu (d a b : Reg) (s : State) : Out := regOp s [a, b] d (fun c => mulHighU (c.gpr a) (c.gpr b))

/-- DIV (R257, R258). -/
def execDiv (d a b : Reg) (s : State) : Out := regOp s [a, b] d (fun c => divS (c.gpr a) (c.gpr b))

/-- DIVU (R257, R258). -/
def execDivu (d a b : Reg) (s : State) : Out := regOp s [a, b] d (fun c => divU (c.gpr a) (c.gpr b))

/-- REM (R257, R258). -/
def execRem (d a b : Reg) (s : State) : Out := regOp s [a, b] d (fun c => remS (c.gpr a) (c.gpr b))

/-- REMU (R257, R258). -/
def execRemu (d a b : Reg) (s : State) : Out := regOp s [a, b] d (fun c => remU (c.gpr a) (c.gpr b))

/-- MIN (R257). -/
def execMin (d a b : Reg) (s : State) : Out := regOp s [a, b] d (fun c => if ltS (c.gpr b) (c.gpr a) then c.gpr b else c.gpr a)

/-- MAX (R257). -/
def execMax (d a b : Reg) (s : State) : Out := regOp s [a, b] d (fun c => if ltS (c.gpr a) (c.gpr b) then c.gpr b else c.gpr a)

/-- MINU (R257). -/
def execMinu (d a b : Reg) (s : State) : Out := regOp s [a, b] d (fun c => if ltU (c.gpr b) (c.gpr a) then c.gpr b else c.gpr a)

/-- MAXU (R257). -/
def execMaxu (d a b : Reg) (s : State) : Out := regOp s [a, b] d (fun c => if ltU (c.gpr a) (c.gpr b) then c.gpr b else c.gpr a)

/-- CLZ (R257). -/
def execClz (d a : Reg) (s : State) : Out := regOp s [a] d (fun c => countLeading (c.gpr a))

/-- CTZ (R257). -/
def execCtz (d a : Reg) (s : State) : Out := regOp s [a] d (fun c => countTrailing (c.gpr a))

/-- CNT (R257). -/
def execCnt (d a : Reg) (s : State) : Out := regOp s [a] d (fun c => BitVec.ofNat 64 (popCount 64 (c.gpr a).toNat))

/-- SEXT (R257). -/
def execSext (d a b : Reg) (s : State) : Out := regOp s [a, b] d (fun c => sextN (c.gpr a) (shAmt (c.gpr b) + 1))

/-- ZEXT (R257). -/
def execZext (d a b : Reg) (s : State) : Out := regOp s [a, b] d (fun c => zextN (c.gpr a) (shAmt (c.gpr b) + 1))

/-- SEQ (R257). -/
def execSeq (d a b : Reg) (s : State) : Out := regOp s [a, b] d (fun c => flag (c.gpr a == c.gpr b))

/-- SLT (R257). -/
def execSlt (d a b : Reg) (s : State) : Out := regOp s [a, b] d (fun c => flag (ltS (c.gpr a) (c.gpr b)))

/-- SLTU (R257). -/
def execSltu (d a b : Reg) (s : State) : Out := regOp s [a, b] d (fun c => flag (ltU (c.gpr a) (c.gpr b)))

/-- SEL (R257). -/
def execSel (d a b : Reg) (s : State) : Out := regOp s [d, a, b] d (fun c => if c.gpr d != 0 then c.gpr a else c.gpr b)

/-- CMOV (R257). -/
def execCmov (d a b : Reg) (s : State) : Out := regOp s [d, a, b] d (fun c => if c.gpr b != 0 then c.gpr a else c.gpr d)

/-! ### Immediate forms -/

/-- ADDI (R259). -/
def execAddi (d a : Reg) (i : BitVec 16) (s : State) : Out := regOp s [a] d (fun c => c.gpr a + s16 i)

/-- ANDI (R259). -/
def execAndi (d a : Reg) (i : BitVec 16) (s : State) : Out := regOp s [a] d (fun c => c.gpr a &&& z16 i)

/-- ORI (R259). -/
def execOri (d a : Reg) (i : BitVec 16) (s : State) : Out := regOp s [a] d (fun c => c.gpr a ||| z16 i)

/-- XORI (R259). -/
def execXori (d a : Reg) (i : BitVec 16) (s : State) : Out := regOp s [a] d (fun c => c.gpr a ^^^ z16 i)

/-- SHLI (R259). -/
def execShli (d a : Reg) (i : BitVec 6) (s : State) : Out := regOp s [a] d (fun c => c.gpr a <<< i.toNat)

/-- SHRI (R259). -/
def execShri (d a : Reg) (i : BitVec 6) (s : State) : Out := regOp s [a] d (fun c => c.gpr a >>> i.toNat)

/-- SARI (R259). -/
def execSari (d a : Reg) (i : BitVec 6) (s : State) : Out := regOp s [a] d (fun c => (c.gpr a).sshiftRight i.toNat)

/-- LDI (R259). -/
def execLdi (d : Reg) (i : BitVec 16) (s : State) : Out := regOp s [] d (fun _ => s16 i)

/-- LDSH (R259). -/
def execLdsh (d a : Reg) (i : BitVec 16) (s : State) : Out := regOp s [a] d (fun c => (c.gpr a <<< 16) ||| z16 i)

/-- SLTI (R259). -/
def execSlti (d a : Reg) (i : BitVec 16) (s : State) : Out := regOp s [a] d (fun c => flag (ltS (c.gpr a) (s16 i)))

/-- SLTUI (R259). -/
def execSltui (d a : Reg) (i : BitVec 16) (s : State) : Out := regOp s [a] d (fun c => flag (ltU (c.gpr a) (s16 i)))

/-- MULI (R259). -/
def execMuli (d a : Reg) (i : BitVec 16) (s : State) : Out := regOp s [a] d (fun c => c.gpr a * s16 i)

/-! ### Branches and jumps -/

/-- A conditional branch (R260). -/
def branch (s : State) (a b : Reg) (o : BitVec 16) (taken : Word → Word → Bool) : Out :=
  onCore s (fun t c _ =>
    if c.ready [a, b] then
      setCore s t { c with pc := if taken (c.gpr a) (c.gpr b) then targetB c.pc o else c.pc + 4 }
    else s)

/-- BEQ (R260). -/
def execBeq (a b : Reg) (o : BitVec 16) (s : State) : Out := branch s a b o (fun x y => x == y)

/-- BNE (R260). -/
def execBne (a b : Reg) (o : BitVec 16) (s : State) : Out := branch s a b o (fun x y => x != y)

/-- BLT (R260). -/
def execBlt (a b : Reg) (o : BitVec 16) (s : State) : Out := branch s a b o (fun x y => ltS x y)

/-- BGE (R260). -/
def execBge (a b : Reg) (o : BitVec 16) (s : State) : Out := branch s a b o (fun x y => !ltS x y)

/-- BLTU (R260). -/
def execBltu (a b : Reg) (o : BitVec 16) (s : State) : Out := branch s a b o (fun x y => ltU x y)

/-- BGEU (R260). -/
def execBgeu (a b : Reg) (o : BitVec 16) (s : State) : Out := branch s a b o (fun x y => !ltU x y)

/-- JMP (R261). -/
def execJmp (o : BitVec 26) (s : State) : Out := onCore s (fun t c _ => setCore s t { c with pc := targetJ c.pc o })

/-- JAL: g31 := pc + 4, then the jump (R261). -/
def execJal (o : BitVec 26) (s : State) : Out :=
  onCore s (fun t c _ =>
    if c.ready [31] then setCore s t { c.setGpr 31 (c.pc + 4) with pc := targetJ c.pc o } else s)

/-- JR: PCALIGN on a target that is no multiple of 4, with nothing changed (R230, R261). -/
def execJr (a : Reg) (o : BitVec 16) (s : State) : Out :=
  onCore s (fun t c _ =>
    if c.ready [a] then
      let target := targetB (c.gpr a) o
      if target.toNat % 4 ≠ 0 then trapOpen s t Cause.pcalign else setCore s t { c with pc := target }
    else s)

end Sys2Proof.Machine
end

