-- ==== Sys2Proof/Machine/TileEvents.lean ====
section
/-! DEFINITION. What a memory tile does by itself: CORRECTION_WRITEBACK, SCRUB_ROW, SCRUB_TAKEOVER (R65, R68). -/
namespace Sys2Proof.Machine

/-- The value that corrects a bank's symbol as its codeword stands now; none where nothing is wrong with it any more (R65). -/
def correctedNow (s : State) (t : Tid) (row b pos : Nat) : Option Byte :=
  match (readPos (rowCells s.st.mem t row) t row pos (failedBank (mtstat s t))).2 with
  | .fix b' v => if b' = b then some v else none
  | _ => none

/-- CORRECTION_WRITEBACK: the oldest corrected symbol is written back, behind the writes that its bank has served since: a data
symbol that one of them has replaced is right, and P and Q are corrected as those writes left them (R64, R65). -/
def execCorrectionWriteback (s : State) : Out :=
  match s.tl.corrections with
  | [] => .next s
  | (t, row, b, pos) :: rest =>
    let s := { s with tl := { s.tl with corrections := rest } }
    .next (match correctedNow s t row b pos with
      | some v => { s with st := { s.st with mem := cellSet s.st.mem (symKey t row b pos) v } }
      | none => s)

/-- Cycles since a tile's scrubber read its last row. -/
def scrubAge (s : State) (t : Tid) : Nat := s.clk.cycle - s.tl.scrubWait.getD t 0

/-- The counts of a tile's banks, cleared at the start of a pass (R68). -/
def clearBankCounts (s : State) (t : Tid) : State :=
  { s with tl := { s.tl with bankCount := s.tl.bankCount.filter (fun e => e.1 / 32 != t) } }

/-- Read and decode the next row index of a tile (R68): it corrects and counts as a read does. -/
def scrubNext (s : State) (t : Tid) : State :=
  let row := s.tl.scrubRow.getD t 0
  let s := if row = 0 then clearBankCounts s t else s
  let s := (decodeRow s t row).2
  { s with tl := { s.tl with
    scrubRow := s.tl.scrubRow.set t ((row + 1) % 1024), scrubWait := s.tl.scrubWait.set t s.clk.cycle } }

/-- An IA lies in the window of tile t. -/
def inTile (t : Tid) (ia : Nat) : Bool := inWindow ia && windowTid ia == t

/-- The VA of the element that a stream accesses next, and whether it writes: none where it waits for a token, holds, or has
something to send first. -/
def nextElem (r : Stream) : Option (Word × Bool) :=
  let p := r.words
  let va : Option Word :=
    if patMode p = 1 then
      match r.coord with
      | some (tok, i) => if i % 2 = 1 ∧ r.e < patLen p 0 then some (indexVA p ((coordIndex p tok (i / 2)).getD 0) r.e) else none
      | none => none
    else if r.e < patCount p then some (elemVA p r.e) else none
  if r.held.isSome || !r.outQ.isEmpty || r.srcDone then none
  else if patWrite p then
    match r.inTok with
    | some (tok, j) => if r.skips = 0 ∧ j < 64 / elemBytes r ∧ slotLive r tok j = true then va.map (fun v => (v, true)) else none
    | none => if patSp24 p && sparseReady r then va.map (fun v => (v, true)) else none
  else if r.stopping || r.skips != 0 || r.zeros != 0 then none
  else va.map (fun v => (v, false))

/-- A generator of a tile wants a bank of it now: its next element lies there and does not wait for a region (R62, R72). -/
def genWants (s : State) (t : Tid) (g : Nat) : Bool :=
  match (getGen s t g).run with
  | none => false
  | some r =>
    match gEnv s t g r, nextElem r with
    | some e, some (va, wr) =>
      !e.atStop && !streamHeld s r && (genFifo s e r).isNone && (match elemPlace s e r va wr with
        | (.ok _, _, _) => true
        | _ => false)
    | _, _ => false

/-- A push or pop that a FIFO of the tile can serve now (R75). -/
def fifoWants (s : State) (t : Tid) : Bool :=
  (List.range 8).any (fun r => (s.tl.fifoReqs.getD (t * 8 + r) []).any (fun q =>
    tileDead s t || (if q.push then pushReady s q.drawer t r else popReady s q.drawer t r)))

/-- A requester of R62 wants a bank of the tile: a core's access at its banks, an element port, an address generator, or a push or
pop; an engine's and the host's accesses begin and end in one event. -/
def tileWanted (s : State) (t : Tid) : Bool :=
  s.cores.any (fun e => e.2.unfin.any (fun a => a.phase == .atBank && inTile t a.ia)) ||
  s.fab.slots.any (fun e => e.2.ops.any (fun p => inTile t p.ia && !fifoAsked s (.slot (e.1 / 64) (e.1 % 64)))) ||
  (List.range 4).any (genWants s t) || fifoWants s t

/-- A tile with a scrubber: a memory tile whose storage is not gated (R13, R68). -/
def scrubbed (s : State) (t : Tid) : Bool := isMem t && !s.boot.fallow.contains t

/-- SCRUB_ROW of tile `ops`[0]: one row every 4,096 cycles, in a cycle that no requester wants (R68). -/
def execScrubRow (s : State) : Out :=
  let t := s.op 0
  if scrubbed s t && 4096 ≤ scrubAge s t && !tileWanted s t then .next (scrubNext s t) else .next s

/-- SCRUB_TAKEOVER of tile `ops`[0]: ungranted for 65,536 cycles, the scrubber goes ahead of every requester (R68). -/
def execScrubTakeover (s : State) : Out :=
  let t := s.op 0
  if scrubbed s t && 4096 + 65536 ≤ scrubAge s t then .next (scrubNext s t) else .next s

end Sys2Proof.Machine
end

