-- ==== Sys2Proof/Machine/Dispatch.lean ====
section
/-! DEFINITION. One arm per instruction or event: a direct call of its meaning. -/
namespace Sys2Proof.Machine

def exec (i : Instr) (s : State) : Host.Outcome State Fault Refusal :=
  match i with
  | .add d a b => Sys2Proof.Machine.execAdd d a b s
  | .sub d a b => Sys2Proof.Machine.execSub d a b s
  | .and d a b => Sys2Proof.Machine.execAnd d a b s
  | .or d a b => Sys2Proof.Machine.execOr d a b s
  | .xor d a b => Sys2Proof.Machine.execXor d a b s
  | .andn d a b => Sys2Proof.Machine.execAndn d a b s
  | .shl d a b => Sys2Proof.Machine.execShl d a b s
  | .shr d a b => Sys2Proof.Machine.execShr d a b s
  | .sar d a b => Sys2Proof.Machine.execSar d a b s
  | .rot d a b => Sys2Proof.Machine.execRot d a b s
  | .mul d a b => Sys2Proof.Machine.execMul d a b s
  | .mulh d a b => Sys2Proof.Machine.execMulh d a b s
  | .mulhu d a b => Sys2Proof.Machine.execMulhu d a b s
  | .div d a b => Sys2Proof.Machine.execDiv d a b s
  | .divu d a b => Sys2Proof.Machine.execDivu d a b s
  | .rem d a b => Sys2Proof.Machine.execRem d a b s
  | .remu d a b => Sys2Proof.Machine.execRemu d a b s
  | .min d a b => Sys2Proof.Machine.execMin d a b s
  | .max d a b => Sys2Proof.Machine.execMax d a b s
  | .minu d a b => Sys2Proof.Machine.execMinu d a b s
  | .maxu d a b => Sys2Proof.Machine.execMaxu d a b s
  | .clz d a => Sys2Proof.Machine.execClz d a s
  | .ctz d a => Sys2Proof.Machine.execCtz d a s
  | .cnt d a => Sys2Proof.Machine.execCnt d a s
  | .sext d a b => Sys2Proof.Machine.execSext d a b s
  | .zext d a b => Sys2Proof.Machine.execZext d a b s
  | .seq d a b => Sys2Proof.Machine.execSeq d a b s
  | .slt d a b => Sys2Proof.Machine.execSlt d a b s
  | .sltu d a b => Sys2Proof.Machine.execSltu d a b s
  | .sel d a b => Sys2Proof.Machine.execSel d a b s
  | .cmov d a b => Sys2Proof.Machine.execCmov d a b s
  | .addi d a im => Sys2Proof.Machine.execAddi d a im s
  | .andi d a im => Sys2Proof.Machine.execAndi d a im s
  | .ori d a im => Sys2Proof.Machine.execOri d a im s
  | .xori d a im => Sys2Proof.Machine.execXori d a im s
  | .shli d a im => Sys2Proof.Machine.execShli d a im s
  | .shri d a im => Sys2Proof.Machine.execShri d a im s
  | .sari d a im => Sys2Proof.Machine.execSari d a im s
  | .ldi d im => Sys2Proof.Machine.execLdi d im s
  | .ldsh d a im => Sys2Proof.Machine.execLdsh d a im s
  | .slti d a im => Sys2Proof.Machine.execSlti d a im s
  | .sltui d a im => Sys2Proof.Machine.execSltui d a im s
  | .muli d a im => Sys2Proof.Machine.execMuli d a im s
  | .beq a b o => Sys2Proof.Machine.execBeq a b o s
  | .bne a b o => Sys2Proof.Machine.execBne a b o s
  | .blt a b o => Sys2Proof.Machine.execBlt a b o s
  | .bge a b o => Sys2Proof.Machine.execBge a b o s
  | .bltu a b o => Sys2Proof.Machine.execBltu a b o s
  | .bgeu a b o => Sys2Proof.Machine.execBgeu a b o s
  | .jmp o => Sys2Proof.Machine.execJmp o s
  | .jal o => Sys2Proof.Machine.execJal o s
  | .jr a o => Sys2Proof.Machine.execJr a o s
  | .ld d a z o => Sys2Proof.Machine.execLd d a z o s
  | .st d a z o => Sys2Proof.Machine.execSt d a z o s
  | .ldAcq d a z o => Sys2Proof.Machine.execLdAcq d a z o s
  | .stRel d a z o => Sys2Proof.Machine.execStRel d a z o s
  | .ldInv d a z o => Sys2Proof.Machine.execLdInv d a z o s
  | .atomAdd a b d z => Sys2Proof.Machine.execAtomAdd a b d z s
  | .atomAnd a b d z => Sys2Proof.Machine.execAtomAnd a b d z s
  | .atomOr a b d z => Sys2Proof.Machine.execAtomOr a b d z s
  | .atomXor a b d z => Sys2Proof.Machine.execAtomXor a b d z s
  | .atomMin a b d z => Sys2Proof.Machine.execAtomMin a b d z s
  | .atomMax a b d z => Sys2Proof.Machine.execAtomMax a b d z s
  | .atomMinu a b d z => Sys2Proof.Machine.execAtomMinu a b d z s
  | .atomMaxu a b d z => Sys2Proof.Machine.execAtomMaxu a b d z s
  | .atomSwap a b d z => Sys2Proof.Machine.execAtomSwap a b d z s
  | .atomCas a b d z => Sys2Proof.Machine.execAtomCas a b d z s
  | .atomFadd32 a b d => Sys2Proof.Machine.execAtomFadd32 a b d s
  | .atomFadd16 a b d => Sys2Proof.Machine.execAtomFadd16 a b d s
  | .redAdd a b z => Sys2Proof.Machine.execRedAdd a b z s
  | .redAnd a b z => Sys2Proof.Machine.execRedAnd a b z s
  | .redOr a b z => Sys2Proof.Machine.execRedOr a b z s
  | .redXor a b z => Sys2Proof.Machine.execRedXor a b z s
  | .redMin a b z => Sys2Proof.Machine.execRedMin a b z s
  | .redMax a b z => Sys2Proof.Machine.execRedMax a b z s
  | .redMinu a b z => Sys2Proof.Machine.execRedMinu a b z s
  | .redMaxu a b z => Sys2Proof.Machine.execRedMaxu a b z s
  | .redFadd32 a b => Sys2Proof.Machine.execRedFadd32 a b s
  | .redFadd16 a b => Sys2Proof.Machine.execRedFadd16 a b s
  | .redFmax32 a b => Sys2Proof.Machine.execRedFmax32 a b s
  | .redFmin32 a b => Sys2Proof.Machine.execRedFmin32 a b s
  | .fence z => Sys2Proof.Machine.execFence z s
  | .sbar a => Sys2Proof.Machine.execSbar a s
  | .spawn a => Sys2Proof.Machine.execSpawn a s
  | .sig a => Sys2Proof.Machine.execSig a s
  | .sigeAddress a => Sys2Proof.Machine.execSigeAddress a s
  | .sigeEntry j => Sys2Proof.Machine.execSigeEntry j s
  | .park a b k => Sys2Proof.Machine.execPark a b k s
  | .exit => Sys2Proof.Machine.execExit s
  | .yield a => Sys2Proof.Machine.execYield a s
  | .prio c => Sys2Proof.Machine.execPrio c s
  | .tdecl a => Sys2Proof.Machine.execTdecl a s
  | .jcnt a b d => Sys2Proof.Machine.execJcnt a b d s
  | .cfge a b => Sys2Proof.Machine.execCfge a b s
  | .cfgs a b => Sys2Proof.Machine.execCfgs a b s
  | .cfgo a b => Sys2Proof.Machine.execCfgo a b s
  | .cfgk a b => Sys2Proof.Machine.execCfgk a b s
  | .arm a b z => Sys2Proof.Machine.execArm a b z s
  | .disarm z => Sys2Proof.Machine.execDisarm z s
  | .secwait d z => Sys2Proof.Machine.execSecwait d z s
  | .strm a n => Sys2Proof.Machine.execStrm a n s
  | .sstop a n => Sys2Proof.Machine.execSstop a n s
  | .smark z => Sys2Proof.Machine.execSmark z s
  | .seal a n => Sys2Proof.Machine.execSeal a n s
  | .tapset a b n => Sys2Proof.Machine.execTapset a b n s
  | .binit a b => Sys2Proof.Machine.execBinit a b s
  | .barr a b => Sys2Proof.Machine.execBarr a b s
  | .bwait a b d => Sys2Proof.Machine.execBwait a b d s
  | .bchgSetExpect a b => Sys2Proof.Machine.execBchgSetExpect a b s
  | .bchgRelease a b => Sys2Proof.Machine.execBchgRelease a b s
  | .btest a b d => Sys2Proof.Machine.execBtest a b d s
  | .amsg a d => Sys2Proof.Machine.execAmsg a d s
  | .amsgw a => Sys2Proof.Machine.execAmsgw a s
  | .rfill a b => Sys2Proof.Machine.execRfill a b s
  | .publish z e => Sys2Proof.Machine.execPublish z e s
  | .ginv a b => Sys2Proof.Machine.execGinv a b s
  | .gprobe a d => Sys2Proof.Machine.execGprobe a d s
  | .trap n => Sys2Proof.Machine.execTrap n s
  | .rett => Sys2Proof.Machine.execRett s
  | .crd a d n => Sys2Proof.Machine.execCrd a d n s
  | .cwr a b n => Sys2Proof.Machine.execCwr a b n s
  | .wpt a b w => Sys2Proof.Machine.execWpt a b w s
  | .halt => Sys2Proof.Machine.execHalt s
  | .nop => Sys2Proof.Machine.execNop s
  | .time d => Sys2Proof.Machine.execTime d s
  | .evrd d c k => Sys2Proof.Machine.execEvrd d c k s
  | .iadd m ta tb => Sys2Proof.Machine.execIadd m ta tb s
  | .isub m ta tb => Sys2Proof.Machine.execIsub m ta tb s
  | .iadds m ta tb => Sys2Proof.Machine.execIadds m ta tb s
  | .isubs m ta tb => Sys2Proof.Machine.execIsubs m ta tb s
  | .imul m ta tb => Sys2Proof.Machine.execImul m ta tb s
  | .imulh m ta tb => Sys2Proof.Machine.execImulh m ta tb s
  | .imin m ta tb => Sys2Proof.Machine.execImin m ta tb s
  | .imax m ta tb => Sys2Proof.Machine.execImax m ta tb s
  | .iand m ta tb => Sys2Proof.Machine.execIand m ta tb s
  | .ior m ta tb => Sys2Proof.Machine.execIor m ta tb s
  | .ixor m ta tb => Sys2Proof.Machine.execIxor m ta tb s
  | .iandn m ta tb => Sys2Proof.Machine.execIandn m ta tb s
  | .ishl m ta tb => Sys2Proof.Machine.execIshl m ta tb s
  | .ishr m ta tb => Sys2Proof.Machine.execIshr m ta tb s
  | .isar m ta tb => Sys2Proof.Machine.execIsar m ta tb s
  | .iabs m ta tb => Sys2Proof.Machine.execIabs m ta tb s
  | .ineg m ta tb => Sys2Proof.Machine.execIneg m ta tb s
  | .icmp m ta tb => Sys2Proof.Machine.execIcmp m ta tb s
  | .isel m ta tb => Sys2Proof.Machine.execIsel m ta tb s
  | .fadd m ta tb => Sys2Proof.Machine.execFadd m ta tb s
  | .fsub m ta tb => Sys2Proof.Machine.execFsub m ta tb s
  | .fmul m ta tb => Sys2Proof.Machine.execFmul m ta tb s
  | .fmac m ta tb => Sys2Proof.Machine.execFmac m ta tb s
  | .fmin m ta tb => Sys2Proof.Machine.execFmin m ta tb s
  | .fmax m ta tb => Sys2Proof.Machine.execFmax m ta tb s
  | .fcmp m ta tb => Sys2Proof.Machine.execFcmp m ta tb s
  | .fabs m ta tb => Sys2Proof.Machine.execFabs m ta tb s
  | .fneg m ta tb => Sys2Proof.Machine.execFneg m ta tb s
  | .frcp m ta tb => Sys2Proof.Machine.execFrcp m ta tb s
  | .frsq m ta tb => Sys2Proof.Machine.execFrsq m ta tb s
  | .fsqrt m ta tb => Sys2Proof.Machine.execFsqrt m ta tb s
  | .fexp2 m ta tb => Sys2Proof.Machine.execFexp2 m ta tb s
  | .flog2 m ta tb => Sys2Proof.Machine.execFlog2 m ta tb s
  | .fresc m ta tb => Sys2Proof.Machine.execFresc m ta tb s
  | .cvt sat rm ta tb => Sys2Proof.Machine.execCvt sat rm ta tb s
  | .quant sat rm ta tb => Sys2Proof.Machine.execQuant sat rm ta tb s
  | .deq sat rm ta tb => Sys2Proof.Machine.execDeq sat rm ta tb s
  | .pack ta tb => Sys2Proof.Machine.execPack ta tb s
  | .unpack ta tb => Sys2Proof.Machine.execUnpack ta tb s
  | .tunp ta tb => Sys2Proof.Machine.execTunp ta tb s
  | .lsum m ta tb => Sys2Proof.Machine.execLsum m ta tb s
  | .lmax m ta tb => Sys2Proof.Machine.execLmax m ta tb s
  | .lmin m ta tb => Sys2Proof.Machine.execLmin m ta tb s
  | .lshuf m ta tb => Sys2Proof.Machine.execLshuf m ta tb s
  | .lbcast m ta tb => Sys2Proof.Machine.execLbcast m ta tb s
  | .lscan m ta tb => Sys2Proof.Machine.execLscan m ta tb s
  | .lcmpr m ta tb => Sys2Proof.Machine.execLcmpr m ta tb s
  | .winnow m ta tb => Sys2Proof.Machine.execWinnow m ta tb s
  | .sjoin m ta tb => Sys2Proof.Machine.execSjoin m ta tb s
  | .acc m ta tb => Sys2Proof.Machine.execAcc m ta tb s
  | .pass ta tb => Sys2Proof.Machine.execPass ta tb s
  | .const ta tb => Sys2Proof.Machine.execConst ta tb s
  | .iota m ta tb => Sys2Proof.Machine.execIota m ta tb s
  | .ldt d inv ta tb => Sys2Proof.Machine.execLdt d inv ta tb s
  | .stt d => Sys2Proof.Machine.execStt d s
  | .ldo d inv ta tb => Sys2Proof.Machine.execLdo d inv ta tb s
  | .sto d ta tb => Sys2Proof.Machine.execSto d ta tb s
  | .amo d ta tb => Sys2Proof.Machine.execAmo d ta tb s
  | .rdx d ta tb => Sys2Proof.Machine.execRdx d ta tb s
  | .mwld ta tb => Sys2Proof.Machine.execMwld ta tb s
  | .mfeed ta tb => Sys2Proof.Machine.execMfeed ta tb s
  | .mdrain ta tb => Sys2Proof.Machine.execMdrain ta tb s
  | .mzero ta tb => Sys2Proof.Machine.execMzero ta tb s
  | .mwin => Sys2Proof.Machine.execMwin s
  | .mharrow d ta tb => Sys2Proof.Machine.execMharrow d ta tb s
  | .mtwid ta tb => Sys2Proof.Machine.execMtwid ta tb s
  | .harrowStageComplete => Sys2Proof.Machine.execHarrowStageComplete s
  | .twiddleFillDone => Sys2Proof.Machine.execTwiddleFillDone s
  | .memoryPortComplete => Sys2Proof.Machine.execMemoryPortComplete s
  | .steer => Sys2Proof.Machine.execSteer s
  | .merge => Sys2Proof.Machine.execMerge s
  | .select => Sys2Proof.Machine.execSelect s
  | .carry => Sys2Proof.Machine.execCarry s
  | .invar => Sys2Proof.Machine.execInvar s
  | .count => Sys2Proof.Machine.execCount s
  | .filter => Sys2Proof.Machine.execFilter s
  | .distrib => Sys2Proof.Machine.execDistrib s
  | .collect => Sys2Proof.Machine.execCollect s
  | .tap => Sys2Proof.Machine.execTap s
  | .sealOperator => Sys2Proof.Machine.execSealOperator s
  | .control => Sys2Proof.Machine.execControl s
  | .tokenTransfer => Sys2Proof.Machine.execTokenTransfer s
  | .messageInject => Sys2Proof.Machine.execMessageInject s
  | .stopEdgeRequest => Sys2Proof.Machine.execStopEdgeRequest s
  | .sectionCut => Sys2Proof.Machine.execSectionCut s
  | .sectionIdle => Sys2Proof.Machine.execSectionIdle s
  | .generatorElement => Sys2Proof.Machine.execGeneratorElement s
  | .coordinateToken => Sys2Proof.Machine.execCoordinateToken s
  | .writeStreamToken => Sys2Proof.Machine.execWriteStreamToken s
  | .writeStreamEnd => Sys2Proof.Machine.execWriteStreamEnd s
  | .gatherReply => Sys2Proof.Machine.execGatherReply s
  | .windowAccess => Sys2Proof.Machine.execWindowAccess s
  | .bankAccess => Sys2Proof.Machine.execBankAccess s
  | .correctionWriteback => Sys2Proof.Machine.execCorrectionWriteback s
  | .scrubRow => Sys2Proof.Machine.execScrubRow s
  | .scrubTakeover => Sys2Proof.Machine.execScrubTakeover s
  | .fifoPush => Sys2Proof.Machine.execFifoPush s
  | .fifoPop => Sys2Proof.Machine.execFifoPop s
  | .homePortAccess => Sys2Proof.Machine.execHomePortAccess s
  | .pageWalk => Sys2Proof.Machine.execPageWalk s
  | .lineEntryWriteback => Sys2Proof.Machine.execLineEntryWriteback s
  | .forwardedAccess => Sys2Proof.Machine.execForwardedAccess s
  | .heatWindowEnd => Sys2Proof.Machine.execHeatWindowEnd s
  | .tierMove => Sys2Proof.Machine.execTierMove s
  | .tierMoveCommit => Sys2Proof.Machine.execTierMoveCommit s
  | .pullRequest => Sys2Proof.Machine.execPullRequest s
  | .ownershipMoveComplete => Sys2Proof.Machine.execOwnershipMoveComplete s
  | .sharerRegister => Sys2Proof.Machine.execSharerRegister s
  | .sharerUpdate => Sys2Proof.Machine.execSharerUpdate s
  | .wake => Sys2Proof.Machine.execWake s
  | .retryRingMove => Sys2Proof.Machine.execRetryRingMove s
  | .afterIssueFault => Sys2Proof.Machine.execAfterIssueFault s
  | .numericWindowEnd => Sys2Proof.Machine.execNumericWindowEnd s
  | .engineInboxMessage => Sys2Proof.Machine.execEngineInboxMessage s
  | .acknowledgement => Sys2Proof.Machine.execAcknowledgement s
  | .injectionResend => Sys2Proof.Machine.execInjectionResend s
  | .copy => Sys2Proof.Machine.execCopy s
  | .fill => Sys2Proof.Machine.execFill s
  | .xpose => Sys2Proof.Machine.execXpose s
  | .gather => Sys2Proof.Machine.execGather s
  | .scatter => Sys2Proof.Machine.execScatter s
  | .csrb => Sys2Proof.Machine.execCsrb s
  | .prefetch => Sys2Proof.Machine.execPrefetch s
  | .migrate => Sys2Proof.Machine.execMigrate s
  | .chkpt => Sys2Proof.Machine.execChkpt s
  | .checkpointCut => Sys2Proof.Machine.execCheckpointCut s
  | .checkpointEnd => Sys2Proof.Machine.execCheckpointEnd s
  | .hash => Sys2Proof.Machine.execHash s
  | .reduce => Sys2Proof.Machine.execReduce s
  | .allred => Sys2Proof.Machine.execAllred s
  | .allgath => Sys2Proof.Machine.execAllgath s
  | .rscat => Sys2Proof.Machine.execRscat s
  | .bcast => Sys2Proof.Machine.execBcast s
  | .collectiveBegin => Sys2Proof.Machine.execCollectiveBegin s
  | .collectiveAbort => Sys2Proof.Machine.execCollectiveAbort s
  | .publishCommand => Sys2Proof.Machine.execPublishCommand s
  | .engineCommandDrained => Sys2Proof.Machine.execEngineCommandDrained s
  | .barrierArrival => Sys2Proof.Machine.execBarrierArrival s
  | .barrierDischarge => Sys2Proof.Machine.execBarrierDischarge s
  | .barrierComplete => Sys2Proof.Machine.execBarrierComplete s
  | .bwaitObserve => Sys2Proof.Machine.execBwaitObserve s
  | .podBarrierJoin => Sys2Proof.Machine.execPodBarrierJoin s
  | .podBarrierCompletion => Sys2Proof.Machine.execPodBarrierCompletion s
  | .barrierPrioUpdate => Sys2Proof.Machine.execBarrierPrioUpdate s
  | .podBarrierPoison => Sys2Proof.Machine.execPodBarrierPoison s
  | .inheritanceFloor => Sys2Proof.Machine.execInheritanceFloor s
  | .signal => Sys2Proof.Machine.execSignal s
  | .drillExamine => Sys2Proof.Machine.execDrillExamine s
  | .drillRetest => Sys2Proof.Machine.execDrillRetest s
  | .claimRequest => Sys2Proof.Machine.execClaimRequest s
  | .granaryLookup => Sys2Proof.Machine.execGranaryLookup s
  | .drillPop => Sys2Proof.Machine.execDrillPop s
  | .parkWake => Sys2Proof.Machine.execParkWake s
  | .taskRetire => Sys2Proof.Machine.execTaskRetire s
  | .preemptionRequest => Sys2Proof.Machine.execPreemptionRequest s
  | .preemptDrainExpiry => Sys2Proof.Machine.execPreemptDrainExpiry s
  | .launchDoor q v => Sys2Proof.Machine.execLaunchDoor q v s
  | .launchArrival => Sys2Proof.Machine.execLaunchArrival s
  | .launchWaitSatisfied => Sys2Proof.Machine.execLaunchWaitSatisfied s
  | .swathGrant => Sys2Proof.Machine.execSwathGrant s
  | .codeFill => Sys2Proof.Machine.execCodeFill s
  | .instanceEntry => Sys2Proof.Machine.execInstanceEntry s
  | .dieWithdraw => Sys2Proof.Machine.execDieWithdraw s
  | .dieAdd => Sys2Proof.Machine.execDieAdd s
  | .launchComplete => Sys2Proof.Machine.execLaunchComplete s
  | .tholdRetry ctx v => Sys2Proof.Machine.execTholdRetry ctx v s
  | .tholdPoison ctx v => Sys2Proof.Machine.execTholdPoison ctx v s
  | .thend tid v => Sys2Proof.Machine.execThend tid v s
  | .tevpWrite port ctx v => Sys2Proof.Machine.execTevpWrite port ctx v s
  | .tevbWrite port ctx v => Sys2Proof.Machine.execTevbWrite port ctx v s
  | .tserrRead port ctx => Sys2Proof.Machine.execTserrRead port ctx s
  | .rangeRegisterCommit port ctx im v => Sys2Proof.Machine.execRangeRegisterCommit port ctx im v s
  | .bufferMapCommit port ctx e v => Sys2Proof.Machine.execBufferMapCommit port ctx e v s
  | .watchpointCommit port ctx w v => Sys2Proof.Machine.execWatchpointCommit port ctx w v s
  | .tinv port v => Sys2Proof.Machine.execTinv port v s
  | .tinvComplete => Sys2Proof.Machine.execTinvComplete s
  | .fppush port pool v => Sys2Proof.Machine.execFppush port pool v s
  | .mtstatWrite port tid v => Sys2Proof.Machine.execMtstatWrite port tid v s
  | .grtabWrite port v => Sys2Proof.Machine.execGrtabWrite port v s
  | .rsvtWrite port kind off v => Sys2Proof.Machine.execRsvtWrite port kind off v s
  | .registerWrite port off v => Sys2Proof.Machine.execRegisterWrite port off v s
  | .contextCreate port ctx v => Sys2Proof.Machine.execContextCreate port ctx v s
  | .contextSave port v => Sys2Proof.Machine.execContextSave port v s
  | .contextSaved => Sys2Proof.Machine.execContextSaved s
  | .contextRestore port v => Sys2Proof.Machine.execContextRestore port v s
  | .contextRestored => Sys2Proof.Machine.execContextRestored s
  | .contextKill port v => Sys2Proof.Machine.execContextKill port v s
  | .contextRelease port v => Sys2Proof.Machine.execContextRelease port v s
  | .hostMemoryAccess port off len wr => Sys2Proof.Machine.execHostMemoryAccess port off len wr s
  | .semaphoreRead im a b => Sys2Proof.Machine.execSemaphoreRead im a b s
  | .semaphoreWrite port im v => Sys2Proof.Machine.execSemaphoreWrite port im v s
  | .hwstatRead port which => Sys2Proof.Machine.execHwstatRead port which s
  | .lqstatRead port q => Sys2Proof.Machine.execLqstatRead port q s
  | .keyLoad port v => Sys2Proof.Machine.execKeyLoad port v s
  | .keyClear port v => Sys2Proof.Machine.execKeyClear port v s
  | .attestationRequest port v => Sys2Proof.Machine.execAttestationRequest port v s
  | .attestationDone => Sys2Proof.Machine.execAttestationDone s
  | .haltResume port v => Sys2Proof.Machine.execHaltResume port v s
  | .moduleReset image blob => Sys2Proof.Machine.execModuleReset image blob s
  | .diePowerUp die ok => Sys2Proof.Machine.execDiePowerUp die ok s
  | .linkDown l => Sys2Proof.Machine.execLinkDown l s
  | .timeBeacon => Sys2Proof.Machine.execTimeBeacon s
  | .beaconArrival l t => Sys2Proof.Machine.execBeaconArrival l t s
  | .thermalLimit block => Sys2Proof.Machine.execThermalLimit block s
  | .thermalCritical die => Sys2Proof.Machine.execThermalCritical die s
  | .decodeFault w => Sys2Proof.Machine.execDecodeFault w s
  | .fetchFault c => Sys2Proof.Machine.execFetchFault c s
  | .sequencerAccessReply => Sys2Proof.Machine.execSequencerAccessReply s
  | .linkTrained l => Sys2Proof.Machine.execLinkTrained l s
  | .frameBoundary => Sys2Proof.Machine.execFrameBoundary s

end Sys2Proof.Machine
end

