-- ==== Sys2Proof/Machine/Schedule.lean ====
section
/-! DEFINITION. Whose turn is next, how time advances, how an instruction's word is fetched, and the state in which a given
word is the next one. The order among units is a choice that the spec leaves open (log 1). -/
namespace Sys2Proof.Machine

/-- One cycle of 5/12 ns passes; a beacon's correction is slewed in by at most 1 ns in 160 cycles (R2, R463; log 3). -/
def tick (s : State) : State :=
  let r := s.clk.rem + 5
  let adv := r / 12
  let due := (s.clk.cycle + 1) % 160 == 0
  let up := due && 0 < s.clk.slew
  let hold := due && s.clk.slew < 0 && adv == 1
  { s with clk := { s.clk with
    cycle := (s.clk.cycle + 1) % 2 ^ 64
    rem := r % 12
    dtime := (s.clk.dtime + (if up then adv + 1 else if hold then 0 else adv)) % 2 ^ 64
    slew := if up then s.clk.slew - 1 else if hold then s.clk.slew + 1 else s.clk.slew } }

/-- Fetch the word at a core's pc (R225, R254): canonical form, range map and PX, then memory, as an invariant read of the word;
none where the access waits. -/
def fetchWord (s : State) (t : Tid) (f : Firing) (pc : Word) : Option (Except Cause (BitVec 32)) × State :=
  let who := { coreWho t f (syncKey t) with binder := none }
  match translate s who pc .exec with
  | .error c => (some (.error c), s)
  | .ok r =>
    match iaAccess s who r.1 r.2 (.read 4) with
    | (.ok bs, s) =>
      match beganOf s f.task.launch with
      | none => (some (.ok (BitVec.ofNat 32 (ofBytes bs))), s)
      | some n => match invWord s n r.1 bs with
        | (bs, s) => (some (.ok (BitVec.ofNat 32 (ofBytes bs))), s)
    | (.fault c, s) => (some (.error c), s)
    | (.wait, s) => (none, s)

/-- The operation word of a slot. -/
def slotWord (s : State) (t : Tid) (n : Nat) : BitVec 32 := (s.fab.slots.getD (t * 64 + n) Slot.reset).word

/-- Events of a core's accesses, in stream order. -/
def accessTurns (t : Tid) (c : Core) : List Turn :=
  c.unfin.flatMap (fun a => match a.phase with
    | .performed _ | .forwarded _ => [.event .sequencerAccessReply [t, a.id]]
    | .atBank => [.event .bankAccess [t, a.id]]
    | .sent =>
      (if a.far.isEmpty then [] else [.event .sequencerAccessReply [t, a.id]])
        ++ (if inWindow a.ia then [.event .windowAccess [t, a.id]] else [.event .pageWalk [t, a.id], .event .homePortAccess [t, a.id]])
    | .faulted _ => (if a.far.isEmpty then [] else [.event .sequencerAccessReply [t, a.id]]) ++ [.event .afterIssueFault [t]])

/-- Turns of the sequencers: accesses first, then what a firing waits for, then one word of each firing. -/
def coreTurns (s : State) : List Turn :=
  List.flatten [s.cores.flatMap (fun e => accessTurns e.1 e.2),
    (s.cores.filter (fun e => e.2.run.isSome)).flatMap (fun e =>
      [.event .bwaitObserve [e.1], .event .preemptionRequest [e.1], .event .preemptDrainExpiry [e.1]]),
    (s.cores.filter (fun e => e.2.run.isSome && !e.2.halted)).map (fun e => .core e.1)]

/-- The numbers below n, greatest first: what an event removes does not shift those still to come. -/
def downFrom : Nat → List Nat
  | 0 => []
  | n + 1 => n :: downFrom n

/-- Turns of one slot: its port access, what its operation has under way, its word. -/
def slotTurns (k : Nat) (x : Slot) : List Turn :=
  let o := [k / 64, k % 64]
  List.flatten [(if x.ops.isEmpty then [] else [.event .memoryPortComplete o, .event .harrowStageComplete o]),
    (if x.sub = 0 then [] else [.event .twiddleFillDone o]),
    [.slot (k / 64) (k % 64)]]

/-- A slot is ready (R214): every position that its operation reads holds a token, P where it is bound, or a rewritten header is
due (R317); and its targets are free. -/
def slotReady (s : State) (t : Tid) (n : Nat) : Bool :=
  let x := getSlot s t n
  let free (f : Nat) : Bool := match targetOf f with | some g => targetFree s t n g | none => false
  match decodeElem x.word with
  | .error _ => false
  | .ok i => (x.hdrOut.isSome
      || ((!(readsOf i).1 || x.l.isSome) && (!(readsOf i).2 || x.r.isSome) && (!pBound s t n || x.p.isSome)))
      && free (x.word.toNat / 1024 % 1024) && free (x.word.toNat % 1024)

/-- Note the slot that an element fires: a ready one whose turn it is (R214). -/
def noteFired (s : State) (t : Tid) (n : Nat) : State :=
  if slotReady s t n then { s with fab := { s.fab with lastSlot := s.fab.lastSlot.set t n } } else s

/-- Slots in the order of R214: those of a tile from the one after its slot that fired last. -/
def slotsInOrder (s : State) : List (Nat × Slot) :=
  ((s.fab.slots.map (fun e => e.1 / 64)).eraseDups).flatMap (fun t =>
    let mine := s.fab.slots.filter (fun e => e.1 / 64 == t)
    let last := s.fab.lastSlot.getD t 63
    mine.filter (fun e => last < e.1 % 64) ++ mine.filter (fun e => e.1 % 64 ≤ last))

/-- The event of an operator unit's kind (R347). -/
def unitEvent (kind : Nat) : Option Instr :=
  match kind with
  | 1 => some .steer | 2 => some .merge | 3 => some .select | 4 => some .carry | 5 => some .invar | 6 => some .count
  | 7 => some .filter | 8 => some .distrib | 9 => some .collect | 10 => some .tap | 11 => some .sealOperator
  | 12 => some .control
  | _ => none

/-- Turns of the fabric: links, slots, operator units, generators, FIFO regions, held accesses, sections. -/
def fabricTurns (s : State) : List Turn :=
  List.flatten [s.fab.tileSec.flatMap (fun e => (List.range 8).map (fun p => .event .tokenTransfer [e.1, p])),
    (slotsInOrder s).flatMap (fun e => slotTurns e.1 e.2),
    s.fab.opunits.filterMap (fun e => (unitEvent (recKind e.2.recd)).map (fun i => .event i [e.1 / 4, e.1 % 4])),
    (s.fab.gens.filter (fun e => e.2.run.isSome)).flatMap (fun e =>
      let o := [e.1 / 4, e.1 % 4]
      [.event .gatherReply o, .event .coordinateToken o, .event .generatorElement o, .event .writeStreamToken o,
       .event .writeStreamEnd o]),
    s.tl.fifoReqs.flatMap (fun e => [.event .fifoPush [e.1 / 8, e.1 % 8], .event .fifoPop [e.1 / 8, e.1 % 8]]),
    s.xl.wakes.map (fun w => .event .wake [w.1, w.2.1, w.2.2]),
    (s.fab.slots.filter (fun e => e.2.held.isSome)).map (fun e => .event .retryRingMove [e.1 / 64, 0, e.1 % 64]),
    (s.fab.gens.filter (fun e => match e.2.run with | some r => r.held.isSome | none => false)).map
      (fun e => .event .retryRingMove [e.1 / 4, genKind (e.1 / 4), e.1 % 4]),
    s.fab.secs.flatMap (fun e => [.event .stopEdgeRequest [e.1], .event .sectionCut [e.1], .event .sectionIdle [e.1]])]

/-- Turns of the memory tiles and home ports. -/
def memoryTurns (s : State) : List Turn :=
  List.flatten [(if s.tl.corrections.isEmpty then [] else [.event .correctionWriteback []]),
    (s.tl.mtstat.filter (fun e => 4096 ≤ scrubAge s e.1)).flatMap (fun e => [.event .scrubTakeover [e.1], .event .scrubRow [e.1]]),
    s.xl.forwards.map (fun _ => .event .forwardedAccess []),
    s.st.lineQ.map (fun e => .event .lineEntryWriteback [e.1]),
    s.xl.moves.map (fun m => .event (if m.copied = 512 then .tierMoveCommit else .tierMove) [m.page]),
    s.xl.noms.map (fun n => .event .tierMove [n.page]),
    s.xl.pulls.map (fun p => .event .pullRequest [p.page, p.node]),
    (s.xl.dirs.filter (fun e => e.2.moving && e.2.pulling.isSome && e.2.owner == s.boot.node)).map
      (fun e => .event .ownershipMoveComplete [e.1, 0]),
    s.xl.tinvLeft.map (fun p => .event .tinvComplete [p]),
    ((List.range 64).filter (fun p => s.xl.heatWin.getD p 0 < s.clk.cycle / 2 ^ 20)).map (fun p => .event .heatWindowEnd [p])]

/-- The event of an engine command's opcode (R127). -/
def engEventOf (op : Nat) : Option Instr :=
  match op with
  | 1 => some .copy | 2 => some .fill | 3 => some .xpose | 4 => some .gather | 5 => some .scatter | 6 => some .csrb
  | 7 => some .prefetch | 8 => some .migrate | 9 => some .chkpt | 10 => some .hash | 11 => some .reduce | 12 => some .allred
  | 13 => some .allgath | 14 => some .rscat | 15 => some .bcast | 16 => some .publishCommand
  | _ => none

/-- Turns of one engine command. -/
def cmdTurns (q : Nat) (c : EngCmd) : List Turn :=
  let o := [q, c.uid]
  if c.stopped then [.event (if engOp c = 9 then .checkpointEnd else .engineCommandDrained) o]
  else List.flatten [if c.waits.isEmpty then [] else [.event .collectiveBegin o, .event .collectiveAbort o],
    match engEventOf (engOp c) with
    | some i => [.event i o]
    | none => []]

/-- Turns of the message plane and the engines. -/
def engineTurns (s : State) : List Turn :=
  List.flatten [s.host.commands.map (fun _ => .event .messageInject [0, 1]),
    s.fab.msgs.map (fun m =>
      if !m.injected then .event .messageInject [m.uid]
      else if m.resendAt.isSome then .event .injectionResend [m.uid] else .event .engineInboxMessage [0, m.uid]),
    (s.eng.arriving.filter (fun e => !e.2.isEmpty)).map (fun e => .event .engineInboxMessage [1, e.1]),
    s.fab.acks.map (fun a => .event .acknowledgement [a.uid]),
    s.eng.inbox.flatMap (fun e => e.2.flatMap (cmdTurns e.1)),
    (if ckptStops s then [.event .checkpointCut []] else [])]

/-- Pairs of a context and a quad whose floor is to be set anew (R398). -/
def floorTurns (s : State) : List Turn :=
  let pairs := s.bar.floors.map (fun e => (e.1 / 512, e.1 % 512)) ++
    (s.ln.live.flatMap (fun l => l.quads.map (fun q => (l.ctx, q)))).filter (fun p => s.bar.objs.any (fun b => b.2.ctx == p.1 && b.2.v))
  (pairs.filter (fun p => quadFloor s p.1 p.2 != s.bar.floors.getD (p.1 * 512 + p.2) 7)).map (fun p => .event .inheritanceFloor [p.1, p.2])

/-- Turns of the barrier network. -/
def barrierTurns (s : State) : List Turn :=
  List.flatten [s.bar.arrivals.map (fun _ => .event .barrierArrival [0]),
    s.bar.discharges.map (fun _ => .event .barrierDischarge [0]),
    (s.bar.objs.filter (fun e => e.2.v && e.2.arrived == e.2.expect && e.2.pending == 0)).map (fun e => .event .barrierComplete [e.1]),
    s.bar.joins.map (fun _ => .event .podBarrierJoin []),
    s.bar.completions.map (fun _ => .event .podBarrierCompletion []),
    s.bar.prios.map (fun _ => .event .barrierPrioUpdate []),
    s.bar.poisons.map (fun _ => .event .podBarrierPoison []),
    floorTurns s]

/-- Turns of one record in a drill queue. -/
def recordTurns (r : TaskRec) : List Turn :=
  if !r.examined then [.event .drillExamine [r.rid]]
  else if r.ready then []
  else if !r.tested then [.event .drillRetest [r.rid]]
  else [.event .claimRequest [r.rid], .event .granaryLookup [r.rid]]

/-- Turns of signals, records and retiring tasks. -/
def taskTurns (s : State) : List Turn :=
  List.flatten [(downFrom s.tk.signals.length).map (fun i => .event .signal [i]),
    s.tk.drill.flatMap recordTurns,
    s.tk.parked.map (fun r => .event .parkWake [r.rid]),
    (downFrom s.tk.retiring.length).map (fun i => .event .taskRetire [i]),
    (if s.tk.drill.isEmpty then [] else
      (((s.ln.live.flatMap (fun l => l.quads)).eraseDups.flatMap quadCores).filter (idleCore s)).map (fun t => .event .drillPop [t]))]

/-- Turns of one launch. -/
def launchTurns (l : Launch) : List Turn :=
  let o := [l.lid]
  if 2 ≤ l.status then [.event .launchComplete o]
  else match l.state with
    | .accepted => [.event .launchWaitSatisfied o]
    | .allocating => [.event .swathGrant o]
    | .running =>
      (l.dies.filter (fun d => !l.filled.contains d)).map (fun d => .event .codeFill [l.lid, d]) ++
      [.event .instanceEntry o, .event .dieWithdraw o, .event .dieAdd o, .event .launchComplete o]

/-- Turns of launches, contexts and the host's side. -/
def systemTurns (s : State) : List Turn :=
  List.flatten [(downFrom s.ln.door.length).map (fun i => .event .launchArrival [i]),
    s.ln.live.flatMap launchTurns,
    s.ctxs.flatMap (fun e => match e.2.state with
      | .active => [.event .numericWindowEnd [e.1]]
      | .saving => [.event .contextSaved [e.1]]
      | .restoring => [.event .contextRestored [e.1]]
      | _ => []),
    (if bitOf s.boot.keyld 63 then [.forfin] else []),
    (if bitOf s.boot.fmbcmd 63 then [.event .attestationDone []] else []),
    (if s.boot.blob && s.boot.node == s.boot.timeRoot then [.event .timeBeacon []] else []),
    s.ln.rsvtNew.map (fun e => .event .frameBoundary [e.1])]

/-! ### Arbitration of the round (R396 to R399) -/

/-- Place of a core's access at a resource (R396). -/
def accessRank (s : State) (kind : Nat) (t : Tid) : Nat × Nat :=
  match (getCore s t).run with
  | some f => (kind, grantRank s kind (launchRsv s f.task.launch) (firingClass s t f) false)
  | none => (kind, grantRank s kind 0 7 false)

/-- Place of an access of a tile's armed section: the resource is a tile's bank or a stream port (R396, R398). -/
def sectionRank (s : State) (kind : Nat) (t : Tid) (aged : Bool) : Nat × Nat :=
  match s.fab.tileSec.get? t with
  | some k => (kind, grantRank s kind (launchRsv s (getSec s k).launch) (sectionClass s k t) aged)
  | none => (kind, grantRank s kind 0 7 aged)

/-- The resource for which a turn is a request, and its place there (R396, R397); turns that ask for no shared resource have none. -/
def turnRank (s : State) : Turn → Option (Nat × Nat)
  | .event i o =>
    let t := nth 0 o 0
    (match i with
    | .bankAccess => some (accessRank s 0 t)
    | .windowAccess => some (accessRank s 1 t)
    | .homePortAccess => some (accessRank s (match (getCore s t).findAcc (nth 0 o 1) with
        | some a => if a.writes then 5 else 4
        | none => 4) t)
    | .pageWalk => some (accessRank s 13 t)
    | .memoryPortComplete => match (getSlot s t (nth 0 o 1)).ops.head? with
      | some p => some (sectionRank s (if inWindow p.ia then 0 else 4) t (waitedFrame s (if inWindow p.ia then 0 else 4) p.since))
      | none => none
    | .generatorElement | .writeStreamToken => some (sectionRank s (if genKind t = 1 then 4 else 0) t false)
    | .messageInject => (s.fab.msgs.find? (fun m => m.uid == t)).map (fun m =>
        (2, grantRank s 2 (bitsOf (nth 0 m.words 0) 46 39) (commandClass s m.words) false))
    | .engineInboxMessage => (s.fab.msgs.find? (fun m => m.uid == nth 0 o 1)).map (fun m =>
        (10, grantRank s 10 (bitsOf (nth 0 m.words 0) 46 39) (commandClass s m.words) false))
    | .granaryLookup => (findRec s t).map (fun r =>
        (12, grantRank s 12 (launchRsv s r.launch) (recClass s (drillQuad s r) r) false))
    | _ => none)
  | _ => none

/-- Insert a request behind those of no greater rank: the older of equals stays first. -/
def insertRank (x : Nat × Turn) : List (Nat × Turn) → List (Nat × Turn)
  | [] => [x]
  | y :: l => if x.1 < y.1 then x :: y :: l else y :: insertRank x l

/-- The requests for one resource, in the order of their ranks. -/
def requestsOf (s : State) (kind : Nat) (l : List Turn) : List Turn :=
  ((l.filterMap (fun x => match turnRank s x with
    | some (k, r) => if k = kind then some (r, x) else none
    | none => none)).foldl (fun acc x => insertRank x acc) []).map (·.2)

/-- Put the requests for a resource, reordered, into the places where its requests stand. -/
def refill (s : State) (kind : Nat) : List Turn → List Turn → List Turn
  | [], _ => []
  | x :: l, q =>
    match (turnRank s x).map (·.1) == some kind, q with
    | true, y :: q => y :: refill s kind l q
    | _, _ => x :: refill s kind l q

/-- Every resource grants its requests of a round in the order of R396 (log 28). -/
def arbitrate (s : State) (l : List Turn) : List Turn :=
  (List.range 15).foldl (fun l k => refill s k l (requestsOf s k l)) l

/-- The turns of one round, in the order they are taken where no rule orders them (log 1), and at each shared resource in the order
of R396. -/
def round (s : State) : List Turn :=
  arbitrate s (List.flatten [coreTurns s,
    fabricTurns s,
    memoryTurns s,
    engineTurns s,
    barrierTurns s,
    taskTurns s,
    systemTurns s])

/-! ### The state whose next instruction is a given word -/

/-- A token of zeros with every lane live. -/
def zeroToken : Token := ⟨.data, BitVec.allOnes 16, false, 0⟩

/-- A firing with no record in memory, on context 0 (log 9). -/
def bareFiring : Firing :=
  { task := TaskRec.make 0 none (List.replicate 8 0) [] 0 0 0, prio := 0, sent := 0, early := false, tiles := 0,
    started := 0, sat8 := false, ttrap := false, gens := [], secs := [], drainAt := none, drained := false }

/-- The cached leaf of IA page 1: near tier, frame 1, this node, key slot 0 (R39). -/
def placedPage (s : State) : TEntry :=
  ⟨1, 3, 0x102, BitVec.ofNat 64 (s.boot.node * 2 ^ 44), 0x20000, 0, 0, 0, false, 0, false⟩

/-- Context 0 active, with one 64 KiB range at VA 0x1_0000 that may be read, written and fetched from, and its page's
translation cached (log 9). -/
def placeContext (s : State) : State :=
  let c := getCtx s 0
  let s := setCtx s 0 { c with state := .active, ranges := (0x10001, 1, 0x1000E) :: c.ranges.drop 1 }
  { s with
    boot := { s.boot with keys := s.boot.keys.set 0 0 }
    xl := { s.xl with tcache := s.xl.tcache.set 1 (placedPage s) } }

/-- Place a sequencer word at the pc of a firing on tile(0,0), which moves next. -/
def placeSeq (s : State) (w : Nat) : State :=
  let s := placeContext s
  let c := getCore s 0
  let s := setCore s 0 { c with run := some bareFiring, pc := 0x10000, sys := false, halted := false, unfin := [], waiting := .none }
  { s with st := { s.st with mem := cellsSet s.st.mem 0x10000 (bytesOf 4 w) }, agenda := [.core 0] }

/-- Place an element word in slot 0 of tile(0,0), with a token of zeros in each latch, in an armed section; it moves next. -/
def placeElem (s : State) (w : Nat) : State :=
  let s := placeContext s
  { s with
    fab := { s.fab with
      slots := s.fab.slots.set 0 { Slot.reset with
        word := BitVec.ofNat 32 w, l := some zeroToken, r := some zeroToken, p := some zeroToken }
      secs := s.fab.secs.set 0 { Section.reset with state := .armed, tiles := [0], tcount := 1 }
      tileSec := s.fab.tileSec.set 0 0 }
    agenda := [.slot 0 0] }

end Sys2Proof.Machine
end

