-- ==== Sys2Proof/Machine/Turns.lean ====
section
/-! DEFINITION. The turns of a step: which unit moves, and what its turn does (R94, R214, R235, R254; log 1). -/
namespace Sys2Proof.Machine

/-- A core's turn: a fault found after issue stops it first; otherwise the word at pc is fetched, decoded and run (R235,
R254, R255). -/
def stepCore (s : State) (t : Tid) : Out :=
  let c := getCore s t
  let s := { s with focus := (t, 0) }
  match c.run with
  | none => .next s
  | some f =>
    if c.halted then .next s
    else if hasFaulted c && !midway c then exec .afterIssueFault { s with ops := [t] }
    else match c.replay with
    | a :: _ => match decodeSeq a.word with
      | .error _ => .next s
      | .ok i => exec i s
    | [] => match fetchWord s t f c.pc with
      | (none, s) => .next s
      | (some (.error e), s) => exec (.fetchFault e) s
      | (some (.ok w), s) =>
        match decodeSeq w with
        | .error _ => exec (.decodeFault w) s
        | .ok i => exec i s

/-- A slot's turn: its word runs, and a ready one is the slot that fired last (R214). -/
def stepSlot (s : State) (t : Tid) (n : Nat) : Out :=
  let s := { noteFired s t n with focus := (t, n) }
  match decodeElem (slotWord s t n) with
  | .error _ => .next s
  | .ok i => exec i s

/-- One turn. -/
def runTurn (s : State) : Turn → Out
  | .core t => stepCore s t
  | .slot t n => stepSlot s t n
  | .forfin => .next (keyldDone s)
  | .event i ops => exec i { s with ops := ops }

/-- Which of the next accesses that R96 does not keep whole are performed by bytes: free choices, for up to three bytes of a round
(log 149). -/
def pickTears (s : State) : State :=
  let n := Sys2Proof.Config.freeChoice s.free % 4
  { s with free := s.free + 4, xl := { s.xl with tear := (List.range n).map (fun i => Sys2Proof.Config.freeChoice (s.free + 1 + i)) } }

/-- Time advances; where a round is over the scheduler's choices for the next are made. -/
def roundTick (s : State) : State := if s.agenda.isEmpty then pickTears (tick s) else tick s

/-- The turns due: the agenda, or where it is empty the next round. -/
def turns (s : State) : List Turn := if s.agenda.isEmpty then round s else s.agenda

/-- One step: time advances, and the unit at the head of the agenda moves; an empty agenda is filled with the next round
first (log 1). -/
def stepTurn (s : State) : Out :=
  match turns (roundTick s) with
  | [] => .next (roundTick s)
  | x :: xs => runTurn { roundTick s with agenda := xs } x

end Sys2Proof.Machine
end

