-- ==== Sys2Proof/Machine/Step.lean ====
section
/-! DEFINITION. One step of the machine, and the placing of an opcode-table word where the next step runs it. -/
namespace Sys2Proof.Machine

/-- One step (log 1). -/
def step (s : State) : Host.Outcome State Fault Refusal := stepTurn s

/-- The state with a word of the opcode table stored where step takes its next instruction: a sequencer word at the pc of
a firing, an element word in a slot (log 9, log 10). -/
def State.withFetchWord (s : State) (nbits w : Nat) : State :=
  match Sys2Proof.decodeTableWord nbits w with
  | some i =>
    match i.wordKind with
    | .element => placeElem s w
    | _ => placeSeq s w
  | none => placeSeq s w

end Sys2Proof.Machine
end

