-- ==== Sys2Proof/Safety.lean ====
section
/-! DEFINITION. What counts as a safe run: every step answers a next state, and the byte storage keeps its canonical form. -/
namespace Sys2Proof.Machine

/-- The storage is in its canonical form (R3; log 5). -/
def State.stored (s : State) : Bool := Memory.wf s.st.mem && Memory.wf s.st.host

/-- Every step of a run of `n` steps answers a next state whose storage is canonical. -/
def safeRun : Nat → State → Bool
  | 0, s => s.stored
  | n + 1, s => s.stored && (match step s with
    | .next s' => safeRun n s'
    | .fault _ | .refused _ => false)

end Sys2Proof.Machine
end

