-- ==== Sys2Proof/Certificates/Slice0/Terms.lean ====
section
/-! DEFINITION. The terms of the statements: what it is for an instruction to answer a next state, the tables of R257, R259,
R260, R263, R267 and R270 in plain arithmetic, and what a step may leave alone. -/
namespace Sys2Proof.Claims
open Sys2Proof.Machine

/-- The instruction answers a next state, of which P holds. -/
def Answers (i : Instr) (s : State) (P : State → Prop) : Prop := ∃ s', exec i s = .next s' ∧ P s'

/-- Core t has the focus, holds the core state c, and runs the firing f: where a sequencer word is executed. -/
abbrev Runs (s : State) (t : Tid) (c : Core) (f : Firing) : Prop :=
  s.focus.1 = t ∧ getCore s t = c ∧ c.run = some f ∧ c.halted = false

/-- Nothing but the core of tile t differs: every register of every other core, every byte of memory, every flag, special
register, accumulator and exception register is as before. -/
def OnlyCore (s s' : State) (t : Tid) : Prop :=
  s' = { s with cores := s'.cores } ∧ ∀ u, u ≠ t → getCore s' u = getCore s u

/-- How many of the numbers 1 to 64 a test accepts. -/
def countTo64 (p : Nat → Bool) : Word := BitVec.ofNat 64 ((rangeFrom 1 64).filter p).length

/-- bits(a, n − 1, 0) read as a signed number. -/
def signedLow (a n : Nat) : Int := if a / 2 ^ (n - 1) % 2 = 1 then Int.ofNat (a % 2 ^ n) - 2 ^ n else Int.ofNat (a % 2 ^ n)

/-- 1 or 0. -/
def oneIf (p : Prop) [Decidable p] : Word := if p then 1 else 0

/-- The tables of R257 and R259: destination, the registers read beside it, and the value, from the registers' values r. -/
def computed (r : Reg → Word) : Instr → Option (Reg × List Reg × Word)
  | .add d a b => some (d, [a, b], BitVec.ofNat 64 ((r a).toNat + (r b).toNat))
  | .sub d a b => some (d, [a, b], BitVec.ofInt 64 (Int.ofNat (r a).toNat - Int.ofNat (r b).toNat))
  | .and d a b => some (d, [a, b], r a &&& r b)
  | .or d a b => some (d, [a, b], r a ||| r b)
  | .xor d a b => some (d, [a, b], r a ^^^ r b)
  | .andn d a b => some (d, [a, b], r a &&& ~~~(r b))
  | .shl d a b => some (d, [a, b], BitVec.ofNat 64 ((r a).toNat * 2 ^ ((r b).toNat % 64)))
  | .shr d a b => some (d, [a, b], BitVec.ofNat 64 ((r a).toNat / 2 ^ ((r b).toNat % 64)))
  | .sar d a b => some (d, [a, b], BitVec.ofInt 64 ((r a).toInt / 2 ^ ((r b).toNat % 64)))
  | .rot d a b => some (d, [a, b], BitVec.ofNat 64
      ((r a).toNat / 2 ^ ((r b).toNat % 64) + (r a).toNat * 2 ^ (64 - (r b).toNat % 64)))
  | .mul d a b => some (d, [a, b], BitVec.ofNat 64 ((r a).toNat * (r b).toNat))
  | .mulh d a b => some (d, [a, b], BitVec.ofInt 64 ((r a).toInt * (r b).toInt / 2 ^ 64))
  | .mulhu d a b => some (d, [a, b], BitVec.ofNat 64 ((r a).toNat * (r b).toNat / 2 ^ 64))
  | .div d a b => some (d, [a, b],
      if r b = 0 then BitVec.ofNat 64 (2 ^ 64 - 1) else BitVec.ofInt 64 (Int.tdiv (r a).toInt (r b).toInt))
  | .divu d a b => some (d, [a, b],
      if r b = 0 then BitVec.ofNat 64 (2 ^ 64 - 1) else BitVec.ofNat 64 ((r a).toNat / (r b).toNat))
  | .rem d a b => some (d, [a, b],
      if r b = 0 then r a else BitVec.ofInt 64 ((r a).toInt - (r b).toInt * Int.tdiv (r a).toInt (r b).toInt))
  | .remu d a b => some (d, [a, b], if r b = 0 then r a else BitVec.ofNat 64 ((r a).toNat % (r b).toNat))
  | .min d a b => some (d, [a, b], if (r a).toInt ≤ (r b).toInt then r a else r b)
  | .max d a b => some (d, [a, b], if (r a).toInt ≤ (r b).toInt then r b else r a)
  | .minu d a b => some (d, [a, b], if (r a).toNat ≤ (r b).toNat then r a else r b)
  | .maxu d a b => some (d, [a, b], if (r a).toNat ≤ (r b).toNat then r b else r a)
  | .clz d a => some (d, [a], countTo64 (fun i => (r a).toNat < 2 ^ (64 - i)))
  | .ctz d a => some (d, [a], countTo64 (fun i => (r a).toNat % 2 ^ i == 0))
  | .cnt d a => some (d, [a], countTo64 (fun i => (r a).toNat / 2 ^ (i - 1) % 2 == 1))
  | .sext d a b => some (d, [a, b], BitVec.ofInt 64 (signedLow (r a).toNat ((r b).toNat % 64 + 1)))
  | .zext d a b => some (d, [a, b], BitVec.ofNat 64 ((r a).toNat % 2 ^ ((r b).toNat % 64 + 1)))
  | .seq d a b => some (d, [a, b], oneIf (r a = r b))
  | .slt d a b => some (d, [a, b], oneIf ((r a).toInt < (r b).toInt))
  | .sltu d a b => some (d, [a, b], oneIf ((r a).toNat < (r b).toNat))
  | .sel d a b => some (d, [d, a, b], if r d ≠ 0 then r a else r b)
  | .cmov d a b => some (d, [d, a, b], if r b ≠ 0 then r a else r d)
  | .addi d a i => some (d, [a], BitVec.ofInt 64 (Int.ofNat (r a).toNat + i.toInt))
  | .andi d a i => some (d, [a], r a &&& BitVec.ofNat 64 i.toNat)
  | .ori d a i => some (d, [a], r a ||| BitVec.ofNat 64 i.toNat)
  | .xori d a i => some (d, [a], r a ^^^ BitVec.ofNat 64 i.toNat)
  | .shli d a i => some (d, [a], BitVec.ofNat 64 ((r a).toNat * 2 ^ i.toNat))
  | .shri d a i => some (d, [a], BitVec.ofNat 64 ((r a).toNat / 2 ^ i.toNat))
  | .sari d a i => some (d, [a], BitVec.ofInt 64 ((r a).toInt / 2 ^ i.toNat))
  | .ldi d i => some (d, [], BitVec.ofInt 64 i.toInt)
  | .ldsh d a i => some (d, [a], BitVec.ofNat 64 ((r a).toNat * 2 ^ 16) ||| BitVec.ofNat 64 i.toNat)
  | .slti d a i => some (d, [a], oneIf ((r a).toInt < i.toInt))
  | .sltui d a i => some (d, [a], oneIf ((r a).toNat < (BitVec.ofInt 64 i.toInt).toNat))
  | .muli d a i => some (d, [a], BitVec.ofInt 64 (Int.ofNat (r a).toNat * i.toInt))
  | _ => none

/-- The conditional branches of R260: the two registers compared, the word offset, and whether the branch is taken. -/
def branching (r : Reg → Word) : Instr → Option (List Reg × BitVec 16 × Bool)
  | .beq a b o => some ([a, b], o, decide (r a = r b))
  | .bne a b o => some ([a, b], o, decide (r a ≠ r b))
  | .blt a b o => some ([a, b], o, decide ((r a).toInt < (r b).toInt))
  | .bge a b o => some ([a, b], o, decide ((r b).toInt ≤ (r a).toInt))
  | .bltu a b o => some ([a, b], o, decide ((r a).toNat < (r b).toNat))
  | .bgeu a b o => some ([a, b], o, decide ((r b).toNat ≤ (r a).toNat))
  | _ => none

/-- pc + 4 · offset, modulo 2^64 (R260, R261). -/
def wordsFrom (pc : Word) (o : Int) : Word := BitVec.ofInt 64 (Int.ofNat pc.toNat + 4 * o)

/-- What a memory form of the core stream asks for (R263, R267, R270, R284): its kind, size, destination, VA, data and
comparand, its orders, whether it needs natural alignment, whether it is one that a pure firing may not run, and the
registers it reads or will write. -/
structure MemForm where
  kind : AccKind
  size : Nat
  gd : Reg
  va : Word
  data : Word
  cmp : Word
  acq : Bool
  rel : Bool
  aligned : Bool
  impure : Bool
  regs : List Reg

/-- VA of an M-format form: ga + sext(offset, 13), modulo 2^64 (R263). -/
def addrM (a : Word) (o : BitVec 13) : Word := BitVec.ofInt 64 (Int.ofNat a.toNat + o.toInt)

/-- An atomic of a function code (R267). -/
def atomicForm (r : Reg → Word) (fn n : Nat) (a b d : Reg) : Option MemForm :=
  some ⟨.atomic fn, n, d, r a, r b, r d, false, false, true, true, [a, b, d]⟩

/-- A merged reduction of a function code (R270). -/
def reduceForm (r : Reg → Word) (fn n : Nat) (a b : Reg) : Option MemForm :=
  some ⟨.red fn, n, 0, r a, r b, 0, false, false, true, true, [a, b]⟩

/-- The memory forms, from the registers' values r (R263, R264, R267, R270). -/
def memForm (r : Reg → Word) : Instr → Option MemForm
  | .ld d a z o => some ⟨.load z.isSigned false, z.bytes, d, addrM (r a) o, 0, 0, false, false, false, false, [d, a]⟩
  | .st d a z o => some ⟨.store, z.bytes, 0, addrM (r a) o, r d, 0, false, false, false, false, [d, a]⟩
  | .ldAcq d a z o => some ⟨.load z.isSigned false, z.bytes, d, addrM (r a) o, 0, 0, true, false, true, false, [d, a]⟩
  | .stRel d a z o => some ⟨.store, z.bytes, 0, addrM (r a) o, r d, 0, false, true, true, false, [d, a]⟩
  | .ldInv d a z o => some ⟨.load z.isSigned true, z.bytes, d, addrM (r a) o, 0, 0, false, false, false, false, [d, a]⟩
  | .atomAdd a b d z => atomicForm r 0 z.bytes a b d
  | .atomAnd a b d z => atomicForm r 1 z.bytes a b d
  | .atomOr a b d z => atomicForm r 2 z.bytes a b d
  | .atomXor a b d z => atomicForm r 3 z.bytes a b d
  | .atomMin a b d z => atomicForm r 4 z.bytes a b d
  | .atomMax a b d z => atomicForm r 5 z.bytes a b d
  | .atomMinu a b d z => atomicForm r 6 z.bytes a b d
  | .atomMaxu a b d z => atomicForm r 7 z.bytes a b d
  | .atomSwap a b d z => atomicForm r 8 z.bytes a b d
  | .atomCas a b d z => atomicForm r 9 z.bytes a b d
  | .atomFadd32 a b d => atomicForm r 10 4 a b d
  | .atomFadd16 a b d => atomicForm r 11 2 a b d
  | .redAdd a b z => reduceForm r 0 z.bytes a b
  | .redAnd a b z => reduceForm r 1 z.bytes a b
  | .redOr a b z => reduceForm r 2 z.bytes a b
  | .redXor a b z => reduceForm r 3 z.bytes a b
  | .redMin a b z => reduceForm r 4 z.bytes a b
  | .redMax a b z => reduceForm r 5 z.bytes a b
  | .redMinu a b z => reduceForm r 6 z.bytes a b
  | .redMaxu a b z => reduceForm r 7 z.bytes a b
  | .redFadd32 a b => reduceForm r 8 4 a b
  | .redFadd16 a b => reduceForm r 9 2 a b
  | .redFmax32 a b => reduceForm r 10 4 a b
  | .redFmin32 a b => reduceForm r 11 4 a b
  | .jcnt a b d => some ⟨.jcnt, 8, d, r a + 32, r b, 0, false, false, false, true, [a, b, d]⟩
  | _ => none

/-- The firing may run a form that R419 bars from a pure task. -/
def mayImpure (c : Core) (f : Firing) : Bool := !crPure f.task.hdr || c.sys

/-- The access writes. -/
def MemForm.writes (x : MemForm) : Bool :=
  match x.kind with
  | .load _ _ => false
  | _ => true

/-- The range, permission and alignment checks that a memory form passes at issue (R255, R263, R264, R267). -/
def MemForm.Checked (x : MemForm) (s : State) (t : Tid) (f : Firing) : Prop :=
  (∃ p, checkIssue s (coreWho t f (syncKey t)) x.va x.size x.kind.perm = .ok p) ∧ (x.aligned = true → x.va.toNat % x.size = 0)

/-- The purity checks that a memory form passes; s1 is the state once a pure firing's tile list is read (R419). -/
def MemForm.Allowed (x : MemForm) (s : State) (t : Tid) (c : Core) (f : Firing) (s1 : State) : Prop :=
  (x.kind = .jcnt → x.va.toNat % 64 = 32) ∧ (x.impure = true → mayImpure c f = true) ∧
  pureAllows s c f (coreWho t f (syncKey t)) x.va x.size x.writes = (.ok true, s1)

/-- The instruction takes a precise trap with a TVAL that R409 leaves open (log 12): no other effect of its own. -/
def TrapsOpen (i : Instr) (s : State) (t : Tid) (cause : Cause) : Prop :=
  ∃ tval, exec i s = .next (takeTrap { s with free := s.free + 1 } t cause true (getCore s t).pc tval 0)

/-- The instruction takes PURITY precisely, from the state s1 where the firing's tile list has been read: NOINS is set for the firing's
life, and there is no other effect (R419). -/
def TrapsPurity (i : Instr) (s s1 : State) (t : Tid) (c : Core) (f : Firing) : Prop :=
  ∃ tval, exec i s = .next (takeTrap { setCore s1 t { c with run := some { f with task := { f.task with noins := true } } } with
    free := s1.free + 1 } t Cause.purity true c.pc tval 0)

/-- The forms that R419 bars from a pure firing, with the registers that each reads or will write. -/
def barred : Instr → Option (List Reg)
  | .spawn a => some [a]
  | .amsg a d => some [a, d]
  | .amsgw a => some [a]
  | .publish _ _ | .disarm _ | .smark _ => some []
  | .ginv a b | .binit a b | .barr a b | .bchgSetExpect a b | .bchgRelease a b | .cfge a b | .cfgs a b | .cfgo a b | .cfgk a b
  | .arm a b _ | .tapset a b _ => some [a, b]
  | .strm a _ | .sstop a _ | .seal a _ => some [a]
  | i => match memForm (fun _ => 0) i with
    | some x => if x.impure then some x.regs else none
    | none => none

/-- The context has been killed with a cause (R432). -/
def Killed (s : State) (ctx : Nat) (cause : Cause) : Prop := (getCtx s ctx).state = .killed ∧ (getCtx s ctx).cause = cause

/-- How the next part of an access is performed, from the state s1 with the bytes that it supplied: handed to another module
where an answer is due from it; with its last part the access is performed, or at pkg scope while owners have to answer; a
store is then seen by the watchpoints, and an atomic's or reduction's events are charged (R45, R95, R107, R268, R420). -/
def PartDone (s1 : State) (t : Tid) (f : Firing) (a : Access) (bs : List Byte) (s' : State) : Prop :=
  let i := nth 0 a.left 0
  let far := a.writes && (findOut s1 (coreKey t a.id) a.ia).isSome
  let r := chooseNext (if far then s1 else chargeAcc s1 t f a bs) (a.left.drop 1)
  let b := { a with left := r.1, got := a.got.set i bs, far := if far then a.far ++ [i] else a.far }
  let e := { b with phase := if r.1.isEmpty then (if b.far.isEmpty then .performed b.value else .forwarded b.value) else .sent }
  let s2 := if r.1.isEmpty then watchStore r.2 t f e else r.2
  OnlyCore s2 s' t ∧ getCore s' t = (getCore s2 t).putAcc e

/-- Bytes of the frame that a cause of a core's firing stores (R409): accesses of a replay queue that it holds are none that a precise
trap leaves (R410). -/
def frameOf (s : State) (c : Core) (f : Firing) (cause : Cause) (precise : Bool) (pc tval tinfo : Word) : List Byte :=
  frameBytes f.task.noins (precise && c.replay.isEmpty) cause pc tval tinfo (f.task.crva.getD 0) f.sent f.task.sigs s.clk.dtime
    (deliverAll c c.unfin).regs (cancelled c.unfin ++ c.replay)

/-- What a load's or atomic's gd takes of the bytes supplied (R263, R267): sign or zero extension of the low 8 · n bits. -/
def extended (a : Access) (v : Nat) : Word :=
  match a.kind with
  | .load true _ => BitVec.ofInt 64 (signedLow v (8 * a.size))
  | _ => BitVec.ofNat 64 v

/-! ### Elements -/

/-- The slot in focus is x, in a section that runs; nothing is held or owed, and both targets have room (R211, R214). -/
def SlotAt (s : State) (e : Env) (x : Slot) (ta tb : Target) : Prop :=
  envOf s s.focus.1 s.focus.2 = some e ∧ getSlot s e.t e.n = x ∧ x.held = none ∧ e.atStop x.edge = false ∧ x.hdrOut = none ∧
  bothFree s e.t e.n ta tb = true

/-- The slot in focus is x, in a section that runs; nothing is held (R211, R214). -/
def SlotIn (s : State) (e : Env) (x : Slot) : Prop :=
  envOf s s.focus.1 s.focus.2 = some e ∧ getSlot s e.t e.n = x ∧ x.held = none ∧ e.atStop x.edge = false

/-- The header in latch L or R is the next thing that the slot takes: L's before R's (R215, R316). -/
def HeaderIn (x : Slot) (q : Pos) (tok : Token) : Prop :=
  tok.kind = .header ∧ ((q = .l ∧ x.l = some tok) ∨ (q = .r ∧ x.r = some tok ∧ ∀ l, x.l = some l → l.kind ≠ .header))

/-- The latch P gates nothing: it is empty and has no producer (R313). -/
def Ungated (s : State) (e : Env) (x : Slot) : Prop := x.p = none ∧ pBound s e.t e.n = false

/-- Latch L holds data whose sheaf is a good one. -/
def DataL (x : Slot) (l : Token) : Prop := x.l = some l ∧ l.kind = .data ∧ latchPoison x.hl x.l = false

/-- Latch R holds data whose sheaf is a good one. -/
def DataR (x : Slot) (r : Token) : Prop := x.r = some r ∧ r.kind = .data ∧ latchPoison x.hr x.r = false

/-- A firing: the latches read are consumed, a token goes to each target where there is one, and the events are charged. -/
def Fires (i : Instr) (s : State) (e : Env) (x : Slot) (ta tb : Target) (a b : Option Token) (evs : List Nat) : Prop :=
  exec i s = .next (countEvents (emit s e (x.consume i) ta tb a b) e.ctx e.t evs)

/-- A data token whose position p of width w is v p: masked positions hold zero, live ones lie in live lanes (R314). -/
def Positions (tok : Token) (w : Nat) (pred : Bool) (v : Nat → Option Nat) : Prop :=
  tok.kind = .data ∧ tok.pred = pred ∧ ∀ p, p < 512 / w →
    posBits tok.data w p = (v p).getD 0 ∧ ((v p).isSome = true → laneLive tok.mask w p = true) ∧
    (w = 32 → laneLive tok.mask w p = (v p).isSome)

/-- Combine two positions where both are live (R314). -/
def both (f : Nat → Nat → Nat) : Option Nat → Option Nat → Option Nat
  | some a, some b => some (f a b)
  | _, _ => none

/-- Width and signedness of an integer modifier (R319). -/
def modOf : IMod → Nat × Bool
  | .s32 => (32, true)
  | .z32 => (32, false)
  | .s16 => (16, true)
  | .z16 => (16, false)
  | .s8 => (8, true)
  | .z8 => (8, false)

/-- A pattern as the modifier reads it. -/
def readAs (w : Nat) (sg : Bool) (a : Nat) : Int := if sg then signedLow a w else Int.ofNat a

/-- An integer modulo 2^w. -/
def wrapTo (w : Nat) (z : Int) : Nat := (z % 2 ^ w).toNat

/-- An integer clamped to a type's range (R171). -/
def clampTo (w : Nat) (sg : Bool) (z : Int) : Int :=
  if sg then max (-(2 ^ (w - 1))) (min (2 ^ (w - 1) - 1) z) else max 0 (min (2 ^ w - 1) z)

/-- The two-operand rows of R319's table: modifier, targets, and a position's result from width, signedness and operands. -/
def intPair : Instr → Option (IMod × Target × Target × (Nat → Bool → Nat → Nat → Nat))
  | .iadd m ta tb => some (m, ta, tb, fun w _ a b => (a + b) % 2 ^ w)
  | .isub m ta tb => some (m, ta, tb, fun w _ a b => (a + 2 ^ w - b) % 2 ^ w)
  | .iadds m ta tb => some (m, ta, tb, fun w sg a b => wrapTo w (clampTo w sg (readAs w sg a + readAs w sg b)))
  | .isubs m ta tb => some (m, ta, tb, fun w sg a b => wrapTo w (clampTo w sg (readAs w sg a - readAs w sg b)))
  | .imul m ta tb => some (m, ta, tb, fun w _ a b => a * b % 2 ^ w)
  | .imulh m ta tb => some (m, ta, tb, fun w sg a b => wrapTo w (readAs w sg a * readAs w sg b / 2 ^ w))
  | .imin m ta tb => some (m, ta, tb, fun w sg a b => if readAs w sg a ≤ readAs w sg b then a else b)
  | .imax m ta tb => some (m, ta, tb, fun w sg a b => if readAs w sg a ≤ readAs w sg b then b else a)
  | .iand m ta tb => some (m, ta, tb, fun _ _ a b => a &&& b)
  | .ior m ta tb => some (m, ta, tb, fun _ _ a b => a ||| b)
  | .ixor m ta tb => some (m, ta, tb, fun _ _ a b => a ^^^ b)
  | .iandn m ta tb => some (m, ta, tb, fun _ _ a b => a - (a &&& b))
  | .ishl m ta tb => some (m, ta, tb, fun w _ a b => a * 2 ^ (b % w) % 2 ^ w)
  | .ishr m ta tb => some (m, ta, tb, fun w _ a b => a / 2 ^ (b % w))
  | .isar m ta tb => some (m, ta, tb, fun w _ a b => wrapTo w (signedLow a w / 2 ^ (b % w)))
  | _ => none

/-- The one-operand rows of R319's table. -/
def intOne : Instr → Option (IMod × Target × Target × (Nat → Bool → Nat → Nat))
  | .iabs m ta tb => some (m, ta, tb, fun w sg a => wrapTo w (Int.ofNat (readAs w sg a).natAbs))
  | .ineg m ta tb => some (m, ta, tb, fun w _ a => (2 ^ w - a) % 2 ^ w)
  | _ => none

/-- The latches that an operation reads hold one kind of marker. -/
def MarksIn (i : Instr) (x : Slot) (k : TokKind) : Prop :=
  k.isMark = true ∧ (∃ l, x.l = some l ∧ l.kind = k) ∧ ((readsOf i).2 = true → ∃ r, x.r = some r ∧ r.kind = k)

/-- What RUN sends after a data firing (R337): nothing without it; with it the accumulator as y holds it, live where it has received a
contribution, or poison where it is poisoned. -/
def SendsAcc (x y : Slot) (w : Nat) (pred : Bool) (a : Option Token) : Prop :=
  (accRun x = false → a = none) ∧ (accRun x = true → x.accPoison = true → a = some (bare .poison)) ∧
  (accRun x = true → x.accPoison = false → ∃ tok, a = some tok ∧
    Positions tok w pred (fun p => if y.accLive.getLsbD p then some (posBits y.acc w p) else none))

/-- The conditions of R320's table. -/
def condition (c : Nat) (a b : Int) : Bool :=
  match c with
  | 0 => decide (a = b)
  | 1 => decide (a ≠ b)
  | 2 => decide (a < b)
  | 3 => decide (a ≤ b)
  | 4 => decide (a > b)
  | _ => decide (a ≥ b)

/-- The two-operand float forms that round once (R322, R323): modifier, targets, and the exact step with its events. -/
def fltPair : Instr → Option (FMod × Target × Target × (Val → Val → Val × List Nat))
  | .fadd m ta tb => some (m, ta, tb, addV)
  | .fsub m ta tb => some (m, ta, tb, fun a b => addV a b.negate)
  | .fmul m ta tb => some (m, ta, tb, mulV)
  | .fmin m ta tb => some (m, ta, tb, fmaxV false)
  | .fmax m ta tb => some (m, ta, tb, fmaxV true)
  | .fresc m ta tb => some (m, ta, tb, frescV)
  | _ => none

/-- The one-operand float forms (R185 to R188, R322); FSQRT's binary32 step is rounded before the lane format's. -/
def fltOne : Instr → Option (FMod × Target × Target × (Val → Val × List Nat))
  | .fabs m ta tb => some (m, ta, tb, fun a => (a.abs, []))
  | .fneg m ta tb => some (m, ta, tb, fun a => (a.negate, []))
  | .frcp m ta tb => some (m, ta, tb, frcpV)
  | .frsq m ta tb => some (m, ta, tb, frsqV)
  | .fsqrt m ta tb => some (m, ta, tb, fun a =>
      ((roundNear fmt32 (fsqrtV a).1).1, (fsqrtV a).2 ++ (roundNear fmt32 (fsqrtV a).1).2))
  | .fexp2 m ta tb => some (m, ta, tb, fexp2V)
  | .flog2 m ta tb => some (m, ta, tb, flog2V)
  | _ => none

/-- The operations of R319 and R322 with two operands: targets and type. -/
def HeaderOp (i : Instr) (ta tb : Target) (y : ETy) : Prop :=
  (∃ m fn, intPair i = some (m, ta, tb, fn) ∧ y = imodTy m) ∨ (∃ m fn, fltPair i = some (m, ta, tb, fn) ∧ y = fmodTy m)

/-- The accumulating forms, with their targets and the width of a position (R337). -/
def accOp : Instr → Option (Target × Target × Nat)
  | .fmac m ta tb => some (ta, tb, (fmodTy m).width)
  | .acc m ta tb => some (ta, tb, (lmodTy m).width)
  | _ => none

/-- The positions of WINNOW's token on L that are live and not zero, in order (R334). -/
def winnowed (y : ETy) (x : Slot) (l : Token) : List Nat :=
  (nonZero y x.hl l).zipIdx.filterMap (fun q => if q.1 then some q.2 else none)

/-- What LCMPR packs: L's positions, as they are carried on, whose partner in R is live and not zero (R334). -/
def packed (y : ETy) (e : Env) (x : Slot) (l r : Token) : List (Option Nat) :=
  ((carried y e.sat8 x.hl l).1.zip (nonZero y x.hr r)).filterMap (fun p => if p.2 && p.1.isSome then some p.1 else none)

/-- A displacement in a port operation's constant, sign-extended; AMO and RDX have none (R341, R344). -/
def portDisp (k : PortKind) (x : Slot) : Word :=
  match k with
  | .amo | .rdx => 0
  | _ => x.const.signExtend 64

/-! ### Fragments, operators, streams -/

/-- A matrix slot with data on L: the fragment is free for it and the tile count not reached (R216, R360). -/
def MatrixAt (s : State) (e : Env) (x : Slot) (ta tb : Target) (l : Token) : Prop :=
  SlotAt s e x ta tb ∧ Ungated s e x ∧ DataL x l ∧ fragFree s e = true ∧ x.tiles < e.tcount

/-- A token on L that makes a matrix slot fire: data whose sheaf is a good one, a permit or a done token (R364, R365, R369). -/
def Trigger (x : Slot) (l : Token) : Prop :=
  x.l = some l ∧ (l.kind = .data ∨ l.kind = .permit ∨ l.kind = .done) ∧ latchPoison x.hl x.l = false

/-- The operator unit that the event concerns: x, of a kind, in a section that runs, not at its stop edge (R211, R221, R347). -/
def UnitAt (s : State) (kind : Nat) (e : Env) (x : OpUnit) : Prop :=
  envOf s (s.op 0) (s.op 1) = some e ∧ getUnit s e.t e.n = x ∧ recKind x.recd = kind ∧ e.atStop x.edge = false

/-- A token that an operator moves as it is: neither a marker nor a header. -/
def Plain (tok : Token) : Prop := tok.kind.isMark = false ∧ tok.kind ≠ .header

/-- The head of an input of a unit. -/
def Head (s : State) (e : Env) (inp : Nat) (tok : Token) : Prop := headOf s e e.n inp = some tok

/-- The stream that the event concerns runs, holds nothing and has nothing to send; no SBAR holds it (R101, R415). -/
def StreamAt (s : State) (e : GEnv) (r : Stream) : Prop :=
  (getGen s (s.op 0) (s.op 1)).run = some r ∧ gEnv s (s.op 0) (s.op 1) r = some e ∧ r.held = none ∧ e.atStop = false ∧
    streamHeld s r = false ∧ r.outQ = []

/-- The engine command that the event concerns: running, not stopped, of an opcode; no line of it waits to be written (R130). -/
def CmdAt (s : State) (op : Nat) (c : EngCmd) : Prop :=
  findCmd s (s.op 0) (s.op 1) = some c ∧ engOp c = op ∧ c.stopped = false ∧ c.state ≠ .queued ∧ c.hold = []

/-- The record in the drill queues that the event concerns, of an active context. -/
def RecAt (s : State) (r : TaskRec) : Prop := findRec s (s.op 0) = some r ∧ ctxRuns s r.ctx = true

/-- The launch that the event concerns. -/
def LaunchAt (s : State) (l : Launch) : Prop := findLaunch s (s.op 0) = some l

end Sys2Proof.Claims
end

