-- ==== Sys2Proof/Certificates/Slice0/Obligations.lean ====
section
/-! DEFINITION. The statements for the provers: what each instruction does where its conditions hold, what a trap saves and
where it goes, what reset leaves, and how words decode. -/
open Sys2Proof Sys2Proof.Machine Sys2Proof.Claims

/-! ### The sequencer: registers, computation, control -/

/-- R226: g0 reads zero, a write to it is discarded, and a write to another register changes that one alone. -/
def Obligations.RegisterZero : Prop :=
  ∀ (c : Core) (r q : Reg) (v : Word), c.regs.length = 32 →
    c.gpr 0 = 0 ∧ c.setGpr 0 v = c ∧ (c.setGpr r v).gpr q = if q = r ∧ r ≠ 0 then v else c.gpr q

/-- The tables of R257, R258 and R259: each computation and immediate form writes its destination the value of the table,
goes on at the next word, and changes nothing else; g0 as destination discards the value. -/
def Obligations.ComputationForms : Prop :=
  ∀ (i : Instr) (s : State) (t : Tid) (c : Core) (f : Firing) (d : Reg) (rs : List Reg) (v : Word),
    Runs s t c f → computed c.gpr i = some (d, rs, v) → c.ready (d :: rs) = true →
    Answers i s (fun s' => OnlyCore s s' t ∧ getCore s' t = { c.setGpr d v with pc := c.pc + 4 })

/-- R260: the words of the six conditional branches; each goes to pc + 4 · sext(offset, 16) where it is taken and to pc + 4
otherwise; nothing else changes. -/
def Obligations.BranchForms : Prop :=
  (∀ (i : Instr) (m : Nat) (a b : Reg) (o : BitVec 16),
    (i, m) ∈ [(.beq a b o, 0x10), (.bne a b o, 0x11), (.blt a b o, 0x12), (.bge a b o, 0x13), (.bltu a b o, 0x14), (.bgeu a b o, 0x15)] →
    (encode i).toNat = m * 2 ^ 26 + a.val * 2 ^ 21 + b.val * 2 ^ 16 + o.toNat ∧ decodeSeq (encode i) = .ok i) ∧
  ∀ (i : Instr) (s : State) (t : Tid) (c : Core) (f : Firing) (rs : List Reg) (o : BitVec 16) (taken : Bool),
    Runs s t c f → branching c.gpr i = some (rs, o, taken) → c.ready rs = true →
    Answers i s (fun s' => OnlyCore s s' t ∧
      getCore s' t = { c with pc := if taken then wordsFrom c.pc o.toInt else c.pc + 4 })

/-- R261: JMP, JAL (which writes g31) and JR (to an aligned target); JR to a target that is no multiple of 4 takes PCALIGN
precisely. -/
def Obligations.JumpForms : Prop :=
  ∀ (s : State) (t : Tid) (c : Core) (f : Firing) (a : Reg) (o : BitVec 26) (p : BitVec 16), Runs s t c f →
    Answers (.jmp o) s (fun s' => OnlyCore s s' t ∧ getCore s' t = { c with pc := wordsFrom c.pc o.toInt }) ∧
    (c.ready [31] = true → Answers (.jal o) s (fun s' => OnlyCore s s' t ∧
      getCore s' t = { c.setGpr 31 (c.pc + 4) with pc := wordsFrom c.pc o.toInt })) ∧
    (c.ready [a] = true → (wordsFrom (c.gpr a) p.toInt).toNat % 4 = 0 →
      Answers (.jr a p) s (fun s' => OnlyCore s s' t ∧ getCore s' t = { c with pc := wordsFrom (c.gpr a) p.toInt })) ∧
    (c.ready [a] = true → (wordsFrom (c.gpr a) p.toInt).toNat % 4 ≠ 0 → TrapsOpen (.jr a p) s t Cause.pcalign)

/-! ### The sequencer: memory -/

/-- R253, R263, R264, R267, R270, R284, R419: a load, store, atomic, reduction or JCNT whose checks pass, with a place among the
16, is issued: the access joins the core stream with its captured VA, data and comparand and all its parts to come, the core
goes on, and no byte of memory and no other core changes (s1 is s but for the reading of a pure firing's tile list). ST.REL
waits for the earlier accesses at pod scope first. An invariant flag counts where the range has PI (R32). The model's reading:
issue checks in the order of logs 32 and 120. -/
def Obligations.MemoryForms : Prop :=
  ∀ (i : Instr) (s s1 : State) (t : Tid) (c : Core) (f : Firing) (x : MemForm),
    Runs s t c f → memForm c.gpr i = some x → c.ready x.regs = true → x.Checked s t f → x.Allowed s t c f s1 →
    c.unfin.length < 16 → (x.rel = true → c.allPod = true) →
    Answers i s (fun s' => s'.st = s1.st ∧ s'.tl = s1.tl ∧ (∀ u, u ≠ t → getCore s' u = getCore s1 u) ∧
      ∃ parts left, (∀ j, j ∈ left ↔ j < parts.length) ∧ (x.va.toNat % x.size = 0 → parts.length = 1) ∧
        getCore s' t = { c with
          pc := c.pc + 4, nextId := c.nextId + 1
          unfin := c.unfin ++ [⟨c.nextId, encode i, x.kind.inRange s1 (coreWho t f (syncKey t)) x.va, x.size, x.gd, x.va, x.data,
            x.cmp, x.acq, parts, .sent, left, [], []⟩] })

/-- R28, R29, R32, R253, R255, R264, R267, R270, R419: where a memory form does not issue. A 17th access waits: nothing changes. One whose
address is not canonical takes NONCANON, before any other check; one that no range register matches, NOMAP; one that its
range does not permit, the cause of the check; LD.ACQ, ST.REL, an atomic or a reduction that is not naturally aligned, ALIGN:
all precisely, with the VA as TVAL, and nothing is sent; in a pure firing a load or store that its tile list does not declare
and every barred form take PURITY. The model's reading: the order of the checks is read as in log 120. -/
def Obligations.MemoryFormsStop : Prop :=
  (∀ (i : Instr) (s : State) (t : Tid) (c : Core) (f : Firing) (x : MemForm),
    Runs s t c f → memForm c.gpr i = some x → c.ready x.regs = true →
    (x.Checked s t f → (x.impure = true → mayImpure c f = true) → (x.kind = .jcnt → x.va.toNat % 64 = 32) → 16 ≤ c.unfin.length →
      exec i s = .next s) ∧
    ((x.impure = true → mayImpure c f = true) → (x.kind = .jcnt → x.va.toNat % 64 = 32) →
      (canonical x.va = false → exec i s = .next (takeTrap s t Cause.noncanon true c.pc x.va 0)) ∧
      (∀ e, checkIssue s (coreWho t f (syncKey t)) x.va x.size x.kind.perm = .error e →
        (e = Cause.window → x.aligned = true → x.va.toNat % x.size = 0) →
        exec i s = .next (takeTrap s t e true c.pc x.va 0)) ∧
      (∀ p, x.aligned = true → checkIssue s (coreWho t f (syncKey t)) x.va x.size x.kind.perm = .ok p → x.va.toNat % x.size ≠ 0 →
        exec i s = .next (takeTrap s t Cause.align true c.pc x.va 0))) ∧
    (∀ s1, x.impure = false → x.Checked s t f → c.unfin.length < 16 → (x.rel = true → c.allPod = true) →
      pureAllows s c f (coreWho t f (syncKey t)) x.va x.size x.writes = (.ok false, s1) → getCore s1 t = c →
      TrapsPurity i s s1 t c f)) ∧
  (∀ (i : Instr) (s : State) (t : Tid) (c : Core) (f : Firing) (rs : List Reg),
    Runs s t c f → barred i = some rs → c.ready rs = true → c.waiting = .none → mayImpure c f = false →
    TrapsPurity i s s t c f) ∧
  (∀ (s : State) (who : Who) (va : Word) (k : AKind),
    (canonical va = decide (bitsOf va 63 57 = if bitOf va 56 then 127 else 0)) ∧
    (canonical va = false → translate s who va k = .error Cause.noncanon) ∧
    (canonical va = true → findRange (getCtx s who.ctx) va = none → translate s who va k = .error Cause.nomap) ∧
    (∀ r, canonical va = true → findRange (getCtx s who.ctx) va = some r → permitted r k = false →
      translate s who va k = .error Cause.perm))

/-- R35, R36, R40, R45, R62, R95, R253, R263, R264, R267: the way of an access. A window access reaches its tile; the bank or the
home port performs its next part, with the bytes performAcc supplies; a walk caches the leaf or ends the access in its cause;
an owner's answer completes a part that another module performs, or ends it in a cause; the reply of an access all of whose
parts are performed writes gd what the bytes extend to and frees its place. The model's reading: the order of the parts is a
free choice (log 23), and which unit moves is the agenda's choice (log 1). -/
def Obligations.AccessEvents : Prop :=
  (∀ (s : State) (t id : Nat) (c : Core) (f : Firing) (a : Access),
    s.op 0 = t → s.op 1 = id → getCore s t = c → c.run = some f → c.findAcc id = some a →
    (a.phase = .sent → inWindow a.ia = true → nowPerforms s t c f a = true →
      Answers .windowAccess s (fun s' => OnlyCore s s' t ∧ getCore s' t = c.setPhase id .atBank)) ∧
    (∀ bs s1, a.phase = .atBank → nowPerforms s t c f a = true → fifoWordOf s f.task.ctx a = none →
      performAcc s t f a = (.ok bs, s1) → Answers .bankAccess s (PartDone s1 t f a bs)) ∧
    (∀ bs s1, a.phase = .sent → inWindow a.ia = false → nowPerforms s t c f a = true → uncached s a = false →
      performAcc s t f a = (.ok bs, s1) → Answers .homePortAccess s (PartDone s1 t f a bs)) ∧
    (∀ e s1, a.phase = .sent → uncached s a = true → lookupPage s a.ia a.part.2.2 = (.ok e, s1) → exec .pageWalk s = .next s1) ∧
    (∀ e s1, a.phase = .sent → uncached s a = true → lookupPage s a.ia a.part.2.2 = (.error e, s1) →
      Answers .pageWalk s (fun s' => OnlyCore s1 s' t ∧ getCore s' t = c.setPhase id (.faulted e))) ∧
    (∀ v i uid old, a.phase = .forwarded v → a.far = [i] → farAnswer s t a a.far = some (i, uid, 0, old) →
      Answers .sequencerAccessReply s (fun s' => OnlyCore (chargeAcc (dropOut s uid) t f a old) s' t ∧
        getCore s' t = c.putAcc { a with far := [], phase := .performed v })) ∧
    (∀ v i uid e old, a.phase = .forwarded v → farAnswer s t a a.far = some (i, uid, e, old) → e ≠ 0 →
      Answers .sequencerAccessReply s (fun s' => OnlyCore (dropOut s uid) s' t ∧
        getCore s' t = c.putAcc { a with far := a.far.filter (· != i), phase := .faulted e, left := i :: a.left })) ∧
    (∀ v, a.phase = .performed v → v < 2 ^ (8 * a.size) → 0 < a.size → a.size ≤ 8 →
      Answers .sequencerAccessReply s (fun s' => OnlyCore s s' t ∧
        getCore s' t = (let c' := { c with unfin := c.unfin.filter (fun y => y.id != id) }
          if a.kind.writesGd then c'.setGpr a.gd (extended a v) else c')))) ∧
  (∀ (a : Access) (bs : List Byte), a.parts.length = 1 → a.kind ≠ .jcnt → ({ a with got := a.got.set 0 bs } : Access).value = ofBytes bs)

/-- R102, R272: FENCE of lane scope goes on at once; of core to pkg scope once every earlier access of the core stream is
performed at pkg scope, of pod scope at pod scope; until then it waits. R101, R273: SBAR goes on once every access that the
streams of its mask have issued is performed, and takes SBARMASK on a reserved bit. The model's reading: SBARMASK's TVAL is a
free value (log 12). -/
def Obligations.FenceForms : Prop :=
  ∀ (s : State) (t : Tid) (c : Core) (f : Firing) (z : Scope) (a : Reg), Runs s t c f →
    ((z = .lane ∨ (z = .pod ∧ c.allPod = true) ∨ (z ≠ .lane ∧ z ≠ .pod ∧ c.allPkg = true)) →
      Answers (.fence z) s (fun s' => OnlyCore s s' t ∧ getCore s' t = c.advance)) ∧
    ((z = .pod ∧ c.allPod = false) ∨ (z ≠ .lane ∧ z ≠ .pod ∧ c.allPkg = false) → Answers (.fence z) s (fun s' => s' = s)) ∧
    (c.ready [a] = true → (c.gpr a).toNat < 64 → sbarDone s t c f (c.gpr a) = true →
      Answers (.sbar a) s (fun s' => OnlyCore s s' t ∧ getCore s' t = { c.advance with held := 0, waiting := .none })) ∧
    (c.ready [a] = true → 64 ≤ (c.gpr a).toNat → TrapsOpen (.sbar a) s t Cause.sbarmask)

/-! ### Exceptions -/

/-- R407, R408, R411, R412: a cause of a firing in user state, with a handler, ends in the stored frame and system state: the pc is
TVEC, g1 the frame's VA, g2 the cause, g3 to g31 as the firing left them, and the accesses not performed are out of the core stream.
Without a handler the firing ends as faulted. A frame that cannot be stored, and any cause in system state, kill the context with
DBLFAULT. An access that another module is performing finishes first, and so does a form whose effect has left the core: until then
nothing is done. The model's reading: which forms those are (log 100). -/
def Obligations.TrapEntry : Prop :=
  (∀ (s s1 : State) (t : Tid) (f : Firing) (cause : Cause) (precise : Bool) (pc tval tinfo : Word) (bs : List Byte),
    (getCore s t).run = some f → (getCore s t).sys = false → awaitsOwner s t (getCore s t) = false →
    midway (getCore s t) = false → (getCore s t).regs.length = 32 →
    (getCtx s f.task.ctx).tvec ≠ 0 → (getCtx s f.task.ctx).tfbase ≠ 0 →
    writeVA (noteCause s f.task.launch cause) { coreWho t f (syncKey t) with force := true }
      ((getCtx s f.task.ctx).tfbase + BitVec.ofNat 64 (1024 * (32 * tileY t + tileX t / 2)))
      (frameOf s (getCore s t) f cause precise pc tval tinfo) = (.ok bs, s1) →
    ∃ c', getCore (takeTrap s t cause precise pc tval tinfo) t = c' ∧ c'.sys = true ∧
      c'.pc = (getCtx s f.task.ctx).tvec ∧ c'.run = (getCore s t).run ∧ c'.unfin = [] ∧ c'.replay = [] ∧
      c'.gpr 1 = (getCtx s f.task.ctx).tfbase + BitVec.ofNat 64 (1024 * (32 * tileY t + tileX t / 2)) ∧
      c'.gpr 2 = cause.setWidth 64 ∧
      ∀ r : Reg, 3 ≤ r.val → c'.gpr r = (deliverAll (getCore s t) (getCore s t).unfin).gpr r) ∧
  (∀ (s : State) (t : Tid) (f : Firing) (cause : Cause) (precise : Bool) (pc tval tinfo : Word),
    (getCore s t).run = some f → (getCore s t).sys = false →
    awaitsOwner s t (getCore s t) = false → midway (getCore s t) = false → ((getCtx s f.task.ctx).tvec = 0 ∨ (getCtx s f.task.ctx).tfbase = 0) →
    (getCore (takeTrap s t cause precise pc tval tinfo) t).run = none) ∧
  (∀ (s : State) (t : Tid) (f : Firing) (cause : Cause) (precise : Bool) (pc tval tinfo : Word),
    (getCore s t).run = some f → (getCore s t).sys = false →
    (awaitsOwner s t (getCore s t) = true ∨ midway (getCore s t) = true) →
    takeTrap s t cause precise pc tval tinfo = s) ∧
  (∀ (s : State) (t : Tid) (f : Firing) (cause : Cause) (precise : Bool) (pc tval tinfo : Word),
    (getCore s t).run = some f → (getCore s t).sys = true →
    Killed (takeTrap s t cause precise pc tval tinfo) f.task.ctx Cause.dblfault) ∧
  (∀ (s s1 : State) (t : Tid) (f : Firing) (cause e : Cause) (precise : Bool) (pc tval tinfo : Word),
    (getCore s t).run = some f → (getCore s t).sys = false → awaitsOwner s t (getCore s t) = false →
    midway (getCore s t) = false → (getCtx s f.task.ctx).tvec ≠ 0 → (getCtx s f.task.ctx).tfbase ≠ 0 →
    writeVA (noteCause s f.task.launch cause) { coreWho t f (syncKey t) with force := true }
      ((getCtx s f.task.ctx).tfbase + BitVec.ofNat 64 (1024 * (32 * tileY t + tileX t / 2)))
      (frameOf s (getCore s t) f cause precise pc tval tinfo) = (.fault e, s1) →
    Killed (takeTrap s t cause precise pc tval tinfo) f.task.ctx Cause.dblfault)

/-- R409: the first eight words of the stored frame, and its length. -/
def Obligations.TrapFrameWords : Prop :=
  ∀ (noins precise : Bool) (cause : Cause) (pc tval tinfo crva sent : Word) (sigs : List Word) (dtime : Nat)
    (regs : List Word) (replay : List Access),
    sigs.length ≤ 16 → replay.length ≤ 16 → regs.length = 32 → dtime < 2 ^ 64 →
    (frameBytes noins precise cause pc tval tinfo crva sent sigs dtime regs replay).length = 1024 ∧
    (wordsOf 8 (frameBytes noins precise cause pc tval tinfo crva sent sigs dtime regs replay)) =
      [BitVec.ofNat 64 (2 ^ 63 + (if noins then 2 ^ 62 else 0) + (if precise then 2 ^ 61 else 0) + replay.length * 2 ^ 16
        + cause.toNat), pc, tval, tinfo, crva, sent, BitVec.ofNat 64 sigs.length, BitVec.ofNat 64 dtime]

/-- R235, R254, R255, R409: the sequencer's own faults. A fault found after issue traps with the next word not yet issued as
PC; a word that fails R235's checks traps precisely with the word as TVAL; a word that cannot be fetched, with its VA. The
model's reading: after-issue causes of forms that read memory are read as in log 14. -/
def Obligations.SequencerFaults : Prop :=
  (∀ (s : State) (t : Tid) (c : Core) (f : Firing) (a : Access) (l : List Access) (e : Cause),
    s.op 0 = t → getCore s t = c → c.run = some f → c.unfin = a :: l → a.phase = .faulted e →
    exec .afterIssueFault s = .next (takeTrap s t e false c.pc a.va (if inWindow a.ia then 0 else BitVec.ofNat 64 a.ia))) ∧
  (∀ (s : State) (t : Tid) (c : Core) (f : Firing) (w : BitVec 32) (e : Cause), Runs s t c f → decodeSeq w = .error e →
    exec (.decodeFault w) s = .next (takeTrap s t e true c.pc (w.setWidth 64) 0)) ∧
  (∀ (s : State) (t : Tid) (c : Core) (f : Firing) (e : Cause), Runs s t c f →
    exec (.fetchFault e) s = .next (takeTrap s t e true c.pc c.pc 0))

/-- R303 to R306, R410: TRAP takes cause 0x3C0 + n with TVAL n and the next word as PC; NOP, TIME and EVRD; in system state
HALT stops the core and tells the host, WPT sets a pair, and RETT reads the frame back, clears its V, and goes on in user state
from the frame's registers and PC with the replay entries reissued, those behind a form when it has ended; without a valid frame RETT
is a soft refusal: TSERR is set and the handler goes on (R412). The model's reading: the forms in a replay queue (log 14), the purity
of what is issued again (log 143), the next word as PC of TRAP's frame
(log 15) and cause 0 of HALT's host event (log 16). -/
def Obligations.SystemForms : Prop :=
  ∀ (s : State) (t : Tid) (c : Core) (f : Firing), Runs s t c f →
    (∀ n : BitVec 6, exec (.trap n) s =
      .next (takeTrap s t (BitVec.ofNat 10 (0x3C0 + n.toNat)) true (c.pc + 4) (n.setWidth 64) 0)) ∧
    Answers .nop s (fun s' => OnlyCore s s' t ∧ getCore s' t = c.advance) ∧
    (∀ d : Reg, c.ready [d] = true → Answers (.time d) s (fun s' => OnlyCore s s' t ∧
      getCore s' t = (c.setGpr d (BitVec.ofNat 64 s.clk.dtime)).advance)) ∧
    (∀ (d : Reg) (k : BitVec 3) (clear : Bool), c.ready [d] = true → (getCtx (windowsTo s f.task.ctx) f.task.ctx).necnt.length = 8 →
      Answers (.evrd d clear k) s (fun s' =>
        getCore s' t = (c.setGpr d (nth 0 (getCtx (windowsTo s f.task.ctx) f.task.ctx).necnt k.toNat)).advance ∧
        s'.st = (windowsTo s f.task.ctx).st ∧ (clear = true → bitsOf (nth 0 (getCtx s' f.task.ctx).necnt k.toNat) 63 32 = 0))) ∧
    (c.sys = true → Answers .halt s (fun s' => getCore s' t = { c with halted := true } ∧ s'.st.mem = s.st.mem ∧
      s'.host.seq = s.host.seq + 1)) ∧
    (∀ (a b : Reg) (w : BitVec 6), c.sys = true → c.ready [a, b] = true → w.toNat < 8 →
      wptBad (c.gpr a) (c.gpr b) = false → (getCtx s f.task.ctx).wpts.length = 8 →
      Answers (.wpt a b w) s (fun s' => getCore s' t = c.advance ∧ s'.st = s.st ∧
        nth (0, 0) (getCtx s' f.task.ctx).wpts w.toNat = (c.gpr a, c.gpr b))) ∧
    (∀ (bs cs : List Byte) (rep : List Access) (s1 s2 s3 : State), c.sys = true → c.unfin = [] → c.frame ≠ 0 →
      readVA s { coreWho t f (syncKey t) with force := true } c.frame 1024 = (.ok bs, s1) → bitOf (nth 0 (wordsOf 128 bs) 0) 63 = true →
      pureReplay s1 c f (coreWho t f (syncKey t)) (replayList s1 t f ((wordsOf 128 bs).drop 40)
        (min 16 (bitsOf (nth 0 (wordsOf 128 bs) 0) 20 16)) c.nextId) = (.ok rep, s2) →
      writeVA s2 { coreWho t f (syncKey t) with force := true } c.frame (bytesOf 8 ((nth 0 (wordsOf 128 bs) 0).toNat % 2 ^ 63)) = (.ok cs, s3) →
      Answers .rett s (fun s' => OnlyCore s3 s' t ∧ (getCore s' t).sys = false ∧ (getCore s' t).pc = nth 0 (wordsOf 128 bs) 1 ∧
        (getCore s' t).regs = 0 :: ((wordsOf 128 bs).drop 9).take 31 ∧
        (rep.any Access.impure = false → (getCore s' t).run = (getCore s3 t).run) ∧
        (getCore s' t).unfin = (splitForm rep).1 ∧ (getCore s' t).replay = (splitForm rep).2)) ∧
    (c.sys = true → c.unfin = [] → c.frame = 0 →
      Answers .rett s (fun s' => getCore s' t = c.advance ∧ s'.st = s.st ∧
        (getCtx s' f.task.ctx).tserr = BitVec.ofNat 64 (2 ^ 63 + Cause.trapcfg.toNat))) ∧
    (∀ (bs : List Byte) (s1 : State), c.sys = true → c.unfin = [] → c.frame ≠ 0 →
      readVA s { coreWho t f (syncKey t) with force := true } c.frame 1024 = (.ok bs, s1) →
      bitOf (nth 0 (wordsOf 128 bs) 0) 63 = false → getCore s1 t = c →
      Answers .rett s (fun s' => getCore s' t = c.advance ∧ s'.st = s1.st ∧
        (getCtx s' f.task.ctx).tserr = BitVec.ofNat 64 (2 ^ 63 + Cause.trapcfg.toNat)))

/-- R276: RETT, HALT, WPT and RFILL in user state take PRIV precisely, with no effect of their own. -/
def Obligations.PrivilegedForms : Prop :=
  ∀ (s : State) (t : Tid) (c : Core) (f : Firing), Runs s t c f → c.sys = false →
    TrapsOpen .rett s t Cause.priv ∧ TrapsOpen .halt s t Cause.priv ∧
    (∀ (a b : Reg) (w : BitVec 6), c.ready [a, b] = true → TrapsOpen (.wpt a b w) s t Cause.priv) ∧
    (∀ (a b : Reg), c.ready [a, b] = true → TrapsOpen (.rfill a b) s t Cause.priv)

/-! ### Tasks -/

/-- R278, R202, R279, R282, R283: SPAWN fills word 5 and counts the record, and enqueues it where its JOIN is 0; SIG adds to the
held set; SIGE sends a signal and marks the firing; PRIO sets the class, raised to the launch's; TDECL replaces the tile list
and settles the claims. The model's reading: the launch of a signalled record (log 21) and a free TVAL of the operand causes
(log 46). -/
def Obligations.TaskForms : Prop :=
  ∀ (s : State) (t : Tid) (c : Core) (f : Firing), Runs s t c f →
    (∀ (a : Reg) (w45 old : List Byte) (s0 s1 : State), mayImpure c f = true → c.ready [a] = true → (c.opA a).toNat % 64 = 0 →
      c.allPkg = true → readVA s (coreWho t f (syncKey t)) (c.opA a + 32) 16 = (.ok w45, s0) →
      rmwVA s0 (coreWho t f (syncKey t)) (c.opA a + 40) 8 true [34, f.task.launch, f.task.ctx]
        (fun o => bytesOf 8 (placeWord (ofBytes o) f.task.launch f.task.ctx)) = (.ok old, s1) →
      (ofBytes (w45.take 8) % 2 ^ 24 ≠ 0 → exec (.spawn a) s = .next (setCore (updLaunch s1 f.task.launch (fun l =>
        { l with live := l.live + 1 })) t (getCore s1 t).finish)) ∧
      (∀ s3, ofBytes (w45.take 8) % 2 ^ 24 = 0 → enqueueDue (setCore (updLaunch s1 f.task.launch (fun l =>
          { l with live := l.live + 1 })) t (getCore s1 t).finish) (c.opA a) f.task.ctx
          (BitVec.ofNat 64 (placeWord (ofBytes (w45.drop 8)) f.task.launch f.task.ctx)) = some s3 →
        exec (.spawn a) s = .next s3)) ∧
    (∀ a : Reg, c.ready [a] = true → (c.gpr a).toNat % 64 = 0 → f.task.sigs.length < 16 →
      Answers (.sig a) s (fun s' => OnlyCore s s' t ∧ getCore s' t = { c with
        pc := c.pc + 4, run := some { f with task := { f.task with sigs := f.task.sigs ++ [c.gpr a] } } })) ∧
    (∀ a : Reg, c.ready [a] = true → (c.gpr a).toNat % 64 = 0 → 16 ≤ f.task.sigs.length →
      TrapsOpen (.sig a) s t Cause.sigfull) ∧
    (∀ a : Reg, c.ready [a] = true → (c.gpr a).toNat % 64 = 0 → c.allPkg = true →
      Answers (.sigeAddress a) s (fun s' => s'.st = s.st ∧ s'.tl = s.tl ∧
        s'.tk.signals = s.tk.signals ++ [⟨c.gpr a, f.task.ctx, f.task.launch, t, f.task.rid⟩] ∧
        getCore s' t = { c with pc := c.pc + 4, run := some { f with
          early := true, task := { f.task with sigs := dropFirst (c.gpr a) f.task.sigs } } })) ∧
    (∀ (j : BitVec 6) (l : List Word) (s1 : State), c.allPkg = true →
      succList s (coreWho t f (syncKey t)) f.task.hdr = (.ok l, s1) → getCore s1 t = c →
      j.toNat < l.length → bitOf f.sent j.toNat = false →
      Answers (.sigeEntry j) s (fun s' => s'.st = s1.st ∧
        s'.tk.signals = s1.tk.signals ++ [⟨entryCR (nth 0 l j.toNat), f.task.ctx, f.task.launch, t, f.task.rid⟩] ∧
        getCore s' t = { c with run := some { f with
          early := true, sent := withBits f.sent j.toNat j.toNat 1 } }.finish)) ∧
    (∀ (k : BitVec 6) (l : Launch), findLaunch s f.task.launch = some l →
      Answers (.prio k) s (fun s' => OnlyCore s s' t ∧ getCore s' t = { c with
        pc := c.pc + 4, run := some { f with prio := max k.toNat l.cls } })) ∧
    (∀ a : Reg, c.ready [a] = true → crPure f.task.hdr = false → canonical (c.gpr a) = true → (c.gpr a).toNat % 16 = 0 →
      c.allPkg = true → getCore (settleClaims s f.task.ctx true f.task.claims) t = c →
      Answers (.tdecl a) s (fun s' => OnlyCore (settleClaims s f.task.ctx true f.task.claims) s' t ∧
        getCore s' t = { c with pc := c.pc + 4, run := some { f with
          tiles := c.gpr a, task := { f.task with claims := [] } } })) ∧
    (∀ a : Reg, c.ready [a] = true → crPure f.task.hdr = true → TrapsOpen (.tdecl a) s t Cause.tdeclbad)

/-- R112, R205, R206, R280, R281: PARK and YIELD end the firing with a record in the park store, whose CODE is the next word and
whose registers are those that the mask names; with the store full PARK waits in place until its condition holds. A malformed barrier identifier is BARSCOPE before any other check,
a mask with a reserved bit PARKARG. EXIT ends the firing, and its retirement begins. The model's reading: logs 42, 43 and 45, and a free TVAL of PARKARG and BARSCOPE (log
12). -/
def Obligations.ParkForms : Prop :=
  ∀ (s : State) (t : Tid) (c : Core) (f : Firing), Runs s t c f →
    (∀ (a b : Reg) (k : BitVec 6), c.ready [a, b] = true → zeroBits (c.gpr a) 63 16 = true → (k = 2 ∨ k = 3) → c.gpr b = 0 →
      c.unfin = [] → (∀ x y z, c.waiting ≠ .park x y z) →
      (s.tk.parked.filter (fun p => p.quad == quadOf t)).length < 1024 →
      Answers (.park a b k) s (fun s' => (getCore s' t).run = none ∧ s'.st = s.st ∧
        ∃ r : TaskRec, s'.tk.parked = s.tk.parked ++ [r] ∧ nth 0 r.hdr 0 = BitVec.ofNat 64 (bitsOf (c.pc + 4) 56 0) ∧
          r.quad = quadOf t ∧ bitsOf (nth 0 r.hdr 6) 63 60 = k.toNat ∧ r.regs = liveRegs c (bitsOf (c.gpr a) 15 0))) ∧
    (∀ (a b : Reg) (k : BitVec 6) (x y z : Nat), c.ready [a, b] = true → zeroBits (c.gpr a) 63 16 = true → (k = 2 ∨ k = 3) →
      c.gpr b = 0 → c.waiting = .park x y z →
      parkHolds s f.task.ctx f.task.engcmds k.toNat (bitsOf (c.gpr b) 47 32) (bitsOf (c.gpr b) 31 0) = true →
      Answers (.park a b k) s (fun s' => OnlyCore s s' t ∧ getCore s' t = { c with pc := c.pc + 4, waiting := .none })) ∧
    (∀ a : Reg, c.ready [a] = true → zeroBits (c.gpr a) 63 16 = true → c.unfin = [] → (∀ x y z, c.waiting ≠ .park x y z) →
      (s.tk.parked.filter (fun p => p.quad == quadOf t)).length < 1024 →
      Answers (.yield a) s (fun s' => (getCore s' t).run = none ∧ s'.st = s.st ∧
        ∃ r : TaskRec, s'.tk.parked = s.tk.parked ++ [r] ∧ nth 0 r.hdr 0 = BitVec.ofNat 64 (bitsOf (c.pc + 4) 56 0) ∧
          bitsOf (nth 0 r.hdr 6) 63 60 = 0)) ∧
    (∀ a b : Reg, c.ready [a, b] = true →
      (∀ k : BitVec 6, zeroBits (c.gpr a) 63 16 = false → (k = 1 → barMalformed (bitsOf (c.gpr b) 31 0) = false) →
        TrapsOpen (.park a b k) s t Cause.parkarg) ∧
      (barMalformed (bitsOf (c.gpr b) 31 0) = true → TrapsOpen (.park a b 1) s t Cause.barscope)) ∧
    (c.unfin = [] → (List.range 4).all (fun d => !portBusy s t d) = true →
      Answers .exit s (fun s' => (getCore s' t).run = none ∧ s'.st = s.st ∧
        ∃ r : Retiring, s'.tk.retiring = s.tk.retiring ++ [r] ∧ r.task.rid = f.task.rid ∧ r.sent = f.sent))

/-! ### Fabric, barriers, messages -/

/-- R286, R287: a loader whose block passes the header's checks loads the entries of its own kinds and goes on; with a header
that does not, CFGBLK is precise with the block VA and all ones. The model's reading: TINFO all ones for the header (log 36), the
checks of padding and unused fields (logs 37, 38), a fallow tile that takes what its router runs (log 125), and when the tile moves to the named section (log 140). -/
def Obligations.LoaderForms : Prop :=
  ∀ (s : State) (t : Tid) (c : Core) (f : Firing) (a b : Reg) (which : Nat) (i : Instr), Runs s t c f →
    ((i, which) = (.cfge a b, 0) ∨ (i, which) = (.cfgs a b, 1) ∨ (i, which) = (.cfgo a b, 2) ∨ (i, which) = (.cfgk a b, 3)) →
    mayImpure c f = true → c.ready [a, b] = true →
    ((c.opA a).toNat % 64 ≠ 0 → exec i s = .next (takeTrap s t Cause.opalign true c.pc (c.opA a) 0)) ∧
    (∀ (hb : List Byte) (s1 : State), (c.opA a).toNat % 64 = 0 → formReads s c (coreWho t f (syncKey t)) (c.opA a) 64 = true →
      readVA s (coreWho t f (syncKey t)) (c.opA a) 64 = (.ok hb, s1) → getCore s1 t = c →
      (selTile s1 f.task.launch (cfgHead (wordsOf 8 hb)).tsel = none →
        exec i s = .next (takeTrap s1 t Cause.cfgblk true c.pc (c.opA a) (BitVec.allOnes 64))) ∧
      (∀ u : Tid, selTile s1 f.task.launch (cfgHead (wordsOf 8 hb)).tsel = some u →
        headBad (cfgHead (wordsOf 8 hb)) u = true ∨ s1.boot.fallow.contains u = true ∧ (which = 0 ∨ which = 3) →
        exec i s = .next (takeTrap s1 t Cause.cfgblk true c.pc (c.opA a) (BitVec.allOnes 64))) ∧
      (∀ (u : Tid) (body : List Byte) (s2 s3 : State) (items : List CfgItem),
        selTile s1 f.task.launch (cfgHead (wordsOf 8 hb)).tsel = some u → headBad (cfgHead (wordsOf 8 hb)) u = false →
        (s1.boot.fallow.contains u = false ∨ which = 1 ∨ which = 2) →
        formReads s1 c (coreWho t f (syncKey t)) (c.opA a + 64) (cfgBodyBytes (cfgHead (wordsOf 8 hb))) = true →
        readApart s1 (coreWho t f (syncKey t)) (c.opA a + 64) (cfgBodyBytes (cfgHead (wordsOf 8 hb))) = (.ok body, s2) →
        getCore s2 t = c → cfgItems (cfgHead (wordsOf 8 hb)) body = (items, true) →
        selectBad (cfgHead (wordsOf 8 hb)) which (c.opB b).toNat = false →
        tileBusy s2 u = false → (getSec s2 (secKey f.task.ctx (cfgHead (wordsOf 8 hb)).sect)).state.isBusy = false →
        loadItems (joinSection s2 (secKey f.task.ctx (cfgHead (wordsOf 8 hb)).sect) u f.task.launch) f.task.ctx u
          ((items.zipIdx ++ (maskBits 8 (cfgHead (wordsOf 8 hb)).ing).map (fun j =>
              (CfgItem.ing j (nth 0 (cfgHead (wordsOf 8 hb)).ingw j), 0x100 + j))).filter
            (fun x => wants which (c.opB b).toNat x.1)) = (s3, none) →
        exec i s = .next (setCore s3 t (getCore s3 t).finish)))

/-- R211, R288, R289, R290: ARM of a loaded section without a valid cut starts it with its count; ARM of a stopped section
resumes it; DISARM takes an armed section to loaded and does nothing to a loaded or a free one; SECWAIT answers the state it finds. The
model's reading: where a cut is kept (log 35). -/
def Obligations.SectionForms : Prop :=
  ∀ (s : State) (t : Tid) (c : Core) (f : Firing) (n : BitVec 6), Runs s t c f →
    (∀ (a b : Reg) (hb : List Byte) (s1 : State), mayImpure c f = true → c.ready [a, b] = true → c.opA a ≠ 0 →
      canonical (c.opA a) = true → (c.opA a).toNat % 64 = 0 → 0 < (c.opB b).toNat → (c.opB b).toNat < 2 ^ 32 →
      armRefused s (secKey f.task.ctx n.toNat) f.task.launch = false → c.allPkg = true →
      readVA s (coreWho t f (syncKey t)) (c.opA a) 64 = (.ok hb, s1) →
      bitOf (nth 0 (wordsOf 8 hb) 0) 63 = false → (getSec s (secKey f.task.ctx n.toNat)).state = .loaded →
      Answers (.arm a b n) s (fun s' => (getSec s' (secKey f.task.ctx n.toNat)).state = .armed ∧
        (getSec s' (secKey f.task.ctx n.toNat)).tcount = (c.opB b).toNat ∧
        (getSec s' (secKey f.task.ctx n.toNat)).area = c.opA a ∧ (getCore s' t).pc = (getCore s1 t).finish.pc ∧ s'.st = s1.st)) ∧
    (∀ (a b : Reg) (hb : List Byte) (s1 : State), mayImpure c f = true → c.ready [a, b] = true → c.opA a ≠ 0 →
      canonical (c.opA a) = true → (c.opA a).toNat % 64 = 0 → c.opB b = 0 →
      armRefused s (secKey f.task.ctx n.toNat) f.task.launch = false → c.allPkg = true →
      readVA s (coreWho t f (syncKey t)) (c.opA a) 64 = (.ok hb, s1) →
      (getSec s (secKey f.task.ctx n.toNat)).state = .stopped →
      Answers (.arm a b n) s (fun s' => (getSec s' (secKey f.task.ctx n.toNat)).state = .armed ∧
        (getSec s' (secKey f.task.ctx n.toNat)).tcount = (getSec s (secKey f.task.ctx n.toNat)).tcount ∧
        s'.fab.slots = s1.fab.slots ∧ s'.st = s1.st)) ∧
    (∀ a b : Reg, mayImpure c f = true → c.ready [a, b] = true → (getSec s (secKey f.task.ctx n.toNat)).state ≠ .loaded →
      (getSec s (secKey f.task.ctx n.toNat)).state ≠ .stopped → TrapsOpen (.arm a b n) s t Cause.sectcfg) ∧
    (mayImpure c f = true → ((getSec s (secKey f.task.ctx n.toNat)).state = .loaded ∨
        (getSec s (secKey f.task.ctx n.toNat)).state = .free) →
      Answers (.disarm n) s (fun s' => OnlyCore s s' t ∧ getCore s' t = c.advance)) ∧
    (mayImpure c f = true → (getSec s (secKey f.task.ctx n.toNat)).state = .armed →
      Answers (.disarm n) s (fun s' => (getSec s' (secKey f.task.ctx n.toNat)).state = .loaded ∧ s'.st = s.st)) ∧
    (∀ (d : Reg) (v : Word), c.ready [d] = true → secwaitAnswer (getSec s (secKey f.task.ctx n.toNat)) = some v →
      (∀ k r x, c.waiting ≠ .secwait k r x) →
      Answers (.secwait d n) s (fun s' => OnlyCore s s' t ∧ getCore s' t = { (c.setGpr d v).advance with waiting := .none })) ∧
    (∀ d : Reg, c.ready [d] = true → (getSec s (secKey f.task.ctx n.toNat)).state = .armed → (∀ k r x, c.waiting ≠ .secwait k r x) →
      Answers (.secwait d n) s (fun s' => OnlyCore s s' t ∧ (getCore s' t).pc = c.pc))

/-- R211, R219 to R222, R292: SMARK adds an edge once every source has passed the earlier ones, and is refused on a section
that is not armed; a stop edge takes the section to stopping, the edge at every unit to stopped with its cut in the save area, and
EOS at every sink to idle. The model's reading: when a section without sinks is idle (log 69), and what the area holds beside its
header (log 35). -/
def Obligations.SectionEvents : Prop :=
  ∀ (s : State),
    (∀ (t : Tid) (c : Core) (f : Firing) (n : BitVec 6), Runs s t c f → mayImpure c f = true →
      ((getSec s (secKey f.task.ctx n.toNat)).state = .armed → sourcesPassed s (secKey f.task.ctx n.toNat) = true →
        Answers (.smark n) s (fun s' => (getSec s' (secKey f.task.ctx n.toNat)).edges =
          (getSec s (secKey f.task.ctx n.toNat)).edges + 1 ∧ getCore s' t = c.advance ∧ s'.st = s.st)) ∧
      ((getSec s (secKey f.task.ctx n.toNat)).state ≠ .armed → TrapsOpen (.smark n) s t Cause.secstate)) ∧
    (stopWanted s (s.op 0) = true → sourcesPassed s (s.op 0) = true →
      Answers .stopEdgeRequest s (fun s' => (getSec s' (s.op 0)).state = .stopping ∧
        (getSec s' (s.op 0)).stopAt = some ((getSec s (s.op 0)).edges + 1) ∧ s'.cores = s.cores ∧ s'.st = s.st)) ∧
    (∀ n s1, (getSec s (s.op 0)).state = .stopping → (getSec s (s.op 0)).stopAt = some n → allAt s (s.op 0) n = true →
      storeCut (setSec s (s.op 0) { getSec s (s.op 0) with cut := some ((getSec s (s.op 0)).cut.getD s.clk.dtime) }) (s.op 0) =
        (.ok (), s1) → onLeavingDie (keepCut s1 (s.op 0)) (getSec s1 (s.op 0)) = false →
      Answers .sectionCut s (fun s' => (getSec s' (s.op 0)).state = .stopped ∧ s'.st = s1.st ∧ s'.cuts = (keepCut s1 (s.op 0)).cuts)) ∧
    ((getSec s (s.op 0)).state = .armed → (getSec s (s.op 0)).tiles ≠ [] → sinksDone s (s.op 0) = true →
      Answers .sectionIdle s (fun s' => (getSec s' (s.op 0)).state = .idle ∧ s'.st = s.st))

/-- R291, R293: STRM starts a generator's record as a stream of the firing's context; SSTOP tells a running one to stop and does
nothing to an idle one; SEAL asks its operator unit to end; TAPSET replaces the identifier; OPSTATE and GENSTATE are
precise. The model's reading: a free TVAL of the two causes (log 12). -/
def Obligations.StreamForms : Prop :=
  ∀ (s : State) (t : Tid) (c : Core) (f : Firing) (a : Reg) (n : BitVec 6) (m : Tid), Runs s t c f → mayImpure c f = true →
    c.ready [a] = true → selTile s f.task.launch (c.gpr a).toNat = some m →
    ((isMem m || isHead m) = true → (getGen s m n.toNat).words ≠ [] → (getGen s m n.toNat).run = none → tileRunning s m = false →
      c.allPkg = true → Answers (.strm a n) s (fun s' => s'.st = s.st ∧ (getCore s' t).pc = c.pc + 4 ∧
        (getGen s' m n.toNat).run = some (Stream.start (getGen s m n.toNat).words f.task.ctx f.task.launch none
          (some (t, f.task.rid)) 0))) ∧
    ((isMem m || isHead m) = true → (getGen s m n.toNat).run ≠ none → TrapsOpen (.strm a n) s t Cause.genstate) ∧
    ((isMem m || isHead m) = true → (getGen s m n.toNat).run = none →
      Answers (.sstop a n) s (fun s' => s'.st = s.st ∧ getCore s' t = c.advance ∧ (getGen s' m n.toNat).run = none)) ∧
    (∀ x : Stream, (isMem m || isHead m) = true → (getGen s m n.toNat).run = some x → x.held = none →
      Answers (.sstop a n) s (fun s' => s'.st = s.st ∧ getCore s' t = c.advance ∧
        (getGen s' m n.toNat).run = some { x with stopping := true })) ∧
    (recKind (s.fab.opunits.getD (m * 4 + n.toNat) (OpUnit.fresh 0)).recd = 11 →
      (s.fab.opunits.getD (m * 4 + n.toNat) (OpUnit.fresh 0)).eosA = false →
      Answers (.seal a n) s (fun s' => s'.st = s.st ∧ getCore s' t = c.advance ∧
        (s'.fab.opunits.getD (m * 4 + n.toNat) (OpUnit.fresh 0)).sealReq = true)) ∧
    (recKind (s.fab.opunits.getD (m * 4 + n.toNat) (OpUnit.fresh 0)).recd ≠ 11 → TrapsOpen (.seal a n) s t Cause.opstate) ∧
    (∀ b : Reg, c.ready [a, b] = true → barMalformed (c.gpr b).toNat = false →
      recKind (s.fab.opunits.getD (m * 4 + n.toNat) (OpUnit.fresh 0)).recd = 10 →
      Answers (.tapset a b n) s (fun s' => s'.st = s.st ∧ getCore s' t = c.advance ∧
        bitsOf (s'.fab.opunits.getD (m * 4 + n.toNat) (OpUnit.fresh 0)).recd 63 32 = (c.gpr b).toNat % 2 ^ 32))

/-- R112 to R119, R294 to R297: BINIT sets up a barrier and leaves PHASE; BARR puts one arrival under way and goes on at the
node's answer; BWAIT waits with the waiter's class as PRIO; BTEST reads once; BCHG sets EXPECT or releases; a malformed
identifier is BARSCOPE, precisely. The model's reading: a free TVAL of BARSCOPE and BARCFG (log 12). -/
def Obligations.BarrierForms : Prop :=
  ∀ (s : State) (t : Tid) (c : Core) (f : Firing) (a b d : Reg), Runs s t c f → mayImpure c f = true → c.ready [a, b, d] = true →
    (barMalformed (c.gpr a).toNat = true → c.waiting = .none →
      TrapsOpen (.binit a b) s t Cause.barscope ∧ TrapsOpen (.barr a b) s t Cause.barscope ∧
      TrapsOpen (.bwait a b d) s t Cause.barscope ∧ TrapsOpen (.btest a b d) s t Cause.barscope ∧
      TrapsOpen (.bchgSetExpect a b) s t Cause.barscope ∧ TrapsOpen (.bchgRelease a b) s t Cause.barscope) ∧
    (c.waiting = .none → barMalformed (c.gpr a).toNat = false → barInside (c.gpr a).toNat t = true →
      binitRefused s (c.gpr a).toNat f.task.ctx (c.gpr b) = false →
      (barScope (c.gpr a).toNat = 5 → bitsOf (c.gpr b) 51 32 = s.boot.node) →
      Answers (.binit a b) s (fun s' => s'.st = s.st ∧ getCore s' t = { c with pc := c.pc + 4, waiting := .none } ∧
        (getBar s' (c.gpr a).toNat).scope = barScope (c.gpr a).toNat ∧
        (getBar s' (c.gpr a).toNat).expect = bitsOf (c.gpr b) 23 0 ∧ (getBar s' (c.gpr a).toNat).arrived = 0 ∧
        (getBar s' (c.gpr a).toNat).early = 0 ∧ (getBar s' (c.gpr a).toNat).pending = 0 ∧ (getBar s' (c.gpr a).toNat).prio = 7 ∧
        (getBar s' (c.gpr a).toNat).status = 0 ∧ (getBar s' (c.gpr a).toNat).v = true ∧
        (getBar s' (c.gpr a).toNat).ctx = f.task.ctx ∧ (getBar s' (c.gpr a).toNat).phase = (getBar s (c.gpr a).toNat).phase)) ∧
    (c.waiting = .none → barMalformed (c.gpr a).toNat = false → 0 < (c.gpr b).toNat → (c.gpr b).toNat < 2 ^ 24 → b.val ≠ 0 →
      c.allPod = true → c.amsgw = none →
      Answers (.barr a b) s (fun s' => s'.st = s.st ∧ (getCore s' t).pc = c.pc ∧
        s'.bar.arrivals = s.bar.arrivals ++
          [⟨(c.gpr a).toNat, (c.gpr b).toNat, f.task.ctx, f.task.launch, .core t s.eng.nextUid⟩])) ∧
    (∀ uid, c.waiting = .barr uid → awaitsOwner s t c = false → s.bar.answers.get? uid = some 0 →
      Answers (.barr a b) s (fun s' => s'.st = s.st ∧ getCore s' t = { c with pc := c.pc + 4, waiting := .none })) ∧
    (∀ uid (e : Cause), c.waiting = .barr uid → awaitsOwner s t c = false → s.bar.answers.get? uid = some e → e ≠ 0 →
      ∃ tval, exec (.barr a b) s = .next (takeTrap { setCore { s with
        bar := { s.bar with answers := s.bar.answers.erase uid } } t { c with waiting := .none } with free := s.free + 1 } t e true
          c.pc tval 0)) ∧
    (c.waiting = .none → barMalformed (c.gpr a).toNat = false → zeroBits (c.gpr b) 63 16 = true →
      barRefuses s (c.gpr a).toNat f.task.ctx t = false →
      Answers (.bwait a b d) s (fun s' => s'.st = s.st ∧
        getCore s' t = { c with waiting := .bwait (c.gpr a).toNat (bitsOf (c.gpr b) 15 0) d } ∧
        (getBar s' (c.gpr a).toNat).prio = min (getBar s (c.gpr a).toNat).prio (firingClass s t f)) ∧
      Answers (.btest a b d) s (fun s' => OnlyCore s s' t ∧
        getCore s' t = (c.setGpr d (BitVec.ofNat 64 (
          (if phaseDone (getBar s (c.gpr a).toNat).phase (bitsOf (c.gpr b) 15 0) then 2 ^ 63 else 0) +
          (getBar s (c.gpr a).toNat).phase * 65536 + (getBar s (c.gpr a).toNat).status))).advance)) ∧
    (∀ i, i = .bchgSetExpect a b ∨ i = .bchgRelease a b → barRefuses s (c.gpr a).toNat f.task.ctx t = false →
      (bitsOf (c.gpr b) 63 62 = 1 → (getBar s (c.gpr a).toNat).arrived = 0 → (getBar s (c.gpr a).toNat).early = 0 →
        (getBar s (c.gpr a).toNat).pending = 0 → zeroBits (c.gpr b) 61 0 = true →
        Answers i s (fun s' => s'.st = s.st ∧ getCore s' t = c.advance ∧
          getBar s' (c.gpr a).toNat = { getBar s (c.gpr a).toNat with v := false })) ∧
      (bitsOf (c.gpr b) 63 62 = 0 → zeroBits (c.gpr b) 61 24 = true →
        (getBar s (c.gpr a).toNat).arrived + (getBar s (c.gpr a).toNat).early < bitsOf (c.gpr b) 23 0 →
        Answers i s (fun s' => s'.st = s.st ∧ getCore s' t = c.advance ∧
          getBar s' (c.gpr a).toNat = { getBar s (c.gpr a).toNat with expect := bitsOf (c.gpr b) 23 0 })) ∧
      (2 ≤ bitsOf (c.gpr b) 63 62 → TrapsOpen i s t Cause.barcfg))

/-- R114 to R119, R398: the barrier node's own events. An arrival within EXPECT counts; one that overflows EARLY too is refused
and changes nothing; a discharge lowers PENDING; a phase that is complete advances PHASE, takes EARLY over and lifts PRIO; a
waiter sees it; a join is answered; the parent's completion, a PRIO and a poisoned arrival of a pod barrier take effect; a
floor reaches its quad. The model's reading: logs 91 to 93. -/
def Obligations.BarrierEvents : Prop :=
  ∀ (s : State),
    (∀ (x : Arrival), s.bar.arrivals[s.op 0]? = some x →
      (barMalformed x.id = false → (getBar s x.id).v = true → x.src.tile = none → (getBar s x.id).ctx = x.ctx →
        (getBar s x.id).arrived + x.n ≤ (getBar s x.id).expect →
        Answers .barrierArrival s (fun s' => s'.st = s.st ∧ s'.cores = s.cores ∧
          getBar s' x.id = { getBar s x.id with arrived := (getBar s x.id).arrived + x.n } ∧
          s'.bar.arrivals = dropNth s.bar.arrivals (s.op 0))) ∧
      (barMalformed x.id = false → (getBar s x.id).v = true → x.src.tile = none → (getBar s x.id).ctx = x.ctx →
        (getBar s x.id).arrived ≤ (getBar s x.id).expect → (getBar s x.id).expect < (getBar s x.id).arrived + x.n →
        2 * (getBar s x.id).expect < (getBar s x.id).arrived + (getBar s x.id).early + x.n →
        Answers .barrierArrival s (fun s' => getBar s' x.id = getBar s x.id))) ∧
    (∀ x, s.bar.discharges[s.op 0]? = some x → Answers .barrierDischarge s (fun s' => s'.st = s.st ∧ s'.cores = s.cores ∧
      getBar s' x.1 = { getBar s x.1 with pending := (getBar s x.1).pending - x.2 })) ∧
    ((getBar s (s.op 0)).v = true → (getBar s (s.op 0)).arrived = (getBar s (s.op 0)).expect → (getBar s (s.op 0)).pending = 0 →
      barScope (s.op 0) ≠ 5 →
      Answers .barrierComplete s (fun s' => s'.st = s.st ∧ (getBar s' (s.op 0)).phase = ((getBar s (s.op 0)).phase + 1) % 65536 ∧
        (getBar s' (s.op 0)).arrived = (getBar s (s.op 0)).early ∧ (getBar s' (s.op 0)).early = 0 ∧
        (getBar s' (s.op 0)).prio = 7 ∧ (getBar s' (s.op 0)).status = (getBar s (s.op 0)).status)) ∧
    ((getBar s (s.op 0)).arrived ≠ (getBar s (s.op 0)).expect → exec .barrierComplete s = .next s) ∧
    (∀ c f id p d, getCore s (s.op 0) = c → c.run = some f → c.waiting = .bwait id p d →
      (phaseDone (getBar s id).phase p = true → Answers .bwaitObserve s (fun s' => OnlyCore s s' (s.op 0) ∧
        getCore s' (s.op 0) = { (c.setGpr d (BitVec.ofNat 64 (2 ^ 63 + (getBar s id).phase * 65536 + (getBar s id).status))) with
          pc := (c.setGpr d 0).pc + 4, waiting := .none })) ∧
      (phaseDone (getBar s id).phase p = false → exec .bwaitObserve s = .next s)) ∧
    (∀ m rest, s.bar.joins = m :: rest → barMalformed m.id = false → (getBar s m.id).v = true →
      (getBar s m.id).children.length < 64 →
      Answers .podBarrierJoin s (fun s' => s'.bar.joins = rest ∧ (getBar s' m.id).children.contains m.node = true)) ∧
    (∀ m rest, s.bar.completions = m :: rest → m.status = 0 →
      Answers .podBarrierCompletion s (fun s' => s'.bar.completions = rest ∧ (getBar s' m.id).status = 0 ∧
        (getBar s' m.id).phase = ((getBar s m.id).phase + 1) % 65536 ∧ (getBar s' m.id).prio = 7)) ∧
    (∀ m rest, s.bar.prios = m :: rest →
      Answers .barrierPrioUpdate s (fun s' => s'.bar.prios = rest ∧ (getBar s' m.id).prio = min (getBar s m.id).prio m.prio)) ∧
    (∀ m rest, s.bar.poisons = m :: rest → exec .podBarrierPoison s = .next (poisonBar { s with bar := { s.bar with poisons := rest } } m.id)) ∧
    Answers .inheritanceFloor s (fun s' => s'.cores = s.cores ∧ s'.st = s.st ∧
      s'.bar.floors.getD (s.op 0 * 512 + s.op 1) 7 = quadFloor s (s.op 0) (s.op 1))

/-- R23, R24, R97, R103, R125, R126, R298: AMSG and AMSGW read the message once the stream's own earlier accesses let them, fill its
header and put it into the injection buffer; AMSG waits there, AMSGW goes on; a refused injection reaches AMSG as its result
word, an accepted one is sent whole, the last of those under way. The model's reading: log 83. -/
def Obligations.MessageForms : Prop :=
  (∀ (s : State) (t : Tid) (c : Core) (f : Firing) (a d : Reg) (w : List Word) (s1 : State), Runs s t c f →
    mayImpure c f = true → c.ready [a, d] = true → (c.opA a).toNat % 32 = 0 → c.acqDone = true →
    formReads s c (coreWho t f (syncKey t)) (c.opA a) 512 = true →
    readMessage s (coreWho t f (syncKey t)) (c.opA a) = (.ok w, s1) → getCore s1 t = c →
    ((∀ x y, c.waiting ≠ .amsg x y) → Answers (.amsg a d) s (fun s' => s'.st = s1.st ∧ (getCore s' t).pc = c.pc ∧
      (getCore s' t).waiting = .amsg s1.eng.nextUid d ∧ ∃ m : Msg, s'.fab.msgs = s1.fab.msgs ++ [m] ∧ m.uid = s1.eng.nextUid ∧
        m.src = t ∧ m.words = fillHeader s1 t c f w ∧ m.injected = false)) ∧
    (c.amsgw = none → Answers (.amsgw a) s (fun s' => s'.st = s1.st ∧ (getCore s' t).pc = c.finish.pc ∧
      (getCore s' t).amsgw = some (s1.eng.nextUid, c.opA a) ∧ ∃ m : Msg, s'.fab.msgs = s1.fab.msgs ++ [m] ∧
        m.uid = s1.eng.nextUid ∧ m.src = t ∧ m.words = fillHeader s1 t c f w)) ∧
    (c.amsgw ≠ none → exec (.amsgw a) s = .next s)) ∧
  (∀ (s : State) (m : Msg), s.fab.msgs.find? (fun m => m.uid == s.op 0 && !m.injected) = some m →
    s.op 1 = 0 →
    (injectRefused s m = false → m.node = s.boot.node →
      Answers .messageInject s (fun s' => s'.st = s.st ∧ s'.cores = s.cores ∧
        s'.fab.msgs = s.fab.msgs.filter (fun x => x.uid != m.uid) ++ [{ m with injected := true, resendAt := none, link := none }])) ∧
    (∀ d, injectRefused s m = true → m.sender ≠ none → (getCore s m.src).waiting = .amsg m.uid d → (getCore s m.src).amsgw = none →
      Answers .messageInject s (fun s' => s'.st = s.st ∧ getCore s' m.src = { ((getCore s m.src).setGpr d
        (BitVec.ofNat 64 (2 ^ 63 + 2 * 2 ^ 32 + Cause.engnode.toNat))).finish with waiting := .none })))

/-- R46, R111, R300 to R302: PUBLISH swaps FRONT and SHADOW and counts VER up, the pages of the new FRONT counting a write; an
entry with V = 0 is NOENTRY; GINV with ALL empties the granary of the tenant's entries; GPROBE answers and changes no memory. The
model's reading: a free TVAL of NOENTRY (log 12), and which pages PUBLISH counts (log 130). -/
def Obligations.PublishForms : Prop :=
  ∀ (s : State) (t : Tid) (c : Core) (f : Firing), Runs s t c f →
    (∀ (sc : Scope) (e : BitVec 6), mayImpure c f = true → c.waiting = .none → c.allPod = true → c.allPkg = true →
      bitOf ((getCtx s f.task.ctx).bufmap.getD e.toNat (0, 0, 0, 0)).1 0 = true → shadowWriters s f.task.ctx e.toNat = [] →
      Answers (.publish sc e) s (fun s' => (getCore s' t).pc = c.pc + 4 ∧
        s'.st = (publishPages s (bitsOf ((getCtx s f.task.ctx).bufmap.getD e.toNat (0, 0, 0, 0)).2.2.2 47 6 * 64)
          (bitsOf ((getCtx s f.task.ctx).bufmap.getD e.toNat (0, 0, 0, 0)).2.1 63 32 * 64)).st ∧
        ((getCtx s' f.task.ctx).bufmap.getD e.toNat (0, 0, 0, 0)).2.2.1 =
          ((getCtx s f.task.ctx).bufmap.getD e.toNat (0, 0, 0, 0)).2.2.2 ∧
        ((getCtx s' f.task.ctx).bufmap.getD e.toNat (0, 0, 0, 0)).2.2.2 =
          ((getCtx s f.task.ctx).bufmap.getD e.toNat (0, 0, 0, 0)).2.2.1 ∧
        bitsOf ((getCtx s' f.task.ctx).bufmap.getD e.toNat (0, 0, 0, 0)).2.1 31 16 =
          (bitsOf ((getCtx s f.task.ctx).bufmap.getD e.toNat (0, 0, 0, 0)).2.1 31 16 + 1) % 65536)) ∧
    (∀ (sc : Scope) (e : BitVec 6), mayImpure c f = true → c.waiting = .none →
      bitOf ((getCtx s f.task.ctx).bufmap.getD e.toNat (0, 0, 0, 0)).1 0 = false → TrapsOpen (.publish sc e) s t Cause.noentry) ∧
    (∀ a b : Reg, mayImpure c f = true → c.ready [a, b] = true → c.opA a = 0 → c.opB b = 1 →
      Answers (.ginv a b) s (fun s' => getCore s' t = c.finish ∧ s'.st = s.st ∧
        ∀ e ∈ s'.ln.gran, e.tenant ≠ (getCtx s f.task.ctx).tenant)) ∧
    (∀ (a d : Reg) (h rs : List Word) (ds : List TileDesc) (v : Nat) (s1 s2 s3 : State), c.ready [a, d] = true →
      (c.opA a).toNat % 64 = 0 → formReads s c (coreWho t f (syncKey t)) (c.opA a) 192 = true → readCR s (coreWho t f (syncKey t)) (c.opA a) = (.ok (h, rs), s1) →
      headerBad s1 true f.task.launch h = false →
      formReads s1 c (coreWho t f (syncKey t)) (crTiles h) 272 = true →
      examineTiles s1 (coreWho t f (syncKey t)) (crTiles h) = (.ok ds, s2) →
      granProbe s2 (coreWho t f (syncKey t)) (dieOf t) f.task.launch h rs ds = (.ok v, s3) →
      Answers (.gprobe a d) s (fun s' => s'.st = s3.st ∧ s'.tk = s3.tk ∧
        getCore s' t = ((getCore s3 t).setGpr d (BitVec.ofNat 64 v)).finish))

/-! ### Control registers and held accesses -/

/-- R276, R307 to R309, R405, R412: CRD reads what the map allows the state of the core, TSERR being cleared by it; a number
that the map lacks is CRNUM, a register not allowed is PRIV; CWR in system state checks and writes, staging the words of a
group, and a value refused is soft: TSERR is set and the handler goes on. The model's reading: PRIV for a register that no
context writes (log 48), zeros read from write ports (log 49). -/
def Obligations.RegisterForms : Prop :=
  ∀ (s : State) (t : Tid) (c : Core) (f : Firing) (a b : Reg) (n : BitVec 6), Runs s t c f → c.ready [a, b] = true →
    (crName (c.gpr a + n.setWidth 64).toNat = none →
      TrapsOpen (.crd a b n) s t Cause.crnum ∧
      exec (.cwr a b n) s = .next (takeTrap s t Cause.crnum true c.pc (c.gpr a + n.setWidth 64) 0)) ∧
    (∀ (r : CrName) (v : Word), crName (c.gpr a + n.setWidth 64).toNat = some r → (r.userReads = true ∨ c.sys = true) →
      crGet (windowsTo s f.task.ctx) f.task.ctx (selfWord (windowsTo s f.task.ctx) t c f) r = .ok v →
      Answers (.crd a b n) s (fun s' => getCore s' t = (c.setGpr b v).advance ∧ s'.st = (windowsTo s f.task.ctx).st ∧
        (r = .tserr → (getCtx s' f.task.ctx).tserr = 0))) ∧
    (∀ r : CrName, crName (c.gpr a + n.setWidth 64).toNat = some r → c.sys = false →
      (r.userReads = false → TrapsOpen (.crd a b n) s t Cause.priv) ∧
      exec (.cwr a b n) s = .next (takeTrap s t Cause.priv true c.pc (c.gpr a + n.setWidth 64) 0)) ∧
    (∀ (r : CrName) (s1 : State), crName (c.gpr a + n.setWidth 64).toNat = some r → c.sys = true → r ≠ .thend →
      (r.writeBy = .sys ∨ (r.writeBy = .pkg ∧ (getCtx s f.task.ctx).pkgp = true)) →
      crPut s f.task.ctx c.staged (c.gpr a + n.setWidth 64).toNat (c.gpr b) r = .ok s1 →
      Answers (.cwr a b n) s (fun s' => OnlyCore s1 s' t ∧ getCore s' t = { getCore s1 t with
        pc := (getCore s1 t).pc + 4, staged := crStage c.staged (c.gpr a + n.setWidth 64).toNat (c.gpr b) r })) ∧
    (∀ (r : CrName) (e : Cause), crName (c.gpr a + n.setWidth 64).toNat = some r → c.sys = true → r ≠ .thend →
      r.writeBy = .sys → crPut s f.task.ctx c.staged (c.gpr a + n.setWidth 64).toNat (c.gpr b) r = .error e →
      Answers (.cwr a b n) s (fun s' => getCore s' t = c.advance ∧ s'.st = s.st ∧
        (getCtx s' f.task.ctx).tserr = BitVec.ofNat 64 (2 ^ 63 + e.toNat)))

/-- R31, R109, R170, R192, R306, R405, R406: what a write that passes its register's checks leaves in the register. The model's
reading: logs 50, 51. -/
def Obligations.RegisterWrites : Prop :=
  ∀ (s : State) (ctx n : Nat) (l : List (Nat × Word)) (v : Word),
    (v.toNat % 4 = 0 → canonical v = true → ∃ s', crPut s ctx l n v .tvec = .ok s' ∧ (getCtx s' ctx).tvec = v ∧ s'.st = s.st) ∧
    (v.toNat % 65536 = 0 → canonical v = true → ∃ s', crPut s ctx l n v .tfbase = .ok s' ∧ (getCtx s' ctx).tfbase = v) ∧
    (zeroBits v 31 2 = true → ∃ s', crPut s ctx l n v .nctl = .ok s' ∧ (getCtx s' ctx).nctl = v) ∧
    (zeroBits v 31 2 = false → crPut s ctx l n v .nctl = .error Cause.numcfg) ∧
    (∀ i, i < 16 → (getCtx s ctx).ranges.length = 16 →
      rangeBad (setNth (getCtx s ctx).ranges i (0, 0, 0)) (stagedWord l (n - 2), stagedWord l (n - 1), v) = false →
      bitOf (stagedWord l (n - 2)) 0 = true →
      ∃ s', crPut s ctx l n v (.range i 2) = .ok s' ∧
        nth (0, 0, 0) (getCtx s' ctx).ranges i = (stagedWord l (n - 2), stagedWord l (n - 1), v) ∧ s'.st = s.st) ∧
    (∀ i, rangeBad (setNth (getCtx s ctx).ranges i (0, 0, 0)) (stagedWord l (n - 2), stagedWord l (n - 1), v) = true →
      crPut s ctx l n v (.range i 2) = .error Cause.rangecfg) ∧
    (∀ w, w < 8 → (getCtx s ctx).wpts.length = 8 → wptBad (stagedWord l (n - 1)) v = false →
      ∃ s', crPut s ctx l n v (.wptCtl w) = .ok s' ∧ nth (0, 0) (getCtx s' ctx).wpts w = (stagedWord l (n - 1), v))

/-- R41, R69, R152, R193, R310, R405, R406, R411, R454: the events of the registers. A host write that passes the checks has the
register's effect, where the module is not held in reset, one that does not sets HWSTAT; a read of TSERR clears it; a port done with an invalidation leaves it; the
end of an event window closes it; THEND ends the firing of a core in system state. The model's reading: logs 75 to 77 and 121. -/
def Obligations.RegisterEvents : Prop :=
  ∀ (s : State) (port : Bool) (ctx : Nat) (v : Word), ctx < 64 → s.boot.held = false →
    (zeroBits v 47 32 = true → Answers (.tevpWrite port ctx v) s (fun s' => s'.st = s.st ∧ s'.cores = s.cores ∧
      bitsOf (getCtx s' ctx).tevp 15 0 = bitsOf v 15 0 ∧ bitsOf (getCtx s' ctx).tevp 63 16 = bitsOf (getCtx s ctx).tevp 63 16)) ∧
    (zeroBits v 63 57 = true → zeroBits v 11 5 = true → 6 ≤ bitsOf v 4 0 → bitsOf v 4 0 ≤ 15 →
      Answers (.tevbWrite port ctx v) s (fun s' => (getCtx s' ctx).tevb = v ∧ (getCtx s' ctx).tevp = 0 ∧ s'.st = s.st)) ∧
    Answers (.tserrRead port ctx) s (fun s' => s'.host.reply = (getCtx s ctx).tserr ∧ (getCtx s' ctx).tserr = 0 ∧ s'.st = s.st) ∧
    (∀ i s1, i < 16 → crPut s ctx (hostStaged s port ctx) (0x102 + 3 * i) v (.range i 2) = .ok s1 →
      Answers (.rangeRegisterCommit port ctx i v) s (fun s' => s'.ctxs = s1.ctxs ∧ s'.xl = s1.xl ∧ s'.st = s1.st)) ∧
    (∀ i, i < 16 → crPut s ctx (hostStaged s port ctx) (0x102 + 3 * i) v (.range i 2) = .error Cause.rangecfg →
      exec (.rangeRegisterCommit port ctx i v) s = .next (hwRefuse s port (0x1000000 + 0x400000 * ctx + 8 * (0x102 + 3 * i))
        Cause.rangecfg)) ∧
    (∀ e s1, e < 64 → crPut s ctx (hostStaged s port ctx) (0x203 + 4 * e) v (.bufmap e 3) = .ok s1 →
      Answers (.bufferMapCommit port ctx e v) s (fun s' => s'.ctxs = s1.ctxs ∧ s'.st = s1.st)) ∧
    (∀ w s1, w < 8 → crPut s ctx (hostStaged s port ctx) (0x41 + 2 * w) v (.wptCtl w) = .ok s1 →
      Answers (.watchpointCommit port ctx w v) s (fun s' => s'.ctxs = s1.ctxs ∧ s'.st = s1.st)) ∧
    (zeroBits v 62 33 = true → bitOf v 63 = true → 0 < bitsOf v 32 0 → s.xl.tinva.toNat + bitsOf v 32 0 ≤ 15 * 2 ^ 28 →
      s.xl.tinvLeft = [] → Answers (.tinv port v) s (fun s' => s'.xl.tinvLeft = List.range 64 ∧ s'.xl.tinvn = v ∧ s'.st = s.st)) ∧
    (∀ p s1, p < 12 → zeroBits v 63 24 = true → bitsOf v 23 20 = p → poolAppend s p (bitsOf v 23 0) = some s1 →
      Answers (.fppush port p v) s (fun s' => s'.xl = s1.xl ∧ s'.st = s1.st)) ∧
    (∀ u, isMem u = true → zeroBits v 31 24 = true → zeroBits v 7 0 = true → bitOf v 21 = false →
      Answers (.mtstatWrite port u v) s (fun s' => bitsOf (mtstat s' u) 63 32 = 0 ∧ bitsOf (mtstat s' u) 15 8 = bitsOf v 15 8 ∧
        s'.st = s.st)) ∧
    (∀ u f, (getCore s u).run = some f → (getCore s u).sys = true → (getCore s u).halted = false → (getCore s u).unfin = [] →
      zeroBits v 63 10 = true → bitsOf v 9 0 ≠ 0 → (getCore s u).frame = 0 →
      Answers (.thend u v) s (fun s' => (getCore s' u).run = none)) ∧
    (s.xl.tinvLeft.contains (s.op 0) = true → s.st.lineQ = [] → s.xl.moves = [] →
      Answers .tinvComplete s (fun s' => s'.xl.tinvLeft = s.xl.tinvLeft.filter (· != s.op 0))) ∧
    (s.op 0 < 64 → exec .numericWindowEnd s = .next (windowsTo s (s.op 0)))

/-- R416 to R418: a wake makes the holding slot try again; an access that has waited moves to the ring, whose entry the E7 writes, for
a write with its data 64 KiB on; THOLD retries or abandons what it names. The model's reading: log 78. -/
def Obligations.HeldForms : Prop :=
  ∀ (s : State) (t : Tid) (n : Nat) (h : Held) (ctx : Nat), heldOf s (.slot t n) = some (ctx, h) → h.ring = none →
    (s.xl.wakes.contains (s.op 0, s.op 1, s.op 2) = true → unitNamed (s.op 0) (s.op 1) (s.op 2) = some (.slot t n) →
      Answers .wake s (fun s' => heldOf s' (.slot t n) = none ∧ s'.st = s.st ∧ s'.cores = s.cores)) ∧
    (∀ i s1, unitNamed (s.op 0) (s.op 1) (s.op 2) = some (.slot t n) → atHomePort h = true → h.waitPort = none →
      (getCtx s ctx).tring ≠ 0 → ringFree (getCtx s ctx) = some i → h.write = false →
      writeVARaw s (ringWho ctx t) (ringVA s ctx i) (ringBytes (.slot t n) h s.clk.dtime) = (.ok [], s1) →
      Answers .retryRingMove s (fun s' => s'.st = s1.st ∧ (getCtx s' ctx).ringUsed.contains (2 * i) = true ∧
        (getSlot s' t n).held = some { h with waitPort := none, ring := some i })) ∧
    (∀ i s0 s1, unitNamed (s.op 0) (s.op 1) (s.op 2) = some (.slot t n) → atHomePort h = true → h.waitPort = none →
      (getCtx s ctx).tring ≠ 0 → ringFree (getCtx s ctx) = some i → h.write = true →
      writeVARaw s (ringWho ctx t) (ringVA s ctx i + 65536) (bytesOf 64 h.data.toNat) = (.ok [], s0) →
      writeVARaw s0 (ringWho ctx t) (ringVA s0 ctx i) (ringBytes (.slot t n) h s0.clk.dtime) = (.ok [], s1) →
      Answers .retryRingMove s (fun s' => s'.st = s1.st ∧ (getCtx s' ctx).ringUsed.contains (2 * i + 1) = true ∧
        (getSlot s' t n).held = some { h with waitPort := none, ring := some i })) ∧
    (∀ v, tholdUnit s ctx v = some (.slot t n) →
      (bitOf v 62 = false → Answers (.tholdRetry ctx v) s (fun s' => heldOf s' (.slot t n) = none ∧ s'.st = s.st)) ∧
      (bitOf v 62 = true → exec (.tholdPoison ctx v) s = .next (poisonUnit s (.slot t n))))

/-- R276, R299: RFILL in system state: a read's entry takes 64 bytes, a write's none; the entry is freed and the core goes on; an
entry that is not in use is RINGBAD. The model's reading: log 79. -/
def Obligations.RetryFills : Prop :=
  ∀ (s : State) (t : Tid) (c : Core) (f : Firing) (a b : Reg), Runs s t c f → c.sys = true → c.ready [a, b] = true →
    (c.gpr a).toNat % 64 = 0 → (getCtx s f.task.ctx).tring ≠ 0 → (c.gpr a - (getCtx s f.task.ctx).tring).toNat < 65536 →
    (ringBusy (getCtx s f.task.ctx) ((c.gpr a - (getCtx s f.task.ctx).tring).toNat / 64) = false →
      TrapsOpen (.rfill a b) s t Cause.ringbad) ∧
    (ringBusy (getCtx s f.task.ctx) ((c.gpr a - (getCtx s f.task.ctx).tring).toNat / 64) = true →
      ((getCtx s f.task.ctx).ringUsed.contains (2 * ((c.gpr a - (getCtx s f.task.ctx).tring).toNat / 64) + 1) = true →
        c.gpr b = 0 → ∀ s1, completeEntry s f.task.ctx ((c.gpr a - (getCtx s f.task.ctx).tring).toNat / 64) t [] = s1 →
        exec (.rfill a b) s = .next (setCore s1 t (getCore s1 t).advance)) ∧
      ((getCtx s f.task.ctx).ringUsed.contains (2 * ((c.gpr a - (getCtx s f.task.ctx).tring).toNat / 64) + 1) = false →
        (c.gpr b).toNat % 64 = 0 → formReads s c (coreWho t f (syncKey t)) (c.gpr b) 64 = true → ∀ bs s1 s2,
        readVA s (coreWho t f (syncKey t)) (c.gpr b) 64 = (.ok bs, s1) →
        completeEntry s1 f.task.ctx ((c.gpr a - (getCtx s f.task.ctx).tring).toNat / 64) t bs = s2 →
        exec (.rfill a b) s = .next (setCore s2 t (getCore s2 t).advance)))

/-! ### Elements -/

/-- R314, R319: each two-operand integer operation, in every modifier, gives position p of its result the table's value where p is
live in both operands, with L's PRED, to both targets; only the clamping ones count events. The model's reading: liveness of a
packed lane (log 18). -/
def Obligations.ElementIntegerPairs : Prop :=
  ∀ (i : Instr) (s : State) (e : Env) (x : Slot) (m : IMod) (ta tb : Target) (fn : Nat → Bool → Nat → Nat → Nat) (l r : Token),
    intPair i = some (m, ta, tb, fn) → SlotAt s e x ta tb → Ungated s e x → DataL x l → DataR x r →
    ∃ tok evs, Fires i s e x ta tb (some tok) (some tok) evs ∧
      (i ≠ .iadds m ta tb → i ≠ .isubs m ta tb → evs = []) ∧
      Positions tok (modOf m).1 l.pred (fun p => both (fn (modOf m).1 (modOf m).2)
        (nth none (posList (modOf m).1 x.hl l) p) (nth none (posList (modOf m).1 x.hr r) p))

/-- R319, R320, R321: the one-operand operations; ICMP gives all ones or zero by its condition, with PRED where a live position
is true; ISEL takes L where P's position is not zero and R elsewhere. The model's reading: liveness of a packed lane (log 18). -/
def Obligations.ElementIntegerOthers : Prop :=
  ∀ (s : State) (e : Env) (x : Slot) (m : IMod) (ta tb : Target) (l r : Token), SlotAt s e x ta tb → DataL x l →
    (∀ i fn, intOne i = some (m, ta, tb, fn) → Ungated s e x →
      ∃ tok, Fires i s e x ta tb (some tok) (some tok) [] ∧
        Positions tok (modOf m).1 l.pred (fun p => (nth none (posList (modOf m).1 x.hl l) p).map (fn (modOf m).1 (modOf m).2))) ∧
    (Ungated s e x → DataR x r →
      ∃ tok pred, Fires (.icmp m ta tb) s e x ta tb (some tok) (some tok) [] ∧
        Positions tok (modOf m).1 pred (fun p => both (fun a b =>
            if condition (x.const.toNat % 8) (readAs (modOf m).1 (modOf m).2 a) (readAs (modOf m).1 (modOf m).2 b)
            then 2 ^ (modOf m).1 - 1 else 0)
          (nth none (posList (modOf m).1 x.hl l) p) (nth none (posList (modOf m).1 x.hr r) p)) ∧
        (pred = true ↔ ∃ p, p < 512 / (modOf m).1 ∧ posBits tok.data (modOf m).1 p ≠ 0)) ∧
    (∀ q : Token, DataR x r → x.p = some q → q.kind = .data → latchPoison x.hp x.p = false →
      ∃ tok, Fires (.isel m ta tb) s e x ta tb (some tok) (some tok) [] ∧
        Positions tok (modOf m).1 l.pred (fun p => match nth none (posList (modOf m).1 x.hp q) p with
          | none => none
          | some v => if v ≠ 0 then nth none (posList (modOf m).1 x.hl l) p else nth none (posList (modOf m).1 x.hr r) p))

/-- R178, R180, R215, R313, R316 to R318: what tokens other than plain data do to an operation of two operands: poison gives poison;
PRED 0 in P drops the operands; equal markers are forwarded; a marker beside data raises MARKMIS once and takes nothing. A header that is
malformed raises SHEAFHDR, one of a format that the operation does not take FMTMIS, and what follows it is poison; one that is taken
stays in its decoder, and L's is sent on rewritten, to both targets, before the next result. The model's reading: log 53. -/
def Obligations.ElementTokens : Prop :=
  (∀ (i : Instr) (s : State) (e : Env) (x : Slot) (m : IMod) (ta tb : Target) (fn : Nat → Bool → Nat → Nat → Nat) (l r : Token),
      intPair i = some (m, ta, tb, fn) → SlotAt s e x ta tb → x.l = some l → x.r = some r →
      (Ungated s e x → l.kind = .poison → r.kind.isData = true →
        exec i s = .next (emit s e (x.skip i) ta tb (some (bare .poison)) (some (bare .poison)))) ∧
      (∀ q : Token, x.p = some q → q.kind = .data → q.pred = false → l.kind = .data → r.kind = .data →
        exec i s = .next (setSlot s e.t e.n (x.skip i))) ∧
      (∀ k : TokKind, Ungated s e x → k.isMark = true → l.kind = k → r.kind = k →
        exec i s = .next (emit s e (x.consumeMark i k) ta tb (some (bare k)) (some (bare k)))) ∧
      (Ungated s e x → l.kind = .data → r.kind.isMark = true →
        Answers i s (fun s' => (getSlot s' e.t e.n).l = some l ∧ (getSlot s' e.t e.n).r = some r ∧
          (getSlot s' e.t e.n).misRaised = true) ∧
      (x.misRaised = false → exec i s = .next (raiseUnit (setSlot s e.t e.n { x with misRaised := true }) e 0 Cause.markmis)) ∧
      (x.misRaised = true → exec i s = .next s))) ∧
  (∀ (i : Instr) (s : State) (e : Env) (x : Slot) (ta tb : Target) (y : ETy) (q : Pos) (tok : Token),
    HeaderOp i ta tb y → SlotIn s e x → x.hdrOut = none → HeaderIn x q tok →
    (hdrRefused tok.data = true →
      exec i s = .next (raiseUnit (setSlot s e.t e.n ((x.setLatch q none).setHdr q (some hdrBad))) e 0 Cause.sheafhdr)) ∧
    (∀ sc s1 va, hdrRefused tok.data = false → hdrScales s e x.fills tok.data = (.ok sc, s1, va) →
      (y.accepts (hdrOf tok.data sc) = false → exec i s = .next (raiseUnit (setSlot s1 e.t e.n
        ((({ x with fills := [] } : Slot).setLatch q none).setHdr q (some hdrBad))) e 0 Cause.fmtmis)) ∧
      (y.accepts (hdrOf tok.data sc) = true → exec i s = .next (setSlot s1 e.t e.n
        { (({ x with fills := [] } : Slot).setLatch q none).setHdr q (some (hdrOf tok.data sc)) with
          hdrOut := if q = .l then some (rewritten (y.code (hdrOf tok.data sc)) (hdrOf tok.data sc).count) else none }))) ∧
    (∀ c s1 va, hdrRefused tok.data = false → hdrScales s e x.fills tok.data = (.fault c, s1, va) →
      exec i s = .next (holdSlot s1 e x c va (scaleLanes tok.data va) false))) ∧
  (∀ (i : Instr) (s : State) (e : Env) (x : Slot) (ta tb : Target) (y : ETy) (tok : Token),
    HeaderOp i ta tb y → SlotIn s e x → x.hdrOut = some tok → bothFree s e.t e.n ta tb = true →
    exec i s = .next (emit s e { x with hdrOut := none } ta tb (some tok) (some tok))) ∧
  (∀ f n : Nat, f < 256 → n < 2 ^ 32 → (rewritten f n).kind = .header ∧ (rewritten f n).data.toNat = n * 2 ^ 32 + f)

/-- R184, R316, R322, R323: each float operation computes exactly from its operands' values, rounds once to the lane format, and
charges the events; f8 data without a header is FMTMIS and counts as poison. The model's reading: logs 7, 18, 27, 59 and 61. -/
def Obligations.ElementFloat : Prop :=
  ∀ (s : State) (e : Env) (x : Slot) (m : FMod) (ta tb : Target) (l : Token), SlotAt s e x ta tb → Ungated s e x → DataL x l →
    (∀ i fn fl fr r, fltPair i = some (m, ta, tb, fn) → DataR x r → (fmodTy m).fmt x.hl = some fl → (fmodTy m).fmt x.hr = some fr →
      Fires i s e x ta tb
        (some (tokOf fl.width l.pred (roundAll fl e.sat8 (zipVal fn (valList fl x.hl l).1 (valList fr x.hr r).1)).1))
        (some (tokOf fl.width l.pred (roundAll fl e.sat8 (zipVal fn (valList fl x.hl l).1 (valList fr x.hr r).1)).1))
        ((valList fl x.hl l).2 ++ (valList fr x.hr r).2 ++
          (roundAll fl e.sat8 (zipVal fn (valList fl x.hl l).1 (valList fr x.hr r).1)).2)) ∧
    (∀ i fn fl, fltOne i = some (m, ta, tb, fn) → (fmodTy m).fmt x.hl = some fl →
      Fires i s e x ta tb
        (some (tokOf fl.width l.pred (roundAll fl e.sat8 ((valList fl x.hl l).1.map (fun v => v.map fn))).1))
        (some (tokOf fl.width l.pred (roundAll fl e.sat8 ((valList fl x.hl l).1.map (fun v => v.map fn))).1))
        ((valList fl x.hl l).2 ++ (roundAll fl e.sat8 ((valList fl x.hl l).1.map (fun v => v.map fn))).2)) ∧
    (∀ i fn r, fltPair i = some (.f8, ta, tb, fn) → DataR x r → x.hl = none →
      exec i s = .next (raiseUnit (emit s e (x.skip i) ta tb (some (bare .poison)) (some (bare .poison))) e 0 Cause.fmtmis)) ∧
    (∀ fl fr r, DataR x r → (fmodTy m).fmt x.hl = some fl → (fmodTy m).fmt x.hr = some fr →
      ∃ tok evs, Fires (.fcmp m ta tb) s e x ta tb (some tok) (some tok) evs ∧ tok.kind = .data ∧
        tok.data = (tokOf fl.width false (((valList fl x.hl l).1.zip (valList fr x.hr r).1).map (fun ab => match ab with
          | (some u, some v) => some (if fcmpHolds (x.const.toNat % 8) u v then 2 ^ fl.width - 1 else 0)
          | _ => none))).data)

/-- R316, R318, R337: an accumulating operation with data adds to its accumulator and is consumed; with RUN it sends the accumulator on,
without it sends nothing. Poison, and f8 data without a header, which is FMTMIS, poison the accumulator. A marker that closes its level sends the
accumulator, then goes on with the accumulator cleared; any other goes on. The model's reading: logs 18 and 27. -/
def Obligations.ElementAccumulate : Prop :=
  (∀ (s : State) (e : Env) (x : Slot) (ta tb : Target) (l r : Token), SlotAt s e x ta tb → Ungated s e x → DataL x l →
    (∀ m fl fr c, DataR x r → (fmodTy m).fmt x.hl = some fl → (fmodTy m).fmt x.hr = some fr →
      c = roundAll fl e.sat8 (((zipVal mulV (valList fl x.hl l).1 (valList fr x.hr r).1).zip (accVals fl x)).map (fun pc =>
        pc.1.map (fun p => ((addV pc.2 p.1).1, p.2 ++ (addV pc.2 p.1).2)))) →
      ∃ y a, exec (.fmac m ta tb) s = .next (countEvents (emit s e y ta tb a a) e.ctx e.t
          ((valList fl x.hl l).2 ++ (valList fr x.hr r).2 ++ c.2)) ∧
        y = { x.consume (.fmac m ta tb) with acc := (foldAcc fl.width x c.1).acc, accLive := (foldAcc fl.width x c.1).accLive } ∧
        SendsAcc x y fl.width l.pred a) ∧
    (∀ m w sg, lmodTy m = .int w sg →
      ∃ y a, exec (.acc m ta tb) s = .next (countEvents (emit s e y ta tb a a) e.ctx e.t []) ∧
        y = { x.consume (.acc m ta tb) with acc := y.acc, accLive := y.accLive } ∧ SendsAcc x y w l.pred a ∧
        ∀ p, p < 512 / w → y.accLive.getLsbD p = (x.accLive.getLsbD p || (nth none (posList w x.hl l) p).isSome) ∧
          posBits y.acc w p = (match nth none (posList w x.hl l) p with
            | some v => (posBits x.acc w p + v) % 2 ^ w
            | none => posBits x.acc w p)) ∧
    (∀ m fl c, (∀ w sg, lmodTy m ≠ .int w sg) → (lmodTy m).fmt x.hl = some fl →
      c = roundAll fl e.sat8 (((valList fl x.hl l).1.zip (accVals fl x)).map (fun vc => vc.1.map (fun v => addV vc.2 v))) →
      ∃ y a, exec (.acc m ta tb) s = .next (countEvents (emit s e y ta tb a a) e.ctx e.t ((valList fl x.hl l).2 ++ c.2)) ∧
        y = { x.consume (.acc m ta tb) with acc := (foldAcc fl.width x c.1).acc, accLive := (foldAcc fl.width x c.1).accLive } ∧
        SendsAcc x y fl.width l.pred a) ∧
    (∀ i, (i = .fmac .f8 ta tb ∧ DataR x r ∧ (x.hl = none ∨ x.hr = none)) ∨ (i = .acc (.f .f8) ta tb ∧ x.hl = none) →
      ∀ a, a = (if accRun x then some (bare .poison) else none) →
        exec i s = .next (raiseUnit (emit s e { x.skip i with accPoison := true } ta tb a a) e 0 Cause.fmtmis))) ∧
  (∀ (i : Instr) (s : State) (e : Env) (x : Slot) (ta tb : Target) (w : Nat) (k : TokKind),
    accOp i = some (ta, tb, w) → SlotAt s e x ta tb → Ungated s e x →
    (∀ l a, x.l = some l → l.kind = .poison → ((readsOf i).2 = true → ∃ r, x.r = some r ∧ r.kind.isData = true) →
      a = (if accRun x then some (bare .poison) else none) →
      exec i s = .next (emit s e { x.skip i with accPoison := true } ta tb a a)) ∧
    (MarksIn i x k →
      (closes (x.const.toNat % 4) k = false →
        exec i s = .next (emit s e (x.consumeMark i k) ta tb (some (bare k)) (some (bare k)))) ∧
      (closes (x.const.toNat % 4) k = true → x.sub = 0 →
        exec i s = .next (emit s e { x with sub := 1 } ta tb (some (accToken w false x)) (some (accToken w false x)))) ∧
      (closes (x.const.toNat % 4) k = true → x.sub ≠ 0 →
        exec i s = .next (emit s e (({ x with acc := 0, accLive := 0, accPoison := false } : Slot).consumeMark i k) ta tb
          (some (bare k)) (some (bare k))))))

/-- R171 to R173, R326 to R329: CVT, QUANT and DEQ convert the positions of their output token by the constant's formats, the
generator moving on; PACK moves lanes, and UNPACK in a firing for each of its tokens; TUNP sends trits 64 at a time, five tokens for one. The model's reading: logs
18, 52 and 60. -/
def Obligations.ElementConversion : Prop :=
  ∀ (s : State) (e : Env) (x : Slot) (ta tb : Target) (l r : Token), SlotAt s e x ta tb → Ungated s e x → DataL x l →
    (∀ sat rm src, cvtSource x.const.toNat x.hl = some src →
      ∃ y evs, y.rng = (convertAll (x.const.toNat / 256 % 256) rm (sat || e.sat8) x.rng
            (outPart (fmtWidth (x.const.toNat / 256 % 256)) x.sub (sourceNums src x.hl l).1)).2.2 ∧
        exec (.cvt sat rm ta tb) s = .next (countEvents (emit s e y ta tb
          (some (tokOf (fmtWidth (x.const.toNat / 256 % 256)) l.pred (convertAll (x.const.toNat / 256 % 256) rm (sat || e.sat8) x.rng
            (outPart (fmtWidth (x.const.toNat / 256 % 256)) x.sub (sourceNums src x.hl l).1)).1))
          (some (tokOf (fmtWidth (x.const.toNat / 256 % 256)) l.pred (convertAll (x.const.toNat / 256 % 256) rm (sat || e.sat8) x.rng
            (outPart (fmtWidth (x.const.toNat / 256 % 256)) x.sub (sourceNums src x.hl l).1)).1))) e.ctx e.t evs) ∧
        (outTokens (fmtWidth src) (fmtWidth (x.const.toNat / 256 % 256)) ≤ x.sub + 1 → y.l = none ∧ y.sub = 0 ∧
          y = { x.consume (.cvt sat rm ta tb) with rng := y.rng }) ∧
        (x.sub + 1 < outTokens (fmtWidth src) (fmtWidth (x.const.toNat / 256 % 256)) → y.l = some l ∧ y.sub = x.sub + 1 ∧
          y = { x with sub := x.sub + 1, rng := y.rng })) ∧
    (∀ i sat rm inv src, (i, inv) = (.quant sat rm ta tb, true) ∨ (i, inv) = (.deq sat rm ta tb, false) → DataR x r →
      cvtSource x.const.toNat x.hl = some src → r.mask.getLsbD 0 = true → (∀ h, x.hr = some h → h.idx < h.count) → r.data.toNat % 256 ≠ 255 →
      ∃ y evs, y = { (if x.sub + 1 < outTokens (fmtWidth src) (fmtWidth (x.const.toNat / 256 % 256)) then { x with sub := x.sub + 1 }
            else x.consume i : Slot) with rng := (convertAll (x.const.toNat / 256 % 256) rm (sat || e.sat8) x.rng
              ((outPart (fmtWidth (x.const.toNat / 256 % 256)) x.sub (sourceNums src x.hl l).1).map (fun p => p.map (scaleNum
                (if inv then 127 - Int.ofNat (r.data.toNat % 256) else Int.ofNat (r.data.toNat % 256) - 127))))).2.2 } ∧
        exec i s = .next (countEvents (emit s e y ta tb
          (some (tokOf (fmtWidth (x.const.toNat / 256 % 256)) l.pred (convertAll (x.const.toNat / 256 % 256) rm (sat || e.sat8) x.rng
            ((outPart (fmtWidth (x.const.toNat / 256 % 256)) x.sub (sourceNums src x.hl l).1).map (fun p => p.map (scaleNum
              (if inv then 127 - Int.ofNat (r.data.toNat % 256) else Int.ofNat (r.data.toNat % 256) - 127))))).1))
          (some (tokOf (fmtWidth (x.const.toNat / 256 % 256)) l.pred (convertAll (x.const.toNat / 256 % 256) rm (sat || e.sat8) x.rng
            ((outPart (fmtWidth (x.const.toNat / 256 % 256)) x.sub (sourceNums src x.hl l).1).map (fun p => p.map (scaleNum
              (if inv then 127 - Int.ofNat (r.data.toNat % 256) else Int.ofNat (r.data.toNat % 256) - 127))))).1))) e.ctx e.t evs)) ∧
    (DataR x r → ∃ tok, Fires (.pack ta tb) s e x ta tb (some tok) (some tok) [] ∧
      (x.const.toNat ≤ 32 → Positions tok 32 l.pred (fun p => if p < x.const.toNat / 4 then
          (if l.mask.getLsbD p then some (posBits l.data 32 p) else none)
        else if p < 2 * (x.const.toNat / 4) then
          (if r.mask.getLsbD (p - x.const.toNat / 4) then some (posBits r.data 32 (p - x.const.toNat / 4)) else none)
        else none))) ∧
    (x.sub = 0 → ∃ a, exec (.unpack ta tb) s = .next (emit s e { x with sub := 1 } ta tb (some a) none) ∧
      (x.const.toNat ≤ 32 → Positions a 32 l.pred (fun p => if p < x.const.toNat / 4 ∧ l.mask.getLsbD p = true
          then some (posBits l.data 32 p) else none))) ∧
    (x.sub ≠ 0 → ∃ b, exec (.unpack ta tb) s = .next (emit s e (x.consume (.unpack ta tb)) ta tb none (some b)) ∧
      (x.const.toNat ≤ 32 → Positions b 32 l.pred (fun p => if p < x.const.toNat / 4 ∧ l.mask.getLsbD (p + x.const.toNat / 4) = true
          then some (posBits l.data 32 (p + x.const.toNat / 4)) else none))) ∧
    (e.ttrap = false → ∃ y tok evs, exec (.tunp ta tb) s = .next (countEvents (emit s e y ta tb (some tok) (some tok)) e.ctx e.t evs) ∧
      (x.sub < 4 → y.l = some l ∧ y.sub = x.sub + 1) ∧ (4 ≤ x.sub → y.l = none) ∧
      (x.hl = none → Positions tok 8 l.pred (fun p => if l.mask.getLsbD ((64 * x.sub + p) / 20) then
        some (wrapTo 8 (nth 0 (tritsOf (posBits l.data 8 ((64 * x.sub + p) / 5))) ((64 * x.sub + p) % 5))) else none)))

/-- R183, R330 to R333: the lane reductions leave one value in position 0 (the exact sum's low 32 bits, the greatest, the
least; for floats the tree's result rounded); LSCAN leaves the running sums. The model's reading: logs 18 and 60. -/
def Obligations.ElementReductions : Prop :=
  ∀ (s : State) (e : Env) (x : Slot) (m : LMod) (ta tb : Target) (l : Token), SlotAt s e x ta tb → Ungated s e x → DataL x l →
    (∀ w sg, lmodTy m = .int w sg →
      (∃ tok, Fires (.lsum m ta tb) s e x ta tb (some tok) (some tok) [] ∧ Positions tok 32 l.pred (fun p => if p = 0 then
        some (wrapTo 32 ((posList w x.hl l).filterMap (fun p => p.map (readAs w sg))).sum) else none)) ∧
      (∃ tok, Fires (.lmax m ta tb) s e x ta tb (some tok) (some tok) [] ∧ Positions tok w l.pred (fun p => if p = 0 then
        some (wrapTo w (((posList w x.hl l).filterMap (fun p => p.map (readAs w sg))).foldl max
          (if sg then -(2 ^ (w - 1)) else 0))) else none)) ∧
      (∃ tok, Fires (.lmin m ta tb) s e x ta tb (some tok) (some tok) [] ∧ Positions tok w l.pred (fun p => if p = 0 then
        some (wrapTo w (((posList w x.hl l).filterMap (fun p => p.map (readAs w sg))).foldl min
          (if sg then 2 ^ (w - 1) - 1 else 2 ^ w - 1))) else none)) ∧
      (∃ tok, Fires (.lscan m ta tb) s e x ta tb (some tok) (some tok) [] ∧ Positions tok w l.pred (fun p =>
        (nth none (posList w x.hl l) p).map (fun _ => (((posList w x.hl l).take (p + 1)).filterMap id).sum % 2 ^ w)))) ∧
    (∀ f, (∀ w sg, lmodTy m ≠ .int w sg) → (lmodTy m).fmt x.hl = some f →
      (∀ i k, (i, k) = (.lsum m ta tb, LRed.sum) ∨ (i, k) = (.lmax m ta tb, LRed.max) ∨ (i, k) = (.lmin m ta tb, LRed.min) →
        ∃ evs, Fires i s e x ta tb
          (some (laneZero f.width l.pred (f.encode (roundVal f e.sat8 (fltReduce k f e.sat8 (valList f x.hl l).1)).1)))
          (some (laneZero f.width l.pred (f.encode (roundVal f e.sat8 (fltReduce k f e.sat8 (valList f x.hl l).1)).1))) evs) ∧
      (∃ evs, Fires (.lscan m ta tb) s e x ta tb
        (some (tokOf f.width l.pred (scanFlt f e.sat8 none (valList f x.hl l).1).1))
        (some (tokOf f.width l.pred (scanFlt f e.sat8 none (valList f x.hl l).1).1)) evs))

/-- R316, R333, R334: LSHUF takes each position from the one that R names, LBCAST all of them from the constant's; LCMPR packs the
positions whose partner in R is not zero and tells their number; WINNOW sends, in a firing for each group of up to 16 of the positions
that are not zero, their indices from its counter on and their values, and moves the counter on with the token; a marker of its level
sets the counter back. f8 data without a header is FMTMIS and counts as poison. The model's reading: logs 18 and 60. -/
def Obligations.ElementLanes : Prop :=
  (∀ (s : State) (e : Env) (x : Slot) (m : LMod) (ta tb : Target) (l r : Token), SlotAt s e x ta tb → Ungated s e x → DataL x l →
    lacksHeader (lmodTy m) x.hl = false →
    (DataR x r → lacksHeader (lmodTy m) x.hr = false →
      (∃ evs, Fires (.lshuf m ta tb) s e x ta tb
        (some (tokOf (lmodTy m).width l.pred ((posList (lmodTy m).width x.hr r).map (fun q => q.bind (fun v =>
          nth none (carried (lmodTy m) e.sat8 x.hl l).1 (v % (lmodTy m).count))))))
        (some (tokOf (lmodTy m).width l.pred ((posList (lmodTy m).width x.hr r).map (fun q => q.bind (fun v =>
          nth none (carried (lmodTy m) e.sat8 x.hl l).1 (v % (lmodTy m).count)))))) evs) ∧
      (∃ evs, Fires (.lcmpr m ta tb) s e x ta tb
        (some (tokOf (lmodTy m).width l.pred (packed (lmodTy m) e x l r ++ List.replicate ((lmodTy m).count - (packed (lmodTy m) e x l r).length) none)))
        (some (laneZero 32 l.pred (packed (lmodTy m) e x l r).length)) evs)) ∧
    (∃ evs, Fires (.lbcast m ta tb) s e x ta tb
      (some (tokOf (lmodTy m).width l.pred (List.replicate (lmodTy m).count
        (nth none (carried (lmodTy m) e.sat8 x.hl l).1 (x.const.toNat % 64 % (lmodTy m).count)))))
      (some (tokOf (lmodTy m).width l.pred (List.replicate (lmodTy m).count
        (nth none (carried (lmodTy m) e.sat8 x.hl l).1 (x.const.toNat % 64 % (lmodTy m).count))))) evs) ∧
    (∀ z, z = (if (winnowed (lmodTy m) x l).length ≤ 16 * (x.sub + 1)
        then { x.consume (.winnow m ta tb) with acc := BitVec.ofNat 512 ((x.acc.toNat % 2 ^ 32 + (lmodTy m).count) % 2 ^ 32) }
        else { x with sub := x.sub + 1 } : Slot) →
      (((winnowed (lmodTy m) x l).drop (16 * x.sub)).take 16 = [] →
        ∃ evs, exec (.winnow m ta tb) s = .next (countEvents (setSlot s e.t e.n z) e.ctx e.t evs)) ∧
      (∀ g, ((winnowed (lmodTy m) x l).drop (16 * x.sub)).take 16 = g → g ≠ [] →
        ∃ a evs, exec (.winnow m ta tb) s = .next (countEvents (emit s e z ta tb (some a) (some (tokOf (lmodTy m).width l.pred
            (g.map (fun p => nth none (carried (lmodTy m) e.sat8 x.hl l).1 p) ++ List.replicate ((lmodTy m).count - g.length) none))))
            e.ctx e.t evs) ∧
          Positions a 32 l.pred (fun q => g[q]?.map (fun p => (x.acc.toNat % 2 ^ 32 + p) % 2 ^ 32))))) ∧
  (∀ (s : State) (e : Env) (x : Slot) (m : LMod) (ta tb : Target) (i : Instr) (l : Token),
    SlotAt s e x ta tb → Ungated s e x → DataL x l → i ∈ [.lshuf m ta tb, .lbcast m ta tb, .lcmpr m ta tb, .winnow m ta tb] →
    ((readsOf i).2 = true → ∃ r, DataR x r) →
    (lacksHeader (lmodTy m) x.hl = true ∨ (readsOf i).2 = true ∧ lacksHeader (lmodTy m) x.hr = true) →
    exec i s = .next (raiseUnit (emit s e (x.skip i) ta tb (some (bare .poison)) (some (bare .poison))) e 0 Cause.fmtmis)) ∧
  (∀ (s : State) (e : Env) (x : Slot) (m : LMod) (ta tb : Target) (k : TokKind),
    SlotAt s e x ta tb → Ungated s e x → MarksIn (.winnow m ta tb) x k → ∀ y, y = (if closes (x.const.toNat / 2 ^ 28 % 4) k
      then { x with acc := BitVec.ofNat 512 (x.const.toNat % 2 ^ 28) } else x : Slot) →
    exec (.winnow m ta tb) s = .next (emit s e (y.consumeMark (.winnow m ta tb) k) ta tb (some (bare k)) (some (bare k))))

/-- R336, R338, R339: PASS sends L as it is; CONST the constant in L's live lanes; SJOIN acts by the entry that the keys' order
selects; IOTA sends its next numbers, and EOS after the last. The model's reading: log 19, and PRED 0 of IOTA's tokens (log 151). -/
def Obligations.ElementStreams : Prop :=
  ∀ (s : State) (e : Env) (x : Slot) (ta tb : Target), SlotAt s e x ta tb →
    (∀ l, Ungated s e x → DataL x l →
      Fires (.pass ta tb) s e x ta tb (some l) (some l) [] ∧
      ∃ tok, Fires (.const ta tb) s e x ta tb (some tok) (some tok) [] ∧
        Positions tok 32 l.pred (fun p => if l.mask.getLsbD p then some x.const.toNat else none)) ∧
    (∀ m l r a b, Ungated s e x → DataL x l → DataR x r → lacksHeader (lmodTy m) x.hl = false →
      lacksHeader (lmodTy m) x.hr = false → keyOf (lmodTy m) x.hl l = some a → keyOf (lmodTy m) x.hr r = some b →
      keyCmp a b = .lt → x.const.toNat % 256 = 0x11 →
      ∃ y evs, exec (.sjoin m ta tb) s = .next (countEvents (emit s e y ta tb (some l) none) e.ctx e.t evs) ∧ y.l = none ∧ y.r = some r ∧ y.cnt = x.cnt) ∧
    (∀ m, x.ended = false → e.edges ≤ x.edge → x.const.toNat ≤ x.cnt →
      ∃ y, exec (.iota m ta tb) s = .next (emit s e y ta tb (some (bare .eos)) (some (bare .eos))) ∧ y.ended = true) ∧
    (∀ m w sg, lmodTy m = .int w sg → x.ended = false → e.edges ≤ x.edge → x.cnt < x.const.toNat → pBound s e.t e.n = false →
      ∃ y tok, exec (.iota m ta tb) s = .next (countEvents (emit s e y ta tb (some tok) (some tok)) e.ctx e.t []) ∧
        y.cnt = x.cnt + 512 / w ∧
        Positions tok w false (fun p => if x.cnt + p < x.const.toNat then some ((x.cnt + p) % 2 ^ w) else none)) ∧
    (∀ m f c, lmodTy m = .flt f c → x.ended = false → e.edges ≤ x.edge → x.cnt < x.const.toNat → pBound s e.t e.n = false →
      ∃ y evs, exec (.iota m ta tb) s = .next (countEvents (emit s e y ta tb (some (iotaToken (lmodTy m) x.const.toNat x.cnt).1)
        (some (iotaToken (lmodTy m) x.const.toNat x.cnt).1)) e.ctx e.t evs) ∧ y.cnt = x.cnt + 512 / f.width) ∧
    (∀ m, x.ended = false → x.edge < e.edges →
      ∃ y, exec (.iota m ta tb) s = .next (emit s e y ta tb (some (bare .round)) (some (bare .round))) ∧ y.edge = x.edge + 1)

/-- R340 to R345: a memory port operation with data, its first lane live, issues its access where the checks pass; the latches stay
until the access is performed. With lane 0 masked it makes no access and is done. MEMORY_PORT_COMPLETE performs the oldest
access of its port: a load's targets take the 64 bytes as a token of live lanes, a store writes R's live lanes, AMO and RDX
combine; a cause holds the slot. The model's reading: logs 54, 62, 63, 118 and 152. -/
def Obligations.PortForms : Prop :=
  (∀ (i : Instr) (k : PortKind) (d : Dir) (s : State) (e : Env) (x : Slot) (l : Token),
    portKind i = some k → portDir i = some d → SlotAt s e x (portTargets i).1 (portTargets i).2 → Ungated s e x → DataL x l →
    ((readsOf i).2 = true → ∃ r, DataR x r) → x.ops = [] →
    (l.mask.getLsbD 0 = false → exec i s = .next (portFinish s e x i k none)) ∧
    (∀ p, l.mask.getLsbD 0 = true → portEmpty k x = false → portHeld s e.t (dirNat d) = false →
      translate s (elemWho e) (portVA l (portDisp k x)) (portPerm i k) = .ok p →
      inWindow p.1 = true → neighbour e.t (dirNat d) = some (windowTid p.1) →
      (portVA l (portDisp k x)).toNat % portAlign k x = 0 →
      Answers i s (fun s' => s'.st = s.st ∧ s'.cores = s.cores ∧ (getSlot s' e.t e.n).l = some l ∧
        (getSlot s' e.t e.n).ops =
          [⟨portVA l (portDisp k x), p.1, p.2, hasPI s (elemWho e) (portVA l (portDisp k x)), s.clk.cycle⟩]))) ∧
  (∀ (s : State) (e : Env) (x : Slot) (i : Instr) (k : PortKind) (d : Dir) (p : PortOp) (ps : List PortOp),
    envOf s (s.op 0) (s.op 1) = some e → getSlot s (s.op 0) (s.op 1) = x → x.ops = p :: ps → decodeElem x.word = .ok i →
    portKind i = some k → portDir i = some d → x.held = none → p.ia ≠ 0 → portEarlier s (s.op 0) (dirNat d) p.since = false →
    bothFree s (s.op 0) (s.op 1) (portTargets i).1 (portTargets i).2 = true → portFifo s e.ctx k p.ia = .ok none →
    (∀ bs s1, k = .ldt ∨ k = .ldo → iaAccess s (portWho s e x p) p.ia p.cls (.read 64) = (.ok bs, s1) →
      exec .memoryPortComplete s = .next (countEvents (portFinish s1 e x i k
        (some ⟨.data, BitVec.allOnes 16, false, BitVec.ofNat 512 (ofBytes bs)⟩)) e.ctx e.t [])) ∧
    (∀ bs s1, k = .stt ∨ k = .sto → iaPerform s (elemWho e) p.ia p.cls (.write (laneBytes (tokIn x.r))) = (.ok bs, s1) →
      exec .memoryPortComplete s = .next (countEvents (portFinish s1 e x i k none) e.ctx e.t [])) ∧
    (∀ old s1, k = .amo → iaPerform s (elemWho e) p.ia p.cls
        (.rmw (amoSize x) false [] (fun old => bytesOf (amoSize x) (amoNew x (ofBytes old)).1)) = (.ok old, s1) →
      ∃ tok, exec .memoryPortComplete s = .next (countEvents (portFinish s1 e x i k (some tok)) e.ctx e.t
          (amoNew x (ofBytes old)).2) ∧
        (amoSize x ≠ 8 → Positions tok 32 (tokIn x.l).pred (fun q => if q = 0 then some (ofBytes old % 2 ^ 32) else none))) ∧
    (∀ old s1, k = .rdx → rowMeetsFifo s p.ia 64 = false →
      iaPerform s (elemWho e) p.ia p.cls (.rmw 64 true [] (fun old => (rdxNew x old).1)) = (.ok old, s1) →
      exec .memoryPortComplete s = .next (countEvents (portFinish s1 e x i k none) e.ctx e.t (rdxNew x old).2)) ∧
    (∀ c s1, k = .ldt ∨ k = .ldo → iaAccess s (portWho s e x p) p.ia p.cls (.read 64) = (.fault c, s1) →
      exec .memoryPortComplete s = .next (holdSlot s1 e x c p.va (BitVec.allOnes 16) false)))

/-! ### Fragments -/

/-- R181, R362 to R366: MWLD takes two rows a token into the back buffer and makes it ready with the tile's last; MFEED passes two
rows through the active buffer, the first of a tile swapping a ready one in, holds a 33rd row, and closes the tile at a marker;
MDRAIN sends the header and C's rows; MZERO clears; MWIN sets the window. The model's reading: log 67. -/
def Obligations.MatrixForms : Prop :=
  ∀ (s : State) (e : Env) (x : Slot) (ta tb : Target) (l : Token),
    (∀ h w n, MatrixAt s e x ta tb l → x.hl = some h → (getFrag s e.t).backReady = false →
      w = (if x.cnt = 0 then ⟨h.fmt, [], false⟩ else (getFrag s e.t).back : WTile) → n = (if isB8 w.fmt then 16 else 8) →
      (x.cnt + 1 ≠ n → ∃ s1, exec (.mwld ta tb) s = .next (countEvents s1 e.ctx e.t (tokenEvents h l)) ∧
        s1.st = s.st ∧ s1.cores = s.cores ∧
        getFrag s1 e.t = { getFrag s e.t with back := { w with rows := w.rows ++ tokenRows h l } } ∧
        (getSlot s1 e.t e.n).l = none ∧ (getSlot s1 e.t e.n).cnt = x.cnt + 1) ∧
      (x.cnt + 1 = n → ∃ s1 y, exec (.mwld ta tb) s = .next (countEvents
          (emit s1 e y ta tb (some (bare .done)) (some (bare .done))) e.ctx e.t (tokenEvents h l)) ∧
        s1.st = s.st ∧ s1.cores = s.cores ∧ y.l = none ∧ y.cnt = 0 ∧ y.tiles = x.tiles + 1 ∧
        getFrag s1 e.t = { getFrag s e.t with back := { w with rows := w.rows ++ tokenRows h l }, backReady := true })) ∧
    (∀ h w f, MatrixAt s e x ta tb l → x.hl = some h → (x.cnt = 0 ∨ x.cnt = 3) →
      f = (if x.cnt = 0 ∧ (getFrag s e.t).backReady = true then
          { getFrag s e.t with active := some (getFrag s e.t).back, back := (getFrag s e.t).active.getD WTile.reset, backReady := false }
        else getFrag s e.t) →
      f.active = some w → sameClass w h = true → (nth [] (tokenRows h l) 0).all Option.isNone = false →
      (f.m < 31 → (nth [] (tokenRows h l) 1).all Option.isNone = false →
        Answers (.mfeed ta tb) s (fun s' => s'.cores = s.cores ∧ (getSlot s' e.t e.n).l = none ∧ (getSlot s' e.t e.n).cnt = 3 ∧
          getFrag s' e.t = (passRow (passRow f w (nth [] (tokenRows h l) 0)).1 w (nth [] (tokenRows h l) 1)).1)) ∧
      (f.m = 32 → Answers (.mfeed ta tb) s (fun s' => (getSlot s' e.t e.n).l = some l ∧
        ∃ y, (getSlot s' e.t e.n).held = some y ∧ y.cause = Cause.mshape))) ∧
    (∀ k, SlotAt s e x ta tb → Ungated s e x → x.l = some l → l.kind = k → k.isMark = true → k ≠ .round → x.cnt % 2 = 1 →
      fragFree s e = true →
      exec (.mfeed ta tb) s = .next (emit
        (setFrag s e.t { getFrag s e.t with maxM := max (getFrag s e.t).maxM (getFrag s e.t).m, m := 0 }) e
        { x with cnt := 0, tiles := x.tiles + 1 } ta tb (some (bare .done)) (some (bare .done)))) ∧
    (SlotAt s e x ta tb → Ungated s e x → Trigger x l → fragFree s e = true → x.tiles < e.tcount →
      (∀ per tok evs, per = (if x.const.toNat / 2 % 4 = 0 then 2 else 1) →
        ((x.sub = 0 ∧ tok = rewritten (drainFmt x.const.toNat).2 (32 * (getFrag s e.t).maxM) ∧ evs = []) ∨
          (0 < x.sub ∧ (tok, evs) = drainToken (getFrag s e.t) (drainFmt x.const.toNat).1 ((x.sub - 1) / per) ((x.sub - 1) % per))) →
        (x.sub < per * (getFrag s e.t).maxM →
          exec (.mdrain ta tb) s = .next (countEvents (emit s e { x with sub := x.sub + 1 } ta tb (some tok) (some tok)) e.ctx e.t evs)) ∧
        (x.sub = per * (getFrag s e.t).maxM →
          exec (.mdrain ta tb) s = .next (countEvents (emit
            (if x.const.getLsbD 0 then setFrag s e.t { getFrag s e.t with c := [], cPoison := [], maxM := 0 } else s) e
            { x.consume (.mdrain ta tb) with tiles := x.tiles + 1 } ta tb (some tok) (some tok)) e.ctx e.t evs))) ∧
      exec (.mzero ta tb) s = .next (emit
        (setFrag s e.t { getFrag s e.t with c := [], cPoison := [], maxM := 0, m := 0 }) e
        { x.consume (.mzero ta tb) with tiles := x.tiles + 1 } ta tb (some (bare .done)) (some (bare .done)))) ∧
    (envOf s s.focus.1 s.focus.2 = some e → getSlot s e.t e.n = x → x.ended = false → e.atStop x.edge = false → x.p = none →
      pBound s e.t e.n = false →
      Answers .mwin s (fun s' => s'.st = s.st ∧ s'.cores = s.cores ∧ (getSlot s' e.t e.n).ended = true ∧
        getFrag s' e.t = { getFrag s e.t with la := x.const.toNat % 4, ls := x.const.toNat / 4 % 4 })) ∧
    (∀ (f : Frag) (w : WTile) (row : List (Option Val)) (n : Nat), f.m < 32 → n < (if isB8 w.fmt then 32 else 16) →
      (passRow f w row).1.c.getD (f.m * 32 + n) 0 = (passCell row (w.col n) (f.c.getD (f.m * 32 + n) 0)).1 ∧
      (passRow f w row).1.m = f.m + 1 ∧
      ∀ j, j < f.m * 32 ∨ f.m * 32 + 32 ≤ j → (passRow f w row).1.c.getD j 0 = f.c.getD j 0)

/-- R369 to R374: MTWID takes N and CONJ, and its done token follows the fill; MHARROW starts a stage whose checks pass, and a bad
one is HARROWARG with poison; a stage whose tile has been read and written sends its token; the radix 2 butterfly and the
rotation by their formulas. The model's reading: log 67. -/
def Obligations.HarrowForms : Prop :=
  ∀ (s : State) (e : Env) (x : Slot) (ta tb : Target) (l : Token),
    (SlotAt s e x ta tb → Ungated s e x → Trigger x l → fragFree s e = true → x.tiles < e.tcount → x.sub = 0 →
      Answers (.mtwid ta tb) s (fun s' => s'.st = s.st ∧ s'.cores = s.cores ∧ getSlot s' e.t e.n = { x with sub := 1 } ∧
        getFrag s' e.t = { getFrag s e.t with n := x.const.toNat % 2 ^ 21, conj := x.const.getLsbD 21, hasN := true })) ∧
    (envOf s (s.op 0) (s.op 1) = some e → getSlot s (s.op 0) (s.op 1) = x → decodeElem x.word = .ok (.mtwid ta tb) → x.sub ≠ 0 →
      bothFree s (s.op 0) (s.op 1) ta tb = true →
      exec .twiddleFillDone s = .next (emit s e { x.consume (.mtwid ta tb) with tiles := x.tiles + 1 } ta tb
        (some (bare .done)) (some (bare .done)))) ∧
    (∀ d, MatrixAt s e x ta tb l → x.ops = [] → stageBad (getFrag s e.t) x = true →
      exec (.mharrow d ta tb) s = .next (raiseUnit (emit s e (({ x with tiles := x.tiles + 1 } : Slot).consume (.mharrow d ta tb)) ta tb
        (some (bare .poison)) (some (bare .poison))) e 0 Cause.harrowarg)) ∧
    (∀ d r q, MatrixAt s e x ta tb l → x.ops = [] → stageBad (getFrag s e.t) x = false → portHeld s e.t (dirNat d) = false →
      harrowByte s e d (portVA l 0) = .ok r → (portVA l 0).toNat % 64 = 0 →
      r.1 % 2 ^ 20 + (stageArgs x).p * pointBytes (stageArgs x).fmt ≤ 2 ^ 20 →
      harrowByte s e d (portVA l 0 + BitVec.ofNat 64 ((stageArgs x).p * pointBytes (stageArgs x).fmt - 1)) = .ok q →
      rowMeetsFifo s r.1 ((stageArgs x).p * pointBytes (stageArgs x).fmt) = false →
      Answers (.mharrow d ta tb) s (fun s' => s'.st = s.st ∧ s'.cores = s.cores ∧
        getSlot s' e.t e.n = { x with ops := [⟨portVA l 0, r.1, r.2, hasPI s (elemWho e) (portVA l 0), s.clk.cycle⟩] })) ∧
    (∀ d p ps ex evs s1, envOf s (s.op 0) (s.op 1) = some e → getSlot s (s.op 0) (s.op 1) = x →
      decodeElem x.word = .ok (.mharrow d ta tb) → x.ops = p :: ps → p.ia ≠ 0 → x.held = none →
      portEarlier s (s.op 0) (dirNat d) p.since = false → bothFree s (s.op 0) (s.op 1) ta tb = true →
      stagePerform s e x p.va = (.ok (ex, evs), s1) →
      exec .harrowStageComplete s = .next (countEvents (emit s1 e
        { x.consume (.mharrow d ta tb) with ops := [], tiles := x.tiles + 1 } ta tb
        (some (if (stageArgs x).scale = 3 then ⟨.data, 1, false, BitVec.ofNat 512 ex⟩ else bare .done))
        (some (if (stageArgs x).scale = 3 then ⟨.data, 1, false, BitVec.ofNat 512 ex⟩ else bare .done))) e.ctx e.t evs)) ∧
    (∀ a b : Cx, (butterfly 2 [a, b]).1 =
      [((roundNear fmt32 (addV a.1 b.1).1).1, (roundNear fmt32 (addV a.2 b.2).1).1),
       ((roundNear fmt32 (addV a.1 b.1.negate).1).1, (roundNear fmt32 (addV a.2 b.2.negate).1).1)]) ∧
    (∀ a w : Cx, (cxRotate a w).1 =
      ((roundNear fmt32 (addV (mulV a.1 w.1).1 (mulV a.2 w.2).1.negate).1).1,
       (roundNear fmt32 (addV (mulV a.1 w.2).1 (mulV a.2 w.1).1).1).1))

/-! ### Operators, links, streams, tiles -/

/-- R349, R350, R354 to R356: STEER, MERGE, SELECT and FILTER move their tokens by the decision; equal markers go in lockstep; DISTRIB
sends a token to one output and notes which, COLLECT takes them back in that order; TAP passes its token and sends an arrival at
an end marker of its level; SEAL ends its stream once it is asked to. The model's reading: log 55. -/
def Obligations.OperatorForms : Prop :=
  ∀ (s : State) (e : Env) (x : OpUnit) (a b d : Token) (c : Bool),
    (UnitAt s 1 e x → Head s e 0 a → Head s e 2 d → Plain a → d.kind = .data → c = (d.pred != bitOf x.recd 4) →
      outFree s e e.n c.toNat = true →
      exec .steer s = .next (outPush (popIn (popIn s e e.n 0) e e.n 2) e e.n c.toNat a)) ∧
    (UnitAt s 1 e x → Head s e 0 a → Head s e 2 d → a.kind.isMark = true → d.kind = a.kind → outsFree s e e.n [0, 1] = true →
      exec .steer s = .next (outAll (setUnit (popIn (popIn s e e.n 0) e e.n 2) e.t e.n (x.passed a.kind)) e e.n [0, 1] (bare a.kind))) ∧
    (UnitAt s 2 e x → Head s e 2 d → d.kind = .data → c = (d.pred != bitOf x.recd 4) → Head s e c.toNat a → Plain a →
      (∀ tok, Head s e (!c).toNat tok → tok.kind ≠ .header) → outFree s e e.n 0 = true →
      exec .merge s = .next (outPush (popIn (popIn s e e.n 2) e e.n c.toNat) e e.n 0 a)) ∧
    (UnitAt s 3 e x → Head s e 0 a → Head s e 1 b → Head s e 2 d → Plain a → Plain b → d.kind = .data →
      c = (d.pred != bitOf x.recd 4) → outFree s e e.n 0 = true →
      exec .select s = .next (outPush (popIn (popIn (popIn s e e.n 0) e e.n 1) e e.n 2) e e.n 0 (if c then b else a))) ∧
    (UnitAt s 7 e x → Head s e 0 a → a.kind = .data → a.pred = bitOf x.recd 4 → exec .filter s = .next (popIn s e e.n 0)) ∧
    (UnitAt s 7 e x → Head s e 0 a → (a.kind ≠ .data ∨ a.pred ≠ bitOf x.recd 4) → outFree s e e.n 0 = true →
      exec .filter s = .next (outPush (setUnit (popIn s e e.n 0) e.t e.n (x.passed a.kind)) e e.n 0 a)) ∧
    (UnitAt s 8 e x → x.ring.length < 256 → bitsOf x.recd 5 4 = 0 → Head s e 0 a → Head s e 2 d → Plain a → d.kind = .data →
      outFree s e e.n d.pred.toNat = true →
      exec .distrib s = .next (popIn (outPush (setUnit (popIn s e e.n 0) e.t e.n { x with ring := x.ring ++ [d.pred.toNat] }) e e.n
        d.pred.toNat a) e e.n 2)) ∧
    (UnitAt s 8 e x → x.ring.length < 256 → bitsOf x.recd 5 4 = 1 → Head s e 0 a → Plain a → outFree s e e.n x.toggle.toNat = true →
      exec .distrib s = .next (outPush (setUnit (popIn s e e.n 0) e.t e.n
        { x with ring := x.ring ++ [x.toggle.toNat], toggle := !x.toggle }) e e.n x.toggle.toNat a)) ∧
    (UnitAt s 8 e x → x.ring.length < 256 → 2 ≤ bitsOf x.recd 5 4 → Head s e 0 a → Plain a →
      (outFree s e e.n 0 = true ∨ outFree s e e.n 1 = true) →
      exec .distrib s = .next (outPush (setUnit (popIn s e e.n 0) e.t e.n
        { x with ring := x.ring ++ [if outFree s e e.n 0 then 0 else 1] }) e e.n (if outFree s e e.n 0 then 0 else 1) a)) ∧
    (∀ o rest, UnitAt s 9 e x → (getUnit s e.t (bitsOf x.recd 5 4)).ring = o :: rest → o < 2 → Head s e o a →
      outFree s e e.n 0 = true →
      exec .collect s = .next (outPush (setUnit (popIn s e e.n o) e.t (bitsOf x.recd 5 4)
        { getUnit (popIn s e e.n o) e.t (bitsOf x.recd 5 4) with ring := rest }) e e.n 0 a)) ∧
    (UnitAt s 10 e x → Head s e 0 a → a.kind.isMark = false → outFree s e e.n 0 = true →
      exec .tap s = .next (outPush (setUnit (popIn s e e.n 0) e.t e.n (x.passed a.kind)) e e.n 0 a)) ∧
    (UnitAt s 10 e x → Head s e 0 a → outFree s e e.n 0 = true →
      (a.kind = .eos ∨ (0 < bitsOf x.recd 7 6 ∧ (∃ l, a.kind = endOf l ∧ bitsOf x.recd 7 6 ≤ l ∧ l < 4)) →
        Answers .tap s (fun s' => s'.bar.arrivals = s.bar.arrivals ++
          [⟨bitsOf x.recd 63 32, if bitsOf x.recd 31 8 = 0 then 1 else bitsOf x.recd 31 8, e.ctx, e.lid, .tap e.t e.n⟩] ∧
          s' = { outPush (setUnit (popIn s e e.n 0) e.t e.n (x.passed a.kind)) e e.n 0 a with bar := s'.bar })) ∧
      (a.kind = .round ∨ (∃ l, a.kind = endOf l ∧ 0 < l ∧ l < 4 ∧ (bitsOf x.recd 7 6 = 0 ∨ l < bitsOf x.recd 7 6)) →
        exec .tap s = .next (outPush (setUnit (popIn s e e.n 0) e.t e.n (x.passed a.kind)) e e.n 0 a))) ∧
    (UnitAt s 11 e x → headOf s e e.n 2 = none → x.isSealed = false → x.sealReq = true → bitsOf x.recd 5 4 = 0 → x.eosA = false →
      outFree s e e.n 0 = true →
      exec .sealOperator s = .next (outPush (setUnit s e.t e.n { x with isSealed := true, eosOut := true }) e e.n 0 (bare .eos))) ∧
    (UnitAt s 11 e x → headOf s e e.n 2 = none → x.isSealed = false → x.sealReq = false → Head s e 0 a →
      outFree s e e.n 0 = true →
      exec .sealOperator s = .next (outPush (setUnit (popIn s e e.n 0) e.t e.n { x.passed a.kind with eosA := a.kind == .eos }) e e.n 0 a)) ∧
    (UnitAt s 11 e x → Head s e 2 d → d.kind = .data → d.pred = true → x.eosA = false →
      exec .sealOperator s = .next (setUnit (popIn s e e.n 2) e.t e.n { x with sealReq := true }))

/-- R351 to R353, R357, R358: CARRY takes a token in and goes round by its decisions; INVAR repeats its token; COUNT counts a run
out in tokens of indices, with the end marker and the done token; CONTROL starts a run, hands out permits and counts done
tokens. The model's reading: logs 55 to 57, 66, 141 and 146. -/
def Obligations.LoopForms : Prop :=
  ∀ (s : State) (e : Env) (x : OpUnit) (a b d : Token),
    (UnitAt s 4 e x → x.loop = false → headOf s e e.n 1 = none → headOf s e e.n 2 = none → Head s e 0 a → Plain a →
      outFree s e e.n 0 = true →
      exec .carry s = .next (outPush (setUnit (popIn s e e.n 0) e.t e.n { x with loop := true }) e e.n 0 a)) ∧
    (UnitAt s 4 e x → x.loop = true → Head s e 1 b → Head s e 2 d → Plain b → d.kind = .data →
      (∀ tok, Head s e 0 tok → tok.kind ≠ .header) →
      (d.pred = true → outFree s e e.n 0 = true →
        exec .carry s = .next (outPush (popIn (popIn s e e.n 1) e e.n 2) e e.n 0 b)) ∧
      (d.pred = false → bitOf x.recd 4 = true → outFree s e e.n 1 = true →
        exec .carry s = .next (outPush (setUnit (popIn (popIn s e e.n 1) e e.n 2) e.t e.n { x with loop := false }) e e.n 1 b)) ∧
      (d.pred = false → bitOf x.recd 4 = false →
        exec .carry s = .next (setUnit (popIn (popIn s e e.n 1) e e.n 2) e.t e.n { x with loop := false }))) ∧
    (UnitAt s 5 e x → bitsOf x.recd 27 4 ≠ 0 → Head s e 0 a → Plain a → outFree s e e.n 0 = true →
      (x.rep + 1 < bitsOf x.recd 27 4 →
        exec .invar s = .next (outPush (setUnit s e.t e.n { x with rep := x.rep + 1 }) e e.n 0 a)) ∧
      (bitsOf x.recd 27 4 ≤ x.rep + 1 →
        exec .invar s = .next (outPush (setUnit (popIn s e e.n 0) e.t e.n { x with rep := 0 }) e e.n 0 a))) ∧
    (UnitAt s 5 e x → bitsOf x.recd 27 4 = 0 → x.invDrain = false → Head s e 0 a → Plain a → Head s e 2 d → d.kind = .data →
      (d.pred = true → outFree s e e.n 0 = true → exec .invar s = .next (outPush (popIn s e e.n 2) e e.n 0 a)) ∧
      (d.pred = false → exec .invar s = .next (popIn (popIn s e e.n 2) e e.n 0))) ∧
    (UnitAt s 6 e x → unitIsSource s e.t e.n x = false →
      (x.run = none → Head s e 0 a → a.kind = .data → 0 < bitsOf x.recd 63 40 →
        ∃ base, exec .count s = .next (setUnit (popIn s e e.n 0) e.t e.n { x with run := some (0, base) }) ∧
          (bitOf x.recd 4 = false → base = 0)) ∧
      (∀ i base, x.run = some (i, base) → (∀ tok, Head s e 0 tok → tok.kind ≠ .header) →
        (i < bitsOf x.recd 63 40 → outFree s e e.n 0 = true →
          ∃ tok, exec .count s = .next (outPush (setUnit s e.t e.n
              { x with run := some (i + (if bitOf x.recd 5 then 16 else 1), base) }) e e.n 0 tok) ∧
            Positions tok 32 false (fun p => if p < (if bitOf x.recd 5 then 16 else 1) ∧ i + p < bitsOf x.recd 63 40 then
              some (countIndex x.recd base (i + p)) else none)) ∧
        (bitsOf x.recd 63 40 ≤ i → outFree s e e.n 1 = true →
          (bitsOf x.recd 7 6 = 0 →
            exec .count s = .next (outPush (setUnit s e.t e.n { x with run := none }) e e.n 1 (bare .done))) ∧
          (bitsOf x.recd 7 6 ≠ 0 → outFree s e e.n 0 = true →
            exec .count s = .next (outPush (outPush (setUnit s e.t e.n { x with run := none }) e e.n 0
              (bare (endOf (bitsOf x.recd 7 6)))) e e.n 1 (bare .done)))))) ∧
    (UnitAt s 12 e x → x.outst.length = 4 → 0 < bitsOf x.recd 10 8 →
      (Head s e 0 a → a.kind = .done → nth 0 x.outst 0 ≠ 0 →
        exec .control s = .next (setUnit (popIn s e e.n 0) e.t e.n { x with outst := setNth x.outst 0 (nth 0 x.outst 0 - 1) })) ∧
      ((∀ j, j < bitsOf x.recd 10 8 → childHead s e j = none) → nth false x.endDue 0 = false →
        0 < nth 0 x.toSend 0 → ctlMark s e x = none → ctlLimit x.recd (nth 0 x.outst 0) = true → outFree s e e.n 0 = true →
        bitsOf x.recd 13 12 = 0 →
        exec .control s = .next (outPush (setUnit s e.t e.n
          { x with toSend := setNth x.toSend 0 (nth 0 x.toSend 0 - 1), outst := setNth x.outst 0 (nth 0 x.outst 0 + 1) })
          e e.n 0 (bare .permit))) ∧
      ((∀ j, j < bitsOf x.recd 10 8 → childHead s e j = none) → x.toSend = [0, 0, 0, 0] → x.endDue = [false, false, false, false] →
        bitOf x.recd 11 = false → x.active = false → x.parentEos = false → x.eosSent = false → Head s e 2 d → d.kind = .data →
        0 < bitsOf x.recd 63 40 →
        exec .control s = .next (setUnit (popIn s e e.n 2) e.t e.n
          { x with toSend := List.replicate 4 (bitsOf x.recd 63 40), active := true, started := true })))

/-- R19, R21, R212, R213, R291: a router port moves the head of a link that is ready to where it lands, past links of no slots, and
every port on its way remembers the link it served; from link to link that is the end of the link's buffer. Port 7 moves the
tokens that have reached an element into its latches; a token of an unknown kind stops its link with TOKKIND. The model's
reading: log 17. -/
def Obligations.TokenTransfer : Prop :=
  ∀ (s : State) (e : Env),
    (∀ l ls b tok rest, s.op 1 ≠ 7 → linkEnv s (s.op 0) = some e → portLinks s e.t (s.op 1) = l :: ls →
      linkReady s e.t l = some (b, tok) → getBuf s b = tok :: rest →
      (∀ hops bd, (∀ k, tok.kind ≠ .bad k) →
        landing (served (setBuf s b rest) (e.t, l.1)) (4096 * 32) e.t l = some (hops, bd) →
        exec .tokenTransfer s = .next (hops.foldl landed (setBuf (hops.foldl served (served (setBuf s b rest) (e.t, l.1))) bd
          (getBuf (served (setBuf s b rest) (e.t, l.1)) bd ++ [tok]))) ∧
        (hops = [(e.t, l.1)] → bd ≠ b → l.1 < 32 ∨ 40 ≤ l.1 →
          Answers .tokenTransfer s (fun s' => s'.st = s.st ∧ s'.cores = s.cores ∧ getBuf s' b = rest ∧
            getBuf s' bd = getBuf s bd ++ [tok] ∧ s'.fab.portRR.getD (e.t * 8 + s.op 1) 0 = l.1 ∧
            ∀ k, k ≠ b → k ≠ bd → getBuf s' k = getBuf s k))) ∧
      (∀ k, tok.kind = .bad k → ∃ s1, exec .tokenTransfer s = .next (raiseUnit s1 e 3 Cause.tokkind) ∧ s1.st = s.st ∧
        s1.fab.stopped = s.fab.stopped ++ [e.t * 128 + l.1])) ∧
    (s.op 1 = 7 → envOf s (s.op 0) 0 = some e → isCore e.t = true →
      exec .tokenTransfer s = .next ((List.range 8).foldl (fun s ch => ingressDeliver s e ch) s)) ∧
    (∀ ch m q tok rest, getBuf s (bufKey e.t 5 ch) = tok :: rest → ingressOf s e.t ch = some (m, q) →
      slotReads (getSlot s e.t m) q = true → (getSlot s e.t m).latch q = none → e.atStop (getSlot s e.t m).edge = false →
      ingressDeliver s e ch = setSlot (setBuf s (bufKey e.t 5 ch) rest) e.t m ((getSlot s e.t m).setLatch q (some tok)))

/-- R67, R75, R76, R79, R81, R83, R84, R87, R219: a generator's events. What a stream has to send goes out where its channel has
room, its EOS ending it; a read stream of a memory tile performs its next element and packs it, one of a headland adds it to a
line request, which is performed as one read of its line and leaves in order; a stream that has read its last element ends; a
coordinate within its bound is accessed; a write stream takes its token and writes its live slots, those of a headland merged
into one write of their line, and ends after its inputs; a FIFO takes the oldest push that has space and the oldest pop that
has a token. The model's reading: logs 68 and 134, and invariant reads as in log 13. -/
def Obligations.GeneratorEvents : Prop :=
  ∀ (s : State) (e : GEnv) (r : Stream),
    (∀ tok rest, (getGen s (s.op 0) (s.op 1)).run = some r → gEnv s (s.op 0) (s.op 1) r = some e → r.outQ = tok :: rest →
      egressFree s e.t (patDch r.words) = true →
      (tok.kind ≠ .eos →
        exec .generatorElement s = .next (setStream (egressPush s e.t (patDch r.words) tok) e { r with outQ := rest })) ∧
      (tok.kind = .eos →
        exec .generatorElement s = .next (endStream (egressPush s e.t (patDch r.words) tok) e r) ∧
        ∀ s1, (getGen (endStream s1 e r) e.t e.g).run = none)) ∧
    (∀ t ch l tok, linkReading s t (32 + ch) = some l → egressPlaces s t ch ≠ 0 →
      egressPush s t ch tok = setBuf s (bufKey t 4 ch) (getBuf s (bufKey t 4 ch) ++ [tok])) ∧
    (∀ who ia cls op, s.xl.tear = [] → (∀ x ∈ s.xl.torn, x.1 ≠ who.key) → apart s who ia cls op = iaPerform s who ia cls op) ∧
    (StreamAt s e r → patWrite r.words = false → r.srcDone = false → patMode r.words ≠ 1 → e.edges ≤ r.edge → r.stopping = false →
      r.skips = 0 → r.zeros = 0 →
      (∀ ia cls r' ia' s0, r.e < patCount r.words → genFifo s e r = none →
        elemPlace s e r (elemVA r.words r.e) false = (.ok (ia, cls), r', ia') →
        s0 = bindRead s (genWho e r') (elemVA r.words r.e) →
        (∀ bs s1, isHead e.t = false →
          apart s0 (genReader s0 e r' (hasPI s0 (genWho e r') (elemVA r.words r.e))) ia cls (.read (elemBytes r')) = (.ok bs, s1) →
          exec .generatorElement s = .next (setStream (dropTorn s1 (genAgent e.t e.g)) e
            (({ r' with e := r'.e + 1, skips := markAfter r.words r'.e } : Stream).pack bs false))) ∧
        (isHead e.t = true → (joinsLast r'.inflight ia cls = true ∨ headReqs s e.t < 256) →
          exec .generatorElement s = .next (setStream s0 e { r' with
            e := r'.e + 1, skips := 0
            inflight := r'.inflight ++ [⟨ia, elemVA r.words r.e, cls, hasPI s0 (genWho e r') (elemVA r.words r.e), s.clk.cycle,
              (getBuf s (bufKey e.t 4 (patDch r'.words))).isEmpty, false, false, !joinsLast r'.inflight ia cls,
              markAfter r.words r'.e, none⟩] }))) ∧
      (patCount r.words ≤ r.e → r.inflight = [] → r.fill = 0 → r.touched = [] → r.bufs = [] →
        Answers .generatorElement s (fun s' => s'.st = s.st ∧
          (getGen s' e.t e.g).run = some { r with outQ := [bare .eos], srcDone := true }))) ∧
    ((getGen s (s.op 0) (s.op 1)).run = some r → gEnv s (s.op 0) (s.op 1) r = some e →
      (∀ i x y l m bs s1, r.inflight = x :: l → x.ready = false → runsDue s e r = [i] → runAt r.inflight i = y :: m →
        iaAccess s { genReader s e r y.pi with starve := y.starve } (y.ia / 128 * 128) y.cls (.read 128) = (.ok bs, s1) →
        Answers .gatherReply s (fun s' => s'.st = s1.st ∧ (getGen s' e.t e.g).run = some { r with
          inflight := mapRun r.inflight i (fun z => { z with bytes := some ((bs.drop (z.ia % 128)).take (elemBytes r)) }) })) ∧
      (∀ x l, r.inflight = x :: l → x.ready = true → r.outQ = [] →
        exec .gatherReply s = .next (setStream s e (deliverFront r e.edges))) ∧
      (∀ x bs, r.inflight = [x] → x.bytes = some bs → x.poison = false → x.mark = 0 →
        deliverFront r e.edges = ({ r with inflight := [] } : Stream).pack bs false)) ∧
    (StreamAt s e r → patMode r.words = 1 → r.srcDone = false → r.zeros = 0 → r.skips = 0 → r.inflight = [] → r.endSeen = false →
      r.stopping = false →
      (∀ tok, r.coord = none → inHead s e.t (cchLink r) = some tok → tok.kind = .data →
        exec .coordinateToken s = .next (setStream s e { r with coord := some (tok, 0) })) ∧
      (∀ tok i v, r.coord = some (tok, 2 * i) → i < coordLanes r.words → coordIndex r.words tok i = some v →
        coordPolicy r.words v = none →
        exec .coordinateToken s = .next (setStream s e { r with coord := some (tok, 2 * i + 1), e := 0 }))) ∧
    (StreamAt s e r → patWrite r.words = true → r.endSeen = false → r.stopping = false → (r.merge = [] ∨ mergeClosed s e r = false) →
      (∀ tok, r.inTok = none → patSp24 r.words = false → inHead s e.t (dchLink r) = some tok → tok.kind = .data →
        exec .writeStreamToken s = .next (setStream (popData s e r) e { r with inTok := some (tok, 0) })) ∧
      (∀ tok j ia cls r' ia' s0, r.inTok = some (tok, j) → j < 64 / elemBytes r → slotLive r tok j = true → patMode r.words ≠ 1 →
        r.e < patCount r.words → genFifo s e r = none → elemPlace s e r (elemVA r.words r.e) true = (.ok (ia, cls), r', ia') →
        s0 = bindRead s (genWho e r') (elemVA r.words r.e) →
        (∀ bs s1 s2 r2, isHead e.t = false →
          apart s0 (genWho e r') ia cls (.write (allSome (slotBytes r tok j))) = (.ok bs, s1) →
          rowWritten (dropTorn s1 (genAgent e.t e.g)) e r' ia (slotBytes r tok j).length = (s2, r2) →
          exec .writeStreamToken s = .next (setStream s2 e { r2 with e := r2.e + 1, inTok := some (tok, j + 1) })) ∧
        (isHead e.t = true → joinsMerge s e r' ia cls = true →
          exec .writeStreamToken s = .next (setStream s0 e { r' with
            e := r'.e + 1, inTok := some (tok, j + 1)
            merge := r'.merge ++ [⟨ia, elemVA r.words r.e, cls, false, s.clk.cycle, false, false, false, r'.merge.isEmpty, 0,
              some (slotBytes r tok j)⟩] })))) ∧
    (∀ x m bs s1, (getGen s (s.op 0) (s.op 1)).run = some r → gEnv s (s.op 0) (s.op 1) r = some e → patWrite r.words = true →
      r.held = none → r.merge = x :: m → mergeClosed s e r = true →
      iaPerform s (genWho e r) (x.ia / 128 * 128) x.cls (.write (mergeRow 128 (mergeRun r.merge))) = (.ok bs, s1) →
      exec .writeStreamToken s = .next (setStream s1 e { r with merge := r.merge.drop (mergeRun r.merge).length })) ∧
    ((getGen s (s.op 0) (s.op 1)).run = some r → gEnv s (s.op 0) (s.op 1) r = some e → patWrite r.words = true → r.endSeen = true →
      r.held = none → r.outQ = [] → (patMode r.words = 1 → r.srcDone = true) → egressFree s e.t (patDch r.words) = true →
      exec .writeStreamEnd s = .next (endStream (egressPush s e.t (patDch r.words) (bare .eos)) e r)) ∧
    (∀ q t g bs s0 s1 w, tileDead s (s.op 0) = false →
      (s.tl.fifoReqs.getD (s.op 0 * 8 + s.op 1) []).find? (fun q => q.push && pushReady s q.drawer (s.op 0) (s.op 1)) = some q →
      q.who = .slot t g → s0 = fifoDone s (s.op 0 * 8 + s.op 1) q → w = region s (s.op 0) (s.op 1) →
      fifoPushNow s0 q.drawer (s.op 0) (s.op 1) q.tok = (.ok bs, s1) →
      exec .fifoPush s = .next (fifoSlotDone (watchCheck s1 (slotWho s0 t g)
        [(windowIA (s.op 0) (regBase w + (fifoHead w + fifoCount w) % max (regLen w) 1 * 64),
          allSome (bytesOf 64 q.tok.data.toNat))]) t g none)) ∧
    (∀ q t g bs s1 side, tileDead s (s.op 0) = false →
      (s.tl.fifoReqs.getD (s.op 0 * 8 + s.op 1) []).find? (fun q => !q.push && popReady s q.drawer (s.op 0) (s.op 1)) = some q →
      q.who = .slot t g → fifoHeadToken (fifoDone s (s.op 0 * 8 + s.op 1) q) (s.op 0) (s.op 1) = (.ok bs, s1, side) →
      exec .fifoPop s = .next (fifoSlotDone (fifoAdvance s1 q.drawer (s.op 0) (s.op 1)) t g
        (some ⟨.data, side.1, side.2, BitVec.ofNat 512 (ofBytes bs)⟩)))

/-- R65, R68: a corrected symbol is written back as its codeword stands then, unless a write has put it right since; every 4,096 cycles the scrubber reads the next
row, waiting for the banks, and after 65,536 more it goes ahead. The model's reading: logs 30 and 70. -/
def Obligations.TileEvents : Prop :=
  ∀ (s : State),
    (∀ t row b pos rest, s.tl.corrections = (t, row, b, pos) :: rest →
      (∀ v, correctedNow s t row b pos = some v →
        Answers .correctionWriteback s (fun s' => s'.tl.corrections = rest ∧ cellGet s'.st.mem (symKey t row b pos) = v ∧
          ∀ j, j ≠ symKey t row b pos → cellGet s'.st.mem j = cellGet s.st.mem j)) ∧
      (correctedNow s t row b pos = none → Answers .correctionWriteback s (fun s' => s'.st = s.st ∧ s'.tl.corrections = rest))) ∧
    (isMem (s.op 0) = true → s.boot.fallow.contains (s.op 0) = false →
      (4096 ≤ scrubAge s (s.op 0) → tileWanted s (s.op 0) = false →
        Answers .scrubRow s (fun s' => s'.tl.scrubRow.getD (s.op 0) 0 = (s.tl.scrubRow.getD (s.op 0) 0 + 1) % 1024 ∧
          s'.tl.scrubWait.getD (s.op 0) 0 = s.clk.cycle ∧ s'.cores = s.cores)) ∧
      (4096 + 65536 ≤ scrubAge s (s.op 0) →
        Answers .scrubTakeover s (fun s' => s'.tl.scrubRow.getD (s.op 0) 0 = (s.tl.scrubRow.getD (s.op 0) 0 + 1) % 1024)) ∧
      (scrubAge s (s.op 0) < 4096 → exec .scrubRow s = .next s))

/-! ### Residency, engines -/

/-- R45, R51 to R58, R106: a line entry is written back to its line; a forwarded access is performed and answered; a heat window ends
once for each port and clears its counters; a nominated page takes a frame and is copied line by line; the commit moves the
leaf to its new frame with the next generation; HOME grants or drops a pull, completes a move, and registers a sharer; a sharer
rewrites its leaf. The model's reading: logs 31 and 71 to 75. -/
def Obligations.ResidencyEvents : Prop :=
  ∀ (s : State),
    (∀ e, s.st.lineQ.get? (s.op 0) = some e →
      Answers .lineEntryWriteback s (fun s' => s'.st.lineQ.get? (s.op 0) = none ∧
        s'.st.mem = cellsSet s.st.mem (s.op 0 * 128) e.bytes ∧ s'.cores = s.cores ∧ s'.tl = s.tl ∧
        (e.bad = false → s'.st.lineBad.contains (s.op 0) = false))) ∧
    (∀ f rest e s1 bs s2, s.xl.forwards = f :: rest → lookupPage s f.ia f.cls = (.ok e, s1) → leafTier e.w0 ≠ 2 →
      iaPerform s1 ⟨0, 5, f.tile, agentKey 6 0, none, false, none, false, false, some f.node, none, f.starve⟩ f.ia f.cls f.mop =
        (.ok bs, s2) →
      ∀ s3, s3 = (if f.starve then pageStarve s2 e.page (s2.clk.cycle - f.since) else s2) →
      exec .forwardedAccess s = .next (answerForward { s3 with xl := { s3.xl with forwards := rest } } f 0 bs)) ∧
    (s.op 0 < 64 → s.xl.heatWin.getD (s.op 0) 0 < s.clk.cycle / 2 ^ 20 →
      Answers .heatWindowEnd s (fun s' => s'.xl.heatWin.getD (s.op 0) 0 = s.clk.cycle / 2 ^ 20 ∧ s'.st = s.st ∧ s'.cores = s.cores ∧
        (bitOf s.xl.heatcfg 63 = true → ∀ e ∈ s'.xl.tcache, e.1 % 64 = s.op 0 → e.2.deliv = 0 ∧ e.2.starve = 0))) ∧
    (s.xl.heatWin.getD (s.op 0) 0 = s.clk.cycle / 2 ^ 20 → exec .heatWindowEnd s = .next s) ∧
    (∀ n e s1 fr s2, moveOf s (s.op 0) = none → s.xl.noms.find? (fun n => n.page == s.op 0) = some n → n.tier < 2 →
      lookupPage s (n.page * 65536) 0 = (.ok e, s1) → s1.eng.ckpt = none → moveOf s1 n.page = none → leafTier e.w0 ≠ n.tier → leafTier e.w0 < 2 → leafPin e.w0 = false →
      e.level = 3 → stampsAllow s1 e.w1 = true → takeFrame s1 (poolOrder n.tier n.pool n.page) = some (fr, s2) →
      exec .tierMove s = .next (startMove (dropNoms s2 n.page) e n.tier fr none)) ∧
    (∀ m, moveOf s (s.op 0) = some m → m.copied < 512 → m.oldTier < 2 → m.toNode = none →
      lineIsBad s (localKey m.oldTier (m.oldFrame * 65536 + m.copied * 128) / 128) = false →
      s.st.lineQ.get? (localKey m.newTier (m.newFrame * 65536 + m.copied * 128) / 128) = none →
      (lineValue s (localKey m.oldTier (m.oldFrame * 65536 + m.copied * 128) / 128) (pageTag s m.page)).1.length = 128 →
      Answers .tierMove s (fun s' => moveOf s' (s.op 0) = some { m with copied := m.copied + 1 } ∧ s'.cores = s.cores ∧ s'.tl = s.tl ∧
        cellsGet s'.st.mem (localKey m.newTier (m.newFrame * 65536 + m.copied * 128)) 128 =
          (lineValue s (localKey m.oldTier (m.oldFrame * 65536 + m.copied * 128) / 128) (pageTag s m.page)).1)) ∧
    (∀ m e, moveOf s (s.op 0) = some m → s.xl.tcache.get? (s.op 0) = some e → e.page = s.op 0 → m.copied = 512 → m.oldTier < 2 →
      m.toNode = none → m.newTier < 4 → m.newFrame < 2 ^ 24 → s.st.lineQ.any (fun x => x.2.page == s.op 0) = false →
      Answers .tierMoveCommit s (fun s' => moveOf s' (s.op 0) = none ∧ ∃ e', s'.xl.tcache.get? (s.op 0) = some e' ∧
        e'.moving = false ∧ e'.gen = genNext e.gen ∧ leafTier e'.w0 = m.newTier ∧ leafFrame e'.w0 = m.newFrame)) ∧
    (∀ p d s0, s.xl.pulls.find? (fun p => p.page == s.op 0 && p.node == s.op 1) = some p → s.eng.ckpt = none →
      s0 = { s with xl := { s.xl with pulls := s.xl.pulls.erase p } } → dirOf s0 p.page = some d →
      (p.uns = false → p.pull = true → pullGranted s0 d p.node = false → p.asker = none → exec .pullRequest s = .next s0) ∧
      (p.uns = false → p.pull = true → pullGranted s0 d p.node = true →
        exec .pullRequest s = .next (startPull s0 d p.node p.asker)) ∧
      (∀ a, p.uns = true → p.pull = false → p.asker = some a → exec .pullRequest s =
        .next (sendNode (setDir s0 { d with settled := false, moves := 0 }) a.1 1 [10, a.2, 0]))) ∧
    (∀ d n, s.xl.dirs.get? (s.op 0) = some d → d.pulling = some n → d.moving = true → moveOf s (s.op 0) = none →
      (s.op 1 = 0 → gaveUp s d n = true → d.asker = none → d.sharers = [] →
        exec .ownershipMoveComplete s = .next (setDir s { d with
          owner := n, stamp2 := d.stamp1, stamp1 := s.clk.cycle, moves := d.moves + 1, settled := d.settled || d.moves + 1 == 8,
          moving := false, pulling := none, asker := none })) ∧
      (s.op 1 ≠ 0 → d.asker = none →
        exec .ownershipMoveComplete s = .next (setDir s { d with moving := false, pulling := none, asker := none })) ∧
      (∀ a, s.op 1 ≠ 0 → d.asker = some a →
        exec .ownershipMoveComplete s =
          .next (sendNode (setDir s { d with moving := false, pulling := none, asker := none }) a.1 1 [10, a.2, 1]))) ∧
    (∀ d, dirOf s (s.op 0) = some d → d.sharers.contains (s.op 1) = false →
      (d.sharers.length < 64 →
        exec .sharerRegister s = .next (setDir (setDir s d) { d with sharers := d.sharers ++ [s.op 1] })) ∧
      (64 ≤ d.sharers.length →
        exec .sharerRegister s = .next (sendNode (setDir s d) (s.op 1) 1 [10, registerKey (s.op 0), 1]))) ∧
    (∀ d : DirEntry, (setDir s d).xl.dirs.get? d.page = some d ∧ (setDir s d).cores = s.cores ∧
      setDir s d = physSets { s with xl := (setDir s d).xl } (dirKey d.page) (dirBytes d)) ∧
    (∀ e s1, lookupPage s (s.op 0 * 65536) 0 = (.ok e, s1) → leafTier e.w0 = 2 →
      exec .sharerUpdate s = .next (putLeaf s1 e (fun w => (w.1, withBits w.2 63 44 (s.op 1))) e.gen))

/-- R123, R129, R131, R135, R298: an inbox takes a message that passes its checks and has room, answers busy where it has none, and
refuses one that a check fails with its status and cause, once its record is written; the engine of a fallow quad takes none; the
sender learns of it; a busy message is sent again after 64 cycles; a command that has ended, whose messages are answered and whose
bytes are discharged, leaves its inbox with its reply, its cause and its arrival. The model's reading: logs 81 to 84 and 125. -/
def Obligations.EngineEvents : Prop :=
  ∀ (s : State),
    (∀ (m : Msg) (s1 s2 : State) (q : Nat), s.op 0 = 0 →
      s.fab.msgs.find? (fun m => m.uid == s.op 1 && m.injected && m.resendAt.isNone && m.node == s.boot.node) = some m →
      firstOfPair s m = true → s1 = { s with fab := { s.fab with msgs := s.fab.msgs.filter (fun x => x.uid != m.uid) } } →
      q = bitsOf (nth 0 m.words 1) 43 35 → (getCtx s1 (engCtx (cmdOf m))).state ≠ .killed →
      (quadFallow s1 q = true → exec .engineInboxMessage s = .next (acknowledge s1 m 2 2 Cause.engnode)) ∧
      (∀ ms ps, quadFallow s1 q = false → checkMessage s1 q (cmdOf m) = (.good ms ps, s2) →
        inboxBusy s2 q (engCtx (cmdOf m)) = false →
        exec .engineInboxMessage s = .next (acknowledge (acceptCommand s2 q (cmdOf m) ms ps) m 0 0 0)) ∧
      (∀ ms ps, quadFallow s1 q = false → checkMessage s1 q (cmdOf m) = (.good ms ps, s2) →
        inboxBusy s2 q (engCtx (cmdOf m)) = true →
        exec .engineInboxMessage s = .next
          (acknowledge (unbind s2 (engCtx (cmdOf m)) (engBinder (cmdOf m))) m 1 0 0)) ∧
      (∀ st e va c s0, quadFallow s1 q = false → checkMessage s1 q (cmdOf m) = (.bad st e va, s2) → m.sender.isSome = true →
        c = { cmdOf m with state := .ended, stopped := true, status := st, cause := e, fva := va } →
        (writeReply s2 q c = (true, s0) →
          exec .engineInboxMessage s = .next (acknowledge (unbind s0 (engCtx (cmdOf m)) (engBinder (cmdOf m))) m 2 st e)) ∧
        (writeReply s2 q c = (false, s0) → exec .engineInboxMessage s = .next (setInbox s0 q (inboxOf s0 q ++ [c]))))) ∧
    (∀ (q : Nat) (c : EngCmd) (ps : List Word), engChg c = false → engShd c = false →
      inboxOf (acceptCommand s q c [] ps) q = inboxOf s q ++ [{ c with
        charged := 0, waits := []
        tmp := if engOp c = 16 then shadowWriters s (engCtx c) (bitsOf (engW c 0) 5 0) else ps.map (·.toNat) }] ∧
      ∀ p, p ≠ q → inboxOf (acceptCommand s q c [] ps) p = inboxOf s p) ∧
    (∀ (a : Ack) (m : Msg) (d : Reg), s.fab.acks.find? (fun a => a.uid == s.op 0) = some a → a.kind = 0 → firstAck s a = true →
      s.fab.msgs.find? (fun m => m.uid == a.uid) = some m → m.node = s.boot.node → (getCore s m.src).amsgw = none →
      (getCore s m.src).waiting = .amsg m.uid d →
      Answers .acknowledgement s (fun s' => s'.st = s.st ∧
        getCore s' m.src = { ((getCore s m.src).setGpr d 0).finish with waiting := .none } ∧
        (∀ t, t ≠ m.src → getCore s' t = getCore s t) ∧ s'.fab.msgs = s.fab.msgs.filter (fun x => x.uid != m.uid))) ∧
    (∀ (a : Ack) (m : Msg), s.fab.acks.find? (fun a => a.uid == s.op 0) = some a → a.kind = 1 → firstAck s a = true →
      s.fab.msgs.find? (fun m => m.uid == a.uid) = some m →
      Answers .acknowledgement s (fun s' => s'.st = s.st ∧ s'.cores = s.cores ∧ s'.fab.msgs =
        s.fab.msgs.filter (fun x => x.uid != m.uid) ++ [{ m with injected := true, resendAt := some (s.clk.cycle + 64) }])) ∧
    (∀ (m : Msg) (t : Nat), s.fab.msgs.find? (fun m => m.uid == s.op 0) = some m → m.resendAt = some t →
      (t ≤ s.clk.cycle → m.node = s.boot.node →
        Answers .injectionResend s (fun s' => s'.st = s.st ∧ s'.cores = s.cores ∧
          s'.fab.msgs = s.fab.msgs.filter (fun x => x.uid != m.uid) ++ [{ m with injected := true, resendAt := none, link := none }])) ∧
      (s.clk.cycle < t → exec .injectionResend s = .next s)) ∧
    (∀ c : EngCmd, findCmd s (s.op 0) (s.op 1) = some c → c.state ≠ .ended → c.stopped = true → engOp c ≠ 9 →
      messagesAnswered s c = true → (writeReply s (s.op 0) c).1 = true →
      (engChg c = true → s.bar.discharges.any (fun d => d.1 == engBar c) = false) →
      Answers .engineCommandDrained s (fun s' => findCmd s' (s.op 0) (s.op 1) = none ∧
        (engArr c = true → s'.bar.arrivals = s.bar.arrivals ++ [⟨engBar c, 1, engCtx c, 0, .engine (s.op 0)⟩]) ∧
        (engArr c = false → s'.bar.arrivals = s.bar.arrivals)))

/-- R130, R133, R140 to R144: the commands that move bytes. Each starts in the order of its inbox; COPY and FILL write the next
destination line, XPOSE a line of a destination row; GATHER and SCATTER read an index and move its row; CSRB reads a row's
pointers and writes the row; HASH reads its lines and writes the digest; REDUCE merges an element; each ends after its last. The
model's reading: logs 58, 81, 84, 85 and 88. -/
def Obligations.MoverCommands : Prop :=
  ∀ (s : State) (q : Nat) (c : EngCmd), q = s.op 0 →
    (∀ op i, engEventOf op = some i → findCmd s q (s.op 1) = some c → engOp c = op → c.stopped = false → c.state = .queued →
      mayStart s q c = true → exec i s = .next (putCmd s q { c with state := .running })) ∧
    (CmdAt s 1 c →
      ((engW c 2).toNat ≤ c.done → exec .copy s = .next (endCmd s q c 0 0 0)) ∧
      (∀ n bs s1 c' s2, c.done < (engW c 2).toNat → n = chunkLen s q c (engW c 1 + BitVec.ofNat 64 c.done) ((engW c 2).toNat - c.done) →
        engRead s (engWho q c) (engW c 0 + BitVec.ofNat 64 c.done) n = (.ok bs, s1) →
        engWrite s1 q c (engW c 1 + BitVec.ofNat 64 c.done) bs = (.ok [], c', s2) →
        exec .copy s = .next (putCmd s2 q { c' with done := c'.done + bs.length }))) ∧
    (CmdAt s 2 c →
      ((engW c 1).toNat ≤ c.done → exec .fill s = .next (endCmd s q c 0 0 0)) ∧
      (∀ n bs c' s1, c.done < (engW c 1).toNat → n = chunkLen s q c (engW c 0 + BitVec.ofNat 64 c.done) ((engW c 1).toNat - c.done) →
        bs = (List.range n).map (fun i => nth 0 (bytesOf 8 (engW c 2).toNat) ((c.done + i) % 2 ^ bitsOf (engW c 3) 1 0)) →
        engWrite s q c (engW c 0 + BitVec.ofNat 64 c.done) bs = (.ok [], c', s1) →
        exec .fill s = .next (putCmd s1 q { c' with done := c'.done + bs.length }))) ∧
    (CmdAt s 3 c → ∀ esz row va n bs s1 c' s2, esz = 2 ^ bitsOf (engW c 4) 1 0 → row = engRows (engW c 2) * esz →
      (row * engCols (engW c 2) ≤ c.done → exec .xpose s = .next (endCmd s q c 0 0 0)) ∧
      (c.done < row * engCols (engW c 2) →
        va = engW c 1 + BitVec.ofNat 64 (c.done / row * bitsOf (engW c 3) 63 32 + c.done % row) →
        n = chunkLen s q c va (row - c.done % row) →
        engReadElems s (engWho q c) esz (bitsOf (engW c 3) 31 0) (n / esz)
          (engW c 0 + BitVec.ofNat 64 (c.done % row / esz * bitsOf (engW c 3) 31 0 + c.done / row * esz)) = (.ok bs, s1) →
        engWrite s1 q c va bs = (.ok [], c', s2) →
        exec .xpose s = .next (putCmd s2 q { c' with done := c'.done + bs.length }))) ∧
    (∀ i op g, (i, op, g) = (.gather, 4, true) ∨ (i, op, g) = (.scatter, 5, false) → CmdAt s op c →
      ((engW c 3).toNat ≤ c.pos → exec i s = .next (endCmd s q c 0 0 0)) ∧
      (∀ bs s1, c.pos < (engW c 3).toNat → c.tmp = [] →
        engRead s (engWho q c) (engW c 1 + BitVec.ofNat 64 (c.pos * (4 * 2 ^ bitsOf (engW c 6) 0 0))) (4 * 2 ^ bitsOf (engW c 6) 0 0) =
          (.ok bs, s1) →
        (ofBytes bs < (engW c 5).toNat → exec i s = .next (putCmd s1 q { c with tmp := [0, ofBytes bs] })) ∧
        ((engW c 5).toNat ≤ ofBytes bs → bitsOf (engW c 6) 2 1 = 0 → exec i s = .next (stopCmd s1 q { c with aux := c.pos } true
          Cause.bound (engW c 1 + BitVec.ofNat 64 (c.pos * (4 * 2 ^ bitsOf (engW c 6) 0 0)))))) ∧
      (∀ sub x table dense n bs s1 c' s2, c.pos < (engW c 3).toNat → c.tmp = [sub, x] → sub < bitsOf (engW c 6) 28 16 →
        table = engW c 0 + BitVec.ofNat 64 x * engW c 4 + BitVec.ofNat 64 sub →
        dense = engW c 2 + BitVec.ofNat 64 (c.pos * bitsOf (engW c 6) 28 16) + BitVec.ofNat 64 sub →
        n = chunkLen s q c (if g then dense else table) (bitsOf (engW c 6) 28 16 - sub) →
        engRead s (engWho q c) (if g then table else dense) n = (.ok bs, s1) →
        engWrite s1 q c (if g then dense else table) bs = (.ok [], c', s2) →
        exec i s = .next (putCmd s2 q { c' with tmp := [sub + n, x] }))) ∧
    (CmdAt s 6 c →
      (engRows (engW c 4) ≤ c.pos → exec .csrb s = .next (endCmd s q c 0 0 0)) ∧
      (∀ bs s1, c.pos < engRows (engW c 4) → c.tmp = [] →
        engRead s (engWho q c) (engW c 0 + BitVec.ofNat 64 (4 * c.pos)) 8 = (.ok bs, s1) →
        ofBytes (bs.take 4) ≤ ofBytes (bs.drop 4) →
        exec .csrb s = .next (putCmd s1 q { c with tmp := (ofBytes (bs.take 4) :: ofBytes (bs.drop 4) :: 0 ::
          List.replicate (engCols (engW c 4) * 2 ^ bitsOf (engW c 5) 33 32) 0) })) ∧
      (∀ b sub row s1, c.pos < engRows (engW c 4) → c.tmp = b :: b :: sub :: row →
        sub < engCols (engW c 4) * 2 ^ bitsOf (engW c 5) 33 32 →
        (rowCheck s q c (engW c 3 + BitVec.ofNat 64 (c.pos * bitsOf (engW c 5) 31 0))
            (engCols (engW c 4) * 2 ^ bitsOf (engW c 5) 33 32) = (.ok [], s1) →
          exec .csrb s = .next (putCmd s1 q { c with tmp := (b + 1) :: b :: sub :: row })) ∧
        (∀ x va, rowCheck s q c (engW c 3 + BitVec.ofNat 64 (c.pos * bitsOf (engW c 5) 31 0))
            (engCols (engW c 4) * 2 ^ bitsOf (engW c 5) 33 32) = (.stop x va, s1) →
          exec .csrb s = .next (stopCmd s1 q { c with aux := c.pos } false x va))) ∧
      (∀ k b sub row va n c' s1, c.pos < engRows (engW c 4) → c.tmp = k :: b :: sub :: row → b < k →
        sub < engCols (engW c 4) * 2 ^ bitsOf (engW c 5) 33 32 →
        va = engW c 3 + BitVec.ofNat 64 (c.pos * bitsOf (engW c 5) 31 0 + sub) →
        n = chunkLen s q c va (engCols (engW c 4) * 2 ^ bitsOf (engW c 5) 33 32 - sub) →
        engWrite s q c va (((row.drop sub).take n).map (BitVec.ofNat 8)) = (.ok [], c', s1) →
        exec .csrb s = .next (putCmd s1 q { c' with tmp := k :: b :: (sub + n) :: row }))) ∧
    (CmdAt s 10 c →
      (∀ bs s1, c.done < (engW c 1).toNat → engRead s (engWho q c) (engW c 0 + BitVec.ofNat 64 c.done)
          (min ((engW c 1).toNat - c.done) (128 - (engW c 0 + BitVec.ofNat 64 c.done).toNat % 128)) = (.ok bs, s1) →
        exec .hash s = .next (putCmd s1 q { c with
          done := c.done + min ((engW c 1).toNat - c.done) (128 - (engW c 0 + BitVec.ofNat 64 c.done).toNat % 128),
          tmp := c.tmp ++ bs.map (·.toNat) })) ∧
      (∀ c' s1, (engW c 1).toNat ≤ c.done → c.pos ≠ 1 →
        engWrite s q c (engW c 2) (shake256 (bytesOf 8 (engW c 1).toNat ++ c.tmp.map (BitVec.ofNat 8))) = (.ok [], c', s1) →
        exec .hash s = .next (putCmd s1 q { c' with pos := 1 })) ∧
      ((engW c 1).toNat ≤ c.done → c.pos = 1 → exec .hash s = .next (endCmd s q c 0 0 0))) ∧
    (CmdAt s 11 c → ∀ fn esz bs old s1 s2, fn = redFn (bitsOf (engW c 3) 3 0) → esz = redSize (bitsOf (engW c 3) 3 0) (bitsOf (engW c 3) 4 4) →
      ((engW c 2).toNat ≤ c.done → exec .reduce s = .next (endCmd s q c 0 0 0)) ∧
      (c.done < (engW c 2).toNat → engRead s (engWho q c) (engW c 0 + BitVec.ofNat 64 (c.done * esz)) esz = (.ok bs, s1) →
        canonical (engW c 1 + BitVec.ofNat 64 (c.done * esz)) = true →
        outsideShadow s1 c (engW c 1 + BitVec.ofNat 64 (c.done * esz)) esz = false → engChg c = false →
        rmwVA s1 (engDstWho q c) (engW c 1 + BitVec.ofNat 64 (c.done * esz)) esz true [fn, ofBytes bs, 0]
          (fun old => bytesOf esz (combine fn esz (ofBytes old) (ofBytes bs) 0).1) = (.ok old, s2) →
        exec .reduce s = .next (putCmd (countEvents s2 (engCtx c) (engTile q) (combine fn esz (ofBytes old) (ofBytes bs) 0).2) q
          { c with done := c.done + 1, charged := c.charged - esz, hold := [] })))

/-- R145 to R151: collectives and pages. A collective begins once every member has been accepted with equal operands, ends with
COLLMIS where one differs, and aborts with a member that has ended; one that has begun reads its source, sends it, and writes
what its kind makes of all the sources; PUBLISH swaps its entry; PREFETCH caches and nominates a page; MIGRATE starts a page's
move or skips it. The model's reading: logs 85 to 87. -/
def Obligations.GroupCommands : Prop :=
  ∀ (s : State) (q : Nat) (c : EngCmd), q = s.op 0 →
    (∀ s0, s0 = settleOwed s → findCmd s0 q (s.op 1) = some c → c.state = .running → c.stopped = false → c.waits ≠ [] →
      (someMismatch s0 q c = true → exec .collectiveBegin s = .next (endCmd s0 q c 3 Cause.collmis 0)) ∧
      (someMismatch s0 q c = false → allMet s0 q c = false → exec .collectiveBegin s = .next s0) ∧
      (someMismatch s0 q c = false → allMet s0 q c = true →
        Answers .collectiveBegin s (fun s' => s'.st = s.st ∧ s'.cores = s.cores ∧
          inboxOf s' q = (inboxOf s q).map (fun x => if x.uid = c.uid then { c with state := .met } else x)))) ∧
    (∀ s0, s0 = settleOwed s → findCmd s0 q (s.op 1) = some c → c.stopped = false → c.waits ≠ [] →
      (someEnded s0 q c = none → exec .collectiveAbort s = .next s0) ∧
      (∀ e, someEnded s0 q c = some e → e ≠ Cause.collmis.toNat → exec .collectiveAbort s = .next (endCmd s0 q c 5 0 0)) ∧
      (someEnded s0 q c = some Cause.collmis.toNat → exec .collectiveAbort s = .next (endCmd s0 q c 3 Cause.collmis 0))) ∧
    (settleOwed s = { s with eng := { s.eng with coll := (settleOwed s).eng.coll, owed := (settleOwed s).eng.owed } } ∧
      (s.eng.owed = [] → settleOwed s = s)) ∧
    (∀ i op, (i, op) = (.allred, 12) ∨ (i, op) = (.allgath, 13) ∨ (i, op) = (.rscat, 14) ∨ (i, op) = (.bcast, 15) → CmdAt s op c →
      c.state = .met →
      (∀ bs s1, c.tmp.length < collSrcLen c → engRead s (engWho q c) (engW c 2 + BitVec.ofNat 64 c.tmp.length)
          (min (collSrcLen c - c.tmp.length) (128 - (engW c 2 + BitVec.ofNat 64 c.tmp.length).toNat % 128)) = (.ok bs, s1) →
        exec i s = .next (putCmd s1 q { c with tmp := c.tmp ++ bs.map (·.toNat) })) ∧
      (collSrcLen c ≤ c.tmp.length → c.pos = 0 → (contributors c).contains (collRank c) = true →
        exec i s = .next (putCmd (tellMembers s q c 1 [] (c.tmp.map (BitVec.ofNat 8))) q { c with pos := 1 })) ∧
      (∀ srcs n c' s1, collSrcLen c ≤ c.tmp.length → c.pos = 1 → allContributions s q c = some srcs →
        c.done < collCount c * collSize c * (if op = 13 then collN c else 1) →
        n = chunkLen s q c (engW c 3 + BitVec.ofNat 64 c.done) (collCount c * collSize c * (if op = 13 then collN c else 1) - c.done) →
        engWrite s q c (engW c 3 + BitVec.ofNat 64 c.done) (collResult c srcs c.done n) = (.ok [], c', s1) →
        exec i s = .next (putCmd (countEvents s1 (engCtx c) (engTile q) (collEvents c srcs c.done n)) q { c' with done := c'.done + n })) ∧
      (∀ srcs, collSrcLen c ≤ c.tmp.length → c.pos = 1 → allContributions s q c = some srcs →
        collCount c * collSize c * (if op = 13 then collN c else 1) ≤ c.done → exec i s = .next (endCmd s q c 0 0 0))) ∧
    (CmdAt s 16 c → engDrained s c.tmp = true →
      ∃ n, exec .publishCommand s = .next (endCmd (publishSwap s (engCtx c) (bitsOf (engW c 0) 5 0)) q { c with done := n } 0 0 0)) ∧
    (CmdAt s 7 c →
      ((engW c 1).toNat ≤ c.pos → exec .prefetch s = .next (endCmd s q c 0 0 0)) ∧
      (∀ r e s1, c.pos < (engW c 1).toNat → translate s (engWho q c) (engW c 0 + BitVec.ofNat 64 (c.pos * 65536)) .read = .ok r →
        inWindow r.1 = false → lookupPage s r.1 r.2 = (.ok e, s1) →
        exec .prefetch s = .next (putCmd (if nominable e && r.2 != 3 then nominate s1 e else s1) q
          { c with pos := c.pos + 1, done := c.done + 1 })) ∧
      (∀ x, c.pos < (engW c 1).toNat → translate s (engWho q c) (engW c 0 + BitVec.ofNat 64 (c.pos * 65536)) .read = .error x →
        exec .prefetch s = .next (putCmd s q { c with pos := c.pos + 1, aux := c.aux + 1 }))) ∧
    (CmdAt s 8 c → c.tmp = [] → s.eng.ckpt = none →
      ((engW c 1).toNat ≤ c.pos → exec .migrate s = .next (endCmd s q c 0 0 0)) ∧
      (∀ r e s1 f s2, c.pos < (engW c 1).toNat → translate s (engWho q c) (engW c 0 + BitVec.ofNat 64 (c.pos * 65536)) .write = .ok r →
        inWindow r.1 = false → lookupPage s r.1 r.2 = (.ok e, s1) → bitOf (engW c 2) 2 = false → bitsOf (engW c 2) 1 0 < 2 →
        alreadyThere e (bitsOf (engW c 2) 1 0) (bitsOf (engW c 2) 39 32) = false → leafPin e.w0 = false → r.2 < 2 → e.cls3 = false →
        e.level = 3 → leafTier e.w0 ≠ 2 → stampsAllow s1 e.w1 = true → moveOf s1 e.page = none →
        takeFrame s1 (poolOrder (bitsOf (engW c 2) 1 0) (bitsOf (engW c 2) 39 32) e.page) = some (f, s2) →
        exec .migrate s = .next (putCmd (startMove s2 e (bitsOf (engW c 2) 1 0) f none) q { c with tmp := [1, e.page, f] })) ∧
      (∀ r, c.pos < (engW c 1).toNat → translate s (engWho q c) (engW c 0 + BitVec.ofNat 64 (c.pos * 65536)) .write = .ok r →
        inWindow r.1 = true →
        exec .migrate s = .next (putCmd s q { c with pos := c.pos + 1, tmp := [], aux := c.aux + 1 })))

/-! ### Contexts, tasks, launches -/

/-- R154, R155, R160, R428 to R433: a write of CTXTEN makes an unused context active; one of CTXCMD that passes its checks starts a save
or a restore, kills the context, or releases it, and one that does not sets HWSTAT; a save ends once the context's work has left
the fabric, a restore once its tiles are free; CHKPT begins, takes its cut once the work has left, and leaves its inbox. The
model's reading: logs 16, 35, 89, 105 to 108 and 137. -/
def Obligations.ContextEvents : Prop :=
  ∀ (s : State) (port : Bool) (v : Word),
    (∀ ctx, ctx < 64 → zeroBits v 63 17 = true → s.boot.held = false → (getCtx s ctx).state = .none →
      Answers (.contextCreate port ctx v) s (fun s' => s'.st = s.st ∧ s'.cores = s.cores ∧
        getCtx s' ctx = { Ctx.reset with state := .active, tenant := bitsOf v 15 0, pkgp := bitOf v 16 })) ∧
    (bitsOf v 62 61 = 0 → ctxcmdRefused s v = false → bitOf v 63 = true → s.boot.held = false →
      Answers (.contextSave port v) s (fun s' => s'.host.ctxcmd = v ∧ s'.st = s.st ∧
        (getCtx s' (bitsOf v 53 48)).state = .saving ∧ (getCtx s' (bitsOf v 53 48)).area = bitsOf v 47 16)) ∧
    (bitsOf v 62 61 = 1 → ctxcmdRefused s v = false → bitOf v 63 = true → s.boot.held = false →
      Answers (.contextRestore port v) s (fun s' => s'.host.ctxcmd = v ∧ s'.st = s.st ∧ s'.cores = s.cores ∧
        (getCtx s' (bitsOf v 53 48)).state = .restoring ∧ (getCtx s' (bitsOf v 53 48)).area = bitsOf v 47 16)) ∧
    (bitsOf v 62 61 = 2 → ctxcmdRefused s v = false → bitOf v 63 = true → s.boot.held = false →
      Answers (.contextKill port v) s (fun s' => (getCtx s' (bitsOf v 53 48)).state = .killed ∧
        (∀ t f, (getCore s' t).run = some f → f.task.ctx ≠ bitsOf v 53 48) ∧
        (∀ r ∈ s'.tk.drill, r.ctx ≠ bitsOf v 53 48) ∧ (∀ r ∈ s'.tk.parked, r.ctx ≠ bitsOf v 53 48))) ∧
    (bitsOf v 62 61 = 3 → ctxcmdRefused s v = false → bitOf v 63 = true → s.boot.held = false →
      Answers (.contextRelease port v) s (fun s' => getCtx s' (bitsOf v 53 48) = Ctx.reset)) ∧
    (∀ i, i = .contextSave port v ∧ bitsOf v 62 61 = 0 ∨ i = .contextRestore port v ∧ bitsOf v 62 61 = 1 ∨
        i = .contextKill port v ∧ bitsOf v 62 61 = 2 ∨ i = .contextRelease port v ∧ bitsOf v 62 61 = 3 →
      ctxcmdRefused s v = true → s.boot.held = false → exec i s = .next (hwRefuse s port 0x600 Cause.ctxcfg)) ∧
    (∀ r l s1 s2, (getCtx s (s.op 0)).state = .saving → saveReady s (s.op 0) = true →
      writeArea (flushGens s) (s.op 0) = (r, s1) → r ≠ .wait →
      readRegions { s1 with free := s1.free + 1 } (ctxRegions s1 (s.op 0)) = (l, s2) →
      (∀ bytes s3, l = some bytes → s3 = (match r with | .fault e => areaFault s2 (s.op 0) e | _ => s2) →
        exec .contextSaved s = .next
          (if Sys2Proof.Config.contextBad s1.free then loseContext { s1 with free := s1.free + 1 } (s.op 0) true
           else if (getCtx s3 (s.op 0)).state = .killed then s3 else saveDone s3 (s.op 0) bytes)) ∧
      (l = none → exec .contextSaved s = .next
          (if Sys2Proof.Config.contextBad s1.free then loseContext { s1 with free := s1.free + 1 } (s.op 0) true
           else loseContext s2 (s.op 0) true))) ∧
    (∀ ctx bytes, (getCtx (saveDone s ctx bytes) ctx).state = .saved ∧
      ∃ k, (saveDone s ctx bytes).saved = s.saved ++ [k] ∧ k.ctx = ctx ∧ k.bytes = bytes) ∧
    (∀ ctx, (getCtx (loseContext s ctx true) ctx).state = .killed ∧ (getCtx (loseContext s ctx true) ctx).cause = Cause.ctxlost ∧
      (getCtx (loseContext s ctx true) ctx).lost = true) ∧
    (∀ k, (getCtx s (s.op 0)).state = .restoring → s.saved.find? (fun x => x.ctx == s.op 0) = some k →
      (restorable s k = true → Answers .contextRestored s (fun s' => (getCtx s' (s.op 0)).state = .active)) ∧
      (restorable s k = false → exec .contextRestored s = .next s)) ∧
    (∀ c, CmdAt s 9 c →
      (s.eng.ckpt = none → Answers .chkpt s (fun s' => s'.st = s.st ∧ s'.cores = s.cores ∧ s'.eng.ckpt = some
        ⟨s.op 0, c.uid, bitsOf (engW c 0) 1 0,
          if bitOf (engW c 0) 0 then [engW c 2, engW c 3] else c.tmp.map (BitVec.ofNat 64),
          decide (2 ≤ bitsOf (engW c 0) 1 0), 0, [], 0, [], 0⟩)) ∧
      (∀ k, s.eng.ckpt = some k → k.uid = c.uid → k.cutDone = true → k.mode = 1 → k.pend = [] → k.early = [] → k.copied < imageFrames →
        Answers .chkpt s (fun s' => s'.cores = s.cores ∧ s'.st.mem = s.st.mem ∧
          ∃ k', s'.eng.ckpt = some k' ∧ k'.copied = k.copied + 1))) ∧
    (∀ k, s.eng.ckpt = some k → k.cutDone = false → cutReady s k = true → s.ctxs = [] →
      (findCmd s k.quad k.uid).isSome = true →
      Answers .checkpointCut s (fun s' => (∃ n, s'.eng.ckpt = some { k with cutDone := true, image := n }) ∨ s'.eng.ckpt = none)) ∧
    (∀ c, findCmd s (s.op 0) (s.op 1) = some c → engOp c = 9 → c.stopped = true → c.status = 0 → bitOf (engW c 0) 1 = false →
      (writeReply s (s.op 0) c).1 = true →
      Answers .checkpointEnd s (fun s' => findCmd s' (s.op 0) (s.op 1) = none))

/-- R90, R91, R198 to R206, R390 to R394, R422 to R425: the course of a task. A signal that does not bring JOIN to 0 only lowers it; a
record is examined, tested, granted its claims and made ready, or looked up; an idle sequencer pops it with its registers; a
parked one wakes into a queue; a task retires in two steps; a pre-emption checkpoints or reruns its victim, or drains it first.
The model's reading: logs 2, 94 to 101. -/
def Obligations.TaskEvents : Prop :=
  ∀ (s : State),
    (∀ g bs s1 old s2, s.tk.signals[s.op 0]? = some g → (s.tk.signals.take (s.op 0)).any (fun x => x.tid == g.tid) = false →
      readVA { s with tk := { s.tk with signals := dropNth s.tk.signals (s.op 0) } }
        { Who.self g.ctx 6 g.tid with key := agentKey 12 g.tid } (g.cr + 40) 8 = (.ok bs, s1) →
      rmwVA s1 { Who.self g.ctx 6 g.tid with key := agentKey 12 g.tid } (g.cr + 32) 8 false [33, 0, 0] joinLess = (.ok old, s2) →
      (1 < ofBytes old % 2 ^ 24 → exec .signal s = .next s2) ∧
      (ofBytes old % 2 ^ 24 = 0 → exec .signal s = .next (signalEvent s2 g Cause.sigunder))) ∧
    (∀ old : List Byte, joinLess old =
      bytesOf 8 (if ofBytes old % 2 ^ 24 = 0 then ofBytes old else ofBytes old - 1)) ∧
    (∀ r r1 s1, RecAt s r → r.examined = false → loadRecord s r = (.ok r1, s1) →
      (headerBad s1 (!r1.resumed) r1.launch r1.hdr = true → exec .drillExamine s = .next (failRecord s1 r1 Cause.crbad)) ∧
      (∀ ds s2, headerBad s1 (!r1.resumed) r1.launch r1.hdr = false → r1.handler = false → crSucc r1.hdr = 0 →
        examineTiles s1 (drillWho s1 r1) (crTiles r1.hdr) = (.ok ds, s2) →
        exec .drillExamine s = .next (putRec s2 (raisePrio s2 { r1 with examined := true, tiles := ds })))) ∧
    (∀ r, RecAt s r → r.examined = true → r.tested = false → r.ready = false →
      (r.tiles.zipIdx.all (fun x => descHolds s r x.2 x.1) = true →
        exec .drillRetest s = .next (putRec s { r with tested := true, cpos := 0, kept := r.claims.length })) ∧
      (r.tiles.zipIdx.all (fun x => descHolds s r x.2 x.1) = false → exec .drillRetest s = .next s)) ∧
    (∀ r, RecAt s r → r.tested = true → r.ready = false →
      (∀ d, r.tiles[r.cpos]? = some d → descHolds s r r.cpos d = true →
        exec .claimRequest s = .next (putRec (grantClaim s r r.cpos d).2 { (grantClaim s r r.cpos d).1 with cpos := (grantClaim s r r.cpos d).1.cpos + 1 })) ∧
      (∀ d, r.tiles[r.cpos]? = some d → descHolds s r r.cpos d = false →
        exec .claimRequest s = .next (putRec (settleClaims s r.ctx false (r.claims.drop r.kept))
          { r with claims := r.claims.take r.kept, tested := false, cpos := 0 })) ∧
      (r.tiles[r.cpos]? = none → needsLookup r = false →
        exec .claimRequest s = .next (putRec s { r with ready := true, readySince := s.clk.cycle }))) ∧
    (∀ r, RecAt s r → r.tested = true → r.ready = false → r.tiles.length ≤ r.cpos → needsLookup r = true →
      (∀ s1, granaryKey s (drillWho s r) r.launch (nth 0 r.hdr 1) (crLive r.hdr) r.regs r.tiles = (.ok none, s1) →
        exec .granaryLookup s = .next (putRec s1 { r with looked := true, key := none, ready := true, readySince := s1.clk.cycle })) ∧
      (∀ k e s1, granaryKey s (drillWho s r) r.launch (nth 0 r.hdr 1) (crLive r.hdr) r.regs r.tiles = (.ok (some k), s1) →
        granMatch s1 (dieOfQuad (drillQuad s1 r)) k (outSizes s1 (drillWho s r) r.tiles) = some e →
        exec .granaryLookup s = .next (granaryHit s s1 r e))) ∧
    (∀ r cls s1, idleCore s (s.op 0) = true → ckptStops s = false → pickRecord s (quadOf (s.op 0)) = (some (cls, r), s1) →
      r.ckpt = none →
      Answers .drillPop s (fun s' => s'.st = s1.st ∧ (getCore s' (s.op 0)).pc = crCode r.hdr ∧
        (getCore s' (s.op 0)).unfin = [] ∧ (getCore s' (s.op 0)).halted = false ∧ (getCore s' (s.op 0)).sys = r.handler ∧
        (∃ f, (getCore s' (s.op 0)).run = some f ∧ f.task.rid = r.rid ∧ f.task.ctx = r.ctx) ∧
        (getCore s' (s.op 0)).gpr 1 = nth 0 r.hdr 1 ∧
        (∀ x : Reg, 2 ≤ x.val → x.val < 16 → (getCore s' (s.op 0)).gpr x = 0) ∧
        findRec s' r.rid = none)) ∧
    (∀ r s1, s.tk.parked.find? (fun r => r.rid == s.op 0) = some r → ctxRuns s r.ctx = true →
      (parkHolds s r.ctx r.engcmds (crWkind r.hdr) (crWphase r.hdr) (crWarg r.hdr) = true → enqueueRec s r = some s1 →
        exec .parkWake s = .next { s1 with tk := { s1.tk with parked := s1.tk.parked.filter (fun x => x.rid != r.rid) } }) ∧
      (parkHolds s r.ctx r.engcmds (crWkind r.hdr) (crWphase r.hdr) (crWarg r.hdr) = false → exec .parkWake s = .next s)) ∧
    (∀ g, s.tk.retiring[s.op 0]? = some g →
      (g.out = false → engDrained s g.task.engcmds = true → g.task.key = none → crSucc g.task.hdr = 0 →
        Answers .taskRetire s (fun s' => s'.tk.retiring = setNth s.tk.retiring (s.op 0) { g with out := true } ∧
          s'.tk.signals = s.tk.signals ++ g.task.sigs.map (fun cr =>
            ⟨cr, g.task.ctx, g.task.launch, quadCore g.task.quad, g.task.rid⟩))) ∧
      (g.out = false → engDrained s g.task.engcmds = false → exec .taskRetire s = .next s) ∧
      (g.out = true → s.tk.signals.any (fun x => x.owner == g.task.rid) = false → g.task.handler = false →
        Answers .taskRetire s (fun s' => s'.tk.retiring = dropNth s.tk.retiring (s.op 0)))) ∧
    (∀ c f, getCore s (s.op 0) = c → c.run = some f → (hasFaulted c = false ∨ c.halted = true) →
      (requestAt s (s.op 0) f = none → saveWants s (s.op 0) f = true → c.sys = false → estOf c f ≤ dlog s f.task.ctx →
        Answers .preemptionRequest s (fun s' => s'.st = s.st ∧ s'.cores = s.cores ∧
          requestAt s' (s.op 0) f = some ⟨f.started, s.clk.cycle, true, true, false⟩)) ∧
      (∀ p, requestAt s (s.op 0) f = some p → p.draining = false → p.waits = false →
        (p.forSave = true ∨ saveWants s (s.op 0) f = false) →
        (c.sys = true → Answers .preemptionRequest s (fun s' => s'.st = s.st ∧ s'.cores = s.cores ∧
          requestAt s' (s.op 0) f = some { p with draining := false, waits := true })) ∧
        (∀ s1, c.sys = false → midway c = false → awaitsOwner s (s.op 0) c = false → crCkpt f.task.hdr = true →
          ckptLoad s (quadOf (s.op 0)) < 256 →
          enqueueRec (unbind s f.task.ctx (coreBinder (s.op 0))) (checkpointed (s.op 0) c f) = some s1 →
          exec .preemptionRequest s = .next (setCore (dropCoreAsks s1 (s.op 0)) (s.op 0) (getCore s1 (s.op 0)).stop)) ∧
        (∀ s1, c.sys = false → (crCkpt f.task.hdr = false ∨ 256 ≤ ckptLoad s (quadOf (s.op 0))) → crIdem f.task.hdr = true →
          f.early = false →
          enqueueRec (unbind (settleClaims (cancelBarrier s (s.op 0) c) f.task.ctx false f.task.claims) f.task.ctx
              (coreBinder (s.op 0)))
            { f.task with hdr := f.task.orig, regs := f.task.origRegs, sigs := f.task.origSigs, claims := [], noins := false } = some s1 →
          exec .preemptionRequest s = .next (setCore (dropCoreAsks s1 (s.op 0)) (s.op 0) (getCore s1 (s.op 0)).stop))) ∧
      (∀ p, requestAt s (s.op 0) f = some p → p.draining = true →
        (s.clk.cycle < p.since + 4 * 2 ^ dlog s f.task.ctx → exec .preemptDrainExpiry s = .next s) ∧
        (p.since + 4 * 2 ^ dlog s f.task.ctx ≤ s.clk.cycle → c.sys = true →
          Answers .preemptDrainExpiry s (fun s' => s'.st = s.st ∧ s'.cores = s.cores ∧
            requestAt s' (s.op 0) f = some { p with draining := false, waits := true }))) ∧
      ((getCore s (s.op 0)).stop.run = none ∧ (getCore s (s.op 0)).stop.unfin = []))

/-- R207 to R209, R222, R376 to R387, R396, R401: the course of a launch. DOOR makes a slot busy or sets ERR; of the records that wait the
one that acceptance grants is read; one that fails its checks is refused with its cause, another accepted; a launch whose waits are satisfied learns its count and gets its swath; its code is
resident or filled; its instances enter; a die is withdrawn, and kept for the launch that needs it, or added; its end writes the
completion record and frees the swath. The model's reading: logs 21, 28, 93, 102 to 104 and 148. -/
def Obligations.LaunchEvents : Prop :=
  ∀ (s : State),
    (∀ q v, q < 256 → s.boot.held = false →
      (zeroBits v 63 4 = true → bitsOf v 3 0 < 15 → lqEn (getLQ s q) = true → (getLQ s q).busy.contains (bitsOf v 3 0) = false →
        Answers (.launchDoor q v) s (fun s' => s'.st = s.st ∧ s'.cores = s.cores ∧
          getLQ s' q = { getLQ s q with busy := (getLQ s q).busy ++ [bitsOf v 3 0] } ∧
          s'.ln.door = s.ln.door ++ [(q, bitsOf v 3 0, s.clk.cycle)])) ∧
      (zeroBits v 63 4 = false ∨ bitsOf v 3 0 = 15 ∨ lqEn (getLQ s q) = false ∨ (getLQ s q).busy.contains (bitsOf v 3 0) = true →
        Answers (.launchDoor q v) s (fun s' => s'.st = s.st ∧ getLQ s' q = { getLQ s q with err := true } ∧ s'.ln.door = s.ln.door))) ∧
    (∀ q j since w (free : State → State), s.ln.door[s.op 0]? = some (q, j, since) → s.boot.blob = true → ckptStops s = false →
      launchGrant s = some (s.op 0) → w = nth [] (getLQ s q).slots j →
      free = (fun s' : State => setLQ { s' with ln := { s'.ln with door := dropNth s'.ln.door (s.op 0) } } q
        { getLQ s' q with busy := (getLQ s q).busy.filter (· != j) }) →
      (∀ e, recordCause s (getLQ s q) w = some e →
        exec .launchArrival s = .next (refuseLaunch s free (lqCtx (getLQ s q)) w e)) ∧
      (∀ e s1, recordCause s (getLQ s q) w = none →
        codeCause s (launchWho (lqCtx (getLQ s q)) (recLid w)) (recVA (nth 0 w 0)) = (.ok (some e), s1) →
        exec .launchArrival s = .next (refuseLaunch s1 free (lqCtx (getLQ s q)) w e)) ∧
      (∀ e p r s1, vaReserved (nth 0 w 6) = false → signalReserved (nth 0 w 7) = false →
        translate s (launchWho (lqCtx (getLQ s q)) (recLid w)) (recVA (nth 0 w 6)) .write = .ok p →
        writeVA s (launchWho (lqCtx (getLQ s q)) (recLid w)) (recVA (nth 0 w 6))
          (compBytes (recLid w) 4 e 0 0 0 0 0 s.clk.dtime s.clk.dtime) = (r, s1) →
        refuseLaunch s free (lqCtx (getLQ s q)) w e = (match r with
          | .ok _ => launchSignal (free s1) (lqCtx (getLQ s q)) (recLid w) (nth 0 w 7)
          | .fault x => launchSignal (hostEvent (free s1) x (lqCtx (getLQ s q)) (recLid w) 0 0) (lqCtx (getLQ s q)) (recLid w) (nth 0 w 7)
          | .wait => s1)) ∧
      (∀ r s1, recordCause s (getLQ s q) w = none →
        codeCause s (launchWho (lqCtx (getLQ s q)) (recLid w)) (recVA (nth 0 w 0)) = (.ok none, s1) →
        translate s1 (launchWho (lqCtx (getLQ s q)) (recLid w)) (recVA (nth 0 w 6)) .write = .ok r →
        Answers .launchArrival s (fun s' => s'.st = s1.st ∧ ∃ l : Launch, s'.ln.live = s1.ln.live ++ [l] ∧ l.lid = recLid w ∧
          l.ctx = lqCtx (getLQ s q) ∧ l.words = w ∧ l.state = .accepted ∧ l.status = 0 ∧
          l.cls = max (bitsOf (nth 0 w 2) 47 45) (lqPcap (getLQ s q))))) ∧
    (∀ l, LaunchAt s l → l.state = .accepted → waitsDone s l = true → ctxRuns s l.ctx = true →
      (recInd l.words = false → exec .launchWaitSatisfied s = .next (updLaunch s l.lid (fun l' =>
        { l' with state := .allocating, count := bitsOf (nth 0 l.words 3) 31 0, began := s.st.past.length }))) ∧
      (∀ bs s1, recInd l.words = true →
        readVA s (launchWho l.ctx l.lid) (vaSext (bitsOf (nth 0 l.words 4) 56 2 * 4)) 4 = (.ok bs, s1) →
        exec .launchWaitSatisfied s = .next (updLaunch s1 l.lid (fun l' =>
          { l' with state := .allocating, count := min (ofBytes bs) (bitsOf (nth 0 l.words 3) 31 0), began := s1.st.past.length })))) ∧
    (∀ l qs, LaunchAt s l → l.state = .allocating → ctxRuns s l.ctx = true → heldUp s l = false → swathFor s l = some qs →
      exec .swathGrant s = .next (takeQuads s l qs)) ∧
    (∀ l d, LaunchAt s l → s.op 1 = d → l.state = .running → l.dies.contains d = true → l.filled.contains d = false → l.status = 0 →
      ctxRuns s l.ctx = true →
      (s.ln.code.any (fun c => c.die == d && c.ctx == l.ctx && c.va == launchCode l) = true →
        Answers .codeFill s (fun s' => s'.st = s.st ∧ s'.cores = s.cores ∧
          ∀ l', findLaunch s' l.lid = some l' → l'.filled = l.filled ++ [d])) ∧
      (∀ hb s1 body s2, s.ln.code.any (fun c => c.die == d && c.ctx == l.ctx && c.va == launchCode l) = false →
        readVA s (launchWho l.ctx l.lid) (launchCode l) 64 = (.ok hb, s1) →
        readVA s1 (launchWho l.ctx l.lid) (launchCode l + 64) (objSegs (wordsOf 8 hb)) = (.ok body, s2) →
        (∀ e, pagesCause s2 (launchWho l.ctx l.lid) .exec (pagesOf (launchCode l) (64 + objSegs (wordsOf 8 hb))) = some e →
          exec .codeFill s = .next (appendEvent (updLaunch s2 l.lid (fun l =>
            { l with status := 4, cause := if l.cause = 0 then e else l.cause })) l.ctx
            ⟨e, 3, 0, quadCore (nth 0 (dieQuads d) 0), l.lid, launchCode l, 0⟩)) ∧
        (pagesCause s2 (launchWho l.ctx l.lid) .exec (pagesOf (launchCode l) (64 + objSegs (wordsOf 8 hb))) = none →
          s2.ln.code = [] → objSegs (wordsOf 8 hb) ≤ 2 ^ 22 →
          Answers .codeFill s (fun s' => s'.st = s2.st ∧ s'.ln.code = [⟨d, l.ctx, launchCode l, objSegs (wordsOf 8 hb),
            shake256 (digestBytes (wordsOf 8 hb) body), l.order⟩])))) ∧
    (∀ l h rs s1, LaunchAt s l → l.state = .running → l.status = 0 → l.entered < l.count → ctxRuns s l.ctx = true →
      l.dies.all (fun d => l.filled.contains d) = true →
      readCR s (launchWho l.ctx l.lid) (recVA (nth 0 l.words 1)) = (.ok (h, rs), s1) →
      (∀ s2, crJoin h = 0 → crQuad h = 0x3FF →
        enqueueRec { s1 with tk := { s1.tk with nextRid := s1.tk.nextRid + 1 } } (TaskRec.make s1.tk.nextRid none
          (instanceHdr l l.entered (nth 0 l.quads (l.entered % max l.quads.length 1)) h) rs l.ctx l.lid
          (nth 0 l.quads (l.entered % max l.quads.length 1))) = some s2 →
        exec .instanceEntry s = .next (updLaunch s2 l.lid (fun l => { l with entered := l.entered + 1, live := l.live + 1 })))) ∧
    (∀ l, LaunchAt s l → l.leaving = [] → l.state = .running → recNquad l.words = 0 → recMind l.words < l.dies.length →
      s.ln.live.any (fun m => m.state == .allocating && ctxRuns s m.ctx && m.cls < l.cls && lacksDies s m) = true →
      exec .dieWithdraw s = .next (updLaunch s l.lid (fun l => { l with leaving := l.leaving ++ [nextLeaving l] }))) ∧
    (∀ l, LaunchAt s l →
      ((∀ d ∈ l.leaving, dieBusy s l d = true) → l.dies.length ≤ recMind l.words + l.leaving.length → exec .dieWithdraw s = .next s) ∧
      (∀ d, l.leaving.find? (fun d => !dieBusy s l d) = some d → exec .dieWithdraw s = .next (finishWithdraw s l d)) ∧
      (∀ d l', findLaunch (finishWithdraw s l d) l.lid = some l' → l'.quads = l.quads.filter (fun q => dieOfQuad q != d) ∧
        l'.leaving = l.leaving.filter (· != d)) ∧
      (∀ d m m', neediest s l = some m → m.lid ≠ l.lid → findLaunch s m.lid = some m →
        findLaunch (finishWithdraw s l d) m.lid = some m' → m'.kept = m.kept ++ [d])) ∧
    (∀ l d ds, LaunchAt s l → mayGrow l = true → s.ln.live.any (waitsAhead s l) = false →
      s.ln.live.any (fun m => mayGrow m && ctxRuns s m.ctx && (m.cls < l.cls || (m.cls == l.cls && m.order < l.order))) = false →
      ctxRuns s l.ctx = true → freeDies s l = d :: ds →
      exec .dieAdd s = .next (takeQuads s l (usableQuads s d))) ∧
    (∀ l, LaunchAt s l →
      (launchEnded s l = false → exec .launchComplete s = .next s) ∧
      (∀ r s0 s1, launchEnded s l = true → s0 = unloadIdle s l →
        writeVA s0 (launchWho l.ctx l.lid) (recVA (nth 0 l.words 6)) (compBytes l.lid (launchStatus l) l.cause l.faults l.engcmds
          l.hits l.entered l.tasks l.tacc s0.clk.dtime) = (r, s1) →
        exec .launchComplete s = .next (match r with
          | .ok _ => leaveLive s1 l
          | .fault e => leaveLive (hostEvent s1 e l.ctx l.lid 0 0) l
          | .wait => s1)) ∧
      (findLaunch (leaveLive s l) l.lid = none ∧
        ∀ q, s.ln.live.all (fun m => m.lid == l.lid || !m.quads.contains q) = true → quadFree (leaveLive s l) q = true)) ∧
    (∀ l, compBytes l.lid (launchStatus l) l.cause l.faults l.engcmds l.hits l.entered l.tasks l.tacc s.clk.dtime =
      bytesOf 8 (l.lid * 2 ^ 48 + launchStatus l * 2 ^ 40 + l.cause.toNat) ++ bytesOf 8 (l.faults * 2 ^ 32 + l.engcmds) ++
        bytesOf 8 (l.hits * 2 ^ 32 + l.entered) ++ bytesOf 8 l.tasks ++ bytesOf 8 l.tacc ++ bytesOf 8 s.clk.dtime ++
        List.replicate 16 0)

/-! ### The host -/

/-- R376, R377, R392, R395, R454, R455, R465 to R467: the host's registers. A write that passes its register's checks leaves its
value, one that does not sets HWSTAT, and none acts while the module is held in reset; reads of HWSTAT and LQSTAT clear what
R455 and R377 say; a reservation table written is in effect after the next frame boundary; KEYLD is busy, and refuses, until its key
slot is filled or emptied; an attestation ends in its report; a halted core goes on at the next word. The model's reading: logs 4, 8,
20, 28, 110 to 112. -/
def Obligations.HostRegisterEvents : Prop :=
  ∀ (s : State) (port : Bool) (v : Word),
    (∀ off kind i ctx q len wr, s.boot.held = true → ∀ x ∈ [Instr.registerWrite port off v, .grtabWrite port v, .rsvtWrite port kind off v,
        .keyLoad port v, .keyClear port v, .attestationRequest port v, .haltResume port v, .semaphoreWrite port i v,
        .semaphoreRead i true true, .launchDoor q v, .contextCreate port ctx v, .contextSave port v, .contextRestore port v,
        .contextKill port v, .contextRelease port v, .hostMemoryAccess port off len wr, .linkTrained i], exec x s = .next s) ∧
    (∀ q, q < 256 → s.boot.held = false →
      (zeroBits v 62 56 = true → zeroBits v 38 0 = true → Answers (.registerWrite port (0x1000 + 8 * q) v) s (fun s' =>
        s'.st = s.st ∧ s'.cores = s.cores ∧ getLQ s' q = { getLQ s q with cfg := v })) ∧
      (zeroBits v 62 56 = false ∨ zeroBits v 38 0 = false →
        exec (.registerWrite port (0x1000 + 8 * q) v) s = .next (hwRefuse s port (0x1000 + 8 * q) Cause.lnchbad)) ∧
      (∀ j i, j < 15 → i < 8 → (getLQ s q).busy.contains j = false → (getLQ s q).slots.length = 15 →
        (nth [] (getLQ s q).slots j).length = 8 →
        Answers (.registerWrite port (0x20000000 + 1024 * q + 64 * j + 8 * i) v) s (fun s' => s'.st = s.st ∧ s'.cores = s.cores ∧
          nth 0 (nth [] (getLQ s' q).slots j) i = v))) ∧
    (∀ q, q < 256 → Answers (.lqstatRead port q) s (fun s' => s'.st = s.st ∧ s'.host.reply = lqstat (getLQ s q) ∧
      getLQ s' q = { getLQ s q with err := false })) ∧
    (∀ off, off < 0x20000000 → off % 8 ≠ 0 → exec (.registerWrite port off v) s = .next s) ∧
    (zeroBits v 62 45 = true → zeroBits v 11 0 = true → 10 ≤ bitsOf v 44 40 → bitsOf v 44 40 ≤ 22 → s.boot.held = false →
      (bitOf s.ln.grtab 63 = false ∨ bitsOf s.ln.grtab 62 0 = bitsOf v 62 0) →
      Answers (.grtabWrite port v) s (fun s' => s'.st = s.st ∧ s'.cores = s.cores ∧ s'.ln.grtab = v ∧
        s'.ln.gran = if bitOf v 63 then s.ln.gran else [])) ∧
    (zeroBits v 62 45 = false ∨ zeroBits v 11 0 = false → s.boot.held = false →
      exec (.grtabWrite port v) s = .next (hwRefuse s port 0x2000 Cause.grcfg)) ∧
    (∀ kind off, kind < 15 → off < 256 → (rsvtLatest s kind).length ≤ 184 → s.boot.held = false →
      Answers (.rsvtWrite port kind off v) s (fun s' => s'.st = s.st ∧ s'.cores = s.cores ∧
        (∀ i, i < 256 → rsvtByte s' kind i = rsvtByte s kind i) ∧
        ∀ i, i < 8 → (rsvtLatest s' kind).getD (off / 8 * 8 + i) 0 = BitVec.ofNat 8 (v.toNat / 256 ^ i))) ∧
    (∀ since t, s.ln.rsvtNew.get? (s.op 0) = some (since, t) →
      (framePassed s (s.op 0) since = true → Answers .frameBoundary s (fun s' => s'.st = s.st ∧ s'.cores = s.cores ∧
        s'.ln.rsvtNew.get? (s.op 0) = none ∧ ∀ i, i < 256 → s'.ln.rsvt.getD (s.op 0 * 256 + i) 0 = t.getD i 0)) ∧
      (framePassed s (s.op 0) since = false → exec .frameBoundary s = .next s)) ∧
    (∀ which, Answers (.hwstatRead port which) s (fun s' => s'.st = s.st ∧
      s'.host.reply = (if which then s.host.hwstatB else s.host.hwstatA) ∧
      s'.host.hwstatB = (if which then 0 else s.host.hwstatB) ∧ s'.host.hwstatA = (if which then s.host.hwstatA else 0))) ∧
    (s.boot.held = false → zeroBits v 61 24 = true → bitOf s.boot.keyld 63 = false →
      (bitOf v 62 = false → exec (.keyLoad port v) s = .next { s with boot := { s.boot with keyld := v } }) ∧
      (bitOf v 62 = true → exec (.keyClear port v) s = .next { s with boot := { s.boot with keyld := v } })) ∧
    (s.boot.held = false → zeroBits v 61 24 = false ∨ bitOf s.boot.keyld 63 = true →
      (bitOf v 62 = false → exec (.keyLoad port v) s = .next (hwRefuse s port 0x110 Cause.ptebad)) ∧
      (bitOf v 62 = true → exec (.keyClear port v) s = .next (hwRefuse s port 0x110 Cause.ptebad))) ∧
    (bitOf s.boot.keyld 63 = true → bitOf (keyldDone s).boot.keyld 63 = false ∧
      (bitOf s.boot.keyld 62 = false → (keyldDone s).boot.keys.get? (bitsOf s.boot.keyld 7 0) = some (bitsOf s.boot.keyld 23 8)) ∧
      (bitOf s.boot.keyld 62 = true → (keyldDone s).boot.keys.get? (bitsOf s.boot.keyld 7 0) = none)) ∧
    (s.boot.held = false → zeroBits v 61 0 = true → bitOf v 63 = true →
      (bitOf s.boot.fmbcmd 63 = false →
        Answers (.attestationRequest port v) s (fun s' => s'.boot.fmbcmd = withBits v 62 62 0 ∧ s'.st = s.st)) ∧
      (bitOf s.boot.fmbcmd 63 = true →
        exec (.attestationRequest port v) s = .next (hwRefuse s port 0x400 Cause.hostcfg))) ∧
    (bitOf s.boot.fmbcmd 63 = true → s.boot.fmbnonce.length = 4 → Answers .attestationDone s (fun s' => s'.st = s.st ∧
      bitsOf s'.boot.fmbcmd 63 62 = 1 ∧ s'.boot.fmbrep.length = 320 ∧
      s'.boot.fmbrep.take 40 = bytesOfWords s.boot.fmbnonce ++ bytesOf 8 s.boot.node)) ∧
    (∀ t, tidOfSel (bitsOf v 15 0) = some t → bitOf v 63 = true → zeroBits v 62 16 = true → isCore t = true → s.boot.held = false →
      ((getCore s t).halted = true → Answers (.haltResume port v) s (fun s' => OnlyCore s s' t ∧
        getCore s' t = { getCore s t with pc := (getCore s t).pc + 4, halted := false })) ∧
      ((getCore s t).halted = false → exec (.haltResume port v) s = .next (hwRefuse s port 0x140 Cause.hostcfg)))

/-- R457: a read of a free semaphore claims it for the reading port and answers the new owner, 1 for Lowyn A and 2 for Lowyn B, a read
of a held one answers its owner and changes nothing; of two reads in one cycle the port that lost the last tie wins, Lowyn A
the first after reset; a write of 0 by the owner frees, every other write is discarded; reset leaves all of them free. -/
def Obligations.SemaphoreRule : Prop :=
  ∀ (s : State) (port : Bool) (i : Nat) (v : Word), i < 16 →
    (∀ a b, a = true ∨ b = true → s.boot.held = false →
      (s.host.sems.getD i 0 = 0 → Answers (.semaphoreRead i a b) s (fun s' => s'.st = s.st ∧ s'.cores = s.cores ∧
        (∀ j, j ≠ i → s'.host.sems.getD j 0 = s.host.sems.getD j 0) ∧
        ∃ own, s'.host.sems.getD i 0 = own ∧ s'.host.reply = BitVec.ofNat 64 own ∧
          (b = false → own = 1 ∧ s'.host.semTie = s.host.semTie) ∧ (a = false → own = 2 ∧ s'.host.semTie = s.host.semTie) ∧
          (a = true → b = true → own = (if s.host.semTie then 2 else 1) ∧ s'.host.semTie = !s.host.semTie))) ∧
      (s.host.sems.getD i 0 ≠ 0 → Answers (.semaphoreRead i a b) s (fun s' => s'.host.sems = s.host.sems ∧ s'.st = s.st ∧
        s'.host.semTie = s.host.semTie ∧ s'.host.reply = BitVec.ofNat 64 (s.host.sems.getD i 0)))) ∧
    (v = 0 → s.boot.held = false → s.host.sems.getD i 0 = (if port then 2 else 1) →
      Answers (.semaphoreWrite port i v) s (fun s' => s'.host.sems.getD i 0 = 0 ∧ s'.st = s.st ∧ s'.cores = s.cores ∧
        ∀ j, j ≠ i → s'.host.sems.getD j 0 = s.host.sems.getD j 0)) ∧
    (v ≠ 0 ∨ s.host.sems.getD i 0 ≠ (if port then 2 else 1) → exec (.semaphoreWrite port i v) s = .next s) ∧
    exec (.registerWrite port (8 * i) v) s = exec (.semaphoreWrite port i v) s ∧
    State.reset.host.sems.getD i 0 = 0 ∧ State.reset.host.semTie = false ∧
    (∀ image blob, Answers (.moduleReset image blob) s (fun s' => s'.host.sems.getD i 0 = 0 ∧ s'.host.semTie = false))

/-- R13, R433, R456, R458, R459, R460 to R464, R469: the rest of the host's side. An access through BAR 4 reads or writes the IA that the
aperture names, or waits, or faults with HWSTAT; MODULE_RESET leaves the module as after reset but for host memory; a die comes up, or is fallow;
links go down and come up; time beacons pass; a die too hot is fallow and its contexts are killed. The model's reading: the
blob's values and the memories kept by a reset (log 4), cause 0 (log 16), logs 109, 113, 114 and 147. -/
def Obligations.HostModuleEvents : Prop :=
  ∀ (s : State) (port : Bool),
    (∀ off wr len n s1, n = (match (wr : Option (List Byte)) with
        | some bs => bs.length
        | none => len) → off + n ≤ 2 ^ 36 → s.boot.held = false → otherFlight s port off n = false →
      (∀ bs, hostAccess s port (hostParts s (apertureIA s port off n) n) wr = (.ok bs, s1) →
        Answers (.hostMemoryAccess port off len wr) s (fun s' => s'.st = s1.st ∧ s'.cores = s1.cores ∧ s'.host.replyBytes = bs ∧
          s'.host.unsupported = false ∧ flightOf s' port off n = none)) ∧
      (∀ e, hostAccess s port (hostParts s (apertureIA s port off n) n) wr = (.fault e, s1) →
        exec (.hostMemoryAccess port off len wr) s = .next (hwRefuse (endFlight s1 port true) port (off % 2 ^ 32) e)) ∧
      (hostAccess s port (hostParts s (apertureIA s port off n) n) wr = (.wait, s1) →
        exec (.hostMemoryAccess port off len wr) s = .next (keepFlight s1 port off n (apertureIA s port off n / 2 ^ 36)))) ∧
    (∀ image blob, Answers (.moduleReset image blob) s (fun s' => s'.st.host = s.st.host ∧ s'.cores = [] ∧ s'.ctxs = [] ∧
      s'.fab = State.reset.fab ∧ s'.tl = State.reset.tl ∧ s'.bar = State.reset.bar ∧ s'.ln.live = [] ∧ s'.tk.drill = [] ∧
      s'.boot.blob = (image && blob) ∧ s'.boot.held = !image ∧ ∀ k, 2 * 2 ^ 44 ≤ k → cellGet s'.st.mem k = 0)) ∧
    (∀ die, die < 4 → s.boot.blob = true → s.boot.dies.length = 4 → nth (⟨false, true⟩ : Die) s.boot.dies die = ⟨false, false⟩ →
      (∀ d, d < die → (nth (⟨false, true⟩ : Die) s.boot.dies d).ready = true) →
      Answers (.diePowerUp die true) s (fun s' => s'.cores = s.cores ∧ nth (⟨false, true⟩ : Die) s'.boot.dies die = ⟨true, false⟩ ∧
        s'.host = s.host ∧ ∀ t off, t < 4096 → off < 2 ^ 20 → dieOf t = die → cellGet s'.st.mem (tileKey t off) = 0) ∧
      Answers (.diePowerUp die false) s (fun s' => s'.cores = s.cores ∧ s'.st.mem = s.st.mem ∧
        nth (⟨false, true⟩ : Die) s'.boot.dies die = ⟨false, true⟩ ∧ s'.host.seq = s.host.seq + 1)) ∧
    (∀ l, l < 16 →
      (s.boot.links.getLsbD l = true → Answers (.linkDown l) s (fun s' =>
        s'.boot.links = s.boot.links &&& ~~~(BitVec.ofNat 16 (2 ^ l)))) ∧
      (s.boot.links.getLsbD l = false → exec (.linkDown l) s = .next s) ∧
      (s.boot.held = false → Answers (.linkTrained l) s (fun s' => s'.st = s.st ∧ s'.cores = s.cores ∧ s'.boot.links.getLsbD l = true ∧
        ∀ m, m ≠ l → s'.boot.links.getLsbD m = s.boot.links.getLsbD m))) ∧
    (s.boot.blob = true → s.boot.node = s.boot.timeRoot → s.clk.beacons = [] →
      Answers .timeBeacon s (fun s' => s'.st = s.st ∧ s'.cores = s.cores ∧ s'.clk.beacons = [s.clk.dtime] ∧
        s'.host.netOut.length = s.host.netOut.length + ((List.range 16).filter (fun l => s.boot.links.getLsbD l)).length)) ∧
    (∀ l t, l < 16 → s.boot.links.getLsbD l = true → s.boot.node ≠ s.boot.timeRoot →
      Answers (.beaconArrival l t) s (fun s' => s'.st = s.st ∧ s'.cores = s.cores ∧
        s'.clk.slew = Int.ofNat (t + Sys2Proof.Config.linkDelay l) - Int.ofNat s.clk.dtime)) ∧
    (∀ block, Answers (.thermalLimit block) s (fun s' => s'.cores = s.cores ∧ s'.st.mem = s.st.mem ∧
      s'.host.seq = s.host.seq + 1 ∧ s'.host.events = s.host.events ++
        [⟨0, 0, 0, 0, BitVec.ofNat 64 block, s.clk.dtime, s.host.seq + 1⟩])) ∧
    (∀ die, die < 4 → s.boot.dies.length = 4 → Answers (.thermalCritical die) s (fun s' =>
      nth (⟨false, true⟩ : Die) s'.boot.dies die = ⟨false, true⟩ ∧
      ∀ ctx c, (ctx, c) ∈ s.ctxs → c.state = .active → worksOn s ctx die = true → (getCtx s' ctx).state = .killed))

/-! ### Words, steps, and what every step keeps -/

/-- R225 to R238: the decoder reads back what the encoder writes, for every well-formed instruction of the sequencer and of the
elements: no bit of an operand field is dropped. -/
def Obligations.DecodeEncodeAgree : Prop :=
  ∀ i : Instr, i.wf = true →
    (i.wordKind = .sequencer → decodeSeq (encode i) = .ok i.canon) ∧
    (i.wordKind = .element → decodeElem (encode i) = .ok i)

/-- R225 to R238: words written out from the encodings (those of the spec's worked examples among them) stand for their
instructions; words that R235, R236, R237 and R238 reject are rejected with the cause they name. -/
def Obligations.SpecWordsDecode : Prop :=
  decodeSeq 0x20A00000 = .ok (.ldi 5 0) ∧ decodeSeq 0x24A53456 = .ok (.ldsh 5 5 0x3456) ∧
  decodeSeq 0x00611001 = .ok (.sub 3 1 2) ∧ decodeSeq 0x18840010 = .ok (.shri 4 4 16) ∧
  decodeSeq 0x0884FFFF = .ok (.andi 4 4 0xFFFF) ∧ decodeSeq 0x4043FFFE = .ok (.beq 2 3 0xFFFE) ∧
  decodeSeq 0x8022C008 = .ok (.ld 1 2 .d64 8) ∧ decodeSeq 0x94220950 = .ok (.atomAnd 1 2 5 .w64) ∧
  decodeSeq 0x9C000005 = .ok (.fence .pod) ∧ decodeSeq 0xC12A1801 = .ok (.park 9 10 1) ∧
  decodeSeq 0xC4E82000 = .ok (.arm 7 8 0) ∧ decodeSeq 0xCC641140 = .ok (.bwait 3 4 5) ∧
  decodeSeq 0xD4000103 = .ok (.publish .core 3) ∧ decodeSeq 0xD4601100 = .ok (.gprobe 3 4) ∧
  decodeSeq 0 = .ok (.add 0 0 0) ∧ decodeSeq 0x34000000 = .error Cause.illop ∧ decodeSeq 0x0000001F = .error Cause.illfn ∧
  decodeSeq 0x20010000 = .error Cause.illfld ∧ decodeSeq 0x8022E008 = .error Cause.illsize ∧
  decodeSeq 0x9C000006 = .error Cause.scope ∧ decodeElem 0x7580B800 = .ok (.mharrow .s (.loc 5 .p) .none) ∧
  decodeElem 0x75880000 = .ok (.mharrow .s (.eg 0) .none) ∧
  decodeElem 0x01200804 = .ok (.iadd .s16 (.loc 0 .l) (.loc 0 .r)) ∧ decodeElem 0x14000000 = .error Cause.elemop ∧
  decodeElem 0x01600000 = .error Cause.elemmod ∧ decodeElem 0x30500000 = .error Cause.rmode ∧
  decodeElem 0x01000001 = .error Cause.target

/-- R2, R214, R225, R235, R254, R255: what one step does. Time advances by a cycle of 5/12 ns; a core's turn runs exec of the instruction that the
word at its pc decodes to, or of one that a return has put back to be issued again (R410), or takes the fault of that word or
of its fetch; a slot's turn runs exec of the instruction that its
word decodes to, after noting a ready slot as the one that fired last; an event's turn runs exec of the event. The model's
reading: one turn to a cycle and the order of turns (logs 1, 3 and 123). -/
def Obligations.StepRunsDecodedWord : Prop :=
  (∀ s : State, s.clk.cycle < 2 ^ 64 - 1 → s.clk.dtime < 2 ^ 64 - 1 → s.clk.slew = 0 → s.clk.rem < 12 →
    (tick s).clk.cycle = s.clk.cycle + 1 ∧ (tick s).clk.rem < 12 ∧
    12 * (tick s).clk.dtime + (tick s).clk.rem = 12 * s.clk.dtime + s.clk.rem + 5) ∧
  (∀ s : State, (roundTick s).clk = (tick s).clk) ∧
  ∀ (s s0 : State) (x : Turn) (xs : List Turn), turns (roundTick s) = x :: xs → s0 = { roundTick s with agenda := xs } →
    (∀ t c f, x = .core t → getCore s0 t = c → c.run = some f → c.halted = false →
      (∀ a e, a ∈ c.unfin → a.phase = .faulted e → midway c = false →
        step s = exec .afterIssueFault { s0 with focus := (t, 0), ops := [t] }) ∧
      (∀ a l i, hasFaulted c = false ∨ midway c = true → c.replay = a :: l → decodeSeq a.word = .ok i →
        step s = exec i { s0 with focus := (t, 0) }) ∧
      (hasFaulted c = false ∨ midway c = true → c.replay = [] →
        (∀ w i s1, fetchWord { s0 with focus := (t, 0) } t f c.pc = (some (.ok w), s1) → decodeSeq w = .ok i → step s = exec i s1) ∧
        (∀ w e s1, fetchWord { s0 with focus := (t, 0) } t f c.pc = (some (.ok w), s1) → decodeSeq w = .error e →
          step s = exec (.decodeFault w) s1) ∧
        (∀ e s1, fetchWord { s0 with focus := (t, 0) } t f c.pc = (some (.error e), s1) → step s = exec (.fetchFault e) s1) ∧
        (∀ s1, fetchWord { s0 with focus := (t, 0) } t f c.pc = (none, s1) → step s = .next s1))) ∧
    (x = .forfin → step s = .next (keyldDone s0)) ∧
    (∀ t n i, x = .slot t n → decodeElem (slotWord s0 t n) = .ok i → step s = exec i { noteFired s0 t n with focus := (t, n) }) ∧
    (∀ i ops, x = .event i ops → step s = exec i { s0 with ops := ops })

/-- R30, R52, R113, R192, R376, R405, R464: the values that the spec gives for reset, and the canonical form of the storage there.
The model's reading: unlisted bytes read 0 (log 5). -/
def Obligations.ResetValues : Prop :=
  State.reset.stored = true ∧ State.reset.xl.heatcfg = 0x0401000040000180 ∧
  (∀ q, lqPcap (getLQ State.reset q) = 7 ∧ lqEn (getLQ State.reset q) = false) ∧
  (∀ id, getBar State.reset id = ⟨0, 0, 0, 0, 0, 0, 0, false, 0, 0, 0, [], false⟩) ∧
  (∀ ctx, (getCtx State.reset ctx).state = .none ∧ (getCtx State.reset ctx).ranges = List.replicate 16 (0, 0, 0) ∧
    (getCtx State.reset ctx).nectl = List.replicate 8 0xFFFFFFFF00000000 ∧ (getCtx State.reset ctx).tvec = 0) ∧
  State.reset.boot.blob = false ∧ (∀ t off, cellGet State.reset.st.mem (tileKey t off) = 0)

/-- R3, R464 (with log 5 for what unlisted bytes read as): every step keeps the storage in its canonical form, the module's
memories and the host's: addresses rising, no byte listed that reads as it would unlisted. -/
def Obligations.StepKeepsStorageForm : Prop :=
  ∀ s s' : State, s.stored = true → step s = .next s' → s'.stored = true
end

