-- ==== Sys2Proof/Laws/Maps.lean ====
section
/-! SUPPORT. Laws of sparse tables and of list positions: read after write, read after a write elsewhere, read after a drop. -/
namespace Sys2Proof.Machine

theorem SMap.get?_cons {α : Type} (k' : Nat) (v' : α) (m : SMap α) (j : Nat) :
    SMap.get? ((k', v') :: m) j = if k' = j then some v' else m.get? j := rfl

theorem SMap.get?_set {α : Type} (m : SMap α) (k j : Nat) (v : α) :
    (m.set k v).get? j = if j = k then some v else m.get? j := by
  induction m with
  | nil => simp [SMap.set, SMap.get?_cons, SMap.get?, eq_comm]
  | cons e m ih =>
    obtain ⟨k', v'⟩ := e
    simp only [SMap.set]
    by_cases hj : j = k
    · subst hj
      rw [if_pos rfl]
      split
      · simp [SMap.get?_cons]
      · split
        · simp [SMap.get?_cons]
        · rw [SMap.get?_cons, ih, if_pos rfl, if_neg (by omega)]
    · rw [if_neg hj] at ih ⊢
      split
      · rw [SMap.get?_cons, if_neg (by omega)]
      · split
        · rw [SMap.get?_cons, SMap.get?_cons, if_neg (by omega), if_neg (by omega)]
        · rw [SMap.get?_cons, SMap.get?_cons, ih]

@[simp] theorem SMap.get?_set_self {α : Type} (m : SMap α) (k : Nat) (v : α) : (m.set k v).get? k = some v := by
  simp [SMap.get?_set]

theorem SMap.get?_set_ne {α : Type} (m : SMap α) {k j : Nat} (v : α) (h : j ≠ k) : (m.set k v).get? j = m.get? j := by
  simp [SMap.get?_set, h]

theorem SMap.get?_erase {α : Type} (m : SMap α) (k j : Nat) :
    (m.erase k).get? j = if j = k then none else m.get? j := by
  induction m with
  | nil => simp [SMap.erase, SMap.get?]
  | cons e m ih =>
    obtain ⟨k', v'⟩ := e
    simp only [SMap.erase]
    by_cases hj : j = k
    · subst hj
      rw [if_pos rfl] at ih ⊢
      split
      · exact ih
      · rw [SMap.get?_cons, ih, if_neg (by omega)]
    · rw [if_neg hj] at ih ⊢
      split
      · rw [SMap.get?_cons, ih, if_neg (by omega)]
      · rw [SMap.get?_cons, SMap.get?_cons, ih]

@[simp] theorem SMap.getD_set_self {α : Type} (m : SMap α) (k : Nat) (v d : α) : (m.set k v).getD k d = v := by
  simp [SMap.getD]

theorem SMap.getD_set {α : Type} (m : SMap α) (k j : Nat) (v d : α) :
    (m.set k v).getD j d = if j = k then v else m.getD j d := by
  simp only [SMap.getD, SMap.get?_set]; split <;> simp

theorem SMap.getD_set_ne {α : Type} (m : SMap α) {k j : Nat} (v d : α) (h : j ≠ k) : (m.set k v).getD j d = m.getD j d := by
  simp [SMap.getD_set, h]

theorem SMap.getD_erase {α : Type} (m : SMap α) (k j : Nat) (d : α) :
    (m.erase k).getD j d = if j = k then d else m.getD j d := by
  simp only [SMap.getD, SMap.get?_erase]; split <;> simp

theorem SMap.getD_put {α : Type} [DecidableEq α] (m : SMap α) (k j : Nat) (v d : α) :
    (SMap.put d m k v).getD j d = if j = k then v else m.getD j d := by
  simp only [SMap.put]
  split
  · simp only [SMap.getD_erase]; split <;> simp_all
  · exact SMap.getD_set m k j v d

theorem SMap.length_set_le {α : Type} (m : SMap α) (k : Nat) (v : α) : (m.set k v).length ≤ m.length + 1 := by
  induction m with
  | nil => simp [SMap.set]
  | cons e m ih =>
    obtain ⟨k', v'⟩ := e
    simp only [SMap.set]
    split
    · simp
    · split <;> simp; omega

theorem SMap.length_erase_le {α : Type} (m : SMap α) (k : Nat) : (m.erase k).length ≤ m.length := by
  induction m with
  | nil => simp [SMap.erase]
  | cons e m ih =>
    obtain ⟨k', v'⟩ := e
    simp only [SMap.erase]
    split <;> simp <;> omega

theorem SMap.length_put_le {α : Type} [DecidableEq α] (d : α) (m : SMap α) (k : Nat) (v : α) :
    (SMap.put d m k v).length ≤ m.length + 1 := by
  simp only [SMap.put]
  split
  · exact Nat.le_succ_of_le (SMap.length_erase_le m k)
  · exact SMap.length_set_le m k v

/-- A value mapped over a table. -/
theorem SMap.get?_map {α β : Type} (m : SMap α) (f : α → β) (k : Nat) :
    SMap.get? (m.map (fun e => (e.1, f e.2))) k = (m.get? k).map f := by
  induction m with
  | nil => rfl
  | cons e m ih =>
    obtain ⟨k', v'⟩ := e
    simp only [List.map_cons, SMap.get?]
    split <;> simp [ih]

theorem length_setNth {α : Type} (l : List α) (i : Nat) (v : α) : (setNth l i v).length = l.length := by
  induction l generalizing i with
  | nil => rfl
  | cons x l ih => cases i <;> simp [setNth, ih]

theorem nth_setNth {α : Type} (d : α) (l : List α) (i j : Nat) (v : α) (h : i < l.length) :
    nth d (setNth l i v) j = if j = i then v else nth d l j := by
  induction l generalizing i j with
  | nil => simp at h
  | cons x l ih =>
    cases i with
    | zero => cases j <;> simp [setNth, nth]
    | succ i =>
      cases j with
      | zero => simp [setNth, nth]
      | succ j => simp only [setNth, nth, ih i j (by simpa using h)]; split <;> split <;> simp_all

theorem nth_eq_getD {α : Type} (d : α) (l : List α) (i : Nat) : nth d l i = l.getD i d := by
  induction l generalizing i with
  | nil => rfl
  | cons x l ih => cases i <;> simp [nth, ih]

theorem nth_map {α β : Type} (d : α) (e : β) (f : α → β) (l : List α) (i : Nat) (h : i < l.length) :
    nth e (l.map f) i = f (nth d l i) := by
  induction l generalizing i with
  | nil => simp at h
  | cons x l ih => cases i <;> simp_all [nth]

@[simp] theorem length_bytesOf (n v : Nat) : (bytesOf n v).length = n := by
  induction n generalizing v with
  | zero => rfl
  | succ n ih => simp [bytesOf, ih]

/-- The little-endian bytes of a number give back its low bits (R3). -/
theorem ofBytes_bytesOf (n v : Nat) : ofBytes (bytesOf n v) = v % 256 ^ n := by
  induction n generalizing v with
  | zero => simp [bytesOf, ofBytes, Nat.mod_one]
  | succ n ih =>
    show (BitVec.ofNat 8 v).toNat + 256 * ofBytes (bytesOf n (v / 256)) = v % 256 ^ (n + 1)
    rw [ih, BitVec.toNat_ofNat, show 256 ^ (n + 1) = 256 * 256 ^ n by rw [Nat.pow_succ, Nat.mul_comm], Nat.mod_mul]

end Sys2Proof.Machine
end

