-- ==== Sys2Proof/Laws/Memory.lean ====
section
/-! SUPPORT. Laws of the byte storage: read after write, and that every operation keeps the canonical form. -/
namespace Sys2Proof.Machine

/-! ### Read after write -/

theorem cellGet_of_lt {lo : Nat} (m : List Host.Cell) (h : Memory.wfFrom lo m = true) {a : Nat} (ha : a < lo) :
    cellGet m a = 0 := by
  induction m generalizing lo with
  | nil => rfl
  | cons e m ih =>
    obtain ⟨a', b'⟩ := e
    simp only [Memory.wfFrom, Bool.and_eq_true, decide_eq_true_eq] at h
    show (if a' = a then b' else cellGet m a) = 0
    rw [if_neg (by omega)]
    exact ih h.2 (by omega)

theorem wfFrom_mono {lo lo' : Nat} (m : List Host.Cell) (h : Memory.wfFrom lo m = true) (hl : lo' ≤ lo) :
    Memory.wfFrom lo' m = true := by
  cases m with
  | nil => rfl
  | cons e m =>
    obtain ⟨a', b'⟩ := e
    simp only [Memory.wfFrom, Bool.and_eq_true, decide_eq_true_eq] at h ⊢
    exact ⟨⟨by omega, h.1.2⟩, h.2⟩

/-- Writing a byte keeps the canonical form. -/
theorem cellSet_wfFrom {lo : Nat} (m : List Host.Cell) (a : Nat) (b : Byte) (h : Memory.wfFrom lo m = true) (ha : lo ≤ a) :
    Memory.wfFrom lo (cellSet m a b) = true := by
  induction m generalizing lo with
  | nil =>
    simp only [cellSet]
    split
    · rfl
    · rename_i hb
      simp only [Memory.wfFrom, Bool.and_eq_true, decide_eq_true_eq, bne_iff_ne, ne_eq]
      exact ⟨⟨ha, hb⟩, trivial⟩
  | cons e m ih =>
    obtain ⟨a', b'⟩ := e
    have hw := h
    simp only [Memory.wfFrom, Bool.and_eq_true, decide_eq_true_eq, bne_iff_ne, ne_eq] at h
    obtain ⟨⟨h1, h2⟩, h3⟩ := h
    simp only [cellSet]
    split
    · split
      · exact hw
      · rename_i hlt hb
        simp only [Memory.wfFrom, Bool.and_eq_true, decide_eq_true_eq, bne_iff_ne, ne_eq]
        exact ⟨⟨ha, hb⟩, ⟨by omega, h2⟩, h3⟩
    · split
      · split
        · exact wfFrom_mono m h3 (by omega)
        · rename_i hb
          subst_vars
          simp only [Memory.wfFrom, Bool.and_eq_true, decide_eq_true_eq, bne_iff_ne, ne_eq]
          exact ⟨⟨ha, hb⟩, h3⟩
      · simp only [Memory.wfFrom, Bool.and_eq_true, decide_eq_true_eq, bne_iff_ne, ne_eq]
        exact ⟨⟨h1, h2⟩, ih h3 (by omega)⟩

/-- Writing a byte keeps the canonical form. -/
theorem cellSet_wf (m : List Host.Cell) (a : Nat) (b : Byte) (h : Memory.wf m = true) : Memory.wf (cellSet m a b) = true :=
  cellSet_wfFrom m a b h (Nat.zero_le a)

/-- Read after write, in a canonical memory. -/
theorem cellGet_cellSet {lo : Nat} (m : List Host.Cell) (a j : Nat) (b : Byte) (h : Memory.wfFrom lo m = true) :
    cellGet (cellSet m a b) j = if j = a then b else cellGet m j := by
  induction m generalizing lo with
  | nil =>
    simp only [cellSet]
    split
    · rename_i hb
      by_cases hj : j = a
      · rw [if_pos hj, hb]; rfl
      · rw [if_neg hj]
    · show (if a = j then b else 0) = if j = a then b else 0
      by_cases hj : j = a
      · rw [if_pos hj, if_pos hj.symm]
      · rw [if_neg hj, if_neg (fun hh => hj hh.symm)]
  | cons e m ih =>
    obtain ⟨a', b'⟩ := e
    simp only [Memory.wfFrom, Bool.and_eq_true, decide_eq_true_eq] at h
    have hc : ∀ (x : Nat) (y : Byte) (l : List Host.Cell) (k : Nat),
        cellGet ((x, y) :: l) k = if x = k then y else cellGet l k := fun _ _ _ _ => rfl
    simp only [cellSet]
    split
    · rename_i hlt
      split
      · rename_i hb
        by_cases hj : j = a
        · subst hj
          rw [if_pos rfl, hc, if_neg (by omega), hb]
          exact cellGet_of_lt m h.2 (by omega)
        · rw [if_neg hj]
      · by_cases hj : j = a
        · rw [hc, if_pos hj.symm, if_pos hj]
        · rw [hc, if_neg (fun hh => hj hh.symm), if_neg hj]
    · split
      · rename_i ha
        subst ha
        split
        · rename_i hb
          by_cases hj : j = a
          · rw [if_pos hj, hb, hj]
            exact cellGet_of_lt m h.2 (by omega)
          · rw [if_neg hj, hc, if_neg (fun hh => hj hh.symm)]
        · by_cases hj : j = a
          · rw [hc, if_pos hj.symm, if_pos hj]
          · rw [hc, hc, if_neg (fun hh => hj hh.symm), if_neg hj, if_neg (fun hh => hj hh.symm)]
      · rw [hc, hc, ih h.2]
        by_cases hj : j = a
        · rw [if_pos hj]; split <;> first | rfl | omega
        · rw [if_neg hj, if_neg hj]

/-- A byte written reads back. -/
theorem cellGet_cellSet_self (m : List Host.Cell) (a : Nat) (b : Byte) (h : Memory.wf m = true) :
    cellGet (cellSet m a b) a = b := by
  rw [cellGet_cellSet m a a b h, if_pos rfl]

/-- A write leaves every other address alone. -/
theorem cellGet_cellSet_ne (m : List Host.Cell) {a j : Nat} (b : Byte) (h : Memory.wf m = true) (hj : j ≠ a) :
    cellGet (cellSet m a b) j = cellGet m j := by
  rw [cellGet_cellSet m a j b h, if_neg hj]

/-! ### Runs of bytes -/

theorem cellsSet_wf (bs : List Byte) : ∀ (m : List Host.Cell) (a : Nat), Memory.wf m = true → Memory.wf (cellsSet m a bs) = true := by
  induction bs with
  | nil => exact fun m a h => h
  | cons b bs ih => exact fun m a h => ih _ _ (cellSet_wf m a b h)

/-- A run of bytes written is there, and every address outside it is as before. -/
theorem cellGet_cellsSet (bs : List Byte) : ∀ (m : List Host.Cell) (a j : Nat), Memory.wf m = true →
    cellGet (cellsSet m a bs) j = if a ≤ j ∧ j < a + bs.length then nth 0 bs (j - a) else cellGet m j := by
  induction bs with
  | nil => intro m a j h; rw [if_neg (by simp)]; rfl
  | cons b bs ih =>
    intro m a j h
    show cellGet (cellsSet (cellSet m a b) (a + 1) bs) j = _
    rw [ih _ _ _ (cellSet_wf m a b h), cellGet_cellSet m a j b h]
    by_cases h1 : j = a
    · subst h1
      rw [if_neg (by omega), if_pos rfl, if_pos (by simp), Nat.sub_self]; rfl
    · rw [if_neg h1]
      by_cases h2 : a + 1 ≤ j ∧ j < a + 1 + bs.length
      · rw [if_pos h2, if_pos (by simp; omega), show j - a = (j - (a + 1)) + 1 by omega]; rfl
      · rw [if_neg h2, if_neg (by simp; omega)]

theorem length_cellsGet (m : List Host.Cell) (n : Nat) : ∀ a, (cellsGet m a n).length = n := by
  induction n with
  | zero => exact fun _ => rfl
  | succ n ih => exact fun a => by simp [cellsGet, ih]

/-- A run of bytes written reads back. -/
theorem cellsGet_cellsSet_self (m : List Host.Cell) (a : Nat) (bs : List Byte) (h : Memory.wf m = true) :
    cellsGet (cellsSet m a bs) a bs.length = bs := by
  have key : ∀ (l : List Byte) (M : List Host.Cell) (c : Nat),
      (∀ i, i < l.length → cellGet M (c + i) = nth 0 l i) → cellsGet M c l.length = l := by
    intro l
    induction l with
    | nil => exact fun _ _ _ => rfl
    | cons b l ih =>
      intro M c hh
      show cellGet M c :: cellsGet M (c + 1) l.length = b :: l
      rw [show cellGet M c = b from hh 0 (by simp), ih M (c + 1) (fun i hi => by
        rw [Nat.add_assoc, Nat.add_comm 1 i]; exact hh (i + 1) (by simpa using hi))]
  apply key
  intro i hi
  rw [cellGet_cellsSet bs m a (a + i) h, if_pos ⟨by omega, by omega⟩, show a + i - a = i by omega]

/-- Cells taken out of a canonical memory leave a canonical one. -/
theorem filter_wfFrom (p : Host.Cell → Bool) : ∀ (m : List Host.Cell) (lo : Nat),
    Memory.wfFrom lo m = true → Memory.wfFrom lo (m.filter p) = true := by
  intro m
  induction m with
  | nil => exact fun _ _ => rfl
  | cons e m ih =>
    intro lo h
    obtain ⟨a', b'⟩ := e
    simp only [Memory.wfFrom, Bool.and_eq_true, decide_eq_true_eq] at h
    rw [List.filter_cons]
    split
    · simp only [Memory.wfFrom, Bool.and_eq_true, decide_eq_true_eq]
      exact ⟨h.1, ih _ h.2⟩
    · exact wfFrom_mono _ (ih _ h.2) (by omega)

theorem filter_wf (p : Host.Cell → Bool) (m : List Host.Cell) (h : Memory.wf m = true) : Memory.wf (m.filter p) = true :=
  filter_wfFrom p m 0 h

/-- A cell that a test drops reads as zero. -/
theorem cellGet_filter_drop (p : Host.Cell → Bool) (m : List Host.Cell) (k : Nat) (h : ∀ b, p (k, b) = false) :
    cellGet (m.filter p) k = 0 := by
  induction m with
  | nil => rfl
  | cons e m ih =>
    obtain ⟨a', b'⟩ := e
    rw [List.filter_cons]
    split
    · rename_i hp
      show (if a' = k then b' else cellGet (m.filter p) k) = 0
      by_cases hk : a' = k
      · subst hk; rw [h b'] at hp; simp at hp
      · rw [if_neg hk]; exact ih
    · exact ih

/-- A cell that a test keeps reads as before. -/
theorem cellGet_filter_keep (p : Host.Cell → Bool) (m : List Host.Cell) (k : Nat) (h : ∀ b, p (k, b) = true) :
    cellGet (m.filter p) k = cellGet m k := by
  induction m with
  | nil => rfl
  | cons e m ih =>
    obtain ⟨a', b'⟩ := e
    rw [List.filter_cons]
    split
    · show (if a' = k then b' else cellGet (m.filter p) k) = (if a' = k then b' else cellGet m k)
      rw [ih]
    · rename_i hp
      show cellGet (m.filter p) k = (if a' = k then b' else cellGet m k)
      by_cases hk : a' = k
      · subst hk; rw [h b'] at hp; simp at hp
      · rw [if_neg hk]; exact ih

/-! ### Memory tiles -/

/-- A byte of a tile is written with its check symbols: the canonical form stays (R61, R64). -/
theorem tileWriteByte_wf (m : List Host.Cell) (t : Tid) (off : Nat) (v : Byte) (failed : Option Nat)
    (h : Memory.wf m = true) : Memory.wf (tileWriteByte m t off v failed) = true := by
  simp only [tileWriteByte]
  split <;> split <;> split <;> first | assumption | (repeat' apply cellSet_wf) <;> assumption

theorem tileWriteBytes_wf (failed : Option Nat) (t : Tid) (vs : List Byte) : ∀ (m : List Host.Cell) (off : Nat),
    Memory.wf m = true → Memory.wf (tileWriteBytes m t off failed vs) = true := by
  induction vs with
  | nil => exact fun _ _ h => h
  | cons v vs ih => exact fun m off h => ih _ _ (tileWriteByte_wf m t off v failed h)

end Sys2Proof.Machine
end

