-- ==== Sys2Proof/Laws/State.lean ====
section
/-! SUPPORT. What each named update of State leaves alone, field by field, and what it writes. -/
namespace Sys2Proof.Machine
set_option Elab.async false

/-! ### setCore -/

@[simp] theorem setCore_clk (s : State) (t : Tid) (c : Core) : (setCore s t c).clk = s.clk := rfl
@[simp] theorem setCore_boot (s : State) (t : Tid) (c : Core) : (setCore s t c).boot = s.boot := rfl
@[simp] theorem setCore_st (s : State) (t : Tid) (c : Core) : (setCore s t c).st = s.st := rfl
@[simp] theorem setCore_tl (s : State) (t : Tid) (c : Core) : (setCore s t c).tl = s.tl := rfl
@[simp] theorem setCore_xl (s : State) (t : Tid) (c : Core) : (setCore s t c).xl = s.xl := rfl
@[simp] theorem setCore_ctxs (s : State) (t : Tid) (c : Core) : (setCore s t c).ctxs = s.ctxs := rfl
@[simp] theorem setCore_fab (s : State) (t : Tid) (c : Core) : (setCore s t c).fab = s.fab := rfl
@[simp] theorem setCore_bar (s : State) (t : Tid) (c : Core) : (setCore s t c).bar = s.bar := rfl
@[simp] theorem setCore_eng (s : State) (t : Tid) (c : Core) : (setCore s t c).eng = s.eng := rfl
@[simp] theorem setCore_tk (s : State) (t : Tid) (c : Core) : (setCore s t c).tk = s.tk := rfl
@[simp] theorem setCore_ln (s : State) (t : Tid) (c : Core) : (setCore s t c).ln = s.ln := rfl
@[simp] theorem setCore_host (s : State) (t : Tid) (c : Core) : (setCore s t c).host = s.host := rfl
@[simp] theorem setCore_saved (s : State) (t : Tid) (c : Core) : (setCore s t c).saved = s.saved := rfl
@[simp] theorem setCore_cuts (s : State) (t : Tid) (c : Core) : (setCore s t c).cuts = s.cuts := rfl
@[simp] theorem setCore_agenda (s : State) (t : Tid) (c : Core) : (setCore s t c).agenda = s.agenda := rfl
@[simp] theorem setCore_focus (s : State) (t : Tid) (c : Core) : (setCore s t c).focus = s.focus := rfl
@[simp] theorem setCore_ops (s : State) (t : Tid) (c : Core) : (setCore s t c).ops = s.ops := rfl
@[simp] theorem setCore_free (s : State) (t : Tid) (c : Core) : (setCore s t c).free = s.free := rfl

/-! ### setCtx -/

@[simp] theorem setCtx_clk (s : State) (k : Nat) (x : Ctx) : (setCtx s k x).clk = s.clk := rfl
@[simp] theorem setCtx_boot (s : State) (k : Nat) (x : Ctx) : (setCtx s k x).boot = s.boot := rfl
@[simp] theorem setCtx_st (s : State) (k : Nat) (x : Ctx) : (setCtx s k x).st = s.st := rfl
@[simp] theorem setCtx_tl (s : State) (k : Nat) (x : Ctx) : (setCtx s k x).tl = s.tl := rfl
@[simp] theorem setCtx_xl (s : State) (k : Nat) (x : Ctx) : (setCtx s k x).xl = s.xl := rfl
@[simp] theorem setCtx_cores (s : State) (k : Nat) (x : Ctx) : (setCtx s k x).cores = s.cores := rfl
@[simp] theorem setCtx_fab (s : State) (k : Nat) (x : Ctx) : (setCtx s k x).fab = s.fab := rfl
@[simp] theorem setCtx_bar (s : State) (k : Nat) (x : Ctx) : (setCtx s k x).bar = s.bar := rfl
@[simp] theorem setCtx_eng (s : State) (k : Nat) (x : Ctx) : (setCtx s k x).eng = s.eng := rfl
@[simp] theorem setCtx_tk (s : State) (k : Nat) (x : Ctx) : (setCtx s k x).tk = s.tk := rfl
@[simp] theorem setCtx_ln (s : State) (k : Nat) (x : Ctx) : (setCtx s k x).ln = s.ln := rfl
@[simp] theorem setCtx_host (s : State) (k : Nat) (x : Ctx) : (setCtx s k x).host = s.host := rfl
@[simp] theorem setCtx_saved (s : State) (k : Nat) (x : Ctx) : (setCtx s k x).saved = s.saved := rfl
@[simp] theorem setCtx_cuts (s : State) (k : Nat) (x : Ctx) : (setCtx s k x).cuts = s.cuts := rfl
@[simp] theorem setCtx_agenda (s : State) (k : Nat) (x : Ctx) : (setCtx s k x).agenda = s.agenda := rfl
@[simp] theorem setCtx_focus (s : State) (k : Nat) (x : Ctx) : (setCtx s k x).focus = s.focus := rfl
@[simp] theorem setCtx_ops (s : State) (k : Nat) (x : Ctx) : (setCtx s k x).ops = s.ops := rfl
@[simp] theorem setCtx_free (s : State) (k : Nat) (x : Ctx) : (setCtx s k x).free = s.free := rfl

/-! ### setBar -/

@[simp] theorem setBar_clk (s : State) (k : Nat) (b : Barrier) : (setBar s k b).clk = s.clk := rfl
@[simp] theorem setBar_boot (s : State) (k : Nat) (b : Barrier) : (setBar s k b).boot = s.boot := rfl
@[simp] theorem setBar_st (s : State) (k : Nat) (b : Barrier) : (setBar s k b).st = s.st := rfl
@[simp] theorem setBar_tl (s : State) (k : Nat) (b : Barrier) : (setBar s k b).tl = s.tl := rfl
@[simp] theorem setBar_xl (s : State) (k : Nat) (b : Barrier) : (setBar s k b).xl = s.xl := rfl
@[simp] theorem setBar_ctxs (s : State) (k : Nat) (b : Barrier) : (setBar s k b).ctxs = s.ctxs := rfl
@[simp] theorem setBar_cores (s : State) (k : Nat) (b : Barrier) : (setBar s k b).cores = s.cores := rfl
@[simp] theorem setBar_fab (s : State) (k : Nat) (b : Barrier) : (setBar s k b).fab = s.fab := rfl
@[simp] theorem setBar_bar_arrivals (s : State) (k : Nat) (b : Barrier) : (setBar s k b).bar.arrivals = s.bar.arrivals := rfl
@[simp] theorem setBar_bar_discharges (s : State) (k : Nat) (b : Barrier) : (setBar s k b).bar.discharges = s.bar.discharges := rfl
@[simp] theorem setBar_bar_joins (s : State) (k : Nat) (b : Barrier) : (setBar s k b).bar.joins = s.bar.joins := rfl
@[simp] theorem setBar_bar_completions (s : State) (k : Nat) (b : Barrier) : (setBar s k b).bar.completions = s.bar.completions := rfl
@[simp] theorem setBar_bar_prios (s : State) (k : Nat) (b : Barrier) : (setBar s k b).bar.prios = s.bar.prios := rfl
@[simp] theorem setBar_bar_poisons (s : State) (k : Nat) (b : Barrier) : (setBar s k b).bar.poisons = s.bar.poisons := rfl
@[simp] theorem setBar_bar_answers (s : State) (k : Nat) (b : Barrier) : (setBar s k b).bar.answers = s.bar.answers := rfl
@[simp] theorem setBar_bar_floors (s : State) (k : Nat) (b : Barrier) : (setBar s k b).bar.floors = s.bar.floors := rfl
@[simp] theorem setBar_eng (s : State) (k : Nat) (b : Barrier) : (setBar s k b).eng = s.eng := rfl
@[simp] theorem setBar_tk (s : State) (k : Nat) (b : Barrier) : (setBar s k b).tk = s.tk := rfl
@[simp] theorem setBar_ln (s : State) (k : Nat) (b : Barrier) : (setBar s k b).ln = s.ln := rfl
@[simp] theorem setBar_host (s : State) (k : Nat) (b : Barrier) : (setBar s k b).host = s.host := rfl
@[simp] theorem setBar_saved (s : State) (k : Nat) (b : Barrier) : (setBar s k b).saved = s.saved := rfl
@[simp] theorem setBar_cuts (s : State) (k : Nat) (b : Barrier) : (setBar s k b).cuts = s.cuts := rfl
@[simp] theorem setBar_agenda (s : State) (k : Nat) (b : Barrier) : (setBar s k b).agenda = s.agenda := rfl
@[simp] theorem setBar_focus (s : State) (k : Nat) (b : Barrier) : (setBar s k b).focus = s.focus := rfl
@[simp] theorem setBar_ops (s : State) (k : Nat) (b : Barrier) : (setBar s k b).ops = s.ops := rfl
@[simp] theorem setBar_free (s : State) (k : Nat) (b : Barrier) : (setBar s k b).free = s.free := rfl

/-! ### setSec -/

@[simp] theorem setSec_clk (s : State) (k : Nat) (x : Section) : (setSec s k x).clk = s.clk := rfl
@[simp] theorem setSec_boot (s : State) (k : Nat) (x : Section) : (setSec s k x).boot = s.boot := rfl
@[simp] theorem setSec_st (s : State) (k : Nat) (x : Section) : (setSec s k x).st = s.st := rfl
@[simp] theorem setSec_tl (s : State) (k : Nat) (x : Section) : (setSec s k x).tl = s.tl := rfl
@[simp] theorem setSec_xl (s : State) (k : Nat) (x : Section) : (setSec s k x).xl = s.xl := rfl
@[simp] theorem setSec_ctxs (s : State) (k : Nat) (x : Section) : (setSec s k x).ctxs = s.ctxs := rfl
@[simp] theorem setSec_cores (s : State) (k : Nat) (x : Section) : (setSec s k x).cores = s.cores := rfl
@[simp] theorem setSec_fab_slots (s : State) (k : Nat) (x : Section) : (setSec s k x).fab.slots = s.fab.slots := rfl
@[simp] theorem setSec_fab_ingress (s : State) (k : Nat) (x : Section) : (setSec s k x).fab.ingress = s.fab.ingress := rfl
@[simp] theorem setSec_fab_lastSlot (s : State) (k : Nat) (x : Section) : (setSec s k x).fab.lastSlot = s.fab.lastSlot := rfl
@[simp] theorem setSec_fab_frags (s : State) (k : Nat) (x : Section) : (setSec s k x).fab.frags = s.fab.frags := rfl
@[simp] theorem setSec_fab_switch (s : State) (k : Nat) (x : Section) : (setSec s k x).fab.switch = s.fab.switch := rfl
@[simp] theorem setSec_fab_bufs (s : State) (k : Nat) (x : Section) : (setSec s k x).fab.bufs = s.fab.bufs := rfl
@[simp] theorem setSec_fab_opunits (s : State) (k : Nat) (x : Section) : (setSec s k x).fab.opunits = s.fab.opunits := rfl
@[simp] theorem setSec_fab_portRR (s : State) (k : Nat) (x : Section) : (setSec s k x).fab.portRR = s.fab.portRR := rfl
@[simp] theorem setSec_fab_stopped (s : State) (k : Nat) (x : Section) : (setSec s k x).fab.stopped = s.fab.stopped := rfl
@[simp] theorem setSec_fab_gens (s : State) (k : Nat) (x : Section) : (setSec s k x).fab.gens = s.fab.gens := rfl
@[simp] theorem setSec_fab_tileSec (s : State) (k : Nat) (x : Section) : (setSec s k x).fab.tileSec = s.fab.tileSec := rfl
@[simp] theorem setSec_fab_msgs (s : State) (k : Nat) (x : Section) : (setSec s k x).fab.msgs = s.fab.msgs := rfl
@[simp] theorem setSec_fab_acks (s : State) (k : Nat) (x : Section) : (setSec s k x).fab.acks = s.fab.acks := rfl
@[simp] theorem setSec_bar (s : State) (k : Nat) (x : Section) : (setSec s k x).bar = s.bar := rfl
@[simp] theorem setSec_eng (s : State) (k : Nat) (x : Section) : (setSec s k x).eng = s.eng := rfl
@[simp] theorem setSec_tk (s : State) (k : Nat) (x : Section) : (setSec s k x).tk = s.tk := rfl
@[simp] theorem setSec_ln (s : State) (k : Nat) (x : Section) : (setSec s k x).ln = s.ln := rfl
@[simp] theorem setSec_host (s : State) (k : Nat) (x : Section) : (setSec s k x).host = s.host := rfl
@[simp] theorem setSec_saved (s : State) (k : Nat) (x : Section) : (setSec s k x).saved = s.saved := rfl
@[simp] theorem setSec_cuts (s : State) (k : Nat) (x : Section) : (setSec s k x).cuts = s.cuts := rfl
@[simp] theorem setSec_agenda (s : State) (k : Nat) (x : Section) : (setSec s k x).agenda = s.agenda := rfl
@[simp] theorem setSec_focus (s : State) (k : Nat) (x : Section) : (setSec s k x).focus = s.focus := rfl
@[simp] theorem setSec_ops (s : State) (k : Nat) (x : Section) : (setSec s k x).ops = s.ops := rfl
@[simp] theorem setSec_free (s : State) (k : Nat) (x : Section) : (setSec s k x).free = s.free := rfl

/-! ### setSlot -/

@[simp] theorem setSlot_clk (s : State) (t : Tid) (n : Nat) (x : Slot) : (setSlot s t n x).clk = s.clk := rfl
@[simp] theorem setSlot_boot (s : State) (t : Tid) (n : Nat) (x : Slot) : (setSlot s t n x).boot = s.boot := rfl
@[simp] theorem setSlot_st (s : State) (t : Tid) (n : Nat) (x : Slot) : (setSlot s t n x).st = s.st := rfl
@[simp] theorem setSlot_tl (s : State) (t : Tid) (n : Nat) (x : Slot) : (setSlot s t n x).tl = s.tl := rfl
@[simp] theorem setSlot_xl (s : State) (t : Tid) (n : Nat) (x : Slot) : (setSlot s t n x).xl = s.xl := rfl
@[simp] theorem setSlot_ctxs (s : State) (t : Tid) (n : Nat) (x : Slot) : (setSlot s t n x).ctxs = s.ctxs := rfl
@[simp] theorem setSlot_cores (s : State) (t : Tid) (n : Nat) (x : Slot) : (setSlot s t n x).cores = s.cores := rfl
@[simp] theorem setSlot_fab_ingress (s : State) (t : Tid) (n : Nat) (x : Slot) : (setSlot s t n x).fab.ingress = s.fab.ingress := rfl
@[simp] theorem setSlot_fab_lastSlot (s : State) (t : Tid) (n : Nat) (x : Slot) : (setSlot s t n x).fab.lastSlot = s.fab.lastSlot := rfl
@[simp] theorem setSlot_fab_frags (s : State) (t : Tid) (n : Nat) (x : Slot) : (setSlot s t n x).fab.frags = s.fab.frags := rfl
@[simp] theorem setSlot_fab_switch (s : State) (t : Tid) (n : Nat) (x : Slot) : (setSlot s t n x).fab.switch = s.fab.switch := rfl
@[simp] theorem setSlot_fab_bufs (s : State) (t : Tid) (n : Nat) (x : Slot) : (setSlot s t n x).fab.bufs = s.fab.bufs := rfl
@[simp] theorem setSlot_fab_opunits (s : State) (t : Tid) (n : Nat) (x : Slot) : (setSlot s t n x).fab.opunits = s.fab.opunits := rfl
@[simp] theorem setSlot_fab_portRR (s : State) (t : Tid) (n : Nat) (x : Slot) : (setSlot s t n x).fab.portRR = s.fab.portRR := rfl
@[simp] theorem setSlot_fab_stopped (s : State) (t : Tid) (n : Nat) (x : Slot) : (setSlot s t n x).fab.stopped = s.fab.stopped := rfl
@[simp] theorem setSlot_fab_gens (s : State) (t : Tid) (n : Nat) (x : Slot) : (setSlot s t n x).fab.gens = s.fab.gens := rfl
@[simp] theorem setSlot_fab_secs (s : State) (t : Tid) (n : Nat) (x : Slot) : (setSlot s t n x).fab.secs = s.fab.secs := rfl
@[simp] theorem setSlot_fab_tileSec (s : State) (t : Tid) (n : Nat) (x : Slot) : (setSlot s t n x).fab.tileSec = s.fab.tileSec := rfl
@[simp] theorem setSlot_fab_msgs (s : State) (t : Tid) (n : Nat) (x : Slot) : (setSlot s t n x).fab.msgs = s.fab.msgs := rfl
@[simp] theorem setSlot_fab_acks (s : State) (t : Tid) (n : Nat) (x : Slot) : (setSlot s t n x).fab.acks = s.fab.acks := rfl
@[simp] theorem setSlot_bar (s : State) (t : Tid) (n : Nat) (x : Slot) : (setSlot s t n x).bar = s.bar := rfl
@[simp] theorem setSlot_eng (s : State) (t : Tid) (n : Nat) (x : Slot) : (setSlot s t n x).eng = s.eng := rfl
@[simp] theorem setSlot_tk (s : State) (t : Tid) (n : Nat) (x : Slot) : (setSlot s t n x).tk = s.tk := rfl
@[simp] theorem setSlot_ln (s : State) (t : Tid) (n : Nat) (x : Slot) : (setSlot s t n x).ln = s.ln := rfl
@[simp] theorem setSlot_host (s : State) (t : Tid) (n : Nat) (x : Slot) : (setSlot s t n x).host = s.host := rfl
@[simp] theorem setSlot_saved (s : State) (t : Tid) (n : Nat) (x : Slot) : (setSlot s t n x).saved = s.saved := rfl
@[simp] theorem setSlot_cuts (s : State) (t : Tid) (n : Nat) (x : Slot) : (setSlot s t n x).cuts = s.cuts := rfl
@[simp] theorem setSlot_agenda (s : State) (t : Tid) (n : Nat) (x : Slot) : (setSlot s t n x).agenda = s.agenda := rfl
@[simp] theorem setSlot_focus (s : State) (t : Tid) (n : Nat) (x : Slot) : (setSlot s t n x).focus = s.focus := rfl
@[simp] theorem setSlot_ops (s : State) (t : Tid) (n : Nat) (x : Slot) : (setSlot s t n x).ops = s.ops := rfl
@[simp] theorem setSlot_free (s : State) (t : Tid) (n : Nat) (x : Slot) : (setSlot s t n x).free = s.free := rfl

/-! ### setBuf -/

@[simp] theorem setBuf_clk (s : State) (k : Nat) (l : List Token) : (setBuf s k l).clk = s.clk := rfl
@[simp] theorem setBuf_boot (s : State) (k : Nat) (l : List Token) : (setBuf s k l).boot = s.boot := rfl
@[simp] theorem setBuf_st (s : State) (k : Nat) (l : List Token) : (setBuf s k l).st = s.st := rfl
@[simp] theorem setBuf_tl (s : State) (k : Nat) (l : List Token) : (setBuf s k l).tl = s.tl := rfl
@[simp] theorem setBuf_xl (s : State) (k : Nat) (l : List Token) : (setBuf s k l).xl = s.xl := rfl
@[simp] theorem setBuf_ctxs (s : State) (k : Nat) (l : List Token) : (setBuf s k l).ctxs = s.ctxs := rfl
@[simp] theorem setBuf_cores (s : State) (k : Nat) (l : List Token) : (setBuf s k l).cores = s.cores := rfl
@[simp] theorem setBuf_fab_slots (s : State) (k : Nat) (l : List Token) : (setBuf s k l).fab.slots = s.fab.slots := rfl
@[simp] theorem setBuf_fab_ingress (s : State) (k : Nat) (l : List Token) : (setBuf s k l).fab.ingress = s.fab.ingress := rfl
@[simp] theorem setBuf_fab_lastSlot (s : State) (k : Nat) (l : List Token) : (setBuf s k l).fab.lastSlot = s.fab.lastSlot := rfl
@[simp] theorem setBuf_fab_frags (s : State) (k : Nat) (l : List Token) : (setBuf s k l).fab.frags = s.fab.frags := rfl
@[simp] theorem setBuf_fab_switch (s : State) (k : Nat) (l : List Token) : (setBuf s k l).fab.switch = s.fab.switch := rfl
@[simp] theorem setBuf_fab_opunits (s : State) (k : Nat) (l : List Token) : (setBuf s k l).fab.opunits = s.fab.opunits := rfl
@[simp] theorem setBuf_fab_portRR (s : State) (k : Nat) (l : List Token) : (setBuf s k l).fab.portRR = s.fab.portRR := rfl
@[simp] theorem setBuf_fab_stopped (s : State) (k : Nat) (l : List Token) : (setBuf s k l).fab.stopped = s.fab.stopped := rfl
@[simp] theorem setBuf_fab_gens (s : State) (k : Nat) (l : List Token) : (setBuf s k l).fab.gens = s.fab.gens := rfl
@[simp] theorem setBuf_fab_secs (s : State) (k : Nat) (l : List Token) : (setBuf s k l).fab.secs = s.fab.secs := rfl
@[simp] theorem setBuf_fab_tileSec (s : State) (k : Nat) (l : List Token) : (setBuf s k l).fab.tileSec = s.fab.tileSec := rfl
@[simp] theorem setBuf_fab_msgs (s : State) (k : Nat) (l : List Token) : (setBuf s k l).fab.msgs = s.fab.msgs := rfl
@[simp] theorem setBuf_fab_acks (s : State) (k : Nat) (l : List Token) : (setBuf s k l).fab.acks = s.fab.acks := rfl
@[simp] theorem setBuf_bar (s : State) (k : Nat) (l : List Token) : (setBuf s k l).bar = s.bar := rfl
@[simp] theorem setBuf_eng (s : State) (k : Nat) (l : List Token) : (setBuf s k l).eng = s.eng := rfl
@[simp] theorem setBuf_tk (s : State) (k : Nat) (l : List Token) : (setBuf s k l).tk = s.tk := rfl
@[simp] theorem setBuf_ln (s : State) (k : Nat) (l : List Token) : (setBuf s k l).ln = s.ln := rfl
@[simp] theorem setBuf_host (s : State) (k : Nat) (l : List Token) : (setBuf s k l).host = s.host := rfl
@[simp] theorem setBuf_saved (s : State) (k : Nat) (l : List Token) : (setBuf s k l).saved = s.saved := rfl
@[simp] theorem setBuf_cuts (s : State) (k : Nat) (l : List Token) : (setBuf s k l).cuts = s.cuts := rfl
@[simp] theorem setBuf_agenda (s : State) (k : Nat) (l : List Token) : (setBuf s k l).agenda = s.agenda := rfl
@[simp] theorem setBuf_focus (s : State) (k : Nat) (l : List Token) : (setBuf s k l).focus = s.focus := rfl
@[simp] theorem setBuf_ops (s : State) (k : Nat) (l : List Token) : (setBuf s k l).ops = s.ops := rfl
@[simp] theorem setBuf_free (s : State) (k : Nat) (l : List Token) : (setBuf s k l).free = s.free := rfl

/-! ### setFrag -/

@[simp] theorem setFrag_clk (s : State) (t : Tid) (f : Frag) : (setFrag s t f).clk = s.clk := rfl
@[simp] theorem setFrag_boot (s : State) (t : Tid) (f : Frag) : (setFrag s t f).boot = s.boot := rfl
@[simp] theorem setFrag_st (s : State) (t : Tid) (f : Frag) : (setFrag s t f).st = s.st := rfl
@[simp] theorem setFrag_tl (s : State) (t : Tid) (f : Frag) : (setFrag s t f).tl = s.tl := rfl
@[simp] theorem setFrag_xl (s : State) (t : Tid) (f : Frag) : (setFrag s t f).xl = s.xl := rfl
@[simp] theorem setFrag_ctxs (s : State) (t : Tid) (f : Frag) : (setFrag s t f).ctxs = s.ctxs := rfl
@[simp] theorem setFrag_cores (s : State) (t : Tid) (f : Frag) : (setFrag s t f).cores = s.cores := rfl
@[simp] theorem setFrag_fab_slots (s : State) (t : Tid) (f : Frag) : (setFrag s t f).fab.slots = s.fab.slots := rfl
@[simp] theorem setFrag_fab_ingress (s : State) (t : Tid) (f : Frag) : (setFrag s t f).fab.ingress = s.fab.ingress := rfl
@[simp] theorem setFrag_fab_lastSlot (s : State) (t : Tid) (f : Frag) : (setFrag s t f).fab.lastSlot = s.fab.lastSlot := rfl
@[simp] theorem setFrag_fab_switch (s : State) (t : Tid) (f : Frag) : (setFrag s t f).fab.switch = s.fab.switch := rfl
@[simp] theorem setFrag_fab_bufs (s : State) (t : Tid) (f : Frag) : (setFrag s t f).fab.bufs = s.fab.bufs := rfl
@[simp] theorem setFrag_fab_opunits (s : State) (t : Tid) (f : Frag) : (setFrag s t f).fab.opunits = s.fab.opunits := rfl
@[simp] theorem setFrag_fab_portRR (s : State) (t : Tid) (f : Frag) : (setFrag s t f).fab.portRR = s.fab.portRR := rfl
@[simp] theorem setFrag_fab_stopped (s : State) (t : Tid) (f : Frag) : (setFrag s t f).fab.stopped = s.fab.stopped := rfl
@[simp] theorem setFrag_fab_gens (s : State) (t : Tid) (f : Frag) : (setFrag s t f).fab.gens = s.fab.gens := rfl
@[simp] theorem setFrag_fab_secs (s : State) (t : Tid) (f : Frag) : (setFrag s t f).fab.secs = s.fab.secs := rfl
@[simp] theorem setFrag_fab_tileSec (s : State) (t : Tid) (f : Frag) : (setFrag s t f).fab.tileSec = s.fab.tileSec := rfl
@[simp] theorem setFrag_fab_msgs (s : State) (t : Tid) (f : Frag) : (setFrag s t f).fab.msgs = s.fab.msgs := rfl
@[simp] theorem setFrag_fab_acks (s : State) (t : Tid) (f : Frag) : (setFrag s t f).fab.acks = s.fab.acks := rfl
@[simp] theorem setFrag_bar (s : State) (t : Tid) (f : Frag) : (setFrag s t f).bar = s.bar := rfl
@[simp] theorem setFrag_eng (s : State) (t : Tid) (f : Frag) : (setFrag s t f).eng = s.eng := rfl
@[simp] theorem setFrag_tk (s : State) (t : Tid) (f : Frag) : (setFrag s t f).tk = s.tk := rfl
@[simp] theorem setFrag_ln (s : State) (t : Tid) (f : Frag) : (setFrag s t f).ln = s.ln := rfl
@[simp] theorem setFrag_host (s : State) (t : Tid) (f : Frag) : (setFrag s t f).host = s.host := rfl
@[simp] theorem setFrag_saved (s : State) (t : Tid) (f : Frag) : (setFrag s t f).saved = s.saved := rfl
@[simp] theorem setFrag_cuts (s : State) (t : Tid) (f : Frag) : (setFrag s t f).cuts = s.cuts := rfl
@[simp] theorem setFrag_agenda (s : State) (t : Tid) (f : Frag) : (setFrag s t f).agenda = s.agenda := rfl
@[simp] theorem setFrag_focus (s : State) (t : Tid) (f : Frag) : (setFrag s t f).focus = s.focus := rfl
@[simp] theorem setFrag_ops (s : State) (t : Tid) (f : Frag) : (setFrag s t f).ops = s.ops := rfl
@[simp] theorem setFrag_free (s : State) (t : Tid) (f : Frag) : (setFrag s t f).free = s.free := rfl

/-! ### setGen -/

@[simp] theorem setGen_clk (s : State) (t : Tid) (g : Nat) (x : Gen) : (setGen s t g x).clk = s.clk := rfl
@[simp] theorem setGen_boot (s : State) (t : Tid) (g : Nat) (x : Gen) : (setGen s t g x).boot = s.boot := rfl
@[simp] theorem setGen_st (s : State) (t : Tid) (g : Nat) (x : Gen) : (setGen s t g x).st = s.st := rfl
@[simp] theorem setGen_tl (s : State) (t : Tid) (g : Nat) (x : Gen) : (setGen s t g x).tl = s.tl := rfl
@[simp] theorem setGen_xl (s : State) (t : Tid) (g : Nat) (x : Gen) : (setGen s t g x).xl = s.xl := rfl
@[simp] theorem setGen_ctxs (s : State) (t : Tid) (g : Nat) (x : Gen) : (setGen s t g x).ctxs = s.ctxs := rfl
@[simp] theorem setGen_cores (s : State) (t : Tid) (g : Nat) (x : Gen) : (setGen s t g x).cores = s.cores := rfl
@[simp] theorem setGen_fab_slots (s : State) (t : Tid) (g : Nat) (x : Gen) : (setGen s t g x).fab.slots = s.fab.slots := rfl
@[simp] theorem setGen_fab_ingress (s : State) (t : Tid) (g : Nat) (x : Gen) : (setGen s t g x).fab.ingress = s.fab.ingress := rfl
@[simp] theorem setGen_fab_lastSlot (s : State) (t : Tid) (g : Nat) (x : Gen) : (setGen s t g x).fab.lastSlot = s.fab.lastSlot := rfl
@[simp] theorem setGen_fab_frags (s : State) (t : Tid) (g : Nat) (x : Gen) : (setGen s t g x).fab.frags = s.fab.frags := rfl
@[simp] theorem setGen_fab_switch (s : State) (t : Tid) (g : Nat) (x : Gen) : (setGen s t g x).fab.switch = s.fab.switch := rfl
@[simp] theorem setGen_fab_bufs (s : State) (t : Tid) (g : Nat) (x : Gen) : (setGen s t g x).fab.bufs = s.fab.bufs := rfl
@[simp] theorem setGen_fab_opunits (s : State) (t : Tid) (g : Nat) (x : Gen) : (setGen s t g x).fab.opunits = s.fab.opunits := rfl
@[simp] theorem setGen_fab_portRR (s : State) (t : Tid) (g : Nat) (x : Gen) : (setGen s t g x).fab.portRR = s.fab.portRR := rfl
@[simp] theorem setGen_fab_stopped (s : State) (t : Tid) (g : Nat) (x : Gen) : (setGen s t g x).fab.stopped = s.fab.stopped := rfl
@[simp] theorem setGen_fab_secs (s : State) (t : Tid) (g : Nat) (x : Gen) : (setGen s t g x).fab.secs = s.fab.secs := rfl
@[simp] theorem setGen_fab_tileSec (s : State) (t : Tid) (g : Nat) (x : Gen) : (setGen s t g x).fab.tileSec = s.fab.tileSec := rfl
@[simp] theorem setGen_fab_msgs (s : State) (t : Tid) (g : Nat) (x : Gen) : (setGen s t g x).fab.msgs = s.fab.msgs := rfl
@[simp] theorem setGen_fab_acks (s : State) (t : Tid) (g : Nat) (x : Gen) : (setGen s t g x).fab.acks = s.fab.acks := rfl
@[simp] theorem setGen_bar (s : State) (t : Tid) (g : Nat) (x : Gen) : (setGen s t g x).bar = s.bar := rfl
@[simp] theorem setGen_eng (s : State) (t : Tid) (g : Nat) (x : Gen) : (setGen s t g x).eng = s.eng := rfl
@[simp] theorem setGen_tk (s : State) (t : Tid) (g : Nat) (x : Gen) : (setGen s t g x).tk = s.tk := rfl
@[simp] theorem setGen_ln (s : State) (t : Tid) (g : Nat) (x : Gen) : (setGen s t g x).ln = s.ln := rfl
@[simp] theorem setGen_host (s : State) (t : Tid) (g : Nat) (x : Gen) : (setGen s t g x).host = s.host := rfl
@[simp] theorem setGen_saved (s : State) (t : Tid) (g : Nat) (x : Gen) : (setGen s t g x).saved = s.saved := rfl
@[simp] theorem setGen_cuts (s : State) (t : Tid) (g : Nat) (x : Gen) : (setGen s t g x).cuts = s.cuts := rfl
@[simp] theorem setGen_agenda (s : State) (t : Tid) (g : Nat) (x : Gen) : (setGen s t g x).agenda = s.agenda := rfl
@[simp] theorem setGen_focus (s : State) (t : Tid) (g : Nat) (x : Gen) : (setGen s t g x).focus = s.focus := rfl
@[simp] theorem setGen_ops (s : State) (t : Tid) (g : Nat) (x : Gen) : (setGen s t g x).ops = s.ops := rfl
@[simp] theorem setGen_free (s : State) (t : Tid) (g : Nat) (x : Gen) : (setGen s t g x).free = s.free := rfl

/-! ### setUnit -/

@[simp] theorem setUnit_clk (s : State) (t : Tid) (u : Nat) (x : OpUnit) : (setUnit s t u x).clk = s.clk := rfl
@[simp] theorem setUnit_boot (s : State) (t : Tid) (u : Nat) (x : OpUnit) : (setUnit s t u x).boot = s.boot := rfl
@[simp] theorem setUnit_st (s : State) (t : Tid) (u : Nat) (x : OpUnit) : (setUnit s t u x).st = s.st := rfl
@[simp] theorem setUnit_tl (s : State) (t : Tid) (u : Nat) (x : OpUnit) : (setUnit s t u x).tl = s.tl := rfl
@[simp] theorem setUnit_xl (s : State) (t : Tid) (u : Nat) (x : OpUnit) : (setUnit s t u x).xl = s.xl := rfl
@[simp] theorem setUnit_ctxs (s : State) (t : Tid) (u : Nat) (x : OpUnit) : (setUnit s t u x).ctxs = s.ctxs := rfl
@[simp] theorem setUnit_cores (s : State) (t : Tid) (u : Nat) (x : OpUnit) : (setUnit s t u x).cores = s.cores := rfl
@[simp] theorem setUnit_fab_slots (s : State) (t : Tid) (u : Nat) (x : OpUnit) : (setUnit s t u x).fab.slots = s.fab.slots := rfl
@[simp] theorem setUnit_fab_ingress (s : State) (t : Tid) (u : Nat) (x : OpUnit) : (setUnit s t u x).fab.ingress = s.fab.ingress := rfl
@[simp] theorem setUnit_fab_lastSlot (s : State) (t : Tid) (u : Nat) (x : OpUnit) : (setUnit s t u x).fab.lastSlot = s.fab.lastSlot := rfl
@[simp] theorem setUnit_fab_frags (s : State) (t : Tid) (u : Nat) (x : OpUnit) : (setUnit s t u x).fab.frags = s.fab.frags := rfl
@[simp] theorem setUnit_fab_switch (s : State) (t : Tid) (u : Nat) (x : OpUnit) : (setUnit s t u x).fab.switch = s.fab.switch := rfl
@[simp] theorem setUnit_fab_bufs (s : State) (t : Tid) (u : Nat) (x : OpUnit) : (setUnit s t u x).fab.bufs = s.fab.bufs := rfl
@[simp] theorem setUnit_fab_portRR (s : State) (t : Tid) (u : Nat) (x : OpUnit) : (setUnit s t u x).fab.portRR = s.fab.portRR := rfl
@[simp] theorem setUnit_fab_stopped (s : State) (t : Tid) (u : Nat) (x : OpUnit) : (setUnit s t u x).fab.stopped = s.fab.stopped := rfl
@[simp] theorem setUnit_fab_gens (s : State) (t : Tid) (u : Nat) (x : OpUnit) : (setUnit s t u x).fab.gens = s.fab.gens := rfl
@[simp] theorem setUnit_fab_secs (s : State) (t : Tid) (u : Nat) (x : OpUnit) : (setUnit s t u x).fab.secs = s.fab.secs := rfl
@[simp] theorem setUnit_fab_tileSec (s : State) (t : Tid) (u : Nat) (x : OpUnit) : (setUnit s t u x).fab.tileSec = s.fab.tileSec := rfl
@[simp] theorem setUnit_fab_msgs (s : State) (t : Tid) (u : Nat) (x : OpUnit) : (setUnit s t u x).fab.msgs = s.fab.msgs := rfl
@[simp] theorem setUnit_fab_acks (s : State) (t : Tid) (u : Nat) (x : OpUnit) : (setUnit s t u x).fab.acks = s.fab.acks := rfl
@[simp] theorem setUnit_bar (s : State) (t : Tid) (u : Nat) (x : OpUnit) : (setUnit s t u x).bar = s.bar := rfl
@[simp] theorem setUnit_eng (s : State) (t : Tid) (u : Nat) (x : OpUnit) : (setUnit s t u x).eng = s.eng := rfl
@[simp] theorem setUnit_tk (s : State) (t : Tid) (u : Nat) (x : OpUnit) : (setUnit s t u x).tk = s.tk := rfl
@[simp] theorem setUnit_ln (s : State) (t : Tid) (u : Nat) (x : OpUnit) : (setUnit s t u x).ln = s.ln := rfl
@[simp] theorem setUnit_host (s : State) (t : Tid) (u : Nat) (x : OpUnit) : (setUnit s t u x).host = s.host := rfl
@[simp] theorem setUnit_saved (s : State) (t : Tid) (u : Nat) (x : OpUnit) : (setUnit s t u x).saved = s.saved := rfl
@[simp] theorem setUnit_cuts (s : State) (t : Tid) (u : Nat) (x : OpUnit) : (setUnit s t u x).cuts = s.cuts := rfl
@[simp] theorem setUnit_agenda (s : State) (t : Tid) (u : Nat) (x : OpUnit) : (setUnit s t u x).agenda = s.agenda := rfl
@[simp] theorem setUnit_focus (s : State) (t : Tid) (u : Nat) (x : OpUnit) : (setUnit s t u x).focus = s.focus := rfl
@[simp] theorem setUnit_ops (s : State) (t : Tid) (u : Nat) (x : OpUnit) : (setUnit s t u x).ops = s.ops := rfl
@[simp] theorem setUnit_free (s : State) (t : Tid) (u : Nat) (x : OpUnit) : (setUnit s t u x).free = s.free := rfl

/-! ### setLQ -/

@[simp] theorem setLQ_clk (s : State) (q : Nat) (x : LQueue) : (setLQ s q x).clk = s.clk := rfl
@[simp] theorem setLQ_boot (s : State) (q : Nat) (x : LQueue) : (setLQ s q x).boot = s.boot := rfl
@[simp] theorem setLQ_st (s : State) (q : Nat) (x : LQueue) : (setLQ s q x).st = s.st := rfl
@[simp] theorem setLQ_tl (s : State) (q : Nat) (x : LQueue) : (setLQ s q x).tl = s.tl := rfl
@[simp] theorem setLQ_xl (s : State) (q : Nat) (x : LQueue) : (setLQ s q x).xl = s.xl := rfl
@[simp] theorem setLQ_ctxs (s : State) (q : Nat) (x : LQueue) : (setLQ s q x).ctxs = s.ctxs := rfl
@[simp] theorem setLQ_cores (s : State) (q : Nat) (x : LQueue) : (setLQ s q x).cores = s.cores := rfl
@[simp] theorem setLQ_fab (s : State) (q : Nat) (x : LQueue) : (setLQ s q x).fab = s.fab := rfl
@[simp] theorem setLQ_bar (s : State) (q : Nat) (x : LQueue) : (setLQ s q x).bar = s.bar := rfl
@[simp] theorem setLQ_eng (s : State) (q : Nat) (x : LQueue) : (setLQ s q x).eng = s.eng := rfl
@[simp] theorem setLQ_tk (s : State) (q : Nat) (x : LQueue) : (setLQ s q x).tk = s.tk := rfl
@[simp] theorem setLQ_ln_door (s : State) (q : Nat) (x : LQueue) : (setLQ s q x).ln.door = s.ln.door := rfl
@[simp] theorem setLQ_ln_live (s : State) (q : Nat) (x : LQueue) : (setLQ s q x).ln.live = s.ln.live := rfl
@[simp] theorem setLQ_ln_order (s : State) (q : Nat) (x : LQueue) : (setLQ s q x).ln.order = s.ln.order := rfl
@[simp] theorem setLQ_ln_code (s : State) (q : Nat) (x : LQueue) : (setLQ s q x).ln.code = s.ln.code := rfl
@[simp] theorem setLQ_ln_gran (s : State) (q : Nat) (x : LQueue) : (setLQ s q x).ln.gran = s.ln.gran := rfl
@[simp] theorem setLQ_ln_granClock (s : State) (q : Nat) (x : LQueue) : (setLQ s q x).ln.granClock = s.ln.granClock := rfl
@[simp] theorem setLQ_ln_grtab (s : State) (q : Nat) (x : LQueue) : (setLQ s q x).ln.grtab = s.ln.grtab := rfl
@[simp] theorem setLQ_ln_grheap (s : State) (q : Nat) (x : LQueue) : (setLQ s q x).ln.grheap = s.ln.grheap := rfl
@[simp] theorem setLQ_ln_rsvt (s : State) (q : Nat) (x : LQueue) : (setLQ s q x).ln.rsvt = s.ln.rsvt := rfl
@[simp] theorem setLQ_ln_rsvtNew (s : State) (q : Nat) (x : LQueue) : (setLQ s q x).ln.rsvtNew = s.ln.rsvtNew := rfl
@[simp] theorem setLQ_host (s : State) (q : Nat) (x : LQueue) : (setLQ s q x).host = s.host := rfl
@[simp] theorem setLQ_saved (s : State) (q : Nat) (x : LQueue) : (setLQ s q x).saved = s.saved := rfl
@[simp] theorem setLQ_cuts (s : State) (q : Nat) (x : LQueue) : (setLQ s q x).cuts = s.cuts := rfl
@[simp] theorem setLQ_agenda (s : State) (q : Nat) (x : LQueue) : (setLQ s q x).agenda = s.agenda := rfl
@[simp] theorem setLQ_focus (s : State) (q : Nat) (x : LQueue) : (setLQ s q x).focus = s.focus := rfl
@[simp] theorem setLQ_ops (s : State) (q : Nat) (x : LQueue) : (setLQ s q x).ops = s.ops := rfl
@[simp] theorem setLQ_free (s : State) (q : Nat) (x : LQueue) : (setLQ s q x).free = s.free := rfl

/-! ### setRegion -/

@[simp] theorem setRegion_clk (s : State) (t : Tid) (r : Nat) (w : Word × Word) : (setRegion s t r w).clk = s.clk := rfl
@[simp] theorem setRegion_boot (s : State) (t : Tid) (r : Nat) (w : Word × Word) : (setRegion s t r w).boot = s.boot := rfl
@[simp] theorem setRegion_st (s : State) (t : Tid) (r : Nat) (w : Word × Word) : (setRegion s t r w).st = s.st := rfl
@[simp] theorem setRegion_tl_mtstat (s : State) (t : Tid) (r : Nat) (w : Word × Word) : (setRegion s t r w).tl.mtstat = s.tl.mtstat := rfl
@[simp] theorem setRegion_tl_bankCount (s : State) (t : Tid) (r : Nat) (w : Word × Word) : (setRegion s t r w).tl.bankCount = s.tl.bankCount := rfl
@[simp] theorem setRegion_tl_scrubRow (s : State) (t : Tid) (r : Nat) (w : Word × Word) : (setRegion s t r w).tl.scrubRow = s.tl.scrubRow := rfl
@[simp] theorem setRegion_tl_scrubWait (s : State) (t : Tid) (r : Nat) (w : Word × Word) : (setRegion s t r w).tl.scrubWait = s.tl.scrubWait := rfl
@[simp] theorem setRegion_tl_corrections (s : State) (t : Tid) (r : Nat) (w : Word × Word) : (setRegion s t r w).tl.corrections = s.tl.corrections := rfl
@[simp] theorem setRegion_tl_staging (s : State) (t : Tid) (r : Nat) (w : Word × Word) : (setRegion s t r w).tl.staging = s.tl.staging := rfl
@[simp] theorem setRegion_tl_fifoSide (s : State) (t : Tid) (r : Nat) (w : Word × Word) : (setRegion s t r w).tl.fifoSide = s.tl.fifoSide := rfl
@[simp] theorem setRegion_tl_windowGen (s : State) (t : Tid) (r : Nat) (w : Word × Word) : (setRegion s t r w).tl.windowGen = s.tl.windowGen := rfl
@[simp] theorem setRegion_tl_fifoReqs (s : State) (t : Tid) (r : Nat) (w : Word × Word) : (setRegion s t r w).tl.fifoReqs = s.tl.fifoReqs := rfl
@[simp] theorem setRegion_xl (s : State) (t : Tid) (r : Nat) (w : Word × Word) : (setRegion s t r w).xl = s.xl := rfl
@[simp] theorem setRegion_ctxs (s : State) (t : Tid) (r : Nat) (w : Word × Word) : (setRegion s t r w).ctxs = s.ctxs := rfl
@[simp] theorem setRegion_cores (s : State) (t : Tid) (r : Nat) (w : Word × Word) : (setRegion s t r w).cores = s.cores := rfl
@[simp] theorem setRegion_fab (s : State) (t : Tid) (r : Nat) (w : Word × Word) : (setRegion s t r w).fab = s.fab := rfl
@[simp] theorem setRegion_bar (s : State) (t : Tid) (r : Nat) (w : Word × Word) : (setRegion s t r w).bar = s.bar := rfl
@[simp] theorem setRegion_eng (s : State) (t : Tid) (r : Nat) (w : Word × Word) : (setRegion s t r w).eng = s.eng := rfl
@[simp] theorem setRegion_tk (s : State) (t : Tid) (r : Nat) (w : Word × Word) : (setRegion s t r w).tk = s.tk := rfl
@[simp] theorem setRegion_ln (s : State) (t : Tid) (r : Nat) (w : Word × Word) : (setRegion s t r w).ln = s.ln := rfl
@[simp] theorem setRegion_host (s : State) (t : Tid) (r : Nat) (w : Word × Word) : (setRegion s t r w).host = s.host := rfl
@[simp] theorem setRegion_saved (s : State) (t : Tid) (r : Nat) (w : Word × Word) : (setRegion s t r w).saved = s.saved := rfl
@[simp] theorem setRegion_cuts (s : State) (t : Tid) (r : Nat) (w : Word × Word) : (setRegion s t r w).cuts = s.cuts := rfl
@[simp] theorem setRegion_agenda (s : State) (t : Tid) (r : Nat) (w : Word × Word) : (setRegion s t r w).agenda = s.agenda := rfl
@[simp] theorem setRegion_focus (s : State) (t : Tid) (r : Nat) (w : Word × Word) : (setRegion s t r w).focus = s.focus := rfl
@[simp] theorem setRegion_ops (s : State) (t : Tid) (r : Nat) (w : Word × Word) : (setRegion s t r w).ops = s.ops := rfl
@[simp] theorem setRegion_free (s : State) (t : Tid) (r : Nat) (w : Word × Word) : (setRegion s t r w).free = s.free := rfl

/-! ### updLaunch -/

@[simp] theorem updLaunch_clk (s : State) (k : Nat) (f : Launch → Launch) : (updLaunch s k f).clk = s.clk := rfl
@[simp] theorem updLaunch_boot (s : State) (k : Nat) (f : Launch → Launch) : (updLaunch s k f).boot = s.boot := rfl
@[simp] theorem updLaunch_st (s : State) (k : Nat) (f : Launch → Launch) : (updLaunch s k f).st = s.st := rfl
@[simp] theorem updLaunch_tl (s : State) (k : Nat) (f : Launch → Launch) : (updLaunch s k f).tl = s.tl := rfl
@[simp] theorem updLaunch_xl (s : State) (k : Nat) (f : Launch → Launch) : (updLaunch s k f).xl = s.xl := rfl
@[simp] theorem updLaunch_ctxs (s : State) (k : Nat) (f : Launch → Launch) : (updLaunch s k f).ctxs = s.ctxs := rfl
@[simp] theorem updLaunch_cores (s : State) (k : Nat) (f : Launch → Launch) : (updLaunch s k f).cores = s.cores := rfl
@[simp] theorem updLaunch_fab (s : State) (k : Nat) (f : Launch → Launch) : (updLaunch s k f).fab = s.fab := rfl
@[simp] theorem updLaunch_bar (s : State) (k : Nat) (f : Launch → Launch) : (updLaunch s k f).bar = s.bar := rfl
@[simp] theorem updLaunch_eng (s : State) (k : Nat) (f : Launch → Launch) : (updLaunch s k f).eng = s.eng := rfl
@[simp] theorem updLaunch_tk (s : State) (k : Nat) (f : Launch → Launch) : (updLaunch s k f).tk = s.tk := rfl
@[simp] theorem updLaunch_ln_lq (s : State) (k : Nat) (f : Launch → Launch) : (updLaunch s k f).ln.lq = s.ln.lq := rfl
@[simp] theorem updLaunch_ln_door (s : State) (k : Nat) (f : Launch → Launch) : (updLaunch s k f).ln.door = s.ln.door := rfl
@[simp] theorem updLaunch_ln_order (s : State) (k : Nat) (f : Launch → Launch) : (updLaunch s k f).ln.order = s.ln.order := rfl
@[simp] theorem updLaunch_ln_code (s : State) (k : Nat) (f : Launch → Launch) : (updLaunch s k f).ln.code = s.ln.code := rfl
@[simp] theorem updLaunch_ln_gran (s : State) (k : Nat) (f : Launch → Launch) : (updLaunch s k f).ln.gran = s.ln.gran := rfl
@[simp] theorem updLaunch_ln_granClock (s : State) (k : Nat) (f : Launch → Launch) : (updLaunch s k f).ln.granClock = s.ln.granClock := rfl
@[simp] theorem updLaunch_ln_grtab (s : State) (k : Nat) (f : Launch → Launch) : (updLaunch s k f).ln.grtab = s.ln.grtab := rfl
@[simp] theorem updLaunch_ln_grheap (s : State) (k : Nat) (f : Launch → Launch) : (updLaunch s k f).ln.grheap = s.ln.grheap := rfl
@[simp] theorem updLaunch_ln_rsvt (s : State) (k : Nat) (f : Launch → Launch) : (updLaunch s k f).ln.rsvt = s.ln.rsvt := rfl
@[simp] theorem updLaunch_ln_rsvtNew (s : State) (k : Nat) (f : Launch → Launch) : (updLaunch s k f).ln.rsvtNew = s.ln.rsvtNew := rfl
@[simp] theorem updLaunch_host (s : State) (k : Nat) (f : Launch → Launch) : (updLaunch s k f).host = s.host := rfl
@[simp] theorem updLaunch_saved (s : State) (k : Nat) (f : Launch → Launch) : (updLaunch s k f).saved = s.saved := rfl
@[simp] theorem updLaunch_cuts (s : State) (k : Nat) (f : Launch → Launch) : (updLaunch s k f).cuts = s.cuts := rfl
@[simp] theorem updLaunch_agenda (s : State) (k : Nat) (f : Launch → Launch) : (updLaunch s k f).agenda = s.agenda := rfl
@[simp] theorem updLaunch_focus (s : State) (k : Nat) (f : Launch → Launch) : (updLaunch s k f).focus = s.focus := rfl
@[simp] theorem updLaunch_ops (s : State) (k : Nat) (f : Launch → Launch) : (updLaunch s k f).ops = s.ops := rfl
@[simp] theorem updLaunch_free (s : State) (k : Nat) (f : Launch → Launch) : (updLaunch s k f).free = s.free := rfl

/-! ### putRec -/

@[simp] theorem putRec_clk (s : State) (r : TaskRec) : (putRec s r).clk = s.clk := rfl
@[simp] theorem putRec_boot (s : State) (r : TaskRec) : (putRec s r).boot = s.boot := rfl
@[simp] theorem putRec_st (s : State) (r : TaskRec) : (putRec s r).st = s.st := rfl
@[simp] theorem putRec_tl (s : State) (r : TaskRec) : (putRec s r).tl = s.tl := rfl
@[simp] theorem putRec_xl (s : State) (r : TaskRec) : (putRec s r).xl = s.xl := rfl
@[simp] theorem putRec_ctxs (s : State) (r : TaskRec) : (putRec s r).ctxs = s.ctxs := rfl
@[simp] theorem putRec_cores (s : State) (r : TaskRec) : (putRec s r).cores = s.cores := rfl
@[simp] theorem putRec_fab (s : State) (r : TaskRec) : (putRec s r).fab = s.fab := rfl
@[simp] theorem putRec_bar (s : State) (r : TaskRec) : (putRec s r).bar = s.bar := rfl
@[simp] theorem putRec_eng (s : State) (r : TaskRec) : (putRec s r).eng = s.eng := rfl
@[simp] theorem putRec_tk_parked (s : State) (r : TaskRec) : (putRec s r).tk.parked = s.tk.parked := rfl
@[simp] theorem putRec_tk_nextRid (s : State) (r : TaskRec) : (putRec s r).tk.nextRid = s.tk.nextRid := rfl
@[simp] theorem putRec_tk_stamp (s : State) (r : TaskRec) : (putRec s r).tk.stamp = s.tk.stamp := rfl
@[simp] theorem putRec_tk_pops (s : State) (r : TaskRec) : (putRec s r).tk.pops = s.tk.pops := rfl
@[simp] theorem putRec_tk_starts (s : State) (r : TaskRec) : (putRec s r).tk.starts = s.tk.starts := rfl
@[simp] theorem putRec_tk_signals (s : State) (r : TaskRec) : (putRec s r).tk.signals = s.tk.signals := rfl
@[simp] theorem putRec_tk_retiring (s : State) (r : TaskRec) : (putRec s r).tk.retiring = s.tk.retiring := rfl
@[simp] theorem putRec_tk_preempt (s : State) (r : TaskRec) : (putRec s r).tk.preempt = s.tk.preempt := rfl
@[simp] theorem putRec_ln (s : State) (r : TaskRec) : (putRec s r).ln = s.ln := rfl
@[simp] theorem putRec_host (s : State) (r : TaskRec) : (putRec s r).host = s.host := rfl
@[simp] theorem putRec_saved (s : State) (r : TaskRec) : (putRec s r).saved = s.saved := rfl
@[simp] theorem putRec_cuts (s : State) (r : TaskRec) : (putRec s r).cuts = s.cuts := rfl
@[simp] theorem putRec_agenda (s : State) (r : TaskRec) : (putRec s r).agenda = s.agenda := rfl
@[simp] theorem putRec_focus (s : State) (r : TaskRec) : (putRec s r).focus = s.focus := rfl
@[simp] theorem putRec_ops (s : State) (r : TaskRec) : (putRec s r).ops = s.ops := rfl
@[simp] theorem putRec_free (s : State) (r : TaskRec) : (putRec s r).free = s.free := rfl

/-! ### dropRec -/

@[simp] theorem dropRec_clk (s : State) (k : Nat) : (dropRec s k).clk = s.clk := rfl
@[simp] theorem dropRec_boot (s : State) (k : Nat) : (dropRec s k).boot = s.boot := rfl
@[simp] theorem dropRec_st (s : State) (k : Nat) : (dropRec s k).st = s.st := rfl
@[simp] theorem dropRec_tl (s : State) (k : Nat) : (dropRec s k).tl = s.tl := rfl
@[simp] theorem dropRec_xl (s : State) (k : Nat) : (dropRec s k).xl = s.xl := rfl
@[simp] theorem dropRec_ctxs (s : State) (k : Nat) : (dropRec s k).ctxs = s.ctxs := rfl
@[simp] theorem dropRec_cores (s : State) (k : Nat) : (dropRec s k).cores = s.cores := rfl
@[simp] theorem dropRec_fab (s : State) (k : Nat) : (dropRec s k).fab = s.fab := rfl
@[simp] theorem dropRec_bar (s : State) (k : Nat) : (dropRec s k).bar = s.bar := rfl
@[simp] theorem dropRec_eng (s : State) (k : Nat) : (dropRec s k).eng = s.eng := rfl
@[simp] theorem dropRec_tk_parked (s : State) (k : Nat) : (dropRec s k).tk.parked = s.tk.parked := rfl
@[simp] theorem dropRec_tk_nextRid (s : State) (k : Nat) : (dropRec s k).tk.nextRid = s.tk.nextRid := rfl
@[simp] theorem dropRec_tk_stamp (s : State) (k : Nat) : (dropRec s k).tk.stamp = s.tk.stamp := rfl
@[simp] theorem dropRec_tk_pops (s : State) (k : Nat) : (dropRec s k).tk.pops = s.tk.pops := rfl
@[simp] theorem dropRec_tk_starts (s : State) (k : Nat) : (dropRec s k).tk.starts = s.tk.starts := rfl
@[simp] theorem dropRec_tk_signals (s : State) (k : Nat) : (dropRec s k).tk.signals = s.tk.signals := rfl
@[simp] theorem dropRec_tk_retiring (s : State) (k : Nat) : (dropRec s k).tk.retiring = s.tk.retiring := rfl
@[simp] theorem dropRec_tk_preempt (s : State) (k : Nat) : (dropRec s k).tk.preempt = s.tk.preempt := rfl
@[simp] theorem dropRec_ln (s : State) (k : Nat) : (dropRec s k).ln = s.ln := rfl
@[simp] theorem dropRec_host (s : State) (k : Nat) : (dropRec s k).host = s.host := rfl
@[simp] theorem dropRec_saved (s : State) (k : Nat) : (dropRec s k).saved = s.saved := rfl
@[simp] theorem dropRec_cuts (s : State) (k : Nat) : (dropRec s k).cuts = s.cuts := rfl
@[simp] theorem dropRec_agenda (s : State) (k : Nat) : (dropRec s k).agenda = s.agenda := rfl
@[simp] theorem dropRec_focus (s : State) (k : Nat) : (dropRec s k).focus = s.focus := rfl
@[simp] theorem dropRec_ops (s : State) (k : Nat) : (dropRec s k).ops = s.ops := rfl
@[simp] theorem dropRec_free (s : State) (k : Nat) : (dropRec s k).free = s.free := rfl

/-! ### setInbox -/

@[simp] theorem setInbox_clk (s : State) (q : Nat) (l : List EngCmd) : (setInbox s q l).clk = s.clk := rfl
@[simp] theorem setInbox_boot (s : State) (q : Nat) (l : List EngCmd) : (setInbox s q l).boot = s.boot := rfl
@[simp] theorem setInbox_st (s : State) (q : Nat) (l : List EngCmd) : (setInbox s q l).st = s.st := rfl
@[simp] theorem setInbox_tl (s : State) (q : Nat) (l : List EngCmd) : (setInbox s q l).tl = s.tl := rfl
@[simp] theorem setInbox_xl (s : State) (q : Nat) (l : List EngCmd) : (setInbox s q l).xl = s.xl := rfl
@[simp] theorem setInbox_ctxs (s : State) (q : Nat) (l : List EngCmd) : (setInbox s q l).ctxs = s.ctxs := rfl
@[simp] theorem setInbox_cores (s : State) (q : Nat) (l : List EngCmd) : (setInbox s q l).cores = s.cores := rfl
@[simp] theorem setInbox_fab (s : State) (q : Nat) (l : List EngCmd) : (setInbox s q l).fab = s.fab := rfl
@[simp] theorem setInbox_bar (s : State) (q : Nat) (l : List EngCmd) : (setInbox s q l).bar = s.bar := rfl
@[simp] theorem setInbox_eng_arriving (s : State) (q : Nat) (l : List EngCmd) : (setInbox s q l).eng.arriving = s.eng.arriving := rfl
@[simp] theorem setInbox_eng_nextUid (s : State) (q : Nat) (l : List EngCmd) : (setInbox s q l).eng.nextUid = s.eng.nextUid := rfl
@[simp] theorem setInbox_eng_ckpt (s : State) (q : Nat) (l : List EngCmd) : (setInbox s q l).eng.ckpt = s.eng.ckpt := rfl
@[simp] theorem setInbox_eng_coll (s : State) (q : Nat) (l : List EngCmd) : (setInbox s q l).eng.coll = s.eng.coll := rfl
@[simp] theorem setInbox_eng_owed (s : State) (q : Nat) (l : List EngCmd) : (setInbox s q l).eng.owed = s.eng.owed := rfl
@[simp] theorem setInbox_eng_remote (s : State) (q : Nat) (l : List EngCmd) : (setInbox s q l).eng.remote = s.eng.remote := rfl
@[simp] theorem setInbox_eng_images (s : State) (q : Nat) (l : List EngCmd) : (setInbox s q l).eng.images = s.eng.images := rfl
@[simp] theorem setInbox_tk (s : State) (q : Nat) (l : List EngCmd) : (setInbox s q l).tk = s.tk := rfl
@[simp] theorem setInbox_ln (s : State) (q : Nat) (l : List EngCmd) : (setInbox s q l).ln = s.ln := rfl
@[simp] theorem setInbox_host (s : State) (q : Nat) (l : List EngCmd) : (setInbox s q l).host = s.host := rfl
@[simp] theorem setInbox_saved (s : State) (q : Nat) (l : List EngCmd) : (setInbox s q l).saved = s.saved := rfl
@[simp] theorem setInbox_cuts (s : State) (q : Nat) (l : List EngCmd) : (setInbox s q l).cuts = s.cuts := rfl
@[simp] theorem setInbox_agenda (s : State) (q : Nat) (l : List EngCmd) : (setInbox s q l).agenda = s.agenda := rfl
@[simp] theorem setInbox_focus (s : State) (q : Nat) (l : List EngCmd) : (setInbox s q l).focus = s.focus := rfl
@[simp] theorem setInbox_ops (s : State) (q : Nat) (l : List EngCmd) : (setInbox s q l).ops = s.ops := rfl
@[simp] theorem setInbox_free (s : State) (q : Nat) (l : List EngCmd) : (setInbox s q l).free = s.free := rfl

/-! ### putCmd -/

@[simp] theorem putCmd_clk (s : State) (q : Nat) (c : EngCmd) : (putCmd s q c).clk = s.clk := rfl
@[simp] theorem putCmd_boot (s : State) (q : Nat) (c : EngCmd) : (putCmd s q c).boot = s.boot := rfl
@[simp] theorem putCmd_st (s : State) (q : Nat) (c : EngCmd) : (putCmd s q c).st = s.st := rfl
@[simp] theorem putCmd_tl (s : State) (q : Nat) (c : EngCmd) : (putCmd s q c).tl = s.tl := rfl
@[simp] theorem putCmd_xl (s : State) (q : Nat) (c : EngCmd) : (putCmd s q c).xl = s.xl := rfl
@[simp] theorem putCmd_ctxs (s : State) (q : Nat) (c : EngCmd) : (putCmd s q c).ctxs = s.ctxs := rfl
@[simp] theorem putCmd_cores (s : State) (q : Nat) (c : EngCmd) : (putCmd s q c).cores = s.cores := rfl
@[simp] theorem putCmd_fab (s : State) (q : Nat) (c : EngCmd) : (putCmd s q c).fab = s.fab := rfl
@[simp] theorem putCmd_bar (s : State) (q : Nat) (c : EngCmd) : (putCmd s q c).bar = s.bar := rfl
@[simp] theorem putCmd_eng_arriving (s : State) (q : Nat) (c : EngCmd) : (putCmd s q c).eng.arriving = s.eng.arriving := rfl
@[simp] theorem putCmd_eng_nextUid (s : State) (q : Nat) (c : EngCmd) : (putCmd s q c).eng.nextUid = s.eng.nextUid := rfl
@[simp] theorem putCmd_eng_ckpt (s : State) (q : Nat) (c : EngCmd) : (putCmd s q c).eng.ckpt = s.eng.ckpt := rfl
@[simp] theorem putCmd_eng_coll (s : State) (q : Nat) (c : EngCmd) : (putCmd s q c).eng.coll = s.eng.coll := rfl
@[simp] theorem putCmd_eng_owed (s : State) (q : Nat) (c : EngCmd) : (putCmd s q c).eng.owed = s.eng.owed := rfl
@[simp] theorem putCmd_eng_remote (s : State) (q : Nat) (c : EngCmd) : (putCmd s q c).eng.remote = s.eng.remote := rfl
@[simp] theorem putCmd_eng_images (s : State) (q : Nat) (c : EngCmd) : (putCmd s q c).eng.images = s.eng.images := rfl
@[simp] theorem putCmd_tk (s : State) (q : Nat) (c : EngCmd) : (putCmd s q c).tk = s.tk := rfl
@[simp] theorem putCmd_ln (s : State) (q : Nat) (c : EngCmd) : (putCmd s q c).ln = s.ln := rfl
@[simp] theorem putCmd_host (s : State) (q : Nat) (c : EngCmd) : (putCmd s q c).host = s.host := rfl
@[simp] theorem putCmd_saved (s : State) (q : Nat) (c : EngCmd) : (putCmd s q c).saved = s.saved := rfl
@[simp] theorem putCmd_cuts (s : State) (q : Nat) (c : EngCmd) : (putCmd s q c).cuts = s.cuts := rfl
@[simp] theorem putCmd_agenda (s : State) (q : Nat) (c : EngCmd) : (putCmd s q c).agenda = s.agenda := rfl
@[simp] theorem putCmd_focus (s : State) (q : Nat) (c : EngCmd) : (putCmd s q c).focus = s.focus := rfl
@[simp] theorem putCmd_ops (s : State) (q : Nat) (c : EngCmd) : (putCmd s q c).ops = s.ops := rfl
@[simp] theorem putCmd_free (s : State) (q : Nat) (c : EngCmd) : (putCmd s q c).free = s.free := rfl

/-! ### setFpb -/

@[simp] theorem setFpb_clk (s : State) (p : Nat) (w : Word) : (setFpb s p w).clk = s.clk := rfl
@[simp] theorem setFpb_boot (s : State) (p : Nat) (w : Word) : (setFpb s p w).boot = s.boot := rfl
@[simp] theorem setFpb_st (s : State) (p : Nat) (w : Word) : (setFpb s p w).st = s.st := rfl
@[simp] theorem setFpb_tl (s : State) (p : Nat) (w : Word) : (setFpb s p w).tl = s.tl := rfl
@[simp] theorem setFpb_xl_ptbase (s : State) (p : Nat) (w : Word) : (setFpb s p w).xl.ptbase = s.xl.ptbase := rfl
@[simp] theorem setFpb_xl_heatcfg (s : State) (p : Nat) (w : Word) : (setFpb s p w).xl.heatcfg = s.xl.heatcfg := rfl
@[simp] theorem setFpb_xl_tinva (s : State) (p : Nat) (w : Word) : (setFpb s p w).xl.tinva = s.xl.tinva := rfl
@[simp] theorem setFpb_xl_tinvn (s : State) (p : Nat) (w : Word) : (setFpb s p w).xl.tinvn = s.xl.tinvn := rfl
@[simp] theorem setFpb_xl_tinvLeft (s : State) (p : Nat) (w : Word) : (setFpb s p w).xl.tinvLeft = s.xl.tinvLeft := rfl
@[simp] theorem setFpb_xl_tcache (s : State) (p : Nat) (w : Word) : (setFpb s p w).xl.tcache = s.xl.tcache := rfl
@[simp] theorem setFpb_xl_waits (s : State) (p : Nat) (w : Word) : (setFpb s p w).xl.waits = s.xl.waits := rfl
@[simp] theorem setFpb_xl_wakes (s : State) (p : Nat) (w : Word) : (setFpb s p w).xl.wakes = s.xl.wakes := rfl
@[simp] theorem setFpb_xl_moves (s : State) (p : Nat) (w : Word) : (setFpb s p w).xl.moves = s.xl.moves := rfl
@[simp] theorem setFpb_xl_noms (s : State) (p : Nat) (w : Word) : (setFpb s p w).xl.noms = s.xl.noms := rfl
@[simp] theorem setFpb_xl_fpa (s : State) (p : Nat) (w : Word) : (setFpb s p w).xl.fpa = s.xl.fpa := rfl
@[simp] theorem setFpb_xl_pulls (s : State) (p : Nat) (w : Word) : (setFpb s p w).xl.pulls = s.xl.pulls := rfl
@[simp] theorem setFpb_xl_dirs (s : State) (p : Nat) (w : Word) : (setFpb s p w).xl.dirs = s.xl.dirs := rfl
@[simp] theorem setFpb_xl_forwards (s : State) (p : Nat) (w : Word) : (setFpb s p w).xl.forwards = s.xl.forwards := rfl
@[simp] theorem setFpb_xl_replies (s : State) (p : Nat) (w : Word) : (setFpb s p w).xl.replies = s.xl.replies := rfl
@[simp] theorem setFpb_xl_fwdOut (s : State) (p : Nat) (w : Word) : (setFpb s p w).xl.fwdOut = s.xl.fwdOut := rfl
@[simp] theorem setFpb_xl_fwdNext (s : State) (p : Nat) (w : Word) : (setFpb s p w).xl.fwdNext = s.xl.fwdNext := rfl
@[simp] theorem setFpb_xl_heatWin (s : State) (p : Nat) (w : Word) : (setFpb s p w).xl.heatWin = s.xl.heatWin := rfl
@[simp] theorem setFpb_xl_tinvRun (s : State) (p : Nat) (w : Word) : (setFpb s p w).xl.tinvRun = s.xl.tinvRun := rfl
@[simp] theorem setFpb_xl_faultVA (s : State) (p : Nat) (w : Word) : (setFpb s p w).xl.faultVA = s.xl.faultVA := rfl
@[simp] theorem setFpb_xl_tear (s : State) (p : Nat) (w : Word) : (setFpb s p w).xl.tear = s.xl.tear := rfl
@[simp] theorem setFpb_xl_torn (s : State) (p : Nat) (w : Word) : (setFpb s p w).xl.torn = s.xl.torn := rfl
@[simp] theorem setFpb_ctxs (s : State) (p : Nat) (w : Word) : (setFpb s p w).ctxs = s.ctxs := rfl
@[simp] theorem setFpb_cores (s : State) (p : Nat) (w : Word) : (setFpb s p w).cores = s.cores := rfl
@[simp] theorem setFpb_fab (s : State) (p : Nat) (w : Word) : (setFpb s p w).fab = s.fab := rfl
@[simp] theorem setFpb_bar (s : State) (p : Nat) (w : Word) : (setFpb s p w).bar = s.bar := rfl
@[simp] theorem setFpb_eng (s : State) (p : Nat) (w : Word) : (setFpb s p w).eng = s.eng := rfl
@[simp] theorem setFpb_tk (s : State) (p : Nat) (w : Word) : (setFpb s p w).tk = s.tk := rfl
@[simp] theorem setFpb_ln (s : State) (p : Nat) (w : Word) : (setFpb s p w).ln = s.ln := rfl
@[simp] theorem setFpb_host (s : State) (p : Nat) (w : Word) : (setFpb s p w).host = s.host := rfl
@[simp] theorem setFpb_saved (s : State) (p : Nat) (w : Word) : (setFpb s p w).saved = s.saved := rfl
@[simp] theorem setFpb_cuts (s : State) (p : Nat) (w : Word) : (setFpb s p w).cuts = s.cuts := rfl
@[simp] theorem setFpb_agenda (s : State) (p : Nat) (w : Word) : (setFpb s p w).agenda = s.agenda := rfl
@[simp] theorem setFpb_focus (s : State) (p : Nat) (w : Word) : (setFpb s p w).focus = s.focus := rfl
@[simp] theorem setFpb_ops (s : State) (p : Nat) (w : Word) : (setFpb s p w).ops = s.ops := rfl
@[simp] theorem setFpb_free (s : State) (p : Nat) (w : Word) : (setFpb s p w).free = s.free := rfl

/-! ### sendNode -/

@[simp] theorem sendNode_clk (s : State) (n c : Nat) (w : List Nat) : (sendNode s n c w).clk = s.clk := rfl
@[simp] theorem sendNode_boot (s : State) (n c : Nat) (w : List Nat) : (sendNode s n c w).boot = s.boot := rfl
@[simp] theorem sendNode_st (s : State) (n c : Nat) (w : List Nat) : (sendNode s n c w).st = s.st := rfl
@[simp] theorem sendNode_tl (s : State) (n c : Nat) (w : List Nat) : (sendNode s n c w).tl = s.tl := rfl
@[simp] theorem sendNode_xl (s : State) (n c : Nat) (w : List Nat) : (sendNode s n c w).xl = s.xl := rfl
@[simp] theorem sendNode_ctxs (s : State) (n c : Nat) (w : List Nat) : (sendNode s n c w).ctxs = s.ctxs := rfl
@[simp] theorem sendNode_cores (s : State) (n c : Nat) (w : List Nat) : (sendNode s n c w).cores = s.cores := rfl
@[simp] theorem sendNode_fab (s : State) (n c : Nat) (w : List Nat) : (sendNode s n c w).fab = s.fab := rfl
@[simp] theorem sendNode_bar (s : State) (n c : Nat) (w : List Nat) : (sendNode s n c w).bar = s.bar := rfl
@[simp] theorem sendNode_eng (s : State) (n c : Nat) (w : List Nat) : (sendNode s n c w).eng = s.eng := rfl
@[simp] theorem sendNode_tk (s : State) (n c : Nat) (w : List Nat) : (sendNode s n c w).tk = s.tk := rfl
@[simp] theorem sendNode_ln (s : State) (n c : Nat) (w : List Nat) : (sendNode s n c w).ln = s.ln := rfl
@[simp] theorem sendNode_host_sems (s : State) (n c : Nat) (w : List Nat) : (sendNode s n c w).host.sems = s.host.sems := rfl
@[simp] theorem sendNode_host_semTie (s : State) (n c : Nat) (w : List Nat) : (sendNode s n c w).host.semTie = s.host.semTie := rfl
@[simp] theorem sendNode_host_hwstatA (s : State) (n c : Nat) (w : List Nat) : (sendNode s n c w).host.hwstatA = s.host.hwstatA := rfl
@[simp] theorem sendNode_host_hwstatB (s : State) (n c : Nat) (w : List Nat) : (sendNode s n c w).host.hwstatB = s.host.hwstatB := rfl
@[simp] theorem sendNode_host_hevbA (s : State) (n c : Nat) (w : List Nat) : (sendNode s n c w).host.hevbA = s.host.hevbA := rfl
@[simp] theorem sendNode_host_hevbB (s : State) (n c : Nat) (w : List Nat) : (sendNode s n c w).host.hevbB = s.host.hevbB := rfl
@[simp] theorem sendNode_host_apA (s : State) (n c : Nat) (w : List Nat) : (sendNode s n c w).host.apA = s.host.apA := rfl
@[simp] theorem sendNode_host_apB (s : State) (n c : Nat) (w : List Nat) : (sendNode s n c w).host.apB = s.host.apB := rfl
@[simp] theorem sendNode_host_seq (s : State) (n c : Nat) (w : List Nat) : (sendNode s n c w).host.seq = s.host.seq := rfl
@[simp] theorem sendNode_host_events (s : State) (n c : Nat) (w : List Nat) : (sendNode s n c w).host.events = s.host.events := rfl
@[simp] theorem sendNode_host_irqs (s : State) (n c : Nat) (w : List Nat) : (sendNode s n c w).host.irqs = s.host.irqs := rfl
@[simp] theorem sendNode_host_ctxcmd (s : State) (n c : Nat) (w : List Nat) : (sendNode s n c w).host.ctxcmd = s.host.ctxcmd := rfl
@[simp] theorem sendNode_host_reply (s : State) (n c : Nat) (w : List Nat) : (sendNode s n c w).host.reply = s.host.reply := rfl
@[simp] theorem sendNode_host_replyBytes (s : State) (n c : Nat) (w : List Nat) : (sendNode s n c w).host.replyBytes = s.host.replyBytes := rfl
@[simp] theorem sendNode_host_staged (s : State) (n c : Nat) (w : List Nat) : (sendNode s n c w).host.staged = s.host.staged := rfl
@[simp] theorem sendNode_host_commands (s : State) (n c : Nat) (w : List Nat) : (sendNode s n c w).host.commands = s.host.commands := rfl
@[simp] theorem sendNode_host_flights (s : State) (n c : Nat) (w : List Nat) : (sendNode s n c w).host.flights = s.host.flights := rfl
@[simp] theorem sendNode_host_unsupported (s : State) (n c : Nat) (w : List Nat) : (sendNode s n c w).host.unsupported = s.host.unsupported := rfl
@[simp] theorem sendNode_saved (s : State) (n c : Nat) (w : List Nat) : (sendNode s n c w).saved = s.saved := rfl
@[simp] theorem sendNode_cuts (s : State) (n c : Nat) (w : List Nat) : (sendNode s n c w).cuts = s.cuts := rfl
@[simp] theorem sendNode_agenda (s : State) (n c : Nat) (w : List Nat) : (sendNode s n c w).agenda = s.agenda := rfl
@[simp] theorem sendNode_focus (s : State) (n c : Nat) (w : List Nat) : (sendNode s n c w).focus = s.focus := rfl
@[simp] theorem sendNode_ops (s : State) (n c : Nat) (w : List Nat) : (sendNode s n c w).ops = s.ops := rfl
@[simp] theorem sendNode_free (s : State) (n c : Nat) (w : List Nat) : (sendNode s n c w).free = s.free := rfl

/-! ### setStaged -/

@[simp] theorem setStaged_clk (s : State) (p : Bool) (k : Nat) (l : List (Nat × Word)) : (setStaged s p k l).clk = s.clk := rfl
@[simp] theorem setStaged_boot (s : State) (p : Bool) (k : Nat) (l : List (Nat × Word)) : (setStaged s p k l).boot = s.boot := rfl
@[simp] theorem setStaged_st (s : State) (p : Bool) (k : Nat) (l : List (Nat × Word)) : (setStaged s p k l).st = s.st := rfl
@[simp] theorem setStaged_tl (s : State) (p : Bool) (k : Nat) (l : List (Nat × Word)) : (setStaged s p k l).tl = s.tl := rfl
@[simp] theorem setStaged_xl (s : State) (p : Bool) (k : Nat) (l : List (Nat × Word)) : (setStaged s p k l).xl = s.xl := rfl
@[simp] theorem setStaged_ctxs (s : State) (p : Bool) (k : Nat) (l : List (Nat × Word)) : (setStaged s p k l).ctxs = s.ctxs := rfl
@[simp] theorem setStaged_cores (s : State) (p : Bool) (k : Nat) (l : List (Nat × Word)) : (setStaged s p k l).cores = s.cores := rfl
@[simp] theorem setStaged_fab (s : State) (p : Bool) (k : Nat) (l : List (Nat × Word)) : (setStaged s p k l).fab = s.fab := rfl
@[simp] theorem setStaged_bar (s : State) (p : Bool) (k : Nat) (l : List (Nat × Word)) : (setStaged s p k l).bar = s.bar := rfl
@[simp] theorem setStaged_eng (s : State) (p : Bool) (k : Nat) (l : List (Nat × Word)) : (setStaged s p k l).eng = s.eng := rfl
@[simp] theorem setStaged_tk (s : State) (p : Bool) (k : Nat) (l : List (Nat × Word)) : (setStaged s p k l).tk = s.tk := rfl
@[simp] theorem setStaged_ln (s : State) (p : Bool) (k : Nat) (l : List (Nat × Word)) : (setStaged s p k l).ln = s.ln := rfl
@[simp] theorem setStaged_host_sems (s : State) (p : Bool) (k : Nat) (l : List (Nat × Word)) : (setStaged s p k l).host.sems = s.host.sems := rfl
@[simp] theorem setStaged_host_semTie (s : State) (p : Bool) (k : Nat) (l : List (Nat × Word)) : (setStaged s p k l).host.semTie = s.host.semTie := rfl
@[simp] theorem setStaged_host_hwstatA (s : State) (p : Bool) (k : Nat) (l : List (Nat × Word)) : (setStaged s p k l).host.hwstatA = s.host.hwstatA := rfl
@[simp] theorem setStaged_host_hwstatB (s : State) (p : Bool) (k : Nat) (l : List (Nat × Word)) : (setStaged s p k l).host.hwstatB = s.host.hwstatB := rfl
@[simp] theorem setStaged_host_hevbA (s : State) (p : Bool) (k : Nat) (l : List (Nat × Word)) : (setStaged s p k l).host.hevbA = s.host.hevbA := rfl
@[simp] theorem setStaged_host_hevbB (s : State) (p : Bool) (k : Nat) (l : List (Nat × Word)) : (setStaged s p k l).host.hevbB = s.host.hevbB := rfl
@[simp] theorem setStaged_host_apA (s : State) (p : Bool) (k : Nat) (l : List (Nat × Word)) : (setStaged s p k l).host.apA = s.host.apA := rfl
@[simp] theorem setStaged_host_apB (s : State) (p : Bool) (k : Nat) (l : List (Nat × Word)) : (setStaged s p k l).host.apB = s.host.apB := rfl
@[simp] theorem setStaged_host_seq (s : State) (p : Bool) (k : Nat) (l : List (Nat × Word)) : (setStaged s p k l).host.seq = s.host.seq := rfl
@[simp] theorem setStaged_host_events (s : State) (p : Bool) (k : Nat) (l : List (Nat × Word)) : (setStaged s p k l).host.events = s.host.events := rfl
@[simp] theorem setStaged_host_irqs (s : State) (p : Bool) (k : Nat) (l : List (Nat × Word)) : (setStaged s p k l).host.irqs = s.host.irqs := rfl
@[simp] theorem setStaged_host_ctxcmd (s : State) (p : Bool) (k : Nat) (l : List (Nat × Word)) : (setStaged s p k l).host.ctxcmd = s.host.ctxcmd := rfl
@[simp] theorem setStaged_host_reply (s : State) (p : Bool) (k : Nat) (l : List (Nat × Word)) : (setStaged s p k l).host.reply = s.host.reply := rfl
@[simp] theorem setStaged_host_replyBytes (s : State) (p : Bool) (k : Nat) (l : List (Nat × Word)) : (setStaged s p k l).host.replyBytes = s.host.replyBytes := rfl
@[simp] theorem setStaged_host_netOut (s : State) (p : Bool) (k : Nat) (l : List (Nat × Word)) : (setStaged s p k l).host.netOut = s.host.netOut := rfl
@[simp] theorem setStaged_host_commands (s : State) (p : Bool) (k : Nat) (l : List (Nat × Word)) : (setStaged s p k l).host.commands = s.host.commands := rfl
@[simp] theorem setStaged_host_flights (s : State) (p : Bool) (k : Nat) (l : List (Nat × Word)) : (setStaged s p k l).host.flights = s.host.flights := rfl
@[simp] theorem setStaged_host_unsupported (s : State) (p : Bool) (k : Nat) (l : List (Nat × Word)) : (setStaged s p k l).host.unsupported = s.host.unsupported := rfl
@[simp] theorem setStaged_saved (s : State) (p : Bool) (k : Nat) (l : List (Nat × Word)) : (setStaged s p k l).saved = s.saved := rfl
@[simp] theorem setStaged_cuts (s : State) (p : Bool) (k : Nat) (l : List (Nat × Word)) : (setStaged s p k l).cuts = s.cuts := rfl
@[simp] theorem setStaged_agenda (s : State) (p : Bool) (k : Nat) (l : List (Nat × Word)) : (setStaged s p k l).agenda = s.agenda := rfl
@[simp] theorem setStaged_focus (s : State) (p : Bool) (k : Nat) (l : List (Nat × Word)) : (setStaged s p k l).focus = s.focus := rfl
@[simp] theorem setStaged_ops (s : State) (p : Bool) (k : Nat) (l : List (Nat × Word)) : (setStaged s p k l).ops = s.ops := rfl
@[simp] theorem setStaged_free (s : State) (p : Bool) (k : Nat) (l : List (Nat × Word)) : (setStaged s p k l).free = s.free := rfl

/-! ### hostEvent -/

@[simp] theorem hostEvent_clk (s : State) (c : Cause) (k l t : Nat) (w : Word) : (hostEvent s c k l t w).clk = s.clk := rfl
@[simp] theorem hostEvent_boot (s : State) (c : Cause) (k l t : Nat) (w : Word) : (hostEvent s c k l t w).boot = s.boot := rfl
@[simp] theorem hostEvent_st_mem (s : State) (c : Cause) (k l t : Nat) (w : Word) : (hostEvent s c k l t w).st.mem = s.st.mem := rfl
@[simp] theorem hostEvent_st_lineQ (s : State) (c : Cause) (k l t : Nat) (w : Word) : (hostEvent s c k l t w).st.lineQ = s.st.lineQ := rfl
@[simp] theorem hostEvent_st_lineBad (s : State) (c : Cause) (k l t : Nat) (w : Word) : (hostEvent s c k l t w).st.lineBad = s.st.lineBad := rfl
@[simp] theorem hostEvent_st_lineKey (s : State) (c : Cause) (k l t : Nat) (w : Word) : (hostEvent s c k l t w).st.lineKey = s.st.lineKey := rfl
@[simp] theorem hostEvent_st_past (s : State) (c : Cause) (k l t : Nat) (w : Word) : (hostEvent s c k l t w).st.past = s.st.past := rfl
@[simp] theorem hostEvent_tl (s : State) (c : Cause) (k l t : Nat) (w : Word) : (hostEvent s c k l t w).tl = s.tl := rfl
@[simp] theorem hostEvent_xl (s : State) (c : Cause) (k l t : Nat) (w : Word) : (hostEvent s c k l t w).xl = s.xl := rfl
@[simp] theorem hostEvent_ctxs (s : State) (c : Cause) (k l t : Nat) (w : Word) : (hostEvent s c k l t w).ctxs = s.ctxs := rfl
@[simp] theorem hostEvent_cores (s : State) (c : Cause) (k l t : Nat) (w : Word) : (hostEvent s c k l t w).cores = s.cores := rfl
@[simp] theorem hostEvent_fab (s : State) (c : Cause) (k l t : Nat) (w : Word) : (hostEvent s c k l t w).fab = s.fab := rfl
@[simp] theorem hostEvent_bar (s : State) (c : Cause) (k l t : Nat) (w : Word) : (hostEvent s c k l t w).bar = s.bar := rfl
@[simp] theorem hostEvent_eng (s : State) (c : Cause) (k l t : Nat) (w : Word) : (hostEvent s c k l t w).eng = s.eng := rfl
@[simp] theorem hostEvent_tk (s : State) (c : Cause) (k l t : Nat) (w : Word) : (hostEvent s c k l t w).tk = s.tk := rfl
@[simp] theorem hostEvent_ln (s : State) (c : Cause) (k l t : Nat) (w : Word) : (hostEvent s c k l t w).ln = s.ln := rfl
@[simp] theorem hostEvent_host_sems (s : State) (c : Cause) (k l t : Nat) (w : Word) : (hostEvent s c k l t w).host.sems = s.host.sems := rfl
@[simp] theorem hostEvent_host_semTie (s : State) (c : Cause) (k l t : Nat) (w : Word) : (hostEvent s c k l t w).host.semTie = s.host.semTie := rfl
@[simp] theorem hostEvent_host_hwstatA (s : State) (c : Cause) (k l t : Nat) (w : Word) : (hostEvent s c k l t w).host.hwstatA = s.host.hwstatA := rfl
@[simp] theorem hostEvent_host_hwstatB (s : State) (c : Cause) (k l t : Nat) (w : Word) : (hostEvent s c k l t w).host.hwstatB = s.host.hwstatB := rfl
@[simp] theorem hostEvent_host_hevbA (s : State) (c : Cause) (k l t : Nat) (w : Word) : (hostEvent s c k l t w).host.hevbA = s.host.hevbA := rfl
@[simp] theorem hostEvent_host_hevbB (s : State) (c : Cause) (k l t : Nat) (w : Word) : (hostEvent s c k l t w).host.hevbB = s.host.hevbB := rfl
@[simp] theorem hostEvent_host_apA (s : State) (c : Cause) (k l t : Nat) (w : Word) : (hostEvent s c k l t w).host.apA = s.host.apA := rfl
@[simp] theorem hostEvent_host_apB (s : State) (c : Cause) (k l t : Nat) (w : Word) : (hostEvent s c k l t w).host.apB = s.host.apB := rfl
@[simp] theorem hostEvent_host_ctxcmd (s : State) (c : Cause) (k l t : Nat) (w : Word) : (hostEvent s c k l t w).host.ctxcmd = s.host.ctxcmd := rfl
@[simp] theorem hostEvent_host_reply (s : State) (c : Cause) (k l t : Nat) (w : Word) : (hostEvent s c k l t w).host.reply = s.host.reply := rfl
@[simp] theorem hostEvent_host_replyBytes (s : State) (c : Cause) (k l t : Nat) (w : Word) : (hostEvent s c k l t w).host.replyBytes = s.host.replyBytes := rfl
@[simp] theorem hostEvent_host_netOut (s : State) (c : Cause) (k l t : Nat) (w : Word) : (hostEvent s c k l t w).host.netOut = s.host.netOut := rfl
@[simp] theorem hostEvent_host_staged (s : State) (c : Cause) (k l t : Nat) (w : Word) : (hostEvent s c k l t w).host.staged = s.host.staged := rfl
@[simp] theorem hostEvent_host_commands (s : State) (c : Cause) (k l t : Nat) (w : Word) : (hostEvent s c k l t w).host.commands = s.host.commands := rfl
@[simp] theorem hostEvent_host_flights (s : State) (c : Cause) (k l t : Nat) (w : Word) : (hostEvent s c k l t w).host.flights = s.host.flights := rfl
@[simp] theorem hostEvent_host_unsupported (s : State) (c : Cause) (k l t : Nat) (w : Word) : (hostEvent s c k l t w).host.unsupported = s.host.unsupported := rfl
@[simp] theorem hostEvent_saved (s : State) (c : Cause) (k l t : Nat) (w : Word) : (hostEvent s c k l t w).saved = s.saved := rfl
@[simp] theorem hostEvent_cuts (s : State) (c : Cause) (k l t : Nat) (w : Word) : (hostEvent s c k l t w).cuts = s.cuts := rfl
@[simp] theorem hostEvent_agenda (s : State) (c : Cause) (k l t : Nat) (w : Word) : (hostEvent s c k l t w).agenda = s.agenda := rfl
@[simp] theorem hostEvent_focus (s : State) (c : Cause) (k l t : Nat) (w : Word) : (hostEvent s c k l t w).focus = s.focus := rfl
@[simp] theorem hostEvent_ops (s : State) (c : Cause) (k l t : Nat) (w : Word) : (hostEvent s c k l t w).ops = s.ops := rfl
@[simp] theorem hostEvent_free (s : State) (c : Cause) (k l t : Nat) (w : Word) : (hostEvent s c k l t w).free = s.free := rfl

/-! ### tick -/

@[simp] theorem tick_boot (s : State) : (tick s).boot = s.boot := rfl
@[simp] theorem tick_st (s : State) : (tick s).st = s.st := rfl
@[simp] theorem tick_tl (s : State) : (tick s).tl = s.tl := rfl
@[simp] theorem tick_xl (s : State) : (tick s).xl = s.xl := rfl
@[simp] theorem tick_ctxs (s : State) : (tick s).ctxs = s.ctxs := rfl
@[simp] theorem tick_cores (s : State) : (tick s).cores = s.cores := rfl
@[simp] theorem tick_fab (s : State) : (tick s).fab = s.fab := rfl
@[simp] theorem tick_bar (s : State) : (tick s).bar = s.bar := rfl
@[simp] theorem tick_eng (s : State) : (tick s).eng = s.eng := rfl
@[simp] theorem tick_tk (s : State) : (tick s).tk = s.tk := rfl
@[simp] theorem tick_ln (s : State) : (tick s).ln = s.ln := rfl
@[simp] theorem tick_host (s : State) : (tick s).host = s.host := rfl
@[simp] theorem tick_saved (s : State) : (tick s).saved = s.saved := rfl
@[simp] theorem tick_cuts (s : State) : (tick s).cuts = s.cuts := rfl
@[simp] theorem tick_agenda (s : State) : (tick s).agenda = s.agenda := rfl
@[simp] theorem tick_focus (s : State) : (tick s).focus = s.focus := rfl
@[simp] theorem tick_ops (s : State) : (tick s).ops = s.ops := rfl
@[simp] theorem tick_free (s : State) : (tick s).free = s.free := rfl

/-! ### Readers past writers of other fields -/

@[simp] theorem getCtx_setCore (s : State) (t : Tid) (c : Core) (i : Nat) : getCtx (setCore s t c) i = getCtx s i := rfl
@[simp] theorem getBar_setCore (s : State) (t : Tid) (c : Core) (i : Nat) : getBar (setCore s t c) i = getBar s i := rfl
@[simp] theorem getSec_setCore (s : State) (t : Tid) (c : Core) (i : Nat) : getSec (setCore s t c) i = getSec s i := rfl
@[simp] theorem getSlot_setCore (s : State) (t : Tid) (c : Core) (i : Tid) (j : Nat) : getSlot (setCore s t c) i j = getSlot s i j := rfl
@[simp] theorem getBuf_setCore (s : State) (t : Tid) (c : Core) (i : Nat) : getBuf (setCore s t c) i = getBuf s i := rfl
@[simp] theorem getFrag_setCore (s : State) (t : Tid) (c : Core) (i : Tid) : getFrag (setCore s t c) i = getFrag s i := rfl
@[simp] theorem getGen_setCore (s : State) (t : Tid) (c : Core) (i : Tid) (j : Nat) : getGen (setCore s t c) i j = getGen s i j := rfl
@[simp] theorem getUnit_setCore (s : State) (t : Tid) (c : Core) (i : Tid) (j : Nat) : getUnit (setCore s t c) i j = getUnit s i j := rfl
@[simp] theorem getLQ_setCore (s : State) (t : Tid) (c : Core) (i : Nat) : getLQ (setCore s t c) i = getLQ s i := rfl
@[simp] theorem region_setCore (s : State) (t : Tid) (c : Core) (i : Tid) (j : Nat) : region (setCore s t c) i j = region s i j := rfl
@[simp] theorem inboxOf_setCore (s : State) (t : Tid) (c : Core) (i : Nat) : inboxOf (setCore s t c) i = inboxOf s i := rfl
@[simp] theorem mtstat_setCore (s : State) (t : Tid) (c : Core) (i : Tid) : mtstat (setCore s t c) i = mtstat s i := rfl
@[simp] theorem findLaunch_setCore (s : State) (t : Tid) (c : Core) (i : Nat) : findLaunch (setCore s t c) i = findLaunch s i := rfl
@[simp] theorem findRec_setCore (s : State) (t : Tid) (c : Core) (i : Nat) : findRec (setCore s t c) i = findRec s i := rfl

@[simp] theorem getCore_setCtx (s : State) (k : Nat) (x : Ctx) (i : Tid) : getCore (setCtx s k x) i = getCore s i := rfl
@[simp] theorem getBar_setCtx (s : State) (k : Nat) (x : Ctx) (i : Nat) : getBar (setCtx s k x) i = getBar s i := rfl
@[simp] theorem getSec_setCtx (s : State) (k : Nat) (x : Ctx) (i : Nat) : getSec (setCtx s k x) i = getSec s i := rfl
@[simp] theorem getSlot_setCtx (s : State) (k : Nat) (x : Ctx) (i : Tid) (j : Nat) : getSlot (setCtx s k x) i j = getSlot s i j := rfl
@[simp] theorem getBuf_setCtx (s : State) (k : Nat) (x : Ctx) (i : Nat) : getBuf (setCtx s k x) i = getBuf s i := rfl
@[simp] theorem getFrag_setCtx (s : State) (k : Nat) (x : Ctx) (i : Tid) : getFrag (setCtx s k x) i = getFrag s i := rfl
@[simp] theorem getGen_setCtx (s : State) (k : Nat) (x : Ctx) (i : Tid) (j : Nat) : getGen (setCtx s k x) i j = getGen s i j := rfl
@[simp] theorem getUnit_setCtx (s : State) (k : Nat) (x : Ctx) (i : Tid) (j : Nat) : getUnit (setCtx s k x) i j = getUnit s i j := rfl
@[simp] theorem getLQ_setCtx (s : State) (k : Nat) (x : Ctx) (i : Nat) : getLQ (setCtx s k x) i = getLQ s i := rfl
@[simp] theorem region_setCtx (s : State) (k : Nat) (x : Ctx) (i : Tid) (j : Nat) : region (setCtx s k x) i j = region s i j := rfl
@[simp] theorem inboxOf_setCtx (s : State) (k : Nat) (x : Ctx) (i : Nat) : inboxOf (setCtx s k x) i = inboxOf s i := rfl
@[simp] theorem mtstat_setCtx (s : State) (k : Nat) (x : Ctx) (i : Tid) : mtstat (setCtx s k x) i = mtstat s i := rfl
@[simp] theorem findLaunch_setCtx (s : State) (k : Nat) (x : Ctx) (i : Nat) : findLaunch (setCtx s k x) i = findLaunch s i := rfl
@[simp] theorem findRec_setCtx (s : State) (k : Nat) (x : Ctx) (i : Nat) : findRec (setCtx s k x) i = findRec s i := rfl

@[simp] theorem getCore_setBar (s : State) (k : Nat) (b : Barrier) (i : Tid) : getCore (setBar s k b) i = getCore s i := rfl
@[simp] theorem getCtx_setBar (s : State) (k : Nat) (b : Barrier) (i : Nat) : getCtx (setBar s k b) i = getCtx s i := rfl
@[simp] theorem getSec_setBar (s : State) (k : Nat) (b : Barrier) (i : Nat) : getSec (setBar s k b) i = getSec s i := rfl
@[simp] theorem getSlot_setBar (s : State) (k : Nat) (b : Barrier) (i : Tid) (j : Nat) : getSlot (setBar s k b) i j = getSlot s i j := rfl
@[simp] theorem getBuf_setBar (s : State) (k : Nat) (b : Barrier) (i : Nat) : getBuf (setBar s k b) i = getBuf s i := rfl
@[simp] theorem getFrag_setBar (s : State) (k : Nat) (b : Barrier) (i : Tid) : getFrag (setBar s k b) i = getFrag s i := rfl
@[simp] theorem getGen_setBar (s : State) (k : Nat) (b : Barrier) (i : Tid) (j : Nat) : getGen (setBar s k b) i j = getGen s i j := rfl
@[simp] theorem getUnit_setBar (s : State) (k : Nat) (b : Barrier) (i : Tid) (j : Nat) : getUnit (setBar s k b) i j = getUnit s i j := rfl
@[simp] theorem getLQ_setBar (s : State) (k : Nat) (b : Barrier) (i : Nat) : getLQ (setBar s k b) i = getLQ s i := rfl
@[simp] theorem region_setBar (s : State) (k : Nat) (b : Barrier) (i : Tid) (j : Nat) : region (setBar s k b) i j = region s i j := rfl
@[simp] theorem inboxOf_setBar (s : State) (k : Nat) (b : Barrier) (i : Nat) : inboxOf (setBar s k b) i = inboxOf s i := rfl
@[simp] theorem mtstat_setBar (s : State) (k : Nat) (b : Barrier) (i : Tid) : mtstat (setBar s k b) i = mtstat s i := rfl
@[simp] theorem findLaunch_setBar (s : State) (k : Nat) (b : Barrier) (i : Nat) : findLaunch (setBar s k b) i = findLaunch s i := rfl
@[simp] theorem findRec_setBar (s : State) (k : Nat) (b : Barrier) (i : Nat) : findRec (setBar s k b) i = findRec s i := rfl

@[simp] theorem getCore_setSec (s : State) (k : Nat) (x : Section) (i : Tid) : getCore (setSec s k x) i = getCore s i := rfl
@[simp] theorem getCtx_setSec (s : State) (k : Nat) (x : Section) (i : Nat) : getCtx (setSec s k x) i = getCtx s i := rfl
@[simp] theorem getBar_setSec (s : State) (k : Nat) (x : Section) (i : Nat) : getBar (setSec s k x) i = getBar s i := rfl
@[simp] theorem getSlot_setSec (s : State) (k : Nat) (x : Section) (i : Tid) (j : Nat) : getSlot (setSec s k x) i j = getSlot s i j := rfl
@[simp] theorem getBuf_setSec (s : State) (k : Nat) (x : Section) (i : Nat) : getBuf (setSec s k x) i = getBuf s i := rfl
@[simp] theorem getFrag_setSec (s : State) (k : Nat) (x : Section) (i : Tid) : getFrag (setSec s k x) i = getFrag s i := rfl
@[simp] theorem getGen_setSec (s : State) (k : Nat) (x : Section) (i : Tid) (j : Nat) : getGen (setSec s k x) i j = getGen s i j := rfl
@[simp] theorem getUnit_setSec (s : State) (k : Nat) (x : Section) (i : Tid) (j : Nat) : getUnit (setSec s k x) i j = getUnit s i j := rfl
@[simp] theorem getLQ_setSec (s : State) (k : Nat) (x : Section) (i : Nat) : getLQ (setSec s k x) i = getLQ s i := rfl
@[simp] theorem region_setSec (s : State) (k : Nat) (x : Section) (i : Tid) (j : Nat) : region (setSec s k x) i j = region s i j := rfl
@[simp] theorem inboxOf_setSec (s : State) (k : Nat) (x : Section) (i : Nat) : inboxOf (setSec s k x) i = inboxOf s i := rfl
@[simp] theorem mtstat_setSec (s : State) (k : Nat) (x : Section) (i : Tid) : mtstat (setSec s k x) i = mtstat s i := rfl
@[simp] theorem findLaunch_setSec (s : State) (k : Nat) (x : Section) (i : Nat) : findLaunch (setSec s k x) i = findLaunch s i := rfl
@[simp] theorem findRec_setSec (s : State) (k : Nat) (x : Section) (i : Nat) : findRec (setSec s k x) i = findRec s i := rfl

@[simp] theorem getCore_setSlot (s : State) (t : Tid) (n : Nat) (x : Slot) (i : Tid) : getCore (setSlot s t n x) i = getCore s i := rfl
@[simp] theorem getCtx_setSlot (s : State) (t : Tid) (n : Nat) (x : Slot) (i : Nat) : getCtx (setSlot s t n x) i = getCtx s i := rfl
@[simp] theorem getBar_setSlot (s : State) (t : Tid) (n : Nat) (x : Slot) (i : Nat) : getBar (setSlot s t n x) i = getBar s i := rfl
@[simp] theorem getSec_setSlot (s : State) (t : Tid) (n : Nat) (x : Slot) (i : Nat) : getSec (setSlot s t n x) i = getSec s i := rfl
@[simp] theorem getBuf_setSlot (s : State) (t : Tid) (n : Nat) (x : Slot) (i : Nat) : getBuf (setSlot s t n x) i = getBuf s i := rfl
@[simp] theorem getFrag_setSlot (s : State) (t : Tid) (n : Nat) (x : Slot) (i : Tid) : getFrag (setSlot s t n x) i = getFrag s i := rfl
@[simp] theorem getGen_setSlot (s : State) (t : Tid) (n : Nat) (x : Slot) (i : Tid) (j : Nat) : getGen (setSlot s t n x) i j = getGen s i j := rfl
@[simp] theorem getUnit_setSlot (s : State) (t : Tid) (n : Nat) (x : Slot) (i : Tid) (j : Nat) : getUnit (setSlot s t n x) i j = getUnit s i j := rfl
@[simp] theorem getLQ_setSlot (s : State) (t : Tid) (n : Nat) (x : Slot) (i : Nat) : getLQ (setSlot s t n x) i = getLQ s i := rfl
@[simp] theorem region_setSlot (s : State) (t : Tid) (n : Nat) (x : Slot) (i : Tid) (j : Nat) : region (setSlot s t n x) i j = region s i j := rfl
@[simp] theorem inboxOf_setSlot (s : State) (t : Tid) (n : Nat) (x : Slot) (i : Nat) : inboxOf (setSlot s t n x) i = inboxOf s i := rfl
@[simp] theorem mtstat_setSlot (s : State) (t : Tid) (n : Nat) (x : Slot) (i : Tid) : mtstat (setSlot s t n x) i = mtstat s i := rfl
@[simp] theorem findLaunch_setSlot (s : State) (t : Tid) (n : Nat) (x : Slot) (i : Nat) : findLaunch (setSlot s t n x) i = findLaunch s i := rfl
@[simp] theorem findRec_setSlot (s : State) (t : Tid) (n : Nat) (x : Slot) (i : Nat) : findRec (setSlot s t n x) i = findRec s i := rfl

@[simp] theorem getCore_setBuf (s : State) (k : Nat) (l : List Token) (i : Tid) : getCore (setBuf s k l) i = getCore s i := rfl
@[simp] theorem getCtx_setBuf (s : State) (k : Nat) (l : List Token) (i : Nat) : getCtx (setBuf s k l) i = getCtx s i := rfl
@[simp] theorem getBar_setBuf (s : State) (k : Nat) (l : List Token) (i : Nat) : getBar (setBuf s k l) i = getBar s i := rfl
@[simp] theorem getSec_setBuf (s : State) (k : Nat) (l : List Token) (i : Nat) : getSec (setBuf s k l) i = getSec s i := rfl
@[simp] theorem getSlot_setBuf (s : State) (k : Nat) (l : List Token) (i : Tid) (j : Nat) : getSlot (setBuf s k l) i j = getSlot s i j := rfl
@[simp] theorem getFrag_setBuf (s : State) (k : Nat) (l : List Token) (i : Tid) : getFrag (setBuf s k l) i = getFrag s i := rfl
@[simp] theorem getGen_setBuf (s : State) (k : Nat) (l : List Token) (i : Tid) (j : Nat) : getGen (setBuf s k l) i j = getGen s i j := rfl
@[simp] theorem getUnit_setBuf (s : State) (k : Nat) (l : List Token) (i : Tid) (j : Nat) : getUnit (setBuf s k l) i j = getUnit s i j := rfl
@[simp] theorem getLQ_setBuf (s : State) (k : Nat) (l : List Token) (i : Nat) : getLQ (setBuf s k l) i = getLQ s i := rfl
@[simp] theorem region_setBuf (s : State) (k : Nat) (l : List Token) (i : Tid) (j : Nat) : region (setBuf s k l) i j = region s i j := rfl
@[simp] theorem inboxOf_setBuf (s : State) (k : Nat) (l : List Token) (i : Nat) : inboxOf (setBuf s k l) i = inboxOf s i := rfl
@[simp] theorem mtstat_setBuf (s : State) (k : Nat) (l : List Token) (i : Tid) : mtstat (setBuf s k l) i = mtstat s i := rfl
@[simp] theorem findLaunch_setBuf (s : State) (k : Nat) (l : List Token) (i : Nat) : findLaunch (setBuf s k l) i = findLaunch s i := rfl
@[simp] theorem findRec_setBuf (s : State) (k : Nat) (l : List Token) (i : Nat) : findRec (setBuf s k l) i = findRec s i := rfl

@[simp] theorem getCore_setFrag (s : State) (t : Tid) (f : Frag) (i : Tid) : getCore (setFrag s t f) i = getCore s i := rfl
@[simp] theorem getCtx_setFrag (s : State) (t : Tid) (f : Frag) (i : Nat) : getCtx (setFrag s t f) i = getCtx s i := rfl
@[simp] theorem getBar_setFrag (s : State) (t : Tid) (f : Frag) (i : Nat) : getBar (setFrag s t f) i = getBar s i := rfl
@[simp] theorem getSec_setFrag (s : State) (t : Tid) (f : Frag) (i : Nat) : getSec (setFrag s t f) i = getSec s i := rfl
@[simp] theorem getSlot_setFrag (s : State) (t : Tid) (f : Frag) (i : Tid) (j : Nat) : getSlot (setFrag s t f) i j = getSlot s i j := rfl
@[simp] theorem getBuf_setFrag (s : State) (t : Tid) (f : Frag) (i : Nat) : getBuf (setFrag s t f) i = getBuf s i := rfl
@[simp] theorem getGen_setFrag (s : State) (t : Tid) (f : Frag) (i : Tid) (j : Nat) : getGen (setFrag s t f) i j = getGen s i j := rfl
@[simp] theorem getUnit_setFrag (s : State) (t : Tid) (f : Frag) (i : Tid) (j : Nat) : getUnit (setFrag s t f) i j = getUnit s i j := rfl
@[simp] theorem getLQ_setFrag (s : State) (t : Tid) (f : Frag) (i : Nat) : getLQ (setFrag s t f) i = getLQ s i := rfl
@[simp] theorem region_setFrag (s : State) (t : Tid) (f : Frag) (i : Tid) (j : Nat) : region (setFrag s t f) i j = region s i j := rfl
@[simp] theorem inboxOf_setFrag (s : State) (t : Tid) (f : Frag) (i : Nat) : inboxOf (setFrag s t f) i = inboxOf s i := rfl
@[simp] theorem mtstat_setFrag (s : State) (t : Tid) (f : Frag) (i : Tid) : mtstat (setFrag s t f) i = mtstat s i := rfl
@[simp] theorem findLaunch_setFrag (s : State) (t : Tid) (f : Frag) (i : Nat) : findLaunch (setFrag s t f) i = findLaunch s i := rfl
@[simp] theorem findRec_setFrag (s : State) (t : Tid) (f : Frag) (i : Nat) : findRec (setFrag s t f) i = findRec s i := rfl

@[simp] theorem getCore_setGen (s : State) (t : Tid) (g : Nat) (x : Gen) (i : Tid) : getCore (setGen s t g x) i = getCore s i := rfl
@[simp] theorem getCtx_setGen (s : State) (t : Tid) (g : Nat) (x : Gen) (i : Nat) : getCtx (setGen s t g x) i = getCtx s i := rfl
@[simp] theorem getBar_setGen (s : State) (t : Tid) (g : Nat) (x : Gen) (i : Nat) : getBar (setGen s t g x) i = getBar s i := rfl
@[simp] theorem getSec_setGen (s : State) (t : Tid) (g : Nat) (x : Gen) (i : Nat) : getSec (setGen s t g x) i = getSec s i := rfl
@[simp] theorem getSlot_setGen (s : State) (t : Tid) (g : Nat) (x : Gen) (i : Tid) (j : Nat) : getSlot (setGen s t g x) i j = getSlot s i j := rfl
@[simp] theorem getBuf_setGen (s : State) (t : Tid) (g : Nat) (x : Gen) (i : Nat) : getBuf (setGen s t g x) i = getBuf s i := rfl
@[simp] theorem getFrag_setGen (s : State) (t : Tid) (g : Nat) (x : Gen) (i : Tid) : getFrag (setGen s t g x) i = getFrag s i := rfl
@[simp] theorem getUnit_setGen (s : State) (t : Tid) (g : Nat) (x : Gen) (i : Tid) (j : Nat) : getUnit (setGen s t g x) i j = getUnit s i j := rfl
@[simp] theorem getLQ_setGen (s : State) (t : Tid) (g : Nat) (x : Gen) (i : Nat) : getLQ (setGen s t g x) i = getLQ s i := rfl
@[simp] theorem region_setGen (s : State) (t : Tid) (g : Nat) (x : Gen) (i : Tid) (j : Nat) : region (setGen s t g x) i j = region s i j := rfl
@[simp] theorem inboxOf_setGen (s : State) (t : Tid) (g : Nat) (x : Gen) (i : Nat) : inboxOf (setGen s t g x) i = inboxOf s i := rfl
@[simp] theorem mtstat_setGen (s : State) (t : Tid) (g : Nat) (x : Gen) (i : Tid) : mtstat (setGen s t g x) i = mtstat s i := rfl
@[simp] theorem findLaunch_setGen (s : State) (t : Tid) (g : Nat) (x : Gen) (i : Nat) : findLaunch (setGen s t g x) i = findLaunch s i := rfl
@[simp] theorem findRec_setGen (s : State) (t : Tid) (g : Nat) (x : Gen) (i : Nat) : findRec (setGen s t g x) i = findRec s i := rfl

@[simp] theorem getCore_setUnit (s : State) (t : Tid) (u : Nat) (x : OpUnit) (i : Tid) : getCore (setUnit s t u x) i = getCore s i := rfl
@[simp] theorem getCtx_setUnit (s : State) (t : Tid) (u : Nat) (x : OpUnit) (i : Nat) : getCtx (setUnit s t u x) i = getCtx s i := rfl
@[simp] theorem getBar_setUnit (s : State) (t : Tid) (u : Nat) (x : OpUnit) (i : Nat) : getBar (setUnit s t u x) i = getBar s i := rfl
@[simp] theorem getSec_setUnit (s : State) (t : Tid) (u : Nat) (x : OpUnit) (i : Nat) : getSec (setUnit s t u x) i = getSec s i := rfl
@[simp] theorem getSlot_setUnit (s : State) (t : Tid) (u : Nat) (x : OpUnit) (i : Tid) (j : Nat) : getSlot (setUnit s t u x) i j = getSlot s i j := rfl
@[simp] theorem getBuf_setUnit (s : State) (t : Tid) (u : Nat) (x : OpUnit) (i : Nat) : getBuf (setUnit s t u x) i = getBuf s i := rfl
@[simp] theorem getFrag_setUnit (s : State) (t : Tid) (u : Nat) (x : OpUnit) (i : Tid) : getFrag (setUnit s t u x) i = getFrag s i := rfl
@[simp] theorem getGen_setUnit (s : State) (t : Tid) (u : Nat) (x : OpUnit) (i : Tid) (j : Nat) : getGen (setUnit s t u x) i j = getGen s i j := rfl
@[simp] theorem getLQ_setUnit (s : State) (t : Tid) (u : Nat) (x : OpUnit) (i : Nat) : getLQ (setUnit s t u x) i = getLQ s i := rfl
@[simp] theorem region_setUnit (s : State) (t : Tid) (u : Nat) (x : OpUnit) (i : Tid) (j : Nat) : region (setUnit s t u x) i j = region s i j := rfl
@[simp] theorem inboxOf_setUnit (s : State) (t : Tid) (u : Nat) (x : OpUnit) (i : Nat) : inboxOf (setUnit s t u x) i = inboxOf s i := rfl
@[simp] theorem mtstat_setUnit (s : State) (t : Tid) (u : Nat) (x : OpUnit) (i : Tid) : mtstat (setUnit s t u x) i = mtstat s i := rfl
@[simp] theorem findLaunch_setUnit (s : State) (t : Tid) (u : Nat) (x : OpUnit) (i : Nat) : findLaunch (setUnit s t u x) i = findLaunch s i := rfl
@[simp] theorem findRec_setUnit (s : State) (t : Tid) (u : Nat) (x : OpUnit) (i : Nat) : findRec (setUnit s t u x) i = findRec s i := rfl

@[simp] theorem getCore_setLQ (s : State) (q : Nat) (x : LQueue) (i : Tid) : getCore (setLQ s q x) i = getCore s i := rfl
@[simp] theorem getCtx_setLQ (s : State) (q : Nat) (x : LQueue) (i : Nat) : getCtx (setLQ s q x) i = getCtx s i := rfl
@[simp] theorem getBar_setLQ (s : State) (q : Nat) (x : LQueue) (i : Nat) : getBar (setLQ s q x) i = getBar s i := rfl
@[simp] theorem getSec_setLQ (s : State) (q : Nat) (x : LQueue) (i : Nat) : getSec (setLQ s q x) i = getSec s i := rfl
@[simp] theorem getSlot_setLQ (s : State) (q : Nat) (x : LQueue) (i : Tid) (j : Nat) : getSlot (setLQ s q x) i j = getSlot s i j := rfl
@[simp] theorem getBuf_setLQ (s : State) (q : Nat) (x : LQueue) (i : Nat) : getBuf (setLQ s q x) i = getBuf s i := rfl
@[simp] theorem getFrag_setLQ (s : State) (q : Nat) (x : LQueue) (i : Tid) : getFrag (setLQ s q x) i = getFrag s i := rfl
@[simp] theorem getGen_setLQ (s : State) (q : Nat) (x : LQueue) (i : Tid) (j : Nat) : getGen (setLQ s q x) i j = getGen s i j := rfl
@[simp] theorem getUnit_setLQ (s : State) (q : Nat) (x : LQueue) (i : Tid) (j : Nat) : getUnit (setLQ s q x) i j = getUnit s i j := rfl
@[simp] theorem region_setLQ (s : State) (q : Nat) (x : LQueue) (i : Tid) (j : Nat) : region (setLQ s q x) i j = region s i j := rfl
@[simp] theorem inboxOf_setLQ (s : State) (q : Nat) (x : LQueue) (i : Nat) : inboxOf (setLQ s q x) i = inboxOf s i := rfl
@[simp] theorem mtstat_setLQ (s : State) (q : Nat) (x : LQueue) (i : Tid) : mtstat (setLQ s q x) i = mtstat s i := rfl
@[simp] theorem findLaunch_setLQ (s : State) (q : Nat) (x : LQueue) (i : Nat) : findLaunch (setLQ s q x) i = findLaunch s i := rfl
@[simp] theorem findRec_setLQ (s : State) (q : Nat) (x : LQueue) (i : Nat) : findRec (setLQ s q x) i = findRec s i := rfl

@[simp] theorem getCore_setRegion (s : State) (t : Tid) (r : Nat) (w : Word × Word) (i : Tid) : getCore (setRegion s t r w) i = getCore s i := rfl
@[simp] theorem getCtx_setRegion (s : State) (t : Tid) (r : Nat) (w : Word × Word) (i : Nat) : getCtx (setRegion s t r w) i = getCtx s i := rfl
@[simp] theorem getBar_setRegion (s : State) (t : Tid) (r : Nat) (w : Word × Word) (i : Nat) : getBar (setRegion s t r w) i = getBar s i := rfl
@[simp] theorem getSec_setRegion (s : State) (t : Tid) (r : Nat) (w : Word × Word) (i : Nat) : getSec (setRegion s t r w) i = getSec s i := rfl
@[simp] theorem getSlot_setRegion (s : State) (t : Tid) (r : Nat) (w : Word × Word) (i : Tid) (j : Nat) : getSlot (setRegion s t r w) i j = getSlot s i j := rfl
@[simp] theorem getBuf_setRegion (s : State) (t : Tid) (r : Nat) (w : Word × Word) (i : Nat) : getBuf (setRegion s t r w) i = getBuf s i := rfl
@[simp] theorem getFrag_setRegion (s : State) (t : Tid) (r : Nat) (w : Word × Word) (i : Tid) : getFrag (setRegion s t r w) i = getFrag s i := rfl
@[simp] theorem getGen_setRegion (s : State) (t : Tid) (r : Nat) (w : Word × Word) (i : Tid) (j : Nat) : getGen (setRegion s t r w) i j = getGen s i j := rfl
@[simp] theorem getUnit_setRegion (s : State) (t : Tid) (r : Nat) (w : Word × Word) (i : Tid) (j : Nat) : getUnit (setRegion s t r w) i j = getUnit s i j := rfl
@[simp] theorem getLQ_setRegion (s : State) (t : Tid) (r : Nat) (w : Word × Word) (i : Nat) : getLQ (setRegion s t r w) i = getLQ s i := rfl
@[simp] theorem inboxOf_setRegion (s : State) (t : Tid) (r : Nat) (w : Word × Word) (i : Nat) : inboxOf (setRegion s t r w) i = inboxOf s i := rfl
@[simp] theorem mtstat_setRegion (s : State) (t : Tid) (r : Nat) (w : Word × Word) (i : Tid) : mtstat (setRegion s t r w) i = mtstat s i := rfl
@[simp] theorem findLaunch_setRegion (s : State) (t : Tid) (r : Nat) (w : Word × Word) (i : Nat) : findLaunch (setRegion s t r w) i = findLaunch s i := rfl
@[simp] theorem findRec_setRegion (s : State) (t : Tid) (r : Nat) (w : Word × Word) (i : Nat) : findRec (setRegion s t r w) i = findRec s i := rfl

@[simp] theorem getCore_updLaunch (s : State) (k : Nat) (f : Launch → Launch) (i : Tid) : getCore (updLaunch s k f) i = getCore s i := rfl
@[simp] theorem getCtx_updLaunch (s : State) (k : Nat) (f : Launch → Launch) (i : Nat) : getCtx (updLaunch s k f) i = getCtx s i := rfl
@[simp] theorem getBar_updLaunch (s : State) (k : Nat) (f : Launch → Launch) (i : Nat) : getBar (updLaunch s k f) i = getBar s i := rfl
@[simp] theorem getSec_updLaunch (s : State) (k : Nat) (f : Launch → Launch) (i : Nat) : getSec (updLaunch s k f) i = getSec s i := rfl
@[simp] theorem getSlot_updLaunch (s : State) (k : Nat) (f : Launch → Launch) (i : Tid) (j : Nat) : getSlot (updLaunch s k f) i j = getSlot s i j := rfl
@[simp] theorem getBuf_updLaunch (s : State) (k : Nat) (f : Launch → Launch) (i : Nat) : getBuf (updLaunch s k f) i = getBuf s i := rfl
@[simp] theorem getFrag_updLaunch (s : State) (k : Nat) (f : Launch → Launch) (i : Tid) : getFrag (updLaunch s k f) i = getFrag s i := rfl
@[simp] theorem getGen_updLaunch (s : State) (k : Nat) (f : Launch → Launch) (i : Tid) (j : Nat) : getGen (updLaunch s k f) i j = getGen s i j := rfl
@[simp] theorem getUnit_updLaunch (s : State) (k : Nat) (f : Launch → Launch) (i : Tid) (j : Nat) : getUnit (updLaunch s k f) i j = getUnit s i j := rfl
@[simp] theorem getLQ_updLaunch (s : State) (k : Nat) (f : Launch → Launch) (i : Nat) : getLQ (updLaunch s k f) i = getLQ s i := rfl
@[simp] theorem region_updLaunch (s : State) (k : Nat) (f : Launch → Launch) (i : Tid) (j : Nat) : region (updLaunch s k f) i j = region s i j := rfl
@[simp] theorem inboxOf_updLaunch (s : State) (k : Nat) (f : Launch → Launch) (i : Nat) : inboxOf (updLaunch s k f) i = inboxOf s i := rfl
@[simp] theorem mtstat_updLaunch (s : State) (k : Nat) (f : Launch → Launch) (i : Tid) : mtstat (updLaunch s k f) i = mtstat s i := rfl
@[simp] theorem findRec_updLaunch (s : State) (k : Nat) (f : Launch → Launch) (i : Nat) : findRec (updLaunch s k f) i = findRec s i := rfl

@[simp] theorem getCore_putRec (s : State) (r : TaskRec) (i : Tid) : getCore (putRec s r) i = getCore s i := rfl
@[simp] theorem getCtx_putRec (s : State) (r : TaskRec) (i : Nat) : getCtx (putRec s r) i = getCtx s i := rfl
@[simp] theorem getBar_putRec (s : State) (r : TaskRec) (i : Nat) : getBar (putRec s r) i = getBar s i := rfl
@[simp] theorem getSec_putRec (s : State) (r : TaskRec) (i : Nat) : getSec (putRec s r) i = getSec s i := rfl
@[simp] theorem getSlot_putRec (s : State) (r : TaskRec) (i : Tid) (j : Nat) : getSlot (putRec s r) i j = getSlot s i j := rfl
@[simp] theorem getBuf_putRec (s : State) (r : TaskRec) (i : Nat) : getBuf (putRec s r) i = getBuf s i := rfl
@[simp] theorem getFrag_putRec (s : State) (r : TaskRec) (i : Tid) : getFrag (putRec s r) i = getFrag s i := rfl
@[simp] theorem getGen_putRec (s : State) (r : TaskRec) (i : Tid) (j : Nat) : getGen (putRec s r) i j = getGen s i j := rfl
@[simp] theorem getUnit_putRec (s : State) (r : TaskRec) (i : Tid) (j : Nat) : getUnit (putRec s r) i j = getUnit s i j := rfl
@[simp] theorem getLQ_putRec (s : State) (r : TaskRec) (i : Nat) : getLQ (putRec s r) i = getLQ s i := rfl
@[simp] theorem region_putRec (s : State) (r : TaskRec) (i : Tid) (j : Nat) : region (putRec s r) i j = region s i j := rfl
@[simp] theorem inboxOf_putRec (s : State) (r : TaskRec) (i : Nat) : inboxOf (putRec s r) i = inboxOf s i := rfl
@[simp] theorem mtstat_putRec (s : State) (r : TaskRec) (i : Tid) : mtstat (putRec s r) i = mtstat s i := rfl
@[simp] theorem findLaunch_putRec (s : State) (r : TaskRec) (i : Nat) : findLaunch (putRec s r) i = findLaunch s i := rfl

@[simp] theorem getCore_dropRec (s : State) (k : Nat) (i : Tid) : getCore (dropRec s k) i = getCore s i := rfl
@[simp] theorem getCtx_dropRec (s : State) (k : Nat) (i : Nat) : getCtx (dropRec s k) i = getCtx s i := rfl
@[simp] theorem getBar_dropRec (s : State) (k : Nat) (i : Nat) : getBar (dropRec s k) i = getBar s i := rfl
@[simp] theorem getSec_dropRec (s : State) (k : Nat) (i : Nat) : getSec (dropRec s k) i = getSec s i := rfl
@[simp] theorem getSlot_dropRec (s : State) (k : Nat) (i : Tid) (j : Nat) : getSlot (dropRec s k) i j = getSlot s i j := rfl
@[simp] theorem getBuf_dropRec (s : State) (k : Nat) (i : Nat) : getBuf (dropRec s k) i = getBuf s i := rfl
@[simp] theorem getFrag_dropRec (s : State) (k : Nat) (i : Tid) : getFrag (dropRec s k) i = getFrag s i := rfl
@[simp] theorem getGen_dropRec (s : State) (k : Nat) (i : Tid) (j : Nat) : getGen (dropRec s k) i j = getGen s i j := rfl
@[simp] theorem getUnit_dropRec (s : State) (k : Nat) (i : Tid) (j : Nat) : getUnit (dropRec s k) i j = getUnit s i j := rfl
@[simp] theorem getLQ_dropRec (s : State) (k : Nat) (i : Nat) : getLQ (dropRec s k) i = getLQ s i := rfl
@[simp] theorem region_dropRec (s : State) (k : Nat) (i : Tid) (j : Nat) : region (dropRec s k) i j = region s i j := rfl
@[simp] theorem inboxOf_dropRec (s : State) (k : Nat) (i : Nat) : inboxOf (dropRec s k) i = inboxOf s i := rfl
@[simp] theorem mtstat_dropRec (s : State) (k : Nat) (i : Tid) : mtstat (dropRec s k) i = mtstat s i := rfl
@[simp] theorem findLaunch_dropRec (s : State) (k : Nat) (i : Nat) : findLaunch (dropRec s k) i = findLaunch s i := rfl

@[simp] theorem getCore_setInbox (s : State) (q : Nat) (l : List EngCmd) (i : Tid) : getCore (setInbox s q l) i = getCore s i := rfl
@[simp] theorem getCtx_setInbox (s : State) (q : Nat) (l : List EngCmd) (i : Nat) : getCtx (setInbox s q l) i = getCtx s i := rfl
@[simp] theorem getBar_setInbox (s : State) (q : Nat) (l : List EngCmd) (i : Nat) : getBar (setInbox s q l) i = getBar s i := rfl
@[simp] theorem getSec_setInbox (s : State) (q : Nat) (l : List EngCmd) (i : Nat) : getSec (setInbox s q l) i = getSec s i := rfl
@[simp] theorem getSlot_setInbox (s : State) (q : Nat) (l : List EngCmd) (i : Tid) (j : Nat) : getSlot (setInbox s q l) i j = getSlot s i j := rfl
@[simp] theorem getBuf_setInbox (s : State) (q : Nat) (l : List EngCmd) (i : Nat) : getBuf (setInbox s q l) i = getBuf s i := rfl
@[simp] theorem getFrag_setInbox (s : State) (q : Nat) (l : List EngCmd) (i : Tid) : getFrag (setInbox s q l) i = getFrag s i := rfl
@[simp] theorem getGen_setInbox (s : State) (q : Nat) (l : List EngCmd) (i : Tid) (j : Nat) : getGen (setInbox s q l) i j = getGen s i j := rfl
@[simp] theorem getUnit_setInbox (s : State) (q : Nat) (l : List EngCmd) (i : Tid) (j : Nat) : getUnit (setInbox s q l) i j = getUnit s i j := rfl
@[simp] theorem getLQ_setInbox (s : State) (q : Nat) (l : List EngCmd) (i : Nat) : getLQ (setInbox s q l) i = getLQ s i := rfl
@[simp] theorem region_setInbox (s : State) (q : Nat) (l : List EngCmd) (i : Tid) (j : Nat) : region (setInbox s q l) i j = region s i j := rfl
@[simp] theorem mtstat_setInbox (s : State) (q : Nat) (l : List EngCmd) (i : Tid) : mtstat (setInbox s q l) i = mtstat s i := rfl
@[simp] theorem findLaunch_setInbox (s : State) (q : Nat) (l : List EngCmd) (i : Nat) : findLaunch (setInbox s q l) i = findLaunch s i := rfl
@[simp] theorem findRec_setInbox (s : State) (q : Nat) (l : List EngCmd) (i : Nat) : findRec (setInbox s q l) i = findRec s i := rfl

@[simp] theorem getCore_putCmd (s : State) (q : Nat) (c : EngCmd) (i : Tid) : getCore (putCmd s q c) i = getCore s i := rfl
@[simp] theorem getCtx_putCmd (s : State) (q : Nat) (c : EngCmd) (i : Nat) : getCtx (putCmd s q c) i = getCtx s i := rfl
@[simp] theorem getBar_putCmd (s : State) (q : Nat) (c : EngCmd) (i : Nat) : getBar (putCmd s q c) i = getBar s i := rfl
@[simp] theorem getSec_putCmd (s : State) (q : Nat) (c : EngCmd) (i : Nat) : getSec (putCmd s q c) i = getSec s i := rfl
@[simp] theorem getSlot_putCmd (s : State) (q : Nat) (c : EngCmd) (i : Tid) (j : Nat) : getSlot (putCmd s q c) i j = getSlot s i j := rfl
@[simp] theorem getBuf_putCmd (s : State) (q : Nat) (c : EngCmd) (i : Nat) : getBuf (putCmd s q c) i = getBuf s i := rfl
@[simp] theorem getFrag_putCmd (s : State) (q : Nat) (c : EngCmd) (i : Tid) : getFrag (putCmd s q c) i = getFrag s i := rfl
@[simp] theorem getGen_putCmd (s : State) (q : Nat) (c : EngCmd) (i : Tid) (j : Nat) : getGen (putCmd s q c) i j = getGen s i j := rfl
@[simp] theorem getUnit_putCmd (s : State) (q : Nat) (c : EngCmd) (i : Tid) (j : Nat) : getUnit (putCmd s q c) i j = getUnit s i j := rfl
@[simp] theorem getLQ_putCmd (s : State) (q : Nat) (c : EngCmd) (i : Nat) : getLQ (putCmd s q c) i = getLQ s i := rfl
@[simp] theorem region_putCmd (s : State) (q : Nat) (c : EngCmd) (i : Tid) (j : Nat) : region (putCmd s q c) i j = region s i j := rfl
@[simp] theorem mtstat_putCmd (s : State) (q : Nat) (c : EngCmd) (i : Tid) : mtstat (putCmd s q c) i = mtstat s i := rfl
@[simp] theorem findLaunch_putCmd (s : State) (q : Nat) (c : EngCmd) (i : Nat) : findLaunch (putCmd s q c) i = findLaunch s i := rfl
@[simp] theorem findRec_putCmd (s : State) (q : Nat) (c : EngCmd) (i : Nat) : findRec (putCmd s q c) i = findRec s i := rfl

@[simp] theorem getCore_setFpb (s : State) (p : Nat) (w : Word) (i : Tid) : getCore (setFpb s p w) i = getCore s i := rfl
@[simp] theorem getCtx_setFpb (s : State) (p : Nat) (w : Word) (i : Nat) : getCtx (setFpb s p w) i = getCtx s i := rfl
@[simp] theorem getBar_setFpb (s : State) (p : Nat) (w : Word) (i : Nat) : getBar (setFpb s p w) i = getBar s i := rfl
@[simp] theorem getSec_setFpb (s : State) (p : Nat) (w : Word) (i : Nat) : getSec (setFpb s p w) i = getSec s i := rfl
@[simp] theorem getSlot_setFpb (s : State) (p : Nat) (w : Word) (i : Tid) (j : Nat) : getSlot (setFpb s p w) i j = getSlot s i j := rfl
@[simp] theorem getBuf_setFpb (s : State) (p : Nat) (w : Word) (i : Nat) : getBuf (setFpb s p w) i = getBuf s i := rfl
@[simp] theorem getFrag_setFpb (s : State) (p : Nat) (w : Word) (i : Tid) : getFrag (setFpb s p w) i = getFrag s i := rfl
@[simp] theorem getGen_setFpb (s : State) (p : Nat) (w : Word) (i : Tid) (j : Nat) : getGen (setFpb s p w) i j = getGen s i j := rfl
@[simp] theorem getUnit_setFpb (s : State) (p : Nat) (w : Word) (i : Tid) (j : Nat) : getUnit (setFpb s p w) i j = getUnit s i j := rfl
@[simp] theorem getLQ_setFpb (s : State) (p : Nat) (w : Word) (i : Nat) : getLQ (setFpb s p w) i = getLQ s i := rfl
@[simp] theorem region_setFpb (s : State) (p : Nat) (w : Word) (i : Tid) (j : Nat) : region (setFpb s p w) i j = region s i j := rfl
@[simp] theorem inboxOf_setFpb (s : State) (p : Nat) (w : Word) (i : Nat) : inboxOf (setFpb s p w) i = inboxOf s i := rfl
@[simp] theorem mtstat_setFpb (s : State) (p : Nat) (w : Word) (i : Tid) : mtstat (setFpb s p w) i = mtstat s i := rfl
@[simp] theorem findLaunch_setFpb (s : State) (p : Nat) (w : Word) (i : Nat) : findLaunch (setFpb s p w) i = findLaunch s i := rfl
@[simp] theorem findRec_setFpb (s : State) (p : Nat) (w : Word) (i : Nat) : findRec (setFpb s p w) i = findRec s i := rfl

@[simp] theorem getCore_sendNode (s : State) (n c : Nat) (w : List Nat) (i : Tid) : getCore (sendNode s n c w) i = getCore s i := rfl
@[simp] theorem getCtx_sendNode (s : State) (n c : Nat) (w : List Nat) (i : Nat) : getCtx (sendNode s n c w) i = getCtx s i := rfl
@[simp] theorem getBar_sendNode (s : State) (n c : Nat) (w : List Nat) (i : Nat) : getBar (sendNode s n c w) i = getBar s i := rfl
@[simp] theorem getSec_sendNode (s : State) (n c : Nat) (w : List Nat) (i : Nat) : getSec (sendNode s n c w) i = getSec s i := rfl
@[simp] theorem getSlot_sendNode (s : State) (n c : Nat) (w : List Nat) (i : Tid) (j : Nat) : getSlot (sendNode s n c w) i j = getSlot s i j := rfl
@[simp] theorem getBuf_sendNode (s : State) (n c : Nat) (w : List Nat) (i : Nat) : getBuf (sendNode s n c w) i = getBuf s i := rfl
@[simp] theorem getFrag_sendNode (s : State) (n c : Nat) (w : List Nat) (i : Tid) : getFrag (sendNode s n c w) i = getFrag s i := rfl
@[simp] theorem getGen_sendNode (s : State) (n c : Nat) (w : List Nat) (i : Tid) (j : Nat) : getGen (sendNode s n c w) i j = getGen s i j := rfl
@[simp] theorem getUnit_sendNode (s : State) (n c : Nat) (w : List Nat) (i : Tid) (j : Nat) : getUnit (sendNode s n c w) i j = getUnit s i j := rfl
@[simp] theorem getLQ_sendNode (s : State) (n c : Nat) (w : List Nat) (i : Nat) : getLQ (sendNode s n c w) i = getLQ s i := rfl
@[simp] theorem region_sendNode (s : State) (n c : Nat) (w : List Nat) (i : Tid) (j : Nat) : region (sendNode s n c w) i j = region s i j := rfl
@[simp] theorem inboxOf_sendNode (s : State) (n c : Nat) (w : List Nat) (i : Nat) : inboxOf (sendNode s n c w) i = inboxOf s i := rfl
@[simp] theorem mtstat_sendNode (s : State) (n c : Nat) (w : List Nat) (i : Tid) : mtstat (sendNode s n c w) i = mtstat s i := rfl
@[simp] theorem findLaunch_sendNode (s : State) (n c : Nat) (w : List Nat) (i : Nat) : findLaunch (sendNode s n c w) i = findLaunch s i := rfl
@[simp] theorem findRec_sendNode (s : State) (n c : Nat) (w : List Nat) (i : Nat) : findRec (sendNode s n c w) i = findRec s i := rfl

@[simp] theorem getCore_setStaged (s : State) (p : Bool) (k : Nat) (l : List (Nat × Word)) (i : Tid) : getCore (setStaged s p k l) i = getCore s i := rfl
@[simp] theorem getCtx_setStaged (s : State) (p : Bool) (k : Nat) (l : List (Nat × Word)) (i : Nat) : getCtx (setStaged s p k l) i = getCtx s i := rfl
@[simp] theorem getBar_setStaged (s : State) (p : Bool) (k : Nat) (l : List (Nat × Word)) (i : Nat) : getBar (setStaged s p k l) i = getBar s i := rfl
@[simp] theorem getSec_setStaged (s : State) (p : Bool) (k : Nat) (l : List (Nat × Word)) (i : Nat) : getSec (setStaged s p k l) i = getSec s i := rfl
@[simp] theorem getSlot_setStaged (s : State) (p : Bool) (k : Nat) (l : List (Nat × Word)) (i : Tid) (j : Nat) : getSlot (setStaged s p k l) i j = getSlot s i j := rfl
@[simp] theorem getBuf_setStaged (s : State) (p : Bool) (k : Nat) (l : List (Nat × Word)) (i : Nat) : getBuf (setStaged s p k l) i = getBuf s i := rfl
@[simp] theorem getFrag_setStaged (s : State) (p : Bool) (k : Nat) (l : List (Nat × Word)) (i : Tid) : getFrag (setStaged s p k l) i = getFrag s i := rfl
@[simp] theorem getGen_setStaged (s : State) (p : Bool) (k : Nat) (l : List (Nat × Word)) (i : Tid) (j : Nat) : getGen (setStaged s p k l) i j = getGen s i j := rfl
@[simp] theorem getUnit_setStaged (s : State) (p : Bool) (k : Nat) (l : List (Nat × Word)) (i : Tid) (j : Nat) : getUnit (setStaged s p k l) i j = getUnit s i j := rfl
@[simp] theorem getLQ_setStaged (s : State) (p : Bool) (k : Nat) (l : List (Nat × Word)) (i : Nat) : getLQ (setStaged s p k l) i = getLQ s i := rfl
@[simp] theorem region_setStaged (s : State) (p : Bool) (k : Nat) (l : List (Nat × Word)) (i : Tid) (j : Nat) : region (setStaged s p k l) i j = region s i j := rfl
@[simp] theorem inboxOf_setStaged (s : State) (p : Bool) (k : Nat) (l : List (Nat × Word)) (i : Nat) : inboxOf (setStaged s p k l) i = inboxOf s i := rfl
@[simp] theorem mtstat_setStaged (s : State) (p : Bool) (k : Nat) (l : List (Nat × Word)) (i : Tid) : mtstat (setStaged s p k l) i = mtstat s i := rfl
@[simp] theorem findLaunch_setStaged (s : State) (p : Bool) (k : Nat) (l : List (Nat × Word)) (i : Nat) : findLaunch (setStaged s p k l) i = findLaunch s i := rfl
@[simp] theorem findRec_setStaged (s : State) (p : Bool) (k : Nat) (l : List (Nat × Word)) (i : Nat) : findRec (setStaged s p k l) i = findRec s i := rfl

@[simp] theorem getCore_hostEvent (s : State) (c : Cause) (k l t : Nat) (w : Word) (i : Tid) : getCore (hostEvent s c k l t w) i = getCore s i := rfl
@[simp] theorem getCtx_hostEvent (s : State) (c : Cause) (k l t : Nat) (w : Word) (i : Nat) : getCtx (hostEvent s c k l t w) i = getCtx s i := rfl
@[simp] theorem getBar_hostEvent (s : State) (c : Cause) (k l t : Nat) (w : Word) (i : Nat) : getBar (hostEvent s c k l t w) i = getBar s i := rfl
@[simp] theorem getSec_hostEvent (s : State) (c : Cause) (k l t : Nat) (w : Word) (i : Nat) : getSec (hostEvent s c k l t w) i = getSec s i := rfl
@[simp] theorem getSlot_hostEvent (s : State) (c : Cause) (k l t : Nat) (w : Word) (i : Tid) (j : Nat) : getSlot (hostEvent s c k l t w) i j = getSlot s i j := rfl
@[simp] theorem getBuf_hostEvent (s : State) (c : Cause) (k l t : Nat) (w : Word) (i : Nat) : getBuf (hostEvent s c k l t w) i = getBuf s i := rfl
@[simp] theorem getFrag_hostEvent (s : State) (c : Cause) (k l t : Nat) (w : Word) (i : Tid) : getFrag (hostEvent s c k l t w) i = getFrag s i := rfl
@[simp] theorem getGen_hostEvent (s : State) (c : Cause) (k l t : Nat) (w : Word) (i : Tid) (j : Nat) : getGen (hostEvent s c k l t w) i j = getGen s i j := rfl
@[simp] theorem getUnit_hostEvent (s : State) (c : Cause) (k l t : Nat) (w : Word) (i : Tid) (j : Nat) : getUnit (hostEvent s c k l t w) i j = getUnit s i j := rfl
@[simp] theorem getLQ_hostEvent (s : State) (c : Cause) (k l t : Nat) (w : Word) (i : Nat) : getLQ (hostEvent s c k l t w) i = getLQ s i := rfl
@[simp] theorem region_hostEvent (s : State) (c : Cause) (k l t : Nat) (w : Word) (i : Tid) (j : Nat) : region (hostEvent s c k l t w) i j = region s i j := rfl
@[simp] theorem inboxOf_hostEvent (s : State) (c : Cause) (k l t : Nat) (w : Word) (i : Nat) : inboxOf (hostEvent s c k l t w) i = inboxOf s i := rfl
@[simp] theorem mtstat_hostEvent (s : State) (c : Cause) (k l t : Nat) (w : Word) (i : Tid) : mtstat (hostEvent s c k l t w) i = mtstat s i := rfl
@[simp] theorem findLaunch_hostEvent (s : State) (c : Cause) (k l t : Nat) (w : Word) (i : Nat) : findLaunch (hostEvent s c k l t w) i = findLaunch s i := rfl
@[simp] theorem findRec_hostEvent (s : State) (c : Cause) (k l t : Nat) (w : Word) (i : Nat) : findRec (hostEvent s c k l t w) i = findRec s i := rfl

@[simp] theorem getCore_tick (s : State) (i : Tid) : getCore (tick s) i = getCore s i := rfl
@[simp] theorem getCtx_tick (s : State) (i : Nat) : getCtx (tick s) i = getCtx s i := rfl
@[simp] theorem getBar_tick (s : State) (i : Nat) : getBar (tick s) i = getBar s i := rfl
@[simp] theorem getSec_tick (s : State) (i : Nat) : getSec (tick s) i = getSec s i := rfl
@[simp] theorem getSlot_tick (s : State) (i : Tid) (j : Nat) : getSlot (tick s) i j = getSlot s i j := rfl
@[simp] theorem getBuf_tick (s : State) (i : Nat) : getBuf (tick s) i = getBuf s i := rfl
@[simp] theorem getFrag_tick (s : State) (i : Tid) : getFrag (tick s) i = getFrag s i := rfl
@[simp] theorem getGen_tick (s : State) (i : Tid) (j : Nat) : getGen (tick s) i j = getGen s i j := rfl
@[simp] theorem getUnit_tick (s : State) (i : Tid) (j : Nat) : getUnit (tick s) i j = getUnit s i j := rfl
@[simp] theorem getLQ_tick (s : State) (i : Nat) : getLQ (tick s) i = getLQ s i := rfl
@[simp] theorem region_tick (s : State) (i : Tid) (j : Nat) : region (tick s) i j = region s i j := rfl
@[simp] theorem inboxOf_tick (s : State) (i : Nat) : inboxOf (tick s) i = inboxOf s i := rfl
@[simp] theorem mtstat_tick (s : State) (i : Tid) : mtstat (tick s) i = mtstat s i := rfl
@[simp] theorem findLaunch_tick (s : State) (i : Nat) : findLaunch (tick s) i = findLaunch s i := rfl
@[simp] theorem findRec_tick (s : State) (i : Nat) : findRec (tick s) i = findRec s i := rfl

/-! ### Read after write -/

@[simp] theorem getCore_setCore (s : State) (t : Tid) (c : Core) : getCore (setCore s t c) t = c := SMap.getD_set_self _ _ _ _

theorem getCore_setCore_ne (s : State) {t u : Tid} (c : Core) (h : u ≠ t) : getCore (setCore s t c) u = getCore s u :=
  SMap.getD_set_ne _ _ _ h

@[simp] theorem getCtx_setCtx (s : State) (k : Nat) (x : Ctx) : getCtx (setCtx s k x) k = x := SMap.getD_set_self _ _ _ _

theorem getCtx_setCtx_ne (s : State) {k j : Nat} (x : Ctx) (h : j ≠ k) : getCtx (setCtx s k x) j = getCtx s j :=
  SMap.getD_set_ne _ _ _ h

@[simp] theorem getBar_setBar (s : State) (k : Nat) (b : Barrier) : getBar (setBar s k b) k = b := SMap.getD_set_self _ _ _ _

theorem getBar_setBar_ne (s : State) {k j : Nat} (b : Barrier) (h : j ≠ k) : getBar (setBar s k b) j = getBar s j :=
  SMap.getD_set_ne _ _ _ h

@[simp] theorem getSec_setSec (s : State) (k : Nat) (x : Section) : getSec (setSec s k x) k = x := SMap.getD_set_self _ _ _ _

theorem getSec_setSec_ne (s : State) {k j : Nat} (x : Section) (h : j ≠ k) : getSec (setSec s k x) j = getSec s j :=
  SMap.getD_set_ne _ _ _ h

@[simp] theorem getSlot_setSlot (s : State) (t : Tid) (n : Nat) (x : Slot) : getSlot (setSlot s t n x) t n = x :=
  SMap.getD_set_self _ _ _ _

theorem getSlot_setSlot_ne (s : State) {t u : Tid} {n m : Nat} (x : Slot) (h : u * 64 + m ≠ t * 64 + n) :
    getSlot (setSlot s t n x) u m = getSlot s u m := SMap.getD_set_ne _ _ _ h

@[simp] theorem getBuf_setBuf (s : State) (k : Nat) (l : List Token) : getBuf (setBuf s k l) k = l := by
  simp [getBuf, setBuf, SMap.getD_put]

theorem getBuf_setBuf_ne (s : State) {k j : Nat} (l : List Token) (h : j ≠ k) : getBuf (setBuf s k l) j = getBuf s j := by
  simp [getBuf, setBuf, SMap.getD_put, h]

@[simp] theorem getFrag_setFrag (s : State) (t : Tid) (f : Frag) : getFrag (setFrag s t f) t = f := SMap.getD_set_self _ _ _ _

@[simp] theorem getGen_setGen (s : State) (t : Tid) (g : Nat) (x : Gen) : getGen (setGen s t g x) t g = x :=
  SMap.getD_set_self _ _ _ _

@[simp] theorem getUnit_setUnit (s : State) (t : Tid) (u : Nat) (x : OpUnit) : getUnit (setUnit s t u x) t u = x :=
  SMap.getD_set_self _ _ _ _

@[simp] theorem getLQ_setLQ (s : State) (q : Nat) (x : LQueue) : getLQ (setLQ s q x) q = x := SMap.getD_set_self _ _ _ _

@[simp] theorem region_setRegion (s : State) (t : Tid) (r : Nat) (w : Word × Word) : region (setRegion s t r w) t r = w :=
  SMap.getD_set_self _ _ _ _

theorem region_setRegion_ne (s : State) {t u : Tid} {r q : Nat} (w : Word × Word) (h : u * 8 + q ≠ t * 8 + r) :
    region (setRegion s t r w) u q = region s u q := SMap.getD_set_ne _ _ _ h

/-! ### The E7's own writes -/

theorem physPut_keeps {α : Type} (g : State → α) (h : ∀ (s : State) (x : Storage), g { s with st := x } = g s) (bs : List Byte) :
    ∀ (s : State) (k : Nat), g (physPut s k bs) = g s := by
  induction bs with
  | nil => exact fun _ _ => rfl
  | cons b bs ih =>
    intro s k
    refine (ih _ _).trans ?_
    unfold physSet; split <;> exact h _ _

/-- A checkpoint's copy of a frame touches storage, the engines and what goes to peers alone (R156). -/
theorem copyFrame_keeps {α : Type} (g : State → α) (h : ∀ (s : State) (x : Storage), g { s with st := x } = g s)
    (he : ∀ (s : State) (x : Engines), g { s with eng := x } = g s) (hh : ∀ (s : State) (x : HostSide), g { s with host := x } = g s)
    (s : State) (c : Ckpt) (f : Nat) : g (copyFrame s c f) = g s := by
  have hn (u : State) (n c : Nat) (w : List Nat) : g (sendNode u n c w) = g u := hh _ _
  have hk (u : State) (c : Ckpt) (f : Nat) : g (keepKeys u c f) = g u := he _ _
  have hm (u : State) (x : Storage) (y : Engines) : g { u with st := x, eng := y } = g u := (he { u with st := x } y).trans (h u x)
  unfold copyFrame; dsimp only
  generalize (if f = c.copied then _ else _) = c'
  split
  · exact (hm _ _ _).trans (hk s c' f)
  · exact (hn _ _ _ _).trans ((he _ _).trans (hk s c' f))

/-- An E7 write keeps whatever neither storage nor a checkpoint's copy touches (R156). -/
theorem physSets_keeps {α : Type} (g : State → α) (h : ∀ (s : State) (x : Storage), g { s with st := x } = g s)
    (he : ∀ (s : State) (x : Engines), g { s with eng := x } = g s) (hh : ∀ (s : State) (x : HostSide), g { s with host := x } = g s)
    (s : State) (k : Nat) (bs : List Byte) : g (physSets s k bs) = g s := by
  refine (physPut_keeps g h bs _ _).trans ?_
  unfold ckptTouch; split
  · rfl
  · split
    · exact copyFrame_keeps g h he hh s _ _
    · rfl

@[simp] theorem physSets_xl (s : State) (k : Nat) (bs : List Byte) : (physSets s k bs).xl = s.xl :=
  physSets_keeps (·.xl) (fun _ _ => rfl) (fun _ _ => rfl) (fun _ _ => rfl) s k bs
@[simp] theorem physSets_tl (s : State) (k : Nat) (bs : List Byte) : (physSets s k bs).tl = s.tl :=
  physSets_keeps (·.tl) (fun _ _ => rfl) (fun _ _ => rfl) (fun _ _ => rfl) s k bs
@[simp] theorem physSets_cores (s : State) (k : Nat) (bs : List Byte) : (physSets s k bs).cores = s.cores :=
  physSets_keeps (·.cores) (fun _ _ => rfl) (fun _ _ => rfl) (fun _ _ => rfl) s k bs
@[simp] theorem physSets_ctxs (s : State) (k : Nat) (bs : List Byte) : (physSets s k bs).ctxs = s.ctxs :=
  physSets_keeps (·.ctxs) (fun _ _ => rfl) (fun _ _ => rfl) (fun _ _ => rfl) s k bs
@[simp] theorem physSets_fab (s : State) (k : Nat) (bs : List Byte) : (physSets s k bs).fab = s.fab :=
  physSets_keeps (·.fab) (fun _ _ => rfl) (fun _ _ => rfl) (fun _ _ => rfl) s k bs
@[simp] theorem physSets_tk (s : State) (k : Nat) (bs : List Byte) : (physSets s k bs).tk = s.tk :=
  physSets_keeps (·.tk) (fun _ _ => rfl) (fun _ _ => rfl) (fun _ _ => rfl) s k bs
@[simp] theorem physSets_boot (s : State) (k : Nat) (bs : List Byte) : (physSets s k bs).boot = s.boot :=
  physSets_keeps (·.boot) (fun _ _ => rfl) (fun _ _ => rfl) (fun _ _ => rfl) s k bs

/-- A directory entry is replaced in the E7 too (R56). -/
@[simp] theorem setDir_xl_dirs (s : State) (d : DirEntry) : (setDir s d).xl.dirs = s.xl.dirs.set d.page d := by
  unfold setDir; rw [physSets_xl]
@[simp] theorem setDir_cores (s : State) (d : DirEntry) : (setDir s d).cores = s.cores := physSets_cores _ _ _
@[simp] theorem setDir_fab (s : State) (d : DirEntry) : (setDir s d).fab = s.fab := physSets_fab _ _ _
@[simp] theorem setDir_tk (s : State) (d : DirEntry) : (setDir s d).tk = s.tk := physSets_tk _ _ _

@[simp] theorem inboxOf_setInbox (s : State) (q : Nat) (l : List EngCmd) : inboxOf (setInbox s q l) q = l :=
  SMap.getD_set_self _ _ _ _

end Sys2Proof.Machine
end

