-- ==== Sys2Proof/Laws/Access.lean ====
section
/-! SUPPORT. What an access to memory can do, said once for each shared operation: it moves storage, tiles' and pages' records,
messages and bindings, and leaves the rest of the machine alone; the storage keeps its canonical form. -/
namespace Sys2Proof.Machine

/-! ### The storage form -/

/-- The canonical form is that of the module's memory and of the host's. -/
theorem stored_iff (s : State) : s.stored = true ↔ Memory.wf s.st.mem = true ∧ Memory.wf s.st.host = true := by
  simp [State.stored, Bool.and_eq_true]

/-- Equal storage has equal form. -/
theorem stored_congr {s s' : State} (h : s'.st = s.st) : s'.stored = s.stored := by
  simp [State.stored, h]

/-! ### Frames -/

/-- What no access touches, and what it keeps: cores too where it draws on no firing's reservations. -/
structure AccFrame (drawer : Option Tid) (s s' : State) : Prop where
  clk : s'.clk = s.clk
  boot : s'.boot = s.boot
  fab : s'.fab = s.fab
  bar : s'.bar = s.bar
  tk : s'.tk = s.tk
  ln : s'.ln = s.ln
  saved : s'.saved = s.saved
  cuts : s'.cuts = s.cuts
  agenda : s'.agenda = s.agenda
  focus : s'.focus = s.focus
  ops : s'.ops = s.ops
  cores : drawer = none → s'.cores = s.cores
  stored : s.stored = true → s'.stored = true

theorem AccFrame.refl (d : Option Tid) (s : State) : AccFrame d s s :=
  ⟨rfl, rfl, rfl, rfl, rfl, rfl, rfl, rfl, rfl, rfl, rfl, fun _ => rfl, id⟩

theorem AccFrame.trans {d : Option Tid} {s t u : State} (h : AccFrame d s t) (g : AccFrame d t u) : AccFrame d s u :=
  ⟨g.clk.trans h.clk, g.boot.trans h.boot, g.fab.trans h.fab, g.bar.trans h.bar, g.tk.trans h.tk, g.ln.trans h.ln,
   g.saved.trans h.saved, g.cuts.trans h.cuts, g.agenda.trans h.agenda, g.focus.trans h.focus, g.ops.trans h.ops,
   fun e => (g.cores e).trans (h.cores e), fun e => g.stored (h.stored e)⟩

/-- A frame that draws on nothing is one for every drawer. -/
theorem AccFrame.anyDrawer {s s' : State} (d : Option Tid) (h : AccFrame none s s') : AccFrame d s s' :=
  { h with cores := fun _ => h.cores rfl }

/-- An update of tiles' records alone. -/
theorem AccFrame.of_tl (d : Option Tid) (s : State) (x : TileState) : AccFrame d s { s with tl := x } :=
  ⟨rfl, rfl, rfl, rfl, rfl, rfl, rfl, rfl, rfl, rfl, rfl, fun _ => rfl, id⟩

/-- An update of translation and residency alone. -/
theorem AccFrame.of_xl (d : Option Tid) (s : State) (x : Xlat) : AccFrame d s { s with xl := x } :=
  ⟨rfl, rfl, rfl, rfl, rfl, rfl, rfl, rfl, rfl, rfl, rfl, fun _ => rfl, id⟩

/-- An update of the host's side alone. -/
theorem AccFrame.of_host (d : Option Tid) (s : State) (x : HostSide) : AccFrame d s { s with host := x } :=
  ⟨rfl, rfl, rfl, rfl, rfl, rfl, rfl, rfl, rfl, rfl, rfl, fun _ => rfl, id⟩

/-- An update of the engines alone. -/
theorem AccFrame.of_eng (d : Option Tid) (s : State) (x : Engines) : AccFrame d s { s with eng := x } :=
  ⟨rfl, rfl, rfl, rfl, rfl, rfl, rfl, rfl, rfl, rfl, rfl, fun _ => rfl, id⟩

/-- Free values drawn. -/
theorem AccFrame.of_free (d : Option Tid) (s : State) (n : Nat) : AccFrame d s { s with free := n } :=
  ⟨rfl, rfl, rfl, rfl, rfl, rfl, rfl, rfl, rfl, rfl, rfl, fun _ => rfl, id⟩

/-- An update of the storage that keeps its form. -/
theorem AccFrame.of_st (d : Option Tid) (s : State) (x : Storage)
    (h : s.stored = true → Memory.wf x.mem = true ∧ Memory.wf x.host = true) : AccFrame d s { s with st := x } :=
  ⟨rfl, rfl, rfl, rfl, rfl, rfl, rfl, rfl, rfl, rfl, rfl, fun _ => rfl, fun e => (stored_iff _).2 (h e)⟩

/-- A context's registers replaced. -/
theorem AccFrame.setCtx (d : Option Tid) (s : State) (k : Nat) (x : Ctx) : AccFrame d s (setCtx s k x) :=
  ⟨rfl, rfl, rfl, rfl, rfl, rfl, rfl, rfl, rfl, rfl, rfl, fun _ => rfl, id⟩

/-- Steps of a list, each within the frame. -/
theorem AccFrame.foldl {α : Type} (d : Option Tid) (f : State → α → State) (h : ∀ s a, AccFrame d s (f s a)) :
    ∀ (l : List α) (s : State), AccFrame d s (l.foldl f s)
  | [], s => AccFrame.refl d s
  | a :: l, s => (h s a).trans (AccFrame.foldl d f h l (f s a))

/-! ### Host events, messages -/

theorem hostRing_wf (m : List Host.Cell) (w : Word) (e : HostEvent) (h : Memory.wf m = true) :
    Memory.wf (hostRing m w e) = true := by
  unfold hostRing; split
  · exact h
  · exact cellsSet_wf _ _ _ h

/-- A host event is appended to the rings in host memory, and nothing else moves (R458, R459). -/
theorem hostEvent_frame (d : Option Tid) (s : State) (c : Cause) (x l t : Nat) (v : Word) : AccFrame d s (hostEvent s c x l t v) :=
  ⟨rfl, rfl, rfl, rfl, rfl, rfl, rfl, rfl, rfl, rfl, rfl, fun _ => rfl, fun h => by
    have h := (stored_iff s).1 h
    exact (stored_iff _).2 ⟨h.1, hostRing_wf _ _ _ (hostRing_wf _ _ _ h.2)⟩⟩

/-- A message to another node leaves by the host's side of the state. -/
theorem sendFrom_frame (d : Option Tid) (s : State) (t : Tid) (n c : Nat) (w : List Nat) : AccFrame d s (sendFrom s t n c w) :=
  AccFrame.of_host d s _

theorem sendNode_frame (d : Option Tid) (s : State) (n c : Nat) (w : List Nat) : AccFrame d s (sendNode s n c w) :=
  AccFrame.of_host d s _

theorem bindRead_frame (d : Option Tid) (s : State) (who : Who) (va : Word) : AccFrame d s (bindRead s who va) := by
  unfold bindRead; split
  · exact AccFrame.refl d s
  · dsimp only; split
    · exact AccFrame.refl d s
    · split
      · exact AccFrame.refl d s
      · exact AccFrame.setCtx d s _ _

theorem unbind_frame (d : Option Tid) (s : State) (ctx b : Nat) : AccFrame d s (unbind s ctx b) := AccFrame.setCtx d s _ _

/-! ### Memory tiles -/

theorem declareFailed_frame (d : Option Tid) (s : State) (t : Tid) (b : Nat) : AccFrame d s (declareFailed s t b) :=
  (AccFrame.of_tl d s _).trans (hostEvent_frame d _ _ _ _ _ _)

theorem noteCorrection_frame (d : Option Tid) (s : State) (t : Tid) (b : Nat) : AccFrame d s (noteCorrection s t b) := by
  unfold noteCorrection; dsimp only; split
  · exact (AccFrame.of_tl d s _).trans (declareFailed_frame d _ _ _)
  · exact AccFrame.of_tl d s _

/-- A decoded row: counts, corrections under way, UE (R65 to R68). -/
theorem decodeRow_frame (d : Option Tid) (s : State) (t : Tid) (row : Nat) : AccFrame d s (decodeRow s t row).2 := by
  unfold decodeRow; dsimp only
  have h := AccFrame.foldl d (fun s b => noteCorrection s t b) (fun s b => noteCorrection_frame d s t b)
  split
  · exact ((h _ s).trans (AccFrame.of_tl d _ _)).trans (AccFrame.of_tl d _ _)
  · exact (h _ s).trans (AccFrame.of_tl d _ _)

theorem tileRead_frame (d : Option Tid) (s : State) (t : Tid) (off n : Nat) : AccFrame d s (tileRead s t off n).2 := by
  unfold tileRead; split
  · exact AccFrame.refl d s
  · dsimp only; split <;> exact decodeRow_frame d s t _

theorem tileMerge_frame (d : Option Tid) (s : State) (t : Tid) (off n : Nat) : AccFrame d s (tileMerge s t off n).2 := by
  unfold tileMerge; split
  · exact AccFrame.refl d s
  · exact decodeRow_frame d s t _

theorem tileWriteMasked_wf (t : Tid) (failed : Option Nat) (bs : List (Option Byte)) : ∀ (m : List Host.Cell) (off : Nat),
    Memory.wf m = true → Memory.wf (tileWriteMasked m t off failed bs) = true := by
  induction bs with
  | nil => exact fun _ _ h => h
  | cons b bs ih =>
    intro m off h
    cases b with
    | none => exact ih m (off + 1) h
    | some v => exact ih _ (off + 1) (tileWriteByte_wf m t off v failed h)

theorem notePast_frame (d : Option Tid) (s : State) (ia : Nat) (old : List Byte) (bs : List (Option Byte)) :
    AccFrame d s (notePast s ia old bs) := AccFrame.of_st d s _ (fun h => (stored_iff s).1 h)

theorem windowAdvance_frame (d : Option Tid) (s : State) (t : Tid) (off : Nat) : AccFrame d s (windowAdvance s t off) :=
  AccFrame.of_tl d s _

/-- A tile's bytes are put with their check symbols, and the page's generation advances (R46, R61, R64). -/
theorem tilePut_frame (d : Option Tid) (s : State) (t : Tid) (off : Nat) (bs : List (Option Byte)) :
    AccFrame d s (tilePut s t off bs) := by
  unfold tilePut
  refine (notePast_frame d s (windowIA t off) (tileBytes s t off bs.length) bs).trans
    (AccFrame.trans ?_ (windowAdvance_frame d _ t off))
  exact AccFrame.of_st d _ _ (fun h =>
    ⟨tileWriteMasked_wf _ _ _ _ _ ((stored_iff s).1 (by simpa [stored_iff, notePast] using h)).1, ((stored_iff _).1 h).2⟩)

/-- A write of a tile: a partial one decodes the old row first (R63, R65). -/
theorem tileWrite_frame (d : Option Tid) (s : State) (t : Tid) (off : Nat) (bs : List (Option Byte)) :
    AccFrame d s (tileWrite s t off bs).2 := by
  unfold tileWrite; split
  · exact AccFrame.refl d s
  · split
    · exact AccFrame.refl d s
    · split
      · exact tilePut_frame d s t off bs
      · exact (decodeRow_frame d s t _).trans (tilePut_frame d _ t off bs)

theorem setRegion_frame (d : Option Tid) (s : State) (t : Tid) (r : Nat) (w : Word × Word) : AccFrame d s (setRegion s t r w) :=
  AccFrame.of_tl d s _

/-- One reservation drawn: the drawing core's claim and the region's count (R75). -/
theorem drawOne_frame (d : Option Tid) (s : State) (t : Tid) (r : Nat) (push : Bool) : AccFrame d s (drawOne s d t r push) := by
  unfold drawOne; split
  · exact AccFrame.refl d s
  · split
    · exact AccFrame.refl none s
    · split
      · exact AccFrame.refl _ s
      · exact ⟨rfl, rfl, rfl, rfl, rfl, rfl, rfl, rfl, rfl, rfl, rfl, fun h => (nomatch h), id⟩

theorem fifoPushNow_frame (d : Option Tid) (s : State) (t : Tid) (r : Nat) (tok : Token) :
    AccFrame d s (fifoPushNow s d t r tok).2 := by
  unfold fifoPushNow; dsimp only
  generalize hx : tileWrite s t _ _ = x
  have h1 : AccFrame d s x.2 := by rw [← hx]; exact tileWrite_frame d s t _ _
  rcases x with ⟨r1, s1⟩
  cases r1
  · exact ((h1.trans (drawOne_frame d _ t r true)).trans (setRegion_frame d _ _ _ _)).trans (AccFrame.of_tl d _ _)
  · exact h1
  · exact h1

theorem fifoHeadToken_frame (d : Option Tid) (s : State) (t : Tid) (r : Nat) : AccFrame d s (fifoHeadToken s t r).2.1 := by
  unfold fifoHeadToken; dsimp only
  exact tileRead_frame d s t _ _

theorem fifoAdvance_frame (d : Option Tid) (s : State) (t : Tid) (r : Nat) : AccFrame d s (fifoAdvance s d t r) :=
  (drawOne_frame d s t r false).trans (setRegion_frame d _ _ _ _)

end Sys2Proof.Machine
end

