-- ==== Sys2Proof/Laws/Reach.lean ====
section
/-! SUPPORT. The frame of Laws/Access.lean for what lies behind a tile: FIFO regions and the window, the home port with its
table walk, cached translations, line entries and moves, forwarded accesses, and the accesses by IA and by VA built on them. -/
namespace Sys2Proof.Machine

/-! ### Window -/

theorem fifoAccess_frame (s : State) (who : Who) (t : Tid) (r rel : Nat) (op : MOp) :
    AccFrame who.drawer s (fifoAccess s who t r rel op).2 := by
  unfold fifoAccess; dsimp only
  cases op with
  | read n =>
    dsimp only; split
    · split
      · generalize hx : fifoHeadToken s t r = x
        have h1 : AccFrame who.drawer s x.2.1 := by rw [← hx]; exact fifoHeadToken_frame _ s t r
        rcases x with ⟨q, s1, p⟩
        cases q <;> exact h1
      · exact AccFrame.refl _ s
    · split
      · split
        · exact (fifoHeadToken_frame _ s t r).trans (fifoAdvance_frame _ _ t r)
        · exact AccFrame.refl _ s
      · exact AccFrame.refl _ s
  | write bs =>
    dsimp only; split
    · exact AccFrame.of_tl _ s _
    · split
      · split
        · generalize hx : fifoPushNow s who.drawer t r _ = x
          have h1 : AccFrame who.drawer s x.2 := by rw [← hx]; exact fifoPushNow_frame _ s t r _
          rcases x with ⟨q, s1⟩
          cases q
          · exact h1.trans (AccFrame.of_tl _ _ _)
          · exact h1
          · exact h1
        · exact AccFrame.refl _ s
      · exact AccFrame.refl _ s
  | rmw n red w f => exact AccFrame.refl _ s

/-- The bytes of a tile that an operation in one step reads first (R61, R107). -/
theorem tileOld_frame (d : Option Tid) (s : State) (t : Tid) (off n : Nat) (red : Bool) :
    AccFrame d s (if red then tileMerge s t off n else tileRead s t off n).2 := by
  split
  · exact tileMerge_frame d s t off n
  · exact tileRead_frame d s t off n

theorem windowAccess_frame (s : State) (who : Who) (t : Tid) (off : Nat) (op : MOp) :
    AccFrame who.drawer s (windowAccess s who t off op).2 := by
  unfold windowAccess; dsimp only
  have plain : AccFrame who.drawer s (match op with
      | .read n => tileRead s t off n
      | .write bs => tileWrite s t off bs
      | .rmw n red _ f => (match (if red then tileMerge s t off n else tileRead s t off n) with
        | (.ok old, s) =>
          if bitOf (mtstat s t) 22 then ((.fault Cause.tileue : Res (List Byte)), s) else (.ok old, tilePut s t off (allSome (f old)))
        | (x, s) => (x, s))).2 := by
    cases op with
    | read n => exact tileRead_frame _ s t off n
    | write bs => exact tileWrite_frame _ s t off bs
    | rmw n red w f =>
      dsimp only
      have h := tileOld_frame who.drawer s t off n red
      generalize (if red then tileMerge s t off n else tileRead s t off n) = x at h ⊢
      rcases x with ⟨q, s1⟩
      cases q with
      | ok old =>
        dsimp only; split
        · exact h
        · exact h.trans (tilePut_frame _ s1 t off _)
      | fault c => exact h
      | wait => exact h
  split
  · exact AccFrame.refl _ s
  · split
    · exact plain
    · split
      · exact AccFrame.refl _ s
      · split
        · exact fifoAccess_frame s who t _ _ op
        · exact plain

/-! ### Near and far memory -/

theorem keepKeys_frame (d : Option Tid) (s : State) (c : Ckpt) (f : Nat) : AccFrame d s (keepKeys s c f) := AccFrame.of_eng d s _

/-- A frame of the image leaves for host memory or for a peer (R156, R157). -/
theorem copyFrame_frame (d : Option Tid) (s : State) (c : Ckpt) (f : Nat) : AccFrame d s (copyFrame s c f) := by
  have hm (u : State) (x : Engines) (k : Nat) (bs : List Byte) :
      AccFrame d u { u with st := { u.st with host := cellsSet u.st.host k bs }, eng := x } :=
    (AccFrame.of_st d u { u.st with host := cellsSet u.st.host k bs }
      (fun h => ⟨((stored_iff u).1 h).1, cellsSet_wf _ _ _ ((stored_iff u).1 h).2⟩)).trans (AccFrame.of_eng d _ x)
  unfold copyFrame; dsimp only
  generalize (if f = c.copied then _ else _) = c'
  split
  · exact (keepKeys_frame d s c' f).trans (hm _ _ _ _)
  · exact (keepKeys_frame d s c' f).trans ((AccFrame.of_eng d _ _).trans (sendNode_frame d _ _ _ _))

theorem ckptTouch_frame (d : Option Tid) (s : State) (k : Nat) : AccFrame d s (ckptTouch s k) := by
  unfold ckptTouch; split
  · exact AccFrame.refl d s
  · split
    · exact copyFrame_frame d s _ _
    · exact AccFrame.refl d s

theorem physSet_frame (d : Option Tid) (s : State) (k : Nat) (b : Byte) : AccFrame d s (physSet s k b) := by
  unfold physSet; split
  · exact AccFrame.of_st d s _ (fun h => (stored_iff s).1 h)
  · exact AccFrame.of_st d s _ (fun h => ⟨cellSet_wf _ _ _ ((stored_iff s).1 h).1, ((stored_iff s).1 h).2⟩)

theorem physPut_frame (d : Option Tid) (bs : List Byte) : ∀ (s : State) (k : Nat), AccFrame d s (physPut s k bs) := by
  induction bs with
  | nil => exact fun s _ => AccFrame.refl d s
  | cons b bs ih => exact fun s k => (physSet_frame d s k b).trans (ih _ _)

theorem physSets_frame (d : Option Tid) (s : State) (k : Nat) (bs : List Byte) : AccFrame d s (physSets s k bs) :=
  (ckptTouch_frame d s k).trans (physPut_frame d bs _ _)

/-! ### Translations -/

theorem genWriteBack_frame (d : Option Tid) (s : State) (p : Nat) (e : TEntry) : AccFrame d s (genWriteBack s p e) := by
  unfold genWriteBack; split
  · exact AccFrame.refl d s
  · exact physSets_frame d s _ _

theorem cacheDrop_frame (d : Option Tid) (s : State) (p : Nat) : AccFrame d s (cacheDrop s p) := by
  unfold cacheDrop; split
  · exact AccFrame.refl d s
  · exact (genWriteBack_frame d s p _).trans (AccFrame.of_xl d _ _)

theorem cacheInsert_frame (d : Option Tid) (s : State) (p : Nat) (l : Word × Word × Nat × Nat) :
    AccFrame d s (cacheInsert s p l) := by
  unfold cacheInsert; dsimp only
  refine AccFrame.trans ?_ (AccFrame.of_xl d _ _)
  split
  · exact AccFrame.refl d s
  · split
    · exact AccFrame.refl d s
    · exact cacheDrop_frame d s _

theorem setDir_frame (d : Option Tid) (s : State) (x : DirEntry) : AccFrame d s (setDir s x) :=
  (AccFrame.of_xl d s _).trans (physSets_frame d _ _ _)

theorem recordSharer_frame (d : Option Tid) (s : State) (x : DirEntry) (n : Nat) : AccFrame d s (recordSharer s x n) := by
  unfold recordSharer; split
  · exact setDir_frame d s _
  · exact AccFrame.refl d s

theorem registerSharer_frame (d : Option Tid) (s : State) (p h n : Nat) : AccFrame d s (registerSharer s p h n) := by
  unfold registerSharer; split
  · split
    · exact AccFrame.refl d s
    · exact recordSharer_frame d s _ _
  · exact sendNode_frame d s _ _ _

/-- A lookup caches the leaf it walks to, registers a sharer, and notes a class (R40, R52, R57). -/
theorem lookupPage_frame (d : Option Tid) (s : State) (ia cls : Nat) : AccFrame d s (lookupPage s ia cls).2 := by
  unfold lookupPage; dsimp only
  split
  · exact AccFrame.of_xl d s _
  · split
    · exact AccFrame.refl d s
    · rename_i l _
      have h1 := cacheInsert_frame d s (ia / 65536) l
      have h2 : AccFrame d s (if leafTier l.1 = 2 ∧ leafDir l.1 = true then
          registerSharer (cacheInsert s (ia / 65536) l) (ia / 65536) (leafHome l.2.1) (cacheInsert s (ia / 65536) l).boot.node
          else cacheInsert s (ia / 65536) l) := by
        split
        · exact h1.trans (registerSharer_frame d _ _ _ _)
        · exact h1
      split
      · exact h2.trans (AccFrame.of_xl d _ _)
      · exact h2

/-! ### Home ports -/

theorem sendForward_frame (d : Option Tid) (s : State) (who : Who) (n ia cls : Nat) (op : MOp) :
    AccFrame d s (sendForward s who n ia cls op) := (sendFrom_frame d s _ _ _ _).trans (AccFrame.of_xl d _ _)

theorem dropOut_frame (d : Option Tid) (s : State) (uid : Nat) : AccFrame d s (dropOut s uid) := AccFrame.of_xl d s _

theorem pageDeliver_frame (d : Option Tid) (s : State) (p : Nat) : AccFrame d s (pageDeliver s p) := by
  unfold pageDeliver; split
  · exact AccFrame.of_xl d s _
  · exact AccFrame.refl d s

/-- A forwarded access leaves for the owner, or takes the answer that has come (R45). -/
theorem forwardAccess_frame (d : Option Tid) (s : State) (who : Who) (n ia cls : Nat) (op : MOp) :
    AccFrame d s (forwardAccess s who n ia cls op).2 := by
  unfold forwardAccess; split
  · split
    · exact sendForward_frame d s who n ia cls op
    · exact AccFrame.refl d s
  · split
    · split
      · exact sendForward_frame d s who n ia cls op
      · exact AccFrame.refl d s
    · split
      · exact AccFrame.refl d s
      · dsimp only; split
        · split
          · exact (dropOut_frame d s _).trans (pageDeliver_frame d _ _)
          · exact dropOut_frame d s _
        · exact dropOut_frame d s _

theorem pageAdvance_frame (d : Option Tid) (s : State) (p : Nat) : AccFrame d s (pageAdvance s p) := by
  unfold pageAdvance; split
  · exact AccFrame.of_xl d s _
  · exact AccFrame.refl d s

theorem invBytes_frame (d : Option Tid) (n : Nat) (bs : List Byte) : ∀ (s : State) (ia : Nat), AccFrame d s (invBytes s n ia bs).2 := by
  induction bs with
  | nil => exact fun s _ => AccFrame.refl d s
  | cons b bs ih =>
    intro s ia
    unfold invBytes; split
    · exact ih s (ia + 1)
    · exact (AccFrame.of_free d s _).trans (ih _ _)

/-- A write meets a move: its bytes go to the new frame, or its line to the node that pulls the page (R54, R58). -/
theorem mirrorMove_frame (d : Option Tid) (s : State) (ia : Nat) (bs : List (Option Byte)) : AccFrame d s (mirrorMove s ia bs) := by
  unfold mirrorMove; split
  · exact AccFrame.refl d s
  · split
    · exact AccFrame.refl d s
    · split
      · exact physSets_frame d s _ _
      · exact sendNode_frame d s _ _ _

/-- A line entry leaves for the array (R106, R470). -/
theorem writeBackLine_frame (d : Option Tid) (s : State) (l : Nat) (e : LineEntry) : AccFrame d s (writeBackLine s l e) :=
  AccFrame.of_st d s _ (fun h => ⟨cellsSet_wf _ _ _ ((stored_iff s).1 h).1, ((stored_iff s).1 h).2⟩)

theorem makeRoom_frame (d : Option Tid) (s : State) (p : Nat) : AccFrame d s (makeRoom s p) := by
  unfold makeRoom; split
  · exact AccFrame.refl d s
  · split
    · exact writeBackLine_frame d s _ _
    · exact AccFrame.refl d s

theorem lineValue_frame (d : Option Tid) (s : State) (l t : Nat) : AccFrame d s (lineValue s l t).2 := by
  unfold lineValue; split
  · exact AccFrame.refl d s
  · split
    · exact AccFrame.refl d s
    · exact AccFrame.of_free d s _

theorem lineEntry_frame (d : Option Tid) (s : State) (q : Bool) (l p t : Nat) (e : LineEntry) (s1 : State)
    (h : lineEntry s q l p t = some (e, s1)) : AccFrame d s s1 := by
  unfold lineEntry at h; split at h
  · simp only [Option.some.injEq, Prod.mk.injEq] at h; exact h.2 ▸ AccFrame.refl d s
  · split at h
    · cases h
    · dsimp only at h; simp only [Option.some.injEq, Prod.mk.injEq] at h
      exact h.2 ▸ (makeRoom_frame d s p).trans (lineValue_frame d _ l t)

/-- A write accepted into a line entry: the entry, the page's generation, a copy under way (R47, R54, R106). -/
theorem lineWrite_frame (d : Option Tid) (s : State) (q : Bool) (ia k t n : Nat) (red need : Bool)
    (f : List Byte → List (Option Byte)) : AccFrame d s (lineWrite s q ia k t n red need f).2 := by
  unfold lineWrite; split
  · exact AccFrame.refl d s
  · rename_i e s1 he
    have h1 := lineEntry_frame d s q _ _ _ e s1 he
    dsimp only; split
    · exact h1
    · refine h1.trans (AccFrame.trans ?_ (mirrorMove_frame d _ _ _))
      refine AccFrame.trans ?_ (pageAdvance_frame d _ _)
      refine AccFrame.trans ?_ (notePast_frame d _ _ _ _)
      exact AccFrame.of_st d s1 _ (fun h => (stored_iff s1).1 h)

/-- An access at its home port: forwarded, held by a move, read, or written into a line entry (R36, R44, R45, R54, R106). -/
theorem deviceAccess_frame (d : Option Tid) (s : State) (who : Who) (ia cls : Nat) (op : MOp) :
    AccFrame d s (deviceAccess s who ia cls op).2 := by
  unfold deviceAccess
  generalize hx : lookupPage s ia cls = x
  have h1 : AccFrame d s x.2 := by rw [← hx]; exact lookupPage_frame d s ia cls
  rcases x with ⟨q, s1⟩
  cases q with
  | error c => exact h1
  | ok e =>
    dsimp only; split
    · exact h1
    · split
      · cases op with
        | write bs =>
          dsimp only; split
          · exact h1
          · exact h1.trans (forwardAccess_frame d s1 who _ ia cls _)
        | read n => exact h1.trans (forwardAccess_frame d s1 who _ ia cls _)
        | rmw n red w f => exact h1.trans (forwardAccess_frame d s1 who _ ia cls _)
      · split
        · exact h1
        · cases op with
          | read n =>
            simp only [MOp.isRead, if_true]; split
            · exact h1
            · exact h1.trans ((lineValue_frame d s1 _ _).trans (pageDeliver_frame d _ _))
          | write bs =>
            have h2 := h1.trans (ckptTouch_frame d s1 (deviceKey e ia))
            simp only [MOp.isRead, Bool.false_eq_true, if_false]; split
            · exact h2
            · generalize hy : lineWrite _ _ _ _ _ _ _ _ _ = y
              have h3 : AccFrame d (ckptTouch s1 (deviceKey e ia)) y.2 := by rw [← hy]; exact lineWrite_frame d _ _ _ _ _ _ _ _ _
              rcases y with ⟨p, s2⟩
              cases p <;> exact h2.trans h3
          | rmw n red w f =>
            exact (h1.trans (ckptTouch_frame d s1 (deviceKey e ia))).trans (lineWrite_frame d _ _ _ _ _ _ _ _ _)

/-! ### By IA and by VA -/

theorem iaPresent_frame (s : State) (who : Who) (ia cls : Nat) (op : MOp) : AccFrame who.drawer s (iaPresent s who ia cls op).2 := by
  unfold iaPresent; split
  · exact AccFrame.refl _ s
  · split
    · split
      · exact windowAccess_frame s who _ _ op
      · exact AccFrame.refl _ s
    · exact deviceAccess_frame _ s who ia cls op

/-- What an access by IA can do: the shared law of every load, store, atomic and reduction of the machine. -/
theorem iaAccess_frame (s : State) (who : Who) (ia cls : Nat) (op : MOp) : AccFrame who.drawer s (iaAccess s who ia cls op).2 := by
  have h1 := iaPresent_frame s who ia cls op
  unfold iaAccess; split
  · rename_i n m bs s1 hx
    rw [hx] at h1
    split
    · exact h1
    · exact h1.trans (invBytes_frame _ _ _ _ _)
  · exact h1

/-- An access that draws on no firing's reservations leaves every core as it is. -/
theorem iaAccess_cores (s : State) (who : Who) (ia cls : Nat) (op : MOp) (h : who.drawer = none) :
    (iaAccess s who ia cls op).2.cores = s.cores := (iaAccess_frame s who ia cls op).cores h

theorem vaAccessRaw_frame (s : State) (who : Who) (va : Word) (op : MOp) : AccFrame who.drawer s (vaAccessRaw s who va op).2 := by
  unfold vaAccessRaw; split
  · exact AccFrame.refl _ s
  · exact (bindRead_frame _ s who va).trans (iaAccess_frame _ who _ _ op)

theorem bindAll_frame (d : Option Tid) (s : State) (who : Who) (ps : List (Word × Nat)) : AccFrame d s (bindAll s who ps) :=
  AccFrame.foldl d (fun s (p : Word × Nat) => bindRead s who p.1) (fun s p => bindRead_frame d s who p.1) ps s

/-- A part of a read that lies at another module is asked for (R45). -/
theorem askPart_frame (d : Option Tid) (s : State) (who : Who) (p : Part) : AccFrame d s (askPart s who p).2 := by
  unfold askPart; split
  · exact AccFrame.refl d s
  · generalize hx : lookupPage s p.ia p.cls = x
    have h1 : AccFrame d s x.2 := by rw [← hx]; exact lookupPage_frame d s p.ia p.cls
    rcases x with ⟨q, s1⟩
    cases q with
    | error c => exact h1
    | ok e =>
      dsimp only; split
      · exact h1
      · split
        · exact h1
        · split
          · exact h1.trans (sendForward_frame d s1 who _ _ _ _)
          · exact h1

theorem askParts_frame (d : Option Tid) (who : Who) (ps : List Part) : ∀ s : State, AccFrame d s (askParts s who ps).2 := by
  induction ps with
  | nil => exact fun s => AccFrame.refl d s
  | cons p ps ih =>
    intro s
    exact (askPart_frame d s who p).trans (ih _)

theorem dropAsks_frame (d : Option Tid) (s : State) (k : Nat) (ps : List Part) : AccFrame d s (dropAsks s k ps) :=
  AccFrame.foldl d (fun s (o : FwdOut) => dropOut s o.uid) (fun s o => dropOut_frame d s o.uid) _ s

theorem readEach_frame (who : Who) (ps : List Part) : ∀ s : State, AccFrame who.drawer s (readEach s who ps).2.2 := by
  induction ps with
  | nil => exact fun s => AccFrame.refl _ s
  | cons p ps ih =>
    intro s
    unfold readEach
    generalize hx : iaAccess s who p.ia p.cls (.read p.len) = x
    have h1 : AccFrame who.drawer s x.2 := by rw [← hx]; exact iaAccess_frame s who p.ia p.cls _
    rcases x with ⟨q, s1⟩
    cases q with
    | ok bs =>
      dsimp only
      generalize hy : readEach s1 who ps = y
      have h2 : AccFrame who.drawer s1 y.2.2 := by rw [← hy]; exact ih s1
      rcases y with ⟨r, v, s2⟩
      cases r <;> exact h1.trans h2
    | fault c => exact h1
    | wait => exact h1

/-- What a read of several lines can do: it asks other modules, reads, or waits. -/
theorem readParts_frame (s : State) (who : Who) (ps : List Part) : AccFrame who.drawer s (readParts s who ps).2.2 := by
  unfold readParts
  generalize hx : askParts s who ps = x
  have h1 : AccFrame who.drawer s x.2 := by rw [← hx]; exact askParts_frame _ who ps s
  rcases x with ⟨q, s1⟩
  cases q with
  | false => exact h1
  | true =>
    dsimp only
    generalize hy : readEach s1 who ps = y
    have h2 : AccFrame who.drawer s1 y.2.2 := by rw [← hy]; exact readEach_frame who ps s1
    rcases y with ⟨r, v, s2⟩
    cases r with
    | ok bs => exact h1.trans h2
    | fault c => exact h1.trans (h2.trans (dropAsks_frame _ s2 who.key ps))
    | wait => exact h1

theorem readAt_frame (s : State) (who : Who) (va : Word) (n : Nat) : AccFrame who.drawer s (readAt s who va n).2.2 := by
  unfold readAt; dsimp only
  generalize vaParts s who .read (blocksOf va n) = z
  rcases z with ⟨l, e⟩
  have h := (bindAll_frame who.drawer s who (blocksOf va n)).trans (readParts_frame (bindAll s who (blocksOf va n)) who l)
  dsimp only
  generalize readParts (bindAll s who (blocksOf va n)) who l = y at h ⊢
  rcases y with ⟨r, v, s1⟩
  cases r <;> cases e <;> exact h

theorem readVA_frame (s : State) (who : Who) (va : Word) (n : Nat) : AccFrame who.drawer s (readVA s who va n).2 := by
  have h := readAt_frame s who va n
  unfold readVA
  generalize readAt s who va n = x at h ⊢
  rcases x with ⟨r, v, s1⟩
  cases r with
  | fault c => exact h.trans (AccFrame.of_xl _ s1 _)
  | ok _ => exact h
  | wait => exact h

theorem writeEach_frame (who : Who) (ps : List Part) : ∀ (s : State) (bs : List (Option Byte)),
    AccFrame who.drawer s (writeEach s who bs ps).2.2 := by
  induction ps with
  | nil => exact fun s _ => AccFrame.refl _ s
  | cons p ps ih =>
    intro s bs
    unfold writeEach
    generalize hx : iaAccess s who p.ia p.cls (.write (bs.take p.len)) = x
    have h1 : AccFrame who.drawer s x.2 := by rw [← hx]; exact iaAccess_frame s who p.ia p.cls _
    rcases x with ⟨q, s1⟩
    cases q with
    | ok b => exact h1.trans (ih s1 _)
    | fault c => exact h1
    | wait => exact h1

theorem writeAt_frame (s : State) (who : Who) (va : Word) (bs : List (Option Byte)) :
    AccFrame who.drawer s (writeAt s who va bs).2.2 := by
  unfold writeAt; dsimp only
  generalize vaParts s who .write (blocksOf va bs.length) = z
  rcases z with ⟨l, e⟩
  have h := (bindAll_frame who.drawer s who (blocksOf va bs.length)).trans
    (writeEach_frame who l (bindAll s who (blocksOf va bs.length)) bs)
  dsimp only
  generalize writeEach (bindAll s who (blocksOf va bs.length)) who bs l = y at h ⊢
  rcases y with ⟨r, v, s1⟩
  cases r <;> cases e <;> exact h

theorem writeVARaw_frame (s : State) (who : Who) (va : Word) (bs : List Byte) : AccFrame who.drawer s (writeVARaw s who va bs).2 :=
  writeAt_frame s who va (allSome bs)

theorem readGen_frame (d : Option Tid) (s : State) (ia cls : Nat) : AccFrame d s (readGen s ia cls).2 := by
  unfold readGen; split
  · split <;> exact AccFrame.refl d s
  · generalize hx : lookupPage s ia cls = x
    have h1 : AccFrame d s x.2 := by rw [← hx]; exact lookupPage_frame d s ia cls
    rcases x with ⟨q, s1⟩
    cases q <;> exact h1

end Sys2Proof.Machine
end

