-- ==== Sys2Proof/Laws/Events.lean ====
section
/-! SUPPORT. What recording an event and writing with watchpoints observed can do, said once: beside what an access moves
they may append to an event ring, enter a handler task into a drill queue and count it in its launch. -/
namespace Sys2Proof.Machine

/-- What no event record and no write touches, and what it keeps. -/
structure EvFrame (drawer : Option Tid) (s s' : State) : Prop where
  clk : s'.clk = s.clk
  boot : s'.boot = s.boot
  fab : s'.fab = s.fab
  bar : s'.bar = s.bar
  saved : s'.saved = s.saved
  cuts : s'.cuts = s.cuts
  agenda : s'.agenda = s.agenda
  focus : s'.focus = s.focus
  ops : s'.ops = s.ops
  parked : s'.tk.parked = s.tk.parked
  signals : s'.tk.signals = s.tk.signals
  retiring : s'.tk.retiring = s.tk.retiring
  preempt : s'.tk.preempt = s.tk.preempt
  cores : drawer = none → s'.cores = s.cores
  stored : s.stored = true → s'.stored = true

theorem AccFrame.ev {d : Option Tid} {s s' : State} (h : AccFrame d s s') : EvFrame d s s' :=
  ⟨h.clk, h.boot, h.fab, h.bar, h.saved, h.cuts, h.agenda, h.focus, h.ops, congrArg Tasks.parked h.tk, congrArg Tasks.signals h.tk,
   congrArg Tasks.retiring h.tk, congrArg Tasks.preempt h.tk, h.cores, h.stored⟩

theorem EvFrame.refl (d : Option Tid) (s : State) : EvFrame d s s := (AccFrame.refl d s).ev

theorem EvFrame.trans {d : Option Tid} {s t u : State} (h : EvFrame d s t) (g : EvFrame d t u) : EvFrame d s u :=
  ⟨g.clk.trans h.clk, g.boot.trans h.boot, g.fab.trans h.fab, g.bar.trans h.bar, g.saved.trans h.saved, g.cuts.trans h.cuts,
   g.agenda.trans h.agenda, g.focus.trans h.focus, g.ops.trans h.ops, g.parked.trans h.parked, g.signals.trans h.signals,
   g.retiring.trans h.retiring, g.preempt.trans h.preempt, fun e => (g.cores e).trans (h.cores e), fun e => g.stored (h.stored e)⟩

/-- A frame that draws on nothing is one for every drawer. -/
theorem EvFrame.anyDrawer {s s' : State} (d : Option Tid) (h : EvFrame none s s') : EvFrame d s s' :=
  { h with cores := fun _ => h.cores rfl }

theorem EvFrame.foldl {α : Type} (d : Option Tid) (f : State → α → State) (h : ∀ s a, EvFrame d s (f s a)) :
    ∀ (l : List α) (s : State), EvFrame d s (l.foldl f s)
  | [], s => EvFrame.refl d s
  | a :: l, s => (h s a).trans (EvFrame.foldl d f h l (f s a))

/-! ### Launches and drill queues -/

theorem updLaunch_frame (d : Option Tid) (s : State) (k : Nat) (f : Launch → Launch) : EvFrame d s (updLaunch s k f) :=
  ⟨rfl, rfl, rfl, rfl, rfl, rfl, rfl, rfl, rfl, rfl, rfl, rfl, rfl, fun _ => rfl, id⟩

theorem noteCause_frame (d : Option Tid) (s : State) (k : Nat) (c : Cause) : EvFrame d s (noteCause s k c) := by
  unfold noteCause; split
  · exact EvFrame.refl d s
  · exact updLaunch_frame d s _ _

/-- An enqueue puts one record at the end of the drill list and advances its die's stamp (R388). -/
theorem enqueueRec_frame (d : Option Tid) (s s' : State) (t : TaskRec) (h : enqueueRec s t = some s') : EvFrame d s s' := by
  unfold enqueueRec at h; dsimp only at h; split at h
  · cases h
  · rw [← Option.some.inj h]
    have tk (u : State) (x : List TaskRec) (y : SMap Nat) : EvFrame d u { u with tk := { u.tk with drill := x, stamp := y } } :=
      ⟨rfl, rfl, rfl, rfl, rfl, rfl, rfl, rfl, rfl, rfl, rfl, rfl, rfl, fun _ => rfl, id⟩
    refine EvFrame.trans ?_ (tk _ _ _)
    split <;> split <;> first | exact EvFrame.refl d s | exact updLaunch_frame d s _ _

theorem readCR_frame (s : State) (who : Who) (va : Word) : AccFrame who.drawer s (readCR s who va).2 := by
  unfold readCR
  generalize hx : readVA s who va 64 = x
  have h1 : AccFrame who.drawer s x.2 := by rw [← hx]; exact readVA_frame s who va 64
  rcases x with ⟨q, s1⟩
  cases q with
  | ok bs =>
    dsimp only
    generalize hy : readVA s1 who (va + 64) _ = y
    have h2 : AccFrame who.drawer s1 y.2 := by rw [← hy]; exact readVA_frame s1 who _ _
    rcases y with ⟨r, s2⟩
    cases r <;> exact h1.trans h2
  | fault c => exact h1
  | wait => exact h1

/-! ### Event records -/

/-- A handler task is entered at most once (R414). -/
theorem enterHandler_frame (d : Option Tid) (s : State) (ctx lid : Nat) (t : Tid) : EvFrame d s (enterHandler s ctx lid t) := by
  unfold enterHandler; dsimp only; split
  · exact EvFrame.refl d s
  · split
    · exact EvFrame.refl d s
    · generalize hx : readCR s (Who.self ctx 6 t) (getCtx s ctx).thcr = x
      have h1 : EvFrame d s x.2 := by
        rw [← hx]; exact EvFrame.anyDrawer d (readCR_frame s (Who.self ctx 6 t) _).ev
      rcases x with ⟨q, s1⟩
      cases q with
      | ok v =>
        dsimp only; split
        · rename_i s2 he
          have h2 := enqueueRec_frame d _ _ _ he
          have h3 : EvFrame d s1 { s1 with tk := { s1.tk with nextRid := s1.tk.nextRid + 1 } } :=
            ⟨rfl, rfl, rfl, rfl, rfl, rfl, rfl, rfl, rfl, rfl, rfl, rfl, rfl, fun _ => rfl, id⟩
          exact h1.trans ((h3.trans h2).trans ((AccFrame.setCtx d _ _ _).ev.trans (updLaunch_frame d _ _ _)))
        · exact h1
      | fault c => exact h1
      | wait => exact h1

theorem dropEvent_frame (d : Option Tid) (s : State) (ctx lid : Nat) (t : Tid) : AccFrame d s (dropEvent s ctx lid t) := by
  unfold dropEvent; dsimp only; split
  · exact AccFrame.setCtx d s _ _
  · exact (AccFrame.setCtx d s _ _).trans (hostEvent_frame d _ _ _ _ _ _)

/-- An event record goes to its ring or is counted as dropped, and its handler is entered (R404, R413, R414). -/
theorem appendEvent_frame (d : Option Tid) (s : State) (ctx : Nat) (e : Ev) : EvFrame d s (appendEvent s ctx e) := by
  unfold appendEvent; dsimp only
  have h0 := noteCause_frame d s e.lid e.cause
  split
  · exact h0.trans (dropEvent_frame d _ _ _ _).ev
  · generalize hx : writeVARaw _ _ _ _ = x
    have h1 : EvFrame d (noteCause s e.lid e.cause) x.2 := by
      rw [← hx]; exact EvFrame.anyDrawer d (writeVARaw_frame _ { Who.self ctx 7 e.tid with quiet := true } _ _).ev
    rcases x with ⟨q, s1⟩
    cases q with
    | ok b => exact h0.trans (h1.trans ((AccFrame.setCtx d _ _ _).ev.trans (enterHandler_frame d _ _ _ _)))
    | fault c => exact h0.trans (h1.trans (dropEvent_frame d _ _ _ _).ev)
    | wait => exact h0.trans (h1.trans (dropEvent_frame d _ _ _ _).ev)

/-! ### Writes with watchpoints observed -/

theorem watchCheck_frame (d : Option Tid) (s : State) (who : Who) (ps : List (Nat × List (Option Byte))) :
    EvFrame d s (watchCheck s who ps) := by
  unfold watchCheck; split
  · exact EvFrame.refl d s
  · refine EvFrame.foldl d _ ?_ _ s
    intro u c; split
    · exact appendEvent_frame d u _ _
    · exact EvFrame.refl d u

theorem writeVAMasked_frame (s : State) (who : Who) (va : Word) (bs : List (Option Byte)) :
    EvFrame who.drawer s (writeVAMasked s who va bs).2 :=
  (writeAt_frame s who va bs).ev.trans (watchCheck_frame _ _ who _)

theorem writeVA_frame (s : State) (who : Who) (va : Word) (bs : List Byte) : EvFrame who.drawer s (writeVA s who va bs).2 :=
  writeVAMasked_frame s who va _

/-- An access by IA with watchpoints observed: of every port, command and host access. -/
theorem iaPerform_frame (s : State) (who : Who) (ia cls : Nat) (op : MOp) : EvFrame who.drawer s (iaPerform s who ia cls op).2 := by
  unfold iaPerform
  generalize hx : iaAccess s who ia cls op = x
  have h1 : EvFrame who.drawer s x.2 := by rw [← hx]; exact (iaAccess_frame s who ia cls op).ev
  rcases x with ⟨q, s1⟩
  cases q with
  | ok old =>
    cases op
    · exact h1
    · exact h1.trans (watchCheck_frame _ _ who _)
    · exact h1.trans (watchCheck_frame _ _ who _)
  | fault c => exact h1
  | wait => exact h1

theorem rmwVA_frame (s : State) (who : Who) (va : Word) (n : Nat) (red : Bool) (what : List Nat) (f : List Byte → List Byte) :
    EvFrame who.drawer s (rmwVA s who va n red what f).2 := by
  unfold rmwVA; split
  · exact EvFrame.refl _ s
  · exact (bindRead_frame _ s who va).ev.trans (iaPerform_frame _ who _ _ _)

end Sys2Proof.Machine
end

