-- ==== Sys2Proof/Laws/Forms.lean ====
section
/-! SUPPORT. What the shared frames of the meanings answer: a sequencer form on its core, an event of an access, a unit, an engine
command, and the turn of a slot whose latches hold data. -/
namespace Sys2Proof.Machine

/-! ### Sequencer forms -/

/-- A form on a core that runs a firing answers what the form makes of it. -/
theorem onCore_next {s : State} {t : Tid} {c : Core} {f : Firing} (k : Tid → Core → Firing → State) (ht : s.focus.1 = t)
    (hc : getCore s t = c) (hr : c.run = some f) (hh : c.halted = false) : onCore s k = .next (k t c f) := by
  subst ht; subst hc
  simp only [onCore, hr, hh, Bool.false_eq_true, if_false]

/-- A form on a core without a firing is a fault. -/
theorem onCore_idle {s : State} (k : Tid → Core → Firing → State) (h : (getCore s s.focus.1).run = none) :
    onCore s k = .fault .noFiring := by simp only [onCore, h]

/-- A form on a halted core is a fault. -/
theorem onCore_halted {s : State} (k : Tid → Core → Firing → State) (h : (getCore s s.focus.1).halted = true) :
    onCore s k = .fault .noFiring := by
  simp only [onCore, h, if_true]
  split <;> rfl

/-- A form never refuses, and faults only for want of a running firing. -/
theorem onCore_cases (s : State) (k : Tid → Core → Firing → State) :
    onCore s k = .fault .noFiring ∨ ∃ f, (getCore s s.focus.1).run = some f ∧ (getCore s s.focus.1).halted = false ∧
      onCore s k = .next (k s.focus.1 (getCore s s.focus.1) f) := by
  cases hr : (getCore s s.focus.1).run with
  | none => exact .inl (onCore_idle k hr)
  | some f =>
    cases hh : (getCore s s.focus.1).halted with
    | true => exact .inl (onCore_halted k hh)
    | false => exact .inr ⟨f, rfl, rfl, onCore_next k rfl rfl hr hh⟩

/-- A computation form whose registers are ready writes its value and goes on. -/
theorem regOp_next {s : State} {t : Tid} {c : Core} {f : Firing} {rs : List Reg} {d : Reg} (v : Core → Word)
    (ht : s.focus.1 = t) (hc : getCore s t = c) (hr : c.run = some f) (hh : c.halted = false) (hd : c.ready (d :: rs) = true) :
    regOp s rs d v = .next (setCore s t (c.setGpr d (v c)).advance) := by
  rw [regOp, onCore_next _ ht hc hr hh, if_pos hd]

/-- A computation form that waits for a register leaves the state as it is. -/
theorem regOp_wait {s : State} {t : Tid} {c : Core} {f : Firing} {rs : List Reg} {d : Reg} (v : Core → Word)
    (ht : s.focus.1 = t) (hc : getCore s t = c) (hr : c.run = some f) (hh : c.halted = false) (hd : c.ready (d :: rs) = false) :
    regOp s rs d v = .next s := by
  rw [regOp, onCore_next _ ht hc hr hh, if_neg (by simp [hd])]

/-- A conditional branch whose registers are ready sets the pc alone. -/
theorem branch_next {s : State} {t : Tid} {c : Core} {f : Firing} {a b : Reg} (o : BitVec 16) (p : Word → Word → Bool)
    (ht : s.focus.1 = t) (hc : getCore s t = c) (hr : c.run = some f) (hh : c.halted = false) (hd : c.ready [a, b] = true) :
    branch s a b o p = .next (setCore s t { c with pc := if p (c.gpr a) (c.gpr b) then targetB c.pc o else c.pc + 4 }) := by
  rw [branch, onCore_next _ ht hc hr hh, if_pos hd]

@[simp] theorem setGpr_pc (c : Core) (r : Reg) (v : Word) : (c.setGpr r v).pc = c.pc := by
  simp only [Core.setGpr]; split <;> rfl

@[simp] theorem setGpr_run (c : Core) (r : Reg) (v : Word) : (c.setGpr r v).run = c.run := by
  simp only [Core.setGpr]; split <;> rfl

@[simp] theorem setGpr_unfin (c : Core) (r : Reg) (v : Word) : (c.setGpr r v).unfin = c.unfin := by
  simp only [Core.setGpr]; split <;> rfl

@[simp] theorem setGpr_sys (c : Core) (r : Reg) (v : Word) : (c.setGpr r v).sys = c.sys := by
  simp only [Core.setGpr]; split <;> rfl

@[simp] theorem setGpr_halted (c : Core) (r : Reg) (v : Word) : (c.setGpr r v).halted = c.halted := by
  simp only [Core.setGpr]; split <;> rfl

@[simp] theorem setGpr_regs_length (c : Core) (r : Reg) (v : Word) : (c.setGpr r v).regs.length = c.regs.length := by
  simp only [Core.setGpr]; split <;> simp [length_setNth]

/-! ### Events of accesses -/

/-- An event of an access that the core holds answers what the event makes of it. -/
theorem onAccess_next {s : State} {t id : Nat} {c : Core} {f : Firing} {a : Access}
    (k : Tid → Nat → Core → Firing → Access → State) (ht : s.op 0 = t) (hi : s.op 1 = id) (hc : getCore s t = c)
    (hr : c.run = some f) (ha : c.findAcc id = some a) : onAccess s k = .next (k t id c f a) := by
  subst ht; subst hi; subst hc
  simp only [onAccess, hr, ha]

/-- An event of an access never stops. -/
theorem onAccess_answers (s : State) (k : Tid → Nat → Core → Firing → Access → State) : ∃ s', onAccess s k = .next s' := by
  simp only [onAccess]
  split <;> exact ⟨_, rfl⟩

/-! ### Units of a section -/

/-- The tile and number of a unit's environment. -/
theorem envOf_unit {s : State} {t n : Nat} {e : Env} (h : envOf s t n = some e) : e.t = t ∧ e.n = n := by
  simp only [envOf] at h
  split at h
  · simp at h
  · split at h <;> simp only [Option.some.injEq, reduceCtorEq] at h <;> subst h <;> exact ⟨rfl, rfl⟩

/-- An event of a unit of its kind answers what the event makes of it. -/
theorem onUnit_next {s : State} {kind : Nat} {e : Env} {x : OpUnit} (k : Env → State → OpUnit → State)
    (he : envOf s (s.op 0) (s.op 1) = some e) (hx : getUnit s e.t e.n = x) (hk : recKind x.recd = kind) :
    onUnit s kind k = .next (k e s x) := by
  obtain ⟨h1, h2⟩ := envOf_unit he
  rw [h1, h2] at hx
  simp only [onUnit, he, hx, hk, if_true]

/-- An event of a unit never stops. -/
theorem onUnit_answers (s : State) (kind : Nat) (k : Env → State → OpUnit → State) : ∃ s', onUnit s kind k = .next s' := by
  simp only [onUnit]
  split <;> exact ⟨_, rfl⟩

/-! ### Slots -/

/-- An operation word on a slot of a running section answers the slot's turn. -/
theorem onSlot_next {s : State} {e : Env} {x : Slot} (op : SlotOp) (he : envOf s s.focus.1 s.focus.2 = some e)
    (hx : getSlot s e.t e.n = x) : onSlot s op = .next (slotRun op e s x) := by
  subst hx
  simp only [onSlot, he]

/-- An operation word never stops. -/
theorem onSlot_answers (s : State) (op : SlotOp) : ∃ s', onSlot s op = .next s' := by
  simp only [onSlot]
  split <;> exact ⟨_, rfl⟩

/-- A slot that holds, or stands at a stop edge, does nothing. -/
theorem slotRun_holds {op : SlotOp} {e : Env} {s : State} {x : Slot} (h : x.held.isSome = true ∨ e.atStop x.edge = true) :
    slotRun op e s x = s := by
  simp only [slotRun]
  rw [if_pos (by simpa using h)]

/-- Data on L alone, P neither bound nor filled: the operation fires (R214, R215). -/
theorem slotRun_fire_one {op : SlotOp} {e : Env} {s : State} {x : Slot} {l : Token} (hh : x.held = none)
    (hs : e.atStop x.edge = false) (ho : x.hdrOut = none) (hf : bothFree s e.t e.n op.ta op.tb = true)
    (hr : readsOf op.instr = (true, false)) (ht : takesP op.instr = false) (hp : x.p = none) (hb : pBound s e.t e.n = false)
    (hl : x.l = some l) (hk : l.kind = .data) (hg : latchPoison x.hl x.l = false) :
    slotRun op e s x = op.fire e s x := by
  have hm : TokKind.data.isMark = false := rfl
  have hq : TokKind.data.isPermit = false := rfl
  rw [hl] at hg
  simp [slotRun, hh, hs, ho, headerDue, hr, hl, hk, hp, latchesFull, ht, hb, hf, classify, kindsRead, hm, hq, dataFire, gateOf, hg]

/-- Data on L and R, P neither bound nor filled: the operation fires (R214, R215). -/
theorem slotRun_fire_two {op : SlotOp} {e : Env} {s : State} {x : Slot} {l r : Token} (hh : x.held = none)
    (hs : e.atStop x.edge = false) (ho : x.hdrOut = none) (hf : bothFree s e.t e.n op.ta op.tb = true)
    (hr : readsOf op.instr = (true, true)) (ht : takesP op.instr = false) (hp : x.p = none) (hb : pBound s e.t e.n = false)
    (hl : x.l = some l) (hk : l.kind = .data) (hg : latchPoison x.hl x.l = false)
    (hl' : x.r = some r) (hk' : r.kind = .data) (hg' : latchPoison x.hr x.r = false) :
    slotRun op e s x = op.fire e s x := by
  have hm : TokKind.data.isMark = false := rfl
  have hq : TokKind.data.isPermit = false := rfl
  rw [hl] at hg
  rw [hl'] at hg'
  simp [slotRun, hh, hs, ho, headerDue, hr, hl, hk, hl', hk', hp, latchesFull, ht, hb, hf, classify, kindsRead, hm, hq, dataFire, gateOf, hg, hg']

end Sys2Proof.Machine
end

