-- ==== Sys2Proof/Laws/Words.lean ====
section
/-! SUPPORT. The fields of an encoded word: each reads back what the encoder put there (R225, R226, R236 to R238). -/
namespace Sys2Proof.Laws
variable {mj fn fld op md : Nat} {d a b : Reg} {ta tb : Target}

theorem wordA_lt (h : fn < 2048) : wordA d a b fn < 2 ^ 32 := by unfold wordA; omega
theorem wordA_major (h : fn < 2048) : wordA d a b fn / 67108864 % 64 = 0 := by unfold wordA; omega
theorem wordA_fn (h : fn < 2048) : wordA d a b fn % 2048 = fn := by unfold wordA; omega
theorem wordA_lo (h : fn < 2048) : wordA d a b fn / 2048 % 32 = b.val := by unfold wordA; omega
theorem regHi_wordA (h : fn < 2048) : regHi (wordA d a b fn) = d := by
  apply Fin.ext; simp only [regHi, wordA, Fin.ofNat]; omega
theorem regMid_wordA (h : fn < 2048) : regMid (wordA d a b fn) = a := by
  apply Fin.ext; simp only [regMid, wordA, Fin.ofNat]; omega
theorem regLo_wordA (h : fn < 2048) : regLo (wordA d a b fn) = b := by
  apply Fin.ext; simp only [regLo, wordA, Fin.ofNat]; omega
theorem decode_wordA (h : fn < 2048) : decodeSeqNat (wordA d a b fn) = decodeA (wordA d a b fn) := by
  simp only [decodeSeqNat, wordA_major h]

theorem wordI_lt (hm : mj < 64) (h : fld < 65536) : wordI mj d a fld < 2 ^ 32 := by unfold wordI; omega
theorem wordI_major (hm : mj < 64) (h : fld < 65536) : wordI mj d a fld / 67108864 % 64 = mj := by unfold wordI; omega
theorem wordI_mid (h : fld < 65536) : wordI mj d a fld / 65536 % 32 = a.val := by unfold wordI; omega
theorem wordI_high10 (h : fld < 65536) : wordI mj d a fld / 64 % 1024 = fld / 64 := by unfold wordI; omega
theorem wordI_size (h : fld < 65536) : wordI mj d a fld / 8192 % 8 = fld / 8192 := by unfold wordI; omega
theorem regHi_wordI (h : fld < 65536) : regHi (wordI mj d a fld) = d := by
  apply Fin.ext; simp only [regHi, wordI, Fin.ofNat]; omega
theorem regMid_wordI (h : fld < 65536) : regMid (wordI mj d a fld) = a := by
  apply Fin.ext; simp only [regMid, wordI, Fin.ofNat]; omega
theorem immI_wordI : immI (wordI mj d a fld) = BitVec.ofNat 16 fld := by
  apply BitVec.eq_of_toNat_eq; simp only [immI, wordI, BitVec.toNat_ofNat]; omega
theorem immM_wordI : immM (wordI mj d a fld) = BitVec.ofNat 13 fld := by
  apply BitVec.eq_of_toNat_eq; simp only [immM, wordI, BitVec.toNat_ofNat]; omega
theorem imm6_wordI : imm6 (wordI mj d a fld) = BitVec.ofNat 6 fld := by
  apply BitVec.eq_of_toNat_eq; simp only [imm6, wordI, BitVec.toNat_ofNat]; omega

theorem wordX_lt (hm : mj < 64) (hf : fn < 32) (h : fld < 2048) : wordX mj a b fn fld < 2 ^ 32 := by unfold wordX; omega
theorem wordX_major (hm : mj < 64) (hf : fn < 32) (h : fld < 2048) : wordX mj a b fn fld / 67108864 % 64 = mj := by
  unfold wordX; omega
theorem wordX_fn (hf : fn < 32) (h : fld < 2048) : wordX mj a b fn fld / 2048 % 32 = fn := by unfold wordX; omega
theorem wordX_hi (hf : fn < 32) (h : fld < 2048) : wordX mj a b fn fld / 2097152 % 32 = a.val := by unfold wordX; omega
theorem wordX_mid (hf : fn < 32) (h : fld < 2048) : wordX mj a b fn fld / 65536 % 32 = b.val := by unfold wordX; omega
theorem wordX_both (hf : fn < 32) (h : fld < 2048) : wordX mj a b fn fld / 65536 % 1024 = a.val * 32 + b.val := by
  unfold wordX; omega
theorem wordX_low : wordX mj a b fn fld % 2048 = fld % 2048 := by unfold wordX; omega
theorem wordX_gd (h : fld < 2048) : wordX mj a b fn fld / 64 % 32 = fld / 64 := by unfold wordX; omega
theorem wordX_six : wordX mj a b fn fld % 64 = fld % 64 := by unfold wordX; omega
theorem wordX_four : wordX mj a b fn fld % 16 = fld % 16 := by unfold wordX; omega
theorem wordX_sz : wordX mj a b fn fld / 16 % 4 = fld / 16 % 4 := by unfold wordX; omega
theorem wordX_pad : wordX mj a b fn fld / 8 % 256 = fld / 8 % 256 := by unfold wordX; omega
theorem wordX_scope : wordX mj a b fn fld / 256 % 8 = fld / 256 % 8 := by unfold wordX; omega
theorem wordX_three : wordX mj a b fn fld % 8 = fld % 8 := by unfold wordX; omega
theorem wordX_two : wordX mj a b fn fld / 64 % 4 = fld / 64 % 4 := by unfold wordX; omega
theorem wordX_c : wordX mj a b fn fld / 8 % 2 = fld / 8 % 2 := by unfold wordX; omega
theorem regHi_wordX (hf : fn < 32) (h : fld < 2048) : regHi (wordX mj a b fn fld) = a := by
  apply Fin.ext; simp only [regHi, wordX, Fin.ofNat]; omega
theorem regMid_wordX (hf : fn < 32) (h : fld < 2048) : regMid (wordX mj a b fn fld) = b := by
  apply Fin.ext; simp only [regMid, wordX, Fin.ofNat]; omega
theorem regX_wordX : regX (wordX mj a b fn fld) = Fin.ofNat 32 (fld / 64) := by
  apply Fin.ext; simp only [regX, wordX, Fin.ofNat]; omega
theorem imm6_wordX : imm6 (wordX mj a b fn fld) = BitVec.ofNat 6 fld := by
  apply BitVec.eq_of_toNat_eq; simp only [imm6, wordX, BitVec.toNat_ofNat]; omega
theorem imm3_wordX : BitVec.ofNat 3 (wordX mj a b fn fld) = BitVec.ofNat 3 fld := by
  apply BitVec.eq_of_toNat_eq; simp only [wordX, BitVec.toNat_ofNat]; omega

/-- A register at bits 10:6 above a 6-bit rest. -/
theorem gd_div {x : Nat} (h : x < 64) : (d.val * 64 + x) / 64 = d.val := by omega
theorem gd_mod {x : Nat} : (d.val * 64 + x) % 64 = x % 64 := by omega
theorem gd_mod16 {x : Nat} : (d.val * 64 + x) % 16 = x % 16 := by omega
theorem gd_sz {x : Nat} : (d.val * 64 + x) / 16 % 4 = x / 16 % 4 := by omega
theorem gd_two {x : Nat} : (d.val * 64 + x) / 8 % 2 = x / 8 % 2 := by omega
theorem gd_imm6 (j : BitVec 6) : BitVec.ofNat 6 (d.val * 64 + j.toNat) = j := by
  apply BitVec.eq_of_toNat_eq; simp only [BitVec.toNat_ofNat]; omega
theorem gd_div0 : d.val * 64 / 64 = d.val := by omega
theorem gd_mod0 : d.val * 64 % 64 = 0 := by omega
theorem gd_mod160 : d.val * 64 % 16 = 0 := by omega
theorem gd_sz0 : d.val * 64 / 16 % 4 = 0 := by omega
theorem ofNat_reg : Fin.ofNat 32 d.val = d := by apply Fin.ext; simp [Fin.ofNat]; 
theorem six_div (j : BitVec 6) : j.toNat / 64 = 0 := by omega
theorem six_mod (j : BitVec 6) : j.toNat % 64 = j.toNat := by omega
theorem six_ofNat (j : BitVec 6) : BitVec.ofNat 6 j.toNat = j := by simp

theorem targetCode_lt : targetCode ta < 1024 := by
  cases ta with
  | none => decide
  | loc s q => cases q <;> simp only [targetCode, posCode] <;> omega
  | eg c => simp only [targetCode]; omega

theorem targetOf_loc {s : Fin 64} {q : Pos} (c : Nat) (hc : c = posCode q) (h : posOf c = some q) (h0 : c < 4) :
    targetOf (s.val * 8 + c * 2) = some (.loc s q) := by
  have h1 : (s.val * 8 + c * 2) / 512 % 2 = 0 := by omega
  have h2 : (s.val * 8 + c * 2) % 2 = 0 := by omega
  have h3 : (s.val * 8 + c * 2) / 2 % 4 = c := by omega
  have h4 : Fin.ofNat 64 ((s.val * 8 + c * 2) / 8) = s := by apply Fin.ext; simp only [Fin.ofNat]; omega
  simp only [targetOf, h1, h2, h3, h, h4, if_neg (show ¬(0 = 1) by decide)]

theorem targetOf_eg {c : Fin 8} : targetOf (512 + c.val * 16) = some (.eg c) := by
  have h1 : (512 + c.val * 16) / 512 % 2 = 1 := by omega
  have h2 : (512 + c.val * 16) % 16 = 0 := by omega
  have h3 : (512 + c.val * 16) / 16 % 32 = c.val := by omega
  have h4 : Fin.ofNat 8 ((512 + c.val * 16) / 16) = c := by apply Fin.ext; simp only [Fin.ofNat]; omega
  simp only [targetOf, h1, h2, h3, h4, if_true, Bool.true_and, c.isLt, decide_true]

theorem targetOf_code : targetOf (targetCode ta) = some ta := by
  cases ta with
  | none => rfl
  | loc s q => cases q <;> exact targetOf_loc _ rfl rfl (by decide)
  | eg c => exact targetOf_eg

theorem wordE_lt (ho : op < 256) (hm : md < 16) : wordE op md ta tb < 2 ^ 32 := by
  have := targetCode_lt (ta := ta); have := targetCode_lt (ta := tb); unfold wordE; omega
theorem wordE_op (ho : op < 256) (hm : md < 16) : wordE op md ta tb / 16777216 % 256 = op := by
  have := targetCode_lt (ta := ta); have := targetCode_lt (ta := tb); unfold wordE; omega
theorem wordE_mod (hm : md < 16) : wordE op md ta tb / 1048576 % 16 = md := by
  have := targetCode_lt (ta := ta); have := targetCode_lt (ta := tb); unfold wordE; omega
theorem wordE_mod8 : wordE op md ta tb / 1048576 % 8 = md % 8 := by
  have := targetCode_lt (ta := ta); have := targetCode_lt (ta := tb); unfold wordE; omega
theorem wordE_mod4 : wordE op md ta tb / 1048576 % 4 = md % 4 := by
  have := targetCode_lt (ta := ta); have := targetCode_lt (ta := tb); unfold wordE; omega
theorem wordE_mod2 : wordE op md ta tb / 1048576 % 2 = md % 2 := by
  have := targetCode_lt (ta := ta); have := targetCode_lt (ta := tb); unfold wordE; omega
theorem wordE_sat : wordE op md ta tb / 8388608 % 2 = md / 8 % 2 := by
  have := targetCode_lt (ta := ta); have := targetCode_lt (ta := tb); unfold wordE; omega
theorem wordE_dir (hm : md < 16) : wordE op md ta tb / 4194304 % 4 = md / 4 := by
  have := targetCode_lt (ta := ta); have := targetCode_lt (ta := tb); unfold wordE; omega
theorem wordE_inv : wordE op md ta tb / 2097152 % 2 = md / 2 % 2 := by
  have := targetCode_lt (ta := ta); have := targetCode_lt (ta := tb); unfold wordE; omega
theorem wordE_none : wordE op md .none .none % 1048576 = 0 := by
  have h : wordE op md .none .none = 1048576 * (op * 16 + md) := by simp only [wordE, targetCode]; omega
  rw [h, Nat.mul_mod_right]
theorem wordE_ta : wordE op md ta tb / 1024 % 1024 = targetCode ta := by
  have := targetCode_lt (ta := ta); have := targetCode_lt (ta := tb); unfold wordE; omega
theorem wordE_tb : wordE op md ta tb % 1024 = targetCode tb := by
  have := targetCode_lt (ta := ta); have := targetCode_lt (ta := tb); unfold wordE; omega
theorem withTargets_of {w : Nat} {k : Target → Target → Instr} (h1 : w / 1024 % 1024 = targetCode ta)
    (h2 : w % 1024 = targetCode tb) : withTargets w k = .ok (k ta tb) := by
  rw [withTargets, h1, h2, targetOf_code, targetOf_code]
theorem withTargets_wordE {k : Target → Target → Instr} : withTargets (wordE op md ta tb) k = .ok (k ta tb) :=
  withTargets_of wordE_ta wordE_tb

end Sys2Proof.Laws
end

