-- ==== Sys2Proof/Laws/PerInstr.lean ====
section
/-! SUPPORT. Decode after encode, one lemma per constructor of Instr (R225 to R238). -/

namespace Sys2Proof.Laws.RoundTrip

/-- Decoding the word of a well-formed instruction gives it back: a sequencer word up to the name of BCHG's one word, an
element word as it is. An event has no word. -/
def Statement (i : Instr) : Prop :=
  i.wf = true → (i.wordKind = .sequencer → decodeSeq (encode i) = .ok i.canon) ∧
    (i.wordKind = .element → decodeElem (encode i) = .ok i)

theorem no_word {i : Instr} (h : i.wordKind = .event) : Statement i :=
  fun _ => ⟨fun k => absurd (h ▸ k) (by decide), fun k => absurd (h ▸ k) (by decide)⟩

theorem seq_ok {i j : Instr} (w : Nat) (h : encodeNat i = w) (hj : i.canon = j) (hk : i.wordKind = .sequencer)
    (hw : w < 2 ^ 32) (hd : i.wf = true → decodeSeqNat w = .ok j) : Statement i := by
  refine fun hwf => ⟨fun _ => ?_, fun h => absurd (hk ▸ h) (by decide)⟩
  rw [decodeSeq, encode, h, BitVec.toNat_ofNat, Nat.mod_eq_of_lt hw, hd hwf, hj]

theorem elem_ok {i : Instr} (w : Nat) (h : encodeNat i = w) (hk : i.wordKind = .element)
    (hw : w < 2 ^ 32) (hd : i.wf = true → decodeElemNat w = .ok i) : Statement i := by
  refine fun hwf => ⟨fun h => absurd (hk ▸ h) (by decide), fun _ => ?_⟩
  rw [decodeElem, encode, h, BitVec.toNat_ofNat, Nat.mod_eq_of_lt hw, hd hwf]

theorem size_lt {o : BitVec 13} (s : MSize) : msizeCode s * 8192 + o.toNat < 65536 := by
  cases s <;> simp only [msizeCode] <;> omega

theorem decode_wordM {mj : Nat} {d a : Reg} {s : MSize} {o : BitVec 13} (k : Reg → Reg → MSize → BitVec 13 → Instr)
    (h : decodeSeqNat (wordI mj d a (msizeCode s * 8192 + o.toNat)) = decodeM k (wordI mj d a (msizeCode s * 8192 + o.toNat))) :
    decodeSeqNat (wordI mj d a (msizeCode s * 8192 + o.toNat)) = .ok (k d a s o) := by
  have hs : (msizeCode s * 8192 + o.toNat) / 8192 = msizeCode s := by omega
  have ho : BitVec.ofNat 13 (msizeCode s * 8192 + o.toNat) = o := by
    apply BitVec.eq_of_toNat_eq; simp only [BitVec.toNat_ofNat]; omega
  rw [h, decodeM, wordI_size (size_lt s), hs, regHi_wordI (size_lt s), regMid_wordI (size_lt s), immM_wordI, ho]
  cases s <;> rfl

theorem major_wordJ (mj : Nat) (o : BitVec 26) (h : mj < 64) : (mj * 67108864 + o.toNat) / 67108864 % 64 = mj := by omega

theorem decode_wordJ {mj : Nat} (o : BitVec 26) {k : BitVec 26 → Instr}
    (h : decodeSeqNat (mj * 67108864 + o.toNat) = .ok (k (immJ (mj * 67108864 + o.toNat)))) :
    decodeSeqNat (mj * 67108864 + o.toNat) = .ok (k o) := by
  have : immJ (mj * 67108864 + o.toNat) = o := by
    apply BitVec.eq_of_toNat_eq; simp only [immJ, BitVec.toNat_ofNat]; omega
  rw [h, this]

theorem imod_lt (m : IMod) : imodCode m < 16 := by cases m <;> decide
theorem fmod_lt (m : FMod) : fmodCode m < 16 := by cases m <;> decide
theorem lmod_lt (m : LMod) : lmodCode m < 16 := by obtain (m | m) := m <;> cases m <;> decide
theorem imod_code (m : IMod) : imodOf (imodCode m) = some m := by cases m <;> rfl
theorem fmod_code (m : FMod) : fmodOf (fmodCode m) = some m := by cases m <;> rfl
theorem lmod_code (m : LMod) : lmodOf (lmodCode m) = some m := by obtain (m | m) := m <;> cases m <;> rfl
theorem conv_lt (sat : Bool) (rm : RMode) : sat.toNat * 8 + rmodeCode rm < 16 := by cases sat <;> cases rm <;> decide
theorem dir_lt (d : Dir) : dirCode d * 4 < 16 := by cases d <;> decide
theorem port_lt (d : Dir) (inv : Bool) : dirCode d * 4 + inv.toNat * 2 < 16 := by cases d <;> cases inv <;> decide
theorem dir_mod (d : Dir) : dirCode d * 4 % 4 = 0 := by omega
theorem dir_div (d : Dir) : dirOf (dirCode d * 4 / 4) = d := by cases d <;> rfl

variable {op : Nat} {ta tb : Target}

theorem elemI {k : IMod → Target → Target → Instr} (m : IMod)
    (h : decodeElemNat (wordE op (imodCode m) ta tb) = decodeEI k (wordE op (imodCode m) ta tb)) :
    decodeElemNat (wordE op (imodCode m) ta tb) = .ok (k m ta tb) := by
  rw [h, decodeEI, wordE_mod (imod_lt m), imod_code]; exact withTargets_wordE

theorem elemF {k : FMod → Target → Target → Instr} (m : FMod)
    (h : decodeElemNat (wordE op (fmodCode m) ta tb) = decodeEF k (wordE op (fmodCode m) ta tb)) :
    decodeElemNat (wordE op (fmodCode m) ta tb) = .ok (k m ta tb) := by
  rw [h, decodeEF, wordE_mod (fmod_lt m), fmod_code]; exact withTargets_wordE

theorem elemL {k : LMod → Target → Target → Instr} (m : LMod)
    (h : decodeElemNat (wordE op (lmodCode m) ta tb) = decodeEL k (wordE op (lmodCode m) ta tb)) :
    decodeElemNat (wordE op (lmodCode m) ta tb) = .ok (k m ta tb) := by
  rw [h, decodeEL, wordE_mod (lmod_lt m), lmod_code]; exact withTargets_wordE

theorem conv_step {w x y : Nat} {k : Bool → RMode → Target → Target → Instr} {sat : Bool} {rm : RMode}
    (hr : rmodeOf x = some rm) (hs : y = sat.toNat) (ht : withTargets w (k sat rm) = .ok (k sat rm ta tb)) :
    (match rmodeOf x with
      | some m => withTargets w (k (y == 1) m)
      | none => .error Cause.rmode) = Except.ok (k sat rm ta tb) := by
  subst hs; rw [hr]; cases sat <;> exact ht

theorem decodeEC_of {w : Nat} {k : Bool → RMode → Target → Target → Instr} {sat : Bool} {rm : RMode}
    (hr : rmodeOf (w / 1048576 % 8) = some rm) (hs : w / 8388608 % 2 = sat.toNat)
    (ht : withTargets w (k sat rm) = .ok (k sat rm ta tb)) : decodeEC k w = .ok (k sat rm ta tb) :=
  conv_step hr hs ht

theorem elemC {md : Nat} {k : Bool → RMode → Target → Target → Instr} {sat : Bool} {rm : RMode}
    (hr : rmodeOf (md % 8) = some rm) (hs : md / 8 % 2 = sat.toNat)
    (h : decodeElemNat (wordE op md ta tb) = decodeEC k (wordE op md ta tb)) :
    decodeElemNat (wordE op md ta tb) = .ok (k sat rm ta tb) :=
  h.trans (decodeEC_of ((congrArg rmodeOf wordE_mod8).trans hr) (wordE_sat.trans hs) withTargets_wordE)

theorem conv_rm (sat : Bool) (rm : RMode) : rmodeOf ((sat.toNat * 8 + rmodeCode rm) % 8) = some rm := by
  cases sat <;> cases rm <;> rfl
theorem conv_sat (sat : Bool) (rm : RMode) : ((sat.toNat * 8 + rmodeCode rm) / 8 % 2) = sat.toNat := by
  cases sat <;> cases rm <;> rfl

theorem zero_step {w x : Nat} {k : Target → Target → Instr} (h0 : x = 0) (ht : withTargets w k = .ok (k ta tb)) :
    chk (x == 0) Cause.elemmod (withTargets w k) = .ok (k ta tb) := by
  subst h0; exact ht

theorem elemZ {k : Target → Target → Instr}
    (h : decodeElemNat (wordE op 0 ta tb) = decodeE0 k (wordE op 0 ta tb)) :
    decodeElemNat (wordE op 0 ta tb) = .ok (k ta tb) :=
  h.trans (zero_step (wordE_mod (by decide)) withTargets_wordE)

theorem port_step {w x y z : Nat} {k : Dir → Bool → Target → Target → Instr} {d : Dir} {inv : Bool} (h0 : x = 0)
    (hd : dirOf y = d) (hi : z = inv.toNat) (ht : withTargets w (k d inv) = .ok (k d inv ta tb)) :
    chk (x == 0) Cause.elemmod (withTargets w (k (dirOf y) (z == 1))) = .ok (k d inv ta tb) := by
  subst h0; subst hd; subst hi; cases inv <;> exact ht

theorem decodeEPI_of {w : Nat} {k : Dir → Bool → Target → Target → Instr} {d : Dir} {inv : Bool}
    (h0 : w / 1048576 % 2 = 0) (hd : dirOf (w / 4194304 % 4) = d) (hi : w / 2097152 % 2 = inv.toNat)
    (ht : withTargets w (k d inv) = .ok (k d inv ta tb)) : decodeEPI k w = .ok (k d inv ta tb) :=
  port_step h0 hd hi ht

theorem elemPI {md : Nat} {k : Dir → Bool → Target → Target → Instr} {d : Dir} {inv : Bool} (hm : md < 16)
    (h0 : md % 2 = 0) (hd : dirOf (md / 4) = d) (hi : md / 2 % 2 = inv.toNat)
    (h : decodeElemNat (wordE op md ta tb) = decodeEPI k (wordE op md ta tb)) :
    decodeElemNat (wordE op md ta tb) = .ok (k d inv ta tb) :=
  h.trans (decodeEPI_of (wordE_mod2.trans h0) ((congrArg dirOf (wordE_dir hm)).trans hd) (wordE_inv.trans hi)
    withTargets_wordE)

theorem port_even (d : Dir) (inv : Bool) : (dirCode d * 4 + inv.toNat * 2) % 2 = 0 := by omega
theorem port_dir (d : Dir) (inv : Bool) : dirOf ((dirCode d * 4 + inv.toNat * 2) / 4) = d := by
  cases d <;> cases inv <;> rfl
theorem port_inv (d : Dir) (inv : Bool) : ((dirCode d * 4 + inv.toNat * 2) / 2 % 2) = inv.toNat := by
  cases d <;> cases inv <;> rfl

theorem dir_step {w x y : Nat} {k : Dir → Target → Target → Instr} {d : Dir} (h0 : x = 0)
    (hd : dirOf y = d) (ht : withTargets w (k d) = .ok (k d ta tb)) :
    chk (x == 0) Cause.elemmod (withTargets w (k (dirOf y))) = .ok (k d ta tb) := by
  subst h0; subst hd; exact ht

theorem decodeEP_of {w : Nat} {k : Dir → Target → Target → Instr} {d : Dir} (h0 : w / 1048576 % 4 = 0)
    (hd : dirOf (w / 4194304 % 4) = d) (ht : withTargets w (k d) = .ok (k d ta tb)) : decodeEP k w = .ok (k d ta tb) :=
  dir_step h0 hd ht

theorem elemP {md : Nat} {k : Dir → Target → Target → Instr} {d : Dir} (hm : md < 16) (h0 : md % 4 = 0)
    (hd : dirOf (md / 4) = d)
    (h : decodeElemNat (wordE op md ta tb) = decodeEP k (wordE op md ta tb)) :
    decodeElemNat (wordE op md ta tb) = .ok (k d ta tb) :=
  h.trans (decodeEP_of (wordE_mod4.trans h0) ((congrArg dirOf (wordE_dir hm)).trans hd) withTargets_wordE)

theorem stt_step {x y z : Nat} {d : Dir} (h0 : x = 0) (h1 : y = 0) (hd : dirOf z = d) :
    chk (x == 0) Cause.elemmod (chk (y == 0) Cause.target (.ok (.stt (dirOf z)))) = .ok (.stt d) := by
  subst h0; subst h1; subst hd; rfl

theorem mwin_step {x y : Nat} (h0 : x = 0) (h1 : y = 0) :
    chk (x == 0) Cause.elemmod (chk (y == 0) Cause.target (.ok .mwin)) = .ok .mwin := by
  subst h0; subst h1; rfl

theorem asize_lt (s : ASize) : asizeCode s < 4 := by cases s <;> decide
theorem scope_lt (s : Scope) : scopeCode s < 8 := by cases s <;> decide
theorem clear_lt (c : Bool) : c.toNat < 2 := by cases c <;> decide
theorem gd_reg {d : Reg} {x : Nat} (h : x < 64) : Fin.ofNat 32 ((d.val * 64 + x) / 64) = d := by
  rw [gd_div h, ofNat_reg]
theorem gd_reg0 {d : Reg} : Fin.ofNat 32 (d.val * 64 / 64) = d := by rw [gd_div0, ofNat_reg]
theorem zero_reg : Fin.ofNat 32 (0 / 64) = 0 := rfl

theorem atomInt_of {w : Nat} {s : ASize} {k : Reg → Reg → Reg → ASize → Instr} (h0 : w % 16 = 0)
    (hy : w / 16 % 4 = asizeCode s) (hi : s.isInt = true) :
    decodeAtomInt k w = .ok (k (regHi w) (regMid w) (regX w) s) := by
  delta decodeAtomInt
  generalize w % 16 = x at h0
  generalize w / 16 % 4 = y at hy
  subst h0; subst hy; cases s <;> first | rfl | exact absurd hi (by decide)

theorem atomInt_ok {mj fn : Nat} {a b d : Reg} {s : ASize} {k : Reg → Reg → Reg → ASize → Instr} (hi : s.isInt = true)
    (hf : fn < 32 := by decide) :
    decodeAtomInt k (wordX mj a b fn (d.val * 64 + asizeCode s * 16)) = .ok (k a b d s) := by
  have hs := asize_lt s
  rw [atomInt_of (wordX_four.trans (by omega)) (wordX_sz.trans (by omega)) hi, regHi_wordX hf (by omega),
    regMid_wordX hf (by omega), regX_wordX, gd_reg (by omega)]

theorem float_step {x y z : Nat} {i : Instr} (h0 : x = 0) (hy : y = z) :
    chk (x == 0) Cause.illfld (chk (y == z) Cause.illsize (.ok i)) = .ok i := by
  subst h0; subst hy; simp only [chk, beq_self_eq_true, if_true]

theorem atomFloat_ok {mj fn fld sz : Nat} {a b d : Reg} {k : Reg → Reg → Reg → Instr} (h0 : fld % 16 = 0)
    (hz : fld / 16 % 4 = sz) (hd : d.val * 64 ≤ fld ∧ fld < d.val * 64 + 64) (hf : fn < 32 := by decide) :
    decodeAtomFloat k sz (wordX mj a b fn fld) = .ok (k a b d) := by
  have e : Fin.ofNat 32 (fld / 64) = d := by apply Fin.ext; simp only [Fin.ofNat]; omega
  rw [decodeAtomFloat, regHi_wordX hf (by omega), regMid_wordX hf (by omega), regX_wordX, e]
  exact float_step (wordX_four.trans h0) (wordX_sz.trans hz)

theorem and_step {x y : Nat} {c : Cause} {r : Except Cause Instr} (h0 : x = 0) (h1 : y = 0) :
    chk (x == 0 && y == 0) c r = r := by
  subst h0; subst h1; rfl

theorem redInt_of {w : Nat} {s : ASize} {k : Reg → Reg → ASize → Instr} (h0 : w % 16 = 0) (h1 : w / 64 % 32 = 0)
    (hy : w / 16 % 4 = asizeCode s) (hi : s.isInt = true) : decodeRedInt k w = .ok (k (regHi w) (regMid w) s) := by
  delta decodeRedInt
  generalize w % 16 = x at h0
  generalize w / 64 % 32 = z at h1
  generalize w / 16 % 4 = y at hy
  subst h0; subst h1; subst hy; cases s <;> first | rfl | exact absurd hi (by decide)

theorem redInt_ok {mj fn : Nat} {a b : Reg} {s : ASize} {k : Reg → Reg → ASize → Instr} (hi : s.isInt = true)
    (hf : fn < 32 := by decide) :
    decodeRedInt k (wordX mj a b fn (asizeCode s * 16)) = .ok (k a b s) := by
  have hs := asize_lt s
  rw [redInt_of (wordX_four.trans (by omega)) ((wordX_gd (by omega)).trans (by omega)) (wordX_sz.trans (by omega)) hi,
    regHi_wordX hf (by omega), regMid_wordX hf (by omega)]

theorem redFloat_ok {mj fn fld sz : Nat} {a b : Reg} {k : Reg → Reg → Instr} (h0 : fld % 16 = 0)
    (hz : fld / 16 % 4 = sz) (hl : fld < 64) (hf : fn < 32) :
    decodeRedFloat k sz (wordX mj a b fn fld) = .ok (k a b) := by
  have e : (wordX mj a b fn fld / 16 % 4 == sz) = true := by rw [wordX_sz, hz]; exact beq_self_eq_true _
  rw [decodeRedFloat, regHi_wordX hf (by omega), regMid_wordX hf (by omega), e]
  exact and_step (wordX_four.trans h0) ((wordX_gd (by omega)).trans (by omega))

theorem wordX_zero {mj fld : Nat} (h : fld < 2048) : wordX mj 0 0 0 fld / 65536 % 1024 = 0 := by
  rw [wordX_both (by decide) h]; rfl
theorem scope_pad {mj : Nat} (s : Scope) : wordX mj 0 0 0 (scopeCode s) / 8 % 256 = 0 := by
  have := scope_lt s
  rw [wordX_pad]; omega
theorem scope_three (s : Scope) : scopeCode s % 8 = scopeCode s := by
  have := scope_lt s
  omega

theorem sbar_step {x y z : Nat} {a b : Reg} (h0 : x = 0) (h1 : y = 0) (h2 : z = 0) (h3 : b = a) :
    chk (x == 0) Cause.illfn (chk (y == 0 && z == 0) Cause.illfld (.ok (.sbar b))) = .ok (.sbar a) := by
  subst h0; subst h1; subst h2; subst h3; rfl

theorem publish_step {x y z v : Nat} {s : Scope} {e e' : BitVec 6} (hs : s ≠ .lane) (h0 : x = 0) (h1 : y = 0) (h2 : z = 0)
    (h3 : v = scopeCode s) (he : e' = e) :
    chk (x == 0 && y == 0 && z == 0) Cause.illfld
      (match scopeOf v with
      | some .lane | none => .error Cause.scope
      | some s => .ok (.publish s e')) = .ok (.publish s e) := by
  subst h0; subst h1; subst h2; subst h3; subst he; cases s <;> first | rfl | exact absurd rfl hs

theorem publish_ok {s : Scope} {e : BitVec 6} (hwf : (s != .lane) = true) :
    (chk (wordX 0x35 0 0 0 (scopeCode s * 256 + e.toNat) / 2097152 % 32 == 0 &&
        wordX 0x35 0 0 0 (scopeCode s * 256 + e.toNat) / 65536 % 32 == 0 &&
        wordX 0x35 0 0 0 (scopeCode s * 256 + e.toNat) / 64 % 4 == 0) Cause.illfld
      (match scopeOf (wordX 0x35 0 0 0 (scopeCode s * 256 + e.toNat) / 256 % 8) with
      | some .lane | none => .error Cause.scope
      | some s' => .ok (.publish s' (imm6 (wordX 0x35 0 0 0 (scopeCode s * 256 + e.toNat)))))) = .ok (.publish s e) := by
  have hs := scope_lt s
  refine publish_step (by intro h; subst h; exact absurd hwf (by decide)) (wordX_hi (by decide) (by omega))
    (wordX_mid (by decide) (by omega)) (wordX_two.trans (by omega)) (wordX_scope.trans (by omega)) ?_
  rw [imm6_wordX]; apply BitVec.eq_of_toNat_eq; simp only [BitVec.toNat_ofNat]; omega

theorem three_step {x y z : Nat} {i : Instr} (h0 : x = 0) (h1 : y = 0) (h2 : z = 0) :
    chk (x == 0 && y == 0 && z == 0) Cause.illfld (.ok i) = .ok i := by
  subst h0; subst h1; subst h2; rfl

theorem evrd_fields {d d' : Reg} {k k' : BitVec 3} {c : Bool} {v : Nat} (h0 : d' = d) (h1 : v = c.toNat) (h2 : k' = k) :
    Instr.evrd d' (v == 1) k' = .evrd d c k := by
  subst h0; subst h1; subst h2; cases c <;> rfl

theorem evrd_ok {d : Reg} {c : Bool} {k : BitVec 3} :
    chk (wordX 0x38 0 0 8 (d.val * 64 + c.toNat * 8 + k.toNat) / 2097152 % 32 == 0 &&
      wordX 0x38 0 0 8 (d.val * 64 + c.toNat * 8 + k.toNat) / 65536 % 32 == 0 &&
      wordX 0x38 0 0 8 (d.val * 64 + c.toNat * 8 + k.toNat) / 16 % 4 == 0) Cause.illfld
      (.ok (.evrd (regX (wordX 0x38 0 0 8 (d.val * 64 + c.toNat * 8 + k.toNat)))
        (wordX 0x38 0 0 8 (d.val * 64 + c.toNat * 8 + k.toNat) / 8 % 2 == 1)
        (BitVec.ofNat 3 (wordX 0x38 0 0 8 (d.val * 64 + c.toNat * 8 + k.toNat))))) = .ok (.evrd d c k) := by
  have hc := clear_lt c
  refine (three_step (wordX_hi (by decide) (by omega)) (wordX_mid (by decide) (by omega)) (wordX_sz.trans (by omega))).trans
    (congrArg Except.ok (evrd_fields ?_ (wordX_c.trans (by omega)) ?_))
  · rw [regX_wordX]; apply Fin.ext; simp only [Fin.ofNat]; omega
  · rw [imm3_wordX]; apply BitVec.eq_of_toNat_eq; simp only [BitVec.toNat_ofNat]; omega

theorem sige_step {x y z v : Nat} {r : Instr} {i : Instr} (h0 : x = 0) (h1 : y = 0) (hz : z = 0) :
    chk (x == 0 && y == 0) Cause.illfld (if z = 0 then .ok i else chk (v == 0) Cause.illfld (.ok r)) = .ok i := by
  subst h0; subst h1; subst hz; rfl

theorem sigeEntry_ok {j : BitVec 6} :
    chk (wordX 0x30 0 0 2 j.toNat / 65536 % 32 == 0 && wordX 0x30 0 0 2 j.toNat / 64 % 32 == 0) Cause.illfld
      (if wordX 0x30 0 0 2 j.toNat / 2097152 % 32 = 0 then .ok (.sigeEntry (imm6 (wordX 0x30 0 0 2 j.toNat)))
       else chk (wordX 0x30 0 0 2 j.toNat % 64 == 0) Cause.illfld (.ok (.sigeAddress (regHi (wordX 0x30 0 0 2 j.toNat))))) =
      .ok (.sigeEntry j) := by
  rw [sige_step (wordX_mid (by decide) (by omega)) ((wordX_gd (by omega)).trans (six_div j)) (wordX_hi (by decide) (by omega)),
    imm6_wordX, six_ofNat]

theorem sigeA_step {x y z v : Nat} {r : Instr} {i : Instr} (h0 : x = 0) (h1 : y = 0) (hz : z ≠ 0) (hv : v = 0) :
    chk (x == 0 && y == 0) Cause.illfld (if z = 0 then .ok i else chk (v == 0) Cause.illfld (.ok r)) = .ok r := by
  subst h0; subst h1; subst hv; rw [if_neg hz]; rfl

theorem sigeAddress_ok {a : Reg} (hwf : (a != 0) = true) :
    chk (wordX 0x30 a 0 2 0 / 65536 % 32 == 0 && wordX 0x30 a 0 2 0 / 64 % 32 == 0) Cause.illfld
      (if wordX 0x30 a 0 2 0 / 2097152 % 32 = 0 then .ok (.sigeEntry (imm6 (wordX 0x30 a 0 2 0)))
       else chk (wordX 0x30 a 0 2 0 % 64 == 0) Cause.illfld (.ok (.sigeAddress (regHi (wordX 0x30 a 0 2 0))))) =
      .ok (.sigeAddress a) := by
  have ha : a.val ≠ 0 := by
    intro h; have e : a = 0 := Fin.ext h
    subst e; exact absurd hwf (by decide)
  rw [sigeA_step (wordX_mid (by decide) (by decide)) (wordX_gd (by decide))
    (by rw [wordX_hi (by decide) (by decide)]; exact ha) wordX_six, regHi_wordX (by decide) (by decide)]

theorem sixteen_ofNat (i : BitVec 16) : BitVec.ofNat 16 i.toNat = i := by simp

end Sys2Proof.Laws.RoundTrip

namespace Sys2Proof.Laws
open RoundTrip
set_option linter.unusedSimpArgs false
set_option Elab.async false

theorem RoundTrip.add (d a b : Reg) : Statement (.add d a b) := by
  refine seq_ok (wordA d a b 0) (j := .add d a b) rfl rfl rfl (wordA_lt (by decide)) fun _ => ?_
  refine (decode_wordA (by decide)).trans ((show ∀ w, w % 2048 = 0 → decodeA w = .ok (.add (regHi w) (regMid w) (regLo w)) from
    fun w h => by delta decodeA; generalize w % 2048 = n at h; subst h; rfl) _ (wordA_fn (by decide)) |>.trans ?_)
  simp (disch := decide) only [wordA_lo, regHi_wordA, regMid_wordA, regLo_wordA, chk, Fin.val_zero, beq_self_eq_true, if_true]

theorem RoundTrip.sub (d a b : Reg) : Statement (.sub d a b) := by
  refine seq_ok (wordA d a b 1) (j := .sub d a b) rfl rfl rfl (wordA_lt (by decide)) fun _ => ?_
  refine (decode_wordA (by decide)).trans ((show ∀ w, w % 2048 = 1 → decodeA w = .ok (.sub (regHi w) (regMid w) (regLo w)) from
    fun w h => by delta decodeA; generalize w % 2048 = n at h; subst h; rfl) _ (wordA_fn (by decide)) |>.trans ?_)
  simp (disch := decide) only [wordA_lo, regHi_wordA, regMid_wordA, regLo_wordA, chk, Fin.val_zero, beq_self_eq_true, if_true]

theorem RoundTrip.and (d a b : Reg) : Statement (.and d a b) := by
  refine seq_ok (wordA d a b 2) (j := .and d a b) rfl rfl rfl (wordA_lt (by decide)) fun _ => ?_
  refine (decode_wordA (by decide)).trans ((show ∀ w, w % 2048 = 2 → decodeA w = .ok (.and (regHi w) (regMid w) (regLo w)) from
    fun w h => by delta decodeA; generalize w % 2048 = n at h; subst h; rfl) _ (wordA_fn (by decide)) |>.trans ?_)
  simp (disch := decide) only [wordA_lo, regHi_wordA, regMid_wordA, regLo_wordA, chk, Fin.val_zero, beq_self_eq_true, if_true]

theorem RoundTrip.or (d a b : Reg) : Statement (.or d a b) := by
  refine seq_ok (wordA d a b 3) (j := .or d a b) rfl rfl rfl (wordA_lt (by decide)) fun _ => ?_
  refine (decode_wordA (by decide)).trans ((show ∀ w, w % 2048 = 3 → decodeA w = .ok (.or (regHi w) (regMid w) (regLo w)) from
    fun w h => by delta decodeA; generalize w % 2048 = n at h; subst h; rfl) _ (wordA_fn (by decide)) |>.trans ?_)
  simp (disch := decide) only [wordA_lo, regHi_wordA, regMid_wordA, regLo_wordA, chk, Fin.val_zero, beq_self_eq_true, if_true]

theorem RoundTrip.xor (d a b : Reg) : Statement (.xor d a b) := by
  refine seq_ok (wordA d a b 4) (j := .xor d a b) rfl rfl rfl (wordA_lt (by decide)) fun _ => ?_
  refine (decode_wordA (by decide)).trans ((show ∀ w, w % 2048 = 4 → decodeA w = .ok (.xor (regHi w) (regMid w) (regLo w)) from
    fun w h => by delta decodeA; generalize w % 2048 = n at h; subst h; rfl) _ (wordA_fn (by decide)) |>.trans ?_)
  simp (disch := decide) only [wordA_lo, regHi_wordA, regMid_wordA, regLo_wordA, chk, Fin.val_zero, beq_self_eq_true, if_true]

theorem RoundTrip.andn (d a b : Reg) : Statement (.andn d a b) := by
  refine seq_ok (wordA d a b 5) (j := .andn d a b) rfl rfl rfl (wordA_lt (by decide)) fun _ => ?_
  refine (decode_wordA (by decide)).trans ((show ∀ w, w % 2048 = 5 → decodeA w = .ok (.andn (regHi w) (regMid w) (regLo w)) from
    fun w h => by delta decodeA; generalize w % 2048 = n at h; subst h; rfl) _ (wordA_fn (by decide)) |>.trans ?_)
  simp (disch := decide) only [wordA_lo, regHi_wordA, regMid_wordA, regLo_wordA, chk, Fin.val_zero, beq_self_eq_true, if_true]

theorem RoundTrip.shl (d a b : Reg) : Statement (.shl d a b) := by
  refine seq_ok (wordA d a b 6) (j := .shl d a b) rfl rfl rfl (wordA_lt (by decide)) fun _ => ?_
  refine (decode_wordA (by decide)).trans ((show ∀ w, w % 2048 = 6 → decodeA w = .ok (.shl (regHi w) (regMid w) (regLo w)) from
    fun w h => by delta decodeA; generalize w % 2048 = n at h; subst h; rfl) _ (wordA_fn (by decide)) |>.trans ?_)
  simp (disch := decide) only [wordA_lo, regHi_wordA, regMid_wordA, regLo_wordA, chk, Fin.val_zero, beq_self_eq_true, if_true]

theorem RoundTrip.shr (d a b : Reg) : Statement (.shr d a b) := by
  refine seq_ok (wordA d a b 7) (j := .shr d a b) rfl rfl rfl (wordA_lt (by decide)) fun _ => ?_
  refine (decode_wordA (by decide)).trans ((show ∀ w, w % 2048 = 7 → decodeA w = .ok (.shr (regHi w) (regMid w) (regLo w)) from
    fun w h => by delta decodeA; generalize w % 2048 = n at h; subst h; rfl) _ (wordA_fn (by decide)) |>.trans ?_)
  simp (disch := decide) only [wordA_lo, regHi_wordA, regMid_wordA, regLo_wordA, chk, Fin.val_zero, beq_self_eq_true, if_true]

theorem RoundTrip.sar (d a b : Reg) : Statement (.sar d a b) := by
  refine seq_ok (wordA d a b 8) (j := .sar d a b) rfl rfl rfl (wordA_lt (by decide)) fun _ => ?_
  refine (decode_wordA (by decide)).trans ((show ∀ w, w % 2048 = 8 → decodeA w = .ok (.sar (regHi w) (regMid w) (regLo w)) from
    fun w h => by delta decodeA; generalize w % 2048 = n at h; subst h; rfl) _ (wordA_fn (by decide)) |>.trans ?_)
  simp (disch := decide) only [wordA_lo, regHi_wordA, regMid_wordA, regLo_wordA, chk, Fin.val_zero, beq_self_eq_true, if_true]

theorem RoundTrip.rot (d a b : Reg) : Statement (.rot d a b) := by
  refine seq_ok (wordA d a b 9) (j := .rot d a b) rfl rfl rfl (wordA_lt (by decide)) fun _ => ?_
  refine (decode_wordA (by decide)).trans ((show ∀ w, w % 2048 = 9 → decodeA w = .ok (.rot (regHi w) (regMid w) (regLo w)) from
    fun w h => by delta decodeA; generalize w % 2048 = n at h; subst h; rfl) _ (wordA_fn (by decide)) |>.trans ?_)
  simp (disch := decide) only [wordA_lo, regHi_wordA, regMid_wordA, regLo_wordA, chk, Fin.val_zero, beq_self_eq_true, if_true]

theorem RoundTrip.mul (d a b : Reg) : Statement (.mul d a b) := by
  refine seq_ok (wordA d a b 10) (j := .mul d a b) rfl rfl rfl (wordA_lt (by decide)) fun _ => ?_
  refine (decode_wordA (by decide)).trans ((show ∀ w, w % 2048 = 10 → decodeA w = .ok (.mul (regHi w) (regMid w) (regLo w)) from
    fun w h => by delta decodeA; generalize w % 2048 = n at h; subst h; rfl) _ (wordA_fn (by decide)) |>.trans ?_)
  simp (disch := decide) only [wordA_lo, regHi_wordA, regMid_wordA, regLo_wordA, chk, Fin.val_zero, beq_self_eq_true, if_true]

theorem RoundTrip.mulh (d a b : Reg) : Statement (.mulh d a b) := by
  refine seq_ok (wordA d a b 11) (j := .mulh d a b) rfl rfl rfl (wordA_lt (by decide)) fun _ => ?_
  refine (decode_wordA (by decide)).trans ((show ∀ w, w % 2048 = 11 → decodeA w = .ok (.mulh (regHi w) (regMid w) (regLo w)) from
    fun w h => by delta decodeA; generalize w % 2048 = n at h; subst h; rfl) _ (wordA_fn (by decide)) |>.trans ?_)
  simp (disch := decide) only [wordA_lo, regHi_wordA, regMid_wordA, regLo_wordA, chk, Fin.val_zero, beq_self_eq_true, if_true]

theorem RoundTrip.mulhu (d a b : Reg) : Statement (.mulhu d a b) := by
  refine seq_ok (wordA d a b 12) (j := .mulhu d a b) rfl rfl rfl (wordA_lt (by decide)) fun _ => ?_
  refine (decode_wordA (by decide)).trans ((show ∀ w, w % 2048 = 12 → decodeA w = .ok (.mulhu (regHi w) (regMid w) (regLo w)) from
    fun w h => by delta decodeA; generalize w % 2048 = n at h; subst h; rfl) _ (wordA_fn (by decide)) |>.trans ?_)
  simp (disch := decide) only [wordA_lo, regHi_wordA, regMid_wordA, regLo_wordA, chk, Fin.val_zero, beq_self_eq_true, if_true]

theorem RoundTrip.div (d a b : Reg) : Statement (.div d a b) := by
  refine seq_ok (wordA d a b 13) (j := .div d a b) rfl rfl rfl (wordA_lt (by decide)) fun _ => ?_
  refine (decode_wordA (by decide)).trans ((show ∀ w, w % 2048 = 13 → decodeA w = .ok (.div (regHi w) (regMid w) (regLo w)) from
    fun w h => by delta decodeA; generalize w % 2048 = n at h; subst h; rfl) _ (wordA_fn (by decide)) |>.trans ?_)
  simp (disch := decide) only [wordA_lo, regHi_wordA, regMid_wordA, regLo_wordA, chk, Fin.val_zero, beq_self_eq_true, if_true]

theorem RoundTrip.divu (d a b : Reg) : Statement (.divu d a b) := by
  refine seq_ok (wordA d a b 14) (j := .divu d a b) rfl rfl rfl (wordA_lt (by decide)) fun _ => ?_
  refine (decode_wordA (by decide)).trans ((show ∀ w, w % 2048 = 14 → decodeA w = .ok (.divu (regHi w) (regMid w) (regLo w)) from
    fun w h => by delta decodeA; generalize w % 2048 = n at h; subst h; rfl) _ (wordA_fn (by decide)) |>.trans ?_)
  simp (disch := decide) only [wordA_lo, regHi_wordA, regMid_wordA, regLo_wordA, chk, Fin.val_zero, beq_self_eq_true, if_true]

theorem RoundTrip.rem (d a b : Reg) : Statement (.rem d a b) := by
  refine seq_ok (wordA d a b 15) (j := .rem d a b) rfl rfl rfl (wordA_lt (by decide)) fun _ => ?_
  refine (decode_wordA (by decide)).trans ((show ∀ w, w % 2048 = 15 → decodeA w = .ok (.rem (regHi w) (regMid w) (regLo w)) from
    fun w h => by delta decodeA; generalize w % 2048 = n at h; subst h; rfl) _ (wordA_fn (by decide)) |>.trans ?_)
  simp (disch := decide) only [wordA_lo, regHi_wordA, regMid_wordA, regLo_wordA, chk, Fin.val_zero, beq_self_eq_true, if_true]

theorem RoundTrip.remu (d a b : Reg) : Statement (.remu d a b) := by
  refine seq_ok (wordA d a b 16) (j := .remu d a b) rfl rfl rfl (wordA_lt (by decide)) fun _ => ?_
  refine (decode_wordA (by decide)).trans ((show ∀ w, w % 2048 = 16 → decodeA w = .ok (.remu (regHi w) (regMid w) (regLo w)) from
    fun w h => by delta decodeA; generalize w % 2048 = n at h; subst h; rfl) _ (wordA_fn (by decide)) |>.trans ?_)
  simp (disch := decide) only [wordA_lo, regHi_wordA, regMid_wordA, regLo_wordA, chk, Fin.val_zero, beq_self_eq_true, if_true]

theorem RoundTrip.min (d a b : Reg) : Statement (.min d a b) := by
  refine seq_ok (wordA d a b 17) (j := .min d a b) rfl rfl rfl (wordA_lt (by decide)) fun _ => ?_
  refine (decode_wordA (by decide)).trans ((show ∀ w, w % 2048 = 17 → decodeA w = .ok (.min (regHi w) (regMid w) (regLo w)) from
    fun w h => by delta decodeA; generalize w % 2048 = n at h; subst h; rfl) _ (wordA_fn (by decide)) |>.trans ?_)
  simp (disch := decide) only [wordA_lo, regHi_wordA, regMid_wordA, regLo_wordA, chk, Fin.val_zero, beq_self_eq_true, if_true]

theorem RoundTrip.max (d a b : Reg) : Statement (.max d a b) := by
  refine seq_ok (wordA d a b 18) (j := .max d a b) rfl rfl rfl (wordA_lt (by decide)) fun _ => ?_
  refine (decode_wordA (by decide)).trans ((show ∀ w, w % 2048 = 18 → decodeA w = .ok (.max (regHi w) (regMid w) (regLo w)) from
    fun w h => by delta decodeA; generalize w % 2048 = n at h; subst h; rfl) _ (wordA_fn (by decide)) |>.trans ?_)
  simp (disch := decide) only [wordA_lo, regHi_wordA, regMid_wordA, regLo_wordA, chk, Fin.val_zero, beq_self_eq_true, if_true]

theorem RoundTrip.minu (d a b : Reg) : Statement (.minu d a b) := by
  refine seq_ok (wordA d a b 19) (j := .minu d a b) rfl rfl rfl (wordA_lt (by decide)) fun _ => ?_
  refine (decode_wordA (by decide)).trans ((show ∀ w, w % 2048 = 19 → decodeA w = .ok (.minu (regHi w) (regMid w) (regLo w)) from
    fun w h => by delta decodeA; generalize w % 2048 = n at h; subst h; rfl) _ (wordA_fn (by decide)) |>.trans ?_)
  simp (disch := decide) only [wordA_lo, regHi_wordA, regMid_wordA, regLo_wordA, chk, Fin.val_zero, beq_self_eq_true, if_true]

theorem RoundTrip.maxu (d a b : Reg) : Statement (.maxu d a b) := by
  refine seq_ok (wordA d a b 20) (j := .maxu d a b) rfl rfl rfl (wordA_lt (by decide)) fun _ => ?_
  refine (decode_wordA (by decide)).trans ((show ∀ w, w % 2048 = 20 → decodeA w = .ok (.maxu (regHi w) (regMid w) (regLo w)) from
    fun w h => by delta decodeA; generalize w % 2048 = n at h; subst h; rfl) _ (wordA_fn (by decide)) |>.trans ?_)
  simp (disch := decide) only [wordA_lo, regHi_wordA, regMid_wordA, regLo_wordA, chk, Fin.val_zero, beq_self_eq_true, if_true]

theorem RoundTrip.clz (d a : Reg) : Statement (.clz d a) := by
  refine seq_ok (wordA d a 0 21) (j := .clz d a) rfl rfl rfl (wordA_lt (by decide)) fun _ => ?_
  refine (decode_wordA (by decide)).trans ((show ∀ w, w % 2048 = 21 → decodeA w = chk (w / 2048 % 32 == 0) Cause.illfld (.ok (.clz (regHi w) (regMid w))) from
    fun w h => by delta decodeA; generalize w % 2048 = n at h; subst h; rfl) _ (wordA_fn (by decide)) |>.trans ?_)
  simp (disch := decide) only [wordA_lo, regHi_wordA, regMid_wordA, regLo_wordA, chk, Fin.val_zero, beq_self_eq_true, if_true]

theorem RoundTrip.ctz (d a : Reg) : Statement (.ctz d a) := by
  refine seq_ok (wordA d a 0 22) (j := .ctz d a) rfl rfl rfl (wordA_lt (by decide)) fun _ => ?_
  refine (decode_wordA (by decide)).trans ((show ∀ w, w % 2048 = 22 → decodeA w = chk (w / 2048 % 32 == 0) Cause.illfld (.ok (.ctz (regHi w) (regMid w))) from
    fun w h => by delta decodeA; generalize w % 2048 = n at h; subst h; rfl) _ (wordA_fn (by decide)) |>.trans ?_)
  simp (disch := decide) only [wordA_lo, regHi_wordA, regMid_wordA, regLo_wordA, chk, Fin.val_zero, beq_self_eq_true, if_true]

theorem RoundTrip.cnt (d a : Reg) : Statement (.cnt d a) := by
  refine seq_ok (wordA d a 0 23) (j := .cnt d a) rfl rfl rfl (wordA_lt (by decide)) fun _ => ?_
  refine (decode_wordA (by decide)).trans ((show ∀ w, w % 2048 = 23 → decodeA w = chk (w / 2048 % 32 == 0) Cause.illfld (.ok (.cnt (regHi w) (regMid w))) from
    fun w h => by delta decodeA; generalize w % 2048 = n at h; subst h; rfl) _ (wordA_fn (by decide)) |>.trans ?_)
  simp (disch := decide) only [wordA_lo, regHi_wordA, regMid_wordA, regLo_wordA, chk, Fin.val_zero, beq_self_eq_true, if_true]

theorem RoundTrip.sext (d a b : Reg) : Statement (.sext d a b) := by
  refine seq_ok (wordA d a b 24) (j := .sext d a b) rfl rfl rfl (wordA_lt (by decide)) fun _ => ?_
  refine (decode_wordA (by decide)).trans ((show ∀ w, w % 2048 = 24 → decodeA w = .ok (.sext (regHi w) (regMid w) (regLo w)) from
    fun w h => by delta decodeA; generalize w % 2048 = n at h; subst h; rfl) _ (wordA_fn (by decide)) |>.trans ?_)
  simp (disch := decide) only [wordA_lo, regHi_wordA, regMid_wordA, regLo_wordA, chk, Fin.val_zero, beq_self_eq_true, if_true]

theorem RoundTrip.zext (d a b : Reg) : Statement (.zext d a b) := by
  refine seq_ok (wordA d a b 25) (j := .zext d a b) rfl rfl rfl (wordA_lt (by decide)) fun _ => ?_
  refine (decode_wordA (by decide)).trans ((show ∀ w, w % 2048 = 25 → decodeA w = .ok (.zext (regHi w) (regMid w) (regLo w)) from
    fun w h => by delta decodeA; generalize w % 2048 = n at h; subst h; rfl) _ (wordA_fn (by decide)) |>.trans ?_)
  simp (disch := decide) only [wordA_lo, regHi_wordA, regMid_wordA, regLo_wordA, chk, Fin.val_zero, beq_self_eq_true, if_true]

theorem RoundTrip.seq (d a b : Reg) : Statement (.seq d a b) := by
  refine seq_ok (wordA d a b 26) (j := .seq d a b) rfl rfl rfl (wordA_lt (by decide)) fun _ => ?_
  refine (decode_wordA (by decide)).trans ((show ∀ w, w % 2048 = 26 → decodeA w = .ok (.seq (regHi w) (regMid w) (regLo w)) from
    fun w h => by delta decodeA; generalize w % 2048 = n at h; subst h; rfl) _ (wordA_fn (by decide)) |>.trans ?_)
  simp (disch := decide) only [wordA_lo, regHi_wordA, regMid_wordA, regLo_wordA, chk, Fin.val_zero, beq_self_eq_true, if_true]

theorem RoundTrip.slt (d a b : Reg) : Statement (.slt d a b) := by
  refine seq_ok (wordA d a b 27) (j := .slt d a b) rfl rfl rfl (wordA_lt (by decide)) fun _ => ?_
  refine (decode_wordA (by decide)).trans ((show ∀ w, w % 2048 = 27 → decodeA w = .ok (.slt (regHi w) (regMid w) (regLo w)) from
    fun w h => by delta decodeA; generalize w % 2048 = n at h; subst h; rfl) _ (wordA_fn (by decide)) |>.trans ?_)
  simp (disch := decide) only [wordA_lo, regHi_wordA, regMid_wordA, regLo_wordA, chk, Fin.val_zero, beq_self_eq_true, if_true]

theorem RoundTrip.sltu (d a b : Reg) : Statement (.sltu d a b) := by
  refine seq_ok (wordA d a b 28) (j := .sltu d a b) rfl rfl rfl (wordA_lt (by decide)) fun _ => ?_
  refine (decode_wordA (by decide)).trans ((show ∀ w, w % 2048 = 28 → decodeA w = .ok (.sltu (regHi w) (regMid w) (regLo w)) from
    fun w h => by delta decodeA; generalize w % 2048 = n at h; subst h; rfl) _ (wordA_fn (by decide)) |>.trans ?_)
  simp (disch := decide) only [wordA_lo, regHi_wordA, regMid_wordA, regLo_wordA, chk, Fin.val_zero, beq_self_eq_true, if_true]

theorem RoundTrip.sel (d a b : Reg) : Statement (.sel d a b) := by
  refine seq_ok (wordA d a b 29) (j := .sel d a b) rfl rfl rfl (wordA_lt (by decide)) fun _ => ?_
  refine (decode_wordA (by decide)).trans ((show ∀ w, w % 2048 = 29 → decodeA w = .ok (.sel (regHi w) (regMid w) (regLo w)) from
    fun w h => by delta decodeA; generalize w % 2048 = n at h; subst h; rfl) _ (wordA_fn (by decide)) |>.trans ?_)
  simp (disch := decide) only [wordA_lo, regHi_wordA, regMid_wordA, regLo_wordA, chk, Fin.val_zero, beq_self_eq_true, if_true]

theorem RoundTrip.cmov (d a b : Reg) : Statement (.cmov d a b) := by
  refine seq_ok (wordA d a b 30) (j := .cmov d a b) rfl rfl rfl (wordA_lt (by decide)) fun _ => ?_
  refine (decode_wordA (by decide)).trans ((show ∀ w, w % 2048 = 30 → decodeA w = .ok (.cmov (regHi w) (regMid w) (regLo w)) from
    fun w h => by delta decodeA; generalize w % 2048 = n at h; subst h; rfl) _ (wordA_fn (by decide)) |>.trans ?_)
  simp (disch := decide) only [wordA_lo, regHi_wordA, regMid_wordA, regLo_wordA, chk, Fin.val_zero, beq_self_eq_true, if_true]

theorem RoundTrip.addi (d a : Reg) (i : BitVec 16) : Statement (.addi d a i) := by
  refine seq_ok (wordI 0x01 d a i.toNat) (j := .addi d a i) rfl rfl rfl (wordI_lt (by decide) (by omega)) fun _ => ?_
  refine ((show ∀ w, w / 67108864 % 64 = 1 → decodeSeqNat w = .ok (.addi (regHi w) (regMid w) (immI w)) from
    fun w h => by delta decodeSeqNat; generalize w / 67108864 % 64 = n at h; subst h; rfl) _ (wordI_major (by decide) (by omega))).trans ?_
  simp (disch := omega) only [wordI_mid, wordI_high10, regHi_wordI, regMid_wordI, immI_wordI, imm6_wordI, six_div, six_ofNat,
    sixteen_ofNat, chk, Fin.val_zero, beq_self_eq_true, if_true]

theorem RoundTrip.andi (d a : Reg) (i : BitVec 16) : Statement (.andi d a i) := by
  refine seq_ok (wordI 0x02 d a i.toNat) (j := .andi d a i) rfl rfl rfl (wordI_lt (by decide) (by omega)) fun _ => ?_
  refine ((show ∀ w, w / 67108864 % 64 = 2 → decodeSeqNat w = .ok (.andi (regHi w) (regMid w) (immI w)) from
    fun w h => by delta decodeSeqNat; generalize w / 67108864 % 64 = n at h; subst h; rfl) _ (wordI_major (by decide) (by omega))).trans ?_
  simp (disch := omega) only [wordI_mid, wordI_high10, regHi_wordI, regMid_wordI, immI_wordI, imm6_wordI, six_div, six_ofNat,
    sixteen_ofNat, chk, Fin.val_zero, beq_self_eq_true, if_true]

theorem RoundTrip.ori (d a : Reg) (i : BitVec 16) : Statement (.ori d a i) := by
  refine seq_ok (wordI 0x03 d a i.toNat) (j := .ori d a i) rfl rfl rfl (wordI_lt (by decide) (by omega)) fun _ => ?_
  refine ((show ∀ w, w / 67108864 % 64 = 3 → decodeSeqNat w = .ok (.ori (regHi w) (regMid w) (immI w)) from
    fun w h => by delta decodeSeqNat; generalize w / 67108864 % 64 = n at h; subst h; rfl) _ (wordI_major (by decide) (by omega))).trans ?_
  simp (disch := omega) only [wordI_mid, wordI_high10, regHi_wordI, regMid_wordI, immI_wordI, imm6_wordI, six_div, six_ofNat,
    sixteen_ofNat, chk, Fin.val_zero, beq_self_eq_true, if_true]

theorem RoundTrip.xori (d a : Reg) (i : BitVec 16) : Statement (.xori d a i) := by
  refine seq_ok (wordI 0x04 d a i.toNat) (j := .xori d a i) rfl rfl rfl (wordI_lt (by decide) (by omega)) fun _ => ?_
  refine ((show ∀ w, w / 67108864 % 64 = 4 → decodeSeqNat w = .ok (.xori (regHi w) (regMid w) (immI w)) from
    fun w h => by delta decodeSeqNat; generalize w / 67108864 % 64 = n at h; subst h; rfl) _ (wordI_major (by decide) (by omega))).trans ?_
  simp (disch := omega) only [wordI_mid, wordI_high10, regHi_wordI, regMid_wordI, immI_wordI, imm6_wordI, six_div, six_ofNat,
    sixteen_ofNat, chk, Fin.val_zero, beq_self_eq_true, if_true]

theorem RoundTrip.shli (d a : Reg) (i : BitVec 6) : Statement (.shli d a i) := by
  refine seq_ok (wordI 0x05 d a i.toNat) (j := .shli d a i) rfl rfl rfl (wordI_lt (by decide) (by omega)) fun _ => ?_
  refine ((show ∀ w, w / 67108864 % 64 = 5 → decodeSeqNat w = chk (w / 64 % 1024 == 0) Cause.illfld (.ok (.shli (regHi w) (regMid w) (imm6 w))) from
    fun w h => by delta decodeSeqNat; generalize w / 67108864 % 64 = n at h; subst h; rfl) _ (wordI_major (by decide) (by omega))).trans ?_
  simp (disch := omega) only [wordI_mid, wordI_high10, regHi_wordI, regMid_wordI, immI_wordI, imm6_wordI, six_div, six_ofNat,
    sixteen_ofNat, chk, Fin.val_zero, beq_self_eq_true, if_true]

theorem RoundTrip.shri (d a : Reg) (i : BitVec 6) : Statement (.shri d a i) := by
  refine seq_ok (wordI 0x06 d a i.toNat) (j := .shri d a i) rfl rfl rfl (wordI_lt (by decide) (by omega)) fun _ => ?_
  refine ((show ∀ w, w / 67108864 % 64 = 6 → decodeSeqNat w = chk (w / 64 % 1024 == 0) Cause.illfld (.ok (.shri (regHi w) (regMid w) (imm6 w))) from
    fun w h => by delta decodeSeqNat; generalize w / 67108864 % 64 = n at h; subst h; rfl) _ (wordI_major (by decide) (by omega))).trans ?_
  simp (disch := omega) only [wordI_mid, wordI_high10, regHi_wordI, regMid_wordI, immI_wordI, imm6_wordI, six_div, six_ofNat,
    sixteen_ofNat, chk, Fin.val_zero, beq_self_eq_true, if_true]

theorem RoundTrip.sari (d a : Reg) (i : BitVec 6) : Statement (.sari d a i) := by
  refine seq_ok (wordI 0x07 d a i.toNat) (j := .sari d a i) rfl rfl rfl (wordI_lt (by decide) (by omega)) fun _ => ?_
  refine ((show ∀ w, w / 67108864 % 64 = 7 → decodeSeqNat w = chk (w / 64 % 1024 == 0) Cause.illfld (.ok (.sari (regHi w) (regMid w) (imm6 w))) from
    fun w h => by delta decodeSeqNat; generalize w / 67108864 % 64 = n at h; subst h; rfl) _ (wordI_major (by decide) (by omega))).trans ?_
  simp (disch := omega) only [wordI_mid, wordI_high10, regHi_wordI, regMid_wordI, immI_wordI, imm6_wordI, six_div, six_ofNat,
    sixteen_ofNat, chk, Fin.val_zero, beq_self_eq_true, if_true]

theorem RoundTrip.ldi (d : Reg) (i : BitVec 16) : Statement (.ldi d i) := by
  refine seq_ok (wordI 0x08 d 0 i.toNat) (j := .ldi d i) rfl rfl rfl (wordI_lt (by decide) (by omega)) fun _ => ?_
  refine ((show ∀ w, w / 67108864 % 64 = 8 → decodeSeqNat w = chk (w / 65536 % 32 == 0) Cause.illfld (.ok (.ldi (regHi w) (immI w))) from
    fun w h => by delta decodeSeqNat; generalize w / 67108864 % 64 = n at h; subst h; rfl) _ (wordI_major (by decide) (by omega))).trans ?_
  simp (disch := omega) only [wordI_mid, wordI_high10, regHi_wordI, regMid_wordI, immI_wordI, imm6_wordI, six_div, six_ofNat,
    sixteen_ofNat, chk, Fin.val_zero, beq_self_eq_true, if_true]

theorem RoundTrip.ldsh (d a : Reg) (i : BitVec 16) : Statement (.ldsh d a i) := by
  refine seq_ok (wordI 0x09 d a i.toNat) (j := .ldsh d a i) rfl rfl rfl (wordI_lt (by decide) (by omega)) fun _ => ?_
  refine ((show ∀ w, w / 67108864 % 64 = 9 → decodeSeqNat w = .ok (.ldsh (regHi w) (regMid w) (immI w)) from
    fun w h => by delta decodeSeqNat; generalize w / 67108864 % 64 = n at h; subst h; rfl) _ (wordI_major (by decide) (by omega))).trans ?_
  simp (disch := omega) only [wordI_mid, wordI_high10, regHi_wordI, regMid_wordI, immI_wordI, imm6_wordI, six_div, six_ofNat,
    sixteen_ofNat, chk, Fin.val_zero, beq_self_eq_true, if_true]

theorem RoundTrip.slti (d a : Reg) (i : BitVec 16) : Statement (.slti d a i) := by
  refine seq_ok (wordI 0x0A d a i.toNat) (j := .slti d a i) rfl rfl rfl (wordI_lt (by decide) (by omega)) fun _ => ?_
  refine ((show ∀ w, w / 67108864 % 64 = 10 → decodeSeqNat w = .ok (.slti (regHi w) (regMid w) (immI w)) from
    fun w h => by delta decodeSeqNat; generalize w / 67108864 % 64 = n at h; subst h; rfl) _ (wordI_major (by decide) (by omega))).trans ?_
  simp (disch := omega) only [wordI_mid, wordI_high10, regHi_wordI, regMid_wordI, immI_wordI, imm6_wordI, six_div, six_ofNat,
    sixteen_ofNat, chk, Fin.val_zero, beq_self_eq_true, if_true]

theorem RoundTrip.sltui (d a : Reg) (i : BitVec 16) : Statement (.sltui d a i) := by
  refine seq_ok (wordI 0x0B d a i.toNat) (j := .sltui d a i) rfl rfl rfl (wordI_lt (by decide) (by omega)) fun _ => ?_
  refine ((show ∀ w, w / 67108864 % 64 = 11 → decodeSeqNat w = .ok (.sltui (regHi w) (regMid w) (immI w)) from
    fun w h => by delta decodeSeqNat; generalize w / 67108864 % 64 = n at h; subst h; rfl) _ (wordI_major (by decide) (by omega))).trans ?_
  simp (disch := omega) only [wordI_mid, wordI_high10, regHi_wordI, regMid_wordI, immI_wordI, imm6_wordI, six_div, six_ofNat,
    sixteen_ofNat, chk, Fin.val_zero, beq_self_eq_true, if_true]

theorem RoundTrip.muli (d a : Reg) (i : BitVec 16) : Statement (.muli d a i) := by
  refine seq_ok (wordI 0x0C d a i.toNat) (j := .muli d a i) rfl rfl rfl (wordI_lt (by decide) (by omega)) fun _ => ?_
  refine ((show ∀ w, w / 67108864 % 64 = 12 → decodeSeqNat w = .ok (.muli (regHi w) (regMid w) (immI w)) from
    fun w h => by delta decodeSeqNat; generalize w / 67108864 % 64 = n at h; subst h; rfl) _ (wordI_major (by decide) (by omega))).trans ?_
  simp (disch := omega) only [wordI_mid, wordI_high10, regHi_wordI, regMid_wordI, immI_wordI, imm6_wordI, six_div, six_ofNat,
    sixteen_ofNat, chk, Fin.val_zero, beq_self_eq_true, if_true]

theorem RoundTrip.beq (a b : Reg) (o : BitVec 16) : Statement (.beq a b o) := by
  refine seq_ok (wordI 0x10 a b o.toNat) (j := .beq a b o) rfl rfl rfl (wordI_lt (by decide) (by omega)) fun _ => ?_
  refine ((show ∀ w, w / 67108864 % 64 = 16 → decodeSeqNat w = .ok (.beq (regHi w) (regMid w) (immI w)) from
    fun w h => by delta decodeSeqNat; generalize w / 67108864 % 64 = n at h; subst h; rfl) _ (wordI_major (by decide) (by omega))).trans ?_
  simp (disch := omega) only [wordI_mid, wordI_high10, regHi_wordI, regMid_wordI, immI_wordI, imm6_wordI, six_div, six_ofNat,
    sixteen_ofNat, chk, Fin.val_zero, beq_self_eq_true, if_true]

theorem RoundTrip.bne (a b : Reg) (o : BitVec 16) : Statement (.bne a b o) := by
  refine seq_ok (wordI 0x11 a b o.toNat) (j := .bne a b o) rfl rfl rfl (wordI_lt (by decide) (by omega)) fun _ => ?_
  refine ((show ∀ w, w / 67108864 % 64 = 17 → decodeSeqNat w = .ok (.bne (regHi w) (regMid w) (immI w)) from
    fun w h => by delta decodeSeqNat; generalize w / 67108864 % 64 = n at h; subst h; rfl) _ (wordI_major (by decide) (by omega))).trans ?_
  simp (disch := omega) only [wordI_mid, wordI_high10, regHi_wordI, regMid_wordI, immI_wordI, imm6_wordI, six_div, six_ofNat,
    sixteen_ofNat, chk, Fin.val_zero, beq_self_eq_true, if_true]

theorem RoundTrip.blt (a b : Reg) (o : BitVec 16) : Statement (.blt a b o) := by
  refine seq_ok (wordI 0x12 a b o.toNat) (j := .blt a b o) rfl rfl rfl (wordI_lt (by decide) (by omega)) fun _ => ?_
  refine ((show ∀ w, w / 67108864 % 64 = 18 → decodeSeqNat w = .ok (.blt (regHi w) (regMid w) (immI w)) from
    fun w h => by delta decodeSeqNat; generalize w / 67108864 % 64 = n at h; subst h; rfl) _ (wordI_major (by decide) (by omega))).trans ?_
  simp (disch := omega) only [wordI_mid, wordI_high10, regHi_wordI, regMid_wordI, immI_wordI, imm6_wordI, six_div, six_ofNat,
    sixteen_ofNat, chk, Fin.val_zero, beq_self_eq_true, if_true]

theorem RoundTrip.bge (a b : Reg) (o : BitVec 16) : Statement (.bge a b o) := by
  refine seq_ok (wordI 0x13 a b o.toNat) (j := .bge a b o) rfl rfl rfl (wordI_lt (by decide) (by omega)) fun _ => ?_
  refine ((show ∀ w, w / 67108864 % 64 = 19 → decodeSeqNat w = .ok (.bge (regHi w) (regMid w) (immI w)) from
    fun w h => by delta decodeSeqNat; generalize w / 67108864 % 64 = n at h; subst h; rfl) _ (wordI_major (by decide) (by omega))).trans ?_
  simp (disch := omega) only [wordI_mid, wordI_high10, regHi_wordI, regMid_wordI, immI_wordI, imm6_wordI, six_div, six_ofNat,
    sixteen_ofNat, chk, Fin.val_zero, beq_self_eq_true, if_true]

theorem RoundTrip.bltu (a b : Reg) (o : BitVec 16) : Statement (.bltu a b o) := by
  refine seq_ok (wordI 0x14 a b o.toNat) (j := .bltu a b o) rfl rfl rfl (wordI_lt (by decide) (by omega)) fun _ => ?_
  refine ((show ∀ w, w / 67108864 % 64 = 20 → decodeSeqNat w = .ok (.bltu (regHi w) (regMid w) (immI w)) from
    fun w h => by delta decodeSeqNat; generalize w / 67108864 % 64 = n at h; subst h; rfl) _ (wordI_major (by decide) (by omega))).trans ?_
  simp (disch := omega) only [wordI_mid, wordI_high10, regHi_wordI, regMid_wordI, immI_wordI, imm6_wordI, six_div, six_ofNat,
    sixteen_ofNat, chk, Fin.val_zero, beq_self_eq_true, if_true]

theorem RoundTrip.bgeu (a b : Reg) (o : BitVec 16) : Statement (.bgeu a b o) := by
  refine seq_ok (wordI 0x15 a b o.toNat) (j := .bgeu a b o) rfl rfl rfl (wordI_lt (by decide) (by omega)) fun _ => ?_
  refine ((show ∀ w, w / 67108864 % 64 = 21 → decodeSeqNat w = .ok (.bgeu (regHi w) (regMid w) (immI w)) from
    fun w h => by delta decodeSeqNat; generalize w / 67108864 % 64 = n at h; subst h; rfl) _ (wordI_major (by decide) (by omega))).trans ?_
  simp (disch := omega) only [wordI_mid, wordI_high10, regHi_wordI, regMid_wordI, immI_wordI, imm6_wordI, six_div, six_ofNat,
    sixteen_ofNat, chk, Fin.val_zero, beq_self_eq_true, if_true]

theorem RoundTrip.jmp (o : BitVec 26) : Statement (.jmp o) := by
  refine seq_ok (0x16 * 67108864 + o.toNat) (j := .jmp o) rfl rfl rfl (by omega) fun _ => ?_
  exact decode_wordJ o ((show ∀ w, w / 67108864 % 64 = 22 → decodeSeqNat w = .ok (.jmp (immJ w)) from
    fun w h => by delta decodeSeqNat; generalize w / 67108864 % 64 = n at h; subst h; rfl) _ (major_wordJ _ o (by decide)))

theorem RoundTrip.jal (o : BitVec 26) : Statement (.jal o) := by
  refine seq_ok (0x17 * 67108864 + o.toNat) (j := .jal o) rfl rfl rfl (by omega) fun _ => ?_
  exact decode_wordJ o ((show ∀ w, w / 67108864 % 64 = 23 → decodeSeqNat w = .ok (.jal (immJ w)) from
    fun w h => by delta decodeSeqNat; generalize w / 67108864 % 64 = n at h; subst h; rfl) _ (major_wordJ _ o (by decide)))

theorem RoundTrip.jr (a : Reg) (o : BitVec 16) : Statement (.jr a o) := by
  refine seq_ok (wordI 0x18 a 0 o.toNat) (j := .jr a o) rfl rfl rfl (wordI_lt (by decide) (by omega)) fun _ => ?_
  refine ((show ∀ w, w / 67108864 % 64 = 24 → decodeSeqNat w = chk (w / 65536 % 32 == 0) Cause.illfld (.ok (.jr (regHi w) (immI w))) from
    fun w h => by delta decodeSeqNat; generalize w / 67108864 % 64 = n at h; subst h; rfl) _ (wordI_major (by decide) (by omega))).trans ?_
  simp (disch := omega) only [wordI_mid, wordI_high10, regHi_wordI, regMid_wordI, immI_wordI, imm6_wordI, six_div, six_ofNat,
    sixteen_ofNat, chk, Fin.val_zero, beq_self_eq_true, if_true]

theorem RoundTrip.ld (d a : Reg) (s : MSize) (o : BitVec 13) : Statement (.ld d a s o) := by
  refine seq_ok (wordI 0x20 d a (msizeCode s * 8192 + o.toNat)) (j := .ld d a s o) rfl rfl rfl (wordI_lt (by decide) (size_lt s)) fun _ => ?_
  exact decode_wordM _ ((show ∀ w, w / 67108864 % 64 = 32 → decodeSeqNat w = decodeM .ld w from
    fun w h => by delta decodeSeqNat; generalize w / 67108864 % 64 = n at h; subst h; rfl) _ (wordI_major (by decide) (size_lt s)))

theorem RoundTrip.st (d a : Reg) (s : MSize) (o : BitVec 13) : Statement (.st d a s o) := by
  refine seq_ok (wordI 0x21 d a (msizeCode s * 8192 + o.toNat)) (j := .st d a s o) rfl rfl rfl (wordI_lt (by decide) (size_lt s)) fun _ => ?_
  exact decode_wordM _ ((show ∀ w, w / 67108864 % 64 = 33 → decodeSeqNat w = decodeM .st w from
    fun w h => by delta decodeSeqNat; generalize w / 67108864 % 64 = n at h; subst h; rfl) _ (wordI_major (by decide) (size_lt s)))

theorem RoundTrip.ldAcq (d a : Reg) (s : MSize) (o : BitVec 13) : Statement (.ldAcq d a s o) := by
  refine seq_ok (wordI 0x22 d a (msizeCode s * 8192 + o.toNat)) (j := .ldAcq d a s o) rfl rfl rfl (wordI_lt (by decide) (size_lt s)) fun _ => ?_
  exact decode_wordM _ ((show ∀ w, w / 67108864 % 64 = 34 → decodeSeqNat w = decodeM .ldAcq w from
    fun w h => by delta decodeSeqNat; generalize w / 67108864 % 64 = n at h; subst h; rfl) _ (wordI_major (by decide) (size_lt s)))

theorem RoundTrip.stRel (d a : Reg) (s : MSize) (o : BitVec 13) : Statement (.stRel d a s o) := by
  refine seq_ok (wordI 0x23 d a (msizeCode s * 8192 + o.toNat)) (j := .stRel d a s o) rfl rfl rfl (wordI_lt (by decide) (size_lt s)) fun _ => ?_
  exact decode_wordM _ ((show ∀ w, w / 67108864 % 64 = 35 → decodeSeqNat w = decodeM .stRel w from
    fun w h => by delta decodeSeqNat; generalize w / 67108864 % 64 = n at h; subst h; rfl) _ (wordI_major (by decide) (size_lt s)))

theorem RoundTrip.ldInv (d a : Reg) (s : MSize) (o : BitVec 13) : Statement (.ldInv d a s o) := by
  refine seq_ok (wordI 0x24 d a (msizeCode s * 8192 + o.toNat)) (j := .ldInv d a s o) rfl rfl rfl (wordI_lt (by decide) (size_lt s)) fun _ => ?_
  exact decode_wordM _ ((show ∀ w, w / 67108864 % 64 = 36 → decodeSeqNat w = decodeM .ldInv w from
    fun w h => by delta decodeSeqNat; generalize w / 67108864 % 64 = n at h; subst h; rfl) _ (wordI_major (by decide) (size_lt s)))

theorem RoundTrip.atomAdd (a b d : Reg) (s : ASize) : Statement (.atomAdd a b d s) := by
  refine seq_ok (wordX 0x25 a b 0 (d.val * 64 + asizeCode s * 16)) (j := .atomAdd a b d s) rfl rfl rfl (wordX_lt (by decide) (by decide) (by have := asize_lt s; omega)) fun hwf => ?_
  refine ((show ∀ w, w / 67108864 % 64 = 37 → decodeSeqNat w = decodeAtom w from
    fun w h => by delta decodeSeqNat; generalize w / 67108864 % 64 = n at h; subst h; rfl) _ (wordX_major (by decide) (by decide) (by have := asize_lt s; omega))).trans ?_
  refine ((show ∀ w, w / 2048 % 32 = 0 → decodeAtom w = decodeAtomInt .atomAdd w from
    fun w h => by delta decodeAtom; generalize w / 2048 % 32 = n at h; subst h; rfl) _ (wordX_fn (by decide) (by have := asize_lt s; omega))).trans ?_
  exact atomInt_ok hwf

theorem RoundTrip.atomAnd (a b d : Reg) (s : ASize) : Statement (.atomAnd a b d s) := by
  refine seq_ok (wordX 0x25 a b 1 (d.val * 64 + asizeCode s * 16)) (j := .atomAnd a b d s) rfl rfl rfl (wordX_lt (by decide) (by decide) (by have := asize_lt s; omega)) fun hwf => ?_
  refine ((show ∀ w, w / 67108864 % 64 = 37 → decodeSeqNat w = decodeAtom w from
    fun w h => by delta decodeSeqNat; generalize w / 67108864 % 64 = n at h; subst h; rfl) _ (wordX_major (by decide) (by decide) (by have := asize_lt s; omega))).trans ?_
  refine ((show ∀ w, w / 2048 % 32 = 1 → decodeAtom w = decodeAtomInt .atomAnd w from
    fun w h => by delta decodeAtom; generalize w / 2048 % 32 = n at h; subst h; rfl) _ (wordX_fn (by decide) (by have := asize_lt s; omega))).trans ?_
  exact atomInt_ok hwf

theorem RoundTrip.atomOr (a b d : Reg) (s : ASize) : Statement (.atomOr a b d s) := by
  refine seq_ok (wordX 0x25 a b 2 (d.val * 64 + asizeCode s * 16)) (j := .atomOr a b d s) rfl rfl rfl (wordX_lt (by decide) (by decide) (by have := asize_lt s; omega)) fun hwf => ?_
  refine ((show ∀ w, w / 67108864 % 64 = 37 → decodeSeqNat w = decodeAtom w from
    fun w h => by delta decodeSeqNat; generalize w / 67108864 % 64 = n at h; subst h; rfl) _ (wordX_major (by decide) (by decide) (by have := asize_lt s; omega))).trans ?_
  refine ((show ∀ w, w / 2048 % 32 = 2 → decodeAtom w = decodeAtomInt .atomOr w from
    fun w h => by delta decodeAtom; generalize w / 2048 % 32 = n at h; subst h; rfl) _ (wordX_fn (by decide) (by have := asize_lt s; omega))).trans ?_
  exact atomInt_ok hwf

theorem RoundTrip.atomXor (a b d : Reg) (s : ASize) : Statement (.atomXor a b d s) := by
  refine seq_ok (wordX 0x25 a b 3 (d.val * 64 + asizeCode s * 16)) (j := .atomXor a b d s) rfl rfl rfl (wordX_lt (by decide) (by decide) (by have := asize_lt s; omega)) fun hwf => ?_
  refine ((show ∀ w, w / 67108864 % 64 = 37 → decodeSeqNat w = decodeAtom w from
    fun w h => by delta decodeSeqNat; generalize w / 67108864 % 64 = n at h; subst h; rfl) _ (wordX_major (by decide) (by decide) (by have := asize_lt s; omega))).trans ?_
  refine ((show ∀ w, w / 2048 % 32 = 3 → decodeAtom w = decodeAtomInt .atomXor w from
    fun w h => by delta decodeAtom; generalize w / 2048 % 32 = n at h; subst h; rfl) _ (wordX_fn (by decide) (by have := asize_lt s; omega))).trans ?_
  exact atomInt_ok hwf

theorem RoundTrip.atomMin (a b d : Reg) (s : ASize) : Statement (.atomMin a b d s) := by
  refine seq_ok (wordX 0x25 a b 4 (d.val * 64 + asizeCode s * 16)) (j := .atomMin a b d s) rfl rfl rfl (wordX_lt (by decide) (by decide) (by have := asize_lt s; omega)) fun hwf => ?_
  refine ((show ∀ w, w / 67108864 % 64 = 37 → decodeSeqNat w = decodeAtom w from
    fun w h => by delta decodeSeqNat; generalize w / 67108864 % 64 = n at h; subst h; rfl) _ (wordX_major (by decide) (by decide) (by have := asize_lt s; omega))).trans ?_
  refine ((show ∀ w, w / 2048 % 32 = 4 → decodeAtom w = decodeAtomInt .atomMin w from
    fun w h => by delta decodeAtom; generalize w / 2048 % 32 = n at h; subst h; rfl) _ (wordX_fn (by decide) (by have := asize_lt s; omega))).trans ?_
  exact atomInt_ok hwf

theorem RoundTrip.atomMax (a b d : Reg) (s : ASize) : Statement (.atomMax a b d s) := by
  refine seq_ok (wordX 0x25 a b 5 (d.val * 64 + asizeCode s * 16)) (j := .atomMax a b d s) rfl rfl rfl (wordX_lt (by decide) (by decide) (by have := asize_lt s; omega)) fun hwf => ?_
  refine ((show ∀ w, w / 67108864 % 64 = 37 → decodeSeqNat w = decodeAtom w from
    fun w h => by delta decodeSeqNat; generalize w / 67108864 % 64 = n at h; subst h; rfl) _ (wordX_major (by decide) (by decide) (by have := asize_lt s; omega))).trans ?_
  refine ((show ∀ w, w / 2048 % 32 = 5 → decodeAtom w = decodeAtomInt .atomMax w from
    fun w h => by delta decodeAtom; generalize w / 2048 % 32 = n at h; subst h; rfl) _ (wordX_fn (by decide) (by have := asize_lt s; omega))).trans ?_
  exact atomInt_ok hwf

theorem RoundTrip.atomMinu (a b d : Reg) (s : ASize) : Statement (.atomMinu a b d s) := by
  refine seq_ok (wordX 0x25 a b 6 (d.val * 64 + asizeCode s * 16)) (j := .atomMinu a b d s) rfl rfl rfl (wordX_lt (by decide) (by decide) (by have := asize_lt s; omega)) fun hwf => ?_
  refine ((show ∀ w, w / 67108864 % 64 = 37 → decodeSeqNat w = decodeAtom w from
    fun w h => by delta decodeSeqNat; generalize w / 67108864 % 64 = n at h; subst h; rfl) _ (wordX_major (by decide) (by decide) (by have := asize_lt s; omega))).trans ?_
  refine ((show ∀ w, w / 2048 % 32 = 6 → decodeAtom w = decodeAtomInt .atomMinu w from
    fun w h => by delta decodeAtom; generalize w / 2048 % 32 = n at h; subst h; rfl) _ (wordX_fn (by decide) (by have := asize_lt s; omega))).trans ?_
  exact atomInt_ok hwf

theorem RoundTrip.atomMaxu (a b d : Reg) (s : ASize) : Statement (.atomMaxu a b d s) := by
  refine seq_ok (wordX 0x25 a b 7 (d.val * 64 + asizeCode s * 16)) (j := .atomMaxu a b d s) rfl rfl rfl (wordX_lt (by decide) (by decide) (by have := asize_lt s; omega)) fun hwf => ?_
  refine ((show ∀ w, w / 67108864 % 64 = 37 → decodeSeqNat w = decodeAtom w from
    fun w h => by delta decodeSeqNat; generalize w / 67108864 % 64 = n at h; subst h; rfl) _ (wordX_major (by decide) (by decide) (by have := asize_lt s; omega))).trans ?_
  refine ((show ∀ w, w / 2048 % 32 = 7 → decodeAtom w = decodeAtomInt .atomMaxu w from
    fun w h => by delta decodeAtom; generalize w / 2048 % 32 = n at h; subst h; rfl) _ (wordX_fn (by decide) (by have := asize_lt s; omega))).trans ?_
  exact atomInt_ok hwf

theorem RoundTrip.atomSwap (a b d : Reg) (s : ASize) : Statement (.atomSwap a b d s) := by
  refine seq_ok (wordX 0x25 a b 8 (d.val * 64 + asizeCode s * 16)) (j := .atomSwap a b d s) rfl rfl rfl (wordX_lt (by decide) (by decide) (by have := asize_lt s; omega)) fun hwf => ?_
  refine ((show ∀ w, w / 67108864 % 64 = 37 → decodeSeqNat w = decodeAtom w from
    fun w h => by delta decodeSeqNat; generalize w / 67108864 % 64 = n at h; subst h; rfl) _ (wordX_major (by decide) (by decide) (by have := asize_lt s; omega))).trans ?_
  refine ((show ∀ w, w / 2048 % 32 = 8 → decodeAtom w = decodeAtomInt .atomSwap w from
    fun w h => by delta decodeAtom; generalize w / 2048 % 32 = n at h; subst h; rfl) _ (wordX_fn (by decide) (by have := asize_lt s; omega))).trans ?_
  exact atomInt_ok hwf

theorem RoundTrip.atomCas (a b d : Reg) (s : ASize) : Statement (.atomCas a b d s) := by
  refine seq_ok (wordX 0x25 a b 9 (d.val * 64 + asizeCode s * 16)) (j := .atomCas a b d s) rfl rfl rfl (wordX_lt (by decide) (by decide) (by have := asize_lt s; omega)) fun hwf => ?_
  refine ((show ∀ w, w / 67108864 % 64 = 37 → decodeSeqNat w = decodeAtom w from
    fun w h => by delta decodeSeqNat; generalize w / 67108864 % 64 = n at h; subst h; rfl) _ (wordX_major (by decide) (by decide) (by have := asize_lt s; omega))).trans ?_
  refine ((show ∀ w, w / 2048 % 32 = 9 → decodeAtom w = decodeAtomInt .atomCas w from
    fun w h => by delta decodeAtom; generalize w / 2048 % 32 = n at h; subst h; rfl) _ (wordX_fn (by decide) (by have := asize_lt s; omega))).trans ?_
  exact atomInt_ok hwf

theorem RoundTrip.atomFadd32 (a b d : Reg) : Statement (.atomFadd32 a b d) := by
  refine seq_ok (wordX 0x25 a b 10 (d.val * 64)) (j := .atomFadd32 a b d) rfl rfl rfl (wordX_lt (by decide) (by decide) (by omega)) fun hwf => ?_
  refine ((show ∀ w, w / 67108864 % 64 = 37 → decodeSeqNat w = decodeAtom w from
    fun w h => by delta decodeSeqNat; generalize w / 67108864 % 64 = n at h; subst h; rfl) _ (wordX_major (by decide) (by decide) (by omega))).trans ?_
  refine ((show ∀ w, w / 2048 % 32 = 10 → decodeAtom w = decodeAtomFloat .atomFadd32 0 w from
    fun w h => by delta decodeAtom; generalize w / 2048 % 32 = n at h; subst h; rfl) _ (wordX_fn (by decide) (by omega))).trans ?_
  exact atomFloat_ok (by omega) (by omega) (by omega)

theorem RoundTrip.atomFadd16 (a b d : Reg) : Statement (.atomFadd16 a b d) := by
  refine seq_ok (wordX 0x25 a b 11 (d.val * 64 + 32)) (j := .atomFadd16 a b d) rfl rfl rfl (wordX_lt (by decide) (by decide) (by omega)) fun hwf => ?_
  refine ((show ∀ w, w / 67108864 % 64 = 37 → decodeSeqNat w = decodeAtom w from
    fun w h => by delta decodeSeqNat; generalize w / 67108864 % 64 = n at h; subst h; rfl) _ (wordX_major (by decide) (by decide) (by omega))).trans ?_
  refine ((show ∀ w, w / 2048 % 32 = 11 → decodeAtom w = decodeAtomFloat .atomFadd16 2 w from
    fun w h => by delta decodeAtom; generalize w / 2048 % 32 = n at h; subst h; rfl) _ (wordX_fn (by decide) (by omega))).trans ?_
  exact atomFloat_ok (by omega) (by omega) (by omega)

theorem RoundTrip.redAdd (a b : Reg) (s : ASize) : Statement (.redAdd a b s) := by
  refine seq_ok (wordX 0x26 a b 0 (asizeCode s * 16)) (j := .redAdd a b s) rfl rfl rfl (wordX_lt (by decide) (by decide) (by have := asize_lt s; omega)) fun hwf => ?_
  refine ((show ∀ w, w / 67108864 % 64 = 38 → decodeSeqNat w = decodeRed w from
    fun w h => by delta decodeSeqNat; generalize w / 67108864 % 64 = n at h; subst h; rfl) _ (wordX_major (by decide) (by decide) (by have := asize_lt s; omega))).trans ?_
  refine ((show ∀ w, w / 2048 % 32 = 0 → decodeRed w = decodeRedInt .redAdd w from
    fun w h => by delta decodeRed; generalize w / 2048 % 32 = n at h; subst h; rfl) _ (wordX_fn (by decide) (by have := asize_lt s; omega))).trans ?_
  exact redInt_ok hwf

theorem RoundTrip.redAnd (a b : Reg) (s : ASize) : Statement (.redAnd a b s) := by
  refine seq_ok (wordX 0x26 a b 1 (asizeCode s * 16)) (j := .redAnd a b s) rfl rfl rfl (wordX_lt (by decide) (by decide) (by have := asize_lt s; omega)) fun hwf => ?_
  refine ((show ∀ w, w / 67108864 % 64 = 38 → decodeSeqNat w = decodeRed w from
    fun w h => by delta decodeSeqNat; generalize w / 67108864 % 64 = n at h; subst h; rfl) _ (wordX_major (by decide) (by decide) (by have := asize_lt s; omega))).trans ?_
  refine ((show ∀ w, w / 2048 % 32 = 1 → decodeRed w = decodeRedInt .redAnd w from
    fun w h => by delta decodeRed; generalize w / 2048 % 32 = n at h; subst h; rfl) _ (wordX_fn (by decide) (by have := asize_lt s; omega))).trans ?_
  exact redInt_ok hwf

theorem RoundTrip.redOr (a b : Reg) (s : ASize) : Statement (.redOr a b s) := by
  refine seq_ok (wordX 0x26 a b 2 (asizeCode s * 16)) (j := .redOr a b s) rfl rfl rfl (wordX_lt (by decide) (by decide) (by have := asize_lt s; omega)) fun hwf => ?_
  refine ((show ∀ w, w / 67108864 % 64 = 38 → decodeSeqNat w = decodeRed w from
    fun w h => by delta decodeSeqNat; generalize w / 67108864 % 64 = n at h; subst h; rfl) _ (wordX_major (by decide) (by decide) (by have := asize_lt s; omega))).trans ?_
  refine ((show ∀ w, w / 2048 % 32 = 2 → decodeRed w = decodeRedInt .redOr w from
    fun w h => by delta decodeRed; generalize w / 2048 % 32 = n at h; subst h; rfl) _ (wordX_fn (by decide) (by have := asize_lt s; omega))).trans ?_
  exact redInt_ok hwf

theorem RoundTrip.redXor (a b : Reg) (s : ASize) : Statement (.redXor a b s) := by
  refine seq_ok (wordX 0x26 a b 3 (asizeCode s * 16)) (j := .redXor a b s) rfl rfl rfl (wordX_lt (by decide) (by decide) (by have := asize_lt s; omega)) fun hwf => ?_
  refine ((show ∀ w, w / 67108864 % 64 = 38 → decodeSeqNat w = decodeRed w from
    fun w h => by delta decodeSeqNat; generalize w / 67108864 % 64 = n at h; subst h; rfl) _ (wordX_major (by decide) (by decide) (by have := asize_lt s; omega))).trans ?_
  refine ((show ∀ w, w / 2048 % 32 = 3 → decodeRed w = decodeRedInt .redXor w from
    fun w h => by delta decodeRed; generalize w / 2048 % 32 = n at h; subst h; rfl) _ (wordX_fn (by decide) (by have := asize_lt s; omega))).trans ?_
  exact redInt_ok hwf

theorem RoundTrip.redMin (a b : Reg) (s : ASize) : Statement (.redMin a b s) := by
  refine seq_ok (wordX 0x26 a b 4 (asizeCode s * 16)) (j := .redMin a b s) rfl rfl rfl (wordX_lt (by decide) (by decide) (by have := asize_lt s; omega)) fun hwf => ?_
  refine ((show ∀ w, w / 67108864 % 64 = 38 → decodeSeqNat w = decodeRed w from
    fun w h => by delta decodeSeqNat; generalize w / 67108864 % 64 = n at h; subst h; rfl) _ (wordX_major (by decide) (by decide) (by have := asize_lt s; omega))).trans ?_
  refine ((show ∀ w, w / 2048 % 32 = 4 → decodeRed w = decodeRedInt .redMin w from
    fun w h => by delta decodeRed; generalize w / 2048 % 32 = n at h; subst h; rfl) _ (wordX_fn (by decide) (by have := asize_lt s; omega))).trans ?_
  exact redInt_ok hwf

theorem RoundTrip.redMax (a b : Reg) (s : ASize) : Statement (.redMax a b s) := by
  refine seq_ok (wordX 0x26 a b 5 (asizeCode s * 16)) (j := .redMax a b s) rfl rfl rfl (wordX_lt (by decide) (by decide) (by have := asize_lt s; omega)) fun hwf => ?_
  refine ((show ∀ w, w / 67108864 % 64 = 38 → decodeSeqNat w = decodeRed w from
    fun w h => by delta decodeSeqNat; generalize w / 67108864 % 64 = n at h; subst h; rfl) _ (wordX_major (by decide) (by decide) (by have := asize_lt s; omega))).trans ?_
  refine ((show ∀ w, w / 2048 % 32 = 5 → decodeRed w = decodeRedInt .redMax w from
    fun w h => by delta decodeRed; generalize w / 2048 % 32 = n at h; subst h; rfl) _ (wordX_fn (by decide) (by have := asize_lt s; omega))).trans ?_
  exact redInt_ok hwf

theorem RoundTrip.redMinu (a b : Reg) (s : ASize) : Statement (.redMinu a b s) := by
  refine seq_ok (wordX 0x26 a b 6 (asizeCode s * 16)) (j := .redMinu a b s) rfl rfl rfl (wordX_lt (by decide) (by decide) (by have := asize_lt s; omega)) fun hwf => ?_
  refine ((show ∀ w, w / 67108864 % 64 = 38 → decodeSeqNat w = decodeRed w from
    fun w h => by delta decodeSeqNat; generalize w / 67108864 % 64 = n at h; subst h; rfl) _ (wordX_major (by decide) (by decide) (by have := asize_lt s; omega))).trans ?_
  refine ((show ∀ w, w / 2048 % 32 = 6 → decodeRed w = decodeRedInt .redMinu w from
    fun w h => by delta decodeRed; generalize w / 2048 % 32 = n at h; subst h; rfl) _ (wordX_fn (by decide) (by have := asize_lt s; omega))).trans ?_
  exact redInt_ok hwf

theorem RoundTrip.redMaxu (a b : Reg) (s : ASize) : Statement (.redMaxu a b s) := by
  refine seq_ok (wordX 0x26 a b 7 (asizeCode s * 16)) (j := .redMaxu a b s) rfl rfl rfl (wordX_lt (by decide) (by decide) (by have := asize_lt s; omega)) fun hwf => ?_
  refine ((show ∀ w, w / 67108864 % 64 = 38 → decodeSeqNat w = decodeRed w from
    fun w h => by delta decodeSeqNat; generalize w / 67108864 % 64 = n at h; subst h; rfl) _ (wordX_major (by decide) (by decide) (by have := asize_lt s; omega))).trans ?_
  refine ((show ∀ w, w / 2048 % 32 = 7 → decodeRed w = decodeRedInt .redMaxu w from
    fun w h => by delta decodeRed; generalize w / 2048 % 32 = n at h; subst h; rfl) _ (wordX_fn (by decide) (by have := asize_lt s; omega))).trans ?_
  exact redInt_ok hwf

theorem RoundTrip.redFadd32 (a b : Reg) : Statement (.redFadd32 a b) := by
  refine seq_ok (wordX 0x26 a b 8 0) (j := .redFadd32 a b) rfl rfl rfl (wordX_lt (by decide) (by decide) (by decide)) fun hwf => ?_
  refine ((show ∀ w, w / 67108864 % 64 = 38 → decodeSeqNat w = decodeRed w from
    fun w h => by delta decodeSeqNat; generalize w / 67108864 % 64 = n at h; subst h; rfl) _ (wordX_major (by decide) (by decide) (by decide))).trans ?_
  refine ((show ∀ w, w / 2048 % 32 = 8 → decodeRed w = decodeRedFloat .redFadd32 0 w from
    fun w h => by delta decodeRed; generalize w / 2048 % 32 = n at h; subst h; rfl) _ (wordX_fn (by decide) (by decide))).trans ?_
  exact redFloat_ok (by decide) (by decide) (by decide) (by decide)

theorem RoundTrip.redFadd16 (a b : Reg) : Statement (.redFadd16 a b) := by
  refine seq_ok (wordX 0x26 a b 9 32) (j := .redFadd16 a b) rfl rfl rfl (wordX_lt (by decide) (by decide) (by decide)) fun hwf => ?_
  refine ((show ∀ w, w / 67108864 % 64 = 38 → decodeSeqNat w = decodeRed w from
    fun w h => by delta decodeSeqNat; generalize w / 67108864 % 64 = n at h; subst h; rfl) _ (wordX_major (by decide) (by decide) (by decide))).trans ?_
  refine ((show ∀ w, w / 2048 % 32 = 9 → decodeRed w = decodeRedFloat .redFadd16 2 w from
    fun w h => by delta decodeRed; generalize w / 2048 % 32 = n at h; subst h; rfl) _ (wordX_fn (by decide) (by decide))).trans ?_
  exact redFloat_ok (by decide) (by decide) (by decide) (by decide)

theorem RoundTrip.redFmax32 (a b : Reg) : Statement (.redFmax32 a b) := by
  refine seq_ok (wordX 0x26 a b 10 0) (j := .redFmax32 a b) rfl rfl rfl (wordX_lt (by decide) (by decide) (by decide)) fun hwf => ?_
  refine ((show ∀ w, w / 67108864 % 64 = 38 → decodeSeqNat w = decodeRed w from
    fun w h => by delta decodeSeqNat; generalize w / 67108864 % 64 = n at h; subst h; rfl) _ (wordX_major (by decide) (by decide) (by decide))).trans ?_
  refine ((show ∀ w, w / 2048 % 32 = 10 → decodeRed w = decodeRedFloat .redFmax32 0 w from
    fun w h => by delta decodeRed; generalize w / 2048 % 32 = n at h; subst h; rfl) _ (wordX_fn (by decide) (by decide))).trans ?_
  exact redFloat_ok (by decide) (by decide) (by decide) (by decide)

theorem RoundTrip.redFmin32 (a b : Reg) : Statement (.redFmin32 a b) := by
  refine seq_ok (wordX 0x26 a b 11 0) (j := .redFmin32 a b) rfl rfl rfl (wordX_lt (by decide) (by decide) (by decide)) fun hwf => ?_
  refine ((show ∀ w, w / 67108864 % 64 = 38 → decodeSeqNat w = decodeRed w from
    fun w h => by delta decodeSeqNat; generalize w / 67108864 % 64 = n at h; subst h; rfl) _ (wordX_major (by decide) (by decide) (by decide))).trans ?_
  refine ((show ∀ w, w / 2048 % 32 = 11 → decodeRed w = decodeRedFloat .redFmin32 0 w from
    fun w h => by delta decodeRed; generalize w / 2048 % 32 = n at h; subst h; rfl) _ (wordX_fn (by decide) (by decide))).trans ?_
  exact redFloat_ok (by decide) (by decide) (by decide) (by decide)

theorem RoundTrip.fence (s : Scope) : Statement (.fence s) := by
  refine seq_ok (wordX 0x27 0 0 0 (scopeCode s)) (j := .fence s) rfl rfl rfl (wordX_lt (by decide) (by decide) (by have := scope_lt s; omega)) fun hwf => ?_
  refine ((show ∀ w, w / 67108864 % 64 = 39 → decodeSeqNat w = chk (w / 2048 % 32 == 0) Cause.illfn
      (chk (w / 65536 % 1024 == 0 && w / 8 % 256 == 0) Cause.illfld
        (match scopeOf (w % 8) with
        | some s => .ok (.fence s)
        | none => .error Cause.scope)) from
    fun w h => by delta decodeSeqNat; generalize w / 67108864 % 64 = n at h; subst h; rfl) _ (wordX_major (by decide) (by decide) (by have := scope_lt s; omega))).trans ?_
  exact (show ∀ w, w / 2048 % 32 = 0 → w / 65536 % 1024 = 0 → w / 8 % 256 = 0 → w % 8 = scopeCode s → chk (w / 2048 % 32 == 0) Cause.illfn
      (chk (w / 65536 % 1024 == 0 && w / 8 % 256 == 0) Cause.illfld
        (match scopeOf (w % 8) with
        | some s => .ok (.fence s)
        | none => .error Cause.scope)) = .ok (.fence s) from
    fun w h0 h1 h2 h3 => by
      generalize w / 2048 % 32 = x0 at h0
      generalize w / 65536 % 1024 = x1 at h1
      generalize w / 8 % 256 = x2 at h2
      generalize w % 8 = x3 at h3
      subst h0; subst h1; subst h2; subst h3; cases s <;> rfl) _ (wordX_fn (by decide) (by have := scope_lt s; omega)) (wordX_zero (by have := scope_lt s; omega)) (scope_pad s)
    (wordX_three.trans (scope_three s))

theorem RoundTrip.sbar (a : Reg) : Statement (.sbar a) := by
  refine seq_ok (wordX 0x28 a 0 0 0) (j := .sbar a) rfl rfl rfl (wordX_lt (by decide) (by decide) (by decide)) fun hwf => ?_
  refine ((show ∀ w, w / 67108864 % 64 = 40 → decodeSeqNat w = chk (w / 2048 % 32 == 0) Cause.illfn
      (chk (w / 65536 % 32 == 0 && w % 2048 == 0) Cause.illfld (.ok (.sbar (regHi w)))) from
    fun w h => by delta decodeSeqNat; generalize w / 67108864 % 64 = n at h; subst h; rfl) _ (wordX_major (by decide) (by decide) (by decide))).trans ?_
  exact sbar_step (wordX_fn (by decide) (by decide)) (wordX_mid (by decide) (by decide)) wordX_low (regHi_wordX (by decide) (by decide))

theorem RoundTrip.spawn (a : Reg) : Statement (.spawn a) := by
  refine seq_ok (wordX 0x30 a 0 0 0) (j := .spawn a) rfl rfl rfl (wordX_lt (by decide) (by decide) (by decide)) fun hwf => ?_
  refine ((show ∀ w, w / 67108864 % 64 = 48 → decodeSeqNat w = decodeX30 w from
    fun w h => by delta decodeSeqNat; generalize w / 67108864 % 64 = n at h; subst h; rfl) _ (wordX_major (by decide) (by decide) (by decide))).trans ?_
  refine ((show ∀ w, w / 2048 % 32 = 0 → decodeX30 w = chk (w / 65536 % 32 == 0 && w / 64 % 32 == 0 && w % 64 == 0) Cause.illfld (.ok (.spawn (regHi w))) from
    fun w h => by delta decodeX30; generalize w / 2048 % 32 = n at h; subst h; rfl) _ (wordX_fn (by decide) (by decide))).trans ?_
  simp (disch := first | decide | omega) only [wordX_fn, wordX_hi, wordX_mid, wordX_low, wordX_gd, wordX_six, wordX_pad, regHi_wordX,
    regMid_wordX, regX_wordX, imm6_wordX, gd_div, gd_mod, gd_div0, gd_mod0, gd_imm6, gd_reg, gd_reg0, zero_reg, ofNat_reg, six_div, six_mod, six_ofNat, chk, Nat.zero_mod, Nat.zero_div,
    Fin.val_zero, beq_self_eq_true, decide_true, Bool.and_self, Bool.and_true, Bool.true_and, if_true]

theorem RoundTrip.sig (a : Reg) : Statement (.sig a) := by
  refine seq_ok (wordX 0x30 a 0 1 0) (j := .sig a) rfl rfl rfl (wordX_lt (by decide) (by decide) (by decide)) fun hwf => ?_
  refine ((show ∀ w, w / 67108864 % 64 = 48 → decodeSeqNat w = decodeX30 w from
    fun w h => by delta decodeSeqNat; generalize w / 67108864 % 64 = n at h; subst h; rfl) _ (wordX_major (by decide) (by decide) (by decide))).trans ?_
  refine ((show ∀ w, w / 2048 % 32 = 1 → decodeX30 w = chk (w / 65536 % 32 == 0 && w / 64 % 32 == 0 && w % 64 == 0) Cause.illfld (.ok (.sig (regHi w))) from
    fun w h => by delta decodeX30; generalize w / 2048 % 32 = n at h; subst h; rfl) _ (wordX_fn (by decide) (by decide))).trans ?_
  simp (disch := first | decide | omega) only [wordX_fn, wordX_hi, wordX_mid, wordX_low, wordX_gd, wordX_six, wordX_pad, regHi_wordX,
    regMid_wordX, regX_wordX, imm6_wordX, gd_div, gd_mod, gd_div0, gd_mod0, gd_imm6, gd_reg, gd_reg0, zero_reg, ofNat_reg, six_div, six_mod, six_ofNat, chk, Nat.zero_mod, Nat.zero_div,
    Fin.val_zero, beq_self_eq_true, decide_true, Bool.and_self, Bool.and_true, Bool.true_and, if_true]

theorem RoundTrip.sigeAddress (a : Reg) : Statement (.sigeAddress a) := by
  refine seq_ok (wordX 0x30 a 0 2 0) (j := .sigeAddress a) rfl rfl rfl (wordX_lt (by decide) (by decide) (by decide)) fun hwf => ?_
  refine ((show ∀ w, w / 67108864 % 64 = 48 → decodeSeqNat w = decodeX30 w from
    fun w h => by delta decodeSeqNat; generalize w / 67108864 % 64 = n at h; subst h; rfl) _ (wordX_major (by decide) (by decide) (by decide))).trans ?_
  refine ((show ∀ w, w / 2048 % 32 = 2 → decodeX30 w = chk (w / 65536 % 32 == 0 && w / 64 % 32 == 0) Cause.illfld
      (if w / 2097152 % 32 = 0 then .ok (.sigeEntry (imm6 w))
       else chk (w % 64 == 0) Cause.illfld (.ok (.sigeAddress (regHi w)))) from
    fun w h => by delta decodeX30; generalize w / 2048 % 32 = n at h; subst h; rfl) _ (wordX_fn (by decide) (by decide))).trans ?_
  exact sigeAddress_ok hwf

theorem RoundTrip.sigeEntry (j : BitVec 6) : Statement (.sigeEntry j) := by
  refine seq_ok (wordX 0x30 0 0 2 j.toNat) (j := .sigeEntry j) rfl rfl rfl (wordX_lt (by decide) (by decide) (by omega)) fun hwf => ?_
  refine ((show ∀ w, w / 67108864 % 64 = 48 → decodeSeqNat w = decodeX30 w from
    fun w h => by delta decodeSeqNat; generalize w / 67108864 % 64 = n at h; subst h; rfl) _ (wordX_major (by decide) (by decide) (by omega))).trans ?_
  refine ((show ∀ w, w / 2048 % 32 = 2 → decodeX30 w = chk (w / 65536 % 32 == 0 && w / 64 % 32 == 0) Cause.illfld
      (if w / 2097152 % 32 = 0 then .ok (.sigeEntry (imm6 w))
       else chk (w % 64 == 0) Cause.illfld (.ok (.sigeAddress (regHi w)))) from
    fun w h => by delta decodeX30; generalize w / 2048 % 32 = n at h; subst h; rfl) _ (wordX_fn (by decide) (by omega))).trans ?_
  exact sigeEntry_ok

theorem RoundTrip.park (a b : Reg) (k : BitVec 6) : Statement (.park a b k) := by
  refine seq_ok (wordX 0x30 a b 3 (k.toNat)) (j := .park a b k) rfl rfl rfl (wordX_lt (by decide) (by decide) (by omega)) fun hwf => ?_
  refine ((show ∀ w, w / 67108864 % 64 = 48 → decodeSeqNat w = decodeX30 w from
    fun w h => by delta decodeSeqNat; generalize w / 67108864 % 64 = n at h; subst h; rfl) _ (wordX_major (by decide) (by decide) (by omega))).trans ?_
  refine ((show ∀ w, w / 2048 % 32 = 3 → decodeX30 w = chk (w / 64 % 32 == 0 && (decide (1 ≤ w % 64) && decide (w % 64 ≤ 4))) Cause.illfld (.ok (.park (regHi w) (regMid w) (imm6 w))) from
    fun w h => by delta decodeX30; generalize w / 2048 % 32 = n at h; subst h; rfl) _ (wordX_fn (by decide) (by omega))).trans ?_
  have hw : 1 ≤ k.toNat ∧ k.toNat ≤ 4 := by have h : (decide (1 ≤ k.toNat ) && decide ( k.toNat ≤ 4)) = true := hwf; simpa using h
  simp (disch := first | decide | omega) only [wordX_fn, wordX_hi, wordX_mid, wordX_low, wordX_gd, wordX_six, wordX_pad, regHi_wordX,
    regMid_wordX, regX_wordX, imm6_wordX, gd_div, gd_mod, gd_div0, gd_mod0, gd_imm6, gd_reg, gd_reg0, zero_reg, ofNat_reg, six_div, six_mod, six_ofNat, hw.1, hw.2, chk, Nat.zero_mod, Nat.zero_div,
    Fin.val_zero, beq_self_eq_true, decide_true, Bool.and_self, Bool.and_true, Bool.true_and, if_true]

theorem RoundTrip.exit : Statement .exit := by
  refine seq_ok (wordX 0x30 0 0 4 0) (j := .exit) rfl rfl rfl (wordX_lt (by decide) (by decide) (by decide)) fun hwf => ?_
  refine ((show ∀ w, w / 67108864 % 64 = 48 → decodeSeqNat w = decodeX30 w from
    fun w h => by delta decodeSeqNat; generalize w / 67108864 % 64 = n at h; subst h; rfl) _ (wordX_major (by decide) (by decide) (by decide))).trans ?_
  refine ((show ∀ w, w / 2048 % 32 = 4 → decodeX30 w = chk (w / 2097152 % 32 == 0 && w / 65536 % 32 == 0 && w / 64 % 32 == 0 && w % 64 == 0) Cause.illfld (.ok .exit) from
    fun w h => by delta decodeX30; generalize w / 2048 % 32 = n at h; subst h; rfl) _ (wordX_fn (by decide) (by decide))).trans ?_
  simp (disch := first | decide | omega) only [wordX_fn, wordX_hi, wordX_mid, wordX_low, wordX_gd, wordX_six, wordX_pad, regHi_wordX,
    regMid_wordX, regX_wordX, imm6_wordX, gd_div, gd_mod, gd_div0, gd_mod0, gd_imm6, gd_reg, gd_reg0, zero_reg, ofNat_reg, six_div, six_mod, six_ofNat, chk, Nat.zero_mod, Nat.zero_div,
    Fin.val_zero, beq_self_eq_true, decide_true, Bool.and_self, Bool.and_true, Bool.true_and, if_true]

theorem RoundTrip.yield (a : Reg) : Statement (.yield a) := by
  refine seq_ok (wordX 0x30 a 0 5 0) (j := .yield a) rfl rfl rfl (wordX_lt (by decide) (by decide) (by decide)) fun hwf => ?_
  refine ((show ∀ w, w / 67108864 % 64 = 48 → decodeSeqNat w = decodeX30 w from
    fun w h => by delta decodeSeqNat; generalize w / 67108864 % 64 = n at h; subst h; rfl) _ (wordX_major (by decide) (by decide) (by decide))).trans ?_
  refine ((show ∀ w, w / 2048 % 32 = 5 → decodeX30 w = chk (w / 65536 % 32 == 0 && w / 64 % 32 == 0 && w % 64 == 0) Cause.illfld (.ok (.yield (regHi w))) from
    fun w h => by delta decodeX30; generalize w / 2048 % 32 = n at h; subst h; rfl) _ (wordX_fn (by decide) (by decide))).trans ?_
  simp (disch := first | decide | omega) only [wordX_fn, wordX_hi, wordX_mid, wordX_low, wordX_gd, wordX_six, wordX_pad, regHi_wordX,
    regMid_wordX, regX_wordX, imm6_wordX, gd_div, gd_mod, gd_div0, gd_mod0, gd_imm6, gd_reg, gd_reg0, zero_reg, ofNat_reg, six_div, six_mod, six_ofNat, chk, Nat.zero_mod, Nat.zero_div,
    Fin.val_zero, beq_self_eq_true, decide_true, Bool.and_self, Bool.and_true, Bool.true_and, if_true]

theorem RoundTrip.prio (c : BitVec 6) : Statement (.prio c) := by
  refine seq_ok (wordX 0x30 0 0 6 (c.toNat)) (j := .prio c) rfl rfl rfl (wordX_lt (by decide) (by decide) (by omega)) fun hwf => ?_
  refine ((show ∀ w, w / 67108864 % 64 = 48 → decodeSeqNat w = decodeX30 w from
    fun w h => by delta decodeSeqNat; generalize w / 67108864 % 64 = n at h; subst h; rfl) _ (wordX_major (by decide) (by decide) (by omega))).trans ?_
  refine ((show ∀ w, w / 2048 % 32 = 6 → decodeX30 w = chk (w / 2097152 % 32 == 0 && w / 65536 % 32 == 0 && w / 64 % 32 == 0 && decide (w % 64 ≤ 7)) Cause.illfld (.ok (.prio (imm6 w))) from
    fun w h => by delta decodeX30; generalize w / 2048 % 32 = n at h; subst h; rfl) _ (wordX_fn (by decide) (by omega))).trans ?_
  have hw : c.toNat ≤ 7 := by have h : (decide (c.toNat ≤ 7)) = true := hwf; simpa using h
  simp (disch := first | decide | omega) only [wordX_fn, wordX_hi, wordX_mid, wordX_low, wordX_gd, wordX_six, wordX_pad, regHi_wordX,
    regMid_wordX, regX_wordX, imm6_wordX, gd_div, gd_mod, gd_div0, gd_mod0, gd_imm6, gd_reg, gd_reg0, zero_reg, ofNat_reg, six_div, six_mod, six_ofNat, hw, chk, Nat.zero_mod, Nat.zero_div,
    Fin.val_zero, beq_self_eq_true, decide_true, Bool.and_self, Bool.and_true, Bool.true_and, if_true]

theorem RoundTrip.tdecl (a : Reg) : Statement (.tdecl a) := by
  refine seq_ok (wordX 0x30 a 0 7 0) (j := .tdecl a) rfl rfl rfl (wordX_lt (by decide) (by decide) (by decide)) fun hwf => ?_
  refine ((show ∀ w, w / 67108864 % 64 = 48 → decodeSeqNat w = decodeX30 w from
    fun w h => by delta decodeSeqNat; generalize w / 67108864 % 64 = n at h; subst h; rfl) _ (wordX_major (by decide) (by decide) (by decide))).trans ?_
  refine ((show ∀ w, w / 2048 % 32 = 7 → decodeX30 w = chk (w / 65536 % 32 == 0 && w / 64 % 32 == 0 && w % 64 == 0) Cause.illfld (.ok (.tdecl (regHi w))) from
    fun w h => by delta decodeX30; generalize w / 2048 % 32 = n at h; subst h; rfl) _ (wordX_fn (by decide) (by decide))).trans ?_
  simp (disch := first | decide | omega) only [wordX_fn, wordX_hi, wordX_mid, wordX_low, wordX_gd, wordX_six, wordX_pad, regHi_wordX,
    regMid_wordX, regX_wordX, imm6_wordX, gd_div, gd_mod, gd_div0, gd_mod0, gd_imm6, gd_reg, gd_reg0, zero_reg, ofNat_reg, six_div, six_mod, six_ofNat, chk, Nat.zero_mod, Nat.zero_div,
    Fin.val_zero, beq_self_eq_true, decide_true, Bool.and_self, Bool.and_true, Bool.true_and, if_true]

theorem RoundTrip.jcnt (a b d : Reg) : Statement (.jcnt a b d) := by
  refine seq_ok (wordX 0x30 a b 8 (d.val * 64)) (j := .jcnt a b d) rfl rfl rfl (wordX_lt (by decide) (by decide) (by omega)) fun hwf => ?_
  refine ((show ∀ w, w / 67108864 % 64 = 48 → decodeSeqNat w = decodeX30 w from
    fun w h => by delta decodeSeqNat; generalize w / 67108864 % 64 = n at h; subst h; rfl) _ (wordX_major (by decide) (by decide) (by omega))).trans ?_
  refine ((show ∀ w, w / 2048 % 32 = 8 → decodeX30 w = chk (w % 64 == 0) Cause.illfld (.ok (.jcnt (regHi w) (regMid w) (regX w))) from
    fun w h => by delta decodeX30; generalize w / 2048 % 32 = n at h; subst h; rfl) _ (wordX_fn (by decide) (by omega))).trans ?_
  simp (disch := first | decide | omega) only [wordX_fn, wordX_hi, wordX_mid, wordX_low, wordX_gd, wordX_six, wordX_pad, regHi_wordX,
    regMid_wordX, regX_wordX, imm6_wordX, gd_div, gd_mod, gd_div0, gd_mod0, gd_imm6, gd_reg, gd_reg0, zero_reg, ofNat_reg, six_div, six_mod, six_ofNat, chk, Nat.zero_mod, Nat.zero_div,
    Fin.val_zero, beq_self_eq_true, decide_true, Bool.and_self, Bool.and_true, Bool.true_and, if_true]

theorem RoundTrip.cfge (a b : Reg) : Statement (.cfge a b) := by
  refine seq_ok (wordX 0x31 a b 0 0) (j := .cfge a b) rfl rfl rfl (wordX_lt (by decide) (by decide) (by decide)) fun hwf => ?_
  refine ((show ∀ w, w / 67108864 % 64 = 49 → decodeSeqNat w = decodeX31 w from
    fun w h => by delta decodeSeqNat; generalize w / 67108864 % 64 = n at h; subst h; rfl) _ (wordX_major (by decide) (by decide) (by decide))).trans ?_
  refine ((show ∀ w, w / 2048 % 32 = 0 → decodeX31 w = chk (w / 64 % 32 == 0 && w % 64 == 0) Cause.illfld (.ok (.cfge (regHi w) (regMid w))) from
    fun w h => by delta decodeX31; generalize w / 2048 % 32 = n at h; subst h; rfl) _ (wordX_fn (by decide) (by decide))).trans ?_
  simp (disch := first | decide | omega) only [wordX_fn, wordX_hi, wordX_mid, wordX_low, wordX_gd, wordX_six, wordX_pad, regHi_wordX,
    regMid_wordX, regX_wordX, imm6_wordX, gd_div, gd_mod, gd_div0, gd_mod0, gd_imm6, gd_reg, gd_reg0, zero_reg, ofNat_reg, six_div, six_mod, six_ofNat, chk, Nat.zero_mod, Nat.zero_div,
    Fin.val_zero, beq_self_eq_true, decide_true, Bool.and_self, Bool.and_true, Bool.true_and, if_true]

theorem RoundTrip.cfgs (a b : Reg) : Statement (.cfgs a b) := by
  refine seq_ok (wordX 0x31 a b 1 0) (j := .cfgs a b) rfl rfl rfl (wordX_lt (by decide) (by decide) (by decide)) fun hwf => ?_
  refine ((show ∀ w, w / 67108864 % 64 = 49 → decodeSeqNat w = decodeX31 w from
    fun w h => by delta decodeSeqNat; generalize w / 67108864 % 64 = n at h; subst h; rfl) _ (wordX_major (by decide) (by decide) (by decide))).trans ?_
  refine ((show ∀ w, w / 2048 % 32 = 1 → decodeX31 w = chk (w / 64 % 32 == 0 && w % 64 == 0) Cause.illfld (.ok (.cfgs (regHi w) (regMid w))) from
    fun w h => by delta decodeX31; generalize w / 2048 % 32 = n at h; subst h; rfl) _ (wordX_fn (by decide) (by decide))).trans ?_
  simp (disch := first | decide | omega) only [wordX_fn, wordX_hi, wordX_mid, wordX_low, wordX_gd, wordX_six, wordX_pad, regHi_wordX,
    regMid_wordX, regX_wordX, imm6_wordX, gd_div, gd_mod, gd_div0, gd_mod0, gd_imm6, gd_reg, gd_reg0, zero_reg, ofNat_reg, six_div, six_mod, six_ofNat, chk, Nat.zero_mod, Nat.zero_div,
    Fin.val_zero, beq_self_eq_true, decide_true, Bool.and_self, Bool.and_true, Bool.true_and, if_true]

theorem RoundTrip.cfgo (a b : Reg) : Statement (.cfgo a b) := by
  refine seq_ok (wordX 0x31 a b 2 0) (j := .cfgo a b) rfl rfl rfl (wordX_lt (by decide) (by decide) (by decide)) fun hwf => ?_
  refine ((show ∀ w, w / 67108864 % 64 = 49 → decodeSeqNat w = decodeX31 w from
    fun w h => by delta decodeSeqNat; generalize w / 67108864 % 64 = n at h; subst h; rfl) _ (wordX_major (by decide) (by decide) (by decide))).trans ?_
  refine ((show ∀ w, w / 2048 % 32 = 2 → decodeX31 w = chk (w / 64 % 32 == 0 && w % 64 == 0) Cause.illfld (.ok (.cfgo (regHi w) (regMid w))) from
    fun w h => by delta decodeX31; generalize w / 2048 % 32 = n at h; subst h; rfl) _ (wordX_fn (by decide) (by decide))).trans ?_
  simp (disch := first | decide | omega) only [wordX_fn, wordX_hi, wordX_mid, wordX_low, wordX_gd, wordX_six, wordX_pad, regHi_wordX,
    regMid_wordX, regX_wordX, imm6_wordX, gd_div, gd_mod, gd_div0, gd_mod0, gd_imm6, gd_reg, gd_reg0, zero_reg, ofNat_reg, six_div, six_mod, six_ofNat, chk, Nat.zero_mod, Nat.zero_div,
    Fin.val_zero, beq_self_eq_true, decide_true, Bool.and_self, Bool.and_true, Bool.true_and, if_true]

theorem RoundTrip.cfgk (a b : Reg) : Statement (.cfgk a b) := by
  refine seq_ok (wordX 0x31 a b 3 0) (j := .cfgk a b) rfl rfl rfl (wordX_lt (by decide) (by decide) (by decide)) fun hwf => ?_
  refine ((show ∀ w, w / 67108864 % 64 = 49 → decodeSeqNat w = decodeX31 w from
    fun w h => by delta decodeSeqNat; generalize w / 67108864 % 64 = n at h; subst h; rfl) _ (wordX_major (by decide) (by decide) (by decide))).trans ?_
  refine ((show ∀ w, w / 2048 % 32 = 3 → decodeX31 w = chk (w / 64 % 32 == 0 && w % 64 == 0) Cause.illfld (.ok (.cfgk (regHi w) (regMid w))) from
    fun w h => by delta decodeX31; generalize w / 2048 % 32 = n at h; subst h; rfl) _ (wordX_fn (by decide) (by decide))).trans ?_
  simp (disch := first | decide | omega) only [wordX_fn, wordX_hi, wordX_mid, wordX_low, wordX_gd, wordX_six, wordX_pad, regHi_wordX,
    regMid_wordX, regX_wordX, imm6_wordX, gd_div, gd_mod, gd_div0, gd_mod0, gd_imm6, gd_reg, gd_reg0, zero_reg, ofNat_reg, six_div, six_mod, six_ofNat, chk, Nat.zero_mod, Nat.zero_div,
    Fin.val_zero, beq_self_eq_true, decide_true, Bool.and_self, Bool.and_true, Bool.true_and, if_true]

theorem RoundTrip.arm (a b : Reg) (s : BitVec 6) : Statement (.arm a b s) := by
  refine seq_ok (wordX 0x31 a b 4 (s.toNat)) (j := .arm a b s) rfl rfl rfl (wordX_lt (by decide) (by decide) (by omega)) fun hwf => ?_
  refine ((show ∀ w, w / 67108864 % 64 = 49 → decodeSeqNat w = decodeX31 w from
    fun w h => by delta decodeSeqNat; generalize w / 67108864 % 64 = n at h; subst h; rfl) _ (wordX_major (by decide) (by decide) (by omega))).trans ?_
  refine ((show ∀ w, w / 2048 % 32 = 4 → decodeX31 w = chk (w / 64 % 32 == 0) Cause.illfld (.ok (.arm (regHi w) (regMid w) (imm6 w))) from
    fun w h => by delta decodeX31; generalize w / 2048 % 32 = n at h; subst h; rfl) _ (wordX_fn (by decide) (by omega))).trans ?_
  simp (disch := first | decide | omega) only [wordX_fn, wordX_hi, wordX_mid, wordX_low, wordX_gd, wordX_six, wordX_pad, regHi_wordX,
    regMid_wordX, regX_wordX, imm6_wordX, gd_div, gd_mod, gd_div0, gd_mod0, gd_imm6, gd_reg, gd_reg0, zero_reg, ofNat_reg, six_div, six_mod, six_ofNat, chk, Nat.zero_mod, Nat.zero_div,
    Fin.val_zero, beq_self_eq_true, decide_true, Bool.and_self, Bool.and_true, Bool.true_and, if_true]

theorem RoundTrip.disarm (s : BitVec 6) : Statement (.disarm s) := by
  refine seq_ok (wordX 0x31 0 0 5 (s.toNat)) (j := .disarm s) rfl rfl rfl (wordX_lt (by decide) (by decide) (by omega)) fun hwf => ?_
  refine ((show ∀ w, w / 67108864 % 64 = 49 → decodeSeqNat w = decodeX31 w from
    fun w h => by delta decodeSeqNat; generalize w / 67108864 % 64 = n at h; subst h; rfl) _ (wordX_major (by decide) (by decide) (by omega))).trans ?_
  refine ((show ∀ w, w / 2048 % 32 = 5 → decodeX31 w = chk (w / 2097152 % 32 == 0 && w / 65536 % 32 == 0 && w / 64 % 32 == 0) Cause.illfld (.ok (.disarm (imm6 w))) from
    fun w h => by delta decodeX31; generalize w / 2048 % 32 = n at h; subst h; rfl) _ (wordX_fn (by decide) (by omega))).trans ?_
  simp (disch := first | decide | omega) only [wordX_fn, wordX_hi, wordX_mid, wordX_low, wordX_gd, wordX_six, wordX_pad, regHi_wordX,
    regMid_wordX, regX_wordX, imm6_wordX, gd_div, gd_mod, gd_div0, gd_mod0, gd_imm6, gd_reg, gd_reg0, zero_reg, ofNat_reg, six_div, six_mod, six_ofNat, chk, Nat.zero_mod, Nat.zero_div,
    Fin.val_zero, beq_self_eq_true, decide_true, Bool.and_self, Bool.and_true, Bool.true_and, if_true]

theorem RoundTrip.secwait (d : Reg) (s : BitVec 6) : Statement (.secwait d s) := by
  refine seq_ok (wordX 0x31 0 0 6 (d.val * 64 + s.toNat)) (j := .secwait d s) rfl rfl rfl (wordX_lt (by decide) (by decide) (by omega)) fun hwf => ?_
  refine ((show ∀ w, w / 67108864 % 64 = 49 → decodeSeqNat w = decodeX31 w from
    fun w h => by delta decodeSeqNat; generalize w / 67108864 % 64 = n at h; subst h; rfl) _ (wordX_major (by decide) (by decide) (by omega))).trans ?_
  refine ((show ∀ w, w / 2048 % 32 = 6 → decodeX31 w = chk (w / 2097152 % 32 == 0 && w / 65536 % 32 == 0) Cause.illfld (.ok (.secwait (regX w) (imm6 w))) from
    fun w h => by delta decodeX31; generalize w / 2048 % 32 = n at h; subst h; rfl) _ (wordX_fn (by decide) (by omega))).trans ?_
  simp (disch := first | decide | omega) only [wordX_fn, wordX_hi, wordX_mid, wordX_low, wordX_gd, wordX_six, wordX_pad, regHi_wordX,
    regMid_wordX, regX_wordX, imm6_wordX, gd_div, gd_mod, gd_div0, gd_mod0, gd_imm6, gd_reg, gd_reg0, zero_reg, ofNat_reg, six_div, six_mod, six_ofNat, chk, Nat.zero_mod, Nat.zero_div,
    Fin.val_zero, beq_self_eq_true, decide_true, Bool.and_self, Bool.and_true, Bool.true_and, if_true]

theorem RoundTrip.strm (a : Reg) (n : BitVec 6) : Statement (.strm a n) := by
  refine seq_ok (wordX 0x32 a 0 0 (n.toNat)) (j := .strm a n) rfl rfl rfl (wordX_lt (by decide) (by decide) (by omega)) fun hwf => ?_
  refine ((show ∀ w, w / 67108864 % 64 = 50 → decodeSeqNat w = decodeX32 w from
    fun w h => by delta decodeSeqNat; generalize w / 67108864 % 64 = n at h; subst h; rfl) _ (wordX_major (by decide) (by decide) (by omega))).trans ?_
  refine ((show ∀ w, w / 2048 % 32 = 0 → decodeX32 w = chk (w / 65536 % 32 == 0 && w / 64 % 32 == 0 && decide (w % 64 ≤ 3)) Cause.illfld (.ok (.strm (regHi w) (imm6 w))) from
    fun w h => by delta decodeX32; generalize w / 2048 % 32 = n at h; subst h; rfl) _ (wordX_fn (by decide) (by omega))).trans ?_
  have hw : n.toNat ≤ 3 := by have h : (decide (n.toNat ≤ 3)) = true := hwf; simpa using h
  simp (disch := first | decide | omega) only [wordX_fn, wordX_hi, wordX_mid, wordX_low, wordX_gd, wordX_six, wordX_pad, regHi_wordX,
    regMid_wordX, regX_wordX, imm6_wordX, gd_div, gd_mod, gd_div0, gd_mod0, gd_imm6, gd_reg, gd_reg0, zero_reg, ofNat_reg, six_div, six_mod, six_ofNat, hw, chk, Nat.zero_mod, Nat.zero_div,
    Fin.val_zero, beq_self_eq_true, decide_true, Bool.and_self, Bool.and_true, Bool.true_and, if_true]

theorem RoundTrip.sstop (a : Reg) (n : BitVec 6) : Statement (.sstop a n) := by
  refine seq_ok (wordX 0x32 a 0 1 (n.toNat)) (j := .sstop a n) rfl rfl rfl (wordX_lt (by decide) (by decide) (by omega)) fun hwf => ?_
  refine ((show ∀ w, w / 67108864 % 64 = 50 → decodeSeqNat w = decodeX32 w from
    fun w h => by delta decodeSeqNat; generalize w / 67108864 % 64 = n at h; subst h; rfl) _ (wordX_major (by decide) (by decide) (by omega))).trans ?_
  refine ((show ∀ w, w / 2048 % 32 = 1 → decodeX32 w = chk (w / 65536 % 32 == 0 && w / 64 % 32 == 0 && decide (w % 64 ≤ 3)) Cause.illfld (.ok (.sstop (regHi w) (imm6 w))) from
    fun w h => by delta decodeX32; generalize w / 2048 % 32 = n at h; subst h; rfl) _ (wordX_fn (by decide) (by omega))).trans ?_
  have hw : n.toNat ≤ 3 := by have h : (decide (n.toNat ≤ 3)) = true := hwf; simpa using h
  simp (disch := first | decide | omega) only [wordX_fn, wordX_hi, wordX_mid, wordX_low, wordX_gd, wordX_six, wordX_pad, regHi_wordX,
    regMid_wordX, regX_wordX, imm6_wordX, gd_div, gd_mod, gd_div0, gd_mod0, gd_imm6, gd_reg, gd_reg0, zero_reg, ofNat_reg, six_div, six_mod, six_ofNat, hw, chk, Nat.zero_mod, Nat.zero_div,
    Fin.val_zero, beq_self_eq_true, decide_true, Bool.and_self, Bool.and_true, Bool.true_and, if_true]

theorem RoundTrip.smark (s : BitVec 6) : Statement (.smark s) := by
  refine seq_ok (wordX 0x32 0 0 2 (s.toNat)) (j := .smark s) rfl rfl rfl (wordX_lt (by decide) (by decide) (by omega)) fun hwf => ?_
  refine ((show ∀ w, w / 67108864 % 64 = 50 → decodeSeqNat w = decodeX32 w from
    fun w h => by delta decodeSeqNat; generalize w / 67108864 % 64 = n at h; subst h; rfl) _ (wordX_major (by decide) (by decide) (by omega))).trans ?_
  refine ((show ∀ w, w / 2048 % 32 = 2 → decodeX32 w = chk (w / 2097152 % 32 == 0 && w / 65536 % 32 == 0 && w / 64 % 32 == 0) Cause.illfld (.ok (.smark (imm6 w))) from
    fun w h => by delta decodeX32; generalize w / 2048 % 32 = n at h; subst h; rfl) _ (wordX_fn (by decide) (by omega))).trans ?_
  simp (disch := first | decide | omega) only [wordX_fn, wordX_hi, wordX_mid, wordX_low, wordX_gd, wordX_six, wordX_pad, regHi_wordX,
    regMid_wordX, regX_wordX, imm6_wordX, gd_div, gd_mod, gd_div0, gd_mod0, gd_imm6, gd_reg, gd_reg0, zero_reg, ofNat_reg, six_div, six_mod, six_ofNat, chk, Nat.zero_mod, Nat.zero_div,
    Fin.val_zero, beq_self_eq_true, decide_true, Bool.and_self, Bool.and_true, Bool.true_and, if_true]

theorem RoundTrip.seal (a : Reg) (n : BitVec 6) : Statement (.seal a n) := by
  refine seq_ok (wordX 0x32 a 0 3 (n.toNat)) (j := .seal a n) rfl rfl rfl (wordX_lt (by decide) (by decide) (by omega)) fun hwf => ?_
  refine ((show ∀ w, w / 67108864 % 64 = 50 → decodeSeqNat w = decodeX32 w from
    fun w h => by delta decodeSeqNat; generalize w / 67108864 % 64 = n at h; subst h; rfl) _ (wordX_major (by decide) (by decide) (by omega))).trans ?_
  refine ((show ∀ w, w / 2048 % 32 = 3 → decodeX32 w = chk (w / 65536 % 32 == 0 && w / 64 % 32 == 0 && decide (w % 64 ≤ 3)) Cause.illfld (.ok (.seal (regHi w) (imm6 w))) from
    fun w h => by delta decodeX32; generalize w / 2048 % 32 = n at h; subst h; rfl) _ (wordX_fn (by decide) (by omega))).trans ?_
  have hw : n.toNat ≤ 3 := by have h : (decide (n.toNat ≤ 3)) = true := hwf; simpa using h
  simp (disch := first | decide | omega) only [wordX_fn, wordX_hi, wordX_mid, wordX_low, wordX_gd, wordX_six, wordX_pad, regHi_wordX,
    regMid_wordX, regX_wordX, imm6_wordX, gd_div, gd_mod, gd_div0, gd_mod0, gd_imm6, gd_reg, gd_reg0, zero_reg, ofNat_reg, six_div, six_mod, six_ofNat, hw, chk, Nat.zero_mod, Nat.zero_div,
    Fin.val_zero, beq_self_eq_true, decide_true, Bool.and_self, Bool.and_true, Bool.true_and, if_true]

theorem RoundTrip.tapset (a b : Reg) (n : BitVec 6) : Statement (.tapset a b n) := by
  refine seq_ok (wordX 0x32 a b 4 (n.toNat)) (j := .tapset a b n) rfl rfl rfl (wordX_lt (by decide) (by decide) (by omega)) fun hwf => ?_
  refine ((show ∀ w, w / 67108864 % 64 = 50 → decodeSeqNat w = decodeX32 w from
    fun w h => by delta decodeSeqNat; generalize w / 67108864 % 64 = n at h; subst h; rfl) _ (wordX_major (by decide) (by decide) (by omega))).trans ?_
  refine ((show ∀ w, w / 2048 % 32 = 4 → decodeX32 w = chk (w / 64 % 32 == 0 && decide (w % 64 ≤ 3)) Cause.illfld (.ok (.tapset (regHi w) (regMid w) (imm6 w))) from
    fun w h => by delta decodeX32; generalize w / 2048 % 32 = n at h; subst h; rfl) _ (wordX_fn (by decide) (by omega))).trans ?_
  have hw : n.toNat ≤ 3 := by have h : (decide (n.toNat ≤ 3)) = true := hwf; simpa using h
  simp (disch := first | decide | omega) only [wordX_fn, wordX_hi, wordX_mid, wordX_low, wordX_gd, wordX_six, wordX_pad, regHi_wordX,
    regMid_wordX, regX_wordX, imm6_wordX, gd_div, gd_mod, gd_div0, gd_mod0, gd_imm6, gd_reg, gd_reg0, zero_reg, ofNat_reg, six_div, six_mod, six_ofNat, hw, chk, Nat.zero_mod, Nat.zero_div,
    Fin.val_zero, beq_self_eq_true, decide_true, Bool.and_self, Bool.and_true, Bool.true_and, if_true]

theorem RoundTrip.binit (a b : Reg) : Statement (.binit a b) := by
  refine seq_ok (wordX 0x33 a b 0 0) (j := .binit a b) rfl rfl rfl (wordX_lt (by decide) (by decide) (by decide)) fun hwf => ?_
  refine ((show ∀ w, w / 67108864 % 64 = 51 → decodeSeqNat w = decodeX33 w from
    fun w h => by delta decodeSeqNat; generalize w / 67108864 % 64 = n at h; subst h; rfl) _ (wordX_major (by decide) (by decide) (by decide))).trans ?_
  refine ((show ∀ w, w / 2048 % 32 = 0 → decodeX33 w = chk (w / 64 % 32 == 0 && w % 64 == 0) Cause.illfld (.ok (.binit (regHi w) (regMid w))) from
    fun w h => by delta decodeX33; generalize w / 2048 % 32 = n at h; subst h; rfl) _ (wordX_fn (by decide) (by decide))).trans ?_
  simp (disch := first | decide | omega) only [wordX_fn, wordX_hi, wordX_mid, wordX_low, wordX_gd, wordX_six, wordX_pad, regHi_wordX,
    regMid_wordX, regX_wordX, imm6_wordX, gd_div, gd_mod, gd_div0, gd_mod0, gd_imm6, gd_reg, gd_reg0, zero_reg, ofNat_reg, six_div, six_mod, six_ofNat, chk, Nat.zero_mod, Nat.zero_div,
    Fin.val_zero, beq_self_eq_true, decide_true, Bool.and_self, Bool.and_true, Bool.true_and, if_true]

theorem RoundTrip.barr (a b : Reg) : Statement (.barr a b) := by
  refine seq_ok (wordX 0x33 a b 1 0) (j := .barr a b) rfl rfl rfl (wordX_lt (by decide) (by decide) (by decide)) fun hwf => ?_
  refine ((show ∀ w, w / 67108864 % 64 = 51 → decodeSeqNat w = decodeX33 w from
    fun w h => by delta decodeSeqNat; generalize w / 67108864 % 64 = n at h; subst h; rfl) _ (wordX_major (by decide) (by decide) (by decide))).trans ?_
  refine ((show ∀ w, w / 2048 % 32 = 1 → decodeX33 w = chk (w / 64 % 32 == 0 && w % 64 == 0) Cause.illfld (.ok (.barr (regHi w) (regMid w))) from
    fun w h => by delta decodeX33; generalize w / 2048 % 32 = n at h; subst h; rfl) _ (wordX_fn (by decide) (by decide))).trans ?_
  simp (disch := first | decide | omega) only [wordX_fn, wordX_hi, wordX_mid, wordX_low, wordX_gd, wordX_six, wordX_pad, regHi_wordX,
    regMid_wordX, regX_wordX, imm6_wordX, gd_div, gd_mod, gd_div0, gd_mod0, gd_imm6, gd_reg, gd_reg0, zero_reg, ofNat_reg, six_div, six_mod, six_ofNat, chk, Nat.zero_mod, Nat.zero_div,
    Fin.val_zero, beq_self_eq_true, decide_true, Bool.and_self, Bool.and_true, Bool.true_and, if_true]

theorem RoundTrip.bwait (a b d : Reg) : Statement (.bwait a b d) := by
  refine seq_ok (wordX 0x33 a b 2 (d.val * 64)) (j := .bwait a b d) rfl rfl rfl (wordX_lt (by decide) (by decide) (by omega)) fun hwf => ?_
  refine ((show ∀ w, w / 67108864 % 64 = 51 → decodeSeqNat w = decodeX33 w from
    fun w h => by delta decodeSeqNat; generalize w / 67108864 % 64 = n at h; subst h; rfl) _ (wordX_major (by decide) (by decide) (by omega))).trans ?_
  refine ((show ∀ w, w / 2048 % 32 = 2 → decodeX33 w = chk (w % 64 == 0) Cause.illfld (.ok (.bwait (regHi w) (regMid w) (regX w))) from
    fun w h => by delta decodeX33; generalize w / 2048 % 32 = n at h; subst h; rfl) _ (wordX_fn (by decide) (by omega))).trans ?_
  simp (disch := first | decide | omega) only [wordX_fn, wordX_hi, wordX_mid, wordX_low, wordX_gd, wordX_six, wordX_pad, regHi_wordX,
    regMid_wordX, regX_wordX, imm6_wordX, gd_div, gd_mod, gd_div0, gd_mod0, gd_imm6, gd_reg, gd_reg0, zero_reg, ofNat_reg, six_div, six_mod, six_ofNat, chk, Nat.zero_mod, Nat.zero_div,
    Fin.val_zero, beq_self_eq_true, decide_true, Bool.and_self, Bool.and_true, Bool.true_and, if_true]

theorem RoundTrip.bchgSetExpect (a b : Reg) : Statement (.bchgSetExpect a b) := by
  refine seq_ok (wordX 0x33 a b 3 0) (j := .bchgSetExpect a b) rfl rfl rfl (wordX_lt (by decide) (by decide) (by decide)) fun hwf => ?_
  refine ((show ∀ w, w / 67108864 % 64 = 51 → decodeSeqNat w = decodeX33 w from
    fun w h => by delta decodeSeqNat; generalize w / 67108864 % 64 = n at h; subst h; rfl) _ (wordX_major (by decide) (by decide) (by decide))).trans ?_
  refine ((show ∀ w, w / 2048 % 32 = 3 → decodeX33 w = chk (w / 64 % 32 == 0 && w % 64 == 0) Cause.illfld (.ok (.bchgSetExpect (regHi w) (regMid w))) from
    fun w h => by delta decodeX33; generalize w / 2048 % 32 = n at h; subst h; rfl) _ (wordX_fn (by decide) (by decide))).trans ?_
  simp (disch := first | decide | omega) only [wordX_fn, wordX_hi, wordX_mid, wordX_low, wordX_gd, wordX_six, wordX_pad, regHi_wordX,
    regMid_wordX, regX_wordX, imm6_wordX, gd_div, gd_mod, gd_div0, gd_mod0, gd_imm6, gd_reg, gd_reg0, zero_reg, ofNat_reg, six_div, six_mod, six_ofNat, chk, Nat.zero_mod, Nat.zero_div,
    Fin.val_zero, beq_self_eq_true, decide_true, Bool.and_self, Bool.and_true, Bool.true_and, if_true]

theorem RoundTrip.bchgRelease (a b : Reg) : Statement (.bchgRelease a b) := by
  refine seq_ok (wordX 0x33 a b 3 0) (j := .bchgSetExpect a b) rfl rfl rfl (wordX_lt (by decide) (by decide) (by decide)) fun hwf => ?_
  refine ((show ∀ w, w / 67108864 % 64 = 51 → decodeSeqNat w = decodeX33 w from
    fun w h => by delta decodeSeqNat; generalize w / 67108864 % 64 = n at h; subst h; rfl) _ (wordX_major (by decide) (by decide) (by decide))).trans ?_
  refine ((show ∀ w, w / 2048 % 32 = 3 → decodeX33 w = chk (w / 64 % 32 == 0 && w % 64 == 0) Cause.illfld (.ok (.bchgSetExpect (regHi w) (regMid w))) from
    fun w h => by delta decodeX33; generalize w / 2048 % 32 = n at h; subst h; rfl) _ (wordX_fn (by decide) (by decide))).trans ?_
  simp (disch := first | decide | omega) only [wordX_fn, wordX_hi, wordX_mid, wordX_low, wordX_gd, wordX_six, wordX_pad, regHi_wordX,
    regMid_wordX, regX_wordX, imm6_wordX, gd_div, gd_mod, gd_div0, gd_mod0, gd_imm6, gd_reg, gd_reg0, zero_reg, ofNat_reg, six_div, six_mod, six_ofNat, chk, Nat.zero_mod, Nat.zero_div,
    Fin.val_zero, beq_self_eq_true, decide_true, Bool.and_self, Bool.and_true, Bool.true_and, if_true]

theorem RoundTrip.btest (a b d : Reg) : Statement (.btest a b d) := by
  refine seq_ok (wordX 0x33 a b 4 (d.val * 64)) (j := .btest a b d) rfl rfl rfl (wordX_lt (by decide) (by decide) (by omega)) fun hwf => ?_
  refine ((show ∀ w, w / 67108864 % 64 = 51 → decodeSeqNat w = decodeX33 w from
    fun w h => by delta decodeSeqNat; generalize w / 67108864 % 64 = n at h; subst h; rfl) _ (wordX_major (by decide) (by decide) (by omega))).trans ?_
  refine ((show ∀ w, w / 2048 % 32 = 4 → decodeX33 w = chk (w % 64 == 0) Cause.illfld (.ok (.btest (regHi w) (regMid w) (regX w))) from
    fun w h => by delta decodeX33; generalize w / 2048 % 32 = n at h; subst h; rfl) _ (wordX_fn (by decide) (by omega))).trans ?_
  simp (disch := first | decide | omega) only [wordX_fn, wordX_hi, wordX_mid, wordX_low, wordX_gd, wordX_six, wordX_pad, regHi_wordX,
    regMid_wordX, regX_wordX, imm6_wordX, gd_div, gd_mod, gd_div0, gd_mod0, gd_imm6, gd_reg, gd_reg0, zero_reg, ofNat_reg, six_div, six_mod, six_ofNat, chk, Nat.zero_mod, Nat.zero_div,
    Fin.val_zero, beq_self_eq_true, decide_true, Bool.and_self, Bool.and_true, Bool.true_and, if_true]

theorem RoundTrip.amsg (a d : Reg) : Statement (.amsg a d) := by
  refine seq_ok (wordX 0x34 a 0 0 (d.val * 64)) (j := .amsg a d) rfl rfl rfl (wordX_lt (by decide) (by decide) (by omega)) fun hwf => ?_
  refine ((show ∀ w, w / 67108864 % 64 = 52 → decodeSeqNat w = decodeX34 w from
    fun w h => by delta decodeSeqNat; generalize w / 67108864 % 64 = n at h; subst h; rfl) _ (wordX_major (by decide) (by decide) (by omega))).trans ?_
  refine ((show ∀ w, w / 2048 % 32 = 0 → decodeX34 w = chk (w / 65536 % 32 == 0 && w % 64 == 0) Cause.illfld (.ok (.amsg (regHi w) (regX w))) from
    fun w h => by delta decodeX34; generalize w / 2048 % 32 = n at h; subst h; rfl) _ (wordX_fn (by decide) (by omega))).trans ?_
  simp (disch := first | decide | omega) only [wordX_fn, wordX_hi, wordX_mid, wordX_low, wordX_gd, wordX_six, wordX_pad, regHi_wordX,
    regMid_wordX, regX_wordX, imm6_wordX, gd_div, gd_mod, gd_div0, gd_mod0, gd_imm6, gd_reg, gd_reg0, zero_reg, ofNat_reg, six_div, six_mod, six_ofNat, chk, Nat.zero_mod, Nat.zero_div,
    Fin.val_zero, beq_self_eq_true, decide_true, Bool.and_self, Bool.and_true, Bool.true_and, if_true]

theorem RoundTrip.amsgw (a : Reg) : Statement (.amsgw a) := by
  refine seq_ok (wordX 0x34 a 0 1 0) (j := .amsgw a) rfl rfl rfl (wordX_lt (by decide) (by decide) (by decide)) fun hwf => ?_
  refine ((show ∀ w, w / 67108864 % 64 = 52 → decodeSeqNat w = decodeX34 w from
    fun w h => by delta decodeSeqNat; generalize w / 67108864 % 64 = n at h; subst h; rfl) _ (wordX_major (by decide) (by decide) (by decide))).trans ?_
  refine ((show ∀ w, w / 2048 % 32 = 1 → decodeX34 w = chk (w / 65536 % 32 == 0 && w / 64 % 32 == 0 && w % 64 == 0) Cause.illfld (.ok (.amsgw (regHi w))) from
    fun w h => by delta decodeX34; generalize w / 2048 % 32 = n at h; subst h; rfl) _ (wordX_fn (by decide) (by decide))).trans ?_
  simp (disch := first | decide | omega) only [wordX_fn, wordX_hi, wordX_mid, wordX_low, wordX_gd, wordX_six, wordX_pad, regHi_wordX,
    regMid_wordX, regX_wordX, imm6_wordX, gd_div, gd_mod, gd_div0, gd_mod0, gd_imm6, gd_reg, gd_reg0, zero_reg, ofNat_reg, six_div, six_mod, six_ofNat, chk, Nat.zero_mod, Nat.zero_div,
    Fin.val_zero, beq_self_eq_true, decide_true, Bool.and_self, Bool.and_true, Bool.true_and, if_true]

theorem RoundTrip.rfill (a b : Reg) : Statement (.rfill a b) := by
  refine seq_ok (wordX 0x34 a b 2 0) (j := .rfill a b) rfl rfl rfl (wordX_lt (by decide) (by decide) (by decide)) fun hwf => ?_
  refine ((show ∀ w, w / 67108864 % 64 = 52 → decodeSeqNat w = decodeX34 w from
    fun w h => by delta decodeSeqNat; generalize w / 67108864 % 64 = n at h; subst h; rfl) _ (wordX_major (by decide) (by decide) (by decide))).trans ?_
  refine ((show ∀ w, w / 2048 % 32 = 2 → decodeX34 w = chk (w / 64 % 32 == 0 && w % 64 == 0) Cause.illfld (.ok (.rfill (regHi w) (regMid w))) from
    fun w h => by delta decodeX34; generalize w / 2048 % 32 = n at h; subst h; rfl) _ (wordX_fn (by decide) (by decide))).trans ?_
  simp (disch := first | decide | omega) only [wordX_fn, wordX_hi, wordX_mid, wordX_low, wordX_gd, wordX_six, wordX_pad, regHi_wordX,
    regMid_wordX, regX_wordX, imm6_wordX, gd_div, gd_mod, gd_div0, gd_mod0, gd_imm6, gd_reg, gd_reg0, zero_reg, ofNat_reg, six_div, six_mod, six_ofNat, chk, Nat.zero_mod, Nat.zero_div,
    Fin.val_zero, beq_self_eq_true, decide_true, Bool.and_self, Bool.and_true, Bool.true_and, if_true]

theorem RoundTrip.publish (s : Scope) (e : BitVec 6) : Statement (.publish s e) := by
  refine seq_ok (wordX 0x35 0 0 0 (scopeCode s * 256 + e.toNat)) (j := .publish s e) rfl rfl rfl (wordX_lt (by decide) (by decide) (by have := scope_lt s; omega)) fun hwf => ?_
  refine ((show ∀ w, w / 67108864 % 64 = 53 → decodeSeqNat w = decodeX35 w from
    fun w h => by delta decodeSeqNat; generalize w / 67108864 % 64 = n at h; subst h; rfl) _ (wordX_major (by decide) (by decide) (by have := scope_lt s; omega))).trans ?_
  refine ((show ∀ w, w / 2048 % 32 = 0 → decodeX35 w = chk (w / 2097152 % 32 == 0 && w / 65536 % 32 == 0 && w / 64 % 4 == 0) Cause.illfld
      (match scopeOf (w / 256 % 8) with
      | some .lane | none => .error Cause.scope
      | some s => .ok (.publish s (imm6 w))) from
    fun w h => by delta decodeX35; generalize w / 2048 % 32 = n at h; subst h; rfl) _ (wordX_fn (by decide) (by have := scope_lt s; omega))).trans ?_
  exact publish_ok hwf

theorem RoundTrip.ginv (a b : Reg) : Statement (.ginv a b) := by
  refine seq_ok (wordX 0x35 a b 1 0) (j := .ginv a b) rfl rfl rfl (wordX_lt (by decide) (by decide) (by decide)) fun hwf => ?_
  refine ((show ∀ w, w / 67108864 % 64 = 53 → decodeSeqNat w = decodeX35 w from
    fun w h => by delta decodeSeqNat; generalize w / 67108864 % 64 = n at h; subst h; rfl) _ (wordX_major (by decide) (by decide) (by decide))).trans ?_
  refine ((show ∀ w, w / 2048 % 32 = 1 → decodeX35 w = chk (w / 64 % 32 == 0 && w % 64 == 0) Cause.illfld (.ok (.ginv (regHi w) (regMid w))) from
    fun w h => by delta decodeX35; generalize w / 2048 % 32 = n at h; subst h; rfl) _ (wordX_fn (by decide) (by decide))).trans ?_
  simp (disch := first | decide | omega) only [wordX_fn, wordX_hi, wordX_mid, wordX_low, wordX_gd, wordX_six, wordX_pad, regHi_wordX,
    regMid_wordX, regX_wordX, imm6_wordX, gd_div, gd_mod, gd_div0, gd_mod0, gd_imm6, gd_reg, gd_reg0, zero_reg, ofNat_reg, six_div, six_mod, six_ofNat, chk, Nat.zero_mod, Nat.zero_div,
    Fin.val_zero, beq_self_eq_true, decide_true, Bool.and_self, Bool.and_true, Bool.true_and, if_true]

theorem RoundTrip.gprobe (a d : Reg) : Statement (.gprobe a d) := by
  refine seq_ok (wordX 0x35 a 0 2 (d.val * 64)) (j := .gprobe a d) rfl rfl rfl (wordX_lt (by decide) (by decide) (by omega)) fun hwf => ?_
  refine ((show ∀ w, w / 67108864 % 64 = 53 → decodeSeqNat w = decodeX35 w from
    fun w h => by delta decodeSeqNat; generalize w / 67108864 % 64 = n at h; subst h; rfl) _ (wordX_major (by decide) (by decide) (by omega))).trans ?_
  refine ((show ∀ w, w / 2048 % 32 = 2 → decodeX35 w = chk (w / 65536 % 32 == 0 && w % 64 == 0) Cause.illfld (.ok (.gprobe (regHi w) (regX w))) from
    fun w h => by delta decodeX35; generalize w / 2048 % 32 = n at h; subst h; rfl) _ (wordX_fn (by decide) (by omega))).trans ?_
  simp (disch := first | decide | omega) only [wordX_fn, wordX_hi, wordX_mid, wordX_low, wordX_gd, wordX_six, wordX_pad, regHi_wordX,
    regMid_wordX, regX_wordX, imm6_wordX, gd_div, gd_mod, gd_div0, gd_mod0, gd_imm6, gd_reg, gd_reg0, zero_reg, ofNat_reg, six_div, six_mod, six_ofNat, chk, Nat.zero_mod, Nat.zero_div,
    Fin.val_zero, beq_self_eq_true, decide_true, Bool.and_self, Bool.and_true, Bool.true_and, if_true]

theorem RoundTrip.trap (n : BitVec 6) : Statement (.trap n) := by
  refine seq_ok (wordX 0x38 0 0 0 (n.toNat)) (j := .trap n) rfl rfl rfl (wordX_lt (by decide) (by decide) (by omega)) fun hwf => ?_
  refine ((show ∀ w, w / 67108864 % 64 = 56 → decodeSeqNat w = decodeX38 w from
    fun w h => by delta decodeSeqNat; generalize w / 67108864 % 64 = n at h; subst h; rfl) _ (wordX_major (by decide) (by decide) (by omega))).trans ?_
  refine ((show ∀ w, w / 2048 % 32 = 0 → decodeX38 w = chk (w / 2097152 % 32 == 0 && w / 65536 % 32 == 0 && w / 64 % 32 == 0) Cause.illfld (.ok (.trap (imm6 w))) from
    fun w h => by delta decodeX38; generalize w / 2048 % 32 = n at h; subst h; rfl) _ (wordX_fn (by decide) (by omega))).trans ?_
  simp (disch := first | decide | omega) only [wordX_fn, wordX_hi, wordX_mid, wordX_low, wordX_gd, wordX_six, wordX_pad, regHi_wordX,
    regMid_wordX, regX_wordX, imm6_wordX, gd_div, gd_mod, gd_div0, gd_mod0, gd_imm6, gd_reg, gd_reg0, zero_reg, ofNat_reg, six_div, six_mod, six_ofNat, chk, Nat.zero_mod, Nat.zero_div,
    Fin.val_zero, beq_self_eq_true, decide_true, Bool.and_self, Bool.and_true, Bool.true_and, if_true]

theorem RoundTrip.rett : Statement .rett := by
  refine seq_ok (wordX 0x38 0 0 1 0) (j := .rett) rfl rfl rfl (wordX_lt (by decide) (by decide) (by decide)) fun hwf => ?_
  refine ((show ∀ w, w / 67108864 % 64 = 56 → decodeSeqNat w = decodeX38 w from
    fun w h => by delta decodeSeqNat; generalize w / 67108864 % 64 = n at h; subst h; rfl) _ (wordX_major (by decide) (by decide) (by decide))).trans ?_
  refine ((show ∀ w, w / 2048 % 32 = 1 → decodeX38 w = chk (w / 2097152 % 32 == 0 && w / 65536 % 32 == 0 && w / 64 % 32 == 0 && w % 64 == 0) Cause.illfld (.ok .rett) from
    fun w h => by delta decodeX38; generalize w / 2048 % 32 = n at h; subst h; rfl) _ (wordX_fn (by decide) (by decide))).trans ?_
  simp (disch := first | decide | omega) only [wordX_fn, wordX_hi, wordX_mid, wordX_low, wordX_gd, wordX_six, wordX_pad, regHi_wordX,
    regMid_wordX, regX_wordX, imm6_wordX, gd_div, gd_mod, gd_div0, gd_mod0, gd_imm6, gd_reg, gd_reg0, zero_reg, ofNat_reg, six_div, six_mod, six_ofNat, chk, Nat.zero_mod, Nat.zero_div,
    Fin.val_zero, beq_self_eq_true, decide_true, Bool.and_self, Bool.and_true, Bool.true_and, if_true]

theorem RoundTrip.crd (a d : Reg) (n : BitVec 6) : Statement (.crd a d n) := by
  refine seq_ok (wordX 0x38 a 0 2 (d.val * 64 + n.toNat)) (j := .crd a d n) rfl rfl rfl (wordX_lt (by decide) (by decide) (by omega)) fun hwf => ?_
  refine ((show ∀ w, w / 67108864 % 64 = 56 → decodeSeqNat w = decodeX38 w from
    fun w h => by delta decodeSeqNat; generalize w / 67108864 % 64 = n at h; subst h; rfl) _ (wordX_major (by decide) (by decide) (by omega))).trans ?_
  refine ((show ∀ w, w / 2048 % 32 = 2 → decodeX38 w = chk (w / 65536 % 32 == 0) Cause.illfld (.ok (.crd (regHi w) (regX w) (imm6 w))) from
    fun w h => by delta decodeX38; generalize w / 2048 % 32 = n at h; subst h; rfl) _ (wordX_fn (by decide) (by omega))).trans ?_
  simp (disch := first | decide | omega) only [wordX_fn, wordX_hi, wordX_mid, wordX_low, wordX_gd, wordX_six, wordX_pad, regHi_wordX,
    regMid_wordX, regX_wordX, imm6_wordX, gd_div, gd_mod, gd_div0, gd_mod0, gd_imm6, gd_reg, gd_reg0, zero_reg, ofNat_reg, six_div, six_mod, six_ofNat, chk, Nat.zero_mod, Nat.zero_div,
    Fin.val_zero, beq_self_eq_true, decide_true, Bool.and_self, Bool.and_true, Bool.true_and, if_true]

theorem RoundTrip.cwr (a b : Reg) (n : BitVec 6) : Statement (.cwr a b n) := by
  refine seq_ok (wordX 0x38 a b 3 (n.toNat)) (j := .cwr a b n) rfl rfl rfl (wordX_lt (by decide) (by decide) (by omega)) fun hwf => ?_
  refine ((show ∀ w, w / 67108864 % 64 = 56 → decodeSeqNat w = decodeX38 w from
    fun w h => by delta decodeSeqNat; generalize w / 67108864 % 64 = n at h; subst h; rfl) _ (wordX_major (by decide) (by decide) (by omega))).trans ?_
  refine ((show ∀ w, w / 2048 % 32 = 3 → decodeX38 w = chk (w / 64 % 32 == 0) Cause.illfld (.ok (.cwr (regHi w) (regMid w) (imm6 w))) from
    fun w h => by delta decodeX38; generalize w / 2048 % 32 = n at h; subst h; rfl) _ (wordX_fn (by decide) (by omega))).trans ?_
  simp (disch := first | decide | omega) only [wordX_fn, wordX_hi, wordX_mid, wordX_low, wordX_gd, wordX_six, wordX_pad, regHi_wordX,
    regMid_wordX, regX_wordX, imm6_wordX, gd_div, gd_mod, gd_div0, gd_mod0, gd_imm6, gd_reg, gd_reg0, zero_reg, ofNat_reg, six_div, six_mod, six_ofNat, chk, Nat.zero_mod, Nat.zero_div,
    Fin.val_zero, beq_self_eq_true, decide_true, Bool.and_self, Bool.and_true, Bool.true_and, if_true]

theorem RoundTrip.wpt (a b : Reg) (w : BitVec 6) : Statement (.wpt a b w) := by
  refine seq_ok (wordX 0x38 a b 4 (w.toNat)) (j := .wpt a b w) rfl rfl rfl (wordX_lt (by decide) (by decide) (by omega)) fun hwf => ?_
  refine ((show ∀ w, w / 67108864 % 64 = 56 → decodeSeqNat w = decodeX38 w from
    fun w h => by delta decodeSeqNat; generalize w / 67108864 % 64 = n at h; subst h; rfl) _ (wordX_major (by decide) (by decide) (by omega))).trans ?_
  refine ((show ∀ w, w / 2048 % 32 = 4 → decodeX38 w = chk (w / 64 % 32 == 0 && decide (w % 64 ≤ 7)) Cause.illfld (.ok (.wpt (regHi w) (regMid w) (imm6 w))) from
    fun w h => by delta decodeX38; generalize w / 2048 % 32 = n at h; subst h; rfl) _ (wordX_fn (by decide) (by omega))).trans ?_
  have hw : w.toNat ≤ 7 := by have h : (decide (w.toNat ≤ 7)) = true := hwf; simpa using h
  simp (disch := first | decide | omega) only [wordX_fn, wordX_hi, wordX_mid, wordX_low, wordX_gd, wordX_six, wordX_pad, regHi_wordX,
    regMid_wordX, regX_wordX, imm6_wordX, gd_div, gd_mod, gd_div0, gd_mod0, gd_imm6, gd_reg, gd_reg0, zero_reg, ofNat_reg, six_div, six_mod, six_ofNat, hw, chk, Nat.zero_mod, Nat.zero_div,
    Fin.val_zero, beq_self_eq_true, decide_true, Bool.and_self, Bool.and_true, Bool.true_and, if_true]

theorem RoundTrip.halt : Statement .halt := by
  refine seq_ok (wordX 0x38 0 0 5 0) (j := .halt) rfl rfl rfl (wordX_lt (by decide) (by decide) (by decide)) fun hwf => ?_
  refine ((show ∀ w, w / 67108864 % 64 = 56 → decodeSeqNat w = decodeX38 w from
    fun w h => by delta decodeSeqNat; generalize w / 67108864 % 64 = n at h; subst h; rfl) _ (wordX_major (by decide) (by decide) (by decide))).trans ?_
  refine ((show ∀ w, w / 2048 % 32 = 5 → decodeX38 w = chk (w / 2097152 % 32 == 0 && w / 65536 % 32 == 0 && w / 64 % 32 == 0 && w % 64 == 0) Cause.illfld (.ok .halt) from
    fun w h => by delta decodeX38; generalize w / 2048 % 32 = n at h; subst h; rfl) _ (wordX_fn (by decide) (by decide))).trans ?_
  simp (disch := first | decide | omega) only [wordX_fn, wordX_hi, wordX_mid, wordX_low, wordX_gd, wordX_six, wordX_pad, regHi_wordX,
    regMid_wordX, regX_wordX, imm6_wordX, gd_div, gd_mod, gd_div0, gd_mod0, gd_imm6, gd_reg, gd_reg0, zero_reg, ofNat_reg, six_div, six_mod, six_ofNat, chk, Nat.zero_mod, Nat.zero_div,
    Fin.val_zero, beq_self_eq_true, decide_true, Bool.and_self, Bool.and_true, Bool.true_and, if_true]

theorem RoundTrip.nop : Statement .nop := by
  refine seq_ok (wordX 0x38 0 0 6 0) (j := .nop) rfl rfl rfl (wordX_lt (by decide) (by decide) (by decide)) fun hwf => ?_
  refine ((show ∀ w, w / 67108864 % 64 = 56 → decodeSeqNat w = decodeX38 w from
    fun w h => by delta decodeSeqNat; generalize w / 67108864 % 64 = n at h; subst h; rfl) _ (wordX_major (by decide) (by decide) (by decide))).trans ?_
  refine ((show ∀ w, w / 2048 % 32 = 6 → decodeX38 w = chk (w / 2097152 % 32 == 0 && w / 65536 % 32 == 0 && w / 64 % 32 == 0 && w % 64 == 0) Cause.illfld (.ok .nop) from
    fun w h => by delta decodeX38; generalize w / 2048 % 32 = n at h; subst h; rfl) _ (wordX_fn (by decide) (by decide))).trans ?_
  simp (disch := first | decide | omega) only [wordX_fn, wordX_hi, wordX_mid, wordX_low, wordX_gd, wordX_six, wordX_pad, regHi_wordX,
    regMid_wordX, regX_wordX, imm6_wordX, gd_div, gd_mod, gd_div0, gd_mod0, gd_imm6, gd_reg, gd_reg0, zero_reg, ofNat_reg, six_div, six_mod, six_ofNat, chk, Nat.zero_mod, Nat.zero_div,
    Fin.val_zero, beq_self_eq_true, decide_true, Bool.and_self, Bool.and_true, Bool.true_and, if_true]

theorem RoundTrip.time (d : Reg) : Statement (.time d) := by
  refine seq_ok (wordX 0x38 0 0 7 (d.val * 64)) (j := .time d) rfl rfl rfl (wordX_lt (by decide) (by decide) (by omega)) fun hwf => ?_
  refine ((show ∀ w, w / 67108864 % 64 = 56 → decodeSeqNat w = decodeX38 w from
    fun w h => by delta decodeSeqNat; generalize w / 67108864 % 64 = n at h; subst h; rfl) _ (wordX_major (by decide) (by decide) (by omega))).trans ?_
  refine ((show ∀ w, w / 2048 % 32 = 7 → decodeX38 w = chk (w / 2097152 % 32 == 0 && w / 65536 % 32 == 0 && w % 64 == 0) Cause.illfld (.ok (.time (regX w))) from
    fun w h => by delta decodeX38; generalize w / 2048 % 32 = n at h; subst h; rfl) _ (wordX_fn (by decide) (by omega))).trans ?_
  simp (disch := first | decide | omega) only [wordX_fn, wordX_hi, wordX_mid, wordX_low, wordX_gd, wordX_six, wordX_pad, regHi_wordX,
    regMid_wordX, regX_wordX, imm6_wordX, gd_div, gd_mod, gd_div0, gd_mod0, gd_imm6, gd_reg, gd_reg0, zero_reg, ofNat_reg, six_div, six_mod, six_ofNat, chk, Nat.zero_mod, Nat.zero_div,
    Fin.val_zero, beq_self_eq_true, decide_true, Bool.and_self, Bool.and_true, Bool.true_and, if_true]

theorem RoundTrip.evrd (d : Reg) (c : Bool) (k : BitVec 3) : Statement (.evrd d c k) := by
  refine seq_ok (wordX 0x38 0 0 8 (d.val * 64 + c.toNat * 8 + k.toNat)) (j := .evrd d c k) rfl rfl rfl (wordX_lt (by decide) (by decide) (by have := clear_lt c; omega)) fun hwf => ?_
  refine ((show ∀ w, w / 67108864 % 64 = 56 → decodeSeqNat w = decodeX38 w from
    fun w h => by delta decodeSeqNat; generalize w / 67108864 % 64 = n at h; subst h; rfl) _ (wordX_major (by decide) (by decide) (by have := clear_lt c; omega))).trans ?_
  refine ((show ∀ w, w / 2048 % 32 = 8 → decodeX38 w = chk (w / 2097152 % 32 == 0 && w / 65536 % 32 == 0 && w / 16 % 4 == 0) Cause.illfld
      (.ok (.evrd (regX w) (w / 8 % 2 == 1) (BitVec.ofNat 3 w))) from
    fun w h => by delta decodeX38; generalize w / 2048 % 32 = n at h; subst h; rfl) _ (wordX_fn (by decide) (by have := clear_lt c; omega))).trans ?_
  exact evrd_ok

theorem RoundTrip.iadd (m : IMod) : Statement (.iadd m ta tb) := by
  refine elem_ok (wordE 0x01 (imodCode m) ta tb) rfl rfl (wordE_lt (by decide) (imod_lt m)) fun hwf => ?_
  exact elemI m ((show ∀ w, w / 16777216 % 256 = 1 → decodeElemNat w = decodeEI .iadd w from
    fun w h => by delta decodeElemNat; generalize w / 16777216 % 256 = n at h; subst h; rfl) _ (wordE_op (by decide) (imod_lt m)))

theorem RoundTrip.isub (m : IMod) : Statement (.isub m ta tb) := by
  refine elem_ok (wordE 0x02 (imodCode m) ta tb) rfl rfl (wordE_lt (by decide) (imod_lt m)) fun hwf => ?_
  exact elemI m ((show ∀ w, w / 16777216 % 256 = 2 → decodeElemNat w = decodeEI .isub w from
    fun w h => by delta decodeElemNat; generalize w / 16777216 % 256 = n at h; subst h; rfl) _ (wordE_op (by decide) (imod_lt m)))

theorem RoundTrip.iadds (m : IMod) : Statement (.iadds m ta tb) := by
  refine elem_ok (wordE 0x03 (imodCode m) ta tb) rfl rfl (wordE_lt (by decide) (imod_lt m)) fun hwf => ?_
  exact elemI m ((show ∀ w, w / 16777216 % 256 = 3 → decodeElemNat w = decodeEI .iadds w from
    fun w h => by delta decodeElemNat; generalize w / 16777216 % 256 = n at h; subst h; rfl) _ (wordE_op (by decide) (imod_lt m)))

theorem RoundTrip.isubs (m : IMod) : Statement (.isubs m ta tb) := by
  refine elem_ok (wordE 0x04 (imodCode m) ta tb) rfl rfl (wordE_lt (by decide) (imod_lt m)) fun hwf => ?_
  exact elemI m ((show ∀ w, w / 16777216 % 256 = 4 → decodeElemNat w = decodeEI .isubs w from
    fun w h => by delta decodeElemNat; generalize w / 16777216 % 256 = n at h; subst h; rfl) _ (wordE_op (by decide) (imod_lt m)))

theorem RoundTrip.imul (m : IMod) : Statement (.imul m ta tb) := by
  refine elem_ok (wordE 0x05 (imodCode m) ta tb) rfl rfl (wordE_lt (by decide) (imod_lt m)) fun hwf => ?_
  exact elemI m ((show ∀ w, w / 16777216 % 256 = 5 → decodeElemNat w = decodeEI .imul w from
    fun w h => by delta decodeElemNat; generalize w / 16777216 % 256 = n at h; subst h; rfl) _ (wordE_op (by decide) (imod_lt m)))

theorem RoundTrip.imulh (m : IMod) : Statement (.imulh m ta tb) := by
  refine elem_ok (wordE 0x06 (imodCode m) ta tb) rfl rfl (wordE_lt (by decide) (imod_lt m)) fun hwf => ?_
  exact elemI m ((show ∀ w, w / 16777216 % 256 = 6 → decodeElemNat w = decodeEI .imulh w from
    fun w h => by delta decodeElemNat; generalize w / 16777216 % 256 = n at h; subst h; rfl) _ (wordE_op (by decide) (imod_lt m)))

theorem RoundTrip.imin (m : IMod) : Statement (.imin m ta tb) := by
  refine elem_ok (wordE 0x07 (imodCode m) ta tb) rfl rfl (wordE_lt (by decide) (imod_lt m)) fun hwf => ?_
  exact elemI m ((show ∀ w, w / 16777216 % 256 = 7 → decodeElemNat w = decodeEI .imin w from
    fun w h => by delta decodeElemNat; generalize w / 16777216 % 256 = n at h; subst h; rfl) _ (wordE_op (by decide) (imod_lt m)))

theorem RoundTrip.imax (m : IMod) : Statement (.imax m ta tb) := by
  refine elem_ok (wordE 0x08 (imodCode m) ta tb) rfl rfl (wordE_lt (by decide) (imod_lt m)) fun hwf => ?_
  exact elemI m ((show ∀ w, w / 16777216 % 256 = 8 → decodeElemNat w = decodeEI .imax w from
    fun w h => by delta decodeElemNat; generalize w / 16777216 % 256 = n at h; subst h; rfl) _ (wordE_op (by decide) (imod_lt m)))

theorem RoundTrip.iand (m : IMod) : Statement (.iand m ta tb) := by
  refine elem_ok (wordE 0x09 (imodCode m) ta tb) rfl rfl (wordE_lt (by decide) (imod_lt m)) fun hwf => ?_
  exact elemI m ((show ∀ w, w / 16777216 % 256 = 9 → decodeElemNat w = decodeEI .iand w from
    fun w h => by delta decodeElemNat; generalize w / 16777216 % 256 = n at h; subst h; rfl) _ (wordE_op (by decide) (imod_lt m)))

theorem RoundTrip.ior (m : IMod) : Statement (.ior m ta tb) := by
  refine elem_ok (wordE 0x0A (imodCode m) ta tb) rfl rfl (wordE_lt (by decide) (imod_lt m)) fun hwf => ?_
  exact elemI m ((show ∀ w, w / 16777216 % 256 = 10 → decodeElemNat w = decodeEI .ior w from
    fun w h => by delta decodeElemNat; generalize w / 16777216 % 256 = n at h; subst h; rfl) _ (wordE_op (by decide) (imod_lt m)))

theorem RoundTrip.ixor (m : IMod) : Statement (.ixor m ta tb) := by
  refine elem_ok (wordE 0x0B (imodCode m) ta tb) rfl rfl (wordE_lt (by decide) (imod_lt m)) fun hwf => ?_
  exact elemI m ((show ∀ w, w / 16777216 % 256 = 11 → decodeElemNat w = decodeEI .ixor w from
    fun w h => by delta decodeElemNat; generalize w / 16777216 % 256 = n at h; subst h; rfl) _ (wordE_op (by decide) (imod_lt m)))

theorem RoundTrip.iandn (m : IMod) : Statement (.iandn m ta tb) := by
  refine elem_ok (wordE 0x0C (imodCode m) ta tb) rfl rfl (wordE_lt (by decide) (imod_lt m)) fun hwf => ?_
  exact elemI m ((show ∀ w, w / 16777216 % 256 = 12 → decodeElemNat w = decodeEI .iandn w from
    fun w h => by delta decodeElemNat; generalize w / 16777216 % 256 = n at h; subst h; rfl) _ (wordE_op (by decide) (imod_lt m)))

theorem RoundTrip.ishl (m : IMod) : Statement (.ishl m ta tb) := by
  refine elem_ok (wordE 0x0D (imodCode m) ta tb) rfl rfl (wordE_lt (by decide) (imod_lt m)) fun hwf => ?_
  exact elemI m ((show ∀ w, w / 16777216 % 256 = 13 → decodeElemNat w = decodeEI .ishl w from
    fun w h => by delta decodeElemNat; generalize w / 16777216 % 256 = n at h; subst h; rfl) _ (wordE_op (by decide) (imod_lt m)))

theorem RoundTrip.ishr (m : IMod) : Statement (.ishr m ta tb) := by
  refine elem_ok (wordE 0x0E (imodCode m) ta tb) rfl rfl (wordE_lt (by decide) (imod_lt m)) fun hwf => ?_
  exact elemI m ((show ∀ w, w / 16777216 % 256 = 14 → decodeElemNat w = decodeEI .ishr w from
    fun w h => by delta decodeElemNat; generalize w / 16777216 % 256 = n at h; subst h; rfl) _ (wordE_op (by decide) (imod_lt m)))

theorem RoundTrip.isar (m : IMod) : Statement (.isar m ta tb) := by
  refine elem_ok (wordE 0x0F (imodCode m) ta tb) rfl rfl (wordE_lt (by decide) (imod_lt m)) fun hwf => ?_
  exact elemI m ((show ∀ w, w / 16777216 % 256 = 15 → decodeElemNat w = decodeEI .isar w from
    fun w h => by delta decodeElemNat; generalize w / 16777216 % 256 = n at h; subst h; rfl) _ (wordE_op (by decide) (imod_lt m)))

theorem RoundTrip.iabs (m : IMod) : Statement (.iabs m ta tb) := by
  refine elem_ok (wordE 0x10 (imodCode m) ta tb) rfl rfl (wordE_lt (by decide) (imod_lt m)) fun hwf => ?_
  exact elemI m ((show ∀ w, w / 16777216 % 256 = 16 → decodeElemNat w = decodeEI .iabs w from
    fun w h => by delta decodeElemNat; generalize w / 16777216 % 256 = n at h; subst h; rfl) _ (wordE_op (by decide) (imod_lt m)))

theorem RoundTrip.ineg (m : IMod) : Statement (.ineg m ta tb) := by
  refine elem_ok (wordE 0x11 (imodCode m) ta tb) rfl rfl (wordE_lt (by decide) (imod_lt m)) fun hwf => ?_
  exact elemI m ((show ∀ w, w / 16777216 % 256 = 17 → decodeElemNat w = decodeEI .ineg w from
    fun w h => by delta decodeElemNat; generalize w / 16777216 % 256 = n at h; subst h; rfl) _ (wordE_op (by decide) (imod_lt m)))

theorem RoundTrip.icmp (m : IMod) : Statement (.icmp m ta tb) := by
  refine elem_ok (wordE 0x12 (imodCode m) ta tb) rfl rfl (wordE_lt (by decide) (imod_lt m)) fun hwf => ?_
  exact elemI m ((show ∀ w, w / 16777216 % 256 = 18 → decodeElemNat w = decodeEI .icmp w from
    fun w h => by delta decodeElemNat; generalize w / 16777216 % 256 = n at h; subst h; rfl) _ (wordE_op (by decide) (imod_lt m)))

theorem RoundTrip.isel (m : IMod) : Statement (.isel m ta tb) := by
  refine elem_ok (wordE 0x13 (imodCode m) ta tb) rfl rfl (wordE_lt (by decide) (imod_lt m)) fun hwf => ?_
  exact elemI m ((show ∀ w, w / 16777216 % 256 = 19 → decodeElemNat w = decodeEI .isel w from
    fun w h => by delta decodeElemNat; generalize w / 16777216 % 256 = n at h; subst h; rfl) _ (wordE_op (by decide) (imod_lt m)))

theorem RoundTrip.fadd (m : FMod) : Statement (.fadd m ta tb) := by
  refine elem_ok (wordE 0x20 (fmodCode m) ta tb) rfl rfl (wordE_lt (by decide) (fmod_lt m)) fun hwf => ?_
  exact elemF m ((show ∀ w, w / 16777216 % 256 = 32 → decodeElemNat w = decodeEF .fadd w from
    fun w h => by delta decodeElemNat; generalize w / 16777216 % 256 = n at h; subst h; rfl) _ (wordE_op (by decide) (fmod_lt m)))

theorem RoundTrip.fsub (m : FMod) : Statement (.fsub m ta tb) := by
  refine elem_ok (wordE 0x21 (fmodCode m) ta tb) rfl rfl (wordE_lt (by decide) (fmod_lt m)) fun hwf => ?_
  exact elemF m ((show ∀ w, w / 16777216 % 256 = 33 → decodeElemNat w = decodeEF .fsub w from
    fun w h => by delta decodeElemNat; generalize w / 16777216 % 256 = n at h; subst h; rfl) _ (wordE_op (by decide) (fmod_lt m)))

theorem RoundTrip.fmul (m : FMod) : Statement (.fmul m ta tb) := by
  refine elem_ok (wordE 0x22 (fmodCode m) ta tb) rfl rfl (wordE_lt (by decide) (fmod_lt m)) fun hwf => ?_
  exact elemF m ((show ∀ w, w / 16777216 % 256 = 34 → decodeElemNat w = decodeEF .fmul w from
    fun w h => by delta decodeElemNat; generalize w / 16777216 % 256 = n at h; subst h; rfl) _ (wordE_op (by decide) (fmod_lt m)))

theorem RoundTrip.fmac (m : FMod) : Statement (.fmac m ta tb) := by
  refine elem_ok (wordE 0x23 (fmodCode m) ta tb) rfl rfl (wordE_lt (by decide) (fmod_lt m)) fun hwf => ?_
  exact elemF m ((show ∀ w, w / 16777216 % 256 = 35 → decodeElemNat w = decodeEF .fmac w from
    fun w h => by delta decodeElemNat; generalize w / 16777216 % 256 = n at h; subst h; rfl) _ (wordE_op (by decide) (fmod_lt m)))

theorem RoundTrip.fmin (m : FMod) : Statement (.fmin m ta tb) := by
  refine elem_ok (wordE 0x24 (fmodCode m) ta tb) rfl rfl (wordE_lt (by decide) (fmod_lt m)) fun hwf => ?_
  exact elemF m ((show ∀ w, w / 16777216 % 256 = 36 → decodeElemNat w = decodeEF .fmin w from
    fun w h => by delta decodeElemNat; generalize w / 16777216 % 256 = n at h; subst h; rfl) _ (wordE_op (by decide) (fmod_lt m)))

theorem RoundTrip.fmax (m : FMod) : Statement (.fmax m ta tb) := by
  refine elem_ok (wordE 0x25 (fmodCode m) ta tb) rfl rfl (wordE_lt (by decide) (fmod_lt m)) fun hwf => ?_
  exact elemF m ((show ∀ w, w / 16777216 % 256 = 37 → decodeElemNat w = decodeEF .fmax w from
    fun w h => by delta decodeElemNat; generalize w / 16777216 % 256 = n at h; subst h; rfl) _ (wordE_op (by decide) (fmod_lt m)))

theorem RoundTrip.fcmp (m : FMod) : Statement (.fcmp m ta tb) := by
  refine elem_ok (wordE 0x26 (fmodCode m) ta tb) rfl rfl (wordE_lt (by decide) (fmod_lt m)) fun hwf => ?_
  exact elemF m ((show ∀ w, w / 16777216 % 256 = 38 → decodeElemNat w = decodeEF .fcmp w from
    fun w h => by delta decodeElemNat; generalize w / 16777216 % 256 = n at h; subst h; rfl) _ (wordE_op (by decide) (fmod_lt m)))

theorem RoundTrip.fabs (m : FMod) : Statement (.fabs m ta tb) := by
  refine elem_ok (wordE 0x27 (fmodCode m) ta tb) rfl rfl (wordE_lt (by decide) (fmod_lt m)) fun hwf => ?_
  exact elemF m ((show ∀ w, w / 16777216 % 256 = 39 → decodeElemNat w = decodeEF .fabs w from
    fun w h => by delta decodeElemNat; generalize w / 16777216 % 256 = n at h; subst h; rfl) _ (wordE_op (by decide) (fmod_lt m)))

theorem RoundTrip.fneg (m : FMod) : Statement (.fneg m ta tb) := by
  refine elem_ok (wordE 0x28 (fmodCode m) ta tb) rfl rfl (wordE_lt (by decide) (fmod_lt m)) fun hwf => ?_
  exact elemF m ((show ∀ w, w / 16777216 % 256 = 40 → decodeElemNat w = decodeEF .fneg w from
    fun w h => by delta decodeElemNat; generalize w / 16777216 % 256 = n at h; subst h; rfl) _ (wordE_op (by decide) (fmod_lt m)))

theorem RoundTrip.frcp (m : FMod) : Statement (.frcp m ta tb) := by
  refine elem_ok (wordE 0x29 (fmodCode m) ta tb) rfl rfl (wordE_lt (by decide) (fmod_lt m)) fun hwf => ?_
  exact elemF m ((show ∀ w, w / 16777216 % 256 = 41 → decodeElemNat w = decodeEF .frcp w from
    fun w h => by delta decodeElemNat; generalize w / 16777216 % 256 = n at h; subst h; rfl) _ (wordE_op (by decide) (fmod_lt m)))

theorem RoundTrip.frsq (m : FMod) : Statement (.frsq m ta tb) := by
  refine elem_ok (wordE 0x2A (fmodCode m) ta tb) rfl rfl (wordE_lt (by decide) (fmod_lt m)) fun hwf => ?_
  exact elemF m ((show ∀ w, w / 16777216 % 256 = 42 → decodeElemNat w = decodeEF .frsq w from
    fun w h => by delta decodeElemNat; generalize w / 16777216 % 256 = n at h; subst h; rfl) _ (wordE_op (by decide) (fmod_lt m)))

theorem RoundTrip.fsqrt (m : FMod) : Statement (.fsqrt m ta tb) := by
  refine elem_ok (wordE 0x2B (fmodCode m) ta tb) rfl rfl (wordE_lt (by decide) (fmod_lt m)) fun hwf => ?_
  exact elemF m ((show ∀ w, w / 16777216 % 256 = 43 → decodeElemNat w = decodeEF .fsqrt w from
    fun w h => by delta decodeElemNat; generalize w / 16777216 % 256 = n at h; subst h; rfl) _ (wordE_op (by decide) (fmod_lt m)))

theorem RoundTrip.fexp2 (m : FMod) : Statement (.fexp2 m ta tb) := by
  refine elem_ok (wordE 0x2C (fmodCode m) ta tb) rfl rfl (wordE_lt (by decide) (fmod_lt m)) fun hwf => ?_
  exact elemF m ((show ∀ w, w / 16777216 % 256 = 44 → decodeElemNat w = decodeEF .fexp2 w from
    fun w h => by delta decodeElemNat; generalize w / 16777216 % 256 = n at h; subst h; rfl) _ (wordE_op (by decide) (fmod_lt m)))

theorem RoundTrip.flog2 (m : FMod) : Statement (.flog2 m ta tb) := by
  refine elem_ok (wordE 0x2D (fmodCode m) ta tb) rfl rfl (wordE_lt (by decide) (fmod_lt m)) fun hwf => ?_
  exact elemF m ((show ∀ w, w / 16777216 % 256 = 45 → decodeElemNat w = decodeEF .flog2 w from
    fun w h => by delta decodeElemNat; generalize w / 16777216 % 256 = n at h; subst h; rfl) _ (wordE_op (by decide) (fmod_lt m)))

theorem RoundTrip.fresc (m : FMod) : Statement (.fresc m ta tb) := by
  refine elem_ok (wordE 0x2E (fmodCode m) ta tb) rfl rfl (wordE_lt (by decide) (fmod_lt m)) fun hwf => ?_
  exact elemF m ((show ∀ w, w / 16777216 % 256 = 46 → decodeElemNat w = decodeEF .fresc w from
    fun w h => by delta decodeElemNat; generalize w / 16777216 % 256 = n at h; subst h; rfl) _ (wordE_op (by decide) (fmod_lt m)))

theorem RoundTrip.cvt (sat : Bool) (rm : RMode) : Statement (.cvt sat rm ta tb) := by
  refine elem_ok (wordE 0x30 (sat.toNat * 8 + rmodeCode rm) ta tb) rfl rfl (wordE_lt (by decide) (conv_lt sat rm)) fun hwf => ?_
  exact elemC (conv_rm sat rm) (conv_sat sat rm) ((show ∀ w, w / 16777216 % 256 = 48 → decodeElemNat w = decodeEC .cvt w from
    fun w h => by delta decodeElemNat; generalize w / 16777216 % 256 = n at h; subst h; rfl) _ (wordE_op (by decide) (conv_lt sat rm)))

theorem RoundTrip.quant (sat : Bool) (rm : RMode) : Statement (.quant sat rm ta tb) := by
  refine elem_ok (wordE 0x31 (sat.toNat * 8 + rmodeCode rm) ta tb) rfl rfl (wordE_lt (by decide) (conv_lt sat rm)) fun hwf => ?_
  exact elemC (conv_rm sat rm) (conv_sat sat rm) ((show ∀ w, w / 16777216 % 256 = 49 → decodeElemNat w = decodeEC .quant w from
    fun w h => by delta decodeElemNat; generalize w / 16777216 % 256 = n at h; subst h; rfl) _ (wordE_op (by decide) (conv_lt sat rm)))

theorem RoundTrip.deq (sat : Bool) (rm : RMode) : Statement (.deq sat rm ta tb) := by
  refine elem_ok (wordE 0x32 (sat.toNat * 8 + rmodeCode rm) ta tb) rfl rfl (wordE_lt (by decide) (conv_lt sat rm)) fun hwf => ?_
  exact elemC (conv_rm sat rm) (conv_sat sat rm) ((show ∀ w, w / 16777216 % 256 = 50 → decodeElemNat w = decodeEC .deq w from
    fun w h => by delta decodeElemNat; generalize w / 16777216 % 256 = n at h; subst h; rfl) _ (wordE_op (by decide) (conv_lt sat rm)))

theorem RoundTrip.pack : Statement (.pack ta tb) := by
  refine elem_ok (wordE 0x33 0 ta tb) rfl rfl (wordE_lt (by decide) (by decide)) fun hwf => ?_
  exact elemZ ((show ∀ w, w / 16777216 % 256 = 51 → decodeElemNat w = decodeE0 .pack w from
    fun w h => by delta decodeElemNat; generalize w / 16777216 % 256 = n at h; subst h; rfl) _ (wordE_op (by decide) (by decide)))

theorem RoundTrip.unpack : Statement (.unpack ta tb) := by
  refine elem_ok (wordE 0x34 0 ta tb) rfl rfl (wordE_lt (by decide) (by decide)) fun hwf => ?_
  exact elemZ ((show ∀ w, w / 16777216 % 256 = 52 → decodeElemNat w = decodeE0 .unpack w from
    fun w h => by delta decodeElemNat; generalize w / 16777216 % 256 = n at h; subst h; rfl) _ (wordE_op (by decide) (by decide)))

theorem RoundTrip.tunp : Statement (.tunp ta tb) := by
  refine elem_ok (wordE 0x35 0 ta tb) rfl rfl (wordE_lt (by decide) (by decide)) fun hwf => ?_
  exact elemZ ((show ∀ w, w / 16777216 % 256 = 53 → decodeElemNat w = decodeE0 .tunp w from
    fun w h => by delta decodeElemNat; generalize w / 16777216 % 256 = n at h; subst h; rfl) _ (wordE_op (by decide) (by decide)))

theorem RoundTrip.lsum (m : LMod) : Statement (.lsum m ta tb) := by
  refine elem_ok (wordE 0x40 (lmodCode m) ta tb) rfl rfl (wordE_lt (by decide) (lmod_lt m)) fun hwf => ?_
  exact elemL m ((show ∀ w, w / 16777216 % 256 = 64 → decodeElemNat w = decodeEL .lsum w from
    fun w h => by delta decodeElemNat; generalize w / 16777216 % 256 = n at h; subst h; rfl) _ (wordE_op (by decide) (lmod_lt m)))

theorem RoundTrip.lmax (m : LMod) : Statement (.lmax m ta tb) := by
  refine elem_ok (wordE 0x41 (lmodCode m) ta tb) rfl rfl (wordE_lt (by decide) (lmod_lt m)) fun hwf => ?_
  exact elemL m ((show ∀ w, w / 16777216 % 256 = 65 → decodeElemNat w = decodeEL .lmax w from
    fun w h => by delta decodeElemNat; generalize w / 16777216 % 256 = n at h; subst h; rfl) _ (wordE_op (by decide) (lmod_lt m)))

theorem RoundTrip.lmin (m : LMod) : Statement (.lmin m ta tb) := by
  refine elem_ok (wordE 0x42 (lmodCode m) ta tb) rfl rfl (wordE_lt (by decide) (lmod_lt m)) fun hwf => ?_
  exact elemL m ((show ∀ w, w / 16777216 % 256 = 66 → decodeElemNat w = decodeEL .lmin w from
    fun w h => by delta decodeElemNat; generalize w / 16777216 % 256 = n at h; subst h; rfl) _ (wordE_op (by decide) (lmod_lt m)))

theorem RoundTrip.lshuf (m : LMod) : Statement (.lshuf m ta tb) := by
  refine elem_ok (wordE 0x43 (lmodCode m) ta tb) rfl rfl (wordE_lt (by decide) (lmod_lt m)) fun hwf => ?_
  exact elemL m ((show ∀ w, w / 16777216 % 256 = 67 → decodeElemNat w = decodeEL .lshuf w from
    fun w h => by delta decodeElemNat; generalize w / 16777216 % 256 = n at h; subst h; rfl) _ (wordE_op (by decide) (lmod_lt m)))

theorem RoundTrip.lbcast (m : LMod) : Statement (.lbcast m ta tb) := by
  refine elem_ok (wordE 0x44 (lmodCode m) ta tb) rfl rfl (wordE_lt (by decide) (lmod_lt m)) fun hwf => ?_
  exact elemL m ((show ∀ w, w / 16777216 % 256 = 68 → decodeElemNat w = decodeEL .lbcast w from
    fun w h => by delta decodeElemNat; generalize w / 16777216 % 256 = n at h; subst h; rfl) _ (wordE_op (by decide) (lmod_lt m)))

theorem RoundTrip.lscan (m : LMod) : Statement (.lscan m ta tb) := by
  refine elem_ok (wordE 0x45 (lmodCode m) ta tb) rfl rfl (wordE_lt (by decide) (lmod_lt m)) fun hwf => ?_
  exact elemL m ((show ∀ w, w / 16777216 % 256 = 69 → decodeElemNat w = decodeEL .lscan w from
    fun w h => by delta decodeElemNat; generalize w / 16777216 % 256 = n at h; subst h; rfl) _ (wordE_op (by decide) (lmod_lt m)))

theorem RoundTrip.lcmpr (m : LMod) : Statement (.lcmpr m ta tb) := by
  refine elem_ok (wordE 0x46 (lmodCode m) ta tb) rfl rfl (wordE_lt (by decide) (lmod_lt m)) fun hwf => ?_
  exact elemL m ((show ∀ w, w / 16777216 % 256 = 70 → decodeElemNat w = decodeEL .lcmpr w from
    fun w h => by delta decodeElemNat; generalize w / 16777216 % 256 = n at h; subst h; rfl) _ (wordE_op (by decide) (lmod_lt m)))

theorem RoundTrip.winnow (m : LMod) : Statement (.winnow m ta tb) := by
  refine elem_ok (wordE 0x47 (lmodCode m) ta tb) rfl rfl (wordE_lt (by decide) (lmod_lt m)) fun hwf => ?_
  exact elemL m ((show ∀ w, w / 16777216 % 256 = 71 → decodeElemNat w = decodeEL .winnow w from
    fun w h => by delta decodeElemNat; generalize w / 16777216 % 256 = n at h; subst h; rfl) _ (wordE_op (by decide) (lmod_lt m)))

theorem RoundTrip.sjoin (m : LMod) : Statement (.sjoin m ta tb) := by
  refine elem_ok (wordE 0x50 (lmodCode m) ta tb) rfl rfl (wordE_lt (by decide) (lmod_lt m)) fun hwf => ?_
  exact elemL m ((show ∀ w, w / 16777216 % 256 = 80 → decodeElemNat w = decodeEL .sjoin w from
    fun w h => by delta decodeElemNat; generalize w / 16777216 % 256 = n at h; subst h; rfl) _ (wordE_op (by decide) (lmod_lt m)))

theorem RoundTrip.acc (m : LMod) : Statement (.acc m ta tb) := by
  refine elem_ok (wordE 0x51 (lmodCode m) ta tb) rfl rfl (wordE_lt (by decide) (lmod_lt m)) fun hwf => ?_
  exact elemL m ((show ∀ w, w / 16777216 % 256 = 81 → decodeElemNat w = decodeEL .acc w from
    fun w h => by delta decodeElemNat; generalize w / 16777216 % 256 = n at h; subst h; rfl) _ (wordE_op (by decide) (lmod_lt m)))

theorem RoundTrip.pass : Statement (.pass ta tb) := by
  refine elem_ok (wordE 0x52 0 ta tb) rfl rfl (wordE_lt (by decide) (by decide)) fun hwf => ?_
  exact elemZ ((show ∀ w, w / 16777216 % 256 = 82 → decodeElemNat w = decodeE0 .pass w from
    fun w h => by delta decodeElemNat; generalize w / 16777216 % 256 = n at h; subst h; rfl) _ (wordE_op (by decide) (by decide)))

theorem RoundTrip.const : Statement (.const ta tb) := by
  refine elem_ok (wordE 0x53 0 ta tb) rfl rfl (wordE_lt (by decide) (by decide)) fun hwf => ?_
  exact elemZ ((show ∀ w, w / 16777216 % 256 = 83 → decodeElemNat w = decodeE0 .const w from
    fun w h => by delta decodeElemNat; generalize w / 16777216 % 256 = n at h; subst h; rfl) _ (wordE_op (by decide) (by decide)))

theorem RoundTrip.iota (m : LMod) : Statement (.iota m ta tb) := by
  refine elem_ok (wordE 0x54 (lmodCode m) ta tb) rfl rfl (wordE_lt (by decide) (lmod_lt m)) fun hwf => ?_
  refine ((show ∀ w, w / 16777216 % 256 = 84 → decodeElemNat w =     match lmodOf (w / 1048576 % 16) with
    | none | some (.f .f8) => .error Cause.elemmod
    | some m => withTargets w (.iota m) from
    fun w h => by delta decodeElemNat; generalize w / 16777216 % 256 = n at h; subst h; rfl) _ (wordE_op (by decide) (lmod_lt m))).trans ?_
  rw [wordE_mod (lmod_lt m), lmod_code]
  obtain (m | m) := m <;> cases m <;> first | exact withTargets_wordE | exact Bool.noConfusion hwf

theorem RoundTrip.ldt (d : Dir) (inv : Bool) : Statement (.ldt d inv ta tb) := by
  refine elem_ok (wordE 0x60 (dirCode d * 4 + inv.toNat * 2) ta tb) rfl rfl (wordE_lt (by decide) (port_lt d inv)) fun hwf => ?_
  exact elemPI (port_lt d inv) (port_even d inv) (port_dir d inv) (port_inv d inv) ((show ∀ w, w / 16777216 % 256 = 96 → decodeElemNat w = decodeEPI .ldt w from
    fun w h => by delta decodeElemNat; generalize w / 16777216 % 256 = n at h; subst h; rfl) _ (wordE_op (by decide) (port_lt d inv)))

theorem RoundTrip.stt (d : Dir) : Statement (.stt d) := by
  refine elem_ok (wordE 0x61 (dirCode d * 4) .none .none) rfl rfl (wordE_lt (by decide) (dir_lt d)) fun hwf => ?_
  exact ((show ∀ w, w / 16777216 % 256 = 97 → decodeElemNat w = chk (w / 1048576 % 4 == 0) Cause.elemmod
      (chk (w % 1048576 == 0) Cause.target (.ok (.stt (dirOf (w / 4194304 % 4))))) from
    fun w h => by delta decodeElemNat; generalize w / 16777216 % 256 = n at h; subst h; rfl) _ (wordE_op (by decide) (dir_lt d))).trans (stt_step (wordE_mod4.trans (dir_mod d)) wordE_none ((congrArg dirOf (wordE_dir (dir_lt d))).trans (dir_div d)))

theorem RoundTrip.ldo (d : Dir) (inv : Bool) : Statement (.ldo d inv ta tb) := by
  refine elem_ok (wordE 0x62 (dirCode d * 4 + inv.toNat * 2) ta tb) rfl rfl (wordE_lt (by decide) (port_lt d inv)) fun hwf => ?_
  exact elemPI (port_lt d inv) (port_even d inv) (port_dir d inv) (port_inv d inv) ((show ∀ w, w / 16777216 % 256 = 98 → decodeElemNat w = decodeEPI .ldo w from
    fun w h => by delta decodeElemNat; generalize w / 16777216 % 256 = n at h; subst h; rfl) _ (wordE_op (by decide) (port_lt d inv)))

theorem RoundTrip.sto (d : Dir) : Statement (.sto d ta tb) := by
  refine elem_ok (wordE 0x63 (dirCode d * 4) ta tb) rfl rfl (wordE_lt (by decide) (dir_lt d)) fun hwf => ?_
  exact elemP (dir_lt d) (dir_mod d) (dir_div d) ((show ∀ w, w / 16777216 % 256 = 99 → decodeElemNat w = decodeEP .sto w from
    fun w h => by delta decodeElemNat; generalize w / 16777216 % 256 = n at h; subst h; rfl) _ (wordE_op (by decide) (dir_lt d)))

theorem RoundTrip.amo (d : Dir) : Statement (.amo d ta tb) := by
  refine elem_ok (wordE 0x64 (dirCode d * 4) ta tb) rfl rfl (wordE_lt (by decide) (dir_lt d)) fun hwf => ?_
  exact elemP (dir_lt d) (dir_mod d) (dir_div d) ((show ∀ w, w / 16777216 % 256 = 100 → decodeElemNat w = decodeEP .amo w from
    fun w h => by delta decodeElemNat; generalize w / 16777216 % 256 = n at h; subst h; rfl) _ (wordE_op (by decide) (dir_lt d)))

theorem RoundTrip.rdx (d : Dir) : Statement (.rdx d ta tb) := by
  refine elem_ok (wordE 0x65 (dirCode d * 4) ta tb) rfl rfl (wordE_lt (by decide) (dir_lt d)) fun hwf => ?_
  exact elemP (dir_lt d) (dir_mod d) (dir_div d) ((show ∀ w, w / 16777216 % 256 = 101 → decodeElemNat w = decodeEP .rdx w from
    fun w h => by delta decodeElemNat; generalize w / 16777216 % 256 = n at h; subst h; rfl) _ (wordE_op (by decide) (dir_lt d)))

theorem RoundTrip.mwld : Statement (.mwld ta tb) := by
  refine elem_ok (wordE 0x70 0 ta tb) rfl rfl (wordE_lt (by decide) (by decide)) fun hwf => ?_
  exact elemZ ((show ∀ w, w / 16777216 % 256 = 112 → decodeElemNat w = decodeE0 .mwld w from
    fun w h => by delta decodeElemNat; generalize w / 16777216 % 256 = n at h; subst h; rfl) _ (wordE_op (by decide) (by decide)))

theorem RoundTrip.mfeed : Statement (.mfeed ta tb) := by
  refine elem_ok (wordE 0x71 0 ta tb) rfl rfl (wordE_lt (by decide) (by decide)) fun hwf => ?_
  exact elemZ ((show ∀ w, w / 16777216 % 256 = 113 → decodeElemNat w = decodeE0 .mfeed w from
    fun w h => by delta decodeElemNat; generalize w / 16777216 % 256 = n at h; subst h; rfl) _ (wordE_op (by decide) (by decide)))

theorem RoundTrip.mdrain : Statement (.mdrain ta tb) := by
  refine elem_ok (wordE 0x72 0 ta tb) rfl rfl (wordE_lt (by decide) (by decide)) fun hwf => ?_
  exact elemZ ((show ∀ w, w / 16777216 % 256 = 114 → decodeElemNat w = decodeE0 .mdrain w from
    fun w h => by delta decodeElemNat; generalize w / 16777216 % 256 = n at h; subst h; rfl) _ (wordE_op (by decide) (by decide)))

theorem RoundTrip.mzero : Statement (.mzero ta tb) := by
  refine elem_ok (wordE 0x73 0 ta tb) rfl rfl (wordE_lt (by decide) (by decide)) fun hwf => ?_
  exact elemZ ((show ∀ w, w / 16777216 % 256 = 115 → decodeElemNat w = decodeE0 .mzero w from
    fun w h => by delta decodeElemNat; generalize w / 16777216 % 256 = n at h; subst h; rfl) _ (wordE_op (by decide) (by decide)))

theorem RoundTrip.mwin : Statement .mwin := by
  refine elem_ok (wordE 0x74 0 .none .none) rfl rfl (wordE_lt (by decide) (by decide)) fun hwf => ?_
  exact ((show ∀ w, w / 16777216 % 256 = 116 → decodeElemNat w = chk (w / 1048576 % 16 == 0) Cause.elemmod (chk (w % 1048576 == 0) Cause.target (.ok .mwin)) from
    fun w h => by delta decodeElemNat; generalize w / 16777216 % 256 = n at h; subst h; rfl) _ (wordE_op (by decide) (by decide))).trans (mwin_step (wordE_mod (by decide)) wordE_none)

theorem RoundTrip.mharrow (d : Dir) : Statement (.mharrow d ta tb) := by
  refine elem_ok (wordE 0x75 (dirCode d * 4) ta tb) rfl rfl (wordE_lt (by decide) (dir_lt d)) fun hwf => ?_
  exact elemP (dir_lt d) (dir_mod d) (dir_div d) ((show ∀ w, w / 16777216 % 256 = 117 → decodeElemNat w = decodeEP .mharrow w from
    fun w h => by delta decodeElemNat; generalize w / 16777216 % 256 = n at h; subst h; rfl) _ (wordE_op (by decide) (dir_lt d)))

theorem RoundTrip.mtwid : Statement (.mtwid ta tb) := by
  refine elem_ok (wordE 0x76 0 ta tb) rfl rfl (wordE_lt (by decide) (by decide)) fun hwf => ?_
  exact elemZ ((show ∀ w, w / 16777216 % 256 = 118 → decodeElemNat w = decodeE0 .mtwid w from
    fun w h => by delta decodeElemNat; generalize w / 16777216 % 256 = n at h; subst h; rfl) _ (wordE_op (by decide) (by decide)))

theorem RoundTrip.harrowStageComplete : Statement .harrowStageComplete := no_word rfl

theorem RoundTrip.twiddleFillDone : Statement .twiddleFillDone := no_word rfl

theorem RoundTrip.memoryPortComplete : Statement .memoryPortComplete := no_word rfl

theorem RoundTrip.steer : Statement .steer := no_word rfl

theorem RoundTrip.merge : Statement .merge := no_word rfl

theorem RoundTrip.select : Statement .select := no_word rfl

theorem RoundTrip.carry : Statement .carry := no_word rfl

theorem RoundTrip.invar : Statement .invar := no_word rfl

theorem RoundTrip.count : Statement .count := no_word rfl

theorem RoundTrip.filter : Statement .filter := no_word rfl

theorem RoundTrip.distrib : Statement .distrib := no_word rfl

theorem RoundTrip.collect : Statement .collect := no_word rfl

theorem RoundTrip.tap : Statement .tap := no_word rfl

theorem RoundTrip.sealOperator : Statement .sealOperator := no_word rfl

theorem RoundTrip.control : Statement .control := no_word rfl

theorem RoundTrip.tokenTransfer : Statement .tokenTransfer := no_word rfl

theorem RoundTrip.messageInject : Statement .messageInject := no_word rfl

theorem RoundTrip.stopEdgeRequest : Statement .stopEdgeRequest := no_word rfl

theorem RoundTrip.sectionCut : Statement .sectionCut := no_word rfl

theorem RoundTrip.sectionIdle : Statement .sectionIdle := no_word rfl

theorem RoundTrip.generatorElement : Statement .generatorElement := no_word rfl

theorem RoundTrip.coordinateToken : Statement .coordinateToken := no_word rfl

theorem RoundTrip.writeStreamToken : Statement .writeStreamToken := no_word rfl

theorem RoundTrip.writeStreamEnd : Statement .writeStreamEnd := no_word rfl

theorem RoundTrip.gatherReply : Statement .gatherReply := no_word rfl

theorem RoundTrip.windowAccess : Statement .windowAccess := no_word rfl

theorem RoundTrip.bankAccess : Statement .bankAccess := no_word rfl

theorem RoundTrip.correctionWriteback : Statement .correctionWriteback := no_word rfl

theorem RoundTrip.scrubRow : Statement .scrubRow := no_word rfl

theorem RoundTrip.scrubTakeover : Statement .scrubTakeover := no_word rfl

theorem RoundTrip.fifoPush : Statement .fifoPush := no_word rfl

theorem RoundTrip.fifoPop : Statement .fifoPop := no_word rfl

theorem RoundTrip.homePortAccess : Statement .homePortAccess := no_word rfl

theorem RoundTrip.pageWalk : Statement .pageWalk := no_word rfl

theorem RoundTrip.lineEntryWriteback : Statement .lineEntryWriteback := no_word rfl

theorem RoundTrip.forwardedAccess : Statement .forwardedAccess := no_word rfl

theorem RoundTrip.heatWindowEnd : Statement .heatWindowEnd := no_word rfl

theorem RoundTrip.tierMove : Statement .tierMove := no_word rfl

theorem RoundTrip.tierMoveCommit : Statement .tierMoveCommit := no_word rfl

theorem RoundTrip.pullRequest : Statement .pullRequest := no_word rfl

theorem RoundTrip.ownershipMoveComplete : Statement .ownershipMoveComplete := no_word rfl

theorem RoundTrip.sharerRegister : Statement .sharerRegister := no_word rfl

theorem RoundTrip.sharerUpdate : Statement .sharerUpdate := no_word rfl

theorem RoundTrip.wake : Statement .wake := no_word rfl

theorem RoundTrip.retryRingMove : Statement .retryRingMove := no_word rfl

theorem RoundTrip.afterIssueFault : Statement .afterIssueFault := no_word rfl

theorem RoundTrip.numericWindowEnd : Statement .numericWindowEnd := no_word rfl

theorem RoundTrip.engineInboxMessage : Statement .engineInboxMessage := no_word rfl

theorem RoundTrip.acknowledgement : Statement .acknowledgement := no_word rfl

theorem RoundTrip.injectionResend : Statement .injectionResend := no_word rfl

theorem RoundTrip.copy : Statement .copy := no_word rfl

theorem RoundTrip.fill : Statement .fill := no_word rfl

theorem RoundTrip.xpose : Statement .xpose := no_word rfl

theorem RoundTrip.gather : Statement .gather := no_word rfl

theorem RoundTrip.scatter : Statement .scatter := no_word rfl

theorem RoundTrip.csrb : Statement .csrb := no_word rfl

theorem RoundTrip.prefetch : Statement .prefetch := no_word rfl

theorem RoundTrip.migrate : Statement .migrate := no_word rfl

theorem RoundTrip.chkpt : Statement .chkpt := no_word rfl

theorem RoundTrip.checkpointCut : Statement .checkpointCut := no_word rfl

theorem RoundTrip.checkpointEnd : Statement .checkpointEnd := no_word rfl

theorem RoundTrip.hash : Statement .hash := no_word rfl

theorem RoundTrip.reduce : Statement .reduce := no_word rfl

theorem RoundTrip.allred : Statement .allred := no_word rfl

theorem RoundTrip.allgath : Statement .allgath := no_word rfl

theorem RoundTrip.rscat : Statement .rscat := no_word rfl

theorem RoundTrip.bcast : Statement .bcast := no_word rfl

theorem RoundTrip.collectiveBegin : Statement .collectiveBegin := no_word rfl

theorem RoundTrip.collectiveAbort : Statement .collectiveAbort := no_word rfl

theorem RoundTrip.publishCommand : Statement .publishCommand := no_word rfl

theorem RoundTrip.engineCommandDrained : Statement .engineCommandDrained := no_word rfl

theorem RoundTrip.barrierArrival : Statement .barrierArrival := no_word rfl

theorem RoundTrip.barrierDischarge : Statement .barrierDischarge := no_word rfl

theorem RoundTrip.barrierComplete : Statement .barrierComplete := no_word rfl

theorem RoundTrip.bwaitObserve : Statement .bwaitObserve := no_word rfl

theorem RoundTrip.podBarrierJoin : Statement .podBarrierJoin := no_word rfl

theorem RoundTrip.podBarrierCompletion : Statement .podBarrierCompletion := no_word rfl

theorem RoundTrip.barrierPrioUpdate : Statement .barrierPrioUpdate := no_word rfl

theorem RoundTrip.podBarrierPoison : Statement .podBarrierPoison := no_word rfl

theorem RoundTrip.inheritanceFloor : Statement .inheritanceFloor := no_word rfl

theorem RoundTrip.signal : Statement .signal := no_word rfl

theorem RoundTrip.drillExamine : Statement .drillExamine := no_word rfl

theorem RoundTrip.drillRetest : Statement .drillRetest := no_word rfl

theorem RoundTrip.claimRequest : Statement .claimRequest := no_word rfl

theorem RoundTrip.granaryLookup : Statement .granaryLookup := no_word rfl

theorem RoundTrip.drillPop : Statement .drillPop := no_word rfl

theorem RoundTrip.parkWake : Statement .parkWake := no_word rfl

theorem RoundTrip.taskRetire : Statement .taskRetire := no_word rfl

theorem RoundTrip.preemptionRequest : Statement .preemptionRequest := no_word rfl

theorem RoundTrip.preemptDrainExpiry : Statement .preemptDrainExpiry := no_word rfl

theorem RoundTrip.launchDoor (q : Nat) (v : Word) : Statement (.launchDoor q v) := no_word rfl

theorem RoundTrip.launchArrival : Statement .launchArrival := no_word rfl

theorem RoundTrip.launchWaitSatisfied : Statement .launchWaitSatisfied := no_word rfl

theorem RoundTrip.swathGrant : Statement .swathGrant := no_word rfl

theorem RoundTrip.codeFill : Statement .codeFill := no_word rfl

theorem RoundTrip.instanceEntry : Statement .instanceEntry := no_word rfl

theorem RoundTrip.dieWithdraw : Statement .dieWithdraw := no_word rfl

theorem RoundTrip.dieAdd : Statement .dieAdd := no_word rfl

theorem RoundTrip.launchComplete : Statement .launchComplete := no_word rfl

theorem RoundTrip.tholdRetry (ctx : Nat) (v : Word) : Statement (.tholdRetry ctx v) := no_word rfl

theorem RoundTrip.tholdPoison (ctx : Nat) (v : Word) : Statement (.tholdPoison ctx v) := no_word rfl

theorem RoundTrip.thend (tid : Tid) (v : Word) : Statement (.thend tid v) := no_word rfl

theorem RoundTrip.tevpWrite (port : Bool) (ctx : Nat) (v : Word) : Statement (.tevpWrite port ctx v) := no_word rfl

theorem RoundTrip.tevbWrite (port : Bool) (ctx : Nat) (v : Word) : Statement (.tevbWrite port ctx v) := no_word rfl

theorem RoundTrip.tserrRead (port : Bool) (ctx : Nat) : Statement (.tserrRead port ctx) := no_word rfl

theorem RoundTrip.rangeRegisterCommit (port : Bool) (v : Word) : Statement (.rangeRegisterCommit port ctx i v) := no_word rfl

theorem RoundTrip.bufferMapCommit (port : Bool) (v : Word) : Statement (.bufferMapCommit port ctx e v) := no_word rfl

theorem RoundTrip.watchpointCommit (port : Bool) (v : Word) : Statement (.watchpointCommit port ctx w v) := no_word rfl

theorem RoundTrip.tinv (port : Bool) (v : Word) : Statement (.tinv port v) := no_word rfl

theorem RoundTrip.tinvComplete : Statement .tinvComplete := no_word rfl

theorem RoundTrip.fppush (port : Bool) (pool : Nat) (v : Word) : Statement (.fppush port pool v) := no_word rfl

theorem RoundTrip.mtstatWrite (port : Bool) (tid : Tid) (v : Word) : Statement (.mtstatWrite port tid v) := no_word rfl

theorem RoundTrip.grtabWrite (port : Bool) (v : Word) : Statement (.grtabWrite port v) := no_word rfl

theorem RoundTrip.rsvtWrite (port : Bool) (v : Word) : Statement (.rsvtWrite port kind off v) := no_word rfl

theorem RoundTrip.registerWrite (port : Bool) (off : Nat) (v : Word) : Statement (.registerWrite port off v) := no_word rfl

theorem RoundTrip.contextCreate (port : Bool) (ctx : Nat) (v : Word) : Statement (.contextCreate port ctx v) := no_word rfl

theorem RoundTrip.contextSave (port : Bool) (v : Word) : Statement (.contextSave port v) := no_word rfl

theorem RoundTrip.contextSaved : Statement .contextSaved := no_word rfl

theorem RoundTrip.contextRestore (port : Bool) (v : Word) : Statement (.contextRestore port v) := no_word rfl

theorem RoundTrip.contextRestored : Statement .contextRestored := no_word rfl

theorem RoundTrip.contextKill (port : Bool) (v : Word) : Statement (.contextKill port v) := no_word rfl

theorem RoundTrip.contextRelease (port : Bool) (v : Word) : Statement (.contextRelease port v) := no_word rfl

theorem RoundTrip.hostMemoryAccess (port : Bool) : Statement (.hostMemoryAccess port off len wr) := no_word rfl

theorem RoundTrip.semaphoreRead (i : Nat) : Statement (.semaphoreRead i a b) := no_word rfl

theorem RoundTrip.semaphoreWrite (port : Bool) (i : Nat) (v : Word) : Statement (.semaphoreWrite port i v) := no_word rfl

theorem RoundTrip.hwstatRead : Statement (.hwstatRead port which) := no_word rfl

theorem RoundTrip.lqstatRead (port : Bool) (q : Nat) : Statement (.lqstatRead port q) := no_word rfl

theorem RoundTrip.keyLoad (port : Bool) (v : Word) : Statement (.keyLoad port v) := no_word rfl

theorem RoundTrip.keyClear (port : Bool) (v : Word) : Statement (.keyClear port v) := no_word rfl

theorem RoundTrip.attestationRequest (port : Bool) (v : Word) : Statement (.attestationRequest port v) := no_word rfl

theorem RoundTrip.attestationDone : Statement .attestationDone := no_word rfl

theorem RoundTrip.haltResume (port : Bool) (v : Word) : Statement (.haltResume port v) := no_word rfl

theorem RoundTrip.moduleReset : Statement (.moduleReset image blob) := no_word rfl

theorem RoundTrip.diePowerUp (die : Nat) (ok : Bool) : Statement (.diePowerUp die ok) := no_word rfl

theorem RoundTrip.linkDown (l : Nat) : Statement (.linkDown l) := no_word rfl

theorem RoundTrip.timeBeacon : Statement .timeBeacon := no_word rfl

theorem RoundTrip.beaconArrival : Statement (.beaconArrival l t) := no_word rfl

theorem RoundTrip.thermalLimit (block : Nat) : Statement (.thermalLimit block) := no_word rfl

theorem RoundTrip.thermalCritical (die : Nat) : Statement (.thermalCritical die) := no_word rfl

theorem RoundTrip.decodeFault (w : BitVec 32) : Statement (.decodeFault w) := no_word rfl

theorem RoundTrip.fetchFault (c : Cause) : Statement (.fetchFault c) := no_word rfl

theorem RoundTrip.sequencerAccessReply : Statement .sequencerAccessReply := no_word rfl

theorem RoundTrip.linkTrained (l : Nat) : Statement (.linkTrained l) := no_word rfl

theorem RoundTrip.frameBoundary : Statement .frameBoundary := no_word rfl

end Sys2Proof.Laws
end

