-- ==== Sys2Proof/Tests/States.lean ====
section
/-! SUPPORT. Small states for the witnesses: context 0 with one range of 64 KiB at VA 0x1_0000 onto near memory, a firing on
tile(0,0), and what a witness adds to them. -/
namespace Sys2Proof.Tests
open Sys2Proof.Machine Sys2Proof.Claims
set_option Elab.async false

/-- A running launch of context 0 with quad 0. -/
def lau : Launch :=
  { lid := 1, queue := 0, ctx := 0, words := List.replicate 8 0, state := .running, waits := [], count := 1, entered := 1, live := 1,
    cls := 4, rsv := 0, quads := [0], dies := [0], leaving := [], filled := [0], faults := 0, engcmds := 0, hits := 0, tasks := 0,
    tacc := 0, cause := 0, status := 0, order := 0, cmds := [], began := 0, rr := 0, kept := [] }

/-- Context 0 active, VA 0x1_0000 to 0x1_FFFF readable, writable and fetched from, its page cached; one launch runs. -/
def base : State :=
  let s := placeContext State.reset
  { s with ln := { s.ln with live := [lau] } }

/-- 32 registers, those listed with their values, the others zero. -/
def regsOf (l : List (Nat × Word)) : List Word := l.foldl (fun r x => setNth r x.1 x.2) (List.replicate 32 0)

/-- The firing of the witnesses. -/
def fir : Firing := { bareFiring with task := { bareFiring.task with launch := 1 } }

/-- A core that runs the firing at pc 0x1_0000 with the registers listed. -/
def core (l : List (Nat × Word)) : Core := { Core.reset with regs := regsOf l, run := some fir, pc := 0x10000 }

/-- The base state with that core on tile(0,0), in focus. -/
def at0 (c : Core) : State := setCore base 0 c

/-- The state with bytes in near memory, from IA 0x1_0000 plus an offset. -/
def withBytes (s : State) (off : Nat) (bs : List Byte) : State :=
  { s with st := { s.st with mem := cellsSet s.st.mem (0x10000 + off) bs } }

/-- The firing's context with its registers changed. -/
def withCtx (s : State) (g : Ctx → Ctx) : State := setCtx s 0 (g (getCtx s 0))

/-- An access answers a value of which p holds. -/
def okWith {α : Type} (x : Res α × State) (p : α → State → Bool) : Bool :=
  match x with
  | (.ok v, s) => p v s
  | _ => false

/-- An access ends in a cause. -/
def faultIs {α : Type} (x : Res α × State) (c : Cause) : Bool :=
  match x with
  | (.fault e, _) => e == c
  | _ => false

/-- A lookup answers a value of which p holds. -/
def found {α : Type} (x : Except Cause α × State) (p : α → State → Bool) : Bool :=
  match x with
  | (.ok v, s) => p v s
  | _ => false

/-- A check answers a value. -/
def passes {α : Type} (x : Except Cause α) : Bool :=
  match x with
  | .ok _ => true
  | _ => false

/-- A check answers a given value. -/
def gives {α : Type} [DecidableEq α] (x : Except Cause α) (v : α) : Bool :=
  match x with
  | .ok w => w == v
  | _ => false

/-- A check answers a cause. -/
def failsWith {α : Type} (x : Except Cause α) (c : Cause) : Bool :=
  match x with
  | .error e => e == c
  | _ => false

/-- What passes says. -/
theorem passes_spec {α : Type} {x : Except Cause α} (h : passes x = true) : ∃ v, x = .ok v := by
  match x, h with
  | .ok v, _ => exact ⟨v, rfl⟩

/-- What okWith says. -/
theorem okWith_spec {α : Type} {x : Res α × State} {p : α → State → Bool} (h : okWith x p = true) :
    ∃ v s, x = (.ok v, s) ∧ p v s = true := by
  match x, h with
  | (.ok v, s), h => exact ⟨v, s, rfl, h⟩

/-- A data token with every lane live. -/
def dat (v : Payload) : Token := ⟨.data, BitVec.allOnes 16, true, v⟩

/-- A token of a kind without payload. -/
def tokK (k : TokKind) : Token := ⟨k, 0, false, 0⟩

/-- The environment of slot 0 of tile(0,0) in an armed section over it. -/
def env0 : Env := ⟨0, 0, 0, 0, 1, false, false, 0, none, 5⟩

/-- Tile(0,0) in an armed section, with a slot 0; VA 0x2_0000 is the memory tile east of it. -/
def elemState (x : Slot) : State :=
  let s := setSlot (setCore base 0 (core [])) 0 0 x
  let s := { s with fab := { s.fab with tileSec := [(0, 0)] } }
  withCtx (setSec s 0 { Section.reset with state := .armed, tiles := [0], tcount := 5, launch := 1 }) (fun c => { c with
    ranges := setNth c.ranges 1 (0x20001, 1, 0xF0000010300C) })

/-- A slot with a word, a constant and data on L and R. -/
def slotWith (word const : BitVec 32) (l r : Option Token) : Slot := { Slot.reset with word := word, const := const, l := l, r := r }

end Sys2Proof.Tests
end

