-- ==== Sys2Proof/Tests/MetEngines.lean ====
section
/-! SUPPORT. Witnesses for the statements about engines. -/
namespace Sys2Proof.Tests
open Sys2Proof.Machine Sys2Proof.Claims
set_option Elab.async false

/-- Words of an engine message: header of an opcode, no barrier, no reply, TAG 0, and operand words. -/
def engMsg (op : Nat) (ws : List Word) : List Word :=
  BitVec.ofNat 64 (op * 2 ^ 56 + ws.length / 4 * 2 ^ 35 + 2 * 2 ^ 33) :: 0 :: 0 :: 0 :: ws

/-- A command of uid 4. -/
def cmd (op : Nat) (ws : List Word) : EngCmd :=
  { uid := 4, words := engMsg op ws, state := .running, sender := some (0, 0), lid := 1, done := 0, aux := 0, pos := 0, status := 0,
    cause := 0, stopped := false, charged := 0, waits := [], tmp := [], fva := 0, hold := [] }

/-- The base state with a command in the inbox of quad 0. -/
def engState (c : EngCmd) : State := { base with ops := [0, c.uid], eng := { base.eng with inbox := [(0, [c])] } }

/-- What a command asks of its access. -/
def readsOk (x : ERes × State) (p : List Byte → State → Bool) : Bool :=
  match x with
  | (.ok bs, s) => p bs s
  | _ => false

/-- What a command asks meets a cause. -/
def stops (x : ERes × State) : Bool :=
  match x with
  | (.stop _ _, _) => true
  | _ => false

/-- What a command's write answers. -/
def writesOk (x : ERes × EngCmd × State) : Bool :=
  match x with
  | (.ok [], _, _) => true
  | _ => false

/-- The command that the event concerns, decided. -/
def cmdAt (op : Nat) (c : EngCmd) : Bool :=
  decide (findCmd (engState c) ((engState c).op 0) ((engState c).op 1) = some c) && engOp c == op && !c.stopped &&
    decide (c.state ≠ .queued) && c.hold.isEmpty

/-- What cmdAt says. -/
theorem cmdAt_spec {op : Nat} {c : EngCmd} (h : cmdAt op c = true) : CmdAt (engState c) op c := by
  simpa [cmdAt, CmdAt, and_assoc, Bool.and_eq_true] using h

/-! ### Inboxes -/

/-- A COPY of 256 bytes within the range. -/
def copyCmd : EngCmd := cmd 1 [0x10000, 0x10200, 256, 0]

/-- A message on its way to quad 0, and the state in which it is at its inbox. -/
def msgOf (ws : List Word) : Msg := ⟨4, 0, 1, 0, 2, ws, some (0, 0), 1, true, none, none⟩
def inboxState (ws : List Word) (l : List EngCmd) : State :=
  { base with ops := [0, 4], fab := { base.fab with msgs := [msgOf ws] }, eng := { base.eng with inbox := [(0, l)] } }

/-- That state with the message taken out. -/
def outbox (ws : List Word) (l : List EngCmd) : State :=
  { inboxState ws l with fab := { (inboxState ws l).fab with msgs := [] } }

/-- A message's checks pass. -/
def checked (s : State) (c : EngCmd) (p : State → Bool) : Bool :=
  match checkMessage s 0 c with
  | (.good _ _, s) => p s
  | _ => false

/-- A message's checks fail, and of the refused command and the state p holds. -/
def refusedWith (s : State) (c : EngCmd) (p : EngCmd → State → Bool) : Bool :=
  match checkMessage s 0 c with
  | (.bad st e va, s) => p { c with state := .ended, stopped := true, status := st, cause := e, fva := va } s
  | _ => false

/-- EngineEvents: a message taken, one turned away busy, one refused; a command without charge or shadow. -/
theorem met_EngineEvents_inbox :
    (∀ ws, ws ∈ [copyCmd.words, engMsg 255 []] → ∀ l, l ∈ [[], List.replicate 32 copyCmd] →
      (inboxState ws l).op 0 = 0 ∧ (inboxState ws l).fab.msgs.find? (fun m => m.uid == (inboxState ws l).op 1 && m.injected &&
        m.resendAt.isNone && m.node == (inboxState ws l).boot.node) = some (msgOf ws) ∧
      firstOfPair (inboxState ws l) (msgOf ws) = true ∧
      (inboxState ws l).fab.msgs.filter (fun x => x.uid != (msgOf ws).uid) = (outbox ws l).fab.msgs ∧
      bitsOf (nth 0 (msgOf ws).words 1) 43 35 = 0 ∧ (getCtx (outbox ws l) (engCtx (cmdOf (msgOf ws)))).state ≠ .killed) ∧
    checked (outbox copyCmd.words []) (cmdOf (msgOf copyCmd.words)) (fun s => !inboxBusy s 0 0) = true ∧
    checked (outbox copyCmd.words (List.replicate 32 copyCmd)) (cmdOf (msgOf copyCmd.words)) (fun s => inboxBusy s 0 0) = true ∧
    quadFallow (outbox copyCmd.words []) 0 = false ∧ quadFallow (outbox (engMsg 255 []) []) 0 = false ∧
    refusedWith (outbox (engMsg 255 []) []) (cmdOf (msgOf (engMsg 255 []))) (fun c s => (writeReply s 0 c).1) = true ∧
    (msgOf (engMsg 255 [])).sender.isSome = true ∧ engChg copyCmd = false ∧ engShd copyCmd = false := by
  decide +kernel

/-- A refused message whose REPLY lies on a page of another node, which it has been forwarded to and which has not
answered: the record waits. -/
def farReply : List Word := [BitVec.ofNat 64 (255 * 2 ^ 56 + 2 * 2 ^ 33), 0, 0x10000, 0]
def farInbox : State :=
  let s := outbox farReply []
  { s with
    xl := { s.xl with
      tcache := s.xl.tcache.map (fun p => (p.1, { p.2 with w0 := p.2.w0 ||| 8, w1 := 5 * 2 ^ 44 }))
      fwdOut := [⟨0, (engWho 0 (cmdOf (msgOf farReply))).key, 0x10000, 5, false, none⟩] } }

/-- EngineEvents: the engine of a fallow quad; a record that waits for another node. -/
theorem met_EngineEvents_refusals :
    quadFallow { outbox copyCmd.words [] with boot := { base.boot with fallow := quadCores 0 } } 0 = true ∧
    quadFallow farInbox 0 = false ∧ refusedWith farInbox (cmdOf (msgOf farReply)) (fun c s => !(writeReply s 0 c).1) = true := by
  decide +kernel

/-- A message of tile(0,0) that its AMSG waits for, with an acknowledgement on its way. -/
def ackState (kind : Nat) (m : Msg) : State :=
  let s := at0 { core [] with waiting := .amsg 4 5 }
  { s with ops := [4], fab := { s.fab with msgs := [m], acks := [⟨4, kind, 0, 0, m⟩] }, clk := { s.clk with cycle := 64 } }

/-- EngineEvents: acknowledgements that say accepted and busy; a message sent again when its time has come; a command that ended. -/
theorem met_EngineEvents_acks :
    (∀ k, k ∈ [0, 1] → (ackState k (msgOf [])).fab.acks.find? (fun a => a.uid == (ackState k (msgOf [])).op 0) = some ⟨4, k, 0, 0, msgOf []⟩ ∧
      (ackState k (msgOf [])).fab.msgs.find? (fun m => m.uid == 4) = some (msgOf []) ∧ (msgOf []).node = (ackState k (msgOf [])).boot.node ∧
      (getCore (ackState k (msgOf [])) (msgOf []).src).amsgw = none ∧
      (getCore (ackState k (msgOf [])) (msgOf []).src).waiting = .amsg (msgOf []).uid 5) ∧
    (∀ t, t ∈ [64, 65] → (ackState 0 { msgOf [] with resendAt := some t }).fab.msgs.find? (fun m =>
      m.uid == (ackState 0 { msgOf [] with resendAt := some t }).op 0) = some { msgOf [] with resendAt := some t }) ∧
    (64 ≤ (ackState 0 (msgOf [])).clk.cycle ∧ (ackState 0 (msgOf [])).clk.cycle < 65) ∧
    (∀ k, k ∈ [0, 1] → firstAck (ackState k (msgOf [])) ⟨4, k, 0, 0, msgOf []⟩ = true) ∧
    (let c := { copyCmd with stopped := true }
     findCmd (engState c) ((engState c).op 0) ((engState c).op 1) = some c ∧ c.state ≠ .ended ∧ c.stopped = true ∧ engOp c ≠ 9 ∧
     messagesAnswered (engState c) c = true ∧ (writeReply (engState c) 0 c).1 = true ∧ engChg c = false) := by
  decide +kernel

/-! ### Commands that move bytes -/

/-- A FILL of 256 bytes, an XPOSE of 2 rows and 2 columns of 4 bytes, a CSRB of one row of 4 bytes, a HASH of 8 bytes, a REDUCE. -/
def fillCmd : EngCmd := cmd 2 [0x10200, 256, 5, 0]
def xposeCmd : EngCmd := cmd 3 [0x10000, 0x10200, 0x100000001, 0x800000008, 2, 0, 0, 0]
def csrbCmd : EngCmd := cmd 6 [0x10000, 0x10100, 0x10200, 0x10300, 0, 0x200000004, 0, 0]
def hashCmd : EngCmd := cmd 10 [0x10000, 8, 0x10200, 0]
def reduceCmd : EngCmd := cmd 11 [0x10000, 0x10200, 4, 0]

/-- A GATHER or SCATTER of 4 rows of 8 bytes, with a bound. -/
def gsCmd (op bound : Nat) : EngCmd := cmd op [0x10000, 0x11000, 0x12000, 4, 8, BitVec.ofNat 64 bound, 0x80000, 0]

/-- MoverCommands: COPY, FILL and XPOSE, each with a line to move and at its end; a command that may start. -/
theorem met_MoverCommands_lines :
    (engEventOf 1 = some .copy ∧ (let c := { copyCmd with state := .queued }
      findCmd (engState c) 0 4 = some c ∧ c.stopped = false ∧ mayStart (engState c) 0 c = true)) ∧
    (cmdAt 1 { copyCmd with done := 256 } = true ∧ (engW copyCmd 2).toNat ≤ 256) ∧
    (cmdAt 1 copyCmd = true ∧ copyCmd.done < (engW copyCmd 2).toNat ∧
      readsOk (engRead (engState copyCmd) (engWho 0 copyCmd) 0x10000 128)
        (fun bs s1 => writesOk (engWrite s1 0 copyCmd 0x10200 bs)) = true) ∧
    (cmdAt 2 { fillCmd with done := 256 } = true ∧ (engW fillCmd 1).toNat ≤ 256) ∧
    (cmdAt 2 fillCmd = true ∧ fillCmd.done < (engW fillCmd 1).toNat ∧
      writesOk (engWrite (engState fillCmd) 0 fillCmd 0x10200 (List.replicate 128 5)) = true) ∧
    (cmdAt 3 { xposeCmd with done := 16 } = true ∧ engRows (engW xposeCmd 2) * 4 * engCols (engW xposeCmd 2) = 16) ∧
    (cmdAt 3 xposeCmd = true ∧
      readsOk (engReadElems (engState xposeCmd) (engWho 0 xposeCmd) 4 8 2 0x10000)
        (fun bs s1 => writesOk (engWrite s1 0 xposeCmd 0x10200 bs)) = true) := by
  decide +kernel

/-- MoverCommands: GATHER and SCATTER with an index to read, within its bound and not, with a row to move, and at their end. -/
theorem met_MoverCommands_indexed :
    ∀ op, op ∈ [4, 5] →
      (cmdAt op { gsCmd op 8 with pos := 4 } = true ∧ (engW (gsCmd op 8) 3).toNat ≤ 4) ∧
      (∀ b, b ∈ [8, 0] → cmdAt op (gsCmd op b) = true ∧
        readsOk (engRead (engState (gsCmd op b)) (engWho 0 (gsCmd op b)) 0x11000 4)
          (fun bs _ => decide (ofBytes bs < (engW (gsCmd op b) 5).toNat) == decide (b = 8)) = true ∧
        bitsOf (engW (gsCmd op b) 6) 2 1 = 0) ∧
      (let c := { gsCmd op 8 with tmp := [0, 0] }
       cmdAt op c = true ∧ c.pos < (engW c 3).toNat ∧ 0 < bitsOf (engW c 6) 28 16 ∧
       readsOk (engRead (engState c) (engWho 0 c) 0x10000 8) (fun bs s1 => writesOk (engWrite s1 0 c 0x12000 bs)) = true ∧
       readsOk (engRead (engState c) (engWho 0 c) 0x12000 8) (fun bs s1 => writesOk (engWrite s1 0 c 0x10000 bs)) = true) := by
  decide +kernel

/-- MoverCommands: CSRB with pointers to read, with a row to check that passes and one that does not, with a row to write, and at its end; HASH with a line to read, its digest to write,
and at its end; REDUCE with an element, and at its end. -/
theorem met_MoverCommands_rows :
    (cmdAt 6 { csrbCmd with pos := 1 } = true ∧ engRows (engW csrbCmd 4) ≤ 1) ∧
    (cmdAt 6 csrbCmd = true ∧ readsOk (engRead (engState csrbCmd) (engWho 0 csrbCmd) 0x10000 8)
      (fun bs _ => decide (ofBytes (bs.take 4) ≤ ofBytes (bs.drop 4))) = true) ∧
    (let c := { csrbCmd with tmp := [0, 0, 0, 1, 2, 3, 4] }
     cmdAt 6 c = true ∧ c.pos < engRows (engW c 4) ∧ readsOk (rowCheck (engState c) 0 c 0x10300 4) (fun bs _ => bs.isEmpty) = true) ∧
    (let c := { cmd 6 [0x10000, 0x10100, 0x10200, 0x90000, 0, 0x200000004, 0, 0] with tmp := [0, 0, 0, 1, 2, 3, 4] }
     cmdAt 6 c = true ∧ stops (rowCheck (engState c) 0 c 0x90000 4) = true) ∧
    (let c := { csrbCmd with tmp := [1, 0, 0, 1, 2, 3, 4] }
     cmdAt 6 c = true ∧ 0 < engCols (engW c 4) * 2 ^ bitsOf (engW c 5) 33 32 ∧
     writesOk (engWrite (engState c) 0 c 0x10300 [1, 2, 3, 4]) = true) ∧
    (cmdAt 10 hashCmd = true ∧ hashCmd.done < (engW hashCmd 1).toNat ∧
      readsOk (engRead (engState hashCmd) (engWho 0 hashCmd) 0x10000 8) (fun _ _ => true) = true) ∧
    (let c := { hashCmd with done := 8, tmp := List.replicate 8 0 }
     cmdAt 10 c = true ∧ (engW c 1).toNat ≤ c.done ∧ c.pos ≠ 1 ∧
     writesOk (engWrite (engState c) 0 c 0x10200 (List.replicate 32 7)) = true) ∧
    (cmdAt 10 { hashCmd with done := 8, pos := 1 } = true) ∧
    (cmdAt 11 { reduceCmd with done := 4 } = true ∧ (engW reduceCmd 2).toNat ≤ 4) ∧
    (cmdAt 11 reduceCmd = true ∧ engChg reduceCmd = false ∧
      readsOk (engRead (engState reduceCmd) (engWho 0 reduceCmd) 0x10000 4) (fun bs s1 =>
        !outsideShadow s1 reduceCmd 0x10200 4 &&
        okWith (rmwVA s1 (engDstWho 0 reduceCmd) 0x10200 4 true [redFn 0, ofBytes bs, 0]
          (fun old => bytesOf 4 (combine (redFn 0) 4 (ofBytes old) (ofBytes bs) 0).1)) (fun _ _ => true)) = true) := by
  decide +kernel

/-! ### Groups and pages -/

/-- A collective of 2 members, rank 0, of one element of 4 bytes; its other member is in quad 1. -/
def collCmd (op : Nat) : EngCmd := { cmd op [0x10000, 2, 0x10100, 0x10200, 1, 0x200, 0, 0] with waits := [0, 1] }

/-- For ALLRED and RSCAT the size is that of the operation. -/
def collOf (op : Nat) : EngCmd :=
  if op = 12 ∨ op = 14 then { cmd op [0x10000, 2, 0x10100, 0x10200, 1, 0, 0, 0] with waits := [0, 1] } else collCmd op

/-- The state with notices for quad 0. -/
def collState (c : EngCmd) (l : List CollMsg) : State := { engState c with eng := { (engState c).eng with coll := l } }

/-- Operands as the other member announces them. -/
def sameInfo (c : EngCmd) : List Nat := [engOp c, collN c, collCount c, (engW c 5).toNat, (engW c 6).toNat]

/-- GroupCommands: COLLECTIVE_BEGIN with a member that differs, one not met, all met; COLLECTIVE_ABORT with none ended, one
ended, one with COLLMIS. -/
theorem met_GroupCommands_begin :
    (let c := collOf 12
     let ended (e : Nat) : List CollMsg := [⟨0, 1, 0, 0, sameInfo c, []⟩, ⟨0, 1, 0, 2, [e], []⟩]
     findCmd (engState c) 0 4 = some c ∧ c.state = .running ∧ c.stopped = false ∧ c.waits ≠ [] ∧ (engState c).eng.owed = [] ∧
     someMismatch (collState c [⟨0, 1, 0, 0, [1], []⟩]) 0 c = true ∧
     someMismatch (collState c []) 0 c = false ∧ allMet (collState c []) 0 c = false ∧
     someMismatch (collState c [⟨0, 1, 0, 0, sameInfo c, []⟩]) 0 c = false ∧
     allMet (collState c [⟨0, 1, 0, 0, sameInfo c, []⟩]) 0 c = true ∧
     someEnded (collState c []) 0 c = none ∧ someEnded (collState c (ended 0)) 0 c = some 0 ∧
     (0 : Nat) ≠ Cause.collmis.toNat ∧
     someEnded (collState c (ended Cause.collmis.toNat)) 0 c = some Cause.collmis.toNat) := by
  decide +kernel

/-- GroupCommands: each kind of collective, with its source to read, to send, a line to write, and at its end. -/
theorem met_GroupCommands_collectives :
    ∀ op, op ∈ [12, 13, 14, 15] →
      (let c := { collOf op with state := .met }
       cmdAt op c = true ∧ c.tmp.length < collSrcLen c ∧
       readsOk (engRead (engState c) (engWho 0 c) 0x10100 (collSrcLen c)) (fun _ _ => true) = true) ∧
      (let c := { collOf op with state := .met, tmp := List.replicate 8 1 }
       cmdAt op c = true ∧ collSrcLen c ≤ c.tmp.length ∧ c.pos = 0 ∧ (contributors c).contains (collRank c) = true) ∧
      (∀ d, d ∈ [0, 8] →
        let c := { collOf op with state := .met, tmp := List.replicate 8 1, pos := 1, done := d }
        let s := collState c [⟨0, 1, 0, 1, [], List.replicate 8 1⟩]
        findCmd s 0 4 = some c ∧ engOp c = op ∧ (allContributions s 0 c).isSome = true ∧
        (d = 0 → writesOk (engWrite s 0 c 0x10200 (List.replicate 4 1)) = true ∧ 0 < collCount c * collSize c) ∧
        (d = 8 → collCount c * collSize c * (if op = 13 then collN c else 1) ≤ c.done)) := by
  decide +kernel

/-- A PREFETCH and a MIGRATE of one page, to the far tier. -/
def prefetchCmd : EngCmd := cmd 7 [0x10000, 1, 0, 0]
def migrateCmd : EngCmd := cmd 8 [0x10000, 1, 0xFF00000001, 0]

/-- The engine state at a cycle that allows a move, with a frame in the far tier. -/
def migState (c : EngCmd) : State :=
  let s := engState c
  { s with clk := { s.clk with cycle := 0x1100000 }, xl := { s.xl with fpb := setNth s.xl.fpb 12 0x40000000004 } }

/-- The state with VA 0x1_0000 onto a window. -/
def windowed' (c : EngCmd) : State :=
  withCtx (engState c) (fun x => { x with ranges := (0x10001, 1, 0xF0000010300C) :: x.ranges.drop 1 })

/-- GroupCommands: PUBLISH that has waited; PREFETCH and MIGRATE with a page, past their last page, with an unmapped page, with a
window page. -/
theorem met_GroupCommands_pages :
    (let c := { cmd 16 [0x103, 0, 0, 0] with pos := 1 }
     cmdAt 16 c = true ∧ c.pos ≠ 0 ∧ engDrained (engState c) c.tmp = true) ∧
    (cmdAt 7 { prefetchCmd with pos := 1 } = true ∧ (engW prefetchCmd 1).toNat ≤ 1) ∧
    (cmdAt 7 prefetchCmd = true ∧ prefetchCmd.pos < (engW prefetchCmd 1).toNat ∧
      (match translate (engState prefetchCmd) (engWho 0 prefetchCmd) 0x10000 .read with
        | .ok r => !inWindow r.1 && found (lookupPage (engState prefetchCmd) r.1 r.2) (fun _ _ => true)
        | .error _ => false) = true) ∧
    (let c := cmd 7 [0x40000, 1, 0, 0]
     cmdAt 7 c = true ∧ failsWith (translate (engState c) (engWho 0 c) 0x40000 .read) Cause.nomap = true) ∧
    (cmdAt 8 { migrateCmd with pos := 1 } = true ∧ (engW migrateCmd 1).toNat ≤ 1 ∧ migrateCmd.tmp = [] ∧
      (engState migrateCmd).eng.ckpt = none) ∧
    (findCmd (migState migrateCmd) 0 4 = some migrateCmd ∧ bitOf (engW migrateCmd 2) 2 = false ∧ bitsOf (engW migrateCmd 2) 1 0 < 2 ∧
      (match translate (migState migrateCmd) (engWho 0 migrateCmd) 0x10000 .write with
        | .ok r => !inWindow r.1 && decide (r.2 < 2) && found (lookupPage (migState migrateCmd) r.1 r.2) (fun e s1 =>
            !alreadyThere e 1 255 && !leafPin e.w0 && !e.cls3 && e.level == 3 && leafTier e.w0 != 2 && stampsAllow s1 e.w1 &&
            (moveOf s1 e.page).isNone && (takeFrame s1 (poolOrder 1 255 e.page)).isSome)
        | .error _ => false) = true) ∧
    (findCmd (windowed' migrateCmd) 0 4 = some migrateCmd ∧
      (match translate (windowed' migrateCmd) (engWho 0 migrateCmd) 0x10000 .write with
        | .ok r => inWindow r.1
        | .error _ => false) = true) := by
  decide +kernel

end Sys2Proof.Tests
end

