-- ==== Sys2Proof/Tests/MetFlow.lean ====
section
/-! SUPPORT. Witnesses for the statements about operator units, links, streams, tiles and residency. -/
namespace Sys2Proof.Tests
open Sys2Proof.Machine Sys2Proof.Claims
set_option Elab.async false

/-- Unit 0 of tile(0,0), with the heads of its inputs A, B and D. -/
def opState (x : OpUnit) (a b d : List Token) : State :=
  let s := elemState Slot.reset
  setBuf (setBuf (setBuf { s with ops := [0, 0], fab := { s.fab with opunits := [(0, x)] } } 96 a) 97 b) 98 d

/-- A fresh unit with a record. -/
abbrev rop (w : Word) : OpUnit := OpUnit.fresh w

/-- A decision: data with PRED 1, and data with PRED 0. -/
def yes : Token := dat 0
def no : Token := tokK .data

/-- OperatorForms, first half: STEER, MERGE, SELECT, FILTER. -/
theorem met_OperatorForms_moves :
    (UnitAt (opState (rop 1) [dat 5] [] [yes]) 1 env0 (rop 1) ∧ Head (opState (rop 1) [dat 5] [] [yes]) env0 0 (dat 5) ∧
      Head (opState (rop 1) [dat 5] [] [yes]) env0 2 yes ∧ Plain (dat 5) ∧ yes.kind = .data ∧
      outFree (opState (rop 1) [dat 5] [] [yes]) env0 0 (yes.pred != bitOf (rop 1).recd 4).toNat = true) ∧
    (UnitAt (opState (rop 1) [tokK .end1] [] [tokK .end1]) 1 env0 (rop 1) ∧
      Head (opState (rop 1) [tokK .end1] [] [tokK .end1]) env0 0 (tokK .end1) ∧
      Head (opState (rop 1) [tokK .end1] [] [tokK .end1]) env0 2 (tokK .end1) ∧ (tokK .end1).kind.isMark = true ∧
      outsFree (opState (rop 1) [tokK .end1] [] [tokK .end1]) env0 0 [0, 1] = true) ∧
    (UnitAt (opState (rop 2) [] [dat 5] [yes]) 2 env0 (rop 2) ∧ Head (opState (rop 2) [] [dat 5] [yes]) env0 2 yes ∧
      Head (opState (rop 2) [] [dat 5] [yes]) env0 (yes.pred != bitOf (rop 2).recd 4).toNat (dat 5) ∧
      headOf (opState (rop 2) [] [dat 5] [yes]) env0 0 0 = none ∧ outFree (opState (rop 2) [] [dat 5] [yes]) env0 0 0 = true) ∧
    (UnitAt (opState (rop 3) [dat 5] [dat 6] [no]) 3 env0 (rop 3) ∧ Head (opState (rop 3) [dat 5] [dat 6] [no]) env0 0 (dat 5) ∧
      Head (opState (rop 3) [dat 5] [dat 6] [no]) env0 1 (dat 6) ∧ Head (opState (rop 3) [dat 5] [dat 6] [no]) env0 2 no ∧
      no.kind = .data ∧ outFree (opState (rop 3) [dat 5] [dat 6] [no]) env0 0 0 = true) ∧
    (UnitAt (opState (rop 7) [no] [] []) 7 env0 (rop 7) ∧ Head (opState (rop 7) [no] [] []) env0 0 no ∧
      no.pred = bitOf (rop 7).recd 4) ∧
    (UnitAt (opState (rop 7) [yes] [] []) 7 env0 (rop 7) ∧ Head (opState (rop 7) [yes] [] []) env0 0 yes ∧
      yes.pred ≠ bitOf (rop 7).recd 4 ∧ outFree (opState (rop 7) [yes] [] []) env0 0 0 = true) := by
  unfold UnitAt Head Plain; and_intros <;> decide +kernel

/-- A COLLECT beside the DISTRIB in unit 1 whose ring says 1. -/
def collectState : State :=
  let s := opState (rop 0x19) [] [dat 5] []
  { s with fab := { s.fab with opunits := [(0, rop 0x19), (1, { rop 8 with ring := [1] })] } }

/-- OperatorForms, second half: DISTRIB in its three modes, COLLECT, TAP with a token, with EOS, with an end marker of its level, with
one below it and with a round marker, SEAL. -/
theorem met_OperatorForms_streams :
    (UnitAt (opState (rop 8) [dat 5] [] [yes]) 8 env0 (rop 8) ∧ (rop 8).ring.length < 256 ∧ bitsOf (rop 8).recd 5 4 = 0 ∧
      Head (opState (rop 8) [dat 5] [] [yes]) env0 0 (dat 5) ∧ Head (opState (rop 8) [dat 5] [] [yes]) env0 2 yes ∧ Plain (dat 5) ∧
      outFree (opState (rop 8) [dat 5] [] [yes]) env0 0 yes.pred.toNat = true) ∧
    (UnitAt (opState (rop 0x18) [dat 5] [] []) 8 env0 (rop 0x18) ∧ bitsOf (rop 0x18).recd 5 4 = 1 ∧
      Head (opState (rop 0x18) [dat 5] [] []) env0 0 (dat 5) ∧ outFree (opState (rop 0x18) [dat 5] [] []) env0 0 0 = true) ∧
    (UnitAt (opState (rop 0x28) [dat 5] [] []) 8 env0 (rop 0x28) ∧ 2 ≤ bitsOf (rop 0x28).recd 5 4 ∧
      Head (opState (rop 0x28) [dat 5] [] []) env0 0 (dat 5) ∧ outFree (opState (rop 0x28) [dat 5] [] []) env0 0 0 = true) ∧
    (UnitAt collectState 9 env0 (rop 0x19) ∧ (getUnit collectState 0 (bitsOf (rop 0x19).recd 5 4)).ring = [1] ∧
      Head collectState env0 1 (dat 5) ∧ outFree collectState env0 0 0 = true) ∧
    (UnitAt (opState (rop 10) [dat 5] [] []) 10 env0 (rop 10) ∧ Head (opState (rop 10) [dat 5] [] []) env0 0 (dat 5) ∧
      (dat 5).kind.isMark = false ∧ outFree (opState (rop 10) [dat 5] [] []) env0 0 0 = true) ∧
    (UnitAt (opState (rop 10) [tokK .eos] [] []) 10 env0 (rop 10) ∧ Head (opState (rop 10) [tokK .eos] [] []) env0 0 (tokK .eos)) ∧
    (∀ p, p ∈ [(TokKind.end2, true), (.end1, false), (.round, false)] →
      envOf (opState (rop 0x8A) [tokK p.1] [] []) 0 0 = some env0 ∧ recKind (rop 0x8A).recd = 10 ∧
      headOf (opState (rop 0x8A) [tokK p.1] [] []) env0 0 0 = some (tokK p.1) ∧ outFree (opState (rop 0x8A) [tokK p.1] [] []) env0 0 0 = true ∧
      0 < bitsOf (rop 0x8A).recd 7 6 ∧ (p.2 = true → p.1 = endOf 2 ∧ bitsOf (rop 0x8A).recd 7 6 ≤ 2) ∧
      (p.1 = .end1 → p.1 = endOf 1 ∧ 1 < bitsOf (rop 0x8A).recd 7 6)) ∧
    (let x := { rop 11 with sealReq := true }
     UnitAt (opState x [] [] []) 11 env0 x ∧ headOf (opState x [] [] []) env0 0 2 = none ∧ x.isSealed = false ∧ x.sealReq = true ∧
     bitsOf x.recd 5 4 = 0 ∧ x.eosA = false ∧ outFree (opState x [] [] []) env0 0 0 = true) ∧
    (UnitAt (opState (rop 11) [dat 5] [] []) 11 env0 (rop 11) ∧ headOf (opState (rop 11) [dat 5] [] []) env0 0 2 = none ∧
      (rop 11).sealReq = false ∧ Head (opState (rop 11) [dat 5] [] []) env0 0 (dat 5)) ∧
    (UnitAt (opState (rop 11) [] [] [yes]) 11 env0 (rop 11) ∧ Head (opState (rop 11) [] [] [yes]) env0 2 yes ∧ yes.pred = true) := by
  unfold UnitAt Head Plain; and_intros <;> decide +kernel

/-- A CONTROL with one child and a count of 3. -/
def ctlUnit : OpUnit :=
  { rop 0x0000030000000_10C with outst := [0, 0, 0, 0], toSend := [0, 0, 0, 0], endDue := [false, false, false, false] }

/-- A CARRY in its loop with a decision. -/
def carrying (w : Nat) (d : Token) : State := opState { rop (BitVec.ofNat 64 w) with loop := true } [] [dat 6] [d]

/-- A unit whose input A is fed by a link. -/
def fedState (x : OpUnit) (a : List Token) : State :=
  let s := opState x a [] []
  { s with fab := { s.fab with switch := [(40, 0x001)] } }

/-- LoopForms: CARRY outside and inside its loop; INVAR by number and by decision; COUNT before, in and after a run; CONTROL with a
done token, a permit to send, and a run to start. -/
theorem met_LoopForms :
    (UnitAt (opState (rop 4) [dat 5] [] []) 4 env0 (rop 4) ∧ (rop 4).loop = false ∧
      headOf (opState (rop 4) [dat 5] [] []) env0 0 1 = none ∧ headOf (opState (rop 4) [dat 5] [] []) env0 0 2 = none ∧
      Head (opState (rop 4) [dat 5] [] []) env0 0 (dat 5) ∧ Plain (dat 5) ∧ outFree (opState (rop 4) [dat 5] [] []) env0 0 0 = true) ∧
    (∀ w, w ∈ [(4 : Nat), 0x14] → ∀ d, d ∈ [yes, no] →
      (carrying w d).fab.opunits.get? 0 = some { rop (BitVec.ofNat 64 w) with loop := true } ∧
      headOf (carrying w d) env0 0 1 = some (dat 6) ∧ headOf (carrying w d) env0 0 0 = none ∧ headOf (carrying w d) env0 0 2 = some d ∧
      envOf (carrying w d) 0 0 = some env0 ∧ recKind (BitVec.ofNat 64 w) = 4 ∧ outFree (carrying w d) env0 0 1 = true) ∧
    (UnitAt (opState (rop 0x25) [dat 5] [] []) 5 env0 (rop 0x25) ∧ bitsOf (rop 0x25).recd 27 4 = 2 ∧ (rop 0x25).rep + 1 < 2 ∧
      Head (opState (rop 0x25) [dat 5] [] []) env0 0 (dat 5) ∧ outFree (opState (rop 0x25) [dat 5] [] []) env0 0 0 = true) ∧
    (UnitAt (opState (rop 5) [dat 5] [] [no]) 5 env0 (rop 5) ∧ bitsOf (rop 5).recd 27 4 = 0 ∧ (rop 5).invDrain = false ∧
      Head (opState (rop 5) [dat 5] [] [no]) env0 2 no) ∧
    (∀ r, r ∈ [none, some (0, (0 : Int)), some (3, 0)] →
      (let x := { rop 0x0000030001000006 with run := r }
       let s := fedState x [dat 5]
       envOf s 0 0 = some env0 ∧ unitIsSource s 0 0 x = false ∧ recKind x.recd = 6 ∧ bitsOf x.recd 63 40 = 3 ∧ bitOf x.recd 5 = false ∧ bitsOf x.recd 7 6 = 0 ∧
       headOf s env0 0 0 = some (dat 5) ∧ outFree s env0 0 0 = true ∧ outFree s env0 0 1 = true)) ∧
    (let x := { rop 0x00000300010000A6 with run := some (0, 0) }
     let s := fedState { x with run := some (3, 0) } []
     UnitAt (fedState x []) 6 env0 x ∧ bitOf x.recd 5 = true ∧ bitsOf x.recd 7 6 = 2 ∧ unitIsSource (fedState x []) 0 0 x = false ∧
     unitIsSource s 0 0 { x with run := some (3, 0) } = false ∧
     headOf s env0 0 0 = none ∧ outFree s env0 0 0 = true ∧ outFree s env0 0 1 = true) ∧
    (let x := ctlUnit
     UnitAt (opState { x with outst := [1, 0, 0, 0] } [tokK .done] [] []) 12 env0 { x with outst := [1, 0, 0, 0] } ∧
     0 < bitsOf x.recd 10 8 ∧ bitsOf x.recd 10 8 ≤ 1 ∧
     childHead (opState x [] [] []) env0 0 = none ∧ ctlMark (opState x [] [] []) env0 x = none ∧ ctlLimit x.recd 0 = true ∧
     outFree (opState x [] [] []) env0 0 0 = true ∧ bitsOf x.recd 13 12 = 0 ∧
     UnitAt (opState x [] [] [dat 1]) 12 env0 x ∧ Head (opState x [] [] [dat 1]) env0 2 (dat 1) ∧ bitOf x.recd 11 = false ∧
     0 < bitsOf x.recd 63 40 ∧ x.active = false ∧ x.parentEos = false ∧ x.eosSent = false) := by
  unfold UnitAt Head Plain; and_intros <;> decide +kernel

end Sys2Proof.Tests
end

