-- ==== Sys2Proof/Tests/MetStreams.lean ====
section
/-! SUPPORT. Witnesses for the statements about links, streams, FIFO regions and memory tiles. -/
namespace Sys2Proof.Tests
open Sys2Proof.Machine Sys2Proof.Claims
set_option Elab.async false

/-! ### Links -/

/-- A PASS on L in slot 0, egress channel 0 of tile(0,0) routed to its own ingress channel 0, which is bound to that latch. -/
def linked (tok : Token) : State :=
  let s := elemState (slotWith 0x52000000 0 none none)
  setBuf { s with ops := [0, 4], fab := { s.fab with switch := [(32, 0x201)], ingress := [(0, [2])] } } 64 [tok]

/-- TokenTransfer: a good token and one of an unknown kind on a link; a token at an ingress channel. -/
theorem met_TokenTransfer :
    (∀ k, k ∈ [TokKind.data, .bad 9] →
      (linked (tokK k)).op 1 ≠ 7 ∧ linkEnv (linked (tokK k)) ((linked (tokK k)).op 0) = some env0 ∧
      portLinks (linked (tokK k)) 0 4 = [(32, 0x201)] ∧ linkReady (linked (tokK k)) 0 (32, 0x201) = some (64, tokK k) ∧
      getBuf (linked (tokK k)) 64 = [tokK k]) ∧
    landing (served (setBuf (linked (tokK .data)) 64 []) (0, 32)) (4096 * 32) 0 (32, 0x201) = some ([(0, 32)], 80) ∧
    (let s : State := setBuf { elemState (slotWith 0x52000000 0 none none) with
       ops := [0, 0], fab := { (elemState (slotWith 0x52000000 0 none none)).fab with switch := [(0, 0x201)], tileSec := [(0, 0)] } } 64 [dat 5]
     s.op 1 ≠ 7 ∧ linkEnv s (s.op 0) = some env0 ∧ portLinks s 0 0 = [(0, 0x201)] ∧ linkReady s 0 (0, 0x201) = some (64, dat 5) ∧
     getBuf s 64 = [dat 5] ∧ ((landing (served (setBuf s 64 []) (0, 0)) (4096 * 32) 0 (0, 0x201)).map (·.1) = some [(0, 0)]) ∧
     ((landing (served (setBuf s 64 []) (0, 0)) (4096 * 32) 0 (0, 0x201)).map (fun x => x.2 != 64) = some true)) ∧
    (let s := setBuf { linked (dat 5) with ops := [0, 7] } 80 [dat 5]
     s.op 1 = 7 ∧ envOf s (s.op 0) 0 = some env0 ∧ isCore 0 = true ∧ getBuf s (bufKey 0 5 0) = [dat 5] ∧
     ingressOf s 0 0 = some (0, .l) ∧ slotReads (getSlot s 0 0) .l = true ∧ (getSlot s 0 0).latch .l = none ∧
     env0.atStop (getSlot s 0 0).edge = false) := by
  and_intros <;> decide +kernel

/-! ### Streams -/

/-- The base state with VA 0x2_0000 onto the memory tile tile(1,0), whose window holds bytes. -/
def tiled (off : Nat) (bs : List Byte) : State :=
  let s := withCtx base (fun c => { c with ranges := setNth c.ranges 1 (0x20001, 1, 0xF0000010300C) })
  { s with st := { s.st with mem := cellsSet s.st.mem (tileKey 1 off) bs } }

/-- A record of LEN0 elements of 4 bytes, with CTL's upper bits. -/
def pat (base len ctl : Word) : List Word := [base, 0x0001000100010000 + len, 1, 0, 0, ctl, 0, 0]

/-- A stream over a record, not owned by a section. -/
def strm (p : List Word) : Stream := Stream.start p 0 1 none none 0

/-- Generator 0 of a tile runs a stream; its egress channel 0 is read by a link of the tile's own, eastward with one slot. -/
def genState (s : State) (t : Tid) (r : Stream) : State :=
  let s := setSec { s with ops := [t, 0] } 0 { Section.reset with state := .loaded, tiles := [t], launch := 1 }
  setGen { s with fab := { s.fab with tileSec := [(t, 0)], switch := [(t * 64 + 8, 0x201)] } } t 0 ⟨r.words, 0, some r⟩

/-- An egress channel has room where its link does and nothing waits in it, however many places it has. -/
theorem egressFree_of {s : State} {t : Tid} {ch : Nat} {l : Nat × BitVec 16} (h : linkReading s t (32 + ch) = some l)
    (he : getBuf s (bufKey t 4 ch) = []) (hf : linkFree s t l = true) : egressFree s t ch = true := by
  unfold egressFree
  simp only [h, he, hf]
  split
  · rfl
  · simp only [List.length_nil, decide_eq_true_eq]; omega

/-- A path has a place where a link of no slots alone follows it to a unit. -/
theorem egressPlaces_of {s : State} {t : Tid} {ch : Nat} {l : Nat × BitVec 16} (h : linkReading s t (32 + ch) = some l)
    (hp : pulled s (4096 * 32) t l = true) : egressPlaces s t ch ≠ 0 := by
  unfold egressPlaces
  simp only [h, hp, and_true]
  split <;> omega

/-- Environment of that stream. -/
def genv (t : Tid) : GEnv := ⟨t, 0, 0, false⟩

/-- A read stream of two elements of tile(1,0), and one of a headland tile over near memory. -/
def rdTile : Stream := strm (pat 0x20000 2 0x0002000000000000)
def rdHead : Stream := strm (pat 0x10000 2 0x0002000000000000)

/-- A write stream of two elements of tile(1,0). -/
def wrTile : Stream := strm (pat 0x20000 2 0x0802000000000000)

/-- A write stream of two elements of a headland tile over near memory. -/
def wrHead : Stream := strm (pat 0x10000 2 0x0802000000000000)

/-- A read stream by coordinates: BOUND 8, LEN0 1, coordinates on channel 1. -/
def coordPat : List Word := [0x20000, 1, 0x100000001, 0, 8, 0x1002000400000000, 0, 0]
def rdCoord : Stream := strm coordPat

/-- A FIFO region of 4 tokens from the start of tile(1,0), with COUNT 1 and a request of slot 0 of tile(0,0). -/
def fifoState (push : Bool) : State :=
  let s := setRegion (tiled 0 []) 1 0 (0x2000000000200000, 1)
  { s with ops := [1, 0], tl := { s.tl with fifoReqs := [(8, [⟨push, dat 5, none, .slot 0 0⟩])] } }

/-- A tile whose egress channel 0 feeds input A of its operator unit 0 over a link of no slots. -/
def pulledState : State := { genState base 1 rdTile with fab := { (genState base 1 rdTile).fab with switch := [(1 * 64 + 40, 0x200)] } }

/-- GeneratorEvents: a token and an EOS to send; an egress path with a place; an access that is kept whole. -/
theorem met_GeneratorEvents_send :
    (∀ k, k ∈ [TokKind.data, .eos] →
      ((getGen (genState base 1 { rdTile with outQ := [tokK k] }) 1 0).run = some { rdTile with outQ := [tokK k] } ∧
      gEnv (genState base 1 { rdTile with outQ := [tokK k] }) 1 0 { rdTile with outQ := [tokK k] } = some (genv 1)) ∧
      egressFree (genState base 1 { rdTile with outQ := [tokK k] }) 1 (patDch rdTile.words) = true) ∧
    (linkReading pulledState 1 32 = some (40, 0x200) ∧ egressPlaces pulledState 1 0 ≠ 0) ∧
    (base.xl.tear = [] ∧ base.xl.torn = []) := by
  refine ⟨?_, ⟨by decide +kernel, egressPlaces_of (l := (40, 0x200)) (by decide +kernel) (by decide +kernel)⟩, by decide +kernel⟩
  intro k hk
  simp only [List.mem_cons, List.not_mem_nil, or_false] at hk
  rcases hk with rfl | rfl <;>
    exact ⟨by decide +kernel, egressFree_of (l := (8, 0x201)) (by decide +kernel) (by decide +kernel) (by decide +kernel)⟩

/-- An element that passes its checks and goes where it was addressed, the stream unchanged. -/
def placed (s : State) (e : GEnv) (r : Stream) (wr : Bool) (p : Nat × Nat → Bool) : Bool :=
  match elemPlace s e r (elemVA r.words r.e) wr with
  | (.ok x, r', _) => decide (r' = r) && p x
  | _ => false

/-- What StreamAt asks, decided. -/
def streamAt (s : State) (e : GEnv) (r : Stream) : Bool :=
  decide ((getGen s (s.op 0) (s.op 1)).run = some r) && decide (gEnv s (s.op 0) (s.op 1) r = some e) && r.held.isNone && !e.atStop &&
    !streamHeld s r && r.outQ.isEmpty

/-- What streamAt says. -/
theorem streamAt_spec {s : State} {e : GEnv} {r : Stream} (h : streamAt s e r = true) : StreamAt s e r := by
  simpa [streamAt, StreamAt, and_assoc, Bool.and_eq_true] using h

/-- GeneratorEvents: the next element of a memory tile, of a headland tile, and the end of the elements. -/
theorem met_GeneratorEvents_read :
    (streamAt (genState (tiled 0 []) 1 rdTile) (genv 1) rdTile = true ∧ patWrite rdTile.words = false ∧ rdTile.srcDone = false ∧
      patMode rdTile.words ≠ 1 ∧ (genv 1).edges ≤ rdTile.edge ∧ rdTile.stopping = false ∧ rdTile.skips = 0 ∧ rdTile.zeros = 0 ∧
      rdTile.e < patCount rdTile.words ∧ genFifo (genState (tiled 0 []) 1 rdTile) (genv 1) rdTile = none ∧ isHead 1 = false ∧
      placed (genState (tiled 0 []) 1 rdTile) (genv 1) rdTile false (fun x =>
        okWith (apart (bindRead (genState (tiled 0 []) 1 rdTile) (genWho (genv 1) rdTile) 0x20000) (genReader (bindRead
          (genState (tiled 0 []) 1 rdTile) (genWho (genv 1) rdTile) 0x20000) (genv 1) rdTile false) x.1 x.2 (.read 4)) (fun bs _ => bs == [0, 0, 0, 0])) = true) ∧
    (streamAt (genState base 4096 rdHead) (genv 4096) rdHead = true ∧ genFifo (genState base 4096 rdHead) (genv 4096) rdHead = none ∧
      isHead 4096 = true ∧ headReqs (genState base 4096 rdHead) 4096 < 256 ∧
      placed (genState base 4096 rdHead) (genv 4096) rdHead false (fun x => x.1 == 0x10000) = true) ∧
    (streamAt (genState base 1 { rdTile with e := 2 }) (genv 1) { rdTile with e := 2 } = true ∧ patCount rdTile.words ≤ 2 ∧
      rdTile.inflight = [] ∧ rdTile.fill = 0 ∧ rdTile.touched = [] ∧ rdTile.bufs = []) := by
  decide +kernel

/-- An element of a line request in flight, with the bytes its reply has brought. -/
def asked (bs : Option (List Byte)) : LineElem := ⟨0x10000, 0x10000, 0, false, 0, false, false, false, true, 0, bs⟩

/-- GeneratorEvents: a line request to perform and one whose bytes are here; a coordinate token and an index within the bound. -/
theorem met_GeneratorEvents_gather :
    (let r := { rdHead with e := 2, inflight := [asked none] }
     let s := genState base 4096 r
     (getGen s 4096 0).run = some r ∧ gEnv s 4096 0 r = some (genv 4096) ∧ (asked none).ready = false ∧
     runsDue s (genv 4096) r = [0] ∧ runAt r.inflight 0 = [asked none] ∧
     okWith (iaAccess s (genReader s (genv 4096) r false) (0x10000 / 128 * 128) 0 (.read 128)) (fun _ _ => true) = true) ∧
    (let r := { rdHead with e := 2, inflight := [asked (some [1, 2, 3, 4])] }
     let s := genState base 4096 r
     (getGen s 4096 0).run = some r ∧ gEnv s 4096 0 r = some (genv 4096) ∧ (asked (some [1, 2, 3, 4])).ready = true ∧
     r.outQ = [] ∧ (asked (some [1, 2, 3, 4])).poison = false ∧ (asked (some [1, 2, 3, 4])).mark = 0) ∧
    (let s := setBuf (genState base 1 rdCoord) (bufKey 1 5 (patCch rdCoord.words)) [dat 5]
     streamAt s (genv 1) rdCoord = true ∧ patMode rdCoord.words = 1 ∧ rdCoord.srcDone = false ∧ rdCoord.zeros = 0 ∧ rdCoord.skips = 0 ∧
     rdCoord.inflight = [] ∧ rdCoord.endSeen = false ∧ rdCoord.stopping = false ∧ rdCoord.coord = none ∧
     inHead s 1 (cchLink rdCoord) = some (dat 5)) ∧
    (let r := { rdCoord with coord := some (dat 5, 0) }
     streamAt (genState base 1 r) (genv 1) r = true ∧ 0 < coordLanes r.words ∧ coordIndex r.words (dat 5) 0 = some 5 ∧
     coordPolicy r.words 5 = none) := by
  decide +kernel

/-- GeneratorEvents: a write stream's next token, one of its slots, and its end. -/
theorem met_GeneratorEvents_write :
    (let s := setBuf (genState (tiled 0 []) 1 wrTile) (bufKey 1 5 (patDch wrTile.words)) [dat 5]
     streamAt s (genv 1) wrTile = true ∧ patWrite wrTile.words = true ∧ wrTile.endSeen = false ∧ wrTile.stopping = false ∧ wrTile.merge = [] ∧ wrTile.inTok = none ∧
     patSp24 wrTile.words = false ∧ inHead s 1 (dchLink wrTile) = some (dat 5)) ∧
    (let r := { wrTile with inTok := some (dat 5, 0) }
     let s := genState (tiled 0 []) 1 r
     streamAt s (genv 1) r = true ∧ 0 < 64 / elemBytes r ∧ slotLive r (dat 5) 0 = true ∧ r.stopping = false ∧ patMode r.words ≠ 1 ∧
     r.e < patCount r.words ∧ genFifo s (genv 1) r = none ∧
     placed s (genv 1) r true (fun x =>
       okWith (apart (bindRead s (genWho (genv 1) r) 0x20000) (genWho (genv 1) r) x.1 x.2
         (.write (allSome (slotBytes r (dat 5) 0)))) (fun _ s1 => decide ((rowWritten s1 (genv 1) r x.1 4).2 = r))) = true) ∧
    (let r := { wrHead with inTok := some (dat 5, 0) }
     let s := genState base 4096 r
     streamAt s (genv 4096) r = true ∧ patWrite r.words = true ∧ isHead 4096 = true ∧ slotLive r (dat 5) 0 = true ∧ r.merge = [] ∧
     placed s (genv 4096) r true (fun x => joinsMerge s (genv 4096) r x.1 x.2) = true) ∧
    (let r := { wrHead with merge := [asked (some [1, 2, 3, 4])] }
     let s := genState base 4096 r
     (getGen s 4096 0).run = some r ∧ gEnv s 4096 0 r = some (genv 4096) ∧ r.held = none ∧ mergeClosed s (genv 4096) r = true ∧
     okWith (iaPerform s (genWho (genv 4096) r) (0x10000 / 128 * 128) 0 (.write (mergeRow 128 (mergeRun r.merge)))) (fun _ _ => true) = true) ∧
    (let r := { wrTile with endSeen := true }
     let s := genState base 1 r
     ((getGen s 1 0).run = some r ∧ gEnv s 1 0 r = some (genv 1) ∧ r.held = none ∧ r.outQ = [] ∧ patMode r.words ≠ 1) ∧
     egressFree s 1 (patDch r.words) = true) := by
  refine ⟨by decide +kernel, by decide +kernel, by decide +kernel, by decide +kernel, by decide +kernel, ?_⟩
  exact egressFree_of (l := (8, 0x201)) (by decide +kernel) (by decide +kernel) (by decide +kernel)

/-- GeneratorEvents: a slot's push and pop at a FIFO region. -/
theorem met_GeneratorEvents_fifo :
    (let s := fifoState true
     let q : FifoReq := ⟨true, dat 5, none, .slot 0 0⟩
     tileDead s (s.op 0) = false ∧ (s.tl.fifoReqs.getD (s.op 0 * 8 + s.op 1) []).find? (fun q => q.push && pushReady s q.drawer 1 0) = some q ∧
     okWith (fifoPushNow (fifoDone s 8 q) none 1 0 q.tok) (fun _ _ => true) = true) ∧
    (let s := fifoState false
     let q : FifoReq := ⟨false, dat 5, none, .slot 0 0⟩
     tileDead s (s.op 0) = false ∧ (s.tl.fifoReqs.getD (s.op 0 * 8 + s.op 1) []).find? (fun q => !q.push && popReady s q.drawer 1 0) = some q ∧
     okWith (let x := fifoHeadToken (fifoDone s 8 q) 1 0; (x.1, x.2.1)) (fun bs _ => bs.length == 64) = true) := by
  decide +kernel

/-! ### Memory tiles -/

/-- Row 0 of tile(1,0) with the check symbols of d3 = 0x5A, as a bank that reads another value; a correction of byte 0 of bank 3 is
under way. -/
def upset (d3 : Byte) : State :=
  let w := (tileWrite (tiled 0 []) 1 (3 * 64) [some 0x5A]).2
  { w with
    st := { w.st with mem := cellSet w.st.mem (tileKey 1 (3 * 64)) d3 }
    tl := { w.tl with corrections := [(1, 0, 3, 0)] } }

/-- TileEvents: a correction that is still due, one that a write has put right; a scrubber that is due, overdue and not due. -/
theorem met_TileEvents :
    (correctedNow (upset 0x5B) 1 0 3 0 = some 0x5A ∧ correctedNow (upset 0x5A) 1 0 3 0 = none) ∧
    (let s (c : Nat) : State := { base with ops := [1], clk := { base.clk with cycle := c } }
     isMem 1 = true ∧ (s 0).boot.fallow.contains 1 = false ∧ 4096 ≤ scrubAge (s 4096) 1 ∧ tileWanted (s 4096) 1 = false ∧ 4096 + 65536 ≤ scrubAge (s 70000) 1 ∧
     scrubAge (s 4095) 1 < 4096) := by
  and_intros <;> decide +kernel

end Sys2Proof.Tests
end

