-- ==== Sys2Proof/Tests/Examples.lean ====
section
/-! SUPPORT. Tests whose expected results the spec itself works out: each names the example or the rule. -/
namespace Sys2Proof.Tests
open Sys2Proof.Machine Sys2Proof.Claims
set_option Elab.async false

/-- What p says of the state after an instruction. -/
def after (i : Instr) (s : State) (p : State → Bool) : Bool :=
  match exec i s with
  | .next s' => p s'
  | _ => false

/-- tile(33,2), the example of 00_scope: a memory tile of die 1, in quad(16,0). -/
theorem test_locate_tile :
    isMem (tidOf 33 2) = true ∧ dieOf (tidOf 33 2) = 1 ∧ quadOf (tidOf 33 2) = 16 ∧ windowTid 0xF0000A100000 = tidOf 33 2 := by
  decide +kernel

/-- R65, the example of a single upset in bank 3: 0x5B reads as 0x5A, and one correction is under way. -/
theorem test_single_upset :
    okWith (tileRead (upset 0x5B) 1 (3 * 64) 1) (fun bs s =>
      bs == [0x5A] && s.tl.corrections == [(1, 0, 3, 0), (1, 0, 3, 0)] && bitsOf (mtstat s 1) 63 32 == 1) = true := by
  decide +kernel

/-- R82, the example of 12 points in radices 4 then 3. -/
theorem test_digit_reversal :
    (List.range 12).map (fun i => digitRev [4, 3] i 0) = [0, 3, 6, 9, 1, 4, 7, 10, 2, 5, 8, 11] := by decide +kernel

/-- R81, the example of markers: LEN (3, 2, 1, 1), EMK 0b001. -/
theorem test_markers :
    (List.range 6).map (fun e => markAfter [0, 0x0001000100020003, 0, 0, 0, 0x200000000000, 0, 0] e) = [0, 0, 1, 0, 0, 0] := by
  decide +kernel

/-- R84, the example of a four-index gather: 7 and 2 are read at BASE + 56 and BASE + 16, 100 is past BOUND. -/
theorem test_gather_indices :
    let p : List Word := [0x10000, 4, 0x400000001, 0, 100, 0x1041000000000000, 0, 0]
    coordPolicy p 7 = none ∧ coordPolicy p 100 = some 1 ∧ coordPolicy p 2 = none ∧ indexVA p 7 0 = 0x10038 ∧ indexVA p 7 3 = 0x1003E ∧
    indexVA p 2 0 = 0x10010 := by decide +kernel

/-- R147, the example of one ALLRED on four members: 16,777,216, 1, 1 and 2 in binary32 give 16,777,220. -/
theorem test_allred_tree :
    (collTree 8 4 21 ([0x4B800000, 0x3F800000, 0x3F800000, 0x40000000].map (fun v => (v, [])))).1 = 0x4B800002 := by decide +kernel

/-- R167, the example of 0.3 into variant 0x17: the roundings to nearest, toward zero and toward +∞ (0.3 as 5,033,165 · 2^-24). -/
theorem test_encode_variant :
    (fmtB8 0x17).encode (roundTo (.fin false 5033165 (-24)) (fmtB8 0x17) .rn false 0).val = 0x32 ∧
    (fmtB8 0x17).encode (roundTo (.fin false 5033165 (-24)) (fmtB8 0x17) .rz false 0).val = 0x31 ∧
    (fmtB8 0x17).encode (roundTo (.fin false 5033165 (-24)) (fmtB8 0x17) .ru false 0).val = 0x32 := by decide +kernel

/-- R173, the examples of the bytes 0xC4 and 0xAD. -/
theorem test_trits : tritsOf 0xC4 = [1, -1, 0, 1, -1] ∧ tritsOf 0xAD = [-1, 0, 1, 0, -1] := by decide +kernel

/-- The data of R334's example: lanes 1, 5 and 14 hold 4, -3 and 7. -/
def winnowData : Payload :=
  BitVec.ofNat 512 (4 * 2 ^ 32 + (2 ^ 32 - 3) * 2 ^ 160 + 7 * 2 ^ 448)

/-- R334, the example of WINNOW on one token: indices 1, 5, 14 to A, values 4, -3, 7 to B, the counter at 16. -/
theorem test_winnow :
    after (.winnow (.i .s32) (.loc 8 .l) (.loc 9 .l)) (setSlot (setSlot (elemState (slotWith 0x47010A10 0x10000000 (some (dat winnowData)) none)) 0 8
        (slotWith 0x52000000 0 none none)) 0 9 (slotWith 0x52000000 0 none none)) (fun s =>
      (getSlot s 0 8).l == some ⟨.data, 7, true, BitVec.ofNat 512 (1 + 5 * 2 ^ 32 + 14 * 2 ^ 64)⟩ &&
      (getSlot s 0 9).l == some ⟨.data, 7, true, BitVec.ofNat 512 (4 + (2 ^ 32 - 3) * 2 ^ 32 + 7 * 2 ^ 64)⟩ &&
      (getSlot s 0 0).acc == 16) = true := by
  decide +kernel

/-- R457, the example of a tie: A wins the first after reset, B the second. -/
theorem test_semaphore_tie :
    after (.semaphoreRead 3 true true) base (fun s => s.host.reply == 1 &&
      after (.semaphoreWrite false 3 0) s (fun s => after (.semaphoreRead 3 true true) s (fun s => s.host.reply == 2))) = true := by
  decide +kernel

/-- R319: IADD.s16 wraps in every position. -/
theorem test_iadd_wraps :
    after (.iadd .s16 (.loc 1 .l) .none) (setSlot (elemState (slotWith 0 0 (some (dat 0xFFFF)) (some (dat 2)))) 0 1
      (slotWith 0x52000000 0 none none)) (fun s => (getSlot s 0 1).l == some (dat 1)) = true := by decide +kernel

/-- R257, R254: g0 reads as zero, and a divide by zero answers all ones; the pc goes on by 4. -/
theorem test_divide_by_zero :
    after (.divu 5 6 0) (at0 (core [(6, 9)])) (fun s => (getCore s 0).gpr 5 == BitVec.allOnes 64 && (getCore s 0).pc == 0x10004) = true := by
  decide +kernel

/-- R260: BLT compares signed, and goes to pc + 4 · offset. -/
theorem test_branch_back :
    after (.blt 6 0 0xFFFE) (at0 (core [(6, 0xFFFFFFFFFFFFFFFF)])) (fun s => (getCore s 0).pc == 0xFFF8) = true := by decide +kernel

/-- R108: once a byte is written during a launch, what it held before stays a value an invariant load may return. -/
theorem test_invariant_values :
    let s := (tileWrite (tiled 0 []) 1 0 [some 5]).2
    pastOf s 0 (windowIA 1 0) = [0] ∧ pastOf s 1 (windowIA 1 0) = [] ∧ pastOf s 0 (windowIA 1 1) = [] ∧
      (invBytes s 1 (windowIA 1 0) [5]).1 = [5] ∧ windowTid (windowIA 1 0) = 1 := by decide +kernel

end Sys2Proof.Tests
end

