-- ==== Sys2Proof/Tests/MetElement.lean ====
section
/-! SUPPORT. Witnesses for the statements about element slots, fragments and harrow stages. -/
namespace Sys2Proof.Tests
open Sys2Proof.Machine Sys2Proof.Claims
set_option Elab.async false

/-- An IADD slot to latch 1.L with data on both sides. -/
def addSlot : Slot := slotWith 0x01000000 0 (some (dat 5)) (some (dat 7))

/-- ElementIntegerPairs: IADD with both operands, ungated. -/
theorem met_ElementIntegerPairs :
    SlotAt (elemState addSlot) env0 addSlot (.loc 1 .l) .none ∧ Ungated (elemState addSlot) env0 addSlot ∧
    DataL addSlot (dat 5) ∧ DataR addSlot (dat 7) ∧ (intPair (.iadd .s32 (.loc 1 .l) .none)).isSome = true := by
  unfold SlotAt Ungated DataL DataR; and_intros <;> decide +kernel

/-- ElementIntegerOthers: one operand; ICMP's two; ISEL with its selector on P. -/
theorem met_ElementIntegerOthers :
    (SlotAt (elemState addSlot) env0 addSlot (.loc 1 .l) .none ∧ DataL addSlot (dat 5) ∧ Ungated (elemState addSlot) env0 addSlot ∧
      (intOne (.iabs .s32 (.loc 1 .l) .none)).isSome = true ∧ DataR addSlot (dat 7)) ∧
    (let x := { addSlot with p := some (dat 1) }
     SlotAt (elemState x) env0 x (.loc 1 .l) .none ∧ DataL x (dat 5) ∧ DataR x (dat 7) ∧ x.p = some (dat 1) ∧
     (dat 1).kind = .data ∧ latchPoison x.hp x.p = false) := by
  unfold SlotAt Ungated DataL DataR; and_intros <;> decide +kernel

/-- ElementTokens: poison beside data; PRED 0 in P; equal markers; a marker beside data. -/
theorem met_ElementTokens :
    (∀ k, k ∈ [TokKind.poison, .data] →
      (let x := slotWith 0x01000000 0 (some (tokK k)) (some (dat 7))
       SlotAt (elemState x) env0 x (.loc 1 .l) .none ∧ Ungated (elemState x) env0 x ∧ x.l = some (tokK k) ∧ x.r = some (dat 7) ∧
       (dat 7).kind.isData = true)) ∧
    (let x := { addSlot with p := some (tokK .data) }
     SlotAt (elemState x) env0 x (.loc 1 .l) .none ∧ x.p = some (tokK .data) ∧ (tokK .data).pred = false) ∧
    (let x := slotWith 0x01000000 0 (some (tokK .end1)) (some (tokK .end1))
     SlotAt (elemState x) env0 x (.loc 1 .l) .none ∧ Ungated (elemState x) env0 x ∧ TokKind.end1.isMark = true) ∧
    (let x := slotWith 0x01000000 0 (some (dat 5)) (some (tokK .eos))
     SlotAt (elemState x) env0 x (.loc 1 .l) .none ∧ Ungated (elemState x) env0 x ∧ (tokK .eos).kind.isMark = true) := by
  refine ⟨?_, ?_⟩
  · intro k hk
    simp only [List.mem_cons, List.not_mem_nil, or_false] at hk
    rcases hk with rfl | rfl <;> (unfold SlotAt Ungated; and_intros <;> decide +kernel)
  · unfold SlotAt Ungated; and_intros <;> decide +kernel

/-- A header of signed 32-bit integers, one of binary32, one that sets a reserved bit, and one of binary32 whose scales lie at VA 0x9_0000,
which no range matches. -/
def hdrTok (n : Nat) : Token := { tokK .header with data := BitVec.ofNat 512 (n + 64 * 2 ^ 32) }

/-- ElementTokens: headers: a malformed one, one of another format, one that is taken, on L and on R; one whose scales cannot be
read; a rewritten header that is due. -/
theorem met_ElementTokens_headers :
    HeaderOp (.iadd .s32 (.loc 1 .l) .none) (.loc 1 .l) .none (imodTy .s32) ∧
    HeaderOp (.fadd .f32 (.loc 1 .l) .none) (.loc 1 .l) .none (fmodTy .f32) ∧
    (∀ p, p ∈ [(0x154, true, false), (0x42, false, false), (0x54, false, true)] →
      (let x := slotWith 0x01000000 0 (some (hdrTok p.1)) (some (dat 7))
       SlotIn (elemState x) env0 x ∧ HeaderIn x .l (hdrTok p.1) ∧ hdrRefused (hdrTok p.1).data = p.2.1 ∧
       (p.2.1 = false → okWith ((hdrScales (elemState x) env0 x.fills (hdrTok p.1).data).1, (hdrScales (elemState x) env0 x.fills
        (hdrTok p.1).data).2.1) (fun sc _ => (imodTy .s32).accepts (hdrOf (hdrTok p.1).data sc) == p.2.2) = true)) ∧
      (let x := slotWith 0x01000000 0 (some (dat 5)) (some (hdrTok p.1))
       SlotIn (elemState x) env0 x ∧ HeaderIn x .r (hdrTok p.1))) ∧
    (let t := hdrTok (0x540042 + 0x90000 * 2 ^ 64)
     let x := slotWith 0x10000000 0 (some t) none
     SlotIn (elemState x) env0 x ∧ HeaderIn x .l t ∧ hdrRefused t.data = false ∧
     faultIs ((hdrScales (elemState x) env0 x.fills t.data).1, (hdrScales (elemState x) env0 x.fills t.data).2.1) Cause.nomap = true) ∧
    (let x := { addSlot with hdrOut := some (rewritten 0x54 64) }
     SlotIn (elemState x) env0 x ∧ x.hdrOut = some (rewritten 0x54 64) ∧ bothFree (elemState x) 0 0 (.loc 1 .l) .none = true) := by
  refine ⟨.inl ⟨_, _, rfl, rfl⟩, .inr ⟨_, _, rfl, rfl⟩, ?_, ?_⟩
  · intro p hp
    simp only [List.mem_cons, List.not_mem_nil, or_false] at hp
    rcases hp with rfl | rfl | rfl <;> (unfold SlotIn HeaderIn; and_intros <;> first
      | decide +kernel | exact .inl ⟨rfl, rfl⟩ | exact .inr ⟨rfl, rfl, fun l h => by cases h; decide⟩)
  · unfold SlotIn HeaderIn; and_intros <;> first | decide +kernel | exact .inl ⟨rfl, rfl⟩

/-- ElementFloat: f32 on both sides; f8 without a header. -/
theorem met_ElementFloat :
    SlotAt (elemState addSlot) env0 addSlot (.loc 1 .l) .none ∧ Ungated (elemState addSlot) env0 addSlot ∧
    DataL addSlot (dat 5) ∧ DataR addSlot (dat 7) ∧ (fltPair (.fadd .f32 (.loc 1 .l) .none)).isSome = true ∧
    (fltOne (.fabs .f32 (.loc 1 .l) .none)).isSome = true ∧ ((fmodTy .f32).fmt addSlot.hl).isSome = true ∧
    ((fmodTy .f32).fmt addSlot.hr).isSome = true ∧ (fltPair (.fadd .f8 (.loc 1 .l) .none)).isSome = true ∧ addSlot.hl = none := by
  unfold SlotAt Ungated DataL DataR; and_intros <;> decide +kernel

/-- ElementAccumulate: a product, an integer and a float accumulation. -/
theorem met_ElementAccumulate :
    SlotAt (elemState addSlot) env0 addSlot (.loc 1 .l) .none ∧ Ungated (elemState addSlot) env0 addSlot ∧
    DataL addSlot (dat 5) ∧ DataR addSlot (dat 7) ∧ ((fmodTy .f32).fmt addSlot.hl).isSome = true ∧
    ((fmodTy .f32).fmt addSlot.hr).isSome = true ∧ lmodTy (.i .s32) = .int 32 true ∧
    (∀ w sg, lmodTy (.f .f32) ≠ .int w sg) ∧ ((lmodTy (.f .f32)).fmt addSlot.hl).isSome = true := by
  unfold SlotAt Ungated DataL DataR
  and_intros <;> first | decide +kernel | (intro w sg h; exact nomatch h)

/-- ElementAccumulate: f8 without a header; poison on L for each form; a marker that closes the level, in the first firing and in the
second, and one that does not; RUN set, with a poisoned accumulator and with a good one. -/
theorem met_ElementAccumulate_others :
    ((DataR addSlot (dat 7) ∧ addSlot.hl = none) ∧ accOp (.fmac .f8 (.loc 1 .l) .none) = some (.loc 1 .l, .none, 8) ∧
      accOp (.acc (.i .s32) (.loc 1 .l) .none) = some (.loc 1 .l, .none, 32)) ∧
    (let x := slotWith 0x17000000 0 (some (tokK .poison)) (some (dat 7))
     SlotAt (elemState x) env0 x (.loc 1 .l) .none ∧ Ungated (elemState x) env0 x ∧ x.l = some (tokK .poison) ∧
     x.r = some (dat 7) ∧ (dat 7).kind.isData = true) ∧
    (∀ p, p ∈ [((1 : BitVec 32), 0, true), (1, 1, true), (2, 0, false)] →
      (let x := { slotWith 0x4B000000 p.1 (some (tokK .end1)) none with sub := p.2.1 }
       SlotAt (elemState x) env0 x (.loc 1 .l) .none ∧ Ungated (elemState x) env0 x ∧
       MarksIn (.acc (.i .s32) (.loc 1 .l) .none) x .end1 ∧ closes (x.const.toNat % 4) .end1 = p.2.2)) ∧
    accRun { addSlot with const := 4 } = true ∧ accRun { addSlot with const := 4, accPoison := true } = true := by
  refine ⟨?_, ?_, ?_, ?_⟩
  · unfold DataR; and_intros <;> decide +kernel
  · unfold SlotAt Ungated; and_intros <;> decide +kernel
  · intro p hp
    simp only [List.mem_cons, List.not_mem_nil, or_false] at hp
    rcases hp with rfl | rfl | rfl <;> (unfold SlotAt Ungated MarksIn; and_intros <;> first
      | decide +kernel | exact ⟨_, rfl, rfl⟩ | (intro h; exact nomatch h))
  · decide +kernel

/-- A CVT slot from binary32 to binary16, R a scale of 1. -/
def cvtSlot : Slot := slotWith 0x30000000 0x4042 (some (dat 5)) (some (dat 127))

/-- ElementConversion: a source format; a scale that is no NaN; TUNP that does not trap; UNPACK's two firings. -/
theorem met_ElementConversion :
    SlotAt (elemState cvtSlot) env0 cvtSlot (.loc 1 .l) .none ∧ Ungated (elemState cvtSlot) env0 cvtSlot ∧
    DataL cvtSlot (dat 5) ∧ DataR cvtSlot (dat 127) ∧ cvtSource cvtSlot.const.toNat cvtSlot.hl = some 0x42 ∧
    (dat 127).mask.getLsbD 0 = true ∧ (dat 127).data.toNat % 256 ≠ 255 ∧ cvtSlot.hr = none ∧ env0.ttrap = false ∧
    (slotWith 0x33000000 32 none none).const.toNat ≤ 32 ∧ cvtSlot.sub = 0 ∧
    (let x := { cvtSlot with sub := 1 }
     SlotAt (elemState x) env0 x (.loc 1 .l) .none ∧ Ungated (elemState x) env0 x ∧ DataL x (dat 5) ∧ x.sub ≠ 0) ∧
    outTokens (fmtWidth 0x42) (fmtWidth (cvtSlot.const.toNat / 256 % 256)) ≤ cvtSlot.sub + 1 ∧
    (let x := { cvtSlot with const := 0x4240 }
     SlotAt (elemState x) env0 x (.loc 1 .l) .none ∧ DataL x (dat 5) ∧ cvtSource x.const.toNat x.hl = some 0x40 ∧
     x.sub + 1 < outTokens (fmtWidth 0x40) (fmtWidth (x.const.toNat / 256 % 256))) := by
  unfold SlotAt Ungated DataL DataR; and_intros <;> decide +kernel

/-- ElementReductions: an integer and a float type. -/
theorem met_ElementReductions :
    SlotAt (elemState addSlot) env0 addSlot (.loc 1 .l) .none ∧ Ungated (elemState addSlot) env0 addSlot ∧ DataL addSlot (dat 5) ∧
    lmodTy (.i .z8) = .int 8 false ∧ (∀ w sg, lmodTy (.f .f16) ≠ .int w sg) ∧ ((lmodTy (.f .f16)).fmt addSlot.hl).isSome = true := by
  unfold SlotAt Ungated DataL
  and_intros <;> first | decide +kernel | (intro w sg h; exact nomatch h)

/-- ElementLanes: headers not needed; WINNOW's groups: none, one of one position, and the second of four; f8 data without a header,
on L and on R; a marker of WINNOW's level and one below it. -/
theorem met_ElementLanes :
    (SlotAt (elemState addSlot) env0 addSlot (.loc 1 .l) .none ∧ Ungated (elemState addSlot) env0 addSlot ∧
      DataL addSlot (dat 5) ∧ DataR addSlot (dat 7) ∧ lacksHeader (lmodTy (.i .s32)) addSlot.hl = false ∧
      lacksHeader (lmodTy (.i .s32)) addSlot.hr = false ∧ addSlot.sub = 0 ∧ winnowed (lmodTy (.i .s32)) addSlot (dat 5) = [0] ∧
      lacksHeader (lmodTy (.f .f8)) addSlot.hl = true ∧ lacksHeader (lmodTy (.f .f8)) addSlot.hr = true ∧
      (readsOf (.lshuf (.f .f8) (.loc 1 .l) .none)).2 = true ∧ (readsOf (.winnow (.f .f8) (.loc 1 .l) .none)).2 = false) ∧
    (let x := slotWith 0 0 (some (dat 0)) none
     SlotAt (elemState x) env0 x (.loc 1 .l) .none ∧ DataL x (dat 0) ∧ winnowed (lmodTy (.i .s32)) x (dat 0) = []) ∧
    (let x := { slotWith 0 0 (some (dat (BitVec.allOnes 512))) none with sub := 1 }
     SlotAt (elemState x) env0 x (.loc 1 .l) .none ∧ DataL x (dat (BitVec.allOnes 512)) ∧
     (winnowed (lmodTy (.i .s8)) x (dat (BitVec.allOnes 512))).length = 64 ∧
     ((winnowed (lmodTy (.i .s8)) x (dat (BitVec.allOnes 512))).drop (16 * x.sub)).take 16 ≠ []) ∧
    (∀ p, p ∈ [((0x10000000 : BitVec 32), true), (0x20000000, false)] →
      (let x := slotWith 0 p.1 (some (tokK .end1)) none
       SlotAt (elemState x) env0 x (.loc 1 .l) .none ∧ Ungated (elemState x) env0 x ∧
       MarksIn (.winnow (.i .s32) (.loc 1 .l) .none) x .end1 ∧ closes (x.const.toNat / 2 ^ 28 % 4) .end1 = p.2)) := by
  refine ⟨?_, ?_, ?_, ?_⟩
  · unfold SlotAt Ungated DataL DataR; and_intros <;> decide +kernel
  · unfold SlotAt DataL; and_intros <;> decide +kernel
  · unfold SlotAt DataL; and_intros <;> decide +kernel
  · intro p hp
    simp only [List.mem_cons, List.not_mem_nil, or_false] at hp
    rcases hp with rfl | rfl <;> (unfold SlotAt Ungated MarksIn; and_intros <;> first
      | decide +kernel | exact ⟨_, rfl, rfl⟩ | (intro h; exact nomatch h))

/-- ElementStreams: PASS; SJOIN with L's key the lesser; IOTA at its end, in its run of integers and of floats, and before an edge. -/
theorem met_ElementStreams :
    (SlotAt (elemState addSlot) env0 addSlot (.loc 1 .l) .none ∧ Ungated (elemState addSlot) env0 addSlot ∧ DataL addSlot (dat 5)) ∧
    (let x := slotWith 0x50000000 0x11 (some (dat 5)) (some (dat 7))
     SlotAt (elemState x) env0 x (.loc 1 .l) .none ∧ DataL x (dat 5) ∧ DataR x (dat 7) ∧
     lacksHeader (lmodTy (.i .s32)) x.hl = false ∧ lacksHeader (lmodTy (.i .s32)) x.hr = false ∧ x.const.toNat % 256 = 0x11 ∧
     ∃ a b, keyOf (lmodTy (.i .s32)) x.hl (dat 5) = some a ∧ keyOf (lmodTy (.i .s32)) x.hr (dat 7) = some b ∧
       keyCmp a b = .lt) ∧
    (let x := slotWith 0x54000000 20 none none
     SlotAt (elemState x) env0 x (.loc 1 .l) .none ∧ x.ended = false ∧ env0.edges ≤ x.edge ∧ x.cnt < x.const.toNat ∧
     pBound (elemState x) 0 0 = false ∧ lmodTy (.i .s32) = .int 32 true ∧ lmodTy (.f .f32) = .flt fmt32 0x42) ∧
    (let x := { slotWith 0x54000000 20 none none with cnt := 20 }
     SlotAt (elemState x) env0 x (.loc 1 .l) .none ∧ x.ended = false ∧ x.const.toNat ≤ x.cnt) ∧
    (let x := slotWith 0x54000000 20 none none
     let s := setSec (elemState x) 0 { Section.reset with state := .armed, tiles := [0], tcount := 5, launch := 1, edges := 1 }
     SlotAt s { env0 with edges := 1 } x (.loc 1 .l) .none ∧ x.edge < 1) := by
  unfold SlotAt Ungated DataL DataR
  and_intros <;> first | decide +kernel | exact ⟨_, _, rfl, rfl, by decide +kernel⟩

/-! ### Ports -/

/-- An LDT slot, east, whose L holds VA 0x2_0000. -/
def ldtSlot : Slot := slotWith 0x60400000 0 (some (dat 0x20000)) none

/-- Its access, issued. -/
def winOp : PortOp := ⟨0x20000, 0xF00000100000, 3, false, 0⟩

/-- An event of slot 0 of tile(0,0). -/
def elemEvent (x : Slot) : State := { elemState x with ops := [0, 0] }

/-- A port slot with its access issued and 64 bytes on R. -/
def portSlot (word const : BitVec 32) : Slot := { slotWith word const (some (dat 0x20000)) (some (dat 3)) with ops := [winOp] }

/-- PortForms: an access whose checks pass, one with its first lane masked; the completion of a load, a store, an atomic, a
reduction, and a load that meets a failed tile. -/
theorem met_PortForms :
    (portKind (.ldt .e false .none .none) = some .ldt ∧ portDir (.ldt .e false .none .none) = some .e ∧
      SlotAt (elemState ldtSlot) env0 ldtSlot .none .none ∧ Ungated (elemState ldtSlot) env0 ldtSlot ∧ DataL ldtSlot (dat 0x20000) ∧
      (readsOf (.ldt .e false .none .none)).2 = false ∧ ldtSlot.ops = [] ∧ (dat 0x20000).mask.getLsbD 0 = true ∧
      portEmpty .ldt ldtSlot = false ∧ portHeld (elemState ldtSlot) 0 (dirNat .e) = false ∧
      gives (translate (elemState ldtSlot) (elemWho env0) (portVA (dat 0x20000) (portDisp .ldt ldtSlot))
        (portPerm (.ldt .e false .none .none) .ldt)) (0xF00000100000, 3) = true ∧
      inWindow 0xF00000100000 = true ∧ neighbour 0 (dirNat .e) = some (windowTid 0xF00000100000) ∧
      (portVA (dat 0x20000) (portDisp .ldt ldtSlot)).toNat % portAlign .ldt ldtSlot = 0) ∧
    (let x := slotWith 0x60400000 0 (some { dat 0x20000 with mask := 2 }) none
     SlotAt (elemState x) env0 x .none .none ∧ DataL x { dat 0x20000 with mask := 2 } ∧
     ({ dat 0x20000 with mask := 2 } : Token).mask.getLsbD 0 = false) ∧
    (∀ p, p ∈ [((0x60400000 : BitVec 32), (0 : BitVec 32), PortKind.ldt), (0x61400000, 0, .stt), (0x64400000, 0, .amo),
        (0x65400000, 0, .rdx)] →
      envOf (elemEvent (portSlot p.1 p.2.1)) ((elemEvent (portSlot p.1 p.2.1)).op 0) ((elemEvent (portSlot p.1 p.2.1)).op 1) = some env0 ∧
      getSlot (elemEvent (portSlot p.1 p.2.1)) 0 0 = portSlot p.1 p.2.1 ∧ (portSlot p.1 p.2.1).ops = [winOp] ∧
      (portSlot p.1 p.2.1).held = none ∧ winOp.ia ≠ 0 ∧ portEarlier (elemEvent (portSlot p.1 p.2.1)) 0 (dirNat .e) winOp.since = false ∧
      bothFree (elemEvent (portSlot p.1 p.2.1)) 0 0 .none .none = true) ∧
    (decodeElem 0x60400000 = .ok (.ldt .e false .none .none) ∧ decodeElem 0x61400000 = .ok (.stt .e) ∧
      decodeElem 0x64400000 = .ok (.amo .e .none .none) ∧ decodeElem 0x65400000 = .ok (.rdx .e .none .none)) ∧
    (∀ k, k ∈ [PortKind.ldt, .stt, .amo, .rdx] → gives (portFifo (elemEvent ldtSlot) 0 k winOp.ia) none = true) ∧
    okWith (iaAccess (elemEvent (portSlot 0x60400000 0))
        (portWho (elemEvent (portSlot 0x60400000 0)) env0 (portSlot 0x60400000 0) winOp) winOp.ia winOp.cls (.read 64)) (fun _ _ => true) = true ∧
    okWith (iaPerform (elemEvent (portSlot 0x61400000 0)) (elemWho env0) winOp.ia winOp.cls (.write (laneBytes (tokIn (some (dat 3))))))
      (fun _ _ => true) = true ∧
    okWith (iaPerform (elemEvent (portSlot 0x64400000 0)) (elemWho env0) winOp.ia winOp.cls (.rmw (amoSize (portSlot 0x64400000 0)) false []
      (fun old => bytesOf (amoSize (portSlot 0x64400000 0)) (amoNew (portSlot 0x64400000 0) (ofBytes old)).1))) (fun _ _ => true) = true ∧
    (rowMeetsFifo (elemEvent (portSlot 0x65400000 0)) winOp.ia 64 = false ∧
      okWith (iaPerform (elemEvent (portSlot 0x65400000 0)) (elemWho env0) winOp.ia winOp.cls (.rmw 64 true []
        (fun old => (rdxNew (portSlot 0x65400000 0) old).1))) (fun _ _ => true) = true) ∧
    (let s := elemEvent (portSlot 0x60400000 0)
     let s' := { s with tl := { s.tl with mtstat := [(1, 0x400000)] } }
     faultIs (iaAccess s' (portWho s' env0 (portSlot 0x60400000 0) winOp) winOp.ia winOp.cls (.read 64)) Cause.tileue =
       true) := by
  unfold SlotAt Ungated DataL
  and_intros <;> first | decide +kernel | rfl

/-! ### Fragments -/

/-- A header of binary16 data. -/
def hdr16 : Hdr := ⟨0x40, 64, [], false, false, 0, []⟩

/-- A matrix slot with data under that header. -/
def matSlot (word const : BitVec 32) (cnt : Nat) : Slot := { slotWith word const (some (dat 5)) none with hl := some hdr16, cnt := cnt }

/-- The state with the fragment of tile(0,0). -/
def fragState (x : Slot) (f : Frag) : State := setFrag (elemState x) 0 f

/-- A fragment with an active tile of binary16. -/
def frag16 : Frag := { Frag.reset with active := some ⟨0x40, [], false⟩ }

/-- MatrixForms: the first and the last token of a tile for MWLD; rows for MFEED with the tile active and with one to swap in, and
past the 32nd row; a marker that closes a tile; triggers of MDRAIN and MZERO; MWIN's first firing. -/
theorem met_MatrixForms :
    (∀ n, n ∈ [0, 7] →
      (let x := matSlot 0x70000000 0 n
       MatrixAt (fragState x Frag.reset) env0 x .none .none (dat 5) ∧ x.hl = some hdr16 ∧
       (getFrag (fragState x Frag.reset) 0).backReady = false ∧ isB8 0x40 = false)) ∧
    (∀ f, f ∈ [frag16, { frag16 with backReady := true, back := ⟨0x40, [], false⟩ }, { frag16 with m := 32 }] →
      (∀ n, n ∈ [0, 3] → let x := matSlot 0x71000000 0 n
       MatrixAt (fragState x f) env0 x .none .none (dat 5) ∧ sameClass ⟨0x40, [], false⟩ hdr16 = true)) ∧
    ((nth [] (tokenRows hdr16 (dat 5)) 0).all Option.isNone = false ∧ (nth [] (tokenRows hdr16 (dat 5)) 1).all Option.isNone = false ∧
      frag16.m < 31) ∧
    (let x := { slotWith 0x71000000 0 (some (tokK .end1)) none with cnt := 1 }
     SlotAt (fragState x frag16) env0 x .none .none ∧ Ungated (fragState x frag16) env0 x ∧ TokKind.end1.isMark = true ∧
     TokKind.end1 ≠ .round ∧ x.cnt % 2 = 1 ∧ fragFree (fragState x frag16) env0 = true) ∧
    (let x := slotWith 0x72000000 1 (some (tokK .permit)) none
     SlotAt (fragState x { frag16 with maxM := 0 }) env0 x .none .none ∧ Ungated (fragState x frag16) env0 x ∧ Trigger x (tokK .permit) ∧
     fragFree (fragState x frag16) env0 = true ∧ x.tiles < env0.tcount ∧ x.sub = 2 * 0) ∧
    (let x := slotWith 0x74000000 6 none none
     envOf (elemState x) (elemState x).focus.1 (elemState x).focus.2 = some env0 ∧ getSlot (elemState x) 0 0 = x ∧ x.ended = false ∧
     env0.atStop x.edge = false ∧ x.p = none ∧ pBound (elemState x) 0 0 = false) := by
  refine ⟨?_, ?_, ?_⟩
  · intro n hn
    simp only [List.mem_cons, List.not_mem_nil, or_false] at hn
    rcases hn with rfl | rfl <;> (unfold MatrixAt SlotAt Ungated DataL; and_intros <;> decide +kernel)
  · intro f hf
    simp only [List.mem_cons, List.not_mem_nil, or_false] at hf
    rcases hf with rfl | rfl | rfl <;> (unfold MatrixAt SlotAt Ungated DataL; and_intros <;> decide +kernel)
  · unfold SlotAt Ungated Trigger; and_intros <;> first | decide +kernel | exact .inr (.inl rfl)

/-- Arguments of a stage: VA 0x2_0000, two points, span 1. -/
def stageTok : Token := dat (BitVec.ofNat 512 (0x20000 + 2 * 2 ^ 64 + 2 ^ 96))

/-- An MHARROW slot, east, radix 2. -/
def stageSlot : Slot := slotWith 0x75400000 0 (some stageTok) none

/-- HarrowForms: MTWID's start and its end; a stage that is refused, one that starts, and one that completes. -/
theorem met_HarrowForms :
    (let x := slotWith 0x76000000 8 (some (tokK .permit)) none
     SlotAt (elemState x) env0 x .none .none ∧ Ungated (elemState x) env0 x ∧ Trigger x (tokK .permit) ∧
     fragFree (elemState x) env0 = true ∧ x.tiles < env0.tcount ∧ x.sub = 0) ∧
    (let x := { slotWith 0x76000000 8 (some (tokK .permit)) none with sub := 1 }
     envOf (elemEvent x) ((elemEvent x).op 0) ((elemEvent x).op 1) = some env0 ∧ getSlot (elemEvent x) 0 0 = x ∧ x.sub ≠ 0 ∧
     bothFree (elemEvent x) 0 0 .none .none = true) ∧ decodeElem 0x76000000 = .ok (.mtwid .none .none) ∧
    (MatrixAt (elemState stageSlot) env0 stageSlot .none .none stageTok ∧ stageSlot.ops = [] ∧
      stageBad (getFrag (elemState stageSlot) 0) stageSlot = true) ∧
    (let s := fragState stageSlot { Frag.reset with n := 2, hasN := true }
     MatrixAt s env0 stageSlot .none .none stageTok ∧ stageBad (getFrag s 0) stageSlot = false ∧ portHeld s 0 (dirNat .e) = false ∧
     gives (harrowByte s env0 .e (portVA stageTok 0)) (0xF00000100000, 3) = true ∧ (portVA stageTok 0).toNat % 64 = 0 ∧
     0xF00000100000 % 2 ^ 20 + (stageArgs stageSlot).p * pointBytes (stageArgs stageSlot).fmt ≤ 2 ^ 20 ∧
     passes (harrowByte s env0 .e (portVA stageTok 0 +
       BitVec.ofNat 64 ((stageArgs stageSlot).p * pointBytes (stageArgs stageSlot).fmt - 1))) = true ∧
     rowMeetsFifo s 0xF00000100000 ((stageArgs stageSlot).p * pointBytes (stageArgs stageSlot).fmt) = false) ∧
    (let x := { stageSlot with ops := [winOp] }
     let s := { fragState x { Frag.reset with n := 2, hasN := true } with ops := [0, 0] }
     envOf s (s.op 0) (s.op 1) = some env0 ∧ getSlot s 0 0 = x ∧ x.ops = [winOp] ∧ x.held = none ∧
     portEarlier s 0 (dirNat .e) winOp.since = false ∧ winOp.ia ≠ 0 ∧ bothFree s 0 0 .none .none = true ∧
     okWith (stagePerform s env0 x winOp.va) (fun _ _ => true) = true) ∧
    decodeElem 0x75400000 = .ok (.mharrow .e .none .none) := by
  unfold MatrixAt SlotAt Ungated Trigger DataL
  and_intros <;> first | decide +kernel | exact .inr (.inl rfl) | rfl

end Sys2Proof.Tests
end

