-- ==== Sys2Proof/Tests/MetFabric.lean ====
section
/-! SUPPORT. Witnesses for the statements about loaders, sections, streams, barriers and messages. -/
namespace Sys2Proof.Tests
open Sys2Proof.Machine Sys2Proof.Claims
set_option Elab.async false

/-- A core whose g1 names a block at VA 0x1_0000. -/
def cfgCore : Core := core [(1, 0x10000), (3, 0x10001)]

/-- A block for tile(0,0), section 0, with one PASS in slot 0. -/
def cfgState : State := withBytes (withBytes (at0 cfgCore) 8 [1]) 64 [0, 0, 0, 0x52]

/-- LoaderForms: a misaligned block, one whose selector names no tile, one for a fallow tile, and one that is accepted. -/
theorem met_LoaderForms :
    Runs (at0 cfgCore) 0 cfgCore fir ∧ mayImpure cfgCore fir = true ∧ cfgCore.ready [1, 2, 3] = true ∧
    (cfgCore.gpr 3).toNat % 64 ≠ 0 ∧ (cfgCore.gpr 1).toNat % 64 = 0 ∧
    (Runs (withBytes (at0 cfgCore) 0 [0, 0x40]) 0 cfgCore fir ∧
      okWith (readVA (withBytes (at0 cfgCore) 0 [0, 0x40]) (coreWho 0 fir (syncKey 0)) 0x10000 64) (fun hb s1 =>
        decide (getCore s1 0 = cfgCore) && (selTile s1 1 (cfgHead (wordsOf 8 hb)).tsel).isNone) = true) ∧
    Runs cfgState 0 cfgCore fir ∧ formReads cfgState cfgCore (coreWho 0 fir (syncKey 0)) 0x10000 64 = true ∧
    (let s := { cfgState with boot := { cfgState.boot with fallow := [0] } }
     Runs s 0 cfgCore fir ∧ okWith (readVA s (coreWho 0 fir (syncKey 0)) 0x10000 64) (fun hb s1 =>
       decide (getCore s1 0 = cfgCore) && selTile s1 1 (cfgHead (wordsOf 8 hb)).tsel == some 0 && s1.boot.fallow.contains 0) = true) ∧
    okWith (readVA cfgState (coreWho 0 fir (syncKey 0)) 0x10000 64) (fun hb s1 =>
      decide (getCore s1 0 = cfgCore) && selTile s1 1 (cfgHead (wordsOf 8 hb)).tsel == some 0 &&
      !headBad (cfgHead (wordsOf 8 hb)) 0 && !s1.boot.fallow.contains 0 &&
      formReads s1 cfgCore (coreWho 0 fir (syncKey 0)) 0x10040 (cfgBodyBytes (cfgHead (wordsOf 8 hb))) &&
      okWith (readApart s1 (coreWho 0 fir (syncKey 0)) 0x10040 (cfgBodyBytes (cfgHead (wordsOf 8 hb)))) (fun body s2 =>
        decide (getCore s2 0 = cfgCore) && (cfgItems (cfgHead (wordsOf 8 hb)) body).2 &&
        !selectBad (cfgHead (wordsOf 8 hb)) 0 0 && !tileBusy s2 0 && !(getSec s2 (secKey 0 0)).state.isBusy &&
        decide ((loadItems (joinSection s2 (secKey 0 0) 0 1) 0 0 (((cfgItems (cfgHead (wordsOf 8 hb)) body).1.zipIdx ++
          (maskBits 8 (cfgHead (wordsOf 8 hb)).ing).map (fun j => (CfgItem.ing j (nth 0 (cfgHead (wordsOf 8 hb)).ingw j), 0x100 + j))).filter
            (fun x => wants 0 0 x.1))).2 = none))) = true := by decide +kernel

/-- Section 0 of context 0 over tile(0,0), in a state. -/
def sec0 (st : SecState) : Section := { Section.reset with state := st, tiles := [0], tcount := 5, launch := 1 }

/-- A core for the section forms: save area at VA 0x1_0040, a count of 5. -/
def secCore : Core := core [(1, 0x10040), (2, 5)]

/-- The state with section 0 in a state. -/
def withSec (st : SecState) : State := setSec (at0 secCore) 0 (sec0 st)

/-- SectionForms: ARM of a loaded and of a stopped section, of one in another state; DISARM of a loaded, a free and an armed one;
SECWAIT of one with an answer and of an armed one. -/
theorem met_SectionForms :
    (∀ st, st ∈ [SecState.loaded, .stopped, .armed, .free, .idle] → Runs (withSec st) 0 secCore fir ∧
      (getSec (withSec st) (secKey fir.task.ctx 0)).state = st) ∧
    (mayImpure secCore fir = true ∧ secCore.ready [1, 2, 3] = true ∧ secCore.gpr 1 ≠ 0 ∧ canonical (secCore.gpr 1) = true ∧
      (secCore.gpr 1).toNat % 64 = 0 ∧ 0 < (secCore.gpr 2).toNat ∧ (secCore.gpr 2).toNat < 2 ^ 32 ∧ secCore.gpr 3 = 0 ∧
      secCore.allPkg = true ∧ secCore.waiting = .none) ∧
    (armRefused (withSec .loaded) 0 1 = false ∧ okWith (readVA (withSec .loaded) (coreWho 0 fir (syncKey 0)) 0x10040 64) (fun hb _ =>
      !bitOf (nth 0 (wordsOf 8 hb) 0) 63) = true) ∧
    (armRefused (withSec .stopped) 0 1 = false ∧
      okWith (readVA (withSec .stopped) (coreWho 0 fir (syncKey 0)) 0x10040 64) (fun _ _ => true) = true) ∧
    secwaitAnswer (getSec (withSec .idle) 0) = some 0 ∧ secwaitAnswer (getSec (withSec .free) 0) = some 4 := by decide +kernel

/-- SectionEvents: SMARK on an armed section and on one that is not; a stop edge wanted by a save; the edge at every unit; EOS
at every sink. -/
theorem met_SectionEvents :
    (Runs (withSec .armed) 0 secCore fir ∧ mayImpure secCore fir = true ∧ sourcesPassed (withSec .armed) 0 = true) ∧
    (getSec (withSec .loaded) 0).state ≠ .armed ∧
    (let s := withCtx (withSec .armed) (fun x => { x with state := .saving })
     stopWanted s (s.op 0) = true ∧ sourcesPassed s (s.op 0) = true) ∧
    (let s := setSec (withSec .stopping) 0 { sec0 .stopping with stopAt := some 1 }
     (getSec s (s.op 0)).state = .stopping ∧ (getSec s (s.op 0)).stopAt = some 1 ∧ allAt s (s.op 0) 1 = true) ∧
    (let s := withSec .armed
     (getSec s (s.op 0)).state = .armed ∧ (getSec s (s.op 0)).tiles ≠ [] ∧ sinksDone s (s.op 0) = true) := by decide +kernel

/-- A stopping section without array tiles whose save area is at VA 0x1_0040. -/
def cutState : State :=
  setSec (at0 secCore) 0 { Section.reset with state := .stopping, tcount := 5, launch := 1, area := 0x10040, stopAt := some 1, cut := some 7 }

/-- The cut of a section whose save area holds the header alone. -/
theorem storeCut_header {s : State} {k : Nat} (h : saveAreaSize (getSec s k) = 64) :
    storeCut s k = match writeVA { s with free := s.free + 1 } { Who.self (k / 64) 6 (originOf (getSec s k)) with force := true }
        (getSec s k).area (bytesOf 8 (2 ^ 63 + k % 64) ++ bytesOf 8 ((getSec s k).tcount - leastTiles s (getSec s k)) ++ bytesOf 8 64
          ++ bytesOf 8 ((getSec s k).cut.getD s.clk.dtime) ++ List.replicate 32 0) with
      | (.ok _, s) => (.ok (), s)
      | (.fault e, s) => (.fault e, s)
      | (.wait, s) => (.wait, s) := by
  have hu : areaUsed s (getSec s k) = 64 := by simp [areaUsed, h, Nat.mod_one]
  simp only [storeCut, cutHeader, hu]
  rfl

/-- SectionEvents: the edge at every unit, with the cut that its save area takes. -/
theorem met_SectionEvents_cut :
    (getSec cutState (cutState.op 0)).state = .stopping ∧ (getSec cutState (cutState.op 0)).stopAt = some 1 ∧
    allAt cutState (cutState.op 0) 1 = true ∧
    okWith (storeCut (setSec cutState (cutState.op 0) { getSec cutState (cutState.op 0) with
      cut := some ((getSec cutState (cutState.op 0)).cut.getD cutState.clk.dtime) }) (cutState.op 0)) (fun _ s1 =>
        !onLeavingDie (keepCut s1 (cutState.op 0)) (getSec s1 (cutState.op 0))) = true := by
  refine ⟨by decide +kernel, by decide +kernel, by decide +kernel, ?_⟩
  rw [storeCut_header (by decide +kernel)]
  decide +kernel

/-! ### Streams -/

/-- A pattern record of eight words. -/
def somePat : List Word := [0x10000, 0, 0, 0, 0, 0, 0, 0]

/-- A stream of the witnesses' context. -/
def someStream : Stream := Stream.start somePat 0 1 none (some (0, 0)) 0

/-- A core whose g1 selects tile(1,0), g2 names a barrier of the quad. -/
def strmCore : Core := core [(1, 1), (2, 0x40000003)]

/-- That state with generator 0 of tile(1,0) in a state, and operator unit 0 with a record. -/
def strmState (run : Option Stream) (w : Word) : State :=
  setGen { at0 strmCore with fab := { (at0 strmCore).fab with opunits := [(4, OpUnit.fresh w)] } } 1 0 ⟨somePat, 0, run⟩

/-- StreamForms: a generator with a record and no stream, one with a stream; a SEAL and a TAP unit. -/
theorem met_StreamForms :
    (∀ x, x ∈ [(none, (11 : Word)), (some someStream, 11), (none, 10)] →
      Runs (strmState x.1 x.2) 0 strmCore fir ∧ selTile (strmState x.1 x.2) fir.task.launch (strmCore.gpr 1).toNat = some 1 ∧
      (getGen (strmState x.1 x.2) 1 0).run = x.1 ∧ (getGen (strmState x.1 x.2) 1 0).words ≠ [] ∧
      tileRunning (strmState x.1 x.2) 1 = false ∧ recKind ((strmState x.1 x.2).fab.opunits.getD (1 * 4 + 0) (OpUnit.fresh 0)).recd = x.2.toNat) ∧
    mayImpure strmCore fir = true ∧ strmCore.ready [1, 2] = true ∧ isMem 1 = true ∧ strmCore.allPkg = true ∧ someStream.held = none ∧
    ((strmState none 11).fab.opunits.getD (1 * 4 + 0) (OpUnit.fresh 0)).eosA = false ∧
    barMalformed (strmCore.gpr 2).toNat = false := by decide +kernel

/-! ### Barriers -/

/-- A core whose g1 names a barrier of quad 0, g2 holds 2, g3 nothing. -/
def barCore (b : Word) : Core := core [(1, 0x40000003), (2, b)]

/-- The barrier object set up for the firing's context. -/
def bar2 : Barrier := { Barrier.reset with expect := 2, v := true, prio := 7 }

/-- The state with that core and that object. -/
def barState (c : Core) : State := setBar (at0 c) 0x40000003 bar2

/-- A core that waits for BARR's answer, which has come. -/
def barAnswered (e : Cause) : State :=
  let s := barState { barCore 2 with waiting := .barr 9 }
  { s with bar := { s.bar with answers := [(9, e)] } }

/-- BarrierForms: a malformed identifier; BINIT of a free object; BARR and its two answers; BWAIT and BTEST; BCHG that releases,
that sets EXPECT, and with a reserved code. -/
theorem met_BarrierForms :
    (Runs (at0 (core [])) 0 (core []) fir ∧ mayImpure (core []) fir = true ∧ (core []).ready [1, 2, 3] = true ∧
      barMalformed ((core []).gpr 1).toNat = true ∧ (core []).waiting = .none) ∧
    (Runs (at0 (barCore 2)) 0 (barCore 2) fir ∧ (barCore 2).ready [1, 2, 3] = true ∧ barMalformed ((barCore 2).gpr 1).toNat = false ∧
      barInside ((barCore 2).gpr 1).toNat 0 = true ∧ binitRefused (at0 (barCore 2)) ((barCore 2).gpr 1).toNat 0 ((barCore 2).gpr 2) = false ∧
      barScope ((barCore 2).gpr 1).toNat ≠ 5) ∧
    (0 < ((barCore 2).gpr 2).toNat ∧ ((barCore 2).gpr 2).toNat < 2 ^ 24 ∧ (barCore 2).allPod = true ∧ (barCore 2).amsgw = none) ∧
    (∀ e, e ∈ [(0 : Cause), Cause.barover] →
      Runs (barAnswered e) 0 { barCore 2 with waiting := .barr 9 } fir ∧ awaitsOwner (barAnswered e) 0 { barCore 2 with waiting := .barr 9 } = false ∧ (barAnswered e).bar.answers.get? 9 = some e) ∧
    Cause.barover ≠ 0 ∧
    (Runs (barState (barCore 2)) 0 (barCore 2) fir ∧ zeroBits ((barCore 2).gpr 2) 63 16 = true ∧
      barRefuses (barState (barCore 2)) ((barCore 2).gpr 1).toNat 0 0 = false) ∧
    (let c := barCore 0x4000000000000000
     Runs (barState c) 0 c fir ∧ barRefuses (barState c) (c.gpr 1).toNat 0 0 = false ∧ bitsOf (c.gpr 2) 63 62 = 1 ∧
     (getBar (barState c) (c.gpr 1).toNat).arrived = 0 ∧ (getBar (barState c) (c.gpr 1).toNat).early = 0 ∧
     (getBar (barState c) (c.gpr 1).toNat).pending = 0 ∧ zeroBits (c.gpr 2) 61 0 = true) ∧
    (bitsOf ((barCore 2).gpr 2) 63 62 = 0 ∧ zeroBits ((barCore 2).gpr 2) 61 24 = true ∧
      (getBar (barState (barCore 2)) 0x40000003).arrived + (getBar (barState (barCore 2)) 0x40000003).early <
        bitsOf ((barCore 2).gpr 2) 23 0) ∧
    (2 ≤ bitsOf ((barCore 0x8000000000000000).gpr 2) 63 62 ∧
      barRefuses (barState (barCore 0x8000000000000000)) ((barCore 0x8000000000000000).gpr 1).toNat 0 0 = false) := by
  and_intros <;> decide +kernel

/-- A state whose barrier network has arrivals, an object, and messages of the pod plane. -/
def netState (b : Barrier) (l : List Arrival) : State :=
  let s := setBar base 0x40000003 b
  { s with ops := [0], bar := { s.bar with arrivals := l } }

/-- A core that waits for a phase past 1, and the state at a phase. -/
def waiter : Core := { barCore 2 with waiting := .bwait 0x40000003 1 5 }
def waiterAt (p : Nat) : State := setBar (barState waiter) 0x40000003 { bar2 with phase := p }

/-- BarrierEvents: an arrival within EXPECT and one that overflows EARLY too; a discharge; a complete phase and one that is not; a
waiter that sees the phase and one that does not; the pod plane's messages. -/
theorem met_BarrierEvents :
    (let s := netState bar2 [⟨0x40000003, 2, 0, 0, .launch 1⟩]
     s.bar.arrivals[s.op 0]? = some ⟨0x40000003, 2, 0, 0, .launch 1⟩ ∧ barMalformed 0x40000003 = false ∧
     (getBar s 0x40000003).v = true ∧ (Arriver.launch 1).tile = none ∧ (getBar s 0x40000003).ctx = 0 ∧
     (getBar s 0x40000003).arrived + 2 ≤ (getBar s 0x40000003).expect) ∧
    (let s := netState { bar2 with arrived := 2, early := 2 } [⟨0x40000003, 1, 0, 0, .launch 1⟩]
     (getBar s 0x40000003).arrived ≤ (getBar s 0x40000003).expect ∧
     (getBar s 0x40000003).expect < (getBar s 0x40000003).arrived + 1 ∧
     2 * (getBar s 0x40000003).expect < (getBar s 0x40000003).arrived + (getBar s 0x40000003).early + 1 ∧
     s.bar.arrivals[s.op 0]? = some ⟨0x40000003, 1, 0, 0, .launch 1⟩) ∧
    (let s := { netState bar2 [] with bar := { (netState bar2 []).bar with discharges := [(0x40000003, 1)] } }
     s.bar.discharges[s.op 0]? = some (0x40000003, 1)) ∧
    (let s := { netState { bar2 with arrived := 2 } [] with ops := [0x40000003] }
     (getBar s (s.op 0)).v = true ∧ (getBar s (s.op 0)).arrived = (getBar s (s.op 0)).expect ∧ (getBar s (s.op 0)).pending = 0 ∧
     barScope (s.op 0) ≠ 5) ∧
    (let s := { netState bar2 [] with ops := [0x40000003] }
     (getBar s (s.op 0)).arrived ≠ (getBar s (s.op 0)).expect) ∧
    (∀ p, p ∈ [1, 2] → getCore (waiterAt p) ((waiterAt p).op 0) = waiter ∧ waiter.run = some fir ∧
      waiter.waiting = .bwait 0x40000003 1 5 ∧ phaseDone (getBar (waiterAt p) 0x40000003).phase 1 = decide (p = 2)) ∧
    (let s := setBar base 0xA0000003 { bar2 with children := [7] }
     let m : PodMsg := ⟨0xA0000003, 9, 0, 0, 3⟩
     let t := { s with bar := { s.bar with joins := [m], completions := [m], prios := [m], poisons := [m] } }
     t.bar.joins = [m] ∧ barMalformed m.id = false ∧ (getBar t m.id).v = true ∧ (getBar t m.id).children.length < 64 ∧
     t.bar.completions = [m] ∧ m.status = 0 ∧ t.bar.prios = [m] ∧ t.bar.poisons = [m]) := by
  and_intros <;> decide +kernel

/-! ### Messages and publication -/

/-- A core whose g1 names a message at VA 0x1_0000. -/
def msgCore : Core := core [(1, 0x10000)]

/-- A message in the injection buffer of tile(0,0). -/
def aMsg : Msg := ⟨4, 0, 0, 0, 2, List.replicate 4 0, some (0, 0), 1, false, none, none⟩

/-- It stands there, the tiles listed being fallow. -/
def buffered (f : List Tid) : State :=
  let s := at0 { msgCore with waiting := .amsg 4 5 }
  { s with ops := [4], fab := { s.fab with msgs := [aMsg] }, boot := { s.boot with fallow := f } }

/-- MessageForms: AMSG and AMSGW with a free way and without one; an injection accepted and one refused. -/
theorem met_MessageForms :
    (Runs (at0 msgCore) 0 msgCore fir ∧ mayImpure msgCore fir = true ∧ msgCore.ready [1, 5] = true ∧ (msgCore.gpr 1).toNat % 32 = 0 ∧
      msgCore.acqDone = true ∧ formReads (at0 msgCore) msgCore (coreWho 0 fir (syncKey 0)) 0x10000 512 = true ∧
      okWith (readMessage (at0 msgCore) (coreWho 0 fir (syncKey 0)) 0x10000) (fun w s1 =>
        decide (getCore s1 0 = msgCore) && decide (w.length = 4)) = true ∧ msgCore.waiting = .none ∧ msgCore.amsgw = none) ∧
    (let c := { msgCore with amsgw := some (3, 0x10000) }
     Runs (at0 c) 0 c fir ∧ c.ready [1, 5] = true ∧ c.amsgw ≠ none ∧ c.acqDone = true ∧
     formReads (at0 c) c (coreWho 0 fir (syncKey 0)) 0x10000 512 = true ∧
     okWith (readMessage (at0 c) (coreWho 0 fir (syncKey 0)) 0x10000) (fun _ s1 => decide (getCore s1 0 = c)) = true) ∧
    (∀ f, f ∈ [[], quadCores 0] →
      (buffered f).fab.msgs.find? (fun m => m.uid == (buffered f).op 0 && !m.injected) = some aMsg ∧ (buffered f).op 1 = 0 ∧
      injectRefused (buffered f) aMsg = !f.isEmpty ∧ aMsg.node = (buffered f).boot.node ∧ aMsg.sender ≠ none ∧
      (getCore (buffered f) aMsg.src).waiting = .amsg aMsg.uid 5 ∧ (getCore (buffered f) aMsg.src).amsgw = none) := by
  and_intros <;> decide +kernel

/-- PublishForms: a valid entry and one with V = 0; GINV of everything; GPROBE of a record that no key is formed of. -/
theorem met_PublishForms :
    (let s := withCtx (at0 (core [])) (fun x => { x with bufmap := [(3, (0x20001, 64, 0x10000, 0x20000))] })
     Runs s 0 (core []) fir ∧ (core []).waiting = .none ∧ (core []).allPod = true ∧ (core []).allPkg = true ∧
     bitOf ((getCtx s 0).bufmap.getD 3 (0, 0, 0, 0)).1 0 = true ∧ shadowWriters s 0 3 = [] ∧
     bitOf ((getCtx s 0).bufmap.getD 4 (0, 0, 0, 0)).1 0 = false) ∧
    (Runs (at0 (core [(2, 1)])) 0 (core [(2, 1)]) fir ∧ mayImpure (core [(2, 1)]) fir = true ∧ (core [(2, 1)]).ready [1, 2] = true ∧
      (core [(2, 1)]).gpr 1 = 0 ∧ (core [(2, 1)]).gpr 2 = 1) ∧
    (msgCore.ready [1, 5] = true ∧ (msgCore.gpr 1).toNat % 64 = 0 ∧
      formReads (at0 msgCore) msgCore (coreWho 0 fir (syncKey 0)) 0x10000 192 = true ∧
      okWith (readCR (at0 msgCore) (coreWho 0 fir (syncKey 0)) 0x10000) (fun hr s1 =>
        formReads s1 msgCore (coreWho 0 fir (syncKey 0)) (crTiles hr.1) 272 &&
        okWith (examineTiles s1 (coreWho 0 fir (syncKey 0)) (crTiles hr.1)) (fun ds s2 =>
          decide (headerBad s1 true 1 hr.1 = false) &&
          okWith (granProbe s2 (coreWho 0 fir (syncKey 0)) (dieOf 0) 1 hr.1 hr.2 ds) (fun v _ => v == 2))) = true) := by
  and_intros <;> decide +kernel

end Sys2Proof.Tests
end

