-- ==== Sys2Proof/Tests/MetSequencer.lean ====
section
/-! SUPPORT. Witnesses: for each statement about the sequencer's forms that has hypotheses, a state and operands that meet
them, clause by clause. -/
namespace Sys2Proof.Tests
open Sys2Proof.Machine Sys2Proof.Claims
set_option Elab.async false

/-- RegisterZero: a core with 32 registers. -/
theorem met_RegisterZero : (core [(1, 5)]).regs.length = 32 := by decide

/-- ComputationForms, with a destination that discards the write too. -/
theorem met_ComputationForms :
    Runs (at0 (core [(1, 5), (2, 0xFFFFFFFFFFFFFFFF)])) 0 (core [(1, 5), (2, 0xFFFFFFFFFFFFFFFF)]) fir ∧
    (computed (core [(1, 5), (2, 0xFFFFFFFFFFFFFFFF)]).gpr (.add 3 1 2)) = some (3, [1, 2], 4) ∧
    (core [(1, 5), (2, 0xFFFFFFFFFFFFFFFF)]).ready [3, 1, 2] = true ∧
    (computed (core []).gpr (.ldi 0 7)) = some (0, [], 7) ∧ (core []).ready [0] = true := by decide +kernel

/-- BranchForms: a branch taken backwards and one not taken. -/
theorem met_BranchForms :
    Runs (at0 (core [(1, 5)])) 0 (core [(1, 5)]) fir ∧ (core [(1, 5)]).ready [1, 2] = true ∧
    branching (core [(1, 5)]).gpr (.bne 1 2 0xFFFE) = some ([1, 2], 0xFFFE, true) ∧
    branching (core [(1, 5)]).gpr (.blt 1 2 4) = some ([1, 2], 4, false) := by decide +kernel

/-- JumpForms: JR to an aligned target and to one that is not. -/
theorem met_JumpForms :
    Runs (at0 (core [(1, 0x10008), (2, 0x1000A)])) 0 (core [(1, 0x10008), (2, 0x1000A)]) fir ∧
    (core [(1, 0x10008), (2, 0x1000A)]).ready [31] = true ∧
    (core [(1, 0x10008), (2, 0x1000A)]).ready [1] = true ∧ (core [(1, 0x10008), (2, 0x1000A)]).ready [2] = true ∧
    (wordsFrom ((core [(1, 0x10008), (2, 0x1000A)]).gpr 1) (-1)).toNat % 4 = 0 ∧
    (wordsFrom ((core [(1, 0x10008), (2, 0x1000A)]).gpr 2) (-1)).toNat % 4 ≠ 0 := by decide +kernel

/-! ### Memory -/

/-- A load of eight bytes at VA 0x1_0008. -/
def ldCore : Core := core [(1, 0x10000), (2, 0x50000), (3, 0x0100000000000000), (4, 0x10004)]

/-- MemoryForms: a load, and a store with release, whose checks pass. -/
theorem met_MemoryForms :
    Runs (at0 ldCore) 0 ldCore fir ∧
    (∃ x, memForm ldCore.gpr (.ld 5 1 .d64 8) = some x ∧ ldCore.ready x.regs = true ∧ x.Checked (at0 ldCore) 0 fir ∧
      x.Allowed (at0 ldCore) 0 ldCore fir (at0 ldCore) ∧ ldCore.unfin.length < 16 ∧ (x.rel = true → ldCore.allPod = true)) ∧
    (∃ x, memForm ldCore.gpr (.stRel 5 1 .d64 8) = some x ∧ ldCore.ready x.regs = true ∧ x.Checked (at0 ldCore) 0 fir ∧
      x.Allowed (at0 ldCore) 0 ldCore fir (at0 ldCore) ∧ x.rel = true ∧ ldCore.allPod = true) := by
  refine ⟨by decide +kernel,
    ⟨_, rfl, by decide +kernel, ⟨passes_spec (by decide +kernel), ?_⟩, ⟨?_, ?_, rfl⟩, by decide +kernel, ?_⟩,
    ⟨_, rfl, by decide +kernel, ⟨passes_spec (by decide +kernel), ?_⟩, ⟨?_, ?_, rfl⟩, by decide +kernel, by decide +kernel⟩⟩ <;>
  decide +kernel

/-- An access of the core stream in a phase: a load of eight bytes at an IA. -/
def acc (id ia : Nat) (p : AccPhase) : Access :=
  ⟨id, 0x80228008, .load false false, 8, 5, 0x10008, 0, 0, false, [(ia, 8, 0)], p, [0], [], []⟩

/-- A core whose stream holds the accesses given. -/
def streamCore (l : List Access) : Core := { ldCore with unfin := l }

/-- MemoryFormsStop: a 17th access; NONCANON; NOMAP; ALIGN of a load with acquire. -/
theorem met_MemoryFormsStop :
    Runs (at0 (streamCore (List.replicate 16 (acc 0 0x10008 .sent)))) 0
      (streamCore (List.replicate 16 (acc 0 0x10008 .sent))) fir ∧
    (∃ x, memForm ldCore.gpr (.ld 6 1 .d64 8) = some x ∧
      (streamCore (List.replicate 16 (acc 0 0x10008 .sent))).ready x.regs = true ∧
      x.Checked (at0 (streamCore (List.replicate 16 (acc 0 0x10008 .sent)))) 0 fir ∧ x.impure = false ∧ x.kind ≠ .jcnt ∧
      16 ≤ (streamCore (List.replicate 16 (acc 0 0x10008 .sent))).unfin.length) ∧
    (∃ x, memForm ldCore.gpr (.atomAdd 3 2 6 .w64) = some x ∧ mayImpure ldCore fir = true ∧ canonical x.va = false) ∧
    (∃ x, memForm ldCore.gpr (.ld 6 2 .d64 0) = some x ∧ x.impure = false ∧ x.kind ≠ .jcnt ∧
      checkIssue (at0 ldCore) (coreWho 0 fir (syncKey 0)) x.va x.size x.kind.perm = .error Cause.nomap ∧ Cause.nomap ≠ Cause.window) ∧
    (∃ x, memForm ldCore.gpr (.ldAcq 6 4 .d64 0) = some x ∧ x.aligned = true ∧
      checkIssue (at0 ldCore) (coreWho 0 fir (syncKey 0)) x.va x.size x.kind.perm = .ok (0x10004, 0) ∧ x.va.toNat % x.size ≠ 0) ∧
    canonical 0x0100000000000000 = false ∧
    (canonical 0x50000 = true ∧ findRange (getCtx base 0) 0x50000 = none) ∧
    (∃ r, canonical 0x10000 = true ∧ findRange (getCtx (setCtx base 0 { getCtx base 0 with
      ranges := (0x10001, 1, 0x10008) :: (getCtx base 0).ranges.drop 1 }) 0) 0x10000 = some r ∧ permitted r .write = false) := by
  refine ⟨by decide +kernel, ⟨_, rfl, by decide +kernel, ⟨passes_spec (by decide +kernel), ?_⟩, by rfl, by decide, by decide +kernel⟩,
    ⟨_, rfl, by decide +kernel, by decide +kernel⟩, ⟨_, rfl, by decide +kernel, by decide +kernel, by rfl, by decide⟩,
    ⟨_, rfl, by decide +kernel, by rfl, by decide +kernel⟩, by decide, by decide +kernel, ⟨_, by decide, rfl, by decide⟩⟩
  decide +kernel

/-- A core with one access, on tile(0,0), that the event concerns. -/
def onAcc (a : Access) : State := { at0 (streamCore [a]) with ops := [0, a.id] }

/-- IA of byte 64 of the memory tile east of tile(0,0). -/
def winIA : Nat := 15 * 2 ^ 44 + 2 ^ 20 + 64

/-- The same state over a page table in near memory: the page of IA 0x2_0000 lies in a 1 GiB leaf of the node. -/
def walked (a : Access) : State :=
  { onAcc a with st := { (onAcc a).st with mem := [(0, 0x01), (1, 0x40), (0x4000, 0x02)] } }

/-- A store that node 5 performs: its answer has come, with a cause or with none. -/
def farAcc : Access := { acc 1 0x10008 (.forwarded 0) with kind := .store, left := [], far := [0] }

/-- That store and its answer. -/
def answered (e : Cause) : State :=
  { onAcc farAcc with xl := { (onAcc farAcc).xl with fwdOut := [⟨3, coreKey 0 1, 0x10008, 5, false, none⟩], replies := [(3, e, [])] } }

/-- AccessEvents: an access at its window port, at its bank, at its home port, before its page's walk, which ends in a leaf or
in PAGEFLT, and performed. -/
theorem met_AccessEvents :
    (∀ a, a ∈ [acc 1 winIA .sent, acc 1 winIA .atBank, acc 1 0x10008 .sent, acc 1 0x20008 .sent, acc 1 0x10008 (.performed 7)] →
      (onAcc a).op 0 = 0 ∧ (onAcc a).op 1 = 1 ∧ getCore (onAcc a) 0 = streamCore [a] ∧ (streamCore [a]).run = some fir ∧
      (streamCore [a]).findAcc 1 = some a) ∧
    (inWindow (acc 1 winIA .sent).ia = true ∧
      nowPerforms (onAcc (acc 1 winIA .sent)) 0 (streamCore [acc 1 winIA .sent]) fir (acc 1 winIA .sent) = true) ∧
    (nowPerforms (onAcc (acc 1 winIA .atBank)) 0 (streamCore [acc 1 winIA .atBank]) fir (acc 1 winIA .atBank) = true ∧
      fifoWordOf (onAcc (acc 1 winIA .atBank)) 0 (acc 1 winIA .atBank) = none ∧
      okWith (performAcc (onAcc (acc 1 winIA .atBank)) 0 fir (acc 1 winIA .atBank)) (fun bs _ => bs.length == 8) = true) ∧
    (inWindow (acc 1 0x10008 .sent).ia = false ∧ uncached (onAcc (acc 1 0x10008 .sent)) (acc 1 0x10008 .sent) = false ∧
      nowPerforms (onAcc (acc 1 0x10008 .sent)) 0 (streamCore [acc 1 0x10008 .sent]) fir (acc 1 0x10008 .sent) = true ∧
      okWith (performAcc (onAcc (acc 1 0x10008 .sent)) 0 fir (acc 1 0x10008 .sent)) (fun bs _ => bs.length == 8) = true) ∧
    (uncached (walked (acc 1 0x20008 .sent)) (acc 1 0x20008 .sent) = true ∧
      found (lookupPage (walked (acc 1 0x20008 .sent)) 0x20008 0) (fun e _ => e.level == 1) = true) ∧
    (uncached (onAcc (acc 1 0x20008 .sent)) (acc 1 0x20008 .sent) = true ∧
      failsWith (lookupPage (onAcc (acc 1 0x20008 .sent)) 0x20008 0).1 Cause.pageflt = true) ∧
    7 < 2 ^ (8 * (acc 1 0x10008 (.performed 7)).size) ∧ (acc 1 0x10008 .sent).parts.length = 1 ∧
    (acc 1 0x10008 .sent).kind ≠ .jcnt := by decide +kernel

/-- AccessEvents: a store whose owner has answered, without a cause and with one. -/
theorem met_AccessEvents_far (e : Cause) :
    (answered e).op 0 = 0 ∧ (answered e).op 1 = 1 ∧ getCore (answered e) 0 = streamCore [farAcc] ∧
    (streamCore [farAcc]).findAcc 1 = some farAcc ∧ farAnswer (answered e) 0 farAcc farAcc.far = some (0, 3, e, []) :=
  ⟨rfl, rfl, rfl, rfl, rfl⟩

/-- FenceForms: a stream with nothing before the fence, one whose write is performed at pkg scope only, one with an access on its
way; SBAR with a mask it takes and one with a reserved bit. -/
theorem met_FenceForms :
    (∀ l, l ∈ [[], [acc 1 0x10008 (.forwarded 0)], [acc 1 0x10008 .sent]] → Runs (at0 (streamCore l)) 0 (streamCore l) fir) ∧
    (streamCore []).allPkg = true ∧ (streamCore []).allPod = true ∧ (streamCore [acc 1 0x10008 (.forwarded 0)]).allPod = false ∧
    (streamCore [acc 1 0x10008 (.forwarded 0)]).allPkg = true ∧ (streamCore [acc 1 0x10008 .sent]).allPkg = false ∧
    ((core [(1, 63), (2, 64)]).ready [1] = true ∧ ((core [(1, 63), (2, 64)]).gpr 1).toNat < 64 ∧
      sbarDone (at0 (core [(1, 63), (2, 64)])) 0 (core [(1, 63), (2, 64)]) fir 63 = true) ∧
    ((core [(1, 63), (2, 64)]).ready [2] = true ∧ 64 ≤ ((core [(1, 63), (2, 64)]).gpr 2).toNat) := by decide +kernel

/-! ### Exceptions -/

/-- Context 0 with a handler: TVEC and TFBASE in its range. -/
def handled (c : Core) : State := withCtx (at0 c) (fun x => { x with tvec := 0x10100, tfbase := 0x10000 })

/-- TrapEntry: the frame is stored; a context without a handler; an access that another module performs, and a form whose effect has
left; system state; a frame that no range maps. -/
theorem met_TrapEntry :
    ((getCore (handled ldCore) 0).run = some fir ∧ (getCore (handled ldCore) 0).sys = false ∧
      (getCore (handled ldCore) 0).regs.length = 32 ∧ (getCtx (handled ldCore) fir.task.ctx).tvec ≠ 0 ∧
      (getCtx (handled ldCore) fir.task.ctx).tfbase ≠ 0 ∧ awaitsOwner (handled ldCore) 0 ldCore = false) ∧
    okWith (writeVA (noteCause (handled ldCore) fir.task.launch Cause.illop) { coreWho 0 fir (syncKey 0) with force := true }
      ((getCtx (handled ldCore) fir.task.ctx).tfbase + BitVec.ofNat 64 (1024 * (32 * tileY 0 + tileX 0 / 2)))
      (frameOf (handled ldCore) (getCore (handled ldCore) 0) fir Cause.illop true 0x10000 0 0)) (fun _ _ => true) = true ∧
    ((getCore (at0 ldCore) 0).run = some fir ∧ (getCore (at0 ldCore) 0).sys = false ∧
      (getCtx (at0 ldCore) fir.task.ctx).tvec = 0 ∧ awaitsOwner (at0 ldCore) 0 ldCore = false) ∧
    (let s := answered 0
     (getCore s 0).run = some fir ∧ (getCore s 0).sys = false ∧ awaitsOwner s 0 (getCore s 0) = true) ∧
    (midway ldCore = false ∧ midway { ldCore with waiting := .barr 3 } = true) ∧
    (let s := handled { ldCore with sys := true }
     (getCore s 0).run = some fir ∧ (getCore s 0).sys = true) ∧
    (let s := withCtx (handled ldCore) (fun x => { x with tfbase := 0x90000 })
     (getCore s 0).run = some fir ∧ (getCore s 0).sys = false ∧ awaitsOwner s 0 (getCore s 0) = false ∧ midway (getCore s 0) = false ∧
     (getCtx s 0).tvec ≠ 0 ∧ (getCtx s 0).tfbase ≠ 0 ∧
     faultIs (writeVA (noteCause s fir.task.launch Cause.illop) { coreWho 0 fir (syncKey 0) with force := true }
      ((getCtx s 0).tfbase + BitVec.ofNat 64 (1024 * (32 * tileY 0 + tileX 0 / 2)))
      (frameOf s (getCore s 0) fir Cause.illop true 0x10000 0 0)) Cause.nomap = true) := by decide +kernel

/-- TrapFrameWords: at both ends of the signals and replay entries. -/
theorem met_TrapFrameWords :
    ([] : List Word).length ≤ 16 ∧ (List.replicate 16 (0x10000 : Word)).length ≤ 16 ∧
    (List.replicate 16 (acc 1 0x10008 .sent)).length ≤ 16 ∧ (core []).regs.length = 32 ∧ 2 ^ 64 - 1 < 2 ^ 64 := by decide

/-- SequencerFaults: an access that has met a cause; a word that R235 rejects. -/
theorem met_SequencerFaults :
    (let a := acc 1 0x10008 (.faulted Cause.memue)
     (onAcc a).op 0 = 0 ∧ getCore (onAcc a) 0 = streamCore [a] ∧ (streamCore [a]).run = some fir ∧ (streamCore [a]).unfin = [a]) ∧
    Runs (at0 ldCore) 0 ldCore fir ∧ decodeSeq 0x34000000 = .error Cause.illop := by
  refine ⟨by decide +kernel, by decide +kernel, rfl⟩

/-- A core in system state with a frame at VA 0x1_0000. -/
def sysCore : Core := { ldCore with sys := true, frame := 0x10000 }

/-- SystemForms: a firing; one in system state, with a watchpoint's words, and with a frame whose V is set. -/
theorem met_SystemForms :
    Runs (at0 ldCore) 0 ldCore fir ∧ ldCore.ready [5] = true ∧
    (getCtx (windowsTo (at0 ldCore) fir.task.ctx) fir.task.ctx).necnt.length = 8 ∧
    Runs (withBytes (at0 sysCore) 7 [0x80]) 0 sysCore fir ∧ sysCore.sys = true ∧
    (sysCore.ready [5, 6] = true ∧ wptBad (sysCore.gpr 5) (sysCore.gpr 6) = false ∧
      (getCtx (withBytes (at0 sysCore) 7 [0x80]) fir.task.ctx).wpts.length = 8) ∧
    (sysCore.unfin = [] ∧ sysCore.frame ≠ 0 ∧
      okWith (readVA (withBytes (at0 sysCore) 7 [0x80]) { coreWho 0 fir (syncKey 0) with force := true } sysCore.frame 1024) (fun bs s1 =>
        bitOf (nth 0 (wordsOf 128 bs) 0) 63 &&
        okWith (pureReplay s1 sysCore fir (coreWho 0 fir (syncKey 0)) (replayList s1 0 fir ((wordsOf 128 bs).drop 40)
          (min 16 (bitsOf (nth 0 (wordsOf 128 bs) 0) 20 16)) sysCore.nextId)) (fun rep s2 => !rep.any Access.impure &&
        okWith (writeVA s2 { coreWho 0 fir (syncKey 0) with force := true } sysCore.frame
          (bytesOf 8 ((nth 0 (wordsOf 128 bs) 0).toNat % 2 ^ 63))) (fun _ _ => true))) = true) := by decide +kernel

/-- SystemForms: RETT without a frame, and with one whose V is clear. -/
theorem met_SystemForms_soft :
    (let c := { sysCore with frame := 0 }
     Runs (at0 c) 0 c fir ∧ c.sys = true ∧ c.unfin = [] ∧ c.frame = 0) ∧
    (Runs (at0 sysCore) 0 sysCore fir ∧ okWith (readVA (at0 sysCore) { coreWho 0 fir (syncKey 0) with force := true } sysCore.frame 1024)
      (fun bs s1 => !bitOf (nth 0 (wordsOf 128 bs) 0) 63 && decide (getCore s1 0 = sysCore)) = true) := by decide +kernel

/-- PrivilegedForms: a firing in user state. -/
theorem met_PrivilegedForms :
    Runs (at0 ldCore) 0 ldCore fir ∧ ldCore.sys = false ∧ ldCore.ready [5, 6] = true := by decide +kernel

/-! ### Tasks -/

/-- The firing changed. -/
def firWith (g : TaskRec → TaskRec) : Firing := { fir with task := g fir.task }

/-- A core that runs a firing. -/
def coreOf (f : Firing) (l : List (Nat × Word)) : Core := { core l with run := some f }

/-- A pure firing. -/
def pureFir : Firing := firWith (fun r => { r with hdr := setNth r.hdr 4 (BitVec.ofNat 64 (2 ^ 44)) })

/-- MemoryFormsStop: a pure firing whose tile list does not declare a store's address, and a form that R419 bars. -/
theorem met_MemoryFormsStop_purity :
    (∃ x, memForm (coreOf pureFir [(1, 0x10000)]).gpr (.st 5 1 .d64 8) = some x ∧
      Runs (at0 (coreOf pureFir [(1, 0x10000)])) 0 (coreOf pureFir [(1, 0x10000)]) pureFir ∧
      (coreOf pureFir [(1, 0x10000)]).ready x.regs = true ∧ x.impure = false ∧ x.Checked (at0 (coreOf pureFir [(1, 0x10000)])) 0 pureFir ∧
      (coreOf pureFir [(1, 0x10000)]).unfin.length < 16 ∧ x.rel = false ∧
      okWith (pureAllows (at0 (coreOf pureFir [(1, 0x10000)])) (coreOf pureFir [(1, 0x10000)]) pureFir (coreWho 0 pureFir (syncKey 0)) x.va
        x.size x.writes) (fun b s1 => !b && decide (getCore s1 0 = coreOf pureFir [(1, 0x10000)])) = true) ∧
    (barred (.publish .core 3) = some [] ∧ barred (.atomAdd 1 2 5 .w64) = some [1, 2, 5] ∧ (coreOf pureFir []).ready [1, 2, 5] = true ∧
      Runs (at0 (coreOf pureFir [])) 0 (coreOf pureFir []) pureFir ∧ (coreOf pureFir []).waiting = .none ∧
      mayImpure (coreOf pureFir []) pureFir = false) := by
  refine ⟨⟨_, rfl, by decide +kernel, by decide +kernel, rfl, ⟨passes_spec (by decide +kernel), ?_⟩, by decide +kernel, rfl, ?_⟩, ?_⟩ <;>
    decide +kernel

/-- A firing whose successor list is at VA 0x1_0040. -/
def succFir : Firing := firWith (fun r => { r with hdr := setNth r.hdr 3 0x10040 })

/-- TaskForms: SPAWN of a record that waits and of one that does not; SIG with room and with none; SIGE by address and by entry;
PRIO; TDECL of a firing that may change its tiles and of a pure one. -/
theorem met_TaskForms :
    (∀ bs, bs ∈ [[], [(1 : Byte)]] →
      Runs (withBytes (at0 (core [(1, 0x10000)])) 0x20 bs) 0 (core [(1, 0x10000)]) fir) ∧
    (mayImpure (core [(1, 0x10000)]) fir = true ∧ (core [(1, 0x10000)]).ready [1] = true ∧
      ((core [(1, 0x10000)]).gpr 1).toNat % 64 = 0 ∧ (core [(1, 0x10000)]).allPkg = true) ∧
    (∀ bs, bs ∈ [[], [(1 : Byte)]] →
      okWith (readVA (withBytes (at0 (core [(1, 0x10000)])) 0x20 bs) (coreWho 0 fir (syncKey 0)) 0x10020 16) (fun w45 s0 =>
        decide (ofBytes (w45.take 8) % 2 ^ 24 = bs.length) &&
        okWith (rmwVA s0 (coreWho 0 fir (syncKey 0)) 0x10028 8 true [34, 1, 0] (fun o => bytesOf 8 (placeWord (ofBytes o) 1 0))) (fun _ s1 =>
          (enqueueDue (setCore (updLaunch s1 1 (fun l => { l with live := l.live + 1 })) 0 (getCore s1 0).advance) 0x10000 0
            (BitVec.ofNat 64 (placeWord (ofBytes (w45.drop 8)) 1 0))).isSome)) = true) ∧
    fir.task.sigs.length < 16 ∧
    (let f := firWith (fun r => { r with sigs := List.replicate 16 0x10000 })
     Runs (at0 (coreOf f [(1, 0x10000)])) 0 (coreOf f [(1, 0x10000)]) f ∧ 16 ≤ f.task.sigs.length) ∧
    (let s := withBytes (at0 (coreOf succFir [])) 0x40 [0, 0, 1]
     Runs s 0 (coreOf succFir []) succFir ∧ (coreOf succFir []).allPkg = true ∧
     okWith (succList s (coreWho 0 succFir (syncKey 0)) succFir.task.hdr) (fun l s1 =>
       decide (getCore s1 0 = coreOf succFir []) && decide (l.length = 1)) = true ∧ bitOf succFir.sent 0 = false) ∧
    findLaunch (at0 (core [])) fir.task.launch = some lau ∧
    (crPure fir.task.hdr = false ∧ canonical ((core [(1, 0x10000)]).gpr 1) = true ∧ ((core [(1, 0x10000)]).gpr 1).toNat % 16 = 0 ∧
      getCore (settleClaims (at0 (core [(1, 0x10000)])) fir.task.ctx true fir.task.claims) 0 = core [(1, 0x10000)]) ∧
    (Runs (at0 (coreOf pureFir [(1, 0x10000)])) 0 (coreOf pureFir [(1, 0x10000)]) pureFir ∧ crPure pureFir.task.hdr = true) := by
  decide +kernel

/-- ParkForms: room in the park store; a wait in place whose condition holds; YIELD; a mask with a reserved bit; a malformed identifier;
EXIT. -/
theorem met_ParkForms :
    Runs (at0 (core [(1, 0xFFFF), (3, 0x10000)])) 0 (core [(1, 0xFFFF), (3, 0x10000)]) fir ∧
    ((core [(1, 0xFFFF), (3, 0x10000)]).ready [1, 2] = true ∧ zeroBits ((core [(1, 0xFFFF), (3, 0x10000)]).gpr 1) 63 16 = true ∧
      (core [(1, 0xFFFF), (3, 0x10000)]).gpr 2 = 0 ∧ (core [(1, 0xFFFF), (3, 0x10000)]).unfin = [] ∧
      (core [(1, 0xFFFF), (3, 0x10000)]).waiting = .none ∧
      ((at0 (core [(1, 0xFFFF), (3, 0x10000)])).tk.parked.filter (fun p => p.quad == quadOf 0)).length < 1024) ∧
    (let c := { core [(1, 0xFFFF)] with waiting := .park 2 0 0 }
     Runs (at0 c) 0 c fir ∧ c.waiting = .park 2 0 0 ∧ c.ready [1, 2] = true ∧ zeroBits (c.gpr 1) 63 16 = true ∧ c.gpr 2 = 0 ∧
     parkHolds (at0 c) fir.task.ctx fir.task.engcmds 2 0 0 = true ∧ parkHolds (at0 c) fir.task.ctx fir.task.engcmds 3 0 0 = true) ∧
    (zeroBits ((core [(1, 0xFFFF), (3, 0x10000)]).gpr 3) 63 16 = false ∧
      barMalformed (bitsOf ((core [(1, 0xFFFF), (3, 0x10000)]).gpr 2) 31 0) = true ∧
      barMalformed (bitsOf ((core [(1, 0xFFFF), (3, 0x10000), (4, 0x40000003)]).gpr 4) 31 0) = false) ∧
    (List.range 4).all (fun d => !portBusy (at0 (core [(1, 0xFFFF), (3, 0x10000)])) 0 d) = true := by decide +kernel

end Sys2Proof.Tests
end

