-- ==== Sys2Proof/Tests/MetTasks.lean ====
section
/-! SUPPORT. Witnesses for the statements about contexts and tasks. -/
namespace Sys2Proof.Tests
open Sys2Proof.Machine Sys2Proof.Claims
set_option Elab.async false

/-! ### Contexts, checkpoints -/

/-- Context 0 in a state. -/
def inState (st : CtxState) : State := withCtx base (fun c => { c with state := st })

/-- ContextEvents: a context to make, the four operations of CTXCMD, each accepted and each with a reserved bit. -/
theorem met_ContextEvents_commands :
    (zeroBits 7 63 17 = true ∧ (getCtx base 5).state = .none) ∧
    (∀ x, x ∈ [(CtxState.active, (0 : Nat), 0x8000000000010000), (.saved, 1, 0xA000000000010000), (.active, 2, 0xC000000000000000),
        (.killed, 3, 0xE000000000000000)] →
      bitsOf (BitVec.ofNat 64 x.2.2) 62 61 = x.2.1 ∧ ctxcmdRefused (inState x.1) (BitVec.ofNat 64 x.2.2) = false ∧
      bitOf (BitVec.ofNat 64 x.2.2) 63 = true ∧ bitsOf (BitVec.ofNat 64 (x.2.2 + 1)) 62 61 = x.2.1 ∧
      ctxcmdRefused (inState x.1) (BitVec.ofNat 64 (x.2.2 + 1)) = true) := by
  decide +kernel

/-- A region's bytes can be read. -/
def readable (x : Option (List (Nat × Byte)) × State) : Bool := x.1.isSome

/-- A saved context that held quads. -/
def savedWith (qs : List (Nat × List Nat)) : SavedCtx := { snapshot State.reset 0 [] with swaths := qs }

/-- A save whose work has left and whose save area, at IA 0, is not mapped. -/
def savingState : State := inState .saving

/-- A write of the save area ends in a cause. -/
def areaFails (x : Res Unit × State) (p : State → Bool) : Bool :=
  match x with
  | (.fault _, s) => p s
  | _ => false

/-- ContextEvents: a save whose work has left, its save area on a page that faults and its regions readable; a restore whose tiles are
free, and one whose quad a launch holds. -/
theorem met_ContextEvents_ends :
    ((getCtx savingState (savingState.op 0)).state = .saving ∧ saveReady savingState 0 = true ∧
      areaFails (writeArea (flushGens savingState) 0) (fun s1 =>
        readable (readRegions { s1 with free := s1.free + 1 } (ctxRegions s1 0))) = true) ∧
    (∀ qs, qs ∈ [[], [(1, [0])]] →
      (getCtx (inState .restoring) 0).state = .restoring ∧
      ({ inState .restoring with saved := [savedWith qs] } : State).saved.find? (fun x => x.ctx == 0) = some (savedWith qs) ∧
      restorable { inState .restoring with saved := [savedWith qs] } (savedWith qs) = qs.isEmpty) := by
  decide +kernel

/-- A save whose operand store at the start of tile(1,0), of 64 bytes, lies in a failed bank of a tile that has failed two. -/
def lostState : State :=
  { savingState with tl := { savingState.tl with regions := [(8, (0x1000000000080000, 0))], mtstat := [(1, 0x400000)] } }

/-- ContextEvents: a save whose regions cannot be read. -/
theorem met_ContextEvents_lost :
    (getCtx lostState (lostState.op 0)).state = .saving ∧ saveReady lostState 0 = true ∧
    areaFails (writeArea (flushGens lostState) 0) (fun s1 =>
      !readable (readRegions { s1 with free := s1.free + 1 } (ctxRegions s1 0))) = true := by
  decide +kernel

/-- A CHKPT of MODE 1, and a checkpoint of it under way. -/
def chkCmd : EngCmd := cmd 9 [1, 0, 0x200000, 0x400000]
def someCkpt (cut : Bool) : Ckpt := ⟨0, 4, 1, [0x200000, 0x400000], cut, 0, [], 0, [], 0⟩

/-- ContextEvents: CHKPT before and after its cut, a cut that can be taken, and one that has ended. -/
theorem met_ContextEvents_checkpoint :
    (cmdAt 9 chkCmd = true ∧ (engState chkCmd).eng.ckpt = none) ∧
    (let s := { engState chkCmd with eng := { (engState chkCmd).eng with ckpt := some (someCkpt true) } }
     findCmd s 0 4 = some chkCmd ∧ s.eng.ckpt = some (someCkpt true) ∧ (someCkpt true).uid = chkCmd.uid ∧ (someCkpt true).cutDone = true ∧
     (someCkpt true).mode = 1 ∧ (someCkpt true).pend = [] ∧ (someCkpt true).early = [] ∧ (someCkpt true).copied < imageFrames) ∧
    (let s := { State.reset with eng := { State.reset.eng with inbox := [(0, [chkCmd])], ckpt := some (someCkpt false) } }
     s.eng.ckpt = some (someCkpt false) ∧ (someCkpt false).cutDone = false ∧ cutReady s (someCkpt false) = true ∧ s.ctxs = [] ∧
     (findCmd s (someCkpt false).quad (someCkpt false).uid).isSome = true) ∧
    (let c := { chkCmd with stopped := true }
     findCmd (engState c) 0 4 = some c ∧ engOp c = 9 ∧ c.stopped = true ∧ c.status = 0 ∧ bitOf (engW c 0) 1 = false ∧
     (writeReply (engState c) 0 c).1 = true) := by
  decide +kernel

/-! ### Tasks -/

/-- A record of launch 1 read from VA 0x1_0000. -/
def someRec : TaskRec := TaskRec.make 3 (some 0x10000) (List.replicate 8 0) [] 0 1 0

/-- The base state with a record in the drill queue, in focus. -/
def drillState (r : TaskRec) : State := { base with ops := [r.rid], tk := { base.tk with drill := [r] } }

/-- A descriptor of a memory range, and one of an operand store that is nowhere. -/
def descMem : TileDesc := ⟨false, false, false, 2, 0x10000, 64, 0, false⟩
def descTile : TileDesc := ⟨false, false, false, 0, 0x10000, 0, 0, false⟩

/-- A signal for the record at VA 0x1_0000, whose JOIN is n. -/
def sigOf : Signal := ⟨0x10000, 0, 1, 0, 0⟩
def sigState (n : Byte) : State := { withBytes base 32 [n] with ops := [0], tk := { base.tk with signals := [sigOf] } }

/-- The agent that performs it. -/
def sigWho : Who := { Who.self 0 6 0 with key := agentKey 12 0 }

/-- TaskEvents: signals that find JOIN 2 and JOIN 0. -/
theorem met_TaskEvents_signal :
    ∀ n, n ∈ [2, 0] →
      (sigState n).tk.signals[(sigState n).op 0]? = some sigOf ∧
      okWith (readVA { sigState n with tk := { (sigState n).tk with signals := [] } } sigWho 0x10028 8) (fun _ s1 =>
        okWith (rmwVA s1 sigWho 0x10020 8 false [33, 0, 0] joinLess) (fun old _ =>
          ofBytes old % 2 ^ 24 == n.toNat)) = true := by
  decide +kernel

/-- TaskEvents: records to examine, a good one and one with a reserved bit; to test, with claims that hold and that do not. -/
theorem met_TaskEvents_drill :
    (findRec (drillState someRec) ((drillState someRec).op 0) = some someRec ∧ ctxRuns (drillState someRec) someRec.ctx = true ∧
      someRec.examined = false ∧
      okWith (loadRecord (withBytes (drillState someRec) 0 [1]) someRec) (fun r1 s1 => headerBad s1 (!r1.resumed) r1.launch r1.hdr) = true ∧
      okWith (loadRecord (drillState someRec) someRec) (fun r1 s1 => !headerBad s1 (!r1.resumed) r1.launch r1.hdr &&
        crSucc r1.hdr == 0 && okWith (examineTiles s1 (drillWho s1 r1) (crTiles r1.hdr)) (fun _ _ => true)) = true) ∧
    (∀ d, d ∈ [descMem, descTile] →
      (let r := { someRec with examined := true, tiles := [d] }
       findRec (drillState r) 3 = some r ∧ r.tested = false ∧ r.ready = false ∧
       r.tiles.zipIdx.all (fun x => descHolds (drillState r) r x.2 x.1) = decide (d = descMem)) ∧
      (let r := { someRec with tested := true, tiles := [d] }
       findRec (drillState r) 3 = some r ∧ r.ready = false ∧ r.tiles[r.cpos]? = some d ∧
       descHolds (drillState r) r r.cpos d = decide (d = descMem))) ∧
    (let r := { someRec with tested := true }
     r.tiles[r.cpos]? = none ∧ needsLookup r = false ∧ findRec (drillState r) 3 = some r) := by
  decide +kernel

/-- A PURE record whose claims are held. -/
def pureRec (ds : List TileDesc) : TaskRec :=
  { someRec with hdr := setNth someRec.hdr 4 0x100000000000, tested := true, tiles := ds, cpos := ds.length }

/-- The key formed of the PURE record without descriptors. -/
def pureKey : List Byte :=
  shake256 (bytesOf 32 (Sys2Proof.Config.tenantKey 0).toNat ++ launchDigest (drillState (pureRec [])) 1 ++ bytesOf 8 0 ++ bytesOf 2 0)

/-- An entry of the granary under that key. -/
def pureEntry : GranEntry := ⟨pureKey, 0, [], [], none, 0⟩

/-- The state with that entry. -/
def granState : State :=
  { drillState (pureRec []) with ln := { (drillState (pureRec [])).ln with grtab := 0x8000000000000000, gran := [pureEntry] } }

/-- TaskEvents: a record that is not keyable, and one that hits. -/
theorem met_TaskEvents_lookup :
    (let r := pureRec [⟨false, false, false, 1, 0x10000, 0, 1, false⟩]
     findRec (drillState r) 3 = some r ∧ ctxRuns (drillState r) r.ctx = true ∧ r.tested = true ∧ r.ready = false ∧
     r.tiles.length ≤ r.cpos ∧ needsLookup r = true ∧
     okWith (granaryKey (drillState r) (drillWho (drillState r) r) r.launch (nth 0 r.hdr 1) (crLive r.hdr) r.regs r.tiles)
       (fun k _ => k.isNone) = true) ∧
    (findRec granState 3 = some (pureRec []) ∧ needsLookup (pureRec []) = true ∧
      granaryKey granState (drillWho granState (pureRec [])) 1 0 0 [] [] = (.ok (some pureKey), granState) ∧
      granMatch granState (dieOfQuad (drillQuad granState (pureRec []))) pureKey (outSizes granState (drillWho granState (pureRec [])) []) =
        some pureEntry) := by
  refine ⟨by decide +kernel, by decide +kernel, by decide +kernel, ?_, ?_⟩
  · show (Res.ok (some (shake256 _)), granState) = _
    simp only [pureKey, bytesOfWords, List.append_nil]
    rfl
  · have h1 : bitOf granState.ln.grtab 63 = true := by decide +kernel
    have h2 : granState.ln.gran = [pureEntry] := rfl
    simp [granMatch, h1, h2, outSizes, pureEntry]

/-- A ready record; the pop is its class's 4,096th. -/
def readyState : State :=
  let s := drillState { someRec with ready := true }
  { s with ops := [0], tk := { s.tk with pops := [(0, 4095)] } }

/-- TaskEvents: a ready record for an idle sequencer; parked records whose conditions hold and do not. -/
theorem met_TaskEvents_pop :
    (idleCore readyState (readyState.op 0) = true ∧ ckptStops readyState = false ∧
      (pickRecord readyState (quadOf (readyState.op 0))).1 = some (0, { someRec with ready := true }) ∧
      ({ someRec with ready := true } : TaskRec).ckpt = none) ∧
    (∀ w, w ∈ [(0 : Nat), 2 ^ 60] →
      let r := { someRec with hdr := setNth someRec.hdr 6 (BitVec.ofNat 64 w) }
      let s := { base with ops := [3], tk := { base.tk with parked := [r] } }
      s.tk.parked.find? (fun r => r.rid == s.op 0) = some r ∧ ctxRuns s r.ctx = true ∧
      parkHolds s r.ctx r.engcmds (crWkind r.hdr) (crWphase r.hdr) (crWarg r.hdr) = decide (w = 0) ∧ (enqueueRec s r).isSome = true) := by
  decide +kernel

/-- A task that retires, having sent a command. -/
def retiring (out : Bool) (cs : List Nat) : Retiring := ⟨{ someRec with engcmds := cs, sigs := [0x10000] }, 0, 0, false, out⟩

/-- TaskEvents: tasks that retire, with their commands drained and not, and with their signals sent. -/
theorem met_TaskEvents_retire :
    (let s := { engState copyCmd with ops := [0], tk := { base.tk with retiring := [retiring false []] } }
     s.tk.retiring[s.op 0]? = some (retiring false []) ∧ engDrained s (retiring false []).task.engcmds = true ∧
     (retiring false []).task.key = none ∧ crSucc (retiring false []).task.hdr = 0) ∧
    (let s := { engState copyCmd with ops := [0], tk := { base.tk with retiring := [retiring false [4]] } }
     s.tk.retiring[s.op 0]? = some (retiring false [4]) ∧ engDrained s (retiring false [4]).task.engcmds = false) ∧
    (let s := { base with ops := [0], tk := { base.tk with retiring := [retiring true []] } }
     s.tk.retiring[s.op 0]? = some (retiring true []) ∧ (retiring true []).out = true ∧
     s.tk.signals.any (fun x => x.owner == (retiring true []).task.rid) = false ∧ (retiring true []).task.handler = false) := by
  decide +kernel

/-- A firing that may be checkpointed, with a request. -/
def ckptFir : Firing := { fir with task := { fir.task with hdr := setNth fir.task.hdr 4 0x80000000000 } }
def victim (c : Core) (p : Option Preempt) : State :=
  let s := withCtx (at0 c) (fun x => { x with state := .saving })
  { s with ops := [0], clk := { s.clk with cycle := 2 ^ 20 }, tk := { s.tk with preempt := (match p with | some p => [(0, p)] | none => []) } }

/-- A firing that may run again, and has sent no signal. -/
def idemFir : Firing := { fir with task := { fir.task with hdr := setNth fir.task.hdr 4 0x40000000000 } }

/-- TaskEvents: a request that arises, one whose firing is checkpointed, one whose firing runs again, one for a firing in system state,
one that drains, before and after its time. -/
theorem met_TaskEvents_preempt :
    (let s := victim (core []) none
     getCore s (s.op 0) = core [] ∧ (core []).run = some fir ∧ hasFaulted (core []) = false ∧ requestAt s (s.op 0) fir = none ∧ saveWants s (s.op 0) fir = true ∧
     estOf (core []) fir ≤ dlog s fir.task.ctx) ∧
    (let c := { core [] with run := some ckptFir }
     let s := victim c (some ⟨0, 0, false, true, false⟩)
     getCore s 0 = c ∧ requestAt s 0 ckptFir = some ⟨0, 0, false, true, false⟩ ∧ c.sys = false ∧ midway c = false ∧ awaitsOwner s 0 c = false ∧
     crCkpt ckptFir.task.hdr = true ∧ ckptLoad s (quadOf 0) < 256 ∧
     (enqueueRec (unbind s ckptFir.task.ctx (coreBinder 0)) (checkpointed 0 c ckptFir)).isSome = true) ∧
    (let c := { core [] with run := some idemFir }
     let s := victim c (some ⟨0, 0, false, true, false⟩)
     getCore s 0 = c ∧ requestAt s 0 idemFir = some ⟨0, 0, false, true, false⟩ ∧ c.sys = false ∧ hasFaulted c = false ∧
     crCkpt idemFir.task.hdr = false ∧ crIdem idemFir.task.hdr = true ∧ idemFir.early = false ∧
     (enqueueRec (unbind (settleClaims (cancelBarrier s 0 c) idemFir.task.ctx false idemFir.task.claims) idemFir.task.ctx (coreBinder 0))
       { idemFir.task with
          hdr := idemFir.task.orig, regs := idemFir.task.origRegs, sigs := idemFir.task.origSigs, claims := [],
          noins := false }).isSome = true) ∧
    (let c := { core [] with sys := true }
     let s := victim c (some ⟨0, 0, false, true, false⟩)
     getCore s 0 = c ∧ requestAt s 0 fir = some ⟨0, 0, false, true, false⟩ ∧ c.sys = true) ∧
    (∀ b, b ∈ [true, false] →
      let p : Preempt := ⟨0, if b then 2 ^ 20 else 0, true, true, false⟩
      let c := { core [] with sys := true }
      let s := victim c (some p)
      getCore s 0 = c ∧ requestAt s 0 fir = some p ∧ p.draining = true ∧
      decide (s.clk.cycle < p.since + 4 * 2 ^ dlog s fir.task.ctx) = b) := by
  and_intros <;> decide +kernel

end Sys2Proof.Tests
end

