-- ==== Sys2Proof/Tests/MetHost.lean ====
section
/-! SUPPORT. Witnesses for the statements about launches, the host, decoding and steps. -/
namespace Sys2Proof.Tests
open Sys2Proof.Machine Sys2Proof.Claims
set_option Elab.async false

/-! ### Launches -/

/-- Words of a launch record: code at VA 0x1_0000, template at VA 0x1_0100, LID 1, a swath word, MAX 1, completion at VA 0x1_0200. -/
def recOf (swath ind : Word) : List Word := [0x10000, 0x10100, 1 ||| swath, 1, ind, 0, 0x10200, 0]

/-- A launch over such a record, with one die swath (MIND 1, MAXD 2) or one quad. -/
def dieSwath : Word := 0x220000000
def quadSwath : Word := 0x800000000
def lauOf (st : LState) (swath ind : Word) : Launch := { lau with state := st, words := recOf swath ind }

/-- The state with launches and with every die up; a code object's header at VA 0x1_0000. -/
def launched (l : List Launch) : State :=
  let s := withBytes base 0 ([0x53, 0x4D, 0x4F, 0x52, 1, 0, 0, 0] : List Byte)
  { s with ops := [1, 0], ln := { s.ln with live := l }, boot := { s.boot with blob := true, dies := List.replicate 4 ⟨true, false⟩ } }

/-- The state with a launch whose code may be read and no longer fetched. -/
def unfetched (l : Launch) : State := withCtx (launched [l]) (fun c => { c with ranges := (0x10001, 1, 0x1000C) :: c.ranges.drop 1 })

/-- Queue 0 with a record in slot 0, and its doorbell rung. -/
def doorState (w : List Word) : State :=
  let s := launched []
  setLQ { s with ops := [0], ln := { s.ln with door := [(0, 0, 0)] } } 0
    { LQueue.reset with cfg := 0x8000038000000000, slots := w :: List.replicate 14 (List.replicate 8 0), busy := [0] }

/-- LaunchEvents: DOOR of an enabled queue and of one that is not; an arrival refused and one accepted. -/
theorem met_LaunchEvents_arrival :
    (zeroBits 1 63 4 = true ∧ bitsOf 1 3 0 < 15 ∧ lqEn (getLQ (doorState []) 0) = true ∧
      (getLQ (doorState []) 0).busy.contains (bitsOf 1 3 0) = false ∧ lqEn (getLQ base 0) = false) ∧
    (∀ w, w ∈ [List.replicate 8 0, recOf quadSwath 0, setNth (recOf quadSwath 0) 0 0x10400] →
      (doorState w).ln.door[(doorState w).op 0]? = some (0, 0, 0) ∧ (doorState w).boot.blob = true ∧ ckptStops (doorState w) = false ∧
      launchGrant (doorState w) = some ((doorState w).op 0) ∧ nth [] (getLQ (doorState w) 0).slots 0 = w) ∧
    (recordCause (doorState (List.replicate 8 0)) (getLQ (doorState (List.replicate 8 0)) 0) (List.replicate 8 0)).isSome = true ∧
    recordCause (doorState (recOf quadSwath 0)) (getLQ (doorState (recOf quadSwath 0)) 0) (recOf quadSwath 0) = none ∧
    okWith (codeCause (doorState (recOf quadSwath 0)) (launchWho 0 1) 0x10000) (fun e s1 =>
      e.isNone && passes (translate s1 (launchWho 0 1) 0x10200 .write)) = true ∧
    (let w := setNth (recOf quadSwath 0) 0 0x10400
     recordCause (doorState w) (getLQ (doorState w) 0) w = none ∧
     okWith (codeCause (doorState w) (launchWho 0 1) 0x10400) (fun e _ => e.isSome) = true) ∧
    (let w := recOf quadSwath 0
     vaReserved (nth 0 w 6) = false ∧ signalReserved (nth 0 w 7) = false ∧ recVA (nth 0 w 6) = 0x10200 ∧
     passes (translate (doorState w) (launchWho 0 1) 0x10200 .write) = true ∧
     okWith (writeVA (doorState w) (launchWho 0 1) 0x10200 (compBytes 1 4 Cause.lnchbad 0 0 0 0 0 0 0)) (fun _ _ => true) = true) := by
  and_intros <;> decide +kernel

/-- LaunchEvents: waits satisfied, with the count given and read; a swath to grant; code that is resident, code to copy, and code that
may not be fetched; an instance to enter. -/
theorem met_LaunchEvents_course :
    (∀ i, i ∈ [(0 : Nat), 0x10300] →
      let l := lauOf .accepted quadSwath (BitVec.ofNat 64 i)
      let w := { l with words := if i = 0 then l.words else setNth l.words 2 (nth 0 l.words 2 ||| 0x100000000000) }
      findLaunch (launched [w]) 1 = some w ∧ w.state = .accepted ∧ waitsDone (launched [w]) w = true ∧
      ctxRuns (launched [w]) w.ctx = true ∧ recInd w.words = decide (i ≠ 0) ∧
      okWith (readVA (launched [w]) (launchWho w.ctx w.lid) (vaSext (bitsOf (nth 0 w.words 4) 56 2 * 4)) 4) (fun _ _ => true) =
        decide (i ≠ 0)) ∧
    (let l := { lauOf .allocating quadSwath 0 with quads := [], dies := [], filled := [] }
     findLaunch (launched [l]) 1 = some l ∧ l.state = .allocating ∧ heldUp (launched [l]) l = false ∧
     (swathFor (launched [l]) l).isSome = true) ∧
    (let l := { lauOf .running quadSwath 0 with filled := [] }
     let s := { launched [l] with ln := { (launched [l]).ln with code := [⟨0, 0, launchCode l, 0, [], 0⟩] } }
     findLaunch s 1 = some l ∧ s.op 1 = 0 ∧ l.state = .running ∧ l.dies.contains 0 = true ∧ l.filled.contains 0 = false ∧ l.status = 0 ∧
     s.ln.code.any (fun c => c.die == 0 && c.ctx == l.ctx && c.va == launchCode l) = true ∧
     (launched [l]).ln.code = [] ∧
     okWith (readVA (launched [l]) (launchWho l.ctx l.lid) (launchCode l) 64) (fun hb s1 =>
       decide (objSegs (wordsOf 8 hb) ≤ 2 ^ 22) &&
       okWith (readVA s1 (launchWho l.ctx l.lid) (launchCode l + 64) (objSegs (wordsOf 8 hb))) (fun _ s2 => s2.ln.code.isEmpty &&
         (pagesCause s2 (launchWho l.ctx l.lid) .exec (pagesOf (launchCode l) (64 + objSegs (wordsOf 8 hb)))).isNone)) = true ∧
     okWith (readVA (unfetched l) (launchWho l.ctx l.lid) (launchCode l) 64) (fun hb s1 =>
       okWith (readVA s1 (launchWho l.ctx l.lid) (launchCode l + 64) (objSegs (wordsOf 8 hb))) (fun _ s2 =>
         pagesCause s2 (launchWho l.ctx l.lid) .exec (pagesOf (launchCode l) (64 + objSegs (wordsOf 8 hb))) == some Cause.perm)) = true ∧
     ctxRuns s l.ctx = true) ∧
    (let l := { lauOf .running quadSwath 0 with entered := 0 }
     let s := withBytes (launched [l]) 0x128 [0, 0, 0, 0xC0, 0xFF]
     findLaunch s 1 = some l ∧ l.state = .running ∧ l.status = 0 ∧ l.entered < l.count ∧ l.dies.all (fun d => l.filled.contains d) = true ∧
     okWith (readCR s (launchWho l.ctx l.lid) (recVA (nth 0 l.words 1))) (fun x s1 =>
       crJoin x.1 == 0 && crQuad x.1 == 0x3FF &&
       (enqueueRec { s1 with tk := { s1.tk with nextRid := s1.tk.nextRid + 1 } } (TaskRec.make s1.tk.nextRid none
          (instanceHdr l l.entered (nth 0 l.quads (l.entered % max l.quads.length 1)) x.1) x.2 l.ctx l.lid
          (nth 0 l.quads (l.entered % max l.quads.length 1)))).isSome) = true) := by
  and_intros <;> decide +kernel

/-- A running launch of two dies and, beside it, one of lesser class that waits for a die none is left of. -/
def twoDies (leaving : List Nat) : Launch :=
  { lauOf .running dieSwath 0 with quads := [0, 16], dies := [0, 1], filled := [0, 1], leaving := leaving }
def wanting : Launch :=
  { lauOf .allocating dieSwath 0 with
    lid := 2, cls := 0, order := 1, quads := [], dies := [], filled := [], words := setNth (recOf 0 0) 2 0x480000002 }

/-- LaunchEvents: a die to withdraw, one that is still busy and one that is not; a die to add; a launch that has ended and one that
has not. -/
theorem met_LaunchEvents_dies :
    (let s := launched [twoDies [], wanting]
     findLaunch s 1 = some (twoDies []) ∧ (twoDies []).leaving = [] ∧ recNquad (twoDies []).words = 0 ∧
     recMind (twoDies []).words < (twoDies []).dies.length ∧
     s.ln.live.any (fun m => m.state == .allocating && ctxRuns s m.ctx && m.cls < (twoDies []).cls && lacksDies s m) = true) ∧
    (let l := twoDies [0]
     findLaunch (setCore (launched [l]) 0 (core [])) 1 = some l ∧ dieBusy (setCore (launched [l]) 0 (core [])) l 0 = true ∧
     l.leaving = [0] ∧ l.dies.length ≤ recMind l.words + l.leaving.length ∧
     findLaunch (launched [l, wanting]) 1 = some l ∧ l.leaving.find? (fun d => !dieBusy (launched [l, wanting]) l d) = some 0 ∧
     (findLaunch (finishWithdraw (launched [l, wanting]) l 0) 1).isSome = true ∧
     neediest (launched [l, wanting]) l = some wanting ∧ wanting.lid ≠ l.lid ∧
     findLaunch (launched [l, wanting]) wanting.lid = some wanting ∧
     (findLaunch (finishWithdraw (launched [l, wanting]) l 0) wanting.lid).isSome = true) ∧
    (let l := { twoDies [] with quads := [0], dies := [0], filled := [0] }
     let s := launched [l]
     findLaunch s 1 = some l ∧ mayGrow l = true ∧ s.ln.live.any (waitsAhead s l) = false ∧
     s.ln.live.any (fun m => mayGrow m && ctxRuns s m.ctx && (m.cls < l.cls || (m.cls == l.cls && m.order < l.order))) = false ∧
     ctxRuns s l.ctx = true ∧ freeDies s l ≠ []) ∧
    (∀ n, n ∈ [0, 1] → let l := { lauOf .running quadSwath 0 with live := n }
      let s0 := unloadIdle (launched [l]) l
      findLaunch (launched [l]) 1 = some l ∧ launchEnded (launched [l]) l = decide (n = 0) ∧
      okWith (writeVA s0 (launchWho l.ctx l.lid) (recVA (nth 0 l.words 6)) (compBytes l.lid (launchStatus l) l.cause l.faults l.engcmds
        l.hits l.entered l.tasks l.tacc s0.clk.dtime)) (fun _ _ => true) = true ∧
      (launched [l]).ln.live.all (fun m => m.lid == l.lid || !m.quads.contains 0) = true) := by
  and_intros <;> decide +kernel

/-! ### The host -/

/-- HostRegisterEvents: values that the registers' checks pass and fail; a frame boundary; an attestation; a halted core and one
that runs. -/
theorem met_HostRegisterEvents :
    (zeroBits 0x8000038000000000 62 56 = true ∧ zeroBits 0x8000038000000000 38 0 = true ∧ zeroBits 1 38 0 = false ∧
      (getLQ base 0).busy.contains 0 = false ∧ (getLQ base 0).slots.length = 15 ∧ (nth [] (getLQ base 0).slots 0).length = 8) ∧
    (zeroBits 0x00000A0000001000 62 45 = true ∧ zeroBits 0x00000A0000001000 11 0 = true ∧ bitsOf 0x00000A0000001000 44 40 = 10 ∧
      bitOf base.ln.grtab 63 = false ∧ (rsvtLatest base 3).length ≤ 184) ∧
    (∀ c, c ∈ [0, 2 ^ 40] →
     let s := { base with ops := [3], ln := { base.ln with rsvtNew := [(3, (c, [(0, 9)]))] }, clk := { base.clk with cycle := 2 ^ 40 } }
     s.ln.rsvtNew.get? (s.op 0) = some (c, [(0, 9)]) ∧ framePassed s (s.op 0) c = decide (c = 0)) ∧
    base.boot.held = false ∧ ({ base with boot := { base.boot with held := true } } : State).boot.held = true ∧
    (∀ v, v ∈ [(0x8000000000000000 : Nat), 0xC000000000000000] →
      zeroBits (BitVec.ofNat 64 v) 61 24 = true ∧ bitOf (BitVec.ofNat 64 v) 63 = true ∧
      bitOf (BitVec.ofNat 64 v) 62 = decide (v ≠ 0x8000000000000000) ∧
      bitOf ({ base with boot := { base.boot with keyld := BitVec.ofNat 64 v } } : State).boot.keyld 63 = true) ∧
    bitOf base.boot.keyld 63 = false ∧
    (zeroBits 0x1000000 61 24 = false ∧ bitOf 0x1000000 62 = false ∧ zeroBits 0x4000000001000000 61 24 = false ∧
      bitOf 0x4000000001000000 62 = true) ∧
    (zeroBits 0xC000000000000000 61 0 = true ∧ bitOf 0xC000000000000000 63 = true ∧
      bitOf base.boot.fmbcmd 63 = false ∧ base.boot.fmbnonce.length = 4) ∧
    bitOf ({ base with boot := { base.boot with fmbcmd := 0x8000000000000000 } } : State).boot.fmbcmd 63 = true ∧
    (∀ h, h ∈ [true, false] → (getCore (at0 { core [] with halted := h }) 0).halted = h) ∧
    (tidOfSel (bitsOf 0x8000000000000000 15 0) = some 0 ∧ zeroBits 0x8000000000000000 62 16 = true ∧ isCore 0 = true) := by
  and_intros <;> decide +kernel

/-- SemaphoreRule: semaphore 3 free, and held by a port that frees it. -/
theorem met_SemaphoreRule :
    base.host.sems.getD 3 0 = 0 ∧
    ({ base with host := { base.host with sems := [(3, 2)] } } : State).host.sems.getD 3 0 = (if true then 2 else 1) := by
  decide +kernel

/-- A host write of 8 bytes at offset 0x1_0000 of BAR 4, by an aperture base. -/
def hostWrites (ap : Word) : Res (List Byte) × State :=
  let s := { base with host := { base.host with apA := ap } }
  hostAccess s false (hostParts s (apertureIA s false 0x10000 8) 8) (some (List.replicate 8 1))

/-- A host read of page 1 where another module owns it and has not answered yet. -/
def hostWaits : Res (List Byte) × State :=
  let s := { base with
    xl := { base.xl with
      tcache := base.xl.tcache.map (fun p => (p.1, { p.2 with w0 := p.2.w0 ||| 8, w1 := 5 * 2 ^ 44 }))
      fwdOut := [⟨0, agentKey 5 0, 0x10000, 5, true, none⟩] } }
  hostAccess s false (hostParts s (apertureIA s false 0x10000 8) 8) none

/-- HostModuleEvents: a read and a write of memory, a write that faults; dies, links, beacons, a die whose context works on it. -/
theorem met_HostModuleEvents :
    (otherFlight base false 0x10000 8 = false ∧
      okWith (hostAccess base false (hostParts base (apertureIA base false 0x10000 8) 8) none) (fun bs _ => bs.length == 8) = true ∧
      okWith (hostWrites 0) (fun _ _ => true) = true ∧ faultIs (hostWrites 0x1000000000) Cause.pageflt = true ∧
      (match hostWaits.1 with
      | .wait => true
      | _ => false) = true) ∧
    (let s := { base with boot := { base.boot with blob := true } }
     s.boot.dies.length = 4 ∧ nth (⟨false, true⟩ : Die) s.boot.dies 0 = ⟨false, false⟩ ∧ s.boot.node = s.boot.timeRoot ∧
     s.clk.beacons = []) ∧
    (let s := { base with boot := { base.boot with links := 1, timeRoot := 7 } }
     s.boot.links.getLsbD 0 = true ∧ s.boot.links.getLsbD 1 = false ∧ s.boot.node ≠ s.boot.timeRoot) ∧
    (let s := setCore base 0 (core [])
     s.ctxs.any (fun e => e.1 == 0 && e.2.state == .active) = true ∧ worksOn s 0 0 = true) := by
  decide +kernel

/-! ### Words and steps -/

/-- DecodeEncodeAgree: a sequencer form and an element form that are well formed. -/
theorem met_DecodeEncodeAgree :
    ((Instr.addi 5 6 0x8001).wf = true ∧ (Instr.addi 5 6 0x8001).wordKind = .sequencer) ∧
    ((Instr.iadd .s16 (.loc 5 .p) (.eg 7)).wf = true ∧ (Instr.iadd .s16 (.loc 5 .p) (.eg 7)).wordKind = .element) := by
  decide +kernel

/-- A word fetched, and what comes of it. -/
def fetched (s : State) (p : Except Cause (BitVec 32) → Bool) : Bool :=
  match fetchWord { s with focus := (0, 0) } 0 fir 0x10000 with
  | (some x, _) => p x
  | _ => false

/-- The state whose core's turn is next, with a word at its pc. -/
def turnState (bs : List Byte) : State := { withBytes (at0 (core [])) 0 bs with agenda := [.core 0] }

/-- StepRunsDecodedWord: a core with a word that decodes, one with a word that does not, one with a fetch that faults, one with an
access that has faulted; a slot's turn; an event's turn. -/
theorem met_StepRunsDecodedWord :
    (base.clk.cycle < 2 ^ 64 - 1 ∧ base.clk.dtime < 2 ^ 64 - 1 ∧ base.clk.slew = 0 ∧ base.clk.rem < 12) ∧
    (turns (roundTick (turnState [0x00, 0x00, 0xA0, 0x20])) = [.core 0] ∧
      getCore { roundTick (turnState [0x00, 0x00, 0xA0, 0x20]) with agenda := [] } 0 = core [] ∧ (core []).run = some fir ∧
      (core []).halted = false ∧ hasFaulted (core []) = false ∧ (core []).replay = [] ∧
      fetched { roundTick (turnState [0x00, 0x00, 0xA0, 0x20]) with agenda := [] } (fun x => gives x 0x20A00000) = true ∧
      passes (decodeSeq 0x20A00000) = true) ∧
    (fetched { roundTick (turnState [0x00, 0x00, 0x00, 0x34]) with agenda := [] } (fun x => gives x 0x34000000) = true ∧
      failsWith (decodeSeq 0x34000000) Cause.illop = true) ∧
    (let s := { withCtx (at0 (core [])) (fun c => { c with ranges := List.replicate 16 (0, 0, 0) }) with agenda := [.core 0] }
     turns (roundTick s) = [.core 0] ∧ fetched { roundTick s with agenda := [] } (fun x => failsWith x Cause.nomap) = true) ∧
    (let a : Access := acc 1 0x10000 (.faulted Cause.memue)
     let s := { at0 { core [] with unfin := [a] } with agenda := [.core 0] }
     turns (roundTick s) = [.core 0] ∧ (getCore { roundTick s with agenda := [] } 0).unfin = [a] ∧ a.phase = .faulted Cause.memue ∧
     midway { core [] with unfin := [a] } = false) ∧
    (let a : Access := { acc 1 0x10000 .sent with word := 0x20A00000 }
     let s := { at0 { core [] with replay := [a] } with agenda := [.core 0] }
     turns (roundTick s) = [.core 0] ∧ (getCore { roundTick s with agenda := [] } 0).replay = [a] ∧ hasFaulted (core []) = false ∧
     passes (decodeSeq a.word) = true) ∧
    turns (roundTick { base with agenda := [.forfin] }) = [.forfin] ∧
    (let s := { elemState (slotWith 0x01200804 0 none none) with agenda := [.slot 0 0, .event .timeBeacon []] }
     turns (roundTick s) = [.slot 0 0, .event .timeBeacon []] ∧ passes (decodeElem (slotWord { roundTick s with agenda := [] } 0 0)) = true) := by
  and_intros <;> decide +kernel

/-- StepKeepsStorageForm: a state of that form that steps. -/
theorem met_StepKeepsStorageForm :
    (turnState [0x00, 0x00, 0xA0, 0x20]).stored = true ∧
    (match step (turnState [0x00, 0x00, 0xA0, 0x20]) with
      | .next s' => (getCore s' 0).pc == 0x10004
      | _ => false) = true := by
  decide +kernel

end Sys2Proof.Tests
end

