-- ==== Sys2Proof/Tests/MetRegisters.lean ====
section
/-! SUPPORT. Witnesses for the statements about control registers, their events, and held accesses. -/
namespace Sys2Proof.Tests
open Sys2Proof.Machine Sys2Proof.Claims
set_option Elab.async false

/-- A core whose registers name control registers: g1 none, g2 NCTL, g3 TVEC, g4 TSERR; g5 a value. -/
def crCore (sys : Bool) : Core :=
  { core [(1, 3), (2, 8), (3, 0x20), (4, 0x2B), (5, 0x10002)] with sys := sys }

/-- RegisterForms: a number that the map lacks; reads in user and system state; a register not allowed; writes that pass and that
are refused. -/
theorem met_RegisterForms :
    (Runs (at0 (crCore false)) 0 (crCore false) fir ∧ Runs (at0 (crCore true)) 0 (crCore true) fir) ∧
    ((crCore false).ready [1, 2, 3, 4, 5] = true ∧ (crCore true).ready [1, 2, 3, 4, 5] = true) ∧
    crName ((crCore false).gpr 1 + (0 : BitVec 6).setWidth 64).toNat = none ∧
    (crName ((crCore false).gpr 2 + (0 : BitVec 6).setWidth 64).toNat = some .nctl ∧ CrName.nctl.userReads = true ∧
      passes (crGet (windowsTo (at0 (crCore false)) 0) 0 (selfWord (windowsTo (at0 (crCore false)) 0) 0 (crCore false) fir) .nctl) =
        true) ∧
    (crName ((crCore true).gpr 3 + (0 : BitVec 6).setWidth 64).toNat = some .tvec ∧ CrName.tvec.userReads = false ∧
      CrName.tvec.writeBy = .sys ∧ (crCore true).sys = true ∧
      passes (crPut (at0 (crCore true)) 0 [] 0x20 ((crCore true).gpr 1 - 3) .tvec) = true ∧
      failsWith (crPut (at0 (crCore true)) 0 [] 0x20 ((crCore true).gpr 5) .tvec) Cause.trapcfg = true) ∧
    ((crCore true).gpr 0 = 0 ∧ passes (crPut (at0 (crCore true)) 0 (crCore true).staged 0x20 ((crCore true).gpr 0) .tvec) = true) := by
  and_intros <;> decide +kernel

/-- RegisterWrites: a value that passes for each register, and the refusals of NCTL and of a range register. -/
theorem met_RegisterWrites :
    ((0x10004 : Word).toNat % 4 = 0 ∧ canonical 0x10004 = true) ∧ ((0x10000 : Word).toNat % 65536 = 0 ∧ canonical 0x10000 = true) ∧
    zeroBits (1 : Word) 31 2 = true ∧ zeroBits (4 : Word) 31 2 = false ∧
    ((getCtx base 0).ranges.length = 16 ∧
      rangeBad (setNth (getCtx base 0).ranges 15 (0, 0, 0)) (stagedWord [(0x12D, 0x100001), (0x12E, 1)] 0x12D,
        stagedWord [(0x12D, 0x100001), (0x12E, 1)] 0x12E, 0x2000C) = false ∧
      bitOf (stagedWord [(0x12D, 0x100001), (0x12E, 1)] 0x12D) 0 = true) ∧
    rangeBad (setNth (getCtx base 0).ranges 15 (0, 0, 0)) (stagedWord [(0x12D, 0x10001), (0x12E, 1)] 0x12D,
      stagedWord [(0x12D, 0x10001), (0x12E, 1)] 0x12E, 0x2000C) = true ∧
    ((getCtx base 0).wpts.length = 8 ∧ wptBad (stagedWord [(0x4E, 0x10000)] 0x4E) 1 = false) := by
  and_intros <;> decide +kernel

/-- The state with words staged by Lowyn A for context 0. -/
def hostWords (l : List (Nat × Word)) : State := setStaged base false 0 l

/-- RegisterEvents: one value for each register's event; THEND of a handler; a port whose walks have ended. -/
theorem met_RegisterEvents :
    zeroBits (0xFFFF0000FFFFFFFF : Word) 47 32 = true ∧
    (zeroBits (0x1000F : Word) 63 57 = true ∧ zeroBits (0x1000F : Word) 11 5 = true ∧ 6 ≤ bitsOf (0x1000F : Word) 4 0 ∧
      bitsOf (0x1000F : Word) 4 0 ≤ 15) ∧
    (passes (crPut (hostWords [(0x100, 0x100001), (0x101, 1)]) 0 (hostStaged (hostWords [(0x100, 0x100001), (0x101, 1)]) false 0)
      (0x102 + 3 * 0) 0x2000C (.range 0 2)) = true) ∧
    (failsWith (crPut (hostWords [(0x100, 0x100001)]) 0 (hostStaged (hostWords [(0x100, 0x100001)]) false 0)
      (0x102 + 3 * 0) 0x2000C (.range 0 2)) Cause.rangecfg = true) ∧
    (passes (crPut (hostWords [(0x200, 0x10001), (0x201, 0x100000000), (0x202, 0x10000)]) 0
      (hostStaged (hostWords [(0x200, 0x10001), (0x201, 0x100000000), (0x202, 0x10000)]) false 0)
      (0x203 + 4 * 0) 0x18000 (.bufmap 0 3)) = true) ∧
    (passes (crPut (hostWords [(0x40, 0x10000)]) 0 (hostStaged (hostWords [(0x40, 0x10000)]) false 0) (0x41 + 2 * 0) 1 (.wptCtl 0)) =
      true) ∧
    (zeroBits (0x8000000000000001 : Word) 62 33 = true ∧ bitOf (0x8000000000000001 : Word) 63 = true ∧
      0 < bitsOf (0x8000000000000001 : Word) 32 0 ∧ base.xl.tinva.toNat + bitsOf (0x8000000000000001 : Word) 32 0 ≤ 15 * 2 ^ 28 ∧
      base.xl.tinvLeft = []) ∧
    (zeroBits (0x00B00005 : Word) 63 24 = true ∧ bitsOf (0x00B00005 : Word) 23 20 = 11 ∧
      (poolAppend base 11 (bitsOf (0x00B00005 : Word) 23 0)).isSome = true) ∧
    (isMem 1 = true ∧ zeroBits (0x00001200 : Word) 31 24 = true ∧ zeroBits (0x00001200 : Word) 7 0 = true ∧
      bitOf (0x00001200 : Word) 21 = false) ∧
    (let s := at0 { core [] with sys := true }
     (getCore s 0).run = some fir ∧ (getCore s 0).sys = true ∧ (getCore s 0).halted = false ∧ (getCore s 0).unfin = [] ∧
     (getCore s 0).frame = 0 ∧ zeroBits (0x3FF : Word) 63 10 = true ∧ bitsOf (0x3FF : Word) 9 0 ≠ 0) ∧
    (let s := { base with xl := { base.xl with tinvLeft := [0, 1] } }
     s.xl.tinvLeft.contains (s.op 0) = true ∧ s.st.lineQ = [] ∧ s.xl.moves = [] ∧ s.op 0 < 64) := by
  and_intros <;> decide +kernel

/-- A held read of slot 3 of tile(0,0), refused by a home port. -/
def someHeld : Held := ⟨Cause.pageflt, 0x10040, 0x10040, false, BitVec.allOnes 16, 0, none, none, 0⟩

/-- The state in which it is held, a wake for it being on its way. -/
def heldState : State :=
  let s := setSlot base 0 3 { Slot.reset with word := 0x60000000, held := some someHeld }
  { withCtx s (fun x => { x with tring := 0x10000 }) with
    ops := [0, 0, 3], fab := { s.fab with tileSec := [(0, 0)] }, xl := { s.xl with wakes := [(0, 0, 3)] } }

/-- HeldForms: a wake, a move to the ring, THOLD's retry and its poison. -/
theorem met_HeldForms :
    (heldOf heldState (.slot 0 3) = some (0, someHeld) ∧ someHeld.ring = none ∧ someHeld.waitPort = none ∧ someHeld.write = false) ∧
    (heldState.xl.wakes.contains (heldState.op 0, heldState.op 1, heldState.op 2) = true ∧
      unitNamed (heldState.op 0) (heldState.op 1) (heldState.op 2) = some (.slot 0 3)) ∧
    (atHomePort someHeld = true ∧ (getCtx heldState 0).tring ≠ 0 ∧ ringFree (getCtx heldState 0) = some 0 ∧
      okWith (writeVARaw heldState (ringWho 0 0) (ringVA heldState 0 0) (ringBytes (.slot 0 3) someHeld heldState.clk.dtime))
        (fun l _ => l.isEmpty) = true) ∧
    (tholdUnit heldState 0 0x00030000 = some (.slot 0 3) ∧ bitOf (0x00030000 : Word) 62 = false) ∧
    (tholdUnit heldState 0 0x4000000000030000 = some (.slot 0 3) ∧ bitOf (0x4000000000030000 : Word) 62 = true) := by
  and_intros <;> decide +kernel

/-- A core in system state whose g1 names entry 1 of a ring at VA 0x1_0000, g2 the data. -/
def fillCore : Core := { core [(1, 0x10040), (2, 0x10400)] with sys := true }

/-- The state with the ring, and what it has in use. -/
def fillState (used : List Nat) : State := withCtx (at0 fillCore) (fun x => { x with tring := 0x10000, ringUsed := used })

/-- RetryFills: an entry that is not in use, a write's and a read's. -/
theorem met_RetryFills :
    (∀ used, used ∈ [[], [2], [3]] → Runs (fillState used) 0 fillCore fir ∧ (getCtx (fillState used) fir.task.ctx).tring ≠ 0 ∧
      (fillCore.gpr 1 - (getCtx (fillState used) fir.task.ctx).tring).toNat < 65536) ∧
    (fillCore.sys = true ∧ fillCore.ready [1, 2, 3] = true ∧ (fillCore.gpr 1).toNat % 64 = 0) ∧
    ringBusy (getCtx (fillState []) 0) 1 = false ∧
    (ringBusy (getCtx (fillState [3]) 0) 1 = true ∧ (getCtx (fillState [3]) 0).ringUsed.contains (2 * 1 + 1) = true ∧
      fillCore.gpr 3 = 0) ∧
    (ringBusy (getCtx (fillState [2]) 0) 1 = true ∧ (getCtx (fillState [2]) 0).ringUsed.contains (2 * 1 + 1) = false ∧
      (fillCore.gpr 2).toNat % 64 = 0 ∧ formReads (fillState [2]) fillCore (coreWho 0 fir (syncKey 0)) 0x10400 64 = true ∧
      okWith (readVA (fillState [2]) (coreWho 0 fir (syncKey 0)) 0x10400 64) (fun _ _ => true) = true) := by
  and_intros <;> decide +kernel

end Sys2Proof.Tests
end

