-- ==== Sys2Proof/Tests/MetResidency.lean ====
section
/-! SUPPORT. Witnesses for the statement about lines, forwarded accesses, heat, moves and pod-shared pages. -/
namespace Sys2Proof.Tests
open Sys2Proof.Machine Sys2Proof.Claims
set_option Elab.async false

/-- The base state at page 1, at a cycle. -/
def pageState (cycle : Nat) : State := { base with ops := [1, 5], clk := { base.clk with cycle := cycle } }

/-- Its cached page. -/
def page1 : TEntry := base.xl.tcache.getD 1 ⟨0, 0, 0, 0, 0, 0, 0, 0, false, 0, false⟩

/-- A move of page 1 from its near frame to frame 3 of the far tier. -/
def someMove (copied : Nat) : Move := ⟨1, 3, 1, 1, 0, none, copied⟩

/-- The state with that move. -/
def moving (copied : Nat) : State := { pageState 0 with xl := { (pageState 0).xl with moves := [someMove copied] } }

/-- A directory entry of page 1, owned here. -/
def someDir : DirEntry := ⟨1, 0, false, false, 0, 0, 0, [], none, none⟩

/-- Requests of node 5 for page 1: a pull of its port, one of its MIGRATE, and an unsettling of its MIGRATE. -/
def portPull : PullReq := ⟨1, 5, false, true, none⟩
def cmdPull : PullReq := ⟨1, 5, false, true, some (5, 9)⟩
def cmdUns : PullReq := ⟨1, 5, true, false, some (5, 9)⟩

/-- The state with a directory entry, and with a request for the page besides. -/
def taken (d : DirEntry) : State := { pageState 0 with xl := { (pageState 0).xl with dirs := [(1, d)] } }
def dirState (d : DirEntry) (p : PullReq) : State := { taken d with xl := { (taken d).xl with pulls := [p] } }

/-- ResidencyEvents: a line entry, a forwarded read, a heat window that has ended and one that has not. -/
theorem met_ResidencyEvents_lines :
    (let s := { pageState 0 with st := { (pageState 0).st with lineQ := [(1, ⟨List.replicate 128 3, false, false, 0, 1, 0⟩)] } }
     s.st.lineQ.get? (s.op 0) = some ⟨List.replicate 128 3, false, false, 0, 1, 0⟩) ∧
    (∀ b, b ∈ [true, false] →
     let f : Forward := ⟨5, 1, 0x10000, 0, 0, b, 0, 0, 0, 8, [], []⟩
     let s := { pageState 0 with xl := { (pageState 0).xl with forwards := [f] } }
     s.xl.forwards = [f] ∧ found (lookupPage s f.ia f.cls) (fun e s1 => leafTier e.w0 != 2 &&
       okWith (iaPerform s1 ⟨0, 5, f.tile, agentKey 6 0, none, false, none, false, false, some f.node, none, f.starve⟩ f.ia f.cls f.mop) (fun _ _ => true)) = true) ∧
    (let s := { pageState 0x100000 with xl := { (pageState 0x100000).xl with heatcfg := heatcfgReset ||| 0x8000000000000000 } }
     s.op 0 < 64 ∧ s.xl.heatWin.getD (s.op 0) 0 < s.clk.cycle / 2 ^ 20 ∧ bitOf s.xl.heatcfg 63 = true ∧
     s.xl.tcache.any (fun e => e.1 % 64 == 1) = true) ∧
    (pageState 0).xl.heatWin.getD ((pageState 0).op 0) 0 = (pageState 0).clk.cycle / 2 ^ 20 := by
  and_intros <;> decide +kernel

/-- ResidencyEvents: a nomination with a frame, a move with lines to copy, a move that can commit. -/
theorem met_ResidencyEvents_moves :
    (let n : Nomination := ⟨1, 1, 12⟩
     let s := pageState 0x1100000
     let s := { s with xl := { s.xl with noms := [n], fpb := setNth s.xl.fpb 12 0x40000000004 } }
     moveOf s (s.op 0) = none ∧ s.xl.noms.find? (fun n => n.page == s.op 0) = some n ∧ n.tier < 2 ∧
     found (lookupPage s (n.page * 65536) 0) (fun e s1 => s1.eng.ckpt.isNone && (moveOf s1 n.page).isNone && leafTier e.w0 != n.tier && decide (leafTier e.w0 < 2) && !leafPin e.w0 &&
       e.level == 3 && stampsAllow s1 e.w1 && (takeFrame s1 (poolOrder n.tier n.pool n.page)).isSome) = true) ∧
    (let m := someMove 7
     let s := moving 7
     moveOf s (s.op 0) = some m ∧ m.copied < 512 ∧ m.oldTier < 2 ∧ m.toNode = none ∧
     (lineValue s (localKey m.oldTier (m.oldFrame * 65536 + m.copied * 128) / 128) (pageTag s m.page)).1.length = 128 ∧
     lineIsBad s (localKey m.oldTier (m.oldFrame * 65536 + m.copied * 128) / 128) = false ∧
     s.st.lineQ.get? (localKey m.newTier (m.newFrame * 65536 + m.copied * 128) / 128) = none) ∧
    (let m := someMove 512
     let s := moving 512
     moveOf s (s.op 0) = some m ∧ s.xl.tcache.get? (s.op 0) = some page1 ∧ page1.page = s.op 0 ∧ m.copied = 512 ∧ m.oldTier < 2 ∧
     m.toNode = none ∧ m.newTier < 4 ∧ m.newFrame < 2 ^ 24 ∧ s.st.lineQ.any (fun x => x.2.page == s.op 0) = false) := by
  and_intros <;> decide +kernel

/-- ResidencyEvents: a pull refused and one granted, a MIGRATE's unsettling, an ownership move that is done, a sharer, a sharer's
leaf. -/
theorem met_ResidencyEvents_pod :
    (∀ p, p ∈ [portPull, cmdPull, cmdUns] → ∀ d, d ∈ [someDir, { someDir with settled := true }] →
      (dirState d p).xl.pulls.find? (fun p => p.page == (dirState d p).op 0 && p.node == (dirState d p).op 1) = some p ∧
      (dirState d p).eng.ckpt = none ∧
      { dirState d p with xl := { (dirState d p).xl with pulls := (dirState d p).xl.pulls.erase p } } = taken d ∧
      Sys2Proof.Machine.dirOf (taken d) p.page = some d ∧ pullGranted (taken d) d p.node = !d.settled) ∧
    (portPull.uns = false ∧ portPull.pull = true ∧ portPull.asker = none ∧ cmdPull.uns = false ∧ cmdPull.pull = true ∧
      cmdUns.uns = true ∧ cmdUns.pull = false ∧ cmdUns.asker = some (5, 9)) ∧
    (let d := { someDir with owner := 7, moving := true, pulling := some 5 }
     (taken d).xl.dirs.get? ((taken d).op 0) = some d ∧ d.page = (taken d).op 0 ∧ d.pulling = some 5 ∧ d.moving = true ∧
     moveOf (taken d) ((taken d).op 0) = none ∧ d.sharers = [] ∧ d.asker = none ∧
     gaveUp { taken d with ops := [1, 0] } d 5 = true ∧ ({ taken d with ops := [1, 0] } : State).op 1 = 0 ∧ (taken d).op 1 ≠ 0) ∧
    (let d := { someDir with owner := 7, moving := true, pulling := some 5, asker := some (5, 9) }
     (taken d).xl.dirs.get? ((taken d).op 0) = some d ∧ d.pulling = some 5 ∧ d.moving = true ∧ d.asker = some (5, 9) ∧
     moveOf (taken d) ((taken d).op 0) = none ∧ (taken d).op 1 ≠ 0) ∧
    (∀ l, l ∈ [[], (List.range 64).map (· + 100)] → let d := { someDir with sharers := l }
      Sys2Proof.Machine.dirOf (taken d) ((taken d).op 0) = some d ∧ d.sharers.contains ((taken d).op 1) = false ∧
      (d.sharers.length < 64 ↔ l = [])) ∧
    (let s := { pageState 0 with xl := { (pageState 0).xl with tcache := [(1, { page1 with w0 := page1.w0 ||| 8 })] } }
     found (lookupPage s (s.op 0 * 65536) 0) (fun e _ => leafTier e.w0 == 2) = true) := by
  and_intros <;> decide +kernel

end Sys2Proof.Tests
end

