-- ==== Sys2Proof/Tests/Slice0.lean ====
section
/-! SUPPORT. The checks of WellFormed refuse an ill-formed term each, and words written out from the encodings of R225 to
R238 decode to the instructions they stand for. -/
namespace Sys2Proof.Tests
set_option Elab.async false

/-- R229, R232, R234, R237: a term that breaks a field limit is not well-formed, one for each check. -/
theorem test_ill_formed_atomic :
    [Instr.atomAdd 1 2 3 .w16, .atomAnd 1 2 3 .w16, .atomOr 1 2 3 .w16, .atomXor 1 2 3 .w16, .atomMin 1 2 3 .w16,
      .atomMax 1 2 3 .w16, .atomMinu 1 2 3 .w16, .atomMaxu 1 2 3 .w16, .atomSwap 1 2 3 .w16, .atomCas 1 2 3 .w16].all
      (fun i => !i.wf) = true := by decide

theorem test_ill_formed_reduction :
    [Instr.redAdd 1 2 .w16, .redAnd 1 2 .w16, .redOr 1 2 .w16, .redXor 1 2 .w16, .redMin 1 2 .w16, .redMax 1 2 .w16,
      .redMinu 1 2 .w16, .redMaxu 1 2 .w16].all (fun i => !i.wf) = true := by decide

theorem test_ill_formed_fields :
    [Instr.sigeAddress 0, .park 1 2 0, .park 1 2 5, .prio 8, .strm 1 4, .sstop 1 4, .seal 1 4, .tapset 1 2 4,
      .publish .lane 3, .wpt 1 2 8, .iota (.f .f8) .none .none].all (fun i => !i.wf) = true := by decide

/-- The same limits at their last legal value. -/
theorem test_well_formed_bounds :
    [Instr.sigeAddress 1, .park 1 2 1, .park 1 2 4, .prio 7, .strm 1 3, .sstop 1 3, .seal 1 3, .tapset 1 2 3,
      .publish .core 3, .wpt 1 2 7, .iota (.f .bf16) .none .none, .atomCas 1 2 3 .w64, .redAdd 1 2 .w32].all
      (fun i => i.wf) = true := by decide

/-- R227, R228, R232 to R234: unassigned majors and functions. -/
theorem test_reject_op_fn :
    decodeSeq 0x3C000000 = .error Cause.illop ∧ decodeSeq 0x64000000 = .error Cause.illop ∧
    decodeSeq 0xA4000000 = .error Cause.illop ∧ decodeSeq 0xD8000000 = .error Cause.illop ∧
    decodeSeq 0xE4000000 = .error Cause.illop ∧ decodeSeq 0x000007FF = .error Cause.illfn ∧
    decodeSeq 0x94006000 = .error Cause.illfn ∧ decodeSeq 0x98006000 = .error Cause.illfn ∧
    decodeSeq 0x9C000800 = .error Cause.illfn ∧ decodeSeq 0xA0000800 = .error Cause.illfn ∧
    decodeSeq 0xC0004800 = .error Cause.illfn ∧ decodeSeq 0xD4001800 = .error Cause.illfn ∧
    decodeSeq 0xE0004800 = .error Cause.illfn := by
  refine ⟨rfl, rfl, rfl, rfl, rfl, rfl, rfl, rfl, rfl, rfl, rfl, rfl, rfl⟩

/-- R226, R229, R231 to R235: nonzero unused fields, sizes and scopes, and the order of the checks. -/
theorem test_reject_fields :
    decodeSeq 0x00000815 = .error Cause.illfld ∧ decodeSeq 0x14220040 = .error Cause.illfld ∧
    decodeSeq 0x60010000 = .error Cause.illfld ∧ decodeSeq 0x94000001 = .error Cause.illfld ∧
    decodeSeq 0x98000040 = .error Cause.illfld ∧ decodeSeq 0x9C000008 = .error Cause.illfld ∧
    decodeSeq 0xA0000001 = .error Cause.illfld ∧ decodeSeq 0xC0001800 = .error Cause.illfld ∧
    decodeSeq 0xC0003008 = .error Cause.illfld ∧ decodeSeq 0xD4000043 = .error Cause.illfld ∧
    decodeSeq 0xE0004010 = .error Cause.illfld ∧ decodeSeq 0x84000000 = .ok (.st 0 0 .s8 0) ∧
    decodeSeq 0x8000E000 = .error Cause.illsize ∧ decodeSeq 0x94000020 = .error Cause.illsize ∧
    decodeSeq 0x94000030 = .error Cause.illsize ∧ decodeSeq 0x94005010 = .error Cause.illsize ∧
    decodeSeq 0x94005800 = .error Cause.illsize ∧ decodeSeq 0x9C000007 = .error Cause.scope ∧
    decodeSeq 0xD4000003 = .error Cause.scope ∧ decodeSeq 0xD4000603 = .error Cause.scope ∧
    decodeSeq 0x9400003F = .error Cause.illfld := by
  refine ⟨rfl, rfl, rfl, rfl, rfl, rfl, rfl, rfl, rfl, rfl, rfl, rfl, rfl, rfl, rfl, rfl, rfl, rfl, rfl, rfl, rfl⟩

/-- R236 to R238: what CFGE refuses in a word by itself. -/
theorem test_reject_elem :
    decodeElem 0x00100000 = .error Cause.elemop ∧ decodeElem 0x48000000 = .error Cause.elemop ∧
    decodeElem 0x01600000 = .error Cause.elemmod ∧ decodeElem 0x20400000 = .error Cause.elemmod ∧
    decodeElem 0x30700000 = .error Cause.rmode ∧ decodeElem 0x33100000 = .error Cause.elemmod ∧
    decodeElem 0x40600000 = .error Cause.elemmod ∧ decodeElem 0x40C00000 = .error Cause.elemmod ∧
    decodeElem 0x54B00000 = .error Cause.elemmod ∧ decodeElem 0x61200000 = .error Cause.elemmod ∧
    decodeElem 0x60100000 = .error Cause.elemmod ∧ decodeElem 0x75100000 = .error Cause.elemmod ∧
    decodeElem 0x01000001 = .error Cause.target ∧ decodeElem 0x01000008 = .error Cause.target ∧
    decodeElem 0x01000280 = .error Cause.target ∧ decodeElem 0x01000201 = .error Cause.target := by
  refine ⟨rfl, rfl, rfl, rfl, rfl, rfl, rfl, rfl, rfl, rfl, rfl, rfl, rfl, rfl, rfl, rfl⟩

/-- R225 to R234: sequencer words, each written out from its format, function and fields. -/
theorem test_words_seq_1 :
    decodeSeq 0x006B8800 = .ok (.add 3 11 17) ∧
    decodeSeq 0x0150A001 = .ok (.sub 10 16 20) ∧
    decodeSeq 0x0235B802 = .ok (.and 17 21 23) ∧
    decodeSeq 0x031AD003 = .ok (.or 24 26 26) ∧
    decodeSeq 0x03FFE804 = .ok (.xor 31 31 29) ∧
    decodeSeq 0x00C40005 = .ok (.andn 6 4 0) ∧
    decodeSeq 0x01A91806 = .ok (.shl 13 9 3) ∧
    decodeSeq 0x028E3007 = .ok (.shr 20 14 6) ∧
    decodeSeq 0x03734808 = .ok (.sar 27 19 9) ∧
    decodeSeq 0x00586009 = .ok (.rot 2 24 12) ∧
    decodeSeq 0x013D780A = .ok (.mul 9 29 15) := by
  refine ⟨rfl, rfl, rfl, rfl, rfl, rfl, rfl, rfl, rfl, rfl, rfl⟩

/-- R225 to R234: sequencer words, each written out from its format, function and fields. -/
theorem test_words_seq_2 :
    decodeSeq 0x0202900B = .ok (.mulh 16 2 18) ∧
    decodeSeq 0x02E7A80C = .ok (.mulhu 23 7 21) ∧
    decodeSeq 0x03CCC00D = .ok (.div 30 12 24) ∧
    decodeSeq 0x00B1D80E = .ok (.divu 5 17 27) ∧
    decodeSeq 0x0196F00F = .ok (.rem 12 22 30) ∧
    decodeSeq 0x027B0810 = .ok (.remu 19 27 1) ∧
    decodeSeq 0x03402011 = .ok (.min 26 0 4) ∧
    decodeSeq 0x00253812 = .ok (.max 1 5 7) ∧
    decodeSeq 0x010A5013 = .ok (.minu 8 10 10) ∧
    decodeSeq 0x01EF6814 = .ok (.maxu 15 15 13) ∧
    decodeSeq 0x02D40015 = .ok (.clz 22 20) := by
  refine ⟨rfl, rfl, rfl, rfl, rfl, rfl, rfl, rfl, rfl, rfl, rfl⟩

/-- R225 to R234: sequencer words, each written out from its format, function and fields. -/
theorem test_words_seq_3 :
    decodeSeq 0x03B90016 = .ok (.ctz 29 25) ∧
    decodeSeq 0x009E0017 = .ok (.cnt 4 30) ∧
    decodeSeq 0x0163C818 = .ok (.sext 11 3 25) ∧
    decodeSeq 0x0248E019 = .ok (.zext 18 8 28) ∧
    decodeSeq 0x032DF81A = .ok (.seq 25 13 31) ∧
    decodeSeq 0x0012101B = .ok (.slt 0 18 2) ∧
    decodeSeq 0x00F7281C = .ok (.sltu 7 23 5) ∧
    decodeSeq 0x01DC401D = .ok (.sel 14 28 8) ∧
    decodeSeq 0x02A1581E = .ok (.cmov 21 1 11) ∧
    decodeSeq 0x056B8112 = .ok (.addi 11 11 0x8112) ∧
    decodeSeq 0x0A918223 = .ok (.andi 20 17 0x8223) := by
  refine ⟨rfl, rfl, rfl, rfl, rfl, rfl, rfl, rfl, rfl, rfl, rfl⟩

/-- R225 to R234: sequencer words, each written out from its format, function and fields. -/
theorem test_words_seq_4 :
    decodeSeq 0x0FB78334 = .ok (.ori 29 23 0x8334) ∧
    decodeSeq 0x10DD8445 = .ok (.xori 6 29 0x8445) ∧
    decodeSeq 0x15E30037 = .ok (.shli 15 3 55) ∧
    decodeSeq 0x1B090036 = .ok (.shri 24 9 54) ∧
    decodeSeq 0x1C2F0035 = .ok (.sari 1 15 53) ∧
    decodeSeq 0x21408889 = .ok (.ldi 10 0x8889) ∧
    decodeSeq 0x267B899A = .ok (.ldsh 19 27 0x899A) ∧
    decodeSeq 0x2B818AAB = .ok (.slti 28 1 0x8AAB) ∧
    decodeSeq 0x2CA78BBC = .ok (.sltui 5 7 0x8BBC) ∧
    decodeSeq 0x31CD8CCD = .ok (.muli 14 13 0x8CCD) ∧
    decodeSeq 0x42320000 = .ok (.beq 17 18 0x0) := by
  refine ⟨rfl, rfl, rfl, rfl, rfl, rfl, rfl, rfl, rfl, rfl, rfl⟩

/-- R225 to R234: sequencer words, each written out from its format, function and fields. -/
theorem test_words_seq_5 :
    decodeSeq 0x46970001 = .ok (.bne 20 23 0x1) ∧
    decodeSeq 0x4AFC0002 = .ok (.blt 23 28 0x2) ∧
    decodeSeq 0x4F410003 = .ok (.bge 26 1 0x3) ∧
    decodeSeq 0x53A60004 = .ok (.bltu 29 6 0x4) ∧
    decodeSeq 0x540B0005 = .ok (.bgeu 0 11 0x5) ∧
    decodeSeq 0x5AABCDEF = .ok (.jmp 0x2ABCDEF) ∧
    decodeSeq 0x5D234567 = .ok (.jal 0x1234567) ∧
    decodeSeq 0x63A08004 = .ok (.jr 29 0x8004) ∧
    decodeSeq 0x80001801 = .ok (.ld 0 0 .s8 0x1801) ∧
    decodeSeq 0x80213802 = .ok (.ld 1 1 .z8 0x1802) ∧
    decodeSeq 0x80425803 = .ok (.ld 2 2 .s16 0x1803) := by
  refine ⟨rfl, rfl, rfl, rfl, rfl, rfl, rfl, rfl, rfl, rfl, rfl⟩

/-- R225 to R234: sequencer words, each written out from its format, function and fields. -/
theorem test_words_seq_6 :
    decodeSeq 0x80637804 = .ok (.ld 3 3 .z16 0x1804) ∧
    decodeSeq 0x80849805 = .ok (.ld 4 4 .s32 0x1805) ∧
    decodeSeq 0x80A5B806 = .ok (.ld 5 5 .z32 0x1806) ∧
    decodeSeq 0x80C6D807 = .ok (.ld 6 6 .d64 0x1807) ∧
    decodeSeq 0x84231801 = .ok (.st 1 3 .s8 0x1801) ∧
    decodeSeq 0x84E9D807 = .ok (.st 7 9 .d64 0x1807) ∧
    decodeSeq 0x88461801 = .ok (.ldAcq 2 6 .s8 0x1801) ∧
    decodeSeq 0x890CD807 = .ok (.ldAcq 8 12 .d64 0x1807) ∧
    decodeSeq 0x8C691801 = .ok (.stRel 3 9 .s8 0x1801) ∧
    decodeSeq 0x8D2FD807 = .ok (.stRel 9 15 .d64 0x1807) ∧
    decodeSeq 0x908C1801 = .ok (.ldInv 4 12 .s8 0x1801) := by
  refine ⟨rfl, rfl, rfl, rfl, rfl, rfl, rfl, rfl, rfl, rfl, rfl⟩

/-- R225 to R234: sequencer words, each written out from its format, function and fields. -/
theorem test_words_seq_7 :
    decodeSeq 0x9152D807 = .ok (.ldInv 10 18 .d64 0x1807) ∧
    decodeSeq 0x94930240 = .ok (.atomAdd 4 19 9 .w32) ∧
    decodeSeq 0x94B50B10 = .ok (.atomAnd 5 21 12 .w64) ∧
    decodeSeq 0x94D713C0 = .ok (.atomOr 6 23 15 .w32) ∧
    decodeSeq 0x94F91C90 = .ok (.atomXor 7 25 18 .w64) ∧
    decodeSeq 0x951B2540 = .ok (.atomMin 8 27 21 .w32) ∧
    decodeSeq 0x953D2E10 = .ok (.atomMax 9 29 24 .w64) ∧
    decodeSeq 0x955F36C0 = .ok (.atomMinu 10 31 27 .w32) ∧
    decodeSeq 0x95613F90 = .ok (.atomMaxu 11 1 30 .w64) ∧
    decodeSeq 0x95834040 = .ok (.atomSwap 12 3 1 .w32) ∧
    decodeSeq 0x95A54910 = .ok (.atomCas 13 5 4 .w64) := by
  refine ⟨rfl, rfl, rfl, rfl, rfl, rfl, rfl, rfl, rfl, rfl, rfl⟩

/-- R225 to R234: sequencer words, each written out from its format, function and fields. -/
theorem test_words_seq_8 :
    decodeSeq 0x95C751C0 = .ok (.atomFadd32 14 7 7) ∧
    decodeSeq 0x95E95AA0 = .ok (.atomFadd16 15 9 10) ∧
    decodeSeq 0x98D50010 = .ok (.redAdd 6 21 .w64) ∧
    decodeSeq 0x98F70800 = .ok (.redAnd 7 23 .w32) ∧
    decodeSeq 0x99191010 = .ok (.redOr 8 25 .w64) ∧
    decodeSeq 0x993B1800 = .ok (.redXor 9 27 .w32) ∧
    decodeSeq 0x995D2010 = .ok (.redMin 10 29 .w64) ∧
    decodeSeq 0x997F2800 = .ok (.redMax 11 31 .w32) ∧
    decodeSeq 0x99813010 = .ok (.redMinu 12 1 .w64) ∧
    decodeSeq 0x99A33800 = .ok (.redMaxu 13 3 .w32) ∧
    decodeSeq 0x99C54000 = .ok (.redFadd32 14 5) := by
  refine ⟨rfl, rfl, rfl, rfl, rfl, rfl, rfl, rfl, rfl, rfl, rfl⟩

/-- R225 to R234: sequencer words, each written out from its format, function and fields. -/
theorem test_words_seq_9 :
    decodeSeq 0x99E74820 = .ok (.redFadd16 15 7) ∧
    decodeSeq 0x9A095000 = .ok (.redFmax32 16 9) ∧
    decodeSeq 0x9A2B5800 = .ok (.redFmin32 17 11) ∧
    decodeSeq 0x9C000000 = .ok (.fence .lane) ∧
    decodeSeq 0x9C000001 = .ok (.fence .core) ∧
    decodeSeq 0x9C000002 = .ok (.fence .quad) ∧
    decodeSeq 0x9C000003 = .ok (.fence .die) ∧
    decodeSeq 0x9C000004 = .ok (.fence .pkg) ∧
    decodeSeq 0x9C000005 = .ok (.fence .pod) ∧
    decodeSeq 0xA2E00000 = .ok (.sbar 23) ∧
    decodeSeq 0xC0E00000 = .ok (.spawn 7) := by
  refine ⟨rfl, rfl, rfl, rfl, rfl, rfl, rfl, rfl, rfl, rfl, rfl⟩

/-- R225 to R234: sequencer words, each written out from its format, function and fields. -/
theorem test_words_seq_10 :
    decodeSeq 0xC1000800 = .ok (.sig 8) ∧
    decodeSeq 0xC1201000 = .ok (.sigeAddress 9) ∧
    decodeSeq 0xC0001029 = .ok (.sigeEntry 41) ∧
    decodeSeq 0xC0001000 = .ok (.sigeEntry 0) ∧
    decodeSeq 0xC14B1804 = .ok (.park 10 11 4) ∧
    decodeSeq 0xC0002000 = .ok (.exit) ∧
    decodeSeq 0xC1802800 = .ok (.yield 12) ∧
    decodeSeq 0xC0003007 = .ok (.prio 7) ∧
    decodeSeq 0xC1A03800 = .ok (.tdecl 13) ∧
    decodeSeq 0xC1CF4400 = .ok (.jcnt 14 15 16) ∧
    decodeSeq 0xC6230000 = .ok (.cfge 17 3) := by
  refine ⟨rfl, rfl, rfl, rfl, rfl, rfl, rfl, rfl, rfl, rfl, rfl⟩

/-- R225 to R234: sequencer words, each written out from its format, function and fields. -/
theorem test_words_seq_11 :
    decodeSeq 0xC6440800 = .ok (.cfgs 18 4) ∧
    decodeSeq 0xC6651000 = .ok (.cfgo 19 5) ∧
    decodeSeq 0xC6861800 = .ok (.cfgk 20 6) ∧
    decodeSeq 0xC653203F = .ok (.arm 18 19 63) ∧
    decodeSeq 0xC4002821 = .ok (.disarm 33) ∧
    decodeSeq 0xC4003522 = .ok (.secwait 20 34) ∧
    decodeSeq 0xCAA00003 = .ok (.strm 21 3) ∧
    decodeSeq 0xCAC00802 = .ok (.sstop 22 2) ∧
    decodeSeq 0xC8001023 = .ok (.smark 35) ∧
    decodeSeq 0xCAE01801 = .ok (.seal 23 1) ∧
    decodeSeq 0xCB192003 = .ok (.tapset 24 25 3) := by
  refine ⟨rfl, rfl, rfl, rfl, rfl, rfl, rfl, rfl, rfl, rfl, rfl⟩

/-- R225 to R234: sequencer words, each written out from its format, function and fields. -/
theorem test_words_seq_12 :
    decodeSeq 0xCF5B0000 = .ok (.binit 26 27) ∧
    decodeSeq 0xCF9D0800 = .ok (.barr 28 29) ∧
    decodeSeq 0xCFDF1040 = .ok (.bwait 30 31 1) ∧
    decodeSeq 0xCC432100 = .ok (.btest 2 3 4) ∧
    decodeSeq 0xD0A00180 = .ok (.amsg 5 6) ∧
    decodeSeq 0xD0E00800 = .ok (.amsgw 7) ∧
    decodeSeq 0xD1091000 = .ok (.rfill 8 9) ∧
    decodeSeq 0xD400013C = .ok (.publish .core 60) ∧
    decodeSeq 0xD400023D = .ok (.publish .quad 61) ∧
    decodeSeq 0xD400033E = .ok (.publish .die 62) ∧
    decodeSeq 0xD400043F = .ok (.publish .pkg 63) := by
  refine ⟨rfl, rfl, rfl, rfl, rfl, rfl, rfl, rfl, rfl, rfl, rfl⟩

/-- R225 to R234: sequencer words, each written out from its format, function and fields. -/
theorem test_words_seq_13 :
    decodeSeq 0xD400053F = .ok (.publish .pod 63) ∧
    decodeSeq 0xD54B0800 = .ok (.ginv 10 11) ∧
    decodeSeq 0xD5801340 = .ok (.gprobe 12 13) ∧
    decodeSeq 0xE000003E = .ok (.trap 62) ∧
    decodeSeq 0xE0000800 = .ok (.rett) ∧
    decodeSeq 0xE1C013FD = .ok (.crd 14 15 61) ∧
    decodeSeq 0xE211183C = .ok (.cwr 16 17 60) ∧
    decodeSeq 0xE2532007 = .ok (.wpt 18 19 7) ∧
    decodeSeq 0xE0002800 = .ok (.halt) ∧
    decodeSeq 0xE0003000 = .ok (.nop) ∧
    decodeSeq 0xE0003D00 = .ok (.time 20) := by
  refine ⟨rfl, rfl, rfl, rfl, rfl, rfl, rfl, rfl, rfl, rfl, rfl⟩

/-- R225 to R234: sequencer words, each written out from its format, function and fields. -/
theorem test_words_seq_14 :
    decodeSeq 0xE000454E = .ok (.evrd 21 true 6) ∧
    decodeSeq 0xE0004585 = .ok (.evrd 22 false 5) := by
  refine ⟨rfl, rfl⟩

/-- R236 to R238: element words, each written out from its opcode, modifier and targets. -/
theorem test_words_elem_1 :
    decodeElem 0x0100A836 = .ok (.iadd .s32 (.loc 5 .l) (.loc 6 .p)) ∧
    decodeElem 0x02125000 = .ok (.isub .z32 (.loc 18 .r) .none) ∧
    decodeElem 0x0323FA60 = .ok (.iadds .s16 (.loc 31 .p) (.eg 6)) ∧
    decodeElem 0x0438816E = .ok (.isubs .z16 (.eg 2) (.loc 45 .p)) ∧
    decodeElem 0x054731D2 = .ok (.imul .s8 (.loc 57 .r) (.loc 58 .l)) ∧
    decodeElem 0x0650D83C = .ok (.imulh .z8 (.loc 6 .p) (.loc 7 .r)) ∧
    decodeElem 0x07000220 = .ok (.imin .s32 .none (.eg 2)) ∧
    decodeElem 0x0819810A = .ok (.imax .z32 (.eg 6) (.loc 33 .l)) ∧
    decodeElem 0x0925B800 = .ok (.iand .s16 (.loc 45 .p) .none) ∧
    decodeElem 0x0A3749DE = .ok (.ior .z16 (.loc 58 .l) (.loc 59 .p)) ∧
    decodeElem 0x0B40F260 = .ok (.ixor .s8 (.loc 7 .r) (.eg 6)) := by
  refine ⟨rfl, rfl, rfl, rfl, rfl, rfl, rfl, rfl, rfl, rfl, rfl⟩

/-- R236 to R238: element words, each written out from its opcode, modifier and targets. -/
theorem test_words_elem_2 :
    decodeElem 0x0C5880AC = .ok (.iandn .z8 (.eg 2) (.loc 21 .r)) ∧
    decodeElem 0x0D042916 = .ok (.ishl .s32 (.loc 33 .l) (.loc 34 .p)) ∧
    decodeElem 0x0E10017A = .ok (.ishr .z32 .none (.loc 47 .l)) ∧
    decodeElem 0x0F277A20 = .ok (.isar .s16 (.loc 59 .p) (.eg 2)) ∧
    decodeElem 0x10398000 = .ok (.iabs .z16 (.eg 6) .none) ∧
    decodeElem 0x1142B0B2 = .ok (.ineg .s8 (.loc 21 .r) (.loc 22 .l)) ∧
    decodeElem 0x1254591C = .ok (.icmp .z8 (.loc 34 .p) (.loc 35 .r)) ∧
    decodeElem 0x1305EA60 = .ok (.isel .s32 (.loc 47 .l) (.eg 6)) ∧
    decodeElem 0x200881EA = .ok (.fadd .f32 (.eg 2) (.loc 61 .l)) ∧
    decodeElem 0x21100054 = .ok (.fsub .f16 .none (.loc 10 .r)) ∧
    decodeElem 0x2222C8BE = .ok (.fmul .bf16 (.loc 22 .l) (.loc 23 .p)) := by
  refine ⟨rfl, rfl, rfl, rfl, rfl, rfl, rfl, rfl, rfl, rfl, rfl⟩

/-- R236 to R238: element words, each written out from its opcode, modifier and targets. -/
theorem test_words_elem_3 :
    decodeElem 0x23347220 = .ok (.fmac .f8 (.loc 35 .r) (.eg 2)) ∧
    decodeElem 0x2409818C = .ok (.fmin .f32 (.eg 6) (.loc 49 .r)) ∧
    decodeElem 0x2517A9F6 = .ok (.fmax .f16 (.loc 61 .l) (.loc 62 .p)) ∧
    decodeElem 0x2621505A = .ok (.fcmp .bf16 (.loc 10 .r) (.loc 11 .l)) ∧
    decodeElem 0x2732FA60 = .ok (.fabs .f8 (.loc 23 .p) (.eg 6)) ∧
    decodeElem 0x2808812E = .ok (.fneg .f32 (.eg 2) (.loc 37 .p)) ∧
    decodeElem 0x29163192 = .ok (.frcp .f16 (.loc 49 .r) (.loc 50 .l)) ∧
    decodeElem 0x2A27D800 = .ok (.frsq .bf16 (.loc 62 .p) .none) ∧
    decodeElem 0x2B316A20 = .ok (.fsqrt .f8 (.loc 11 .l) (.eg 2)) ∧
    decodeElem 0x2C0980CA = .ok (.fexp2 .f32 (.eg 6) (.loc 25 .l)) ∧
    decodeElem 0x2D14B934 = .ok (.flog2 .f16 (.loc 37 .p) (.loc 38 .r)) := by
  refine ⟨rfl, rfl, rfl, rfl, rfl, rfl, rfl, rfl, rfl, rfl, rfl⟩

/-- R236 to R238: element words, each written out from its opcode, modifier and targets. -/
theorem test_words_elem_4 :
    decodeElem 0x2E26499E = .ok (.fresc .bf16 (.loc 50 .l) (.loc 51 .p)) ∧
    decodeElem 0x30000260 = .ok (.cvt false .rn .none (.eg 6)) ∧
    decodeElem 0x3098806C = .ok (.cvt true .rz (.eg 2) (.loc 13 .r)) ∧
    decodeElem 0x31232800 = .ok (.quant false .ru (.loc 25 .l) .none) ∧
    decodeElem 0x31B4D13A = .ok (.quant true .rd (.loc 38 .r) (.loc 39 .l)) ∧
    decodeElem 0x32467A20 = .ok (.deq false .rs (.loc 51 .p) (.eg 2)) ∧
    decodeElem 0x3289800E = .ok (.deq true .rn (.eg 6) (.loc 1 .p)) ∧
    decodeElem 0x3301B072 = .ok (.pack (.loc 13 .r) (.loc 14 .l)) ∧
    decodeElem 0x340000DC = .ok (.unpack .none (.loc 27 .r)) ∧
    decodeElem 0x3504EA60 = .ok (.tunp (.loc 39 .l) (.eg 6)) ∧
    decodeElem 0x40288000 = .ok (.lsum (.i .s16) (.eg 2) .none) := by
  refine ⟨rfl, rfl, rfl, rfl, rfl, rfl, rfl, rfl, rfl, rfl, rfl⟩

/-- R236 to R238: element words, each written out from its opcode, modifier and targets. -/
theorem test_words_elem_5 :
    decodeElem 0x41503814 = .ok (.lmax (.i .z8) (.loc 1 .p) (.loc 2 .r)) ∧
    decodeElem 0x42A1C87E = .ok (.lmin (.f .bf16) (.loc 14 .l) (.loc 15 .p)) ∧
    decodeElem 0x43137220 = .ok (.lshuf (.i .z32) (.loc 27 .r) (.eg 2)) ∧
    decodeElem 0x4449814C = .ok (.lbcast (.i .s8) (.eg 6) (.loc 41 .r)) ∧
    decodeElem 0x459001B6 = .ok (.lscan (.f .f16) .none (.loc 54 .p)) ∧
    decodeElem 0x4600501A = .ok (.lcmpr (.i .s32) (.loc 2 .r) (.loc 3 .l)) ∧
    decodeElem 0x4731FA60 = .ok (.winnow (.i .z16) (.loc 15 .p) (.eg 6)) ∧
    decodeElem 0x509880EE = .ok (.sjoin (.f .f16) (.eg 2) (.loc 29 .p)) ∧
    decodeElem 0x51B53152 = .ok (.acc (.f .f8) (.loc 41 .r) (.loc 42 .l)) ∧
    decodeElem 0x5206D9BC = .ok (.pass (.loc 54 .p) (.loc 55 .r)) ∧
    decodeElem 0x53006A20 = .ok (.const (.loc 3 .l) (.eg 2)) := by
  refine ⟨rfl, rfl, rfl, rfl, rfl, rfl, rfl, rfl, rfl, rfl, rfl⟩

/-- R236 to R238: element words, each written out from its opcode, modifier and targets. -/
theorem test_words_elem_6 :
    decodeElem 0x54A9808A = .ok (.iota (.f .bf16) (.eg 6) (.loc 17 .l)) ∧
    decodeElem 0x5453B8F4 = .ok (.iota (.i .z8) (.loc 29 .p) (.loc 30 .r)) ∧
    decodeElem 0x60654800 = .ok (.ldt .e true (.loc 42 .l) .none) ∧
    decodeElem 0x6006F260 = .ok (.ldt .n false (.loc 55 .r) (.eg 6)) ∧
    decodeElem 0x61C00000 = .ok (.stt .w) ∧
    decodeElem 0x62A8802C = .ok (.ldo .s true (.eg 2) (.loc 5 .r)) ∧
    decodeElem 0x63C22896 = .ok (.sto .w (.loc 17 .l) (.loc 18 .p)) ∧
    decodeElem 0x6443D0FA = .ok (.amo .e (.loc 30 .r) (.loc 31 .l)) ∧
    decodeElem 0x65800220 = .ok (.rdx .s .none (.eg 2)) ∧
    decodeElem 0x700981CE = .ok (.mwld (.eg 6) (.loc 57 .p)) ∧
    decodeElem 0x7100B000 = .ok (.mfeed (.loc 5 .r) .none) := by
  refine ⟨rfl, rfl, rfl, rfl, rfl, rfl, rfl, rfl, rfl, rfl, rfl⟩

/-- R236 to R238: element words, each written out from its opcode, modifier and targets. -/
theorem test_words_elem_7 :
    decodeElem 0x7202589C = .ok (.mdrain (.loc 18 .p) (.loc 19 .r)) ∧
    decodeElem 0x7303EA60 = .ok (.mzero (.loc 31 .l) (.eg 6)) ∧
    decodeElem 0x74000000 = .ok (.mwin) ∧
    decodeElem 0x75C8816A = .ok (.mharrow .w (.eg 2) (.loc 45 .l)) ∧
    decodeElem 0x760739D4 = .ok (.mtwid (.loc 57 .p) (.loc 58 .r)) := by
  refine ⟨rfl, rfl, rfl, rfl, rfl⟩

/-- R234, R297: the two forms of BCHG have one word. -/
theorem test_word_bchg :
    decodeSeq 0xCE531800 = .ok (.bchgSetExpect 18 19) ∧ encode (.bchgRelease 18 19) = 0xCE531800 := ⟨rfl, rfl⟩

end Sys2Proof.Tests
end

section
/-! PROOF. What one step does: the clock's arithmetic and an equation for each kind of turn (R2, R214, R235, R254, R255). -/
namespace Sys2Proof.Machine

/-! ### Time -/

/-- Without a beacon's correction to slew in, a cycle adds 5/12 ns: nothing is lost in the remainder (R2). -/
theorem tick_clk_of_slew_zero {s : State} (hc : s.clk.cycle < 2 ^ 64 - 1) (hd : s.clk.dtime < 2 ^ 64 - 1) (hs : s.clk.slew = 0)
    (hr : s.clk.rem < 12) :
    (tick s).clk.cycle = s.clk.cycle + 1 ∧ (tick s).clk.rem < 12 ∧
    12 * (tick s).clk.dtime + (tick s).clk.rem = 12 * s.clk.dtime + s.clk.rem + 5 := by
  simp only [tick, hs, Int.lt_irrefl, decide_false, Bool.and_false, Bool.false_and, Bool.false_eq_true, if_false]
  omega

/-- The scheduler's choices for a round take no time. -/
theorem roundTick_clk (s : State) : (roundTick s).clk = (tick s).clk := by
  unfold roundTick; split <;> rfl

/-! ### Turns -/

/-- A step takes the first of the turns due, and leaves the others on the agenda. -/
theorem step_of_turns {s : State} {x : Turn} {xs : List Turn} (h : turns (roundTick s) = x :: xs) :
    step s = runTurn { roundTick s with agenda := xs } x := by
  simp only [step, stepTurn, h]

/-- An access found faulty after issue is one of the unfinished. -/
theorem hasFaulted_of_mem {c : Core} {a : Access} {e : Cause} (ha : a ∈ c.unfin) (hp : a.phase = .faulted e) :
    hasFaulted c = true :=
  List.any_eq_true.2 ⟨a, ha, by simp only [hp]⟩

/-- The turn of a core that runs, is not halted and has a faulted access: the fault stops the firing, unless midway (R255). -/
theorem stepCore_faulted {s : State} {t : Tid} {f : Firing} (hr : (getCore s t).run = some f) (hh : (getCore s t).halted = false)
    (hf : hasFaulted (getCore s t) = true) (hm : midway (getCore s t) = false) :
    stepCore s t = exec .afterIssueFault { s with focus := (t, 0), ops := [t] } := by
  simp only [stepCore, hr, hh, hf, hm, Bool.false_eq_true, if_false, Bool.not_false, Bool.and_self, if_true]

/-- No fault found after issue stops the core now. -/
theorem faultStops_eq_false {c : Core} (h : hasFaulted c = false ∨ midway c = true) : (hasFaulted c && !midway c) = false := by
  rcases h with h | h <;> simp [h]

/-- The turn of a core with an access put back by a return: its word runs (R410). -/
theorem stepCore_replay {s : State} {t : Tid} {f : Firing} {a : Access} {l : List Access} {i : Instr}
    (hr : (getCore s t).run = some f) (hh : (getCore s t).halted = false)
    (hf : hasFaulted (getCore s t) = false ∨ midway (getCore s t) = true) (hl : (getCore s t).replay = a :: l)
    (hi : decodeSeq a.word = .ok i) : stepCore s t = exec i { s with focus := (t, 0) } := by
  simp only [stepCore, hr, hh, faultStops_eq_false hf, hl, hi, Bool.false_eq_true, if_false]

/-- What a core's turn makes of the fetch at its pc. -/
def fetchTurn (x : Option (Except Cause (BitVec 32)) × State) : Out :=
  match x with
  | (none, s) => .next s
  | (some (.error e), s) => exec (.fetchFault e) s
  | (some (.ok w), s) =>
    match decodeSeq w with
    | .error _ => exec (.decodeFault w) s
    | .ok i => exec i s

/-- The turn of a core with nothing put back: the word at its pc is fetched, and runs or faults (R235, R254). -/
theorem stepCore_fetch {s : State} {t : Tid} {f : Firing} (hr : (getCore s t).run = some f) (hh : (getCore s t).halted = false)
    (hf : hasFaulted (getCore s t) = false ∨ midway (getCore s t) = true) (hl : (getCore s t).replay = []) :
    stepCore s t = fetchTurn (fetchWord { s with focus := (t, 0) } t f (getCore s t).pc) := by
  simp only [stepCore, hr, hh, faultStops_eq_false hf, hl, Bool.false_eq_true, if_false]
  rfl

/-- Noting the slot that fired last leaves every slot's word alone. -/
theorem slotWord_noteFired (s : State) (t : Tid) (n : Nat) : slotWord (noteFired s t n) = slotWord s := by
  unfold noteFired; split <;> rfl

/-- The turn of a slot whose word decodes: its operation runs, after the slot is noted (R214). -/
theorem stepSlot_of_decode {s : State} {t : Tid} {n : Nat} {i : Instr} (h : decodeElem (slotWord s t n) = .ok i) :
    stepSlot s t n = exec i { noteFired s t n with focus := (t, n) } := by
  have hw : slotWord { noteFired s t n with focus := (t, n) } t n = slotWord s t n :=
    congrFun (congrFun (slotWord_noteFired s t n) t) n
  simp only [stepSlot, hw, h]

/-! ### O58 -/

/-- Settles O58: the clock's arithmetic, then each kind of turn by the equation of what it does. -/
theorem stepRunsDecodedWord : Obligations.StepRunsDecodedWord := by
  unfold Obligations.StepRunsDecodedWord
  refine ⟨fun _ hc hd hs hr => tick_clk_of_slew_zero hc hd hs hr, roundTick_clk, ?_⟩
  rintro s s0 x xs hx rfl
  rw [step_of_turns hx]
  refine ⟨?core, ?forfin, ?slot, ?event⟩
  case core =>
    rintro t c f rfl rfl hr hh
    refine ⟨fun a e ha hp hm => stepCore_faulted hr hh (hasFaulted_of_mem ha hp) hm,
      fun a l i hf hl hi => stepCore_replay hr hh hf hl hi, fun hf hl => ?_⟩
    have hturn := stepCore_fetch hr hh hf hl
    refine ⟨?_, ?_, ?_, ?_⟩
    · intro w i s1 hw hi
      rw [runTurn, hturn, hw]; simp only [fetchTurn, hi]
    · intro w e s1 hw hi
      rw [runTurn, hturn, hw]; simp only [fetchTurn, hi]
    · intro e s1 hw
      rw [runTurn, hturn, hw]; simp only [fetchTurn]
    · intro s1 hw
      rw [runTurn, hturn, hw]; simp only [fetchTurn]
  case forfin => rintro rfl; rfl
  case slot => rintro t n i rfl hi; exact stepSlot_of_decode hi
  case event => rintro i ops rfl; rfl

end Sys2Proof.Machine
end

section
/-! PROOF. Every step keeps the canonical form of the storage (R3, R464; log 5). The form is a property of `st` alone, so each
function of the model has one lemma here, in the order of the model's files: `f_st` where f leaves the storage as it is, and else
`f_canonical`, that f answers a state in canonical form when it is given one. What writes bytes does so by `cellSet`, `cellsSet`,
`tileWriteBytes` or a filter of the cells, which Laws/Memory.lean has keep the form; every other function only passes states on, so
its lemma follows, branch by branch, from those of the functions that it calls, which its proof names. No branch turns on
arithmetic: grind's arithmetic solvers are off. -/
namespace Sys2Proof.Machine
section
variable {s : State}

/-! ### The form -/

/-- The module's memory and the host's are in canonical form. -/
def Storage.Canonical (x : Storage) : Prop := Memory.wf x.mem = true ∧ Memory.wf x.host = true

/-- The state that a meaning answers, if it answers one, has its storage in canonical form. -/
def Out.Canonical : Out → Prop
  | .next s => s.st.Canonical
  | .fault _ => True
  | .refused _ => True

theorem stored_iff_canonical : s.stored = true ↔ s.st.Canonical := stored_iff s

/-- Bytes written from an address up, whatever becomes of the lines' records. -/
theorem cellsSet_canonical {x : Storage} {a bs bad key q past} (h : x.Canonical) :
    (Storage.mk (cellsSet x.mem a bs) x.host bad key q past).Canonical := ⟨cellsSet_wf _ _ _ h.1, h.2⟩

theorem AccFrame.canonical {d : Option Tid} {s' : State} (f : AccFrame d s s') (h : s.st.Canonical) : s'.st.Canonical :=
  stored_iff_canonical.1 (f.stored (stored_iff_canonical.2 h))

theorem EvFrame.canonical {d : Option Tid} {s' : State} (f : EvFrame d s s') (h : s.st.Canonical) : s'.st.Canonical :=
  stored_iff_canonical.1 (f.stored (stored_iff_canonical.2 h))

/-! ### Shapes of the model's functions -/

/-- The state that comes with an answer. -/
theorem canonical_of_eq {α : Type} {p : α × State} {x : α} {s' : State} (e : p = (x, s')) (h : p.2.st.Canonical) :
    s'.st.Canonical := by
  subst e; exact h

theorem ite_canonical {p : Prop} [Decidable p] {a b : State} (ha : a.st.Canonical) (hb : b.st.Canonical) :
    (if p then a else b).st.Canonical := by
  split <;> assumption

/-- `ite_canonical` for the form as a property of the state, which keeps the kernel from evaluating what decides the branches
below. -/
theorem ite_stored {p : Prop} [Decidable p] {a b : State} (ha : a.st.Canonical) (hb : b.stored = true) :
    (if p then a else b).stored = true := by
  split
  · exact stored_iff_canonical.2 ha
  · exact hb

theorem ite_snd_canonical {α : Type} {p : Prop} [Decidable p] {a b : α × State} (ha : a.2.st.Canonical) (hb : b.2.st.Canonical) :
    (if p then a else b).2.st.Canonical := by
  split <;> assumption

theorem Out.ite_canonical {p : Prop} [Decidable p] {a b : Out} (ha : a.Canonical) (hb : b.Canonical) :
    Out.Canonical (if p then a else b) := by
  split <;> assumption

theorem foldl_canonical {α : Type} {f : State → α → State} {l : List α}
    (hf : ∀ {s a}, s.st.Canonical → (f s a).st.Canonical) (h : s.st.Canonical) : (l.foldl f s).st.Canonical := by
  induction l generalizing s with
  | nil => exact h
  | cons a l ih => exact ih (hf h)

theorem foldl_st {α : Type} {f : State → α → State} {l : List α} (hf : ∀ s a, (f s a).st = s.st) :
    (l.foldl f s).st = s.st := by
  induction l generalizing s with
  | nil => rfl
  | cons a l ih => exact ih.trans (hf s a)

/-- What an operation of a slot does for each kind of token keeps the form. -/
structure SlotOp.Canonical (op : SlotOp) : Prop where
  fire : ∀ {e s x}, s.st.Canonical → (op.fire e s x).st.Canonical
  off : ∀ {e s x}, s.st.Canonical → (op.off e s x).st.Canonical
  poison : ∀ {e s x}, s.st.Canonical → (op.poison e s x).st.Canonical
  mark : ∀ {e s x a}, s.st.Canonical → (op.mark e s x a).st.Canonical
  mixed : ∀ {e s x a b}, s.st.Canonical → (op.mixed e s x a b).st.Canonical

/-! ### Accesses to memory -/

theorem hostEvent_canonical {cause ctx launch tsel operand} (h : s.st.Canonical) :
    (hostEvent s cause ctx launch tsel operand).st.Canonical :=
  (hostEvent_frame (d := none) ..).canonical h

@[simp] theorem bindRead_st {who va} : (bindRead s who va).st = s.st := by
  unfold bindRead
  grind -ring -linarith -order [= setCtx_st]

@[simp] theorem unbind_st {ctx b} : (unbind s ctx b).st = s.st := rfl

@[simp] theorem invBytes_st {n ia l} : (invBytes s n ia l).2.st = s.st := by
  induction l generalizing s ia with
  | nil => rfl
  | cons b bs ih =>
    unfold invBytes
    split
    · exact ih
    · exact ih

@[simp] theorem invWord_st {n ia bs} : (invWord s n ia bs).2.st = s.st := by
  unfold invWord
  split <;> simp

theorem declareFailed_canonical {t b} (h : s.st.Canonical) : (declareFailed s t b).st.Canonical :=
  (declareFailed_frame (d := none) ..).canonical h

theorem decodeRow_canonical {t row} (h : s.st.Canonical) : (decodeRow s t row).2.st.Canonical :=
  (decodeRow_frame (d := none) ..).canonical h

theorem tileRead_canonical {t off n} (h : s.st.Canonical) : (tileRead s t off n).2.st.Canonical :=
  (tileRead_frame (d := none) ..).canonical h

@[simp] theorem windowAdvance_st {t off} : (windowAdvance s t off).st = s.st := rfl

@[simp] theorem drawOne_st {drawer t r push} : (drawOne s drawer t r push).st = s.st := by
  unfold drawOne
  grind -ring -linarith -order [= setCore_st, = setRegion_st]

theorem fifoPushNow_canonical {drawer t r tok} (h : s.st.Canonical) : (fifoPushNow s drawer t r tok).2.st.Canonical :=
  (fifoPushNow_frame ..).canonical h

theorem fifoHeadToken_canonical {t r} (h : s.st.Canonical) : (fifoHeadToken s t r).2.1.st.Canonical :=
  (fifoHeadToken_frame (d := none) ..).canonical h

@[simp] theorem fifoAdvance_st {drawer t r} : (fifoAdvance s drawer t r).st = s.st := by simp [fifoAdvance]

@[simp] theorem sendFrom_st {src node cls words} : (sendFrom s src node cls words).st = s.st := rfl

@[simp] theorem keepKeys_st {c f} : (keepKeys s c f).st = s.st := by simp [keepKeys]

theorem copyFrame_canonical {c f} (h : s.st.Canonical) : (copyFrame s c f).st.Canonical :=
  (copyFrame_frame (d := none) ..).canonical h

theorem physSets_canonical {k bs} (h : s.st.Canonical) : (physSets s k bs).st.Canonical :=
  (physSets_frame (d := none) ..).canonical h

theorem genWriteBack_canonical {page e} (h : s.st.Canonical) : (genWriteBack s page e).st.Canonical :=
  (genWriteBack_frame (d := none) ..).canonical h

theorem cacheDrop_canonical {page} (h : s.st.Canonical) : (cacheDrop s page).st.Canonical :=
  (cacheDrop_frame (d := none) ..).canonical h

theorem setDir_canonical {d} (h : s.st.Canonical) : (setDir s d).st.Canonical :=
  (setDir_frame (d := none) ..).canonical h

@[simp] theorem dropOut_st {uid} : (dropOut s uid).st = s.st := rfl

@[simp] theorem pageStarve_st {page cycles} : (pageStarve s page cycles).st = s.st := by
  unfold pageStarve
  split <;> simp

@[simp] theorem sendForward_st {who node ia cls op} : (sendForward s who node ia cls op).st = s.st := by simp [sendForward]

@[simp] theorem pageDeliver_st {page} : (pageDeliver s page).st = s.st := by
  unfold pageDeliver
  split <;> simp

@[simp] theorem forwardAccess_st {who node ia cls op} : (forwardAccess s who node ia cls op).2.st = s.st := by
  unfold forwardAccess
  grind -ring -linarith -order [= sendForward_st, = dropOut_st, = pageDeliver_st]

theorem recordSharer_canonical {d node} (h : s.st.Canonical) : (recordSharer s d node).st.Canonical :=
  (recordSharer_frame (d := none) ..).canonical h

theorem registerSharer_canonical {page home node} (h : s.st.Canonical) : (registerSharer s page home node).st.Canonical :=
  (registerSharer_frame (d := none) ..).canonical h

theorem lookupPage_canonical {ia cls} (h : s.st.Canonical) : (lookupPage s ia cls).2.st.Canonical :=
  (lookupPage_frame (d := none) ..).canonical h

theorem writeBackLine_canonical {line e} (h : s.st.Canonical) : (writeBackLine s line e).st.Canonical :=
  (writeBackLine_frame (d := none) ..).canonical h

@[simp] theorem lineValue_st {line tag} : (lineValue s line tag).2.st = s.st := by
  unfold lineValue
  grind -ring -linarith -order

@[simp] theorem pageAdvance_st {page} : (pageAdvance s page).st = s.st := by
  unfold pageAdvance
  split <;> simp

theorem iaAccess_canonical {who ia cls op} (h : s.st.Canonical) : (iaAccess s who ia cls op).2.st.Canonical :=
  (iaAccess_frame ..).canonical h

@[simp] theorem bindAll_st {who ps} : (bindAll s who ps).st = s.st := foldl_st fun _ _ => bindRead_st

theorem askParts_canonical {who l} (h : s.st.Canonical) : (askParts s who l).2.st.Canonical :=
  (askParts_frame (d := none) ..).canonical h

@[simp] theorem dropAsks_st {key ps} : (dropAsks s key ps).st = s.st := foldl_st fun _ _ => dropOut_st

theorem readAt_canonical {who va n} (h : s.st.Canonical) : (readAt s who va n).2.2.st.Canonical :=
  (readAt_frame ..).canonical h

@[simp] theorem noteFault_st {va} : (noteFault s va).st = s.st := rfl

theorem readVA_canonical {who va n} (h : s.st.Canonical) : (readVA s who va n).2.st.Canonical :=
  (readVA_frame ..).canonical h

theorem writeAt_canonical {who va bs} (h : s.st.Canonical) : (writeAt s who va bs).2.2.st.Canonical :=
  (writeAt_frame ..).canonical h

theorem writeVARaw_canonical {who va bs} (h : s.st.Canonical) : (writeVARaw s who va bs).2.st.Canonical :=
  (writeVARaw_frame ..).canonical h

theorem readGen_canonical {ia cls} (h : s.st.Canonical) : (readGen s ia cls).2.st.Canonical :=
  (readGen_frame (d := none) ..).canonical h

/-! ### Event records, watchpoints, bytes performed apart -/

@[simp] theorem noteCause_st {lid c} : (noteCause s lid c).st = s.st := by
  unfold noteCause
  split <;> simp

theorem enqueueRec_st {t} {s'} (e : enqueueRec s t = some s') : s'.st = s.st := by
  unfold enqueueRec at e
  grind -ring -linarith -order [= updLaunch_st]

theorem readCR_canonical {who va} (h : s.st.Canonical) : (readCR s who va).2.st.Canonical :=
  (readCR_frame ..).canonical h

theorem enterHandler_canonical {ctx lid t} (h : s.st.Canonical) : (enterHandler s ctx lid t).st.Canonical :=
  (enterHandler_frame (d := none) ..).canonical h

theorem appendEvent_canonical {ctx e} (h : s.st.Canonical) : (appendEvent s ctx e).st.Canonical :=
  (appendEvent_frame (d := none) ..).canonical h

theorem watchCheck_canonical {who ps} (h : s.st.Canonical) : (watchCheck s who ps).st.Canonical :=
  (watchCheck_frame (d := none) ..).canonical h

theorem writeVA_canonical {who va bs} (h : s.st.Canonical) : (writeVA s who va bs).2.st.Canonical :=
  (writeVA_frame ..).canonical h

theorem iaPerform_canonical {who ia cls op} (h : s.st.Canonical) : (iaPerform s who ia cls op).2.st.Canonical :=
  (iaPerform_frame ..).canonical h

@[simp] theorem noteTorn_st {key ia bs} : (noteTorn s key ia bs).st = s.st := rfl

@[simp] theorem dropTorn_st {key} : (dropTorn s key).st = s.st := rfl

theorem byBytes_canonical {who ia cls op l} (h : s.st.Canonical) : (byBytes s who ia cls op l).2.st.Canonical := by
  fun_induction byBytes s who ia cls op l <;> grind -ring -linarith -order [!iaPerform_canonical, = noteTorn_st]

theorem apart_canonical {who ia cls op} (h : s.st.Canonical) : (apart s who ia cls op).2.st.Canonical := by
  unfold apart
  grind -ring -linarith -order [!iaPerform_canonical, = noteTorn_st, !byBytes_canonical]

theorem partsApart_canonical {who l} (h : s.st.Canonical) : (partsApart s who l).2.st.Canonical := by
  fun_induction partsApart s who l <;> grind -ring -linarith -order [!apart_canonical, = noteTorn_st, = noteFault_st]

theorem readApart_canonical {who va n} (h : s.st.Canonical) : (readApart s who va n).2.st.Canonical := by
  unfold readApart
  grind -ring -linarith -order [!readVA_canonical, !partsApart_canonical, = bindAll_st, = dropTorn_st]

theorem rmwVA_canonical {who va n red what f} (h : s.st.Canonical) : (rmwVA s who va n red what f).2.st.Canonical :=
  (rmwVA_frame ..).canonical h

/-! ### Numeric events -/

theorem countClass_canonical {ctx k n t} (h : s.st.Canonical) : (countClass s ctx k n t).st.Canonical := by
  unfold countClass
  grind -ring -linarith -order [= setCtx_st, !appendEvent_canonical, !hostEvent_canonical]

@[simp] theorem windowsTo_st {ctx} : (windowsTo s ctx).st = s.st := by simp [windowsTo]

theorem countEvents_canonical {ctx t evs} (h : s.st.Canonical) : (countEvents s ctx t evs).st.Canonical := by
  unfold countEvents
  split
  · exact h
  · exact foldl_canonical countClass_canonical (by rwa [windowsTo_st])

/-! ### Barriers completed, sections withdrawn, contexts killed -/

@[simp] theorem sendCompletions_st {id b} : (sendCompletions s id b).st = s.st := foldl_st fun _ _ => rfl

@[simp] theorem completeBar_st {id} : (completeBar s id).st = s.st := by simp [completeBar]

@[simp] theorem poisonBar_st {id} : (poisonBar s id).st = s.st := by
  unfold poisonBar
  split <;> simp

@[simp] theorem disarmTile_st {t} : (disarmTile s t).st = s.st := by simp [disarmTile]

@[simp] theorem unbindSec_st {k} : (unbindSec s k).st = s.st :=
  (foldl_st fun _ _ => foldl_st fun _ _ => unbind_st).trans unbind_st

@[simp] theorem disarmSec_st {k} : (disarmSec s k).st = s.st := by
  simp [disarmSec, foldl_st]

theorem ownTileWrite_canonical {ctx t off bs} (h : s.st.Canonical) : (ownTileWrite s ctx t off bs).st.Canonical :=
  watchCheck_canonical ⟨tileWriteBytes_wf _ _ _ _ _ h.1, h.2⟩

theorem zeroRegion_canonical {t r} (h : s.st.Canonical) : (zeroRegion s t r).st.Canonical := by
  unfold zeroRegion
  grind -ring -linarith -order [!ownTileWrite_canonical]

theorem dropRegions_canonical {ctx t} (h : s.st.Canonical) : (dropRegions s ctx t).st.Canonical := by
  refine foldl_canonical (fun {s r} h => ?_) h
  split
  · exact zeroRegion_canonical h
  · exact h

@[simp] theorem clearTile_st {t} : (clearTile s t).st = s.st := by simp [clearTile]

@[simp] theorem leaveSection_st {t} : (leaveSection s t).st = s.st := by
  unfold leaveSection
  split <;> simp

@[simp] theorem freeSec_st {k} : (freeSec s k).st = s.st := by
  simp [freeSec, foldl_st]

theorem writeState_canonical {f st w7 t} (h : s.st.Canonical) : (writeState s f st w7 t).st.Canonical := by
  unfold writeState
  grind -ring -linarith -order [!writeVA_canonical]

theorem writeKilled_canonical {ctx} (h : s.st.Canonical) : (writeKilled s ctx).st.Canonical :=
  foldl_canonical writeState_canonical h

@[simp] theorem askNode_st {key tag node code words} : (askNode s key tag node code words).st = s.st := rfl

@[simp] theorem tellMembers_st {q c kind info bytes} : (tellMembers s q c kind info bytes).st = s.st := by
  refine foldl_st fun s e => ?_
  dsimp only
  split <;> simp

@[simp] theorem acknowledge_st {m kind status cause} : (acknowledge s m kind status cause).st = s.st := by
  unfold acknowledge
  grind -ring -linarith -order [= sendNode_st]

@[simp] theorem ackRemoved_st {m} : (ackRemoved s m).st = s.st := by
  unfold ackRemoved
  grind -ring -linarith -order [= acknowledge_st]

@[simp] theorem settleOwed_st : (settleOwed s).st = s.st := by
  refine foldl_st fun s o => ?_
  dsimp only
  split <;> rfl

@[simp] theorem mapNotices_st {c f} : (mapNotices s c f).st = s.st := by simp [mapNotices]

@[simp] theorem dropNotices_st {q c} : (dropNotices s q c).st = s.st := by
  unfold dropNotices
  split <;> simp

@[simp] theorem killCommand_st {q c} : (killCommand s q c).st = s.st := by
  unfold killCommand
  grind -ring -linarith -order [= ackRemoved_st, = tellMembers_st, = dropNotices_st, = acknowledge_st]

@[simp] theorem killCommands_st {ctx} : (killCommands s ctx).st = s.st :=
  foldl_st fun _ _ => killCommand_st

@[simp] theorem resumeSections_st : (resumeSections s).st = s.st := by simp [resumeSections]

theorem killContext_canonical {ctx cause lost} (h : s.st.Canonical) : (killContext s ctx cause lost).st.Canonical := by
  unfold killContext
  simp only [setCtx_st]
  refine foldl_canonical dropRegions_canonical ?_
  rw [foldl_st fun _ _ => poisonBar_st]
  have hw := writeKilled_canonical (ctx := ctx) h
  split <;> simpa [foldl_st, apply_ite] using hw

theorem loseContext_canonical {ctx lost} (h : s.st.Canonical) : (loseContext s ctx lost).st.Canonical := by
  unfold loseContext
  grind -ring -linarith -order [!hostEvent_canonical, !killContext_canonical]

/-! ### The sequencer's shared operations -/

theorem onCore_canonical {k} (hk : ∀ t c f, (k t c f).st.Canonical) : Out.Canonical (onCore s k) := by
  rcases onCore_cases s k with h | ⟨f, -, -, h⟩ <;> rw [h]
  · trivial
  · exact hk _ _ _

theorem regOp_canonical {srcs d v} (h : s.st.Canonical) : Out.Canonical (regOp s srcs d v) := by
  unfold regOp
  grind -ring -linarith -order [Out.Canonical, !onCore_canonical, = setCore_st]

@[simp] theorem settleClaim_st {ctx retire x} : (settleClaim s ctx retire x).st = s.st := by
  unfold settleClaim
  grind -ring -linarith -order [= setRegion_st]

@[simp] theorem settleClaims_st {ctx retire cs} : (settleClaims s ctx retire cs).st = s.st :=
  foldl_st fun _ _ => settleClaim_st

theorem readSucc_canonical {who n w} (h : s.st.Canonical) : (readSucc s who n w).2.st.Canonical := by
  fun_induction readSucc s who n w <;> grind -ring -linarith -order [!readVA_canonical]

@[simp] theorem leaveLaunch_st {f faulted} : (leaveLaunch s f faulted).st = s.st := by
  unfold leaveLaunch
  grind -ring -linarith -order [= updLaunch_st, = setCtx_st]

@[simp] theorem dropCoreAsks_st {t} : (dropCoreAsks s t).st = s.st := by simp [dropCoreAsks]

theorem endFaulted_canonical {t cause framed} (h : s.st.Canonical) : (endFaulted s t cause framed).st.Canonical := by
  unfold endFaulted
  grind -ring -linarith -order [= noteCause_st, = settleClaims_st, = unbind_st, !readSucc_canonical, !writeState_canonical, =
    leaveLaunch_st, =
    dropCoreAsks_st, = setCore_st]

theorem takeTrap_canonical {t cause precise pc tval tinfo} (h : s.st.Canonical) :
    (takeTrap s t cause precise pc tval tinfo).st.Canonical := by
  unfold takeTrap
  dsimp only
  split
  · exact h
  · rename_i f _
    have hc : (noteCause s f.task.launch cause).st.Canonical := by rwa [noteCause_st]
    split
    · exact killContext_canonical hc
    · split
      · exact h
      · split
        · exact endFaulted_canonical h
        · split <;> rename_i e <;> have h1 := canonical_of_eq e (writeVA_canonical hc)
          · rwa [setCore_st, dropCoreAsks_st]
          · exact killContext_canonical h1

theorem trapHere_canonical {t cause tval} (h : s.st.Canonical) : (trapHere s t cause tval).st.Canonical := by
  unfold trapHere
  grind -ring -linarith -order [!takeTrap_canonical]

theorem trapOpen_canonical {t cause} (h : s.st.Canonical) : (trapOpen s t cause).st.Canonical := by
  unfold trapOpen
  grind -ring -linarith -order [!trapHere_canonical]

@[simp] theorem softRefuse_st {t cause} : (softRefuse s t cause).st = s.st := by
  unfold softRefuse
  grind -ring -linarith -order [= setCore_st, = setCtx_st]

theorem needSys_canonical {t c k} (h : k.st.Canonical) (h1 : s.st.Canonical) : (needSys s t c k).st.Canonical := by
  unfold needSys
  grind -ring -linarith -order [!trapOpen_canonical]

theorem trapPurity_canonical {t} (h : s.st.Canonical) : (trapPurity s t).st.Canonical := by
  unfold trapPurity
  grind -ring -linarith -order [!trapOpen_canonical, = setCore_st]

theorem notPure_canonical {t c f k} (h : k.st.Canonical) (h1 : s.st.Canonical) : (notPure s t c f k).st.Canonical := by
  unfold notPure
  grind -ring -linarith -order [!trapPurity_canonical]

theorem readTiles_canonical {who n w} (h : s.st.Canonical) : (readTiles s who n w).2.st.Canonical := by
  fun_induction readTiles s who n w <;> grind -ring -linarith -order [!readVA_canonical]

theorem pureAllows_canonical {c f who va n write} (h : s.st.Canonical) : (pureAllows s c f who va n write).2.st.Canonical := by
  unfold pureAllows
  grind -ring -linarith -order [!readTiles_canonical]

@[simp] theorem chooseNext_st {l} : (chooseNext s l).2.st = s.st := by
  unfold chooseNext
  split <;> simp

theorem issueAccess_canonical {t c f word kind n gd va data cmp acq rel aligned} (h : s.st.Canonical) : (issueAccess s t c f
  word kind n gd va data cmp acq rel aligned).st.Canonical := by
  unfold issueAccess
  grind -ring -linarith -order [!trapHere_canonical, !pureAllows_canonical, = bindRead_st, !chooseNext_st, = setCore_st,
    !trapPurity_canonical]

theorem performAcc_canonical {t f a} (h : s.st.Canonical) : (performAcc s t f a).2.st.Canonical := by
  unfold performAcc
  grind -ring -linarith -order [!iaAccess_canonical, !iaPerform_canonical]

theorem chargeAcc_canonical {t f a old} (h : s.st.Canonical) : (chargeAcc s t f a old).st.Canonical := by
  unfold chargeAcc
  grind -ring -linarith -order [!countEvents_canonical]

theorem watchStore_canonical {t f a} (h : s.st.Canonical) : (watchStore s t f a).st.Canonical := by
  unfold watchStore
  grind -ring -linarith -order [!watchCheck_canonical]

theorem performStep_canonical {t f a} (h : s.st.Canonical) : (performStep s t f a).st.Canonical := by
  unfold performStep
  grind -ring -linarith -order [!performAcc_canonical, !watchStore_canonical, = setCore_st, !chooseNext_st, !chargeAcc_canonical]

theorem pureReplay_canonical {c f who l} (h : s.st.Canonical) : (pureReplay s c f who l).2.st.Canonical := by
  fun_induction pureReplay s c f who l <;> grind -ring -linarith -order [!pureAllows_canonical]

theorem returnFromTrap_canonical {t c f} (h : s.st.Canonical) : (returnFromTrap s t c f).st.Canonical := by
  unfold returnFromTrap
  grind -ring -linarith -order [= softRefuse_st, !readVA_canonical, !pureReplay_canonical, !writeVA_canonical, = setCore_st,
    !killContext_canonical, =
    noteCause_st]

/-! ### Loads, stores, atomics, fences -/

theorem loadForm_canonical {i d a z o inv acq} (h : s.st.Canonical) : Out.Canonical (loadForm s i d a z o inv acq) := by
  unfold loadForm
  grind -ring -linarith -order [Out.Canonical, !onCore_canonical, !issueAccess_canonical]

theorem storeForm_canonical {i d a z o rel} (h : s.st.Canonical) : Out.Canonical (storeForm s i d a z o rel) := by
  unfold storeForm
  grind -ring -linarith -order [Out.Canonical, !onCore_canonical, !issueAccess_canonical]

theorem atomForm_canonical {i fn a b d n} (h : s.st.Canonical) : Out.Canonical (atomForm s i fn a b d n) := by
  unfold atomForm
  grind -ring -linarith -order [Out.Canonical, !onCore_canonical, !notPure_canonical, !issueAccess_canonical]

theorem redForm_canonical {i fn a b n} (h : s.st.Canonical) : Out.Canonical (redForm s i fn a b n) := by
  unfold redForm
  grind -ring -linarith -order [Out.Canonical, !onCore_canonical, !notPure_canonical, !issueAccess_canonical]

theorem execFence_canonical {sc} (h : s.st.Canonical) : Out.Canonical (execFence sc s) := by
  unfold execFence
  grind -ring -linarith -order [Out.Canonical, !onCore_canonical, = setCore_st]

theorem execSbar_canonical {a} (h : s.st.Canonical) : Out.Canonical (execSbar a s) := by
  unfold execSbar
  grind -ring -linarith -order [Out.Canonical, !onCore_canonical, !trapOpen_canonical, = setCore_st]

theorem onAccess_canonical {k} (h : s.st.Canonical) (hk : ∀ t i c f a, (k t i c f a).st.Canonical) :
    Out.Canonical (onAccess s k) := by
  simp only [onAccess]
  split
  · exact hk _ _ _ _ _
  · exact h

theorem execWindowAccess_canonical (h : s.st.Canonical) : Out.Canonical (execWindowAccess s) := by
  unfold execWindowAccess
  grind -ring -linarith -order [Out.Canonical, !onAccess_canonical, = setCore_st]

@[simp] theorem fifoAsk_st {t r q} : (fifoAsk s t r q).st = s.st := rfl

theorem execBankAccess_canonical (h : s.st.Canonical) : Out.Canonical (execBankAccess s) := by
  unfold execBankAccess
  grind -ring -linarith -order [Out.Canonical, !onAccess_canonical, = fifoAsk_st, !performStep_canonical]

theorem execHomePortAccess_canonical (h : s.st.Canonical) : Out.Canonical (execHomePortAccess s) := by
  unfold execHomePortAccess
  grind -ring -linarith -order [Out.Canonical, !onAccess_canonical, !performStep_canonical]

theorem execPageWalk_canonical (h : s.st.Canonical) : Out.Canonical (execPageWalk s) := by
  unfold execPageWalk
  grind -ring -linarith -order [Out.Canonical, !onAccess_canonical, !lookupPage_canonical, = setCore_st]

theorem takeFar_canonical {t f c a i uid e old} (h : s.st.Canonical) : (takeFar s t f c a i uid e old).st.Canonical := by
  unfold takeFar
  grind -ring -linarith -order [= dropOut_st, = setCore_st, !chargeAcc_canonical]

theorem execSequencerAccessReply_canonical (h : s.st.Canonical) : Out.Canonical (execSequencerAccessReply s) := by
  unfold execSequencerAccessReply
  grind -ring -linarith -order [Out.Canonical, !onAccess_canonical, = setCore_st, !takeFar_canonical]

theorem execAfterIssueFault_canonical (h : s.st.Canonical) : Out.Canonical (execAfterIssueFault s) := by
  unfold execAfterIssueFault
  grind -ring -linarith -order [Out.Canonical, !takeTrap_canonical]

theorem execDecodeFault_canonical {w} (h : s.st.Canonical) : Out.Canonical (execDecodeFault w s) := by
  unfold execDecodeFault
  grind -ring -linarith -order [Out.Canonical, !onCore_canonical, !trapHere_canonical]

theorem execFetchFault_canonical {e} (h : s.st.Canonical) : Out.Canonical (execFetchFault e s) := by
  unfold execFetchFault
  grind -ring -linarith -order [Out.Canonical, !onCore_canonical, !trapHere_canonical]

/-! ### Task instructions -/

theorem syncTrap_canonical {t who w a b va e} (h : s.st.Canonical) : (syncTrap s t who w a b va e).st.Canonical := by
  unfold syncTrap
  grind -ring -linarith -order [!trapHere_canonical, !takeTrap_canonical, = setCore_st]

theorem enqueueDue_st {va ctx w5} {s'} (e : enqueueDue s va ctx w5 = some s') : s'.st = s.st := by
  unfold enqueueDue at e
  grind -ring -linarith -order [→ enqueueRec_st]

theorem execSpawn_canonical {a} (h : s.st.Canonical) : Out.Canonical (execSpawn a s) := by
  unfold execSpawn
  exact onCore_canonical fun t c f => by grind -ring -linarith -order [!onCore_canonical, !notPure_canonical,
    !syncTrap_canonical, !trapOpen_canonical,
    !readVA_canonical, !rmwVA_canonical, = updLaunch_st, = setCore_st, → enqueueDue_st]

theorem execSig_canonical {a} (h : s.st.Canonical) : Out.Canonical (execSig a s) := by
  unfold execSig
  grind -ring -linarith -order [Out.Canonical, !onCore_canonical, !trapOpen_canonical, = setCore_st]

@[simp] theorem sendSignal_st {cr r t} : (sendSignal s cr r t).st = s.st := rfl

theorem execSigeAddress_canonical {a} (h : s.st.Canonical) : Out.Canonical (execSigeAddress a s) := by
  unfold execSigeAddress
  grind -ring -linarith -order [Out.Canonical, !onCore_canonical, !trapOpen_canonical, = sendSignal_st, = setCore_st]

theorem succList_canonical {who l} (h : s.st.Canonical) : (succList s who l).2.st.Canonical := by
  unfold succList
  grind -ring -linarith -order [!readSucc_canonical]

theorem execSigeEntry_canonical {j} (h : s.st.Canonical) : Out.Canonical (execSigeEntry j s) := by
  unfold execSigeEntry
  grind -ring -linarith -order [Out.Canonical, !onCore_canonical, !succList_canonical, !syncTrap_canonical,
    !trapOpen_canonical, = sendSignal_st, =
    setCore_st]

@[simp] theorem lowerPrio_st {id c} : (lowerPrio s id c).st = s.st := by
  unfold lowerPrio
  dsimp only
  split
  · rfl
  · split
    · rfl
    · split
      · exact foldl_st fun _ _ => rfl
      · rfl

@[simp] theorem parkFiring_st {t c f mask w6 kind} : (parkFiring s t c f mask w6 kind).st = s.st := by
  unfold parkFiring
  grind -ring -linarith -order [= setCore_st, = lowerPrio_st, = unbind_st]

theorem execPark_canonical {a b k} (h : s.st.Canonical) : Out.Canonical (execPark a b k s) := by
  unfold execPark
  grind -ring -linarith -order [Out.Canonical, !onCore_canonical, !trapOpen_canonical, = parkFiring_st]

theorem execYield_canonical {a} (h : s.st.Canonical) : Out.Canonical (execYield a s) := by
  unfold execYield
  grind -ring -linarith -order [Out.Canonical, !onCore_canonical, !trapOpen_canonical, = parkFiring_st]

theorem execExit_canonical (h : s.st.Canonical) : Out.Canonical (execExit s) := by
  unfold execExit
  grind -ring -linarith -order [Out.Canonical, !onCore_canonical, = unbind_st, = setCore_st]

theorem execPrio_canonical {k} (h : s.st.Canonical) : Out.Canonical (execPrio k s) := by
  unfold execPrio
  grind -ring -linarith -order [Out.Canonical, !onCore_canonical, = setCore_st]

theorem execTdecl_canonical {a} (h : s.st.Canonical) : Out.Canonical (execTdecl a s) := by
  unfold execTdecl
  grind -ring -linarith -order [Out.Canonical, !onCore_canonical, !trapOpen_canonical, !trapHere_canonical, = settleClaims_st,
    = setCore_st]

theorem execJcnt_canonical {a b d} (h : s.st.Canonical) : Out.Canonical (execJcnt a b d s) := by
  unfold execJcnt
  grind -ring -linarith -order [Out.Canonical, !onCore_canonical, !notPure_canonical, !trapOpen_canonical, !issueAccess_canonical]

/-! ### Loading of a tile -/

theorem loadSlot_st {ctx t n e} {s'} (he : loadSlot s ctx t n e = .ok s') : s'.st = s.st := by
  unfold loadSlot at he
  grind -ring -linarith -order

theorem loadIngress_st {t j f} {s'} (e : loadIngress s t j f = .ok s') : s'.st = s.st := by
  unfold loadIngress at e
  grind -ring -linarith -order

theorem loadSwitch_st {t w} {s'} (e : loadSwitch s t w = .ok s') : s'.st = s.st := by
  unfold loadSwitch at e
  grind -ring -linarith -order

theorem loadRec_st {t u w} {s'} (e : loadRec s t u w = .ok s') : s'.st = s.st := by
  unfold loadRec at e
  grind -ring -linarith -order

theorem loadPat_st {ctx t g p} {s'} (e : loadPat s ctx t g p = .ok s') : s'.st = s.st := by
  unfold loadPat at e
  grind -ring -linarith -order

theorem loadRegion_st {ctx t r w} {s'} (e : loadRegion s ctx t r w = .ok s') : s'.st = s.st := by
  unfold loadRegion at e
  grind -ring -linarith -order [= setRegion_st]

theorem loadItem_st {ctx t x} {s'} (e : loadItem s ctx t x = .ok s') : s'.st = s.st := by
  unfold loadItem at e
  grind -ring -linarith -order [→ loadSlot_st, → loadSwitch_st, → loadRec_st, → loadPat_st, → loadRegion_st, → loadIngress_st]

@[simp] theorem loadItems_st {ctx t l} : (loadItems s ctx t l).1.st = s.st := by
  induction l generalizing s with
  | nil => rfl
  | cons x l ih =>
    unfold loadItems
    split <;> rename_i e
    · exact ih.trans (loadItem_st e)
    · rfl

/-! ### Fabric instructions -/

@[simp] theorem joinSection_st {k t lid} : (joinSection s k t lid).st = s.st := by
  unfold joinSection
  split <;> simp

theorem cfgRefuse_canonical {t e va idx} (h : s.st.Canonical) : (cfgRefuse s t e va idx).st.Canonical := by
  unfold cfgRefuse
  grind -ring -linarith -order [!takeTrap_canonical]

theorem cfgLoad_canonical {t f which g va x target items} (h : s.st.Canonical) : (cfgLoad s t f which g va x target
  items).st.Canonical := by
  unfold cfgLoad
  grind -ring -linarith -order [= joinSection_st, !loadItems_st, = setCore_st, !cfgRefuse_canonical]

theorem cfgForm_canonical {a b which} (h : s.st.Canonical) : Out.Canonical (cfgForm s a b which) := by
  refine onCore_canonical fun t c f => ?_
  split
  · exact h
  · refine notPure_canonical ?_ h
    dsimp only
    split
    · exact trapHere_canonical h
    · split
      · exact h
      · split <;> rename_i heq <;> have h1 := canonical_of_eq heq (readVA_canonical h)
        · exact syncTrap_canonical h1
        · exact h1
        · split
          · exact cfgRefuse_canonical h1
          · split
            · exact cfgRefuse_canonical h1
            · split
              · exact h1
              · split <;> rename_i heq <;> have h2 := canonical_of_eq heq (readApart_canonical h1)
                · exact syncTrap_canonical h2
                · exact h2
                · grind -ring -linarith -order [!cfgRefuse_canonical, !cfgLoad_canonical]

@[simp] theorem armTile_st {k lid t} : (armTile k lid s t).st = s.st :=
  foldl_st fun _ _ => rfl

@[simp] theorem restoreCut_st {k c} : (restoreCut s k c).st = s.st := by
  unfold restoreCut
  split <;> simp

@[simp] theorem recount_st {k} : (recount s k).st = s.st := foldl_st fun _ _ => rfl

@[simp] theorem setArmed_st {t f k area tc} : (setArmed s t f k area tc).st = s.st := rfl

theorem armLoaded_canonical {t f k area tc w0 w1 trap} (h : s.st.Canonical) (ht :
    ∀ {s v e}, s.st.Canonical → (trap s v e).st.Canonical) :
    (armLoaded s t f k area tc w0 w1 trap).st.Canonical := by
  unfold armLoaded
  dsimp only
  split
  · split
    · exact trapOpen_canonical h
    · simpa [foldl_st] using h
  · split <;> rename_i heq <;> have h1 := canonical_of_eq heq (writeVA_canonical h)
    · exact ht h1
    · exact h1
    · split <;> split <;> simpa [foldl_st] using h1

theorem execArm_canonical {a b n} (h : s.st.Canonical) : Out.Canonical (execArm a b n s) := by
  unfold execArm
  grind -ring -linarith -order [Out.Canonical, !onCore_canonical, !notPure_canonical, !syncTrap_canonical,
    !trapOpen_canonical, !readVA_canonical, =
    recount_st, = setArmed_st, !armLoaded_canonical]

theorem execDisarm_canonical {n} (h : s.st.Canonical) : Out.Canonical (execDisarm n s) := by
  unfold execDisarm
  grind -ring -linarith -order [Out.Canonical, !onCore_canonical, !notPure_canonical, = disarmSec_st, = setCore_st]

theorem execSecwait_canonical {d n} (h : s.st.Canonical) : Out.Canonical (execSecwait d n s) := by
  unfold execSecwait
  grind -ring -linarith -order [Out.Canonical, !onCore_canonical, = setCore_st]

theorem withGenTile_canonical {t f w k} (h : s.st.Canonical) (hk : ∀ m, (k m).st.Canonical) :
    (withGenTile s t f w k).st.Canonical := by
  unfold withGenTile
  have := trapOpen_canonical (t := t) (cause := Cause.cfgblk) h
  split
  · split
    · exact hk _
    · assumption
  · assumption

theorem execStrm_canonical {a n} (h : s.st.Canonical) : Out.Canonical (execStrm a n s) := by
  unfold execStrm
  grind -ring -linarith -order [Out.Canonical, !onCore_canonical, !notPure_canonical, !withGenTile_canonical,
    !trapOpen_canonical, = setGen_st, =
    dropTorn_st, = setCore_st]

@[simp] theorem dropHeldCoord_st {m g} : (dropHeldCoord s m g).st = s.st := by
  unfold dropHeldCoord
  grind -ring -linarith -order

theorem execSstop_canonical {a n} (h : s.st.Canonical) : Out.Canonical (execSstop a n s) := by
  unfold execSstop
  grind -ring -linarith -order [Out.Canonical, !onCore_canonical, !notPure_canonical, !withGenTile_canonical, = setCore_st, =
    setGen_st, =
    dropHeldCoord_st]

theorem execSmark_canonical {n} (h : s.st.Canonical) : Out.Canonical (execSmark n s) := by
  unfold execSmark
  grind -ring -linarith -order [Out.Canonical, !onCore_canonical, !notPure_canonical, !trapOpen_canonical, = setCore_st, =
    setSec_st]

theorem withUnit_canonical {t f w u kind k} (h : s.st.Canonical) (hk : ∀ m x, (k m x).st.Canonical) :
    (withUnit s t f w u kind k).st.Canonical := by
  unfold withUnit
  split
  · exact trapOpen_canonical h
  · dsimp only
    split
    · exact hk _ _
    · exact trapOpen_canonical h

theorem execSeal_canonical {a n} (h : s.st.Canonical) : Out.Canonical (execSeal a n s) := by
  unfold execSeal
  grind -ring -linarith -order [Out.Canonical, !onCore_canonical, !notPure_canonical, !withUnit_canonical, = setCore_st, =
    setUnit_st]

theorem execTapset_canonical {a b n} (h : s.st.Canonical) : Out.Canonical (execTapset a b n s) := by
  unfold execTapset
  grind -ring -linarith -order [Out.Canonical, !onCore_canonical, !notPure_canonical, !trapOpen_canonical,
    !withUnit_canonical, = setCore_st, =
    setUnit_st]

/-! ### Barrier instructions -/

@[simp] theorem barTest_st {id} : (barTest s id).st = s.st := by
  unfold barTest
  grind -ring -linarith -order [= sendNode_st, = setBar_st, = completeBar_st]

theorem execBinit_canonical {a b} (h : s.st.Canonical) : Out.Canonical (execBinit a b s) := by
  unfold execBinit
  grind -ring -linarith -order [Out.Canonical, !onCore_canonical, !notPure_canonical, = setBar_st, = setCore_st, = dropOut_st,
    !trapOpen_canonical, =
    sendNode_st]

theorem execBarr_canonical {a b} (h : s.st.Canonical) : Out.Canonical (execBarr a b s) := by
  unfold execBarr
  grind -ring -linarith -order [Out.Canonical, !onCore_canonical, !notPure_canonical, = setCore_st, !trapOpen_canonical]

theorem execBwait_canonical {a b d} (h : s.st.Canonical) : Out.Canonical (execBwait a b d s) := by
  unfold execBwait
  grind -ring -linarith -order [Out.Canonical, !onCore_canonical, !trapOpen_canonical, = lowerPrio_st, = setCore_st]

theorem execBtest_canonical {a b d} (h : s.st.Canonical) : Out.Canonical (execBtest a b d s) := by
  unfold execBtest
  grind -ring -linarith -order [Out.Canonical, !onCore_canonical, !trapOpen_canonical, = setCore_st]

theorem bchg_canonical {a b} (h : s.st.Canonical) : Out.Canonical (bchg s a b) := by
  unfold bchg
  grind -ring -linarith -order [Out.Canonical, !onCore_canonical, !notPure_canonical, !trapOpen_canonical, = setBar_st, =
    setCore_st, = barTest_st]

/-! ### PUBLISH and the granary -/

theorem pageKeys_canonical {l} (h : s.st.Canonical) : (pageKeys s l).2.st.Canonical := by
  fun_induction pageKeys s l <;> grind -ring -linarith -order [!readGen_canonical]

theorem inputKeys_canonical {who frame n l} (h : s.st.Canonical) : (inputKeys s who frame n l).2.st.Canonical := by
  fun_induction inputKeys s who frame n l <;> grind -ring -linarith -order [!readVA_canonical, !pageKeys_canonical]

theorem granaryKey_canonical {who lid frame live regs ds} (h : s.st.Canonical) : (granaryKey s who lid frame live regs
  ds).2.st.Canonical := by
  unfold granaryKey
  grind -ring -linarith -order [!inputKeys_canonical]

@[simp] theorem granRemove_st {p} : (granRemove s p).st = s.st := rfl

theorem granProbe_canonical {who die lid l regs ds} (h : s.st.Canonical) : (granProbe s who die lid l regs ds).2.st.Canonical :=
  by
  unfold granProbe
  grind -ring -linarith -order [!granaryKey_canonical]

theorem publishPage_canonical {page} (h : s.st.Canonical) : (publishPage s page).st.Canonical := by
  unfold publishPage
  refine ite_canonical (ite_canonical (by rwa [windowAdvance_st]) h) ?_
  split <;> rename_i e <;> have h1 := canonical_of_eq e (lookupPage_canonical h)
  · exact ite_canonical h1 (by rwa [pageAdvance_st])
  · exact h1

theorem publishPages_canonical {ia n} (h : s.st.Canonical) : (publishPages s ia n).st.Canonical :=
  foldl_canonical publishPage_canonical h

theorem publishSwap_canonical {ctx e} (h : s.st.Canonical) : (publishSwap s ctx e).st.Canonical := by
  unfold publishSwap
  grind -ring -linarith -order [!publishPages_canonical, = setCtx_st]

/-! ### Messages, publishing, the granary from a sequencer -/

theorem readMessage_canonical {who va} (h : s.st.Canonical) : (readMessage s who va).2.st.Canonical := by
  unfold readMessage
  grind -ring -linarith -order [!readVA_canonical, !readApart_canonical]

@[simp] theorem bufferMessage_st {t c f w} : (bufferMessage s t c f w).1.st = s.st := rfl

theorem execAmsg_canonical {a d} (h : s.st.Canonical) : Out.Canonical (execAmsg a d s) := by
  unfold execAmsg
  grind -ring -linarith -order [Out.Canonical, !onCore_canonical, !notPure_canonical, !trapOpen_canonical,
    !readMessage_canonical, !syncTrap_canonical,
    !bufferMessage_st, = setCore_st]

theorem execAmsgw_canonical {a} (h : s.st.Canonical) : Out.Canonical (execAmsgw a s) := by
  unfold execAmsgw
  grind -ring -linarith -order [Out.Canonical, !onCore_canonical, !notPure_canonical, !trapOpen_canonical,
    !readMessage_canonical, !syncTrap_canonical,
    !bufferMessage_st, = setCore_st]

@[simp] theorem refuseToSender_st {m status cause} : (refuseToSender s m status cause).st = s.st := by
  unfold refuseToSender
  grind -ring -linarith -order [= setCore_st]

@[simp] theorem takeAmsgw_st {m} : (takeAmsgw s m).2.st = s.st := by
  unfold takeAmsgw
  grind -ring -linarith -order [= setCore_st]

@[simp] theorem takeHostCommand_st : (takeHostCommand s).st = s.st := by
  unfold takeHostCommand
  split <;> simp

@[simp] theorem injectMessage_st {m} : (injectMessage s m).st = s.st := by
  unfold injectMessage
  grind -ring -linarith -order

theorem refuseNode_canonical {m} (h : s.st.Canonical) : (refuseNode s m).st.Canonical := by
  unfold refuseNode
  grind -ring -linarith -order [!appendEvent_canonical, !takeAmsgw_st, = refuseToSender_st]

theorem execMessageInject_canonical (h : s.st.Canonical) : Out.Canonical (execMessageInject s) := by
  unfold execMessageInject
  grind -ring -linarith -order [Out.Canonical, = takeHostCommand_st, !refuseNode_canonical, = injectMessage_st]

theorem execPublish_canonical {sc e} (h : s.st.Canonical) : Out.Canonical (execPublish sc e s) := by
  unfold execPublish
  grind -ring -linarith -order [Out.Canonical, !onCore_canonical, !notPure_canonical, = setCore_st, !publishSwap_canonical,
    !trapOpen_canonical]

theorem execGinv_canonical {a b} (h : s.st.Canonical) : Out.Canonical (execGinv a b s) := by
  unfold execGinv
  grind -ring -linarith -order [Out.Canonical, !onCore_canonical, !notPure_canonical, !trapOpen_canonical, = setCore_st, =
    granRemove_st,
    !readVA_canonical, !syncTrap_canonical]

theorem examineTiles_canonical {who tiles} (h : s.st.Canonical) : (examineTiles s who tiles).2.st.Canonical := by
  unfold examineTiles
  grind -ring -linarith -order [!readTiles_canonical]

theorem execGprobe_canonical {a d} (h : s.st.Canonical) : Out.Canonical (execGprobe a d s) := by
  unfold execGprobe
  grind -ring -linarith -order [Out.Canonical, !onCore_canonical, !syncTrap_canonical, !trapOpen_canonical, !readCR_canonical,
    !examineTiles_canonical,
    !granProbe_canonical, = setCore_st]

/-! ### System instructions -/

theorem execTrap_canonical {n} (h : s.st.Canonical) : Out.Canonical (execTrap n s) := by
  unfold execTrap
  grind -ring -linarith -order [Out.Canonical, !onCore_canonical, !takeTrap_canonical]

theorem execRett_canonical (h : s.st.Canonical) : Out.Canonical (execRett s) := by
  unfold execRett
  grind -ring -linarith -order [Out.Canonical, !onCore_canonical, !needSys_canonical, !returnFromTrap_canonical]

theorem execHalt_canonical (h : s.st.Canonical) : Out.Canonical (execHalt s) := by
  unfold execHalt
  grind -ring -linarith -order [Out.Canonical, !onCore_canonical, !needSys_canonical, !hostEvent_canonical, = setCore_st]

theorem execNop_canonical (h : s.st.Canonical) : Out.Canonical (execNop s) := by
  unfold execNop
  grind -ring -linarith -order [Out.Canonical, !onCore_canonical, = setCore_st]

theorem execEvrd_canonical {d clear k} (h : s.st.Canonical) : Out.Canonical (execEvrd d clear k s) := by
  unfold execEvrd
  grind -ring -linarith -order [Out.Canonical, !onCore_canonical, = windowsTo_st, = setCtx_st, = setCore_st]

theorem wptCommit_st {ctx w ia ctl} {s'} (e : wptCommit s ctx w ia ctl = .ok s') : s'.st = s.st := by
  unfold wptCommit at e
  grind -ring -linarith -order [= setCtx_st]

theorem execWpt_canonical {a b w} (h : s.st.Canonical) : Out.Canonical (execWpt a b w s) := by
  unfold execWpt
  grind -ring -linarith -order [Out.Canonical, !onCore_canonical, !needSys_canonical, → wptCommit_st, = setCore_st,
    !trapOpen_canonical]

/-! ### Slots -/

theorem raiseUnit_canonical {e ukind c} (h : s.st.Canonical) : (raiseUnit s e ukind c).st.Canonical := by
  unfold raiseUnit
  grind -ring -linarith -order [!appendEvent_canonical]

theorem deliverLatch_canonical {e m q tok} (h : s.st.Canonical) : (deliverLatch s e m q tok).st.Canonical := by
  unfold deliverLatch
  grind -ring -linarith -order [= setSlot_st, !raiseUnit_canonical]

/-! ### The token network -/

theorem ingressDeliver_canonical {e ch} (h : s.st.Canonical) : (ingressDeliver s e ch).st.Canonical := by
  unfold ingressDeliver
  grind -ring -linarith -order [!raiseUnit_canonical, = setBuf_st, !deliverLatch_canonical]

@[simp] theorem served_st {x} : (served s x).st = s.st := rfl

theorem landed_canonical {x} (h : s.st.Canonical) : (landed s x).st.Canonical := by
  unfold landed
  grind -ring -linarith -order [!ingressDeliver_canonical]

theorem linkPut_canonical {t l tok} (h : s.st.Canonical) : (linkPut s t l tok).st.Canonical := by
  unfold linkPut
  split
  · exact h
  · refine foldl_canonical landed_canonical ?_
    rw [setBuf_st, foldl_st fun _ _ => served_st]
    exact h

theorem linkSend_canonical {e l tok} (h : s.st.Canonical) : (linkSend s e l tok).st.Canonical := by
  unfold linkSend
  grind -ring -linarith -order [!raiseUnit_canonical, !linkPut_canonical]

@[simp] theorem inPop_st {t out} : (inPop s t out).st = s.st := by
  unfold inPop
  split
  · exact (foldl_st fun _ _ => served_st).trans (setBuf_st ..)
  · rfl

theorem egressPush_canonical {t ch tok} (h : s.st.Canonical) : (egressPush s t ch tok).st.Canonical := by
  unfold egressPush
  grind -ring -linarith -order [= setBuf_st, !linkPut_canonical]

theorem portTransfer_canonical {e port} (h : s.st.Canonical) : (portTransfer s e port).st.Canonical := by
  unfold portTransfer
  grind -ring -linarith -order [!linkSend_canonical, = served_st, = setBuf_st]

theorem execTokenTransfer_canonical (h : s.st.Canonical) : Out.Canonical (execTokenTransfer s) := by
  unfold execTokenTransfer
  split
  · split
    · exact h
    · simp only [Out.Canonical]
      split
      · exact foldl_canonical ingressDeliver_canonical h
      · exact h
  · split
    · exact h
    · exact portTransfer_canonical h

/-! ### The turn of a slot -/

theorem deliver_canonical {e tok x} (h : s.st.Canonical) : (deliver s e tok x).st.Canonical := by
  unfold deliver
  grind -ring -linarith -order [!deliverLatch_canonical, !egressPush_canonical]

theorem emit_canonical {e x ta tb a b} (h : s.st.Canonical) : (emit s e x ta tb a b).st.Canonical := by
  unfold emit
  grind -ring -linarith -order [= setSlot_st, !deliver_canonical]

theorem readScales_canonical {who fills n w} (h : s.st.Canonical) : (readScales s who fills n w).2.1.st.Canonical := by
  fun_induction readScales s who fills n w <;> grind -ring -linarith -order [!readVA_canonical]

theorem hdrScales_canonical {e fills d} (h : s.st.Canonical) : (hdrScales s e fills d).2.1.st.Canonical := by
  unfold hdrScales
  grind -ring -linarith -order [!readScales_canonical]

theorem holdAccess_canonical {ctx lid t ukind unit c va ia write mask data} (h : s.st.Canonical) : (holdAccess s ctx lid t ukind
  unit c va ia write mask data).2.st.Canonical := by
  unfold holdAccess
  grind -ring -linarith -order [!appendEvent_canonical]

theorem holdSlot_canonical {e x c va mask write} (h : s.st.Canonical) : (holdSlot s e x c va mask write).st.Canonical := by
  unfold holdSlot
  grind -ring -linarith -order [!holdAccess_canonical, = setSlot_st]

theorem forwardMark_canonical {i ta tb e x k} (h : s.st.Canonical) : (forwardMark i ta tb e s x k).st.Canonical := by
  unfold forwardMark
  grind -ring -linarith -order [!emit_canonical]

@[simp] theorem consumeOff_st {i e x} : (consumeOff i e s x).st = s.st := rfl

theorem consumeOff_canonical {i e x} (h : s.st.Canonical) : (consumeOff i e s x).st.Canonical := h

theorem emitPoison_canonical {i ta tb e x} (h : s.st.Canonical) : (emitPoison i ta tb e s x).st.Canonical := by
  unfold emitPoison
  grind -ring -linarith -order [!emit_canonical]

theorem takeHeader_canonical {op e x q tok} (h : s.st.Canonical) : (takeHeader op e s x q tok).st.Canonical := by
  unfold takeHeader
  grind -ring -linarith -order [!emit_canonical, = setSlot_st, !raiseUnit_canonical, !hdrScales_canonical, !holdSlot_canonical]

theorem markMis_canonical {e x} (h : s.st.Canonical) : (markMis s e x).st.Canonical := by
  unfold markMis
  grind -ring -linarith -order [!raiseUnit_canonical, = setSlot_st]

theorem dropMark_canonical {e x a b} (h : s.st.Canonical) : (dropMark s e x a b).st.Canonical := by
  unfold dropMark
  grind -ring -linarith -order [= setSlot_st, !markMis_canonical]

theorem dataFire_canonical {op : SlotOp} {e x} (ho : op.Canonical) (h : s.st.Canonical) : (dataFire op e s x).st.Canonical := by
  have hf := ho.fire (e := e) (x := x) h
  have hp := ho.poison (e := e) (x := x) h
  have hoff := ho.off (e := e) (x := x) h
  unfold dataFire
  grind -ring -linarith -order [!markMis_canonical]

theorem classify_canonical {op : SlotOp} {e x} (ho : op.Canonical) (h : s.st.Canonical) : (classify op e s x).st.Canonical := by
  have hd := dataFire_canonical (e := e) (x := x) ho h
  have hm := fun a => ho.mark (e := e) (x := x) (a := a) h
  have hx := fun a b => ho.mixed (e := e) (x := x) (a := a) (b := b) h
  unfold classify
  grind -ring -linarith -order [!emit_canonical]

theorem slotRun_canonical {op : SlotOp} {e x} (ho : op.Canonical) (h : s.st.Canonical) : (slotRun op e s x).st.Canonical := by
  have hc := classify_canonical (e := e) (x := x) ho h
  unfold slotRun
  grind -ring -linarith -order [!emit_canonical, !takeHeader_canonical, = setSlot_st]

theorem onSlot_canonical {op : SlotOp} (ho : op.Canonical) (h : s.st.Canonical) : Out.Canonical (onSlot s op) := by
  unfold onSlot
  split
  · exact h
  · exact slotRun_canonical ho h

theorem SlotOp.plain_canonical {i ta tb accepts rewrite fire} (hf : ∀ {s} e x, s.st.Canonical → (fire e s x).st.Canonical) :
    (SlotOp.plain i ta tb accepts rewrite fire).Canonical where
  fire := hf _ _
  off := consumeOff_canonical
  poison := emitPoison_canonical
  mark := forwardMark_canonical
  mixed := markMis_canonical

theorem fireOne_canonical {i ta tb e x evs tok} (h : s.st.Canonical) : (fireOne i ta tb e s x evs tok).st.Canonical := by
  unfold fireOne
  grind -ring -linarith -order [!countEvents_canonical, !emit_canonical]

/-! ### Integer operations of the element -/

theorem intForm_canonical {i m ta tb f} (h : s.st.Canonical) : Out.Canonical (intForm s i m ta tb f) :=
  onSlot_canonical (SlotOp.plain_canonical fun _ _ h => fireOne_canonical h) h

theorem intForm1_canonical {i m ta tb f} (h : s.st.Canonical) : Out.Canonical (intForm1 s i m ta tb f) :=
  onSlot_canonical (SlotOp.plain_canonical fun _ _ h => fireOne_canonical h) h

theorem execIcmp_canonical {m ta tb} (h : s.st.Canonical) : Out.Canonical (execIcmp m ta tb s) :=
  onSlot_canonical (SlotOp.plain_canonical fun _ _ h => fireOne_canonical h) h

theorem execIsel_canonical {m ta tb} (h : s.st.Canonical) : Out.Canonical (execIsel m ta tb s) :=
  onSlot_canonical (SlotOp.plain_canonical fun _ _ h => fireOne_canonical h) h

/-! ### Floating-point operations of the element -/

theorem noHeader_canonical {i ta tb e x} (h : s.st.Canonical) : (noHeader i ta tb e s x).st.Canonical := by
  unfold noHeader
  grind -ring -linarith -order [!raiseUnit_canonical, !emitPoison_canonical]

theorem fltForm_canonical {i m ta tb f} (h : s.st.Canonical) : Out.Canonical (fltForm s i m ta tb f) := by
  refine onSlot_canonical (SlotOp.plain_canonical fun e x h => ?_) h
  split
  · exact fireOne_canonical h
  · exact noHeader_canonical h

theorem fltForm1_canonical {i m ta tb f} (h : s.st.Canonical) : Out.Canonical (fltForm1 s i m ta tb f) := by
  refine onSlot_canonical (SlotOp.plain_canonical fun e x h => ?_) h
  split
  · exact fireOne_canonical h
  · exact noHeader_canonical h

theorem execFcmp_canonical {m ta tb} (h : s.st.Canonical) : Out.Canonical (execFcmp m ta tb s) := by
  refine onSlot_canonical (SlotOp.plain_canonical fun e x h => ?_) h
  split
  · exact fireOne_canonical h
  · exact noHeader_canonical h

theorem accAfter_canonical {i ta tb w e x y evs} (h : s.st.Canonical) : (accAfter i ta tb w e s x y evs).st.Canonical := by
  unfold accAfter
  grind -ring -linarith -order [!countEvents_canonical, !emit_canonical]

theorem accPoisoned_canonical {i ta tb e x} (h : s.st.Canonical) : (accPoisoned i ta tb e s x).st.Canonical := by
  unfold accPoisoned
  grind -ring -linarith -order [!emit_canonical]

theorem accMark_canonical {i ta tb w e x k} (h : s.st.Canonical) : (accMark i ta tb w e s x k).st.Canonical := by
  unfold accMark
  grind -ring -linarith -order [!emit_canonical, !forwardMark_canonical]

theorem accForm_canonical {i y ta tb fire} (hf : ∀ {s} e x, s.st.Canonical → (fire e s x).st.Canonical) (h : s.st.Canonical) :
    Out.Canonical (accForm s i y ta tb fire) :=
  onSlot_canonical ⟨hf _ _, consumeOff_canonical, accPoisoned_canonical, accMark_canonical, markMis_canonical⟩ h

theorem execFmac_canonical {m ta tb} (h : s.st.Canonical) : Out.Canonical (execFmac m ta tb s) := by
  unfold execFmac
  grind -ring -linarith -order [Out.Canonical, !accForm_canonical, !accAfter_canonical, !raiseUnit_canonical,
    !accPoisoned_canonical]

theorem execAcc_canonical {m ta tb} (h : s.st.Canonical) : Out.Canonical (execAcc m ta tb s) := by
  unfold execAcc
  grind -ring -linarith -order [Out.Canonical, !accForm_canonical, !accAfter_canonical, !raiseUnit_canonical,
    !accPoisoned_canonical]

/-! ### Conversions -/

theorem cvtForm_canonical {i sat rm ta tb srcOk f} (h : s.st.Canonical) : Out.Canonical (cvtForm s i sat rm ta tb srcOk f) := by
  refine onSlot_canonical (SlotOp.plain_canonical fun e x h => ?_) h
  split
  · exact noHeader_canonical h
  · exact countEvents_canonical (emit_canonical h)

theorem execPack_canonical {ta tb} (h : s.st.Canonical) : Out.Canonical (execPack ta tb s) :=
  onSlot_canonical (SlotOp.plain_canonical fun _ _ h => fireOne_canonical h) h

theorem execUnpack_canonical {ta tb} (h : s.st.Canonical) : Out.Canonical (execUnpack ta tb s) := by
  refine onSlot_canonical (SlotOp.plain_canonical fun e x h => ?_) h
  dsimp only
  split <;> exact emit_canonical h

theorem execTunp_canonical {ta tb} (h : s.st.Canonical) : Out.Canonical (execTunp ta tb s) := by
  refine onSlot_canonical (SlotOp.plain_canonical fun e x h => ?_) h
  dsimp only
  split
  · exact holdSlot_canonical h
  · exact countEvents_canonical (emit_canonical h)

/-! ### Lane operations -/

theorem redLane_canonical {i m ta tb k} (h : s.st.Canonical) : Out.Canonical (redLane s i m ta tb k) := by
  refine onSlot_canonical (SlotOp.plain_canonical fun e x h => ?_) h
  grind -ring -linarith -order [!fireOne_canonical, !noHeader_canonical]

theorem execLscan_canonical {m ta tb} (h : s.st.Canonical) : Out.Canonical (execLscan m ta tb s) := by
  refine onSlot_canonical (SlotOp.plain_canonical fun e x h => ?_) h
  grind -ring -linarith -order [!fireOne_canonical, !noHeader_canonical]

theorem execLshuf_canonical {m ta tb} (h : s.st.Canonical) : Out.Canonical (execLshuf m ta tb s) := by
  refine onSlot_canonical (SlotOp.plain_canonical fun e x h => ?_) h
  grind -ring -linarith -order [!fireOne_canonical, !noHeader_canonical]

theorem execLbcast_canonical {m ta tb} (h : s.st.Canonical) : Out.Canonical (execLbcast m ta tb s) := by
  refine onSlot_canonical (SlotOp.plain_canonical fun e x h => ?_) h
  grind -ring -linarith -order [!fireOne_canonical, !noHeader_canonical]

theorem execLcmpr_canonical {m ta tb} (h : s.st.Canonical) : Out.Canonical (execLcmpr m ta tb s) := by
  refine onSlot_canonical (SlotOp.plain_canonical fun e x h => ?_) h
  grind -ring -linarith -order [!noHeader_canonical, !countEvents_canonical, !emit_canonical]

theorem winnowMark_canonical {i ta tb e x k} (h : s.st.Canonical) : (winnowMark i ta tb e s x k).st.Canonical := by
  unfold winnowMark
  grind -ring -linarith -order [!forwardMark_canonical]

theorem execWinnow_canonical {m ta tb} (h : s.st.Canonical) : Out.Canonical (execWinnow m ta tb s) := by
  refine onSlot_canonical ⟨?_, consumeOff_canonical, emitPoison_canonical, winnowMark_canonical, markMis_canonical⟩ h
  intro e s x h
  simp only [SlotOp.plain]
  grind -ring -linarith -order [!noHeader_canonical, !countEvents_canonical, !emit_canonical, = setSlot_st]

/-! ### Stream operations of the element -/

theorem joinPoison_canonical {ta tb e x} (h : s.st.Canonical) : (joinPoison ta tb e s x).st.Canonical := by
  unfold joinPoison
  grind -ring -linarith -order [!emit_canonical]

theorem joinFire_canonical {y ta tb e x} (h : s.st.Canonical) : (joinFire y ta tb e s x).st.Canonical := by
  unfold joinFire
  grind -ring -linarith -order [!raiseUnit_canonical, !joinPoison_canonical, !countEvents_canonical, = setSlot_st,
    !emit_canonical]

theorem joinMixed_canonical {op y e x a b} (h : s.st.Canonical) : (joinMixed op y e s x a b).st.Canonical := by
  unfold joinMixed
  grind -ring -linarith -order [!markMis_canonical, = setSlot_st, !joinPoison_canonical, !joinFire_canonical]

theorem execSjoin_canonical {m ta tb} (h : s.st.Canonical) : Out.Canonical (execSjoin m ta tb s) :=
  onSlot_canonical ⟨joinFire_canonical, consumeOff_canonical, emitPoison_canonical, forwardMark_canonical, joinMixed_canonical⟩ h

theorem execPass_canonical {ta tb} (h : s.st.Canonical) : Out.Canonical (execPass ta tb s) :=
  onSlot_canonical ⟨fireOne_canonical, consumeOff_canonical, emitPoison_canonical, forwardMark_canonical, markMis_canonical⟩ h

theorem execConst_canonical {ta tb} (h : s.st.Canonical) : Out.Canonical (execConst ta tb s) :=
  onSlot_canonical ⟨fireOne_canonical, consumeOff_canonical, emitPoison_canonical, forwardMark_canonical, markMis_canonical⟩ h

theorem iotaRun_canonical {y ta tb e x} (h : s.st.Canonical) : (iotaRun y ta tb e s x).st.Canonical := by
  unfold iotaRun
  grind -ring -linarith -order [!emit_canonical, !countEvents_canonical, = setSlot_st]

theorem execIota_canonical {m ta tb} (h : s.st.Canonical) : Out.Canonical (execIota m ta tb s) := by
  unfold execIota
  grind -ring -linarith -order [Out.Canonical, !iotaRun_canonical]

/-! ### Memory-port operations -/

theorem portFinish_canonical {e x i k v} (h : s.st.Canonical) : (portFinish s e x i k v).st.Canonical := by
  unfold portFinish
  grind -ring -linarith -order [!emit_canonical]

theorem portPoison_canonical {i k e x} (h : s.st.Canonical) : (portPoison i k e s x).st.Canonical := by
  unfold portPoison
  grind -ring -linarith -order [!portFinish_canonical, !raiseUnit_canonical]

theorem portOff_canonical {i k e x} (h : s.st.Canonical) : (portOff i k e s x).st.Canonical := by
  unfold portOff
  grind -ring -linarith -order [!portFinish_canonical]

theorem portFire_canonical {i k d e x} (h : s.st.Canonical) : (portFire i k d e s x).st.Canonical := by
  refine stored_iff_canonical.1 ?_
  unfold portFire
  refine ite_stored h (ite_stored (portOff_canonical h) (ite_stored (portFinish_canonical h) (ite_stored h ?_)))
  extract_lets disp va wr
  clear_value disp va wr
  split
  · exact stored_iff_canonical.2 (holdSlot_canonical h)
  · refine ite_stored (holdSlot_canonical h) (ite_stored (holdSlot_canonical h) ?_)
    exact stored_iff_canonical.2 (by rwa [setSlot_st, bindRead_st])

theorem portOp_canonical {i k d} : (portOp i k d).Canonical where
  fire := portFire_canonical
  off := portOff_canonical
  poison := portPoison_canonical
  mark := forwardMark_canonical
  mixed {e s x a b} h := by
    have hd := dropMark_canonical (e := e) (x := x) (a := a) (b := b) h
    have hm := markMis_canonical (e := e) (x := x) h
    unfold portOp
    grind -ring -linarith -order

theorem portPerform_canonical {e x k p} (h : s.st.Canonical) : (portPerform s e x k p).2.st.Canonical := by
  unfold portPerform
  grind -ring -linarith -order [!iaAccess_canonical, !iaPerform_canonical]

theorem execMemoryPortComplete_canonical (h : s.st.Canonical) : Out.Canonical (execMemoryPortComplete s) := by
  unfold execMemoryPortComplete
  grind -ring -linarith -order [Out.Canonical, !holdSlot_canonical, = fifoAsk_st, !portPerform_canonical, !countEvents_canonical,
    !portFinish_canonical]

/-! ### Router operators -/

@[simp] theorem popIn_st {e u inp} : (popIn s e u inp).st = s.st := by simp [popIn]

@[simp] theorem outPush_st {e u o tok} : (outPush s e u o tok).st = s.st := by
  unfold outPush
  split <;> simp

@[simp] theorem outAll_st {e u os tok} : (outAll s e u os tok).st = s.st := foldl_st fun _ _ => outPush_st

theorem onUnit_canonical {kind k} (h : s.st.Canonical) (hk : ∀ e x, (k e s x).st.Canonical) :
    Out.Canonical (onUnit s kind k) := by
  simp only [onUnit]
  split
  · simp only [Out.Canonical]
    split
    · exact hk _ _
    · exact h
  · exact h

theorem raiseOp_canonical {e c} (h : s.st.Canonical) : (raiseOp s e c).st.Canonical := by
  unfold raiseOp
  grind -ring -linarith -order [!raiseUnit_canonical]

theorem opMis_canonical {e x} (h : s.st.Canonical) : (opMis s e x).st.Canonical := by
  unfold opMis
  grind -ring -linarith -order [!raiseOp_canonical, = setUnit_st]

theorem lockstep_canonical {e x ins outs hs} (h : s.st.Canonical) : (lockstep s e x ins outs hs).st.Canonical := by
  unfold lockstep
  repeat' split
  all_goals simp [foldl_st, opMis_canonical, h]

@[simp] theorem passHeader_st {e inp outs tok} : (passHeader s e inp outs tok).st = s.st := by
  unfold passHeader
  split <;> simp

theorem execSteer_canonical (h : s.st.Canonical) : Out.Canonical (execSteer s) := by
  refine onUnit_canonical h fun e x => ?_
  repeat' with_reducible refine ite_canonical ?_ ?_
  all_goals repeat' split
  all_goals simp [opMis_canonical, lockstep_canonical, h]

theorem execMerge_canonical (h : s.st.Canonical) : Out.Canonical (execMerge s) := by
  refine onUnit_canonical h fun e x => ?_
  dsimp only
  repeat' with_reducible refine ite_canonical ?_ ?_
  all_goals repeat' split
  all_goals simp [opMis_canonical, lockstep_canonical, h]

theorem execSelect_canonical (h : s.st.Canonical) : Out.Canonical (execSelect s) := by
  refine onUnit_canonical h fun e x => ?_
  dsimp only
  repeat' with_reducible refine ite_canonical ?_ ?_
  all_goals repeat' split
  all_goals simp [opMis_canonical, lockstep_canonical, h]

theorem execFilter_canonical (h : s.st.Canonical) : Out.Canonical (execFilter s) := by
  unfold execFilter
  grind -ring -linarith -order [Out.Canonical, !onUnit_canonical, = popIn_st, = outPush_st, = setUnit_st]

@[simp] theorem absorb_st {e x inp b k} : (absorb s e x inp b k).st = s.st := by simp [absorb]

theorem execCarry_canonical (h : s.st.Canonical) : Out.Canonical (execCarry s) := by
  refine onUnit_canonical h fun e x => ?_
  dsimp only
  repeat' with_reducible refine ite_canonical ?_ ?_
  all_goals repeat' split
  all_goals simp [opMis_canonical, h]

@[simp] theorem invarCounted_st {rpt e x} : (invarCounted rpt e s x).st = s.st := by
  unfold invarCounted
  grind -ring -linarith -order [= outPush_st, = setUnit_st, = popIn_st]

theorem invarDriven_canonical {e x} (h : s.st.Canonical) : (invarDriven e s x).st.Canonical := by
  unfold invarDriven
  dsimp only
  repeat' with_reducible refine ite_canonical ?_ ?_
  all_goals repeat' split
  all_goals simp [opMis_canonical, h]

theorem execInvar_canonical (h : s.st.Canonical) : Out.Canonical (execInvar s) := by
  unfold execInvar
  grind -ring -linarith -order [Out.Canonical, !onUnit_canonical, = invarCounted_st, !invarDriven_canonical]

@[simp] theorem countRun_st {e x i base} : (countRun e s x i base).st = s.st := by
  unfold countRun
  grind -ring -linarith -order [= outPush_st, = setUnit_st]

theorem execCount_canonical (h : s.st.Canonical) : Out.Canonical (execCount s) := by
  refine onUnit_canonical h fun e x => ?_
  dsimp only
  repeat' with_reducible refine ite_canonical ?_ ?_
  all_goals repeat' split
  all_goals simp [h]

theorem execDistrib_canonical (h : s.st.Canonical) : Out.Canonical (execDistrib s) := by
  refine onUnit_canonical h fun e x => ?_
  dsimp only
  repeat' with_reducible refine ite_canonical ?_ ?_
  all_goals repeat' split
  all_goals simp [opMis_canonical, h]

theorem execCollect_canonical (h : s.st.Canonical) : Out.Canonical (execCollect s) := by
  refine onUnit_canonical h fun e x => ?_
  dsimp only
  repeat' with_reducible refine ite_canonical ?_ ?_
  all_goals repeat' split
  all_goals simp [opMis_canonical, h]

theorem execTap_canonical (h : s.st.Canonical) : Out.Canonical (execTap s) := by
  unfold execTap
  grind -ring -linarith -order [Out.Canonical, !onUnit_canonical, = outPush_st, = setUnit_st, = popIn_st]

theorem execSealOperator_canonical (h : s.st.Canonical) : Out.Canonical (execSealOperator s) := by
  unfold execSealOperator
  grind -ring -linarith -order [Out.Canonical, !onUnit_canonical, = setUnit_st, = popIn_st, = outPush_st]

@[simp] theorem ctlPush_st {e k tok} : (ctlPush s e k tok).st = s.st := by simp [ctlPush]

@[simp] theorem childPop_st {e j} : (childPop s e j).st = s.st := by simp [childPop]

theorem ctlChild_canonical {e x j tok} (h : s.st.Canonical) : (ctlChild e s x j tok).st.Canonical := by
  unfold ctlChild
  grind -ring -linarith -order [= childPop_st, !raiseOp_canonical, = setUnit_st]

theorem ctlSend_st {e x js s'} (he : ctlSend e s x js = some s') : s'.st = s.st := by
  induction js with
  | nil => cases he
  | cons j js ih =>
    unfold ctlSend at he
    split at he
    · cases he; simp
    · split at he
      · cases he; simp
      · exact ih he

@[simp] theorem ctlForward_st {e x n k} : (ctlForward e s x n k).st = s.st := by
  unfold ctlForward
  split
  · rw [foldl_st fun _ _ => ctlPush_st]
    dsimp only
    split <;> simp
  · rfl

theorem ctlParent_canonical {e x tok} (h : s.st.Canonical) : (ctlParent e s x tok).st.Canonical := by
  unfold ctlParent
  grind -ring -linarith -order [= popIn_st, = setUnit_st, !raiseOp_canonical]

theorem controlRun_canonical {e x} (h : s.st.Canonical) : (controlRun e s x).st.Canonical := by
  have hsend : ∀ {js s'}, ctlSend e s x js = some s' → s'.st.Canonical := fun he => by rwa [ctlSend_st he]
  unfold controlRun
  dsimp only
  repeat' split
  any_goals exact hsend ‹_›
  all_goals simp [foldl_st, ctlChild_canonical, ctlParent_canonical, h]

theorem execControl_canonical (h : s.st.Canonical) : Out.Canonical (execControl s) := by
  unfold execControl
  grind -ring -linarith -order [Out.Canonical, !onUnit_canonical, !controlRun_canonical]

/-! ### Fragments and harrow mode -/

theorem matrixOp_canonical {i ta tb accepts onPermit fire off poison mark}
    (hf : ∀ {s} e x, s.st.Canonical → (fire e s x).st.Canonical) (ho : ∀ {s} e x, s.st.Canonical → (off e s x).st.Canonical)
    (hp : ∀ {s} e x, s.st.Canonical → (poison e s x).st.Canonical) (hm : ∀ {s} e x k, s.st.Canonical → (mark e s x
      k).st.Canonical) :
    (matrixOp i ta tb accepts onPermit fire off poison mark).Canonical where
  fire {e s x} h := by
    dsimp only [matrixOp]
    split
    · exact hf e x h
    · exact h
  off {e s x} h := by
    dsimp only [matrixOp]
    split
    · exact ho e x h
    · exact h
  poison {e s x} h := by
    dsimp only [matrixOp]
    split
    · exact hp e x h
    · exact h
  mark {e s x k} h := by
    dsimp only [matrixOp]
    split
    · exact hm e x k h
    · exact h
  mixed := markMis_canonical

theorem mwldDone_canonical {e x ta tb} (h : s.st.Canonical) : (mwldDone e s x ta tb).st.Canonical := by
  unfold mwldDone
  grind -ring -linarith -order [= setFrag_st, !emit_canonical]

theorem mwldToken_canonical {i ta tb e x fmt rows poisoned} (h : s.st.Canonical) : (mwldToken i ta tb e s x fmt rows
  poisoned).st.Canonical := by
  unfold mwldToken
  grind -ring -linarith -order [= setFrag_st, !mwldDone_canonical, = setSlot_st]

theorem mwldPoison_canonical {i ta tb e x} (h : s.st.Canonical) : (mwldPoison i ta tb e s x).st.Canonical := by
  unfold mwldPoison
  grind -ring -linarith -order [!mwldToken_canonical]

theorem execMwld_canonical {ta tb} (h : s.st.Canonical) : Out.Canonical (execMwld ta tb s) := by
  refine onSlot_canonical (matrixOp_canonical (fun e x h => ?_) (fun _ _ => consumeOff_canonical) (fun _ _ =>
    mwldPoison_canonical)
    fun e x k h => ?_) h
  · grind -ring -linarith -order [!raiseUnit_canonical, !mwldPoison_canonical, !countEvents_canonical, !mwldToken_canonical]
  · grind -ring -linarith -order [!mwldDone_canonical, !forwardMark_canonical]

theorem mfeedRows_canonical {i e decoded f skip l x} (h : s.st.Canonical) : (mfeedRows i e decoded f skip l s x).st.Canonical :=
  by
  fun_induction mfeedRows i e decoded f skip l s x <;> grind -ring -linarith -order [= setSlot_st, !holdSlot_canonical, =
    setFrag_st,
    !countEvents_canonical]

theorem mfeedPoison_canonical {i e x} (h : s.st.Canonical) : (mfeedPoison i e s x).st.Canonical := by
  unfold mfeedPoison
  grind -ring -linarith -order [!mfeedRows_canonical]

theorem mfeedFire_canonical {i e x} (h : s.st.Canonical) : (mfeedFire i e s x).st.Canonical := by
  unfold mfeedFire
  grind -ring -linarith -order [!mfeedPoison_canonical, !raiseUnit_canonical, !countEvents_canonical, !mfeedRows_canonical]

theorem execMfeed_canonical {ta tb} (h : s.st.Canonical) : Out.Canonical (execMfeed ta tb s) := by
  refine onSlot_canonical (matrixOp_canonical (fun _ _ => mfeedFire_canonical) (fun _ _ => consumeOff_canonical)
    (fun _ _ => mfeedPoison_canonical) fun e x k h => ?_) h
  grind -ring -linarith -order [!emit_canonical, = setFrag_st, !forwardMark_canonical]

theorem drainStep_canonical {i ta tb e x} (h : s.st.Canonical) : (drainStep i ta tb e s x).st.Canonical := by
  unfold drainStep
  grind -ring -linarith -order [= setFrag_st, !countEvents_canonical, !emit_canonical]

theorem execMdrain_canonical {ta tb} (h : s.st.Canonical) : Out.Canonical (execMdrain ta tb s) :=
  onSlot_canonical (matrixOp_canonical (fun _ _ => drainStep_canonical) (fun _ _ => consumeOff_canonical)
    (fun _ _ => emitPoison_canonical) fun _ _ _ => forwardMark_canonical) h

theorem execMzero_canonical {ta tb} (h : s.st.Canonical) : Out.Canonical (execMzero ta tb s) :=
  onSlot_canonical (matrixOp_canonical (fun _ _ h => emit_canonical h) (fun _ _ => consumeOff_canonical)
    (fun _ _ => emitPoison_canonical) fun _ _ _ => forwardMark_canonical) h

theorem execMwin_canonical (h : s.st.Canonical) : Out.Canonical (execMwin s) := by
  unfold execMwin
  grind -ring -linarith -order [Out.Canonical, = setSlot_st, = setFrag_st]

theorem execMtwid_canonical {ta tb} (h : s.st.Canonical) : Out.Canonical (execMtwid ta tb s) := by
  refine onSlot_canonical (matrixOp_canonical (fun e x h => ?_) (fun _ _ => consumeOff_canonical) (fun _ _ =>
    emitPoison_canonical)
    fun _ _ _ => forwardMark_canonical) h
  split
  · exact h
  · simpa using h

theorem execTwiddleFillDone_canonical (h : s.st.Canonical) : Out.Canonical (execTwiddleFillDone s) := by
  unfold execTwiddleFillDone
  grind -ring -linarith -order [Out.Canonical, !emit_canonical]

theorem mharrowFire_canonical {i d ta tb e x} (h : s.st.Canonical) : (mharrowFire i d ta tb e s x).st.Canonical := by
  refine stored_iff_canonical.1 ?_
  unfold mharrowFire
  refine ite_stored h (ite_stored (raiseUnit_canonical (emitPoison_canonical h)) (ite_stored h ?_))
  extract_lets a va size last
  clear_value a va size last
  split
  · exact stored_iff_canonical.2 (holdSlot_canonical h)
  · refine ite_stored (holdSlot_canonical h) (ite_stored (holdSlot_canonical h) ?_)
    split
    · exact stored_iff_canonical.2 (holdSlot_canonical h)
    · refine ite_stored (holdSlot_canonical h) ?_
      exact stored_iff_canonical.2 (by rwa [setSlot_st, bindRead_st])

theorem execMharrow_canonical {d ta tb} (h : s.st.Canonical) : Out.Canonical (execMharrow d ta tb s) :=
  onSlot_canonical (matrixOp_canonical (fun _ _ => mharrowFire_canonical) (fun _ _ => consumeOff_canonical)
    (fun _ _ => emitPoison_canonical) fun _ _ _ => forwardMark_canonical) h

theorem stagePerform_canonical {e x va} (h : s.st.Canonical) : (stagePerform s e x va).2.st.Canonical := by
  unfold stagePerform
  grind -ring -linarith -order [!readVA_canonical, !writeVA_canonical]

theorem execHarrowStageComplete_canonical (h : s.st.Canonical) : Out.Canonical (execHarrowStageComplete s) := by
  unfold execHarrowStageComplete
  grind -ring -linarith -order [Out.Canonical, !stagePerform_canonical, !countEvents_canonical, !emit_canonical,
    !holdSlot_canonical]

/-! ### Address generators and streams -/

@[simp] theorem setStream_st {e r} : (setStream s e r).st = s.st := rfl

@[simp] theorem endStream_st {e r} : (endStream s e r).st = s.st := rfl

theorem raiseGen_canonical {e r c} (h : s.st.Canonical) : (raiseGen s e r c).st.Canonical := by
  unfold raiseGen
  grind -ring -linarith -order [!appendEvent_canonical]

theorem holdGen_canonical {e r c va ia wr mask data} (h : s.st.Canonical) : (holdGen s e r c va ia wr mask data).st.Canonical :=
  by
  unfold holdGen
  grind -ring -linarith -order [!holdAccess_canonical, = setStream_st]

@[simp] theorem fillBufs_st {t wr level r l} : (fillBufs t wr level s r l).1.st = s.st := by
  induction l generalizing s r with
  | nil => rfl
  | cons b bs ih =>
    unfold fillBufs
    dsimp only
    split
    · rw [ih]
      split
      · exact setRegion_st ..
      · split
        · exact setRegion_st ..
        · rfl
    · exact ih

@[simp] theorem fillPoint_st {e r level} : (fillPoint s e r level).1.st = s.st := by
  unfold fillPoint
  dsimp only
  split
  · exact fillBufs_st
  · refine (foldl_st fun u k => ?_).trans fillBufs_st
    split <;> rfl

@[simp] theorem rowWritten_st {e r ia n} : (rowWritten s e r ia n).1.st = s.st := by
  unfold rowWritten
  grind -ring -linarith -order [= setRegion_st]

theorem packPoison_canonical {e r c} (h : s.st.Canonical) : (packPoison s e r c).st.Canonical := by
  unfold packPoison
  grind -ring -linarith -order [= setStream_st, !raiseGen_canonical]

@[simp] theorem readEnd_st {e r} : (readEnd s e r).st = s.st := by simp [readEnd]

@[simp] theorem headRead_st {e r va ia cls k} : (headRead s e r va ia cls k).st = s.st := by
  unfold headRead
  grind -ring -linarith -order [= setStream_st]

theorem readElem_canonical {e r va k} (h : s.st.Canonical) : (readElem s e r va k).st.Canonical := by
  unfold readElem
  grind -ring -linarith -order [!holdGen_canonical, = bindRead_st, = headRead_st, !apart_canonical, = setStream_st, = dropTorn_st,
    !packPoison_canonical]

theorem sendOut_canonical {e r tok rest} (h : s.st.Canonical) : (sendOut s e r tok rest).st.Canonical := by
  unfold sendOut
  grind -ring -linarith -order [!egressPush_canonical, = endStream_st, = setStream_st]

@[simp] theorem genAsk_st {e r k push tok} : (genAsk s e r k push tok).st = s.st := by
  unfold genAsk
  split <;> simp

theorem readNext_canonical {e r} (h : s.st.Canonical) : (readNext s e r).st.Canonical := by
  unfold readNext
  grind -ring -linarith -order [= setStream_st, = genAsk_st, !readElem_canonical, = readEnd_st]

theorem execGeneratorElement_canonical (h : s.st.Canonical) : Out.Canonical (execGeneratorElement s) := by
  unfold execGeneratorElement
  grind -ring -linarith -order [Out.Canonical, !sendOut_canonical, = setStream_st, = readEnd_st, !fillPoint_st,
    !readNext_canonical]

theorem performRun_canonical {e r i} (h : s.st.Canonical) : (performRun s e r i).st.Canonical := by
  unfold performRun
  grind -ring -linarith -order [!iaAccess_canonical, = pageStarve_st, = setStream_st, !raiseGen_canonical, !holdGen_canonical]

theorem execGatherReply_canonical (h : s.st.Canonical) : Out.Canonical (execGatherReply s) := by
  unfold execGatherReply
  grind -ring -linarith -order [Out.Canonical, = setStream_st, !chooseNext_st, !performRun_canonical]

@[simp] theorem popCoord_st {e r} : (popCoord s e r).st = s.st := by simp [popCoord]

theorem flushMerge_canonical {e r} (h : s.st.Canonical) : (flushMerge s e r).st.Canonical := by
  unfold flushMerge
  grind -ring -linarith -order [!iaPerform_canonical, = setStream_st, !holdGen_canonical]

theorem coordNext_canonical {e r tok i} (h : s.st.Canonical) : (coordNext s e r tok i).st.Canonical := by
  unfold coordNext
  grind -ring -linarith -order [= setStream_st, = popCoord_st, !flushMerge_canonical, !holdGen_canonical]

@[simp] theorem coordOther_st {e r tok} : (coordOther s e r tok).st = s.st := by
  unfold coordOther
  grind -ring -linarith -order [= setStream_st, = popCoord_st, = readEnd_st, !fillPoint_st]

theorem execCoordinateToken_canonical (h : s.st.Canonical) : Out.Canonical (execCoordinateToken s) := by
  unfold execCoordinateToken
  dsimp only
  repeat' split
  all_goals simp [Out.Canonical, coordNext_canonical, h]

@[simp] theorem popData_st {e r} : (popData s e r).st = s.st := by simp [popData]

theorem writeElem_canonical {e r va bs k} (h : s.st.Canonical) : (writeElem s e r va bs k).st.Canonical := by
  unfold writeElem
  grind -ring -linarith -order [!holdGen_canonical, !flushMerge_canonical, = setStream_st, = bindRead_st, !apart_canonical,
    !rowWritten_st, =
    dropTorn_st]

theorem writeSlot_canonical {e r tok j} (h : s.st.Canonical) : (writeSlot s e r tok j).st.Canonical := by
  unfold writeSlot
  grind -ring -linarith -order [= setStream_st, = genAsk_st, !writeElem_canonical]

theorem sparseSlot_canonical {e r meta'} (h : s.st.Canonical) : (sparseSlot s e r meta').st.Canonical := by
  unfold sparseSlot
  grind -ring -linarith -order [= setStream_st, !raiseGen_canonical, !writeElem_canonical]

theorem writeToken_canonical {e r tok} (h : s.st.Canonical) : (writeToken s e r tok).st.Canonical := by
  unfold writeToken
  grind -ring -linarith -order [= popData_st, = setStream_st, !fillPoint_st, !raiseGen_canonical, = popCoord_st]

theorem execWriteStreamToken_canonical (h : s.st.Canonical) : Out.Canonical (execWriteStreamToken s) := by
  unfold execWriteStreamToken
  grind -ring -linarith -order [Out.Canonical, !flushMerge_canonical, !writeSlot_canonical, !sparseSlot_canonical,
    !writeToken_canonical]

theorem execWriteStreamEnd_canonical (h : s.st.Canonical) : Out.Canonical (execWriteStreamEnd s) := by
  unfold execWriteStreamEnd
  grind -ring -linarith -order [Out.Canonical, !sendOut_canonical]

@[simp] theorem fifoDone_st {k q} : (fifoDone s k q).st = s.st := rfl

theorem fifoSlotDone_canonical {t n tok} (h : s.st.Canonical) : (fifoSlotDone s t n tok).st.Canonical := by
  unfold fifoSlotDone
  grind -ring -linarith -order [!portFinish_canonical]

theorem fifoSlotHeld_canonical {t n c wr} (h : s.st.Canonical) : (fifoSlotHeld s t n c wr).st.Canonical := by
  unfold fifoSlotHeld
  grind -ring -linarith -order [!holdSlot_canonical]

@[simp] theorem fifoGenDone_st {t g tok} : (fifoGenDone s t g tok).st = s.st := by
  unfold fifoGenDone
  grind -ring -linarith -order [= setStream_st]

theorem fifoGenFault_canonical {t g c} (h : s.st.Canonical) : (fifoGenFault s t g c).st.Canonical := by
  unfold fifoGenFault
  grind -ring -linarith -order [!holdGen_canonical, !packPoison_canonical]

theorem fifoCore_canonical {t id} (h : s.st.Canonical) : (fifoCore s t id).st.Canonical := by
  unfold fifoCore
  grind -ring -linarith -order [!performStep_canonical]

theorem fifoPushWatched_canonical {who t r q} (h : s.st.Canonical) : (fifoPushWatched s who t r q).2.st.Canonical := by
  unfold fifoPushWatched
  grind -ring -linarith -order [!fifoPushNow_canonical, !watchCheck_canonical]

theorem execFifoPush_canonical (h : s.st.Canonical) : Out.Canonical (execFifoPush s) := by
  unfold execFifoPush
  grind -ring -linarith -order [Out.Canonical, = fifoDone_st, !fifoCore_canonical, !fifoPushWatched_canonical,
    !fifoSlotDone_canonical,
    !fifoSlotHeld_canonical, = fifoGenDone_st, !fifoGenFault_canonical]

theorem execFifoPop_canonical (h : s.st.Canonical) : Out.Canonical (execFifoPop s) := by
  unfold execFifoPop
  dsimp only
  split
  · exact h
  · rename_i q _
    have hq : (fifoDone s (s.op 0 * 8 + s.op 1) q).st.Canonical := by simpa using h
    grind -ring -linarith -order [Out.Canonical, !fifoCore_canonical, !fifoHeadToken_canonical, !fifoSlotDone_canonical, =
      fifoAdvance_st,
      !fifoSlotHeld_canonical, = fifoGenDone_st, !fifoGenFault_canonical]

/-! ### The course of a section -/

theorem execStopEdgeRequest_canonical (h : s.st.Canonical) : Out.Canonical (execStopEdgeRequest s) := by
  unfold execStopEdgeRequest
  grind -ring -linarith -order [Out.Canonical, = setSec_st]

theorem execSectionIdle_canonical (h : s.st.Canonical) : Out.Canonical (execSectionIdle s) := by
  unfold execSectionIdle
  grind -ring -linarith -order [Out.Canonical, = unbind_st, = setSec_st]

theorem areaWrite_canonical {put n a} (hp : ∀ {s a l}, s.st.Canonical → (put s a l).2.st.Canonical) (h : s.st.Canonical) :
    (areaWrite put s a n).2.st.Canonical := by
  induction n generalizing s a with
  | zero => exact h
  | succ n ih =>
    have h1 := hp (a := a) (l := (List.range 64).map (fun i => Sys2Proof.Config.freeByte (s.free + i))) h
    unfold areaWrite
    split <;> rename_i e <;> have h2 := canonical_of_eq e h1
    · exact h2
    · exact h2
    · exact ih h2

theorem storeCut_canonical {k} (h : s.st.Canonical) : (storeCut s k).2.st.Canonical := by
  have ha : ∀ {who : Who} {a n}, (areaWrite (fun s a bs => writeVA s who (BitVec.ofNat 64 a) bs) { s with free := s.free + 1 }
    a n).2.st.Canonical :=
    areaWrite_canonical writeVA_canonical h
  unfold storeCut
  dsimp only
  split
  · rename_i e
    have h1 := canonical_of_eq e ha
    split <;> rename_i e <;> exact canonical_of_eq e (writeVA_canonical h1)
  · exact ha

@[simp] theorem keepCut_st {k} : (keepCut s k).st = s.st := rfl

theorem divertSave_canonical {ctx launch} (h : s.st.Canonical) : (divertSave s ctx launch).st.Canonical := by
  unfold divertSave
  grind -ring -linarith -order [!loseContext_canonical, !hostEvent_canonical, = setCtx_st]

@[simp] theorem withdrawSec_st {k} : (withdrawSec s k).st = s.st := by simp [withdrawSec]

@[simp] theorem sectionStopped_st {k} : (sectionStopped s k).st = s.st := by
  unfold sectionStopped
  grind -ring -linarith -order [= unbind_st, = setSec_st, = withdrawSec_st]

theorem execSectionCut_canonical (h : s.st.Canonical) : Out.Canonical (execSectionCut s) := by
  unfold execSectionCut
  grind -ring -linarith -order [Out.Canonical, = setSec_st, !storeCut_canonical, = sectionStopped_st, = keepCut_st,
    !divertSave_canonical, =
    withdrawSec_st]

/-! ### Residency -/

theorem execLineEntryWriteback_canonical (h : s.st.Canonical) : Out.Canonical (execLineEntryWriteback s) := by
  unfold execLineEntryWriteback
  grind -ring -linarith -order [Out.Canonical, !writeBackLine_canonical]

@[simp] theorem answerForward_st {f c bs} : (answerForward s f c bs).st = s.st := rfl

@[simp] theorem passForward_st {f node} : (passForward s f node).st = s.st := by
  unfold passForward
  split <;> simp

theorem execForwardedAccess_canonical (h : s.st.Canonical) : Out.Canonical (execForwardedAccess s) := by
  unfold execForwardedAccess
  grind -ring -linarith -order [Out.Canonical, !lookupPage_canonical, = answerForward_st, = passForward_st,
    !iaPerform_canonical, = pageStarve_st]

theorem poolTake_st {p} {s'} {k'} (e : poolTake s p = some (k', s')) : s'.st = s.st := by
  unfold poolTake at e
  grind -ring -linarith -order [= setFpb_st]

theorem poolAppend_canonical {p f} {s'} (h : s.st.Canonical) (e : poolAppend s p f = some s') : s'.st.Canonical := by
  unfold poolAppend at e
  grind -ring -linarith -order [!physSets_canonical, = setFpb_st]

theorem poolReturn_canonical {tier f} (h : s.st.Canonical) : (poolReturn s tier f).st.Canonical := by
  unfold poolReturn
  grind -ring -linarith -order [→ poolAppend_canonical, !hostEvent_canonical]

theorem takeFrame_st {ps p s'} (e : takeFrame s ps = some (p, s')) : s'.st = s.st := by
  induction ps with
  | nil => cases e
  | cons p ps ih =>
    unfold takeFrame at e
    split at e
    · cases e; exact poolTake_st ‹_›
    · exact ih e

@[simp] theorem requestPull_st {page home node} : (requestPull s page home node).st = s.st := by
  unfold requestPull
  split <;> simp

@[simp] theorem nominate_st {e} : (nominate s e).st = s.st := by
  unfold nominate
  grind -ring -linarith -order [= requestPull_st]

theorem execHeatWindowEnd_canonical (h : s.st.Canonical) : Out.Canonical (execHeatWindowEnd s) := by
  unfold execHeatWindowEnd
  dsimp only
  split
  · exact h
  · split
    · exact h
    · simp only [Out.Canonical]
      rwa [foldl_st fun _ _ => nominate_st]

@[simp] theorem setMoving_st {page b} : (setMoving s page b).st = s.st := by
  unfold setMoving
  split <;> simp

@[simp] theorem startMove_st {e tier frame dst} : (startMove s e tier frame dst).st = s.st := by simp [startMove]

@[simp] theorem dropNoms_st {page} : (dropNoms s page).st = s.st := rfl

theorem freeNear_st {page} {s'} (e : freeNear s page = some s') : s'.st = s.st := by
  unfold freeNear at e
  grind -ring -linarith -order [→ takeFrame_st]

@[simp] theorem tellHome_st {e abandoned} : (tellHome s e abandoned).st = s.st := by
  unfold tellHome
  split <;> simp

theorem giveUpPull_canonical {page} (h : s.st.Canonical) : (giveUpPull s page).st.Canonical := by
  unfold giveUpPull
  grind -ring -linarith -order [!setDir_canonical, = sendNode_st]

theorem pullFails_canonical {e} (h : s.st.Canonical) : (pullFails s e).st.Canonical := by
  unfold pullFails
  grind -ring -linarith -order [!giveUpPull_canonical, = tellHome_st]

@[simp] theorem dropPullWords_st {page} : (dropPullWords s page).st = s.st := rfl

theorem beginSend_canonical {e node} (h : s.st.Canonical) : (beginSend s e node).st.Canonical := by
  unfold beginSend
  grind -ring -linarith -order [!pullFails_canonical, = dropNoms_st, = startMove_st]

theorem beginPull_canonical {e owner} (h : s.st.Canonical) : (beginPull s e owner).st.Canonical := by
  unfold beginPull
  grind -ring -linarith -order [→ takeFrame_st, = sendNode_st, = startMove_st, = dropNoms_st, → freeNear_st, !pullFails_canonical]

theorem beginMove_canonical {n} (h : s.st.Canonical) : (beginMove s n).st.Canonical := by
  unfold beginMove
  grind -ring -linarith -order [!lookupPage_canonical, = dropNoms_st, !beginSend_canonical, = dropPullWords_st,
    !beginPull_canonical,
    !pullFails_canonical, → takeFrame_st, = startMove_st, → freeNear_st]

@[simp] theorem setMove_st {m} : (setMove s m).st = s.st := by simp [setMove]

theorem stopMove_canonical {m} (h : s.st.Canonical) : (stopMove s m).st.Canonical := by
  unfold stopMove
  grind -ring -linarith -order [= setMoving_st, = dropPullWords_st, !poolReturn_canonical]

theorem abandonMove_canonical {m c} (h : s.st.Canonical) : (abandonMove s m c).st.Canonical := by
  unfold abandonMove
  grind -ring -linarith -order [!hostEvent_canonical, !stopMove_canonical, !pullFails_canonical, = sendNode_st]

theorem putLine_canonical {k tag bs} (h : s.st.Canonical) : (putLine s k tag bs).st.Canonical :=
  physSets_canonical h

theorem pullLine_canonical {m} (h : s.st.Canonical) : (pullLine s m).st.Canonical := by
  unfold pullLine
  grind -ring -linarith -order [!stopMove_canonical, !abandonMove_canonical, !putLine_canonical, = setMove_st]

theorem copyLine_canonical {m} (h : s.st.Canonical) : (copyLine s m).st.Canonical := by
  unfold copyLine
  grind -ring -linarith -order [!pullLine_canonical, !abandonMove_canonical, !stopMove_canonical, !lineValue_st, = setMove_st,
    = sendNode_st,
    !putLine_canonical]

theorem execTierMove_canonical (h : s.st.Canonical) : Out.Canonical (execTierMove s) := by
  unfold execTierMove
  grind -ring -linarith -order [Out.Canonical, !copyLine_canonical, !beginMove_canonical]

theorem putLeaf_canonical {e f g} (h : s.st.Canonical) : (putLeaf s e f g).st.Canonical := by
  unfold putLeaf
  grind -ring -linarith -order [!physSets_canonical]

theorem commitMove_canonical {e m g} (h : s.st.Canonical) : (commitMove s e m g).st.Canonical := by
  unfold commitMove
  grind -ring -linarith -order [!putLeaf_canonical, !poolReturn_canonical]

theorem commitPull_canonical {e m} (h : s.st.Canonical) : (commitPull s e m).st.Canonical := by
  unfold commitPull
  grind -ring -linarith -order [!pullLine_canonical, !commitMove_canonical, = dropPullWords_st]

theorem commitSend_canonical {e m node} (h : s.st.Canonical) : (commitSend s e m node).st.Canonical := by
  unfold commitSend
  grind -ring -linarith -order [!stopMove_canonical, !abandonMove_canonical, !commitMove_canonical, = dropPullWords_st,
    !registerSharer_canonical, =
    tellHome_st, = sendNode_st]

theorem execTierMoveCommit_canonical (h : s.st.Canonical) : Out.Canonical (execTierMoveCommit s) := by
  unfold execTierMoveCommit
  grind -ring -linarith -order [Out.Canonical, !commitSend_canonical, !commitPull_canonical, !commitMove_canonical]

theorem startPull_canonical {d node asker} (h : s.st.Canonical) : (startPull s d node asker).st.Canonical := by
  unfold startPull
  grind -ring -linarith -order [!setDir_canonical, = sendNode_st]

theorem servePull_canonical {p} (h : s.st.Canonical) : (servePull s p).st.Canonical := by
  unfold servePull
  grind -ring -linarith -order [= sendNode_st, !setDir_canonical, !startPull_canonical]

theorem execPullRequest_canonical (h : s.st.Canonical) : Out.Canonical (execPullRequest s) := by
  unfold execPullRequest
  grind -ring -linarith -order [Out.Canonical, !servePull_canonical]

theorem renameOwner_canonical {page node} (h : s.st.Canonical) : (renameOwner s page node).st.Canonical := by
  unfold renameOwner
  grind -ring -linarith -order [!lookupPage_canonical, !putLeaf_canonical]

theorem execOwnershipMoveComplete_canonical (h : s.st.Canonical) : Out.Canonical (execOwnershipMoveComplete s) := by
  have hshare : ∀ {page n : Nat} {u : State} (l : List Nat), u.st.Canonical → (l.foldl (fun s x =>
      if x = s.boot.node then renameOwner s page n else sendNode s x 0 [14, page, n]) u).st.Canonical := by
    intro page n u l hu
    refine foldl_canonical (fun h => ite_canonical ?_ ?_) hu
    · exact renameOwner_canonical h
    · simpa using h
  unfold execOwnershipMoveComplete
  dsimp only
  split
  · exact h
  · split
    · exact h
    · refine Out.ite_canonical h (Out.ite_canonical (giveUpPull_canonical h) (Out.ite_canonical h (hshare _ ?_)))
      split
      · simpa using setDir_canonical h
      · exact setDir_canonical h

theorem execSharerRegister_canonical (h : s.st.Canonical) : Out.Canonical (execSharerRegister s) := by
  unfold execSharerRegister
  grind -ring -linarith -order [Out.Canonical, = sendNode_st, !setDir_canonical, !recordSharer_canonical]

theorem execSharerUpdate_canonical (h : s.st.Canonical) : Out.Canonical (execSharerUpdate s) := by
  unfold execSharerUpdate
  grind -ring -linarith -order [Out.Canonical, !renameOwner_canonical]

/-! ### Held accesses -/

@[simp] theorem setHeld_st {u x} : (setHeld s u x).st = s.st := by
  unfold setHeld
  split <;> simp

theorem freeRing_canonical {ctx i t} (h : s.st.Canonical) : (freeRing s ctx i t).st.Canonical := by
  unfold freeRing
  grind -ring -linarith -order [= setCtx_st, !readVA_canonical, !writeVARaw_canonical]

theorem freeEntries_canonical {ctx u x} (h : s.st.Canonical) : (freeEntries s ctx u x).st.Canonical := by
  unfold freeEntries
  grind -ring -linarith -order [!freeRing_canonical]

theorem ringIsFull_canonical {ctx t} (h : s.st.Canonical) : (ringIsFull s ctx t).st.Canonical := by
  unfold ringIsFull
  grind -ring -linarith -order [!hostEvent_canonical, = setCtx_st]

theorem moveToRing_canonical {ctx u x} (h : s.st.Canonical) : (moveToRing s ctx u x).st.Canonical := by
  unfold moveToRing
  grind -ring -linarith -order [!ringIsFull_canonical, !writeVARaw_canonical, !freeEntries_canonical, = setHeld_st, = setCtx_st]

theorem execRetryRingMove_canonical (h : s.st.Canonical) : Out.Canonical (execRetryRingMove s) := by
  unfold execRetryRingMove
  grind -ring -linarith -order [Out.Canonical, !moveToRing_canonical]

theorem reissueFront_canonical {t g r} (h : s.st.Canonical) : (reissueFront s t g r).st.Canonical := by
  unfold reissueFront
  grind -ring -linarith -order [!holdGen_canonical, = setStream_st]

theorem reissueMerge_canonical {t g r} (h : s.st.Canonical) : (reissueMerge s t g r).st.Canonical := by
  unfold reissueMerge
  grind -ring -linarith -order [!holdGen_canonical, = setStream_st]

theorem retryUnit_canonical {u} (h : s.st.Canonical) : (retryUnit s u).st.Canonical := by
  unfold retryUnit
  grind -ring -linarith -order [= setHeld_st, !freeEntries_canonical, !reissueFront_canonical, !reissueMerge_canonical]

theorem execWake_canonical (h : s.st.Canonical) : Out.Canonical (execWake s) := by
  unfold execWake
  grind -ring -linarith -order [Out.Canonical, !retryUnit_canonical]

@[simp] theorem poisonGen_st {t g x} : (poisonGen s t g x).st = s.st := by
  unfold poisonGen
  grind -ring -linarith -order [= setStream_st]

@[simp] theorem poisonSlot_st {t n x} : (poisonSlot s t n x).st = s.st := by
  unfold poisonSlot
  grind -ring -linarith -order [= setSlot_st]

theorem poisonUnit_canonical {u} (h : s.st.Canonical) : (poisonUnit s u).st.Canonical := by
  unfold poisonUnit
  grind -ring -linarith -order [= setHeld_st, !freeEntries_canonical, = poisonSlot_st, = poisonGen_st]

theorem tholdWrite_canonical {ctx v} {s'} (h : s.st.Canonical) (e : tholdWrite s ctx v = .ok s') : s'.st.Canonical := by
  unfold tholdWrite at e
  grind -ring -linarith -order [!poisonUnit_canonical, !retryUnit_canonical]

theorem execTholdRetry_canonical {ctx v} (h : s.st.Canonical) : Out.Canonical (execTholdRetry ctx v s) := by
  unfold execTholdRetry
  grind -ring -linarith -order [Out.Canonical, !retryUnit_canonical]

theorem execTholdPoison_canonical {ctx v} (h : s.st.Canonical) : Out.Canonical (execTholdPoison ctx v s) := by
  unfold execTholdPoison
  grind -ring -linarith -order [Out.Canonical, !poisonUnit_canonical]

theorem completeHeld_canonical {u bs} (h : s.st.Canonical) : (completeHeld s u bs).st.Canonical := by
  unfold completeHeld
  grind -ring -linarith -order [= setHeld_st, !freeEntries_canonical, = setSlot_st, = setStream_st]

theorem completeEntry_canonical {ctx i t bs} (h : s.st.Canonical) : (completeEntry s ctx i t bs).st.Canonical := by
  unfold completeEntry
  grind -ring -linarith -order [!completeHeld_canonical, !freeRing_canonical]

theorem execRfill_canonical {a b} (h : s.st.Canonical) : Out.Canonical (execRfill a b s) := by
  unfold execRfill
  grind -ring -linarith -order [Out.Canonical, !onCore_canonical, !needSys_canonical, !trapOpen_canonical,
    !completeEntry_canonical, = setCore_st,
    !readVA_canonical, !syncTrap_canonical]

/-! ### Control registers -/

@[simp] theorem crAfterRead_st {ctx n} : (crAfterRead s ctx n).st = s.st := by
  unfold crAfterRead
  split <;> simp

theorem execCrd_canonical {a d n} (h : s.st.Canonical) : Out.Canonical (execCrd a d n s) := by
  unfold execCrd
  grind -ring -linarith -order [Out.Canonical, !onCore_canonical, !trapOpen_canonical, = windowsTo_st, = setCore_st, =
    crAfterRead_st]

theorem rangeCommit_st {ctx i r} {s'} (e : rangeCommit s ctx i r = .ok s') : s'.st = s.st := by
  unfold rangeCommit at e
  grind -ring -linarith -order [= setCtx_st]

theorem bufCommit_st {ctx e w} {s'} (he : bufCommit s ctx e w = .ok s') : s'.st = s.st := by
  unfold bufCommit at he
  grind -ring -linarith -order [= setCtx_st]

theorem nctlWrite_st {ctx v} {s'} (e : nctlWrite s ctx v = .ok s') : s'.st = s.st := by
  unfold nctlWrite at e
  grind -ring -linarith -order [= setCtx_st]

@[simp] theorem necntWrite_st {ctx k v} : (necntWrite s ctx k v).st = s.st := rfl

theorem nectlWrite_st {ctx k v} {s'} (e : nectlWrite s ctx k v = .ok s') : s'.st = s.st := by
  unfold nectlWrite at e
  grind -ring -linarith -order [= windowsTo_st, = setCtx_st]

theorem tevbPut_st {ctx v} {s'} (e : tevbPut s ctx v = .ok s') : s'.st = s.st := by
  unfold tevbPut at e
  grind -ring -linarith -order [= setCtx_st]

theorem tevpPut_st {ctx v} {s'} (e : tevpPut s ctx v = .ok s') : s'.st = s.st := by
  unfold tevpPut at e
  grind -ring -linarith -order [= setCtx_st]

theorem tprePut_st {ctx v} {s'} (e : tprePut s ctx v = .ok s') : s'.st = s.st := by
  unfold tprePut at e
  grind -ring -linarith -order [= setCtx_st]

theorem thendPut_canonical {t v} {s'} (h : s.st.Canonical) (e : thendPut s t v = .ok s') : s'.st.Canonical := by
  unfold thendPut at e
  grind -ring -linarith -order [!endFaulted_canonical, !readVA_canonical, !writeVA_canonical, !killContext_canonical]

theorem mtstatPut_canonical {t v} {s'} (h : s.st.Canonical) (e : mtstatPut s t v = .ok s') : s'.st.Canonical := by
  unfold mtstatPut at e
  grind -ring -linarith -order [!declareFailed_canonical]

theorem ptbasePut_st {v} {s'} (e : ptbasePut s v = .ok s') : s'.st = s.st := by
  unfold ptbasePut at e
  grind -ring -linarith -order

theorem heatcfgPut_st {v} {s'} (e : heatcfgPut s v = .ok s') : s'.st = s.st := by
  unfold heatcfgPut at e
  grind -ring -linarith -order

theorem tinvnPut_st {v} {s'} (e : tinvnPut s v = .ok s') : s'.st = s.st := by
  unfold tinvnPut at e
  grind -ring -linarith -order

theorem fpaPut_st {p v} {s'} (e : fpaPut s p v = .ok s') : s'.st = s.st := by
  unfold fpaPut at e
  grind -ring -linarith -order

theorem fpbPut_st {p v} {s'} (e : fpbPut s p v = .ok s') : s'.st = s.st := by
  unfold fpbPut at e
  grind -ring -linarith -order [= setFpb_st]

theorem fppushPut_canonical {p v} {s'} (h : s.st.Canonical) (e : fppushPut s p v = .ok s') : s'.st.Canonical := by
  unfold fppushPut at e
  grind -ring -linarith -order [→ poolAppend_canonical]

theorem crPut_canonical {ctx l n v x} {s'} (h : s.st.Canonical) (e : crPut s ctx l n v x = .ok s') : s'.st.Canonical := by
  unfold crPut at e
  grind -ring -linarith -order [→ nctlWrite_st, = necntWrite_st, → nectlWrite_st, = setCtx_st, → tevbPut_st, → tevpPut_st, →
    tholdWrite_canonical, →
    tprePut_st, → wptCommit_st, → rangeCommit_st, → bufCommit_st, → mtstatPut_canonical, → ptbasePut_st, → heatcfgPut_st, →
    tinvnPut_st, → fpaPut_st, → fpbPut_st, → fppushPut_canonical]

theorem cwrApply_canonical {t c ctx n v r} (h : s.st.Canonical) : (cwrApply s t c ctx n v r).st.Canonical := by
  unfold cwrApply
  grind -ring -linarith -order [→ crPut_canonical, = softRefuse_st, = setCore_st]

theorem cwrThend_canonical {t c v} (h : s.st.Canonical) : (cwrThend s t c v).st.Canonical := by
  unfold cwrThend
  grind -ring -linarith -order [→ thendPut_canonical, = softRefuse_st]

theorem execCwr_canonical {a b n} (h : s.st.Canonical) : Out.Canonical (execCwr a b n s) := by
  unfold execCwr
  grind -ring -linarith -order [Out.Canonical, !onCore_canonical, !trapHere_canonical, !cwrApply_canonical, !cwrThend_canonical]

@[simp] theorem hwRefuse_st {port off c} : (hwRefuse s port off c).st = s.st := by simp [hwRefuse]

theorem whileUp_canonical {t} (h : s.st.Canonical) (ht : t.st.Canonical) : Out.Canonical (whileUp s t) :=
  ite_canonical h ht

theorem hostCr_canonical {port ctx n v} (h : s.st.Canonical) : (hostCr s port ctx n v).st.Canonical := by
  unfold hostCr
  grind -ring -linarith -order [= hwRefuse_st, → crPut_canonical, = setStaged_st]

theorem execTevpWrite_canonical {port ctx v} (h : s.st.Canonical) : Out.Canonical (execTevpWrite port ctx v s) := by
  refine whileUp_canonical h ?_
  grind -ring -linarith -order [!whileUp_canonical, !hostCr_canonical]

theorem execTevbWrite_canonical {port ctx v} (h : s.st.Canonical) : Out.Canonical (execTevbWrite port ctx v s) := by
  refine whileUp_canonical h ?_
  grind -ring -linarith -order [!whileUp_canonical, !hostCr_canonical]

theorem execTserrRead_canonical {_port ctx} (h : s.st.Canonical) : Out.Canonical (execTserrRead _port ctx s) := by
  unfold execTserrRead
  grind -ring -linarith -order [Out.Canonical, = crAfterRead_st]

theorem execRangeRegisterCommit_canonical {port ctx i v} (h : s.st.Canonical) : Out.Canonical (execRangeRegisterCommit port ctx
  i v s) := by
  refine whileUp_canonical h ?_
  grind -ring -linarith -order [!whileUp_canonical, !hostCr_canonical]

theorem execBufferMapCommit_canonical {port ctx e v} (h : s.st.Canonical) : Out.Canonical (execBufferMapCommit port ctx e v s)
  := by
  refine whileUp_canonical h ?_
  grind -ring -linarith -order [!whileUp_canonical, !hostCr_canonical]

theorem execWatchpointCommit_canonical {port ctx w v} (h : s.st.Canonical) : Out.Canonical (execWatchpointCommit port ctx w v s)
  := by
  refine whileUp_canonical h ?_
  grind -ring -linarith -order [!whileUp_canonical, !hostCr_canonical]

theorem execTinv_canonical {port v} (h : s.st.Canonical) : Out.Canonical (execTinv port v s) := by
  refine whileUp_canonical h ?_
  grind -ring -linarith -order [!whileUp_canonical, !hostCr_canonical]

theorem execFppush_canonical {port pool v} (h : s.st.Canonical) : Out.Canonical (execFppush port pool v s) := by
  refine whileUp_canonical h ?_
  grind -ring -linarith -order [!whileUp_canonical, !hostCr_canonical]

theorem execMtstatWrite_canonical {port tid v} (h : s.st.Canonical) : Out.Canonical (execMtstatWrite port tid v s) := by
  refine whileUp_canonical h ?_
  grind -ring -linarith -order [!whileUp_canonical, !hostCr_canonical]

theorem execThend_canonical {tid v} (h : s.st.Canonical) : Out.Canonical (execThend tid v s) := by
  unfold execThend
  grind -ring -linarith -order [Out.Canonical, → thendPut_canonical]

@[simp] theorem dropDir_st {page} : (dropDir s page).st = s.st := by
  unfold dropDir
  grind -ring -linarith -order

theorem tinvCached_canonical {page} (h : s.st.Canonical) : (tinvCached s page).st.Canonical := by
  unfold tinvCached
  grind -ring -linarith -order [!cacheDrop_canonical, = pageAdvance_st]

theorem tinvUncached_canonical {page} (h : s.st.Canonical) : (tinvUncached s page).st.Canonical := by
  unfold tinvUncached
  grind -ring -linarith -order [!physSets_canonical]

theorem tinvPages_canonical {page n} (h : s.st.Canonical) : (tinvPages s page n).st.Canonical := by
  fun_induction tinvPages s page n <;> grind -ring -linarith -order [= dropDir_st, !tinvCached_canonical, !tinvUncached_canonical]

theorem execTinvComplete_canonical (h : s.st.Canonical) : Out.Canonical (execTinvComplete s) := by
  unfold execTinvComplete
  grind -ring -linarith -order [Out.Canonical, !tinvPages_canonical]

theorem execNumericWindowEnd_canonical (h : s.st.Canonical) : Out.Canonical (execNumericWindowEnd s) := by
  unfold execNumericWindowEnd
  grind -ring -linarith -order [Out.Canonical, = windowsTo_st]

/-! ### Engine inboxes -/

theorem readWords32_canonical {who va n} (h : s.st.Canonical) : (readWords32 s who va n).2.st.Canonical := by
  unfold readWords32
  grind -ring -linarith -order [!readVA_canonical]

theorem ckptPeers_canonical {who c} (h : s.st.Canonical) : (ckptPeers s who c).2.st.Canonical := by
  unfold ckptPeers
  grind -ring -linarith -order [!readVA_canonical]

theorem checkLists_canonical {q c} (h : s.st.Canonical) : (checkLists s q c).2.st.Canonical := by
  unfold checkLists
  grind -ring -linarith -order [!readWords32_canonical, !ckptPeers_canonical]

theorem checkMessage_canonical {q c} (h : s.st.Canonical) : (checkMessage s q c).2.st.Canonical := by
  unfold checkMessage
  grind -ring -linarith -order [!checkLists_canonical]

theorem engEvent_canonical {q ctx cause va} (h : s.st.Canonical) : (engEvent s q ctx cause va).st.Canonical := by
  unfold engEvent
  grind -ring -linarith -order [!appendEvent_canonical]

theorem writeReply_canonical {q c} (h : s.st.Canonical) : (writeReply s q c).2.st.Canonical := by
  unfold writeReply
  grind -ring -linarith -order [!engEvent_canonical, !writeVA_canonical]

@[simp] theorem acceptCommand_st {q c ms ps} : (acceptCommand s q c ms ps).st = s.st := by
  unfold acceptCommand
  grind -ring -linarith -order [= setBar_st, = bindRead_st, = setInbox_st, = updLaunch_st, = mapNotices_st, = settleOwed_st, =
    tellMembers_st]

theorem endRefused_canonical {q c m} (h : s.st.Canonical) : (endRefused s q c m).st.Canonical := by
  unfold endRefused
  grind -ring -linarith -order [= unbind_st, !engEvent_canonical, = acknowledge_st]

theorem refuseMessage_canonical {q c m} (h : s.st.Canonical) : (refuseMessage s q c m).st.Canonical := by
  unfold refuseMessage
  grind -ring -linarith -order [!writeReply_canonical, !endRefused_canonical, = setInbox_st]

theorem takeMessage_canonical {s0 q m} (h : s.st.Canonical) (h1 : s0.st.Canonical) : (takeMessage s0 s q m).st.Canonical := by
  unfold takeMessage
  grind -ring -linarith -order [= ackRemoved_st, = acknowledge_st, !checkMessage_canonical, !refuseMessage_canonical, =
    unbind_st, = acceptCommand_st]

theorem execEngineInboxMessage_canonical (h : s.st.Canonical) : Out.Canonical (execEngineInboxMessage s) := by
  unfold execEngineInboxMessage
  grind -ring -linarith -order [Out.Canonical, !takeMessage_canonical]

@[simp] theorem acceptedToSender_st {m} : (acceptedToSender s m).st = s.st := by
  unfold acceptedToSender
  grind -ring -linarith -order [!takeAmsgw_st, = setCore_st]

@[simp] theorem dropMsg_st {uid} : (dropMsg s uid).st = s.st := rfl

theorem applyAck_canonical {a} (h : s.st.Canonical) : (applyAck s a).st.Canonical := by
  unfold applyAck
  grind -ring -linarith -order [= updLaunch_st, = acceptedToSender_st, = dropMsg_st, !takeAmsgw_st, !appendEvent_canonical, =
    refuseToSender_st]

theorem execAcknowledgement_canonical (h : s.st.Canonical) : Out.Canonical (execAcknowledgement s) := by
  unfold execAcknowledgement
  grind -ring -linarith -order [Out.Canonical, !applyAck_canonical]

theorem execInjectionResend_canonical (h : s.st.Canonical) : Out.Canonical (execInjectionResend s) := by
  unfold execInjectionResend
  grind -ring -linarith -order [Out.Canonical, = injectMessage_st]

@[simp] theorem dischargeBytes_st {c n} : (dischargeBytes s c n).st = s.st := by
  unfold dischargeBytes
  split <;> simp

@[simp] theorem endCmd_st {q c status cause va} : (endCmd s q c status cause va).st = s.st := by
  unfold endCmd
  split <;> simp

@[simp] theorem stopCmd_st {q c read cause va} : (stopCmd s q c read cause va).st = s.st := by simp [stopCmd]

@[simp] theorem dropAnswers_st {c} : (dropAnswers s c).st = s.st := foldl_st fun _ _ => rfl

theorem leaveInbox_canonical {q c} (h : s.st.Canonical) : (leaveInbox s q c).st.Canonical := by
  unfold leaveInbox
  grind -ring -linarith -order [!engEvent_canonical, = unbind_st, = dropNotices_st, = dropAnswers_st, = sendNode_st, =
    setInbox_st]

theorem drainCmd_canonical {q c} (h : s.st.Canonical) : (drainCmd s q c).2.st.Canonical := by
  unfold drainCmd
  grind -ring -linarith -order [!writeReply_canonical, !leaveInbox_canonical]

theorem execEngineCommandDrained_canonical (h : s.st.Canonical) : Out.Canonical (execEngineCommandDrained s) := by
  unfold execEngineCommandDrained
  grind -ring -linarith -order [Out.Canonical, !writeReply_canonical, !endRefused_canonical, = setInbox_st, !drainCmd_canonical]

/-! ### Engine commands -/

theorem engTurn_canonical {op body} (hb : ∀ {s q c}, s.st.Canonical → (body s q c).st.Canonical) (h : s.st.Canonical) :
    Out.Canonical (engTurn s op body) := by
  unfold engTurn
  dsimp only
  split
  · exact h
  · exact Out.ite_canonical h (Out.ite_canonical (ite_canonical (by simpa using h) h) (hb h))

theorem engRead_canonical {who va n} (h : s.st.Canonical) : (engRead s who va n).2.st.Canonical := by
  unfold engRead
  grind -ring -linarith -order [!readAt_canonical]

theorem orRead_canonical {c read} (h : s.st.Canonical) (hr : (read s).2.st.Canonical) : (orRead s c read).2.st.Canonical := by
  unfold orRead
  split <;> assumption

@[simp] theorem performed_st {c n} : (performed s c n).1.st = s.st := by simp [performed]

theorem engWrite_canonical {q c va bs} (h : s.st.Canonical) : (engWrite s q c va bs).2.2.st.Canonical := by
  unfold engWrite
  grind -ring -linarith -order [!writeAt_canonical, !performed_st, !watchCheck_canonical]

@[simp] theorem stopAt_st {q c read e va} : (stopAt s q c read e va).st = s.st := by simp [stopAt]

theorem writeCounted_canonical {q c va bs} (h : s.st.Canonical) : (writeCounted s q c va bs).st.Canonical := by
  unfold writeCounted
  grind -ring -linarith -order [!engWrite_canonical, = putCmd_st, = stopAt_st]

theorem copyStep_canonical {q c} (h : s.st.Canonical) : (copyStep s q c).st.Canonical := by
  unfold copyStep
  dsimp only
  refine ite_canonical (by simpa using h) ?_
  split <;> rename_i e <;> have h1 := canonical_of_eq e (orRead_canonical h (engRead_canonical h))
  · exact h1
  · simpa using h1
  · exact writeCounted_canonical h1

theorem fillStep_canonical {q c} (h : s.st.Canonical) : (fillStep s q c).st.Canonical := by
  unfold fillStep
  grind -ring -linarith -order [= endCmd_st, !writeCounted_canonical]

theorem engAskElems_canonical {who esz pitch n w} (h : s.st.Canonical) : (engAskElems s who esz pitch n w).2.st.Canonical := by
  fun_induction engAskElems s who esz pitch n w <;> grind -ring -linarith -order [!askParts_canonical]

theorem engTakeElems_canonical {who esz pitch n w} (h : s.st.Canonical) : (engTakeElems s who esz pitch n w).2.st.Canonical :=
  by
  fun_induction engTakeElems s who esz pitch n w <;> grind -ring -linarith -order [!engRead_canonical]

theorem engReadElems_canonical {who esz pitch n va} (h : s.st.Canonical) : (engReadElems s who esz pitch n va).2.st.Canonical :=
  by
  unfold engReadElems
  grind -ring -linarith -order [!engAskElems_canonical, !engTakeElems_canonical]

theorem xposeStep_canonical {q c} (h : s.st.Canonical) : (xposeStep s q c).st.Canonical := by
  unfold xposeStep
  dsimp only
  refine ite_canonical (by simpa using h) ?_
  split <;> rename_i e <;> have h1 := canonical_of_eq e (orRead_canonical h (engReadElems_canonical h))
  · exact h1
  · simpa using h1
  · exact writeCounted_canonical h1

@[simp] theorem gsNext_st {q c} : (gsNext s q c).st = s.st := rfl

@[simp] theorem gsStop_st {q c read e va} : (gsStop s q c read e va).st = s.st := by simp [gsStop]

theorem gsStep_canonical {q c} (h : s.st.Canonical) : (gsStep s q c).st.Canonical := by
  unfold gsStep
  dsimp only
  refine ite_canonical (by simpa using h) ?_
  split
  · split <;> rename_i e <;> have h1 := canonical_of_eq e (engRead_canonical h)
    · exact h1
    · simpa using h1
    · grind -ring -linarith -order [= putCmd_st, = gsStop_st, = dischargeBytes_st, = gsNext_st]
  · refine ite_canonical (by simpa using h) ?_
    split <;> rename_i e <;>
      have h1 := canonical_of_eq e (orRead_canonical h (ite_snd_canonical h (engRead_canonical h)))
    · exact h1
    · simpa using h1
    · grind -ring -linarith -order [!engWrite_canonical, = putCmd_st, = gsStop_st]

@[simp] theorem csrbStop_st {q c read e va} : (csrbStop s q c read e va).st = s.st := by simp [csrbStop]

@[simp] theorem rowAsk_st {who l} : (rowAsk s who l).2.st = s.st := by
  induction l generalizing s with
  | nil => rfl
  | cons x l ih =>
    unfold rowAsk
    dsimp only
    rw [ih]
    split
    · rfl
    · split
      · exact sendForward_st
      · rfl

theorem rowCheck_canonical {q c va n} (h : s.st.Canonical) : (rowCheck s q c va n).2.st.Canonical := by
  unfold rowCheck
  grind -ring -linarith -order [!iaAccess_canonical, !lookupPage_canonical, !rowAsk_st, = dropAsks_st]

theorem csrbStep_canonical {q c} (h : s.st.Canonical) : (csrbStep s q c).st.Canonical := by
  unfold csrbStep
  grind -ring -linarith -order [= endCmd_st, !engRead_canonical, = csrbStop_st, = putCmd_st, !rowCheck_canonical,
    !engWrite_canonical]

theorem hashStep_canonical {q c} (h : s.st.Canonical) : (hashStep s q c).st.Canonical := by
  unfold hashStep
  grind -ring -linarith -order [!engRead_canonical, = stopCmd_st, = putCmd_st, = endCmd_st, !engWrite_canonical]

theorem reduceStep_canonical {q c} (h : s.st.Canonical) : (reduceStep s q c).st.Canonical := by
  unfold reduceStep
  dsimp only
  refine ite_canonical (by simpa using h) ?_
  split <;> rename_i e <;> have h1 := canonical_of_eq e (orRead_canonical h (engRead_canonical h))
  · exact h1
  · simpa using h1
  · grind -ring -linarith -order [= stopCmd_st, !rmwVA_canonical, = putCmd_st, !countEvents_canonical, !performed_st]

theorem execCollectiveBegin_canonical (h : s.st.Canonical) : Out.Canonical (execCollectiveBegin s) := by
  unfold execCollectiveBegin
  grind -ring -linarith -order [Out.Canonical, = settleOwed_st, = endCmd_st, = putCmd_st, = mapNotices_st]

theorem execCollectiveAbort_canonical (h : s.st.Canonical) : Out.Canonical (execCollectiveAbort s) := by
  unfold execCollectiveAbort
  grind -ring -linarith -order [Out.Canonical, = settleOwed_st, = endCmd_st]

theorem collStep_canonical {q c} (h : s.st.Canonical) : (collStep s q c).st.Canonical := by
  unfold collStep
  grind -ring -linarith -order [!engRead_canonical, = stopCmd_st, = putCmd_st, = tellMembers_st, = endCmd_st, !engWrite_canonical,
    !countEvents_canonical]

theorem publishStep_canonical {q c} (h : s.st.Canonical) : (publishStep s q c).st.Canonical := by
  unfold publishStep
  grind -ring -linarith -order [!publishSwap_canonical, = endCmd_st]

theorem prefetchStep_canonical {q c} (h : s.st.Canonical) : (prefetchStep s q c).st.Canonical := by
  unfold prefetchStep
  grind -ring -linarith -order [= endCmd_st, = putCmd_st, !lookupPage_canonical, = nominate_st]

@[simp] theorem migrateNext_st {q c moved} : (migrateNext s q c moved).st = s.st := rfl

@[simp] theorem migrateTier_st {q c e cls} : (migrateTier s q c e cls).st = s.st := by
  unfold migrateTier
  grind -ring -linarith -order [= migrateNext_st, → takeFrame_st, = putCmd_st, = startMove_st]

theorem migrateOwner_canonical {q c e} (h : s.st.Canonical) : (migrateOwner s q c e).st.Canonical := by
  unfold migrateOwner
  grind -ring -linarith -order [= migrateNext_st, = putCmd_st, !startPull_canonical]

theorem unsettle_canonical {e} (h : s.st.Canonical) : (unsettle s e).st.Canonical := by
  unfold unsettle
  grind -ring -linarith -order [!setDir_canonical]

@[simp] theorem askHome_st {q c e} : (askHome s q c e).st = s.st := by
  unfold askHome
  split <;> simp

theorem migrateTarget_canonical {q c e cls} (h : s.st.Canonical) : (migrateTarget s q c e cls).st.Canonical := by
  unfold migrateTarget
  grind -ring -linarith -order [= migrateNext_st, !migrateOwner_canonical, = migrateTier_st]

theorem migratePage_canonical {q c e cls} (h : s.st.Canonical) : (migratePage s q c e cls).st.Canonical := by
  unfold migratePage
  grind -ring -linarith -order [= migrateNext_st, = askHome_st, !migrateTarget_canonical, !unsettle_canonical]

theorem homeAnswer_st {c x s'} (e : homeAnswer s c = some (x, s')) : s'.st = s.st := by
  unfold homeAnswer at e
  split at e
  · cases e; rfl
  · obtain ⟨a, -, e⟩ := Option.map_eq_some_iff.1 e
    cases e; rfl

@[simp] theorem migrateWait_st {q c} : (migrateWait s q c).st = s.st := by
  unfold migrateWait
  grind -ring -linarith -order [= migrateNext_st, → homeAnswer_st, = putCmd_st]

theorem migrateStep_canonical {q c} (h : s.st.Canonical) : (migrateStep s q c).st.Canonical := by
  unfold migrateStep
  dsimp only
  split
  · rwa [migrateWait_st]
  · split
    · exact h
    · split
      · rwa [endCmd_st]
      · split
        · rwa [stopCmd_st]
        · split
          · rwa [migrateNext_st]
          · split <;> rename_i e <;> have h1 := canonical_of_eq e (lookupPage_canonical h)
            · rwa [stopCmd_st]
            · exact migratePage_canonical h1

/-! ### Barrier events -/

theorem answerArrival_canonical {b a e} (h : s.st.Canonical) : (answerArrival s b a e).st.Canonical := by
  unfold answerArrival
  grind -ring -linarith -order [!appendEvent_canonical, !engEvent_canonical, !hostEvent_canonical]

theorem execBarrierArrival_canonical (h : s.st.Canonical) : Out.Canonical (execBarrierArrival s) := by
  unfold execBarrierArrival
  grind -ring -linarith -order [Out.Canonical, !answerArrival_canonical, = setBar_st]

theorem execBarrierDischarge_canonical (h : s.st.Canonical) : Out.Canonical (execBarrierDischarge s) := by
  unfold execBarrierDischarge
  grind -ring -linarith -order [Out.Canonical, = setBar_st]

theorem execBarrierComplete_canonical (h : s.st.Canonical) : Out.Canonical (execBarrierComplete s) := by
  unfold execBarrierComplete
  grind -ring -linarith -order [Out.Canonical, = barTest_st]

theorem execBwaitObserve_canonical (h : s.st.Canonical) : Out.Canonical (execBwaitObserve s) := by
  unfold execBwaitObserve
  dsimp only
  split
  · exact ite_canonical (by rwa [setCore_st]) h
  · exact h

theorem execPodBarrierJoin_canonical (h : s.st.Canonical) : Out.Canonical (execPodBarrierJoin s) := by
  unfold execPodBarrierJoin
  grind -ring -linarith -order [Out.Canonical, = sendNode_st, = setBar_st]

theorem execPodBarrierCompletion_canonical (h : s.st.Canonical) : Out.Canonical (execPodBarrierCompletion s) := by
  unfold execPodBarrierCompletion
  grind -ring -linarith -order [Out.Canonical, = completeBar_st, = setBar_st]

theorem execBarrierPrioUpdate_canonical (h : s.st.Canonical) : Out.Canonical (execBarrierPrioUpdate s) := by
  unfold execBarrierPrioUpdate
  dsimp only
  split
  · exact h
  · refine Out.ite_canonical ?_ ?_
    · simp only [Out.Canonical]
      rwa [foldl_st fun _ _ => sendNode_st _ _ _ _]
    · simpa [Out.Canonical] using h

theorem execPodBarrierPoison_canonical (h : s.st.Canonical) : Out.Canonical (execPodBarrierPoison s) := by
  unfold execPodBarrierPoison
  grind -ring -linarith -order [Out.Canonical, = poisonBar_st]

theorem execInheritanceFloor_canonical (h : s.st.Canonical) : Out.Canonical (execInheritanceFloor s) := by
  unfold execInheritanceFloor
  grind -ring -linarith -order [Out.Canonical]

/-! ### Shared resources -/

@[simp] theorem foldTable_st {kind} : (foldTable s kind).st = s.st := by
  unfold foldTable
  grind -ring -linarith -order

/-! ### The course of a task -/

theorem signalEvent_canonical {g e} (h : s.st.Canonical) : (signalEvent s g e).st.Canonical := by
  unfold signalEvent
  grind -ring -linarith -order [!appendEvent_canonical]

theorem enqueueSignalled_canonical {s0 g w5} (h0 : s0.st.Canonical) (h : s.st.Canonical) :
    (enqueueSignalled s0 s g w5).st.Canonical := by
  have hdue : ∀ {u : State} {va ctx w}, u.st.Canonical → ((enqueueDue u va ctx w).getD s0).st.Canonical := by
    intro u va ctx w hu
    cases e : enqueueDue u va ctx w with
    | none => exact h0
    | some u' => rwa [Option.getD_some, enqueueDue_st e]
  unfold enqueueSignalled
  exact ite_canonical h (ite_canonical (hdue h) (ite_canonical (hdue h) h))

theorem performSignal_canonical {s0 g} (h : s.st.Canonical) (h1 : s0.st.Canonical) : (performSignal s0 s g).st.Canonical := by
  unfold performSignal
  grind -ring -linarith -order [!readVA_canonical, !rmwVA_canonical, !signalEvent_canonical, !enqueueSignalled_canonical]

theorem execSignal_canonical (h : s.st.Canonical) : Out.Canonical (execSignal s) := by
  unfold execSignal
  grind -ring -linarith -order [Out.Canonical, !performSignal_canonical]

theorem failRecord_canonical {r e} (h : s.st.Canonical) : (failRecord s r e).st.Canonical := by
  unfold failRecord
  grind -ring -linarith -order [!readSucc_canonical, !appendEvent_canonical, = dropRec_st, = settleClaims_st, =
    leaveLaunch_st, !writeState_canonical]

theorem loadRecord_canonical {r} (h : s.st.Canonical) : (loadRecord s r).2.st.Canonical := by
  unfold loadRecord
  grind -ring -linarith -order [!readCR_canonical]

theorem examineRecord_canonical {r} (h : s.st.Canonical) : (examineRecord s r).st.Canonical := by
  unfold examineRecord
  grind -ring -linarith -order [!failRecord_canonical, !examineTiles_canonical, = putRec_st, !readSucc_canonical]

theorem execDrillExamine_canonical (h : s.st.Canonical) : Out.Canonical (execDrillExamine s) := by
  unfold execDrillExamine
  grind -ring -linarith -order [Out.Canonical, !loadRecord_canonical, !failRecord_canonical, !examineRecord_canonical]

@[simp] theorem grantClaim_st {r i d} : (grantClaim s r i d).2.st = s.st := by
  unfold grantClaim
  grind -ring -linarith -order [= setRegion_st]

@[simp] theorem makeReady_st {r} : (makeReady s r).st = s.st := rfl

theorem execDrillRetest_canonical (h : s.st.Canonical) : Out.Canonical (execDrillRetest s) := by
  unfold execDrillRetest
  grind -ring -linarith -order [Out.Canonical, = putRec_st]

theorem execClaimRequest_canonical (h : s.st.Canonical) : Out.Canonical (execClaimRequest s) := by
  unfold execClaimRequest
  grind -ring -linarith -order [Out.Canonical, = makeReady_st, !grantClaim_st, = putRec_st, = settleClaims_st]

theorem writeResults_canonical {who l m} (h : s.st.Canonical) : (writeResults s who l m).2.st.Canonical := by
  fun_induction writeResults s who l m <;> grind -ring -linarith -order [!writeVA_canonical]

@[simp] theorem beginRetire_st {r hit} : (beginRetire s r hit).st = s.st := rfl

theorem granaryHit_canonical {s0 r e} (h0 : s0.st.Canonical) (h : s.st.Canonical) : (granaryHit s0 s r e).st.Canonical := by
  have hpub : ∀ {u : State} (l : List Nat), u.st.Canonical → (l.foldl (fun s b => publishSwap s r.ctx b) u).st.Canonical :=
    fun l hu => foldl_canonical publishSwap_canonical hu
  unfold granaryHit
  refine ite_canonical h0 ?_
  split <;> rename_i e <;> have h1 := canonical_of_eq e (writeResults_canonical h)
  · exact h0
  · exact failRecord_canonical h1
  · simpa using hpub _ h1

theorem execGranaryLookup_canonical (h : s.st.Canonical) : Out.Canonical (execGranaryLookup s) := by
  unfold execGranaryLookup
  grind -ring -linarith -order [Out.Canonical, !granaryKey_canonical, !failRecord_canonical, = makeReady_st,
    !granaryHit_canonical]

@[simp] theorem insertEntry_st {die e} : (insertEntry s die e).st = s.st := by
  unfold insertEntry
  grind -ring -linarith -order

theorem readOutputs_canonical {who l} (h : s.st.Canonical) : (readOutputs s who l).2.st.Canonical := by
  fun_induction readOutputs s who l <;> grind -ring -linarith -order [!readVA_canonical]

theorem insertResult_canonical {g} {s'} (h : s.st.Canonical) (e : insertResult s g = some s') : s'.st.Canonical := by
  unfold insertResult at e
  grind -ring -linarith -order [!granaryKey_canonical, !readOutputs_canonical, = insertEntry_st]

theorem retireFirst_canonical {i g} (h : s.st.Canonical) : (retireFirst s i g).st.Canonical := by
  unfold retireFirst
  refine ite_canonical h ?_
  dsimp only
  split
  · exact h
  · rename_i e
    have h1 := insertResult_canonical (s := settleClaims s _ _ _) (by simpa using h) e
    split
    · exact h
    · rename_i x s1 _ e
      have h2 := canonical_of_eq e (succList_canonical h1)
      cases x with
      | fault c => exact appendEvent_canonical h2
      | ok l => exact h2
      | wait => exact h2

theorem nextHandler_canonical {ctx} (h : s.st.Canonical) : (nextHandler s ctx).st.Canonical := by
  unfold nextHandler
  grind -ring -linarith -order [!readVA_canonical, !enterHandler_canonical]

theorem retireLast_canonical {i g} (h : s.st.Canonical) : (retireLast s i g).st.Canonical := by
  unfold retireLast
  grind -ring -linarith -order [= leaveLaunch_st, = updLaunch_st, !writeState_canonical, !nextHandler_canonical]

theorem execTaskRetire_canonical (h : s.st.Canonical) : Out.Canonical (execTaskRetire s) := by
  unfold execTaskRetire
  grind -ring -linarith -order [Out.Canonical, !retireFirst_canonical, !retireLast_canonical]

@[simp] theorem pickRecord_st {q} : (pickRecord s q).2.st = s.st := by
  unfold pickRecord
  grind -ring -linarith -order

theorem execDrillPop_canonical (h : s.st.Canonical) : Out.Canonical (execDrillPop s) := by
  unfold execDrillPop
  grind -ring -linarith -order [Out.Canonical, !pickRecord_st, = dropTorn_st, = dropRec_st, = setCore_st]

theorem execParkWake_canonical (h : s.st.Canonical) : Out.Canonical (execParkWake s) := by
  unfold execParkWake
  grind -ring -linarith -order [Out.Canonical, → enqueueRec_st]

@[simp] theorem checkpointFiring_st {t f} : (checkpointFiring s t f).st = s.st := by
  unfold checkpointFiring
  grind -ring -linarith -order [→ enqueueRec_st, = unbind_st, = setCore_st, = dropCoreAsks_st]

@[simp] theorem cancelBarrier_st {t c} : (cancelBarrier s t c).st = s.st := by
  unfold cancelBarrier
  split <;> simp

@[simp] theorem rerunFiring_st {t f} : (rerunFiring s t f).st = s.st := by
  unfold rerunFiring
  grind -ring -linarith -order [= settleClaims_st, = cancelBarrier_st, → enqueueRec_st, = unbind_st, = setCore_st, =
    dropCoreAsks_st]

@[simp] theorem rowFour_st {t} : (rowFour s t).st = s.st := by
  unfold rowFour
  split <;> simp

@[simp] theorem decide2_st {t c f} : (decide2 s t c f).st = s.st := by
  unfold decide2
  grind -ring -linarith -order [= rowFour_st, = checkpointFiring_st, = rerunFiring_st]

theorem execPreemptionRequest_canonical (h : s.st.Canonical) : Out.Canonical (execPreemptionRequest s) := by
  unfold execPreemptionRequest
  grind -ring -linarith -order [Out.Canonical, = decide2_st]

theorem execPreemptDrainExpiry_canonical (h : s.st.Canonical) : Out.Canonical (execPreemptDrainExpiry s) := by
  unfold execPreemptDrainExpiry
  grind -ring -linarith -order [Out.Canonical, = decide2_st]

/-! ### Launches -/

@[simp] theorem doorWrite_st {q v} : (doorWrite s q v).st = s.st := by
  unfold doorWrite
  grind -ring -linarith -order [= setLQ_st]

theorem execLaunchDoor_canonical {q v} (h : s.st.Canonical) : Out.Canonical (execLaunchDoor q v s) := by
  refine whileUp_canonical h ?_
  grind -ring -linarith -order [!whileUp_canonical, = doorWrite_st]

theorem codeCause_canonical {who va} (h : s.st.Canonical) : (codeCause s who va).2.st.Canonical := by
  have hr := readVA_canonical (who := who) (va := va) (n := 64) h
  unfold codeCause
  split <;> rename_i e <;> have h1 := canonical_of_eq e hr
  · exact h1
  · exact h1
  · exact ite_snd_canonical h1 (ite_snd_canonical h1 h1)

@[simp] theorem launchSignal_st {ctx lid w7} : (launchSignal s ctx lid w7).st = s.st := by
  unfold launchSignal
  split <;> simp

theorem refuseLaunch_canonical {free ctx w e} (hf : ∀ {s}, s.st.Canonical → (free s).st.Canonical) (h : s.st.Canonical) :
    (refuseLaunch s free ctx w e).st.Canonical := by
  unfold refuseLaunch
  refine ite_canonical (hostEvent_canonical (hf h)) ?_
  split <;> rename_i e <;> have h1 := canonical_of_eq e (writeVA_canonical h)
  · exact ite_canonical (hf h1) (by simpa using hf h1)
  · exact ite_canonical (hostEvent_canonical (hf h1)) (by simpa using hostEvent_canonical (hf h1))
  · exact h1

@[simp] theorem acceptLaunch_st {q x w} : (acceptLaunch s q x w).st = s.st := by simp [acceptLaunch]

theorem execLaunchArrival_canonical (h : s.st.Canonical) : Out.Canonical (execLaunchArrival s) := by
  unfold execLaunchArrival
  split
  · exact h
  · dsimp only
    refine Out.ite_canonical h ?_
    split
    · exact refuseLaunch_canonical id h
    · split <;> rename_i e <;> have h1 := canonical_of_eq e (codeCause_canonical h)
      · exact h1
      · exact refuseLaunch_canonical id h1
      · exact refuseLaunch_canonical id h1
      · split
        · exact hostEvent_canonical h1
        · simpa [Out.Canonical] using h1

theorem execLaunchWaitSatisfied_canonical (h : s.st.Canonical) : Out.Canonical (execLaunchWaitSatisfied s) := by
  unfold execLaunchWaitSatisfied
  grind -ring -linarith -order [Out.Canonical, = updLaunch_st, !readVA_canonical]

theorem clearForeign_canonical {ctx t} (h : s.st.Canonical) : (clearForeign s ctx t).st.Canonical := by
  unfold clearForeign
  refine foldl_canonical (fun h => ite_canonical (by simpa using zeroRegion_canonical h) h) ?_
  split
  · exact ite_canonical (by simpa using h) h
  · exact h

theorem takeQuads_canonical {l qs} (h : s.st.Canonical) : (takeQuads s l qs).st.Canonical :=
  foldl_canonical clearForeign_canonical h

theorem execSwathGrant_canonical (h : s.st.Canonical) : Out.Canonical (execSwathGrant s) := by
  unfold execSwathGrant
  grind -ring -linarith -order [Out.Canonical, !takeQuads_canonical]

theorem execDieAdd_canonical (h : s.st.Canonical) : Out.Canonical (execDieAdd s) := by
  unfold execDieAdd
  grind -ring -linarith -order [Out.Canonical, !takeQuads_canonical]

@[simp] theorem finishWithdraw_st {l d} : (finishWithdraw s l d).st = s.st := by
  unfold finishWithdraw
  split <;> simp

theorem execDieWithdraw_canonical (h : s.st.Canonical) : Out.Canonical (execDieWithdraw s) := by
  unfold execDieWithdraw
  grind -ring -linarith -order [Out.Canonical, = finishWithdraw_st, = updLaunch_st]

theorem execCodeFill_canonical (h : s.st.Canonical) : Out.Canonical (execCodeFill s) := by
  have hu {lid f} {s : State} (h : s.st.Canonical) : (updLaunch s lid f).st.Canonical := by rwa [updLaunch_st]
  unfold execCodeFill
  split
  · exact h
  · refine Out.ite_canonical h (Out.ite_canonical (hu h) ?_)
    extract_lets
    split <;> rename_i e <;> have h1 := canonical_of_eq e (readVA_canonical h)
    · exact h1
    · exact hu h1
    · extract_lets
      split <;> rename_i e <;> have h2 := canonical_of_eq e (readVA_canonical h1)
      · exact h2
      · exact hu h2
      · split
        · exact appendEvent_canonical (hu h2)
        · exact Out.ite_canonical h2 (hu h2)

theorem execInstanceEntry_canonical (h : s.st.Canonical) : Out.Canonical (execInstanceEntry s) := by
  unfold execInstanceEntry
  grind -ring -linarith -order [Out.Canonical, = updLaunch_st, !appendEvent_canonical, !readCR_canonical, → enqueueRec_st]

@[simp] theorem unloadIdle_st {l} : (unloadIdle s l).st = s.st := foldl_st fun _ _ => disarmSec_st

@[simp] theorem leaveLive_st {l} : (leaveLive s l).st = s.st := by simp [leaveLive]

theorem completeLaunch_canonical {l} (h : s.st.Canonical) : (completeLaunch s l).st.Canonical := by
  unfold completeLaunch
  grind -ring -linarith -order [= unloadIdle_st, !writeVA_canonical, = leaveLive_st, !hostEvent_canonical]

theorem execLaunchComplete_canonical (h : s.st.Canonical) : Out.Canonical (execLaunchComplete s) := by
  unfold execLaunchComplete
  grind -ring -linarith -order [Out.Canonical, !completeLaunch_canonical]

/-! ### Contexts and checkpoints -/

@[simp] theorem retractMember_st {q c} : (retractMember s q c).st = s.st := by
  refine foldl_st fun s e => ?_
  split <;> rfl

@[simp] theorem saveMember_st {q c} : (saveMember s q c).st = s.st := by
  unfold saveMember
  grind -ring -linarith -order [= settleOwed_st, = endCmd_st, = retractMember_st, = putCmd_st]

@[simp] theorem startSave_st {ctx area} : (startSave s ctx area).st = s.st := foldl_st fun _ _ => saveMember_st

theorem completeKilled_canonical {ctx} (h : s.st.Canonical) : (completeKilled s ctx).st.Canonical :=
  foldl_canonical completeLaunch_canonical h

theorem ctxcmdStart_canonical {v} (h : s.st.Canonical) : (ctxcmdStart s v).st.Canonical := by
  unfold ctxcmdStart
  grind -ring -linarith -order [= startSave_st, = setCtx_st, !killContext_canonical, !completeKilled_canonical]

theorem ctxcmdWrite_canonical {port v} (h : s.st.Canonical) : (ctxcmdWrite s port v).st.Canonical := by
  unfold ctxcmdWrite
  grind -ring -linarith -order [= hwRefuse_st, !ctxcmdStart_canonical]

theorem ctxcmdOf_canonical {op port v} (h : s.st.Canonical) : Out.Canonical (ctxcmdOf op port v s) := by
  refine whileUp_canonical h ?_
  grind -ring -linarith -order [!whileUp_canonical, !ctxcmdWrite_canonical]

@[simp] theorem ctxtenWrite_st {port ctx v} : (ctxtenWrite s port ctx v).st = s.st := by
  unfold ctxtenWrite
  split <;> simp

theorem execContextCreate_canonical {port ctx v} (h : s.st.Canonical) : Out.Canonical (execContextCreate port ctx v s) := by
  refine whileUp_canonical h ?_
  grind -ring -linarith -order [!whileUp_canonical, = ctxtenWrite_st]

theorem flushGens_canonical (h : s.st.Canonical) : (flushGens s).st.Canonical := foldl_canonical genWriteBack_canonical h

theorem readRegion_canonical {t off n} (h : s.st.Canonical) : (readRegion s t off n).2.st.Canonical := by
  fun_induction readRegion s t off n <;> grind -ring -linarith -order [!tileRead_canonical]

theorem readRegions_canonical {l} (h : s.st.Canonical) : (readRegions s l).2.st.Canonical := by
  fun_induction readRegions s l <;> grind -ring -linarith -order [!readRegion_canonical]

theorem takeOff_canonical {ctx} (h : s.st.Canonical) : (takeOff s ctx).st.Canonical := by
  have hr : ∀ l : List Tid, (l.foldl (fun s t => dropRegions s ctx t) s).st.Canonical := fun l => foldl_canonical
    dropRegions_canonical h
  simpa [takeOff, foldl_st] using hr _

theorem writeArea_canonical {ctx} (h : s.st.Canonical) : (writeArea s ctx).2.st.Canonical :=
  areaWrite_canonical iaPerform_canonical h

theorem areaFault_canonical {ctx e} (h : s.st.Canonical) : (areaFault s ctx e).st.Canonical := by
  unfold areaFault
  grind -ring -linarith -order [!divertSave_canonical, !loseContext_canonical]

theorem saveDone_canonical {ctx bytes} (h : s.st.Canonical) : (saveDone s ctx bytes).st.Canonical := by
  unfold saveDone
  grind -ring -linarith -order [!takeOff_canonical, = setCtx_st]

theorem execContextSaved_canonical (h : s.st.Canonical) : Out.Canonical (execContextSaved s) := by
  unfold execContextSaved
  grind -ring -linarith -order [Out.Canonical, !writeArea_canonical, !flushGens_canonical, !loseContext_canonical,
    !readRegions_canonical,
    !areaFault_canonical, !saveDone_canonical]

theorem clearCut_canonical {ctx x} (h : s.st.Canonical) : (clearCut s ctx x).st.Canonical := by
  unfold clearCut
  grind -ring -linarith -order [!readVA_canonical, !writeVA_canonical]

theorem putRegions_canonical {ctx l m} (h : s.st.Canonical) : (putRegions s ctx l m).st.Canonical := by
  fun_induction putRegions s ctx l m <;> grind -ring -linarith -order [!ownTileWrite_canonical]

theorem putOn_canonical {k} (h : s.st.Canonical) : (putOn s k).st.Canonical := by
  unfold putOn
  grind -ring -linarith -order [!putRegions_canonical]

@[simp] theorem reacceptCmd_st {c} : (reacceptCmd s c).st = s.st := by
  unfold reacceptCmd
  split <;> simp

@[simp] theorem regrant_st {x} : (regrant s x).st = s.st := rfl

theorem bringBack_canonical {k} (h : s.st.Canonical) : (bringBack s k).st.Canonical := by
  have hc := foldl_canonical (l := k.secs) (f := fun s e => clearCut s k.ctx e.2) clearCut_canonical h
  unfold bringBack
  dsimp only
  rw [setCtx_st]
  dsimp only
  rw [foldl_st fun _ _ => regrant_st, foldl_st fun _ _ => reacceptCmd_st]
  exact putOn_canonical hc

theorem execContextRestored_canonical (h : s.st.Canonical) : Out.Canonical (execContextRestored s) := by
  unfold execContextRestored
  grind -ring -linarith -order [Out.Canonical, !bringBack_canonical]

@[simp] theorem beginCkpt_st {q c} : (beginCkpt s q c).st = s.st := by simp [beginCkpt]

@[simp] theorem endCkpt_st {q c k status cause} : (endCkpt s q c k status cause).st = s.st := by simp [endCkpt]

@[simp] theorem peerAnswers_st {l} : (peerAnswers s l).2.2.st = s.st := by
  induction l generalizing s with
  | nil => rfl
  | cons f l ih =>
    unfold peerAnswers
    split
    · exact ih
    · dsimp only
      split <;> exact ih

theorem saveFrame_canonical {k} (h : s.st.Canonical) : (saveFrame s k).st.Canonical := by
  unfold saveFrame
  grind -ring -linarith -order [!copyFrame_canonical]

theorem saveStep_canonical {q c k} (h : s.st.Canonical) : (saveStep s q c k).st.Canonical := by
  unfold saveStep
  grind -ring -linarith -order [!peerAnswers_st, = endCkpt_st, !saveFrame_canonical]

@[simp] theorem placedFrame_st {k f} : (placedFrame s k f).2.st = s.st := by
  unfold placedFrame
  grind -ring -linarith -order [= sendNode_st]

theorem writeFrame_canonical {f bs} (h : s.st.Canonical) : (writeFrame s f bs).st.Canonical :=
  cellsSet_canonical h

theorem restoreStep_canonical {q c k} (h : s.st.Canonical) : (restoreStep s q c k).st.Canonical := by
  unfold restoreStep
  grind -ring -linarith -order [= endCkpt_st, !placedFrame_st, !writeFrame_canonical]

theorem chkptStep_canonical {q c} (h : s.st.Canonical) : (chkptStep s q c).st.Canonical := by
  unfold chkptStep
  grind -ring -linarith -order [= beginCkpt_st, !saveStep_canonical, !restoreStep_canonical]

theorem cutContext_canonical {ctx} (h : s.st.Canonical) : (cutContext s ctx).st.Canonical := by
  unfold cutContext
  grind -ring -linarith -order [!loseContext_canonical, !readRegions_canonical]

theorem fillReserve_canonical {id} (h : s.st.Canonical) : (fillReserve s id).st.Canonical := cellsSet_canonical h

theorem execCheckpointCut_canonical (h : s.st.Canonical) : Out.Canonical (execCheckpointCut s) := by
  have hcut : ∀ {u : State} (l : List Nat), u.st.Canonical → (l.foldl cutContext u).st.Canonical :=
    fun l hu => foldl_canonical cutContext_canonical hu
  have hgens : (flushGens { s with free := s.free + 1 }).st.Canonical := flushGens_canonical h
  unfold execCheckpointCut
  dsimp only
  split
  · exact h
  · refine Out.ite_canonical h (Out.ite_canonical ?_ ?_)
    · split
      · exact h
      · simp only [Out.Canonical, resumeSections_st]
        exact ite_canonical (hostEvent_canonical (by simpa using h)) (by simpa using h)
    · split
      · exact hcut _ hgens
      · simp only [Out.Canonical, resumeSections_st]
        exact fillReserve_canonical (hcut _ hgens)

@[simp] theorem restoreCtx_st {e} : (restoreCtx s e).st = s.st := by
  unfold restoreCtx
  split <;> simp

theorem restoreImage_canonical (h : s.st.Canonical) : (restoreImage s).st.Canonical := by
  unfold restoreImage
  split
  · rwa [foldl_st fun _ _ => restoreCtx_st]
  · exact h

theorem execCheckpointEnd_canonical (h : s.st.Canonical) : Out.Canonical (execCheckpointEnd s) := by
  unfold execCheckpointEnd
  grind -ring -linarith -order [Out.Canonical, !drainCmd_canonical, !restoreImage_canonical, !hostEvent_canonical]

/-! ### The host's side -/

theorem grtabPut_st {v} {s'} (e : grtabPut s v = .ok s') : s'.st = s.st := by
  unfold grtabPut at e
  grind -ring -linarith -order

theorem grheapPut_st {v} {s'} (e : grheapPut s v = .ok s') : s'.st = s.st := by
  unfold grheapPut at e
  grind -ring -linarith -order

theorem rsvtPut_st {kind off v} {s'} (e : rsvtPut s kind off v = .ok s') : s'.st = s.st := by
  unfold rsvtPut at e
  grind -ring -linarith -order [= foldTable_st]

theorem execFrameBoundary_canonical (h : s.st.Canonical) : Out.Canonical (execFrameBoundary s) := by
  unfold execFrameBoundary
  grind -ring -linarith -order [Out.Canonical, = foldTable_st]

theorem hostPut_canonical {port off r} (h : s.st.Canonical) (hr : ∀ {s'}, r = .ok s' → s'.st.Canonical) :
    (hostPut s port off r).st.Canonical := by
  unfold hostPut
  split
  · exact hr rfl
  · simpa using h

theorem hostPut_of_st {port off r} (h : s.st.Canonical) (hr : ∀ {s'}, r = .ok s' → s'.st = s.st) :
    (hostPut s port off r).st.Canonical :=
  hostPut_canonical h fun e => by rwa [hr e]

theorem execGrtabWrite_canonical {port v} (h : s.st.Canonical) : Out.Canonical (execGrtabWrite port v s) :=
  whileUp_canonical h (hostPut_of_st h grtabPut_st)

theorem execRsvtWrite_canonical {port kind off v} (h : s.st.Canonical) : Out.Canonical (execRsvtWrite port kind off v s) :=
  whileUp_canonical h (ite_canonical (hostPut_of_st h rsvtPut_st) h)

theorem keyldPut_st {v} {s'} (e : keyldPut s v = .ok s') : s'.st = s.st := by
  unfold keyldPut at e
  grind -ring -linarith -order

@[simp] theorem keyldDone_st : (keyldDone s).st = s.st := by
  unfold keyldDone
  grind -ring -linarith -order

theorem execKeyLoad_canonical {port v} (h : s.st.Canonical) : Out.Canonical (execKeyLoad port v s) :=
  whileUp_canonical h (ite_canonical h (hostPut_of_st h keyldPut_st))

theorem execKeyClear_canonical {port v} (h : s.st.Canonical) : Out.Canonical (execKeyClear port v s) :=
  whileUp_canonical h (ite_canonical (hostPut_of_st h keyldPut_st) h)

theorem fmbcmdPut_st {v} {s'} (e : fmbcmdPut s v = .ok s') : s'.st = s.st := by
  unfold fmbcmdPut at e
  grind -ring -linarith -order

theorem fmbnoncePut_st {i v} {s'} (e : fmbnoncePut s i v = .ok s') : s'.st = s.st := by
  unfold fmbnoncePut at e
  grind -ring -linarith -order

theorem execAttestationRequest_canonical {port v} (h : s.st.Canonical) : Out.Canonical (execAttestationRequest port v s) :=
  whileUp_canonical h (hostPut_of_st h fmbcmdPut_st)

theorem execAttestationDone_canonical (h : s.st.Canonical) : Out.Canonical (execAttestationDone s) := by
  unfold execAttestationDone
  grind -ring -linarith -order [Out.Canonical]

theorem haltctlPut_st {v} {s'} (e : haltctlPut s v = .ok s') : s'.st = s.st := by
  unfold haltctlPut at e
  grind -ring -linarith -order [= setCore_st]

theorem execHaltResume_canonical {port v} (h : s.st.Canonical) : Out.Canonical (execHaltResume port v s) :=
  whileUp_canonical h (hostPut_of_st h haltctlPut_st)

theorem apbasePut_st {which v} {s'} (e : apbasePut s which v = .ok s') : s'.st = s.st := by
  unfold apbasePut at e
  grind -ring -linarith -order

@[simp] theorem hevbPut_st {which v} : (hevbPut s which v).st = s.st := by simp [hevbPut]

theorem lqcfgPut_st {q v} {s'} (e : lqcfgPut s q v = .ok s') : s'.st = s.st := by
  unfold lqcfgPut at e
  grind -ring -linarith -order [= setLQ_st]

@[simp] theorem semFree_st {port i v} : (semFree s port i v).st = s.st := by
  unfold semFree
  grind -ring -linarith -order

@[simp] theorem routePut_st {e v} : (routePut s e v).st = s.st := by simp [routePut]

theorem controlWrite_canonical {port off v} (h : s.st.Canonical) : (controlWrite s port off v).st.Canonical := by
  unfold controlWrite
  exact ite_canonical h <| ite_canonical (by simpa using h) <| ite_canonical (hostPut_of_st h keyldPut_st) <|
    ite_canonical (by simpa using h) <| ite_canonical (by simpa using h) <| ite_canonical (hostPut_of_st h
    apbasePut_st) <| ite_canonical (hostPut_of_st h apbasePut_st) <| ite_canonical (hostPut_of_st h haltctlPut_st)
    <| ite_canonical (hostPut_of_st h fmbcmdPut_st) <| ite_canonical (hostPut_of_st h fmbnoncePut_st) <|
    ite_canonical (ctxcmdWrite_canonical h) <| ite_canonical (by simpa using h) <| ite_canonical (hostPut_of_st h
    lqcfgPut_st) <| ite_canonical (hostPut_of_st h grtabPut_st) <| ite_canonical (hostPut_of_st h grheapPut_st) <|
    ite_canonical (hostPut_of_st h rsvtPut_st) <| ite_canonical (by simpa using h) <| ite_canonical
    (hostCr_canonical h) h

@[simp] theorem slotWrite_st {q j i v} : (slotWrite s q j i v).st = s.st := by
  unfold slotWrite
  grind -ring -linarith -order [= setLQ_st]

@[simp] theorem queueWrite_st {off v} : (queueWrite s off v).st = s.st := by
  unfold queueWrite
  grind -ring -linarith -order [= slotWrite_st, = doorWrite_st]

theorem execRegisterWrite_canonical {port off v} (h : s.st.Canonical) : Out.Canonical (execRegisterWrite port off v s) := by
  refine whileUp_canonical h ?_
  grind -ring -linarith -order [!whileUp_canonical, !controlWrite_canonical, = queueWrite_st]

theorem execHwstatRead_canonical {_port which} (h : s.st.Canonical) : Out.Canonical (execHwstatRead _port which s) := by
  unfold execHwstatRead
  grind -ring -linarith -order [Out.Canonical]

theorem execLqstatRead_canonical {_port q} (h : s.st.Canonical) : Out.Canonical (execLqstatRead _port q s) := by
  unfold execLqstatRead
  grind -ring -linarith -order [Out.Canonical, = setLQ_st]

theorem execSemaphoreRead_canonical {i a b} (h : s.st.Canonical) : Out.Canonical (execSemaphoreRead i a b s) := by
  unfold execSemaphoreRead
  grind -ring -linarith -order [Out.Canonical]

theorem execSemaphoreWrite_canonical {port i v} (h : s.st.Canonical) : Out.Canonical (execSemaphoreWrite port i v s) := by
  refine whileUp_canonical h ?_
  grind -ring -linarith -order [!whileUp_canonical, = semFree_st]

theorem hostEach_canonical {port wr ps off} (h : s.st.Canonical) : (hostEach s port wr ps off).2.st.Canonical := by
  induction ps generalizing s off with
  | nil => exact h
  | cons p l ih =>
    have hrest : ∀ {u : State} {k ia bs : _} {m : List Byte}, u.st.Canonical → (match hostEach (noteTorn u k ia m) port wr l
      (off + p.len) with
      | (.ok more, s) => (Res.ok (bs ++ more), s)
      | x => x).2.st.Canonical := by
      intro u k ia bs m hu
      have := ih (s := noteTorn u k ia m) (off := off + p.len) hu
      split
      · rename_i e; exact canonical_of_eq e this
      · exact this
    unfold hostEach
    dsimp only
    split <;> rename_i e <;> have h1 := canonical_of_eq e (apart_canonical h)
    · exact hrest h1
    · exact h1
    · split
      · exact h1
      · split
        · exact hrest h1
        · exact hrest h1

theorem hostAccess_canonical {port ps wr} (h : s.st.Canonical) : (hostAccess s port ps wr).2.st.Canonical := by
  unfold hostAccess
  grind -ring -linarith -order [!hostEach_canonical, = dropTorn_st, = dropAsks_st]

@[simp] theorem endFlight_st {port unsupported} : (endFlight s port unsupported).st = s.st := rfl

@[simp] theorem keepFlight_st {port off n base} : (keepFlight s port off n base).st = s.st := by
  unfold keepFlight
  split <;> simp

theorem execHostMemoryAccess_canonical {port off len wr} (h : s.st.Canonical) : Out.Canonical (execHostMemoryAccess port off len
  wr s) := by
  unfold execHostMemoryAccess
  grind -ring -linarith -order [Out.Canonical, !hostAccess_canonical, = keepFlight_st, = hwRefuse_st, = endFlight_st]

theorem execModuleReset_canonical {image blob} (h : s.st.Canonical) : Out.Canonical (execModuleReset image blob s) := by
  have hm := filter_wf (fun c => c.1 < 2 * 2 ^ 44) s.st.mem h.1
  exact ite_canonical ⟨hm, h.2⟩ ⟨hm, h.2⟩

@[simp] theorem markFallow_st {d} : (markFallow s d).st = s.st := rfl

theorem execDiePowerUp_canonical {die ok} (h : s.st.Canonical) : Out.Canonical (execDiePowerUp die ok s) := by
  unfold execDiePowerUp
  refine Out.ite_canonical h (Out.ite_canonical ?_ ?_)
  · exact hostEvent_canonical (by simpa using h)
  · exact ⟨filter_wf _ _ h.1, h.2⟩

theorem cutOff_canonical {l} (h : s.st.Canonical) : (cutOff s l).st.Canonical :=
  foldl_canonical applyAck_canonical h

theorem execLinkDown_canonical {l} (h : s.st.Canonical) : Out.Canonical (execLinkDown l s) := by
  unfold execLinkDown
  grind -ring -linarith -order [Out.Canonical, !cutOff_canonical, !hostEvent_canonical]

theorem execLinkTrained_canonical {l} (h : s.st.Canonical) : Out.Canonical (execLinkTrained l s) := by
  refine whileUp_canonical h ?_
  grind -ring -linarith -order [!whileUp_canonical]

@[simp] theorem sendBeacon_st {but t} : (sendBeacon s but t).st = s.st := foldl_st fun _ _ => sendNode_st _ _ _ _

theorem execTimeBeacon_canonical (h : s.st.Canonical) : Out.Canonical (execTimeBeacon s) := by
  unfold execTimeBeacon
  grind -ring -linarith -order [Out.Canonical, = sendBeacon_st]

theorem execBeaconArrival_canonical {l t} (h : s.st.Canonical) : Out.Canonical (execBeaconArrival l t s) := by
  unfold execBeaconArrival
  grind -ring -linarith -order [Out.Canonical, = sendBeacon_st]

theorem execThermalLimit_canonical {block} (h : s.st.Canonical) : Out.Canonical (execThermalLimit block s) := by
  unfold execThermalLimit
  grind -ring -linarith -order [Out.Canonical, !hostEvent_canonical]

theorem execThermalCritical_canonical {die} (h : s.st.Canonical) : Out.Canonical (execThermalCritical die s) := by
  refine Out.ite_canonical h ?_
  simpa [Out.Canonical] using foldl_canonical loseContext_canonical h

/-! ### Register computation and branches -/

theorem branch_canonical {a b o taken} (h : s.st.Canonical) : Out.Canonical (branch s a b o taken) := by
  unfold branch
  grind -ring -linarith -order [Out.Canonical, !onCore_canonical, = setCore_st]

theorem execJmp_canonical {o} (h : s.st.Canonical) : Out.Canonical (execJmp o s) := by
  unfold execJmp
  grind -ring -linarith -order [Out.Canonical, !onCore_canonical, = setCore_st]

theorem execJal_canonical {o} (h : s.st.Canonical) : Out.Canonical (execJal o s) := by
  unfold execJal
  grind -ring -linarith -order [Out.Canonical, !onCore_canonical, = setCore_st]

theorem execJr_canonical {a o} (h : s.st.Canonical) : Out.Canonical (execJr a o s) := by
  unfold execJr
  grind -ring -linarith -order [Out.Canonical, !onCore_canonical, !trapOpen_canonical, = setCore_st]

/-! ### Memory tiles -/

theorem execCorrectionWriteback_canonical (h : s.st.Canonical) : Out.Canonical (execCorrectionWriteback s) := by
  unfold execCorrectionWriteback
  split
  · exact h
  · dsimp only
    split
    · exact ⟨cellSet_wf _ _ _ h.1, h.2⟩
    · exact h

@[simp] theorem clearBankCounts_st {t} : (clearBankCounts s t).st = s.st := rfl

theorem scrubNext_canonical {t} (h : s.st.Canonical) : (scrubNext s t).st.Canonical := by
  unfold scrubNext
  grind -ring -linarith -order [= clearBankCounts_st, !decodeRow_canonical]

theorem execScrubRow_canonical (h : s.st.Canonical) : Out.Canonical (execScrubRow s) := by
  unfold execScrubRow
  grind -ring -linarith -order [Out.Canonical, !scrubNext_canonical]

theorem execScrubTakeover_canonical (h : s.st.Canonical) : Out.Canonical (execScrubTakeover s) := by
  unfold execScrubTakeover
  grind -ring -linarith -order [Out.Canonical, !scrubNext_canonical]

/-! ### Scheduling -/

theorem fetchWord_canonical {t f pc} (h : s.st.Canonical) : (fetchWord s t f pc).2.st.Canonical := by
  unfold fetchWord
  grind -ring -linarith -order [!iaAccess_canonical, !invWord_st]

@[simp] theorem noteFired_st {t n} : (noteFired s t n).st = s.st := by
  unfold noteFired
  split <;> simp

/-! ### Steps -/

/-- Every instruction and event keeps the form: one arm of `exec` after the other, arms of one form together. -/
theorem exec_canonical (h : s.st.Canonical) (i : Instr) : Out.Canonical (exec i s) := by
  unfold exec
  cases i with
  | add | sub | and | or | xor | andn | shl | shr | sar | rot | mul | mulh | mulhu | div | divu | rem | remu | min | max
    | minu | maxu | clz | ctz | cnt | sext | zext | seq | slt | sltu | sel | cmov | addi | andi | ori | xori | shli | shri
    | sari | ldi | ldsh | slti | sltui | muli | time =>
    exact regOp_canonical h
  | beq | bne | blt | bge | bltu | bgeu => exact branch_canonical h
  | jmp => exact execJmp_canonical h
  | jal => exact execJal_canonical h
  | jr => exact execJr_canonical h
  | ld | ldAcq | ldInv => exact loadForm_canonical h
  | st | stRel => exact storeForm_canonical h
  | atomAdd | atomAnd | atomOr | atomXor | atomMin | atomMax | atomMinu | atomMaxu | atomSwap | atomCas | atomFadd32
    | atomFadd16 =>
    exact atomForm_canonical h
  | redAdd | redAnd | redOr | redXor | redMin | redMax | redMinu | redMaxu | redFadd32 | redFadd16 | redFmax32 | redFmin32 =>
    exact redForm_canonical h
  | fence => exact execFence_canonical h
  | sbar => exact execSbar_canonical h
  | spawn => exact execSpawn_canonical h
  | sig => exact execSig_canonical h
  | sigeAddress => exact execSigeAddress_canonical h
  | sigeEntry => exact execSigeEntry_canonical h
  | park => exact execPark_canonical h
  | exit => exact execExit_canonical h
  | yield => exact execYield_canonical h
  | prio => exact execPrio_canonical h
  | tdecl => exact execTdecl_canonical h
  | jcnt => exact execJcnt_canonical h
  | cfge | cfgs | cfgo | cfgk => exact cfgForm_canonical h
  | arm => exact execArm_canonical h
  | disarm => exact execDisarm_canonical h
  | secwait => exact execSecwait_canonical h
  | strm => exact execStrm_canonical h
  | sstop => exact execSstop_canonical h
  | smark => exact execSmark_canonical h
  | tapset => exact execTapset_canonical h
  | binit => exact execBinit_canonical h
  | barr => exact execBarr_canonical h
  | bwait => exact execBwait_canonical h
  | bchgSetExpect | bchgRelease => exact bchg_canonical h
  | btest => exact execBtest_canonical h
  | amsg => exact execAmsg_canonical h
  | amsgw => exact execAmsgw_canonical h
  | rfill => exact execRfill_canonical h
  | publish => exact execPublish_canonical h
  | ginv => exact execGinv_canonical h
  | gprobe => exact execGprobe_canonical h
  | trap => exact execTrap_canonical h
  | rett => exact execRett_canonical h
  | crd => exact execCrd_canonical h
  | cwr => exact execCwr_canonical h
  | wpt => exact execWpt_canonical h
  | halt => exact execHalt_canonical h
  | nop => exact execNop_canonical h
  | evrd => exact execEvrd_canonical h
  | iadd | isub | iadds | isubs | imul | imulh | imin | imax | iand | ior | ixor | iandn | ishl | ishr | isar =>
    exact intForm_canonical h
  | iabs | ineg => exact intForm1_canonical h
  | icmp => exact execIcmp_canonical h
  | isel => exact execIsel_canonical h
  | fadd | fsub | fmul | fmin | fmax | fresc => exact fltForm_canonical h
  | fmac => exact execFmac_canonical h
  | fcmp => exact execFcmp_canonical h
  | fabs | fneg | frcp | frsq | fsqrt | fexp2 | flog2 => exact fltForm1_canonical h
  | cvt | quant | deq => exact cvtForm_canonical h
  | pack => exact execPack_canonical h
  | unpack => exact execUnpack_canonical h
  | tunp => exact execTunp_canonical h
  | lsum | lmax | lmin => exact redLane_canonical h
  | lshuf => exact execLshuf_canonical h
  | lbcast => exact execLbcast_canonical h
  | lscan => exact execLscan_canonical h
  | lcmpr => exact execLcmpr_canonical h
  | winnow => exact execWinnow_canonical h
  | sjoin => exact execSjoin_canonical h
  | acc => exact execAcc_canonical h
  | pass => exact execPass_canonical h
  | const => exact execConst_canonical h
  | iota => exact execIota_canonical h
  | ldt | stt | ldo | sto | amo | rdx => exact onSlot_canonical portOp_canonical h
  | mwld => exact execMwld_canonical h
  | mfeed => exact execMfeed_canonical h
  | mdrain => exact execMdrain_canonical h
  | mzero => exact execMzero_canonical h
  | mwin => exact execMwin_canonical h
  | mharrow => exact execMharrow_canonical h
  | mtwid => exact execMtwid_canonical h
  | harrowStageComplete => exact execHarrowStageComplete_canonical h
  | twiddleFillDone => exact execTwiddleFillDone_canonical h
  | memoryPortComplete => exact execMemoryPortComplete_canonical h
  | steer => exact execSteer_canonical h
  | merge => exact execMerge_canonical h
  | select => exact execSelect_canonical h
  | carry => exact execCarry_canonical h
  | invar => exact execInvar_canonical h
  | count => exact execCount_canonical h
  | filter => exact execFilter_canonical h
  | distrib => exact execDistrib_canonical h
  | collect => exact execCollect_canonical h
  | tap => exact execTap_canonical h
  | sealOperator => exact execSealOperator_canonical h
  | control => exact execControl_canonical h
  | tokenTransfer => exact execTokenTransfer_canonical h
  | messageInject => exact execMessageInject_canonical h
  | stopEdgeRequest => exact execStopEdgeRequest_canonical h
  | sectionCut => exact execSectionCut_canonical h
  | sectionIdle => exact execSectionIdle_canonical h
  | generatorElement => exact execGeneratorElement_canonical h
  | coordinateToken => exact execCoordinateToken_canonical h
  | writeStreamToken => exact execWriteStreamToken_canonical h
  | writeStreamEnd => exact execWriteStreamEnd_canonical h
  | gatherReply => exact execGatherReply_canonical h
  | windowAccess => exact execWindowAccess_canonical h
  | bankAccess => exact execBankAccess_canonical h
  | correctionWriteback => exact execCorrectionWriteback_canonical h
  | scrubRow => exact execScrubRow_canonical h
  | scrubTakeover => exact execScrubTakeover_canonical h
  | fifoPush => exact execFifoPush_canonical h
  | fifoPop => exact execFifoPop_canonical h
  | homePortAccess => exact execHomePortAccess_canonical h
  | pageWalk => exact execPageWalk_canonical h
  | lineEntryWriteback => exact execLineEntryWriteback_canonical h
  | forwardedAccess => exact execForwardedAccess_canonical h
  | heatWindowEnd => exact execHeatWindowEnd_canonical h
  | tierMove => exact execTierMove_canonical h
  | tierMoveCommit => exact execTierMoveCommit_canonical h
  | pullRequest => exact execPullRequest_canonical h
  | ownershipMoveComplete => exact execOwnershipMoveComplete_canonical h
  | sharerRegister => exact execSharerRegister_canonical h
  | sharerUpdate => exact execSharerUpdate_canonical h
  | wake => exact execWake_canonical h
  | retryRingMove => exact execRetryRingMove_canonical h
  | afterIssueFault => exact execAfterIssueFault_canonical h
  | numericWindowEnd => exact execNumericWindowEnd_canonical h
  | engineInboxMessage => exact execEngineInboxMessage_canonical h
  | acknowledgement => exact execAcknowledgement_canonical h
  | injectionResend => exact execInjectionResend_canonical h
  | copy => exact engTurn_canonical copyStep_canonical h
  | fill => exact engTurn_canonical fillStep_canonical h
  | xpose => exact engTurn_canonical xposeStep_canonical h
  | gather | scatter => exact engTurn_canonical gsStep_canonical h
  | csrb => exact engTurn_canonical csrbStep_canonical h
  | prefetch => exact engTurn_canonical prefetchStep_canonical h
  | migrate => exact engTurn_canonical migrateStep_canonical h
  | chkpt => exact engTurn_canonical chkptStep_canonical h
  | checkpointCut => exact execCheckpointCut_canonical h
  | checkpointEnd => exact execCheckpointEnd_canonical h
  | hash => exact engTurn_canonical hashStep_canonical h
  | reduce => exact engTurn_canonical reduceStep_canonical h
  | allred | allgath | rscat | bcast => exact engTurn_canonical collStep_canonical h
  | collectiveBegin => exact execCollectiveBegin_canonical h
  | collectiveAbort => exact execCollectiveAbort_canonical h
  | publishCommand => exact engTurn_canonical publishStep_canonical h
  | engineCommandDrained => exact execEngineCommandDrained_canonical h
  | barrierArrival => exact execBarrierArrival_canonical h
  | barrierDischarge => exact execBarrierDischarge_canonical h
  | barrierComplete => exact execBarrierComplete_canonical h
  | bwaitObserve => exact execBwaitObserve_canonical h
  | podBarrierJoin => exact execPodBarrierJoin_canonical h
  | podBarrierCompletion => exact execPodBarrierCompletion_canonical h
  | barrierPrioUpdate => exact execBarrierPrioUpdate_canonical h
  | podBarrierPoison => exact execPodBarrierPoison_canonical h
  | inheritanceFloor => exact execInheritanceFloor_canonical h
  | signal => exact execSignal_canonical h
  | drillExamine => exact execDrillExamine_canonical h
  | drillRetest => exact execDrillRetest_canonical h
  | claimRequest => exact execClaimRequest_canonical h
  | granaryLookup => exact execGranaryLookup_canonical h
  | drillPop => exact execDrillPop_canonical h
  | parkWake => exact execParkWake_canonical h
  | taskRetire => exact execTaskRetire_canonical h
  | preemptionRequest => exact execPreemptionRequest_canonical h
  | preemptDrainExpiry => exact execPreemptDrainExpiry_canonical h
  | launchDoor => exact execLaunchDoor_canonical h
  | launchArrival => exact execLaunchArrival_canonical h
  | launchWaitSatisfied => exact execLaunchWaitSatisfied_canonical h
  | swathGrant => exact execSwathGrant_canonical h
  | codeFill => exact execCodeFill_canonical h
  | instanceEntry => exact execInstanceEntry_canonical h
  | dieWithdraw => exact execDieWithdraw_canonical h
  | dieAdd => exact execDieAdd_canonical h
  | launchComplete => exact execLaunchComplete_canonical h
  | tholdRetry => exact execTholdRetry_canonical h
  | tholdPoison => exact execTholdPoison_canonical h
  | thend => exact execThend_canonical h
  | tevpWrite => exact execTevpWrite_canonical h
  | tevbWrite => exact execTevbWrite_canonical h
  | tserrRead => exact execTserrRead_canonical h
  | rangeRegisterCommit => exact execRangeRegisterCommit_canonical h
  | bufferMapCommit => exact execBufferMapCommit_canonical h
  | watchpointCommit => exact execWatchpointCommit_canonical h
  | tinv => exact execTinv_canonical h
  | tinvComplete => exact execTinvComplete_canonical h
  | fppush => exact execFppush_canonical h
  | mtstatWrite => exact execMtstatWrite_canonical h
  | grtabWrite => exact execGrtabWrite_canonical h
  | rsvtWrite => exact execRsvtWrite_canonical h
  | registerWrite => exact execRegisterWrite_canonical h
  | contextCreate => exact execContextCreate_canonical h
  | contextSave | contextRestore | contextKill | contextRelease => exact ctxcmdOf_canonical h
  | contextSaved => exact execContextSaved_canonical h
  | contextRestored => exact execContextRestored_canonical h
  | hostMemoryAccess => exact execHostMemoryAccess_canonical h
  | semaphoreRead => exact execSemaphoreRead_canonical h
  | semaphoreWrite => exact execSemaphoreWrite_canonical h
  | hwstatRead => exact execHwstatRead_canonical h
  | lqstatRead => exact execLqstatRead_canonical h
  | keyLoad => exact execKeyLoad_canonical h
  | keyClear => exact execKeyClear_canonical h
  | attestationRequest => exact execAttestationRequest_canonical h
  | attestationDone => exact execAttestationDone_canonical h
  | haltResume => exact execHaltResume_canonical h
  | moduleReset => exact execModuleReset_canonical h
  | diePowerUp => exact execDiePowerUp_canonical h
  | linkDown => exact execLinkDown_canonical h
  | timeBeacon => exact execTimeBeacon_canonical h
  | beaconArrival => exact execBeaconArrival_canonical h
  | thermalLimit => exact execThermalLimit_canonical h
  | thermalCritical => exact execThermalCritical_canonical h
  | decodeFault => exact execDecodeFault_canonical h
  | fetchFault => exact execFetchFault_canonical h
  | sequencerAccessReply => exact execSequencerAccessReply_canonical h
  | linkTrained => exact execLinkTrained_canonical h
  | frameBoundary => exact execFrameBoundary_canonical h
  -- SEAL, the one arm left, whose constructor's name is a keyword.
  | _ => exact execSeal_canonical h

theorem roundTick_canonical (h : s.st.Canonical) : (roundTick s).st.Canonical :=
  ite_canonical h h

theorem stepCore_canonical {t} (h : s.st.Canonical) : Out.Canonical (stepCore s t) := by
  unfold stepCore
  dsimp only
  split
  · exact h
  · refine Out.ite_canonical h (Out.ite_canonical (exec_canonical ?_ _) ?_)
    · exact h
    · split
      · split
        · exact h
        · refine exec_canonical ?_ _
          exact h
      · split <;> rename_i e <;> have h1 := canonical_of_eq e (fetchWord_canonical h)
        · exact h1
        · exact exec_canonical h1 _
        · split <;> exact exec_canonical h1 _

theorem stepSlot_canonical {t n} (h : s.st.Canonical) : Out.Canonical (stepSlot s t n) := by
  have hn : (noteFired s t n).st.Canonical := by simpa using h
  unfold stepSlot
  dsimp only
  split
  · exact hn
  · refine exec_canonical ?_ _
    exact hn

theorem runTurn_canonical (h : s.st.Canonical) (x : Turn) : Out.Canonical (runTurn s x) := by
  cases x with
  | core t => exact stepCore_canonical h
  | slot t n => exact stepSlot_canonical h
  | forfin =>
    have hk : (keyldDone s).st.Canonical := by simpa using h
    exact hk
  | event i ops =>
    refine exec_canonical ?_ i
    exact h

theorem step_canonical (h : s.st.Canonical) : Out.Canonical (step s) := by
  have hr := roundTick_canonical h
  unfold step stepTurn
  split
  · exact hr
  · refine runTurn_canonical ?_ _
    exact hr

/-! ### O60 -/

end

/-- Settles O60: the lemma of `step`, read for the state that it answers. -/
theorem stepKeepsStorageForm : Obligations.StepKeepsStorageForm := by
  unfold Obligations.StepKeepsStorageForm
  intro s s' h e
  have hs := step_canonical (stored_iff_canonical.1 h)
  rw [e] at hs
  exact stored_iff_canonical.2 hs

end Sys2Proof.Machine
end

section
/-! PROOF. AMSG, AMSGW and the injection of a message (R23, R24, R125, R126, R298). -/
namespace Sys2Proof.Machine
open Sys2Proof.Claims

/-! ### The injection buffer -/

/-- A form that R419 bars from a pure firing goes ahead where the firing is not pure, or is in system state. -/
theorem notPure_of_mayImpure {c : Core} {f : Firing} (h : mayImpure c f = true) (s : State) (t : Tid) (k : State) :
    notPure s t c f k = k := by
  simp only [mayImpure, Bool.or_eq_true, Bool.not_eq_true'] at h
  rcases h with h | h <;> simp [notPure, h]

/-- A core's message stands last in the injection buffer, its header filled, under the number drawn for it (R23, R125). -/
theorem bufferMessage_msgs (s : State) (t : Tid) (c : Core) (f : Firing) (w : List Word) :
    ∃ m : Msg, (bufferMessage s t c f w).1.fab.msgs = s.fab.msgs ++ [m] ∧ m.uid = s.eng.nextUid ∧ m.src = t ∧
      m.words = fillHeader s t c f w ∧ m.injected = false :=
  ⟨_, rfl, rfl, rfl, rfl, rfl⟩

@[simp] theorem bufferMessage_uid (s : State) (t : Tid) (c : Core) (f : Firing) (w : List Word) :
    (bufferMessage s t c f w).2 = s.eng.nextUid := rfl

@[simp] theorem getCore_bufferMessage (s : State) (t : Tid) (c : Core) (f : Firing) (w : List Word) (u : Tid) :
    getCore (bufferMessage s t c f w).1 u = getCore s u := rfl

@[simp] theorem withFiring_pc (c : Core) (g : Firing → Firing) : (c.withFiring g).pc = c.pc := rfl

/-- A form that has ended leaves the pc at the next word, but where it was issued again (R410). -/
theorem finish_pc (c : Core) : c.finish.pc = if c.replay = [] then c.pc + 4 else c.pc := by
  unfold Core.finish
  cases hr : c.replay with
  | nil => rw [if_pos rfl]; rfl
  | cons x l => rw [if_neg (List.cons_ne_nil x l)]

@[simp] theorem finish_withFiring_pc (c : Core) (g : Firing → Firing) : (c.withFiring g).finish.pc = c.finish.pc := by
  simp only [finish_pc]; rfl

/-! ### AMSG and AMSGW -/

section
variable {s s1 : State} {t : Tid} {c : Core} {f : Firing} {a d : Reg} {w : List Word}

/-- AMSG with its message read: it stands in the injection buffer, and the core waits for its acknowledgement (R298). -/
theorem amsg_answers (hrun : Runs s t c f) (hp : mayImpure c f = true) (hd : c.ready [a, d] = true)
    (ha : (c.opA a).toNat % 32 = 0) (hq : c.acqDone = true)
    (hf : formReads s c (coreWho t f (syncKey t)) (c.opA a) 512 = true)
    (hm : readMessage s (coreWho t f (syncKey t)) (c.opA a) = (.ok w, s1)) (hc : getCore s1 t = c)
    (hw : ∀ x y, c.waiting ≠ .amsg x y) :
    Answers (.amsg a d) s (fun s' => s'.st = s1.st ∧ (getCore s' t).pc = c.pc ∧
      (getCore s' t).waiting = .amsg s1.eng.nextUid d ∧ ∃ m : Msg, s'.fab.msgs = s1.fab.msgs ++ [m] ∧ m.uid = s1.eng.nextUid ∧
        m.src = t ∧ m.words = fillHeader s1 t c f w ∧ m.injected = false) := by
  obtain ⟨ht, hg, hr, hh⟩ := hrun
  have he : exec (.amsg a d) s = execAmsg a d s := rfl
  refine ⟨_, he.trans (onCore_next _ ht hg hr hh), ?_⟩
  split
  case h_1 x y hx => exact absurd hx (hw x y)
  case h_2 =>
    simp only [hd, notPure_of_mayImpure hp, ha, hq, hf, hm, hc, Bool.not_true, Bool.false_eq_true, if_false, ne_eq,
      not_true_eq_false, Bool.or_self, getCore_setCore, setCore_st, bufferMessage_st, getCore_bufferMessage, bufferMessage_uid,
      withFiring_pc, true_and]
    exact bufferMessage_msgs s1 t c f w

/-- AMSGW with its message read and the one before acknowledged: the message stands in the injection buffer and the core goes on,
keeping its number and VA for the acknowledgement (R298). -/
theorem amsgw_answers (hrun : Runs s t c f) (hp : mayImpure c f = true) (hd : c.ready [a] = true)
    (ha : (c.opA a).toNat % 32 = 0) (hq : c.acqDone = true)
    (hf : formReads s c (coreWho t f (syncKey t)) (c.opA a) 512 = true)
    (hm : readMessage s (coreWho t f (syncKey t)) (c.opA a) = (.ok w, s1)) (hc : getCore s1 t = c) (hw : c.amsgw = none) :
    Answers (.amsgw a) s (fun s' => s'.st = s1.st ∧ (getCore s' t).pc = c.finish.pc ∧
      (getCore s' t).amsgw = some (s1.eng.nextUid, c.opA a) ∧ ∃ m : Msg, s'.fab.msgs = s1.fab.msgs ++ [m] ∧
        m.uid = s1.eng.nextUid ∧ m.src = t ∧ m.words = fillHeader s1 t c f w) := by
  obtain ⟨ht, hg, hr, hh⟩ := hrun
  have he : exec (.amsgw a) s = execAmsgw a s := rfl
  refine ⟨_, he.trans (onCore_next _ ht hg hr hh), ?_⟩
  simp only [hd, notPure_of_mayImpure hp, ha, hq, hf, hm, hc, hw, Bool.not_true, Bool.false_eq_true, if_false, ne_eq,
    not_true_eq_false, Bool.or_self, Option.isSome_none, getCore_setCore, setCore_st, bufferMessage_st, getCore_bufferMessage,
    bufferMessage_uid, finish_withFiring_pc, true_and]
  obtain ⟨m, hmsgs, huid, hsrc, hwords, -⟩ := bufferMessage_msgs s1 t c f w
  exact ⟨m, hmsgs, huid, hsrc, hwords⟩

/-- A second AMSGW waits for the acknowledgement of the first (R298). -/
theorem amsgw_waits (hrun : Runs s t c f) (hp : mayImpure c f = true) (hd : c.ready [a] = true)
    (ha : (c.opA a).toNat % 32 = 0) (hw : c.amsgw ≠ none) : exec (.amsgw a) s = .next s := by
  obtain ⟨ht, hg, hr, hh⟩ := hrun
  have he : exec (.amsgw a) s = execAmsgw a s := rfl
  refine he.trans ((onCore_next _ ht hg hr hh).trans (congrArg _ ?_))
  simp only [hd, notPure_of_mayImpure hp, ha, Option.isSome_iff_ne_none.2 hw, Bool.not_true, Bool.false_eq_true, if_false, ne_eq,
    not_true_eq_false, Bool.true_or, if_true]

end

/-! ### Injection -/

/-- MESSAGE_INJECT of a message in the buffer: it is refused or injected (R23, R126). -/
theorem exec_messageInject {s : State} {m : Msg}
    (hm : s.fab.msgs.find? (fun m => m.uid == s.op 0 && !m.injected) = some m) (h : s.op 1 = 0) :
    exec .messageInject s = .next (if injectRefused s m then refuseNode s m else injectMessage s m) := by
  show execMessageInject s = _
  simp only [execMessageInject, h, hm, ne_eq, not_true_eq_false, if_false]

/-- A message for this node is the last of those under way, and nothing leaves the module (R24). -/
theorem injectMessage_here {s : State} {m : Msg} (h : m.node = s.boot.node) :
    injectMessage s m = { s with fab := { s.fab with
      msgs := s.fab.msgs.filter (fun x => x.uid != m.uid) ++ [{ m with injected := true, resendAt := none, link := none }] } } := by
  simp only [injectMessage, h, if_true]

/-- A refusal of the message that a core's AMSG waits for is its result word, with status 2 and ENGNODE (R126, R298). -/
theorem refuseNode_amsg {s : State} {m : Msg} {d : Reg} (hs : m.sender ≠ none) (hw : (getCore s m.src).waiting = .amsg m.uid d)
    (ha : (getCore s m.src).amsgw = none) :
    refuseNode s m = setCore { s with fab := { s.fab with msgs := s.fab.msgs.filter (fun x => x.uid != m.uid) } } m.src
      { ((getCore s m.src).setGpr d (BitVec.ofNat 64 (2 ^ 63 + 2 * 2 ^ 32 + Cause.engnode.toNat))).finish with waiting := .none } := by
  have hc : ∀ x : Fabric, getCore { s with fab := x } m.src = getCore s m.src := fun _ => rfl
  have hn : m.sender.isNone = false := Option.isNone_eq_false_iff.2 (Option.isSome_iff_ne_none.2 hs)
  simp only [refuseNode, hn, takeAmsgw, hc, ha, refuseToSender, hw, Bool.false_eq_true, if_false, if_true]

/-! ### O22 -/

/-- Settles O22: AMSG and AMSGW by the message that their read answers, an injection by what the injection unit decides. -/
theorem messageForms : Obligations.MessageForms := by
  unfold Obligations.MessageForms
  refine ⟨?forms, ?inject⟩
  case forms =>
    intro s t c f a d w s1 hrun hp hd ha hq hf hm hc
    have hd1 : c.ready [a] = true := by
      simp only [Core.ready, List.all_cons, List.all_nil, Bool.and_true, Bool.and_eq_true] at hd ⊢
      exact hd.1
    exact ⟨amsg_answers hrun hp hd ha hq hf hm hc, amsgw_answers hrun hp hd1 ha hq hf hm hc, amsgw_waits hrun hp hd1 ha⟩
  case inject =>
    intro s m hm h1
    refine ⟨fun hn hh => ?accepted, fun d hn hs hw ha => ?refused⟩
    case accepted =>
      refine ⟨_, (exec_messageInject hm h1).trans (by rw [if_neg (by simp [hn])]), ?_⟩
      rw [injectMessage_here hh]
      exact ⟨rfl, rfl, rfl⟩
    case refused =>
      refine ⟨_, (exec_messageInject hm h1).trans (by rw [if_pos hn]), ?_⟩
      rw [refuseNode_amsg hs hw ha]
      exact ⟨rfl, getCore_setCore _ _ _⟩

end Sys2Proof.Machine
end

section
/-! PROOF. TOKEN_TRANSFER: a router port moves the head of a ready link, port 7 fills latches (R19, R21, R212, R213, R291). -/
namespace Sys2Proof.Machine
open Sys2Proof.Claims

/-! ### What the parts of a transfer leave alone -/

section
variable (s : State) (h : Tid × Nat)

@[simp] theorem served_cores : (served s h).cores = s.cores := rfl
@[simp] theorem served_stopped : (served s h).fab.stopped = s.fab.stopped := rfl
@[simp] theorem getBuf_served (k : Nat) : getBuf (served s h) k = getBuf s k := rfl

/-- The port of a link that it has served remembers it (R19). -/
theorem served_portRR_self (d : Nat) :
    (served s h).fab.portRR.getD (h.1 * 8 + linkPort h.2) d = h.2 := SMap.getD_set_self _ _ _ _

/-- A token that has come by another link than one to an element is in no latch yet (R213). -/
theorem landed_of_not_element (hl : h.2 < 32 ∨ 40 ≤ h.2) : landed s h = s := by
  have : (32 ≤ h.2 && h.2 < 40 && isCore h.1 && (tileSwitch s h.1).any (fun e => e.1 == h.2 && swSlots e.2.toNat == 0)) = false := by
    rcases hl with hl | hl <;> simp [Nat.not_le.2, Nat.not_lt.2, hl]
  rw [landed, this]
  rfl

end

/-! ### Router ports -/

section
variable {s : State} {e : Env} {l : Nat × BitVec 16} {ls : List (Nat × BitVec 16)} {b : Nat} {tok : Token} {rest : List Token}

/-- A link that a port may serve is one of that port (R19). -/
theorem linkPort_of_mem {t : Tid} {port : Nat} (h : portLinks s t port = l :: ls) : linkPort l.1 = port := by
  have hm : l ∈ portLinks s t port := h ▸ List.mem_cons_self
  simp only [portLinks, List.mem_append, List.mem_filter, Bool.and_eq_true, beq_iff_eq] at hm
  rcases hm with ⟨⟨-, hp, -⟩, -⟩ | ⟨⟨-, hp, -⟩, -⟩ <;> exact hp

/-- TOKEN_TRANSFER of a router port takes the head of the port's next link off its buffer and sends it over the link (R19). -/
theorem exec_tokenTransfer_port (hp : s.op 1 ≠ 7) (he : linkEnv s (s.op 0) = some e) (hl : portLinks s e.t (s.op 1) = l :: ls)
    (hr : linkReady s e.t l = some (b, tok)) (hb : getBuf s b = tok :: rest) :
    exec .tokenTransfer s = .next (linkSend (served (setBuf s b rest) (e.t, l.1)) e l tok) := by
  show execTokenTransfer s = _
  simp only [execTokenTransfer, if_neg hp, he, portTransfer, hl, hr, hb, List.drop_succ_cons, List.drop_zero]

/-- A token of a known kind goes where it lands, every port on its way remembering the link (R19, R213). -/
theorem linkSend_known (hk : ∀ k, tok.kind ≠ .bad k) {hops : List (Tid × Nat)} {bd : Nat}
    (hd : landing s (4096 * 32) e.t l = some (hops, bd)) :
    linkSend s e l tok = hops.foldl landed (setBuf (hops.foldl served s) bd (getBuf s bd ++ [tok])) := by
  unfold linkSend
  split
  case h_1 k h => exact absurd h (hk k)
  case h_2 => simp only [linkPut, hd]

/-- A token of an unknown kind is discarded, and its link stops with TOKKIND (R21). -/
theorem linkSend_bad {k : Fin 6} (hk : tok.kind = .bad k) : linkSend s e l tok =
    raiseUnit { s with fab := { s.fab with stopped := s.fab.stopped ++ [e.t * 128 + l.1] } } e 3 Cause.tokkind := by
  simp only [linkSend, hk]

/-- A token moved over one link that does not lead to an element: the buffers at its two ends and the port's turn change. -/
theorem moved_over_link {port bd : Nat} (hp : linkPort l.1 = port) (hne : bd ≠ b) (hl : l.1 < 32 ∨ 40 ≤ l.1) {s' : State}
    (hs : s' = [(e.t, l.1)].foldl landed (setBuf ([(e.t, l.1)].foldl served (served (setBuf s b rest) (e.t, l.1))) bd
      (getBuf (served (setBuf s b rest) (e.t, l.1)) bd ++ [tok]))) :
    s'.st = s.st ∧ s'.cores = s.cores ∧ getBuf s' b = rest ∧ getBuf s' bd = getBuf s bd ++ [tok] ∧
      s'.fab.portRR.getD (e.t * 8 + port) 0 = l.1 ∧ ∀ k, k ≠ b → k ≠ bd → getBuf s' k = getBuf s k := by
  simp only [List.foldl_cons, List.foldl_nil] at hs
  rw [landed_of_not_element _ _ hl] at hs
  subst hs hp
  refine ⟨rfl, rfl, ?_, ?_, served_portRR_self _ _ _, fun k hb hd => ?_⟩
  · rw [getBuf_setBuf_ne _ _ hne.symm]; simp
  · simp [getBuf_setBuf_ne _ _ hne]
  · rw [getBuf_setBuf_ne _ _ hd]; simp [getBuf_setBuf_ne _ _ hb]

end

/-! ### Port 7 -/

/-- An empty latch that its operation reads, at no stop edge, takes the token at the head of its channel (R212). -/
theorem ingressDeliver_takes {s : State} {e : Env} {ch m : Nat} {q : Pos} {tok : Token} {rest : List Token}
    (hb : getBuf s (bufKey e.t 5 ch) = tok :: rest) (hi : ingressOf s e.t ch = some (m, q))
    (hr : slotReads (getSlot s e.t m) q = true) (hl : (getSlot s e.t m).latch q = none)
    (hs : e.atStop (getSlot s e.t m).edge = false) :
    ingressDeliver s e ch = setSlot (setBuf s (bufKey e.t 5 ch) rest) e.t m ((getSlot s e.t m).setLatch q (some tok)) := by
  have ht : latchTakes s e m q = true := by simp [latchTakes, hl, hs]
  simp only [ingressDeliver, hb, hi, ht, deliverLatch, getSlot_setBuf, hr, Bool.not_true, Bool.false_eq_true, if_false, if_true]

/-- TOKEN_TRANSFER of port 7 of an element delivers its eight ingress channels in turn (R212). -/
theorem exec_tokenTransfer_element {s : State} {e : Env} (hp : s.op 1 = 7) (he : envOf s (s.op 0) 0 = some e)
    (hc : isCore e.t = true) :
    exec .tokenTransfer s = .next ((List.range 8).foldl (fun s ch => ingressDeliver s e ch) s) := by
  show execTokenTransfer s = _
  simp only [execTokenTransfer, if_pos hp, he, hc, if_true]

/-! ### O43 -/

/-- Settles O43: a router port by the kind of the token that its next link moves, port 7 by what one channel delivers. -/
theorem tokenTransfer : Obligations.TokenTransfer := by
  unfold Obligations.TokenTransfer
  intro s e
  refine ⟨fun l ls b tok rest hp he hl hr hb => ?_, exec_tokenTransfer_element, fun _ _ _ _ _ => ingressDeliver_takes⟩
  have hx := exec_tokenTransfer_port hp he hl hr hb
  refine ⟨fun hops bd hk hd => ?known, fun k hk => ?bad⟩
  case known =>
    have hsend := hx.trans (congrArg _ (linkSend_known hk hd))
    refine ⟨hsend, fun hh hne hel => ⟨_, hsend, ?_⟩⟩
    subst hh
    exact moved_over_link (linkPort_of_mem hl) hne hel rfl
  case bad => exact ⟨_, hx.trans (congrArg _ (linkSend_bad hk)), rfl, rfl⟩

end Sys2Proof.Machine
end

section
/-! PROOF. No access to memory touches a context's registers: of the functions behind `iaAccess`, in the order of Machine/Access.lean,
each that changes the state leaves `ctxs` as it is. -/
namespace Sys2Proof.Machine
section
variable {s : State}

/-- Steps of a list that each keep something of the state keep it. -/
theorem foldl_keeps {α β : Type} (g : State → β) {f : State → α → State} (hf : ∀ s a, g (f s a) = g s) (l : List α) :
    g (l.foldl f s) = g s := by
  induction l generalizing s with
  | nil => rfl
  | cons a l ih => exact ih.trans (hf s a)

/-! ### Memory tiles -/

@[simp] theorem declareFailed_ctxs {t b} : (declareFailed s t b).ctxs = s.ctxs := rfl

@[simp] theorem noteCorrection_ctxs {t b} : (noteCorrection s t b).ctxs = s.ctxs := by
  unfold noteCorrection; dsimp only; split <;> rfl

@[simp] theorem decodeRow_ctxs {t row} : (decodeRow s t row).2.ctxs = s.ctxs := by
  have h := fun l : List Nat => foldl_keeps (s := s) (·.ctxs) (f := fun s b => noteCorrection s t b) (fun _ _ => noteCorrection_ctxs) l
  unfold decodeRow; dsimp only; split <;> exact h _

@[simp] theorem tileRead_ctxs {t off n} : (tileRead s t off n).2.ctxs = s.ctxs := by
  unfold tileRead; dsimp only; split
  · rfl
  · split <;> exact decodeRow_ctxs

@[simp] theorem tileMerge_ctxs {t off n} : (tileMerge s t off n).2.ctxs = s.ctxs := by
  unfold tileMerge; dsimp only; split
  · rfl
  · exact decodeRow_ctxs

@[simp] theorem tilePut_ctxs {t off bs} : (tilePut s t off bs).ctxs = s.ctxs := rfl

@[simp] theorem tileWrite_ctxs {t off bs} : (tileWrite s t off bs).2.ctxs = s.ctxs := by
  unfold tileWrite
  grind -ring -linarith -order [= tilePut_ctxs, = decodeRow_ctxs]

@[simp] theorem drawOne_ctxs {d t r push} : (drawOne s d t r push).ctxs = s.ctxs := by
  unfold drawOne
  grind -ring -linarith -order [= setCore_ctxs, = setRegion_ctxs]

@[simp] theorem fifoPushNow_ctxs {d t r tok} : (fifoPushNow s d t r tok).2.ctxs = s.ctxs := by
  unfold fifoPushNow
  grind -ring -linarith -order [!tileWrite_ctxs, = drawOne_ctxs, = setRegion_ctxs]

@[simp] theorem fifoHeadToken_ctxs {t r} : (fifoHeadToken s t r).2.1.ctxs = s.ctxs := tileRead_ctxs

@[simp] theorem fifoAdvance_ctxs {d t r} : (fifoAdvance s d t r).ctxs = s.ctxs := by simp [fifoAdvance]

@[simp] theorem fifoAccess_ctxs {who t r rel op} : (fifoAccess s who t r rel op).2.ctxs = s.ctxs := by
  unfold fifoAccess
  grind -ring -linarith -order [!fifoHeadToken_ctxs, = fifoAdvance_ctxs, !fifoPushNow_ctxs]

@[simp] theorem windowAccess_ctxs {who t off op} : (windowAccess s who t off op).2.ctxs = s.ctxs := by
  unfold windowAccess
  grind -ring -linarith -order [!tileRead_ctxs, !tileMerge_ctxs, !tileWrite_ctxs, = tilePut_ctxs, !fifoAccess_ctxs]

/-! ### Near and far memory, translations -/

@[simp] theorem ckptTouch_ctxs {k} : (ckptTouch s k).ctxs = s.ctxs := by
  have h := copyFrame_keeps (·.ctxs) (fun _ _ => rfl) (fun _ _ => rfl) (fun _ _ => rfl)
  unfold ckptTouch
  grind -ring -linarith -order

@[simp] theorem genWriteBack_ctxs {p e} : (genWriteBack s p e).ctxs = s.ctxs := by
  unfold genWriteBack; split
  · rfl
  · exact physSets_ctxs _ _ _

@[simp] theorem cacheDrop_ctxs {p} : (cacheDrop s p).ctxs = s.ctxs := by
  unfold cacheDrop; split
  · rfl
  · exact genWriteBack_ctxs

@[simp] theorem cacheInsert_ctxs {p l} : (cacheInsert s p l).ctxs = s.ctxs := by
  unfold cacheInsert
  grind -ring -linarith -order [= cacheDrop_ctxs]

@[simp] theorem setDir_ctxs {d} : (setDir s d).ctxs = s.ctxs := physSets_ctxs _ _ _

@[simp] theorem recordSharer_ctxs {d n} : (recordSharer s d n).ctxs = s.ctxs := by
  unfold recordSharer
  grind -ring -linarith -order [= setDir_ctxs]

@[simp] theorem registerSharer_ctxs {p h n} : (registerSharer s p h n).ctxs = s.ctxs := by
  unfold registerSharer
  grind -ring -linarith -order [= recordSharer_ctxs, = sendNode_ctxs]

@[simp] theorem lookupPage_ctxs {ia cls} : (lookupPage s ia cls).2.ctxs = s.ctxs := by
  unfold lookupPage
  grind -ring -linarith -order [= cacheInsert_ctxs, = registerSharer_ctxs]

/-! ### Home ports -/

@[simp] theorem sendForward_ctxs {who n ia cls op} : (sendForward s who n ia cls op).ctxs = s.ctxs := rfl

@[simp] theorem dropOut_ctxs {uid} : (dropOut s uid).ctxs = s.ctxs := rfl

@[simp] theorem pageDeliver_ctxs {p} : (pageDeliver s p).ctxs = s.ctxs := by
  unfold pageDeliver; split <;> rfl

@[simp] theorem forwardAccess_ctxs {who n ia cls op} : (forwardAccess s who n ia cls op).2.ctxs = s.ctxs := by
  unfold forwardAccess
  grind -ring -linarith -order [= sendForward_ctxs, = dropOut_ctxs, = pageDeliver_ctxs]

@[simp] theorem pageAdvance_ctxs {p} : (pageAdvance s p).ctxs = s.ctxs := by
  unfold pageAdvance; split <;> rfl

@[simp] theorem invBytes_ctxs {n ia bs} : (invBytes s n ia bs).2.ctxs = s.ctxs := by
  induction bs generalizing s ia with
  | nil => rfl
  | cons b bs ih => unfold invBytes; split <;> exact ih

@[simp] theorem mirrorMove_ctxs {ia bs} : (mirrorMove s ia bs).ctxs = s.ctxs := by
  unfold mirrorMove
  grind -ring -linarith -order [= physSets_ctxs, = sendNode_ctxs]

@[simp] theorem makeRoom_ctxs {p} : (makeRoom s p).ctxs = s.ctxs := by
  unfold makeRoom
  grind -ring -linarith -order [writeBackLine]

@[simp] theorem lineValue_ctxs {l t} : (lineValue s l t).2.ctxs = s.ctxs := by
  unfold lineValue
  grind -ring -linarith -order

theorem lineEntry_ctxs {q l p t e s'} (h : lineEntry s q l p t = some (e, s')) : s'.ctxs = s.ctxs := by
  unfold lineEntry at h
  grind -ring -linarith -order [= makeRoom_ctxs, = lineValue_ctxs]

@[simp] theorem lineWrite_ctxs {q ia k t n red need f} : (lineWrite s q ia k t n red need f).2.ctxs = s.ctxs := by
  unfold lineWrite
  grind -ring -linarith -order [→ lineEntry_ctxs, = mirrorMove_ctxs, = pageAdvance_ctxs, notePast]

@[simp] theorem deviceAccess_ctxs {who ia cls op} : (deviceAccess s who ia cls op).2.ctxs = s.ctxs := by
  have h := lookupPage_ctxs (s := s) (ia := ia) (cls := cls)
  unfold deviceAccess
  generalize lookupPage s ia cls = x at h ⊢
  rcases x with ⟨_ | e, u⟩
  case error => exact h
  case ok =>
    rw [← show u.ctxs = s.ctxs from h]
    cases op <;> grind -ring -linarith -order [MOp.isRead, = forwardAccess_ctxs, = ckptTouch_ctxs, = lineValue_ctxs,
      = pageDeliver_ctxs, !lineWrite_ctxs]

@[simp] theorem iaPresent_ctxs {who ia cls op} : (iaPresent s who ia cls op).2.ctxs = s.ctxs := by
  unfold iaPresent
  grind -ring -linarith -order [= windowAccess_ctxs, = deviceAccess_ctxs]

/-- An access by IA leaves every context's registers as they are. -/
@[simp] theorem iaAccess_ctxs {who ia cls op} : (iaAccess s who ia cls op).2.ctxs = s.ctxs := by
  unfold iaAccess
  grind -ring -linarith -order [!iaPresent_ctxs, = invBytes_ctxs]

end
end Sys2Proof.Machine
end

section
/-! PROOF. What the kill of a context leaves standing (R432): the values that boot fixed, and the state of every other context. Each
function that `killContext` calls leaves all of it as it is; only the end of the kill writes one context's state. -/
namespace Sys2Proof.Machine
section
variable {s : State}

/-- The state of each context (R428). -/
def ctxStates (m : SMap Ctx) : Nat → CtxState := fun k => (m.getD k Ctx.reset).state

/-- What boot fixed, and the state of each context. -/
def State.standing (s : State) : Boot × (Nat → CtxState) := (s.boot, ctxStates s.ctxs)

theorem standing_of_eq {s' : State} (hb : s'.boot = s.boot) (hc : s'.ctxs = s.ctxs) : s'.standing = s.standing := by
  simp only [State.standing, hb, hc]

theorem boot_of_standing {b : Boot} {m : Nat → CtxState} (h : s.standing = (b, m)) : s.boot = b := congrArg Prod.fst h

theorem state_of_standing {b : Boot} {m : Nat → CtxState} (h : s.standing = (b, m)) (k : Nat) : (getCtx s k).state = m k :=
  congrFun (congrArg Prod.snd h) k

/-- A context's registers replaced, its state kept. -/
theorem setCtx_standing {k : Nat} {x : Ctx} (h : x.state = (getCtx s k).state) : (setCtx s k x).standing = s.standing := by
  refine Prod.ext rfl (funext fun j => ?_)
  by_cases hj : j = k
  · subst hj; exact (congrArg Ctx.state (getCtx_setCtx s j x)).trans h
  · exact congrArg Ctx.state (getCtx_setCtx_ne s x hj)

@[simp] theorem updLaunch_standing {lid f} : (updLaunch s lid f).standing = s.standing := rfl

@[simp] theorem hostEvent_standing {c k l t w} : (hostEvent s c k l t w).standing = s.standing := rfl

@[simp] theorem sendNode_standing {n c w} : (sendNode s n c w).standing = s.standing := rfl

@[simp] theorem dropOut_standing {uid} : (dropOut s uid).standing = s.standing := rfl

@[simp] theorem setTasks_standing {x} : ({ s with tk := x } : State).standing = s.standing := rfl

@[simp] theorem setSaved_standing {x} : ({ s with saved := x } : State).standing = s.standing := rfl

@[simp] theorem disarmTile_standing {t} : (disarmTile s t).standing = s.standing := rfl

@[simp] theorem clearTile_standing {t} : (clearTile s t).standing = s.standing := rfl

/-! ### Accesses by VA -/

@[simp] theorem iaAccess_standing {who ia cls op} : (iaAccess s who ia cls op).2.standing = s.standing :=
  standing_of_eq (iaAccess_frame ..).boot iaAccess_ctxs

@[simp] theorem lookupPage_standing {ia cls} : (lookupPage s ia cls).2.standing = s.standing :=
  standing_of_eq (lookupPage_frame none ..).boot lookupPage_ctxs

@[simp] theorem bindRead_standing {who va} : (bindRead s who va).standing = s.standing := by
  unfold bindRead
  split
  · rfl
  · dsimp only
    split
    · rfl
    · split
      · rfl
      · exact setCtx_standing rfl

@[simp] theorem bindAll_standing {who ps} : (bindAll s who ps).standing = s.standing :=
  foldl_keeps State.standing (fun _ _ => bindRead_standing) ps

@[simp] theorem askPart_standing {who p} : (askPart s who p).2.standing = s.standing := by
  unfold askPart
  grind -ring -linarith -order [!lookupPage_standing, State.standing, sendForward, sendFrom]

@[simp] theorem askParts_standing {who ps} : (askParts s who ps).2.standing = s.standing := by
  induction ps generalizing s with
  | nil => rfl
  | cons p ps ih => exact ih.trans askPart_standing

@[simp] theorem dropAsks_standing {key ps} : (dropAsks s key ps).standing = s.standing :=
  foldl_keeps State.standing (f := fun s (o : FwdOut) => dropOut s o.uid) (fun _ _ => dropOut_standing) _

@[simp] theorem readEach_standing {who ps} : (readEach s who ps).2.2.standing = s.standing := by
  fun_induction readEach s who ps <;> grind -ring -linarith -order [!iaAccess_standing]

@[simp] theorem readParts_standing {who ps} : (readParts s who ps).2.2.standing = s.standing := by
  unfold readParts
  grind -ring -linarith -order [!askParts_standing, !readEach_standing, = dropAsks_standing]

@[simp] theorem readAt_standing {who va n} : (readAt s who va n).2.2.standing = s.standing := by
  unfold readAt
  grind -ring -linarith -order [!readParts_standing, = bindAll_standing]

@[simp] theorem readVA_standing {who va n} : (readVA s who va n).2.standing = s.standing := by
  unfold readVA
  grind -ring -linarith -order [!readAt_standing, State.standing, noteFault]

@[simp] theorem writeEach_standing {who bs ps} : (writeEach s who bs ps).2.2.standing = s.standing := by
  fun_induction writeEach s who bs ps <;> grind -ring -linarith -order [!iaAccess_standing]

@[simp] theorem writeAt_standing {who va bs} : (writeAt s who va bs).2.2.standing = s.standing := by
  unfold writeAt
  grind -ring -linarith -order [!writeEach_standing, = bindAll_standing]

@[simp] theorem writeVARaw_standing {who va bs} : (writeVARaw s who va bs).2.standing = s.standing := writeAt_standing

/-! ### Events and watchpoints -/

@[simp] theorem noteCause_standing {lid c} : (noteCause s lid c).standing = s.standing := by
  unfold noteCause; split <;> rfl

theorem enqueueRec_standing {t s'} (h : enqueueRec s t = some s') : s'.standing = s.standing := by
  have hl (p : Bool) (f) : (if p then s else updLaunch s t.launch f).standing = s.standing := by cases p <;> rfl
  unfold enqueueRec at h; dsimp only at h
  split at h
  · cases h
  · rw [← Option.some.inj h]
    exact setTasks_standing.trans (hl _ _)

@[simp] theorem readCR_standing {who va} : (readCR s who va).2.standing = s.standing := by
  unfold readCR
  grind -ring -linarith -order [!readVA_standing]

@[simp] theorem dropEvent_standing {ctx lid t} : (dropEvent s ctx lid t).standing = s.standing := by
  unfold dropEvent; dsimp only; split
  · exact setCtx_standing rfl
  · exact hostEvent_standing.trans (setCtx_standing rfl)

@[simp] theorem enterHandler_standing {ctx lid t} : (enterHandler s ctx lid t).standing = s.standing := by
  unfold enterHandler; dsimp only
  split
  · rfl
  · split
    · rfl
    · rename_i l _
      have h := readCR_standing (s := s) (who := Who.self ctx 6 t) (va := (getCtx s ctx).thcr)
      split
      · rename_i h0 rs u hr
        rw [hr] at h
        split
        · rename_i u1 he
          exact updLaunch_standing.trans <| (setCtx_standing (by rfl)).trans ((enqueueRec_standing he).trans h)
        · exact h
      · rename_i hr
        rw [hr] at h; exact h

@[simp] theorem appendEvent_standing {ctx e} : (appendEvent s ctx e).standing = s.standing := by
  unfold appendEvent; dsimp only
  split
  · simp
  · split <;> rename_i hx <;> have h := congrArg (fun p => State.standing p.2) hx
    · exact enterHandler_standing.trans <| (setCtx_standing (by rfl)).trans <| h.symm.trans <|
        writeVARaw_standing.trans noteCause_standing
    · exact dropEvent_standing.trans <| h.symm.trans <| writeVARaw_standing.trans noteCause_standing

@[simp] theorem watchCheck_standing {who ps} : (watchCheck s who ps).standing = s.standing := by
  unfold watchCheck; split
  · rfl
  · refine foldl_keeps State.standing (fun u c => ?_) _
    split
    · exact appendEvent_standing
    · rfl

@[simp] theorem writeVA_standing {who va bs} : (writeVA s who va bs).2.standing = s.standing :=
  watchCheck_standing.trans writeAt_standing

/-! ### Sections and tiles -/

@[simp] theorem unbind_standing {ctx b} : (unbind s ctx b).standing = s.standing := setCtx_standing rfl

@[simp] theorem unbindSec_standing {k} : (unbindSec s k).standing = s.standing :=
  (foldl_keeps State.standing (fun _ _ => foldl_keeps State.standing (fun _ _ => unbind_standing) _) _).trans unbind_standing

@[simp] theorem disarmSec_standing {k} : (disarmSec s k).standing = s.standing :=
  unbindSec_standing.trans (foldl_keeps State.standing (fun _ _ => disarmTile_standing) _)

@[simp] theorem freeSec_standing {k} : (freeSec s k).standing = s.standing :=
  foldl_keeps State.standing (fun _ _ => clearTile_standing) _

@[simp] theorem zeroRegion_standing {t r} : (zeroRegion s t r).standing = s.standing := watchCheck_standing

@[simp] theorem dropRegions_standing {ctx t} : (dropRegions s ctx t).standing = s.standing := by
  refine foldl_keeps State.standing (fun u r => ?_) _
  split
  · exact zeroRegion_standing
  · rfl

@[simp] theorem writeState_standing {f st w7 t} : (writeState s f st w7 t).standing = s.standing := by
  unfold writeState
  grind -ring -linarith -order [!writeVA_standing]

@[simp] theorem writeKilled_standing {ctx} : (writeKilled s ctx).standing = s.standing :=
  foldl_keeps State.standing (fun _ _ => writeState_standing) _

/-! ### Engine commands and barriers -/

@[simp] theorem tellMembers_standing {q c kind info bs} : (tellMembers s q c kind info bs).standing = s.standing := by
  refine foldl_keeps State.standing (fun u e => ?_) _
  split <;> rfl

@[simp] theorem acknowledge_standing {m kind status cause} : (acknowledge s m kind status cause).standing = s.standing := by
  unfold acknowledge; dsimp only; split <;> rfl

@[simp] theorem ackRemoved_standing {m} : (ackRemoved s m).standing = s.standing := by
  unfold ackRemoved; dsimp only; split <;> simp

@[simp] theorem settleOwed_standing : (settleOwed s).standing = s.standing := by
  refine foldl_keeps State.standing (fun u o => ?_) _
  split <;> rfl

@[simp] theorem dropNotices_standing {q c} : (dropNotices s q c).standing = s.standing := by
  unfold dropNotices; dsimp only; split <;> exact settleOwed_standing

@[simp] theorem killCommand_standing {q c} : (killCommand s q c).standing = s.standing := by
  unfold killCommand
  grind -ring -linarith -order [= ackRemoved_standing, = tellMembers_standing, = dropNotices_standing, = acknowledge_standing]

@[simp] theorem killCommands_standing {ctx} : (killCommands s ctx).standing = s.standing :=
  foldl_keeps State.standing (fun _ _ => killCommand_standing) _

@[simp] theorem resumeSections_standing : (resumeSections s).standing = s.standing := rfl

/-- Sections may go on once the commands of a context are gone. -/
theorem resumed_standing (p : Bool) : (if p then resumeSections s else s).standing = s.standing := by
  cases p <;> rfl

@[simp] theorem completeBar_standing {id} : (completeBar s id).standing = s.standing :=
  foldl_keeps State.standing (fun _ _ => sendNode_standing) _

@[simp] theorem poisonBar_standing {id} : (poisonBar s id).standing = s.standing := by
  unfold poisonBar; split
  · rfl
  · exact completeBar_standing

/-! ### The kill -/

/-- A context's registers replaced, its state with them. -/
theorem setCtx_standing_state {u : State} (h : u.standing = s.standing) (k : Nat) (x : Ctx) :
    (setCtx u k x).standing = (s.boot, fun j => if j = k then x.state else (getCtx s j).state) := by
  have hb : u.boot = s.boot := boot_of_standing h
  refine Prod.ext hb (funext fun j => ?_)
  dsimp only
  split
  next hj => subst hj; exact congrArg Ctx.state (getCtx_setCtx u j x)
  next hj => exact (congrArg Ctx.state (getCtx_setCtx_ne u x hj)).trans (state_of_standing h j)

/-- A kill writes one context's state. -/
theorem killContext_standing {ctx cause lost} : (killContext s ctx cause lost).standing =
    (s.boot, fun k => if k = ctx then .killed else (getCtx s k).state) := by
  unfold killContext
  refine setCtx_standing_state (setSaved_standing.trans ?_) ctx _
  refine (foldl_keeps State.standing (fun _ _ => dropRegions_standing) _).trans ?_
  refine (foldl_keeps State.standing (fun _ _ => poisonBar_standing) _).trans ?_
  refine (resumed_standing _).trans (killCommands_standing.trans ?_)
  refine (foldl_keeps State.standing (fun u k => freeSec_standing.trans ?_) _).trans writeKilled_standing
  split
  · exact disarmSec_standing
  · rfl

end
end Sys2Proof.Machine
end

section
/-! PROOF. The rest of the host's side: accesses through BAR 4, module reset, dies, links, beacons and temperature (R13, R433, R456,
R458, R459, R460 to R464, R469). -/
namespace Sys2Proof.Machine
open Sys2Proof.Claims

/-! ### BAR 4 (R456) -/

/-- What an access of a port leaves by what its pieces have answered: the bytes, a cause in HWSTAT, or its place among those that
wait. -/
def flightAnswer (port : Bool) (off n ia : Nat) : Res (List Byte) × State → State
  | (.ok bs, s) => { endFlight s port false with host := { (endFlight s port false).host with replyBytes := bs } }
  | (.fault e, s) => hwRefuse (endFlight s port true) port (off % 2 ^ 32) e
  | (.wait, s) => keepFlight s port off n (ia / 2 ^ 36)

/-- HOST_MEMORY_ACCESS within BAR 4, with no other access of its port under way, goes to the IA that the aperture names. -/
theorem exec_hostMemoryAccess {s : State} {port : Bool} {off len n : Nat} {wr : Option (List Byte)}
    (hn : n = (wr.map List.length).getD len) (hb : off + n ≤ 2 ^ 36) (hh : s.boot.held = false)
    (ho : otherFlight s port off n = false) :
    exec (.hostMemoryAccess port off len wr) s =
      .next (flightAnswer port off n (apertureIA s port off n) (hostAccess s port (hostParts s (apertureIA s port off n) n) wr)) := by
  have hc : ¬(2 ^ 36 < off + n ∨ s.boot.held = true ∨ otherFlight s port off n = true) := by
    simp only [hh, ho, Bool.false_eq_true, or_false]; omega
  show execHostMemoryAccess port off len wr s = _
  cases wr with
  | none =>
    subst hn
    refine (if_neg hc).trans ?_
    dsimp only [Option.map_none, Option.getD_none]
    split <;> simp only [*] <;> rfl
  | some bs =>
    subst hn
    refine (if_neg hc).trans ?_
    dsimp only [Option.map_some, Option.getD_some]
    split <;> simp only [*] <;> rfl

/-- An access that is complete is under way no longer. -/
theorem flightOf_endFlight (s : State) (port unsupported : Bool) (off n : Nat) :
    flightOf (endFlight s port unsupported) port off n = none := by
  refine List.find?_eq_none.2 fun f hf => ?_
  have hp := (List.mem_filter.1 hf).2
  simp only [bne_iff_ne, ne_eq] at hp
  simp [hp]

/-! ### Reset and dies (R464) -/

/-- MODULE_RESET: host memory and the tiers stay, every tile's bytes read as zero, the rest is as after reset, with the blob's values
where the blob is good (log 4). -/
theorem moduleReset_answers (s : State) (image blob : Bool) :
    Answers (.moduleReset image blob) s (fun s' => s'.st.host = s.st.host ∧ s'.cores = [] ∧ s'.ctxs = [] ∧
      s'.fab = State.reset.fab ∧ s'.tl = State.reset.tl ∧ s'.bar = State.reset.bar ∧ s'.ln.live = [] ∧ s'.tk.drill = [] ∧
      s'.boot.blob = (image && blob) ∧ s'.boot.held = !image ∧ ∀ k, 2 * 2 ^ 44 ≤ k → cellGet s'.st.mem k = 0) := by
  have hm : ∀ k, 2 * 2 ^ 44 ≤ k → cellGet (s.st.mem.filter (fun c => c.1 < 2 * 2 ^ 44)) k = 0 :=
    fun k hk => cellGet_filter_drop _ _ _ fun _ => decide_eq_false (Nat.not_lt.2 hk)
  refine ⟨_, rfl, ?_⟩
  cases image
  case false => exact ⟨rfl, rfl, rfl, rfl, rfl, rfl, rfl, rfl, rfl, rfl, hm⟩
  case true =>
    cases blob
    case false => exact ⟨rfl, rfl, rfl, rfl, rfl, rfl, rfl, rfl, rfl, rfl, hm⟩
    case true => exact ⟨rfl, rfl, rfl, rfl, rfl, rfl, rfl, rfl, rfl, rfl, hm⟩

theorem mem_dieTiles {t : Tid} {d : Nat} : t ∈ dieTiles d ↔ t < 4096 ∧ dieOf t = d := by
  simp [dieTiles]

/-- The tile that a storage key lies in. -/
theorem tileKey_tile (t off : Nat) (h : off < 2 ^ 20) : (tileKey t off - 2 * 2 ^ 44) / 2 ^ 20 = t := by
  unfold tileKey; omega

/-- Tiles' bytes have the keys below those of their check symbols. -/
theorem tileKey_bounds (t off : Nat) (ht : t < 4096) (h : off < 2 ^ 20) :
    2 * 2 ^ 44 ≤ tileKey t off ∧ tileKey t off < 3 * 2 ^ 44 := by
  unfold tileKey; omega

/-- A die that is marked fallow is so. -/
theorem nth_markFallow (s : State) {d : Nat} (hd : d < s.boot.dies.length) (x : Die) :
    nth x (markFallow s d).boot.dies d = ⟨false, true⟩ := by
  show nth x (setNth s.boot.dies d ⟨false, true⟩) d = _
  rw [nth_setNth x _ _ _ _ hd, if_pos rfl]

section
variable {s : State} {die : Nat}

/-- The next die in turn, all before it being up, is neither up nor fallow: DIE_POWER_UP goes ahead. -/
theorem dieInTurn (hd : die < 4) (hb : s.boot.blob = true) (hn : nth (⟨false, true⟩ : Die) s.boot.dies die = ⟨false, false⟩)
    (hr : ∀ d, d < die → (nth (⟨false, true⟩ : Die) s.boot.dies d).ready = true) :
    ¬(!s.boot.blob || decide (4 ≤ die) || ((nth (⟨false, true⟩ : Die) s.boot.dies die).ready ||
      (nth (⟨false, true⟩ : Die) s.boot.dies die).isFallow) || !((List.range die).all fun d =>
        (nth (⟨false, true⟩ : Die) s.boot.dies d).ready || (nth (⟨false, true⟩ : Die) s.boot.dies d).isFallow)) = true := by
  have hall : ((List.range die).all fun d =>
      (nth (⟨false, true⟩ : Die) s.boot.dies d).ready || (nth (⟨false, true⟩ : Die) s.boot.dies d).isFallow) = true :=
    List.all_eq_true.2 fun d hd => by rw [hr d (List.mem_range.1 hd), Bool.true_or]
  simp [hb, hn, hall, hd]

/-- A die whose memory trains is up, its tiles cleared. -/
theorem diePowerUp_trains (hd : die < 4) (hb : s.boot.blob = true) (hl : s.boot.dies.length = 4)
    (hn : nth (⟨false, true⟩ : Die) s.boot.dies die = ⟨false, false⟩)
    (hr : ∀ d, d < die → (nth (⟨false, true⟩ : Die) s.boot.dies d).ready = true) :
    Answers (.diePowerUp die true) s (fun s' => s'.cores = s.cores ∧ nth (⟨false, true⟩ : Die) s'.boot.dies die = ⟨true, false⟩ ∧
      s'.host = s.host ∧ ∀ t off, t < 4096 → off < 2 ^ 20 → dieOf t = die → cellGet s'.st.mem (tileKey t off) = 0) := by
  refine ⟨_, if_neg (dieInTurn hd hb hn hr), rfl, ?_, rfl, fun t off ht ho hdie => ?_⟩
  · exact (nth_setNth _ _ _ _ _ (hl ▸ hd)).trans (if_pos rfl)
  · refine cellGet_filter_drop _ _ _ fun _ => ?_
    have hmem : (dieTiles die).contains ((tileKey t off - 2 * 2 ^ 44) / 2 ^ 20) = true := by
      rw [tileKey_tile t off ho]; exact List.contains_iff_mem.2 (mem_dieTiles.2 ⟨ht, hdie⟩)
    obtain ⟨hlo, hhi⟩ := tileKey_bounds t off ht ho
    dsimp only
    rw [hmem, decide_eq_true hlo, decide_eq_true hhi]
    rfl

/-- A die whose memory does not train is fallow, and the host is told. -/
theorem diePowerUp_fails (hd : die < 4) (hb : s.boot.blob = true) (hl : s.boot.dies.length = 4)
    (hn : nth (⟨false, true⟩ : Die) s.boot.dies die = ⟨false, false⟩)
    (hr : ∀ d, d < die → (nth (⟨false, true⟩ : Die) s.boot.dies d).ready = true) :
    Answers (.diePowerUp die false) s (fun s' => s'.cores = s.cores ∧ s'.st.mem = s.st.mem ∧
      nth (⟨false, true⟩ : Die) s'.boot.dies die = ⟨false, true⟩ ∧ s'.host.seq = s.host.seq + 1) :=
  ⟨_, if_neg (dieInTurn hd hb hn hr), rfl, rfl, nth_markFallow s (hl ▸ hd) _, rfl⟩

end

/-! ### Links (R433, R460, R461) -/

section
variable {s : State}

@[simp] theorem setCore_standing {t c} : (setCore s t c).standing = s.standing := rfl

@[simp] theorem dropMsg_standing {uid} : (dropMsg s uid).standing = s.standing := rfl

@[simp] theorem takeAmsgw_standing {m} : (takeAmsgw s m).2.standing = s.standing := by
  unfold takeAmsgw
  grind -ring -linarith -order [= setCore_standing]

@[simp] theorem refuseToSender_standing {m status cause} : (refuseToSender s m status cause).standing = s.standing := by
  unfold refuseToSender
  grind -ring -linarith -order [= setCore_standing]

/-- A refusal that reaches its sender leaves boot's values and the contexts' states. -/
theorem applyAck_refused_standing {uid status cause msg} : (applyAck s ⟨uid, 2, status, cause, msg⟩).standing = s.standing := by
  unfold applyAck
  grind -ring -linarith -order [!takeAmsgw_standing, = refuseToSender_standing, = dropMsg_standing, = appendEvent_standing]

/-- What is under way on a link that has failed ends without a change of what boot fixed. -/
theorem cutOff_boot (l : Nat) : (cutOff s l).boot = s.boot :=
  boot_of_standing (foldl_keeps (s := s) State.standing
    (f := fun s (m : Msg) => applyAck s ⟨m.uid, 2, 2, Cause.engnode, m⟩) (fun _ _ => applyAck_refused_standing) _)

/-- The bit of one link. -/
theorem getLsbD_linkBit (l m : Nat) (h : l < 16) : (BitVec.ofNat 16 (2 ^ l)).getLsbD m = decide (m = l) := by
  rw [BitVec.getLsbD_ofNat, Nat.testBit_two_pow, Bool.eq_iff_iff]
  simp only [Bool.and_eq_true, decide_eq_true_eq]
  omega

/-- LINK_DOWN of a link that is up takes its bit. -/
theorem linkDown_answers {l : Nat} (h : l < 16) (hu : s.boot.links.getLsbD l = true) :
    Answers (.linkDown l) s (fun s' => s'.boot.links = s.boot.links &&& ~~~(BitVec.ofNat 16 (2 ^ l))) := by
  have hc : ¬(16 ≤ l ∨ s.boot.links.getLsbD l = false) := by simp [hu, h]
  exact ⟨_, if_neg hc, congrArg Boot.links (cutOff_boot l)⟩

/-- LINK_TRAINED gives a link its bit, and no other. -/
theorem linkTrained_answers {l : Nat} (h : l < 16) (hh : s.boot.held = false) :
    Answers (.linkTrained l) s (fun s' => s'.st = s.st ∧ s'.cores = s.cores ∧ s'.boot.links.getLsbD l = true ∧
      ∀ m, m ≠ l → s'.boot.links.getLsbD m = s.boot.links.getLsbD m) := by
  refine ⟨{ s with boot := { s.boot with links := s.boot.links ||| BitVec.ofNat 16 (2 ^ l) } }, ?_, rfl, rfl, ?_, fun m hm => ?_⟩
  · show whileUp s _ = _
    rw [whileUp, if_neg (by simp [hh]), if_pos h]
  · rw [BitVec.getLsbD_or, getLsbD_linkBit l l h, decide_eq_true rfl, Bool.or_true]
  · rw [BitVec.getLsbD_or, getLsbD_linkBit l m h, decide_eq_false hm, Bool.or_false]

/-! ### Time (R463) -/

@[simp] theorem sendBeacon_cores {but t} : (sendBeacon s but t).cores = s.cores := foldl_keeps State.cores (fun _ _ => sendNode_cores _ _ _ _) _

@[simp] theorem sendBeacon_clk {but t} : (sendBeacon s but t).clk = s.clk := foldl_keeps State.clk (fun _ _ => sendNode_clk _ _ _ _) _

/-- Messages sent one after another all wait to leave. -/
theorem length_netOut_foldl {α : Type} (node cls : α → Nat) (w : α → List Nat) (l : List α) : ∀ s : State,
    (l.foldl (fun s a => sendNode s (node a) (cls a) (w a)) s).host.netOut.length = s.host.netOut.length + l.length := by
  induction l with
  | nil => exact fun _ => rfl
  | cons a l ih =>
    intro s
    refine (ih _).trans ?_
    simp [sendNode, sendFrom, Nat.add_assoc, Nat.add_comm 1]

/-- The time root's beacon leaves on every trained link. -/
theorem length_netOut_sendBeacon (t : Nat) : (sendBeacon s 16 t).host.netOut.length =
    s.host.netOut.length + ((List.range 16).filter (fun l => s.boot.links.getLsbD l)).length := by
  refine (length_netOut_foldl _ _ _ _ s).trans (congrArg (fun l => s.host.netOut.length + List.length l) ?_)
  refine List.filter_congr fun l hl => ?_
  have : l ≠ 16 := Nat.ne_of_lt (List.mem_range.1 hl)
  simp [this]

/-- The time root's first beacon. -/
theorem timeBeacon_answers (hb : s.boot.blob = true) (hr : s.boot.node = s.boot.timeRoot) (hn : s.clk.beacons = []) :
    Answers .timeBeacon s (fun s' => s'.st = s.st ∧ s'.cores = s.cores ∧ s'.clk.beacons = [s.clk.dtime] ∧
      s'.host.netOut.length = s.host.netOut.length + ((List.range 16).filter (fun l => s.boot.links.getLsbD l)).length) := by
  refine ⟨sendBeacon { s with clk := { s.clk with beacons := [s.clk.dtime] } } 16 s.clk.dtime, ?_, ?_, ?_, ?_, ?_⟩
  · show execTimeBeacon s = _
    simp [execTimeBeacon, hb, hr, hn]
  · exact sendBeacon_st
  · exact sendBeacon_cores
  · rw [sendBeacon_clk]
  · exact length_netOut_sendBeacon _

/-- A beacon sets what is to be slewed in. -/
theorem beaconArrival_answers {l : Nat} (t : Nat) (h : l < 16) (hu : s.boot.links.getLsbD l = true)
    (hr : s.boot.node ≠ s.boot.timeRoot) :
    Answers (.beaconArrival l t) s (fun s' => s'.st = s.st ∧ s'.cores = s.cores ∧
      s'.clk.slew = Int.ofNat (t + Sys2Proof.Config.linkDelay l) - Int.ofNat s.clk.dtime) := by
  have hc : ¬(16 ≤ l ∨ s.boot.links.getLsbD l = false ∨ s.boot.node = s.boot.timeRoot) := by simp [hu, h, hr]
  exact ⟨_, if_neg hc, sendBeacon_st, sendBeacon_cores, congrArg Clock.slew sendBeacon_clk⟩

/-! ### Temperature (R469) -/

theorem loseContext_standing {ctx lost} : (loseContext s ctx lost).standing =
    (s.boot, fun k => if k = ctx then .killed else (getCtx s k).state) := hostEvent_standing.trans killContext_standing

theorem loseContext_boot {ctx lost} : (loseContext s ctx lost).boot = s.boot :=
  boot_of_standing loseContext_standing

theorem loseContext_state {ctx lost} (k : Nat) : (getCtx (loseContext s ctx lost) k).state =
    if k = ctx then .killed else (getCtx s k).state := state_of_standing loseContext_standing k

/-- Contexts lost one after another leave what boot fixed. -/
theorem foldl_loseContext_boot (l : List Nat) : (l.foldl (fun s c => loseContext s c false) s).boot = s.boot :=
  foldl_keeps State.boot (f := fun s c => loseContext s c false) (fun _ _ => loseContext_boot) l

/-- Every context among those lost is killed, and one killed before stays so. -/
theorem foldl_loseContext_killed (l : List Nat) (k : Nat) : ∀ s : State, k ∈ l ∨ (getCtx s k).state = .killed →
    (getCtx (l.foldl (fun s c => loseContext s c false) s) k).state = .killed := by
  induction l with
  | nil => exact fun s h => h.resolve_left (List.not_mem_nil)
  | cons c l ih =>
    intro s h
    refine ih _ ?_
    rw [loseContext_state k]
    by_cases hk : k = c
    · exact .inr (if_pos hk)
    · rw [if_neg hk]
      exact h.imp_left fun hm => (List.mem_cons.1 hm).resolve_left hk

/-- THERMAL_CRITICAL: the die is fallow, and every active context with work on it is killed. -/
theorem thermalCritical_answers {die : Nat} (hd : die < 4) (hl : s.boot.dies.length = 4) :
    Answers (.thermalCritical die) s (fun s' => nth (⟨false, true⟩ : Die) s'.boot.dies die = ⟨false, true⟩ ∧
      ∀ ctx c, (ctx, c) ∈ s.ctxs → c.state = .active → worksOn s ctx die = true → (getCtx s' ctx).state = .killed) := by
  refine ⟨_, if_neg (Nat.not_le.2 hd), nth_markFallow _ ?_ _, fun ctx c hm ha hw => ?_⟩
  · rw [foldl_loseContext_boot, hl]; exact hd
  · refine foldl_loseContext_killed _ ctx s (.inl (List.mem_map.2 ⟨(ctx, c), List.mem_filter.2 ⟨hm, ?_⟩, rfl⟩))
    simp [ha, hw]

end

/-! ### O55 -/

/-- Settles O55: one lemma for each event; a kill writes no state but that of the context killed. -/
theorem hostModuleEvents : Obligations.HostModuleEvents := by
  unfold Obligations.HostModuleEvents
  intro s port
  refine ⟨?bar4, moduleReset_answers s, ?dies, ?links, timeBeacon_answers, fun l t => beaconArrival_answers t, ?limit,
    fun die => thermalCritical_answers⟩
  case bar4 =>
    intro off wr len n s1 hn hb hh ho
    have hx := exec_hostMemoryAccess (wr := wr) (len := len) (by cases wr <;> exact hn) hb hh ho
    refine ⟨fun bs ha => ?_, fun e ha => ?_, fun ha => ?_⟩ <;> rw [ha] at hx
    · exact ⟨_, hx, rfl, rfl, rfl, rfl, flightOf_endFlight s1 port false off n⟩
    · exact hx
    · exact hx
  case dies => exact fun die hd hb hl hn hr => ⟨diePowerUp_trains hd hb hl hn hr, diePowerUp_fails hd hb hl hn hr⟩
  case links =>
    exact fun l h => ⟨linkDown_answers h, fun hu => if_pos (.inr hu), linkTrained_answers h⟩
  case limit => exact fun block => ⟨_, rfl, rfl, rfl, rfl, rfl⟩

end Sys2Proof.Machine
end

section
/-! PROOF. The events of an address generator and of a FIFO region (R67, R75, R76, R79, R81, R83, R84, R87, R88, R219): an equation for
each event where its conditions hold, and one for each of the functions that it passes a stream to. -/
namespace Sys2Proof.Machine
open Sys2Proof.Claims

/-! ### What is kept whole, what goes out -/

/-- An access that no scheduler's choice tears and no byte of which has been performed apart is performed whole (R96; log 149). -/
theorem apart_whole {s : State} {who : Who} (ia cls : Nat) (op : MOp) (ht : s.xl.tear = [])
    (hn : ∀ x ∈ s.xl.torn, x.1 ≠ who.key) : apart s who ia cls op = iaPerform s who ia cls op := by
  have hb : ∀ a, tornByte s who.key a = none := fun a => by
    rw [tornByte, List.find?_eq_none.2 fun x hx => by
      simp only [hn x hx, Bool.and_eq_true, beq_iff_eq, false_and, not_false_eq_true]]; rfl
  have hleft : (List.range op.len).filter (fun i => (tornByte s who.key (ia + i)).isNone) = List.range op.len :=
    List.filter_eq_self.2 fun i _ => by rw [hb]; rfl
  simp only [apart, ht, hleft]
  split
  · contradiction
  · exact if_pos List.length_range

/-- On a path with a place a token waits for its port's turn (R213). -/
theorem egressPush_waits {s : State} {t : Tid} {ch : Nat} {l : Nat × BitVec 16} (tok : Token)
    (hl : linkReading s t (32 + ch) = some l) (hp : egressPlaces s t ch ≠ 0) :
    egressPush s t ch tok = setBuf s (bufKey t 4 ch) (getBuf s (bufKey t 4 ch) ++ [tok]) := by
  simp only [egressPush, hl, hp, false_and, if_false]

@[simp] theorem getGen_setStream (s : State) (e : GEnv) (r : Stream) : (getGen (setStream s e r) e.t e.g).run = some r := by
  rw [setStream, getGen_setGen]

/-- A stream that has ended has left its generator. -/
@[simp] theorem getGen_endStream (s : State) (e : GEnv) (r : Stream) : (getGen (endStream s e r) e.t e.g).run = none := by
  rw [endStream, unbind, getGen_setCtx, getGen_setGen]

/-- Where the channel has room a token goes out, and an EOS ends the stream (R81, R83). -/
theorem sendOut_of_free {s : State} {e : GEnv} {r : Stream} {tok : Token} {rest : List Token}
    (h : egressFree s e.t (patDch r.words) = true) :
    sendOut s e r tok rest = if tok.kind = .eos then endStream (egressPush s e.t (patDch r.words) tok) e r
      else setStream (egressPush s e.t (patDch r.words) tok) e { r with outQ := rest } := by
  simp only [sendOut, h, Bool.not_true, Bool.false_eq_true, if_false]

/-! ### Bindings taken leave tiles as they are -/

section
variable (s : State) (who : Who) (va : Word)

@[simp] theorem bindRead_clk : (bindRead s who va).clk = s.clk := (bindRead_frame none s who va).clk

@[simp] theorem getBuf_bindRead (k : Nat) : getBuf (bindRead s who va) k = getBuf s k := by
  rw [getBuf, (bindRead_frame none s who va).fab, getBuf]

@[simp] theorem getGen_bindRead (t : Tid) (g : Nat) : getGen (bindRead s who va) t g = getGen s t g := by
  rw [getGen, (bindRead_frame none s who va).fab, getGen]

@[simp] theorem headReqs_bindRead (t : Tid) : headReqs (bindRead s who va) t = headReqs s t := by
  simp only [headReqs, getGen_bindRead]

end

section
variable {s : State} {e : GEnv} {r : Stream}

/-! ### Read streams -/

theorem exec_generatorElement_send {tok : Token} {rest : List Token} (hr : (getGen s (s.op 0) (s.op 1)).run = some r)
    (he : gEnv s (s.op 0) (s.op 1) r = some e) (ho : r.outQ = tok :: rest) :
    exec .generatorElement s = .next (sendOut s e r tok rest) := by
  show execGeneratorElement s = _
  simp only [execGeneratorElement, hr, he, ho]

/-- The turn of a read stream with nothing due before its next element. -/
theorem exec_generatorElement_next (h : StreamAt s e r) (hw : patWrite r.words = false) (hd : r.srcDone = false)
    (hg : e.edges ≤ r.edge) (hs : r.stopping = false) (hk : r.skips = 0) (hz : r.zeros = 0) :
    exec .generatorElement s = .next (readNext s e r) := by
  obtain ⟨hr, he, hh, ha, hb, ho⟩ := h
  show execGeneratorElement s = _
  simp only [execGeneratorElement, hr, he, ho, hh, ha, hb, hw, hd, hs, hk, hz, Nat.not_lt.2 hg, Option.isSome_none, Bool.or_self,
    Bool.false_eq_true, if_false, false_and, and_false, ne_eq, not_true_eq_false]

/-- A stream past an element of MODE 0 or 2, with the end marker due there (R81). -/
def Stream.past (p : List Word) (r : Stream) : Stream := { r with e := r.e + 1, skips := markAfter p r.e }

theorem readNext_elem (hm : patMode r.words ≠ 1) (hc : r.e < patCount r.words) (hf : genFifo s e r = none) :
    readNext s e r = readElem s e r (elemVA r.words r.e) (Stream.past r.words) := by
  simp only [readNext, hm, Nat.not_le.2 hc, hf, if_false]
  rfl

/-- After its last element a read stream ends. -/
theorem readNext_end (hm : patMode r.words ≠ 1) (hc : patCount r.words ≤ r.e) (hi : r.inflight = []) :
    readNext s e r = readEnd s e r := by
  simp only [readNext, hm, hc, hi, List.isEmpty_nil, if_false, if_true]

/-- The end of a read stream with nothing packed and no region touched: its EOS is all that it has to send (R81). -/
theorem readEnd_untouched (hw : patWrite r.words = false) (hf : r.fill = 0) (ht : r.touched = []) (hb : r.bufs = []) :
    readEnd s e r = setStream s e { r with outQ := r.outQ ++ [bare .eos], srcDone := true } := by
  have hflush : r.flushEdge e.edges = r := by
    simp only [Stream.flushEdge, Stream.flush, hf, ne_eq, not_true_eq_false, false_and, if_false, if_true]
  simp only [readEnd, hflush, fillPoint, hw, hb, ht, fillBufs, List.foldl_nil, Bool.false_eq_true, if_false]

section
variable {va : Word} {ia cls ia' : Nat} {r' : Stream} (hp : elemPlace s e r va false = (.ok (ia, cls), r', ia'))
include hp

/-- An element of a memory tile is read at its bank and packed (R83). -/
theorem readElem_tile {bs : List Byte} {s1 : State} (k : Stream → Stream) (hh : isHead e.t = false)
    (ha : apart (bindRead s (genWho e r') va) (genReader (bindRead s (genWho e r') va) e r'
      (hasPI (bindRead s (genWho e r') va) (genWho e r') va)) ia cls (.read (elemBytes r')) = (.ok bs, s1)) :
    readElem s e r va k = setStream (dropTorn s1 (genAgent e.t e.g)) e ((k r').pack bs false) := by
  simp only [readElem, hp, hh, ha, Bool.false_eq_true, if_false]

/-- An element of a headland tile joins the last line request, or begins one of at most 256 (R87, R88). -/
theorem readElem_head (p : List Word) (hh : isHead e.t = true)
    (hj : joinsLast r'.inflight ia cls = true ∨ headReqs s e.t < 256) :
    readElem s e r va (Stream.past p) = setStream (bindRead s (genWho e r') va) e { r' with
      e := r'.e + 1, skips := 0
      inflight := r'.inflight ++ [⟨ia, va, cls, hasPI (bindRead s (genWho e r') va) (genWho e r') va, s.clk.cycle,
        (getBuf s (bufKey e.t 4 (patDch r'.words))).isEmpty, false, false, !joinsLast r'.inflight ia cls,
        markAfter p r'.e, none⟩] } := by
  have hfull : (!joinsLast r'.inflight ia cls && decide (256 ≤ headReqs s e.t)) = false := by
    rcases hj with hj | hj
    · rw [hj]; rfl
    · rw [decide_eq_false (Nat.not_le.2 hj), Bool.and_false]
  simp only [readElem, hp, hh, headRead, headReqs_bindRead, hfull, bindRead_clk, getBuf_bindRead, Bool.false_eq_true, if_true,
    if_false]
  rfl

end

/-! ### Line requests -/

section
variable (hr : (getGen s (s.op 0) (s.op 1)).run = some r) (he : gEnv s (s.op 0) (s.op 1) r = some e)
include hr he

/-- The one line request that is due is performed (R87, R88). -/
theorem exec_gatherReply_perform {i : Nat} {x : LineElem} {l : List LineElem} (hi : r.inflight = x :: l)
    (hx : x.ready = false) (hd : runsDue s e r = [i]) : exec .gatherReply s = .next (performRun s e r i) := by
  show execGatherReply s = _
  simp only [execGatherReply, hr, he, hi, hx, hd, chooseNext, List.length_singleton, Nat.le_refl, Bool.false_eq_true, if_false,
    if_true]

/-- The oldest line request leaves once its bytes are there (R88). -/
theorem exec_gatherReply_deliver {x : LineElem} {l : List LineElem} (hi : r.inflight = x :: l) (hx : x.ready = true)
    (ho : r.outQ = []) : exec .gatherReply s = .next (setStream s e (deliverFront r e.edges)) := by
  show execGatherReply s = _
  simp only [execGatherReply, hr, he, hi, hx, ho, List.isEmpty_nil, if_true]

end

/-- A performed line gives each element of its request the bytes at its place (R87). -/
theorem performRun_answers {i : Nat} {y : LineElem} {m : List LineElem} {bs : List Byte} {s1 : State}
    (hy : runAt r.inflight i = y :: m)
    (ha : iaAccess s { genReader s e r y.pi with starve := y.starve } (y.ia / 128 * 128) y.cls (.read 128) = (.ok bs, s1)) :
    (performRun s e r i).st = s1.st ∧ (getGen (performRun s e r i) e.t e.g).run = some { r with
      inflight := mapRun r.inflight i (fun z => { z with bytes := some ((bs.drop (z.ia % 128)).take (elemBytes r)) }) } := by
  simp only [performRun, hy, ha, getGen_setStream, setStream_st, and_true]
  split
  · exact pageStarve_st
  · rfl

/-- A line request of one element with good bytes and no marker after it: the element is packed. -/
theorem deliverFront_single {x : LineElem} {bs : List Byte} (edges : Nat) (hi : r.inflight = [x]) (hb : x.bytes = some bs)
    (hp : x.poison = false) (hm : x.mark = 0) : deliverFront r edges = ({ r with inflight := [] } : Stream).pack bs false := by
  simp only [deliverFront, hi, runAt, Stream.deliver, hb, hp, hm, List.drop_zero, List.takeWhile_nil, List.length_singleton,
    List.drop_succ_cons, List.drop_nil, List.foldl_cons, List.foldl_nil, if_true]

/-! ### Coordinates -/

section
variable (h : StreamAt s e r) (hm : patMode r.words = 1) (hd : r.srcDone = false) (hz : r.zeros = 0) (hk : r.skips = 0)
  (hn : r.endSeen = false) (hs : r.stopping = false)
include h hm hd hz hk hn hs

/-- A coordinate token of data is taken in hand (R84). -/
theorem exec_coordinateToken_take {tok : Token} (hc : r.coord = none) (ht : inHead s e.t (cchLink r) = some tok)
    (hdata : tok.kind = .data) : exec .coordinateToken s = .next (setStream s e { r with coord := some (tok, 0) }) := by
  obtain ⟨hr, he, hh, ha, hb, ho⟩ := h
  show execCoordinateToken s = _
  simp only [execCoordinateToken, hr, he, hh, ha, hb, ho, hm, hd, hz, hk, hn, hs, hc, ht, hdata, ne_eq, not_true_eq_false,
    decide_false, Option.isSome_none, Bool.or_self, Bool.and_false, Bool.false_and, List.isEmpty_nil, Bool.not_true, bne_self_eq_false,
    Bool.false_eq_true, if_false, if_true]

/-- The next index of the token in hand is judged (R84). -/
theorem exec_coordinateToken_judge {tok : Token} {i : Nat} (hc : r.coord = some (tok, 2 * i)) :
    exec .coordinateToken s = .next (coordNext s e r tok i) := by
  obtain ⟨hr, he, hh, ha, hb, ho⟩ := h
  show execCoordinateToken s = _
  simp only [execCoordinateToken, hr, he, hh, ha, hb, ho, hm, hd, hz, hk, hn, hs, hc, ne_eq, not_true_eq_false, decide_false,
    Option.isSome_none, Bool.or_self, Bool.and_false, Bool.false_and, List.isEmpty_nil, Bool.not_true, bne_self_eq_false,
    Bool.false_eq_true, if_false, Nat.mul_mod_right, Nat.zero_ne_one, Nat.mul_div_cancel_left i (Nat.zero_lt_two)]

end

/-- An index without a policy is accessed from its first element on (R84). -/
theorem coordNext_access {tok : Token} {i v : Nat} (hi : i < coordLanes r.words) (hv : coordIndex r.words tok i = some v)
    (hp : coordPolicy r.words v = none) :
    coordNext s e r tok i = setStream s e { r with coord := some (tok, 2 * i + 1), e := 0 } := by
  simp only [coordNext, Nat.not_le.2 hi, hv, hp, if_false]

/-! ### Write streams -/

/-- No merged write is due where there is none, or it is open to what comes next (R87). -/
theorem no_mergeDue (hg : r.merge = [] ∨ mergeClosed s e r = false) : (!r.merge.isEmpty && mergeClosed s e r) = false := by
  rcases hg with hg | hg <;> rw [hg]
  · exact Bool.false_and _
  · exact Bool.and_false _

section
variable (h : StreamAt s e r) (hw : patWrite r.words = true) (hn : r.endSeen = false)
  (hg : r.merge = [] ∨ mergeClosed s e r = false)
include h hw hn hg

/-- A write stream takes the next data token (R83). -/
theorem exec_writeStreamToken_take {tok : Token} (hs : r.stopping = false) (hi : r.inTok = none) (h24 : patSp24 r.words = false)
    (ht : inHead s e.t (dchLink r) = some tok) (hdata : tok.kind = .data) :
    exec .writeStreamToken s = .next (setStream (popData s e r) e { r with inTok := some (tok, 0) }) := by
  obtain ⟨hr, he, hh, ha, hb, ho⟩ := h
  have hopen := no_mergeDue hg
  show execWriteStreamToken s = _
  simp only [execWriteStreamToken, hr, he, hw, hh, hopen, ha, hb, hn, ho, hi, h24, ht, writeToken, hdata, hs, Option.isSome_none,
    List.isEmpty_nil, Bool.not_true, Bool.or_self, Bool.false_and, Bool.false_eq_true, if_false]

/-- A write stream writes the next slot of the token in hand (R83). -/
theorem exec_writeStreamToken_slot {tok : Token} {j : Nat} (hi : r.inTok = some (tok, j)) :
    exec .writeStreamToken s = .next (writeSlot s e r tok j) := by
  obtain ⟨hr, he, hh, ha, hb, ho⟩ := h
  have hopen := no_mergeDue hg
  show execWriteStreamToken s = _
  simp only [execWriteStreamToken, hr, he, hw, hh, hopen, ha, hb, hn, ho, hi, Option.isSome_none, List.isEmpty_nil, Bool.not_true,
    Bool.or_self, Bool.false_eq_true, if_false]

end

/-- A write stream past slot j of a token and the element that it wrote. -/
def Stream.wrote (tok : Token) (j : Nat) (r : Stream) : Stream := { r with e := r.e + 1, inTok := some (tok, j + 1) }

/-- A live slot is written at the pattern's next place (R83). -/
theorem writeSlot_live {tok : Token} {j : Nat} (hj : j < 64 / elemBytes r) (hl : slotLive r tok j = true)
    (hm : patMode r.words ≠ 1) (hc : r.e < patCount r.words) (hf : genFifo s e r = none) :
    writeSlot s e r tok j = writeElem s e r (elemVA r.words r.e) (slotBytes r tok j) (Stream.wrote tok j) := by
  simp only [writeSlot, Nat.not_le.2 hj, hl, hm, Nat.not_le.2 hc, hf, Bool.not_true, Bool.false_eq_true, if_false]
  rfl

section
variable {va : Word} {ia cls ia' : Nat} {r' : Stream} (hp : elemPlace s e r va true = (.ok (ia, cls), r', ia'))
include hp

/-- An element of a memory tile is written at its bank (R83). -/
theorem writeElem_tile {bs b : List Byte} {s1 s2 : State} {r2 : Stream} (k : Stream → Stream) (hh : isHead e.t = false)
    (ha : apart (bindRead s (genWho e r') va) (genWho e r') ia cls (.write (allSome bs)) = (.ok b, s1))
    (hw : rowWritten (dropTorn s1 (genAgent e.t e.g)) e r' ia bs.length = (s2, r2)) :
    writeElem s e r va bs k = setStream s2 e (k r2) := by
  simp only [writeElem, hp, hh, ha, hw, Bool.false_eq_true, if_false]

/-- An element of a headland tile joins the merged write (R87). -/
theorem writeElem_head {bs : List Byte} (k : Stream → Stream) (hh : isHead e.t = true) (hj : joinsMerge s e r' ia cls = true) :
    writeElem s e r va bs k = setStream (bindRead s (genWho e r') va) e (k { r' with merge :=
      r'.merge ++ [⟨ia, va, cls, false, s.clk.cycle, false, false, false, r'.merge.isEmpty, 0, some bs⟩] }) := by
  simp only [writeElem, hp, hh, hj, if_true]

end

section
variable (hr : (getGen s (s.op 0) (s.op 1)).run = some r) (he : gEnv s (s.op 0) (s.op 1) r = some e)
  (hw : patWrite r.words = true) (hh : r.held = none)
include hr he hw hh

/-- A merged write that nothing joins any more is performed as one write of its line (R87). -/
theorem exec_writeStreamToken_flush {x : LineElem} {m : List LineElem} {bs : List Byte} {s1 : State} (hx : r.merge = x :: m)
    (hc : mergeClosed s e r = true)
    (ha : iaPerform s (genWho e r) (x.ia / 128 * 128) x.cls (.write (mergeRow 128 (mergeRun r.merge))) = (.ok bs, s1)) :
    exec .writeStreamToken s = .next (setStream s1 e { r with merge := r.merge.drop (mergeRun r.merge).length }) := by
  have hne : r.merge.isEmpty = false := by rw [hx]; rfl
  have hflush : flushMerge s e r = setStream s1 e { r with merge := r.merge.drop (mergeRun r.merge).length } := by
    rw [flushMerge, hx]
    dsimp only
    rw [← hx, ha]
  show execWriteStreamToken s = _
  simp only [execWriteStreamToken, hr, he, hw, hh, hne, hc, hflush, Option.isSome_none, Bool.not_true, Bool.not_false,
    Bool.or_self, Bool.and_self, Bool.false_eq_true, if_false, if_true]

/-- After its last write and the EOS of each input a write stream ends with its own (R83, R219). -/
theorem exec_writeStreamEnd_ends (hn : r.endSeen = true) (ho : r.outQ = []) (hm : patMode r.words = 1 → r.srcDone = true)
    (hf : egressFree s e.t (patDch r.words) = true) :
    exec .writeStreamEnd s = .next (endStream (egressPush s e.t (patDch r.words) (bare .eos)) e r) := by
  have hdone : (patMode r.words != 1 || r.srcDone) = true := by
    by_cases h : patMode r.words = 1
    · rw [hm h, Bool.or_true]
    · rw [bne_iff_ne.2 h, Bool.true_or]
  show execWriteStreamEnd s = _
  simp only [execWriteStreamEnd, hr, he, hw, hh, hn, ho, hdone, sendOut_of_free hf, Option.isNone_none, List.isEmpty_nil,
    Bool.and_self, if_true]
  rfl

end

/-! ### FIFO regions -/

section
variable {q : FifoReq} {t g : Nat} {bs : List Byte} {s1 : State} (hl : tileDead s (s.op 0) = false) (hq : q.who = .slot t g)
include hl hq

/-- A slot's push that has space writes the tail slot, which the watchpoints see (R75; log 134). -/
theorem exec_fifoPush_slot (hf : (s.tl.fifoReqs.getD (s.op 0 * 8 + s.op 1) []).find?
      (fun q => q.push && pushReady s q.drawer (s.op 0) (s.op 1)) = some q)
    (ha : fifoPushNow (fifoDone s (s.op 0 * 8 + s.op 1) q) q.drawer (s.op 0) (s.op 1) q.tok = (.ok bs, s1)) :
    exec .fifoPush s = .next (fifoSlotDone (watchCheck s1 (slotWho (fifoDone s (s.op 0 * 8 + s.op 1) q) t g)
      [(windowIA (s.op 0) (regBase (region s (s.op 0) (s.op 1)) + (fifoHead (region s (s.op 0) (s.op 1)) +
          fifoCount (region s (s.op 0) (s.op 1))) % max (regLen (region s (s.op 0) (s.op 1))) 1 * 64),
        allSome (bytesOf 64 q.tok.data.toNat))]) t g none) := by
  show execFifoPush s = _
  simp only [execFifoPush, hl, Bool.false_or, hf, hq, fifoPushWatched, ha]
  rfl

/-- A slot's pop that has a token takes the head slot's (R75, R342). -/
theorem exec_fifoPop_slot {side : BitVec 16 × Bool} (hf : (s.tl.fifoReqs.getD (s.op 0 * 8 + s.op 1) []).find?
      (fun q => !q.push && popReady s q.drawer (s.op 0) (s.op 1)) = some q)
    (ha : fifoHeadToken (fifoDone s (s.op 0 * 8 + s.op 1) q) (s.op 0) (s.op 1) = (.ok bs, s1, side)) :
    exec .fifoPop s = .next (fifoSlotDone (fifoAdvance s1 q.drawer (s.op 0) (s.op 1)) t g (some (poppedToken bs side))) := by
  show execFifoPop s = _
  simp only [execFifoPop, hl, Bool.false_or, hf, hq, ha]

end
end

/-! ### O44 -/

/-- Settles O44: each event by the equation of its turn, and the function that the turn passes the stream to by its own. -/
theorem generatorEvents : Obligations.GeneratorEvents := by
  unfold Obligations.GeneratorEvents
  intro s e r
  refine ⟨?send, fun _ _ _ tok hl hp => egressPush_waits tok hl hp, fun _ ia cls op ht hn => apart_whole ia cls op ht hn, ?read,
    ?gather, ?coord, ?write, ?flush, ?ends, ?push, ?pop⟩
  case send =>
    intro tok rest hr he ho hf
    have hx := exec_generatorElement_send hr he ho
    rw [sendOut_of_free hf] at hx
    exact ⟨fun hk => hx.trans (by rw [if_neg hk]), fun hk => ⟨hx.trans (by rw [if_pos hk]), fun s1 => getGen_endStream s1 e r⟩⟩
  case read =>
    intro h hw hd hm hg hs hk hz
    have hx := exec_generatorElement_next h hw hd hg hs hk hz
    refine ⟨?_, ?_⟩
    · rintro ia cls r' ia' s0 hc hf hp rfl
      rw [readNext_elem hm hc hf] at hx
      exact ⟨fun bs s1 hh ha => hx.trans (congrArg _ (readElem_tile hp _ hh ha)),
        fun hh hj => hx.trans (congrArg _ (readElem_head hp _ hh hj))⟩
    · intro hc hi hf ht hb
      rw [readNext_end hm hc hi, readEnd_untouched hw hf ht hb] at hx
      obtain ⟨-, -, -, -, -, ho⟩ := h
      exact ⟨_, hx, rfl, by rw [getGen_setStream, ho]; rfl⟩
  case gather =>
    intro hr he
    refine ⟨?_, fun x l hi hx ho => exec_gatherReply_deliver hr he hi hx ho,
      fun x bs hi hb hp hm => deliverFront_single e.edges hi hb hp hm⟩
    intro i x y l m bs s1 hi hx hd hy ha
    exact ⟨_, exec_gatherReply_perform hr he hi hx hd, performRun_answers hy ha⟩
  case coord =>
    intro h hm hd hz hk _ hn hs
    refine ⟨fun tok hc ht hdata => exec_coordinateToken_take h hm hd hz hk hn hs hc ht hdata, ?_⟩
    intro tok i v hc hi hv hp
    rw [exec_coordinateToken_judge h hm hd hz hk hn hs hc, coordNext_access hi hv hp]
  case write =>
    intro h hw hn hs hg
    refine ⟨fun tok hi h24 ht hdata => exec_writeStreamToken_take h hw hn hg hs hi h24 ht hdata, ?_⟩
    rintro tok j ia cls r' ia' s0 hi hj hl hm hc hf hp rfl
    have hx := exec_writeStreamToken_slot h hw hn hg hi
    rw [writeSlot_live hj hl hm hc hf] at hx
    exact ⟨fun bs s1 s2 r2 hh ha ho => hx.trans (congrArg _ (writeElem_tile hp _ hh ha ho)),
      fun hh hj => hx.trans (congrArg _ (writeElem_head hp _ hh hj))⟩
  case flush => exact fun x m bs s1 hr he hw hh hx hc ha => exec_writeStreamToken_flush hr he hw hh hx hc ha
  case ends => exact fun hr he hw hn hh ho hm hf => exec_writeStreamEnd_ends hr he hw hh hn ho hm hf
  case push =>
    rintro q t g bs s0 s1 w hl hf hq rfl rfl ha
    exact exec_fifoPush_slot hl hq hf ha
  case pop => exact fun q t g bs s1 side hl hf hq ha => exec_fifoPop_slot hl hq hf ha

end Sys2Proof.Machine
end

section
/-! PROOF. Corrected symbols and the scrubber (R65, R68): what their events leave where the storage is in the canonical form that
every step keeps (O60), and a storage out of that form in which a symbol stays uncorrected. -/
namespace Sys2Proof.Machine
open Sys2Proof.Claims

/-! ### Corrections -/

/-- CORRECTION_WRITEBACK of a symbol that is still wrong. -/
theorem exec_correctionWriteback {s : State} {t : Tid} {row b pos : Nat} {rest : List (Tid × Nat × Nat × Nat)} {v : Byte}
    (hc : s.tl.corrections = (t, row, b, pos) :: rest) (hv : correctedNow s t row b pos = some v) :
    exec .correctionWriteback s = .next { s with
      tl := { s.tl with corrections := rest }
      st := { s.st with mem := cellSet s.st.mem (symKey t row b pos) v } } := by
  have hv' : correctedNow { s with tl := { s.tl with corrections := rest } } t row b pos = some v := hv
  show execCorrectionWriteback s = _
  simp only [execCorrectionWriteback, hc, hv']

/-- With the storage in canonical form the symbol reads back as corrected, and every other byte as before. -/
theorem correctionWriteback_answers {s : State} {t : Tid} {row b pos : Nat} {rest : List (Tid × Nat × Nat × Nat)} {v : Byte}
    (hs : s.st.Canonical) (hc : s.tl.corrections = (t, row, b, pos) :: rest) (hv : correctedNow s t row b pos = some v) :
    Answers .correctionWriteback s (fun s' => s'.tl.corrections = rest ∧ cellGet s'.st.mem (symKey t row b pos) = v ∧
      ∀ j, j ≠ symKey t row b pos → cellGet s'.st.mem j = cellGet s.st.mem j) :=
  ⟨_, exec_correctionWriteback hc hv, rfl, cellGet_cellSet_self _ _ _ hs.1, fun _ hj => cellGet_cellSet_ne _ _ hs.1 hj⟩

/-- A symbol that a write has put right since is left as it is. -/
theorem correctionWriteback_stale {s : State} {t : Tid} {row b pos : Nat} {rest : List (Tid × Nat × Nat × Nat)}
    (hc : s.tl.corrections = (t, row, b, pos) :: rest) (hv : correctedNow s t row b pos = none) :
    Answers .correctionWriteback s (fun s' => s'.st = s.st ∧ s'.tl.corrections = rest) := by
  have hv' : correctedNow { s with tl := { s.tl with corrections := rest } } t row b pos = none := hv
  refine ⟨{ s with tl := { s.tl with corrections := rest } }, ?_, rfl, rfl⟩
  show execCorrectionWriteback s = _
  simp only [execCorrectionWriteback, hc, hv']

/-! ### The scrubber -/

section
variable (s : State) (t : Tid)

@[simp] theorem scrubNext_scrubRow : (scrubNext s t).tl.scrubRow.getD t 0 = (s.tl.scrubRow.getD t 0 + 1) % 1024 :=
  SMap.getD_set_self _ _ _ _

@[simp] theorem scrubNext_scrubWait : (scrubNext s t).tl.scrubWait.getD t 0 = s.clk.cycle := by
  refine (SMap.getD_set_self _ _ _ _).trans ((congrArg Clock.cycle (decodeRow_frame none _ _ _).clk).trans ?_)
  split <;> rfl

@[simp] theorem scrubNext_cores : (scrubNext s t).cores = s.cores := by
  refine ((decodeRow_frame none _ _ _).cores rfl).trans ?_
  split <;> rfl

end

section
variable {s : State} (hm : isMem (s.op 0) = true) (hf : s.boot.fallow.contains (s.op 0) = false)
include hm hf

theorem scrubbed_eq_true : scrubbed s (s.op 0) = true := by rw [scrubbed, hm, hf]; rfl

/-- A scrubber that is due reads its next row in a cycle that no requester wants (R68). -/
theorem exec_scrubRow_due (ha : 4096 ≤ scrubAge s (s.op 0)) (hw : tileWanted s (s.op 0) = false) :
    exec .scrubRow s = .next (scrubNext s (s.op 0)) := by
  show execScrubRow s = _
  simp only [execScrubRow, scrubbed_eq_true hm hf, ha, hw, decide_true, Bool.and_self, Bool.not_false, if_true]

/-- A scrubber that has waited for 65,536 cycles goes ahead (R68). -/
theorem exec_scrubTakeover_due (ha : 4096 + 65536 ≤ scrubAge s (s.op 0)) :
    exec .scrubTakeover s = .next (scrubNext s (s.op 0)) := by
  show execScrubTakeover s = _
  simp only [execScrubTakeover, scrubbed_eq_true hm hf, ha, decide_true, Bool.and_self, if_true]

omit hm hf in
/-- Before its period is over a scrubber reads nothing. -/
theorem exec_scrubRow_early (ha : scrubAge s (s.op 0) < 4096) : exec .scrubRow s = .next s := by
  show execScrubRow s = _
  simp only [execScrubRow, Nat.not_le.2 ha, decide_false, Bool.and_false, Bool.false_and, Bool.false_eq_true, if_false]

end

/-! ### O45 -/

/-- What O45 says of a state whose storage is in canonical form: the premise that its first clause lacks. -/
theorem tileEvents_of_canonical {s : State} (hs : s.st.Canonical) :
    (∀ t row b pos rest, s.tl.corrections = (t, row, b, pos) :: rest →
      (∀ v, correctedNow s t row b pos = some v →
        Answers .correctionWriteback s (fun s' => s'.tl.corrections = rest ∧ cellGet s'.st.mem (symKey t row b pos) = v ∧
          ∀ j, j ≠ symKey t row b pos → cellGet s'.st.mem j = cellGet s.st.mem j)) ∧
      (correctedNow s t row b pos = none →
        Answers .correctionWriteback s (fun s' => s'.st = s.st ∧ s'.tl.corrections = rest))) ∧
    (isMem (s.op 0) = true → s.boot.fallow.contains (s.op 0) = false →
      (4096 ≤ scrubAge s (s.op 0) → tileWanted s (s.op 0) = false →
        Answers .scrubRow s (fun s' => s'.tl.scrubRow.getD (s.op 0) 0 = (s.tl.scrubRow.getD (s.op 0) 0 + 1) % 1024 ∧
          s'.tl.scrubWait.getD (s.op 0) 0 = s.clk.cycle ∧ s'.cores = s.cores)) ∧
      (4096 + 65536 ≤ scrubAge s (s.op 0) →
        Answers .scrubTakeover s (fun s' => s'.tl.scrubRow.getD (s.op 0) 0 = (s.tl.scrubRow.getD (s.op 0) 0 + 1) % 1024)) ∧
      (scrubAge s (s.op 0) < 4096 → exec .scrubRow s = .next s)) := by
  refine ⟨fun t row b pos rest hc => ⟨fun v hv => correctionWriteback_answers hs hc hv, correctionWriteback_stale hc⟩,
    fun hm hf => ⟨fun ha hw => ?_, fun ha => ?_, exec_scrubRow_early⟩⟩
  · exact ⟨_, exec_scrubRow_due hm hf ha hw, scrubNext_scrubRow s _, scrubNext_scrubWait s _, scrubNext_cores s _⟩
  · exact ⟨_, exec_scrubTakeover_due hm hf ha, scrubNext_scrubRow s _⟩

/-- A symbol 5 alone in its row, behind a cell of a higher address: out of order. Its correction to 0 is due. -/
def disordered : State :=
  { State.reset with
    st := { State.reset.st with mem := [(2 ^ 46, 1), (2 ^ 45, 5)] }
    tl := { State.reset.tl with corrections := [(0, 0, 0, 0)] } }

/-- Decoding finds the symbol wrong: the codeword's other symbols are 0. -/
theorem correctedNow_disordered : correctedNow disordered 0 0 0 0 = some 0 := by decide +kernel

/-- A zero byte is not listed: to write it before the first cell changes nothing. -/
theorem cellSet_disordered : cellSet disordered.st.mem (symKey 0 0 0 0) 0 = disordered.st.mem := by decide +kernel

/-- Refutes O45: its first clause speaks of every state, of those too whose storage is out of canonical form. In `disordered` the
corrected byte 0 is not written over the cell that holds 5. -/
theorem not_tileEvents : ¬ Obligations.TileEvents := by
  unfold Obligations.TileEvents
  intro h
  obtain ⟨hc, -⟩ := h disordered
  obtain ⟨s', he, -, hv, -⟩ := (hc 0 0 0 0 [] rfl).1 0 correctedNow_disordered
  rw [exec_correctionWriteback rfl correctedNow_disordered] at he
  obtain rfl := Host.Outcome.next.inj he
  dsimp only at hv
  rw [cellSet_disordered] at hv
  exact absurd hv (by decide +kernel)

end Sys2Proof.Machine
end

section
/-! PROOF. The course of a task (R90, R91, R198 to R206, R390 to R394, R422 to R425): an equation for each event where its conditions
hold. -/
namespace Sys2Proof.Machine
open Sys2Proof.Claims

/-! ### Signals (R202) -/

/-- A signal, the oldest of its tile, is performed with the record's word 5 read first. -/
theorem exec_signal {s s1 s2 : State} {g : Signal} {bs old : List Byte} (hg : s.tk.signals[s.op 0]? = some g)
    (ho : (s.tk.signals.take (s.op 0)).any (fun x => x.tid == g.tid) = false)
    (hr : readVA { s with tk := { s.tk with signals := dropNth s.tk.signals (s.op 0) } }
      { Who.self g.ctx 6 g.tid with key := agentKey 12 g.tid } (g.cr + 40) 8 = (.ok bs, s1))
    (hw : rmwVA s1 { Who.self g.ctx 6 g.tid with key := agentKey 12 g.tid } (g.cr + 32) 8 false [33, 0, 0] joinLess =
      (.ok old, s2)) :
    exec .signal s = .next (if ofBytes old % 2 ^ 24 = 0 then signalEvent s2 g Cause.sigunder
      else if ofBytes old % 2 ^ 24 ≠ 1 then s2 else enqueueSignalled s s2 g (BitVec.ofNat 64 (ofBytes bs))) := by
  show execSignal s = _
  simp only [execSignal, hg, ho, performSignal, hr, hw, Bool.false_eq_true, if_false]

/-! ### The drill unit (R90, R91, R389 to R393) -/

section
variable {s : State} {r : TaskRec} (h : RecAt s r)
include h

/-- A record not yet examined is read and examined. -/
theorem exec_drillExamine {r1 : TaskRec} {s1 : State} (he : r.examined = false) (hl : loadRecord s r = (.ok r1, s1)) :
    exec .drillExamine s = .next (examineRecord s1 r1) := by
  obtain ⟨hr, hc⟩ := h
  show execDrillExamine s = _
  simp only [execDrillExamine, hr, hc, he, hl, Bool.not_true, Bool.or_self, Bool.false_eq_true, if_false]

/-- The readiness test: all conditions at once. -/
theorem exec_drillRetest (he : r.examined = true) (ht : r.tested = false) (hd : r.ready = false) :
    exec .drillRetest s = .next (if r.tiles.zipIdx.all (fun x => descHolds s r x.2 x.1) then
      putRec s { r with tested := true, cpos := 0, kept := r.claims.length } else s) := by
  obtain ⟨hr, hc⟩ := h
  show execDrillRetest s = _
  simp only [execDrillRetest, hr, hc, he, ht, hd, Bool.not_true, Bool.or_self, Bool.false_eq_true, if_false]
  split <;> rfl

section
variable (ht : r.tested = true) (hd : r.ready = false)
include ht hd

theorem exec_claimRequest_grant {d : TileDesc} (hi : r.tiles[r.cpos]? = some d) (hh : descHolds s r r.cpos d = true) :
    exec .claimRequest s = .next (putRec (grantClaim s r r.cpos d).2
      { (grantClaim s r r.cpos d).1 with cpos := (grantClaim s r r.cpos d).1.cpos + 1 }) := by
  obtain ⟨hr, hc⟩ := h
  show execClaimRequest s = _
  simp only [execClaimRequest, hr, hc, ht, hd, hi, hh, Bool.not_true, Bool.or_self, Bool.false_eq_true, if_false, if_true]

/-- A refused claim returns those granted in this attempt (R91). -/
theorem exec_claimRequest_refuse {d : TileDesc} (hi : r.tiles[r.cpos]? = some d) (hh : descHolds s r r.cpos d = false) :
    exec .claimRequest s = .next (putRec (settleClaims s r.ctx false (r.claims.drop r.kept))
      { r with claims := r.claims.take r.kept, tested := false, cpos := 0 }) := by
  obtain ⟨hr, hc⟩ := h
  show execClaimRequest s = _
  simp only [execClaimRequest, hr, hc, ht, hd, hi, hh, Bool.not_true, Bool.or_self, Bool.false_eq_true, if_false]

/-- With all claims granted and no lookup due the record is ready. -/
theorem exec_claimRequest_ready (hi : r.tiles[r.cpos]? = none) (hn : needsLookup r = false) :
    exec .claimRequest s = .next (makeReady s r) := by
  obtain ⟨hr, hc⟩ := h
  show execClaimRequest s = _
  simp only [execClaimRequest, hr, hc, ht, hd, hi, hn, Bool.not_true, Bool.or_self, Bool.false_eq_true, if_false]

section
variable (hp : r.tiles.length ≤ r.cpos) (hn : needsLookup r = true)
include hp hn

/-- A record that no key can be formed for is ready (R391). -/
theorem exec_granaryLookup_unkeyed {s1 : State}
    (hk : granaryKey s (drillWho s r) r.launch (nth 0 r.hdr 1) (crLive r.hdr) r.regs r.tiles = (.ok none, s1)) :
    exec .granaryLookup s = .next (makeReady s1 { r with looked := true, key := none }) := by
  obtain ⟨hr, hc⟩ := h
  show execGranaryLookup s = _
  simp only [execGranaryLookup, hr, hc, ht, hd, hn, hk, Nat.not_lt.2 hp, decide_false, Bool.not_true, Bool.or_self,
    Bool.false_eq_true, if_false]

theorem exec_granaryLookup_hit {k : List Byte} {e : GranEntry} {s1 : State}
    (hk : granaryKey s (drillWho s r) r.launch (nth 0 r.hdr 1) (crLive r.hdr) r.regs r.tiles = (.ok (some k), s1))
    (hm : granMatch s1 (dieOfQuad (drillQuad s1 r)) k (outSizes s1 (drillWho s r) r.tiles) = some e) :
    exec .granaryLookup s = .next (granaryHit s s1 r e) := by
  obtain ⟨hr, hc⟩ := h
  show execGranaryLookup s = _
  simp only [execGranaryLookup, hr, hc, ht, hd, hn, hk, hm, Nat.not_lt.2 hp, decide_false, Bool.not_true, Bool.or_self,
    Bool.false_eq_true, if_false]

end
end
end

section
variable {s : State} {r : TaskRec}

/-- A record whose header breaks a rule fails with CRBAD (R197). -/
theorem examineRecord_bad (hb : headerBad s (!r.resumed) r.launch r.hdr = true) :
    examineRecord s r = failRecord s r Cause.crbad := by
  simp only [examineRecord, hb, Bool.true_or, if_true]

/-- A record without a successor list passes with a good header and tile list (R90, R197). -/
theorem examineRecord_good {ds : List TileDesc} {s1 : State} (hb : headerBad s (!r.resumed) r.launch r.hdr = false)
    (hh : r.handler = false) (hs : crSucc r.hdr = 0) (hx : examineTiles s (drillWho s r) (crTiles r.hdr) = (.ok ds, s1)) :
    examineRecord s r = putRec s1 (raisePrio s1 { r with examined := true, tiles := ds }) := by
  simp only [examineRecord, hb, hh, hs, hx, Bool.false_and, Bool.and_false, Bool.or_self, Bool.false_eq_true, if_false, decide_true,
    Bool.or_true, if_true]

end

/-! ### Pops (R198, R390) -/

/-- Registers 2 to 15 start as zero, g1 as FRAME (R198). -/
theorem nth_startRegs (r : TaskRec) {i : Nat} (hi : i < 16) : nth 0 (startRegs r) i = if i = 1 then nth 0 r.hdr 1 else 0 := by
  have hl : i < (List.range 32).length := by rw [List.length_range]; omega
  have hi' : nth 0 (List.range 32) i = i := by rw [nth_eq_getD, List.getD_eq_getElem?_getD, List.getElem?_eq_getElem hl,
    List.getElem_range, Option.getD_some]
  rw [startRegs, nth_map 0 _ _ _ _ hl, hi']
  simp only [Nat.not_le.2 hi, false_and, if_false]

/-- A core as a record without a checkpoint starts on it (R198). -/
theorem startCore_fresh (s : State) (t : Tid) {r : TaskRec} (hk : r.ckpt = none) :
    (startCore s t r).pc = crCode r.hdr ∧ (startCore s t r).unfin = [] ∧ (startCore s t r).halted = false ∧
      (startCore s t r).sys = r.handler ∧ (startCore s t r).run = some (firingOf s r) ∧ (startCore s t r).regs = startRegs r := by
  simp only [startCore, hk, and_self]

/-- A record dropped is in no drill queue. -/
theorem findRec_dropRec_self (s : State) (k : Nat) : findRec (dropRec s k) k = none :=
  List.find?_eq_none.2 fun x hx => by
    simpa only [bne, Bool.not_eq_true', Bool.not_eq_true] using (List.mem_filter.1 hx).2

/-- An idle sequencer starts the record that it pops. -/
theorem drillPop_answers {s s1 : State} {r : TaskRec} {cls : Nat} (hi : idleCore s (s.op 0) = true) (hc : ckptStops s = false)
    (hp : pickRecord s (quadOf (s.op 0)) = (some (cls, r), s1)) :
    Answers .drillPop s (fun s' => s'.st = s1.st ∧ findRec s' r.rid = none ∧
      getCore s' (s.op 0) = startCore s1 (s.op 0) r) := by
  have hx : ∃ n k, execDrillPop s = .next (setCore { dropTorn (dropRec s1 r.rid) (syncKey (s.op 0)) with
      tk := { (dropRec s1 r.rid).tk with starts := n, pops := k } } (s.op 0) (startCore s1 (s.op 0) r)) := by
    simp only [execDrillPop, hi, hc, hp, Bool.not_true, Bool.or_self, Bool.false_eq_true, if_false]
    exact ⟨_, _, rfl⟩
  obtain ⟨n, k, hx⟩ := hx
  exact ⟨_, hx, rfl, findRec_dropRec_self s1 r.rid, getCore_setCore _ _ _⟩

/-! ### Parked records (R205) -/

theorem exec_parkWake_holds {s s1 : State} {r : TaskRec} (hf : s.tk.parked.find? (fun r => r.rid == s.op 0) = some r)
    (hc : ctxRuns s r.ctx = true) (hp : parkHolds s r.ctx r.engcmds (crWkind r.hdr) (crWphase r.hdr) (crWarg r.hdr) = true)
    (he : enqueueRec s r = some s1) :
    exec .parkWake s = .next { s1 with tk := { s1.tk with parked := s1.tk.parked.filter (fun x => x.rid != r.rid) } } := by
  show execParkWake s = _
  simp only [execParkWake, hf, hc, hp, he, Bool.not_true, Bool.or_self, Bool.false_eq_true, if_false]

theorem exec_parkWake_waits {s : State} {r : TaskRec} (hf : s.tk.parked.find? (fun r => r.rid == s.op 0) = some r)
    (hp : parkHolds s r.ctx r.engcmds (crWkind r.hdr) (crWphase r.hdr) (crWarg r.hdr) = false) :
    exec .parkWake s = .next s := by
  show execParkWake s = _
  simp only [execParkWake, hf, hp, Bool.not_false, Bool.or_true, if_true]

/-! ### Retirement (R203) -/

@[simp] theorem settleClaim_tk (s : State) (ctx : Nat) (retire : Bool) (x : Claim) :
    (settleClaim s ctx retire x).tk = s.tk := by
  unfold settleClaim; dsimp only
  repeat' split
  all_goals rfl

@[simp] theorem settleClaims_tk (s : State) (ctx : Nat) (retire : Bool) (cs : List Claim) :
    (settleClaims s ctx retire cs).tk = s.tk := foldl_keeps State.tk (fun _ _ => settleClaim_tk _ _ _ _) _

/-- The end of a task in its record is a write of the drill unit's. -/
theorem writeState_frame (s : State) (f : TaskRec) (st : Nat) (w7 : Option Word) (t : Tid) : EvFrame none s (writeState s f st w7 t) := by
  unfold writeState
  split
  · exact EvFrame.refl none s
  · refine EvFrame.trans ?_ (writeVA_frame _ (Who.self f.ctx 6 (quadCore (quadOf t))) _ _)
    split
    · exact EvFrame.refl none s
    · exact writeVA_frame _ (Who.self f.ctx 6 (quadCore (quadOf t))) _ _

/-- A task that leaves its launch moves no record of the drill units, the retiring or the waiting. -/
@[simp] theorem leaveLaunch_tk (s : State) (f : TaskRec) (faulted : Bool) : (leaveLaunch s f faulted).tk = s.tk := by
  unfold leaveLaunch; dsimp only; split <;> rfl

section
variable {s : State} {g : Retiring} (hg : s.tk.retiring[s.op 0]? = some g)
include hg

theorem exec_taskRetire_first (ho : g.out = false) : exec .taskRetire s = .next (retireFirst s (s.op 0) g) := by
  show execTaskRetire s = _
  simp only [execTaskRetire, hg, ho, Bool.not_false, if_true]

theorem exec_taskRetire_last (ho : g.out = true) (hs : s.tk.signals.any (fun x => x.owner == g.task.rid) = false) :
    exec .taskRetire s = .next (retireLast s (s.op 0) g) := by
  show execTaskRetire s = _
  simp only [execTaskRetire, hg, ho, hs, Bool.not_true, Bool.false_eq_true, if_false]

end

/-- The first step of a task without a key and without a successor list: its claims settled, SIG's signals sent (R203). -/
theorem retireFirst_sends {s : State} {i : Nat} {g : Retiring} (hd : engDrained s g.task.engcmds = true) (hk : g.task.key = none)
    (hs : crSucc g.task.hdr = 0) :
    (retireFirst s i g).tk.retiring = setNth s.tk.retiring i { g with out := true } ∧
    (retireFirst s i g).tk.signals = s.tk.signals ++ g.task.sigs.map (fun cr =>
      ⟨cr, g.task.ctx, g.task.launch, quadCore g.task.quad, g.task.rid⟩) := by
  simp only [retireFirst, hd, insertResult, hk, succList, hs, heldSet, settleClaims_tk, List.zipIdx_nil, List.filter_nil,
    List.map_nil, List.nil_append, Bool.not_true, Bool.false_eq_true, if_false, if_true, and_self]

/-- Until its engine commands have drained a task does not retire (R203). -/
theorem retireFirst_waits {s : State} {i : Nat} {g : Retiring} (hd : engDrained s g.task.engcmds = false) :
    retireFirst s i g = s := by
  simp only [retireFirst, hd, Bool.not_false, if_true]

/-- The last step takes a task off those that retire (R203). -/
theorem retireLast_retiring {s : State} {i : Nat} {g : Retiring} (hh : g.task.handler = false) :
    (retireLast s i g).tk.retiring = dropNth s.tk.retiring i := by
  simp only [retireLast, hh, Bool.false_eq_true, if_false, (writeState_frame _ _ _ _ _).retiring]
  exact congrArg Tasks.retiring (leaveLaunch_tk _ _ _)

/-! ### Pre-emption (R422 to R425) -/

/-- The request of a tile's firing is the one listed under the tile. -/
theorem requestAt_eq_some {s : State} {t : Tid} {f : Firing} {p : Preempt} :
    requestAt s t f = some p ↔ s.tk.preempt.get? t = some p ∧ p.firing = f.started := by
  unfold requestAt
  split
  next q hq =>
    rw [hq, Option.ite_none_right_eq_some, Option.some.injEq]
    exact ⟨fun ⟨h, e⟩ => ⟨e, e ▸ h⟩, fun ⟨e, h⟩ => ⟨e ▸ h, e⟩⟩
  next hq => simp only [hq, reduceCtorEq, false_and]

/-- Row 4: the request waits on (R423). -/
theorem requestAt_rowFour {s : State} {t : Tid} {f : Firing} {p : Preempt} (h : requestAt s t f = some p) :
    (rowFour s t).cores = s.cores ∧ requestAt (rowFour s t) t f = some { p with draining := false, waits := true } := by
  obtain ⟨hp, hf⟩ := requestAt_eq_some.1 h
  rw [rowFour, hp]
  exact ⟨rfl, requestAt_eq_some.2 ⟨SMap.get?_set_self _ _ _, hf⟩⟩

/-- In system state a firing is neither checkpointed nor run again (R434). -/
theorem decide2_sys {s : State} {t : Tid} {c : Core} {f : Firing} (h : c.sys = true) : decide2 s t c f = rowFour s t := by
  simp only [decide2, h, if_true]

/-- A firing that may be checkpointed is, once what has left its core has ended (R424). -/
theorem decide2_checkpoint {s : State} {t : Tid} {c : Core} {f : Firing} (hs : c.sys = false) (hm : midway c = false)
    (ha : awaitsOwner s t c = false) (hk : crCkpt f.task.hdr = true) (hl : ckptLoad s (quadOf t) < 256) :
    decide2 s t c f = checkpointFiring s t f := by
  simp only [decide2, hs, hm, ha, hk, hl, decide_true, Bool.and_self, Bool.or_self, Bool.false_eq_true, if_false, if_true]

/-- An idempotent firing that has sent nothing early runs again where it is not checkpointed (R425). -/
theorem decide2_rerun {s : State} {t : Tid} {c : Core} {f : Firing} (hs : c.sys = false)
    (hk : crCkpt f.task.hdr = false ∨ 256 ≤ ckptLoad s (quadOf t)) (hi : crIdem f.task.hdr = true) (he : f.early = false) :
    decide2 s t c f = rerunFiring s t f := by
  have hno : (crCkpt f.task.hdr && decide (ckptLoad s (quadOf t) < 256)) = false := by
    rcases hk with hk | hk
    · rw [hk, Bool.false_and]
    · rw [decide_eq_false (Nat.not_lt.2 hk), Bool.and_false]
  simp only [decide2, hs, hno, hi, he, Bool.not_false, Bool.and_self, Bool.false_eq_true, if_false, if_true]

section
variable {s : State} {f : Firing} (hr : (getCore s (s.op 0)).run = some f)
  (hf : hasFaulted (getCore s (s.op 0)) = false ∨ (getCore s (s.op 0)).halted = true)
include hr hf

omit hr in
/-- No trap comes first: no access is faulted, or the core is halted (R434). -/
theorem no_trapDue : (hasFaulted (getCore s (s.op 0)) && !(getCore s (s.op 0)).halted) = false := by
  rcases hf with hf | hf <;> rw [hf]
  · exact Bool.false_and _
  · exact Bool.and_false _

/-- A save's request arises, and drains a firing that is expected to end in time (R422, R423). -/
theorem exec_preemptionRequest_arises (hn : requestAt s (s.op 0) f = none) (hw : saveWants s (s.op 0) f = true)
    (hs : (getCore s (s.op 0)).sys = false) (he : estOf (getCore s (s.op 0)) f ≤ dlog s f.task.ctx) :
    exec .preemptionRequest s = .next { s with tk := { s.tk with
      preempt := s.tk.preempt.set (s.op 0) ⟨f.started, s.clk.cycle, true, true, false⟩ } } := by
  show execPreemptionRequest s = _
  simp only [execPreemptionRequest, hr, hn, hw, hs, he, no_trapDue hf, Option.filter_none, decide_true, Bool.not_true, Bool.not_false,
    Bool.false_and, Bool.and_self, Bool.false_eq_true, if_false, if_true]

/-- A request that neither drains nor waits is decided, unless a save comes over a newcomer's (R423). -/
theorem exec_preemptionRequest_decides {p : Preempt} (hp : requestAt s (s.op 0) f = some p) (hd : p.draining = false)
    (hw : p.waits = false) (hv : p.forSave = true ∨ saveWants s (s.op 0) f = false) :
    exec .preemptionRequest s = .next (decide2 s (s.op 0) (getCore s (s.op 0)) f) := by
  have hkeep : (some p).filter (fun p => p.forSave || !saveWants s (s.op 0) f) = some p :=
    Option.filter_eq_some_iff.2 ⟨rfl, by
      rcases hv with hv | hv <;> simp only [hv, Bool.true_or, Bool.not_false, Bool.or_true]⟩
  show execPreemptionRequest s = _
  simp only [execPreemptionRequest, hr, hp, hkeep, requestOver, hd, hw, no_trapDue hf, Bool.false_and, Bool.or_self,
    Bool.false_eq_true, if_false]

omit hf in
/-- A drain goes on until its time is over. -/
theorem exec_preemptDrainExpiry_early {p : Preempt} (hp : requestAt s (s.op 0) f = some p)
    (ht : s.clk.cycle < p.since + 4 * 2 ^ dlog s f.task.ctx) : exec .preemptDrainExpiry s = .next s := by
  show execPreemptDrainExpiry s = _
  simp only [execPreemptDrainExpiry, hr, hp, ht, decide_true, Bool.or_true, Bool.true_or, if_true]

/-- At the end of its drain a request is decided (R423). -/
theorem exec_preemptDrainExpiry_over {p : Preempt} (hp : requestAt s (s.op 0) f = some p) (hd : p.draining = true)
    (ht : p.since + 4 * 2 ^ dlog s f.task.ctx ≤ s.clk.cycle) :
    exec .preemptDrainExpiry s = .next (decide2 { s with tk := { s.tk with
      preempt := s.tk.preempt.set (s.op 0) { p with draining := false } } } (s.op 0) (getCore s (s.op 0)) f) := by
  show execPreemptDrainExpiry s = _
  simp only [execPreemptDrainExpiry, hr, hp, hd, Nat.not_lt.2 ht, no_trapDue hf, decide_false, Bool.not_true, Bool.or_self,
    Bool.false_eq_true, if_false]

end

/-! ### O51 -/

/-- Settles O51: each event by the equation of its case. -/
theorem taskEvents : Obligations.TaskEvents := by
  unfold Obligations.TaskEvents
  intro s
  refine ⟨?signal, fun _ => rfl, ?examine, ?retest, ?claim, ?lookup, ?pop, ?wake, ?retire, ?preempt⟩
  case signal =>
    intro g bs s1 old s2 hg ho hr hw
    have hx := exec_signal hg ho hr hw
    refine ⟨fun hj => ?_, fun hj => ?_⟩
    · rwa [if_neg (by omega), if_pos (by omega)] at hx
    · rwa [if_pos hj] at hx
  case examine =>
    intro r r1 s1 h he hl
    have hx := exec_drillExamine h he hl
    exact ⟨fun hb => hx.trans (congrArg _ (examineRecord_bad hb)),
      fun ds s2 hb hh hs ht => hx.trans (congrArg _ (examineRecord_good hb hh hs ht))⟩
  case retest =>
    intro r h he ht hd
    have hx := exec_drillRetest h he ht hd
    exact ⟨fun ha => by rwa [if_pos ha] at hx, fun ha => by rwa [ha] at hx⟩
  case claim =>
    exact fun r h ht hd => ⟨fun d hi hh => exec_claimRequest_grant h ht hd hi hh,
      fun d hi hh => exec_claimRequest_refuse h ht hd hi hh, fun hi hn => exec_claimRequest_ready h ht hd hi hn⟩
  case lookup =>
    exact fun r h ht hd hp hn => ⟨fun s1 hk => exec_granaryLookup_unkeyed h ht hd hp hn hk,
      fun k e s1 hk hm => exec_granaryLookup_hit h ht hd hp hn hk hm⟩
  case pop =>
    intro r cls s1 hi hc hp hk
    obtain ⟨s', hx, hst, hrec, hcore⟩ := drillPop_answers hi hc hp
    obtain ⟨hpc, hun, hha, hsys, hrun, hregs⟩ := startCore_fresh s1 (s.op 0) hk
    refine ⟨s', hx, hst, ?_⟩
    rw [hcore]
    refine ⟨hpc, hun, hha, hsys, ⟨_, hrun, rfl, rfl⟩, ?_, fun x h2 h16 => ?_, hrec⟩
    · rw [Core.gpr, hregs]; exact nth_startRegs r (by decide)
    · rw [Core.gpr, hregs, nth_startRegs r h16, if_neg (show ¬x.val = 1 by omega), ite_self]
  case wake =>
    exact fun r s1 hf hc => ⟨fun hp he => exec_parkWake_holds hf hc hp he, exec_parkWake_waits hf⟩
  case retire =>
    intro g hg
    refine ⟨fun ho hd hk hs => ⟨_, exec_taskRetire_first hg ho, retireFirst_sends hd hk hs⟩, fun ho hd => ?_,
      fun ho hs hh => ⟨_, exec_taskRetire_last hg ho hs, retireLast_retiring hh⟩⟩
    rw [exec_taskRetire_first hg ho, retireFirst_waits hd]
  case preempt =>
    rintro c f rfl hr hf
    refine ⟨fun hn hw hs he => ?arises, fun p hp hd hw hv => ?decides, fun p hp hd => ?expiry, rfl, rfl⟩
    case arises =>
      exact ⟨_, exec_preemptionRequest_arises hr hf hn hw hs he, rfl, rfl, requestAt_eq_some.2 ⟨SMap.get?_set_self _ _ _, rfl⟩⟩
    case decides =>
      have hx := exec_preemptionRequest_decides hr hf hp hd hw hv
      refine ⟨fun hs => ?_, fun s1 hs hm ha hk hl he => ?_, fun s1 hs hk hi hn he => ?_⟩
      · rw [decide2_sys hs] at hx
        exact ⟨_, hx, rowFour_st, requestAt_rowFour hp⟩
      · rw [hx, decide2_checkpoint hs hm ha hk hl, checkpointFiring]; simp only [he]
      · rw [hx, decide2_rerun hs hk hi hn, rerunFiring]; simp only [he]
    case expiry =>
      refine ⟨fun ht => exec_preemptDrainExpiry_early hr hp ht, fun ht hs => ?_⟩
      have hx := exec_preemptDrainExpiry_over hr hf hp hd ht
      rw [decide2_sys hs] at hx
      exact ⟨_, hx, rowFour_st, requestAt_rowFour (p := { p with draining := false }) (requestAt_eq_some.2
        ⟨SMap.get?_set_self _ _ _, (requestAt_eq_some.1 hp).2⟩)⟩

end Sys2Proof.Machine
end

section
/-! PROOF. FENCE and SBAR (R101, R102, R272, R273), and what the proofs about sequencer forms share. -/
namespace Sys2Proof.Machine
open Sys2Proof.Claims

/-! ### What the forms share -/

section
variable {s : State} {t : Tid} {c : Core} {f : Firing}

/-- The word of a form on the core in focus answers what the form makes of it. -/
theorem exec_of_runs {i : Instr} {k : Tid → Core → Firing → State} {s' : State} (h : Runs s t c f)
    (hx : exec i s = onCore s k) (hk : k t c f = s') : exec i s = .next s' := by
  obtain ⟨ht, hc, hr, hh⟩ := h
  exact hx.trans ((onCore_next k ht hc hr hh).trans (congrArg _ hk))

/-- A write of one core leaves every other core and the rest of the state. -/
theorem onlyCore_setCore (s : State) (t : Tid) (c : Core) : OnlyCore s (setCore s t c) t :=
  ⟨rfl, fun _ h => getCore_setCore_ne s c h⟩

/-- The trap with a free TVAL, at the pc of its core (log 12). -/
theorem trapOpen_eq_takeTrap {e : Cause} {pc : Word} (h : (getCore s t).pc = pc) :
    trapOpen s t e = takeTrap { s with free := s.free + 1 } t e true pc (Sys2Proof.Config.openWord s.free) 0 := by
  subst h; rfl

/-- A meaning that takes the trap with a free TVAL takes it precisely, and does nothing else (log 12). -/
theorem trapsOpen_of_exec {i : Instr} {e : Cause} (h : exec i s = .next (trapOpen s t e)) : TrapsOpen i s t e :=
  ⟨_, h.trans (congrArg _ (trapOpen_eq_takeTrap rfl))⟩

end

/-! ### FENCE and SBAR -/

/-- No bit from 6 up is set in the numbers below 64 alone. -/
theorem zeroBits_mask (m : Word) : zeroBits m 63 6 = decide (m.toNat < 64) := by
  have hm : m.toNat < 2 ^ 64 := m.isLt
  rw [Bool.eq_iff_iff, zeroBits, beq_iff_eq, decide_eq_true_iff, bitsOf, Nat.shiftRight_eq_div_pow]
  omega

section
variable {s : State} {t : Tid} {c : Core} {f : Firing} (hrun : Runs s t c f)
include hrun

theorem exec_fence_lane : exec (.fence .lane) s = .next (setCore s t c.advance) :=
  exec_of_runs hrun (show _ = execFence .lane s from rfl) rfl

theorem exec_fence_pod : exec (.fence .pod) s = .next (if c.allPod then setCore s t c.advance else s) :=
  exec_of_runs hrun (show _ = execFence .pod s from rfl) rfl

/-- FENCE of a scope from core to pkg looks at pkg scope (R102). -/
theorem exec_fence_pkg {z : Scope} (hl : z ≠ .lane) (hp : z ≠ .pod) :
    exec (.fence z) s = .next (if c.allPkg then setCore s t c.advance else s) := by
  have hx : exec (.fence z) s = execFence z s := rfl
  cases z with
  | lane => exact absurd rfl hl
  | pod => exact absurd rfl hp
  | core | quad | die | pkg => exact exec_of_runs hrun hx rfl

section
variable {a : Reg} (hd : c.ready [a] = true)
include hd

/-- SBAR whose streams have performed what they issued. -/
theorem exec_sbar_done (hm : (c.gpr a).toNat < 64) (hs : sbarDone s t c f (c.gpr a) = true) :
    exec (.sbar a) s = .next (setCore s t { c.advance with held := 0, waiting := .none }) := by
  refine exec_of_runs hrun (show _ = execSbar a s from rfl) ?_
  simp only [hd, zeroBits_mask, hm, hs, decide_true, Bool.not_true, Bool.false_eq_true, if_false, if_true]

/-- SBAR of a mask with a reserved bit. -/
theorem exec_sbar_reserved (hm : 64 ≤ (c.gpr a).toNat) : exec (.sbar a) s = .next (trapOpen s t Cause.sbarmask) := by
  refine exec_of_runs hrun (show _ = execSbar a s from rfl) ?_
  simp only [hd, zeroBits_mask, Nat.not_lt.2 hm, decide_false, Bool.not_true, Bool.not_false, Bool.false_eq_true, if_false,
    if_true]

end
end

/-! ### O8 -/

/-- Settles O8: FENCE by its scope, SBAR by its mask. -/
theorem fenceForms : Obligations.FenceForms := by
  unfold Obligations.FenceForms
  intro s t c f z a hrun
  have goes {i : Instr} {c' : Core} (h : exec i s = .next (setCore s t c')) :
      Answers i s (fun s' => OnlyCore s s' t ∧ getCore s' t = c') := ⟨_, h, onlyCore_setCore s t c', getCore_setCore s t c'⟩
  refine ⟨?performed, ?waits, fun hd hm hs => goes (exec_sbar_done hrun hd hm hs),
    fun hd hm => trapsOpen_of_exec (exec_sbar_reserved hrun hd hm)⟩
  case performed =>
    rintro (rfl | ⟨rfl, hp⟩ | ⟨hl, hp, hk⟩)
    · exact goes (exec_fence_lane hrun)
    · exact goes ((exec_fence_pod hrun).trans (by rw [if_pos hp]))
    · exact goes ((exec_fence_pkg hrun hl hp).trans (by rw [if_pos hk]))
  case waits =>
    rintro (⟨rfl, hp⟩ | ⟨hl, hp, hk⟩)
    · exact ⟨s, (exec_fence_pod hrun).trans (by rw [hp]; rfl), rfl⟩
    · exact ⟨s, (exec_fence_pkg hrun hl hp).trans (by rw [hk]; rfl), rfl⟩

end Sys2Proof.Machine
end

section
/-! PROOF. PARK, YIELD and EXIT (R112, R205, R206, R280, R281). -/
namespace Sys2Proof.Machine
open Sys2Proof.Claims

/-! ### The parked record (R196, R205) -/

/-- The top four bits of a word, once written (R9). -/
theorem bitsOf_withBits_top (w : Word) (x : Nat) : bitsOf (withBits w 63 60 x) 63 60 = x % 16 := by
  have hw : w.toNat < 2 ^ 64 := w.isLt
  simp only [withBits, bitsOf, BitVec.toNat_ofNat, Nat.shiftRight_eq_div_pow]
  omega

theorem parkedRecord_code (t : Tid) (c : Core) (f : Firing) (live kind : Nat) (w6 : Word) :
    nth 0 (parkedRecord t c f live kind w6).hdr 0 = BitVec.ofNat 64 (bitsOf (c.pc + 4) 56 0) := rfl

/-- WKIND of a parked record is the kind of the park (R205). -/
theorem parkedRecord_wkind (t : Tid) (c : Core) (f : Firing) (live : Nat) (w6 : Word) {kind : Nat} (h : kind < 16) :
    bitsOf (nth 0 (parkedRecord t c f live kind w6).hdr 6) 63 60 = kind :=
  (bitsOf_withBits_top w6 kind).trans (Nat.mod_eq_of_lt h)

/-! ### The end of a firing by parking (R205, R206) -/

section
variable {s : State} {t : Tid} {c : Core} {f : Firing} {mask w6 : Word} {kind : Nat}

/-- With room in the park store the firing leaves its core, and its record is the last in the store. -/
theorem parkFiring_parks (hk : kind ≠ 1) (hu : c.unfin = []) (hw : ∀ x y z, c.waiting ≠ .park x y z)
    (hs : (s.tk.parked.filter (fun p => p.quad == quadOf t)).length < 1024) :
    parkFiring s t c f mask w6 kind = setCore { unbind s f.task.ctx (coreBinder t) with
      tk := { s.tk with parked := s.tk.parked ++ [parkedRecord t c f (bitsOf mask 15 0) kind w6] } } t c.stop := by
  unfold parkFiring
  split
  case h_1 x y z h => exact absurd h (hw x y z)
  case h_2 => simp only [hu, hk, Nat.not_le.2 hs, List.isEmpty_nil, Bool.not_true, Bool.false_eq_true, if_false]; rfl

/-- A firing that waits in place goes on once its condition holds. -/
theorem parkFiring_goesOn {x y z : Nat} (hw : c.waiting = .park x y z)
    (hp : parkHolds s f.task.ctx f.task.engcmds kind (bitsOf w6 47 32) (bitsOf w6 31 0) = true) :
    parkFiring s t c f mask w6 kind = setCore s t { c.advance with waiting := .none } := by
  unfold parkFiring
  simp only [hw, hp, if_true]

end

/-! ### The forms -/

section
variable {s : State} {t : Tid} {c : Core} {f : Firing} (hrun : Runs s t c f)
include hrun

section
variable {a b : Reg} (hd : c.ready [a, b] = true) {k : BitVec 6}
include hd

/-- PARK for an engine's commands or acknowledgements, its operands well formed, parks the firing. -/
theorem exec_park_commands (hm : zeroBits (c.gpr a) 63 16 = true) (hk : k = 2 ∨ k = 3) (hb : c.gpr b = 0) :
    exec (.park a b k) s = .next (parkFiring s t c f (c.gpr a) (c.gpr b) k.toNat) := by
  refine exec_of_runs hrun (show _ = execPark a b _ s from rfl) ?_
  rcases hk with rfl | rfl <;> simp [hd, hm, hb]

/-- PARK of a mask with a reserved bit; an identifier is looked at first (R112). -/
theorem exec_park_reserved (hm : zeroBits (c.gpr a) 63 16 = false)
    (hb : k = 1 → barMalformed (bitsOf (c.gpr b) 31 0) = false) :
    exec (.park a b k) s = .next (trapOpen s t Cause.parkarg) := by
  refine exec_of_runs hrun (show _ = execPark a b _ s from rfl) ?_
  have hn : ¬(k = 1 ∧ barMalformed (bitsOf (c.gpr b) 31 0) = true) := fun ⟨h1, h2⟩ => by simp [hb h1] at h2
  simp only [hd, hm, Bool.not_true, Bool.not_false, Bool.true_or, Bool.false_eq_true, if_false, if_true, if_neg hn]

/-- PARK at a malformed barrier identifier. -/
theorem exec_park_malformed (hb : barMalformed (bitsOf (c.gpr b) 31 0) = true) :
    exec (.park a b 1) s = .next (trapOpen s t Cause.barscope) := by
  refine exec_of_runs hrun (show _ = execPark a b _ s from rfl) ?_
  simp only [hd, hb, Bool.not_true, Bool.false_eq_true, if_false, and_self, if_true]

end

/-- YIELD parks with WKIND 0. -/
theorem exec_yield {a : Reg} (hd : c.ready [a] = true) (hm : zeroBits (c.gpr a) 63 16 = true) :
    exec (.yield a) s = .next (parkFiring s t c f (c.gpr a) 0 0) := by
  refine exec_of_runs hrun (show _ = execYield a s from rfl) ?_
  simp only [hd, hm, Bool.not_true, Bool.false_eq_true, if_false]

/-- EXIT once nothing of the core is under way: the task retires. -/
theorem exec_exit (hu : c.unfin = []) (hp : (List.range 4).all (fun d => !portBusy s t d) = true) :
    exec .exit s = .next (setCore { unbind s f.task.ctx (coreBinder t) with
      tk := { s.tk with retiring := s.tk.retiring ++ [⟨{ f.task with quad := quadOf t }, f.sent, f.tiles, false, false⟩] } }
        t c.stop) := by
  have hn : (List.range 4).any (fun d => portBusy s t d) = false := by simpa using hp
  refine exec_of_runs hrun (show _ = execExit s from rfl) ?_
  simp only [hu, hn, List.isEmpty_nil, Bool.not_true, Bool.or_self, Bool.false_eq_true, if_false]
  rfl

end

/-! ### O15 -/

/-- Settles O15: each form by what it makes of the firing, then the record by what it takes from the core. -/
theorem parkForms : Obligations.ParkForms := by
  unfold Obligations.ParkForms
  intro s t c f hrun
  refine ⟨?park, ?inPlace, ?yield, ?traps, ?exit⟩
  case park =>
    intro a b k hd hm hk hb hu hw hs
    obtain ⟨hne, hlt⟩ : k.toNat ≠ 1 ∧ k.toNat < 16 := by rcases hk with rfl | rfl <;> decide
    have hx := (exec_park_commands hrun hd hm hk hb).trans (congrArg _ (parkFiring_parks hne hu hw hs))
    refine ⟨_, hx, ?_, rfl, _, rfl, parkedRecord_code .., rfl, parkedRecord_wkind _ _ _ _ _ hlt, rfl⟩
    rw [getCore_setCore]; rfl
  case inPlace =>
    intro a b k x y z hd hm hk hb hw hp
    have hx := (exec_park_commands hrun hd hm hk hb).trans (congrArg _ (parkFiring_goesOn hw hp))
    exact ⟨_, hx, onlyCore_setCore _ _ _, getCore_setCore _ _ _⟩
  case yield =>
    intro a hd hm hu hw hs
    have hx := (exec_yield hrun hd hm).trans (congrArg _ (parkFiring_parks (by decide) hu hw hs))
    refine ⟨_, hx, ?_, rfl, _, rfl, parkedRecord_code .., parkedRecord_wkind _ _ _ _ _ (by decide)⟩
    rw [getCore_setCore]; rfl
  case traps =>
    exact fun a b hd => ⟨fun k hm hb => trapsOpen_of_exec (exec_park_reserved hrun hd hm hb),
      fun hb => trapsOpen_of_exec (exec_park_malformed hrun hd hb)⟩
  case exit =>
    intro hu hp
    refine ⟨_, exec_exit hrun hu hp, ?_, rfl, _, rfl, rfl, rfl⟩
    rw [getCore_setCore]; rfl

end Sys2Proof.Machine
end

section
/-! PROOF. BINIT, BARR, BWAIT, BTEST and BCHG (R112 to R119, R294 to R297), and what the barrier node's operations do to an object. -/
namespace Sys2Proof.Machine
open Sys2Proof.Claims

/-! ### The barrier node's operations -/

section
variable (s : State) (id : Nat)

/-- States whose barrier networks are equal hold the same objects. -/
theorem getBar_congr {s s' : State} (h : s'.bar = s.bar) (id : Nat) : getBar s' id = getBar s id := by rw [getBar, getBar, h]

/-- Messages to other nodes leave the barrier network alone. -/
theorem foldl_sendNode_bar (cls : Nat) (w : List Nat) (l : List Nat) :
    (l.foldl (fun s n => sendNode s n cls w) s).bar = s.bar :=
  foldl_keeps State.bar (fun _ _ => sendNode_bar _ _ _ _) l

/-- A completed phase changes the object, and nothing else of the barrier network (R116). -/
theorem completeBar_bar : (completeBar s id).bar = (setBar s id (getBar s id).advance).bar := foldl_sendNode_bar _ _ _ _

@[simp] theorem getBar_completeBar : getBar (completeBar s id) id = (getBar s id).advance :=
  (getBar_congr (completeBar_bar s id) id).trans (getBar_setBar _ _ _)

/-- A waiter's class changes PRIO where it is the lower one, and nothing else of the barrier network (R118). -/
theorem lowerPrio_bar (p : Nat) : (lowerPrio s id p).bar =
    if (getBar s id).prio ≤ p then s.bar else (setBar s id { getBar s id with prio := p }).bar := by
  unfold lowerPrio
  dsimp only
  split
  · rfl
  · split
    · rfl
    · split
      · exact foldl_sendNode_bar _ _ _ _
      · rfl

/-- PRIO := min(PRIO, class) (R118). -/
theorem getBar_lowerPrio (p : Nat) :
    getBar (lowerPrio s id p) id = { getBar s id with prio := min (getBar s id).prio p } := by
  have h := lowerPrio_bar s id p
  split at h
  case isTrue hp => rw [getBar_congr h, Nat.min_eq_left hp]
  case isFalse hp => rw [getBar_congr h, getBar_setBar, Nat.min_eq_right (Nat.le_of_not_le hp)]

end

theorem lowerPrio_prios (s : State) (id p : Nat) : (lowerPrio s id p).bar.prios = s.bar.prios := by
  rw [lowerPrio_bar]
  split <;> rfl

/-- Without all its arrivals a barrier stays as it is (R116). -/
theorem barTest_of_arrived_ne {s : State} {id : Nat} (h : (getBar s id).arrived ≠ (getBar s id).expect) : barTest s id = s := by
  simp only [barTest, bne_iff_ne.2 h, Bool.or_true, Bool.true_or, if_true]

/-- Registers that are ready together are ready without the last of them. -/
theorem ready_of_append {c : Core} {rs qs : List Reg} (h : c.ready (rs ++ qs) = true) : c.ready rs = true := by
  rw [Core.ready, List.all_append, Bool.and_eq_true] at h
  exact h.1

/-- Accesses performed at pod scope are performed at pkg scope (R95). -/
theorem allPkg_of_allPod {c : Core} (h : c.allPod = true) : c.allPkg = true := by
  refine List.all_eq_true.2 fun a ha => ?_
  have hp := List.all_eq_true.1 h a ha
  unfold Access.donePod at hp
  unfold Access.donePkg
  split at hp
  case h_1 v he => rw [he]
  case h_2 => cases hp

theorem barRefuses_of_malformed {s : State} {id : Nat} (h : barMalformed id = true) (ctx : Nat) (t : Tid) :
    barRefuses s id ctx t = true := by simp only [barRefuses, h, Bool.true_or]

theorem not_malformed_of_barRefuses {s : State} {id ctx : Nat} {t : Tid} (h : barRefuses s id ctx t = false) :
    barMalformed id = false := by
  simp only [barRefuses, Bool.or_eq_false_iff] at h
  obtain ⟨⟨⟨hm, -⟩, -⟩, -⟩ := h
  exact hm

/-! ### BINIT and BARR -/

section
variable {s : State} {t : Tid} {c : Core} {f : Firing} {a b : Reg} (hrun : Runs s t c f) (hp : mayImpure c f = true)
  (hd : c.ready [a, b] = true)
include hrun hp hd

/-- BINIT of a malformed identifier. -/
theorem exec_binit_malformed (hw : c.waiting = .none) (hm : barMalformed (c.gpr a).toNat = true) :
    exec (.binit a b) s = .next (trapOpen s t Cause.barscope) := by
  refine exec_of_runs hrun (show _ = execBinit a b s from rfl) ?_
  simp only [hd, notPure_of_mayImpure hp, hw, hm, Bool.not_true, Bool.true_or, Bool.false_eq_true, if_false, if_true]

/-- BINIT of an object of this node alone, or of a top share, sets it up and goes on (R113, R294). -/
theorem exec_binit_applies (hw : c.waiting = .none) (hm : barMalformed (c.gpr a).toNat = false)
    (hi : barInside (c.gpr a).toNat t = true) (hr : binitRefused s (c.gpr a).toNat f.task.ctx (c.gpr b) = false)
    (ht : barScope (c.gpr a).toNat = 5 → bitsOf (c.gpr b) 51 32 = s.boot.node) :
    exec (.binit a b) s = .next (setCore (setBar s (c.gpr a).toNat ((getBar s (c.gpr a).toNat).init (barScope (c.gpr a).toNat)
      (bitsOf (c.gpr b) 23 0) f.task.ctx (bitsOf (c.gpr b) 51 32))) t { c.advance with waiting := .none }) := by
  refine exec_of_runs hrun (show _ = execBinit a b s from rfl) ?_
  obtain ⟨-, hcore, -⟩ := hrun
  have hn : ¬(barScope (c.gpr a).toNat = 5 ∧ bitsOf (c.gpr b) 51 32 ≠ s.boot.node) := fun ⟨h5, hne⟩ => hne (ht h5)
  simp only [hd, notPure_of_mayImpure hp, hw, hm, hi, hr, Bool.not_true, Bool.or_self, Bool.false_eq_true, if_false, if_neg hn,
    getCore_setBar, hcore]

/-- BARR at a malformed identifier. -/
theorem exec_barr_malformed (hw : c.waiting = .none) (hm : barMalformed (c.gpr a).toNat = true) :
    exec (.barr a b) s = .next (trapOpen s t Cause.barscope) := by
  refine exec_of_runs hrun (show _ = execBarr a b s from rfl) ?_
  simp only [hd, notPure_of_mayImpure hp, hw, hm, Bool.not_true, Bool.false_eq_true, if_false, if_true]

/-- BARR with its release done puts its arrival under way, and waits for the node's answer (R295). -/
theorem exec_barr_arrives (hw : c.waiting = .none) (hm : barMalformed (c.gpr a).toNat = false) (h0 : 0 < (c.gpr b).toNat)
    (hn : (c.gpr b).toNat < 2 ^ 24) (hb : b.val ≠ 0) (hq : c.allPod = true) (hg : c.amsgw = none) :
    exec (.barr a b) s = .next (setCore { s with
      eng := { s.eng with nextUid := s.eng.nextUid + 1 }
      bar := { s.bar with arrivals := s.bar.arrivals ++
        [⟨(c.gpr a).toNat, (c.gpr b).toNat, f.task.ctx, f.task.launch, .core t s.eng.nextUid⟩] } } t
      { c with waiting := .barr s.eng.nextUid }) := by
  refine exec_of_runs hrun (show _ = execBarr a b s from rfl) ?_
  have hc : ¬((c.gpr b).toNat = 0 ∨ 2 ^ 24 ≤ (c.gpr b).toNat) := by omega
  simp only [hd, notPure_of_mayImpure hp, hw, hm, if_neg hb, if_neg hc, hq, allPkg_of_allPod hq, hg, Bool.not_true, ite_self,
    Option.isSome_none, Bool.or_self, Bool.false_eq_true, if_false]

/-- BARR whose answer has come goes on, or takes the cause that the node gave (R295). -/
theorem exec_barr_answered {uid : Nat} {e : Cause} (hw : c.waiting = .barr uid) (ho : awaitsOwner s t c = false)
    (he : s.bar.answers.get? uid = some e) :
    exec (.barr a b) s = .next (if e = 0 then
        setCore { s with bar := { s.bar with answers := s.bar.answers.erase uid } } t { c.advance with waiting := .none }
      else trapOpen (setCore { s with bar := { s.bar with answers := s.bar.answers.erase uid } } t { c with waiting := .none })
        t e) := by
  refine exec_of_runs hrun (show _ = execBarr a b s from rfl) ?_
  simp only [hd, notPure_of_mayImpure hp, hw, ho, he, Bool.not_true, Bool.false_eq_true, if_false]

end

/-! ### BCHG -/

section
variable {s : State} {t : Tid} {c : Core} {f : Firing} {a b : Reg}

/-- Both rows of BCHG have one meaning, which gb's top bits select (R297). -/
theorem exec_bchg {i : Instr} (hi : i = .bchgSetExpect a b ∨ i = .bchgRelease a b) : exec i s = bchg s a b := by
  rcases hi with rfl | rfl <;> rfl

variable {i : Instr} (hi : i = .bchgSetExpect a b ∨ i = .bchgRelease a b) (hrun : Runs s t c f) (hp : mayImpure c f = true)
  (hd : c.ready [a, b] = true)
include hi hrun hp hd

/-- BCHG at a barrier that R112 or R114 refuses. -/
theorem exec_bchg_refused (hr : barRefuses s (c.gpr a).toNat f.task.ctx t = true) :
    exec i s = .next (trapOpen s t Cause.barscope) := by
  refine exec_of_runs hrun (exec_bchg hi) ?_
  simp only [hd, notPure_of_mayImpure hp, hr, Bool.not_true, Bool.false_eq_true, if_false, if_true]

variable (hr : barRefuses s (c.gpr a).toNat f.task.ctx t = false)
include hr

/-- BCHG that releases an object with nothing counted and nothing pending. -/
theorem exec_bchg_releases (hg : bitsOf (c.gpr b) 63 62 = 1) (ha : (getBar s (c.gpr a).toNat).arrived = 0)
    (he : (getBar s (c.gpr a).toNat).early = 0) (hn : (getBar s (c.gpr a).toNat).pending = 0)
    (hz : zeroBits (c.gpr b) 61 0 = true) :
    exec i s = .next (setCore (setBar s (c.gpr a).toNat { getBar s (c.gpr a).toNat with v := false }) t c.advance) := by
  refine exec_of_runs hrun (exec_bchg hi) ?_
  simp only [hd, notPure_of_mayImpure hp, hr, hg, ha, he, hn, hz, ne_eq, not_true_eq_false, or_self, Bool.not_true,
    Bool.true_eq_false, Bool.false_eq_true, if_false]

/-- BCHG that sets an EXPECT which the arrivals counted so far do not reach: nothing completes, and none of them is early. -/
theorem exec_bchg_expects (hg : bitsOf (c.gpr b) 63 62 = 0) (hz : zeroBits (c.gpr b) 61 24 = true)
    (he : (getBar s (c.gpr a).toNat).arrived + (getBar s (c.gpr a).toNat).early < bitsOf (c.gpr b) 23 0) :
    exec i s = .next (setCore (setBar s (c.gpr a).toNat
      { getBar s (c.gpr a).toNat with expect := bitsOf (c.gpr b) 23 0 }) t c.advance) := by
  refine exec_of_runs hrun (exec_bchg hi) ?_
  have hsub : (getBar s (c.gpr a).toNat).arrived - bitsOf (c.gpr b) 23 0 = 0 := by omega
  have hmin : min (getBar s (c.gpr a).toNat).arrived (bitsOf (c.gpr b) 23 0) = (getBar s (c.gpr a).toNat).arrived := by omega
  have hok : ¬(bitsOf (c.gpr b) 23 0 = 0 ∨ bitsOf (c.gpr b) 23 0 < (getBar s (c.gpr a).toNat).early ∨
      zeroBits (c.gpr b) 61 24 = false) := by
    rw [hz]; simp; omega
  simp only [hd, notPure_of_mayImpure hp, hr, hg, hsub, hmin, Nat.add_zero, if_neg hok, Bool.not_true, Bool.false_eq_true, if_false]
  rw [barTest_of_arrived_ne]
  rw [getBar_setBar]
  dsimp only
  omega

/-- BCHG of a reserved operation. -/
theorem exec_bchg_reserved (hg : 2 ≤ bitsOf (c.gpr b) 63 62) : exec i s = .next (trapOpen s t Cause.barcfg) := by
  refine exec_of_runs hrun (exec_bchg hi) ?_
  simp only [hd, notPure_of_mayImpure hp, hr, Bool.not_true, Bool.false_eq_true, if_false]
  split
  case h_1 h => omega
  case h_2 h => omega
  case h_3 => rfl

end

/-! ### BWAIT and BTEST -/

section
variable {s : State} {t : Tid} {c : Core} {f : Firing} {a b d : Reg} (hrun : Runs s t c f) (hd : c.ready [a, b, d] = true)
include hrun hd

theorem exec_bwait_malformed (hw : c.waiting = .none) (hm : barMalformed (c.gpr a).toNat = true) :
    exec (.bwait a b d) s = .next (trapOpen s t Cause.barscope) := by
  refine exec_of_runs hrun (show _ = execBwait a b d s from rfl) ?_
  simp only [hd, hw, hm, Bool.not_true, Bool.false_eq_true, if_false, if_true]

theorem exec_btest_malformed (hm : barMalformed (c.gpr a).toNat = true) :
    exec (.btest a b d) s = .next (trapOpen s t Cause.barscope) := by
  refine exec_of_runs hrun (show _ = execBtest a b d s from rfl) ?_
  simp only [hd, hm, Bool.not_true, Bool.false_eq_true, if_false, if_true]

variable (hz : zeroBits (c.gpr b) 63 16 = true) (hr : barRefuses s (c.gpr a).toNat f.task.ctx t = false)
include hz hr

/-- BWAIT lends the waiter's class to the barrier, and waits (R118, R296). -/
theorem exec_bwait_waits (hw : c.waiting = .none) :
    exec (.bwait a b d) s = .next (setCore (lowerPrio s (c.gpr a).toNat (firingClass s t f)) t
      { c with waiting := .bwait (c.gpr a).toNat (bitsOf (c.gpr b) 15 0) d }) := by
  refine exec_of_runs hrun (show _ = execBwait a b d s from rfl) ?_
  simp only [hd, hw, not_malformed_of_barRefuses hr, hz, hr, Bool.not_true, Bool.false_eq_true, if_false]

/-- BTEST reads the object once (R296). -/
theorem exec_btest_reads : exec (.btest a b d) s =
    .next (setCore s t (c.setGpr d (barResult (getBar s (c.gpr a).toNat) (bitsOf (c.gpr b) 15 0))).advance) := by
  refine exec_of_runs hrun (show _ = execBtest a b d s from rfl) ?_
  simp only [hd, not_malformed_of_barRefuses hr, hz, hr, Bool.not_true, Bool.false_eq_true, if_false]

end

/-! ### O20 -/

/-- Settles O20: each form by what it makes of the object and its core. -/
theorem barrierForms : Obligations.BarrierForms := by
  unfold Obligations.BarrierForms
  intro s t c f a b d hrun hp hd
  have hab : c.ready [a, b] = true := ready_of_append (qs := [d]) hd
  refine ⟨?malformed, ?binit, ?barr, ?goesOn, ?refused, ?waiters, ?bchg⟩
  case malformed =>
    intro hm hw
    have hr := barRefuses_of_malformed (s := s) hm f.task.ctx t
    exact ⟨trapsOpen_of_exec (exec_binit_malformed hrun hp hab hw hm), trapsOpen_of_exec (exec_barr_malformed hrun hp hab hw hm),
      trapsOpen_of_exec (exec_bwait_malformed hrun hd hw hm), trapsOpen_of_exec (exec_btest_malformed hrun hd hm),
      trapsOpen_of_exec (exec_bchg_refused (.inl rfl) hrun hp hab hr),
      trapsOpen_of_exec (exec_bchg_refused (.inr rfl) hrun hp hab hr)⟩
  case binit =>
    intro hw hm hi hr ht
    refine ⟨_, exec_binit_applies hrun hp hab hw hm hi hr ht, rfl, getCore_setCore _ _ _, ?_⟩
    simp only [getBar_setCore, getBar_setBar, Barrier.init, and_self]
  case barr =>
    intro hw hm h0 hn hb hq hg
    refine ⟨_, exec_barr_arrives hrun hp hab hw hm h0 hn hb hq hg, rfl, ?_, rfl⟩
    rw [getCore_setCore]
  case goesOn =>
    intro uid hw ho he
    exact ⟨_, exec_barr_answered hrun hp hab hw ho he, rfl, getCore_setCore _ _ _⟩
  case refused =>
    intro uid e hw ho he hne
    refine ⟨_, (exec_barr_answered hrun hp hab hw ho he).trans (congrArg _ ((if_neg hne).trans (trapOpen_eq_takeTrap ?_)))⟩
    rw [getCore_setCore]
  case waiters =>
    intro hw hm hz hr
    refine ⟨⟨_, exec_bwait_waits hrun hd hz hr hw, lowerPrio_st, getCore_setCore _ _ _, ?_⟩,
      ⟨_, exec_btest_reads hrun hd hz hr, onlyCore_setCore _ _ _, getCore_setCore _ _ _⟩⟩
    rw [getBar_setCore, getBar_lowerPrio]
  case bchg =>
    intro i hi hr
    refine ⟨fun hg ha he hn hz => ?release, fun hg hz he => ?expect,
      fun hg => trapsOpen_of_exec (exec_bchg_reserved hi hrun hp hab hr hg)⟩
    case release =>
      exact ⟨_, exec_bchg_releases hi hrun hp hab hr hg ha he hn hz, rfl, getCore_setCore _ _ _, getBar_setBar _ _ _⟩
    case expect =>
      exact ⟨_, exec_bchg_expects hi hrun hp hab hr hg hz he, rfl, getCore_setCore _ _ _, getBar_setBar _ _ _⟩

end Sys2Proof.Machine
end

section
/-! PROOF. The events of the barrier node, of the pod's tree of shares, and the inheritance floor (R114 to R119, R398). -/
namespace Sys2Proof.Machine
open Sys2Proof.Claims

/-! ### Arrivals (R114) -/

section
variable {s : State} {x : Arrival}

/-- An arrival from no tile, in the barrier's context, is in scope; an object that has room in the phase takes it. -/
theorem arrivalCause_counts {b : Barrier} (hm : barMalformed x.id = false) (hv : b.v = true) (ht : x.src.tile = none)
    (hc : b.ctx = x.ctx) (hn : b.arrived + x.n ≤ b.expect) : arrivalCause b x = none := by
  simp only [arrivalCause, hm, hv, ht, hc, hn, bne_self_eq_false, Bool.not_true, Bool.and_false, Bool.or_self,
    Bool.false_eq_true, if_false, if_true]

/-- An arrival beyond this phase's EXPECT and the next one's is over (R114). -/
theorem arrivalCause_over {b : Barrier} (hm : barMalformed x.id = false) (hv : b.v = true) (ht : x.src.tile = none)
    (hc : b.ctx = x.ctx) (hn : b.expect < b.arrived + x.n) (he : 2 * b.expect < b.arrived + b.early + x.n) :
    arrivalCause b x = some Cause.barover := by
  have hover : ¬b.early + (b.arrived + x.n - b.expect) ≤ b.expect := by omega
  simp only [arrivalCause, hm, hv, ht, hc, if_neg (Nat.not_le.2 hn), if_neg hover, bne_self_eq_false, Bool.not_true, Bool.and_false,
    Bool.or_self, Bool.false_eq_true, if_false]

/-- An agent outside every tile is told nothing of an arrival that is taken. -/
theorem answerArrival_taken {b : Barrier} (ht : x.src.tile = none) : answerArrival s b x none = s := by
  unfold answerArrival
  split
  case h_1 t uid h => rw [h] at ht; cases ht
  case h_2 => rfl
  all_goals contradiction

/-- The word that an agent outside every tile gets leaves the barrier network alone. -/
theorem answerArrival_bar {b : Barrier} {e : Cause} (ht : x.src.tile = none) : (answerArrival s b x (some e)).bar = s.bar := by
  unfold answerArrival
  cases hsrc : x.src with
  | core t uid | tap t u | engine q => rw [hsrc] at ht; cases ht
  | launch lid => exact (hostEvent_frame none s e x.ctx lid 0 0).bar
  | child n => exact (appendEvent_frame none s b.ctx ⟨e, 3, 0, 0, 0, 0, 0⟩).bar

/-- The arrival in focus, once it is off the list of those under way, is told to its agent with the cause that refuses it. -/
theorem exec_barrierArrival_refused {e : Cause} (hx : s.bar.arrivals[s.op 0]? = some x)
    (h : arrivalCause (getBar s x.id) x = some e) :
    exec .barrierArrival s = .next (answerArrival { s with bar := { s.bar with arrivals := dropNth s.bar.arrivals (s.op 0) } }
      (getBar s x.id) x (some e)) := by
  have hb : ∀ l, getBar { s with bar := { s.bar with arrivals := l } } x.id = getBar s x.id := fun _ => rfl
  show execBarrierArrival s = _
  simp only [execBarrierArrival, hx, hb, h]

/-- The arrival in focus of an agent outside every tile is counted, and nobody is told. -/
theorem exec_barrierArrival_taken (hx : s.bar.arrivals[s.op 0]? = some x) (ht : x.src.tile = none)
    (h : arrivalCause (getBar s x.id) x = none) :
    exec .barrierArrival s = .next (setBar { s with bar := { s.bar with arrivals := dropNth s.bar.arrivals (s.op 0) } } x.id
      ((getBar s x.id).arrive x.n)) := by
  have hb : ∀ l, getBar { s with bar := { s.bar with arrivals := l } } x.id = getBar s x.id := fun _ => rfl
  show execBarrierArrival s = _
  simp only [execBarrierArrival, hx, hb, h, answerArrival_taken ht]

theorem arrive_of_le {b : Barrier} {n : Nat} (h : b.arrived + n ≤ b.expect) : b.arrive n = { b with arrived := b.arrived + n } :=
  if_pos h

end

/-! ### Phases (R115 to R117) -/

section
variable {s : State}

theorem exec_barrierDischarge {x : Nat × Nat} (hx : s.bar.discharges[s.op 0]? = some x) :
    exec .barrierDischarge s = .next (setBar { s with bar := { s.bar with discharges := dropNth s.bar.discharges (s.op 0) } } x.1
      { getBar s x.1 with pending := (getBar s x.1).pending - x.2 }) := by
  show execBarrierDischarge s = _
  simp only [execBarrierDischarge, hx]
  rfl

/-- A barrier of this module alone with every arrival in and nothing pending completes (R116). -/
theorem barTest_completes {id : Nat} (hv : (getBar s id).v = true) (ha : (getBar s id).arrived = (getBar s id).expect)
    (hp : (getBar s id).pending = 0) (h5 : barScope id ≠ 5) : barTest s id = completeBar s id := by
  have hn : ¬(barScope id = 5 ∧ (getBar s id).root ≠ s.boot.node) := fun h => h5 h.1
  simp only [barTest, hv, ha, hp, if_neg hn, bne_self_eq_false, Bool.not_true, Bool.or_self, Bool.false_eq_true, if_false]

section
variable {c : Core} {f : Firing} {id p : Nat} {d : Reg} (hc : getCore s (s.op 0) = c) (hr : c.run = some f)
  (hw : c.waiting = .bwait id p d)
include hc hr hw

/-- BWAIT_OBSERVE writes the result of a waiter whose phase is complete, and leaves any other waiting (R117, R296). -/
theorem exec_bwaitObserve : exec .bwaitObserve s = .next (if phaseDone (getBar s id).phase p then
    setCore s (s.op 0) { (c.setGpr d (barResult (getBar s id) p)).advance with waiting := .none } else s) := by
  show execBwaitObserve s = _
  simp only [execBwaitObserve, hc, hr, hw]

end

/-- The result word of a complete phase (R296). -/
theorem barResult_done {b : Barrier} {p : Nat} (h : phaseDone b.phase p = true) :
    barResult b p = BitVec.ofNat 64 (2 ^ 63 + b.phase * 65536 + b.status) := by rw [barResult, if_pos h]

end

/-! ### The pod's tree of shares (R118, R119) -/

section
variable {s : State} {m : PodMsg} {rest : List PodMsg}

/-- A share with a new child: the node is listed once (R119). -/
def Barrier.adopt (b : Barrier) (n : Nat) : Barrier :=
  { b with children := if b.children.contains n then b.children else b.children ++ [n] }

theorem adopt_children_contains (b : Barrier) (n : Nat) : (b.adopt n).children.contains n = true := by
  unfold Barrier.adopt
  dsimp only
  split
  case isTrue h => exact h
  case isFalse => simp

/-- The oldest join, at a share that can take a child, makes its node one and is answered (R119). -/
theorem exec_podBarrierJoin (hj : s.bar.joins = m :: rest) (hm : barMalformed m.id = false) (hv : (getBar s m.id).v = true)
    (hc : (getBar s m.id).children.length < 64) :
    exec .podBarrierJoin s = .next (sendNode (setBar { s with bar := { s.bar with joins := rest } } m.id
      ((getBar s m.id).adopt m.node)) m.node 1 [10, m.phase, 0]) := by
  have hb : ∀ l, getBar { s with bar := { s.bar with joins := l } } m.id = getBar s m.id := fun _ => rfl
  show execPodBarrierJoin s = _
  simp only [execPodBarrierJoin, hj, hb, hm, hv, Nat.not_le.2 hc, decide_false, Bool.not_true, Bool.or_self, Bool.false_eq_true,
    if_false, Barrier.adopt]

/-- The oldest completion of the parent share, without POISON, completes the phase here (R119). -/
theorem exec_podBarrierCompletion (hc : s.bar.completions = m :: rest) (h0 : m.status = 0) :
    exec .podBarrierCompletion s = .next (completeBar (setBar { s with bar := { s.bar with completions := rest } } m.id
      { getBar s m.id with status := 0 }) m.id) := by
  have hb : ∀ l, getBar { s with bar := { s.bar with completions := l } } m.id = getBar s m.id := fun _ => rfl
  show execPodBarrierCompletion s = _
  simp only [execPodBarrierCompletion, hc, hb, h0, Nat.zero_ne_one, if_false]

/-- The oldest PRIO message is off the list, and lowers the share's PRIO, whichever way it goes on (R118, R119). -/
theorem barrierPrioUpdate_answers (hp : s.bar.prios = m :: rest) : Answers .barrierPrioUpdate s (fun s' =>
    s'.bar.prios = rest ∧ (getBar s' m.id).prio = min (getBar s m.id).prio m.prio) := by
  have he : exec .barrierPrioUpdate s = execBarrierPrioUpdate s := rfl
  simp only [execBarrierPrioUpdate, hp] at he
  split at he
  case isTrue =>
    have hb := foldl_sendNode_bar (setBar { s with bar := { s.bar with prios := rest } } m.id
      { getBar s m.id with prio := min (getBar s m.id).prio m.prio }) 0 [7, m.id, m.prio] (getBar s m.id).children
    refine ⟨_, he, congrArg (·.prios) hb, ?_⟩
    exact congrArg Barrier.prio ((getBar_congr hb m.id).trans (getBar_setBar _ _ _))
  case isFalse =>
    refine ⟨_, he, lowerPrio_prios _ _ _, ?_⟩
    exact congrArg Barrier.prio (getBar_lowerPrio _ m.id m.prio)

end

/-! ### Inheritance (R398) -/

/-- The floor that a quad's holders see; without one the class is 7 (R398). -/
theorem inheritanceFloor_answers (s : State) : Answers .inheritanceFloor s (fun s' => s'.cores = s.cores ∧ s'.st = s.st ∧
    s'.bar.floors.getD (s.op 0 * 512 + s.op 1) 7 = quadFloor s (s.op 0) (s.op 1)) := by
  refine ⟨_, show execInheritanceFloor s = _ from rfl, rfl, rfl, ?_⟩
  dsimp only
  split
  case isTrue h => rw [SMap.getD_erase, if_pos rfl, h]
  case isFalse => exact SMap.getD_set_self _ _ _ _

/-! ### O21 -/

/-- Settles O21: each event by what it makes of the object it concerns. -/
theorem barrierEvents : Obligations.BarrierEvents := by
  unfold Obligations.BarrierEvents
  intro s
  refine ⟨fun x hx => ⟨?counts, ?overflows⟩, ?discharge, ?completes, ?incomplete, ?observe, ?join, ?completion,
    fun m rest hp => barrierPrioUpdate_answers hp, ?poison, inheritanceFloor_answers s⟩
  case counts =>
    intro hm hv ht hc hn
    refine ⟨_, exec_barrierArrival_taken hx ht (arrivalCause_counts hm hv ht hc hn), rfl, rfl, ?_, rfl⟩
    rw [getBar_setBar, arrive_of_le hn]
  case overflows =>
    intro hm hv ht hc _ hn he
    exact ⟨_, exec_barrierArrival_refused hx (arrivalCause_over hm hv ht hc hn he), getBar_congr (answerArrival_bar ht) x.id⟩
  case discharge => exact fun x hx => ⟨_, exec_barrierDischarge hx, rfl, rfl, getBar_setBar _ _ _⟩
  case completes =>
    intro hv ha hp h5
    have he : exec .barrierComplete s = .next (barTest s (s.op 0)) := rfl
    refine ⟨_, he.trans (congrArg _ (barTest_completes hv ha hp h5)), completeBar_st, ?_⟩
    simp only [getBar_completeBar, Barrier.advance, and_self]
  case incomplete => exact fun ha => congrArg _ (barTest_of_arrived_ne ha)
  case observe =>
    intro c f id p d hc hr hw
    have hx := exec_bwaitObserve hc hr hw
    refine ⟨fun hd => ?_, fun hd => hx.trans (by rw [hd]; rfl)⟩
    rw [if_pos hd, barResult_done hd] at hx
    refine ⟨_, hx, onlyCore_setCore _ _ _, ?_⟩
    rw [getCore_setCore, Core.advance, setGpr_pc, setGpr_pc]
  case join =>
    intro m rest hj hm hv hc
    refine ⟨_, exec_podBarrierJoin hj hm hv hc, rfl, ?_⟩
    rw [getBar_sendNode, getBar_setBar]
    exact adopt_children_contains _ _
  case completion =>
    intro m rest hc h0
    refine ⟨_, exec_podBarrierCompletion hc h0, congrArg (·.completions) (completeBar_bar _ _), ?_⟩
    simp only [getBar_completeBar, getBar_setBar, Barrier.advance, and_self]
  case poison =>
    intro m rest hp
    show execPodBarrierPoison s = _
    simp only [execPodBarrierPoison, hp]

end Sys2Proof.Machine
end

section
/-! PROOF. Engine inboxes (R123, R129, R131, R135, R298): what an inbox does with a message, what an acknowledgement does at its sender,
and how a command leaves. -/
namespace Sys2Proof.Machine
open Sys2Proof.Claims

/-! ### Notices between the members of collectives -/

section
variable (s : State)

/-- Settling the acceptances owed touches the notices and what is owed alone (R145; log 85). -/
theorem settleOwed_eq :
    settleOwed s = { s with eng := { s.eng with coll := (settleOwed s).eng.coll, owed := (settleOwed s).eng.owed } } := by
  have hk := foldl_keeps (s := s) (fun u : State => ({ u with eng := { u.eng with coll := [], owed := [] } } : State))
    (f := fun (u : State) (o : Nat × Nat × Nat) => if acceptanceHere u o.1 o.2.1 o.2.2 then
      { u with eng := { u.eng with coll := dropAcceptance o.1 o.2.1 o.2.2 u.eng.coll, owed := u.eng.owed.erase o } } else u)
    (fun u o => by split <;> rfl) s.eng.owed
  exact (congrArg (fun u : State =>
    ({ u with eng := { u.eng with coll := (settleOwed s).eng.coll, owed := (settleOwed s).eng.owed } } : State)) hk :)

theorem settleOwed_of_nil (h : s.eng.owed = []) : settleOwed s = s := by simp only [settleOwed, h, List.foldl_nil]

@[simp] theorem settleOwed_cores : (settleOwed s).cores = s.cores := (congrArg State.cores (settleOwed_eq s) :)
@[simp] theorem settleOwed_bar : (settleOwed s).bar = s.bar := (congrArg State.bar (settleOwed_eq s) :)
@[simp] theorem inboxOf_settleOwed (q : Nat) : inboxOf (settleOwed s) q = inboxOf s q := (congrArg (inboxOf · q) (settleOwed_eq s) :)

@[simp] theorem dropNotices_bar (q : Nat) (c : EngCmd) : (dropNotices s q c).bar = s.bar := by
  unfold dropNotices; dsimp only; split <;> exact settleOwed_bar s

@[simp] theorem inboxOf_dropNotices (q p : Nat) (c : EngCmd) : inboxOf (dropNotices s q c) p = inboxOf s p := by
  unfold dropNotices; dsimp only; split <;> exact inboxOf_settleOwed s p

end

/-! ### Inboxes -/

theorem inboxOf_setInbox_ne (s : State) {p q : Nat} (l : List EngCmd) (h : p ≠ q) : inboxOf (setInbox s q l) p = inboxOf s p :=
  SMap.getD_set_ne _ _ _ h

theorem inboxOf_putCmd (s : State) (q : Nat) (c : EngCmd) :
    inboxOf (putCmd s q c) q = (inboxOf s q).map (fun x => if x.uid = c.uid then c else x) := inboxOf_setInbox _ _ _

theorem uid_of_findCmd {s : State} {q uid : Nat} {c : EngCmd} (h : findCmd s q uid = some c) : c.uid = uid := by
  have hp := List.find?_some h
  exact eq_of_beq hp

/-! ### Messages at an inbox (R129) -/

section
variable {s s0 s1 s2 : State} {m : Msg} {q : Nat}

/-- The inbox of this module's message takes the message out of the plane (R24, R129). -/
theorem exec_engineInboxMessage_here (h0 : s.op 0 = 0)
    (hm : s.fab.msgs.find? (fun m => m.uid == s.op 1 && m.injected && m.resendAt.isNone && m.node == s.boot.node) = some m)
    (hp : firstOfPair s m = true) : exec .engineInboxMessage s = .next (takeMessage s
      { s with fab := { s.fab with msgs := s.fab.msgs.filter (fun x => x.uid != m.uid) } } (bitsOf (nth 0 m.words 1) 43 35) m) := by
  show execEngineInboxMessage s = _
  simp only [execEngineInboxMessage, h0, hm, hp, if_true, Bool.not_true, Bool.false_eq_true, if_false]

section
variable (hk : (getCtx s (engCtx (cmdOf m))).state ≠ .killed)
include hk

theorem takeMessage_fallow (hf : quadFallow s q = true) : takeMessage s0 s q m = acknowledge s m 2 2 Cause.engnode := by
  simp only [takeMessage, if_neg hk, hf, if_true]

variable (hf : quadFallow s q = false)
include hf

theorem takeMessage_good {ms : List Nat} {ps : List Word} (hc : checkMessage s q (cmdOf m) = (.good ms ps, s2)) :
    takeMessage s0 s q m = if inboxBusy s2 q (engCtx (cmdOf m)) then
        acknowledge (unbind s2 (engCtx (cmdOf m)) (engBinder (cmdOf m))) m 1 0 0
      else acknowledge (acceptCommand s2 q (cmdOf m) ms ps) m 0 0 0 := by
  simp only [takeMessage, if_neg hk, hf, hc, Bool.false_eq_true, if_false]

theorem takeMessage_bad {st : Nat} {e : Cause} {va : Word} (hc : checkMessage s q (cmdOf m) = (.bad st e va, s2)) :
    takeMessage s0 s q m = refuseMessage s2 q (refusedCmd (cmdOf m) st e va) m := by
  simp only [takeMessage, if_neg hk, hf, hc, Bool.false_eq_true, if_false]

end

/-- A refused message whose record is written: its sender is told (R129). -/
theorem refuseMessage_written {c : EngCmd} (hs : m.sender.isSome = true) (hw : writeReply s q c = (true, s1)) :
    refuseMessage s q c m = acknowledge (unbind s1 (engCtx c) (engBinder c)) m 2 c.status c.cause := by
  have hn : m.sender.isNone = false := Option.isNone_eq_false_iff.2 hs
  simp only [refuseMessage, hw, endRefused, hn, Bool.false_eq_true, if_false]

/-- A refused message whose record waits stays with the engine (R129, R131). -/
theorem refuseMessage_waits {c : EngCmd} (hw : writeReply s q c = (false, s1)) :
    refuseMessage s q c m = setInbox s1 q (inboxOf s1 q ++ [c]) := by
  simp only [refuseMessage, hw]

end

/-- An accepted command without charge, shadow or members stands last in its inbox with what it has read (R129). -/
theorem acceptCommand_plain (s : State) (q : Nat) {c : EngCmd} (ps : List Word) (hc : engChg c = false) (hs : engShd c = false) :
    acceptCommand s q c [] ps = updLaunch (setInbox s q (inboxOf s q ++
      [{ c with charged := 0, waits := [], tmp := acceptedTmp s c ps }])) c.lid
      (fun l => { l with engcmds := l.engcmds + 1, cmds := l.cmds ++ [c.uid] }) := by
  have hc' : ∀ t, engChg { c with charged := 0, waits := [], tmp := t } = false := fun _ => hc
  have hs' : ∀ t, engShd { c with charged := 0, waits := [], tmp := t } = false := fun _ => hs
  simp only [acceptCommand, hc, hc', hs', Bool.false_eq_true, if_false, List.isEmpty_nil, if_true]

/-! ### Acknowledgements (R129, R298) -/

section
variable {s : State} {a : Ack} {m : Msg}

theorem exec_acknowledgement (ha : s.fab.acks.find? (fun a => a.uid == s.op 0) = some a) (hf : firstAck s a = true) :
    exec .acknowledgement s = .next (applyAck { s with fab := { s.fab with acks := s.fab.acks.erase a } } a) := by
  show execAcknowledgement s = _
  simp only [execAcknowledgement, ha, hf, Bool.not_true, Bool.false_eq_true, if_false]

variable (hm : s.fab.msgs.find? (fun m => m.uid == a.uid) = some m)
include hm

/-- The message accepted at this node's engine is gone, and its sender goes on (R129, R298). -/
theorem applyAck_accepted (hk : a.kind = 0) (hn : m.node = s.boot.node) :
    applyAck s a = acceptedToSender (dropMsg s m.uid) m := by
  simp only [applyAck, ackMsg, hm, hk, hn, if_true]

/-- A message that met a busy inbox waits for 64 cycles (R129). -/
theorem applyAck_busy (hk : a.kind = 1) : applyAck s a = { dropMsg s m.uid with fab := { (dropMsg s m.uid).fab with
    msgs := (dropMsg s m.uid).fab.msgs ++ [{ m with injected := true, resendAt := some (s.clk.cycle + 64) }] } } := by
  simp only [applyAck, ackMsg, hm, hk]
  rfl

end

/-- The AMSG that waits for the message returns 0 (R298). -/
theorem acceptedToSender_amsg {s : State} {m : Msg} {d : Reg} (ha : (getCore s m.src).amsgw = none)
    (hw : (getCore s m.src).waiting = .amsg m.uid d) :
    acceptedToSender s m = setCore s m.src { ((getCore s m.src).setGpr d 0).finish with waiting := .none } := by
  simp only [acceptedToSender, takeAmsgw, ha, hw, if_true]

/-- INJECTION_RESEND of a message that is to be sent again at a cycle (R129). -/
theorem exec_injectionResend {s : State} {m : Msg} {t : Nat} (hm : s.fab.msgs.find? (fun m => m.uid == s.op 0) = some m)
    (ht : m.resendAt = some t) : exec .injectionResend s = .next (if s.clk.cycle < t then s else injectMessage s m) := by
  show execInjectionResend s = _
  simp only [execInjectionResend, hm, ht]

/-! ### The end of a command (R131, R135) -/

section
variable {s : State} {q : Nat} {c : EngCmd}

/-- Writing a reply record leaves the barriers as they are (R131). -/
theorem writeReply_bar : (writeReply s q c).2.bar = s.bar := by
  have he : ∀ u : State, (engEvent u q (engCtx c) Cause.replybad (engReply c)).bar = u.bar :=
    fun u => (appendEvent_frame none u _ _).bar
  have hw := (writeVA_frame s (engWho q c) (engReply c) (replyBytes c s.clk.dtime)).bar
  unfold writeReply
  split
  · rfl
  · split
    · exact he s
    · split <;> rename_i hx <;> rw [hx] at hw
      · exact hw
      · exact hw
      · exact (he _).trans hw

/-- No command of its number is left in the inbox. -/
theorem findCmd_leaveInbox : findCmd (leaveInbox s q c) q c.uid = none := by
  have h (u : State) (l : List EngCmd) : findCmd (setInbox u q (l.filter (fun x => x.uid != c.uid))) q c.uid = none := by
    rw [findCmd, inboxOf_setInbox]
    exact List.find?_eq_none.2 fun x hx => fun he => bne_iff_ne.1 (List.mem_filter.1 hx).2 (eq_of_beq he)
  exact h _ _

/-- A command that asks for it arrives at its barrier as it leaves (R137). -/
theorem leaveInbox_arrivals : (leaveInbox s q c).bar.arrivals =
    if engArr c then s.bar.arrivals ++ [⟨engBar c, 1, engCtx c, 0, .engine q⟩] else s.bar.arrivals := by
  have hd (u : State) : (dropAnswers u c).bar = u.bar := foldl_keeps State.bar (f := dropOut) (fun _ _ => rfl) _
  have he : (if c.status = 0 ∨ c.cause = 0 then s else engEvent s q (engCtx c) c.cause c.fva).bar = s.bar := by
    split
    · rfl
    · exact (appendEvent_frame none s _ _).bar
  unfold leaveInbox
  dsimp only
  generalize (if c.status = 0 ∨ c.cause = 0 then s else engEvent s q (engCtx c) c.cause c.fva) = u at he
  rw [setInbox_bar]
  have hu (v : State) (ctx b : Nat) : (unbind v ctx b).bar = v.bar := (unbind_frame none v ctx b).bar
  have hn (v : State) (p : Prop) [Decidable p] (n : Nat) (w : List Nat) :
      (if p then v else sendNode v n 1 w).bar = v.bar := by split <;> rfl
  rw [hn, dropNotices_bar, hd, hu]
  split <;> simp only [he]

/-- A command that has ended, whose messages are answered and whose charged bytes are discharged, drains (R135). -/
theorem exec_engineCommandDrained {uid : Nat} (hq : s.op 0 = q) (hu : s.op 1 = uid) (hc : findCmd s q uid = some c)
    (he : c.state ≠ .ended) (hs : c.stopped = true) (ho : engOp c ≠ 9) (hm : messagesAnswered s c = true)
    (hd : engChg c = true → s.bar.discharges.any (fun d => d.1 == engBar c) = false) :
    exec .engineCommandDrained s = .next (drainCmd s q c).2 := by
  have hx : (engChg c && s.bar.discharges.any (fun d => d.1 == engBar c)) = false := by
    cases hg : engChg c with
    | false => rfl
    | true => exact hd hg
  show execEngineCommandDrained s = _
  simp only [execEngineCommandDrained, hq, hu, hc, if_neg he, hs, beq_eq_false_iff_ne.2 ho, hm, hx, Bool.not_true, Bool.or_self,
    Bool.false_eq_true, if_false]

/-- A command whose record is written leaves its inbox. -/
theorem drainCmd_written (h : (writeReply s q c).1 = true) : drainCmd s q c = (true, leaveInbox (writeReply s q c).2 q c) := by
  unfold drainCmd
  generalize writeReply s q c = x at h
  obtain ⟨b, u⟩ := x
  obtain rfl : b = true := h
  rfl

end

/-! ### O47 -/

/-- Settles O47: each event by the equation of the branch that its premises choose. -/
theorem engineEvents : Obligations.EngineEvents := by
  unfold Obligations.EngineEvents
  intro s
  refine ⟨?inbox, ?accept, ?accepted, ?busy, ?resend, ?drained⟩
  case inbox =>
    rintro m s1 s2 q h0 hm hp rfl rfl hk
    have hx := exec_engineInboxMessage_here h0 hm hp
    refine ⟨fun hf => ?_, fun ms ps hf hc hb => ?_, fun ms ps hf hc hb => ?_, ?_⟩
    · rw [hx, takeMessage_fallow hk hf]
    · rw [hx, takeMessage_good hk hf hc, if_neg (Bool.eq_false_iff.1 hb)]
    · rw [hx, takeMessage_good hk hf hc, if_pos hb]
    · rintro st e va c s0 hf hc hs rfl
      rw [hx, takeMessage_bad hk hf hc]
      exact ⟨fun hw => congrArg _ (refuseMessage_written hs hw), fun hw => congrArg _ (refuseMessage_waits hw)⟩
  case accept =>
    intro q c ps hc hs
    rw [acceptCommand_plain s q ps hc hs]
    exact ⟨inboxOf_setInbox _ _ _, fun p hp => inboxOf_setInbox_ne _ _ hp⟩
  case accepted =>
    intro a m d ha hk hf hm hn hg hw
    refine ⟨_, (exec_acknowledgement ha hf).trans (congrArg _ (applyAck_accepted hm hk hn)), ?_⟩
    rw [acceptedToSender_amsg (by exact hg) (by exact hw)]
    exact ⟨rfl, getCore_setCore _ _ _, fun t ht => getCore_setCore_ne _ _ ht, rfl⟩
  case busy =>
    intro a m ha hk hf hm
    refine ⟨_, (exec_acknowledgement ha hf).trans (congrArg _ (applyAck_busy hm hk)), rfl, rfl, rfl⟩
  case resend =>
    intro m t hm ht
    have hx := exec_injectionResend hm ht
    refine ⟨fun hle hn => ?_, fun hlt => by rw [hx, if_pos hlt]⟩
    rw [if_neg (Nat.not_lt.2 hle), injectMessage_here hn] at hx
    exact ⟨_, hx, rfl, rfl, rfl⟩
  case drained =>
    intro c hc he hs ho hm hw hd
    refine ⟨_, exec_engineCommandDrained rfl rfl hc he hs ho hm hd, ?_⟩
    rw [drainCmd_written hw]
    refine ⟨uid_of_findCmd hc ▸ findCmd_leaveInbox, fun ha => ?_, fun ha => ?_⟩
    · rw [leaveInbox_arrivals, if_pos ha, writeReply_bar]
    · rw [leaveInbox_arrivals, if_neg (Bool.eq_false_iff.1 ha), writeReply_bar]

end Sys2Proof.Machine
end

section
/-! PROOF. The engine commands that move bytes (R130, R133, R140 to R144): an equation for each step of a command where what it reads,
writes and checks answers. -/
namespace Sys2Proof.Machine
open Sys2Proof.Claims

/-! ### The turn of a command (R130) -/

section
variable {s : State} {op : Nat} {c : EngCmd} {body : State → Nat → EngCmd → State}

/-- A running command of the opcode takes its next step. -/
theorem engTurn_of_cmdAt (h : CmdAt s op c) : engTurn s op body = .next (body s (s.op 0) c) := by
  obtain ⟨hc, ho, hs, hq, -⟩ := h
  simp only [engTurn, hc, ho, hs, hq, ne_eq, not_true_eq_false, Bool.false_eq_true, or_self, if_false]

/-- A queued command that may start runs. -/
theorem engTurn_starts (hc : findCmd s (s.op 0) (s.op 1) = some c) (ho : engOp c = op) (hs : c.stopped = false)
    (hq : c.state = .queued) (hm : mayStart s (s.op 0) c = true) :
    engTurn s op body = .next (putCmd s (s.op 0) { c with state := .running }) := by
  simp only [engTurn, hc, ho, hs, hq, hm, ne_eq, not_true_eq_false, Bool.false_eq_true, or_self, if_false, if_true]

end

/-- The event of an opcode is a turn of the commands of that opcode (R127, R130). -/
theorem exec_engEventOf {op : Nat} {i : Instr} (h : engEventOf op = some i) (s : State) :
    ∃ body, exec i s = engTurn s op body := by
  unfold engEventOf at h
  split at h <;> cases h <;> exact ⟨_, rfl⟩

/-! ### Lines that are written (R133, R135, R140) -/

section
variable {s s1 : State} {q : Nat} {c c' : EngCmd} {va : Word} {bs l : List Byte}

/-- A command without a write that waits reads what it moves. -/
theorem orRead_of_hold (h : c.hold = []) (read : State → ERes × State) : orRead s c read = read s := by
  simp only [orRead, h, ne_eq, not_true_eq_false, if_false]

/-- What a write that is performed makes of its command: its bytes are charged no longer (R115, R137). -/
theorem engWrite_ok (h : engWrite s q c va bs = (.ok l, c', s1)) :
    c' = { c with charged := c.charged - bs.length, hold := [] } := by
  unfold engWrite at h
  dsimp only at h
  split at h
  · cases h
  · split at h
    · cases h
    · split at h
      · cases h
      · cases h
      · cases h; rfl

theorem writeCounted_ok (h : engWrite s q c va bs = (.ok l, c', s1)) :
    writeCounted s q c va bs = putCmd s1 q { c' with done := c'.done + bs.length } := by
  simp only [writeCounted, h]

end

section
variable {s s1 s2 : State} {q : Nat} {c c' : EngCmd}

/-! ### COPY, FILL, XPOSE (R140) -/

theorem copyStep_ends (h : (engW c 2).toNat ≤ c.done) : copyStep s q c = endCmd s q c 0 0 0 := by
  simp only [copyStep, h, if_true]

theorem copyStep_line {bs l : List Byte} (hh : c.hold = []) (h : c.done < (engW c 2).toNat)
    (hr : engRead s (engWho q c) (engW c 0 + BitVec.ofNat 64 c.done)
      (chunkLen s q c (engW c 1 + BitVec.ofNat 64 c.done) ((engW c 2).toNat - c.done)) = (.ok bs, s1))
    (hw : engWrite s1 q c (engW c 1 + BitVec.ofNat 64 c.done) bs = (.ok l, c', s2)) :
    copyStep s q c = putCmd s2 q { c' with done := c'.done + bs.length } := by
  simp only [copyStep, Nat.not_le.2 h, if_false, orRead_of_hold hh, hr, writeCounted_ok hw]

theorem fillStep_ends (h : (engW c 1).toNat ≤ c.done) : fillStep s q c = endCmd s q c 0 0 0 := by
  simp only [fillStep, h, if_true]

theorem fillStep_line {bs l : List Byte} (h : c.done < (engW c 1).toNat)
    (hb : bs = (List.range (chunkLen s q c (engW c 0 + BitVec.ofNat 64 c.done) ((engW c 1).toNat - c.done))).map
      (fun i => nth 0 (bytesOf 8 (engW c 2).toNat) ((c.done + i) % 2 ^ bitsOf (engW c 3) 1 0)))
    (hw : engWrite s q c (engW c 0 + BitVec.ofNat 64 c.done) bs = (.ok l, c', s1)) :
    fillStep s q c = putCmd s1 q { c' with done := c'.done + bs.length } := by
  subst hb
  simp only [fillStep, Nat.not_le.2 h, if_false]
  exact writeCounted_ok hw

section
variable {esz row : Nat} (he : esz = 2 ^ bitsOf (engW c 4) 1 0) (hrow : row = engRows (engW c 2) * esz)
include he hrow

theorem xposeStep_ends (h : row * engCols (engW c 2) ≤ c.done) : xposeStep s q c = endCmd s q c 0 0 0 := by
  subst he hrow
  simp only [xposeStep, h, if_true]

theorem xposeStep_line {va : Word} {n : Nat} {bs l : List Byte} (hh : c.hold = []) (h : c.done < row * engCols (engW c 2))
    (hv : va = engW c 1 + BitVec.ofNat 64 (c.done / row * bitsOf (engW c 3) 63 32 + c.done % row))
    (hn : n = chunkLen s q c va (row - c.done % row))
    (hr : engReadElems s (engWho q c) esz (bitsOf (engW c 3) 31 0) (n / esz)
      (engW c 0 + BitVec.ofNat 64 (c.done % row / esz * bitsOf (engW c 3) 31 0 + c.done / row * esz)) = (.ok bs, s1))
    (hw : engWrite s1 q c va bs = (.ok l, c', s2)) :
    xposeStep s q c = putCmd s2 q { c' with done := c'.done + bs.length } := by
  subst he hrow hv hn
  simp only [xposeStep, Nat.not_le.2 h, if_false, orRead_of_hold hh, hr, writeCounted_ok hw]

end

/-! ### GATHER, SCATTER (R141) -/

theorem gsStep_ends (h : (engW c 3).toNat ≤ c.pos) : gsStep s q c = endCmd s q c 0 0 0 := by
  simp only [gsStep, h, if_true]

section
variable {bs : List Byte} (h : c.pos < (engW c 3).toNat) (ht : c.tmp = [])
  (hr : engRead s (engWho q c) (engW c 1 + BitVec.ofNat 64 (c.pos * (4 * 2 ^ bitsOf (engW c 6) 0 0)))
    (4 * 2 ^ bitsOf (engW c 6) 0 0) = (.ok bs, s1))
include h ht hr

/-- An index within the bound names the row to move. -/
theorem gsStep_index (hb : ofBytes bs < (engW c 5).toNat) : gsStep s q c = putCmd s1 q { c with tmp := [0, ofBytes bs] } := by
  simp only [gsStep, Nat.not_le.2 h, if_false, ht, hr, hb, if_true]

/-- An index outside the bound stops the command where it asks for that. -/
theorem gsStep_outside (hb : (engW c 5).toNat ≤ ofBytes bs) (hm : bitsOf (engW c 6) 2 1 = 0) :
    gsStep s q c = stopCmd s1 q { c with aux := c.pos } true Cause.bound
      (engW c 1 + BitVec.ofNat 64 (c.pos * (4 * 2 ^ bitsOf (engW c 6) 0 0))) := by
  simp only [gsStep, Nat.not_le.2 h, if_false, ht, hr, Nat.not_lt.2 hb, hm, gsStop]

end

/-- A line of the row that an index names is moved: from the table by GATHER, to it by SCATTER. -/
theorem gsStep_row {g : Bool} {sub x n : Nat} {table dense : Word} {bs l : List Byte} (hg : (engOp c == 4) = g) (hh : c.hold = [])
    (h : c.pos < (engW c 3).toNat) (ht : c.tmp = [sub, x]) (hs : sub < bitsOf (engW c 6) 28 16)
    (hta : table = engW c 0 + BitVec.ofNat 64 x * engW c 4 + BitVec.ofNat 64 sub)
    (hde : dense = engW c 2 + BitVec.ofNat 64 (c.pos * bitsOf (engW c 6) 28 16) + BitVec.ofNat 64 sub)
    (hn : n = chunkLen s q c (if g then dense else table) (bitsOf (engW c 6) 28 16 - sub))
    (hr : engRead s (engWho q c) (if g then table else dense) n = (.ok bs, s1))
    (hw : engWrite s1 q c (if g then dense else table) bs = (.ok l, c', s2)) :
    gsStep s q c = putCmd s2 q { c' with tmp := [sub + n, x] } := by
  subst hta hde hn
  simp only [gsStep, hg, Nat.not_le.2 h, if_false, ht, Nat.not_le.2 hs, nth, orRead_of_hold hh, List.isEmpty_cons,
    Bool.false_eq_true, hr, hw]

/-! ### CSRB (R142) -/

theorem csrbStep_ends (h : engRows (engW c 4) ≤ c.pos) : csrbStep s q c = endCmd s q c 0 0 0 := by
  simp only [csrbStep, h, if_true]

/-- The pointers of a row are read, and the row begins as zeros. -/
theorem csrbStep_pointers {bs : List Byte} (h : c.pos < engRows (engW c 4)) (ht : c.tmp = [])
    (hr : engRead s (engWho q c) (engW c 0 + BitVec.ofNat 64 (4 * c.pos)) 8 = (.ok bs, s1))
    (hb : ofBytes (bs.take 4) ≤ ofBytes (bs.drop 4)) :
    csrbStep s q c = putCmd s1 q { c with
      tmp := ofBytes (bs.take 4) :: ofBytes (bs.drop 4) :: 0 :: List.replicate (engCols (engW c 4) * 2 ^ bitsOf (engW c 5) 33 32) 0 } := by
  simp only [csrbStep, Nat.not_le.2 h, if_false, ht, hr, Nat.not_lt.2 hb]

section
variable {k b sub : Nat} {row : List Nat} (h : c.pos < engRows (engW c 4)) (ht : c.tmp = k :: b :: sub :: row)
  (hs : sub < engCols (engW c 4) * 2 ^ bitsOf (engW c 5) 33 32)
include h ht hs

/-- A row whose values are all taken is checked before its first byte is written. -/
theorem csrbStep_checked {l : List Byte} (hk : k = b)
    (hr : rowCheck s q c (engW c 3 + BitVec.ofNat 64 (c.pos * bitsOf (engW c 5) 31 0))
      (engCols (engW c 4) * 2 ^ bitsOf (engW c 5) 33 32) = (.ok l, s1)) :
    csrbStep s q c = putCmd s1 q { c with tmp := (b + 1) :: b :: sub :: row } := by
  subst hk
  simp only [csrbStep, Nat.not_le.2 h, if_false, ht, Nat.lt_irrefl, Nat.not_le.2 hs, if_true, hr]

theorem csrbStep_faults {x : Cause} {va : Word} (hk : k = b)
    (hr : rowCheck s q c (engW c 3 + BitVec.ofNat 64 (c.pos * bitsOf (engW c 5) 31 0))
      (engCols (engW c 4) * 2 ^ bitsOf (engW c 5) 33 32) = (.stop x va, s1)) :
    csrbStep s q c = stopCmd s1 q { c with aux := c.pos } false x va := by
  subst hk
  simp only [csrbStep, Nat.not_le.2 h, if_false, ht, Nat.lt_irrefl, Nat.not_le.2 hs, if_true, hr, csrbStop]

theorem csrbStep_line {va : Word} {n : Nat} {l : List Byte} (hk : b < k)
    (hv : va = engW c 3 + BitVec.ofNat 64 (c.pos * bitsOf (engW c 5) 31 0 + sub))
    (hn : n = chunkLen s q c va (engCols (engW c 4) * 2 ^ bitsOf (engW c 5) 33 32 - sub))
    (hw : engWrite s q c va (((row.drop sub).take n).map (BitVec.ofNat 8)) = (.ok l, c', s1)) :
    csrbStep s q c = putCmd s1 q { c' with tmp := k :: b :: (sub + n) :: row } := by
  subst hv hn
  simp only [csrbStep, Nat.not_le.2 h, if_false, ht, Nat.not_lt.2 (Nat.le_of_lt hk), Nat.not_le.2 hs, Nat.ne_of_gt hk, hw]

end

/-! ### HASH (R143) -/

theorem hashStep_line {va : Word} {n : Nat} {bs : List Byte} (h : c.done < (engW c 1).toNat)
    (hv : va = engW c 0 + BitVec.ofNat 64 c.done) (hn : n = min ((engW c 1).toNat - c.done) (128 - va.toNat % 128))
    (hr : engRead s (engWho q c) va n = (.ok bs, s1)) :
    hashStep s q c = putCmd s1 q { c with done := c.done + n, tmp := c.tmp ++ bs.map (·.toNat) } := by
  subst hv hn
  simp only [hashStep, h, if_true, hr]

theorem hashStep_digest {l : List Byte} (h : (engW c 1).toNat ≤ c.done) (hp : c.pos ≠ 1)
    (hw : engWrite s q c (engW c 2) (shake256 (bytesOf 8 (engW c 1).toNat ++ c.tmp.map (BitVec.ofNat 8))) = (.ok l, c', s1)) :
    hashStep s q c = putCmd s1 q { c' with pos := 1 } := by
  simp only [hashStep, Nat.not_lt.2 h, if_false, hp, hw]

theorem hashStep_ends (h : (engW c 1).toNat ≤ c.done) (hp : c.pos = 1) : hashStep s q c = endCmd s q c 0 0 0 := by
  simp only [hashStep, Nat.not_lt.2 h, if_false, hp, if_true]

/-! ### REDUCE (R144) -/

section
variable {fn esz : Nat} (hf : fn = redFn (bitsOf (engW c 3) 3 0))
  (he : esz = redSize (bitsOf (engW c 3) 3 0) (bitsOf (engW c 3) 4 4))

theorem reduceStep_ends (h : (engW c 2).toNat ≤ c.done) : reduceStep s q c = endCmd s q c 0 0 0 := by
  simp only [reduceStep, h, if_true]

/-- Nothing is discharged for a command without a charge (R137). -/
theorem performed_uncharged (hg : engChg c = false) (n : Nat) :
    performed s c n = (s, { c with charged := c.charged - n, hold := [] }) := by
  simp only [performed, dischargeBytes, hg, Bool.false_and, Bool.false_eq_true, if_false]

include hf he in
/-- The next element is merged as RED merges it. -/
theorem reduceStep_element {bs old : List Byte} (hh : c.hold = []) (h : c.done < (engW c 2).toNat)
    (hr : engRead s (engWho q c) (engW c 0 + BitVec.ofNat 64 (c.done * esz)) esz = (.ok bs, s1))
    (hc : canonical (engW c 1 + BitVec.ofNat 64 (c.done * esz)) = true)
    (ho : outsideShadow s1 c (engW c 1 + BitVec.ofNat 64 (c.done * esz)) esz = false) (hg : engChg c = false)
    (hm : rmwVA s1 (engDstWho q c) (engW c 1 + BitVec.ofNat 64 (c.done * esz)) esz true [fn, ofBytes bs, 0]
      (fun old => bytesOf esz (combine fn esz (ofBytes old) (ofBytes bs) 0).1) = (.ok old, s2)) :
    reduceStep s q c = putCmd (countEvents s2 (engCtx c) (engTile q) (combine fn esz (ofBytes old) (ofBytes bs) 0).2) q
      { c with done := c.done + 1, charged := c.charged - esz, hold := [] } := by
  subst hf he
  simp only [reduceStep, Nat.not_le.2 h, if_false, orRead_of_hold hh, hr, hc, ho, Bool.not_true, Bool.false_eq_true, hm,
    performed_uncharged hg]

end

end

/-! ### O48 -/

/-- Settles O48: each command's turn is its step, and each step is the equation of the branch that the premises choose. -/
theorem moverCommands : Obligations.MoverCommands := by
  unfold Obligations.MoverCommands
  rintro s q c rfl
  refine ⟨?starts, fun hc => ?copy, fun hc => ?fill, fun hc => ?xpose, ?indexed, fun hc => ?csrb, fun hc => ?hash, fun hc => ?reduce⟩
  case starts =>
    intro op i hi hc ho hs hq hm
    obtain ⟨body, hx⟩ := exec_engEventOf hi s
    rw [hx, engTurn_starts hc ho hs hq hm]
  case copy =>
    have hx : exec .copy s = .next (copyStep s (s.op 0) c) := engTurn_of_cmdAt hc
    obtain ⟨-, -, -, -, hh⟩ := hc
    refine ⟨fun h => by rw [hx, copyStep_ends h], ?_⟩
    rintro n bs s1 c' s2 h rfl hr hw
    rw [hx, copyStep_line hh h hr hw]
  case fill =>
    have hx : exec .fill s = .next (fillStep s (s.op 0) c) := engTurn_of_cmdAt hc
    refine ⟨fun h => by rw [hx, fillStep_ends h], ?_⟩
    rintro n bs c' s1 h rfl hb hw
    rw [hx, fillStep_line h hb hw]
  case xpose =>
    have hx : exec .xpose s = .next (xposeStep s (s.op 0) c) := engTurn_of_cmdAt hc
    obtain ⟨-, -, -, -, hh⟩ := hc
    intro esz row va n bs s1 c' s2 he hrow
    refine ⟨fun h => by rw [hx, xposeStep_ends he hrow h], fun h hv hn hr hw => ?_⟩
    rw [hx, xposeStep_line he hrow hh h hv hn hr hw]
  case indexed =>
    intro i op g hi hc
    have hx : exec i s = .next (gsStep s (s.op 0) c) := by
      rcases hi with hi | hi <;> cases hi <;> exact engTurn_of_cmdAt hc
    obtain ⟨-, ho, -, -, hh⟩ := hc
    have hg : (engOp c == 4) = g := by
      rw [ho]
      rcases hi with hi | hi <;> cases hi <;> rfl
    refine ⟨fun h => by rw [hx, gsStep_ends h], fun bs s1 h ht hr => ⟨fun hb => ?_, fun hb hm => ?_⟩, ?_⟩
    · rw [hx, gsStep_index h ht hr hb]
    · rw [hx, gsStep_outside h ht hr hb hm]
    · intro sub x table dense n bs s1 c' s2 h ht hs hta hde hn hr hw
      rw [hx, gsStep_row hg hh h ht hs hta hde hn hr hw]
  case csrb =>
    have hx : exec .csrb s = .next (csrbStep s (s.op 0) c) := engTurn_of_cmdAt hc
    refine ⟨fun h => by rw [hx, csrbStep_ends h], fun bs s1 h ht hr hb => ?_, fun b sub row s1 h ht hs => ⟨fun hr => ?_,
      fun x va hr => ?_⟩, fun k b sub row va n c' s1 h ht hk hs hv hn hw => ?_⟩
    · rw [hx, csrbStep_pointers h ht hr hb]
    · rw [hx, csrbStep_checked h ht hs rfl hr]
    · rw [hx, csrbStep_faults h ht hs rfl hr]
    · rw [hx, csrbStep_line h ht hs hk hv hn hw]
  case hash =>
    have hx : exec .hash s = .next (hashStep s (s.op 0) c) := engTurn_of_cmdAt hc
    refine ⟨fun bs s1 h hr => ?_, fun c' s1 h hp hw => ?_, fun h hp => ?_⟩
    · rw [hx, hashStep_line h rfl rfl hr]
    · rw [hx, hashStep_digest h hp hw]
    · rw [hx, hashStep_ends h hp]
  case reduce =>
    have hx : exec .reduce s = .next (reduceStep s (s.op 0) c) := engTurn_of_cmdAt hc
    obtain ⟨-, -, -, -, hh⟩ := hc
    intro fn esz bs old s1 s2 hf he
    refine ⟨fun h => by rw [hx, reduceStep_ends h], fun h hr hcan ho hg hm => ?_⟩
    rw [hx, reduceStep_element hf he hh h hr hcan ho hg hm]

end Sys2Proof.Machine
end

section
/-! PROOF. Collectives, PUBLISH, PREFETCH and MIGRATE of the engines (R145 to R151). -/
namespace Sys2Proof.Machine
open Sys2Proof.Claims

/-! ### Collectives begin and end (R145, R148) -/

section
variable {s : State} {c : EngCmd}

@[simp] theorem settleOwed_op (s : State) (i : Nat) : (settleOwed s).op i = s.op i := (congrArg (State.op · i) (settleOwed_eq s) :)

/-- A collective whose other members have been accepted begins with their acceptances taken. -/
theorem exec_collectiveBegin (hc : findCmd (settleOwed s) (s.op 0) (s.op 1) = some c) (hr : c.state = .running)
    (hs : c.stopped = false) (hw : c.waits ≠ []) :
    exec .collectiveBegin s = .next (if someMismatch (settleOwed s) (s.op 0) c then
        endCmd (settleOwed s) (s.op 0) c 3 Cause.collmis 0
      else if allMet (settleOwed s) (s.op 0) c then putCmd (mapNotices (settleOwed s) c (fun e l =>
        dropAcceptance (s.op 0) (engTag c) e (dropStale (s.op 0) (engTag c) e l))) (s.op 0) { c with state := .met }
      else settleOwed s) := by
  show execCollectiveBegin s = _
  simp only [execCollectiveBegin, settleOwed_op, hc, hr, hs, hw, ne_eq, not_true_eq_false, Bool.false_eq_true, or_self, if_false]
  cases someMismatch (settleOwed s) (s.op 0) c <;> cases allMet (settleOwed s) (s.op 0) c <;> rfl

/-- A member of a collective ends with another that has ended. -/
theorem exec_collectiveAbort (hc : findCmd (settleOwed s) (s.op 0) (s.op 1) = some c) (hs : c.stopped = false)
    (hw : c.waits ≠ []) : exec .collectiveAbort s = .next (((someEnded (settleOwed s) (s.op 0) c).map (fun e =>
      if e = Cause.collmis.toNat then endCmd (settleOwed s) (s.op 0) c 3 Cause.collmis 0
      else endCmd (settleOwed s) (s.op 0) c 5 0 0)).getD (settleOwed s)) := by
  show execCollectiveAbort s = _
  simp only [execCollectiveAbort, settleOwed_op, hc, hs, hw, Bool.false_eq_true, or_self, if_false]
  cases someEnded (settleOwed s) (s.op 0) c <;> rfl

end

/-! ### A collective that has begun (R146 to R148) -/

section
variable {s s1 : State} {q : Nat} {c c' : EngCmd} (hm : c.state = .met)
include hm

theorem collStep_reads {va : Word} {bs : List Byte} (h : c.tmp.length < collSrcLen c)
    (hv : va = engW c 2 + BitVec.ofNat 64 c.tmp.length)
    (hr : engRead s (engWho q c) va (min (collSrcLen c - c.tmp.length) (128 - va.toNat % 128)) = (.ok bs, s1)) :
    collStep s q c = putCmd s1 q { c with tmp := c.tmp ++ bs.map (·.toNat) } := by
  subst hv
  simp only [collStep, hm, ne_eq, not_true_eq_false, if_false, h, if_true, hr]

variable (h : collSrcLen c ≤ c.tmp.length)
include h

theorem collStep_sends (hp : c.pos = 0) (hk : (contributors c).contains (collRank c) = true) :
    collStep s q c = putCmd (tellMembers s q c 1 [] (c.tmp.map (BitVec.ofNat 8))) q { c with pos := 1 } := by
  simp only [collStep, hm, ne_eq, not_true_eq_false, if_false, Nat.not_lt.2 h, hp, if_true, hk]

variable {srcs : List (List Byte)} (hp : c.pos = 1) (ha : allContributions s q c = some srcs)
include hp ha

theorem collStep_ends (hd : collCount c * collSize c * (if engOp c = 13 then collN c else 1) ≤ c.done) :
    collStep s q c = endCmd s q c 0 0 0 := by
  simp only [collStep, hm, ne_eq, not_true_eq_false, if_false, Nat.not_lt.2 h, hp, Nat.one_ne_zero, ha, hd, if_true]

theorem collStep_writes {va : Word} {n : Nat} {l : List Byte}
    (hd : c.done < collCount c * collSize c * (if engOp c = 13 then collN c else 1))
    (hv : va = engW c 3 + BitVec.ofNat 64 c.done)
    (hn : n = chunkLen s q c va (collCount c * collSize c * (if engOp c = 13 then collN c else 1) - c.done))
    (hw : engWrite s q c va (collResult c srcs c.done n) = (.ok l, c', s1)) :
    collStep s q c =
      putCmd (countEvents s1 (engCtx c) (engTile q) (collEvents c srcs c.done n)) q { c' with done := c'.done + n } := by
  subst hv hn
  simp only [collStep, hm, ne_eq, not_true_eq_false, if_false, Nat.not_lt.2 h, hp, Nat.one_ne_zero, ha, Nat.not_le.2 hd, hw]
  obtain rfl := engWrite_ok hw
  rfl

end

/-! ### PUBLISH, PREFETCH, MIGRATE (R149 to R151) -/

section
variable {s s1 s2 : State} {q : Nat} {c : EngCmd}

theorem publishStep_swaps (h : engDrained s c.tmp = true) :
    ∃ n, publishStep s q c = endCmd (publishSwap s (engCtx c) (bitsOf (engW c 0) 5 0)) q { c with done := n } 0 0 0 := by
  simp only [publishStep, h, Bool.not_true, Bool.false_eq_true, if_false]
  exact ⟨_, rfl⟩

theorem prefetchStep_ends (h : (engW c 1).toNat ≤ c.pos) : prefetchStep s q c = endCmd s q c 0 0 0 := by
  simp only [prefetchStep, h, if_true]

theorem prefetchStep_walks {r : Nat × Nat} {e : TEntry} (h : c.pos < (engW c 1).toNat)
    (ht : translate s (engWho q c) (engW c 0 + BitVec.ofNat 64 (c.pos * 65536)) .read = .ok r) (hw : inWindow r.1 = false)
    (hl : lookupPage s r.1 r.2 = (.ok e, s1)) :
    prefetchStep s q c = putCmd (if nominable e && r.2 != 3 then nominate s1 e else s1) q
      { c with pos := c.pos + 1, done := c.done + 1 } := by
  simp only [prefetchStep, Nat.not_le.2 h, if_false, ht, hw, Bool.false_eq_true, hl]

theorem prefetchStep_unmapped {x : Cause} (h : c.pos < (engW c 1).toNat)
    (ht : translate s (engWho q c) (engW c 0 + BitVec.ofNat 64 (c.pos * 65536)) .read = .error x) :
    prefetchStep s q c = putCmd s q { c with pos := c.pos + 1, aux := c.aux + 1 } := by
  simp only [prefetchStep, Nat.not_le.2 h, if_false, ht]

/-- A page that asks for no unsettling and may be moved between the tiers of this module starts its move (R151). -/
theorem migratePage_starts {e : TEntry} {cls f : Nat} (hu : bitOf (engW c 2) 2 = false) (hg : bitsOf (engW c 2) 1 0 < 2)
    (ha : alreadyThere e (bitsOf (engW c 2) 1 0) (bitsOf (engW c 2) 39 32) = false) (hp : leafPin e.w0 = false) (hc : cls < 2)
    (h3 : e.cls3 = false) (hl : e.level = 3) (h2 : leafTier e.w0 ≠ 2) (hs : stampsAllow s e.w1 = true) (hv : moveOf s e.page = none)
    (hf : takeFrame s (poolOrder (bitsOf (engW c 2) 1 0) (bitsOf (engW c 2) 39 32) e.page) = some (f, s1)) :
    migratePage s q c e cls = putCmd (startMove s1 e (bitsOf (engW c 2) 1 0) f none) q { c with tmp := [1, e.page, f] } := by
  have hpull : (bitsOf (engW c 2) 1 0 == 2) = false := beq_eq_false_iff_ne.2 (Nat.ne_of_lt hg)
  have htier : migratePage s q c e cls = migrateTier s q c e cls := by
    simp only [migratePage, hu, hpull, Bool.false_and, Bool.or_self, Bool.false_eq_true, if_false, migrateTarget]
    split
    case h_1 h => omega
    case h_2 h => omega
    case h_3 => rfl
  rw [htier, migrateTier]
  simp only [ha, hp, Nat.not_le.2 hc, h3, hl, beq_eq_false_iff_ne.2 h2, hs, hv, hf, decide_false, bne_self_eq_false, Bool.not_true,
    Option.isSome_none, Bool.or_self, Bool.false_eq_true, if_false]

section
variable (ht : c.tmp = []) (hk : s.eng.ckpt = none)
include ht hk

theorem migrateStep_ends (h : (engW c 1).toNat ≤ c.pos) : migrateStep s q c = endCmd s q c 0 0 0 := by
  simp only [migrateStep, ht, hk, h, ne_eq, not_true_eq_false, false_and, Option.isSome_none, Bool.false_eq_true, if_false, if_true]

theorem migrateStep_page {r : Nat × Nat} {e : TEntry} (h : c.pos < (engW c 1).toNat)
    (hr : translate s (engWho q c) (engW c 0 + BitVec.ofNat 64 (c.pos * 65536)) .write = .ok r) (hw : inWindow r.1 = false)
    (hl : lookupPage s r.1 r.2 = (.ok e, s1)) : migrateStep s q c = migratePage s1 q c e r.2 := by
  simp only [migrateStep, ht, hk, Nat.not_le.2 h, hr, hw, hl, ne_eq, not_true_eq_false, false_and, Option.isSome_none,
    Bool.false_eq_true, if_false]

theorem migrateStep_window {r : Nat × Nat} (h : c.pos < (engW c 1).toNat)
    (hr : translate s (engWho q c) (engW c 0 + BitVec.ofNat 64 (c.pos * 65536)) .write = .ok r) (hw : inWindow r.1 = true) :
    migrateStep s q c = migrateNext s q c false := by
  simp only [migrateStep, ht, hk, Nat.not_le.2 h, hr, hw, ne_eq, not_true_eq_false, false_and, Option.isSome_none,
    Bool.false_eq_true, if_false, if_true]

end

end

/-! ### O49 -/

/-- Settles O49: COLLECTIVE_BEGIN and COLLECTIVE_ABORT by what the members have told, each command by the equation of its step. -/
theorem groupCommands : Obligations.GroupCommands := by
  unfold Obligations.GroupCommands
  rintro s q c rfl
  refine ⟨?begins, ?aborts, ⟨settleOwed_eq s, settleOwed_of_nil s⟩, ?collectives, fun hc hd => ?publish, fun hc => ?prefetch,
    fun hc ht hk => ?migrate⟩
  case begins =>
    rintro s0 rfl hc hr hs hw
    have hx := exec_collectiveBegin hc hr hs hw
    refine ⟨fun hm => by rw [hx, if_pos hm], fun hm ha => ?_, fun hm ha => ?_⟩
    · rw [hx, if_neg (Bool.eq_false_iff.1 hm), if_neg (Bool.eq_false_iff.1 ha)]
    · rw [if_neg (Bool.eq_false_iff.1 hm), if_pos ha] at hx
      refine ⟨_, hx, settleOwed_st, settleOwed_cores s, (inboxOf_putCmd _ _ _).trans ?_⟩
      exact congrArg (List.map _) (inboxOf_settleOwed s (s.op 0))
  case aborts =>
    rintro s0 rfl hc hs hw
    have hx := exec_collectiveAbort hc hs hw
    refine ⟨fun he => by rw [hx, he]; rfl, fun e he hne => ?_, fun he => ?_⟩
    · rw [hx, he, Option.map_some, Option.getD_some, if_neg hne]
    · rw [hx, he, Option.map_some, Option.getD_some, if_pos rfl]
  case collectives =>
    intro i op hi hc hm
    have hx : exec i s = .next (collStep s (s.op 0) c) := by
      rcases hi with hi | hi | hi | hi <;> cases hi <;> exact engTurn_of_cmdAt hc
    obtain ⟨-, rfl, -, -, -⟩ := hc
    refine ⟨fun bs s1 h hr => ?_, fun h hp hk => ?_, fun srcs n c' s1 h hp ha hd hn hw => ?_, fun srcs h hp ha hd => ?_⟩
    · rw [hx, collStep_reads hm h rfl hr]
    · rw [hx, collStep_sends hm h hp hk]
    · rw [hx, collStep_writes hm h hp ha hd rfl hn hw]
    · rw [hx, collStep_ends hm h hp ha hd]
  case publish =>
    have hx : exec .publishCommand s = .next (publishStep s (s.op 0) c) := engTurn_of_cmdAt hc
    obtain ⟨n, hn⟩ := publishStep_swaps (q := s.op 0) hd
    exact ⟨n, hx.trans (congrArg _ hn)⟩
  case prefetch =>
    have hx : exec .prefetch s = .next (prefetchStep s (s.op 0) c) := engTurn_of_cmdAt hc
    refine ⟨fun h => by rw [hx, prefetchStep_ends h], fun r e s1 h ht hw hl => ?_, fun x h ht => ?_⟩
    · rw [hx, prefetchStep_walks h ht hw hl]
    · rw [hx, prefetchStep_unmapped h ht]
  case migrate =>
    have hx : exec .migrate s = .next (migrateStep s (s.op 0) c) := engTurn_of_cmdAt hc
    refine ⟨fun h => by rw [hx, migrateStep_ends ht hk h], ?_, fun r h hr hw => ?_⟩
    · intro r e s1 f s2 h hr hw hl hu hg ha hp hcls h3 hlev h2 hs hv hf
      rw [hx, migrateStep_page ht hk h hr hw hl, migratePage_starts hu hg ha hp hcls h3 hlev h2 hs hv hf]
    · rw [hx, migrateStep_window ht hk h hr hw]
      rfl

end Sys2Proof.Machine
end

section
/-! PROOF. What a kill by CTXCMD leaves in the drill queues (R200, R209, R414, R420, R428, R432; log 134). -/
namespace Sys2Proof.Machine
open Sys2Proof.Claims

/-- CTXCMD with the OP of a kill, accepted while the module is up (R428). -/
theorem exec_contextKill {s : State} {port : Bool} {v : Word} (ho : bitsOf v 62 61 = 2) (hr : ctxcmdRefused s v = false)
    (hh : s.boot.held = false) : exec (.contextKill port v) s = .next (ctxcmdStart s v) := by
  show execContextKill port v s = _
  simp only [execContextKill, ctxcmdOf, whileUp, ctxcmdWrite, ho, hr, hh, Bool.false_eq_true, if_false, if_true]

/-- A launch of context 0 on quad 0. -/
def watchedLaunch : Launch :=
  { lid := 1, queue := 0, ctx := 0, words := List.replicate 8 0, state := .running, waits := [], count := 1, entered := 1, live := 1,
    cls := 4, rsv := 0, quads := [0], dies := [0], leaving := [], filled := [0], faults := 0, engcmds := 0, hits := 0, tasks := 0,
    tacc := 0, cause := 0, status := 0, order := 0, cmds := [], began := 0, rr := 0, kept := [] }

/-- Context 0 has an operand store of 64 bytes at the start of memory tile(1,0) with a watchpoint on its line, an event ring of two
records at VA 0x1_0000 and a handler template at VA 0x1_1000. -/
def watchedStore : State :=
  let s := placeContext State.reset
  let c := getCtx s 0
  { setCtx s 0 { c with
      wpts := setNth c.wpts 0 (BitVec.ofNat 64 (windowIA 1 0), 1), tevb := 0x10001, thcr := 0x11000 } with
    tl := { s.tl with regions := [(8, (0x1000000000080000, 0))] }
    ln := { s.ln with live := [watchedLaunch] } }

/-- GO, OP 2, context 0. -/
def killWord : Word := 0xC000000000000000

/-- The kill of context 0 is accepted. -/
theorem killWord_accepted : bitsOf killWord 62 61 = 2 ∧ bitsOf killWord 53 48 = 0 ∧ bitOf killWord 63 = true ∧
    ctxcmdRefused watchedStore killWord = false ∧ watchedStore.boot.held = false := by decide +kernel

/-- The kill drops the context's records, then writes zeros over its regions; the watchpoint sees that write, and its event enters a
handler task of the context. -/
theorem killed_handler_entered :
    (ctxcmdStart watchedStore killWord).tk.drill.any (fun r => r.ctx == 0 && r.handler) = true := by decide +kernel

/-! ### O50 -/

/-- Refutes O50: its clause on CONTEXT_KILL says that no record of the killed context is left. In `watchedStore` the zeroing of the
context's region trips a watchpoint of the context itself, and the record of its handler task stands in a drill queue after the
kill. -/
theorem not_contextEvents : ¬ Obligations.ContextEvents := by
  unfold Obligations.ContextEvents
  intro h
  obtain ⟨ho, hctx, hgo, hr, hh⟩ := killWord_accepted
  obtain ⟨-, -, -, hkill, -⟩ := h watchedStore false killWord
  obtain ⟨s', he, -, -, hdrill, -⟩ := hkill ho hr hgo hh
  rw [exec_contextKill ho hr hh] at he
  obtain rfl := Host.Outcome.next.inj he
  obtain ⟨r, hmem, hrec⟩ := List.any_eq_true.1 killed_handler_entered
  rw [Bool.and_eq_true, beq_iff_eq] at hrec
  exact hdrill r hmem (hrec.1.trans hctx.symm)

end Sys2Proof.Machine
end

section
/-! PROOF. ARM, DISARM and SECWAIT (R211, R288 to R290): what each does to the section that it names. -/
namespace Sys2Proof.Machine
open Sys2Proof.Claims

/-! ### What arming does to a section and to its tiles -/

section
variable (s : State) (t : Tid) (f : Firing) (k : Nat) (area : Word) (tc : Nat)

/-- The section that a firing has armed is armed with the count and the save area of the ARM (R288). -/
theorem setArmed_section :
    (getSec (setArmed s t f k area tc) k).state = .armed ∧ (getSec (setArmed s t f k area tc) k).tcount = tc ∧
      (getSec (setArmed s t f k area tc) k).area = area := by
  simp only [setArmed, getSec_setCore, getSec_setSec, and_self]

/-- The arming firing goes on behind its ARM. -/
theorem setArmed_pc : (getCore (setArmed s t f k area tc) t).pc = (getCore s t).finish.pc := by
  simp only [setArmed, getCore_setCore, finish_withFiring_pc, getCore_setSec]

end

/-- A tile's units started leave every core as it is. -/
@[simp] theorem armTile_cores (k lid : Nat) (s : State) (t : Tid) : (armTile k lid s t).cores = s.cores :=
  foldl_keeps (·.cores) (f := fun s g => dropTorn s (genAgent t g)) (fun _ _ => rfl) _

/-- ARM of a loaded section whose save area holds no valid cut starts every tile's units afresh (R288). -/
def armFresh (s : State) (t : Tid) (f : Firing) (k : Nat) (area : Word) (tc : Nat) : State :=
  let s := (getSec s k).tiles.foldl (armTile k f.task.launch) s
  setArmed (setSec s k { getSec s k with edges := 0, cut := none }) t f k area tc

theorem armLoaded_of_invalid {s : State} {t : Tid} {f : Firing} {k tc : Nat} {area w0 w1 : Word}
    {trap : State → Word → Cause → State} (hw : bitOf w0 63 = false) (ht : 0 < tc) :
    armLoaded s t f k area tc w0 w1 trap = armFresh s t f k area tc := by
  simp only [armLoaded, hw, Nat.ne_of_gt ht, Bool.not_false, if_true, if_false]
  rfl

theorem armFresh_pc (s : State) (t : Tid) (f : Firing) (k : Nat) (area : Word) (tc : Nat) :
    (getCore (armFresh s t f k area tc) t).pc = (getCore s t).finish.pc := by
  have hc := foldl_keeps (s := s) (·.cores) (armTile_cores k f.task.launch) (getSec s k).tiles
  rw [armFresh, setArmed_pc, getCore_setSec]
  exact congrArg (fun x : SMap Core => (x.getD t Core.reset).finish.pc) hc

/-! ### What DISARM does to a section -/

/-- A section disarmed is loaded (R211, R289). -/
theorem disarmSec_state (s : State) (k : Nat) : (getSec (disarmSec s k) k).state = .loaded :=
  congrArg Section.state (getSec_setSec _ _ _)

/-! ### The forms -/

section
variable {s : State} {t : Tid} {c : Core} {f : Firing} (hrun : Runs s t c f) {n : BitVec 6}
include hrun

section
variable (hp : mayImpure c f = true)
include hp

section
variable {a b : Reg} (hd : c.ready [a, b] = true)
include hd

/-- ARM of a section that is neither loaded nor stopped (R288). -/
theorem exec_arm_closed (hl : (getSec s (secKey f.task.ctx n.toNat)).state ≠ .loaded)
    (hs : (getSec s (secKey f.task.ctx n.toNat)).state ≠ .stopped) :
    exec (.arm a b n) s = .next (trapOpen s t Cause.sectcfg) := by
  refine exec_of_runs hrun (show _ = execArm a b n s from rfl) ?_
  -- by hl and hs the state is neither of the two that ARM takes
  simp only [hd, notPure_of_mayImpure hp, or_true, Bool.not_true, Bool.false_eq_true, if_false, if_true]

section
variable {hb : List Byte} {s1 : State} (h0 : c.opA a ≠ 0) (hcan : canonical (c.opA a) = true)
  (hal : (c.opA a).toNat % 64 = 0)
  (href : armRefused s (secKey f.task.ctx n.toNat) f.task.launch = false) (hpkg : c.allPkg = true)
  (hread : readVA s (coreWho t f (syncKey t)) (c.opA a) 64 = (.ok hb, s1))
include h0 hcan hal href hpkg hread

/-- ARM of a loaded section whose save area holds no valid cut (R288). -/
theorem exec_arm_loaded (hv : bitOf (nth 0 (wordsOf 8 hb) 0) 63 = false) (htc : 0 < (c.opB b).toNat)
    (hlt : (c.opB b).toNat < 2 ^ 32) (hs : (getSec s (secKey f.task.ctx n.toNat)).state = .loaded) :
    exec (.arm a b n) s = .next (armFresh s1 t f (secKey f.task.ctx n.toNat) (c.opA a) (c.opB b).toNat) := by
  refine exec_of_runs hrun (show _ = execArm a b n s from rfl) ?_
  simp only [hd, notPure_of_mayImpure hp, h0, hcan, hal, Nat.not_le.2 hlt, hs, href, hpkg, hread, armLoaded_of_invalid hv htc,
    Bool.not_true, Bool.true_eq_false, Bool.false_eq_true, ne_eq, not_true_eq_false, or_self, reduceCtorEq, if_false]

/-- ARM of a stopped section with a count of 0 resumes it with the count it has (R288). -/
theorem exec_arm_stopped (htc : c.opB b = 0) (hs : (getSec s (secKey f.task.ctx n.toNat)).state = .stopped) :
    exec (.arm a b n) s = .next (setArmed s1 t f (secKey f.task.ctx n.toNat) (c.opA a)
      (getSec s (secKey f.task.ctx n.toNat)).tcount) := by
  refine exec_of_runs hrun (show _ = execArm a b n s from rfl) ?_
  obtain ⟨hz, hlt⟩ : (c.opB b).toNat = 0 ∧ ¬2 ^ 32 ≤ 0 := ⟨by rw [htc]; rfl, by decide⟩
  simp only [hd, notPure_of_mayImpure hp, h0, hcan, hal, hz, hlt, hs, href, hpkg, hread,
    Bool.not_true, Bool.true_eq_false, Bool.false_eq_true, ne_eq, not_true_eq_false, or_self, if_false, if_true]

end
end

/-- DISARM of a section that is not armed, stopping, stopped or idle does nothing to it (R289). -/
theorem exec_disarm_quiet (hs : (getSec s (secKey f.task.ctx n.toNat)).state.isBusy = false) :
    exec (.disarm n) s = .next (setCore s t c.advance) := by
  refine exec_of_runs hrun (show _ = execDisarm n s from rfl) ?_
  obtain ⟨-, hc, -, -⟩ := hrun
  simp only [notPure_of_mayImpure hp, hs, hc, Bool.false_eq_true, if_false]

/-- DISARM of any other section takes it to loaded (R289). -/
theorem exec_disarm_busy (hs : (getSec s (secKey f.task.ctx n.toNat)).state.isBusy = true) :
    exec (.disarm n) s = .next (setCore (disarmSec s (secKey f.task.ctx n.toNat)) t
      (getCore (disarmSec s (secKey f.task.ctx n.toNat)) t).advance) := by
  refine exec_of_runs hrun (show _ = execDisarm n s from rfl) ?_
  simp only [notPure_of_mayImpure hp, hs, if_true]

end

section
variable {d : Reg} (hd : c.ready [d] = true) (hw : ∀ k r x, c.waiting ≠ .secwait k r x)
include hd hw

/-- A SECWAIT that has not waited yet answers by the state that it finds, or begins to wait (R290). -/
theorem exec_secwait_first : exec (.secwait d n) s = .next (setCore s t
    (match secwaitAnswer (getSec s (secKey f.task.ctx n.toNat)) with
      | some v => { (c.setGpr d v).advance with waiting := .none }
      | none => { c with waiting := .secwait (secKey f.task.ctx n.toNat) d false })) := by
  refine exec_of_runs hrun (show _ = execSecwait d n s from rfl) ?_
  -- by hw the core has seen no DISARM
  simp only [hd, Bool.not_true, Bool.false_eq_true, if_false]
  cases secwaitAnswer (getSec s (secKey f.task.ctx n.toNat)) <;> rfl

end
end

/-! ### O17 -/

/-- Settles O17: ARM, DISARM and SECWAIT by the state of the section that they find. -/
theorem sectionForms : Obligations.SectionForms := by
  unfold Obligations.SectionForms
  intro s t c f n hrun
  refine ⟨?fresh, ?resume, ?closed, ?quiet, ?disarm, ?answer, ?waits⟩
  case fresh =>
    intro a b hb s1 hp hd h0 hcan hal htc hlt href hpkg hread hv hs
    obtain ⟨hstate, hcount, harea⟩ := setArmed_section _ t f (secKey f.task.ctx n.toNat) (c.opA a) (c.opB b).toNat
    refine ⟨_, exec_arm_loaded hrun hp hd h0 hcan hal href hpkg hread hv htc hlt hs, hstate, hcount, harea, armFresh_pc .., ?_⟩
    exact foldl_keeps (·.st) (fun _ _ => armTile_st) _
  case resume =>
    intro a b hb s1 hp hd h0 hcan hal htc href hpkg hread hs
    obtain ⟨hstate, hcount, -⟩ := setArmed_section s1 t f (secKey f.task.ctx n.toNat) (c.opA a)
      (getSec s (secKey f.task.ctx n.toNat)).tcount
    exact ⟨_, exec_arm_stopped hrun hp hd h0 hcan hal href hpkg hread htc hs, hstate, hcount, rfl, rfl⟩
  case closed => exact fun a b hp hd hl hs => trapsOpen_of_exec (exec_arm_closed hrun hp hd hl hs)
  case quiet =>
    intro hp hs
    have hq : (getSec s (secKey f.task.ctx n.toNat)).state.isBusy = false := by rcases hs with hs | hs <;> rw [hs] <;> rfl
    exact ⟨_, exec_disarm_quiet hrun hp hq, onlyCore_setCore _ _ _, getCore_setCore _ _ _⟩
  case disarm =>
    intro hp hs
    refine ⟨_, exec_disarm_busy hrun hp (by rw [hs]; rfl), ?_, disarmSec_st⟩
    rw [getSec_setCore, disarmSec_state]
  case answer =>
    intro d v hd hv hw
    have hx := exec_secwait_first (n := n) hrun hd hw
    rw [hv] at hx
    exact ⟨_, hx, onlyCore_setCore _ _ _, getCore_setCore _ _ _⟩
  case waits =>
    intro d hd hs hw
    have hx := exec_secwait_first (n := n) hrun hd hw
    rw [secwaitAnswer, hs] at hx
    exact ⟨_, hx, onlyCore_setCore _ _ _, by rw [getCore_setCore]⟩

end Sys2Proof.Machine
end

section
/-! PROOF. SMARK and the events of a section (R211, R219 to R222, R292): stop edges, cuts, idleness. -/
namespace Sys2Proof.Machine
open Sys2Proof.Claims

/-! ### SMARK (R292) -/

section
variable {s : State} {t : Tid} {c : Core} {f : Firing} (hrun : Runs s t c f) (hp : mayImpure c f = true) {n : BitVec 6}
include hrun hp

theorem exec_smark_armed (hs : (getSec s (secKey f.task.ctx n.toNat)).state = .armed)
    (hq : sourcesPassed s (secKey f.task.ctx n.toNat) = true) :
    exec (.smark n) s = .next (setCore (setSec s (secKey f.task.ctx n.toNat) { getSec s (secKey f.task.ctx n.toNat) with
      edges := (getSec s (secKey f.task.ctx n.toNat)).edges + 1 }) t c.advance) := by
  refine exec_of_runs hrun (show _ = execSmark n s from rfl) ?_
  simp only [notPure_of_mayImpure hp, hs, hq, ne_eq, not_true_eq_false, Bool.not_true, Bool.false_eq_true, if_false]

theorem exec_smark_unarmed (hs : (getSec s (secKey f.task.ctx n.toNat)).state ≠ .armed) :
    exec (.smark n) s = .next (trapOpen s t Cause.secstate) := by
  refine exec_of_runs hrun (show _ = execSmark n s from rfl) ?_
  simp only [notPure_of_mayImpure hp, hs, ne_eq, not_false_eq_true, if_true]

end

/-! ### The course of a section (R219 to R221) -/

section
variable {s : State}

/-- A section without a tile on a leaving die is stopped once its cut is taken, and its element ports' binding ends (R221, R341). -/
theorem sectionStopped_stays {k : Nat} (h : onLeavingDie s (getSec s k) = false) :
    sectionStopped s k = unbind (setSec s k { getSec s k with state := .stopped }) (k / 64) (secBinder k) := by
  rw [sectionStopped]
  exact if_neg (Bool.eq_false_iff.1 h)

theorem exec_stopEdgeRequest (hw : stopWanted s (s.op 0) = true) (hp : sourcesPassed s (s.op 0) = true) :
    exec .stopEdgeRequest s = .next (setSec s (s.op 0) { getSec s (s.op 0) with
      state := .stopping, edges := (getSec s (s.op 0)).edges + 1, stopAt := some ((getSec s (s.op 0)).edges + 1) }) := by
  show execStopEdgeRequest s = _
  simp only [execStopEdgeRequest, hw, hp, Bool.and_self, if_true]

/-- A stopping section with every unit at the edge is stopped once its cut is in the save area (R221, R427). -/
theorem exec_sectionCut {n : Nat} {s1 : State} (hs : (getSec s (s.op 0)).state = .stopping)
    (hn : (getSec s (s.op 0)).stopAt = some n) (ha : allAt s (s.op 0) n = true)
    (hc : storeCut (setSec s (s.op 0) { getSec s (s.op 0) with cut := some ((getSec s (s.op 0)).cut.getD s.clk.dtime) }) (s.op 0) =
      (.ok (), s1)) : exec .sectionCut s = .next (sectionStopped (keepCut s1 (s.op 0)) (s.op 0)) := by
  simp only [hs, hn] at hc
  show execSectionCut s = _
  simp only [execSectionCut, hs, hn, ha, hc, Bool.not_true, Bool.false_eq_true, if_false]

theorem exec_sectionIdle (hs : (getSec s (s.op 0)).state = .armed) (ht : (getSec s (s.op 0)).tiles ≠ [])
    (hd : sinksDone s (s.op 0) = true) :
    exec .sectionIdle s = .next (unbind (setSec s (s.op 0) { getSec s (s.op 0) with state := .idle }) (s.op 0 / 64)
      (secBinder (s.op 0))) :=
  (show _ = execSectionIdle s from rfl).trans (if_pos ⟨hs, ht, hd⟩)

end

/-! ### O18 -/

/-- Settles O18: SMARK by the section's state, then each event by the section that it leaves. -/
theorem sectionEvents : Obligations.SectionEvents := by
  unfold Obligations.SectionEvents
  intro s
  refine ⟨fun t c f n hrun hp => ⟨?edge, fun hs => trapsOpen_of_exec (exec_smark_unarmed hrun hp hs)⟩, ?stop, ?cut, ?idle⟩
  case edge =>
    intro hs hq
    refine ⟨_, exec_smark_armed hrun hp hs hq, ?_, getCore_setCore _ _ _, rfl⟩
    rw [getSec_setCore, getSec_setSec]
  case stop =>
    intro hw hp
    refine ⟨_, exec_stopEdgeRequest hw hp, ?_, ?_, rfl, rfl⟩ <;> rw [getSec_setSec]
  case cut =>
    intro n s1 hs hn ha hc hl
    have hx := exec_sectionCut hs hn ha hc
    rw [sectionStopped_stays hl] at hx
    exact ⟨_, hx, congrArg Section.state (getSec_setSec _ _ _), rfl, rfl⟩
  case idle =>
    exact fun hs ht hd => ⟨_, exec_sectionIdle hs ht hd, congrArg Section.state (getSec_setSec _ _ _), rfl⟩

end Sys2Proof.Machine
end

section
/-! PROOF. The course of a launch (R207 to R209, R222, R376 to R387, R396, R401): an equation for each event where its conditions
hold. -/
namespace Sys2Proof.Machine
open Sys2Proof.Claims

/-! ### Launches by number -/

section
variable {s : State}

/-- An update that keeps identifiers is found where the launch was. -/
theorem findLaunch_updLaunch {lid : Nat} {g : Launch → Launch} (hg : ∀ l, (g l).lid = l.lid) (k : Nat) :
    findLaunch (updLaunch s lid g) k = (findLaunch s k).map (fun l => if l.lid == lid then g l else l) := by
  have hlid (l : Launch) : (if l.lid == lid then g l else l).lid = l.lid := by
    split
    · exact hg l
    · rfl
  simp only [findLaunch, updLaunch, List.find?_map, Function.comp_def, hlid]

/-- The launch that a number finds has that number. -/
theorem lid_of_findLaunch {k : Nat} {l : Launch} (h : findLaunch s k = some l) : l.lid = k :=
  eq_of_beq (List.find?_some (p := fun l : Launch => l.lid == k) h)

theorem findLaunch_of_launchAt {l : Launch} (h : LaunchAt s l) : findLaunch s l.lid = some l := by
  rw [lid_of_findLaunch h]; exact h

/-- The launch that an event concerns, updated. -/
theorem findLaunch_updLaunch_self {l : Launch} {g : Launch → Launch} (h : LaunchAt s l) (hg : ∀ l, (g l).lid = l.lid) :
    findLaunch (updLaunch s l.lid g) l.lid = some (g l) := by
  rw [findLaunch_updLaunch hg, findLaunch_of_launchAt h, Option.map_some, if_pos (beq_self_eq_true _)]

end

/-! ### DOOR (R377) -/

section
variable {s : State} {q : Nat} {v : Word}

theorem exec_launchDoor (hq : q < 256) (hh : s.boot.held = false) : exec (.launchDoor q v) s = .next (doorWrite s q v) := by
  show execLaunchDoor q v s = _
  simp only [execLaunchDoor, whileUp, hq, hh, Bool.false_eq_true, if_false, if_true]

/-- A write that names a free slot of an enabled queue makes it busy, and its record waits (R377). -/
theorem doorWrite_taken (hz : zeroBits v 63 4 = true) (hj : bitsOf v 3 0 < 15) (he : lqEn (getLQ s q) = true)
    (hb : (getLQ s q).busy.contains (bitsOf v 3 0) = false) :
    doorWrite s q v = setLQ { s with ln := { s.ln with door := s.ln.door ++ [(q, bitsOf v 3 0, s.clk.cycle)] } } q
      { getLQ s q with busy := (getLQ s q).busy ++ [bitsOf v 3 0] } := by
  have hj : (bitsOf v 3 0 == 15) = false := beq_false_of_ne (Nat.ne_of_lt hj)
  simp only [doorWrite, hz, hj, he, hb, Bool.not_true, Bool.or_self, Bool.false_eq_true, if_false]
  rfl

/-- Any other write sets ERR alone (R377). -/
theorem doorWrite_refused (h : zeroBits v 63 4 = false ∨ bitsOf v 3 0 = 15 ∨ lqEn (getLQ s q) = false ∨
    (getLQ s q).busy.contains (bitsOf v 3 0) = true) : doorWrite s q v = setLQ s q { getLQ s q with err := true } := by
  refine if_pos ?_
  rcases h with h | h | h | h <;> simp only [h, Bool.not_false, Bool.true_or, Bool.or_true, beq_self_eq_true]

end

/-! ### The arrival of a record (R377, R379) -/

/-- The slot of a DOOR write becomes free: the write leaves the list, and the slot is not busy (R377). -/
def freeSlot (q j i : Nat) (busy : List Nat) (s : State) : State :=
  setLQ { s with ln := { s.ln with door := dropNth s.ln.door i } } q { getLQ s q with busy := busy.filter (· != j) }

/-- A refusal asks for the slot to be freed in states with the event's operands alone. -/
theorem refuseLaunch_congr {s : State} {f g : State → State} (h : ∀ u : State, u.ops = s.ops → f u = g u) (ctx : Nat)
    (w : List Word) (e : Cause) : refuseLaunch s f ctx w e = refuseLaunch s g ctx w e := by
  unfold refuseLaunch
  dsimp only
  rw [h s rfl]
  have hw := (writeVA_frame s (launchWho ctx (recLid w)) (recVA (nth 0 w 6))
    (compBytes (recLid w) 4 e 0 0 0 0 0 s.clk.dtime s.clk.dtime)).ops
  generalize writeVA s _ _ _ = x at hw ⊢
  obtain ⟨r, u⟩ := x
  cases r <;> simp only [h u hw]

/-- Where word 6 and the signal are well formed, a refusal writes the completion record: the signal follows, after a host event where
the write faults; a write that waits leaves the record where it is (R379, R401; log 148). -/
theorem refuseLaunch_writes {s s1 : State} {free : State → State} {ctx : Nat} {w : List Word} {e : Cause} {p : Nat × Nat}
    {r : Res (List Byte)} (hv : vaReserved (nth 0 w 6) = false) (hs : signalReserved (nth 0 w 7) = false)
    (ht : translate s (launchWho ctx (recLid w)) (recVA (nth 0 w 6)) .write = .ok p)
    (hw : writeVA s (launchWho ctx (recLid w)) (recVA (nth 0 w 6)) (compBytes (recLid w) 4 e 0 0 0 0 0 s.clk.dtime s.clk.dtime) =
      (r, s1)) :
    (∀ bs, r = .ok bs → refuseLaunch s free ctx w e = launchSignal (free s1) ctx (recLid w) (nth 0 w 7)) ∧
    (∀ x, r = .fault x → refuseLaunch s free ctx w e =
      launchSignal (hostEvent (free s1) x ctx (recLid w) 0 0) ctx (recLid w) (nth 0 w 7)) ∧
    (r = .wait → refuseLaunch s free ctx w e = s1) := by
  refine ⟨fun bs hr => ?_, fun x hr => ?_, fun hr => ?_⟩ <;> subst hr <;>
    simp only [refuseLaunch, hv, hs, ht, hw, Bool.not_false, Bool.and_self, Bool.not_true, Bool.false_eq_true, if_false]

/-- The checks of the code object keep the event's operands. -/
theorem ops_of_codeCause {s s1 : State} {who : Who} {va : Word} {r : Res (Option Cause)} (h : codeCause s who va = (r, s1)) :
    s1.ops = s.ops := by
  have hr := (readVA_frame s who va 64).ops
  rw [← show (codeCause s who va).2 = s1 by rw [h], codeCause]
  generalize readVA s who va 64 = x at hr ⊢
  obtain ⟨r, u⟩ := x
  cases r with
  | wait => exact hr
  | fault e => exact hr
  | ok bs =>
    dsimp only
    split
    · exact hr
    · split <;> exact hr

section
variable {s : State} {q j since : Nat} (hd : s.ln.door[s.op 0]? = some (q, j, since)) (hb : s.boot.blob = true)
  (hk : ckptStops s = false) (hg : launchGrant s = some (s.op 0)) {w : List Word} (hw : w = nth [] (getLQ s q).slots j)
include hd hb hk hg hw

/-- The record that acceptance grants is refused for what its own words say (R379). -/
theorem exec_launchArrival_badRecord {e : Cause} (hr : recordCause s (getLQ s q) w = some e) :
    exec .launchArrival s = .next (refuseLaunch s (freeSlot q j (s.op 0) (getLQ s q).busy) (lqCtx (getLQ s q)) w e) := by
  subst hw
  show execLaunchArrival s = _
  simp only [execLaunchArrival, hd, hb, hk, hg, hr, bne_self_eq_false, Bool.not_true, Bool.or_self, Bool.false_eq_true, if_false]
  exact congrArg _ (refuseLaunch_congr (fun u hu => by rw [freeSlot, State.op, State.op, hu]) _ _ _)

section
variable {s1 : State} (hr : recordCause s (getLQ s q) w = none)
include hr

/-- The record that acceptance grants is refused for its code object (R250, R379, R383). -/
theorem exec_launchArrival_badCode {e : Cause}
    (hc : codeCause s (launchWho (lqCtx (getLQ s q)) (recLid w)) (recVA (nth 0 w 0)) = (.ok (some e), s1)) :
    exec .launchArrival s = .next (refuseLaunch s1 (freeSlot q j (s.op 0) (getLQ s q).busy) (lqCtx (getLQ s q)) w e) := by
  subst hw
  show execLaunchArrival s = _
  simp only [execLaunchArrival, hd, hb, hk, hg, hr, hc, bne_self_eq_false, Bool.not_true, Bool.or_self, Bool.false_eq_true,
    if_false]
  exact congrArg _ (refuseLaunch_congr (fun u hu => by rw [freeSlot, State.op, State.op, hu, ops_of_codeCause hc]) _ _ _)

/-- The record that acceptance grants passes its checks: the launch is accepted and its slot free (R379). -/
theorem exec_launchArrival_accepts {p : Nat × Nat}
    (hc : codeCause s (launchWho (lqCtx (getLQ s q)) (recLid w)) (recVA (nth 0 w 0)) = (.ok none, s1))
    (ht : translate s1 (launchWho (lqCtx (getLQ s q)) (recLid w)) (recVA (nth 0 w 6)) .write = .ok p) :
    exec .launchArrival s = .next (acceptLaunch (freeSlot q j (s.op 0) (getLQ s q).busy s1) q (getLQ s q) w) := by
  subst hw
  show execLaunchArrival s = _
  simp only [execLaunchArrival, hd, hb, hk, hg, hr, hc, ht, bne_self_eq_false, Bool.not_true, Bool.or_self, Bool.false_eq_true,
    if_false]
  rw [show s.op 0 = s1.op 0 by rw [State.op, State.op, ops_of_codeCause hc]]
  rfl

end
end

/-! ### Waits, swaths and dies (R222, R381, R382, R385, R387) -/

section
variable {s : State} {l : Launch} (h : findLaunch s (s.op 0) = some l)
include h

section
variable (hs : l.state = .accepted) (hw : waitsDone s l = true) (hc : ctxRuns s l.ctx = true)
include hs hw hc

/-- The count of a launch whose waits are satisfied stands in its record (R382). -/
theorem exec_launchWaitSatisfied_given (hi : recInd l.words = false) :
    exec .launchWaitSatisfied s = .next (updLaunch s l.lid (fun l' =>
      { l' with state := .allocating, count := bitsOf (nth 0 l.words 3) 31 0, began := s.st.past.length })) := by
  show execLaunchWaitSatisfied s = _
  simp only [execLaunchWaitSatisfied, h, hs, hw, hc, hi, ne_eq, not_true_eq_false, Bool.true_eq_false, or_self, if_false,
    Bool.not_false, if_true]

/-- The count of a launch whose waits are satisfied is read, and no more than the record's (R382). -/
theorem exec_launchWaitSatisfied_read {bs : List Byte} {s1 : State} (hi : recInd l.words = true)
    (hr : readVA s (launchWho l.ctx l.lid) (vaSext (bitsOf (nth 0 l.words 4) 56 2 * 4)) 4 = (.ok bs, s1)) :
    exec .launchWaitSatisfied s = .next (updLaunch s1 l.lid (fun l' =>
      { l' with state := .allocating, count := min (ofBytes bs) (bitsOf (nth 0 l.words 3) 31 0), began := s1.st.past.length })) := by
  show execLaunchWaitSatisfied s = _
  simp only [execLaunchWaitSatisfied, h, hs, hw, hc, hi, hr, ne_eq, not_true_eq_false, Bool.true_eq_false, or_self, if_false,
    Bool.not_true, Bool.false_eq_true]

end

/-- The allocator's choice is granted (R385). -/
theorem exec_swathGrant {qs : List Nat} (hs : l.state = .allocating) (hc : ctxRuns s l.ctx = true) (hu : heldUp s l = false)
    (hq : swathFor s l = some qs) : exec .swathGrant s = .next (takeQuads s l qs) := by
  show execSwathGrant s = _
  simp only [execSwathGrant, h, hs, hc, hu, hq, ne_eq, not_true_eq_false, Bool.true_eq_false, Bool.false_eq_true, or_self, if_false]

/-- A die that is leaving goes once the launch has no work on it (R222). -/
theorem exec_dieWithdraw_finishes {d : Nat} (hd : l.leaving.find? (fun d => !dieBusy s l d) = some d) :
    exec .dieWithdraw s = .next (finishWithdraw s l d) := by
  show execDieWithdraw s = _
  simp only [execDieWithdraw, h, hd]

/-- A further die begins to leave where a launch of a lesser class lacks dies and MIND stay (R387). -/
theorem exec_dieWithdraw_begins (hn : l.leaving.find? (fun d => !dieBusy s l d) = none) (hs : l.state = .running)
    (hq : recNquad l.words = 0) (hm : recMind l.words + l.leaving.length < l.dies.length)
    (hl : s.ln.live.any (fun m => m.state == .allocating && ctxRuns s m.ctx && m.cls < l.cls && lacksDies s m) = true) :
    exec .dieWithdraw s = .next (updLaunch s l.lid (fun l => { l with leaving := l.leaving ++ [nextLeaving l] })) := by
  show execDieWithdraw s = _
  simp only [execDieWithdraw, h, hn, hs, hq, hl, Nat.not_le.2 hm, ne_eq, not_true_eq_false, Bool.true_eq_false, or_self, if_false]

/-- With every leaving die busy and no die to spare nothing happens (R387). -/
theorem exec_dieWithdraw_waits (hn : l.leaving.find? (fun d => !dieBusy s l d) = none)
    (hm : l.dies.length ≤ recMind l.words + l.leaving.length) : exec .dieWithdraw s = .next s := by
  show execDieWithdraw s = _
  simp only [execDieWithdraw, h, hn, hm, or_true, if_true]

/-- The first free die goes to a running die swath below MAXD that no other launch is ahead of (R387; log 103). -/
theorem exec_dieAdd {d : Nat} {ds : List Nat} (hg : mayGrow l = true) (hw : s.ln.live.any (waitsAhead s l) = false)
    (ha : s.ln.live.any (fun m => mayGrow m && ctxRuns s m.ctx && (m.cls < l.cls || (m.cls == l.cls && m.order < l.order))) = false)
    (hc : ctxRuns s l.ctx = true) (hd : freeDies s l = d :: ds) :
    exec .dieAdd s = .next (takeQuads s l (usableQuads s d)) := by
  show execDieAdd s = _
  simp only [execDieAdd, h, hg, hw, ha, hc, hd, Bool.not_true, Bool.or_self, Bool.false_eq_true, if_false]

/-! ### A die withdrawn (R222, R387) -/

/-- A launch that a die is kept for (R387). -/
def Launch.keeping (m : Launch) (d : Nat) : Launch := { m with kept := m.kept ++ [d] }

/-- A launch without a die, on the quads that remain (R222). -/
def Launch.without (m : Launch) (d : Nat) (qs : List Nat) : Launch :=
  { m with quads := qs, dies := m.dies.filter (· != d), leaving := m.leaving.filter (· != d), filled := m.filled.filter (· != d) }

/-- The state with a die kept for the launch that it is withdrawn for. -/
def keepFor (s : State) (l : Launch) (d : Nat) : State :=
  match neediest s l with
  | some m => updLaunch s m.lid (fun m => m.keeping d)
  | none => s

omit h in
/-- Records moved, the launches of a withdrawal are those of the state with the die kept, the withdrawn die taken off its own. -/
theorem findLaunch_finishWithdraw (d k : Nat) :
    findLaunch (finishWithdraw s l d) k = (findLaunch (keepFor s l d) k).map (fun x => if x.lid == l.lid then
      x.without d (l.quads.filter (fun q => dieOfQuad q != d)) else x) :=
  findLaunch_updLaunch (g := fun x => x.without d (l.quads.filter (fun q => dieOfQuad q != d))) (fun _ => rfl) k

/-- Keeping a die changes nothing of the launch that it leaves but what is kept for that one. -/
theorem leaving_of_keepFor {d : Nat} {l' : Launch} (hf : findLaunch (keepFor s l d) l.lid = some l') : l'.leaving = l.leaving := by
  have hl := findLaunch_of_launchAt h
  unfold keepFor at hf
  split at hf
  · rw [findLaunch_updLaunch (g := fun m => m.keeping d) (fun _ => rfl), hl, Option.map_some, Option.some.injEq] at hf
    subst hf
    split <;> rfl
  · rw [hl, Option.some.injEq] at hf
    rw [← hf]

/-- A withdrawn die's quads and its own number are off the launch (R222). -/
theorem finishWithdraw_self {d : Nat} {l' : Launch} (hf : findLaunch (finishWithdraw s l d) l.lid = some l') :
    l'.quads = l.quads.filter (fun q => dieOfQuad q != d) ∧ l'.leaving = l.leaving.filter (· != d) := by
  rw [findLaunch_finishWithdraw, Option.map_eq_some_iff] at hf
  obtain ⟨x, hx, rfl⟩ := hf
  rw [if_pos (beq_iff_eq.2 (lid_of_findLaunch hx))]
  exact ⟨rfl, congrArg (List.filter (· != d)) (leaving_of_keepFor h hx)⟩

omit h in
/-- A withdrawn die is kept for the launch that needs it most (R387). -/
theorem finishWithdraw_kept {d : Nat} {m m' : Launch} (hn : neediest s l = some m) (hne : m.lid ≠ l.lid)
    (hm : findLaunch s m.lid = some m) (hf : findLaunch (finishWithdraw s l d) m.lid = some m') : m'.kept = m.kept ++ [d] := by
  have hk : findLaunch (keepFor s l d) m.lid = some (m.keeping d) := by
    rw [keepFor, hn]
    simp only [findLaunch_updLaunch (g := fun m => m.keeping d) (fun _ => rfl), hm, Option.map_some,
      beq_self_eq_true, if_true]
  rw [findLaunch_finishWithdraw, hk, Option.map_some, Option.some.injEq, if_neg (by simpa [Launch.keeping] using hne)] at hf
  rw [← hf]; rfl

/-! ### Code (R252, R383) -/

section
variable (hs : l.state = .running) (hd : l.dies.contains (s.op 1) = true) (hf : l.filled.contains (s.op 1) = false)
  (hz : l.status = 0) (hc : ctxRuns s l.ctx = true)
include hs hd hf hz hc

/-- Code resident on the die is used as it stands (R383). -/
theorem exec_codeFill_resident
    (hr : s.ln.code.any (fun c => c.die == s.op 1 && c.ctx == l.ctx && c.va == launchCode l) = true) :
    exec .codeFill s = .next (updLaunch { s with ln := { s.ln with code := s.ln.code.map (fun c =>
        if c.die = s.op 1 ∧ c.ctx = l.ctx ∧ c.va = launchCode l then { c with used := l.order } else c) } } l.lid
      (fun l => { l with filled := l.filled ++ [s.op 1] })) := by
  show execCodeFill s = _
  simp only [execCodeFill, h, hs, hd, hf, hz, hc, hr, ne_eq, not_true_eq_false, Bool.true_eq_false, Bool.false_eq_true, or_self,
    if_false, if_true]

section
variable {hb body : List Byte} {s1 s2 : State}
  (hr : s.ln.code.any (fun c => c.die == s.op 1 && c.ctx == l.ctx && c.va == launchCode l) = false)
  (h1 : readVA s (launchWho l.ctx l.lid) (launchCode l) 64 = (.ok hb, s1))
  (h2 : readVA s1 (launchWho l.ctx l.lid) (launchCode l + 64) (objSegs (wordsOf 8 hb)) = (.ok body, s2))
include hr h1 h2

/-- Code that may not be executed ends the launch as refused, with an event for its context (R32). -/
theorem exec_codeFill_barred {e : Cause}
    (hp : pagesCause s2 (launchWho l.ctx l.lid) .exec (pagesOf (launchCode l) (64 + objSegs (wordsOf 8 hb))) = some e) :
    exec .codeFill s = .next (appendEvent (updLaunch s2 l.lid (fun l =>
      { l with status := 4, cause := if l.cause = 0 then e else l.cause })) l.ctx
      ⟨e, 3, 0, quadCore (nth 0 (dieQuads (s.op 1)) 0), l.lid, launchCode l, 0⟩) := by
  show execCodeFill s = _
  simp only [execCodeFill, h, hs, hd, hf, hz, hc, hr, h1, h2, hp, ne_eq, not_true_eq_false, Bool.true_eq_false, Bool.false_eq_true,
    or_self, if_false]

/-- Code is copied into an empty store that it fits, with its digest (R252, R383). -/
theorem exec_codeFill_copies
    (hp : pagesCause s2 (launchWho l.ctx l.lid) .exec (pagesOf (launchCode l) (64 + objSegs (wordsOf 8 hb))) = none)
    (he : s2.ln.code = []) (hl : objSegs (wordsOf 8 hb) ≤ 2 ^ 22) :
    exec .codeFill s = .next (updLaunch { s2 with ln := { s2.ln with code := [⟨s.op 1, l.ctx, launchCode l, objSegs (wordsOf 8 hb),
      shake256 (digestBytes (wordsOf 8 hb) body), l.order⟩] } } l.lid (fun l => { l with filled := l.filled ++ [s.op 1] })) := by
  show execCodeFill s = _
  simp only [execCodeFill, h, hs, hd, hf, hz, hc, hr, h1, h2, hp, he, evictFor, List.length_nil, List.filter_nil, List.map_nil,
    List.sum_nil, Nat.zero_add, List.nil_append, Nat.not_lt.2 hl, ne_eq, not_true_eq_false, Bool.true_eq_false, Bool.false_eq_true,
    or_self, if_false]

end
end

/-! ### Entries (R386) -/

/-- The next task of a launch, its template well formed, enters the drill queue of its quad (R386). -/
theorem exec_instanceEntry {hdr rs : List Word} {s1 s2 : State} (hs : l.state = .running) (hz : l.status = 0)
    (he : l.entered < l.count) (hc : ctxRuns s l.ctx = true) (hf : l.dies.all (fun d => l.filled.contains d) = true)
    (hr : readCR s (launchWho l.ctx l.lid) (recVA (nth 0 l.words 1)) = (.ok (hdr, rs), s1)) (hj : crJoin hdr = 0)
    (hq : crQuad hdr = 0x3FF)
    (hx : enqueueRec { s1 with tk := { s1.tk with nextRid := s1.tk.nextRid + 1 } } (TaskRec.make s1.tk.nextRid none
      (instanceHdr l l.entered (nth 0 l.quads (l.entered % max l.quads.length 1)) hdr) rs l.ctx l.lid
      (nth 0 l.quads (l.entered % max l.quads.length 1))) = some s2) :
    exec .instanceEntry s = .next (updLaunch s2 l.lid (fun l => { l with entered := l.entered + 1, live := l.live + 1 })) := by
  show execInstanceEntry s = _
  simp only [execInstanceEntry, h, hs, hz, Nat.not_le.2 he, hc, hf, hr, hj, hq, hx, ne_eq, not_true_eq_false, Bool.true_eq_false,
    or_self, if_false]

/-! ### The end (R208, R209, R401) -/

theorem exec_launchComplete : exec .launchComplete s = .next (if launchEnded s l then completeLaunch s l else s) := by
  show execLaunchComplete s = _
  simp only [execLaunchComplete, h]

end

section
variable (s : State) (l : Launch)

theorem launchSignal_ln (ctx lid : Nat) (w : Word) : (launchSignal s ctx lid w).ln = s.ln := by
  unfold launchSignal
  split <;> rfl

theorem leaveLive_live : (leaveLive s l).ln.live = s.ln.live.filter (fun x => x.lid != l.lid) :=
  congrArg (·.live) (launchSignal_ln _ _ _ _)

/-- A launch that has left is not live. -/
theorem findLaunch_leaveLive : findLaunch (leaveLive s l) l.lid = none := by
  rw [findLaunch, leaveLive_live]
  refine List.find?_eq_none.2 fun x hx => ?_
  simpa only [bne, Bool.not_eq_true', Bool.not_eq_true] using (List.mem_filter.1 hx).2

/-- The quads of a launch that has left are free, where no other swath holds them (R209). -/
theorem quadFree_leaveLive {q : Nat} (h : s.ln.live.all (fun m => m.lid == l.lid || !m.quads.contains q) = true) :
    quadFree (leaveLive s l) q = true := by
  rw [quadFree, leaveLive_live, Bool.not_eq_true', List.any_eq_false]
  intro m hm
  obtain ⟨hm, hne⟩ := List.mem_filter.1 hm
  have hq := List.all_eq_true.1 h m hm
  rw [beq_false_of_ne (bne_iff_ne.1 hne), Bool.false_or, Bool.not_eq_true'] at hq
  rw [hq]; decide

end

/-! ### O52 -/

/-- Settles O52: each event by the equation of its case. -/
theorem launchEvents : Obligations.LaunchEvents := by
  unfold Obligations.LaunchEvents
  intro s
  refine ⟨fun q v hq hh => ⟨?doorTaken, ?doorRefused⟩, ?arrival, ?waits, fun l qs h hs hc hu hq => exec_swathGrant h hs hc hu hq,
    ?code, fun l hdr rs s1 h hs hz he hc hf hr s2 hj hq hx => exec_instanceEntry h hs hz he hc hf hr hj hq hx, ?begins, ?withdraw,
    fun l d ds h hg hw ha hc hd => exec_dieAdd h hg hw ha hc hd, ?ends, fun _ => rfl⟩
  case doorTaken =>
    intro hz hj he hb
    exact ⟨_, (exec_launchDoor hq hh).trans (congrArg _ (doorWrite_taken hz hj he hb)), rfl, rfl, getLQ_setLQ _ _ _, rfl⟩
  case doorRefused =>
    exact fun h => ⟨_, (exec_launchDoor hq hh).trans (congrArg _ (doorWrite_refused h)), rfl, getLQ_setLQ _ _ _, rfl⟩
  case arrival =>
    rintro q j since w free hd hb hk hg hw rfl
    refine ⟨fun e hr => exec_launchArrival_badRecord hd hb hk hg hw hr,
      fun e s1 hr hc => exec_launchArrival_badCode hd hb hk hg hw hr hc, fun e p r s1 hv hs ht hx => ?_, fun r s1 hr hc ht => ?_⟩
    · obtain ⟨hok, hfault, hwait⟩ := refuseLaunch_writes hv hs ht hx
      cases r with
      | ok bs => exact hok bs rfl
      | fault x => exact hfault x rfl
      | wait => exact hwait rfl
    · exact ⟨_, exec_launchArrival_accepts hd hb hk hg hw hr hc ht, rfl, _, rfl, rfl, rfl, rfl, rfl, rfl, rfl⟩
  case waits =>
    exact fun l h hs hw hc => ⟨fun hi => exec_launchWaitSatisfied_given h hs hw hc hi,
      fun bs s1 hi hr => exec_launchWaitSatisfied_read h hs hw hc hi hr⟩
  case code =>
    rintro l d h rfl hs hd hf hz hc
    refine ⟨fun hr => ⟨_, exec_codeFill_resident h hs hd hf hz hc hr, rfl, rfl, fun l' hl => ?_⟩, fun hb s1 body s2 hr h1 h2 =>
      ⟨fun e hp => exec_codeFill_barred h hs hd hf hz hc hr h1 h2 hp,
        fun hp he hl => ⟨_, exec_codeFill_copies h hs hd hf hz hc hr h1 h2 hp he hl, rfl, rfl⟩⟩⟩
    rw [← Option.some.inj ((findLaunch_updLaunch_self (by exact h) (by exact fun _ => rfl)).symm.trans hl)]
  case begins =>
    intro l h hn hs hq hm hl
    exact exec_dieWithdraw_begins h (by rw [hn]; rfl) hs hq (by rw [hn]; exact hm) hl
  case withdraw =>
    intro l h
    refine ⟨fun hb hm => exec_dieWithdraw_waits h (List.find?_eq_none.2 fun d hd => by rw [hb d hd]; decide) hm,
      fun d hd => exec_dieWithdraw_finishes h hd, fun d l' hf => finishWithdraw_self h hf,
      fun d m m' hn hne hm hf => finishWithdraw_kept hn hne hm hf⟩
  case ends =>
    intro l h
    have hx := exec_launchComplete h
    refine ⟨fun he => hx.trans (by rw [he]; rfl), ?_, findLaunch_leaveLive s l, fun q hq => quadFree_leaveLive s l hq⟩
    rintro r s0 s1 he rfl hw
    rw [hx, if_pos he, completeLaunch, hw]
    cases r <;> rfl

end Sys2Proof.Machine
end

section
/-! PROOF. Decoding is the inverse of encoding, and what the decoders make of words written out (R225 to R238). -/
namespace Sys2Proof.Laws

/-! ### Decode after encode (R225 to R238) -/

/-- Every instruction's word decodes back: each form by the lemma of its word, and an event has none. -/
theorem roundTrip : ∀ i : Instr, RoundTrip.Statement i
  -- A format (R228)
  | .add d a b => RoundTrip.add d a b | .sub d a b => RoundTrip.sub d a b | .and d a b => RoundTrip.and d a b
  | .or d a b => RoundTrip.or d a b | .xor d a b => RoundTrip.xor d a b | .andn d a b => RoundTrip.andn d a b
  | .shl d a b => RoundTrip.shl d a b | .shr d a b => RoundTrip.shr d a b | .sar d a b => RoundTrip.sar d a b
  | .rot d a b => RoundTrip.rot d a b | .mul d a b => RoundTrip.mul d a b | .mulh d a b => RoundTrip.mulh d a b
  | .mulhu d a b => RoundTrip.mulhu d a b | .div d a b => RoundTrip.div d a b | .divu d a b => RoundTrip.divu d a b
  | .rem d a b => RoundTrip.rem d a b | .remu d a b => RoundTrip.remu d a b | .min d a b => RoundTrip.min d a b
  | .max d a b => RoundTrip.max d a b | .minu d a b => RoundTrip.minu d a b | .maxu d a b => RoundTrip.maxu d a b
  | .clz d a => RoundTrip.clz d a | .ctz d a => RoundTrip.ctz d a | .cnt d a => RoundTrip.cnt d a
  | .sext d a b => RoundTrip.sext d a b | .zext d a b => RoundTrip.zext d a b | .seq d a b => RoundTrip.seq d a b
  | .slt d a b => RoundTrip.slt d a b | .sltu d a b => RoundTrip.sltu d a b | .sel d a b => RoundTrip.sel d a b
  | .cmov d a b => RoundTrip.cmov d a b
  -- I format (R229)
  | .addi d a i => RoundTrip.addi d a i | .andi d a i => RoundTrip.andi d a i | .ori d a i => RoundTrip.ori d a i
  | .xori d a i => RoundTrip.xori d a i | .shli d a i => RoundTrip.shli d a i | .shri d a i => RoundTrip.shri d a i
  | .sari d a i => RoundTrip.sari d a i | .ldi d i => RoundTrip.ldi d i | .ldsh d a i => RoundTrip.ldsh d a i
  | .slti d a i => RoundTrip.slti d a i | .sltui d a i => RoundTrip.sltui d a i | .muli d a i => RoundTrip.muli d a i
  -- B and J formats (R230)
  | .beq a b o => RoundTrip.beq a b o | .bne a b o => RoundTrip.bne a b o | .blt a b o => RoundTrip.blt a b o
  | .bge a b o => RoundTrip.bge a b o | .bltu a b o => RoundTrip.bltu a b o | .bgeu a b o => RoundTrip.bgeu a b o
  | .jmp o => RoundTrip.jmp o | .jal o => RoundTrip.jal o | .jr a o => RoundTrip.jr a o
  -- M format and atomics (R231, R232)
  | .ld d a s o => RoundTrip.ld d a s o | .st d a s o => RoundTrip.st d a s o | .ldAcq d a s o => RoundTrip.ldAcq d a s o
  | .stRel d a s o => RoundTrip.stRel d a s o | .ldInv d a s o => RoundTrip.ldInv d a s o
  | .atomAdd a b d s => RoundTrip.atomAdd a b d s | .atomAnd a b d s => RoundTrip.atomAnd a b d s
  | .atomOr a b d s => RoundTrip.atomOr a b d s | .atomXor a b d s => RoundTrip.atomXor a b d s
  | .atomMin a b d s => RoundTrip.atomMin a b d s | .atomMax a b d s => RoundTrip.atomMax a b d s
  | .atomMinu a b d s => RoundTrip.atomMinu a b d s | .atomMaxu a b d s => RoundTrip.atomMaxu a b d s
  | .atomSwap a b d s => RoundTrip.atomSwap a b d s | .atomCas a b d s => RoundTrip.atomCas a b d s
  | .atomFadd32 a b d => RoundTrip.atomFadd32 a b d | .atomFadd16 a b d => RoundTrip.atomFadd16 a b d
  | .redAdd a b s => RoundTrip.redAdd a b s | .redAnd a b s => RoundTrip.redAnd a b s | .redOr a b s => RoundTrip.redOr a b s
  | .redXor a b s => RoundTrip.redXor a b s | .redMin a b s => RoundTrip.redMin a b s | .redMax a b s => RoundTrip.redMax a b s
  | .redMinu a b s => RoundTrip.redMinu a b s | .redMaxu a b s => RoundTrip.redMaxu a b s
  | .redFadd32 a b => RoundTrip.redFadd32 a b | .redFadd16 a b => RoundTrip.redFadd16 a b
  | .redFmax32 a b => RoundTrip.redFmax32 a b | .redFmin32 a b => RoundTrip.redFmin32 a b
  -- X format (R233, R234)
  | .fence s => RoundTrip.fence s | .sbar a => RoundTrip.sbar a | .spawn a => RoundTrip.spawn a | .sig a => RoundTrip.sig a
  | .sigeAddress a => RoundTrip.sigeAddress a | .sigeEntry j => RoundTrip.sigeEntry j | .park a b k => RoundTrip.park a b k
  | .exit => RoundTrip.exit | .yield a => RoundTrip.yield a | .prio c => RoundTrip.prio c | .tdecl a => RoundTrip.tdecl a
  | .jcnt a b d => RoundTrip.jcnt a b d | .cfge a b => RoundTrip.cfge a b | .cfgs a b => RoundTrip.cfgs a b
  | .cfgo a b => RoundTrip.cfgo a b | .cfgk a b => RoundTrip.cfgk a b | .arm a b s => RoundTrip.arm a b s
  | .disarm s => RoundTrip.disarm s | .secwait d s => RoundTrip.secwait d s | .strm a n => RoundTrip.strm a n
  | .sstop a n => RoundTrip.sstop a n | .smark s => RoundTrip.smark s | .seal a n => RoundTrip.seal a n
  | .tapset a b n => RoundTrip.tapset a b n | .binit a b => RoundTrip.binit a b | .barr a b => RoundTrip.barr a b
  | .bwait a b d => RoundTrip.bwait a b d | .bchgSetExpect a b => RoundTrip.bchgSetExpect a b
  | .bchgRelease a b => RoundTrip.bchgRelease a b | .btest a b d => RoundTrip.btest a b d | .amsg a d => RoundTrip.amsg a d
  | .amsgw a => RoundTrip.amsgw a | .rfill a b => RoundTrip.rfill a b | .publish s e => RoundTrip.publish s e
  | .ginv a b => RoundTrip.ginv a b | .gprobe a d => RoundTrip.gprobe a d | .trap n => RoundTrip.trap n | .rett => RoundTrip.rett
  | .crd a d n => RoundTrip.crd a d n | .cwr a b n => RoundTrip.cwr a b n | .wpt a b w => RoundTrip.wpt a b w
  | .halt => RoundTrip.halt | .nop => RoundTrip.nop | .time d => RoundTrip.time d | .evrd d c k => RoundTrip.evrd d c k
  -- Integer modifier (R237)
  | .iadd m _ _ => RoundTrip.iadd m | .isub m _ _ => RoundTrip.isub m | .iadds m _ _ => RoundTrip.iadds m
  | .isubs m _ _ => RoundTrip.isubs m | .imul m _ _ => RoundTrip.imul m | .imulh m _ _ => RoundTrip.imulh m
  | .imin m _ _ => RoundTrip.imin m | .imax m _ _ => RoundTrip.imax m | .iand m _ _ => RoundTrip.iand m
  | .ior m _ _ => RoundTrip.ior m | .ixor m _ _ => RoundTrip.ixor m | .iandn m _ _ => RoundTrip.iandn m
  | .ishl m _ _ => RoundTrip.ishl m | .ishr m _ _ => RoundTrip.ishr m | .isar m _ _ => RoundTrip.isar m
  | .iabs m _ _ => RoundTrip.iabs m | .ineg m _ _ => RoundTrip.ineg m | .icmp m _ _ => RoundTrip.icmp m
  | .isel m _ _ => RoundTrip.isel m
  -- Float modifier, conversions (R237)
  | .fadd m _ _ => RoundTrip.fadd m | .fsub m _ _ => RoundTrip.fsub m | .fmul m _ _ => RoundTrip.fmul m
  | .fmac m _ _ => RoundTrip.fmac m | .fmin m _ _ => RoundTrip.fmin m | .fmax m _ _ => RoundTrip.fmax m
  | .fcmp m _ _ => RoundTrip.fcmp m | .fabs m _ _ => RoundTrip.fabs m | .fneg m _ _ => RoundTrip.fneg m
  | .frcp m _ _ => RoundTrip.frcp m | .frsq m _ _ => RoundTrip.frsq m | .fsqrt m _ _ => RoundTrip.fsqrt m
  | .fexp2 m _ _ => RoundTrip.fexp2 m | .flog2 m _ _ => RoundTrip.flog2 m | .fresc m _ _ => RoundTrip.fresc m
  | .cvt sat rm _ _ => RoundTrip.cvt sat rm | .quant sat rm _ _ => RoundTrip.quant sat rm
  | .deq sat rm _ _ => RoundTrip.deq sat rm | .pack _ _ => RoundTrip.pack | .unpack _ _ => RoundTrip.unpack
  | .tunp _ _ => RoundTrip.tunp
  -- Lane modifier, streams (R237)
  | .lsum m _ _ => RoundTrip.lsum m | .lmax m _ _ => RoundTrip.lmax m | .lmin m _ _ => RoundTrip.lmin m
  | .lshuf m _ _ => RoundTrip.lshuf m | .lbcast m _ _ => RoundTrip.lbcast m | .lscan m _ _ => RoundTrip.lscan m
  | .lcmpr m _ _ => RoundTrip.lcmpr m | .winnow m _ _ => RoundTrip.winnow m | .sjoin m _ _ => RoundTrip.sjoin m
  | .acc m _ _ => RoundTrip.acc m | .pass _ _ => RoundTrip.pass | .const _ _ => RoundTrip.const | .iota m _ _ => RoundTrip.iota m
  -- Memory ports (R237)
  | .ldt d inv _ _ => RoundTrip.ldt d inv | .stt d => RoundTrip.stt d | .ldo d inv _ _ => RoundTrip.ldo d inv
  | .sto d _ _ => RoundTrip.sto d | .amo d _ _ => RoundTrip.amo d | .rdx d _ _ => RoundTrip.rdx d
  -- Fragments (R237)
  | .mwld _ _ => RoundTrip.mwld | .mfeed _ _ => RoundTrip.mfeed | .mdrain _ _ => RoundTrip.mdrain | .mzero _ _ => RoundTrip.mzero
  | .mwin => RoundTrip.mwin | .mharrow d _ _ => RoundTrip.mharrow d | .mtwid _ _ => RoundTrip.mtwid
  -- The events of the machine's agents (no word)
  | .harrowStageComplete | .twiddleFillDone | .memoryPortComplete | .steer | .merge | .select | .carry | .invar
  | .count | .filter | .distrib | .collect | .tap | .sealOperator | .control | .tokenTransfer | .messageInject
  | .stopEdgeRequest | .sectionCut | .sectionIdle | .generatorElement | .coordinateToken | .writeStreamToken
  | .writeStreamEnd | .gatherReply | .windowAccess | .bankAccess | .correctionWriteback | .scrubRow | .scrubTakeover
  | .fifoPush | .fifoPop | .homePortAccess | .pageWalk | .lineEntryWriteback | .forwardedAccess | .heatWindowEnd
  | .tierMove | .tierMoveCommit | .pullRequest | .ownershipMoveComplete | .sharerRegister | .sharerUpdate | .wake
  | .retryRingMove | .afterIssueFault | .numericWindowEnd | .engineInboxMessage | .acknowledgement | .injectionResend
  | .copy | .fill | .xpose | .gather | .scatter | .csrb | .prefetch | .migrate | .chkpt | .checkpointCut
  | .checkpointEnd | .hash | .reduce | .allred | .allgath | .rscat | .bcast | .collectiveBegin | .collectiveAbort
  | .publishCommand | .engineCommandDrained | .barrierArrival | .barrierDischarge | .barrierComplete | .bwaitObserve
  | .podBarrierJoin | .podBarrierCompletion | .barrierPrioUpdate | .podBarrierPoison | .inheritanceFloor | .signal
  | .drillExamine | .drillRetest | .claimRequest | .granaryLookup | .drillPop | .parkWake | .taskRetire
  | .preemptionRequest | .preemptDrainExpiry | .launchDoor _ _ | .launchArrival | .launchWaitSatisfied | .swathGrant
  | .codeFill | .instanceEntry | .dieWithdraw | .dieAdd | .launchComplete | .tholdRetry _ _ | .tholdPoison _ _
  | .thend _ _ | .tevpWrite _ _ _ | .tevbWrite _ _ _ | .tserrRead _ _ | .rangeRegisterCommit _ _ _ _
  | .bufferMapCommit _ _ _ _ | .watchpointCommit _ _ _ _ | .tinv _ _ | .tinvComplete | .fppush _ _ _
  | .mtstatWrite _ _ _ | .grtabWrite _ _ | .rsvtWrite _ _ _ _ | .registerWrite _ _ _ | .contextCreate _ _ _
  | .contextSave _ _ | .contextSaved | .contextRestore _ _ | .contextRestored | .contextKill _ _ | .contextRelease _ _
  | .hostMemoryAccess _ _ _ _ | .semaphoreRead _ _ _ | .semaphoreWrite _ _ _ | .hwstatRead _ _ | .lqstatRead _ _
  | .keyLoad _ _ | .keyClear _ _ | .attestationRequest _ _ | .attestationDone | .haltResume _ _ | .moduleReset _ _
  | .diePowerUp _ _ | .linkDown _ | .timeBeacon | .beaconArrival _ _ | .thermalLimit _ | .thermalCritical _
  | .decodeFault _ | .fetchFault _ | .sequencerAccessReply | .linkTrained _ | .frameBoundary => RoundTrip.no_word rfl

/-! ### O56 -/

/-- Settles O56: the round trip of each constructor. -/
theorem decodeEncodeAgree : Obligations.DecodeEncodeAgree := by
  unfold Obligations.DecodeEncodeAgree
  exact fun i hwf => roundTrip i hwf

/-! ### O57 -/

/-- Settles O57: both decoders run on each of the words. -/
theorem specWordsDecode : Obligations.SpecWordsDecode := by
  unfold Obligations.SpecWordsDecode
  and_intros <;> rfl

end Sys2Proof.Laws
end

section
/-! PROOF. The registers of a core (R226), and the sequencer's own faults (R235, R254, R255, R409). -/
namespace Sys2Proof.Machine
open Sys2Proof.Claims

/-! ### Registers (R226) -/

section
variable (c : Core) (r q : Reg) (v : Word)

@[simp] theorem gpr_zero : c.gpr 0 = 0 := rfl

@[simp] theorem setGpr_zero : c.setGpr 0 v = c := rfl

/-- A register reads what was last written to it, but for g0, which keeps nothing (R226). -/
theorem gpr_setGpr (h : c.regs.length = 32) : (c.setGpr r v).gpr q = if q = r ∧ r ≠ 0 then v else c.gpr q := by
  by_cases hr : r = 0
  · subst hr
    rw [setGpr_zero, if_neg (fun h => h.2 rfl)]
  · have hr' : r.val ≠ 0 := fun h => hr (Fin.ext h)
    by_cases hq : q = 0
    · subst hq
      rw [gpr_zero, gpr_zero, if_neg (fun h => hr h.1.symm)]
    · have hq' : q.val ≠ 0 := fun h => hq (Fin.ext h)
      simp only [Core.gpr, Core.setGpr, hr', hq', if_false, nth_setNth 0 c.regs r.val q.val v (by omega), Fin.val_inj, hr,
        ne_eq, not_false_eq_true, and_true]

end

/-! ### O1 -/

/-- Settles O1: the two equations of g0, then the read after a write. -/
theorem registerZero : Obligations.RegisterZero := by
  unfold Obligations.RegisterZero
  exact fun c r q v h => ⟨gpr_zero c, setGpr_zero c v, gpr_setGpr c r q v h⟩

/-! ### The sequencer's own faults (R235, R254, R255) -/

section
variable {s : State} {t : Tid} {c : Core} {f : Firing} {e : Cause}

/-- A precise trap holds the pc of its core (R255). -/
theorem trapHere_eq_takeTrap (h : getCore s t = c) (tval : Word) : trapHere s t e tval = takeTrap s t e true c.pc tval 0 := by
  subst h; rfl

/-- The head of the core stream, found faulty after issue, traps with the next word not yet issued as PC (R255, R409). -/
theorem exec_afterIssueFault {a : Access} {l : List Access} (ht : s.op 0 = t) (hc : getCore s t = c) (hr : c.run = some f)
    (hu : c.unfin = a :: l) (hp : a.phase = .faulted e) :
    exec .afterIssueFault s = .next (takeTrap s t e false c.pc a.va (if inWindow a.ia then 0 else BitVec.ofNat 64 a.ia)) := by
  subst ht; subst hc
  show execAfterIssueFault s = _
  simp only [execAfterIssueFault, hr, hu, hp]

/-- A word that fails R235's checks traps precisely, with the word as TVAL (R409). -/
theorem exec_decodeFault {w : BitVec 32} (h : Runs s t c f) (hd : decodeSeq w = .error e) :
    exec (.decodeFault w) s = .next (takeTrap s t e true c.pc (w.setWidth 64) 0) := by
  obtain ⟨ht, hc, hr, hh⟩ := h
  show execDecodeFault w s = _
  rw [execDecodeFault, onCore_next _ ht hc hr hh, hd]
  exact congrArg _ (trapHere_eq_takeTrap hc _)

/-- A word that cannot be fetched traps precisely, with its VA (R254). -/
theorem exec_fetchFault (h : Runs s t c f) : exec (.fetchFault e) s = .next (takeTrap s t e true c.pc c.pc 0) := by
  obtain ⟨ht, hc, hr, hh⟩ := h
  show execFetchFault e s = _
  rw [execFetchFault, onCore_next _ ht hc hr hh, trapHere_eq_takeTrap hc]

end

/-! ### O11 -/

/-- Settles O11: one equation for each of the three faults. -/
theorem sequencerFaults : Obligations.SequencerFaults := by
  unfold Obligations.SequencerFaults
  exact ⟨fun _ _ _ _ _ _ _ ht hc hr hu hp => exec_afterIssueFault ht hc hr hu hp,
    fun _ _ _ _ _ _ h hd => exec_decodeFault h hd, fun _ _ _ _ _ h => exec_fetchFault h⟩

end Sys2Proof.Machine
end

section
/-! PROOF. The register computation and immediate forms (R256 to R259): the values of the tables in plain arithmetic. -/
namespace Sys2Proof.Machine
open Sys2Proof.Claims

/-! ### Words as numbers -/

section
variable {n : Nat} (x y : Word) (i : BitVec n) (k : Nat)

/-- A word read as a number and put back. -/
theorem ofInt_toNat : BitVec.ofInt 64 (Int.ofNat x.toNat) = x := by
  rw [Int.ofNat_eq_natCast, BitVec.ofInt_natCast, BitVec.ofNat_toNat, BitVec.setWidth_eq]

theorem add_signExtend : x + i.signExtend 64 = BitVec.ofInt 64 (Int.ofNat x.toNat + i.toInt) := by
  rw [BitVec.ofInt_add, ofInt_toNat]; rfl

theorem z16_eq_ofNat (j : BitVec 16) : z16 j = BitVec.ofNat 64 j.toNat := (BitVec.ofNat_toNat 64 j).symm

theorem mul_signExtend : x * i.signExtend 64 = BitVec.ofInt 64 (Int.ofNat x.toNat * i.toInt) := by
  rw [BitVec.ofInt_mul, ofInt_toNat]; rfl

theorem add_four_signExtend : x + 4 * i.signExtend 64 = wordsFrom x i.toInt := by
  rw [wordsFrom, BitVec.ofInt_add, BitVec.ofInt_mul, ofInt_toNat]; rfl

theorem sub_eq_ofInt : x - y = BitVec.ofInt 64 (Int.ofNat x.toNat - Int.ofNat y.toNat) := by
  rw [Int.sub_eq_add_neg, BitVec.ofInt_add, BitVec.ofInt_neg, ofInt_toNat, ofInt_toNat, BitVec.sub_eq_add_neg]

theorem shiftLeft_eq_ofNat : x <<< k = BitVec.ofNat 64 (x.toNat * 2 ^ k) := by
  rw [← Nat.shiftLeft_eq]; rfl

theorem shiftLeft_or_z16 (j : BitVec 16) : x <<< k ||| z16 j = BitVec.ofNat 64 (x.toNat * 2 ^ k) ||| BitVec.ofNat 64 j.toNat := by
  rw [shiftLeft_eq_ofNat, z16_eq_ofNat]

theorem ushiftRight_eq_ofNat : x >>> k = BitVec.ofNat 64 (x.toNat / 2 ^ k) := by
  apply BitVec.eq_of_toNat_eq
  rw [BitVec.toNat_ushiftRight, Nat.shiftRight_eq_div_pow, BitVec.toNat_ofNat,
    Nat.mod_eq_of_lt (Nat.lt_of_le_of_lt (Nat.div_le_self _ _) x.isLt)]

theorem sshiftRight_eq_ofInt : x.sshiftRight k = BitVec.ofInt 64 (x.toInt / 2 ^ k) := by
  rw [BitVec.sshiftRight, Int.shiftRight_eq_div_pow, Int.natCast_pow, Int.cast_ofNat_Int]

theorem shAmt_lt : shAmt x < 64 := Nat.mod_lt _ (by decide)

/-- ROT: what a shift right drops comes in at the top, where the shift leaves zeros (R257). -/
theorem rotateRight_eq_ofNat (h : k < 64) : x.rotateRight k = BitVec.ofNat 64 (x.toNat / 2 ^ k + x.toNat * 2 ^ (64 - k)) := by
  have hd : x >>> k &&& x <<< (64 - k) = 0#64 := by
    ext j hj
    simp only [BitVec.getElem_and, BitVec.getElem_ushiftRight, BitVec.getElem_shiftLeft, BitVec.getElem_zero]
    by_cases hk : j < 64 - k
    · simp [hk]
    · simp [BitVec.getLsbD_of_ge x (k + j) (by omega)]
  rw [BitVec.rotateRight_def, Nat.mod_eq_of_lt h, BitVec.ofNat_add, ← ushiftRight_eq_ofNat, ← shiftLeft_eq_ofNat,
    BitVec.add_eq_or_of_and_eq_zero _ _ hd]

/-! ### Counts of bits (R257) -/

/-- Of n numbers from a up, a test that holds below a + k alone accepts k. -/
theorem length_filter_rangeFrom {p : Nat → Bool} : ∀ {n k a : Nat}, k ≤ n →
    (∀ j, a ≤ j → j < a + n → (p j = true ↔ j < a + k)) → ((rangeFrom a n).filter p).length = k
  | 0, k, a, hk, _ => (Nat.le_zero.1 hk).symm
  | n + 1, 0, a, _, hp => by
    have h0 : p a = false := by simpa using hp a (Nat.le_refl a) (by omega)
    rw [rangeFrom, List.filter_cons_of_neg (by simp [h0])]
    exact length_filter_rangeFrom (Nat.zero_le n) fun j h1 h2 => by rw [hp j (by omega) (by omega)]; omega
  | n + 1, k + 1, a, hk, hp => by
    have h0 : p a = true := (hp a (Nat.le_refl a) (by omega)).2 (by omega)
    rw [rangeFrom, List.filter_cons_of_pos h0, List.length_cons]
    exact congrArg (· + 1) (length_filter_rangeFrom (Nat.le_of_succ_le_succ hk) fun j h1 h2 => by
      rw [hp j (by omega) (by omega)]; omega)

/-- CLZ: the top i bits are zero for the i up to the count. -/
theorem countLeading_eq : countLeading x = countTo64 (fun i => x.toNat < 2 ^ (64 - i)) := by
  rw [countLeading, countTo64]
  by_cases h : x = 0
  · rw [if_pos h, length_filter_rangeFrom (Nat.le_refl 64) fun j _ hj => ?_]; · rfl
    rw [h]
    exact iff_of_true (decide_eq_true (Nat.two_pow_pos _)) hj
  · have h0 : x.toNat ≠ 0 := fun h' => h (BitVec.eq_of_toNat_eq h')
    have hl : x.toNat.log2 < 64 := (Nat.log2_lt h0).2 x.isLt
    rw [if_neg h, length_filter_rangeFrom (k := 63 - x.toNat.log2) (by omega) fun j _ hj => ?_]
    rw [decide_eq_true_iff, ← Nat.log2_lt h0]; omega

theorem trailing_le : ∀ n v, trailing n v ≤ n
  | 0, _ => Nat.le_refl 0
  | n + 1, v => by
    have := trailing_le n (v / 2)
    rw [trailing]; split <;> omega

/-- The low i bits are zero for the i up to the number of trailing zeros. -/
theorem mod_two_pow_eq_zero_iff : ∀ {n i : Nat} (v : Nat), i ≤ n → (v % 2 ^ i = 0 ↔ i ≤ trailing n v)
  | _, 0, v, _ => by simp [Nat.mod_one]
  | n + 1, i + 1, v, h => by
    have ih := mod_two_pow_eq_zero_iff (v / 2) (Nat.le_of_succ_le_succ h)
    rw [Nat.pow_succ', Nat.mod_mul, trailing]
    split <;> omega

theorem countTrailing_eq : countTrailing x = countTo64 (fun i => x.toNat % 2 ^ i == 0) := by
  rw [countTrailing, countTo64, length_filter_rangeFrom (trailing_le 64 x.toNat) fun j _ hj => ?_]
  rw [beq_iff_eq, mod_two_pow_eq_zero_iff _ (show j ≤ 64 by omega)]; omega

/-- The ones of a number above its a lowest bits, counted bit by bit. -/
theorem popCount_eq (v : Nat) : ∀ n a,
    popCount n (v / 2 ^ a) = ((rangeFrom (a + 1) n).filter fun i => v / 2 ^ (i - 1) % 2 == 1).length
  | 0, _ => rfl
  | n + 1, a => by
    have ih := popCount_eq v n (a + 1)
    rw [Nat.pow_succ, ← Nat.div_div_eq_div_mul] at ih
    rw [popCount, rangeFrom, List.filter_cons, Nat.add_sub_cancel, ih]
    rcases Nat.mod_two_eq_zero_or_one (v / 2 ^ a) with h | h <;> simp [h, Nat.add_comm]

theorem popCount_word : BitVec.ofNat 64 (popCount 64 x.toNat) = countTo64 (fun i => x.toNat / 2 ^ (i - 1) % 2 == 1) := by
  rw [countTo64, ← popCount_eq, Nat.pow_zero, Nat.div_one]

/-! ### Extensions, quotients, comparisons (R257, R258) -/

/-- A signed number of n bits, in two's complement. -/
theorem ofInt_signedLow (a : Nat) {n : Nat} (h : n ≤ 64) : BitVec.ofInt 64 (signedLow a n) =
    BitVec.ofNat 64 (if a / 2 ^ (n - 1) % 2 = 1 then a % 2 ^ n + (2 ^ 64 - 2 ^ n) else a % 2 ^ n) := by
  have hp : 2 ^ n ≤ 2 ^ 64 := Nat.pow_le_pow_right (by decide) h
  have hc : (2 : Int) ^ n = ((2 ^ n : Nat) : Int) := (Int.natCast_pow 2 n).symm
  rw [signedLow, hc]
  split
  · generalize a % 2 ^ n = m
    generalize 2 ^ n = p at hp
    apply BitVec.eq_of_toNat_eq
    rw [BitVec.toNat_ofInt, BitVec.toNat_ofNat, Int.ofNat_eq_natCast]
    omega
  · exact BitVec.ofInt_natCast _ _

/-- SEXT of the lowest k + 1 bits. -/
theorem sextN_eq_ofInt (h : k < 64) : sextN x (k + 1) = BitVec.ofInt 64 (signedLow x.toNat (k + 1)) := by
  have hb : x.getLsbD k = decide (x.toNat / 2 ^ k % 2 = 1) := Nat.testBit_eq_decide_div_mod_eq
  rw [ofInt_signedLow _ h, sextN, if_neg (Nat.succ_ne_zero k), Nat.add_sub_cancel, hb]
  by_cases hk : 64 ≤ k + 1
  · obtain rfl : k = 63 := by omega
    simp [Nat.mod_eq_of_lt x.isLt, BitVec.ofNat_toNat]
  · simp only [if_neg hk, decide_eq_true_iff, apply_ite (BitVec.ofNat 64), Nat.succ_eq_add_one]

theorem mul_eq_ofNat : x * y = BitVec.ofNat 64 (x.toNat * y.toNat) := by
  rw [BitVec.ofNat_mul, BitVec.ofNat_toNat, BitVec.ofNat_toNat, BitVec.setWidth_eq, BitVec.setWidth_eq]

theorem ite_bne_zero (z : Word) : (if z != 0 then x else y) = if z ≠ 0 then x else y := by
  simp only [bne_iff_ne]

theorem remS_eq : remS x y = if y = 0 then x else BitVec.ofInt 64 (x.toInt - y.toInt * Int.tdiv x.toInt y.toInt) := by
  rw [remS, Int.tmod_def]

theorem minS_eq : (if ltS y x then y else x) = if x.toInt ≤ y.toInt then x else y := by
  simp only [ltS, decide_eq_true_iff, ← Int.not_le, ite_not]

/-- Of two equal numbers MAX and MAXU may give either. -/
theorem maxS_eq : (if ltS x y then y else x) = if x.toInt ≤ y.toInt then y else x := by
  simp only [ltS, decide_eq_true_iff]
  rcases Int.lt_trichotomy x.toInt y.toInt with h | h | h
  · rw [if_pos h, if_pos (Int.le_of_lt h)]
  · rw [BitVec.eq_of_toInt_eq h, ite_self, ite_self]
  · rw [if_neg (Int.not_lt.2 (Int.le_of_lt h)), if_neg (Int.not_le.2 h)]

theorem minU_eq : (if ltU y x then y else x) = if x.toNat ≤ y.toNat then x else y := by
  simp only [ltU, decide_eq_true_iff, ← Nat.not_le, ite_not]

theorem maxU_eq : (if ltU x y then y else x) = if x.toNat ≤ y.toNat then y else x := by
  simp only [ltU, decide_eq_true_iff]
  rcases Nat.lt_trichotomy x.toNat y.toNat with h | h | h
  · rw [if_pos h, if_pos (Nat.le_of_lt h)]
  · rw [BitVec.eq_of_toNat_eq h, ite_self, ite_self]
  · rw [if_neg (Nat.not_lt.2 (Nat.le_of_lt h)), if_neg (Nat.not_le.2 h)]

theorem flag_decide (p : Prop) [Decidable p] : flag (decide p) = oneIf p := by
  simp only [flag, oneIf, decide_eq_true_iff]

theorem flag_ltS_signExtend (j : BitVec 16) : flag (ltS x (s16 j)) = oneIf (x.toInt < j.toInt) := by
  rw [ltS, s16, BitVec.toInt_signExtend_of_le (by decide), flag_decide]

end

/-! ### The rows of the tables -/

/-- The form writes a register a value of the core, having waited for the registers it names; p is that register, the others, and
the value on the core c. -/
def RegForm (i : Instr) (c : Core) (p : Reg × List Reg × Word) : Prop :=
  ∃ k : Core → Word, (∀ s, exec i s = regOp s p.2.1 p.1 k) ∧ k c = p.2.2

theorem regForm_of_row {i : Instr} {c : Core} {p : Reg × List Reg × Word} {d : Reg} {rs : List Reg} {v : Word} {k : Core → Word}
    (g : State → Out) (h : some (d, rs, v) = some p) (hx : exec i = g) (hg : ∀ s, g s = regOp s rs d k) (hv : k c = v) :
    RegForm i c p :=
  Option.some.inj h ▸ ⟨k, hx ▸ hg, hv⟩

/-- Each form of R257 and R259 has the value of its row. -/
theorem regForm_of_computed {i : Instr} {c : Core} {p : Reg × List Reg × Word} (h : computed c.gpr i = some p) :
    RegForm i c p := by
  unfold computed at h
  split at h
  case h_1 d a b => exact regForm_of_row (execAdd d a b) h rfl (fun _ => rfl) (BitVec.add_def _ _)
  case h_2 d a b => exact regForm_of_row (execSub d a b) h rfl (fun _ => rfl) (sub_eq_ofInt _ _)
  case h_3 d a b => exact regForm_of_row (execAnd d a b) h rfl (fun _ => rfl) rfl
  case h_4 d a b => exact regForm_of_row (execOr d a b) h rfl (fun _ => rfl) rfl
  case h_5 d a b => exact regForm_of_row (execXor d a b) h rfl (fun _ => rfl) rfl
  case h_6 d a b => exact regForm_of_row (execAndn d a b) h rfl (fun _ => rfl) rfl
  case h_7 d a b => exact regForm_of_row (execShl d a b) h rfl (fun _ => rfl) (shiftLeft_eq_ofNat _ _)
  case h_8 d a b => exact regForm_of_row (execShr d a b) h rfl (fun _ => rfl) (ushiftRight_eq_ofNat _ _)
  case h_9 d a b => exact regForm_of_row (execSar d a b) h rfl (fun _ => rfl) (sshiftRight_eq_ofInt _ _)
  case h_10 d a b => exact regForm_of_row (execRot d a b) h rfl (fun _ => rfl) (rotateRight_eq_ofNat _ _ (shAmt_lt _))
  case h_11 d a b => exact regForm_of_row (execMul d a b) h rfl (fun _ => rfl) (mul_eq_ofNat _ _)
  case h_12 d a b => exact regForm_of_row (execMulh d a b) h rfl (fun _ => rfl) rfl
  case h_13 d a b => exact regForm_of_row (execMulhu d a b) h rfl (fun _ => rfl) rfl
  case h_14 d a b => exact regForm_of_row (execDiv d a b) h rfl (fun _ => rfl) rfl
  case h_15 d a b => exact regForm_of_row (execDivu d a b) h rfl (fun _ => rfl) rfl
  case h_16 d a b => exact regForm_of_row (execRem d a b) h rfl (fun _ => rfl) (remS_eq _ _)
  case h_17 d a b => exact regForm_of_row (execRemu d a b) h rfl (fun _ => rfl) rfl
  case h_18 d a b => exact regForm_of_row (execMin d a b) h rfl (fun _ => rfl) (minS_eq _ _)
  case h_19 d a b => exact regForm_of_row (execMax d a b) h rfl (fun _ => rfl) (maxS_eq _ _)
  case h_20 d a b => exact regForm_of_row (execMinu d a b) h rfl (fun _ => rfl) (minU_eq _ _)
  case h_21 d a b => exact regForm_of_row (execMaxu d a b) h rfl (fun _ => rfl) (maxU_eq _ _)
  case h_22 d a => exact regForm_of_row (execClz d a) h rfl (fun _ => rfl) (countLeading_eq _)
  case h_23 d a => exact regForm_of_row (execCtz d a) h rfl (fun _ => rfl) (countTrailing_eq _)
  case h_24 d a => exact regForm_of_row (execCnt d a) h rfl (fun _ => rfl) (popCount_word _)
  case h_25 d a b => exact regForm_of_row (execSext d a b) h rfl (fun _ => rfl) (sextN_eq_ofInt _ _ (shAmt_lt _))
  case h_26 d a b => exact regForm_of_row (execZext d a b) h rfl (fun _ => rfl) rfl
  case h_27 d a b => exact regForm_of_row (execSeq d a b) h rfl (fun _ => rfl) (flag_decide _)
  case h_28 d a b => exact regForm_of_row (execSlt d a b) h rfl (fun _ => rfl) (flag_decide _)
  case h_29 d a b => exact regForm_of_row (execSltu d a b) h rfl (fun _ => rfl) (flag_decide _)
  case h_30 d a b => exact regForm_of_row (execSel d a b) h rfl (fun _ => rfl) (ite_bne_zero _ _ _)
  case h_31 d a b => exact regForm_of_row (execCmov d a b) h rfl (fun _ => rfl) (ite_bne_zero _ _ _)
  case h_32 d a i => exact regForm_of_row (execAddi d a i) h rfl (fun _ => rfl) (add_signExtend _ _)
  case h_33 d a i => exact regForm_of_row (execAndi d a i) h rfl (fun _ => rfl) (congrArg _ (z16_eq_ofNat _))
  case h_34 d a i => exact regForm_of_row (execOri d a i) h rfl (fun _ => rfl) (congrArg _ (z16_eq_ofNat _))
  case h_35 d a i => exact regForm_of_row (execXori d a i) h rfl (fun _ => rfl) (congrArg _ (z16_eq_ofNat _))
  case h_36 d a i => exact regForm_of_row (execShli d a i) h rfl (fun _ => rfl) (shiftLeft_eq_ofNat _ _)
  case h_37 d a i => exact regForm_of_row (execShri d a i) h rfl (fun _ => rfl) (ushiftRight_eq_ofNat _ _)
  case h_38 d a i => exact regForm_of_row (execSari d a i) h rfl (fun _ => rfl) (sshiftRight_eq_ofInt _ _)
  case h_39 d i => exact regForm_of_row (execLdi d i) h rfl (fun _ => rfl) rfl
  case h_40 d a i => exact regForm_of_row (execLdsh d a i) h rfl (fun _ => rfl) (shiftLeft_or_z16 _ _ _)
  case h_41 d a i => exact regForm_of_row (execSlti d a i) h rfl (fun _ => rfl) (flag_ltS_signExtend _ _)
  case h_42 d a i => exact regForm_of_row (execSltui d a i) h rfl (fun _ => rfl) (flag_decide _)
  case h_43 d a i => exact regForm_of_row (execMuli d a i) h rfl (fun _ => rfl) (mul_signExtend _ _)
  case h_44 => exact nomatch h

/-! ### O2 -/

/-- Settles O2: the form is a register operation, of the value of its row. -/
theorem computationForms : Obligations.ComputationForms := by
  unfold Obligations.ComputationForms
  rintro i s t c f d rs v ⟨ht, hc, hr, hh⟩ hv hd
  obtain ⟨k, hx, rfl⟩ := regForm_of_computed hv
  refine ⟨_, (hx s).trans (regOp_next k ht hc hr hh hd), onlyCore_setCore _ _ _, ?_⟩
  rw [getCore_setCore, Core.advance, setGpr_pc]

end Sys2Proof.Machine
end

section
/-! PROOF. Conditional branches (R260) and jumps (R261): their words, targets and frames. -/
namespace Sys2Proof.Machine
open Sys2Proof.Claims

/-! ### Conditional branches (R260) -/

/-- A sequencer word of its major, two registers and a 16-bit offset; it decodes back (R228, R260). -/
theorem branch_word {i : Instr} {m : Nat} {a b : Reg} {o : BitVec 16} (hm : m < 64) (he : encodeNat i = wordI m a b o.toNat)
    (hw : i.wf = true) (hk : i.wordKind = .sequencer) (hc : i.canon = i) :
    (encode i).toNat = m * 2 ^ 26 + a.val * 2 ^ 21 + b.val * 2 ^ 16 + o.toNat ∧ decodeSeq (encode i) = .ok i := by
  refine ⟨?_, ((Laws.roundTrip i hw).1 hk).trans (congrArg _ hc)⟩
  rw [encode, he, BitVec.toNat_ofNat, Nat.mod_eq_of_lt (Laws.wordI_lt hm o.isLt)]
  rfl

theorem not_ltS (x y : Word) : (!ltS x y) = decide (y.toInt ≤ x.toInt) := by
  simp only [ltS, ← decide_not, Int.not_lt]

theorem not_ltU (x y : Word) : (!ltU x y) = decide (y.toNat ≤ x.toNat) := by
  simp only [ltU, ← decide_not, Nat.not_lt]

section
variable {s : State} {t : Tid} {c : Core} {f : Firing} (hrun : Runs s t c f)
include hrun

theorem branch_of_row {i : Instr} {a b : Reg} {o o' : BitVec 16} {rs : List Reg} {p taken : Bool} (test : Word → Word → Bool)
    (h : some ([a, b], o, p) = some (rs, o', taken)) (hx : exec i s = branch s a b o test) (hp : test (c.gpr a) (c.gpr b) = p)
    (hd : c.ready rs = true) :
    exec i s = .next (setCore s t { c with pc := if taken then wordsFrom c.pc o'.toInt else c.pc + 4 }) := by
  obtain ⟨ht, hc, hr, hh⟩ := hrun
  cases h
  rw [hx, branch_next o test ht hc hr hh hd, hp, targetB, add_four_signExtend]

/-- Each conditional branch goes to its target where its row says that it is taken, and on to the next word otherwise. -/
theorem exec_branching {i : Instr} {rs : List Reg} {o : BitVec 16} {taken : Bool} (h : branching c.gpr i = some (rs, o, taken))
    (hd : c.ready rs = true) :
    exec i s = .next (setCore s t { c with pc := if taken then wordsFrom c.pc o.toInt else c.pc + 4 }) := by
  unfold branching at h
  split at h
  case h_1 => exact branch_of_row hrun (fun x y => x == y) h rfl rfl hd
  case h_2 => exact branch_of_row hrun (fun x y => x != y) h rfl decide_not.symm hd
  case h_3 => exact branch_of_row hrun (fun x y => ltS x y) h rfl rfl hd
  case h_4 => exact branch_of_row hrun (fun x y => !ltS x y) h rfl (not_ltS _ _) hd
  case h_5 => exact branch_of_row hrun (fun x y => ltU x y) h rfl rfl hd
  case h_6 => exact branch_of_row hrun (fun x y => !ltU x y) h rfl (not_ltU _ _) hd
  case h_7 => exact nomatch h

/-! ### Jumps (R261) -/

theorem exec_jmp (o : BitVec 26) : exec (.jmp o) s = .next (setCore s t { c with pc := wordsFrom c.pc o.toInt }) := by
  refine exec_of_runs hrun (show _ = execJmp o s from rfl) ?_
  rw [targetJ, add_four_signExtend]

theorem exec_jal (o : BitVec 26) (hd : c.ready [31] = true) :
    exec (.jal o) s = .next (setCore s t { c.setGpr 31 (c.pc + 4) with pc := wordsFrom c.pc o.toInt }) := by
  refine exec_of_runs hrun (show _ = execJal o s from rfl) ?_
  rw [if_pos hd, targetJ, add_four_signExtend]

section
variable {a : Reg} {o : BitVec 16} (hd : c.ready [a] = true)
include hd

theorem exec_jr_aligned (hm : (wordsFrom (c.gpr a) o.toInt).toNat % 4 = 0) :
    exec (.jr a o) s = .next (setCore s t { c with pc := wordsFrom (c.gpr a) o.toInt }) := by
  refine exec_of_runs hrun (show _ = execJr a o s from rfl) ?_
  simp only [hd, targetB, add_four_signExtend, hm, ne_eq, not_true_eq_false, if_false, if_true]

theorem exec_jr_misaligned (hm : (wordsFrom (c.gpr a) o.toInt).toNat % 4 ≠ 0) :
    exec (.jr a o) s = .next (trapOpen s t Cause.pcalign) := by
  refine exec_of_runs hrun (show _ = execJr a o s from rfl) ?_
  rw [if_pos hd, targetB, add_four_signExtend, if_pos hm]

end
end

/-! ### O3 -/

/-- Settles O3: the words by the round trip of the decoder, the effect by the branch's row. -/
theorem branchForms : Obligations.BranchForms := by
  unfold Obligations.BranchForms
  refine ⟨fun i m a b o hi => ?_, fun i s t c f rs o taken hrun h hd =>
    ⟨_, exec_branching hrun h hd, onlyCore_setCore _ _ _, getCore_setCore _ _ _⟩⟩
  simp only [List.mem_cons, Prod.mk.injEq, List.not_mem_nil, or_false] at hi
  rcases hi with ⟨rfl, rfl⟩ | ⟨rfl, rfl⟩ | ⟨rfl, rfl⟩ | ⟨rfl, rfl⟩ | ⟨rfl, rfl⟩ | ⟨rfl, rfl⟩ <;>
    exact branch_word (by decide) rfl rfl rfl rfl

/-! ### O4 -/

/-- Settles O4: one equation for each jump. -/
theorem jumpForms : Obligations.JumpForms := by
  unfold Obligations.JumpForms
  exact fun s t c f a o p hrun =>
    ⟨⟨_, exec_jmp hrun o, onlyCore_setCore _ _ _, getCore_setCore _ _ _⟩,
      fun hd => ⟨_, exec_jal hrun o hd, onlyCore_setCore _ _ _, getCore_setCore _ _ _⟩,
      fun hd hm => ⟨_, exec_jr_aligned hrun hd hm, onlyCore_setCore _ _ _, getCore_setCore _ _ _⟩,
      fun hd hm => trapsOpen_of_exec (exec_jr_misaligned hrun hd hm)⟩

end Sys2Proof.Machine
end

section
/-! PROOF. The issue of the core stream's accesses: loads, stores, atomics, reductions and JCNT (R253, R263, R264, R267,
R270, R284). -/
namespace Sys2Proof.Machine
open Sys2Proof.Claims

/-! ### What an issue leaves as it is -/

section
variable {s : State} {who : Who} {va : Word}

/-- A first access to a buffer adds a binding to its context; any other changes nothing (R110). -/
theorem bindRead_eq (s : State) (who : Who) (va : Word) :
    bindRead s who va = s ∨ ∃ l, bindRead s who va = setCtx s who.ctx { getCtx s who.ctx with bindings := l } := by
  unfold bindRead
  split
  · exact .inl rfl
  · dsimp only; split
    · exact .inl rfl
    · split
      · exact .inl rfl
      · exact .inr ⟨_, rfl⟩

@[simp] theorem bindRead_tl : (bindRead s who va).tl = s.tl := by
  rcases bindRead_eq s who va with h | ⟨l, h⟩ <;> rw [h]
  rfl

@[simp] theorem getCore_bindRead (u : Tid) : getCore (bindRead s who va) u = getCore s u := by
  rw [getCore, (bindRead_frame none s who va).cores rfl, getCore]

/-- A binding moves no range (R29, R110). -/
theorem ranges_bindRead : (getCtx (bindRead s who va) who.ctx).ranges = (getCtx s who.ctx).ranges := by
  rcases bindRead_eq s who va with h | ⟨l, h⟩ <;> rw [h]
  rw [getCtx_setCtx]

@[simp] theorem chooseNext_tl (l : List Nat) : (chooseNext s l).2.tl = s.tl := by
  unfold chooseNext; split <;> rfl

@[simp] theorem getCore_chooseNext (l : List Nat) (u : Tid) : getCore (chooseNext s l).2 u = getCore s u := by
  unfold chooseNext; split <;> rfl

@[simp] theorem getCtx_chooseNext (l : List Nat) (k : Nat) : getCtx (chooseNext s l).2 k = getCtx s k := by
  unfold chooseNext; split <;> rfl

/-- Whether an invariant flag counts rests on the ranges alone (R32). -/
theorem inRange_congr {s' : State} (h : (getCtx s' who.ctx).ranges = (getCtx s who.ctx).ranges) (k : AccKind) (va : Word) :
    k.inRange s' who va = k.inRange s who va := by
  cases k <;> simp only [AccKind.inRange, hasPI, findRange, h]

/-! ### The parts of an access -/

theorem nth_mem {α : Type} {d : α} (l : List α) {k : Nat} (h : k < l.length) : nth d l k ∈ l := by
  rw [nth_eq_getD, List.getD_eq_getElem?_getD, List.getElem?_eq_getElem h, Option.getD_some]
  exact List.getElem_mem h

/-- The free choice puts one of the parts first and keeps the others (R96). -/
theorem mem_chooseNext (l : List Nat) (j : Nat) : j ∈ (chooseNext s l).1 ↔ j ∈ l := by
  unfold chooseNext
  split
  · exact Iff.rfl
  · next hl =>
    have hm : nth 0 l (Sys2Proof.Config.freeChoice s.free % l.length) ∈ l := nth_mem l (Nat.mod_lt _ (by omega))
    generalize nth 0 l _ = i at hm
    by_cases h : j = i <;> simp [h, hm]

/-- Translation keeps the number of pieces. -/
theorem length_translateParts {k : AKind} : ∀ {ps : List (Word × Nat)} {l : List (Nat × Nat × Nat)},
    translateParts s who k ps = .ok l → l.length = ps.length
  | [], _, h => by cases h; rfl
  | (va, n) :: ps, l, h => by
    rw [translateParts] at h
    split at h
    · cases h
    · split at h
      · cases h
      · next hl => cases h; exact congrArg (· + 1) (length_translateParts hl)

/-- A naturally aligned access is one piece (R264). -/
theorem length_accPieces_aligned {n : Nat} (h : va.toNat % n = 0) : (accPieces va n).length = 1 := by
  rw [accPieces, if_pos h]; rfl

end

/-! ### The issue of a memory form whose checks pass -/

/-- The issue of a memory form on its core: w is its word. -/
def issueForm (x : MemForm) (s : State) (t : Tid) (c : Core) (f : Firing) (w : BitVec 32) : State :=
  issueAccess s t c f w x.kind x.size x.gd x.va x.data x.cmp x.acq x.rel x.aligned

/-- The access of a memory form as it joins the core stream, all of its parts to come; s gives its invariant flag. -/
def formAccess (x : MemForm) (s : State) (t : Tid) (c : Core) (f : Firing) (w : BitVec 32) (parts : List (Nat × Nat × Nat))
    (left : List Nat) : Access :=
  ⟨c.nextId, w, x.kind.inRange s (coreWho t f (syncKey t)) x.va, x.size, x.gd, x.va, x.data, x.cmp, x.acq, parts, .sent, left,
    [], []⟩

section
variable {s s1 : State} {t : Tid} {c : Core} {f : Firing} {x : MemForm}

theorem issueCause_of_checked (h : x.Checked s t f) :
    ∃ p, issueCause s (coreWho t f (syncKey t)) x.va x.size x.kind.perm x.aligned = .ok p := by
  obtain ⟨⟨p, hp⟩, ha⟩ := h
  refine ⟨p, ?_⟩
  rw [issueCause, hp]
  exact if_neg (by simpa using ha)

/-- A memory form that passes every check joins the core stream, and the core goes on (R253). -/
theorem issueForm_of_allowed (w : BitVec 32) (hc : x.Checked s t f)
    (hp : pureAllows s c f (coreWho t f (syncKey t)) x.va x.size x.writes = (.ok true, s1)) (hn : c.unfin.length < 16)
    (hr : x.rel = true → c.allPod = true) :
    ∃ parts : List (Nat × Nat × Nat), (x.va.toNat % x.size = 0 → parts.length = 1) ∧
      ∃ q, q = chooseNext (bindRead s1 (coreWho t f (syncKey t)) x.va) (List.range parts.length) ∧
        issueForm x s t c f w = setCore q.2 t (c.issue (formAccess x q.2 t c f w parts q.1)).advance := by
  obtain ⟨p, hi⟩ := issueCause_of_checked hc
  unfold issueForm issueAccess
  dsimp only
  simp only [hi]
  rw [if_neg (Nat.not_le.2 hn), if_neg (by simpa using hr)]
  split
  case h_1 h => cases hp.symm.trans h
  case h_2 h =>
    cases hp.symm.trans h
    refine ⟨_, fun ha => ?_, _, rfl, rfl⟩
    split
    case h_1 hl => exact (length_translateParts hl).trans (length_accPieces_aligned ha)
    case h_2 => rfl
  case h_3 hne h =>
    cases hp.symm.trans h
    exact (hne rfl).elim

end

/-! ### Each memory form issues its access -/

section
variable {s : State} {t : Tid} {c : Core} {f : Firing} {x : MemForm} {i : Instr} (hrun : Runs s t c f)
  (hd : c.ready x.regs = true)
include hrun hd

/-- A load (R263, R264). -/
theorem loadForm_issues {d a : Reg} {z : MSize} {o : BitVec 13} {inv acq : Bool}
    (h : some ⟨.load z.isSigned inv, z.bytes, d, addrM (c.gpr a) o, 0, 0, acq, false, acq, false, [d, a]⟩ = some x)
    (hx : exec i s = loadForm s i d a z o inv acq) : exec i s = .next (issueForm x s t c f (encode i)) := by
  cases h
  refine exec_of_runs hrun hx ((if_pos hd).trans ?_)
  rw [issueForm, vaM, add_signExtend, addrM]

/-- A store (R263, R264). -/
theorem storeForm_issues {d a : Reg} {z : MSize} {o : BitVec 13} {rel : Bool}
    (h : some ⟨.store, z.bytes, 0, addrM (c.gpr a) o, c.gpr d, 0, false, rel, rel, false, [d, a]⟩ = some x)
    (hx : exec i s = storeForm s i d a z o rel) : exec i s = .next (issueForm x s t c f (encode i)) := by
  cases h
  refine exec_of_runs hrun hx ((if_pos hd).trans ?_)
  rw [issueForm, vaM, add_signExtend, addrM]

variable (hp : x.impure = true → mayImpure c f = true)
include hp

/-- An atomic, where the firing may run one (R267, R419). -/
theorem atomForm_issues {fn n : Nat} {a b d : Reg} (h : atomicForm c.gpr fn n a b d = some x)
    (hx : exec i s = atomForm s i fn a b d n) : exec i s = .next (issueForm x s t c f (encode i)) := by
  cases h
  exact exec_of_runs hrun hx ((if_pos hd).trans (notPure_of_mayImpure (hp rfl) _ _ _))

/-- A merged reduction, where the firing may run one (R270, R419). -/
theorem redForm_issues {fn n : Nat} {a b : Reg} (h : reduceForm c.gpr fn n a b = some x)
    (hx : exec i s = redForm s i fn a b n) : exec i s = .next (issueForm x s t c f (encode i)) := by
  cases h
  exact exec_of_runs hrun hx ((if_pos hd).trans (notPure_of_mayImpure (hp rfl) _ _ _))

/-- JCNT on word 4 of an aligned CR, where the firing may run it (R284, R419). -/
theorem execJcnt_issues {a b d : Reg} (h : memForm c.gpr (.jcnt a b d) = some x) (ha : x.va.toNat % 64 = 32) :
    exec (.jcnt a b d) s = .next (issueForm x s t c f (encode (.jcnt a b d))) := by
  cases h
  have ha : (c.gpr a).toNat % 64 = 0 := by
    rw [BitVec.toNat_add, show (32 : Word).toNat = 32 from rfl] at ha
    omega
  refine exec_of_runs hrun (show _ = execJcnt a b d s from rfl) ?_
  simp only [show c.ready [a, b, d] = true from hd, notPure_of_mayImpure (hp rfl), ha, ne_eq, not_true_eq_false, Bool.not_true,
    Bool.false_eq_true, if_false]
  rfl

/-- Every memory form whose registers are ready, that the firing may run and whose CR is aligned goes to its issue. -/
theorem exec_memForm (h : memForm c.gpr i = some x) (hj : x.kind = .jcnt → x.va.toNat % 64 = 32) :
    exec i s = .next (issueForm x s t c f (encode i)) := by
  unfold memForm at h
  split at h
  case h_1 | h_3 | h_5 => exact loadForm_issues hrun hd h rfl
  case h_2 | h_4 => exact storeForm_issues hrun hd h rfl
  case h_6 | h_7 | h_8 | h_9 | h_10 | h_11 | h_12 | h_13 | h_14 | h_15 | h_16 | h_17 => exact atomForm_issues hrun hd hp h rfl
  case h_18 | h_19 | h_20 | h_21 | h_22 | h_23 | h_24 | h_25 | h_26 | h_27 | h_28 | h_29 => exact redForm_issues hrun hd hp h rfl
  case h_30 => exact execJcnt_issues hrun hd hp h (hj (by cases h; rfl))
  case h_31 => exact nomatch h

end

/-! ### O5 -/

/-- Settles O5: the form goes to its issue, whose checks pass; the binding and the choice of the next part leave storage, tiles,
cores and ranges as they are. -/
theorem memoryForms : Obligations.MemoryForms := by
  unfold Obligations.MemoryForms
  rintro i s s1 t c f x hrun h hd hc ⟨hj, hp, ha⟩ hn hr
  obtain ⟨parts, hal, q, hq, hx⟩ := issueForm_of_allowed (encode i) hc ha hn hr
  refine ⟨_, (exec_memForm hrun hd hp h hj).trans (congrArg _ hx), ?_, ?_, fun u hu => ?_, parts, q.1, fun j => ?_, hal, ?_⟩
  · rw [setCore_st, hq, chooseNext_st, bindRead_st]
  · rw [setCore_tl, hq, chooseNext_tl, bindRead_tl]
  · rw [getCore_setCore_ne _ _ hu, hq, getCore_chooseNext, getCore_bindRead]
  · rw [hq, mem_chooseNext, List.mem_range]
  · rw [getCore_setCore, formAccess, inRange_congr (s := s1) (by rw [hq, getCtx_chooseNext, ranges_bindRead])]
    rfl

end Sys2Proof.Machine
end

section
/-! PROOF. TRAP, RETT, HALT, WPT, NOP, TIME and EVRD (R276, R303 to R306, R410), soft refusals (R412), and the forms that user state
may not run. -/
namespace Sys2Proof.Machine
open Sys2Proof.Claims

/-! ### System state and soft refusals (R276, R412) -/

section
variable {s : State} {t : Tid} {c : Core} {f : Firing}

theorem needSys_of_sys (h : c.sys = true) (k : State) : needSys s t c k = k := if_pos h

theorem needSys_of_user (h : c.sys = false) (k : State) : needSys s t c k = trapOpen s t Cause.priv := by
  rw [needSys, h, if_neg Bool.false_ne_true]

/-- A soft refusal goes on at the next word, with its cause in TSERR and the storage as it is (R412). -/
theorem softRefuse_leaves (hc : getCore s t = c) (hr : c.run = some f) (e : Cause) :
    getCore (softRefuse s t e) t = c.advance ∧ (softRefuse s t e).st = s.st ∧
      (getCtx (softRefuse s t e) f.task.ctx).tserr = BitVec.ofNat 64 (2 ^ 63 + e.toNat) := by
  subst hc
  simp only [softRefuse, hr, getCore_setCore, setCore_st, setCtx_st, getCtx_setCore, getCtx_setCtx, and_self]

/-- A form that ends in a soft refusal, in the state where it met its cause. -/
theorem answers_softRefuse {i : Instr} {s1 : State} {e : Cause} (hc : getCore s1 t = c) (hr : c.run = some f)
    (hx : exec i s = .next (softRefuse s1 t e)) :
    Answers i s (fun s' => getCore s' t = c.advance ∧ s'.st = s1.st ∧
      (getCtx s' f.task.ctx).tserr = BitVec.ofNat 64 (2 ^ 63 + e.toNat)) := ⟨_, hx, softRefuse_leaves hc hr e⟩

/-- A form that ends in a write of its core leaves the rest of the state in which it does so. -/
theorem answers_setCore {i : Instr} {s1 : State} {c1 : Core} (hx : exec i s = .next (setCore s1 t c1)) :
    Answers i s (fun s' => OnlyCore s1 s' t ∧ getCore s' t = c1) :=
  ⟨_, hx, onlyCore_setCore s1 t c1, getCore_setCore s1 t c1⟩

end

/-! ### Fields of registers -/

/-- The upper half of a word, once written (R9). -/
theorem bitsOf_withBits_upper (w : Word) (x : Nat) : bitsOf (withBits w 63 32 x) 63 32 = x % 2 ^ 32 := by
  have hw : w.toNat < 2 ^ 64 := w.isLt
  simp only [withBits, bitsOf, BitVec.toNat_ofNat, Nat.shiftRight_eq_div_pow]
  omega

@[simp] theorem getCore_windowsTo (s : State) (ctx : Nat) (t : Tid) : getCore (windowsTo s ctx) t = getCore s t := rfl

/-- TOTAL of a numeric counter that EVRD clears is 0 (R192, R305). -/
theorem necnt_total_cleared (l : List Word) {k : Nat} (hk : k < l.length) :
    bitsOf (nth 0 (setNth l k (withBits (nth 0 l k) 63 32 0)) k) 63 32 = 0 := by
  rw [nth_setNth 0 l k k _ hk, if_pos rfl, bitsOf_withBits_upper, Nat.zero_mod]

/-- A watchpoint pair that passes its checks stands in the context's register (R306). -/
theorem wptCommit_ok {s : State} {ctx w : Nat} {ia ctl : Word} (h : wptBad ia ctl = false) :
    wptCommit s ctx w ia ctl = .ok (setCtx s ctx { getCtx s ctx with wpts := setNth (getCtx s ctx).wpts w (ia, ctl) }) := by
  rw [wptCommit, h, if_neg Bool.false_ne_true]

/-! ### The return (R410) -/

/-- The core g of a firing that has returned through a frame with words w: its registers, PC and replay entries, and numbers for
these from id up; NOINS is set where an entry met PURITY (R410, R419). -/
def returnedCore (g : Core) (w : List Word) (rep : List Access) (id : Nat) : Core :=
  { g.withFiring (fun f => { f with task := { f.task with noins := f.task.noins || rep.any Access.impure } }) with
    regs := 0 :: (w.drop 9).take 31, pc := nth 0 w 1, sys := false, unfin := (splitForm rep).1, replay := (splitForm rep).2,
    staged := [], nextId := id }

/-- The firing comes back as it was where no entry met PURITY. -/
theorem returnedCore_run (g : Core) (w : List Word) {rep : List Access} (id : Nat) (h : rep.any Access.impure = false) :
    (returnedCore g w rep id).run = g.run := by
  simp only [returnedCore, Core.withFiring, h, Bool.or_false]
  exact Option.map_id'

/-! ### The forms -/

section
variable {s : State} {t : Tid} {c : Core} {f : Firing} (hrun : Runs s t c f)
include hrun

theorem exec_trap (n : BitVec 6) : exec (.trap n) s =
    .next (takeTrap s t (BitVec.ofNat 10 (0x3C0 + n.toNat)) true (c.pc + 4) (n.setWidth 64) 0) := by
  have hn : Cause.trap0 + BitVec.ofNat 10 n.toNat = BitVec.ofNat 10 (0x3C0 + n.toNat) := (BitVec.ofNat_add _ _).symm
  exact exec_of_runs hrun (show _ = execTrap n s from rfl) (by rw [hn])

theorem exec_nop : exec .nop s = .next (setCore s t c.advance) := exec_of_runs hrun (show _ = execNop s from rfl) rfl

theorem exec_time {d : Reg} (hd : c.ready [d] = true) :
    exec (.time d) s = .next (setCore s t (c.setGpr d (BitVec.ofNat 64 s.clk.dtime)).advance) := by
  have ⟨ht, hc, hr, hh⟩ := hrun
  exact regOp_next (rs := []) (fun _ => BitVec.ofNat 64 s.clk.dtime) ht hc hr hh hd

/-- EVRD reads a counter whose window has ended where it had to, and clears TOTAL where asked (R305). -/
theorem exec_evrd {d : Reg} (hd : c.ready [d] = true) (k : BitVec 3) (clear : Bool) :
    exec (.evrd d clear k) s = .next (setCore
      (if clear then setCtx (windowsTo s f.task.ctx) f.task.ctx { getCtx (windowsTo s f.task.ctx) f.task.ctx with
        necnt := setNth (getCtx (windowsTo s f.task.ctx) f.task.ctx).necnt k.toNat
          (withBits (nth 0 (getCtx (windowsTo s f.task.ctx) f.task.ctx).necnt k.toNat) 63 32 0) }
        else windowsTo s f.task.ctx) t
      (c.setGpr d (nth 0 (getCtx (windowsTo s f.task.ctx) f.task.ctx).necnt k.toNat)).advance) := by
  refine exec_of_runs hrun (show _ = execEvrd d clear k s from rfl) ?_
  simp only [hd, Bool.not_true, Bool.false_eq_true, if_false]

theorem exec_halt (hs : c.sys = true) : exec .halt s =
    .next (hostEvent (setCore s t { c with halted := true }) 0 f.task.ctx f.task.launch (tselOf t) 0) :=
  exec_of_runs hrun (show _ = execHalt s from rfl) (needSys_of_sys hs _)

theorem exec_wpt {a b : Reg} {w : BitVec 6} (hs : c.sys = true) (hd : c.ready [a, b] = true)
    (hw : wptBad (c.gpr a) (c.gpr b) = false) : exec (.wpt a b w) s = .next (setCore (setCtx s f.task.ctx
      { getCtx s f.task.ctx with wpts := setNth (getCtx s f.task.ctx).wpts w.toNat (c.gpr a, c.gpr b) }) t c.advance) := by
  refine exec_of_runs hrun (show _ = execWpt a b w s from rfl) ?_
  simp only [hd, needSys_of_sys hs, wptCommit_ok hw, Bool.not_true, Bool.false_eq_true, if_false]

section
variable (hs : c.sys = true) (hu : c.unfin = [])
include hs hu

/-- RETT without a frame (R410, R412). -/
theorem exec_rett_unframed (h0 : c.frame = 0) : exec .rett s = .next (softRefuse s t Cause.trapcfg) := by
  refine exec_of_runs hrun (show _ = execRett s from rfl) ?_
  simp only [needSys_of_sys hs, returnFromTrap, hu, h0, List.isEmpty_nil, Bool.not_true, Bool.false_eq_true, if_false, if_true]

section
variable {bs : List Byte} {s1 : State} (h0 : c.frame ≠ 0)
  (hread : readVA s { coreWho t f (syncKey t) with force := true } c.frame 1024 = (.ok bs, s1))
include h0 hread

/-- RETT through a frame whose V is clear (R410, R412). -/
theorem exec_rett_invalid (hv : bitOf (nth 0 (wordsOf 128 bs) 0) 63 = false) :
    exec .rett s = .next (softRefuse s1 t Cause.trapcfg) := by
  refine exec_of_runs hrun (show _ = execRett s from rfl) ?_
  simp only [needSys_of_sys hs, returnFromTrap, hu, h0, hread, hv, List.isEmpty_nil, Bool.not_true, Bool.not_false,
    Bool.false_eq_true, if_false, if_true]

/-- RETT through a valid frame, whose V it clears (R410). -/
theorem exec_rett_valid {cs : List Byte} {rep : List Access} {s2 s3 : State} (hv : bitOf (nth 0 (wordsOf 128 bs) 0) 63 = true)
    (hpure : pureReplay s1 c f (coreWho t f (syncKey t)) (replayList s1 t f ((wordsOf 128 bs).drop 40)
      (min 16 (bitsOf (nth 0 (wordsOf 128 bs) 0) 20 16)) c.nextId) = (.ok rep, s2))
    (hwrite : writeVA s2 { coreWho t f (syncKey t) with force := true } c.frame
      (bytesOf 8 ((nth 0 (wordsOf 128 bs) 0).toNat % 2 ^ 63)) = (.ok cs, s3)) :
    exec .rett s = .next (setCore s3 t (returnedCore (getCore s3 t) (wordsOf 128 bs) rep (c.nextId + 16))) := by
  -- the entries are checked with the firing's own rights, not with those that reach the frame
  have hwho : ({ { coreWho t f (syncKey t) with force := true } with force := false } : Who) = coreWho t f (syncKey t) := rfl
  refine exec_of_runs hrun (show _ = execRett s from rfl) ?_
  simp only [needSys_of_sys hs, returnFromTrap, hu, h0, hread, hv, hwho, hpure, hwrite, List.isEmpty_nil, Bool.not_true,
    Bool.false_eq_true, if_false]
  rfl

end
end
end

/-! ### O12 -/

/-- Settles O12: each form by what it makes of its core; RETT by the frame that it finds. -/
theorem systemForms : Obligations.SystemForms := by
  unfold Obligations.SystemForms
  intro s t c f hrun
  have ⟨_, hc, hr, _⟩ := hrun
  refine ⟨exec_trap hrun, answers_setCore (exec_nop hrun), fun d hd => answers_setCore (exec_time hrun hd), ?evrd, ?halt, ?wpt,
    ?rett, fun hs hu h0 => answers_softRefuse hc hr (exec_rett_unframed hrun hs hu h0),
    fun bs s1 hs hu h0 hread hv hc1 => answers_softRefuse hc1 hr (exec_rett_invalid hrun hs hu h0 hread hv)⟩
  case evrd =>
    intro d k clear hd hlen
    refine ⟨_, exec_evrd hrun hd k clear, getCore_setCore _ _ _, by cases clear <;> rfl, ?_⟩
    rintro rfl
    simp only [getCtx_setCore, if_true, getCtx_setCtx]
    exact necnt_total_cleared _ (hlen ▸ k.isLt)
  case halt => exact fun hs => ⟨_, exec_halt hrun hs, getCore_setCore s t _, rfl, rfl⟩
  case wpt =>
    intro a b w hs hd hw hbad hlen
    refine ⟨_, exec_wpt hrun hs hd hbad, getCore_setCore _ _ _, rfl, ?_⟩
    rw [getCtx_setCore, getCtx_setCtx, nth_setNth _ _ _ _ _ (hlen ▸ hw), if_pos rfl]
  case rett =>
    intro bs cs rep s1 s2 s3 hs hu h0 hread hv hpure hwrite
    refine ⟨_, exec_rett_valid hrun hs hu h0 hread hv hpure hwrite, onlyCore_setCore _ _ _, ?_⟩
    rw [getCore_setCore]
    exact ⟨rfl, rfl, rfl, returnedCore_run _ _ _, rfl, rfl⟩

/-! ### O13 -/

/-- Settles O13: in user state each of the four forms takes PRIV, WPT and RFILL once their registers are ready. -/
theorem privilegedForms : Obligations.PrivilegedForms := by
  unfold Obligations.PrivilegedForms
  intro s t c f hrun hu
  have takesPriv {a b : Reg} {k : State} (hd : c.ready [a, b] = true) :
      (if !c.ready [a, b] then s else needSys s t c k) = trapOpen s t Cause.priv := by
    rw [hd, Bool.not_true, if_neg Bool.false_ne_true, needSys_of_user hu]
  exact ⟨trapsOpen_of_exec (exec_of_runs hrun (show _ = execRett s from rfl) (needSys_of_user hu _)),
    trapsOpen_of_exec (exec_of_runs hrun (show _ = execHalt s from rfl) (needSys_of_user hu _)),
    fun a b w hd => trapsOpen_of_exec (exec_of_runs hrun (show _ = execWpt a b w s from rfl) (takesPriv hd)),
    fun a b hd => trapsOpen_of_exec (exec_of_runs hrun (show _ = execRfill a b s from rfl) (takesPriv hd))⟩

end Sys2Proof.Machine
end

section
/-! PROOF. SPAWN, SIG, SIGE, PRIO and TDECL (R202, R278, R279, R282, R283). -/
namespace Sys2Proof.Machine
open Sys2Proof.Claims

/-! ### The firing of a core -/

/-- A core that runs f runs what a change makes of f. -/
theorem withFiring_running {c : Core} {f : Firing} (hr : c.run = some f) (g : Firing → Firing) :
    c.withFiring g = { c with run := some (g f) } := by rw [Core.withFiring, hr]; rfl

/-- The state in which a SPAWN has stamped its record: the launch counts one live record more, and the form has ended (R278). -/
def spawned (s : State) (t : Tid) (lid : Nat) : State :=
  setCore (updLaunch s lid (fun l => { l with live := l.live + 1 })) t (getCore s t).finish

section
variable {s : State} {t : Tid} {c : Core} {f : Firing} (hrun : Runs s t c f)
include hrun

/-! ### SPAWN (R278) -/

section
variable {a : Reg} {w45 old : List Byte} {s0 s1 : State} (hp : mayImpure c f = true) (hd : c.ready [a] = true)
  (hal : (c.opA a).toNat % 64 = 0) (hpkg : c.allPkg = true)
  (hread : readVA s (coreWho t f (syncKey t)) (c.opA a + 32) 16 = (.ok w45, s0))
  (hstamp : rmwVA s0 (coreWho t f (syncKey t)) (c.opA a + 40) 8 true [34, f.task.launch, f.task.ctx]
    (fun o => bytesOf 8 (placeWord (ofBytes o) f.task.launch f.task.ctx)) = (.ok old, s1))
include hp hd hal hpkg hread hstamp

/-- SPAWN of a record that still waits for signals. -/
theorem exec_spawn_joins (hj : ofBytes (w45.take 8) % 2 ^ 24 ≠ 0) :
    exec (.spawn a) s = .next (spawned s1 t f.task.launch) := by
  refine exec_of_runs hrun (show _ = execSpawn a s from rfl) ?_
  simp only [hd, notPure_of_mayImpure hp, hal, hpkg, hread, hstamp, hj, Bool.not_true, Bool.false_eq_true, ne_eq,
    not_true_eq_false, not_false_eq_true, if_false, if_true]
  rfl

/-- SPAWN of a record whose JOIN is 0 enqueues it. -/
theorem exec_spawn_due {s3 : State} (hj : ofBytes (w45.take 8) % 2 ^ 24 = 0)
    (hq : enqueueDue (spawned s1 t f.task.launch) (c.opA a) f.task.ctx
      (BitVec.ofNat 64 (placeWord (ofBytes (w45.drop 8)) f.task.launch f.task.ctx)) = some s3) :
    exec (.spawn a) s = .next s3 := by
  refine exec_of_runs hrun (show _ = execSpawn a s from rfl) ?_
  rw [spawned] at hq
  simp only [hd, notPure_of_mayImpure hp, hal, hpkg, hread, hstamp, hj, getCore_updLaunch, hq, Bool.not_true, Bool.false_eq_true,
    ne_eq, not_true_eq_false, if_false]

end

/-! ### SIG and SIGE (R202, R279) -/

section
variable {a : Reg} (hd : c.ready [a] = true) (hal : (c.gpr a).toNat % 64 = 0)
include hd hal

theorem exec_sig_room (hlen : f.task.sigs.length < 16) : exec (.sig a) s = .next (setCore s t { c with
    pc := c.pc + 4, run := some { f with task := { f.task with sigs := f.task.sigs ++ [c.gpr a] } } }) := by
  have ⟨_, _, hr, _⟩ := hrun
  refine exec_of_runs hrun (show _ = execSig a s from rfl) ?_
  simp only [hd, hal, Nat.not_le.2 hlen, withFiring_running hr, Bool.not_true, Bool.false_eq_true, ne_eq, not_true_eq_false,
    if_false]
  rfl

theorem exec_sig_full (hlen : 16 ≤ f.task.sigs.length) : exec (.sig a) s = .next (trapOpen s t Cause.sigfull) := by
  refine exec_of_runs hrun (show _ = execSig a s from rfl) ?_
  simp only [hd, hal, hlen, Bool.not_true, Bool.false_eq_true, ne_eq, not_true_eq_false, if_false, if_true]

/-- SIGE of an address sends the signal, marks the firing EARLY and takes the address from the held set (R279). -/
theorem exec_sigeAddress (hpkg : c.allPkg = true) :
    exec (.sigeAddress a) s = .next (setCore (sendSignal s (c.gpr a) f.task t) t { c with
      pc := c.pc + 4, run := some { f with
        early := true, task := { f.task with sigs := dropFirst (c.gpr a) f.task.sigs } } }) := by
  have ⟨_, _, hr, _⟩ := hrun
  refine exec_of_runs hrun (show _ = execSigeAddress a s from rfl) ?_
  simp only [hd, hal, hpkg, withFiring_running hr, Bool.not_true, Bool.false_eq_true, ne_eq, not_true_eq_false, if_false]
  rfl

end

/-- SIGE of a list entry not yet sent sends its signal and marks the entry as sent (R279). -/
theorem exec_sigeEntry_unsent {j : BitVec 6} {l : List Word} {s1 : State} (hpkg : c.allPkg = true)
    (hlist : succList s (coreWho t f (syncKey t)) f.task.hdr = (.ok l, s1)) (hc1 : getCore s1 t = c)
    (hj : j.toNat < l.length) (hsent : bitOf f.sent j.toNat = false) :
    exec (.sigeEntry j) s = .next (setCore (sendSignal s1 (entryCR (nth 0 l j.toNat)) f.task t) t
      { c with run := some { f with early := true, sent := withBits f.sent j.toNat j.toNat 1 } }.finish) := by
  have ⟨_, _, hr, _⟩ := hrun
  have hc2 : getCore (sendSignal s1 (entryCR (nth 0 l j.toNat)) f.task t) t = c := hc1
  refine exec_of_runs hrun (show _ = execSigeEntry j s from rfl) ?_
  simp only [hpkg, hlist, Nat.not_le.2 hj, hsent, hc2, withFiring_running hr, Bool.not_true, Bool.false_eq_true, or_self,
    if_false]

/-! ### PRIO and TDECL (R282, R283) -/

theorem exec_prio {l : Launch} (hl : findLaunch s f.task.launch = some l) (k : BitVec 6) :
    exec (.prio k) s = .next (setCore s t { c with pc := c.pc + 4, run := some { f with prio := max k.toNat l.cls } }) := by
  have ⟨_, _, hr, _⟩ := hrun
  refine exec_of_runs hrun (show _ = execPrio k s from rfl) ?_
  simp only [hl, withFiring_running hr]
  rfl

section
variable {a : Reg} (hd : c.ready [a] = true)
include hd

/-- TDECL settles the claims of the old list and installs the new one (R283). -/
theorem exec_tdecl (hpure : crPure f.task.hdr = false) (hcan : canonical (c.gpr a) = true) (hal : (c.gpr a).toNat % 16 = 0)
    (hpkg : c.allPkg = true) (hc1 : getCore (settleClaims s f.task.ctx true f.task.claims) t = c) :
    exec (.tdecl a) s = .next (setCore (settleClaims s f.task.ctx true f.task.claims) t { c with
      pc := c.pc + 4, run := some { f with tiles := c.gpr a, task := { f.task with claims := [] } } }) := by
  have ⟨_, _, hr, _⟩ := hrun
  refine exec_of_runs hrun (show _ = execTdecl a s from rfl) ?_
  simp only [hd, hpure, hcan, hal, hpkg, hc1, withFiring_running hr, Bool.not_true, Bool.false_eq_true, ne_eq,
    not_true_eq_false, if_false]
  rfl

theorem exec_tdecl_pure (hpure : crPure f.task.hdr = true) :
    exec (.tdecl a) s = .next (trapOpen s t Cause.tdeclbad) := by
  refine exec_of_runs hrun (show _ = execTdecl a s from rfl) ?_
  simp only [hd, hpure, Bool.not_true, Bool.false_eq_true, if_false, if_true]

end
end

/-! ### O14 -/

/-- Settles O14: each form by what it makes of the record, the signals and the firing. -/
theorem taskForms : Obligations.TaskForms := by
  unfold Obligations.TaskForms
  intro s t c f hrun
  refine ⟨?spawn, fun a hd hal hlen => answers_setCore (exec_sig_room hrun hd hal hlen),
    fun a hd hal hlen => trapsOpen_of_exec (exec_sig_full hrun hd hal hlen), ?sigeAddress, ?sigeEntry,
    fun k l hl => answers_setCore (exec_prio hrun hl k),
    fun a hd hpure hcan hal hpkg hc1 => answers_setCore (exec_tdecl hrun hd hpure hcan hal hpkg hc1),
    fun a hd hpure => trapsOpen_of_exec (exec_tdecl_pure hrun hd hpure)⟩
  case spawn =>
    exact fun a w45 old s0 s1 hp hd hal hpkg hread hstamp => ⟨exec_spawn_joins hrun hp hd hal hpkg hread hstamp,
      fun s3 => exec_spawn_due hrun hp hd hal hpkg hread hstamp⟩
  case sigeAddress =>
    exact fun a hd hal hpkg => ⟨_, exec_sigeAddress hrun hd hal hpkg, rfl, rfl, rfl, getCore_setCore _ _ _⟩
  case sigeEntry =>
    exact fun j l s1 hpkg hlist hc1 hj hsent =>
      ⟨_, exec_sigeEntry_unsent hrun hpkg hlist hc1 hj hsent, rfl, rfl, getCore_setCore _ _ _⟩

end Sys2Proof.Machine
end

section
/-! PROOF. CFGE, CFGS, CFGO and CFGK (R13, R285 to R287): one argument for the four loaders, which differ in the kinds they load. -/
namespace Sys2Proof.Machine
open Sys2Proof.Claims

/-- The entries of a block that a loader takes, with their numbers: those of the body, then the ingress entries (R287). -/
def cfgChosen (h : CfgHead) (which g : Nat) (items : List CfgItem) : List (CfgItem × Nat) :=
  (items.zipIdx ++ (maskBits 8 h.ing).map (fun j => (CfgItem.ing j (nth 0 h.ingw j), 0x100 + j))).filter
    (fun x => wants which g x.1)

/-- A refusal of a loader traps at the pc of its core (R287). -/
theorem cfgRefuse_eq_takeTrap {s : State} {t : Tid} {c : Core} (hc : getCore s t = c) (e : Cause) (va idx : Word) :
    cfgRefuse s t e va idx = takeTrap s t e true c.pc va idx := by subst hc; rfl

/-- The selected entries of a block are all loaded. -/
theorem cfgLoad_loaded {s s3 : State} {t u : Tid} {f : Firing} {which g : Nat} {va : Word} {h : CfgHead} {items : List CfgItem}
    (hl : loadItems (joinSection s (secKey f.task.ctx h.sect) u f.task.launch) f.task.ctx u (cfgChosen h which g items) =
      (s3, none)) : cfgLoad s t f which g va h u items = setCore s3 t (getCore s3 t).finish := by
  rw [cfgChosen] at hl
  simp only [cfgLoad, hl]

/-- The four loaders by the number of their kind (R287). -/
theorem exec_loader {i : Instr} {a b : Reg} {which : Nat} (s : State)
    (hi : (i, which) = (.cfge a b, 0) ∨ (i, which) = (.cfgs a b, 1) ∨ (i, which) = (.cfgo a b, 2) ∨ (i, which) = (.cfgk a b, 3)) :
    exec i s = cfgForm s a b which := by
  rcases hi with hi | hi | hi | hi <;> cases hi <;> rfl

/-- A fallow tile refuses what CFGE and CFGK load (R13; log 125). -/
def fallowBad (s : State) (u : Tid) (which : Nat) : Bool := s.boot.fallow.contains u && (which == 0 || which == 3)

section
variable {s : State} {t : Tid} {c : Core} {f : Firing} {a b : Reg} {which : Nat} {i : Instr} (hrun : Runs s t c f)
  (hx : exec i s = cfgForm s a b which) (hp : mayImpure c f = true) (hd : c.ready [a, b] = true)
include hrun hx hp hd

theorem loader_misaligned (hal : (c.opA a).toNat % 64 ≠ 0) :
    exec i s = .next (takeTrap s t Cause.opalign true c.pc (c.opA a) 0) := by
  have ⟨_, hc, _, _⟩ := hrun
  refine exec_of_runs hrun hx ?_
  simp only [hd, notPure_of_mayImpure hp, hal, ne_eq, not_false_eq_true, Bool.not_true, Bool.false_eq_true, if_false, if_true,
    trapHere, hc]

section
variable {hb : List Byte} {s1 : State} (hal : (c.opA a).toNat % 64 = 0)
  (hmay : formReads s c (coreWho t f (syncKey t)) (c.opA a) 64 = true)
  (hread : readVA s (coreWho t f (syncKey t)) (c.opA a) 64 = (.ok hb, s1)) (hc1 : getCore s1 t = c)
include hal hmay hread

section
include hc1

/-- A loader whose block names a tile that R285 does not accept. -/
theorem loader_tile_refused (hsel : selTile s1 f.task.launch (cfgHead (wordsOf 8 hb)).tsel = none) :
    exec i s = .next (takeTrap s1 t Cause.cfgblk true c.pc (c.opA a) (BitVec.allOnes 64)) := by
  refine exec_of_runs hrun hx ?_
  simp only [hd, notPure_of_mayImpure hp, hal, hmay, hread, hsel, ne_eq, not_true_eq_false, Bool.not_true,
    Bool.false_eq_true, if_false, cfgRefuse_eq_takeTrap hc1]

/-- A loader whose block's header is refused for its tile (R286; log 125). -/
theorem loader_head_refused {u : Tid} (hsel : selTile s1 f.task.launch (cfgHead (wordsOf 8 hb)).tsel = some u)
    (hbad : (headBad (cfgHead (wordsOf 8 hb)) u || fallowBad s1 u which) = true) :
    exec i s = .next (takeTrap s1 t Cause.cfgblk true c.pc (c.opA a) (BitVec.allOnes 64)) := by
  refine exec_of_runs hrun hx ?_
  rw [fallowBad] at hbad
  simp only [hd, notPure_of_mayImpure hp, hal, hmay, hread, hsel, hbad, ne_eq, not_true_eq_false, Bool.not_true,
    Bool.false_eq_true, if_false, if_true, cfgRefuse_eq_takeTrap hc1]

end

/-- A loader whose block passes every check goes on with its entries loaded (R287). -/
theorem loader_loads {u : Tid} {body : List Byte} {s2 s3 : State} {items : List CfgItem}
    (hsel : selTile s1 f.task.launch (cfgHead (wordsOf 8 hb)).tsel = some u)
    (hgood : (headBad (cfgHead (wordsOf 8 hb)) u || fallowBad s1 u which) = false)
    (hmay1 : formReads s1 c (coreWho t f (syncKey t)) (c.opA a + 64) (cfgBodyBytes (cfgHead (wordsOf 8 hb))) = true)
    (hbody : readApart s1 (coreWho t f (syncKey t)) (c.opA a + 64) (cfgBodyBytes (cfgHead (wordsOf 8 hb))) = (.ok body, s2))
    (hits : cfgItems (cfgHead (wordsOf 8 hb)) body = (items, true))
    (hg : selectBad (cfgHead (wordsOf 8 hb)) which (c.opB b).toNat = false) (hbusy : tileBusy s2 u = false)
    (hsec : (getSec s2 (secKey f.task.ctx (cfgHead (wordsOf 8 hb)).sect)).state.isBusy = false)
    (hl : loadItems (joinSection s2 (secKey f.task.ctx (cfgHead (wordsOf 8 hb)).sect) u f.task.launch) f.task.ctx u
      (cfgChosen (cfgHead (wordsOf 8 hb)) which (c.opB b).toNat items) = (s3, none)) :
    exec i s = .next (setCore s3 t (getCore s3 t).finish) := by
  refine exec_of_runs hrun hx ?_
  rw [fallowBad] at hgood
  simp only [hd, notPure_of_mayImpure hp, hal, hmay, hread, hsel, hgood, hmay1, hbody, hits, hg, hbusy, hsec, cfgLoad_loaded hl,
    ne_eq, not_true_eq_false, Bool.not_true, Bool.or_self, Bool.false_eq_true, if_false]

end
end

/-! ### O16 -/

/-- Settles O16: the loader by what it finds, in the order in which it looks. -/
theorem loaderForms : Obligations.LoaderForms := by
  unfold Obligations.LoaderForms
  intro s t c f a b which i hrun hi hp hd
  have hx := exec_loader s hi
  refine ⟨loader_misaligned hrun hx hp hd, fun hb s1 hal hmay hread hc1 =>
    ⟨loader_tile_refused hrun hx hp hd hal hmay hread hc1, ?refused, ?loads⟩⟩
  case refused =>
    intro u hsel hbad
    refine loader_head_refused hrun hx hp hd hal hmay hread hc1 hsel ?_
    simpa [fallowBad] using hbad
  case loads =>
    intro u body s2 s3 items hsel hgood hfallow hmay1 hbody _ hits hg hbusy hsec hl
    have hf : fallowBad s1 u which = false := by
      rcases hfallow with h | rfl | rfl
      · rw [fallowBad, h, Bool.false_and]
      · exact Bool.and_false _
      · exact Bool.and_false _
    exact loader_loads hrun hx hp hd hal hmay hread hsel (by rw [hgood, hf]; rfl) hmay1 hbody hits hg hbusy hsec hl

end Sys2Proof.Machine
end

section
/-! PROOF. STRM, SSTOP, SEAL and TAPSET (R285, R291, R293). -/
namespace Sys2Proof.Machine
open Sys2Proof.Claims

section
variable {s : State} {t : Tid} {c : Core} {f : Firing} {sel : Word} {m : Tid}
  (hm : selTile s f.task.launch sel.toNat = some m)
include hm

/-- A selector that names a memory or headland tile lets the form run there (R285, R291). -/
theorem withGenTile_named (hk : (isMem m || isHead m) = true) (k : Tid → State) : withGenTile s t f sel k = k m := by
  simp only [withGenTile, hm, hk, if_true]

/-- The operator unit that a selector and a number name is of the form's kind (R293). -/
theorem withUnit_kind {u kind : Nat} (hk : recKind (getUnit s m u).recd = kind) (k : Tid → OpUnit → State) :
    withUnit s t f sel u kind k = k m (getUnit s m u) := by
  simp only [withUnit, hm]
  exact if_pos hk

/-- The operator unit is of another kind (R293). -/
theorem withUnit_other {u kind : Nat} (hk : recKind (getUnit s m u).recd ≠ kind) (k : Tid → OpUnit → State) :
    withUnit s t f sel u kind k = trapOpen s t Cause.opstate := by
  simp only [withUnit, hm]
  exact if_neg hk

end

/-- A generator that holds no access has no coordinate token to lose (R291). -/
theorem dropHeldCoord_unheld {s : State} {m : Tid} {g : Gen} (h : ∀ x, g.run = some x → x.held = none) :
    dropHeldCoord s m g = s := by
  unfold dropHeldCoord
  cases hr : g.run with
  | none => rfl
  | some x => simp only [h x hr]

/-- A stream that holds no access is told to stop, and nothing else of it changes (R291). -/
theorem Stream.stop_unheld {x : Stream} (h : x.held = none) : x.stop = { x with stopping := true } := by
  rw [Stream.stop, h]

section
variable {s : State} {t : Tid} {c : Core} {f : Firing} {a : Reg} {n : BitVec 6} {m : Tid} (hrun : Runs s t c f)
  (hp : mayImpure c f = true) (hm : selTile s f.task.launch (c.gpr a).toNat = some m)
include hrun hp hm

section
variable (hd : c.ready [a] = true)
include hd

section
variable (hk : (isMem m || isHead m) = true)
include hk

/-- STRM of an idle generator with a record starts its stream, and the firing keeps its number (R291). -/
theorem exec_strm_starts (hw : (getGen s m n.toNat).words ≠ []) (hr : (getGen s m n.toNat).run = none)
    (ht : tileRunning s m = false) (hpkg : c.allPkg = true) : exec (.strm a n) s =
      .next (setCore (setGen (dropTorn s (genAgent m n.toNat)) m n.toNat { getGen s m n.toNat with
        run := some (Stream.start (getGen s m n.toNat).words f.task.ctx f.task.launch none (some (t, f.task.rid)) 0) }) t
        (c.withFiring (fun f => { f with gens := f.gens ++ [m * 4 + n.toNat] })).advance) := by
  refine exec_of_runs hrun (show _ = execStrm a n s from rfl) ?_
  simp only [hd, notPure_of_mayImpure hp, withGenTile_named hm hk, List.isEmpty_eq_false_iff.2 hw, hr, ht, hpkg,
    Option.isSome_none, Bool.or_self, Bool.not_true, Bool.false_eq_true, if_false]

/-- STRM of a generator that runs (R291). -/
theorem exec_strm_running (hr : (getGen s m n.toNat).run ≠ none) :
    exec (.strm a n) s = .next (trapOpen s t Cause.genstate) := by
  refine exec_of_runs hrun (show _ = execStrm a n s from rfl) ?_
  simp only [hd, notPure_of_mayImpure hp, withGenTile_named hm hk, Option.isSome_iff_ne_none.2 hr, Bool.or_true, Bool.true_or,
    Bool.not_true, Bool.false_eq_true, if_false, if_true]

/-- SSTOP of a generator that holds no access tells its stream, if it has one, to stop (R291). -/
theorem exec_sstop_unheld (hh : ∀ x, (getGen s m n.toNat).run = some x → x.held = none) : exec (.sstop a n) s =
    .next (setCore (setGen s m n.toNat { getGen s m n.toNat with run := (getGen s m n.toNat).run.map Stream.stop }) t
      c.advance) := by
  refine exec_of_runs hrun (show _ = execSstop a n s from rfl) ?_
  simp only [hd, notPure_of_mayImpure hp, withGenTile_named hm hk, dropHeldCoord_unheld hh, Bool.not_true, Bool.false_eq_true,
    if_false]

end

/-- SEAL of a sealing unit that has not ended asks it to end (R293, R356). -/
theorem exec_seal_asks (hk : recKind (getUnit s m n.toNat).recd = 11) (he : (getUnit s m n.toNat).eosA = false) :
    exec (.seal a n) s = .next (setCore (setUnit s m n.toNat { getUnit s m n.toNat with sealReq := true }) t c.advance) := by
  refine exec_of_runs hrun (show _ = execSeal a n s from rfl) ?_
  simp only [hd, notPure_of_mayImpure hp, withUnit_kind hm hk, he, Bool.not_true, Bool.false_eq_true, if_false]

theorem exec_seal_other (hk : recKind (getUnit s m n.toNat).recd ≠ 11) :
    exec (.seal a n) s = .next (trapOpen s t Cause.opstate) := by
  refine exec_of_runs hrun (show _ = execSeal a n s from rfl) ?_
  simp only [hd, notPure_of_mayImpure hp, withUnit_other hm hk, Bool.not_true, Bool.false_eq_true, if_false]

end

/-- TAPSET of a tapping unit at a well-formed identifier (R112, R293). -/
theorem exec_tapset_unit {b : Reg} (hd : c.ready [a, b] = true) (hb : barMalformed (c.gpr b).toNat = false)
    (hk : recKind (getUnit s m n.toNat).recd = 10) : exec (.tapset a b n) s = .next (setCore (setUnit s m n.toNat
      { getUnit s m n.toNat with recd := withBits (getUnit s m n.toNat).recd 63 32 (c.gpr b).toNat }) t c.advance) := by
  refine exec_of_runs hrun (show _ = execTapset a b n s from rfl) ?_
  simp only [hd, notPure_of_mayImpure hp, hb, withUnit_kind hm hk, Bool.not_true, Bool.false_eq_true, if_false]

end

/-! ### O19 -/

/-- Settles O19: each form by the generator or the operator unit that its selector names. -/
theorem streamForms : Obligations.StreamForms := by
  unfold Obligations.StreamForms
  intro s t c f a n m hrun hp hd hm
  refine ⟨?starts, fun hk hr => trapsOpen_of_exec (exec_strm_running hrun hp hm hd hk hr), ?idle, ?stops, ?asks,
    fun hk => trapsOpen_of_exec (exec_seal_other hrun hp hm hd hk), ?identifier⟩
  case starts =>
    intro hk hw hr ht hpkg
    refine ⟨_, exec_strm_starts hrun hp hm hd hk hw hr ht hpkg, rfl, ?_, ?_⟩
    · rw [getCore_setCore]; rfl
    · rw [getGen_setCore, getGen_setGen]
  case idle =>
    intro hk hr
    refine ⟨_, exec_sstop_unheld hrun hp hm hd hk (by simp [hr]), rfl, getCore_setCore _ _ _, ?_⟩
    rw [getGen_setCore, getGen_setGen, hr]; rfl
  case stops =>
    intro x hk hr hh
    have hheld : ∀ y, (getGen s m n.toNat).run = some y → y.held = none := fun y hy => by
      rw [hr] at hy; cases hy; exact hh
    refine ⟨_, exec_sstop_unheld hrun hp hm hd hk hheld, rfl, getCore_setCore _ _ _, ?_⟩
    rw [getGen_setCore, getGen_setGen, hr, Option.map_some, Stream.stop_unheld hh]
  case asks =>
    intro hk he
    refine ⟨_, exec_seal_asks hrun hp hm hd hk he, rfl, getCore_setCore _ _ _, ?_⟩
    exact congrArg OpUnit.sealReq (getUnit_setUnit _ _ _ _)
  case identifier =>
    intro b hd2 hb hk
    refine ⟨_, exec_tapset_unit hrun hp hm hd2 hb hk, rfl, getCore_setCore _ _ _, ?_⟩
    exact (congrArg (fun x : OpUnit => bitsOf x.recd 63 32) (getUnit_setUnit _ _ _ _)).trans (bitsOf_withBits_upper _ _)

end Sys2Proof.Machine
end

section
/-! PROOF. CRD, CWR and RFILL (R276, R299, R307 to R310, R405, R412, R417). -/
namespace Sys2Proof.Machine
open Sys2Proof.Claims

/-! ### What a read leaves (R405) -/

@[simp] theorem getCore_crAfterRead (s : State) (ctx : Nat) (r : CrName) (t : Tid) :
    getCore (crAfterRead s ctx r) t = getCore s t := by cases r <;> rfl

/-- TSERR is cleared by its read (R405). -/
theorem crAfterRead_tserr (s : State) (ctx : Nat) : (getCtx (crAfterRead s ctx .tserr) ctx).tserr = 0 :=
  congrArg Ctx.tserr (getCtx_setCtx s ctx _)

/-- The context of a firing may have its handler write the register (R307, R308). -/
def mayWrite (s : State) (ctx : Nat) (r : CrName) : Prop :=
  r.writeBy = .sys ∨ r.writeBy = .pkg ∧ (getCtx s ctx).pkgp = true

/-! ### CRD and CWR -/

section
variable {s : State} {t : Tid} {c : Core} {f : Firing} {a b : Reg} {n : BitVec 6} (hrun : Runs s t c f)
  (hd : c.ready [a, b] = true)
include hrun hd

section
variable (hn : crName (c.gpr a + n.setWidth 64).toNat = none)
include hn

theorem exec_crd_unnamed : exec (.crd a b n) s = .next (trapOpen s t Cause.crnum) := by
  refine exec_of_runs hrun (show _ = execCrd a b n s from rfl) ?_
  simp only [hd, hn, Bool.not_true, Bool.false_eq_true, if_false]

theorem exec_cwr_unnamed :
    exec (.cwr a b n) s = .next (takeTrap s t Cause.crnum true c.pc (c.gpr a + n.setWidth 64) 0) := by
  have ⟨_, hc, _, _⟩ := hrun
  refine exec_of_runs hrun (show _ = execCwr a b n s from rfl) ?_
  simp only [hd, hn, Bool.not_true, Bool.false_eq_true, if_false, trapHere_eq_takeTrap hc]

end

section
variable {r : CrName} (hn : crName (c.gpr a + n.setWidth 64).toNat = some r)
include hn

/-- CRD of a register that the state of the core lets it read (R307, R308). -/
theorem exec_crd_reads {v : Word} (hu : r.userReads = true ∨ c.sys = true)
    (hv : crGet (windowsTo s f.task.ctx) f.task.ctx (selfWord (windowsTo s f.task.ctx) t c f) r = .ok v) :
    exec (.crd a b n) s =
      .next (setCore (crAfterRead (windowsTo s f.task.ctx) f.task.ctx r) t (c.setGpr b v).advance) := by
  have hpriv : (!r.userReads && !c.sys) = false := by rcases hu with h | h <;> simp [h]
  refine exec_of_runs hrun (show _ = execCrd a b n s from rfl) ?_
  simp only [hd, hn, hpriv, hv, Bool.not_true, Bool.false_eq_true, if_false]

/-- CRD in user state of a register that it may not read there (R276, R308). -/
theorem exec_crd_private (hu : r.userReads = false) (hs : c.sys = false) :
    exec (.crd a b n) s = .next (trapOpen s t Cause.priv) := by
  refine exec_of_runs hrun (show _ = execCrd a b n s from rfl) ?_
  simp only [hd, hn, hu, hs, Bool.and_self, Bool.not_true, Bool.not_false, Bool.false_eq_true, if_false, if_true]

/-- CWR in user state (R276). -/
theorem exec_cwr_user (hs : c.sys = false) :
    exec (.cwr a b n) s = .next (takeTrap s t Cause.priv true c.pc (c.gpr a + n.setWidth 64) 0) := by
  have ⟨_, hc, _, _⟩ := hrun
  refine exec_of_runs hrun (show _ = execCwr a b n s from rfl) ?_
  simp only [hd, hn, hs, Bool.not_true, Bool.not_false, Bool.false_eq_true, if_false, if_true, trapHere_eq_takeTrap hc]

/-- CWR in system state of a register that its context writes, other than THEND, applies the write (R307, R308). -/
theorem exec_cwr_applies (hs : c.sys = true) (ht : r ≠ .thend) (hw : mayWrite s f.task.ctx r) : exec (.cwr a b n) s =
    .next (cwrApply s t c f.task.ctx (c.gpr a + n.setWidth 64).toNat (c.gpr b) r) := by
  refine exec_of_runs hrun (show _ = execCwr a b n s from rfl) ?_
  simp only [hd, hn, hs, Bool.not_true, Bool.false_eq_true, if_false]
  rcases hw with hw | ⟨hw, hp⟩
  · simp only [hw, ht, if_false]
  · simp only [hw, hp, if_true]

end
end

/-- A write that passes its register's checks stages what it has to, and the handler goes on (R310). -/
theorem cwrApply_ok {s s1 : State} {t : Tid} {c : Core} {ctx k : Nat} {v : Word} {r : CrName}
    (h : crPut s ctx c.staged k v r = .ok s1) : cwrApply s t c ctx k v r = setCore s1 t { getCore s1 t with
      pc := (getCore s1 t).pc + 4, staged := crStage c.staged k v r } := by
  rw [cwrApply, h]; rfl

/-- A write that its register refuses is a soft refusal (R412). -/
theorem cwrApply_error {s : State} {t : Tid} {c : Core} {ctx k : Nat} {v : Word} {r : CrName} {e : Cause}
    (h : crPut s ctx c.staged k v r = .error e) : cwrApply s t c ctx k v r = softRefuse s t e := by
  rw [cwrApply, h]

/-! ### O24 -/

/-- Settles O24: CRD and CWR by the register that the map has for the number and by the state of the core. -/
theorem registerForms : Obligations.RegisterForms := by
  unfold Obligations.RegisterForms
  intro s t c f a b n hrun hd
  have ⟨_, hc, hr, _⟩ := hrun
  refine ⟨fun hn => ⟨trapsOpen_of_exec (exec_crd_unnamed hrun hd hn), exec_cwr_unnamed hrun hd hn⟩, ?reads,
    fun r hn hs => ⟨fun hu => trapsOpen_of_exec (exec_crd_private hrun hd hn hu hs), exec_cwr_user hrun hd hn hs⟩,
    ?writes, ?refused⟩
  case reads =>
    intro r v hn hu hv
    refine ⟨_, exec_crd_reads hrun hd hn hu hv, getCore_setCore _ _ _, by cases r <;> rfl, ?_⟩
    rintro rfl
    exact crAfterRead_tserr _ _
  case writes =>
    intro r s1 hn hs ht hw hput
    exact answers_setCore ((exec_cwr_applies hrun hd hn hs ht hw).trans (congrArg _ (cwrApply_ok hput)))
  case refused =>
    intro r e hn hs ht hw hput
    exact answers_softRefuse hc hr ((exec_cwr_applies hrun hd hn hs ht (.inl hw)).trans (congrArg _ (cwrApply_error hput)))

/-! ### RFILL (R299, R417) -/

/-- The entry of a context's retry ring that a VA names. -/
def ringIndex (s : State) (ctx : Nat) (va : Word) : Nat := (va - (getCtx s ctx).tring).toNat / 64

section
variable {s : State} {t : Tid} {c : Core} {f : Firing} {a b : Reg} (hrun : Runs s t c f) (hs : c.sys = true)
  (hd : c.ready [a, b] = true) (hal : (c.gpr a).toNat % 64 = 0)
include hrun hs hd hal

/-- RFILL of an entry that is not in use (R299). -/
theorem exec_rfill_unused (hu : ringBusy (getCtx s f.task.ctx) (ringIndex s f.task.ctx (c.gpr a)) = false) :
    exec (.rfill a b) s = .next (trapOpen s t Cause.ringbad) := by
  refine exec_of_runs hrun (show _ = execRfill a b s from rfl) ?_
  rw [ringIndex] at hu
  simp only [hd, needSys_of_sys hs, hal, hu, ne_eq, not_true_eq_false, or_true, Bool.not_true, Bool.false_eq_true, if_false,
    if_true]

section
variable (h0 : (getCtx s f.task.ctx).tring ≠ 0) (hin : (c.gpr a - (getCtx s f.task.ctx).tring).toNat < 65536)
  (hu : ringBusy (getCtx s f.task.ctx) (ringIndex s f.task.ctx (c.gpr a)) = true)
include h0 hin hu

/-- RFILL of a write's entry, with no bytes (R299). -/
theorem exec_rfill_write (hw : (getCtx s f.task.ctx).ringUsed.contains (2 * ringIndex s f.task.ctx (c.gpr a) + 1) = true)
    (hb : c.gpr b = 0) : exec (.rfill a b) s =
      .next (setCore (completeEntry s f.task.ctx (ringIndex s f.task.ctx (c.gpr a)) t []) t
        (getCore (completeEntry s f.task.ctx (ringIndex s f.task.ctx (c.gpr a)) t []) t).advance) := by
  refine exec_of_runs hrun (show _ = execRfill a b s from rfl) ?_
  rw [ringIndex] at hu hw
  simp only [hd, needSys_of_sys hs, hal, h0, Nat.not_le.2 hin, hu, hw, hb, ne_eq, not_true_eq_false, Bool.true_eq_false, or_self,
    Bool.not_true, Bool.false_eq_true, if_false, if_true]
  rfl

/-- RFILL of a read's entry, with the 64 bytes that it takes (R299). -/
theorem exec_rfill_read {bs : List Byte} {s1 : State}
    (hw : (getCtx s f.task.ctx).ringUsed.contains (2 * ringIndex s f.task.ctx (c.gpr a) + 1) = false)
    (hb : (c.gpr b).toNat % 64 = 0) (hmay : formReads s c (coreWho t f (syncKey t)) (c.gpr b) 64 = true)
    (hread : readVA s (coreWho t f (syncKey t)) (c.gpr b) 64 = (.ok bs, s1)) : exec (.rfill a b) s =
      .next (setCore (completeEntry s1 f.task.ctx (ringIndex s f.task.ctx (c.gpr a)) t bs) t
        (getCore (completeEntry s1 f.task.ctx (ringIndex s f.task.ctx (c.gpr a)) t bs) t).advance) := by
  refine exec_of_runs hrun (show _ = execRfill a b s from rfl) ?_
  rw [ringIndex] at hu hw
  simp only [hd, needSys_of_sys hs, hal, h0, Nat.not_le.2 hin, hu, hw, hb, hmay, hread, ne_eq, not_true_eq_false,
    Bool.true_eq_false, or_self, Bool.not_true, Bool.false_eq_true, if_false]
  rfl

end
end

/-! ### O28 -/

/-- Settles O28: RFILL by the entry that its address names, a write's or a read's. -/
theorem retryFills : Obligations.RetryFills := by
  unfold Obligations.RetryFills
  intro s t c f a b hrun hs hd hal h0 hin
  refine ⟨fun hu => trapsOpen_of_exec (exec_rfill_unused hrun hs hd hal hu), fun hu => ⟨?write, ?read⟩⟩
  case write =>
    rintro hw hb s1 rfl
    exact exec_rfill_write hrun hs hd hal h0 hin hu hw hb
  case read =>
    rintro hw hb hmay bs s1 s2 hread rfl
    exact exec_rfill_read hrun hs hd hal h0 hin hu hw hb hmay hread

end Sys2Proof.Machine
end

section
/-! PROOF. Positions of a token: what a token of positions holds, and what the positions of a token are (R179, R314). -/
namespace Sys2Proof.Machine
open Sys2Proof.Claims

/-! ### Digits and lanes -/

/-- A digit of the number that the positions make up: position `p` where no position up to it overflows its width. -/
theorem digit_foldr (w : Nat) : ∀ (ps : List (Option Nat)) (p : Nat), (∀ q ≤ p, (nth none ps q).getD 0 < 2 ^ w) →
    ps.foldr (fun x a => a * 2 ^ w + x.getD 0) 0 / 2 ^ (p * w) % 2 ^ w = (nth none ps p).getD 0
  | [], p, _ => by simp [nth]
  | x :: ps, 0, h => by
    have hx : x.getD 0 < 2 ^ w := h 0 (Nat.le_refl 0)
    simp [nth, Nat.mod_eq_of_lt hx]
  | x :: ps, p + 1, h => by
    have hx : x.getD 0 < 2 ^ w := h 0 (Nat.zero_le _)
    have ih := digit_foldr w ps p (fun q hq => h (q + 1) (Nat.succ_le_succ hq))
    rw [Nat.succ_mul, Nat.add_comm (p * w) w, Nat.pow_add, ← Nat.div_div_eq_div_mul, List.foldr_cons,
      Nat.mul_comm _ (2 ^ w), Nat.mul_add_div (Nat.two_pow_pos w), Nat.div_eq_of_lt hx, Nat.add_zero]
    exact ih

/-- Bits summed one by one from the places where a test holds. -/
theorem testBit_foldl_range (f : Nat → Bool) (n j : Nat) :
    (List.range n).foldl (fun m i => if f i then m + 2 ^ i else m) 0 < 2 ^ n ∧
    ((List.range n).foldl (fun m i => if f i then m + 2 ^ i else m) 0).testBit j = (decide (j < n) && f j) := by
  induction n generalizing j with
  | zero => simp
  | succ n ih =>
    have hlt := (ih 0).1
    have hbit := fun j => (ih j).2
    simp only [List.range_succ, List.foldl_append, List.foldl_cons, List.foldl_nil]
    generalize (List.range n).foldl (fun m i => if f i then m + 2 ^ i else m) 0 = a at hlt hbit
    cases hf : f n with
    | false =>
      refine ⟨by simp only [Bool.false_eq_true, if_false]; rw [Nat.pow_succ]; omega, ?_⟩
      simp only [Bool.false_eq_true, if_false, hbit]
      rcases Nat.lt_trichotomy j n with h | rfl | h
      · simp [h, Nat.lt_succ_of_lt h]
      · simp [hf]
      · simp [Nat.not_lt.2 (Nat.le_of_lt h), Nat.not_lt.2 h]
    | true =>
      refine ⟨by simp only [if_true]; rw [Nat.pow_succ]; omega, ?_⟩
      simp only [if_true, Nat.add_comm a]
      rcases Nat.lt_trichotomy j n with h | rfl | h
      · rw [Nat.testBit_two_pow_add_gt h, hbit]
        simp [h, Nat.lt_succ_of_lt h]
      · rw [Nat.testBit_two_pow_add_eq, hbit]
        simp [hf]
      · rw [Nat.testBit_lt_two_pow (Nat.lt_of_lt_of_le (m := 2 ^ (n + 1)) (by rw [Nat.pow_succ]; omega)
          (Nat.pow_le_pow_right (by omega) h))]
        simp [Nat.not_lt.2 h]

/-- A lane of a token of positions is live where one of its positions is (R314; log 18). -/
theorem tokOf_lane {w : Nat} (hw : w ≠ 64) (pred : Bool) (ps : List (Option Nat)) {i : Nat} (hi : i < 16) :
    (tokOf w pred ps).mask.getLsbD i = (List.range (32 / w)).any (fun j => (nth none ps (i * (32 / w) + j)).isSome) := by
  simp only [tokOf, hw, if_false, BitVec.getLsbD_ofNat, testBit_foldl_range, hi, decide_true, Bool.true_and]

/-- Position `p` of a token of positions. -/
theorem posBits_tokOf {w p : Nat} (pred : Bool) (ps : List (Option Nat)) (hp : (p + 1) * w ≤ 512)
    (hv : ∀ q ≤ p, (nth none ps q).getD 0 < 2 ^ w) : posBits (tokOf w pred ps).data w p = (nth none ps p).getD 0 := by
  rw [← digit_foldr w ps p hv]
  simp only [posBits, tokOf, BitVec.toNat_ofNat]
  rw [Nat.succ_mul] at hp
  rw [show (512 : Nat) = p * w + (512 - p * w) by omega, Nat.pow_add, Nat.mod_mul_right_div_self,
    Nat.mod_mod_of_dvd _ (Nat.pow_dvd_pow 2 (by omega))]

/-! ### Widths of packed lanes -/

/-- A width that packs into a lane. -/
def LaneWidth (w : Nat) : Prop := w = 8 ∨ w = 16 ∨ w = 32

theorem LaneWidth.pos {w : Nat} (h : LaneWidth w) : 0 < w := by rcases h with rfl | rfl | rfl <;> decide

/-- A lane holds a whole number of positions, and a token 16 times as many. -/
theorem LaneWidth.split {w : Nat} (h : LaneWidth w) : w * (32 / w) = 32 ∧ 512 / w = 16 * (32 / w) := by
  rcases h with rfl | rfl | rfl <;> decide

/-- The position lies in the token. -/
theorem LaneWidth.fits {w p : Nat} (h : LaneWidth w) (hp : p < 512 / w) : (p + 1) * w ≤ 512 := by
  rw [Nat.lt_div_iff_mul_lt h.pos] at hp
  rcases h with rfl | rfl | rfl <;> omega

/-- The lane of a position: its number over the positions to a lane. -/
theorem LaneWidth.lane {w : Nat} (h : LaneWidth w) (p : Nat) : p * w / 32 = p / (32 / w) := by
  obtain ⟨hs, -⟩ := h.split
  have hs' : 32 / w * w = 32 := by rw [Nat.mul_comm, hs]
  calc p * w / 32 = p * w / (32 / w * w) := by rw [hs']
    _ = p / (32 / w) := Nat.mul_div_mul_right _ _ h.pos

/-! ### Tokens of positions -/

/-- A token made of positions that fit their width carries them (R314). -/
theorem positions_tokOf {w : Nat} (hw : LaneWidth w) (pred : Bool) {ps : List (Option Nat)} {v : Nat → Option Nat}
    (hps : ∀ p < 512 / w, nth none ps p = v p) (hv : ∀ p < 512 / w, (v p).getD 0 < 2 ^ w) :
    Positions (tokOf w pred ps) w pred v := by
  have h64 : w ≠ 64 := by rcases hw with rfl | rfl | rfl <;> decide
  obtain ⟨-, hn⟩ := hw.split
  refine ⟨rfl, rfl, fun p hp => ?_⟩
  have hbits : posBits (tokOf w pred ps).data w p = (v p).getD 0 := by
    rw [posBits_tokOf pred ps (hw.fits hp) (fun q hq => by rw [hps q (by omega)]; exact hv q (by omega)), hps p hp]
  have hk : 0 < 32 / w := by rcases hw with rfl | rfl | rfl <;> decide
  have hi : p / (32 / w) < 16 := (Nat.div_lt_iff_lt_mul hk).2 (by omega)
  refine ⟨hbits, fun hs => ?_, fun h32 => ?_⟩
  · simp only [laneLive, hw.lane, tokOf_lane h64 pred ps hi, List.any_eq_true, List.mem_range]
    exact ⟨p % (32 / w), Nat.mod_lt _ hk, by rwa [Nat.div_add_mod', hps p hp]⟩
  · subst h32
    simp only [laneLive, hw.lane, tokOf_lane h64 pred ps hi]
    simpa using congrArg Option.isSome (hps p hp)

/-! ### Positions of a token -/

@[simp] theorem length_posList (w : Nat) (h : Option Hdr) (tok : Token) : (posList w h tok).length = 512 / w := by
  simp [posList]

/-- A position of a token fits its width. -/
theorem posList_lt {w p a : Nat} {h : Option Hdr} {tok : Token} (ha : nth none (posList w h tok) p = some a) : a < 2 ^ w := by
  rw [nth_eq_getD, posList, List.getD_eq_getElem?_getD, List.getElem?_map] at ha
  cases hp : (List.range (512 / w))[p]? with
  | none => simp [hp] at ha
  | some q =>
    rw [hp, Option.map_some, Option.getD_some, Option.ite_none_right_eq_some] at ha
    exact Option.some.inj ha.2 ▸ Nat.mod_lt _ (Nat.two_pow_pos w)

theorem getD_of_lt {α : Type} (d : α) {l : List α} {i : Nat} (h : i < l.length) : l.getD i d = l[i] := by
  rw [List.getD_eq_getElem?_getD, List.getElem?_eq_getElem h, Option.getD_some]

/-- Past a list's end there is no position. -/
theorem nth_of_le {α : Type} (d : α) {l : List α} {i : Nat} (h : l.length ≤ i) : nth d l i = d := by
  rw [nth_eq_getD, List.getD_eq_getElem?_getD, List.getElem?_eq_none h, Option.getD_none]

/-- A position of a zipped list: combined where both operands have one (R314). -/
theorem nth_zip_both (f : Nat → Nat → Nat) (as bs : List (Option Nat)) (p : Nat) (hl : as.length = bs.length) :
    nth none ((as.zip bs).map (fun ab => both f ab.1 ab.2)) p = both f (nth none as p) (nth none bs p) := by
  rw [nth_eq_getD, nth_eq_getD, nth_eq_getD, List.getD_eq_getElem?_getD, List.getElem?_map]
  by_cases hp : p < as.length
  · have hq : p < bs.length := hl ▸ hp
    have hz : (as.zip bs)[p]? = some (as[p], bs[p]) := by
      rw [List.getElem?_eq_getElem (by simp; omega), List.getElem_zip]
    simp only [hz, List.getD_eq_getElem?_getD, List.getElem?_eq_getElem hp, List.getElem?_eq_getElem hq, Option.map_some,
      Option.getD_some]
  · have hq : ¬ p < bs.length := hl ▸ hp
    have hz : (as.zip bs)[p]? = none := List.getElem?_eq_none (by simp; omega)
    simp [hz, List.getElem?_eq_none (Nat.not_lt.1 hp), both]

end Sys2Proof.Machine
end

section
/-! PROOF. O29, O30: the integer operations of the element, position by position (R314, R319 to R321). -/
namespace Sys2Proof.Machine
open Sys2Proof.Claims

/-! ### Integers of a modifier -/

/-- An integer modifier's type. -/
theorem imodTy_eq (m : IMod) : imodTy m = .int (modOf m).1 (modOf m).2 := by cases m <;> rfl

/-- Its width packs into a lane. -/
theorem modOf_width (m : IMod) : LaneWidth (modOf m).1 := by cases m <;> simp [modOf, LaneWidth]

/-- A pattern of the width reads as the statement reads it. -/
theorem intOfBits_eq_readAs {w a : Nat} (sg : Bool) (hw : 0 < w) (ha : a < 2 ^ w) : intOfBits w sg a = readAs w sg a := by
  cases sg with
  | false => rfl
  | true =>
    have hp : 2 ^ w = 2 * 2 ^ (w - 1) := by rw [← Nat.pow_succ']; congr 1; omega
    have hd : a / 2 ^ (w - 1) % 2 = 1 ↔ 2 ^ (w - 1) ≤ a := by
      have hq : a / 2 ^ (w - 1) < 2 := Nat.div_lt_of_lt_mul (by rw [Nat.mul_comm]; omega)
      rw [← Nat.div_pos_iff.trans (and_iff_right (Nat.two_pow_pos (w - 1)))]
      generalize a / 2 ^ (w - 1) = q at hq
      omega
    simp only [intOfBits, readAs, signedLow, hd, Nat.mod_eq_of_lt ha, Bool.true_and, decide_eq_true_eq, ge_iff_le, if_true]

/-- Reading a pattern as signed changes nothing modulo 2^w. -/
theorem intOfBits_emod (w : Nat) (sg : Bool) (a : Nat) : intOfBits w sg a % 2 ^ w = (a : Int) % 2 ^ w := by
  unfold intOfBits
  split
  · rw [Int.ofNat_eq_natCast, Int.sub_emod_right]
  · rfl

/-- The pattern of what a pattern reads as is the pattern. -/
theorem bitsOfInt_intOfBits {w a : Nat} (sg : Bool) (ha : a < 2 ^ w) : bitsOfInt w (intOfBits w sg a) = a := by
  rw [bitsOfInt, intOfBits_emod]
  norm_cast
  exact Nat.mod_eq_of_lt ha

/-- A pattern depends on its integer modulo 2^w alone. -/
theorem bitsOfInt_congr {w : Nat} {x y : Int} (h : x % 2 ^ w = y % 2 ^ w) : bitsOfInt w x = bitsOfInt w y := by
  simp only [bitsOfInt, h]

/-- The pattern of a natural number. -/
theorem bitsOfInt_natCast (w n : Nat) : bitsOfInt w (n : Int) = n % 2 ^ w := by
  rw [bitsOfInt]; norm_cast

theorem int_two_pow_pos (n : Nat) : (0 : Int) < 2 ^ n := Int.pow_pos (by decide)

theorem natCast_two_pow (n : Nat) : ((2 ^ n : Nat) : Int) = 2 ^ n := Int.natCast_pow 2 n

/-- A clamp ends at R171's bounds. -/
theorem clampInt_eq_clampTo {w : Nat} (sg : Bool) (z : Int) : (clampInt z w sg).1 = clampTo w sg z := by
  have h1 := int_two_pow_pos (w - 1)
  have h2 := int_two_pow_pos w
  have hclamp (lo hi : Int) (h : lo ≤ hi) : (if z < lo then lo else if z > hi then hi else z) = max lo (min hi z) := by
    split
    · omega
    · split <;> omega
  cases sg with
  | false =>
    simp only [clampInt, clampTo, intMin, intMax, apply_ite Prod.fst, Bool.false_eq_true, if_false]
    exact hclamp _ _ (by omega)
  | true =>
    simp only [clampInt, clampTo, intMin, intMax, apply_ite Prod.fst, if_true]
    exact hclamp _ _ (by omega)

/-- A pattern without the bits of another (R319, IANDN). -/
theorem and_compl {w a b : Nat} (ha : a < 2 ^ w) (hb : b < 2 ^ w) : a &&& (2 ^ w - 1 - b) = a - (a &&& b) := by
  have hz : BitVec.ofNat w a &&& ~~~ BitVec.ofNat w b &&& (BitVec.ofNat w a &&& BitVec.ofNat w b) = 0#w := by
    ext i
    cases h : (BitVec.ofNat w b)[i] <;> simp [h]
  have ho : (BitVec.ofNat w a &&& ~~~ BitVec.ofNat w b) ||| (BitVec.ofNat w a &&& BitVec.ofNat w b) = BitVec.ofNat w a := by
    ext i
    cases h : (BitVec.ofNat w b)[i] <;> simp [h]
  have hs := congrArg BitVec.toNat ((BitVec.add_eq_or_of_and_eq_zero _ _ hz).trans ho)
  rw [BitVec.toNat_add_of_and_eq_zero hz] at hs
  simp only [BitVec.toNat_and, BitVec.toNat_not, BitVec.toNat_ofNat, Nat.mod_eq_of_lt ha, Nat.mod_eq_of_lt hb] at hs
  omega

/-! ### Firings of a slot -/

/-- Data on L alone, ungated: the operation fires (R214, R215). -/
theorem onSlot_fires_one {s : State} {e : Env} {x : Slot} {l : Token} (op : SlotOp) (ha : SlotAt s e x op.ta op.tb)
    (hu : Ungated s e x) (hr : readsOf op.instr = (true, false)) (hp : takesP op.instr = false) (hl : DataL x l) :
    onSlot s op = .next (op.fire e s x) := by
  obtain ⟨he, hx, hh, hs, ho, hf⟩ := ha
  obtain ⟨hl, hk, hg⟩ := hl
  rw [onSlot_next op he hx, slotRun_fire_one hh hs ho hf hr hp hu.1 hu.2 hl hk hg]

/-- Data on L and R, ungated: the operation fires (R214, R215). -/
theorem onSlot_fires_two {s : State} {e : Env} {x : Slot} {l r : Token} (op : SlotOp) (ha : SlotAt s e x op.ta op.tb)
    (hu : Ungated s e x) (hr : readsOf op.instr = (true, true)) (hp : takesP op.instr = false) (hl : DataL x l)
    (hd : DataR x r) : onSlot s op = .next (op.fire e s x) := by
  obtain ⟨he, hx, hh, hs, ho, hf⟩ := ha
  obtain ⟨hl, hk, hg⟩ := hl
  obtain ⟨hl', hk', hg'⟩ := hd
  rw [onSlot_next op he hx, slotRun_fire_two hh hs ho hf hr hp hu.1 hu.2 hl hk hg hl' hk' hg']

/-! ### Two-operand forms (R319) -/

/-- A function of the model gives a position what the table's function gives. -/
def Means (w : Nat) (f : Nat → Nat → Nat × List Nat) (fn : Nat → Nat → Nat) : Prop :=
  ∀ a b, a < 2 ^ w → b < 2 ^ w → (f a b).1 = fn a b ∧ fn a b < 2 ^ w

/-- The positions of a form's result. -/
theorem zipInt_positions {w : Nat} {f : Nat → Nat → Nat × List Nat} {fn : Nat → Nat → Nat} (hf : Means w f fn)
    (hl hr : Option Hdr) (l r : Token) (p : Nat) :
    nth none (zipInt f (posList w hl l) (posList w hr r)).1 p = both fn (nth none (posList w hl l) p) (nth none (posList w hr r) p) := by
  have hz : (zipInt f (posList w hl l) (posList w hr r)).1 =
      ((posList w hl l).zip (posList w hr r)).map (fun ab => both (fun a b => (f a b).1) ab.1 ab.2) := by
    simp only [zipInt, List.map_map]
    refine List.map_congr_left fun ab _ => ?_
    obtain ⟨_ | a, _ | b⟩ := ab <;> rfl
  rw [hz, nth_zip_both _ _ _ _ (by simp)]
  cases ha : nth none (posList w hl l) p with
  | none => rfl
  | some a =>
    cases hb : nth none (posList w hr r) p with
    | none => rfl
    | some b => exact congrArg some (hf a b (posList_lt ha) (posList_lt hb)).1

/-- A position that both operands have fits the width. -/
theorem both_lt {w : Nat} {f : Nat → Nat → Nat × List Nat} {fn : Nat → Nat → Nat} (hf : Means w f fn)
    (hl hr : Option Hdr) (l r : Token) (p : Nat) :
    (both fn (nth none (posList w hl l) p) (nth none (posList w hr r) p)).getD 0 < 2 ^ w := by
  cases ha : nth none (posList w hl l) p with
  | none => exact Nat.two_pow_pos w
  | some a =>
    cases hb : nth none (posList w hr r) p with
    | none => exact Nat.two_pow_pos w
    | some b => exact (hf a b (posList_lt ha) (posList_lt hb)).2

/-- A form whose function counts no event counts none. -/
theorem zipInt_quiet {f : Nat → Nat → Nat × List Nat} (hq : ∀ a b, (f a b).2 = []) (as bs : List (Option Nat)) :
    (zipInt f as bs).2 = [] := by
  simp only [zipInt, List.flatMap_map, List.flatMap_eq_nil_iff]
  rintro ⟨_ | a, _ | b⟩ - <;> simp [hq]

/-- A two-operand integer form fires with the table's positions (R314, R319). -/
theorem intForm_fires {s : State} {e : Env} {x : Slot} {i : Instr} {m : IMod} {ta tb : Target} {l r : Token} {f : IntFn}
    {fn : Nat → Nat → Nat} (hi : exec i s = intForm s i m ta tb f) (hr : readsOf i = (true, true)) (hp : takesP i = false)
    (hf : Means (modOf m).1 (f (modOf m).1 (modOf m).2) fn) (ha : SlotAt s e x ta tb) (hu : Ungated s e x)
    (hl : DataL x l) (hd : DataR x r) :
    ∃ tok evs, Fires i s e x ta tb (some tok) (some tok) evs ∧
      ((∀ a b, (f (modOf m).1 (modOf m).2 a b).2 = []) → evs = []) ∧
      Positions tok (modOf m).1 l.pred
        (fun p => both fn (nth none (posList (modOf m).1 x.hl l) p) (nth none (posList (modOf m).1 x.hr r) p)) := by
  simp only [intForm, imodTy_eq, ETy.width] at hi
  have hfire := hi.trans (onSlot_fires_two (SlotOp.plain i ta tb _ _ _) ha hu hr hp hl hd)
  simp only [SlotOp.plain, hl.1, hd.1, tokIn, Option.getD_some, fireOne] at hfire
  exact ⟨_, _, hfire, fun hq => zipInt_quiet hq _ _,
    positions_tokOf (modOf_width m) _ (fun p _ => zipInt_positions hf _ _ _ _ p) (fun p _ => both_lt hf _ _ _ _ p)⟩

/-! ### The rows of R319's table -/

/-- The pattern of an integer fits its width. -/
theorem bitsOfInt_lt (w : Nat) (z : Int) : bitsOfInt w z < 2 ^ w := by
  have h2 := int_two_pow_pos w
  have hn := Int.emod_nonneg z (Int.ne_of_gt h2)
  rw [bitsOfInt, Int.toNat_lt hn, natCast_two_pow]
  exact Int.emod_lt_of_pos z h2

/-- A function that gives the pattern of the integer whose pattern the table gives. -/
theorem Means.of_int {w : Nat} {f : Nat → Nat → Nat × List Nat} {fn : Nat → Nat → Nat} (z : Nat → Nat → Int)
    (hf : ∀ a b, a < 2 ^ w → b < 2 ^ w → (f a b).1 = bitsOfInt w (z a b))
    (hn : ∀ a b, a < 2 ^ w → b < 2 ^ w → bitsOfInt w (z a b) = fn a b) : Means w f fn :=
  fun a b ha hb => ⟨(hf a b ha hb).trans (hn a b ha hb), hn a b ha hb ▸ bitsOfInt_lt w _⟩

section Means
variable {w : Nat} (sg : Bool)

/-- IADD: the sum modulo 2^w. -/
theorem means_add : Means w (wrapped (· + ·) w sg) (fun a b => (a + b) % 2 ^ w) := by
  refine .of_int _ (fun _ _ _ _ => rfl) fun a b _ _ => ?_
  rw [← bitsOfInt_natCast, bitsOfInt_congr]
  rw [Int.add_emod, intOfBits_emod, intOfBits_emod, ← Int.add_emod, Int.natCast_add]

/-- ISUB: the difference modulo 2^w. -/
theorem means_sub : Means w (wrapped (· - ·) w sg) (fun a b => (a + 2 ^ w - b) % 2 ^ w) := by
  refine .of_int _ (fun _ _ _ _ => rfl) fun a b _ hb => ?_
  rw [← bitsOfInt_natCast, bitsOfInt_congr]
  rw [Int.sub_emod, intOfBits_emod, intOfBits_emod, ← Int.sub_emod, Int.natCast_sub (by omega), Int.natCast_add,
    natCast_two_pow, show (a : Int) + 2 ^ w - b = a - b + 2 ^ w by omega, Int.add_emod_right]

/-- IMUL: the product modulo 2^w. -/
theorem means_mul : Means w (wrapped (· * ·) w sg) (fun a b => a * b % 2 ^ w) := by
  refine .of_int _ (fun _ _ _ _ => rfl) fun a b _ _ => ?_
  rw [← bitsOfInt_natCast, bitsOfInt_congr]
  rw [Int.mul_emod, intOfBits_emod, intOfBits_emod, ← Int.mul_emod, Int.natCast_mul]

variable (hw : 0 < w)
include hw

/-- IADDS and ISUBS: the exact result, clamped (R171). -/
theorem means_clamped (g : Int → Int → Int) :
    Means w (clamped g w sg) (fun a b => wrapTo w (clampTo w sg (g (readAs w sg a) (readAs w sg b)))) := by
  refine .of_int (fun a b => clampTo w sg (g (readAs w sg a) (readAs w sg b))) (fun a b ha hb => ?_) fun _ _ _ _ => rfl
  simp only [clamped, clampInt_eq_clampTo, intOfBits_eq_readAs sg hw ha, intOfBits_eq_readAs sg hw hb]

/-- IMULH: the upper half of the product. -/
theorem means_mulh : Means w (fun a b => (bitsOfInt w ((intOfBits w sg a * intOfBits w sg b).fdiv ((2 : Int) ^ w)), []))
    (fun a b => wrapTo w (readAs w sg a * readAs w sg b / 2 ^ w)) := by
  refine .of_int (fun a b => readAs w sg a * readAs w sg b / 2 ^ w) (fun a b ha hb => ?_) fun _ _ _ _ => rfl
  rw [Int.fdiv_eq_ediv_of_nonneg _ (Int.le_of_lt (int_two_pow_pos _)), intOfBits_eq_readAs sg hw ha, intOfBits_eq_readAs sg hw hb]

/-- IMIN: the operand that reads as the lesser. -/
theorem means_min : Means w (wrapped min w sg) (fun a b => if readAs w sg a ≤ readAs w sg b then a else b) := by
  refine .of_int _ (fun _ _ _ _ => rfl) fun a b ha hb => ?_
  rw [← intOfBits_eq_readAs sg hw ha, ← intOfBits_eq_readAs sg hw hb, Int.min_def, apply_ite (bitsOfInt w), bitsOfInt_intOfBits sg ha,
    bitsOfInt_intOfBits sg hb]

/-- IMAX: the operand that reads as the greater. -/
theorem means_max : Means w (wrapped max w sg) (fun a b => if readAs w sg a ≤ readAs w sg b then b else a) := by
  refine .of_int _ (fun _ _ _ _ => rfl) fun a b ha hb => ?_
  rw [← intOfBits_eq_readAs sg hw ha, ← intOfBits_eq_readAs sg hw hb, Int.max_def, apply_ite (bitsOfInt w), bitsOfInt_intOfBits sg ha,
    bitsOfInt_intOfBits sg hb]

/-- ISAR: the signed value, divided by a power of two. -/
theorem means_sar : Means w (quiet (fun w _ a b => bitsOfInt w ((intOfBits w true a).fdiv ((2 : Int) ^ (b % w)))) w sg)
    (fun a b => wrapTo w (signedLow a w / 2 ^ (b % w))) := by
  refine .of_int (fun a b => signedLow a w / 2 ^ (b % w)) (fun a b ha _ => ?_) fun _ _ _ _ => rfl
  rw [quiet, Int.fdiv_eq_ediv_of_nonneg _ (Int.le_of_lt (int_two_pow_pos _)), intOfBits_eq_readAs true hw ha]
  rfl

end Means

/-- The bitwise rows and the plain shifts: the model's function is the table's. -/
theorem means_quiet {w : Nat} {sg : Bool} {f : Nat → Bool → Nat → Nat → Nat} {fn : Nat → Nat → Nat}
    (h : ∀ a b, a < 2 ^ w → b < 2 ^ w → f w sg a b = fn a b ∧ fn a b < 2 ^ w) : Means w (quiet f w sg) fn := h

/-- The model's function of a two-operand row of R319's table. -/
def pairFn : Instr → IntFn
  | .iadd _ _ _ => wrapped (· + ·)
  | .isub _ _ _ => wrapped (· - ·)
  | .iadds _ _ _ => clamped (· + ·)
  | .isubs _ _ _ => clamped (· - ·)
  | .imul _ _ _ => wrapped (· * ·)
  | .imulh _ _ _ => fun w sg a b => (bitsOfInt w ((intOfBits w sg a * intOfBits w sg b).fdiv ((2 : Int) ^ w)), [])
  | .imin _ _ _ => wrapped min
  | .imax _ _ _ => wrapped max
  | .iand _ _ _ => quiet (fun _ _ a b => a &&& b)
  | .ior _ _ _ => quiet (fun _ _ a b => a ||| b)
  | .ixor _ _ _ => quiet (fun _ _ a b => a ^^^ b)
  | .iandn _ _ _ => quiet (fun w _ a b => a &&& (2 ^ w - 1 - b))
  | .ishl _ _ _ => quiet (fun w _ a b => a * 2 ^ (b % w) % 2 ^ w)
  | .ishr _ _ _ => quiet (fun w _ a b => a / 2 ^ (b % w))
  | .isar _ _ _ => quiet (fun w _ a b => bitsOfInt w ((intOfBits w true a).fdiv ((2 : Int) ^ (b % w))))
  | _ => quiet (fun _ _ a _ => a)

section
variable {i : Instr} {m : IMod} {ta tb : Target} {fn : Nat → Bool → Nat → Nat → Nat} (h : intPair i = some (m, ta, tb, fn))
include h

/-- A row reads both latches and takes no selector. -/
theorem intPair_reads : readsOf i = (true, true) ∧ takesP i = false := by
  unfold intPair at h
  split at h <;> cases h <;> exact ⟨rfl, rfl⟩

/-- A row runs as the two-operand form of its function. -/
theorem exec_intPair (s : State) : exec i s = intForm s i m ta tb (pairFn i) := by
  unfold intPair at h
  split at h <;> cases h <;> rfl

/-- A row's function gives what the table says. -/
theorem pairFn_means {w : Nat} (sg : Bool) (hw : 0 < w) : Means w (pairFn i w sg) (fn w sg) := by
  unfold intPair at h
  split at h <;> cases h
  case h_1 => exact means_add sg
  case h_2 => exact means_sub sg
  case h_3 => exact means_clamped sg hw _
  case h_4 => exact means_clamped sg hw _
  case h_5 => exact means_mul sg
  case h_6 => exact means_mulh sg hw
  case h_7 => exact means_min sg hw
  case h_8 => exact means_max sg hw
  case h_9 => exact means_quiet fun a b ha _ => ⟨rfl, Nat.lt_of_le_of_lt Nat.and_le_left ha⟩
  case h_10 => exact means_quiet fun a b ha hb => ⟨rfl, Nat.or_lt_two_pow ha hb⟩
  case h_11 => exact means_quiet fun a b ha hb => ⟨rfl, Nat.xor_lt_two_pow ha hb⟩
  case h_12 => exact means_quiet fun a b ha hb => ⟨and_compl ha hb, Nat.lt_of_le_of_lt (Nat.sub_le _ _) ha⟩
  case h_13 => exact means_quiet fun a b _ _ => ⟨rfl, Nat.mod_lt _ (Nat.two_pow_pos _)⟩
  case h_14 => exact means_quiet fun a b ha _ => ⟨rfl, Nat.lt_of_le_of_lt (Nat.div_le_self _ _) ha⟩
  case h_15 => exact means_sar sg hw

/-- Only the clamping rows count events. -/
theorem pairFn_quiet (h1 : i ≠ .iadds m ta tb) (h2 : i ≠ .isubs m ta tb) (w : Nat) (sg : Bool) (a b : Nat) :
    (pairFn i w sg a b).2 = [] := by
  unfold intPair at h
  split at h <;> cases h
  case h_3 => exact absurd rfl h1
  case h_4 => exact absurd rfl h2
  all_goals rfl

end

/-! ### O29 -/

/-- Settles O29: each row of R319's table, by the model's function for it. -/
theorem elementIntegerPairs : Obligations.ElementIntegerPairs := by
  unfold Obligations.ElementIntegerPairs
  intro i s e x m ta tb fn l r hi ha hu hl hd
  obtain ⟨hr, hp⟩ := intPair_reads hi
  obtain ⟨tok, evs, hfire, hevs, hpos⟩ :=
    intForm_fires (exec_intPair hi s) hr hp (pairFn_means hi _ (modOf_width m).pos) ha hu hl hd
  exact ⟨tok, evs, hfire, fun h1 h2 => hevs (pairFn_quiet hi h1 h2 _ _), hpos⟩

/-! ### One-operand forms (R319) -/

/-- A position of a mapped list whose function gives masked positions none. -/
theorem nth_map_option {f : Nat → Nat} (as : List (Option Nat)) (p : Nat) :
    nth none (as.map (fun a => a.map f)) p = (nth none as p).map f := by
  rw [nth_eq_getD, nth_eq_getD, List.getD_eq_getElem?_getD, List.getD_eq_getElem?_getD, List.getElem?_map]
  cases as[p]? <;> rfl

/-- IABS: the magnitude, modulo 2^w. -/
theorem iabs_row {w a : Nat} (sg : Bool) (hw : 0 < w) (ha : a < 2 ^ w) :
    bitsOfInt w (Int.ofNat (intOfBits w sg a).natAbs) = wrapTo w (Int.ofNat (readAs w sg a).natAbs) := by
  rw [intOfBits_eq_readAs sg hw ha]; rfl

/-- INEG: the complement to 2^w. -/
theorem ineg_row {w a : Nat} (sg : Bool) (ha : a < 2 ^ w) : bitsOfInt w (-intOfBits w sg a) = (2 ^ w - a) % 2 ^ w := by
  rw [← bitsOfInt_natCast, bitsOfInt_congr]
  rw [← Int.zero_sub, Int.sub_emod, intOfBits_emod, ← Int.sub_emod, Int.natCast_sub (Nat.le_of_lt ha), natCast_two_pow,
    ← Int.add_emod_left (2 ^ w) (0 - _)]
  congr 1
  omega

/-- A one-operand integer form fires with the table's positions (R314, R319). -/
theorem intForm1_fires {s : State} {e : Env} {x : Slot} {i : Instr} {m : IMod} {ta tb : Target} {l : Token} {f : Int → Int}
    {fn : Nat → Nat} (hi : exec i s = intForm1 s i m ta tb f) (hr : readsOf i = (true, false)) (hp : takesP i = false)
    (hf : ∀ a, a < 2 ^ (modOf m).1 → bitsOfInt (modOf m).1 (f (intOfBits (modOf m).1 (modOf m).2 a)) = fn a)
    (ha : SlotAt s e x ta tb) (hu : Ungated s e x) (hl : DataL x l) :
    ∃ tok, Fires i s e x ta tb (some tok) (some tok) [] ∧
      Positions tok (modOf m).1 l.pred (fun p => (nth none (posList (modOf m).1 x.hl l) p).map fn) := by
  simp only [intForm1, imodTy_eq, ETy.width] at hi
  have hfire := hi.trans (onSlot_fires_one (SlotOp.plain i ta tb _ _ _) ha hu hr hp hl)
  simp only [SlotOp.plain, hl.1, tokIn, Option.getD_some, fireOne] at hfire
  have hpos : ∀ p, ((nth none (posList (modOf m).1 x.hl l) p).map fun a =>
      bitsOfInt (modOf m).1 (f (intOfBits (modOf m).1 (modOf m).2 a))) = (nth none (posList (modOf m).1 x.hl l) p).map fn := by
    intro p
    cases hq : nth none (posList (modOf m).1 x.hl l) p with
    | none => rfl
    | some a => exact congrArg some (hf a (posList_lt hq))
  refine ⟨_, hfire, positions_tokOf (modOf_width m) _ (fun p _ => (nth_map_option _ p).trans (hpos p)) fun p _ => ?_⟩
  rw [← hpos p]
  cases nth none (posList (modOf m).1 x.hl l) p with
  | none => exact Nat.two_pow_pos _
  | some a => exact bitsOfInt_lt _ _

/-- A one-operand row fires with the table's positions. -/
theorem intOne_fires {s : State} {e : Env} {x : Slot} {i : Instr} {m : IMod} {ta tb : Target} {l : Token}
    {fn : Nat → Bool → Nat → Nat} (h : intOne i = some (m, ta, tb, fn)) (ha : SlotAt s e x ta tb) (hu : Ungated s e x)
    (hl : DataL x l) :
    ∃ tok, Fires i s e x ta tb (some tok) (some tok) [] ∧
      Positions tok (modOf m).1 l.pred
        (fun p => (nth none (posList (modOf m).1 x.hl l) p).map (fn (modOf m).1 (modOf m).2)) := by
  unfold intOne at h
  split at h <;> cases h
  · exact intForm1_fires (f := fun a => Int.ofNat a.natAbs) rfl rfl rfl (fun a h => iabs_row _ (modOf_width m).pos h) ha hu hl
  · exact intForm1_fires (f := fun a => -a) rfl rfl rfl (fun a h => ineg_row _ h) ha hu hl

/-! ### ICMP and ISEL (R320, R321) -/

/-- The model's comparison is that of R320's table. -/
theorem icmpHolds_eq (c : Nat) (a b : Int) : icmpHolds c a b = condition c a b :=
  match c with
  | 0 | 2 | 3 | 4 | _ + 5 => rfl
  | 1 => (decide_not (p := a = b)).symm

/-- A value of ICMP's is all ones or zero. -/
theorem means_icmp {w : Nat} (sg : Bool) (hw : 0 < w) (c : Nat) :
    Means w (fun a b => (if icmpHolds c (intOfBits w sg a) (intOfBits w sg b) then 2 ^ w - 1 else 0, []))
      (fun a b => if condition c (readAs w sg a) (readAs w sg b) then 2 ^ w - 1 else 0) := by
  intro a b ha hb
  have h2 := Nat.two_pow_pos w
  refine ⟨by simp only [icmpHolds_eq, intOfBits_eq_readAs sg hw ha, intOfBits_eq_readAs sg hw hb], ?_⟩
  dsimp only
  split <;> omega

/-- Some position of a token is not zero where some position of the list it is made of is live and not zero. -/
theorem any_nonzero_iff {w : Nat} (hw : LaneWidth w) (pred : Bool) {ps : List (Option Nat)} (hlen : ps.length = 512 / w)
    (hv : ∀ p < 512 / w, (nth none ps p).getD 0 < 2 ^ w) :
    ps.any (fun v => match v with | some v => v != 0 | none => false) = true ↔
      ∃ p, p < 512 / w ∧ posBits (tokOf w pred ps).data w p ≠ 0 := by
  obtain ⟨-, -, hpos⟩ := positions_tokOf hw pred (fun _ _ => rfl) hv
  rw [List.any_eq_true]
  constructor
  · rintro ⟨v, hv, hne⟩
    obtain ⟨p, hp, rfl⟩ := List.mem_iff_getElem.1 hv
    refine ⟨p, hlen ▸ hp, ?_⟩
    rw [(hpos p (hlen ▸ hp)).1, nth_eq_getD, getD_of_lt _ hp]
    cases hq : ps[p] with
    | none => simp [hq] at hne
    | some a => simpa [hq] using hne
  · rintro ⟨p, hp, hne⟩
    rw [(hpos p hp).1, nth_eq_getD, getD_of_lt _ (hlen ▸ hp)] at hne
    refine ⟨ps[p]'(hlen ▸ hp), List.getElem_mem _, ?_⟩
    cases hq : ps[p]'(hlen ▸ hp) with
    | none => simp [hq] at hne
    | some a => simpa [hq] using hne

@[simp] theorem length_zipInt (f : Nat → Nat → Nat × List Nat) (as bs : List (Option Nat)) :
    (zipInt f as bs).1.length = min as.length bs.length := by simp [zipInt]

/-- ICMP fires with all ones or zero, and PRED where a position is true (R320). -/
theorem icmp_fires {s : State} {e : Env} {x : Slot} {m : IMod} {ta tb : Target} {l r : Token} (ha : SlotAt s e x ta tb)
    (hu : Ungated s e x) (hl : DataL x l) (hd : DataR x r) :
    ∃ tok pred, Fires (.icmp m ta tb) s e x ta tb (some tok) (some tok) [] ∧
      Positions tok (modOf m).1 pred (fun p => both (fun a b =>
          if condition (x.const.toNat % 8) (readAs (modOf m).1 (modOf m).2 a) (readAs (modOf m).1 (modOf m).2 b)
          then 2 ^ (modOf m).1 - 1 else 0)
        (nth none (posList (modOf m).1 x.hl l) p) (nth none (posList (modOf m).1 x.hr r) p)) ∧
      (pred = true ↔ ∃ p, p < 512 / (modOf m).1 ∧ posBits tok.data (modOf m).1 p ≠ 0) := by
  have hw := modOf_width m
  have hi : exec (.icmp m ta tb) s = execIcmp m ta tb s := rfl
  simp only [execIcmp, imodTy_eq, ETy.width] at hi
  have hfire := hi.trans (onSlot_fires_two (SlotOp.plain (.icmp m ta tb) ta tb _ _ _) ha hu rfl rfl hl hd)
  simp only [SlotOp.plain, hl.1, hd.1, tokIn, Option.getD_some, fireOne] at hfire
  have hm := means_icmp (modOf m).2 hw.pos (x.const.toNat % 8)
  have hp := zipInt_positions hm x.hl x.hr l r
  exact ⟨_, _, hfire, positions_tokOf hw _ (fun p _ => hp p) (fun p _ => both_lt hm _ _ _ _ p),
    any_nonzero_iff hw _ (by simp) (fun p _ => hp p ▸ both_lt hm _ _ _ _ p)⟩

/-- Data on L, R and P: an operation that takes a selector fires (R214, R215, R321). -/
theorem slotRun_fire_selector {op : SlotOp} {e : Env} {s : State} {x : Slot} {l r q : Token} (ha : SlotAt s e x op.ta op.tb)
    (hr : readsOf op.instr = (true, true)) (ht : takesP op.instr = true) (hl : DataL x l) (hd : DataR x r)
    (hp : x.p = some q) (hk : q.kind = .data) (hg : latchPoison x.hp x.p = false) : onSlot s op = .next (op.fire e s x) := by
  obtain ⟨he, hx, hh, hs, ho, hf⟩ := ha
  obtain ⟨hl, hlk, hlg⟩ := hl
  obtain ⟨hl', hrk, hrg⟩ := hd
  rw [hl] at hlg
  rw [hl'] at hrg
  rw [hp] at hg
  have hm : TokKind.data.isMark = false := rfl
  have hq : TokKind.data.isPermit = false := rfl
  rw [onSlot_next op he hx]
  simp [slotRun, hh, hs, ho, headerDue, hr, hl, hlk, hl', hrk, hp, hk, latchesFull, ht, hf, classify, kindsRead, hm, hq, dataFire, gateOf,
    hlg, hrg, hg]

/-- A position of a mapped list with positions' numbers. -/
theorem nth_zipIdx_map {f : Option Nat × Nat → Option Nat} (as : List (Option Nat)) {p : Nat} (hp : p < as.length) :
    nth none (as.zipIdx.map f) p = f (nth none as p, p) := by
  rw [nth_eq_getD, nth_eq_getD, getD_of_lt _ (by simpa using hp), getD_of_lt _ hp]
  simp

/-- ISEL fires with L's position where P's is not zero, else R's (R321). -/
theorem isel_fires {s : State} {e : Env} {x : Slot} {m : IMod} {ta tb : Target} {l r q : Token} (ha : SlotAt s e x ta tb)
    (hl : DataL x l) (hd : DataR x r) (hp : x.p = some q) (hk : q.kind = .data) (hg : latchPoison x.hp x.p = false) :
    ∃ tok, Fires (.isel m ta tb) s e x ta tb (some tok) (some tok) [] ∧
      Positions tok (modOf m).1 l.pred (fun p => match nth none (posList (modOf m).1 x.hp q) p with
        | none => none
        | some v => if v ≠ 0 then nth none (posList (modOf m).1 x.hl l) p else nth none (posList (modOf m).1 x.hr r) p) := by
  have hi : exec (.isel m ta tb) s = execIsel m ta tb s := rfl
  simp only [execIsel, imodTy_eq, ETy.width] at hi
  have hfire := hi.trans (slotRun_fire_selector (op := SlotOp.plain (.isel m ta tb) ta tb _ _ _) ha rfl rfl hl hd hp hk hg)
  simp only [SlotOp.plain, hl.1, hd.1, hp, tokIn, Option.getD_some, fireOne] at hfire
  refine ⟨_, hfire, positions_tokOf (modOf_width m) _ (fun p h => ?_) fun p _ => ?_⟩
  · rw [nth_zipIdx_map _ (by simpa using h)]
    cases nth none (posList (modOf m).1 x.hp q) p <;> rfl
  · have hlt : ∀ h tok, (nth none (posList (modOf m).1 h tok) p).getD 0 < 2 ^ (modOf m).1 := fun h tok => by
      cases hv : nth none (posList (modOf m).1 h tok) p with
      | none => exact Nat.two_pow_pos _
      | some a => exact posList_lt hv
    split
    · exact Nat.two_pow_pos _
    · split <;> exact hlt _ _

/-! ### O30 -/

/-- Settles O30: the one-operand rows, ICMP and ISEL, each by its own firing. -/
theorem elementIntegerOthers : Obligations.ElementIntegerOthers := by
  unfold Obligations.ElementIntegerOthers
  intro s e x m ta tb l r ha hl
  exact ⟨fun i fn hi hu => intOne_fires hi ha hu hl, fun hu hd => icmp_fires ha hu hl hd,
    fun q hd hp hk hg => isel_fires ha hl hd hp hk hg⟩

end Sys2Proof.Machine
end

section
/-! PROOF. O33: the accumulating operations (R316, R318, R337). -/
namespace Sys2Proof.Machine
open Sys2Proof.Claims

/-! ### Turns of a slot by what its latches hold -/

section
variable {s : State} {e : Env} {x : Slot} {op : SlotOp} (ha : SlotAt s e x op.ta op.tb)
include ha

/-- With no header due and its latches filled, a slot's turn is its firing (R214). -/
theorem onSlot_classify (hd : headerDue op x = none) (hf : latchesFull s op e x = true) :
    onSlot s op = .next (classify op e s x) := by
  obtain ⟨he, hx, hh, hs, ho, hb⟩ := ha
  simp [onSlot_next op he hx, slotRun, hh, hs, ho, hd, hf, hb]

/-- Poison on L, with data or poison on R where the operation reads R: the operation is poisoned (R318). -/
theorem onSlot_poison {l : Token} (hu : Ungated s e x) (h1 : (readsOf op.instr).1 = true) (ht : takesP op.instr = false)
    (hl : x.l = some l) (hk : l.kind = .poison) (hr : (readsOf op.instr).2 = true → ∃ r, x.r = some r ∧ r.kind.isData = true) :
    onSlot s op = .next (op.poison e s x) := by
  obtain ⟨hp, hb⟩ := hu
  have hm : TokKind.poison.isMark = false := rfl
  have hq : TokKind.poison.isPermit = false := rfl
  cases h2 : (readsOf op.instr).2 with
  | false =>
    rw [onSlot_classify ha (by simp [headerDue, h1, h2, hl, hk, hp]) (by simp [latchesFull, h1, h2, hl, ht, hb])]
    simp [classify, kindsRead, h1, h2, hl, hk, hm, hq, dataFire, gateOf, hp, latchPoison]
  | true =>
    obtain ⟨r, hr, hd⟩ := hr h2
    have hh : r.kind ≠ .header := fun h => by rw [h] at hd; exact Bool.noConfusion hd
    have hd' : TokKind.poison.isData = true := rfl
    rw [onSlot_classify ha (by simp [headerDue, h1, h2, hl, hk, hr, hh, hp]) (by simp [latchesFull, h1, h2, hl, hr, ht, hb])]
    simp [classify, kindsRead, h1, h2, hl, hk, hr, hm, hq, hd, hd', dataFire, gateOf, hp, latchPoison]

/-- One kind of marker in the latches read: the operation's marker rule (R215). -/
theorem onSlot_mark {k : TokKind} (hu : Ungated s e x) (h1 : (readsOf op.instr).1 = true) (ht : takesP op.instr = false)
    (hm : MarksIn op.instr x k) : onSlot s op = .next (op.mark e s x k) := by
  obtain ⟨hp, hb⟩ := hu
  obtain ⟨hk, ⟨l, hl, rfl⟩, hr⟩ := hm
  have hh : l.kind ≠ .header := fun h => by rw [h] at hk; exact Bool.noConfusion hk
  cases h2 : (readsOf op.instr).2 with
  | false =>
    rw [onSlot_classify ha (by simp [headerDue, h1, h2, hl, hh, hp]) (by simp [latchesFull, h1, h2, hl, ht, hb])]
    simp [classify, kindsRead, h1, h2, hl, hk]
  | true =>
    obtain ⟨r, hr, hrk⟩ := hr h2
    rw [onSlot_classify ha (by simp [headerDue, h1, h2, hl, hh, hr, hrk, hp]) (by simp [latchesFull, h1, h2, hl, hr, ht, hb])]
    simp [classify, kindsRead, h1, h2, hl, hr, hrk, hk]

end

/-! ### Formats -/

/-- A binary8 format has eight bits. -/
theorem fmtB8_width (code : Nat) : (fmtB8 code).width = 8 := by
  unfold fmtB8
  split <;> rfl

/-- The float format of a modifier under a header packs into lanes. -/
theorem fmodTy_fmt_width {m : FMod} {h : Option Hdr} {f : Fmt} (hf : (fmodTy m).fmt h = some f) : LaneWidth f.width := by
  cases m with
  | f32 => cases hf; exact .inr (.inr rfl)
  | f16 => cases hf; exact .inr (.inl rfl)
  | bf16 => cases hf; exact .inr (.inl rfl)
  | f8 =>
    obtain ⟨h, -, rfl⟩ := Option.map_eq_some_iff.1 hf
    exact .inl (fmtB8_width _)

/-- The type of a lane modifier: an integer's, or a float modifier's. -/
theorem lmodTy_cases (m : LMod) : (∃ w sg, lmodTy m = .int w sg ∧ LaneWidth w) ∨ ∃ m', lmodTy m = fmodTy m' ∧ ∀ w sg, lmodTy m ≠ .int w sg := by
  cases m with
  | i m => exact .inl ⟨_, _, imodTy_eq m, modOf_width m⟩
  | f m => exact .inr ⟨m, rfl, fun w sg h => by cases m <;> cases h⟩

/-! ### The accumulator -/

/-- A position of the accumulator fits its width. -/
theorem posBits_lt (d : Payload) (w p : Nat) : posBits d w p < 2 ^ w := Nat.mod_lt _ (Nat.two_pow_pos w)

/-- A list's element where a range is mapped. -/
theorem nth_map_range {α : Type} (d : α) (f : Nat → α) {n p : Nat} (hp : p < n) : nth d ((List.range n).map f) p = f p := by
  rw [nth_eq_getD, getD_of_lt _ (by simpa using hp)]
  simp

/-- A position of the accumulator after a fold: the contribution, or what it held. -/
theorem posBits_foldAcc {w p : Nat} (hw : LaneWidth w) (x : Slot) {new : List (Option Nat)} (hp : p < 512 / w)
    (hn : ∀ q < 512 / w, (nth none new q).getD 0 < 2 ^ w) :
    posBits (foldAcc w x new).acc w p = (nth none new p).getD (posBits x.acc w p) := by
  have hv : ∀ q < 512 / w, nth none ((List.range (512 / w)).map (fun p => some ((nth none new p).getD (posBits x.acc w p)))) q =
      some ((nth none new q).getD (posBits x.acc w q)) := fun q hq => nth_map_range none _ hq
  have hlt : ∀ q < 512 / w, (some ((nth none new q).getD (posBits x.acc w q))).getD 0 < 2 ^ w := fun q hq => by
    have h := hn q hq
    cases hc : nth none new q with
    | none => exact posBits_lt _ _ _
    | some a => simpa [hc] using h
  have h := ((positions_tokOf hw false hv hlt).2.2 p hp).1
  simp only [tokOf, List.foldr_map] at h
  simpa only [foldAcc, List.foldr_map, Option.getD_some] using h

/-- Bits set one by one in a register of live positions. -/
theorem getLsbD_foldl_or (f : Nat → Bool) (m : BitVec 64) {n p : Nat} (hn : n ≤ 64) (hp : p < n) :
    ((List.range n).foldl (fun m p => if f p then m ||| BitVec.ofNat 64 (2 ^ p) else m) m).getLsbD p = (m.getLsbD p || f p) := by
  have hall : ∀ n, n ≤ 64 → ((List.range n).foldl (fun m p => if f p then m ||| BitVec.ofNat 64 (2 ^ p) else m) m).getLsbD p =
      (m.getLsbD p || (decide (p < n) && f p)) := by
    intro n
    induction n with
    | zero => simp
    | succ n ih =>
      intro hn
      rw [List.range_succ, List.foldl_append, List.foldl_cons, List.foldl_nil, apply_ite (BitVec.getLsbD · p), BitVec.getLsbD_or,
        ih (by omega), BitVec.getLsbD_ofNat, Nat.testBit_two_pow]
      by_cases h : n = p
      · subst h; cases f n <;> simp; omega
      · have h' : p < n + 1 ↔ p < n := by omega
        cases f n <;> simp [h, h']
  simpa [hp] using hall n hn

/-- A position is live after a fold where it was, or received a contribution. -/
theorem accLive_foldAcc {w p : Nat} (hw : LaneWidth w) (x : Slot) (new : List (Option Nat)) (hp : p < 512 / w) :
    (foldAcc w x new).accLive.getLsbD p = (x.accLive.getLsbD p || (nth none new p).isSome) :=
  getLsbD_foldl_or (fun p => (nth none new p).isSome) x.accLive (by rcases hw with rfl | rfl | rfl <;> decide) hp

/-- The accumulator as RUN sends it (R337). -/
theorem sendsAcc_accToken {w : Nat} (hw : LaneWidth w) {x y : Slot} (hc : y.accPoison = x.accPoison) (pred : Bool) :
    SendsAcc x y w pred (if accRun x then some (accToken w pred y) else none) := by
  refine ⟨fun h => by simp [h], fun h hp => by simp [h, accToken, hc, hp], fun h hp => ?_⟩
  refine ⟨accToken w pred y, by simp only [h, if_true], ?_⟩
  simp only [accToken, hc, hp, Bool.false_eq_true, if_false]
  refine positions_tokOf hw _ (fun p hp => nth_map_range none _ hp) (fun p _ => ?_)
  split
  · exact posBits_lt _ _ _
  · exact Nat.two_pow_pos w

/-- The slot after a data firing of an accumulating operation: consumed, with the contributions folded in. -/
def folded (i : Instr) (w : Nat) (x : Slot) (new : List (Option Nat)) : Slot :=
  { x.consume i with acc := (foldAcc w x new).acc, accLive := (foldAcc w x new).accLive }

/-- After a data firing the slot is consumed with its contributions folded in, and RUN sends the accumulator (R337). -/
theorem accAfter_foldAcc {x : Slot} {l : Token} (hl : x.l = some l) (i : Instr) (ta tb : Target) (w : Nat) (e : Env) (s : State)
    (new : List (Option Nat)) (evs : List Nat) :
    accAfter i ta tb w e s x (foldAcc w x new) evs = countEvents (emit s e (folded i w x new) ta tb
      (if accRun x then some (accToken w l.pred (folded i w x new)) else none)
      (if accRun x then some (accToken w l.pred (folded i w x new)) else none)) e.ctx e.t evs := by
  rw [show l = tokIn x.l by rw [hl]; rfl]
  rfl

/-! ### Firings -/

section
variable {s : State} {e : Env} {x : Slot} {ta tb : Target} {l r : Token} (ha : SlotAt s e x ta tb) (hu : Ungated s e x)
  (hl : DataL x l)
include ha hu hl

/-- FMAC with data: products are added, rounded once (R322, R337). -/
theorem exec_fmac {m : FMod} {fl fr : Fmt} (hd : DataR x r) (hfl : (fmodTy m).fmt x.hl = some fl)
    (hfr : (fmodTy m).fmt x.hr = some fr) {c : List (Option Nat) × List Nat}
    (hc : c = roundAll fl e.sat8 (((zipVal mulV (valList fl x.hl l).1 (valList fr x.hr r).1).zip (accVals fl x)).map (fun pc =>
      pc.1.map (fun p => ((addV pc.2 p.1).1, p.2 ++ (addV pc.2 p.1).2))))) :
    exec (.fmac m ta tb) s = .next (accAfter (.fmac m ta tb) ta tb fl.width e s x (foldAcc fl.width x c.1)
      ((valList fl x.hl l).2 ++ (valList fr x.hr r).2 ++ c.2)) := by
  subst hc
  refine (show _ = execFmac m ta tb s from rfl).trans ((onSlot_fires_two _ ha hu rfl rfl hl hd).trans ?_)
  simp only [SlotOp.plain, hfl, hfr, hl.1, hd.1, tokIn, Option.getD_some]

/-- ACC with integers (R337). -/
theorem exec_acc_int {m : LMod} {w : Nat} {sg : Bool} (hm : lmodTy m = .int w sg) :
    exec (.acc m ta tb) s = .next (accAfter (.acc m ta tb) ta tb w e s x (foldAcc w x ((posList w x.hl l).zipIdx.map (fun v =>
      v.1.map (fun v' => (posBits x.acc w v.2 + v') % 2 ^ w)))) []) := by
  refine (show _ = execAcc m ta tb s from rfl).trans ((onSlot_fires_one _ ha hu rfl rfl hl).trans ?_)
  simp only [SlotOp.plain, hm, hl.1, tokIn, Option.getD_some]

/-- ACC with floats: rounded once (R322, R337). -/
theorem exec_acc_float {m : LMod} {fl : Fmt} (hm : ∀ w sg, lmodTy m ≠ .int w sg) (hfl : (lmodTy m).fmt x.hl = some fl)
    {c : List (Option Nat) × List Nat}
    (hc : c = roundAll fl e.sat8 (((valList fl x.hl l).1.zip (accVals fl x)).map (fun vc => vc.1.map (fun v => addV vc.2 v)))) :
    exec (.acc m ta tb) s = .next (accAfter (.acc m ta tb) ta tb fl.width e s x (foldAcc fl.width x c.1)
      ((valList fl x.hl l).2 ++ c.2)) := by
  subst hc
  refine (show _ = execAcc m ta tb s from rfl).trans ((onSlot_fires_one _ ha hu rfl rfl hl).trans ?_)
  cases hy : lmodTy m with
  | int w sg => exact absurd hy (hm w sg)
  | flt f c => simp only [SlotOp.plain, ← hy, hfl, hl.1, tokIn, Option.getD_some]
  | f8 => simp only [SlotOp.plain, ← hy, hfl, hl.1, tokIn, Option.getD_some]

/-- f8 data without a header, on L or R: FMTMIS, and the accumulator is poisoned (R316). -/
theorem exec_fmac_noHeader (hd : DataR x r) (hh : x.hl = none ∨ x.hr = none) :
    exec (.fmac .f8 ta tb) s = .next (raiseUnit (accPoisoned (.fmac .f8 ta tb) ta tb e s x) e 0 Cause.fmtmis) := by
  refine (show _ = execFmac .f8 ta tb s from rfl).trans ((onSlot_fires_two _ ha hu rfl rfl hl hd).trans ?_)
  rcases hh with hh | hh <;> simp [fmodTy, ETy.fmt, hh, SlotOp.plain]

/-- f8 data of ACC without a header (R316). -/
theorem exec_acc_noHeader (hh : x.hl = none) :
    exec (.acc (.f .f8) ta tb) s = .next (raiseUnit (accPoisoned (.acc (.f .f8) ta tb) ta tb e s x) e 0 Cause.fmtmis) := by
  refine (show _ = execAcc (.f .f8) ta tb s from rfl).trans ((onSlot_fires_one _ ha hu rfl rfl hl).trans ?_)
  simp [lmodTy, fmodTy, ETy.fmt, hh, SlotOp.plain]

end

/-- The turn of an accumulating form: what it does with data is left open, poison and markers are R337's. -/
theorem exec_accOp {i : Instr} {ta tb : Target} {w : Nat} (hi : accOp i = some (ta, tb, w)) (s : State) :
    (readsOf i).1 = true ∧ takesP i = false ∧ ∃ y fire, exec i s = accForm s i y ta tb fire ∧ y.width = w := by
  unfold accOp at hi
  split at hi <;> cases hi <;> exact ⟨rfl, rfl, _, _, rfl, rfl⟩

/-- The sum of a position of the accumulator and one of L, modulo 2^w. -/
def accSums (w : Nat) (x : Slot) (l : Token) : List (Option Nat) :=
  (posList w x.hl l).zipIdx.map (fun v => v.1.map (fun v' => (posBits x.acc w v.2 + v') % 2 ^ w))

/-- A position of ACC's integer sums. -/
theorem nth_accSums {w p : Nat} (x : Slot) (l : Token) (hp : p < 512 / w) :
    nth none (accSums w x l) p = (nth none (posList w x.hl l) p).map (fun v => (posBits x.acc w p + v) % 2 ^ w) :=
  nth_zipIdx_map _ (by simpa using hp)

/-! ### O33 -/

/-- Settles O33: data folds into the accumulator, poison and markers by R337. -/
theorem elementAccumulate : Obligations.ElementAccumulate := by
  unfold Obligations.ElementAccumulate
  refine ⟨fun s e x ta tb l r ha hu hl => ⟨?fmac, ?accInt, ?accFloat, ?noHeader⟩, fun i s e x ta tb w k hi ha hu => ⟨?poison, ?mark⟩⟩
  case fmac =>
    intro m fl fr c hd hfl hfr hc
    have hs := sendsAcc_accToken (x := x) (y := folded (.fmac m ta tb) fl.width x c.1) (fmodTy_fmt_width hfl) rfl l.pred
    exact ⟨folded _ _ x _, _, (exec_fmac ha hu hl hd hfl hfr hc).trans (by rw [accAfter_foldAcc hl.1]), rfl, hs⟩
  case accInt =>
    intro m w sg hm
    obtain ⟨_, _, hm', hw⟩ | ⟨_, _, hn⟩ := lmodTy_cases m
    · obtain ⟨rfl, rfl⟩ := ETy.int.inj (hm.symm.trans hm')
      have hs := sendsAcc_accToken (x := x) (y := folded (.acc m ta tb) w x (accSums w x l)) hw rfl l.pred
      have hlt : ∀ q < 512 / w, (nth none (accSums w x l) q).getD 0 < 2 ^ w := fun q hq => by
        rw [nth_accSums x l hq]
        cases nth none (posList w x.hl l) q with
        | none => exact Nat.two_pow_pos w
        | some v => exact Nat.mod_lt _ (Nat.two_pow_pos w)
      refine ⟨folded _ _ x (accSums w x l), _, (exec_acc_int ha hu hl hm).trans (by rw [accAfter_foldAcc hl.1]; rfl), rfl, hs,
        fun p hp => ⟨?_, ?_⟩⟩
      · refine (accLive_foldAcc hw x _ hp).trans ?_
        rw [nth_accSums x l hp, Option.isSome_map]
      · refine (posBits_foldAcc hw x hp hlt).trans ?_
        rw [nth_accSums x l hp]
        cases nth none (posList w x.hl l) p <;> rfl
    · exact absurd hm (hn w sg)
  case accFloat =>
    intro m fl c hm hfl hc
    obtain ⟨_, _, hm', -⟩ | ⟨m', hm', -⟩ := lmodTy_cases m
    · exact absurd hm' (hm _ _)
    · have hs := sendsAcc_accToken (x := x) (y := folded (.acc m ta tb) fl.width x c.1) (fmodTy_fmt_width (hm' ▸ hfl)) rfl l.pred
      exact ⟨folded _ _ x _, _, (exec_acc_float ha hu hl hm hfl hc).trans (by rw [accAfter_foldAcc hl.1]), rfl, hs⟩
  case noHeader =>
    rintro i (⟨rfl, hd, hh⟩ | ⟨rfl, hh⟩) a rfl
    · exact exec_fmac_noHeader ha hu hl hd hh
    · exact exec_acc_noHeader ha hu hl hh
  case poison =>
    rintro l a hl hk hr rfl
    obtain ⟨h1, ht, y, fire, hx, -⟩ := exec_accOp hi s
    rw [hx, accForm, onSlot_poison (op := { SlotOp.plain i ta tb _ _ fire with poison := _, mark := _ }) ha hu h1 ht hl hk hr]
    rfl
  case mark =>
    intro hm
    obtain ⟨h1, ht, y, fire, hx, rfl⟩ := exec_accOp hi s
    have hmark := onSlot_mark (op := { SlotOp.plain i ta tb (fun _ h => y.accepts h) (fltRewrite y) fire with
      poison := accPoisoned i ta tb, mark := accMark i ta tb y.width }) ha hu h1 ht hm
    rw [hx, accForm, hmark]
    refine ⟨fun hc => ?_, fun hc hs => ?_, fun hc hs => ?_⟩
    · simp only [accMark, hc, Bool.false_eq_true, if_false, forwardMark]
    · simp only [accMark, hc, hs, if_true]
    · simp only [accMark, hc, hs, if_true, if_false, forwardMark]

end Sys2Proof.Machine
end

section
/-! PROOF. O36: lane movement: LSHUF, LBCAST, LCMPR and WINNOW (R316, R333, R334). -/
namespace Sys2Proof.Machine
open Sys2Proof.Claims

/-! ### Lane movement -/

section
variable {s : State} {e : Env} {x : Slot} {m : LMod} {ta tb : Target} {l r : Token} (ha : SlotAt s e x ta tb)
  (hu : Ungated s e x) (hl : DataL x l) (hh : lacksHeader (lmodTy m) x.hl = false)
include ha hu hl hh

/-- LSHUF: each position is the one of L that R's names (R333). -/
theorem exec_lshuf (hd : DataR x r) (hh' : lacksHeader (lmodTy m) x.hr = false) :
    ∃ evs, ∀ tok, tok = tokOf (lmodTy m).width l.pred ((posList (lmodTy m).width x.hr r).map (fun q => q.bind (fun v =>
        nth none (carried (lmodTy m) e.sat8 x.hl l).1 (v % (lmodTy m).count)))) →
      Fires (.lshuf m ta tb) s e x ta tb (some tok) (some tok) evs := by
  have hfire := (show exec (.lshuf m ta tb) s = execLshuf m ta tb s from rfl).trans (onSlot_fires_two _ ha hu rfl rfl hl hd)
  simp only [SlotOp.plain, hh, hh', Bool.or_self, Bool.false_eq_true, if_false, hl.1, hd.1, tokIn, Option.getD_some, fireOne] at hfire
  refine ⟨(carried (lmodTy m) e.sat8 x.hl l).2 ++ blockEvents x.hr r, fun tok ht => ?_⟩
  subst ht
  rw [Fires, hfire]
  congr <;> (funext q; cases q <;> rfl)

/-- LCMPR: the positions of L whose partner in R is not zero, in order, and their number (R334). -/
theorem exec_lcmpr (hd : DataR x r) (hh' : lacksHeader (lmodTy m) x.hr = false) :
    ∃ evs, Fires (.lcmpr m ta tb) s e x ta tb
      (some (tokOf (lmodTy m).width l.pred (packed (lmodTy m) e x l r ++
        List.replicate ((lmodTy m).count - (packed (lmodTy m) e x l r).length) none)))
      (some (laneZero 32 l.pred (packed (lmodTy m) e x l r).length)) evs := by
  have hfire := (show exec (.lcmpr m ta tb) s = execLcmpr m ta tb s from rfl).trans (onSlot_fires_two _ ha hu rfl rfl hl hd)
  simp only [SlotOp.plain, hh, hh', Bool.or_self, Bool.false_eq_true, if_false, hl.1, hd.1, tokIn, Option.getD_some] at hfire
  have hp : packed (lmodTy m) e x l r = (((carried (lmodTy m) e.sat8 x.hl l).1.zip (nonZero (lmodTy m) x.hr r)).filterMap
      (fun p => if p.2 then p.1 else none)).map some := by
    rw [packed, List.map_filterMap]
    congr
    funext p
    obtain ⟨_ | a, _ | _⟩ := p <;> rfl
  rw [hp, List.length_map]
  exact ⟨_, hfire⟩

/-- LBCAST: every position is the one of L that the constant names (R333). -/
theorem exec_lbcast : ∃ evs, Fires (.lbcast m ta tb) s e x ta tb
    (some (tokOf (lmodTy m).width l.pred (List.replicate (lmodTy m).count
      (nth none (carried (lmodTy m) e.sat8 x.hl l).1 (x.const.toNat % 64 % (lmodTy m).count)))))
    (some (tokOf (lmodTy m).width l.pred (List.replicate (lmodTy m).count
      (nth none (carried (lmodTy m) e.sat8 x.hl l).1 (x.const.toNat % 64 % (lmodTy m).count))))) evs := by
  have hfire := (show exec (.lbcast m ta tb) s = execLbcast m ta tb s from rfl).trans (onSlot_fires_one _ ha hu rfl rfl hl)
  simp only [SlotOp.plain, hh, Bool.false_eq_true, if_false, hl.1, tokIn, Option.getD_some, fireOne] at hfire
  exact ⟨_, hfire⟩

end

/-! ### WINNOW -/

/-- The slot after a firing of WINNOW: with the last group the token goes and the counter moves on; before it the next group is due. -/
def winnowNext (i : Instr) (y : ETy) (x : Slot) (l : Token) : Slot :=
  if (winnowed y x l).length ≤ 16 * (x.sub + 1) then
    { x.consume i with acc := BitVec.ofNat 512 ((x.acc.toNat % 2 ^ 32 + y.count) % 2 ^ 32) }
  else { x with sub := x.sub + 1 }

/-- A group's positions as numbers from the counter on, padded to 16. -/
def winnowIndices (x : Slot) (g : List Nat) : List (Option Nat) :=
  g.map (fun p => some ((x.acc.toNat % 2 ^ 32 + p) % 2 ^ 32)) ++ List.replicate (16 - g.length) none

/-- A group's index token (R334). -/
theorem winnowIndices_positions (x : Slot) (pred : Bool) (g : List Nat) :
    Positions (tokOf 32 pred (winnowIndices x g)) 32 pred
      (fun q => g[q]?.map (fun p => (x.acc.toNat % 2 ^ 32 + p) % 2 ^ 32)) := by
  refine positions_tokOf (.inr (.inr rfl)) _ (fun p hp => ?_) fun p _ => ?_
  · rw [winnowIndices, nth_eq_getD, List.getD_eq_getElem?_getD]
    by_cases h : p < g.length
    · rw [List.getElem?_append_left (by simpa using h)]
      simp [h]
    · rw [List.getElem?_append_right (by simpa using h), List.getElem?_eq_none (l := g) (by omega)]
      simp only [List.length_map, List.getElem?_replicate, Option.map_none]
      split <;> rfl
  · cases g[p]? with
    | none => exact Nat.two_pow_pos 32
    | some a => exact Nat.mod_lt _ (Nat.two_pow_pos 32)

section
variable {s : State} {e : Env} {x : Slot} {m : LMod} {ta tb : Target} {l : Token} (ha : SlotAt s e x ta tb)
  (hu : Ungated s e x)
include ha hu

/-- A firing of WINNOW: nothing where the group is empty, else its indices and its values (R334). -/
theorem exec_winnow (hl : DataL x l) (hh : lacksHeader (lmodTy m) x.hl = false) {g : List Nat}
    (hg : ((winnowed (lmodTy m) x l).drop (16 * x.sub)).take 16 = g) :
    ∃ evs, (g = [] → exec (.winnow m ta tb) s =
        .next (countEvents (setSlot s e.t e.n (winnowNext (.winnow m ta tb) (lmodTy m) x l)) e.ctx e.t evs)) ∧
      (g ≠ [] → exec (.winnow m ta tb) s =
        .next (countEvents (emit s e (winnowNext (.winnow m ta tb) (lmodTy m) x l) ta tb
          (some (tokOf 32 l.pred (winnowIndices x g)))
          (some (tokOf (lmodTy m).width l.pred (g.map (fun p => nth none (carried (lmodTy m) e.sat8 x.hl l).1 p) ++
            List.replicate ((lmodTy m).count - g.length) none)))) e.ctx e.t evs)) := by
  have hfire := (show exec (.winnow m ta tb) s = execWinnow m ta tb s from rfl).trans (onSlot_fires_one _ ha hu rfl rfl hl)
  have ht : tokIn x.l = l := by rw [hl.1]; rfl
  simp only [SlotOp.plain, hh, Bool.false_eq_true, if_false, ht, ← winnowed.eq_1, hg, List.length_map] at hfire
  refine ⟨if x.sub = 0 then (carried (lmodTy m) e.sat8 x.hl l).2 else [], fun h => ?_, fun h => ?_⟩
  · rw [hfire, h, List.isEmpty_nil, if_pos rfl]; rfl
  · rw [hfire, if_neg (by simpa using h)]; rfl

/-- A marker at WINNOW: forwarded, the counter set back where it closes the level (R334). -/
theorem exec_winnow_mark {k : TokKind} (hm : MarksIn (.winnow m ta tb) x k) :
    exec (.winnow m ta tb) s = .next (winnowMark (.winnow m ta tb) ta tb e s x k) :=
  (show exec (.winnow m ta tb) s = execWinnow m ta tb s from rfl).trans (onSlot_mark ha hu rfl rfl hm)

end

/-! ### f8 data without a header -/

/-- f8 data without a header at a lane movement: FMTMIS, and poison goes on (R316). -/
theorem exec_lanes_noHeader {s : State} {e : Env} {x : Slot} {m : LMod} {ta tb : Target} {i : Instr} {l : Token}
    (ha : SlotAt s e x ta tb) (hu : Ungated s e x) (hl : DataL x l)
    (hi : i ∈ [Instr.lshuf m ta tb, .lbcast m ta tb, .lcmpr m ta tb, .winnow m ta tb])
    (hr : (readsOf i).2 = true → ∃ r, DataR x r)
    (hh : lacksHeader (lmodTy m) x.hl = true ∨ (readsOf i).2 = true ∧ lacksHeader (lmodTy m) x.hr = true) :
    exec i s = .next (noHeader i ta tb e s x) := by
  simp only [List.mem_cons, List.not_mem_nil, or_false] at hi
  obtain rfl | rfl | rfl | rfl := hi
  · obtain ⟨r, hd⟩ := hr rfl
    refine (show _ = execLshuf m ta tb s from rfl).trans ((onSlot_fires_two _ ha hu rfl rfl hl hd).trans ?_)
    rcases hh with h | ⟨-, h⟩ <;> simp [SlotOp.plain, h]
  · refine (show _ = execLbcast m ta tb s from rfl).trans ((onSlot_fires_one _ ha hu rfl rfl hl).trans ?_)
    rcases hh with h | ⟨h, -⟩
    · simp [SlotOp.plain, h]
    · cases h
  · obtain ⟨r, hd⟩ := hr rfl
    refine (show _ = execLcmpr m ta tb s from rfl).trans ((onSlot_fires_two _ ha hu rfl rfl hl hd).trans ?_)
    rcases hh with h | ⟨-, h⟩ <;> simp [SlotOp.plain, h]
  · refine (show _ = execWinnow m ta tb s from rfl).trans ((onSlot_fires_one _ ha hu rfl rfl hl).trans ?_)
    rcases hh with h | ⟨h, -⟩
    · simp [SlotOp.plain, h]
    · cases h

/-! ### O36 -/

/-- Settles O36: each operation by its own firing; WINNOW's groups of up to 16. -/
theorem elementLanes : Obligations.ElementLanes := by
  unfold Obligations.ElementLanes
  refine ⟨fun s e x m ta tb l r ha hu hl hh => ⟨fun hd hh' => ⟨?_, exec_lcmpr ha hu hl hh hd hh'⟩, exec_lbcast ha hu hl hh, ?_⟩,
    fun s e x m ta tb i l ha hu hl hi hr hh => exec_lanes_noHeader ha hu hl hi hr hh, fun s e x m ta tb k ha hu hm y hy => ?_⟩
  · obtain ⟨evs, h⟩ := exec_lshuf ha hu hl hh hd hh'
    exact ⟨evs, h _ rfl⟩
  · rintro z rfl
    refine ⟨fun hg => ?_, fun g hg hne => ?_⟩
    · obtain ⟨evs, h, -⟩ := exec_winnow ha hu hl hh hg
      exact ⟨evs, h rfl⟩
    · obtain ⟨evs, -, h⟩ := exec_winnow ha hu hl hh hg
      exact ⟨_, evs, h hne, winnowIndices_positions x l.pred g⟩
  · subst hy
    rw [exec_winnow_mark ha hu hm]
    rfl

end Sys2Proof.Machine
end

section
/-! PROOF. O37: PASS, CONST, SJOIN and IOTA (R314, R336, R338, R339). -/
namespace Sys2Proof.Machine
open Sys2Proof.Claims

section
variable {s : State} {e : Env} {x : Slot} {ta tb : Target} (ha : SlotAt s e x ta tb)
include ha

/-! ### PASS, CONST and SJOIN -/

section
variable {l r : Token} (hu : Ungated s e x) (hl : DataL x l)
include hu hl

/-- PASS sends L's token (R338). -/
theorem exec_pass : Fires (.pass ta tb) s e x ta tb (some l) (some l) [] := by
  have hfire := (show exec (.pass ta tb) s = execPass ta tb s from rfl).trans (onSlot_fires_one _ ha hu rfl rfl hl)
  simp only [SlotOp.plain, fireOne, hl.1, tokIn, Option.getD_some] at hfire
  exact hfire

/-- CONST sends the constant in L's live lanes (R314, R338). -/
theorem exec_const : ∃ tok, Fires (.const ta tb) s e x ta tb (some tok) (some tok) [] ∧
    Positions tok 32 l.pred (fun p => if l.mask.getLsbD p then some x.const.toNat else none) := by
  have hfire := (show exec (.const ta tb) s = execConst ta tb s from rfl).trans (onSlot_fires_one _ ha hu rfl rfl hl)
  simp only [SlotOp.plain, fireOne, hl.1, tokIn, Option.getD_some] at hfire
  refine ⟨_, hfire, positions_tokOf (.inr (.inr rfl)) _ (fun p hp => nth_map_range none _ hp) fun p _ => ?_⟩
  split
  · exact x.const.isLt
  · exact Nat.two_pow_pos 32

/-- SJOIN with L's key the lesser, by an entry that takes L and sends its token to the first target (R336). -/
theorem exec_sjoin_less {m : LMod} {a b : Key} (hd : DataR x r) (hh : lacksHeader (lmodTy m) x.hl = false)
    (hh' : lacksHeader (lmodTy m) x.hr = false) (hka : keyOf (lmodTy m) x.hl l = some a) (hkb : keyOf (lmodTy m) x.hr r = some b)
    (hc : keyCmp a b = .lt) (he : x.const.toNat % 256 = 0x11) :
    ∃ y evs, exec (.sjoin m ta tb) s = .next (countEvents (emit s e y ta tb (some l) none) e.ctx e.t evs) ∧ y.l = none ∧
      y.r = some r ∧ y.cnt = x.cnt := by
  refine ⟨{ joinTake { x with p := none, hp := hdrAfter x.hp true x.p, misRaised := false } .l with cnt := x.cnt },
    keyEvents (lmodTy m) x.hl l, ?_, rfl, hd.1, rfl⟩
  refine (show _ = execSjoin m ta tb s from rfl).trans ((onSlot_fires_two _ ha hu rfl rfl hl hd).trans ?_)
  have htl : tokIn x.l = l := by rw [hl.1]; rfl
  have htr : tokIn x.r = r := by rw [hd.1]; rfl
  simp [SlotOp.plain, joinFire, htl, htr, hh, hh', hka, hkb, hc, he, joinSend]

end

/-! ### IOTA -/

/-- IOTA is its slot's turn (R339). -/
theorem exec_iota (m : LMod) : exec (.iota m ta tb) s = .next (iotaRun (lmodTy m) ta tb e s x) := by
  obtain ⟨he, hx, -⟩ := ha
  simp only [show exec (.iota m ta tb) s = execIota m ta tb s from rfl, execIota, he, hx]

variable {y : ETy} (hn : x.ended = false)
include hn

/-- Before its section's edge IOTA sends a round marker (R220). -/
theorem iotaRun_round (hx : x.edge < e.edges) : iotaRun y ta tb e s x =
    emit s e { x with edge := x.edge + 1 } ta tb (some (bare .round)) (some (bare .round)) := by
  obtain ⟨-, -, -, hs, -, hb⟩ := ha
  simp [iotaRun, hn, hs, hb, hx]

variable (hx : e.edges ≤ x.edge)
include hx

/-- After its last number IOTA sends EOS (R339). -/
theorem iotaRun_eos (hc : x.const.toNat ≤ x.cnt) : iotaRun y ta tb e s x =
    emit s e { x with ended := true } ta tb (some (bare .eos)) (some (bare .eos)) := by
  obtain ⟨-, -, -, hs, -, hb⟩ := ha
  simp [iotaRun, hn, hs, hb, Nat.not_lt.2 hx, hc]

/-- IOTA with nothing bound to P sends its next numbers (R339). -/
theorem iotaRun_data (hc : x.cnt < x.const.toNat) (hp : pBound s e.t e.n = false) : iotaRun y ta tb e s x =
    countEvents (emit s e { x with cnt := x.cnt + y.count } ta tb (some (iotaToken y x.const.toNat x.cnt).1)
      (some (iotaToken y x.const.toNat x.cnt).1)) e.ctx e.t (iotaToken y x.const.toNat x.cnt).2 := by
  obtain ⟨-, -, -, hs, -, hb⟩ := ha
  simp [iotaRun, hn, hs, hb, Nat.not_lt.2 hx, Nat.not_le.2 hc, hp]

end

/-- Integers of IOTA count no event. -/
theorem iotaToken_events (w : Nat) (sg : Bool) (n a : Nat) : (iotaToken (.int w sg) n a).2 = [] := by
  simp only [iotaToken, List.flatMap_map, List.flatMap_eq_nil_iff]
  intro p _
  split <;> rename_i h
  · split at h
    · cases h; rfl
    · cases h
  · rfl

/-- Integers of IOTA: consecutive ones below its end (R339). -/
theorem iotaToken_positions {w : Nat} (hw : LaneWidth w) (sg : Bool) (n a : Nat) :
    Positions (iotaToken (.int w sg) n a).1 w false (fun p => if a + p < n then some ((a + p) % 2 ^ w) else none) := by
  refine positions_tokOf hw _ (fun p hp => ?_) fun p _ => ?_
  · simp only [List.map_map]
    refine (nth_map_range none _ hp).trans ?_
    simp only [Function.comp_apply, apply_ite (Option.map _), Option.map_some, Option.map_none]
    rfl
  · split
    · exact Nat.mod_lt _ (Nat.two_pow_pos w)
    · exact Nat.two_pow_pos w

/-! ### O37 -/

/-- Settles O37: PASS, CONST and SJOIN by their firings, IOTA by its turn. -/
theorem elementStreams : Obligations.ElementStreams := by
  unfold Obligations.ElementStreams
  intro s e x ta tb ha
  refine ⟨fun l hu hl => ⟨exec_pass ha hu hl, exec_const ha hu hl⟩,
    fun m l r a b hu hl hd hh hh' hka hkb hc he => exec_sjoin_less ha hu hl hd hh hh' hka hkb hc he, ?eos, ?ints, ?floats, ?round⟩
  case eos => exact fun m hn hx hc => ⟨_, by rw [exec_iota ha, iotaRun_eos ha hn hx hc], rfl⟩
  case ints =>
    intro m w sg hm hn hx hc hp
    obtain ⟨_, _, hm', hw⟩ | ⟨_, _, hne⟩ := lmodTy_cases m
    · obtain ⟨rfl, rfl⟩ := ETy.int.inj (hm.symm.trans hm')
      exact ⟨_, _, by rw [exec_iota ha, iotaRun_data ha hn hx hc hp, hm, iotaToken_events], rfl, iotaToken_positions hw sg _ _⟩
    · exact absurd hm (hne w sg)
  case floats =>
    intro m f c hm hn hx hc hp
    exact ⟨_, _, by rw [exec_iota ha, iotaRun_data ha hn hx hc hp], by rw [hm]; rfl⟩
  case round => exact fun m hn hx => ⟨_, by rw [exec_iota ha, iotaRun_round ha hn hx], rfl⟩

end Sys2Proof.Machine
end

section
/-! PROOF. O41: the operator units' ordinary moves (R349, R350, R354 to R356). -/
namespace Sys2Proof.Machine
open Sys2Proof.Claims

/-! ### Units and their decisions -/

/-- A unit that does not stand at its stop edge runs its event (R221, R347). -/
theorem onUnit_of_unitAt {s : State} {kind : Nat} {e : Env} {x : OpUnit} (k : Env → State → OpUnit → State)
    (h : UnitAt s kind e x) : onUnit s kind k = .next (k e s x) :=
  onUnit_next k h.1 h.2.1 h.2.2.1

/-- It does not hold at a stop edge. -/
theorem opStopped_of_unitAt {s : State} {kind : Nat} {e : Env} {x : OpUnit} (h : UnitAt s kind e x) : opStopped e x = false :=
  h.2.2.2

/-- The head of an input, as the units read it. -/
theorem headOf_of_head {s : State} {e : Env} {inp : Nat} {tok : Token} (h : Head s e inp tok) : headOf s e e.n inp = some tok := h

/-- A data decision lets the token through as it is (R349). -/
theorem decisionOf_data {inv c : Bool} {d : Token} (hd : d.kind = .data) (hc : c = (d.pred != inv)) :
    decisionOf inv d = some (c, false) := by
  simp [decisionOf, hd, hc]

@[simp] theorem data_isMark : TokKind.data.isMark = false := rfl

@[simp] theorem spoiled_false (tok : Token) : spoiled false tok = tok := rfl

/-- A marker is no header. -/
theorem ne_header_of_isMark {k : TokKind} (h : k.isMark = true) : k ≠ .header := fun hk => by subst hk; cases h

section
variable {s : State} {e : Env} {x : OpUnit} {a b d : Token} {c : Bool}

/-! ### STEER, MERGE, SELECT, FILTER (R350) -/

/-- STEER sends A's token to the output that the decision names. -/
theorem exec_steer_moves (hu : UnitAt s 1 e x) (ha : Head s e 0 a) (hd : Head s e 2 d) (hp : Plain a) (hk : d.kind = .data)
    (hc : c = (d.pred != bitOf x.recd 4)) (hf : outFree s e e.n c.toNat = true) :
    exec .steer s = .next (outPush (popIn (popIn s e e.n 0) e e.n 2) e e.n c.toNat a) := by
  refine (show exec .steer s = execSteer s from rfl).trans ((onUnit_of_unitAt _ hu).trans ?_)
  simp [opStopped_of_unitAt hu, headOf_of_head ha, headOf_of_head hd, hp.1, hp.2, hk, decisionOf_data hk hc, hf]

/-- STEER takes equal markers from A and D in lockstep. -/
theorem exec_steer_marks (hu : UnitAt s 1 e x) (ha : Head s e 0 a) (hd : Head s e 2 d) (hm : a.kind.isMark = true)
    (hk : d.kind = a.kind) (hf : outsFree s e e.n [0, 1] = true) :
    exec .steer s = .next (outAll (setUnit (popIn (popIn s e e.n 0) e e.n 2) e.t e.n (x.passed a.kind)) e e.n [0, 1] (bare a.kind)) := by
  refine (show exec .steer s = execSteer s from rfl).trans ((onUnit_of_unitAt _ hu).trans ?_)
  simp [opStopped_of_unitAt hu, headOf_of_head ha, headOf_of_head hd, ne_header_of_isMark hm, hk, hm, lockstep, hf]

/-- MERGE takes the token of the input that the decision names. -/
theorem exec_merge_moves (hu : UnitAt s 2 e x) (hd : Head s e 2 d) (hk : d.kind = .data) (hc : c = (d.pred != bitOf x.recd 4))
    (ha : Head s e c.toNat a) (hp : Plain a) (ho : ∀ tok, Head s e (!c).toNat tok → tok.kind ≠ .header)
    (hf : outFree s e e.n 0 = true) :
    exec .merge s = .next (outPush (popIn (popIn s e e.n 2) e e.n c.toNat) e e.n 0 a) := by
  refine (show exec .merge s = execMerge s from rfl).trans ((onUnit_of_unitAt _ hu).trans ?_)
  have hdec := decisionOf_data hk hc
  have hno : (match headOf s e e.n (!c).toNat with | some t => t.kind == .header | none => false) = false := by
    cases h : headOf s e e.n (!c).toNat with
    | none => rfl
    | some t => simpa using ho t h
  cases c with
  | false =>
    simp [opStopped_of_unitAt hu, headOf_of_head (inp := 0) ha, headOf_of_head hd, hp.1, hp.2, hk, hdec, hf]
    exact fun h => Bool.noConfusion (hno.symm.trans h)
  | true =>
    simp [opStopped_of_unitAt hu, headOf_of_head (inp := 1) ha, headOf_of_head hd, hp.1, hp.2, hk, hdec, hf]
    exact fun h => Bool.noConfusion (hno.symm.trans h)

/-- SELECT takes a token of each input and lets the one go on that the decision names. -/
theorem exec_select_moves (hu : UnitAt s 3 e x) (ha : Head s e 0 a) (hb : Head s e 1 b) (hd : Head s e 2 d) (hp : Plain a)
    (hq : Plain b) (hk : d.kind = .data) (hc : c = (d.pred != bitOf x.recd 4)) (hf : outFree s e e.n 0 = true) :
    exec .select s = .next (outPush (popIn (popIn (popIn s e e.n 0) e e.n 1) e e.n 2) e e.n 0 (if c then b else a)) := by
  refine (show exec .select s = execSelect s from rfl).trans ((onUnit_of_unitAt _ hu).trans ?_)
  simp [opStopped_of_unitAt hu, headOf_of_head ha, headOf_of_head hb, headOf_of_head hd, hp.1, hp.2, hq.1, hq.2, hk,
    decisionOf_data hk hc, hf]

/-- FILTER drops data whose PRED is its record's. -/
theorem exec_filter_drops (hu : UnitAt s 7 e x) (ha : Head s e 0 a) (hk : a.kind = .data) (hp : a.pred = bitOf x.recd 4) :
    exec .filter s = .next (popIn s e e.n 0) := by
  refine (show exec .filter s = execFilter s from rfl).trans ((onUnit_of_unitAt _ hu).trans ?_)
  simp [opStopped_of_unitAt hu, headOf_of_head ha, hk, hp]

/-- FILTER passes every other token. -/
theorem exec_filter_passes (hu : UnitAt s 7 e x) (ha : Head s e 0 a) (hk : a.kind ≠ .data ∨ a.pred ≠ bitOf x.recd 4)
    (hf : outFree s e e.n 0 = true) :
    exec .filter s = .next (outPush (setUnit (popIn s e e.n 0) e.t e.n (x.passed a.kind)) e e.n 0 a) := by
  refine (show exec .filter s = execFilter s from rfl).trans ((onUnit_of_unitAt _ hu).trans ?_)
  have hn : (a.kind == .data && a.pred == bitOf x.recd 4) = false := by
    rcases hk with hk | hk <;> simp [hk]
  simp [opStopped_of_unitAt hu, headOf_of_head ha, hn, hf]

/-! ### DISTRIB and COLLECT (R354) -/

section
variable (hu : UnitAt s 8 e x) (hr : x.ring.length < 256) (ha : Head s e 0 a) (hp : Plain a)
include hu hr ha hp

/-- DISTRIB by decisions: the token goes to the output that D's names, which the ring notes. -/
theorem exec_distrib_decided (hm : bitsOf x.recd 5 4 = 0) (hd : Head s e 2 d) (hk : d.kind = .data)
    (hf : outFree s e e.n d.pred.toNat = true) :
    exec .distrib s = .next (popIn (outPush (setUnit (popIn s e e.n 0) e.t e.n { x with ring := x.ring ++ [d.pred.toNat] }) e e.n
      d.pred.toNat a) e e.n 2) := by
  refine (show exec .distrib s = execDistrib s from rfl).trans ((onUnit_of_unitAt _ hu).trans ?_)
  simp [opStopped_of_unitAt hu, Nat.not_le.2 hr, hm, headOf_of_head ha, headOf_of_head hd, hp.1, hp.2, hk,
    decisionOf_data (inv := false) hk (Bool.bne_false d.pred).symm, hf]

/-- DISTRIB in turn: the token goes to the output whose turn it is. -/
theorem exec_distrib_inTurn (hm : bitsOf x.recd 5 4 = 1) (hf : outFree s e e.n x.toggle.toNat = true) :
    exec .distrib s = .next (outPush (setUnit (popIn s e e.n 0) e.t e.n
      { x with ring := x.ring ++ [x.toggle.toNat], toggle := !x.toggle }) e e.n x.toggle.toNat a) := by
  refine (show exec .distrib s = execDistrib s from rfl).trans ((onUnit_of_unitAt _ hu).trans ?_)
  simp [opStopped_of_unitAt hu, Nat.not_le.2 hr, hm, headOf_of_head ha, hp.1, hp.2, hf]

/-- DISTRIB to the first output with room. -/
theorem exec_distrib_room (hm : 2 ≤ bitsOf x.recd 5 4) (hf : outFree s e e.n 0 = true ∨ outFree s e e.n 1 = true) :
    exec .distrib s = .next (outPush (setUnit (popIn s e e.n 0) e.t e.n
      { x with ring := x.ring ++ [if outFree s e e.n 0 then 0 else 1] }) e e.n (if outFree s e e.n 0 then 0 else 1) a) := by
  refine (show exec .distrib s = execDistrib s from rfl).trans ((onUnit_of_unitAt _ hu).trans ?_)
  have h0 : bitsOf x.recd 5 4 ≠ 0 := by omega
  have h1 : bitsOf x.recd 5 4 ≠ 1 := by omega
  cases h : outFree s e e.n 0 with
  | true => simp [opStopped_of_unitAt hu, Nat.not_le.2 hr, h0, h1, headOf_of_head ha, hp.1, hp.2, h]
  | false =>
    have hf' : outFree s e e.n 1 = true := by simpa [h] using hf
    simp [opStopped_of_unitAt hu, Nat.not_le.2 hr, h0, h1, headOf_of_head ha, hp.1, hp.2, hf']

end

/-- COLLECT takes the token of the input that its DISTRIB's ring names first. -/
theorem exec_collect_takes {o : Nat} {rest : List Nat} (hu : UnitAt s 9 e x)
    (hr : (getUnit s e.t (bitsOf x.recd 5 4)).ring = o :: rest) (ho : o < 2) (ha : Head s e o a) (hf : outFree s e e.n 0 = true) :
    exec .collect s = .next (outPush (setUnit (popIn s e e.n o) e.t (bitsOf x.recd 5 4)
      { getUnit (popIn s e e.n o) e.t (bitsOf x.recd 5 4) with ring := rest }) e e.n 0 a) := by
  refine (show exec .collect s = execCollect s from rfl).trans ((onUnit_of_unitAt _ hu).trans ?_)
  simp [opStopped_of_unitAt hu, hr, ho, headOf_of_head ha, hf]

/-! ### TAP (R355) -/

/-- The arrival of a TAP at its barrier. -/
def tapArrival (e : Env) (x : OpUnit) : Arrival :=
  ⟨bitsOf x.recd 63 32, if bitsOf x.recd 31 8 = 0 then 1 else bitsOf x.recd 31 8, e.ctx, e.lid, .tap e.t e.n⟩

section
variable (hu : UnitAt s 10 e x) (ha : Head s e 0 a) (hf : outFree s e e.n 0 = true)
include hu ha hf

/-- TAP passes its token; one that does not close its level sends no arrival. -/
theorem exec_tap_passes (hm : (a.kind.isMark && closes (bitsOf x.recd 7 6) a.kind) = false) :
    exec .tap s = .next (outPush (setUnit (popIn s e e.n 0) e.t e.n (x.passed a.kind)) e e.n 0 a) := by
  refine (show exec .tap s = execTap s from rfl).trans ((onUnit_of_unitAt _ hu).trans ?_)
  simp only [opStopped_of_unitAt hu, headOf_of_head ha, hf, hm, Bool.not_true, Bool.false_eq_true, if_false]

/-- TAP passes a marker that closes its level, and sends an arrival. -/
theorem exec_tap_arrives (hm : (a.kind.isMark && closes (bitsOf x.recd 7 6) a.kind) = true) :
    exec .tap s = .next { outPush (setUnit (popIn s e e.n 0) e.t e.n (x.passed a.kind)) e e.n 0 a with
      bar := { (outPush (setUnit (popIn s e e.n 0) e.t e.n (x.passed a.kind)) e e.n 0 a).bar with
        arrivals := (outPush (setUnit (popIn s e e.n 0) e.t e.n (x.passed a.kind)) e e.n 0 a).bar.arrivals ++ [tapArrival e x] } } := by
  refine (show exec .tap s = execTap s from rfl).trans ((onUnit_of_unitAt _ hu).trans ?_)
  simp only [opStopped_of_unitAt hu, headOf_of_head ha, hf, hm, Bool.not_true, Bool.false_eq_true, if_false, if_true]
  rfl

end

/-- Taking a token from an input leaves the barriers. -/
@[simp] theorem popIn_bar (s : State) (e : Env) (u inp : Nat) : (popIn s e u inp).bar = s.bar := by
  have hserved : ∀ (hops : List (Tid × Nat)) (s : State), (hops.foldl served s).bar = s.bar := by
    intro hops
    induction hops with
    | nil => exact fun _ => rfl
    | cons h hops ih => exact fun s => (ih _).trans rfl
  unfold popIn inPop
  split
  · exact hserved _ _
  · rfl

/-- Emitting a token leaves the barriers. -/
@[simp] theorem outPush_bar (s : State) (e : Env) (u o : Nat) (tok : Token) : (outPush s e u o tok).bar = s.bar := by
  unfold outPush
  split <;> rfl

/-- A field of a word fits its bits. -/
theorem bitsOf_lt (v : Word) (h l : Nat) : bitsOf v h l < 2 ^ (h + 1 - l) := Nat.mod_lt _ (Nat.two_pow_pos _)

/-- Level of an end marker. -/
theorem level_endOf {l : Nat} (h0 : 0 < l) (h4 : l < 4) : (endOf l).level = l ∧ (endOf l).isMark = true ∧ endOf l ≠ .eos := by
  obtain rfl | rfl | rfl : l = 1 ∨ l = 2 ∨ l = 3 := by omega
  all_goals exact ⟨rfl, rfl, by decide⟩

/-! ### SEAL (R356) -/

section
variable (hu : UnitAt s 11 e x)
include hu

/-- SEAL, asked to, ends its stream. -/
theorem exec_seal_ends (hd : headOf s e e.n 2 = none) (hs : x.isSealed = false) (hq : x.sealReq = true) (hl : bitsOf x.recd 5 4 = 0)
    (he : x.eosA = false) (hf : outFree s e e.n 0 = true) :
    exec .sealOperator s = .next (outPush (setUnit s e.t e.n { x with isSealed := true, eosOut := true }) e e.n 0 (bare .eos)) := by
  refine (show exec .sealOperator s = execSealOperator s from rfl).trans ((onUnit_of_unitAt _ hu).trans ?_)
  simp [opStopped_of_unitAt hu, hd, hs, hq, hl, he, hf]

/-- SEAL, not asked to, passes A's token. -/
theorem exec_seal_passes (hd : headOf s e e.n 2 = none) (hs : x.isSealed = false) (hq : x.sealReq = false) (ha : Head s e 0 a)
    (hf : outFree s e e.n 0 = true) :
    exec .sealOperator s = .next (outPush (setUnit (popIn s e e.n 0) e.t e.n { x.passed a.kind with eosA := a.kind == .eos }) e e.n 0 a) := by
  refine (show exec .sealOperator s = execSealOperator s from rfl).trans ((onUnit_of_unitAt _ hu).trans ?_)
  simp [opStopped_of_unitAt hu, hd, hs, hq, headOf_of_head ha, hf]

/-- A true decision asks SEAL to. -/
theorem exec_seal_asked (hd : Head s e 2 d) (hk : d.kind = .data) (hp : d.pred = true) (he : x.eosA = false) :
    exec .sealOperator s = .next (setUnit (popIn s e e.n 2) e.t e.n { x with sealReq := true }) := by
  refine (show exec .sealOperator s = execSealOperator s from rfl).trans ((onUnit_of_unitAt _ hu).trans ?_)
  simp [headOf_of_head hd, hk, hp, he]

end
end

/-! ### O41 -/

/-- Settles O41: each unit's move by its own lemma; TAP by whether the token closes its level. -/
theorem operatorForms : Obligations.OperatorForms := by
  unfold Obligations.OperatorForms
  intro s e x a b d c
  refine ⟨exec_steer_moves, exec_steer_marks, exec_merge_moves, exec_select_moves, exec_filter_drops, exec_filter_passes,
    fun hu hr hm ha hd hp hk hf => exec_distrib_decided hu hr ha hp hm hd hk hf,
    fun hu hr hm ha hp hf => exec_distrib_inTurn hu hr ha hp hm hf, fun hu hr hm ha hp hf => exec_distrib_room hu hr ha hp hm hf,
    fun o rest => exec_collect_takes, fun hu ha hm hf => exec_tap_passes hu ha hf (by rw [hm]; rfl),
    fun hu ha hf => ⟨fun hk => ?arrives, fun hk => ?passes⟩, exec_seal_ends, exec_seal_passes, exec_seal_asked⟩
  case arrives =>
    have hm : (a.kind.isMark && closes (bitsOf x.recd 7 6) a.kind) = true := by
      obtain hk | ⟨h0, l, hk, hl, h4⟩ := hk
      · have h3 : bitsOf x.recd 7 6 < 4 := bitsOf_lt _ _ _
        rw [hk]
        simp only [closes]
        split
        · rfl
        · exact decide_eq_true (Nat.le_of_lt h3)
      · obtain ⟨h1, h2, -⟩ := level_endOf (by omega) h4
        simp [hk, h1, h2, closes, (Nat.ne_of_gt h0), hl]
    exact ⟨_, exec_tap_arrives hu ha hf hm, by simp [tapArrival], rfl⟩
  case passes =>
    refine exec_tap_passes hu ha hf ?_
    obtain hk | ⟨l, hk, h0, h4, hl⟩ := hk
    · rw [hk]
      simp only [closes]
      split <;> simp_all [TokKind.level]
    · obtain ⟨h1, h2, h3⟩ := level_endOf h0 h4
      rw [hk]
      simp only [closes, h1, h2, Bool.true_and]
      split
      · simp [h3]
      · exact decide_eq_false (by omega)

end Sys2Proof.Machine
end

section
/-! PROOF. O42: the loop units CARRY, INVAR, COUNT and CONTROL (R351 to R353, R357, R358). -/
namespace Sys2Proof.Machine
open Sys2Proof.Claims

section
variable {s : State} {e : Env} {x : OpUnit} {a b d : Token}

/-! ### CARRY (R351) -/

/-- CARRY takes a token in from A and is in its loop. -/
theorem exec_carry_enters (hu : UnitAt s 4 e x) (hl : x.loop = false) (hb : headOf s e e.n 1 = none)
    (hd : headOf s e e.n 2 = none) (ha : Head s e 0 a) (hp : Plain a) (hf : outFree s e e.n 0 = true) :
    exec .carry s = .next (outPush (setUnit (popIn s e e.n 0) e.t e.n { x with loop := true }) e e.n 0 a) := by
  refine (show exec .carry s = execCarry s from rfl).trans ((onUnit_of_unitAt _ hu).trans ?_)
  simp [opStopped_of_unitAt hu, hl, hb, hd, headOf_of_head ha, hp.1, hp.2, hf]

/-- A token that an operator moves as it is is no marker that a return input absorbs, and no header. -/
theorem plain_kinds (hp : Plain b) : b.kind ≠ .round ∧ b.kind ≠ .eos ∧ b.kind ≠ .header := by
  obtain ⟨hm, hh⟩ := hp
  refine ⟨fun h => ?_, fun h => ?_, hh⟩ <;> (rw [h] at hm; cases hm)

section
variable (hu : UnitAt s 4 e x) (hl : x.loop = true) (hb : Head s e 1 b) (hd : Head s e 2 d) (hp : Plain b) (hk : d.kind = .data)
  (ha : ∀ tok, Head s e 0 tok → tok.kind ≠ .header)
include hu hl hb hd hp hk ha

/-- CARRY in its loop with B's token and a decision acts by the decision alone. -/
theorem exec_carry_loop : exec .carry s = .next (
    if d.pred then (if outFree s e e.n 0 then outPush (popIn (popIn s e e.n 1) e e.n 2) e e.n 0 b else s)
    else if bitOf x.recd 4 && !outFree s e e.n 1 then s
    else if bitOf x.recd 4 then outPush (setUnit (popIn (popIn s e e.n 1) e e.n 2) e.t e.n { x with loop := false }) e e.n 1 b
    else setUnit (popIn (popIn s e e.n 1) e e.n 2) e.t e.n { x with loop := false }) := by
  obtain ⟨h1, h2, h3⟩ := plain_kinds hp
  have hdec := decisionOf_data (inv := false) hk (Bool.bne_false d.pred).symm
  rw [show exec .carry s = execCarry s from rfl, execCarry, onUnit_of_unitAt _ hu]
  cases h : headOf s e e.n 0 with
  | none =>
    simp only [headOf_of_head hb, headOf_of_head hd, hk, hl, hdec]
    cases d.pred <;> simp [h1, h2, h3]
  | some t =>
    simp only [headOf_of_head hb, headOf_of_head hd, hk, hl, hdec]
    cases d.pred <;> simp [h1, h2, h3, ha t h]

/-- CARRY in its loop: B's token goes on, leaves, or is dropped (R351). -/
theorem exec_carry_decides :
    (d.pred = true → outFree s e e.n 0 = true →
      exec .carry s = .next (outPush (popIn (popIn s e e.n 1) e e.n 2) e e.n 0 b)) ∧
    (d.pred = false → bitOf x.recd 4 = true → outFree s e e.n 1 = true →
      exec .carry s = .next (outPush (setUnit (popIn (popIn s e e.n 1) e e.n 2) e.t e.n { x with loop := false }) e e.n 1 b)) ∧
    (d.pred = false → bitOf x.recd 4 = false →
      exec .carry s = .next (setUnit (popIn (popIn s e e.n 1) e e.n 2) e.t e.n { x with loop := false })) := by
  rw [exec_carry_loop hu hl hb hd hp hk ha]
  refine ⟨fun hq hf => ?_, fun hq h4 hf => ?_, fun hq h4 => ?_⟩
  · rw [if_pos hq, if_pos hf]
  · rw [if_neg (by simp [hq]), if_neg (by simp [hf]), if_pos h4]
  · rw [if_neg (by simp [hq]), if_neg (by simp [h4]), if_neg (by simp [h4])]

end

/-! ### INVAR (R352) -/

/-- INVAR with a count repeats A's token, and takes it with the last repetition. -/
theorem exec_invar_counted (hu : UnitAt s 5 e x) (hr : bitsOf x.recd 27 4 ≠ 0) (ha : Head s e 0 a) (hp : Plain a)
    (hf : outFree s e e.n 0 = true) :
    (x.rep + 1 < bitsOf x.recd 27 4 →
      exec .invar s = .next (outPush (setUnit s e.t e.n { x with rep := x.rep + 1 }) e e.n 0 a)) ∧
    (bitsOf x.recd 27 4 ≤ x.rep + 1 →
      exec .invar s = .next (outPush (setUnit (popIn s e e.n 0) e.t e.n { x with rep := 0 }) e e.n 0 a)) := by
  rw [show exec .invar s = execInvar s from rfl, execInvar, onUnit_of_unitAt _ hu]
  refine ⟨fun h => ?_, fun h => ?_⟩
  · simp [opStopped_of_unitAt hu, hr, invarCounted, headOf_of_head ha, hp.1, hp.2, hf, h]
  · simp [opStopped_of_unitAt hu, hr, invarCounted, headOf_of_head ha, hp.1, hp.2, hf, Nat.not_lt.2 h]

/-- INVAR driven by decisions repeats A's token at a true one and takes it at a false one. -/
theorem exec_invar_driven (hu : UnitAt s 5 e x) (hr : bitsOf x.recd 27 4 = 0) (hi : x.invDrain = false) (ha : Head s e 0 a)
    (hp : Plain a) (hd : Head s e 2 d) (hk : d.kind = .data) :
    (d.pred = true → outFree s e e.n 0 = true → exec .invar s = .next (outPush (popIn s e e.n 2) e e.n 0 a)) ∧
    (d.pred = false → exec .invar s = .next (popIn (popIn s e e.n 2) e e.n 0)) := by
  obtain ⟨-, h2, h3⟩ := plain_kinds hp
  have hdec := decisionOf_data (inv := false) hk (Bool.bne_false d.pred).symm
  rw [show exec .invar s = execInvar s from rfl, execInvar, onUnit_of_unitAt _ hu]
  refine ⟨fun hq hf => ?_, fun hq => ?_⟩
  · simp [opStopped_of_unitAt hu, hr, invarDriven, hi, headOf_of_head ha, headOf_of_head hd, hp.1, h2, h3, hk, hdec, hq, hf]
  · simp [opStopped_of_unitAt hu, hr, invarDriven, hi, headOf_of_head ha, headOf_of_head hd, hp.1, h2, h3, hk, hdec, hq]

/-! ### COUNT (R353) -/

section
variable (hu : UnitAt s 6 e x) (hs : unitIsSource s e.t e.n x = false)
include hu hs

/-- COUNT starts a run with a token on A; without FROMA it starts at 0. -/
theorem exec_count_starts (hr : x.run = none) (ha : Head s e 0 a) (hk : a.kind = .data) (hn : 0 < bitsOf x.recd 63 40) :
    ∃ base, exec .count s = .next (setUnit (popIn s e e.n 0) e.t e.n { x with run := some (0, base) }) ∧
      (bitOf x.recd 4 = false → base = 0) := by
  rw [show exec .count s = execCount s from rfl, execCount, onUnit_of_unitAt _ hu]
  refine ⟨if bitOf x.recd 4 && a.kind == .data && a.mask.getLsbD 0 then intOfBits 32 true (posBits a.data 32 0) else 0, ?_,
    fun h => by simp [h]⟩
  simp [opStopped_of_unitAt hu, hs, headOf_of_head ha, hk, tokIn, hr, countStart, Nat.pos_iff_ne_zero.1 hn]

/-- COUNT in a run takes its next firing. -/
theorem exec_count_runs {i : Nat} {base : Int} (hr : x.run = some (i, base)) (ha : ∀ tok, Head s e 0 tok → tok.kind ≠ .header) :
    exec .count s = .next (countRun e s x i base) := by
  rw [show exec .count s = execCount s from rfl, execCount, onUnit_of_unitAt _ hu]
  cases h : headOf s e e.n 0 with
  | none => simp [opStopped_of_unitAt hu, hs, hr, tokIn, bare]
  | some t => simp [opStopped_of_unitAt hu, hs, hr, tokIn, ha t h]

end

/-- The token of a run's next indices: one, or 16 with VEC. -/
def countTok (x : OpUnit) (i : Nat) (base : Int) : Token :=
  tokOf 32 false ((List.range 16).map (fun p =>
    if p < (if bitOf x.recd 5 then 16 else 1) && i + p < bitsOf x.recd 63 40 then some (countIndex x.recd base (i + p)) else none))

/-- A firing of a run that has indices left sends them (R353). -/
theorem countRun_indices {i : Nat} {base : Int} (hi : i < bitsOf x.recd 63 40) (hf : outFree s e e.n 0 = true) :
    ∃ tok, countRun e s x i base = outPush (setUnit s e.t e.n
        { x with run := some (i + (if bitOf x.recd 5 then 16 else 1), base) }) e e.n 0 tok ∧
      Positions tok 32 false (fun p => if p < (if bitOf x.recd 5 then 16 else 1) ∧ i + p < bitsOf x.recd 63 40 then
        some (countIndex x.recd base (i + p)) else none) := by
  refine ⟨countTok x i base, by simp only [countRun, hi, hf, if_true, Bool.not_true, Bool.false_eq_true, if_false, countTok],
    positions_tokOf (.inr (.inr rfl)) _ (fun p hp => ?_) fun p _ => ?_⟩
  · exact (nth_map_range none _ hp).trans (by simp only [Bool.and_eq_true, decide_eq_true_eq])
  · have hlt : ∀ (c : Prop) [Decidable c], (if c then some (countIndex x.recd base (i + p)) else none).getD 0 < 2 ^ 32 := fun c _ => by
      split
      · exact bitsOfInt_lt 32 _
      · exact Nat.two_pow_pos 32
    exact hlt _

/-- A run that is over sends the end marker, if any, and the done token (R353). -/
theorem countRun_ends {i : Nat} {base : Int} (hi : bitsOf x.recd 63 40 ≤ i) (hf : outFree s e e.n 1 = true) :
    (bitsOf x.recd 7 6 = 0 → countRun e s x i base = outPush (setUnit s e.t e.n { x with run := none }) e e.n 1 (bare .done)) ∧
    (bitsOf x.recd 7 6 ≠ 0 → outFree s e e.n 0 = true → countRun e s x i base = outPush (outPush (setUnit s e.t e.n
      { x with run := none }) e e.n 0 (bare (endOf (bitsOf x.recd 7 6)))) e e.n 1 (bare .done)) := by
  refine ⟨fun h => ?_, fun h h0 => ?_⟩
  · simp [countRun, Nat.not_lt.2 hi, hf, h]
  · simp [countRun, Nat.not_lt.2 hi, hf, h, h0]

/-! ### CONTROL (R357, R358) -/

/-- With no child's token waiting, CONTROL looks for something to send. -/
theorem find_child_none (hc : ∀ j, j < bitsOf x.recd 10 8 → childHead s e j = none) :
    (List.range (bitsOf x.recd 10 8)).find? (fun j => (childHead s e j).isSome) = none := by
  simp only [List.find?_eq_none, List.mem_range]
  intro j hj
  simp [hc j hj]

section
variable (hu : UnitAt s 12 e x) (ho : x.outst.length = 4)
include hu ho

/-- CONTROL is its unit's firing, its tallies as they are. -/
theorem exec_control : exec .control s = .next (controlRun e s x) := by
  rw [show exec .control s = execControl s from rfl, execControl, onUnit_of_unitAt _ hu, OpUnit.tallies, if_pos ho]

/-- A done token of the first child counts one permit off. -/
theorem exec_control_done (hn : 0 < bitsOf x.recd 10 8) (ha : Head s e 0 a) (hk : a.kind = .done) (h0 : nth 0 x.outst 0 ≠ 0) :
    exec .control s = .next (setUnit (popIn s e e.n 0) e.t e.n { x with outst := setNth x.outst 0 (nth 0 x.outst 0 - 1) }) := by
  have hc : childHead s e 0 = some a := ha
  have hfind : (List.range (bitsOf x.recd 10 8)).find? (fun j => (childHead s e j).isSome) = some 0 := by
    obtain ⟨m, hm⟩ := Nat.exists_eq_succ_of_ne_zero (Nat.ne_of_gt hn)
    rw [hm, List.range_succ_eq_map, List.find?_cons, hc]
    rfl
  rw [exec_control hu ho]
  simp only [controlRun, hfind, hc, tokIn, Option.getD_some, ctlChild, hk, h0, if_false]
  rfl

/-- CONTROL hands out a permit to its first child (R357, R358). -/
theorem exec_control_permit (hn : 0 < bitsOf x.recd 10 8) (hc : ∀ j, j < bitsOf x.recd 10 8 → childHead s e j = none)
    (he : nth false x.endDue 0 = false) (ht : 0 < nth 0 x.toSend 0) (hm : ctlMark s e x = none)
    (hl : ctlLimit x.recd (nth 0 x.outst 0) = true) (hf : outFree s e e.n 0 = true) (hz : bitsOf x.recd 13 12 = 0) :
    exec .control s = .next (outPush (setUnit s e.t e.n
      { x with toSend := setNth x.toSend 0 (nth 0 x.toSend 0 - 1), outst := setNth x.outst 0 (nth 0 x.outst 0 + 1) })
      e e.n 0 (bare .permit)) := by
  have hf' : ctlFree s e 0 = true := hf
  obtain ⟨m, hr⟩ : ∃ l, List.range (bitsOf x.recd 10 8) = 0 :: l := by
    obtain ⟨m, hm⟩ := Nat.exists_eq_succ_of_ne_zero (Nat.ne_of_gt hn)
    exact ⟨_, by rw [hm, List.range_succ_eq_map]⟩
  rw [exec_control hu ho, controlRun, find_child_none hc]
  simp only [opStopped_of_unitAt hu, hr, ctlSend, he, ht, hm, hl, hf', hz, Bool.false_and, Bool.false_eq_true, if_false, decide_true,
    Option.isNone_none, Bool.and_self, if_true, ne_eq, not_true_eq_false, and_false]
  rfl

end

/-- With nothing left to send, CONTROL sends nothing. -/
theorem ctlSend_none (hs : x.toSend = [0, 0, 0, 0]) (he : x.endDue = [false, false, false, false]) (js : List Nat) :
    ctlSend e s x js = none := by
  have h1 : ∀ j, nth 0 x.toSend j = 0 := fun j => by rw [hs, nth_eq_getD]; rcases j with _ | _ | _ | _ | j <;> rfl
  have h2 : ∀ j, nth false x.endDue j = false := fun j => by rw [he, nth_eq_getD]; rcases j with _ | _ | _ | _ | j <;> rfl
  induction js with
  | nil => rfl
  | cons j js ih => simp [ctlSend, h1, h2, ih]

/-- A data token of the parent starts a run of the record's count (R357). -/
theorem exec_control_starts (hu : UnitAt s 12 e x) (ho : x.outst.length = 4)
    (hc : ∀ j, j < bitsOf x.recd 10 8 → childHead s e j = none) (hs : x.toSend = [0, 0, 0, 0])
    (he : x.endDue = [false, false, false, false]) (hr : bitOf x.recd 11 = false) (ha : x.active = false) (hp : x.parentEos = false)
    (hq : x.eosSent = false) (hd : Head s e 2 d) (hk : d.kind = .data) (hi : 0 < bitsOf x.recd 63 40) :
    exec .control s = .next (setUnit (popIn s e e.n 2) e.t e.n
      { x with toSend := List.replicate 4 (bitsOf x.recd 63 40), active := true, started := true }) := by
  rw [exec_control hu ho, controlRun, find_child_none hc]
  simp [opStopped_of_unitAt hu, ctlSend_none hs he, ctlMark, hr, headOf_of_head hd, hk, ha, hp, hq, ctlParent, ctlBegin,
    Nat.pos_iff_ne_zero.1 hi]

end

/-! ### O42 -/

/-- Settles O42: each loop unit's move by its own lemma. -/
theorem loopForms : Obligations.LoopForms := by
  unfold Obligations.LoopForms
  intro s e x a b d
  refine ⟨exec_carry_enters, exec_carry_decides, exec_invar_counted, exec_invar_driven, fun hu hs => ⟨exec_count_starts hu hs, ?runs⟩,
    fun hu ho hn => ⟨exec_control_done hu ho hn, fun hc he ht hm hl hf hz => exec_control_permit hu ho hn hc he ht hm hl hf hz,
      exec_control_starts hu ho⟩⟩
  case runs =>
    intro i base hr ha
    rw [exec_count_runs hu hs hr ha]
    refine ⟨fun hi hf => ?_, fun hi hf => ?_⟩
    · obtain ⟨tok, h, hp⟩ := countRun_indices hi hf
      exact ⟨tok, congrArg _ h, hp⟩
    · obtain ⟨h1, h2⟩ := countRun_ends hi hf
      exact ⟨fun h => congrArg _ (h1 h), fun h h0 => congrArg _ (h2 h h0)⟩

end Sys2Proof.Machine
end

section
/-! PROOF. O40: a refused stage leaves the decoder of its latch as a firing does that has decoded nothing (R175, R318, R370). -/
namespace Sys2Proof.Machine
open Sys2Proof.Claims

/-- A sheaf of binary32 data whose first block has a NaN scale, not counted yet. -/
def nanSheaf : Hdr := ⟨0x42, 64, [0xFF, 0xFF], true, false, 0, []⟩

/-- A slot with data under that sheaf on L. -/
def nanSlot : Slot := { Slot.reset with l := some ⟨.data, BitVec.allOnes 16, true, 0⟩, hl := some nanSheaf }

/-- Tile(0,0) in an armed section over it with that slot; MTWID has not fired, so that any stage is refused. -/
def refusedStage : State :=
  let s := setSlot State.reset 0 0 nanSlot
  setSec { s with fab := { s.fab with tileSec := [(0, 0)] } } 0 { Section.reset with state := .armed, tiles := [0], tcount := 1 }

/-- The slot's environment there. -/
def refusedEnv : Env := ⟨0, 0, 0, 0, 0, false, false, 0, none, 1⟩

/-- The stage is due, and its checks fail. -/
theorem refusedStage_due : MatrixAt refusedStage refusedEnv nanSlot .none .none ⟨.data, BitVec.allOnes 16, true, 0⟩ ∧
    nanSlot.ops = [] ∧ stageBad (getFrag refusedStage refusedEnv.t) nanSlot = true := by
  unfold MatrixAt SlotAt Ungated DataL
  decide +kernel

/-- Blocks with a NaN scale that the decoder of L at tile(0,0)'s slot 0 has counted. -/
def blocksCounted : Out → Option (List Nat)
  | .next s => (getSlot s 0 0).hl.map (·.nanBlocks)
  | _ => none

/-- The model counts none: the stage has not decoded its token. -/
theorem refusedStage_counts_none : blocksCounted (exec (.mharrow .n .none .none) refusedStage) = some [] := by decide +kernel

/-- O40's third clause has the block counted: it takes the slot as a firing does that has computed. -/
theorem consume_counts_block : blocksCounted (.next (raiseUnit (emit refusedStage refusedEnv
    (({ nanSlot with tiles := nanSlot.tiles + 1 } : Slot).consume (.mharrow .n .none .none)) .none .none
    (some (bare .poison)) (some (bare .poison))) refusedEnv 0 Cause.harrowarg)) = some [0] := by decide +kernel

/-! ### O40 -/

/-- Refutes O40: its third clause has a refused stage consume its token as decoded. In `refusedStage` the token lies in a block with a
NaN scale; the model leaves that block uncounted, as R318's poison does, and the clause counts it. -/
theorem not_harrowForms : ¬ Obligations.HarrowForms := by
  unfold Obligations.HarrowForms
  intro h
  obtain ⟨-, -, hbad, -⟩ := h refusedStage refusedEnv nanSlot .none .none ⟨.data, BitVec.allOnes 16, true, 0⟩
  obtain ⟨hat, hops, hb⟩ := refusedStage_due
  have he := congrArg blocksCounted (hbad .n hat hops hb)
  rw [refusedStage_counts_none, consume_counts_block] at he
  cases he

end Sys2Proof.Machine
end

section
/-! PROOF. O38: an AMO whose access another module answers takes the bytes of the answer, however many they are (R45, R342, R344). -/
namespace Sys2Proof.Machine
open Sys2Proof.Claims

/-! ### A four-byte atomic of a remote page whose answer has eight bytes -/

/-- An AMO slot, east, to latch L of slot 1: an addition of four bytes, its access issued to IA 0x1_0000. -/
def farAmoSlot : Slot :=
  { Slot.reset with
    word := encode (.amo .e (.loc 1 .l) .none)
    l := some ⟨.data, BitVec.allOnes 16, true, 0x10000⟩, r := some ⟨.data, BitVec.allOnes 16, true, 3⟩
    ops := [⟨0x10000, 0x10000, 0, false, 0⟩] }

/-- Its environment, in an armed section over tile(0,0). -/
def farAmoEnv : Env := ⟨0, 0, 0, 0, 0, false, false, 0, none, 1⟩

/-- Page 1 is at node 5, the access has been forwarded there, and the answer holds eight bytes: 1 in each half. -/
def longAnswer : State :=
  let s := setSlot (setSlot State.reset 0 0 farAmoSlot) 0 1 { Slot.reset with word := encode (.pass .none .none) }
  let s := setSec s 0 { Section.reset with state := .armed, tiles := [0], tcount := 1 }
  { s with
    ops := [0, 0]
    fab := { s.fab with tileSec := [(0, 0)] }
    boot := { s.boot with keys := [(0, 0)] }
    xl := { s.xl with
      tcache := [(1, { page := 1, level := 3, w0 := 8, w1 := 5 * 2 ^ 44, entryAddr := 0, gen := 0, deliv := 0, starve := 0, cls3 := false,
                       cold := 0, moving := false })]
      fwdOut := [⟨7, agentKey 3 0, 0x10000, 5, false, none⟩]
      replies := [(7, 0, bytesOf 8 (1 + 2 ^ 32))] } }

/-- The access at the bank, as the statement has it. -/
def farAccess : Res (List Byte) × State :=
  iaPerform longAnswer (elemWho farAmoEnv) 0x10000 0
    (.rmw (amoSize farAmoSlot) false [] (fun old => bytesOf (amoSize farAmoSlot) (amoNew farAmoSlot (ofBytes old)).1))

/-- The slot is due to complete. -/
theorem longAnswer_due :
    envOf longAnswer (longAnswer.op 0) (longAnswer.op 1) = some farAmoEnv ∧ getSlot longAnswer (longAnswer.op 0) (longAnswer.op 1) = farAmoSlot ∧
    decodeElem farAmoSlot.word = .ok (.amo .e (.loc 1 .l) .none) ∧ farAmoSlot.held = none ∧
    portEarlier longAnswer (longAnswer.op 0) (dirNat .e) 0 = false ∧
    bothFree longAnswer (longAnswer.op 0) (longAnswer.op 1) (.loc 1 .l) .none = true ∧ amoSize farAmoSlot ≠ 8 := by
  refine ⟨?_, ?_, rfl, ?_, ?_, ?_, ?_⟩ <;> decide +kernel

/-- No FIFO region holds the access. -/
theorem longAnswer_noFifo : portFifo longAnswer farAmoEnv.ctx .amo 0x10000 = .ok none := rfl

/-- The access has been answered with eight bytes. -/
theorem farAccess_answer : farAccess.1 = .ok (bytesOf 8 (1 + 2 ^ 32)) := by decide +kernel

/-- The addition counts no event. -/
theorem amoNew_events : (amoNew farAmoSlot (ofBytes (bytesOf 8 (1 + 2 ^ 32)))).2 = [] := by decide +kernel

/-- Slot 1 of tile(0,0) reads latch L. -/
theorem farAccess_reads : slotReads (getSlot farAccess.2 0 1) .l = true := by decide +kernel

/-! ### What slot 1 receives -/

/-- The token in latch L of slot 1 of tile(0,0). -/
def latchedAt1 : Out → Option Token
  | .next s => (getSlot s 0 1).l
  | _ => none

/-- The model's AMO sends the eight bytes: position 1 of its token is 1. -/
theorem longAnswer_latched : (latchedAt1 (exec .memoryPortComplete longAnswer)).map (fun tok => posBits tok.data 32 1) = some 1 := by
  decide +kernel

/-- A finished AMO's token is what slot 1 receives. -/
theorem portFinish_latched (tok : Token) : latchedAt1 (.next (countEvents (portFinish farAccess.2 farAmoEnv farAmoSlot
    (.amo .e (.loc 1 .l) .none) .amo (some tok)) farAmoEnv.ctx farAmoEnv.t [])) = some tok := by
  have hr : slotReads (getSlot (setSlot farAccess.2 0 0 { farAmoSlot.consume (.amo .e (.loc 1 .l) .none) with ops := [] }) 0 1) .l =
      true := by
    rw [getSlot_setSlot_ne _ _ (by decide)]
    exact farAccess_reads
  have hd : portFinish farAccess.2 farAmoEnv farAmoSlot (.amo .e (.loc 1 .l) .none) .amo (some tok) =
      deliverLatch (setSlot farAccess.2 0 0 { farAmoSlot.consume (.amo .e (.loc 1 .l) .none) with ops := [] }) farAmoEnv 1 .l tok := rfl
  rw [countEvents, List.isEmpty_nil, if_pos rfl, hd, deliverLatch]
  simp only [show farAmoEnv.t = 0 from rfl, hr, if_true, latchedAt1, getSlot_setSlot, Slot.setLatch]

/-! ### O38 -/

/-- Refutes O38: its clause on AMO says that position 0 alone of the token holds the old value. In `longAnswer` the module that owns the
page has answered a four-byte atomic with eight bytes; the model's token carries them all, so that its position 1 is 1. -/
theorem not_portForms : ¬ Obligations.PortForms := by
  unfold Obligations.PortForms
  rintro ⟨-, h⟩
  obtain ⟨he, hx, hw, hh, hp, hb, h8⟩ := longAnswer_due
  obtain ⟨-, -, hamo, -⟩ := h longAnswer farAmoEnv farAmoSlot (.amo .e (.loc 1 .l) .none) .amo .e ⟨0x10000, 0x10000, 0, false, 0⟩ []
    he hx rfl hw rfl rfl hh (by decide) hp hb longAnswer_noFifo
  obtain ⟨tok, hexec, hpos⟩ := hamo (bytesOf 8 (1 + 2 ^ 32)) farAccess.2 rfl (Prod.ext farAccess_answer rfl)
  have h0 := ((hpos h8).2.2 1 (by decide)).1
  have h1 := longAnswer_latched
  rw [hexec, amoNew_events, portFinish_latched, Option.map_some, h0] at h1
  cases h1

end Sys2Proof.Machine
end

section
/-! PROOF. O9, O10: the trap frame and trap entry (R407 to R409, R411, R412). -/
namespace Sys2Proof.Machine
open Sys2Proof.Claims

/-! ### The trap frame (R409) -/

/-- The first word of bytes that begin with a number's. -/
theorem wordsOf_bytesOf (n v : Nat) (rest : List Byte) :
    wordsOf (n + 1) (bytesOf 8 v ++ rest) = BitVec.ofNat 64 v :: wordsOf n rest := by
  have ht : (bytesOf 8 v ++ rest).take 8 = bytesOf 8 v := List.take_left' (length_bytesOf 8 v)
  have hd : (bytesOf 8 v ++ rest).drop 8 = rest := List.drop_left' (length_bytesOf 8 v)
  have hv : BitVec.ofNat 64 (v % 256 ^ 8) = BitVec.ofNat 64 v := BitVec.eq_of_toNat_eq (by simp)
  rw [wordsOf, ht, hd, ofBytes_bytesOf, hv]

@[simp] theorem length_bytesOfWords (ws : List Word) : (bytesOfWords ws).length = 8 * ws.length := by
  induction ws with
  | nil => rfl
  | cons w ws ih => simp [bytesOfWords, ih]; omega

theorem length_padTo (n : Nat) (bs : List Byte) : (padTo n bs).length = max n bs.length := by
  simp [padTo]; omega

/-- A replay entry takes 32 bytes. -/
theorem length_replayBytes (l : List Access) : ((l.map replayBytes).flatten).length = 32 * l.length := by
  induction l with
  | nil => rfl
  | cons a l ih => simp [replayBytes, ih]; omega

/-- Settles O10: the frame's parts one after another. -/
theorem trapFrameWords : Obligations.TrapFrameWords := by
  unfold Obligations.TrapFrameWords
  intro noins precise cause pc tval tinfo crva sent sigs dtime regs replay hs hr hg _
  constructor
  · simp only [frameBytes, length_padTo, List.length_append, length_bytesOf, length_bytesOfWords, List.length_cons, List.length_drop,
      length_replayBytes, hg]
    omega
  · have hflags : noins.toNat * 2 ^ 62 + precise.toNat * 2 ^ 61 = (if noins then 2 ^ 62 else 0) + (if precise then 2 ^ 61 else 0) := by
      cases noins <;> cases precise <;> rfl
    simp only [frameBytes, padTo, List.append_assoc, wordsOf_bytesOf, Nat.add_assoc, ← hflags, BitVec.ofNat_toNat, BitVec.setWidth_eq]
    rfl

/-! ### Trap entry (R407, R408, R411, R412) -/

section
variable (c : Core) (l : List Access)

/-- Delivering results changes registers alone. -/
theorem deliverAll_frame : (deliverAll c l).run = c.run ∧ (deliverAll c l).unfin = c.unfin ∧ (deliverAll c l).replay = c.replay ∧
    (deliverAll c l).regs.length = c.regs.length := by
  induction l generalizing c with
  | nil => exact ⟨rfl, rfl, rfl, rfl⟩
  | cons a l ih =>
    rw [deliverAll]
    split
    · split
      · obtain ⟨h1, h2, h3, h4⟩ := ih (c.setGpr a.gd (a.result _))
        exact ⟨h1.trans (setGpr_run _ _ _), h2.trans (setGpr_unfin _ _ _), h3.trans (by simp only [Core.setGpr]; split <;> rfl),
          h4.trans (setGpr_regs_length _ _ _)⟩
      · exact ih c
    · exact ih c

end

/-- Noting a cause for a launch takes no time. -/
@[simp] theorem noteCause_clk (s : State) (lid : Nat) (c : Cause) : (noteCause s lid c).clk = s.clk := by
  unfold noteCause
  split <;> rfl

/-- After a kill the context is killed with its cause (R432). -/
theorem killed_killContext (s : State) (ctx : Nat) (cause : Cause) (lost : Bool) : Killed (killContext s ctx cause lost) ctx cause := by
  unfold Killed killContext
  simp only [getCtx_setCtx, and_self]

/-- After the store of a frame: the core enters the handler with the frame's VA and the cause, or its context is killed (R408, R412). -/
def afterFrame (t : Tid) (ctx : Nat) (cause : Cause) (x : Ctx) (c : Core) : Res (List Byte) × State → State
  | (.ok _, s) => setCore (dropCoreAsks s t) t
      { (c.setGpr 1 (frameVA x.tfbase t)).setGpr 2 (BitVec.ofNat 64 cause.toNat) with
        pc := x.tvec, sys := true, frame := frameVA x.tfbase t, unfin := [], replay := [], waiting := .none, held := 0 }
  | (_, s) => killContext s ctx Cause.dblfault false

section
variable {s s1 : State} {t : Tid} {f : Firing} {cause : Cause} {precise : Bool} {pc tval tinfo : Word}
  (hr : (getCore s t).run = some f)
include hr

/-- A cause in system state is a double fault (R412). -/
theorem takeTrap_system (hs : (getCore s t).sys = true) : takeTrap s t cause precise pc tval tinfo =
    killContext (noteCause s f.task.launch cause) f.task.ctx Cause.dblfault false := by
  simp only [takeTrap, hr, hs, if_true]

variable (hs : (getCore s t).sys = false)
include hs

/-- What has left the core finishes first (R407). -/
theorem takeTrap_waits (hw : awaitsOwner s t (getCore s t) = true ∨ midway (getCore s t) = true) :
    takeTrap s t cause precise pc tval tinfo = s := by
  simp only [takeTrap, hr, hs, Bool.false_eq_true, if_false]
  rw [if_pos (by simpa using hw)]

variable (ha : awaitsOwner s t (getCore s t) = false) (hm : midway (getCore s t) = false)
include ha hm

/-- Without a handler the firing ends as faulted (R411). -/
theorem takeTrap_unhandled (hx : (getCtx s f.task.ctx).tvec = 0 ∨ (getCtx s f.task.ctx).tfbase = 0) :
    takeTrap s t cause precise pc tval tinfo = endFaulted s t cause false := by
  simp only [takeTrap, hr, hs, ha, hm, hx, Bool.or_self, Bool.false_eq_true, if_false, if_true]

variable (hv : (getCtx s f.task.ctx).tvec ≠ 0) (hb : (getCtx s f.task.ctx).tfbase ≠ 0)
include hv hb

/-- With a handler the frame is stored, and what follows is by the store's outcome (R408, R409). -/
theorem takeTrap_handled {x : Res (List Byte) × State}
    (hw : writeVA (noteCause s f.task.launch cause) { coreWho t f (syncKey t) with force := true }
      (frameVA (getCtx s f.task.ctx).tfbase t) (frameOf s (getCore s t) f cause precise pc tval tinfo) = x) :
    takeTrap s t cause precise pc tval tinfo =
      afterFrame t f.task.ctx cause (getCtx s f.task.ctx) (deliverAll (getCore s t) (getCore s t).unfin) x := by
  obtain ⟨-, hunfin, hreplay, -⟩ := deliverAll_frame (getCore s t) (getCore s t).unfin
  rw [frameOf] at hw
  unfold takeTrap
  dsimp only
  split
  next h => cases hr.symm.trans h
  next f' h =>
    have hf : f' = f := Option.some.inj (h.symm.trans hr)
    rw [hf, if_neg (show ¬ (getCore s t).sys = true by simp [hs]),
      if_neg (show ¬ (awaitsOwner s t (getCore s t) || midway (getCore s t)) = true by simp [ha, hm]),
      if_neg (show ¬ ((getCtx s f.task.ctx).tvec = 0 ∨ (getCtx s f.task.ctx).tfbase = 0) from not_or.2 ⟨hv, hb⟩),
      hunfin, hreplay, noteCause_clk, hw]
    rfl

end

/-- A firing that has ended as faulted runs no more (R411). -/
theorem endFaulted_run {s : State} {t : Tid} {f : Firing} (hr : (getCore s t).run = some f) (cause : Cause) (framed : Bool) :
    (getCore (endFaulted s t cause framed) t).run = none := by
  simp only [endFaulted, hr, getCore_setCore, Core.stop]

/-! ### O9 -/

/-- Settles O9: by the state of the core, the handler, and the store of the frame. -/
theorem trapEntry : Obligations.TrapEntry := by
  unfold Obligations.TrapEntry
  refine ⟨?stored, ?unhandled, ?waits, ?system, ?unstored⟩
  case stored =>
    intro s s1 t f cause precise pc tval tinfo bs hr hs ha hm hlen hv hb hw
    obtain ⟨hrun, -, -, hregs⟩ := deliverAll_frame (getCore s t) (getCore s t).unfin
    rw [takeTrap_handled hr hs ha hm hv hb hw, afterFrame, getCore_setCore]
    refine ⟨_, rfl, rfl, rfl, by simp only [setGpr_run, hrun], rfl, rfl, ?_, ?_, fun r h3 => ?_⟩
    all_goals
      have h1 := hregs.trans hlen
      have h2 := (setGpr_regs_length (deliverAll (getCore s t) (getCore s t).unfin) 1 (frameVA (getCtx s f.task.ctx).tfbase t)).trans h1
    · refine (gpr_setGpr _ 2 1 _ h2).trans ((if_neg (show ¬((1 : Reg) = 2 ∧ (2 : Reg) ≠ 0) by decide)).trans ?_)
      exact (gpr_setGpr _ 1 1 _ h1).trans (if_pos (show (1 : Reg) = 1 ∧ (1 : Reg) ≠ 0 by decide))
    · exact ((gpr_setGpr _ 2 2 _ h2).trans (if_pos (show (2 : Reg) = 2 ∧ (2 : Reg) ≠ 0 by decide))).trans (BitVec.ofNat_toNat _ _)
    · have hr1 : ¬(r = 1 ∧ (1 : Reg) ≠ 0) := by rintro ⟨rfl, -⟩; exact absurd h3 (by decide)
      have hr2 : ¬(r = 2 ∧ (2 : Reg) ≠ 0) := by rintro ⟨rfl, -⟩; exact absurd h3 (by decide)
      refine (gpr_setGpr _ 2 r _ h2).trans ((if_neg hr2).trans ?_)
      exact (gpr_setGpr _ 1 r _ h1).trans (if_neg hr1)
  case unhandled =>
    intro s t f cause precise pc tval tinfo hr hs ha hm hx
    rw [takeTrap_unhandled hr hs ha hm hx]
    exact endFaulted_run hr cause false
  case waits =>
    intro s t f cause precise pc tval tinfo hr hs hw
    exact takeTrap_waits hr hs hw
  case system =>
    intro s t f cause precise pc tval tinfo hr hs
    rw [takeTrap_system hr hs]
    exact killed_killContext _ _ _ _
  case unstored =>
    intro s s1 t f cause e precise pc tval tinfo hr hs ha hm hv hb hw
    rw [takeTrap_handled hr hs ha hm hv hb hw]
    exact killed_killContext _ _ _ _

end Sys2Proof.Machine
end

section
/-! PROOF. O54: hardware semaphores (R457). -/
namespace Sys2Proof.Machine
open Sys2Proof.Claims

/-! ### Semaphores (R457) -/

@[simp] theorem whileUp_held (s t : State) (h : s.boot.held = true) : whileUp s t = .next s := by simp [whileUp, h]

@[simp] theorem whileUp_up (s t : State) (h : s.boot.held = false) : whileUp s t = .next t := by simp [whileUp, h]

@[simp] theorem whileUp_self (s : State) : whileUp s s = .next s := by simp [whileUp]

/-- The number by which a semaphore names its owner. -/
def ownerOf (port : Bool) : Nat := if port then 2 else 1

/-- A claim by Lowyn A (a), by Lowyn B (b) or by both, given who lost the last tie. -/
def claimant (a b tie : Bool) : Nat := if a && b then ownerOf tie else ownerOf b

/-- A read of a free semaphore claims it. -/
theorem semaphoreRead_free (s : State) (i : Nat) (a b : Bool) (hi : i < 16) (hab : a = true ∨ b = true)
    (hup : s.boot.held = false) (hfree : s.host.sems.getD i 0 = 0) :
    exec (.semaphoreRead i a b) s = .next { s with host := { s.host with
      sems := s.host.sems.set i (claimant a b s.host.semTie), reply := BitVec.ofNat 64 (claimant a b s.host.semTie)
      semTie := if a && b then !s.host.semTie else s.host.semTie } } := by
  have hno : ¬ (16 ≤ i ∨ (a = false ∧ b = false) ∨ s.boot.held = true) := by
    rcases hab with rfl | rfl <;> simp [hup, hi]
  show execSemaphoreRead i a b s = _
  unfold execSemaphoreRead
  rw [if_neg hno, if_neg (fun hown => hown hfree)]
  rfl

/-- A read of a semaphore that has an owner answers the owner. -/
theorem semaphoreRead_owned (s : State) (i : Nat) (a b : Bool) (hi : i < 16) (hab : a = true ∨ b = true)
    (hup : s.boot.held = false) (hown : s.host.sems.getD i 0 ≠ 0) :
    exec (.semaphoreRead i a b) s =
      .next { s with host := { s.host with reply := BitVec.ofNat 64 (s.host.sems.getD i 0) } } := by
  have hno : ¬ (16 ≤ i ∨ (a = false ∧ b = false) ∨ s.boot.held = true) := by
    rcases hab with rfl | rfl <;> simp [hup, hi]
  show execSemaphoreRead i a b s = _
  unfold execSemaphoreRead
  rw [if_neg hno, if_pos hown]

theorem semFree_owner (s : State) (port : Bool) (i : Nat) (h : s.host.sems.getD i 0 = ownerOf port) :
    semFree s port i 0 = { s with host := { s.host with sems := s.host.sems.erase i } } :=
  if_pos ⟨rfl, h⟩

theorem semFree_other (s : State) (port : Bool) (i : Nat) (v : Word) (h : v ≠ 0 ∨ s.host.sems.getD i 0 ≠ ownerOf port) :
    semFree s port i v = s :=
  if_neg fun ⟨hv, ho⟩ => h.elim (· hv) (· ho)

theorem semaphoreWrite_eq (s : State) (port : Bool) (i : Nat) (v : Word) (hi : i < 16) :
    exec (.semaphoreWrite port i v) s = whileUp s (semFree s port i v) := by
  show execSemaphoreWrite port i v s = _
  rw [execSemaphoreWrite, if_pos hi]

/-- A register write in the control window. -/
theorem registerWrite_control (s : State) (port : Bool) (off : Nat) (v : Word) (h : off < queueWindow) :
    exec (.registerWrite port off v) s = whileUp s (controlWrite s port off v) := by
  show execRegisterWrite port off v s = _
  rw [execRegisterWrite, if_pos h]

theorem controlWrite_sem (s : State) (port : Bool) (i : Nat) (v : Word) (hi : i < 16) :
    controlWrite s port (8 * i) v = semFree s port i v := by
  rw [controlWrite, if_neg (by omega), if_pos (by omega), Nat.mul_div_cancel_left i (by decide)]

theorem moduleReset_host (image blob : Bool) (s : State) :
    Answers (.moduleReset image blob) s (fun s' => s'.host = State.reset.host) := by
  refine ⟨_, rfl, ?_⟩
  split <;> rfl

/-- Settles O54: each read and write by the state of the semaphore it names, and the table after reset. -/
theorem semaphoreRule : Obligations.SemaphoreRule := by
  unfold Obligations.SemaphoreRule
  intro s port i v hi
  refine ⟨fun a b hab hup => ⟨fun hfree => ?_, fun hown => ?_⟩, fun hv hup hown => ?_, fun h => ?_, ?_, rfl, rfl,
    fun image blob => ?_⟩
  · refine ⟨_, semaphoreRead_free s i a b hi hab hup hfree, rfl, rfl, fun j hj => SMap.getD_set_ne _ _ _ hj,
      claimant a b s.host.semTie, SMap.getD_set_self _ _ _ _, rfl, ?_, ?_, ?_⟩
    · rintro rfl
      simp [claimant, ownerOf]
    · rintro rfl
      obtain rfl : b = true := by simpa using hab
      simp [claimant, ownerOf]
    · rintro rfl rfl
      exact ⟨rfl, rfl⟩
  · exact ⟨_, semaphoreRead_owned s i a b hi hab hup hown, rfl, rfl, rfl, rfl⟩
  · subst hv
    refine ⟨_, (semaphoreWrite_eq s port i 0 hi).trans ((whileUp_up s _ hup).trans
      (congrArg Host.Outcome.next (semFree_owner s port i hown))), ?_, rfl, rfl, fun j hj => ?_⟩
    · simp [SMap.getD_erase]
    · simp [SMap.getD_erase, hj]
  · rw [semaphoreWrite_eq s port i v hi, semFree_other s port i v h, whileUp_self]
  · rw [semaphoreWrite_eq s port i v hi, registerWrite_control s port _ v (by unfold queueWindow; omega),
      controlWrite_sem s port i v hi]
  · obtain ⟨s', hs', hh⟩ := moduleReset_host image blob s
    exact ⟨s', hs', congrArg (·.sems.getD i 0) hh, congrArg (·.semTie) hh⟩

end Sys2Proof.Machine
end

section
/-! PROOF. O27: wakes, moves to the retry ring and THOLD of what a slot holds (R416 to R418). -/
namespace Sys2Proof.Machine
open Sys2Proof.Claims

/-! ### What a slot holds (R415 to R418) -/

@[simp] theorem getSlot_setHeld_slot (s : State) (t : Tid) (n : Nat) (h : Option Held) :
    getSlot (setHeld s (.slot t n) h) t n = { getSlot s t n with held := h } := by
  simp [setHeld]

/-- A slot that has let go holds nothing. -/
theorem heldOf_setHeld_none (s : State) (t : Tid) (n : Nat) : heldOf (setHeld s (.slot t n) none) (.slot t n) = none := by
  simp only [heldOf, getSlot_setHeld_slot]
  split
  · next h => cases h
  · rfl

/-- The wait entries without those of a unit. -/
def dropWaits (s : State) (u : HUnit) : State :=
  { s with xl := { s.xl with
    waits := s.xl.waits.filter (fun w => !(w.tid == u.tid && w.ukind == u.kind && w.unit == u.num)) } }

theorem freeEntries_noRing (s : State) (ctx : Nat) (u : HUnit) (h : Held) (hr : h.ring = none) :
    freeEntries s ctx u h = dropWaits s u := by
  rw [freeEntries, hr]; rfl

/-- A slot whose access is not in the ring, made again: it lets go, and its wait entries are free. -/
theorem retryUnit_slot (s : State) (t : Tid) (n ctx : Nat) (h : Held) (hh : heldOf s (.slot t n) = some (ctx, h))
    (hr : h.ring = none) : retryUnit s (.slot t n) = setHeld (dropWaits s (.slot t n)) (.slot t n) none := by
  rw [retryUnit, hh]
  exact congrArg (setHeld · (.slot t n) none) (freeEntries_noRing s ctx _ h hr)

theorem retryUnit_slot_frees (s : State) (t : Tid) (n ctx : Nat) (h : Held) (hh : heldOf s (.slot t n) = some (ctx, h))
    (hr : h.ring = none) : heldOf (retryUnit s (.slot t n)) (.slot t n) = none ∧ (retryUnit s (.slot t n)).st = s.st ∧
      (retryUnit s (.slot t n)).cores = s.cores := by
  rw [retryUnit_slot s t n ctx h hh hr]
  exact ⟨heldOf_setHeld_none _ t n, rfl, rfl⟩

/-- A wake that has come to its issuer. -/
def dropWake (s : State) (w : Nat × Nat × Nat) : State := { s with xl := { s.xl with wakes := s.xl.wakes.erase w } }

/-- A wake of a unit whose access is not in the ring makes it try again. -/
theorem wake_retries (s : State) (u : HUnit) (ctx : Nat) (h : Held)
    (hw : s.xl.wakes.contains (s.op 0, s.op 1, s.op 2) = true) (hu : unitNamed (s.op 0) (s.op 1) (s.op 2) = some u)
    (hh : heldOf s u = some (ctx, h)) (hr : h.ring = none) :
    exec .wake s = .next (retryUnit (dropWake s (s.op 0, s.op 1, s.op 2)) u) := by
  have hh' : heldOf (dropWake s (s.op 0, s.op 1, s.op 2)) u = some (ctx, h) := by rw [← hh]; cases u <;> rfl
  show execWake s = _
  unfold execWake
  dsimp only
  rw [if_neg (by rw [hw]; decide)]
  split
  · next e => cases hu.symm.trans e
  · next u' e =>
    obtain rfl : u = u' := Option.some.inj (hu.symm.trans e)
    split
    · next e' =>
      obtain ⟨rfl, rfl⟩ : ctx = _ ∧ h = _ := by simpa using hh'.symm.trans e'
      rw [if_neg (by rw [hr]; decide)]
      rfl
    · next e' => cases hh'.symm.trans e'

/-! ### The move to the ring (R417, log 78) -/

/-- The write of a held access's data beside its entry; a read has none. -/
def ringData (s : State) (ctx i : Nat) (u : HUnit) (h : Held) : Res (List Byte) × State :=
  if h.write then writeVARaw s (ringWho ctx u.tid) (ringVA s ctx i + 65536) (bytesOf 64 h.data.toNat) else (.ok [], s)

/-- A unit's access lies in ring entry i: the entry is in use, and the wait entry is free. -/
def inRing (s : State) (ctx i : Nat) (u : HUnit) (h : Held) : State :=
  let s := dropWaits s u
  let c := getCtx s ctx
  setHeld (setCtx s ctx { c with ringUsed := c.ringUsed ++ [2 * i + h.write.toNat], ringfull := false }) u
    (some { h with waitPort := none, ring := some i })

/-- A move whose writes succeed. -/
theorem moveToRing_done (s s0 s1 : State) (ctx i : Nat) (u : HUnit) (h : Held) (b0 b1 : List Byte)
    (hring : (getCtx s ctx).tring ≠ 0) (hi : ringFree (getCtx s ctx) = some i)
    (hdata : ringData s ctx i u h = (.ok b0, s0))
    (hentry : writeVARaw s0 (ringWho ctx u.tid) (ringVA s0 ctx i) (ringBytes u h s0.clk.dtime) = (.ok b1, s1)) :
    moveToRing s ctx u h = inRing s1 ctx i u h := by
  unfold ringData at hdata
  rw [moveToRing]
  simp only [if_neg hring, hi, hdata, hentry]
  rfl

theorem inRing_slot (s : State) (ctx i : Nat) (t : Tid) (n : Nat) (h : Held) (w : Nat) (hw : h.write.toNat = w) :
    (inRing s ctx i (.slot t n) h).st = s.st ∧
      (getCtx (inRing s ctx i (.slot t n) h) ctx).ringUsed.contains (2 * i + w) = true ∧
      (getSlot (inRing s ctx i (.slot t n) h) t n).held = some { h with waitPort := none, ring := some i } := by
  subst hw
  refine ⟨rfl, ?_, ?_⟩
  · simp [inRing, setHeld]
  · simp [inRing]

/-- An access that waits at a home port without a wait entry moves to the ring. -/
theorem retryRingMove_moves (s : State) (u : HUnit) (ctx : Nat) (h : Held)
    (hu : unitNamed (s.op 0) (s.op 1) (s.op 2) = some u) (hh : heldOf s u = some (ctx, h)) (hr : h.ring = none)
    (hport : atHomePort h = true) (hwait : h.waitPort = none) :
    exec .retryRingMove s = .next (moveToRing s ctx u h) := by
  show execRetryRingMove s = _
  simp [execRetryRingMove, hu, hh, hr, hport, hwait]

/-! ### THOLD (R418) -/

theorem tholdRetry_retries (s : State) (ctx : Nat) (v : Word) (u : HUnit) (hu : tholdUnit s ctx v = some u)
    (hact : bitOf v 62 = false) : exec (.tholdRetry ctx v) s = .next (retryUnit s u) := by
  show execTholdRetry ctx v s = _
  simp [execTholdRetry, hu, hact]

theorem tholdPoison_poisons (s : State) (ctx : Nat) (v : Word) (u : HUnit) (hu : tholdUnit s ctx v = some u)
    (hact : bitOf v 62 = true) : exec (.tholdPoison ctx v) s = .next (poisonUnit s u) := by
  show execTholdPoison ctx v s = _
  simp [execTholdPoison, hu, hact]

/-- Settles O27: a wake and THOLD by the retry of a slot, a move to the ring by its one or two writes. -/
theorem heldForms : Obligations.HeldForms := by
  unfold Obligations.HeldForms
  intro s t n h ctx hh hr
  refine ⟨fun hw hu => ?_, fun i s1 hu hport hwait hring hi hread hentry => ?_,
    fun i s0 s1 hu hport hwait hring hi hwrite hdata hentry => ?_, fun v hu => ⟨fun hact => ?_, fun hact => ?_⟩⟩
  · exact ⟨_, wake_retries s _ ctx h hw hu hh hr, retryUnit_slot_frees (dropWake s _) t n ctx h hh hr⟩
  · have hdone := moveToRing_done s s s1 ctx i (.slot t n) h [] [] hring hi (by rw [ringData, hread]; rfl) hentry
    exact ⟨_, (retryRingMove_moves s _ ctx h hu hh hr hport hwait).trans (congrArg Host.Outcome.next hdone),
      inRing_slot s1 ctx i t n h 0 (by rw [hread]; rfl)⟩
  · have hdone := moveToRing_done s s0 s1 ctx i (.slot t n) h [] [] hring hi (by rw [ringData, if_pos hwrite]; exact hdata)
      hentry
    exact ⟨_, (retryRingMove_moves s _ ctx h hu hh hr hport hwait).trans (congrArg Host.Outcome.next hdone),
      inRing_slot s1 ctx i t n h 1 (by rw [hwrite]; rfl)⟩
  · obtain ⟨hfree, hst, -⟩ := retryUnit_slot_frees s t n ctx h hh hr
    exact ⟨_, tholdRetry_retries s ctx v _ hu hact, hfree, hst⟩
  · exact tholdPoison_poisons s ctx v _ hu hact

end Sys2Proof.Machine
end

section
/-! PROOF. O53: the host's registers (R376, R377, R392, R395, R454, R455, R465 to R467). -/
namespace Sys2Proof.Machine
open Sys2Proof.Claims

/-! ### Tables written entry by entry -/

theorem getD_bytesOf (n v i : Nat) (hi : i < n) : (bytesOf n v).getD i 0 = BitVec.ofNat 8 (v / 256 ^ i) := by
  induction n generalizing v i with
  | zero => omega
  | succ n ih =>
    cases i with
    | zero => simp [bytesOf]
    | succ i =>
      rw [bytesOf, List.getD_cons_succ, ih _ _ (by omega), Nat.div_div_eq_div_mul, ← Nat.pow_succ']

/-- A run of entries written one after the other reads back. -/
theorem getD_foldl_put {α : Type} [DecidableEq α] (d : α) (m : SMap α) (a : Nat) (f : Nat → α) (n i : Nat) (hi : i < n) :
    ((List.range n).foldl (fun m i => SMap.put d m (a + i) (f i)) m).getD (a + i) d = f i := by
  induction n with
  | zero => omega
  | succ n ih =>
    rw [List.range_succ, List.foldl_append, List.foldl_cons, List.foldl_nil, SMap.getD_put]
    by_cases h : i = n
    · rw [h, if_pos rfl]
    · rw [if_neg (by omega), ih (by omega)]

/-- Each entry written adds at most one to a table. -/
theorem length_foldl_put_le {α : Type} [DecidableEq α] (d : α) (m : SMap α) (a : Nat) (f : Nat → α) (n : Nat) :
    ((List.range n).foldl (fun m i => SMap.put d m (a + i) (f i)) m).length ≤ m.length + n := by
  induction n with
  | zero => exact Nat.le_refl _
  | succ n ih =>
    rw [List.range_succ, List.foldl_append, List.foldl_cons, List.foldl_nil]
    have := SMap.length_put_le d ((List.range n).foldl (fun m i => SMap.put d m (a + i) (f i)) m) (a + n) (f n)
    omega

theorem zipIdx_eq_map_range {α : Type} (d : α) (l : List α) :
    l.zipIdx = (List.range l.length).map (fun i => (l.getD i d, i)) :=
  List.ext_getElem (by simp) fun i h _ => by simp at h; simp [h]

/-! ### Reservation tables (R395) -/

/-- A table with the eight bytes of a word written at an offset. -/
def putWord (m : SMap (BitVec 8)) (off : Nat) (v : Word) : SMap (BitVec 8) :=
  (List.range 8).foldl (fun m i => SMap.put 0 m (off / 8 * 8 + i) ((bytesOf 8 v.toNat).getD i 0)) m

theorem getD_putWord (m : SMap (BitVec 8)) (off : Nat) (v : Word) (i : Nat) (hi : i < 8) :
    (putWord m off v).getD (off / 8 * 8 + i) 0 = BitVec.ofNat 8 (v.toNat / 256 ^ i) := by
  rw [putWord, getD_foldl_put _ _ _ _ _ _ hi, getD_bytesOf _ _ _ hi]

/-- What a table write leaves pending. -/
def pendTable (s : State) (kind : Nat) (t : SMap (BitVec 8)) : State :=
  { s with ln := { s.ln with rsvtNew := s.ln.rsvtNew.set kind (s.clk.cycle, t) } }

theorem foldTable_clk (s : State) (kind : Nat) : (foldTable s kind).clk = s.clk := by
  unfold foldTable
  split
  · split <;> rfl
  · rfl

theorem foldTable_cores (s : State) (kind : Nat) : (foldTable s kind).cores = s.cores := by
  unfold foldTable
  split
  · split <;> rfl
  · rfl

/-- A table that a frame boundary has come for is in effect, and is pending no more. -/
theorem foldTable_passed (s : State) (kind since : Nat) (t : SMap (BitVec 8))
    (h : s.ln.rsvtNew.get? kind = some (since, t)) (hp : framePassed s kind since = true) :
    (foldTable s kind).ln.rsvtNew.get? kind = none ∧
      ∀ i, i < 256 → (foldTable s kind).ln.rsvt.getD (kind * 256 + i) 0 = t.getD i 0 := by
  simp only [foldTable, h, hp, if_pos]
  exact ⟨by simp [SMap.get?_erase], fun i hi => getD_foldl_put _ _ _ _ _ _ hi⟩

theorem foldTable_pending (s : State) (kind since : Nat) (t : SMap (BitVec 8))
    (h : s.ln.rsvtNew.get? kind = some (since, t)) (hp : framePassed s kind since = false) : foldTable s kind = s := by
  simp [foldTable, h, hp]

theorem foldTable_none (s : State) (kind : Nat) (h : s.ln.rsvtNew.get? kind = none) : foldTable s kind = s := by
  simp [foldTable, h]

/-- The bytes in effect are those of the table with what has taken effect. -/
theorem rsvt_foldTable (s : State) (kind i : Nat) (hi : i < 256) :
    ((foldTable s kind).ln.rsvt.getD (kind * 256 + i) 0).toNat = rsvtByte s kind i := by
  cases h : s.ln.rsvtNew.get? kind with
  | none => simp [foldTable_none s kind h, rsvtByte, h]
  | some e =>
    obtain ⟨since, t⟩ := e
    cases hp : framePassed s kind since with
    | true => rw [(foldTable_passed s kind since t h hp).2 i hi]; simp [rsvtByte, h, hp]
    | false => simp [foldTable_pending s kind since t h hp, rsvtByte, h, hp]

/-- A table written now is not in effect in this frame. -/
theorem rsvtByte_pendTable (s : State) (kind i : Nat) (t : SMap (BitVec 8)) :
    rsvtByte (pendTable s kind t) kind i = (s.ln.rsvt.getD (kind * 256 + i) 0).toNat := by
  simp [rsvtByte, pendTable, framePassed]

theorem rsvtLatest_pendTable (s : State) (kind : Nat) (t : SMap (BitVec 8)) : rsvtLatest (pendTable s kind t) kind = t := by
  simp [rsvtLatest, pendTable]

/-- A write that leaves at most 192 bytes nonzero is taken. -/
theorem rsvtPut_ok (s : State) (kind off : Nat) (v : Word) (h : (rsvtLatest s kind).length ≤ 184) :
    rsvtPut s kind off v = .ok (pendTable (foldTable s kind) kind (putWord (rsvtLatest s kind) off v)) := by
  have hfold : ((bytesOf 8 v.toNat).zipIdx).foldl (fun m x => SMap.put 0 m (off / 8 * 8 + x.2) x.1) (rsvtLatest s kind) =
      putWord (rsvtLatest s kind) off v := by
    rw [zipIdx_eq_map_range 0, List.foldl_map, length_bytesOf]; rfl
  have hlen : (putWord (rsvtLatest s kind) off v).length ≤ _ := length_foldl_put_le _ _ _ _ _
  unfold rsvtPut
  dsimp only
  rw [hfold, if_neg (by omega), foldTable_clk]
  rw [pendTable, foldTable_clk]

/-- A table written takes effect at a later frame boundary; until then the bytes in effect stay. -/
theorem rsvtWrite_pends (s : State) (port : Bool) (kind off : Nat) (v : Word) (hk : kind < 15) (ho : off < 256)
    (hlen : (rsvtLatest s kind).length ≤ 184) (hup : s.boot.held = false) :
    Answers (.rsvtWrite port kind off v) s (fun s' => s'.st = s.st ∧ s'.cores = s.cores ∧
      (∀ i, i < 256 → rsvtByte s' kind i = rsvtByte s kind i) ∧
      ∀ i, i < 8 → (rsvtLatest s' kind).getD (off / 8 * 8 + i) 0 = BitVec.ofNat 8 (v.toNat / 256 ^ i)) := by
  have hexec : exec (.rsvtWrite port kind off v) s =
      .next (pendTable (foldTable s kind) kind (putWord (rsvtLatest s kind) off v)) := by
    show execRsvtWrite port kind off v s = _
    rw [execRsvtWrite, whileUp_up s _ hup, if_pos ⟨hk, ho⟩, rsvtPut_ok s kind off v hlen]
    rfl
  refine ⟨_, hexec, foldTable_st .., foldTable_cores s kind, fun i hi => ?_, fun i hi => ?_⟩
  · rw [rsvtByte_pendTable, rsvt_foldTable s kind i hi]
  · rw [rsvtLatest_pendTable, getD_putWord _ _ _ _ hi]

theorem frameBoundary_passed (s : State) (since : Nat) (t : SMap (BitVec 8))
    (h : s.ln.rsvtNew.get? (s.op 0) = some (since, t)) (hp : framePassed s (s.op 0) since = true) :
    Answers .frameBoundary s (fun s' => s'.st = s.st ∧ s'.cores = s.cores ∧ s'.ln.rsvtNew.get? (s.op 0) = none ∧
      ∀ i, i < 256 → s'.ln.rsvt.getD (s.op 0 * 256 + i) 0 = t.getD i 0) :=
  ⟨_, rfl, foldTable_st .., foldTable_cores s _, foldTable_passed s _ since t h hp⟩

/-! ### A write that its register takes or refuses (R455) -/

section HostPut
variable {s : State} {port : Bool} {off : Nat} {r : Except Cause State}

theorem hostPut_taken {s' : State} (h : r = .ok s') :
    (Host.Outcome.next (hostPut s port off r) : Out) = .next s' := by rw [h]; rfl

theorem hostPut_refused {e : Cause} (h : r = .error e) :
    (Host.Outcome.next (hostPut s port off r) : Out) = .next (hwRefuse s port off e) := by rw [h]; rfl

end HostPut

/-! ### Granaries (R392) -/

theorem grtabWrite_eq (s : State) (port : Bool) (v : Word) (hup : s.boot.held = false) :
    exec (.grtabWrite port v) s = .next (hostPut s port 0x2000 (grtabPut s v)) := whileUp_up s _ hup

theorem grtabPut_ok (s : State) (v : Word) (hz : zeroBits v 62 45 = true) (hz' : zeroBits v 11 0 = true)
    (hlo : 10 ≤ bitsOf v 44 40) (hhi : bitsOf v 44 40 ≤ 22)
    (hen : bitOf s.ln.grtab 63 = false ∨ bitsOf s.ln.grtab 62 0 = bitsOf v 62 0) :
    grtabPut s v = .ok { s with ln := { s.ln with grtab := v, gran := if bitOf v 63 then s.ln.gran else [] } } := by
  have hlo' : ¬ bitsOf v 44 40 < 10 := by omega
  have hhi' : ¬ 22 < bitsOf v 44 40 := by omega
  have hsame : (bitOf s.ln.grtab 63 && bitsOf s.ln.grtab 62 0 != bitsOf v 62 0) = false := by
    rcases hen with h | h <;> simp [h]
  simp [grtabPut, hz, hz', hlo', hhi', hsame]

theorem grtabPut_reserved (s : State) (v : Word) (h : zeroBits v 62 45 = false ∨ zeroBits v 11 0 = false) :
    grtabPut s v = .error Cause.grcfg := by
  rcases h with h | h <;> simp [grtabPut, h]

/-! ### Launch queues (R376, R377) -/

theorem controlWrite_lqcfg (s : State) (port : Bool) (q : Nat) (v : Word) (hq : q < 256) :
    controlWrite s port (0x1000 + 8 * q) v = hostPut s port (0x1000 + 8 * q) (lqcfgPut s q v) := by
  have hidx : (0x1000 + 8 * q - 0x1000) / 8 = q := by omega
  unfold controlWrite
  rw [if_neg (by omega), if_neg (by omega), if_neg (by omega), if_neg (by omega), if_neg (by omega), if_neg (by omega),
    if_neg (by omega), if_neg (by omega), if_neg (by omega), if_neg (by omega),
    if_neg (by unfold ctxcmdOff; omega), if_neg (by omega), if_pos (by omega), hidx]

theorem registerWrite_lqcfg (s : State) (port : Bool) (q : Nat) (v : Word) (hq : q < 256) (hup : s.boot.held = false) :
    exec (.registerWrite port (0x1000 + 8 * q) v) s = .next (hostPut s port (0x1000 + 8 * q) (lqcfgPut s q v)) := by
  rw [registerWrite_control s port _ v (by unfold queueWindow; omega), whileUp_up s _ hup, controlWrite_lqcfg s port q v hq]

theorem lqcfgPut_ok (s : State) (q : Nat) (v : Word) (h : zeroBits v 62 56 = true) (h' : zeroBits v 38 0 = true) :
    lqcfgPut s q v = .ok (setLQ s q { getLQ s q with cfg := v }) := by
  simp [lqcfgPut, h, h']

theorem lqcfgPut_reserved (s : State) (q : Nat) (v : Word) (h : zeroBits v 62 56 = false ∨ zeroBits v 38 0 = false) :
    lqcfgPut s q v = .error Cause.lnchbad := by
  rcases h with h | h <;> simp [lqcfgPut, h]

/-- A word written at a slot of the queue window. -/
theorem registerWrite_slot (s : State) (port : Bool) (q j i : Nat) (v : Word) (hq : q < 256) (hj : j < 15) (hi : i < 8)
    (hup : s.boot.held = false) :
    exec (.registerWrite port (0x20000000 + 1024 * q + 64 * j + 8 * i) v) s = .next (slotWrite s q j i v) := by
  have hoff : 0x20000000 + 1024 * q + 64 * j + 8 * i - queueWindow = 1024 * q + 64 * j + 8 * i := by
    unfold queueWindow; omega
  have hqueue : (1024 * q + 64 * j + 8 * i) / 1024 = q := by omega
  have hrest : (1024 * q + 64 * j + 8 * i) % 1024 = 64 * j + 8 * i := by omega
  have hslot : (64 * j + 8 * i) / 64 = j := by omega
  have hword : (64 * j + 8 * i) % 64 / 8 = i := by omega
  show execRegisterWrite port _ v s = _
  rw [execRegisterWrite, whileUp_up s _ hup, if_neg (by unfold queueWindow; omega), hoff, queueWrite]
  simp only [hqueue, hrest, hslot, hword]
  rw [if_neg (by omega), if_pos (by omega)]

theorem slotWrite_free (s : State) (q j i : Nat) (v : Word) (hb : (getLQ s q).busy.contains j = false) :
    slotWrite s q j i v =
      setLQ s q { getLQ s q with slots := setNth (getLQ s q).slots j (setNth (nth [] (getLQ s q).slots j) i v) } := by
  rw [slotWrite]
  exact if_pos (by rw [hb]; rfl)

/-- A misaligned write of the control window is discarded. -/
theorem registerWrite_misaligned (s : State) (port : Bool) (off : Nat) (v : Word) (h : off < 0x20000000) (ho : off % 8 ≠ 0) :
    exec (.registerWrite port off v) s = .next s := by
  rw [registerWrite_control s port off v h, controlWrite, if_pos ho, whileUp_self]

theorem lqstatRead_eq (s : State) (port : Bool) (q : Nat) (hq : q < 256) : exec (.lqstatRead port q) s =
    .next { setLQ s q { getLQ s q with err := false } with host := { s.host with reply := lqstat (getLQ s q) } } := by
  show execLqstatRead port q s = _
  rw [execLqstatRead, if_pos hq]

/-! ### Keys and the mailbox (R465, R466) -/

/-- The top bit of a word, once cleared (R9). -/
theorem bitOf_clear_top (w : Word) : bitOf (withBits w 63 63 0) 63 = false := by
  have hw : w.toNat < 2 ^ 64 := w.isLt
  simp only [bitOf, BitVec.getLsbD, withBits, bitsOf, BitVec.toNat_ofNat, Nat.shiftRight_eq_div_pow,
    Nat.testBit_eq_decide_div_mod_eq, decide_eq_false_iff_not]
  omega

/-- GO cleared and DONE set (R466). -/
theorem bitsOf_done (w : Word) : bitsOf (withBits (withBits w 63 63 0) 62 62 1) 63 62 = 1 := by
  have hw : w.toNat < 2 ^ 64 := w.isLt
  simp only [withBits, bitsOf, BitVec.toNat_ofNat, Nat.shiftRight_eq_div_pow]
  omega

theorem keyldPut_ok (s : State) (v : Word) (hz : zeroBits v 61 24 = true) (hfree : bitOf s.boot.keyld 63 = false) :
    keyldPut s v = .ok { s with boot := { s.boot with keyld := v } } := by
  simp [keyldPut, hz, hfree]

theorem keyldPut_refused (s : State) (v : Word) (h : zeroBits v 61 24 = false ∨ bitOf s.boot.keyld 63 = true) :
    keyldPut s v = .error Cause.ptebad := by
  rcases h with h | h <;> simp [keyldPut, h]

theorem keyLoad_eq (s : State) (port : Bool) (v : Word) (hup : s.boot.held = false) (h : bitOf v 62 = false) :
    exec (.keyLoad port v) s = .next (hostPut s port 0x110 (keyldPut s v)) := by
  show execKeyLoad port v s = _
  rw [execKeyLoad, whileUp_up s _ hup, h]; rfl

theorem keyClear_eq (s : State) (port : Bool) (v : Word) (hup : s.boot.held = false) (h : bitOf v 62 = true) :
    exec (.keyClear port v) s = .next (hostPut s port 0x110 (keyldPut s v)) := by
  show execKeyClear port v s = _
  rw [execKeyClear, whileUp_up s _ hup, h]; rfl

/-- Forfin fills or empties the key slot, and KEYLD is free again. -/
theorem keyldDone_slot (s : State) (h : bitOf s.boot.keyld 63 = true) : bitOf (keyldDone s).boot.keyld 63 = false ∧
    (bitOf s.boot.keyld 62 = false → (keyldDone s).boot.keys.get? (bitsOf s.boot.keyld 7 0) = some (bitsOf s.boot.keyld 23 8)) ∧
    (bitOf s.boot.keyld 62 = true → (keyldDone s).boot.keys.get? (bitsOf s.boot.keyld 7 0) = none) := by
  simp only [keyldDone, h, Bool.not_true, Bool.false_eq_true, if_false]
  refine ⟨bitOf_clear_top _, fun hl => ?_, fun hc => ?_⟩
  · rw [hl, if_neg Bool.false_ne_true, SMap.get?_set_self]
  · rw [hc, if_pos rfl, SMap.get?_erase, if_pos rfl]

theorem attestationRequest_eq (s : State) (port : Bool) (v : Word) (hup : s.boot.held = false) :
    exec (.attestationRequest port v) s = .next (hostPut s port 0x400 (fmbcmdPut s v)) := whileUp_up s _ hup

theorem fmbcmdPut_ok (s : State) (v : Word) (hz : zeroBits v 61 0 = true) (hgo : bitOf v 63 = true)
    (hfree : bitOf s.boot.fmbcmd 63 = false) :
    fmbcmdPut s v = .ok { s with boot := { s.boot with fmbcmd := withBits v 62 62 0 } } := by
  simp [fmbcmdPut, hz, hgo, hfree]

theorem fmbcmdPut_busy (s : State) (v : Word) (hgo : bitOf v 63 = true) (hbusy : bitOf s.boot.fmbcmd 63 = true) :
    fmbcmdPut s v = .error Cause.hostcfg := by
  simp [fmbcmdPut, hgo, hbusy]

/-- The report begins with the nonce and the node; with a nonce of four words it has 320 bytes. -/
theorem attestReport_shape (nonce : List Word) (node : Nat) (h : nonce.length = 4) :
    (attestReport nonce node).length = 320 ∧ (attestReport nonce node).take 40 = bytesOfWords nonce ++ bytesOf 8 node := by
  have hlen : (bytesOfWords nonce ++ bytesOf 8 node).length = 40 := by simp [h]
  constructor
  · simp only [attestReport, List.length_append, length_bytesOfWords, length_bytesOf, List.length_map, List.length_range,
      List.length_replicate, h]
  · rw [attestReport, List.append_assoc, List.append_assoc, List.append_assoc, List.take_left' hlen]

theorem attestationDone_reports (s : State) (hgo : bitOf s.boot.fmbcmd 63 = true) (hn : s.boot.fmbnonce.length = 4) :
    Answers .attestationDone s (fun s' => s'.st = s.st ∧ bitsOf s'.boot.fmbcmd 63 62 = 1 ∧ s'.boot.fmbrep.length = 320 ∧
      s'.boot.fmbrep.take 40 = bytesOfWords s.boot.fmbnonce ++ bytesOf 8 s.boot.node) := by
  obtain ⟨hlen, htake⟩ := attestReport_shape s.boot.fmbnonce s.boot.node hn
  exact ⟨_, if_pos hgo, rfl, bitsOf_done s.boot.fmbcmd, hlen, htake⟩

/-! ### Halted cores (R467) -/

section Halt
variable (s : State) (port : Bool) (v : Word) (t : Tid) (ht : tidOfSel (bitsOf v 15 0) = some t)
include ht

theorem haltctlPut_ok (hgo : bitOf v 63 = true) (hz : zeroBits v 62 16 = true) (hc : isCore t = true)
    (hh : (getCore s t).halted = true) :
    haltctlPut s v = .ok (setCore s t { (getCore s t).advance with halted := false }) := by
  simp [haltctlPut, ht, hgo, hz, hc, hh]

theorem haltctlPut_running (hh : (getCore s t).halted = false) : haltctlPut s v = .error Cause.hostcfg := by
  simp [haltctlPut, ht, hh]

end Halt

theorem haltResume_eq (s : State) (port : Bool) (v : Word) (hup : s.boot.held = false) :
    exec (.haltResume port v) s = .next (hostPut s port 0x140 (haltctlPut s v)) := whileUp_up s _ hup

/-! ### A module held in reset (R464), and HWSTAT (R455) -/

theorem held_discards (s : State) (port : Bool) (v : Word) (off kind i ctx q len : Nat) (wr : Option (List Byte))
    (h : s.boot.held = true) : ∀ x ∈ [Instr.registerWrite port off v, .grtabWrite port v, .rsvtWrite port kind off v,
      .keyLoad port v, .keyClear port v, .attestationRequest port v, .haltResume port v, .semaphoreWrite port i v,
      .semaphoreRead i true true, .launchDoor q v, .contextCreate port ctx v, .contextSave port v, .contextRestore port v,
      .contextKill port v, .contextRelease port v, .hostMemoryAccess port off len wr, .linkTrained i], exec x s = .next s := by
  have hsem : exec (.semaphoreRead i true true) s = .next s := if_pos (Or.inr (Or.inr h))
  have hmem : exec (.hostMemoryAccess port off len wr) s = .next s := if_pos (Or.inr (Or.inl h))
  have hup : ∀ t, whileUp s t = .next s := fun t => whileUp_held s t h
  simp only [List.forall_mem_cons, hsem, hmem]
  exact ⟨hup _, hup _, hup _, hup _, hup _, hup _, hup _, hup _, trivial, hup _, hup _, hup _, hup _, hup _, hup _, trivial,
    hup _, List.forall_mem_nil _⟩

theorem hwstatRead_clears (s : State) (port which : Bool) : Answers (.hwstatRead port which) s (fun s' => s'.st = s.st ∧
    s'.host.reply = (if which then s.host.hwstatB else s.host.hwstatA) ∧
    s'.host.hwstatB = (if which then 0 else s.host.hwstatB) ∧ s'.host.hwstatA = (if which then s.host.hwstatA else 0)) := by
  refine ⟨_, rfl, ?_⟩
  cases which <;> exact ⟨rfl, rfl, rfl, rfl⟩

/-! ### The statement -/

/-- Settles O53: each register by the write that it takes or refuses, each read by what it clears. -/
theorem hostRegisterEvents : Obligations.HostRegisterEvents := by
  unfold Obligations.HostRegisterEvents
  intro s port v
  refine ⟨fun off kind i ctx q len wr h => held_discards s port v off kind i ctx q len wr h,
    fun q hq hup => ⟨fun hz hz' => ?_, fun hz => ?_, fun j i hj hi hb hs hw => ?_⟩, fun q hq => ?_,
    fun off h ho => registerWrite_misaligned s port off v h ho, fun hz hz' hlo hhi hup hen => ?_, fun hz hup => ?_,
    fun kind off hk ho hlen hup => rsvtWrite_pends s port kind off v hk ho hlen hup,
    fun since t h => ⟨frameBoundary_passed s since t h,
      fun hp => congrArg Host.Outcome.next (foldTable_pending s _ since t h hp)⟩,
    fun which => hwstatRead_clears s port which, fun hup hz hfree => ?_, fun hup hbad => ?_, keyldDone_slot s,
    fun hup hz hgo => ⟨fun hfree => ?_, fun hbusy => ?_⟩, attestationDone_reports s, fun t ht hgo hz hc hup =>
      ⟨fun hh => ?_, fun hh => ?_⟩⟩
  · exact ⟨_, (registerWrite_lqcfg s port q v hq hup).trans (hostPut_taken (lqcfgPut_ok s q v hz hz')), rfl, rfl, getLQ_setLQ ..⟩
  · exact (registerWrite_lqcfg s port q v hq hup).trans (hostPut_refused (lqcfgPut_reserved s q v hz))
  · refine ⟨_, (registerWrite_slot s port q j i v hq hj hi hup).trans
      (congrArg Host.Outcome.next (slotWrite_free s q j i v hb)), rfl, rfl, ?_⟩
    rw [getLQ_setLQ, nth_setNth _ _ _ _ _ (by omega), if_pos rfl, nth_setNth _ _ _ _ _ (by omega), if_pos rfl]
  · exact ⟨_, lqstatRead_eq s port q hq, rfl, rfl, getLQ_setLQ ..⟩
  · exact ⟨_, (grtabWrite_eq s port v hup).trans (hostPut_taken (grtabPut_ok s v hz hz' hlo hhi hen)), rfl, rfl, rfl, rfl⟩
  · exact (grtabWrite_eq s port v hup).trans (hostPut_refused (grtabPut_reserved s v hz))
  · have hput := hostPut_taken (s := s) (port := port) (off := 0x110) (keyldPut_ok s v hz hfree)
    exact ⟨fun hl => (keyLoad_eq s port v hup hl).trans hput, fun hc => (keyClear_eq s port v hup hc).trans hput⟩
  · have hput := hostPut_refused (s := s) (port := port) (off := 0x110) (keyldPut_refused s v hbad)
    exact ⟨fun hl => (keyLoad_eq s port v hup hl).trans hput, fun hc => (keyClear_eq s port v hup hc).trans hput⟩
  · exact ⟨_, (attestationRequest_eq s port v hup).trans (hostPut_taken (fmbcmdPut_ok s v hz hgo hfree)), rfl, rfl⟩
  · exact (attestationRequest_eq s port v hup).trans (hostPut_refused (fmbcmdPut_busy s v hgo hbusy))
  · refine ⟨_, (haltResume_eq s port v hup).trans (hostPut_taken (haltctlPut_ok s v t ht hgo hz hc hh)),
      onlyCore_setCore s t _, getCore_setCore ..⟩
  · exact (haltResume_eq s port v hup).trans (hostPut_refused (haltctlPut_running s v t ht hh))

end Sys2Proof.Machine
end

section
/-! PROOF. Where a memory form stops: a 17th access, a range, permission or alignment check that fails, and PURITY (R28, R29,
R32, R253, R255, R264, R267, R270, R419). -/
namespace Sys2Proof.Machine
open Sys2Proof.Claims

/-! ### What translation finds at an address (R28, R29, R32) -/

section
variable {s : State} {who : Who} {va : Word} {k : AKind}

theorem translate_noncanon (h : canonical va = false) : translate s who va k = .error Cause.noncanon := by
  rw [translate, h, if_pos (by rfl)]

theorem translate_nomap (h : canonical va = true) (hr : findRange (getCtx s who.ctx) va = none) :
    translate s who va k = .error Cause.nomap := by
  simp only [translate, h, hr, Bool.not_true, Bool.false_eq_true, if_false]

theorem translate_perm {r : Word × Word × Word} (h : canonical va = true) (hr : findRange (getCtx s who.ctx) va = some r)
    (hp : permitted r k = false) : translate s who va k = .error Cause.perm := by
  simp only [translate, h, hr, hp, Bool.not_true, Bool.not_false, Bool.false_eq_true, if_false, if_true]

theorem checkIssue_noncanon {n : Nat} (h : canonical va = false) : checkIssue s who va n k = .error Cause.noncanon := by
  simp only [checkIssue, translate_noncanon h]

end

theorem canonical_eq (va : Word) : canonical va = decide (bitsOf va 63 57 = if bitOf va 56 then 127 else 0) := rfl

/-! ### What a memory form's issue finds -/

section
variable {s s1 : State} {t : Tid} {c : Core} {f : Firing} {x : MemForm} {w : BitVec 32}

theorem issueForm_traps {e : Cause} (hc : getCore s t = c)
    (h : issueCause s (coreWho t f (syncKey t)) x.va x.size x.kind.perm x.aligned = .error e) :
    issueForm x s t c f w = takeTrap s t e true c.pc x.va 0 := by
  subst hc
  unfold issueForm issueAccess
  dsimp only
  simp only [h]
  rfl

/-- A 17th access waits (R253). -/
theorem issueForm_full (hc : x.Checked s t f) (hn : 16 ≤ c.unfin.length) : issueForm x s t c f w = s := by
  obtain ⟨p, hp⟩ := issueCause_of_checked hc
  unfold issueForm issueAccess
  dsimp only
  simp only [hp]
  exact if_pos hn

/-- An access that a pure firing's tile list does not declare (R419). -/
theorem issueForm_impure (hc : x.Checked s t f) (hn : c.unfin.length < 16) (hr : x.rel = true → c.allPod = true)
    (hp : pureAllows s c f (coreWho t f (syncKey t)) x.va x.size x.writes = (.ok false, s1)) :
    issueForm x s t c f w = trapPurity s1 t := by
  obtain ⟨p, hi⟩ := issueCause_of_checked hc
  unfold issueForm issueAccess
  dsimp only
  simp only [hi]
  rw [if_neg (Nat.not_le.2 hn), if_neg (by simpa using hr)]
  split
  case h_1 h => cases hp.symm.trans h
  case h_2 h => cases hp.symm.trans h
  case h_3 h => cases hp.symm.trans h; rfl

theorem issueCause_of_error {who : Who} {e : Cause} (h : checkIssue s who x.va x.size x.kind.perm = .error e)
    (hw : e = Cause.window → x.aligned = true → x.va.toNat % x.size = 0) :
    issueCause s who x.va x.size x.kind.perm x.aligned = .error e := by
  rw [issueCause, h]
  exact congrArg Except.error (if_neg fun ⟨hx, ha, hn⟩ => hn (hw hx ha))

theorem issueCause_misaligned {who : Who} {p : Nat × Nat} (h : checkIssue s who x.va x.size x.kind.perm = .ok p)
    (ha : x.aligned = true) (hn : x.va.toNat % x.size ≠ 0) :
    issueCause s who x.va x.size x.kind.perm x.aligned = .error Cause.align := by
  rw [issueCause, h]
  exact if_pos (by simp [ha, hn])

end

/-- JCNT is one of the forms that a pure firing may not run (R419). -/
theorem impure_of_jcnt {r : Reg → Word} {i : Instr} {x : MemForm} (h : memForm r i = some x) (hk : x.kind = .jcnt) :
    x.impure = true := by
  unfold memForm at h
  split at h
  case h_30 => cases h; rfl
  case h_31 => exact nomatch h
  all_goals cases h; cases hk

/-! ### PURITY -/

section
variable {s s1 : State} {t : Tid} {c : Core} {f : Firing}

theorem notPure_of_pure (h : mayImpure c f = false) (k : State) : notPure s t c f k = trapPurity s t := by
  simp only [mayImpure, Bool.or_eq_false_iff, Bool.not_eq_false'] at h
  simp [notPure, h]

/-- PURITY is taken precisely, with NOINS set in the firing (R419). -/
theorem trapsPurity_of_exec {i : Instr} (hc : getCore s1 t = c) (hr : c.run = some f) (h : exec i s = .next (trapPurity s1 t)) :
    TrapsPurity i s s1 t c f := by
  subst hc
  have hw : trapPurity s1 t = trapOpen (setCore s1 t { getCore s1 t with run := some { f with task := { f.task with noins := true } } }) t
      Cause.purity := by
    rw [trapPurity, Core.withFiring, hr]
    rfl
  exact ⟨_, h.trans (congrArg Host.Outcome.next (hw.trans (trapOpen_eq_takeTrap (by rw [getCore_setCore]))))⟩

variable {i : Instr} {a b d : Reg} (hrun : Runs s t c f) (hp : mayImpure c f = false)
include hrun hp

theorem exec_barred_of_next {k : Tid → Core → Firing → State} (hx : exec i s = onCore s k) {k' : State}
    (hk : k t c f = notPure s t c f k') : TrapsPurity i s s t c f :=
  trapsPurity_of_exec hrun.2.1 hrun.2.2.1 (exec_of_runs hrun hx (hk.trans (notPure_of_pure hp k')))

/-- A form that looks at its registers first. -/
theorem exec_barred {rs : List Reg} {k : Tid → Core → Firing → State} (hd : c.ready rs = true)
    (hx : exec i s = onCore s (fun t c f => if !c.ready rs then s else notPure s t c f (k t c f))) : TrapsPurity i s s t c f :=
  exec_barred_of_next hrun hp hx (if_neg (by simp [hd]))

theorem amsg_barred (hd : c.ready [a, d] = true) (hw : c.waiting = .none) : TrapsPurity (.amsg a d) s s t c f := by
  refine trapsPurity_of_exec hrun.2.1 hrun.2.2.1 (exec_of_runs hrun (show _ = execAmsg a d s from rfl) ?_)
  simp only [hw, hd, notPure_of_pure hp, Bool.not_true, Bool.false_eq_true, if_false]

theorem atomForm_barred {fn n : Nat} (hd : c.ready [a, b, d] = true) (hx : exec i s = atomForm s i fn a b d n) :
    TrapsPurity i s s t c f := exec_barred_of_next hrun hp hx (if_pos hd)

theorem redForm_barred {fn n : Nat} (hd : c.ready [a, b] = true) (hx : exec i s = redForm s i fn a b n) :
    TrapsPurity i s s t c f := exec_barred_of_next hrun hp hx (if_pos hd)

/-- The atomics, the reductions and JCNT (R419). -/
theorem memForm_barred {x : MemForm} (h : memForm (fun _ => 0) i = some x) (hi : x.impure = true) (hd : c.ready x.regs = true) :
    TrapsPurity i s s t c f := by
  unfold memForm at h
  split at h
  case h_1 | h_2 | h_3 | h_4 | h_5 => cases h; cases hi
  case h_6 | h_7 | h_8 | h_9 | h_10 | h_11 | h_12 | h_13 | h_14 | h_15 | h_16 | h_17 =>
    cases h; exact atomForm_barred hrun hp hd rfl
  case h_18 | h_19 | h_20 | h_21 | h_22 | h_23 | h_24 | h_25 | h_26 | h_27 | h_28 | h_29 =>
    cases h; exact redForm_barred hrun hp hd rfl
  case h_30 a b d => cases h; exact exec_barred hrun hp hd (show _ = execJcnt a b d s from rfl)
  case h_31 => exact nomatch h

/-- Every form that R419 bars takes PURITY in a pure firing, once its registers are ready. -/
theorem barred_trapsPurity {rs : List Reg} (h : barred i = some rs) (hd : c.ready rs = true) (hw : c.waiting = .none) :
    TrapsPurity i s s t c f := by
  unfold barred at h
  split at h
  case h_1 a => cases h; exact exec_barred hrun hp hd (show _ = execSpawn a s from rfl)
  case h_2 a d => cases h; exact amsg_barred hrun hp hd hw
  case h_3 a => cases h; exact exec_barred hrun hp hd (show _ = execAmsgw a s from rfl)
  case h_4 z e => exact exec_barred_of_next hrun hp (show _ = execPublish z e s from rfl) rfl
  case h_5 n => exact exec_barred_of_next hrun hp (show _ = execDisarm n s from rfl) rfl
  case h_6 n => exact exec_barred_of_next hrun hp (show _ = execSmark n s from rfl) rfl
  case h_7 a b => cases h; exact exec_barred hrun hp hd (show _ = execGinv a b s from rfl)
  case h_8 a b => cases h; exact exec_barred hrun hp hd (show _ = execBinit a b s from rfl)
  case h_9 a b => cases h; exact exec_barred hrun hp hd (show _ = execBarr a b s from rfl)
  case h_10 a b | h_11 a b => cases h; exact exec_barred hrun hp hd (show _ = bchg s a b from rfl)
  case h_12 a b => cases h; exact exec_barred hrun hp hd (show _ = cfgForm s a b 0 from rfl)
  case h_13 a b => cases h; exact exec_barred hrun hp hd (show _ = cfgForm s a b 1 from rfl)
  case h_14 a b => cases h; exact exec_barred hrun hp hd (show _ = cfgForm s a b 2 from rfl)
  case h_15 a b => cases h; exact exec_barred hrun hp hd (show _ = cfgForm s a b 3 from rfl)
  case h_16 a b n => cases h; exact exec_barred hrun hp hd (show _ = execArm a b n s from rfl)
  case h_17 a b n => cases h; exact exec_barred hrun hp hd (show _ = execTapset a b n s from rfl)
  case h_18 a n => cases h; exact exec_barred hrun hp hd (show _ = execStrm a n s from rfl)
  case h_19 a n => cases h; exact exec_barred hrun hp hd (show _ = execSstop a n s from rfl)
  case h_20 a n => cases h; exact exec_barred hrun hp hd (show _ = execSeal a n s from rfl)
  case h_21 =>
    split at h
    case h_1 x hx =>
      split at h
      case isTrue hi => cases h; exact memForm_barred hrun hp hx hi hd
      case isFalse => exact nomatch h
    case h_2 => exact nomatch h

end

/-! ### O6 -/

/-- Settles O6: the form goes to its issue, which stops at the first check that fails; a barred form does not get there. -/
theorem memoryFormsStop : Obligations.MemoryFormsStop := by
  unfold Obligations.MemoryFormsStop
  refine ⟨fun i s t c f x hrun h hd => ⟨fun hc hp hj hn => ?_, fun hp hj => ?_, fun s1 hi hc hn hr ha hg => ?_⟩,
    fun i s t c f rs hrun h hd hw hp => barred_trapsPurity hrun hp h hd hw,
    fun s who va k => ⟨canonical_eq va, translate_noncanon, translate_nomap, fun r => translate_perm⟩⟩
  · exact (exec_memForm hrun hd hp h hj).trans (congrArg _ (issueForm_full hc hn))
  · have hx {e : Cause} (he : issueCause s (coreWho t f (syncKey t)) x.va x.size x.kind.perm x.aligned = .error e) :
        exec i s = .next (takeTrap s t e true c.pc x.va 0) :=
      (exec_memForm hrun hd hp h hj).trans (congrArg _ (issueForm_traps hrun.2.1 he))
    exact ⟨fun hv => hx (issueCause_of_error (checkIssue_noncanon hv) fun he => absurd he (by decide)),
      fun e he hw => hx (issueCause_of_error he hw), fun p ha he hn => hx (issueCause_misaligned he ha hn)⟩
  · have hx := exec_memForm hrun hd (fun h' => absurd (hi.symm.trans h') Bool.false_ne_true) h
      fun hk => absurd (hi.symm.trans (impure_of_jcnt h hk)) Bool.false_ne_true
    exact trapsPurity_of_exec hg hrun.2.2.1 (hx.trans (congrArg _ (issueForm_impure hc hn hr ha)))

end Sys2Proof.Machine
end

section
/-! PROOF. The way of a core stream's access: window, bank, home port, walk, owners' answers and reply (R35, R36, R40, R45, R62,
R95, R253, R263, R264, R267). -/
namespace Sys2Proof.Machine
open Sys2Proof.Claims

/-! ### A part of an access -/

/-- The part that memory has performed is recorded, or handed on, as R45 and R95 say. -/
theorem performStep_partDone {s s1 : State} {t : Tid} {f : Firing} {a : Access} {bs : List Byte}
    (h : performAcc s t f a = (.ok bs, s1)) : PartDone s1 t f a bs (performStep s t f a) := by
  unfold performStep PartDone
  simp only [h]
  generalize chooseNext _ (a.left.drop 1) = r
  obtain ⟨left, s2⟩ := r
  cases hl : left.isEmpty with
  | true => exact ⟨onlyCore_setCore _ _ _, getCore_setCore _ _ _⟩
  | false => exact ⟨onlyCore_setCore _ _ _, getCore_setCore _ _ _⟩

/-- An access of one part supplies that part's bytes (R263). -/
theorem value_of_one_part {a : Access} {bs : List Byte} (h : a.parts.length = 1) (hk : a.kind ≠ .jcnt) :
    ({ a with got := a.got.set 0 bs } : Access).value = ofBytes bs := by
  have hv : ofBytes ((List.range a.parts.length).flatMap (fun i => (a.got.set 0 bs).getD i [])) = ofBytes bs := by
    simp [h, List.range_succ]
  unfold Access.value
  dsimp only
  split
  · next hj => exact absurd hj hk
  · exact hv

/-- gd takes the bytes extended to 64 bits (R263, R267). -/
theorem result_eq_extended {a : Access} {v : Nat} (hv : v < 2 ^ (8 * a.size)) (h0 : 0 < a.size) (h8 : a.size ≤ 8) :
    a.result v = extended a v := by
  unfold Access.result extended
  split
  · have hlt : v < 2 ^ 64 := hv.trans_le (Nat.pow_le_pow_right (by decide) (by omega))
    obtain ⟨k, hk⟩ : ∃ k, 8 * a.size = k + 1 := ⟨8 * a.size - 1, by omega⟩
    rw [hk, sextN_eq_ofInt _ _ (by omega), BitVec.toNat_ofNat, Nat.mod_eq_of_lt hlt]
  · rfl

/-! ### The events -/

section
variable {s : State} {t id : Nat} {c : Core} {f : Firing} {a : Access}

/-- An event of an access answers what it makes of the access. -/
theorem exec_of_access {i : Instr} {k : Tid → Nat → Core → Firing → Access → State} (ht : s.op 0 = t) (hi : s.op 1 = id)
    (hc : getCore s t = c) (hr : c.run = some f) (ha : c.findAcc id = some a) (hx : exec i s = onAccess s k) {s' : State}
    (hk : k t id c f a = s') : exec i s = .next s' :=
  hx.trans ((onAccess_next k ht hi hc hr ha).trans (congrArg _ hk))

variable (ht : s.op 0 = t) (hi : s.op 1 = id) (hc : getCore s t = c) (hr : c.run = some f) (ha : c.findAcc id = some a)
include ht hi hc hr ha

theorem exec_windowAccess_reaches (hp : a.phase = .sent) (hw : inWindow a.ia = true) (hn : nowPerforms s t c f a = true) :
    exec .windowAccess s = .next (setCore s t (c.setPhase id .atBank)) :=
  exec_of_access ht hi hc hr ha (show _ = execWindowAccess s from rfl) (if_pos ⟨hp, hw, hn⟩)

/-- Away from the word of a FIFO region the bank performs the next part (R62). -/
theorem exec_bankAccess_performs (hp : a.phase = .atBank) (hn : nowPerforms s t c f a = true)
    (hq : fifoWordOf s f.task.ctx a = none) : exec .bankAccess s = .next (performStep s t f a) := by
  refine exec_of_access ht hi hc hr ha (show _ = execBankAccess s from rfl) ((if_pos ⟨hp, hn⟩).trans ?_)
  rw [hq]

theorem exec_homePortAccess_performs (hp : a.phase = .sent) (hw : inWindow a.ia = false) (hn : nowPerforms s t c f a = true)
    (hu : uncached s a = false) : exec .homePortAccess s = .next (performStep s t f a) :=
  exec_of_access ht hi hc hr ha (show _ = execHomePortAccess s from rfl) (if_pos ⟨hp, hw, hn, hu⟩)

theorem exec_pageWalk_caches {e : TEntry} {s1 : State} (hp : a.phase = .sent) (hu : uncached s a = true)
    (hl : lookupPage s a.ia a.part.2.2 = (.ok e, s1)) : exec .pageWalk s = .next s1 := by
  refine exec_of_access ht hi hc hr ha (show _ = execPageWalk s from rfl) ((if_pos ⟨hp, hu⟩).trans ?_)
  rw [hl]

theorem exec_pageWalk_faults {e : Cause} {s1 : State} (hp : a.phase = .sent) (hu : uncached s a = true)
    (hl : lookupPage s a.ia a.part.2.2 = (.error e, s1)) :
    exec .pageWalk s = .next (setCore s1 t (c.setPhase id (.faulted e))) := by
  refine exec_of_access ht hi hc hr ha (show _ = execPageWalk s from rfl) ((if_pos ⟨hp, hu⟩).trans ?_)
  rw [hl]

theorem exec_reply_far {v i uid : Nat} {e : Cause} {old : List Byte} (hp : a.phase = .forwarded v)
    (hf : farAnswer s t a a.far = some (i, uid, e, old)) :
    exec .sequencerAccessReply s = .next (takeFar s t f c a i uid e old) := by
  refine exec_of_access ht hi hc hr ha (show _ = execSequencerAccessReply s from rfl) ?_
  simp only [hp, hf]

/-- The reply of a performed access frees its place and writes gd (R253, R263, R267). -/
theorem exec_reply_performed {v : Nat} (hp : a.phase = .performed v) :
    exec .sequencerAccessReply s = .next (setCore s t
      (if a.kind.writesGd then ({ c with unfin := c.unfin.filter (fun y => y.id != id) } : Core).setGpr a.gd (a.result v)
        else { c with unfin := c.unfin.filter (fun y => y.id != id) })) := by
  refine exec_of_access ht hi hc hr ha (show _ = execSequencerAccessReply s from rfl) ?_
  simp only [hp]

end

/-! ### Owners' answers -/

section
variable {s : State} {t : Tid} {f : Firing} {c : Core} {a : Access} {v i uid : Nat} {old : List Byte}

/-- The last owner's answer performs the access at pod scope (R95). -/
theorem takeFar_last (hp : a.phase = .forwarded v) (hf : a.far = [i]) :
    takeFar s t f c a i uid 0 old =
      setCore (chargeAcc (dropOut s uid) t f a old) t (c.putAcc { a with far := [], phase := .performed v }) := by
  have hl : a.far.filter (· != i) = [] := by simp [hf]
  unfold takeFar
  simp only [if_true, hl, hp]
  rfl

/-- An owner's answer with a cause ends the access in it; its part is still to do (R255). -/
theorem takeFar_fault {e : Cause} (hp : a.phase = .forwarded v) (he : e ≠ 0) :
    takeFar s t f c a i uid e old =
      setCore (dropOut s uid) t (c.putAcc { a with far := a.far.filter (· != i), phase := .faulted e, left := i :: a.left }) := by
  unfold takeFar
  simp only [if_neg he, hp]

end

/-! ### O7 -/

/-- Settles O7: one equation for each event, and what the performance of a part, an owner's answer and the reply leave. -/
theorem accessEvents : Obligations.AccessEvents := by
  unfold Obligations.AccessEvents
  refine ⟨fun s t id c f a ht hi hc hr ha => ⟨fun hp hw hn => ?_, fun bs s1 hp hn hq h => ?_, fun bs s1 hp hw hn hu h => ?_,
    fun e s1 hp hu hl => exec_pageWalk_caches ht hi hc hr ha hp hu hl, fun e s1 hp hu hl => ?_, fun v i uid old hp hf h => ?_,
    fun v i uid e old hp h he => ?_, fun v hp hv h0 h8 => ?_⟩, fun a bs h hk => value_of_one_part h hk⟩
  · exact answers_setCore (exec_windowAccess_reaches ht hi hc hr ha hp hw hn)
  · exact ⟨_, exec_bankAccess_performs ht hi hc hr ha hp hn hq, performStep_partDone h⟩
  · exact ⟨_, exec_homePortAccess_performs ht hi hc hr ha hp hw hn hu, performStep_partDone h⟩
  · exact answers_setCore (exec_pageWalk_faults ht hi hc hr ha hp hu hl)
  · exact answers_setCore ((exec_reply_far ht hi hc hr ha hp h).trans (congrArg _ (takeFar_last hp hf)))
  · exact answers_setCore ((exec_reply_far ht hi hc hr ha hp h).trans (congrArg _ (takeFar_fault hp he)))
  · rw [← result_eq_extended hv h0 h8]
    exact answers_setCore (exec_reply_performed ht hi hc hr ha hp)

end Sys2Proof.Machine
end

section
/-! PROOF. What a replaced field leaves of the word's other fields (R9). -/
namespace Sys2Proof.Machine

section
variable {h l h' l' : Nat}

theorem two_pow_field (hl : l ≤ h) : 2 ^ (h + 1) = 2 ^ (h + 1 - l) * 2 ^ l := by
  rw [← Nat.pow_add, Nat.sub_add_cancel (by omega)]

/-- A field of bits h to l with what lies below it stays below bit h + 1. -/
theorem field_lt (x r : Nat) (hl : l ≤ h) : x % 2 ^ (h + 1 - l) * 2 ^ l + r % 2 ^ l < 2 ^ (h + 1) := by
  have hx := Nat.mul_le_mul_right (2 ^ l) (Nat.succ_le_of_lt (Nat.mod_lt x (Nat.two_pow_pos (h + 1 - l))))
  rw [← two_pow_field hl, Nat.succ_mul] at hx
  exact (Nat.add_lt_add_left (Nat.mod_lt r (Nat.two_pow_pos l)) _).trans_le hx

/-- A word with a field replaced: what lies above, the field, what lies below (R9). -/
theorem toNat_withBits (v : Word) (x : Nat) (hl : l ≤ h) (hh : h < 64) :
    (withBits v h l x).toNat = v.toNat / 2 ^ (h + 1) * 2 ^ (h + 1) + (x % 2 ^ (h + 1 - l) * 2 ^ l + v.toNat % 2 ^ l) := by
  have hp := two_pow_field hl
  have hx := field_lt x v.toNat hl
  have hv : v.toNat / 2 ^ (h + 1) * 2 ^ (h + 1) + 2 ^ (h + 1) ≤ 2 ^ 64 := by
    obtain ⟨k, hk⟩ : (2 : Nat) ^ (h + 1) ∣ 2 ^ 64 := Nat.pow_dvd_pow 2 hh
    have hq : v.toNat / 2 ^ (h + 1) < k := Nat.div_lt_of_lt_mul (hk ▸ v.isLt)
    rw [hk]
    nlinarith [Nat.two_pow_pos (h + 1)]
  have hn : v.toNat = v.toNat / 2 ^ (h + 1) * 2 ^ (h + 1) + (v.toNat / 2 ^ l % 2 ^ (h + 1 - l) * 2 ^ l + v.toNat % 2 ^ l) := by
    calc v.toNat = v.toNat / 2 ^ l * 2 ^ l + v.toNat % 2 ^ l := (Nat.div_add_mod' _ _).symm
      _ = (v.toNat / 2 ^ l / 2 ^ (h + 1 - l) * 2 ^ (h + 1 - l) + v.toNat / 2 ^ l % 2 ^ (h + 1 - l)) * 2 ^ l + v.toNat % 2 ^ l := by
        rw [Nat.div_add_mod' (v.toNat / 2 ^ l), Nat.div_add_mod']
      _ = _ := by
        rw [Nat.div_div_eq_div_mul, Nat.mul_comm (2 ^ l), ← hp, Nat.add_mul, Nat.mul_assoc, ← hp, Nat.add_assoc]
  rw [withBits, bitsOf, BitVec.toNat_ofNat, Nat.shiftRight_eq_div_pow, Nat.mod_eq_of_lt]
  all_goals omega

theorem bitsOf_withBits_self (v : Word) (x : Nat) (hl : l ≤ h) (hh : h < 64) :
    bitsOf (withBits v h l x) h l = x % 2 ^ (h + 1 - l) := by
  have hp := two_pow_field hl
  rw [bitsOf, toNat_withBits v x hl hh, Nat.shiftRight_eq_div_pow, hp, ← Nat.mul_assoc, ← Nat.add_assoc, ← Nat.add_mul,
    Nat.mul_comm _ (2 ^ l), Nat.mul_add_div (Nat.two_pow_pos l), Nat.div_eq_of_lt (Nat.mod_lt _ (Nat.two_pow_pos l)), Nat.add_zero,
    Nat.mul_add_mod', Nat.mod_mod]

/-- A field above the one replaced reads as before. -/
theorem bitsOf_withBits_above (v : Word) (x : Nat) (hl : l ≤ h) (hh : h < 64) (hd : h < l') :
    bitsOf (withBits v h l x) h' l' = bitsOf v h' l' := by
  have hp := two_pow_field hl
  have hx := field_lt x v.toNat hl
  have hs : 2 ^ l' = 2 ^ (h + 1) * 2 ^ (l' - (h + 1)) := by rw [← Nat.pow_add]; congr 1; omega
  rw [bitsOf, bitsOf, toNat_withBits v x hl hh, Nat.shiftRight_eq_div_pow, Nat.shiftRight_eq_div_pow, hs,
    ← Nat.div_div_eq_div_mul, ← Nat.div_div_eq_div_mul, Nat.mul_comm _ (2 ^ (h + 1)), Nat.mul_add_div (Nat.two_pow_pos _),
    Nat.div_eq_of_lt hx, Nat.add_zero]

/-- A field below the one replaced reads as before. -/
theorem bitsOf_withBits_below (v : Word) (x : Nat) (hl : l ≤ h) (hh : h < 64) (hd : h' < l) :
    bitsOf (withBits v h l x) h' l' = bitsOf v h' l' := by
  have hp := two_pow_field hl
  have hm : (withBits v h l x).toNat % 2 ^ l = v.toNat % 2 ^ l := by
    rw [toNat_withBits v x hl hh, hp, ← Nat.mul_assoc, ← Nat.add_assoc, ← Nat.add_mul, Nat.mul_add_mod', Nat.mod_mod]
  have hb (w : Word) : bitsOf w h' l' = w.toNat % 2 ^ l / 2 ^ l' % 2 ^ (h' + 1 - l') := by
    refine Nat.eq_of_testBit_eq fun i => ?_
    simp only [bitsOf, Nat.testBit_mod_two_pow, Nat.testBit_shiftRight, Nat.testBit_div_two_pow]
    by_cases hi : i < h' + 1 - l'
    · simp [hi, Nat.add_comm i, show l' + i < l by omega]
    · simp [hi]
  rw [hb, hb, hm]
end

end Sys2Proof.Machine
end

section
/-! PROOF. PUBLISH, GINV and GPROBE (R46, R111, R300 to R302). -/
namespace Sys2Proof.Machine
open Sys2Proof.Claims

/-! ### What PUBLISH's swap leaves -/

theorem publishSwap_st (s : State) (ctx e : Nat) : (publishSwap s ctx e).st =
    (publishPages s (bitsOf ((getCtx s ctx).bufmap.getD e (0, 0, 0, 0)).2.2.2 47 6 * 64)
      (bitsOf ((getCtx s ctx).bufmap.getD e (0, 0, 0, 0)).2.1 63 32 * 64)).st := by
  rw [publishSwap]
  exact setCtx_st _ _ _

/-- An entry of the buffer map with FRONT and SHADOW swapped and VER counted up (R111). -/
def swappedEntry (w : Word × Word × Word × Word) : Word × Word × Word × Word :=
  (w.1, withBits w.2.1 31 16 (bitsOf w.2.1 31 16 + 1), w.2.2.2, w.2.2.1)

theorem publishSwap_entry (s : State) (ctx e : Nat) : (getCtx (publishSwap s ctx e) ctx).bufmap.getD e (0, 0, 0, 0) =
    swappedEntry ((getCtx s ctx).bufmap.getD e (0, 0, 0, 0)) := by
  rw [publishSwap, getCtx_setCtx]
  exact SMap.getD_set_self _ _ _ _

/-! ### The forms -/

section
variable {s : State} {t : Tid} {c : Core} {f : Firing} (hrun : Runs s t c f)
include hrun

section
variable {sc : Scope} {e : BitVec 6} (hp : mayImpure c f = true) (hw : c.waiting = .none)
include hp hw

/-- PUBLISH with its accesses performed and no command that writes the shadow (R111, R300). -/
theorem exec_publish_swaps (hpod : c.allPod = true) (hpkg : c.allPkg = true)
    (hv : bitOf ((getCtx s f.task.ctx).bufmap.getD e.toNat (0, 0, 0, 0)).1 0 = true)
    (hs : shadowWriters s f.task.ctx e.toNat = []) :
    exec (.publish sc e) s = .next (setCore (publishSwap s f.task.ctx e.toNat) t { c.advance with waiting := .none }) := by
  have hd : (match sc with | .pod => !c.allPod | _ => !c.allPkg) = false := by cases sc <;> simp [hpod, hpkg]
  refine exec_of_runs hrun (show _ = execPublish sc e s from rfl) ?_
  simp only [notPure_of_mayImpure hp, hw, hv, hs, hrun.2.1, Bool.not_true, List.isEmpty_nil, Bool.false_eq_true, if_false, if_true]
  exact if_neg (by rw [Bool.not_eq_true]; exact hd)

theorem exec_publish_invalid (hv : bitOf ((getCtx s f.task.ctx).bufmap.getD e.toNat (0, 0, 0, 0)).1 0 = false) :
    exec (.publish sc e) s = .next (trapOpen s t Cause.noentry) := by
  refine exec_of_runs hrun (show _ = execPublish sc e s from rfl) ?_
  simp only [notPure_of_mayImpure hp, hw, hv, Bool.not_false, if_true]

end

/-- GINV with ALL takes the entries of its own tenant (R301). -/
theorem exec_ginv_all {a b : Reg} (hp : mayImpure c f = true) (hd : c.ready [a, b] = true) (ha : c.opA a = 0)
    (hb : c.opB b = 1) : exec (.ginv a b) s =
      .next (setCore (granRemove s (fun e => e.tenant == (getCtx s f.task.ctx).tenant)) t c.finish) := by
  have hten : bitOf (1 : Word) 1 = false := by decide
  have hall : bitOf (1 : Word) 0 = true := by decide
  have hz : zeroBits (1 : Word) 47 2 = true ∧ zeroBits (1 : Word) 63 48 = true := by decide
  refine exec_of_runs hrun (show _ = execGinv a b s from rfl) ?_
  simp only [hd, notPure_of_mayImpure hp, ha, hb, hten, hall, hz.1, hz.2, Bool.not_true, Bool.not_false, Bool.false_eq_true, if_true,
    if_false]
  rfl

/-- GPROBE whose task is well formed takes the granary's answer (R302). -/
theorem exec_gprobe {a d : Reg} {h rs : List Word} {ds : List TileDesc} {v : Nat} {s1 s2 s3 : State} (hd : c.ready [a, d] = true)
    (ha : (c.opA a).toNat % 64 = 0) (hr : formReads s c (coreWho t f (syncKey t)) (c.opA a) 192 = true)
    (hc : readCR s (coreWho t f (syncKey t)) (c.opA a) = (.ok (h, rs), s1)) (hh : headerBad s1 true f.task.launch h = false)
    (hr' : formReads s1 c (coreWho t f (syncKey t)) (crTiles h) 272 = true)
    (ht : examineTiles s1 (coreWho t f (syncKey t)) (crTiles h) = (.ok ds, s2))
    (hg : granProbe s2 (coreWho t f (syncKey t)) (dieOf t) f.task.launch h rs ds = (.ok v, s3)) :
    exec (.gprobe a d) s = .next (setCore s3 t ((getCore s3 t).setGpr d (BitVec.ofNat 64 v)).finish) := by
  refine exec_of_runs hrun (show _ = execGprobe a d s from rfl) ?_
  simp only [hd, ha, hr, hc, hh, hr', ht, hg, ne_eq, not_true_eq_false, Bool.not_true, Bool.false_eq_true, if_false]

end

/-! ### O23 -/

/-- Settles O23: each form by what it makes of its entry, of the granary, or of the task that it names. -/
theorem publishForms : Obligations.PublishForms := by
  unfold Obligations.PublishForms
  refine fun s t c f hrun => ⟨fun sc e hp hw hpod hpkg hv hs => ?_,
    fun sc e hp hw hv => trapsOpen_of_exec (exec_publish_invalid hrun hp hw hv), fun a b hp hd ha hb => ?_,
    fun a d h rs ds v s1 s2 s3 hd ha hr hc hh hr' ht hg => ?_⟩
  · refine ⟨_, exec_publish_swaps hrun hp hw hpod hpkg hv hs, ?_, (setCore_st _ _ _).trans (publishSwap_st s _ _), ?_⟩
    · rw [getCore_setCore]; rfl
    · rw [getCtx_setCore, publishSwap_entry]
      exact ⟨rfl, rfl, bitsOf_withBits_self _ _ (by decide) (by decide)⟩
  · refine ⟨_, exec_ginv_all hrun hp hd ha hb, getCore_setCore .., rfl, fun e he => ?_⟩
    have he : e ∈ s.ln.gran.filter (fun e => !(e.tenant == (getCtx s f.task.ctx).tenant)) := he
    simpa using (List.mem_filter.1 he).2
  · exact ⟨_, exec_gprobe hrun hd ha hr hc hh hr' ht hg, rfl, rfl, getCore_setCore ..⟩

end Sys2Proof.Machine
end

section
/-! PROOF. What accepted writes of control registers leave, and the events of the registers (R31, R41, R69, R109, R152, R170, R192,
R193, R306, R310, R405, R406, R411, R454). -/
namespace Sys2Proof.Machine
open Sys2Proof.Claims

/-! ### The writes -/

section
variable {s : State} {ctx n : Nat} {l : List (Nat × Word)} {v : Word}

theorem trapVAOk_of_canonical {k : Nat} (h : canonical v = true) (hk : v.toNat % k = 0) : trapVAOk v k = true := by
  simp [trapVAOk, h, hk]

theorem crPut_tvec (h : trapVAOk v 4 = true) : crPut s ctx l n v .tvec = .ok (setCtx s ctx { getCtx s ctx with tvec := v }) :=
  if_pos h

theorem crPut_tfbase (h : trapVAOk v 65536 = true) :
    crPut s ctx l n v .tfbase = .ok (setCtx s ctx { getCtx s ctx with tfbase := v }) := if_pos h

theorem crPut_nctl (h : zeroBits v 31 2 = true) : crPut s ctx l n v .nctl = .ok (setCtx s ctx { getCtx s ctx with nctl := v }) :=
  if_neg (by simp [h])

theorem crPut_nctl_reserved (h : zeroBits v 31 2 = false) : crPut s ctx l n v .nctl = .error Cause.numcfg :=
  if_pos (by simp [h])

theorem rangeCommit_refused {i : Nat} {r : Word × Word × Word} (h : rangeBad (setNth (getCtx s ctx).ranges i (0, 0, 0)) r = true) :
    rangeCommit s ctx i r = .error Cause.rangecfg := if_pos h

/-- A range that passes its checks stands in its register; the accesses it may help are woken (R30, R416). -/
theorem rangeCommit_valid {i : Nat} {r : Word × Word × Word} (h : rangeBad (setNth (getCtx s ctx).ranges i (0, 0, 0)) r = false)
    (hv : bitOf r.1 0 = true) :
    rangeCommit s ctx i r = .ok
      (let s1 := setCtx s ctx { getCtx s ctx with ranges := setNth (getCtx s ctx).ranges i r }
       { s1 with xl := { s1.xl with wakes := s1.xl.wakes ++ heldUnder s1 ctx Cause.nomap Cause.perm } }) := by
  simp only [rangeCommit, h, hv, Bool.false_eq_true, if_false, if_true]

end

/-! ### O25 -/

/-- Settles O25: each register by the equation of its write. -/
theorem registerWrites : Obligations.RegisterWrites := by
  unfold Obligations.RegisterWrites
  refine fun s ctx n l v => ⟨fun hk hc => ?_, fun hk hc => ?_, fun hz => ?_, crPut_nctl_reserved, fun i hi hlen hb hv => ?_,
    fun i hb => rangeCommit_refused hb, fun w hw hlen hb => ?_⟩
  · exact ⟨_, crPut_tvec (trapVAOk_of_canonical hc hk), congrArg Ctx.tvec (getCtx_setCtx ..), rfl⟩
  · exact ⟨_, crPut_tfbase (trapVAOk_of_canonical hc hk), congrArg Ctx.tfbase (getCtx_setCtx ..)⟩
  · exact ⟨_, crPut_nctl hz, congrArg Ctx.nctl (getCtx_setCtx ..)⟩
  · refine ⟨_, rangeCommit_valid hb hv, (congrArg (fun x : Ctx => nth (0, 0, 0) x.ranges i) (getCtx_setCtx ..)).trans ?_, rfl⟩
    exact (nth_setNth _ _ _ _ _ (hlen ▸ hi)).trans (if_pos rfl)
  · refine ⟨_, wptCommit_ok hb, (congrArg (fun x : Ctx => nth (0, 0) x.wpts w) (getCtx_setCtx ..)).trans ?_⟩
    exact (nth_setNth _ _ _ _ _ (hlen ▸ hw)).trans (if_pos rfl)

/-! ### The map of the registers (R308) -/

theorem crName_range {i : Nat} (h : i < 16) : crName (0x102 + 3 * i) = some (.range i 2) :=
  (by decide : ∀ i : Fin 16, crName (0x102 + 3 * i.val) = some (.range i.val 2)) ⟨i, h⟩

theorem crName_bufmap {e : Nat} (h : e < 64) : crName (0x203 + 4 * e) = some (.bufmap e 3) :=
  (by decide : ∀ e : Fin 64, crName (0x203 + 4 * e.val) = some (.bufmap e.val 3)) ⟨e, h⟩

theorem crName_wptCtl {w : Nat} (h : w < 8) : crName (0x41 + 2 * w) = some (.wptCtl w) :=
  (by decide : ∀ w : Fin 8, crName (0x41 + 2 * w.val) = some (.wptCtl w.val)) ⟨w, h⟩

theorem crName_fppush {p : Nat} (h : p < 28) : crName (0x40012 + 4 * p) = some (.fppush p) :=
  (by decide : ∀ p : Fin 28, crName (0x40012 + 4 * p.val) = some (.fppush p.val)) ⟨p, h⟩

theorem crName_mtstat {u : Nat} (h : isMem u = true) : crName (0x20000 + u) = some (.mtstat u) := by
  have hu : u < 4096 := by
    simp only [isMem, isArray, Bool.and_eq_true, decide_eq_true_eq] at h
    exact h.1
  rw [crName]
  iterate 11 rw [if_neg (by omega)]
  rw [if_pos (by omega), Nat.add_sub_cancel_left, if_pos h]

/-! ### The host's writes (R454) -/

section
variable {s s1 : State} {port : Bool} {ctx n : Nat} {v : Word} {r : CrName}

theorem hostCr_taken (hn : crName n = some r) (hw : r.hostWrites = true)
    (h : crPut s ctx (hostStaged s port ctx) n v r = .ok s1) :
    hostCr s port ctx n v = setStaged s1 port ctx (crStage (hostStaged s port ctx) n v r) := by
  simp only [hostCr, hn, hw, h, Bool.not_true, Bool.false_eq_true, if_false]

theorem hostCr_refused {e : Cause} (hn : crName n = some r) (hw : r.hostWrites = true)
    (h : crPut s ctx (hostStaged s port ctx) n v r = .error e) :
    hostCr s port ctx n v = hwRefuse s port (crOffset ctx n) e := by
  simp only [hostCr, hn, hw, h, Bool.not_true, Bool.false_eq_true, if_false]

theorem crPut_tevp {l : List (Nat × Word)} (h : zeroBits v 47 32 = true) : crPut s ctx l n v .tevp =
    .ok (setCtx s ctx { getCtx s ctx with tevp := withBits (getCtx s ctx).tevp 15 0 (bitsOf v 15 0) }) := if_neg (by simp [h])

theorem crPut_tevb {l : List (Nat × Word)} (h : zeroBits v 63 57 = true) (h' : zeroBits v 11 5 = true) (hlo : 6 ≤ bitsOf v 4 0)
    (hhi : bitsOf v 4 0 ≤ 15) : crPut s ctx l n v .tevb = .ok (setCtx s ctx { getCtx s ctx with tevb := v, tevp := 0 }) :=
  if_neg (by simp [h, h']; omega)

/-- TINVN with GO, of a range of device pages, while none is under way (R41). -/
theorem crPut_tinvn {l : List (Nat × Word)} (hz : zeroBits v 62 33 = true) (hgo : bitOf v 63 = true) (h0 : 0 < bitsOf v 32 0)
    (hn : s.xl.tinva.toNat + bitsOf v 32 0 ≤ 15 * 2 ^ 28) (hl : s.xl.tinvLeft = []) : crPut s ctx l n v .tinvn =
      .ok { s with xl := { s.xl with tinvn := v, tinvLeft := List.range 64, tinvRun := (s.xl.tinva, v) } } := by
  show tinvnPut s v = _
  simp only [tinvnPut, hz, hgo, Bool.not_true, Bool.false_eq_true, if_false]
  exact if_neg (by simp only [hl, ne_eq, not_true_eq_false, or_false]; omega)

theorem crPut_fppush {l : List (Nat × Word)} {p : Nat} (hp : p < 12) (hz : zeroBits v 63 24 = true) (ho : bitsOf v 23 20 = p)
    (h : poolAppend s p (bitsOf v 23 0) = some s1) : crPut s ctx l n v (.fppush p) = .ok s1 := by
  show fppushPut s p v = _
  simp [fppushPut, hz, ho, hp, h]

/-- MTSTAT after a write that declares no bank (R69). -/
def mtstatAfter (w v : Word) : Word :=
  let w := withBits (withBits w 63 32 0) 15 8 (bitsOf v 15 8)
  if bitOf v 23 then withBits w 23 23 0 else w

theorem crPut_mtstat {l : List (Nat × Word)} {u : Tid} (h : zeroBits v 31 24 = true) (h' : zeroBits v 7 0 = true)
    (hf : bitOf v 21 = false) : crPut s ctx l n v (.mtstat u) =
      .ok { s with tl := { s.tl with mtstat := s.tl.mtstat.set u (mtstatAfter (mtstat s u) v) } } := by
  show mtstatPut s u v = _
  simp [mtstatPut, mtstatAfter, h, h', hf]

end

/-- Any write of MTSTAT clears CECNT (R69). -/
theorem mtstatAfter_cecnt (w v : Word) : bitsOf (mtstatAfter w v) 63 32 = 0 := by
  have h : bitsOf (withBits (withBits w 63 32 0) 15 8 (bitsOf v 15 8)) 63 32 = 0 := by
    rw [bitsOf_withBits_above _ _ (by decide) (by decide) (by decide), bitsOf_withBits_self _ _ (by decide) (by decide), Nat.zero_mod]
  rw [mtstatAfter]
  split
  · rw [bitsOf_withBits_above _ _ (by decide) (by decide) (by decide), h]
  · exact h

/-- A write of MTSTAT sets BFTH (R69). -/
theorem mtstatAfter_bfth (w v : Word) : bitsOf (mtstatAfter w v) 15 8 = bitsOf v 15 8 := by
  have h : bitsOf (withBits (withBits w 63 32 0) 15 8 (bitsOf v 15 8)) 15 8 = bitsOf v 15 8 := by
    rw [bitsOf_withBits_self _ _ (by decide) (by decide), Nat.mod_eq_of_lt (bitsOf_lt v 15 8)]
  rw [mtstatAfter]
  split
  · rw [bitsOf_withBits_below _ _ (by decide) (by decide) (by decide), h]
  · exact h

/-! ### The end of an invalidation (R41) -/

section
variable {s : State} {p : Nat}

theorem cacheDrop_tinvLeft : (cacheDrop s p).xl.tinvLeft = s.xl.tinvLeft := by
  unfold cacheDrop
  split
  · rfl
  · unfold genWriteBack
    split
    · rfl
    · simp only [physSets_xl]

theorem pageAdvance_tinvLeft : (pageAdvance s p).xl.tinvLeft = s.xl.tinvLeft := by
  unfold pageAdvance; split <;> rfl

theorem dropDir_tinvLeft : (dropDir s p).xl.tinvLeft = s.xl.tinvLeft := by
  unfold dropDir
  split
  · split <;> rfl
  · rfl

theorem tinvCached_tinvLeft : (tinvCached s p).xl.tinvLeft = s.xl.tinvLeft := Eq.trans cacheDrop_tinvLeft pageAdvance_tinvLeft

theorem tinvUncached_tinvLeft : (tinvUncached s p).xl.tinvLeft = s.xl.tinvLeft := by
  unfold tinvUncached
  split
  · rfl
  · split
    · rfl
    · simp only [physSets_xl]

/-- The invalidation of pages leaves the list of the ports still to end (R41). -/
theorem tinvPages_tinvLeft (k : Nat) : (tinvPages s p k).xl.tinvLeft = s.xl.tinvLeft := by
  induction k generalizing s p with
  | zero => rfl
  | succ k ih =>
    rw [tinvPages, ih]
    split
    · exact Eq.trans tinvCached_tinvLeft dropDir_tinvLeft
    · exact Eq.trans tinvUncached_tinvLeft dropDir_tinvLeft

end

theorem exec_tinvComplete {s : State} (hp : s.xl.tinvLeft.contains (s.op 0) = true) (hq : s.st.lineQ = []) (hm : s.xl.moves = []) :
    Answers .tinvComplete s (fun s' => s'.xl.tinvLeft = s.xl.tinvLeft.filter (· != s.op 0)) := by
  have hx : exec .tinvComplete s = execTinvComplete s := rfl
  simp only [execTinvComplete, hp, hq, hm, Bool.not_true, List.any_nil, Bool.or_self, Bool.false_eq_true, if_false] at hx
  refine ⟨_, hx, ?_⟩
  dsimp only
  rw [tinvPages_tinvLeft]

/-! ### O26 -/

section
variable {s : State} {port : Bool} {ctx : Nat} {v : Word}

/-- A host write of a control register that is taken. -/
theorem answers_hostCr {i : Instr} {c n : Nat} {r : CrName} {s1 : State} {P : State → Prop} (hx : exec i s = .next (hostCr s port c n v))
    (hn : crName n = some r) (hw : r.hostWrites = true) (h : crPut s c (hostStaged s port c) n v r = .ok s1)
    (hP : ∀ l, P (setStaged s1 port c l)) : Answers i s P :=
  ⟨_, hx.trans (congrArg _ (hostCr_taken hn hw h)), hP _⟩

/-- THEND of a handler that has no frame ends its firing as faulted (R411). -/
theorem exec_thend {u : Tid} {f : Firing} (hr : (getCore s u).run = some f) (hs : (getCore s u).sys = true)
    (hh : (getCore s u).halted = false) (hu : (getCore s u).unfin = []) (hz : zeroBits v 63 10 = true) (hv : bitsOf v 9 0 ≠ 0)
    (hf : (getCore s u).frame = 0) :
    exec (.thend u v) s = .next (endFaulted s u (BitVec.ofNat 10 v.toNat) (!f.task.handler)) := by
  have hp : thendPut s u v = .ok (endFaulted s u (BitVec.ofNat 10 v.toNat) (!f.task.handler)) := by
    simp [thendPut, hr, hz, hv, hf]
  refine (show _ = execThend u v s from rfl).trans ?_
  simp only [execThend, hr, hs, hh, hu, hp, Option.isSome_some, Bool.not_false, List.isEmpty_nil, Bool.and_self, if_true]

end

/-- Settles O26: each host write by the effect of its register, each other event by its own equation. -/
theorem registerEvents : Obligations.RegisterEvents := by
  unfold Obligations.RegisterEvents
  intro s port ctx v hctx hup
  refine ⟨fun hz => ?tevp, fun hz hz' hlo hhi => ?tevb, ?tserr, fun i s1 hi h => ?range, fun i hi h => ?refused,
    fun e s1 he h => ?bufmap, fun w s1 hw h => ?wpt, fun hz hgo h0 hn hl => ?tinv, fun p s1 hp hz ho h => ?fppush,
    fun u hu hz hz' hf => ?mtstat, fun u f hr hs hh hu hz hv hf => ⟨_, exec_thend hr hs hh hu hz hv hf, endFaulted_run hr _ _⟩,
    exec_tinvComplete, fun hc => congrArg Host.Outcome.next (if_pos hc)⟩
  case tevp =>
    refine answers_hostCr ((whileUp_up s _ hup).trans (congrArg _ (if_pos hctx))) rfl rfl (crPut_tevp hz)
      fun l => ⟨rfl, rfl, ?_⟩
    simp only [getCtx_setStaged, getCtx_setCtx]
    rw [bitsOf_withBits_self _ _ (by decide) (by decide), bitsOf_withBits_above _ _ (by decide) (by decide) (by decide)]
    exact ⟨Nat.mod_eq_of_lt (bitsOf_lt v 15 0), rfl⟩
  case tevb =>
    refine answers_hostCr ((whileUp_up s _ hup).trans (congrArg _ (if_pos hctx))) rfl rfl (crPut_tevb hz hz' hlo hhi) fun l => ?_
    simp only [getCtx_setStaged, getCtx_setCtx]
    exact ⟨trivial, trivial, rfl⟩
  case tserr => exact ⟨_, if_pos hctx, rfl, congrArg Ctx.tserr (getCtx_setCtx ..), rfl⟩
  case range =>
    exact answers_hostCr ((whileUp_up s _ hup).trans (congrArg _ (if_pos ⟨hctx, hi⟩))) (crName_range hi) rfl h
      fun _ => ⟨rfl, rfl, rfl⟩
  case refused =>
    exact ((whileUp_up s _ hup).trans (congrArg _ (if_pos ⟨hctx, hi⟩))).trans (congrArg _ (hostCr_refused (crName_range hi) rfl h))
  case bufmap =>
    exact answers_hostCr ((whileUp_up s _ hup).trans (congrArg _ (if_pos ⟨hctx, he⟩))) (crName_bufmap he) rfl h fun _ => ⟨rfl, rfl⟩
  case wpt =>
    exact answers_hostCr ((whileUp_up s _ hup).trans (congrArg _ (if_pos ⟨hctx, hw⟩))) (crName_wptCtl hw) rfl h fun _ => ⟨rfl, rfl⟩
  case tinv =>
    exact answers_hostCr (whileUp_up s _ hup) rfl rfl (crPut_tinvn hz hgo h0 hn hl) fun _ => ⟨rfl, rfl, rfl⟩
  case fppush =>
    exact answers_hostCr ((whileUp_up s _ hup).trans (congrArg _ (if_pos (by omega)))) (crName_fppush (by omega)) rfl
      (crPut_fppush hp hz ho h) fun _ => ⟨rfl, rfl⟩
  case mtstat =>
    refine answers_hostCr ((whileUp_up s _ hup).trans (congrArg _ (if_pos hu))) (crName_mtstat hu) rfl (crPut_mtstat hz hz' hf)
      fun l => ?_
    have hm : mtstat (setStaged { s with tl := { s.tl with mtstat := s.tl.mtstat.set u (mtstatAfter (mtstat s u) v) } } port 0 l) u =
        mtstatAfter (mtstat s u) v := SMap.getD_set_self _ _ _ _
    rw [hm]
    exact ⟨mtstatAfter_cecnt _ _, mtstatAfter_bfth _ _, rfl⟩

end Sys2Proof.Machine
end

section
/-! PROOF. The values at reset (R30, R52, R113, R192, R376, R405, R464). -/
namespace Sys2Proof.Machine
open Sys2Proof.Claims

/-! ### No table of the reset state holds an entry -/

theorem getLQ_reset (q : Nat) : getLQ State.reset q = LQueue.reset := rfl

theorem getBar_reset (id : Nat) : getBar State.reset id = Barrier.reset := rfl

theorem getCtx_reset (ctx : Nat) : getCtx State.reset ctx = Ctx.reset := rfl

/-- The storage lists no byte, and what is not listed reads 0 (log 5). -/
theorem cellGet_reset (k : Nat) : cellGet State.reset.st.mem k = 0 := rfl

/-! ### O59 -/

/-- Settles O59: every table is empty, so each queue, barrier, context and byte reads as its own reset value. -/
theorem resetValues : Obligations.ResetValues := by
  unfold Obligations.ResetValues
  refine ⟨rfl, rfl, fun q => ?_, fun id => getBar_reset id, fun ctx => ?_, rfl, fun t off => cellGet_reset _⟩
  · rw [getLQ_reset]
    decide
  · rw [getCtx_reset]
    exact ⟨rfl, rfl, rfl, rfl⟩

end Sys2Proof.Machine
end

section
/-! PROOF. O32: the float operations of the element (R184, R316, R322, R323, R324). -/
namespace Sys2Proof.Machine
open Sys2Proof.Claims

/-! ### The rows of the float forms -/

section
variable {i : Instr} {m : FMod} {ta tb : Target}

/-- A two-operand row reads both latches, takes no selector, and runs as the form of its exact step. -/
theorem exec_fltPair {fn : Val → Val → Val × List Nat} (h : fltPair i = some (m, ta, tb, fn)) (s : State) :
    readsOf i = (true, true) ∧ takesP i = false ∧ exec i s = fltForm s i m ta tb fn := by
  unfold fltPair at h
  split at h <;> cases h <;> exact ⟨rfl, rfl, rfl⟩

/-- A one-operand row reads L alone, takes no selector, and runs as the form of its exact step. -/
theorem exec_fltOne {fn : Val → Val × List Nat} (h : fltOne i = some (m, ta, tb, fn)) (s : State) :
    readsOf i = (true, false) ∧ takesP i = false ∧ exec i s = fltForm1 s i m ta tb fn := by
  unfold fltOne at h
  split at h <;> cases h <;> exact ⟨rfl, rfl, rfl⟩

end

/-! ### Firings -/

/-- FCMP's positions: all ones where the condition holds, zero where it does not, masked where an operand is (R320, R324). -/
def fcmpMask (c w : Nat) (as bs : List (Option Val)) : List (Option Nat) :=
  (as.zip bs).map (fun ab => match ab with
    | (some u, some v) => some (if fcmpHolds c u v then 2 ^ w - 1 else 0)
    | _ => none)

section
variable {s : State} {e : Env} {x : Slot} {m : FMod} {ta tb : Target} {l r : Token} (ha : SlotAt s e x ta tb)
  (hu : Ungated s e x) (hl : DataL x l)
include ha hu hl

/-- A two-operand row computes exactly and rounds once to L's format (R184, R322). -/
theorem fltPair_fires {i : Instr} {fn : Val → Val → Val × List Nat} {fl fr : Fmt} (hi : fltPair i = some (m, ta, tb, fn))
    (hd : DataR x r) (hfl : (fmodTy m).fmt x.hl = some fl) (hfr : (fmodTy m).fmt x.hr = some fr)
    {c : List (Option Nat) × List Nat}
    (hc : c = roundAll fl e.sat8 (zipVal fn (valList fl x.hl l).1 (valList fr x.hr r).1)) :
    Fires i s e x ta tb (some (tokOf fl.width l.pred c.1)) (some (tokOf fl.width l.pred c.1))
      ((valList fl x.hl l).2 ++ (valList fr x.hr r).2 ++ c.2) := by
  subst hc
  obtain ⟨hr, hp, hx⟩ := exec_fltPair hi s
  have hfire := hx.trans (onSlot_fires_two (SlotOp.plain i ta tb _ _ _) ha hu hr hp hl hd)
  simp only [SlotOp.plain, hfl, hfr, hl.1, hd.1, tokIn, Option.getD_some, fireOne] at hfire
  exact hfire

/-- A one-operand row computes exactly and rounds once to L's format (R184, R322). -/
theorem fltOne_fires {i : Instr} {fn : Val → Val × List Nat} {fl : Fmt} (hi : fltOne i = some (m, ta, tb, fn))
    (hfl : (fmodTy m).fmt x.hl = some fl) {c : List (Option Nat) × List Nat}
    (hc : c = roundAll fl e.sat8 ((valList fl x.hl l).1.map (fun v => v.map fn))) :
    Fires i s e x ta tb (some (tokOf fl.width l.pred c.1)) (some (tokOf fl.width l.pred c.1)) ((valList fl x.hl l).2 ++ c.2) := by
  subst hc
  obtain ⟨hr, hp, hx⟩ := exec_fltOne hi s
  have hfire := hx.trans (onSlot_fires_one (SlotOp.plain i ta tb _ _ _) ha hu hr hp hl)
  simp only [SlotOp.plain, hfl, hl.1, tokIn, Option.getD_some, fireOne] at hfire
  exact hfire

/-- f8 data without a header on L: FMTMIS, and poison goes on (R316). -/
theorem exec_fltPair_noHeader {i : Instr} {fn : Val → Val → Val × List Nat} (hi : fltPair i = some (.f8, ta, tb, fn))
    (hd : DataR x r) (hh : x.hl = none) : exec i s = .next (noHeader i ta tb e s x) := by
  obtain ⟨hr, hp, hx⟩ := exec_fltPair hi s
  have hfire := hx.trans (onSlot_fires_two (SlotOp.plain i ta tb _ _ _) ha hu hr hp hl hd)
  simpa only [SlotOp.plain, fmodTy, ETy.fmt, hh, Option.map_none] using hfire

/-- FCMP sends all ones or zero by position (R320, R324). -/
theorem fcmp_fires {fl fr : Fmt} (hd : DataR x r) (hfl : (fmodTy m).fmt x.hl = some fl) (hfr : (fmodTy m).fmt x.hr = some fr) :
    ∃ pred evs, Fires (.fcmp m ta tb) s e x ta tb
      (some (tokOf fl.width pred (fcmpMask (x.const.toNat % 8) fl.width (valList fl x.hl l).1 (valList fr x.hr r).1)))
      (some (tokOf fl.width pred (fcmpMask (x.const.toNat % 8) fl.width (valList fl x.hl l).1 (valList fr x.hr r).1))) evs := by
  have hfire := (show exec (.fcmp m ta tb) s = execFcmp m ta tb s from rfl).trans (onSlot_fires_two _ ha hu rfl rfl hl hd)
  simp only [SlotOp.plain, hfl, hfr, hl.1, hd.1, tokIn, Option.getD_some, fireOne] at hfire
  exact ⟨_, _, hfire⟩

end

/-! ### O32 -/

/-- Settles O32: each row by the firing of its form, FCMP by its own. -/
theorem elementFloat : Obligations.ElementFloat := by
  unfold Obligations.ElementFloat
  intro s e x m ta tb l ha hu hl
  refine ⟨fun i fn fl fr r hi hd hfl hfr => fltPair_fires ha hu hl hi hd hfl hfr rfl,
    fun i fn fl hi hfl => fltOne_fires ha hu hl hi hfl rfl,
    fun i fn r hi hd hh => exec_fltPair_noHeader ha hu hl hi hd hh, fun fl fr r hd hfl hfr => ?_⟩
  obtain ⟨pred, evs, hfire⟩ := fcmp_fires ha hu hl hd hfl hfr
  exact ⟨_, evs, hfire, rfl, rfl⟩

end Sys2Proof.Machine
end

section
/-! PROOF. O31: tokens other than plain data at an operation of two operands (R178, R180, R215, R313, R316 to R318). -/
namespace Sys2Proof.Machine
open Sys2Proof.Claims

/-! ### An event record leaves the slots alone (R403) -/

theorem raiseUnit_fab (s : State) (e : Env) (ukind : Nat) (c : Cause) : (raiseUnit s e ukind c).fab = s.fab :=
  (appendEvent_frame none _ _ _).fab

@[simp] theorem getSlot_raiseUnit (s : State) (e : Env) (ukind : Nat) (c : Cause) (t : Tid) (n : Nat) :
    getSlot (raiseUnit s e ukind c) t n = getSlot s t n := by
  rw [getSlot, raiseUnit_fab, getSlot]

/-! ### Turns of an operation that reads L and R -/

/-- A marker is no data. -/
theorem TokKind.isData_of_isMark {k : TokKind} (h : k.isMark = true) : k.isData = false := by
  cases k with
  | data | poison => exact Bool.noConfusion h
  | _ => rfl

section
variable {s : State} {e : Env} {x : Slot} {op : SlotOp} {l r : Token} (ha : SlotAt s e x op.ta op.tb)
  (h1 : readsOf op.instr = (true, true)) (ht : takesP op.instr = false) (hl : x.l = some l) (hr : x.r = some r)
include ha h1 ht hl hr

/-- PRED 0 on P with data on L and R: predicated off (R313). -/
theorem onSlot_off {q : Token} (hp : x.p = some q) (hq : q.kind = .data) (hz : q.pred = false) (hlk : l.kind = .data)
    (hrk : r.kind = .data) : onSlot s op = .next (op.off e s x) := by
  have hm : TokKind.data.isMark = false := rfl
  have hi : TokKind.data.isPermit = false := rfl
  rw [onSlot_classify ha (by simp [headerDue, h1, hl, hr, hp, hq, hlk, hrk]) (by simp [latchesFull, hl, hr, hp])]
  simp [classify, kindsRead, h1, hl, hr, hlk, hrk, hm, hi, dataFire, gateOf, hp, hq, ht, hz]

/-- A marker on R beside data on L (R215). -/
theorem onSlot_mixed (hu : Ungated s e x) (hlk : l.kind = .data) (hrk : r.kind.isMark = true) :
    onSlot s op = .next (op.mixed e s x .data r.kind) := by
  obtain ⟨hp, hb⟩ := hu
  have hh : r.kind ≠ .header := fun h => by rw [h] at hrk; exact Bool.noConfusion hrk
  have hne : r.kind ≠ .data := fun h => by rw [h] at hrk; exact Bool.noConfusion hrk
  have hd := TokKind.isData_of_isMark hrk
  rw [onSlot_classify ha (by simp [headerDue, h1, hl, hr, hp, hlk, hh]) (by simp [latchesFull, hl, hr, ht, hb])]
  simp [classify, kindsRead, h1, hl, hr, hlk, hne, hd]

end

/-- A slot held by a marker beside data keeps its tokens, MARKMIS raised once (R215). -/
theorem markMis_holds {s : State} {e : Env} {x : Slot} (hx : getSlot s e.t e.n = x) :
    getSlot (markMis s e x) e.t e.n = { x with misRaised := true } := by
  unfold markMis
  split
  case isTrue h =>
    rw [hx]
    cases x
    cases h
    rfl
  case isFalse => rw [getSlot_raiseUnit, getSlot_setSlot]

/-! ### Headers at an operation (R178, R180, R316, R317) -/

/-- An operation of two operands reads headers by its type, and sends L's on with its own format. -/
theorem exec_headerOp {i : Instr} {ta tb : Target} {y : ETy} (h : HeaderOp i ta tb y) (s : State) :
    readsOf i = (true, true) ∧ takesP i = false ∧ ∃ fire, exec i s =
      onSlot s (SlotOp.plain i ta tb (fun _ h => y.accepts h) (some (fun h => (y.code h, h.count))) fire) := by
  obtain ⟨m, fn, hi, rfl⟩ | ⟨m, fn, hi, rfl⟩ := h
  · obtain ⟨hr, hp⟩ := intPair_reads hi
    exact ⟨hr, hp, _, exec_intPair hi s⟩
  · obtain ⟨hr, hp, hx⟩ := exec_fltPair hi s
    exact ⟨hr, hp, _, hx⟩

section
variable {s : State} {e : Env} {x : Slot} {op : SlotOp} {tok : Token} (ha : SlotIn s e x)
include ha

/-- A header in L or R is taken before anything else (R215, R316). -/
theorem onSlot_header {q : Pos} (h1 : readsOf op.instr = (true, true)) (ho : x.hdrOut = none) (hq : HeaderIn x q tok) :
    onSlot s op = .next (takeHeader op e s x q tok) := by
  obtain ⟨he, hx, hh, hs⟩ := ha
  obtain ⟨hk, ⟨rfl, hl⟩ | ⟨rfl, hr, hne⟩⟩ := hq
  · simp [onSlot_next op he hx, slotRun, hh, hs, ho, headerDue, h1, hl, hk]
  · cases hl : x.l with
    | none => simp [onSlot_next op he hx, slotRun, hh, hs, ho, headerDue, h1, hl, hr, hk]
    | some l => simp [onSlot_next op he hx, slotRun, hh, hs, ho, headerDue, h1, hl, hne l hl, hr, hk]

/-- A rewritten header that is due goes to both targets (R317). -/
theorem onSlot_hdrOut (ho : x.hdrOut = some tok) (hf : bothFree s e.t e.n op.ta op.tb = true) :
    onSlot s op = .next (emit s e { x with hdrOut := none } op.ta op.tb (some tok) (some tok)) := by
  obtain ⟨he, hx, hh, hs⟩ := ha
  simp [onSlot_next op he hx, slotRun, hh, hs, ho, hf]

end

section
variable {s : State} {e : Env} {x : Slot} {i : Instr} {ta tb : Target} {ok : Pos → Hdr → Bool} {send : Hdr → Nat × Nat}
  {fire : Env → State → Slot → State} {q : Pos} {tok : Token}

/-- A malformed header: SHEAFHDR (R178). -/
theorem takeHeader_refused (h : hdrRefused tok.data = true) : takeHeader (SlotOp.plain i ta tb ok (some send) fire) e s x q tok =
    raiseUnit (setSlot s e.t e.n ((x.setLatch q none).setHdr q (some hdrBad))) e 0 Cause.sheafhdr := by
  simp only [takeHeader, SlotOp.plain, h, if_true]

variable (h : hdrRefused tok.data = false) {s1 : State} {va : Word}
include h

/-- A header whose scales a fault meets holds the slot (R180). -/
theorem takeHeader_fault {c : Cause} (hs : hdrScales s e x.fills tok.data = (.fault c, s1, va)) :
    takeHeader (SlotOp.plain i ta tb ok (some send) fire) e s x q tok = holdSlot s1 e x c va (scaleLanes tok.data va) false := by
  simp only [takeHeader, SlotOp.plain, h, hs, Bool.false_eq_true, if_false]

variable {sc : List Byte} (hs : hdrScales s e x.fills tok.data = (.ok sc, s1, va))
include hs

/-- A header of a format that the operation does not take: FMTMIS (R316). -/
theorem takeHeader_unaccepted (ha : ok q (hdrOf tok.data sc) = false) :
    takeHeader (SlotOp.plain i ta tb ok (some send) fire) e s x q tok = raiseUnit (setSlot s1 e.t e.n
      ((({ x with fills := [] } : Slot).setLatch q none).setHdr q (some hdrBad))) e 0 Cause.fmtmis := by
  simp only [takeHeader, SlotOp.plain, h, hs, ha, Bool.not_false, Bool.false_eq_true, if_false, if_true]

/-- A header that is taken stays in its decoder, and L's is to be sent on rewritten (R316, R317). -/
theorem takeHeader_accepted (ho : x.hdrOut = none) (hq : q ≠ .p) (ha : ok q (hdrOf tok.data sc) = true) :
    takeHeader (SlotOp.plain i ta tb ok (some send) fire) e s x q tok = setSlot s1 e.t e.n
      { (({ x with fills := [] } : Slot).setLatch q none).setHdr q (some (hdrOf tok.data sc)) with
        hdrOut := if q = .l then some (rewritten (send (hdrOf tok.data sc)).1 (send (hdrOf tok.data sc)).2) else none } := by
  simp only [takeHeader, SlotOp.plain, h, hs, ha, Bool.not_true, Bool.false_eq_true, if_false]
  cases q with
  | l => rfl
  | r => simp only [Slot.setLatch, Slot.setHdr, ho, reduceCtorEq, if_false]
  | p => exact absurd rfl hq

end

/-- A rewritten header's word: COUNT above FMT (R177, R317). -/
theorem rewritten_data {f n : Nat} (hf : f < 256) (hn : n < 2 ^ 32) : (rewritten f n).data.toNat = n * 2 ^ 32 + f := by
  rw [rewritten, BitVec.toNat_ofNat, Nat.mod_eq_of_lt]
  calc n * 2 ^ 32 + f < 2 ^ 64 := by omega
    _ ≤ 2 ^ 512 := Nat.pow_le_pow_right (by decide) (by decide)

/-! ### O31 -/

/-- Settles O31: each clause is a turn of the slot by what its latches hold. -/
theorem elementTokens : Obligations.ElementTokens := by
  unfold Obligations.ElementTokens
  refine ⟨fun i s e x m ta tb fn l r hi ha hl hr => ?tokens, fun i s e x ta tb y q tok hi ha ho hq => ?header,
    fun i s e x ta tb y tok hi ha ho hf => ?sent, fun f n hf hn => ⟨rfl, rewritten_data hf hn⟩⟩
  case tokens =>
    obtain ⟨h1, ht⟩ := intPair_reads hi
    have hx := exec_intPair hi s
    refine ⟨fun hu hlk hrd => ?_, fun q hp hq hz hlk hrk => ?_, fun k hu hk hlk hrk => ?_, fun hu hlk hrk => ?_⟩
    · exact hx.trans (onSlot_poison (op := SlotOp.plain i ta tb _ _ _) ha hu (congrArg Prod.fst h1) ht hl hlk fun _ => ⟨r, hr, hrd⟩)
    · exact hx.trans (onSlot_off (op := SlotOp.plain i ta tb _ _ _) ha h1 ht hl hr hp hq hz hlk hrk)
    · exact hx.trans (onSlot_mark (op := SlotOp.plain i ta tb _ _ _) ha hu (congrArg Prod.fst h1) ht
        ⟨hk, ⟨l, hl, hlk⟩, fun _ => ⟨r, hr, hrk⟩⟩)
    · have hmis : exec i s = .next (markMis s e x) :=
        hx.trans (onSlot_mixed (op := SlotOp.plain i ta tb _ _ _) ha h1 ht hl hr hu hlk hrk)
      refine ⟨⟨_, hmis, ?_⟩, fun h => hmis.trans (congrArg _ ?_), fun h => hmis.trans (congrArg _ (if_pos h))⟩
      · dsimp only
        rw [markMis_holds ha.2.1]
        exact ⟨hl, hr, rfl⟩
      · rw [markMis, h]
        rfl
  case header =>
    obtain ⟨h1, -, fire, hx⟩ := exec_headerOp hi s
    have hx := hx.trans (onSlot_header (op := SlotOp.plain i ta tb _ _ fire) ha h1 ho hq)
    have hp : q ≠ .p := by
      rintro rfl
      obtain ⟨-, ⟨h, -⟩ | ⟨h, -⟩⟩ := hq <;> cases h
    exact ⟨fun h => hx.trans (congrArg _ (takeHeader_refused h)),
      fun sc s1 va h hs => ⟨fun hy => hx.trans (congrArg _ (takeHeader_unaccepted h hs hy)),
        fun hy => hx.trans (congrArg _ (takeHeader_accepted h hs ho hp hy))⟩,
      fun c s1 va h hs => hx.trans (congrArg _ (takeHeader_fault h hs))⟩
  case sent =>
    obtain ⟨-, -, fire, hx⟩ := exec_headerOp hi s
    exact hx.trans (onSlot_hdrOut (op := SlotOp.plain i ta tb _ _ fire) ha ho hf)

end Sys2Proof.Machine
end

section
/-! PROOF. O34: CVT, QUANT, DEQ, PACK, UNPACK and TUNP (R171 to R173, R326 to R329). -/
namespace Sys2Proof.Machine
open Sys2Proof.Claims

theorem tokIn_of_some {t : Option Token} {l : Token} (h : t = some l) : tokIn t = l := by rw [h]; rfl

/-! ### CVT, QUANT and DEQ (R326, R327) -/

/-- The slot after one of a conversion's tokens: the next is due, or L's token is consumed (R326). -/
def cvtNext (i : Instr) (x : Slot) (src : Nat) : Slot :=
  if x.sub + 1 < outTokens (fmtWidth src) (fmtWidth (x.const.toNat / 256 % 256)) then { x with sub := x.sub + 1 } else x.consume i

/-- The positions of the source that a conversion's next token holds. -/
def cvtPart (x : Slot) (src : Nat) (l : Token) : List (Option Num) :=
  outPart (fmtWidth (x.const.toNat / 256 % 256)) x.sub (sourceNums src x.hl l).1

/-- A firing of a conversion form sends what its function makes of the next positions, the generator moving on. -/
theorem exec_cvtForm {s : State} {e : Env} {x : Slot} {ta tb : Target} {l : Token} {i : Instr} {sat : Bool} {rm : RMode}
    {srcOk : Nat → Bool} {src : Nat}
    {f : Env → State → Slot → Nat → Nat → List (Option Num) → List (Option Nat) × List Nat × BitVec 32}
    (ha : SlotAt s e x ta tb) (hl : x.l = some l) (hi : exec i s = cvtForm s i sat rm ta tb srcOk f)
    (hfire : ∀ op : SlotOp, op.instr = i → op.ta = ta → op.tb = tb → onSlot s op = .next (op.fire e s x))
    (hs : cvtSource x.const.toNat x.hl = some src) {r : List (Option Nat) × List Nat × BitVec 32}
    (hr : f e s x (x.const.toNat / 256 % 256) (fmtWidth (x.const.toNat / 256 % 256)) (cvtPart x src l) = r) :
    ∃ evs, exec i s = .next (countEvents (emit s e { cvtNext i x src with rng := r.2.2 } ta tb
      (some (tokOf (fmtWidth (x.const.toNat / 256 % 256)) l.pred r.1))
      (some (tokOf (fmtWidth (x.const.toNat / 256 % 256)) l.pred r.1))) e.ctx e.t evs) := by
  subst hr
  have hc : getSlot s s.focus.1 s.focus.2 = x := by
    obtain ⟨he, hx, -⟩ := ha
    obtain ⟨ht, hn⟩ := envOf_unit he
    rw [← ht, ← hn, hx]
  simp only [cvtForm, hc] at hi
  have hx := hi.trans (hfire (SlotOp.plain i ta tb _ _ _) rfl rfl rfl)
  simp only [SlotOp.plain, hs, tokIn_of_some hl] at hx
  exact ⟨_, hx⟩

/-- A scale that is live and no NaN: the positions are scaled exactly, then converted (R327). -/
theorem scaledConv_live {x : Slot} {r : Token} (hr : x.r = some r) (hm : r.mask.getLsbD 0 = true)
    (hc : ∀ h, x.hr = some h → h.idx < h.count) (hn : r.data.toNat % 256 ≠ 255) (sat : Bool) (rm : RMode) (inv : Bool) (e : Env)
    (dst : Nat) (l : List (Option Num)) :
    scaledConv sat rm inv e x dst l = convertAll dst rm (sat || e.sat8) x.rng (l.map (fun p => p.map (scaleNum
      (if inv then 127 - Int.ofNat (r.data.toNat % 256) else Int.ofNat (r.data.toNat % 256) - 127)))) := by
  have hlive : scaleLive x = true := by
    rw [scaleLive, hr, tokIn, Option.getD_some, hm, Bool.true_and]
    split
    case h_1 h hh => exact decide_eq_true (hc h hh)
    case h_2 => rfl
  rw [scaledConv, hlive, hr, tokIn, Option.getD_some]
  exact if_neg hn

section
variable {s : State} {e : Env} {x : Slot} {ta tb : Target} {l r : Token} (ha : SlotAt s e x ta tb) (hu : Ungated s e x)
  (hl : DataL x l)
include ha hu hl

/-- CVT's positions are converted in order (R326). -/
theorem exec_cvt (sat : Bool) (rm : RMode) {src : Nat} (hs : cvtSource x.const.toNat x.hl = some src)
    {c : List (Option Nat) × List Nat × BitVec 32}
    (hc : convertAll (x.const.toNat / 256 % 256) rm (sat || e.sat8) x.rng (cvtPart x src l) = c) :
    ∃ evs, exec (.cvt sat rm ta tb) s = .next (countEvents (emit s e { cvtNext (.cvt sat rm ta tb) x src with rng := c.2.2 } ta tb
      (some (tokOf (fmtWidth (x.const.toNat / 256 % 256)) l.pred c.1))
      (some (tokOf (fmtWidth (x.const.toNat / 256 % 256)) l.pred c.1))) e.ctx e.t evs) := by
  refine exec_cvtForm ha hl.1 (show _ = execCvt sat rm ta tb s from rfl) (fun op hi hta htb => ?_) hs hc
  subst hta htb
  exact onSlot_fires_one op ha hu (hi ▸ rfl) (hi ▸ rfl) hl

/-- QUANT and DEQ scale the positions by R's power of two, exactly, and convert them in order (R327). -/
theorem exec_scaled {i : Instr} {sat : Bool} {rm : RMode} {inv : Bool}
    (hi : (i, inv) = (.quant sat rm ta tb, true) ∨ (i, inv) = (.deq sat rm ta tb, false)) (hd : DataR x r) {src : Nat}
    (hs : cvtSource x.const.toNat x.hl = some src) {c : List (Option Nat) × List Nat × BitVec 32}
    (hc : scaledConv sat rm inv e x (x.const.toNat / 256 % 256) (cvtPart x src l) = c) :
    ∃ evs, exec i s = .next (countEvents (emit s e { cvtNext i x src with rng := c.2.2 } ta tb
      (some (tokOf (fmtWidth (x.const.toNat / 256 % 256)) l.pred c.1))
      (some (tokOf (fmtWidth (x.const.toNat / 256 % 256)) l.pred c.1))) e.ctx e.t evs) := by
  have hfire (op : SlotOp) (hop : op.instr = i) (hr : readsOf i = (true, true)) (hp : takesP i = false) (hta : op.ta = ta)
      (htb : op.tb = tb) : onSlot s op = .next (op.fire e s x) := by
    subst hop hta htb
    exact onSlot_fires_two op ha hu hr hp hl hd
  rcases hi with hi | hi <;> cases hi
  · exact exec_cvtForm ha hl.1 (show _ = execQuant sat rm ta tb s from rfl) (fun op hi => hfire op hi rfl rfl) hs hc
  · exact exec_cvtForm ha hl.1 (show _ = execDeq sat rm ta tb s from rfl) (fun op hi => hfire op hi rfl rfl) hs hc

end

/-! ### Lists of positions -/

theorem rangeFrom_eq_map (a n : Nat) : rangeFrom a n = (List.range n).map (a + ·) := by
  rw [← List.range'_eq_map_range]
  induction n generalizing a with
  | zero => rfl
  | succ n ih => rw [rangeFrom, ih, List.range'_succ]

@[simp] theorem length_laneList (tok : Token) (i n : Nat) : (laneList tok i n).length = n := by
  rw [laneList, rangeFrom_eq_map, List.length_map, List.length_map, List.length_range]

/-- Lanes i to i + n − 1 of a token, by position. -/
theorem nth_laneList (tok : Token) (i : Nat) {n p : Nat} (hp : p < n) :
    nth none (laneList tok i n) p = if tok.mask.getLsbD (i + p) then some (posBits tok.data 32 (i + p)) else none := by
  rw [laneList, rangeFrom_eq_map, List.map_map]
  exact nth_map_range none _ hp

theorem nth_append {α : Type} (d : α) (as bs : List α) (p : Nat) :
    nth d (as ++ bs) p = if p < as.length then nth d as p else nth d bs (p - as.length) := by
  simp only [nth_eq_getD, List.getD_eq_getElem?_getD, List.getElem?_append, apply_ite (Option.getD · d)]

/-- What pads a list of positions are masked positions. -/
theorem nth_padLanes (as : List (Option Nat)) (p : Nat) : nth none (padLanes as) p = nth none as p := by
  rw [padLanes, nth_append]
  split
  case isTrue => rfl
  case isFalse h =>
    rw [nth_of_le none (Nat.not_lt.1 h), nth_eq_getD, List.getD_eq_getElem?_getD, List.getElem?_replicate]
    split <;> rfl

/-- Masked or a position's bits: it fits a lane. -/
theorem lane_lt (c : Prop) [Decidable c] (d : Payload) (p : Nat) : (if c then some (posBits d 32 p) else none).getD 0 < 2 ^ 32 := by
  split
  · exact posBits_lt _ _ _
  · exact Nat.two_pow_pos 32

/-! ### PACK and UNPACK (R328) -/

/-- The first lanes of two tokens side by side (R328). -/
theorem pack_positions (l r : Token) (pred : Bool) (n : Nat) :
    Positions (tokOf 32 pred (padLanes (laneList l 0 n ++ laneList r 0 n))) 32 pred (fun p => if p < n then
        (if l.mask.getLsbD p then some (posBits l.data 32 p) else none)
      else if p < 2 * n then (if r.mask.getLsbD (p - n) then some (posBits r.data 32 (p - n)) else none)
      else none) := by
  refine positions_tokOf (.inr (.inr rfl)) _ (fun p _ => ?_) fun p _ => ?_
  · rw [nth_padLanes, nth_append, length_laneList]
    split
    case isTrue h => rw [nth_laneList l 0 h, Nat.zero_add]
    case isFalse h =>
      split
      case isTrue h2 => rw [nth_laneList r 0 (by omega), Nat.zero_add]
      case isFalse h2 => exact nth_of_le none (by rw [length_laneList]; omega)
  · split
    · exact lane_lt _ _ _
    · split
      · exact lane_lt _ _ _
      · exact Nat.two_pow_pos 32

/-- The lanes of a token from lane i on (R328). -/
theorem unpack_positions (l : Token) (pred : Bool) (i n : Nat) :
    Positions (tokOf 32 pred (padLanes (laneList l i n))) 32 pred
      (fun p => if p < n ∧ l.mask.getLsbD (p + i) = true then some (posBits l.data 32 (p + i)) else none) := by
  refine positions_tokOf (.inr (.inr rfl)) _ (fun p _ => ?_) fun p _ => lane_lt _ _ _
  rw [nth_padLanes]
  by_cases h : p < n
  · simp only [nth_laneList l i h, h, true_and, Nat.add_comm i]
  · rw [if_neg (fun hp => h hp.1)]
    exact nth_of_le none (by rw [length_laneList]; omega)

section
variable {s : State} {e : Env} {x : Slot} {ta tb : Target} {l r : Token} (ha : SlotAt s e x ta tb) (hu : Ungated s e x)
  (hl : DataL x l)
include ha hu hl

theorem pack_fires (hd : DataR x r) : Fires (.pack ta tb) s e x ta tb
    (some (tokOf 32 l.pred (padLanes (laneList l 0 (x.const.toNat / 4) ++ laneList r 0 (x.const.toNat / 4)))))
    (some (tokOf 32 l.pred (padLanes (laneList l 0 (x.const.toNat / 4) ++ laneList r 0 (x.const.toNat / 4))))) [] := by
  have hfire := (show exec (.pack ta tb) s = execPack ta tb s from rfl).trans (onSlot_fires_two _ ha hu rfl rfl hl hd)
  simp only [SlotOp.plain, tokIn_of_some hl.1, tokIn_of_some hd.1, fireOne] at hfire
  exact hfire

/-- UNPACK's firing is that of its first token, or of its second (R315, R328). -/
theorem exec_unpack : exec (.unpack ta tb) s = .next (if x.sub = 0 then
      emit s e { x with sub := 1 } ta tb (some (tokOf 32 l.pred (padLanes (laneList l 0 (x.const.toNat / 4))))) none
    else emit s e (x.consume (.unpack ta tb)) ta tb none
      (some (tokOf 32 l.pred (padLanes (laneList l (x.const.toNat / 4) (x.const.toNat / 4)))))) := by
  have hfire := (show exec (.unpack ta tb) s = execUnpack ta tb s from rfl).trans (onSlot_fires_one _ ha hu rfl rfl hl)
  simp only [SlotOp.plain, tokIn_of_some hl.1] at hfire
  exact hfire

/-! ### TUNP (R173, R329) -/

/-- TUNP's next token holds 64 trits; the token on L goes with the fifth. -/
theorem exec_tunp (ht : e.ttrap = false) : ∃ ps evs, exec (.tunp ta tb) s = .next (countEvents (emit s e
      (if x.sub < 4 then { x with sub := x.sub + 1 } else x.consume (.tunp ta tb)) ta tb
      (some (tokOf 8 l.pred ps)) (some (tokOf 8 l.pred ps))) e.ctx e.t evs) ∧
    (x.hl = none → ∀ p < 64, nth none ps p = if l.mask.getLsbD ((64 * x.sub + p) / 20) then
      some (wrapTo 8 (nth 0 (tritsOf (posBits l.data 8 ((64 * x.sub + p) / 5))) ((64 * x.sub + p) % 5))) else none) := by
  have hfire := (show exec (.tunp ta tb) s = execTunp ta tb s from rfl).trans (onSlot_fires_one _ ha hu rfl rfl hl)
  simp only [SlotOp.plain, tokIn_of_some hl.1, ht, Bool.false_and, Bool.false_eq_true, if_false] at hfire
  refine ⟨_, _, hfire, fun hh p hp => ?_⟩
  simp only [hh, Bool.and_true]
  rw [rangeFrom_eq_map, List.map_map]
  exact nth_map_range none _ hp

end

/-! ### O34 -/

/-- Settles O34: the conversions by what they make of the next positions, the rest by where each lane comes from. -/
theorem elementConversion : Obligations.ElementConversion := by
  unfold Obligations.ElementConversion
  intro s e x ta tb l r ha hu hl
  refine ⟨fun sat rm src hs => ?cvt, fun i sat rm inv src hi hd hs hm hc hn => ?scaled, fun hd => ?pack, fun h => ?first,
    fun h => ?second, fun ht => ?tunp⟩
  case cvt =>
    obtain ⟨evs, hx⟩ := exec_cvt ha hu hl sat rm hs rfl
    refine ⟨_, evs, rfl, hx, fun h => ?_, fun h => ?_⟩
    · rw [cvtNext, if_neg (Nat.not_lt.2 h)]
      exact ⟨rfl, rfl, rfl⟩
    · rw [cvtNext, if_pos h]
      exact ⟨hl.1, rfl, rfl⟩
  case scaled =>
    obtain ⟨evs, hx⟩ := exec_scaled ha hu hl hi hd hs (scaledConv_live hd.1 hm hc hn sat rm inv e _ _)
    exact ⟨_, evs, rfl, hx⟩
  case pack => exact ⟨_, pack_fires ha hu hl hd, fun _ => pack_positions l r l.pred _⟩
  case first => exact ⟨_, (exec_unpack ha hu hl).trans (congrArg _ (if_pos h)), fun _ => unpack_positions l l.pred 0 _⟩
  case second => exact ⟨_, (exec_unpack ha hu hl).trans (congrArg _ (if_neg h)), fun _ => unpack_positions l l.pred _ _⟩
  case tunp =>
    obtain ⟨ps, evs, hx, hps⟩ := exec_tunp ha hu hl ht
    refine ⟨_, _, evs, hx, fun h => ?_, fun h => ?_, fun hh => positions_tokOf (.inl rfl) _ (hps hh) fun p _ => ?_⟩
    · rw [if_pos h]
      exact ⟨hl.1, rfl⟩
    · rw [if_neg (Nat.not_lt.2 h)]
      rfl
    · split
      · exact bitsOfInt_lt 8 _
      · exact Nat.two_pow_pos 8

end Sys2Proof.Machine
end

section
/-! PROOF. O35: LSUM, LMAX, LMIN and LSCAN (R183, R330 to R333). -/
namespace Sys2Proof.Machine
open Sys2Proof.Claims

/-! ### What a reduction leaves -/

/-- One value in position 0, lane 0 alone live (R331). -/
theorem laneZero_positions {w b : Nat} (hw : LaneWidth w) (pred : Bool) (hb : b < 2 ^ w) :
    Positions (laneZero w pred b) w pred (fun p => if p = 0 then some b else none) := by
  refine positions_tokOf hw _ (fun p _ => ?_) fun p _ => ?_
  · cases p with
    | zero => rfl
    | succ p =>
      rw [nth_eq_getD, List.getD_cons_succ, List.getD_eq_getElem?_getD, List.getElem?_replicate]
      split <;> rfl
  · split
    · exact hb
    · exact Nat.two_pow_pos w

/-- The integers that a token's live positions read as. -/
theorem posList_ints (w : Nat) (sg : Bool) (hw : 0 < w) (h : Option Hdr) (l : Token) :
    (posList w h l).filterMap (fun p => p.map (intOfBits w sg)) = (posList w h l).filterMap (fun p => p.map (readAs w sg)) := by
  refine List.filterMap_congr fun p hp => ?_
  cases p with
  | none => rfl
  | some a =>
    obtain ⟨q, hq, he⟩ := List.mem_iff_getElem.1 hp
    exact congrArg some (intOfBits_eq_readAs sg hw (posList_lt (p := q) (by rw [nth_eq_getD, getD_of_lt _ hq, he])))

/-- Position p of the running sums: the sum of the live positions up to it (R332). -/
theorem nth_scanInt (w : Nat) : ∀ (ps : List (Option Nat)) (a p : Nat), nth none (scanInt w a ps) p =
    (nth none ps p).map (fun _ => (a + ((ps.take (p + 1)).filterMap id).sum) % 2 ^ w)
  | [], _, _ => rfl
  | none :: ps, a, 0 => rfl
  | some v :: ps, a, 0 => by simp [scanInt, nth]
  | none :: ps, a, p + 1 => nth_scanInt w ps a p
  | some v :: ps, a, p + 1 => by
    refine (nth_scanInt w ps ((a + v) % 2 ^ w) p).trans ?_
    rw [List.take_succ_cons, List.filterMap_cons_some (f := id) (b := v) rfl, List.sum_cons, ← Nat.add_assoc, Nat.mod_add_mod]
    rfl

/-! ### Firings -/

section
variable {s : State} {e : Env} {x : Slot} {m : LMod} {ta tb : Target} {l : Token} (ha : SlotAt s e x ta tb)
  (hu : Ungated s e x) (hl : DataL x l)
include ha hu hl

/-- A reduction of integers sends its value in position 0 (R331). -/
theorem redLane_int {i : Instr} {k : LRed} {w : Nat} {sg : Bool} (hi : exec i s = redLane s i m ta tb k)
    (hr : readsOf i = (true, false)) (hp : takesP i = false) (hm : lmodTy m = .int w sg) :
    Fires i s e x ta tb (some (laneZero (intReduce k w sg (posList w x.hl l)).1 l.pred (intReduce k w sg (posList w x.hl l)).2))
      (some (laneZero (intReduce k w sg (posList w x.hl l)).1 l.pred (intReduce k w sg (posList w x.hl l)).2)) [] := by
  have hfire := hi.trans (onSlot_fires_one (SlotOp.plain i ta tb _ _ _) ha hu hr hp hl)
  simp only [SlotOp.plain, hm, tokIn_of_some hl.1, fireOne] at hfire
  exact hfire

/-- A reduction of floats sends its tree's result, rounded (R183, R331). -/
theorem redLane_float {i : Instr} {k : LRed} {f : Fmt} (hi : exec i s = redLane s i m ta tb k) (hr : readsOf i = (true, false))
    (hp : takesP i = false) (hm : ∀ w sg, lmodTy m ≠ .int w sg) (hf : (lmodTy m).fmt x.hl = some f) {b : Nat}
    (hb : f.encode (roundVal f e.sat8 (fltReduce k f e.sat8 (valList f x.hl l).1)).1 = b) :
    ∃ evs, Fires i s e x ta tb (some (laneZero f.width l.pred b)) (some (laneZero f.width l.pred b)) evs := by
  subst hb
  have hfire := hi.trans (onSlot_fires_one (SlotOp.plain i ta tb _ _ _) ha hu hr hp hl)
  rcases hy : lmodTy m with ⟨w, sg⟩ | _ | _
  · exact absurd hy (hm w sg)
  all_goals
    rw [hy] at hf
    simp only [SlotOp.plain, hy, hf, tokIn_of_some hl.1, fireOne] at hfire
    exact ⟨_, hfire⟩

/-- LSCAN of integers sends the running sums (R332). -/
theorem lscan_int {w : Nat} {sg : Bool} (hm : lmodTy m = .int w sg) : Fires (.lscan m ta tb) s e x ta tb
    (some (tokOf w l.pred (scanInt w 0 (posList w x.hl l)))) (some (tokOf w l.pred (scanInt w 0 (posList w x.hl l)))) [] := by
  have hfire := (show exec (.lscan m ta tb) s = execLscan m ta tb s from rfl).trans (onSlot_fires_one _ ha hu rfl rfl hl)
  simp only [SlotOp.plain, hm, tokIn_of_some hl.1, fireOne] at hfire
  exact hfire

/-- LSCAN of floats sends the running sums, rounded at each step (R332). -/
theorem lscan_float {f : Fmt} (hm : ∀ w sg, lmodTy m ≠ .int w sg) (hf : (lmodTy m).fmt x.hl = some f) :
    ∃ evs, Fires (.lscan m ta tb) s e x ta tb (some (tokOf f.width l.pred (scanFlt f e.sat8 none (valList f x.hl l).1).1))
      (some (tokOf f.width l.pred (scanFlt f e.sat8 none (valList f x.hl l).1).1)) evs := by
  have hfire := (show exec (.lscan m ta tb) s = execLscan m ta tb s from rfl).trans (onSlot_fires_one _ ha hu rfl rfl hl)
  rcases hy : lmodTy m with ⟨w, sg⟩ | _ | _
  · exact absurd hy (hm w sg)
  all_goals
    rw [hy] at hf
    simp only [SlotOp.plain, hy, hf, tokIn_of_some hl.1, fireOne] at hfire
    exact ⟨_, hfire⟩

end

/-! ### O35 -/

/-- Settles O35: the reductions by the value in position 0, LSCAN by its running sums. -/
theorem elementReductions : Obligations.ElementReductions := by
  unfold Obligations.ElementReductions
  refine fun s e x m ta tb l ha hu hl => ⟨fun w sg hm => ?ints, fun f hm hf => ⟨?trees, lscan_float ha hu hl hm hf⟩⟩
  case ints =>
    obtain ⟨_, _, hm', hw⟩ | ⟨_, _, hn⟩ := lmodTy_cases m
    · obtain ⟨rfl, rfl⟩ := ETy.int.inj (hm.symm.trans hm')
      have hi := posList_ints w sg hw.pos x.hl l
      refine ⟨⟨_, redLane_int (k := .sum) ha hu hl rfl rfl rfl hm, ?_⟩, ⟨_, redLane_int (k := .max) ha hu hl rfl rfl rfl hm, ?_⟩,
        ⟨_, redLane_int (k := .min) ha hu hl rfl rfl rfl hm, ?_⟩, ⟨_, lscan_int ha hu hl hm, ?_⟩⟩
      · rw [← hi]
        exact laneZero_positions (.inr (.inr rfl)) _ (bitsOfInt_lt 32 _)
      · rw [← hi]
        exact laneZero_positions hw _ (bitsOfInt_lt w _)
      · rw [← hi]
        exact laneZero_positions hw _ (bitsOfInt_lt w _)
      · refine positions_tokOf hw _ (fun p _ => (nth_scanInt w _ 0 p).trans (by simp only [Nat.zero_add])) fun p _ => ?_
        cases nth none (posList w x.hl l) p with
        | none => exact Nat.two_pow_pos w
        | some v => exact Nat.mod_lt _ (Nat.two_pow_pos w)
    · exact absurd hm (hn w sg)
  case trees =>
    rintro i k (hi | hi | hi) <;> cases hi <;> exact redLane_float ha hu hl rfl rfl rfl hm hf rfl

end Sys2Proof.Machine
end

section
/-! PROOF. O39: MWLD, MFEED, MDRAIN, MZERO and MWIN on the fragment (R181, R362 to R366). -/
namespace Sys2Proof.Machine
open Sys2Proof.Claims

/-! ### Numeric events leave the fabric and the cores alone (R191, R193) -/

theorem countClass_frame (d : Option Tid) (s : State) (ctx k n : Nat) (t : Tid) : EvFrame d s (countClass s ctx k n t) := by
  unfold countClass
  split
  · exact EvFrame.refl d s
  · dsimp only
    have hc := fun x => (AccFrame.setCtx d s ctx x).ev
    split
    · exact hc _
    · split
      · exact (hc _).trans (appendEvent_frame d _ _ _)
      · exact (hc _).trans (hostEvent_frame d _ _ _ _ _ _).ev

theorem countEvents_frame (d : Option Tid) (s : State) (ctx : Nat) (t : Tid) (evs : List Nat) : EvFrame d s (countEvents s ctx t evs) := by
  unfold countEvents
  split
  · exact EvFrame.refl d s
  · exact (AccFrame.setCtx d s _ _).ev.trans (EvFrame.foldl d _ (fun s k => countClass_frame d s _ k _ t) _ _)

@[simp] theorem countEvents_cores (s : State) (ctx : Nat) (t : Tid) (evs : List Nat) : (countEvents s ctx t evs).cores = s.cores :=
  (countEvents_frame none s ctx t evs).cores rfl

@[simp] theorem getFrag_countEvents (s : State) (ctx : Nat) (t : Tid) (evs : List Nat) (u : Tid) :
    getFrag (countEvents s ctx t evs) u = getFrag s u := by
  rw [getFrag, (countEvents_frame none s ctx t evs).fab, getFrag]

/-! ### Firings of a matrix slot (R214, R216, R360) -/

section
variable {s : State} {e : Env} {x : Slot} {ta tb : Target} {l : Token} {i : Instr} {accepts : Option (Pos → Hdr → Bool)}
  {fire off poison : Env → State → Slot → State} {mark : Env → State → Slot → TokKind → State}
  (hr : readsOf i = (true, false)) (hp : takesP i = false)
include hr hp

/-- A matrix slot with data fires where the fragment is free and tiles are left. -/
theorem onSlot_matrix {onPermit : Bool} (h : MatrixAt s e x ta tb l) :
    onSlot s (matrixOp i ta tb accepts onPermit fire off poison mark) = .next (fire e s x) := by
  obtain ⟨ha, hu, hl, hf, ht⟩ := h
  exact (onSlot_fires_one (matrixOp i ta tb accepts onPermit fire off poison mark) ha hu hr hp hl).trans
    (congrArg _ (if_pos (by simp [hf, tileLeft, ht])))

/-- A matrix slot that takes permits fires with one as with data (R364, R365). -/
theorem onSlot_matrix_trigger (ha : SlotAt s e x ta tb) (hu : Ungated s e x) (hl : Trigger x l) (hf : fragFree s e = true)
    (ht : x.tiles < e.tcount) : onSlot s (matrixOp i ta tb accepts true fire off poison mark) = .next (fire e s x) := by
  obtain ⟨hl, hk, hg⟩ := hl
  rcases hk with hk | hk
  · exact onSlot_matrix hr hp ⟨ha, hu, ⟨hl, hk, hg⟩, hf, ht⟩
  · have hh : l.kind ≠ .header ∧ l.kind.isMark = false ∧ l.kind.isPermit = true := by
      rcases hk with hk | hk <;> rw [hk] <;> exact ⟨nofun, rfl, rfl⟩
    have ha' : SlotAt s e x (matrixOp i ta tb accepts true fire off poison mark).ta
      (matrixOp i ta tb accepts true fire off poison mark).tb := ha
    rw [hl] at hg
    rw [onSlot_classify ha' (by simp [matrixOp, headerDue, hr, hl, hh.1, hu.1]) (by simp [matrixOp, latchesFull, hr, hl, hp, hu.2])]
    simp [matrixOp, classify, kindsRead, hr, hl, hh.2.1, hh.2.2, dataFire, gateOf, hu.1, hp, hg, hf, tileLeft, ht]

/-- A marker at a matrix slot whose fragment is free (R215, R360). -/
theorem onSlot_matrix_mark {onPermit : Bool} {k : TokKind} (ha : SlotAt s e x ta tb) (hu : Ungated s e x) (hl : x.l = some l)
    (hk : l.kind = k) (hm : k.isMark = true) (hf : fragFree s e = true) :
    onSlot s (matrixOp i ta tb accepts onPermit fire off poison mark) = .next (mark e s x k) :=
  (onSlot_mark (op := matrixOp i ta tb accepts onPermit fire off poison mark) ha hu (congrArg Prod.fst hr) hp
    ⟨hm, ⟨l, hl, hk⟩, fun h => absurd ((congrArg Prod.snd hr).symm.trans h) Bool.false_ne_true⟩).trans (congrArg _ (if_pos hf))

end

/-! ### Rows of C (R181, R363) -/

/-- Places set one after another from b on. -/
theorem getD_foldl_set {α : Type} (b : Nat) (g : Nat → α) (d : α) (c : SMap α) (k j : Nat) :
    ((List.range k).foldl (fun c n => c.set (b + n) (g n)) c).getD j d =
      if b ≤ j ∧ j < b + k then g (j - b) else c.getD j d := by
  induction k with
  | zero => rw [if_neg (by omega)]; rfl
  | succ k ih =>
    rw [List.range_succ, List.foldl_append, List.foldl_cons, List.foldl_nil, SMap.getD_set, ih]
    by_cases hj : j = b + k
    · subst hj
      rw [if_pos rfl, if_pos (by omega), Nat.add_sub_cancel_left]
    · rw [if_neg hj]
      exact if_congr (by omega) rfl rfl

/-- Columns that a pass writes (R362). -/
def passCols (w : WTile) : Nat := if isB8 w.fmt then 32 else 16

/-- C after a pass. -/
theorem passRow_c (f : Frag) (w : WTile) (row : List (Option Val)) (j : Nat) : (passRow f w row).1.c.getD j 0 =
    if f.m * 32 ≤ j ∧ j < f.m * 32 + passCols w then
      (passCell row (w.col (j - f.m * 32)) (f.c.getD (f.m * 32 + (j - f.m * 32)) 0)).1
    else f.c.getD j 0 := by
  have hc : (passRow f w row).1.c = (List.range (passCols w)).foldl (fun c n => c.set (f.m * 32 + n)
      (passCell row (w.col n) (f.c.getD (f.m * 32 + n) 0)).1) f.c := by
    simp only [passRow, passCols, List.foldl_map]
  rw [hc]
  exact getD_foldl_set (f.m * 32) (fun n => (passCell row (w.col n) (f.c.getD (f.m * 32 + n) 0)).1) 0 f.c (passCols w) j

/-- A pass leaves the active buffer, and moves on to the next row. -/
theorem passRow_m (f : Frag) (w : WTile) (row : List (Option Val)) :
    (passRow f w row).1.m = f.m + 1 ∧ (passRow f w row).1.active = f.active := ⟨rfl, rfl⟩

/-! ### MWLD (R362) -/

section
variable {s : State} {e : Env} {x : Slot} {ta tb : Target} {l : Token} {h : Hdr} {w : WTile}

/-- The state in which MWLD has put a token's two rows into the back buffer. -/
def mwldRows (s : State) (e : Env) (w : WTile) (h : Hdr) (l : Token) : State :=
  setFrag s e.t { getFrag s e.t with back := { w with rows := w.rows ++ tokenRows h l } }

/-- The slot has one more of the tile's tokens; with the last one the buffer is made ready. -/
def mwldAfter (s : State) (e : Env) (x : Slot) (ta tb : Target) (w : WTile) (h : Hdr) (l : Token) : State :=
  if x.cnt + 1 = tileTokens w.fmt then
    mwldDone e (mwldRows s e w h l) { x.consume (.mwld ta tb) with cnt := x.cnt + 1 } ta tb
  else setSlot (mwldRows s e w h l) e.t e.n { x.consume (.mwld ta tb) with cnt := x.cnt + 1 }

theorem mwldToken_rows (hb : (getFrag s e.t).backReady = false)
    (hw : w = if x.cnt = 0 then ⟨h.fmt, [], false⟩ else (getFrag s e.t).back) :
    mwldToken (.mwld ta tb) ta tb e s x h.fmt (tokenRows h l) false = mwldAfter s e x ta tb w h l := by
  subst hw
  unfold mwldToken
  dsimp only
  rw [if_neg (by simp [hb])]
  simp only [Bool.or_false]
  rfl

/-- MWLD puts a token's two rows into the back buffer; the tile's last one makes it ready. -/
theorem exec_mwld (hm : MatrixAt s e x ta tb l) (hh : x.hl = some h) (hb : (getFrag s e.t).backReady = false)
    (hw : w = if x.cnt = 0 then ⟨h.fmt, [], false⟩ else (getFrag s e.t).back) :
    exec (.mwld ta tb) s = .next (countEvents (mwldAfter s e x ta tb w h l) e.ctx e.t (tokenEvents h l)) := by
  refine (show _ = execMwld ta tb s from rfl).trans ((onSlot_matrix rfl rfl hm).trans (congrArg _ ?_))
  obtain ⟨-, -, hl, -⟩ := hm
  simp only [hh, tokIn_of_some hl.1]
  rw [if_neg (by simp [hb]), mwldToken_rows hb hw]

/-! ### MFEED (R363) -/

/-- The fragment as a token's first row finds it: the first row of a tile swaps a ready tile in (R363). -/
def mfeedSwap (x : Slot) (f : Frag) : Frag :=
  if x.cnt / 2 % 2 = 0 ∧ f.backReady = true then
    { f with active := some f.back, back := f.active.getD WTile.reset, backReady := false }
  else f

/-- A row that is not all masked passes, its fragment below 32 rows. -/
theorem mfeedRows_pass {i : Instr} {decoded : Bool} {g : Nat → Frag → Frag × List Nat} {skip : Nat → Bool} {r : Nat} {rs : List Nat}
    {f : Frag} {k : Nat} (hs : skip r = false) (hf : mfeedSwap x (getFrag s e.t) = f) (hm : f.m ≠ 32)
    (hk : 3 + x.cnt / 4 * 4 = k) :
    mfeedRows i e decoded g skip (r :: rs) s x = mfeedRows i e decoded g skip rs
      (countEvents (setFrag s e.t (g r f).1) e.ctx e.t (g r f).2) { x with cnt := k } := by
  subst hf hk
  simp only [mfeedRows, hs, Bool.false_eq_true, if_false]
  exact if_neg hm

/-- A 33rd row holds the slot (R363, R415). -/
theorem mfeedRows_hold {i : Instr} {decoded : Bool} {g : Nat → Frag → Frag × List Nat} {skip : Nat → Bool} {r : Nat} {rs : List Nat}
    {f : Frag} (hs : skip r = false) (hf : mfeedSwap x (getFrag s e.t) = f) (hm : f.m = 32) :
    mfeedRows i e decoded g skip (r :: rs) s x = holdSlot (setFrag s e.t f) e
      { x with cnt := 3 + 4 * r + (3 + x.cnt / 4 * 4) / 8 * 8 } Cause.mshape 0 (BitVec.allOnes 16) false := by
  subst hf
  simp only [mfeedRows, hs, Bool.false_eq_true, if_false]
  exact if_pos hm

theorem holdAccess_cause (s : State) (ctx lid : Nat) (t : Tid) (ukind unit : Nat) (c : Cause) (va : Word) (ia : Nat) (write : Bool)
    (mask : BitVec 16) (data : Payload) : (holdAccess s ctx lid t ukind unit c va ia write mask data).1.cause = c := by
  rw [holdAccess]
  split <;> rfl

/-- A slot that a fault holds: its tokens stay, and the access is held with its cause (R415). -/
theorem holdSlot_slot (s : State) (e : Env) (x : Slot) (c : Cause) (va : Word) (mask : BitVec 16) (write : Bool) :
    (getSlot (holdSlot s e x c va mask write) e.t e.n).l = x.l ∧
      ∃ y, (getSlot (holdSlot s e x c va mask write) e.t e.n).held = some y ∧ y.cause = c := by
  rw [holdSlot, getSlot_setSlot]
  exact ⟨rfl, _, rfl, holdAccess_cause _ _ _ _ _ _ _ _ _ _ _ _⟩

/-- What MFEED makes of a row of a token: it passes through the active buffer. -/
def mfeedPass (h : Hdr) (l : Token) (r : Nat) (f : Frag) : Frag × List Nat :=
  passRow f (f.active.getD WTile.reset) (nth [] (tokenRows h l) r)

/-- The marks that MFEED sets at a token's start leave the swap as it is due. -/
theorem mfeedSwap_start {f : Frag} {evs : List Nat} (hc : x.cnt = 0 ∨ x.cnt = 3) (hf : mfeedSwap x (getFrag s e.t) = f) :
    mfeedSwap { x with cnt := x.cnt % 8 / 2 * 2 + 9 } (getFrag (countEvents s e.ctx e.t evs) e.t) = f := by
  rw [getFrag_countEvents, ← hf, mfeedSwap, mfeedSwap]
  rcases hc with hc | hc <;> simp [hc]

/-- A token's rows at the start of MFEED, with the events of its scales counted (R363). -/
theorem exec_mfeed (hm : MatrixAt s e x ta tb l) (hh : x.hl = some h) (hc : x.cnt = 0 ∨ x.cnt = 3)
    (hw : (mfeedSwap x (getFrag s e.t)).active = some w) (hk : sameClass w h = true) :
    exec (.mfeed ta tb) s = .next (mfeedRows (.mfeed ta tb) e true (mfeedPass h l)
      (fun r => (nth [] (tokenRows h l) r).all Option.isNone) [0, 1] (countEvents s e.ctx e.t (tokenEvents h l))
      { x with cnt := x.cnt % 8 / 2 * 2 + 9 }) := by
  refine (show _ = execMfeed ta tb s from rfl).trans ((onSlot_matrix rfl rfl hm).trans (congrArg _ ?_))
  obtain ⟨-, -, hl, -⟩ := hm
  have hn : (if x.cnt / 2 % 2 = 0 ∧ (getFrag s e.t).backReady = true then some (getFrag s e.t).back else (getFrag s e.t).active) =
      some w := by
    rw [mfeedSwap] at hw
    by_cases hs : x.cnt / 2 % 2 = 0 ∧ (getFrag s e.t).backReady = true
    · rw [if_pos hs] at hw ⊢
      exact hw
    · rw [if_neg hs] at hw ⊢
      exact hw
  have hd : mfeedDue x = [0, 1] ∧ x.cnt / 8 % 2 = 0 := by
    rcases hc with hc | hc <;> simp [mfeedDue, hc]
  simp only [mfeedFire, hn, hh, hk, hd.1, hd.2, tokIn_of_some hl.1, Bool.not_true, Bool.false_eq_true, if_false, if_true]
  rfl

/-- The rows of a token that MFEED finds with room for both: each passes, and the token is consumed. -/
theorem mfeed_passes {f : Frag} (hm : MatrixAt s e x ta tb l) (hh : x.hl = some h) (hc : x.cnt = 0 ∨ x.cnt = 3)
    (hf : mfeedSwap x (getFrag s e.t) = f) (hw : f.active = some w) (hk : sameClass w h = true) (h31 : f.m < 31)
    (h0 : (nth [] (tokenRows h l) 0).all Option.isNone = false) (h1 : (nth [] (tokenRows h l) 1).all Option.isNone = false) :
    Answers (.mfeed ta tb) s (fun s' => s'.cores = s.cores ∧ (getSlot s' e.t e.n).l = none ∧ (getSlot s' e.t e.n).cnt = 3 ∧
      getFrag s' e.t = (passRow (passRow f w (nth [] (tokenRows h l) 0)).1 w (nth [] (tokenRows h l) 1)).1) := by
  have hx := exec_mfeed hm hh hc (hf ▸ hw) hk
  have hp0 : mfeedPass h l 0 f = passRow f w (nth [] (tokenRows h l) 0) := by rw [mfeedPass, hw]; rfl
  have hp1 : mfeedPass h l 1 (mfeedPass h l 0 f).1 =
      passRow (passRow f w (nth [] (tokenRows h l) 0)).1 w (nth [] (tokenRows h l) 1) := by
    rw [hp0, mfeedPass, (passRow_m _ _ _).2, hw]; rfl
  have hfirst : 3 + (x.cnt % 8 / 2 * 2 + 9) / 4 * 4 = 11 := by rcases hc with hc | hc <;> rw [hc]
  have hsecond (s1 : State) (evs : List Nat) (g : Frag) :
      mfeedSwap { x with cnt := 11 } (getFrag (countEvents (setFrag s1 e.t g) e.ctx e.t evs) e.t) = g := by
    rw [getFrag_countEvents, getFrag_setFrag]
    exact if_neg fun hs => absurd hs.1 (by decide : ¬11 / 2 % 2 = 0)
  have h2 : (mfeedPass h l 0 f).1.m ≠ 32 := by rw [hp0, (passRow_m _ _ _).1]; omega
  rw [mfeedRows_pass h0 (mfeedSwap_start hc hf) (by omega) hfirst,
    mfeedRows_pass (k := 11) h1 (hsecond _ _ _) h2 (rfl : 3 + 11 / 4 * 4 = 11), hp1] at hx
  refine ⟨_, hx, ?_, ?_, ?_, ?_⟩
  · simp only [mfeedRows, setSlot_cores, countEvents_cores, setFrag_cores]
  · rw [mfeedRows, getSlot_setSlot]; rfl
  · rw [mfeedRows, getSlot_setSlot]
    exact (rfl : 11 % 4 = 3)
  · rw [mfeedRows, getFrag_setSlot, getFrag_countEvents, getFrag_setFrag]

/-- A token whose first row is a tile's 33rd: the slot is held (R363, R415). -/
theorem mfeed_holds {f : Frag} (hm : MatrixAt s e x ta tb l) (hh : x.hl = some h) (hc : x.cnt = 0 ∨ x.cnt = 3)
    (hf : mfeedSwap x (getFrag s e.t) = f) (hw : f.active = some w) (hk : sameClass w h = true) (h32 : f.m = 32)
    (h0 : (nth [] (tokenRows h l) 0).all Option.isNone = false) : Answers (.mfeed ta tb) s (fun s' =>
      (getSlot s' e.t e.n).l = some l ∧ ∃ y, (getSlot s' e.t e.n).held = some y ∧ y.cause = Cause.mshape) := by
  have hx := exec_mfeed hm hh hc (hf ▸ hw) hk
  rw [mfeedRows_hold h0 (mfeedSwap_start hc hf) h32] at hx
  obtain ⟨-, -, hl, -⟩ := hm
  exact ⟨_, hx, (holdSlot_slot _ _ _ _ _ _ _).1.trans hl.1, (holdSlot_slot _ _ _ _ _ _ _).2⟩

end

/-! ### MDRAIN, MZERO and MWIN (R364 to R366) -/

section
variable {s : State} {e : Env} {x : Slot} {ta tb : Target} {l : Token}

/-- Tokens to a row of C in the drain's format. -/
theorem drainFmt_per (c : Nat) : 32 * (drainFmt c).1.width / 512 = if c / 2 % 4 = 0 then 2 else 1 := by
  unfold drainFmt
  split
  case h_1 h => rw [if_pos h]; rfl
  case h_2 h => rw [if_neg (by omega)]; rfl
  case h_3 h _ => rw [if_neg h]; rfl

/-- A step of a drain: its token, and with the last one the slot goes on and C is cleared where the constant says so (R364). -/
theorem drainStep_token {i : Instr} {per : Nat} {tok : Token} {evs : List Nat}
    (hper : per = if x.const.toNat / 2 % 4 = 0 then 2 else 1)
    (ht : (x.sub = 0 ∧ tok = rewritten (drainFmt x.const.toNat).2 (32 * (getFrag s e.t).maxM) ∧ evs = []) ∨
      (0 < x.sub ∧ (tok, evs) = drainToken (getFrag s e.t) (drainFmt x.const.toNat).1 ((x.sub - 1) / per) ((x.sub - 1) % per))) :
    drainStep i ta tb e s x = if x.sub = per * (getFrag s e.t).maxM then
        countEvents (emit (if x.const.getLsbD 0 then setFrag s e.t (getFrag s e.t).clear else s) e
          { x.consume i with tiles := x.tiles + 1 } ta tb (some tok) (some tok)) e.ctx e.t evs
      else countEvents (emit s e { x with sub := x.sub + 1 } ta tb (some tok) (some tok)) e.ctx e.t evs := by
  have hr : (if x.sub = 0 then (rewritten (drainFmt x.const.toNat).2 (32 * (getFrag s e.t).maxM), [])
      else drainToken (getFrag s e.t) (drainFmt x.const.toNat).1 ((x.sub - 1) / per) ((x.sub - 1) % per)) = (tok, evs) := by
    obtain ⟨h0, rfl, rfl⟩ | ⟨h0, h⟩ := ht
    · exact if_pos h0
    · rw [h]
      exact if_neg (Nat.ne_of_gt h0)
  rw [← drainFmt_per] at hper
  subst hper
  simp only [drainStep, hr]

/-- MWIN whose section runs and that has not yet fired sets the window (R366). -/
theorem exec_mwin (he : envOf s s.focus.1 s.focus.2 = some e) (hx : getSlot s e.t e.n = x) (hn : x.ended = false)
    (hs : e.atStop x.edge = false) (hp : x.p = none) (hb : pBound s e.t e.n = false) : exec .mwin s = .next (setSlot
      (setFrag s e.t { getFrag s e.t with la := x.const.toNat % 4, ls := x.const.toNat / 4 % 4 }) e.t e.n
      { x.consume .mwin with ended := true }) := by
  refine (show _ = execMwin s from rfl).trans ?_
  simp only [execMwin, he, hx, hn, hs, hb, gateOf, hp, Bool.false_and, Bool.or_self, Bool.false_eq_true, if_false]

end

/-! ### O39 -/

/-- Settles O39: each form by its slot's turn, a pass by the row of C that it writes. -/
theorem matrixForms : Obligations.MatrixForms := by
  unfold Obligations.MatrixForms
  refine fun s e x ta tb l => ⟨fun h w n hm hh hb hw hn => ?mwld, fun h w f hm hh hc hf hw hk h0 => ?mfeed,
    fun k ha hu hl hk hm hr hc hf => ?close, fun ha hu hl hf ht => ⟨fun per tok evs hper htok => ?mdrain, ?mzero⟩,
    fun he hx hn hs hp hb => ?mwin, fun f w row n hm hn => ?pass⟩
  case mwld =>
    subst hn
    have hx := exec_mwld hm hh hb hw
    rw [mwldAfter] at hx
    refine ⟨fun hc => ?_, fun hc => ?_⟩
    · rw [if_neg (show ¬x.cnt + 1 = tileTokens w.fmt from hc)] at hx
      refine ⟨_, hx, rfl, rfl, ?_, ?_, ?_⟩
      · rw [getFrag_setSlot, mwldRows, getFrag_setFrag]
      · rw [getSlot_setSlot]
        rfl
      · rw [getSlot_setSlot]
    · rw [if_pos (show x.cnt + 1 = tileTokens w.fmt from hc), mwldDone] at hx
      refine ⟨_, _, hx, rfl, rfl, rfl, rfl, rfl, ?_⟩
      rw [getFrag_setFrag, mwldRows, getFrag_setFrag]
  case mfeed =>
    have hfs : mfeedSwap x (getFrag s e.t) = f := by
      rw [hf, mfeedSwap]
      rcases hc with hc | hc <;> simp [hc]
    exact ⟨fun h31 h1 => mfeed_passes hm hh hc hfs hw hk h31 h0 h1, fun h32 => mfeed_holds hm hh hc hfs hw hk h32 h0⟩
  case close =>
    exact (show _ = execMfeed ta tb s from rfl).trans ((onSlot_matrix_mark rfl rfl ha hu hl hk hm hf).trans
      (congrArg _ (if_pos ⟨by simp [mfeedOpen, hc], hr⟩)))
  case mdrain =>
    have hx := (show exec (.mdrain ta tb) s = execMdrain ta tb s from rfl).trans (onSlot_matrix_trigger rfl rfl ha hu hl hf ht)
    rw [drainStep_token hper htok] at hx
    exact ⟨fun h => hx.trans (congrArg _ (if_neg (Nat.ne_of_lt h))), fun h => hx.trans (congrArg _ (if_pos h))⟩
  case mzero => exact (show _ = execMzero ta tb s from rfl).trans (onSlot_matrix_trigger rfl rfl ha hu hl hf ht)
  case mwin =>
    refine ⟨_, exec_mwin he hx hn hs hp hb, rfl, rfl, ?_, ?_⟩
    · rw [getSlot_setSlot]
    · rw [getFrag_setSlot, getFrag_setFrag]
  case pass =>
    have hcols : passCols w ≤ 32 := by rw [passCols]; split <;> omega
    refine ⟨?_, rfl, fun j hj => ?_⟩
    · rw [passRow_c, if_pos ⟨by omega, Nat.add_lt_add_left hn _⟩, Nat.add_sub_cancel_left]
    · rw [passRow_c, if_neg (by omega)]

end Sys2Proof.Machine
end

section
/-! PROOF. O46: the copy of a moved page's lines (R54): what it leaves where the storage is in the canonical form that every step keeps
(O60), and a storage out of that form in which a line is not copied. -/
namespace Sys2Proof.Machine
open Sys2Proof.Claims

/-! ### Bytes written by the E7 -/

/-- Bytes of lines without a line entry go to the array. -/
theorem physPut_mem : ∀ (bs : List Byte) (s : State) (k : Nat), (∀ i < bs.length, s.st.lineQ.get? ((k + i) / 128) = none) →
    (physPut s k bs).st.mem = cellsSet s.st.mem k bs
  | [], _, _, _ => rfl
  | b :: bs, s, k, h => by
    have h0 : physSet s k b = { s with st := { s.st with mem := cellSet s.st.mem k b } } := by
      rw [physSet, show s.st.lineQ.get? (k / 128) = none from h 0 (Nat.succ_pos _)]
    rw [physPut, h0, cellsSet]
    refine physPut_mem bs _ (k + 1) fun i hi => ?_
    rw [Nat.add_assoc, Nat.add_comm 1 i]
    exact h (i + 1) (Nat.succ_lt_succ hi)

/-- A checkpoint copies a frame to its place without a change of the module's memory or its line entries. -/
theorem copyFrame_mem_lineQ (s : State) (c : Ckpt) (f : Nat) :
    (copyFrame s c f).st.mem = s.st.mem ∧ (copyFrame s c f).st.lineQ = s.st.lineQ := by
  unfold copyFrame
  dsimp only
  generalize (if f = c.copied then _ else _) = c'
  split <;> exact ⟨rfl, rfl⟩

theorem ckptTouch_mem_lineQ (s : State) (k : Nat) : (ckptTouch s k).st.mem = s.st.mem ∧ (ckptTouch s k).st.lineQ = s.st.lineQ := by
  unfold ckptTouch
  split
  · exact ⟨rfl, rfl⟩
  · split
    · exact copyFrame_mem_lineQ _ _ _
    · exact ⟨rfl, rfl⟩

/-- A line's bytes, from its first on, where it has no line entry. -/
theorem putLine_mem (s : State) {k tag : Nat} {bs : List Byte} (hk : k % 128 = 0) (hb : bs.length = 128)
    (hq : s.st.lineQ.get? (k / 128) = none) : (putLine s k tag bs).st.mem = cellsSet s.st.mem k bs := by
  rw [putLine, physSets]
  obtain ⟨hm, hl⟩ := ckptTouch_mem_lineQ { s with st := { s.st with
    lineBad := s.st.lineBad.filter (· != k / 128), lineKey := s.st.lineKey.set (k / 128) tag } } k
  rw [physPut_mem, hm]
  intro i hi
  rw [hl, show (k + i) / 128 = k / 128 by omega]
  exact hq

/-! ### TIER_MOVE of a move under way (R54) -/

/-- A line's value is read without a change but of the free values drawn. -/
theorem lineValue_state (s : State) (line tag : Nat) : ∃ n, (lineValue s line tag).2 = { s with free := n } := by
  unfold lineValue
  split
  · exact ⟨s.free, rfl⟩
  · split
    · exact ⟨s.free, rfl⟩
    · exact ⟨_, rfl⟩

/-- The move of a page, replaced. -/
theorem moveOf_setMove {s : State} {page : Nat} {m m' : Move} (hm : moveOf s page = some m) (hp : m'.page = m.page) :
    moveOf (setMove s m') page = some m' := by
  have hpage : m.page = page := by simpa using List.find?_some hm
  unfold moveOf at hm ⊢
  simp only [setMove]
  generalize s.xl.moves = l at hm ⊢
  induction l with
  | nil => cases hm
  | cons x l ih =>
    rw [List.map_cons, List.find?_cons]
    rw [List.find?_cons] at hm
    by_cases hx : x.page = page
    · simp [hp, hpage, hx]
    · have hx' : (x.page == page) = false := by simpa using hx
      rw [hx'] at hm
      rw [if_neg (by rw [hp, hpage]; exact hx), hx']
      exact ih hm

section
variable {s : State} {m : Move} (hm : moveOf s (s.op 0) = some m) (hc : m.copied < 512) (ht : m.oldTier < 2) (hn : m.toNode = none)
  (hb : lineIsBad s (localKey m.oldTier (m.oldFrame * 65536 + m.copied * 128) / 128) = false)
include hm hc ht hn hb

/-- A move whose next line reads well stores it at its new place. -/
theorem exec_tierMove_copies {v : List Byte × State}
    (hv : v = lineValue s (localKey m.oldTier (m.oldFrame * 65536 + m.copied * 128) / 128) (pageTag s m.page)) :
    exec .tierMove s = .next (setMove (putLine v.2 (localKey m.newTier (m.newFrame * 65536 + m.copied * 128)) (pageTag s m.page) v.1)
      { m with copied := m.copied + 1 }) := by
  subst hv
  show execTierMove s = _
  simp only [execTierMove, hm, hc, if_true, copyLine, Nat.ne_of_lt ht, hb, hn, Option.isSome_none, Bool.false_and, Bool.false_eq_true,
    if_false]

/-- What O46's clause of the copy says, where the storage is in canonical form: the premise that it lacks. -/
theorem tierMove_copies_of_canonical (hs : s.st.Canonical)
    (hq : s.st.lineQ.get? (localKey m.newTier (m.newFrame * 65536 + m.copied * 128) / 128) = none)
    (hl : (lineValue s (localKey m.oldTier (m.oldFrame * 65536 + m.copied * 128) / 128) (pageTag s m.page)).1.length = 128) :
    Answers .tierMove s (fun s' => moveOf s' (s.op 0) = some { m with copied := m.copied + 1 } ∧ s'.cores = s.cores ∧ s'.tl = s.tl ∧
      cellsGet s'.st.mem (localKey m.newTier (m.newFrame * 65536 + m.copied * 128)) 128 =
        (lineValue s (localKey m.oldTier (m.oldFrame * 65536 + m.copied * 128) / 128) (pageTag s m.page)).1) := by
  have hk : localKey m.newTier (m.newFrame * 65536 + m.copied * 128) % 128 = 0 := by rw [localKey]; omega
  refine ⟨_, exec_tierMove_copies hm hc ht hn hb rfl, ?_⟩
  obtain ⟨n, hv⟩ := lineValue_state s (localKey m.oldTier (m.oldFrame * 65536 + m.copied * 128) / 128) (pageTag s m.page)
  rw [hv]
  have hx : (putLine { s with free := n } (localKey m.newTier (m.newFrame * 65536 + m.copied * 128)) (pageTag s m.page)
      (lineValue s (localKey m.oldTier (m.oldFrame * 65536 + m.copied * 128) / 128) (pageTag s m.page)).1).xl = s.xl := by
    rw [putLine, physSets_xl]
  refine ⟨moveOf_setMove (m := m) (by rw [moveOf, hx]; exact hm) rfl, ?_, ?_, ?_⟩
  · exact (physSets_cores _ _ _).trans rfl
  · exact (physSets_tl _ _ _).trans rfl
  · rw [setMove_st, putLine_mem { s with free := n } hk hl hq]
    have hget := cellsGet_cellsSet_self s.st.mem (localKey m.newTier (m.newFrame * 65536 + m.copied * 128))
      (lineValue s (localKey m.oldTier (m.oldFrame * 65536 + m.copied * 128) / 128) (pageTag s m.page)).1 hs.1
    rwa [hl] at hget

end

/-! ### O46 -/

/-- A page that moves from frame 0 to frame 1, its first line due; a byte 7 of its new place stands behind a cell of a higher address:
out of order. -/
def disorderedMove : State :=
  { State.reset with
    st := { State.reset.st with mem := [(2 ^ 20, 1), (2 ^ 16, 7)] }
    xl := { State.reset.xl with moves := [⟨0, 1, 0, 0, 0, none, 0⟩] } }

/-- The line's value: its bytes in the array, all 0. -/
theorem lineValue_disorderedMove : lineValue disorderedMove 0 0 = (List.replicate 128 0, disorderedMove) := by
  rw [lineValue]
  exact congrArg (·, disorderedMove) (by rfl)

/-- Zero bytes that end before the first cell are not listed. -/
theorem cellsSet_zeros (c : Host.Cell) (m : List Host.Cell) :
    ∀ n a : Nat, a + n ≤ c.1 → cellsSet (c :: m) a (List.replicate n 0) = c :: m
  | 0, _, _ => rfl
  | n + 1, a, h => by
    rw [List.replicate_succ, cellsSet, cellSet, if_pos (show a < c.1 by omega), if_pos rfl]
    exact cellsSet_zeros c m n (a + 1) (by omega)

/-- To store the line changes nothing: every byte of it is 0 and comes before the first cell. -/
theorem putLine_disorderedMove : (putLine disorderedMove (localKey 0 65536) 0 (List.replicate 128 0)).st.mem = disorderedMove.st.mem :=
  (putLine_mem _ rfl List.length_replicate rfl).trans (cellsSet_zeros _ _ _ _ (by decide))

/-- Refutes O46: its clause of the copy speaks of every state, of those too whose storage is out of canonical form. In
`disorderedMove` the line's byte 0 is not written over the cell that holds 7. -/
theorem not_residencyEvents : ¬ Obligations.ResidencyEvents := by
  unfold Obligations.ResidencyEvents
  intro h
  obtain ⟨-, -, -, -, -, hcopy, -⟩ := h disorderedMove
  obtain ⟨s', he, -, -, -, hv⟩ := hcopy ⟨0, 1, 0, 0, 0, none, 0⟩ rfl (by decide) (by decide) rfl rfl rfl
    (congrArg (·.1.length) lineValue_disorderedMove)
  rw [exec_tierMove_copies (m := ⟨0, 1, 0, 0, 0, none, 0⟩) rfl (by decide) (by decide) rfl rfl (Eq.symm lineValue_disorderedMove)] at he
  obtain rfl := Host.Outcome.next.inj he
  have hval : (lineValue disorderedMove (localKey 0 0 / 128) 0).1 = List.replicate 128 0 :=
    congrArg Prod.fst lineValue_disorderedMove
  have htag : pageTag disorderedMove 0 = 0 := rfl
  rw [setMove_st] at hv
  dsimp only [Nat.reduceMul, Nat.reduceAdd] at hv
  rw [htag, putLine_disorderedMove, hval] at hv
  exact absurd (congrArg (nth 0 · 0) hv) (by decide)

end Sys2Proof.Machine
end
